-- ==== Sys2Proof/Word.lean ====
section
/-! DEFINITION. Words of the device: the widths that the spec gives its data paths (R1 to R12), and the plainest
arithmetic over them. -/

namespace Sys2Proof

/-- [32] a register word and a sequencer payload (R9, R72). -/
abbrev Word := BitVec 32

/-- [64] a double word: an f register, a sequencer instruction, a 64-bit register (R9, R76). -/
abbrev DWord := BitVec 64

/-- [8] one byte. -/
abbrev Byte := BitVec 8

/-- [1024] a course of the tile store, 128 B, byte 0 in the low bits (R10, R40). -/
abbrev Course := BitVec 1024

/-- A 32-bit counter that saturates at 0xFFFF_FFFF (R12): `n` more events. -/
def satAdd32 (x : Word) (n : Nat) : Word :=
  if x.toNat + n ≥ 2 ^ 32 then 0xFFFFFFFF#32 else BitVec.ofNat 32 (x.toNat + n)

end Sys2Proof
end

