-- ==== Sys2Proof/Syntax.lean ====
section
/-! DEFINITION. The commands of the device as data: one constructor per row of the spec's table.  Operands say who
sends a command, which unit it acts on, and what the world outside the model supplies at that moment. -/

namespace Sys2Proof

/-- Who makes a register or memory access: the host over PCIe, the quoin, or a tile's own sequencer (R8, R26). -/
inductive Who where
  | host | quoin | tile (n : Nat)
  deriving DecidableEq, Repr

/-- A sequencer instruction on core `core` (0 to 15 a tile's, 16 the quoin's): the three 19-bit operand fields
(R80, R89), the held cycles that its group meets and its stall cycles for room in the store buffer (R121), and how many of them
were lost to bank arbitration (R47, R50). The stall cycles of a partial overlap (R134) are computed, and SEQ_FETCH carries the
fetch-starved ones. -/
structure SeqOps where
  core : Nat
  a : BitVec 19
  b : BitVec 19
  c : BitVec 19
  held : Nat
  lost : Nat
  deriving DecidableEq, Repr

/-- What fences a tile (R530): FENCE_TILE written to DEV_FLT_CMD, or a failed internal check of the tile. -/
inductive FenceCause where
  | command (who : Who) | hardware
  deriving DecidableEq, Repr

/-- What comes with an ASSIGN beside its bits (R463, R464): whether it is one that this head sent, whether the chain holds a
device at the partner's address, and the TWIN_ROLE strap of that device. -/
structure AssignMark where
  mine : Bool
  partner : Bool
  strap : Bool
  deriving DecidableEq, Repr

/-- A LOOP frame, and with SUB 1 the R that the head has formed, which every device writes and the frame does not carry (R467). -/
structure LoopFrame where
  frame : BitVec 64
  r : BitVec 16
  deriving DecidableEq, Repr

/-- The level registers of the interrupt controllers (R435): IC_QLEVEL[w], and IC_TLEVEL[n] whole or by halves. -/
inductive IcLevel where
  | quoin (w : Nat) | tile (n : Nat) | tileLow (n : Nat) | tileHigh (n : Nat)
  deriving DecidableEq, Repr


/-- Cycles for which an engine of a step was held before the event, by the sources 0 to 6 of R320: what the world
outside the model (arbitration, clock phases, links) supplies. -/
structure Held where
  bank : Nat
  ecc : Nat
  jitter : Nat
  link : Nat
  wait : Nat
  hod : Nat
  cal : Nat
  deriving DecidableEq, Repr

/-- What SECDED finds when a line of the stream cache is looked up: nothing, an error in the line's data, corrected or
uncorrectable, or such an error in the tag of a way of the line's set (R343, R344). -/
inductive LineEcc where
  | clean | dataCe | dataUe | tagCe (way : Nat) | tagUe (way : Nat)
  deriving DecidableEq, Repr

/-- What the check code of a DDR5 channel finds in one line read (R355): how many beats are corrected and how many
uncorrectable, and of the first case whether it is an uncorrectable one, its subchannel and its beat. -/
structure BeatErr where
  ce : Nat
  ue : Nat
  firstUe : Bool
  subch : Bool
  beat : Nat
  deriving DecidableEq, Repr

/-- What the host answers to a read request of the device: data, a poisoned completion, or Unsupported Request or
Completer Abort (R381, R394). -/
inductive HostAns where
  | data (bytes : List (BitVec 8)) | poisoned | error
  deriving DecidableEq, Repr

/-- What a host write to configuration space sets (R392, R394, R395, R403, R547), or the byte offset that a read of it names (R393). -/
inductive PcieCfg where
  | busMaster (on : Bool) | memSpace (on : Bool) | msixEnable (on : Bool) | msixMask (on : Bool) | aspm (on : Bool)
  | maxPayload (bytes : Nat) | maxRead (bytes : Nat) | timeout (code : BitVec 4) | aerClear (bits : BitVec 32)
  | bar (i : Nat) (value : BitVec 32) | read (offset : Nat)
  deriving DecidableEq, Repr

/-- An access to registers: a write of bytes, or a host's read of so many bytes, of BAR0 or of BAR4 (R372, R394,
R397). -/
inductive RegAccess where
  | write (bytes : List (BitVec 8)) | read (len : Nat) | bellRead (len : Nat)
  deriving DecidableEq, Repr

/-- A course on the mesh: course `i` of those of tiles' MSEND commands, or of those that the DMA engine writes, oldest first (R284). -/
inductive MorCourse where
  | msend (i : Nat) | dma (i : Nat)
  deriving DecidableEq, Repr

/-- What a host write to a tile's memory carries: its bytes, whether it is poisoned (R394), and whether its course on the mesh shows
a parity error at the tile (R527). -/
structure HostBytes where
  bytes : List (BitVec 8)
  ep : Bool
  bad : Bool
  deriving DecidableEq, Repr

/-- What a course on the mesh met at its end: cycles of jitter at the crossing there, and cycles lost to bank arbitration where it was
written (R50, R286). -/
structure Transit where
  jitter : Nat
  lost : Nat
  deriving DecidableEq, Repr

/-- What a course that the DMA engine reads from a tile's store met: cycles of jitter at its two crossings, waits at router outputs,
cycles lost to bank arbitration, and whether it shows a parity error at the engine (R50, R286, R287, R527). -/
structure UnitMet where
  jitter : Nat
  link : Nat
  lost : Nat
  bad : Bool
  deriving DecidableEq, Repr

/-- What an access of a unit at the edge met at a tile: cycles lost to bank arbitration, and whether a course of it, or of its answer,
showed a parity error (R50, R527). -/
structure EdgeMet where
  lost : Nat
  bad : Bool
  deriving DecidableEq, Repr

/-- A host's read of a tile's local RAM: so many bytes, and whether a course of it, or of its answer, shows a parity error (R527). -/
structure LramAsk where
  len : Nat
  bad : Bool
  deriving DecidableEq, Repr

/-- The marks of an access to registers: a write is poisoned (R394); a course of an access to a tile's registers, or of its answer,
shows a parity error (R527). -/
structure AccessMark where
  ep : Bool
  bad : Bool
  deriving DecidableEq, Repr

/-- What a broadcast course met on its way to a tile: whether its crossing took a further cycle, and the cycles lost to bank
arbitration (R50, R286, R306). -/
structure Crossing where
  jitter : Bool
  lost : Nat
  deriving DecidableEq, Repr

/-- What SECDED found in the courses of hod memory that are read: how many of their words it corrected, and an uncorrectable error
(R529). -/
structure CourseEcc where
  ce : Nat
  ue : Bool
  deriving DecidableEq, Repr

/-- A lookup of a tracker's next line, and what SECDED finds in it. -/
structure StreamLook where
  tracker : Nat
  ecc : LineEcc
  deriving DecidableEq, Repr

/-- Cycles for which a stream line's consumer was held until it came, by the sources 3, 4 and 6 of R320; those of its jitter and of a
correction stand elsewhere.  And whether the line's course shows a parity error at the tile (R527). -/
structure LineWait where
  link : Nat
  wait : Nat
  cal : Nat
  bad : Bool
  deriving DecidableEq, Repr

/-- A ring whose context is looked at, and what the check code finds where that is read from DDR5 (R355). -/
structure RingLook where
  ring : Nat
  err : BeatErr
  deriving DecidableEq, Repr

/-- The step of a tile, by its priority. -/
structure StepRef where
  tile : Nat
  urgent : Bool
  deriving DecidableEq, Repr

/-- A mirror that reads its next course, and the cycles that the read lost to bank arbitration (R50, R474). -/
structure MirrorRead where
  mirror : Nat
  lost : Nat
  deriving DecidableEq, Repr

/-- What the pins show when RESET_N goes high: the straps, laid out as SEC_STRAPS, and whether the device is taken into JTAG test mode
(R438, R556). -/
structure ResetPins where
  straps : BitVec 6
  jtag : Bool
  deriving DecidableEq, Repr

/-- The tile that a cause fences, and another one for which a cause arises in the same cycle, if there is one (R538). -/
structure FencedTiles where
  tile : Nat
  also : Option Nat
  deriving DecidableEq, Repr

/-- A calibration task that falls due (R512): a gap task of a channel, the reading of the on-die sensors, or the measurement
of the monitor oscillator. -/
inductive CalDue where
  | gap (ch : Nat) | dieTemp (max min : BitVec 8) | trim
  deriving DecidableEq, Repr

/-- A calibration task that ends (R512, R515): that of a channel, with what it found (a drift above 2 %; a hot device; a RETRAIN that
fails to re-centre the channel), or
the measurement of the monitor oscillator. -/
inductive CalEnd where
  | gap (ch : Nat) (drift hot fails : Bool) | trim
  deriving DecidableEq, Repr

/-- The commands of the block: one constructor per row of the spec's table of operations and events. -/
inductive Instr where
  /-- NOP (R96): Sequencer instruction that does nothing. -/
  | nop (o : SeqOps)
  /-- MOV (R96): Copies B to A and keeps the source tag. -/
  | mov (o : SeqOps)
  /-- LDF (R96): Copies B to A with the result tagged F32. -/
  | ldf (o : SeqOps)
  /-- RETAG (R92): Writes B's payload to A with the tag given by immediate C, if the conversion is allowed. -/
  | retag (o : SeqOps)
  /-- TAGOF (R92): Writes the tag of B to A as INT. -/
  | tagof (o : SeqOps)
  /-- PUSH (R78): Stores the operand at g15 − 4 and decrements g15 by 4. -/
  | push (o : SeqOps)
  /-- POP (R78): Reads the word at g15 into A and increments g15 by 4. -/
  | pop (o : SeqOps)
  /-- FST (R75): Stores f[31:0] to memory, tagged F32 in local RAM. -/
  | fst (o : SeqOps)
  /-- ADD (R94): Adds B and C under the tag rules, wrapping. -/
  | add (o : SeqOps)
  /-- SUB (R94): Subtracts C from B under the tag rules, wrapping. -/
  | sub (o : SeqOps)
  /-- ADDS (R94): Saturating signed addition. -/
  | adds (o : SeqOps)
  /-- SUBS (R94): Saturating signed subtraction. -/
  | subs (o : SeqOps)
  /-- MUL (R94): Low half of the signed product. -/
  | mul (o : SeqOps)
  /-- MULH (R94): High half of the signed product. -/
  | mulh (o : SeqOps)
  /-- DIVS (R94): Signed division rounding toward zero; a zero divisor traps DIV0. -/
  | divs (o : SeqOps)
  /-- REMS (R94): Signed remainder with the sign of the dividend. -/
  | rems (o : SeqOps)
  /-- AND (R91): Bitwise AND of B and C. -/
  | and (o : SeqOps)
  /-- OR (R91): Bitwise OR of B and C. -/
  | or (o : SeqOps)
  /-- XOR (R91): Bitwise XOR of B and C. -/
  | xor (o : SeqOps)
  /-- ANDN (R91): B AND NOT C. -/
  | andn (o : SeqOps)
  /-- SHL (R94): Shifts B left by C modulo 32. -/
  | shl (o : SeqOps)
  /-- SHR (R94): Logical right shift of B by C modulo 32. -/
  | shr (o : SeqOps)
  /-- SAR (R94): Arithmetic right shift of B by C modulo 32. -/
  | sar (o : SeqOps)
  /-- MIN (R96): Signed minimum of B and C. -/
  | min (o : SeqOps)
  /-- MAX (R96): Signed maximum of B and C. -/
  | max (o : SeqOps)
  /-- NOT (R96): Bitwise NOT of B, or 1 − B for BOOL. -/
  | not (o : SeqOps)
  /-- NEG (R96): Wrapping negation of B. -/
  | neg (o : SeqOps)
  /-- CLZ (R96): Counts the leading zeros of B. -/
  | clz (o : SeqOps)
  /-- POPC (R96): Counts the ones in B. -/
  | popc (o : SeqOps)
  /-- CEQ (R97): Writes BOOL B = C. -/
  | ceq (o : SeqOps)
  /-- CNE (R97): Writes BOOL B ≠ C. -/
  | cne (o : SeqOps)
  /-- CLT (R97): Writes BOOL signed B < C. -/
  | clt (o : SeqOps)
  /-- CLE (R97): Writes BOOL signed B ≤ C. -/
  | cle (o : SeqOps)
  /-- CLTU (R97): Writes BOOL unsigned B < C. -/
  | cltu (o : SeqOps)
  /-- CLEU (R97): Writes BOOL unsigned B ≤ C. -/
  | cleu (o : SeqOps)
  /-- FADD (R95): F32 addition. -/
  | fadd (o : SeqOps)
  /-- FSUB (R95): F32 subtraction. -/
  | fsub (o : SeqOps)
  /-- FMUL (R95): F32 multiplication. -/
  | fmul (o : SeqOps)
  /-- FMA (R95): A ← A + B × C with one rounding. -/
  | fma (o : SeqOps)
  /-- FMIN (R95): F32 minimum; a NaN source gives the other operand. -/
  | fmin (o : SeqOps)
  /-- FMAX (R95): F32 maximum; a NaN source gives the other operand. -/
  | fmax (o : SeqOps)
  /-- FCEQ (R96): F32 equality compare; false if either operand is NaN. -/
  | fceq (o : SeqOps)
  /-- FCLT (R96): F32 less-than compare. -/
  | fclt (o : SeqOps)
  /-- FCLE (R96): F32 less-or-equal compare. -/
  | fcle (o : SeqOps)
  /-- CVTIF (R95): Converts an integer to F32. -/
  | cvtif (o : SeqOps)
  /-- CVTFI (R95): Converts F32 to an integer, saturating; NaN gives 0. -/
  | cvtfi (o : SeqOps)
  /-- FABS (R96): Clears the sign of an F32 value. -/
  | fabs (o : SeqOps)
  /-- FNEG (R96): Inverts the sign of an F32 value. -/
  | fneg (o : SeqOps)
  /-- BR (R98): Unconditional jump. -/
  | br (o : SeqOps)
  /-- BT (R98): Jumps to B if C is BOOL 1. -/
  | bt (o : SeqOps)
  /-- BF (R98): Jumps to B if C is BOOL 0. -/
  | bf (o : SeqOps)
  /-- CALL (R79): Pushes the return address onto the return stack, spilling if it is full, then jumps. -/
  | call (o : SeqOps)
  /-- RET (R79): Pops the return stack, refilling from the spill area, and jumps. -/
  | ret (o : SeqOps)
  /-- RETI (R143): Returns from the current interrupt or trap level through SEQ_EPC. -/
  | reti (o : SeqOps)
  /-- DBNZ (R98): Decrements the COUNT in A and jumps to B if the result is non-zero. -/
  | dbnz (o : SeqOps)
  /-- IFLUSH (R99): Drains the store buffer, empties the fetch buffer and refetches. -/
  | iflush (o : SeqOps)
  /-- BMOVE (R102): Block move driven by g11 to g13. With RPT = 1 at most `upto` iterations are done before a
  recognisable request makes it yield (R104). -/
  | bmove (upto : Nat) (o : SeqOps)
  /-- BFILL (R102): Block fill of the destination with B. With RPT = 1 at most `upto` iterations are done before a
  recognisable request makes it yield (R104). -/
  | bfill (upto : Nat) (o : SeqOps)
  /-- BCMP (R102): Block compare; sets g14 on a mismatch or at the end. With RPT = 1 at most `upto` iterations are
  done before a recognisable request makes it yield (R104). -/
  | bcmp (upto : Nat) (o : SeqOps)
  /-- BSEEK (R102): Block search for B; sets g14. With RPT = 1 at most `upto` iterations are done before a
  recognisable request makes it yield (R104). -/
  | bseek (upto : Nat) (o : SeqOps)
  /-- WAITE (R106): Waits until the event latch and the mask share a set bit. -/
  | waite (o : SeqOps)
  /-- WAITE_WAKE (R106): A waiting WAITE sees a matching latch bit, writes its number and clears it. `core` is the
  waiting sequencer. -/
  | waiteWake (core : Nat)
  /-- WAITET (R107): Waits for an event or until TIME reaches C. -/
  | waitet (o : SeqOps)
  /-- WAITET_WAKE (R107): A waiting WAITET completes on an event, or on the time with result 255. `core` is the
  waiting sequencer. -/
  | waitetWake (core : Nat)
  /-- PULSE (R109): Pulses device event lines and the tile's own SELF latch bit. -/
  | pulse (o : SeqOps)
  /-- WAITT (R108): Waits until the synchronised TIME copy reaches B. -/
  | waitt (o : SeqOps)
  /-- WAITT_WAKE (R108): A waiting WAITT completes when its time is reached. `core` is the waiting sequencer. -/
  | waittWake (core : Nat)
  /-- RDTIME (R108): Reads the tile's synchronised TIME copy into A, tagged TIME. -/
  | rdtime (o : SeqOps)
  /-- STEP (R111): Drains the store buffer, reads a step descriptor and places it in its issue register. -/
  | step (o : SeqOps)
  /-- STEP_STALL_RELEASE (R112): A stalled STEP finds its issue register free and places its descriptor. `core` is
  the stalled sequencer. -/
  | stepStallRelease (core : Nat)
  /-- STSTAT (R113): Reads SEQ_STEP_STAT[p] into A, then clears VALID and OVERRUN. -/
  | ststat (o : SeqOps)
  /-- FENCE (R133): Waits until every earlier store is performed. -/
  | fence (o : SeqOps)
  /-- MFSR (R100): Reads a SEQ_ register into A. -/
  | mfsr (o : SeqOps)
  /-- MTSR (R100): Writes the sequencer-writable fields of a SEQ_ register. -/
  | mtsr (o : SeqOps)
  /-- TRAP (R114): Takes SWTRAP and copies B to SEQ_TRAP_ADDR. -/
  | trap (o : SeqOps)
  /-- QLD (R137): Loads 128 bits into a q register, as indivisible halves when split. -/
  | qld (o : SeqOps)
  /-- QST (R137): Stores 128 bits from a q register. -/
  | qst (o : SeqOps)
  /-- QLDFF (R138): First-fault load of N elements, writing the loaded count to SEQ_FFCOUNT. -/
  | qldff (o : SeqOps)
  /-- QMOV (R96): Copies between q registers, f registers and memory. -/
  | qmov (o : SeqOps)
  /-- QSPLAT_H (R96): Copies B[15:0] into each of 8 lanes. -/
  | qsplatH (o : SeqOps)
  /-- QSPLAT_W (R96): Copies B[31:0] into each of 4 lanes. -/
  | qsplatW (o : SeqOps)
  /-- QADDS_H (R96): Saturating Q15 lane addition. -/
  | qaddsH (o : SeqOps)
  /-- QSUBS_H (R96): Saturating Q15 lane subtraction. -/
  | qsubsH (o : SeqOps)
  /-- QMULR_H (R96): Rounded Q15 lane multiplication. -/
  | qmulrH (o : SeqOps)
  /-- QMACR_H (R96): Rounded Q15 multiply-accumulate. -/
  | qmacrH (o : SeqOps)
  /-- QSHRR_H (R96): Rounded Q15 right shift by an immediate. -/
  | qshrrH (o : SeqOps)
  /-- QMIN_H (R96): Signed 16-bit lane minimum. -/
  | qminH (o : SeqOps)
  /-- QMAX_H (R96): Signed 16-bit lane maximum. -/
  | qmaxH (o : SeqOps)
  /-- QADDS_W (R96): Saturating Q31 lane addition. -/
  | qaddsW (o : SeqOps)
  /-- QSUBS_W (R96): Saturating Q31 lane subtraction. -/
  | qsubsW (o : SeqOps)
  /-- QMULR_W (R96): Rounded Q31 lane multiplication. -/
  | qmulrW (o : SeqOps)
  /-- QSHRR_W (R96): Rounded Q31 right shift by an immediate. -/
  | qshrrW (o : SeqOps)
  /-- QFADD (R96): Four F32 additions. -/
  | qfadd (o : SeqOps)
  /-- QFMUL (R96): Four F32 multiplications. -/
  | qfmul (o : SeqOps)
  /-- QFMA (R96): Four F32 multiply-adds. -/
  | qfma (o : SeqOps)
  /-- QEXT_H (R96): Extracts lane C of q register B into A as INT. -/
  | qextH (o : SeqOps)
  /-- UOP (R154): Customer instruction (UOP0 to UOP15) runs its slot's micro-operations as one class-A group.
  `slot` is 0 to 15, opcode 0x70 + slot. -/
  | uop (slot : Nat) (o : SeqOps)
  /-- SEQ_FETCH (R130): A sequential fetch takes the memory port when 2 fetch-buffer entries are free and reads 16
  B. `starved` is how many fetch-starved cycles of R131 came before it. -/
  | seqFetch (core : Nat) (starved : Nat)
  /-- STORE_BUFFER_DRAIN (R134): The memory port performs the oldest store-buffer entry. `held` is how many cycles
  its access was held. -/
  | storeBufferDrain (core : Nat) (held : Nat)
  /-- INTERRUPT_ENTRY (R142): A recognised IRQ or URG request enters its level in 4 cycles. `core` is the
  interrupted sequencer. -/
  | interruptEntry (core : Nat)
  /-- SEQ_HALT_REQ (R118): The quoin's write of SEQ_CTRL.HALT_REQ halts the sequencer after the current
  instruction. The 32-bit value written to SEQ_CTRL of the tile. -/
  | seqHaltReq (who : Who) (tile : Nat) (value : BitVec 32)
  /-- STEP_START (R315): A descriptor in an issue register with no hold of R30 starts; the checks and the scan
  begin. The issue register of that priority. -/
  | stepStart (tile : Nat) (urgent : Bool)
  /-- STEP_RETIRE (R474): The engines retire the step's last run and its last drain course leaves; the mirror
  begins. The step of that priority. -/
  | stepRetire (tile : Nat) (urgent : Bool)
  /-- STEP_COMPLETE (R33): The step completes and reports one status word. The step of that priority. -/
  | stepComplete (tile : Nat) (urgent : Bool)
  /-- DEADLINE_PASS (R328): The TIME copy exceeds a watched step's DEADLINE; sets event 66 once. The step of that
  priority, or with `waiting` its issue register. -/
  | deadlinePass (tile : Nat) (urgent : Bool) (waiting : Bool)
  /-- LIST_ENTRY_PASS (R237): Passes the next command-list entry to its engine, at most one per cycle. The list of
  that step. -/
  | listEntryPass (tile : Nat) (urgent : Bool)
  /-- ENGINE_CMD_ISSUE (R53): A command held by the range scoreboard issues and takes its entries. The engine,
  numbered as its ENGINE_MASK bit. -/
  | engineCmdIssue (tile : Nat) (engine : Nat)
  /-- BANK_PWR_REQ_WRITE (R64): A write of TS_BANK_PWR_REQ requests banks ON or OFF. The value written. -/
  | bankPwrReqWrite (who : Who) (tile : Nat) (value : BitVec 32)
  /-- BANK_WAKE_DONE (R64): 2 µs of TIME after a wake request, the bank enters ON or DRAINING with every course
  zero. The bank's number. -/
  | bankWakeDone (tile : Nat) (bank : Nat)
  /-- BANK_DRAIN_DONE (R64): A DRAINING bank with no in-flight writes or touching ranges goes OFF. The bank's
  number. -/
  | bankDrainDone (tile : Nat) (bank : Nat)
  /-- TS_PERR_INJ_ARM (R62): Arms parity injection at one word for the next write covering it. The value written to
  TS_PERR_INJ. -/
  | tsPerrInjArm (who : Who) (tile : Nat) (value : BitVec 32)
  /-- TS_CNT_CLR (R70): Clears the selected tile-store counters. The value written. -/
  | tsCntClr (who : Who) (tile : Nat) (value : BitVec 32)
  /-- HOST_TS_WRITE (R46): Host write to the tile-store narrow view, in aligned 8-byte units. The byte address
  within the view, what is written, and the cycles lost to bank arbitration. -/
  | hostTsWrite (tile : Nat) (addr : Nat) (data : HostBytes) (lost : Nat)
  /-- HOST_TS_READ (R60): Host read of the tile-store narrow view; a parity error returns data poisoned. The byte
  address within the view, the bytes asked for, and what the access met. -/
  | hostTsRead (tile : Nat) (addr : Nat) (len : Nat) (met : EdgeMet)
  /-- HOST_LRAM_WRITE (R117): Host write to the local RAM payload or tag view. Byte offset within the payload view
  or the tag view, and what is written. -/
  | hostLramWrite (tile : Nat) (tagView : Bool) (addr : Nat) (data : HostBytes)
  /-- HOST_LRAM_READ (R116): Host read of local RAM; a parity error returns data poisoned. Byte offset within the
  payload view or the tag view, and the bytes asked for. -/
  | hostLramRead (tile : Nat) (tagView : Bool) (addr : Nat) (ask : LramAsk)
  /-- HOST_VPRAM_WRITE (R164): Host write to vector program RAM. Byte offset within program RAM, and what is
  written. -/
  | hostVpramWrite (tile : Nat) (addr : Nat) (data : HostBytes)
  /-- VEC_BUNDLE_ISSUE (R171): The vector engine issues one bundle of four slots. The cycles for which the engine
  was held before the bundle, by source. -/
  | vecBundleIssue (tile : Nat) (held : Held)
  /-- VEC_RESULT_LAND (R171): A vector operation's result lands L cycles after issue. One engine cycle in which no
  bundle issues. -/
  | vecResultLand (tile : Nat)
  /-- VEC_SWITCH_IN (R193): An urgent vector step preempts the normal bank; in-flight results move to drain
  latches. The six cycles of the switch. -/
  | vecSwitchIn (tile : Nat)
  /-- VEC_SWITCH_OUT (R194): After the urgent program completes, the normal bank resumes 6 cycles later. The six
  cycles of the switch. -/
  | vecSwitchOut (tile : Nat)
  /-- MATMUL_CMD (R238): Array command OP MATMUL: Y = X × S. The array command queue of that tile. -/
  | matmulCmd (tile : Nat)
  /-- SUMW_CMD (R250): Array command OP SUMW: sums the weight codes per column into SUMW. The array command queue
  of that tile. -/
  | sumwCmd (tile : Nat)
  /-- WEIGHT_ROW_LOAD (R232): Loads a weight row from the stream buffer into the shadow cells, expanding it. The
  array of that tile. -/
  | weightRowLoad (tile : Nat) (held : Held)
  /-- ARRAY_VECTOR_STREAM (R240): The array reads and streams one vector through the current slice. `bufBad`: the
  window buffer read shows a parity error. -/
  | arrayVectorStream (tile : Nat) (held : Held) (bufBad : Bool)
  /-- ACC_LAND (R240): A vector's column sums are added into its accumulator entry 69 cycles after the read. The
  array of that tile. -/
  | accLand (tile : Nat)
  /-- SCALE_BLOCK_ARRIVE (R234): A scale block's tag is checked and its data written into the scale registers or
  SUMW. The array of that tile. -/
  | scaleBlockArrive (tile : Nat)
  /-- DRAIN_CMD (R244): Drain command that converts accumulator rows into output. The drain command queue of that
  tile. -/
  | drainCmd (tile : Nat)
  /-- DRAIN_ROW_READ (R245): The drain reads one accumulator row and starts its stages. The drain of that tile. -/
  | drainRowRead (tile : Nat) (held : Held)
  /-- DRAIN_COURSE_WRITE (R247): Writes a converted output course, or pushes a row to the drain buffer. The drain
  of that tile. -/
  | drainCourseWrite (tile : Nat) (held : Held)
  /-- WINDOW_CMD (R263): Window command that feeds the following MATMUL from a sliding window. The array command
  queue of that tile. -/
  | windowCmd (tile : Nat)
  /-- DIAG8_LOAD_PHASE (R272): Reads a row block's footprint into the window buffer. The array of that tile. -/
  | diag8LoadPhase (tile : Nat) (held : Held)
  /-- SCE_CMD (R276): Small-channel engine command. The small-channel command queue of that tile. -/
  | sceCmd (tile : Nat)
  /-- SCE_LOAD_PHASE (R278): Reads the weight courses and the scale course. The small-channel engine of that tile. -/
  | sceLoadPhase (tile : Nat) (held : Held)
  /-- SCE_STREAM_TAP (R278): Reads a tap's input course for an output pixel. `bufBad`: the weight buffer shows a
  parity error. -/
  | sceStreamTap (tile : Nat) (held : Held) (bufBad : Bool)
  /-- SCE_RESULT_LAND (R278): A pixel's result lands in a result bank 12 cycles after its last cycle. The
  small-channel engine of that tile. -/
  | sceResultLand (tile : Nat)
  /-- MSEND (R288): Copies courses to another tile's store over the mortar. The mortar send of that tile. -/
  | msend (tile : Nat) (held : Held)
  /-- MORTAR_COURSE_ARRIVE (R289): A mortar course is written at its destination tile. The course; what it met on
  its way; `bad`: it is found in error. -/
  | mortarCourseArrive (course : MorCourse) (met : Transit) (bad : Bool)
  /-- MSEND_ACK (R290): An acknowledgement returns; the last one retires the MSEND and pulses its line.
  Acknowledgement `i` of those on their way; what it met at its crossings. -/
  | msendAck (i jitter : Nat)
  /-- EVT_LATCH (R293): A pulsed event line is latched in every unfenced tile. -/
  | evtLatch
  /-- HOD_DECLARE (R294): HOD command OP DECLARE makes a target OPEN. The hod port of that tile. -/
  | hodDeclare (tile : Nat)
  /-- HOD_SEND (R304): HOD command OP SEND sends courses as partials. The hod port of that tile. -/
  | hodSend (tile : Nat) (held : Held)
  /-- HOD_BROADCAST (R306): HOD command OP BROADCAST writes hod courses into every unfenced tile. The hod port of
  that tile. -/
  | hodBroadcast (tile : Nat)
  /-- BROADCAST_READ (R306): Reads one hod course for broadcast, waiting for TGT when WAIT = 1. The hod port of
  that tile; what SECDED found in the course read. -/
  | broadcastRead (tile : Nat) (ce : Nat) (ue : Bool)
  /-- BROADCAST_COURSE_WRITE (R306): A broadcast course is written into every tile. Broadcast course `i` of those
  on their way; what it met; `bad`: it is found in error. -/
  | broadcastCourseWrite (i : Nat) (met : Crossing) (bad : Bool)
  /-- BROADCAST_RETIRE (R306): Every tile acknowledges the last course; the command retires and pulses its line.
  The hod port of that tile. -/
  | broadcastRetire (tile : Nat)
  /-- HOD_TGT_DECLARE_WRITE (R294): A write of HOD_TGT_B with STATE = 1 declares the target afresh. The value
  written, whose STATE is 1. -/
  | hodTgtDeclareWrite (who : Who) (tgt : Nat) (value : BitVec 64)
  /-- HOD_TGT_FREE_WRITE (R294): A write of HOD_TGT_B with STATE = 0 frees the target. The value written, whose
  STATE is 0. -/
  | hodTgtFreeWrite (who : Who) (tgt : Nat) (value : BitVec 64)
  /-- HOD_GRANT (R300): An intake lane grants one tile's course in a cycle. The intake lane; `bad`: the course is
  found in error. -/
  | hodGrant (lane : Nat) (bad : Bool)
  /-- HOD_REJECT_NOTICE (R297): The sending tile learns of a rejection 2 cycles later; an epoch rejection ends the
  step with EPOCH_MIX. -/
  | hodRejectNotice
  /-- HOD_APPLY (R300): A granted partial is combined into hod memory, or staged. Granted course `i` of those in
  flight; whether its crossing took a further cycle; what SECDED found in the courses read. -/
  | hodApply (i : Nat) (jitter : Bool) (ecc : CourseEcc)
  /-- HOD_FOLD (R302): The fold unit combines a staged partial whose turn has come. The course of a target; what
  SECDED found in the courses read. -/
  | hodFold (tgt : Nat) (off : Nat) (ce : Nat) (ue : Bool)
  /-- MOR_COMMIT (R309): A write of MOR_COMMIT commits a mode epoch, or is refused. The value written. -/
  | morCommit (who : Who) (value : BitVec 32)
  /-- MODE_COMMIT_DELIVER (R309): COMMIT(e) reaches every unfenced tile, which then sees MIXED. -/
  | modeCommitDeliver
  /-- MODE_APPLY (R310): A tile at a step boundary applies the committed mode and epoch. -/
  | modeApply (tile : Nat)
  /-- MODE_REPORT (R311): A tile's report clears its PENDING bit; MIXED clears when PENDING empties. -/
  | modeReport (tile : Nat)
  /-- MIXED_CLEAR_SEEN (R311): Each tile sees MIXED cleared 6 cycles later. -/
  | mixedClearSeen
  /-- STREAM_DECLARE (R348): STREAM command OP DECLARE binds a tracker to a declared stream. The step whose list
  holds the entry. -/
  | streamDeclare (tile : Nat) (urgent : Bool)
  /-- STREAM_RELEASE (R349): STREAM command OP RELEASE makes the tracker IDLE. The step whose list holds the entry. -/
  | streamRelease (tile : Nat) (urgent : Bool)
  /-- STREAM_INVAL (R341): STREAM command OP INVAL invalidates a range of lines. The step whose list holds the
  entry. -/
  | streamInval (tile : Nat) (urgent : Bool)
  /-- STREAM_REQUEST (R349): A DECLARED tracker requests a line ahead of its consumer. The tracker, and what SECDED
  finds in the set and the line looked up. -/
  | streamRequest (look : StreamLook)
  /-- STREAM_LINE_DELIVER (R342): A declared-stream line reaches its consumer. Crossing jitter of the line, and the
  other cycles for which the consumer was held until it came. -/
  | streamLineDeliver (tracker jitter : Nat) (held : LineWait)
  /-- SC_INVAL_GO (R341): SC_INVAL_CTRL.GO starts invalidation of COUNT lines. The value written to SC_INVAL_CTRL. -/
  | scInvalGo (who : Who) (value : BitVec 32)
  /-- SC_INVAL_ALL (R341): SC_INVAL_CTRL.ALL with GO invalidates every line. The value written to SC_INVAL_CTRL. -/
  | scInvalAll (who : Who) (value : BitVec 32)
  /-- SC_INVAL_DONE (R341): An invalidation ends and INVAL_BUSY clears. -/
  | scInvalDone
  /-- SC_SLICE_PWR_REQ_WRITE (R352): A write of SC_SLICE_PWR_REQ requests slices ON or OFF. The value written. -/
  | scSlicePwrReqWrite (who : Who) (value : BitVec 32)
  /-- SLICE_WAKE_DONE (R352): A waking slice enters ON after 2 µs of TIME. -/
  | sliceWakeDone (slice : Nat)
  /-- SLICE_DRAIN_DONE (R352): A DRAINING slice with no outstanding fills goes OFF. -/
  | sliceDrainDone (slice : Nat)
  /-- SC_FENCE_WRITE (R352): A write of SC_FENCE fences or unfences slices for bypass. The value written. -/
  | scFenceWrite (who : Who) (value : BitVec 32)
  /-- SC_CNT_CLR (R359): Clears the stream-cache CE and UE counters. The value written. -/
  | scCntClr (who : Who) (value : BitVec 32)
  /-- DDR_REQUEST_SERVE (R356): A DDR5 channel serves a request by class and age. Request `i` of the channel's
  queue, oldest first; what its check code finds. -/
  | ddrRequestServe (ch : Nat) (i : Nat) (err : BeatErr)
  /-- DDR_CLASS_PROMOTE (R356): A class-2 request that has waited 2 µs joins class 1. Request `i` of the channel's
  queue. -/
  | ddrClassPromote (ch : Nat) (i : Nat)
  /-- DDR_REFRESH (R357): A same-bank refresh falls due. The bank refreshed. -/
  | ddrRefresh (ch : Nat) (bank : Nat)
  /-- DDR_SR_ENTER (R358): A channel whose queues are empty for 100 µs with SR_REQ enters self-refresh. -/
  | ddrSrEnter (ch : Nat)
  /-- DDR_SR_EXIT_DONE (R358): A channel completes its 2 µs self-refresh exit. -/
  | ddrSrExitDone (ch : Nat)
  /-- DDR_SR_REQ_WRITE (R358): A write of DDR_CTRL.SR_REQ. The value written to DDR_CTRL. -/
  | ddrSrReqWrite (who : Who) (ch : Nat) (value : BitVec 32)
  /-- DDR_CNT_CLR (R359): Clears a channel's CE and UE counters. The value written. -/
  | ddrCntClr (who : Who) (ch : Nat) (value : BitVec 32)
  /-- RING_INIT (R365): DMA_RING_CMD INIT reads and checks a ring context. The ring, and what the check code finds
  in the context read. -/
  | ringInit (who : Who) (look : RingLook)
  /-- RING_STOP (R365): DMA_RING_CMD STOP stops a ring after its current descriptor. -/
  | ringStop (who : Who) (ring : Nat)
  /-- RING_RESUME (R365): DMA_RING_CMD RESUME restarts a STOPPED ring. The ring, and what the check code finds
  where the context is read. -/
  | ringResume (who : Who) (look : RingLook)
  /-- RING_OFF (R365): DMA_RING_CMD OFF turns a ring off and writes back its context. -/
  | ringOff (who : Who) (ring : Nat)
  /-- RING_FLUSH (R365): DMA_RING_CMD FLUSH writes back every cached context. RING is ignored. -/
  | ringFlush (who : Who) (ring : Nat)
  /-- DOORBELL_WRITE (R372): A BAR4 doorbell write sets or adds to a ring's LIMIT. The ring, and what the check
  code finds where its context is read; the halves of the 8 bytes that the write covers; whether it is poisoned. -/
  | doorbellWrite (look : RingLook) (lo hi : Option (BitVec 32)) (ep : Bool)
  /-- TAKE (R373): Tile command that releases courses of a stream FIFO. The step whose list holds the entry. -/
  | take (tile : Nat) (urgent : Bool)
  /-- DOORBELL (R373): Tile command that adds to a ring's LIMIT. The step whose list holds the entry; what the
  check code finds where the ring's context is read. -/
  | doorbell (list : StepRef) (err : BeatErr)
  /-- DESC_FETCH (R369): A channel reads the descriptor at HEAD of a READY ring and consumes it or not. What the
  host, the stream cache or DDR5 answers to the read of the slot. -/
  | descFetch (ch : Nat) (host : HostAns) (ecc : LineEcc) (err : BeatErr)
  /-- DMA_UNIT_TRANSFER (R375): A channel moves one unit of up to 128 B through the byte funnel. What the source
  answers; for a tile store read, what it met on its way. -/
  | dmaUnitTransfer (ch : Nat) (host : HostAns) (ecc : LineEcc) (err : BeatErr) (hodCe : Nat) (hodUe : Bool) (met : UnitMet)
  /-- DMA_PACE_RESUME (R379): A paced channel resumes once the FIFO level falls to LOW. -/
  | dmaPaceResume (ch : Nat)
  /-- DESC_COMPLETE (R371): A descriptor completes: writes performed, OWN written back, record and event due. -/
  | descComplete (ch : Nat)
  /-- CQ_RECORD_WRITE (R387): A completion record is written when its queue has room, drawing the next DSEQ.
  DMA_CLK cycles for which the record was held. -/
  | cqRecordWrite (ch held : Nat)
  /-- CQ_ENABLE (R386): Setting DMA_CQ_CFG.ENABLE starts a queue, resetting or keeping TAIL and PHASE by KEEP. The
  value written to the low half of DMA_CQ_CFG. -/
  | cqEnable (who : Who) (cq : Nat) (value : BitVec 32)
  /-- CQ_HEAD_WRITE (R387): A write of DMA_CQ_HEAD releases queue slots. The value written. -/
  | cqHeadWrite (who : Who) (cq : Nat) (value : BitVec 32)
  /-- DMA_FIFO_CFG_WRITE (R377): Configures a stream FIFO and sets PUT and TAKE to 0. The value written. -/
  | dmaFifoCfgWrite (who : Who) (fifo : Nat) (value : BitVec 64)
  /-- DMA_FIFO_TAKE_WRITE (R377): A host write of DMA_FIFO_TAKE adds to TAKE. The value written. -/
  | dmaFifoTakeWrite (who : Who) (fifo : Nat) (value : BitVec 32)
  /-- CHANNEL_DISABLE (R389): DMA_CH_CTRL.DISABLE drops a channel's work at once. -/
  | channelDisable (who : Who) (ch : Nat)
  /-- DMA_CNT_CLR (R390): Clears the selected DMA counters. The value written. -/
  | dmaCntClr (who : Who) (value : BitVec 32)
  /-- HOST_BAR2_WRITE (R400): A host write to DDR5 through BAR2. The offset in BAR2; whether the write is poisoned. -/
  | hostBar2Write (off : Nat) (bytes : List (BitVec 8)) (ep : Bool)
  /-- HOST_BAR2_READ (R400): A host read of DDR5 through BAR2, poisoned for an uncorrectable line. What the check
  code finds in each line read. -/
  | hostBar2Read (off len : Nat) (errs : List BeatErr)
  /-- HOST_REG_WRITE (R398): Host or quoin write to a register without a row of its own; non-writable ones are
  discarded and counted. Who accesses the registers, the offset in the BAR, the access, and its marks. -/
  | hostRegWrite (who : Who) (offset : Nat) (access : RegAccess) (mark : AccessMark)
  /-- FLR (R413): Function-level reset of the PCIe function. -/
  | flr
  /-- LINK_DOWN (R413): A PCIe link-down event. -/
  | linkDown
  /-- PERST_ASSERT (R555): PCIE_PERST_N low takes the link down. -/
  | perstAssert
  /-- PERST_RELEASE (R555): PCIE_PERST_N high lets the link train. -/
  | perstRelease
  /-- PCIE_L1_ENTER (R547): With no traffic for 10 µs, the device requests ASPM L1. -/
  | pcieL1Enter
  /-- HEARTBEAT_DUE (R407): At every multiple of 100,000 ns the heartbeat page is written, or skipped. Whether the
  page before is still being written. -/
  | heartbeatDue (busy : Bool)
  /-- HB_CTRL_WRITE (R409): A write of DEV_HB_CTRL starts or stops heartbeat pages. The value written. -/
  | hbCtrlWrite (who : Who) (value : BitVec 32)
  /-- DEV_CNT_CLR (R415): Clears the selected DEV_ counters. The value written. -/
  | devCntClr (who : Who) (value : BitVec 32)
  /-- POST (R412): Tile command that posts half a course to a result mailbox. The step whose list holds the entry;
  cycles lost to bank arbitration. -/
  | post (tile : Nat) (urgent : Bool) (lost : Nat)
  /-- RES_ACK_WRITE (R411): A write of RES_ACK releases a mailbox if SEQ matches. The mailbox and the value
  written. -/
  | resAckWrite (who : Who) (mb : Nat) (value : BitVec 32)
  /-- RES_CNT_CLR (R415): Clears RES_ACK_MISS_CNT. The value written. -/
  | resCntClr (who : Who) (value : BitVec 32)
  /-- MSIX_SEND (R403): A pending, unmasked MSI-X vector sends its message. -/
  | msixSend (vector : Nat)
  /-- TIME_TICK (R417): TIME advances in one TIME_CLK cycle, by 2, 1 or 0 under slewing. -/
  | timeTick
  /-- TIME_HOLD_END (R421): A backward-step hold ends after |e| ns and TIME advances again. -/
  | timeHoldEnd
  /-- SLOT_SYNC_EDGE (R420): A rising SLOT_SYNC edge captures TIME and, with SRC = 1, forms a measurement. TIME is
  captured as its value plus `off` minus 1 ns, `off` 0 to 2. -/
  | slotSyncEdge (off : Nat)
  /-- TIME_CTRL_WRITE (R420): A write of TIME_CTRL.SRC selects the alignment source. The value written. -/
  | timeCtrlWrite (who : Who) (value : BitVec 32)
  /-- TIME_CNT_CLR (R434): Clears TIME_STEP_CNT or the EVT_IN counters. The value written. -/
  | timeCntClr (who : Who) (value : BitVec 32)
  /-- SLOT_TICK (R419): The hub's TIME copy reaches a slot boundary and pulses the tick line. -/
  | slotTick
  /-- ALARM_FIRE (R425): TIME reaches TIME_ALARM[k]; the alarm pulses its line and clears or repeats. -/
  | alarmFire (k : Nat)
  /-- EVT_IN_EDGE (R423): An accepted EVT_IN edge pulses its line and counts. The pin's new level; whether the edge
  merges into the pulse before it. -/
  | evtInEdge (pin : Nat) (level merged : Bool)
  /-- EVT_OUT_EDGE (R424): A pulse at the hub drives the EVT_OUT pin edge 8 cycles later. -/
  | evtOutEdge (pin : Nat)
  /-- EVT_OUT_WIDTH_END (R424): A PULSE-mode EVT_OUT pin falls WIDTH cycles after the last pulse. -/
  | evtOutWidthEnd (pin : Nat)
  /-- EVT_OUT_CFG_WRITE (R424): A write of EVT_OUT_CFG; clearing EN takes the pin low. The value written. -/
  | evtOutCfgWrite (who : Who) (pin : Nat) (value : BitVec 32)
  /-- EVT_PULSE_WRITE (R422): A host or quoin write of EVT_PULSE pulses the chosen lines. The lines written. -/
  | evtPulseWrite (who : Who) (lines : BitVec 64)
  /-- IC_PEND_SET (R426): Sets device pending bits. IC_PEND_SET[w]. -/
  | icPendSet (who : Who) (w : Nat) (bits : BitVec 32)
  /-- IC_PEND_CLR (R426): Clears device pending bits. IC_PEND_CLR[w]. -/
  | icPendClr (who : Who) (w : Nat) (bits : BitVec 32)
  /-- IC_MASK_SET (R426): Sets quoin or host mask bits. IC_HMASK_SET[w] when `host`, else IC_QMASK_SET[w]. -/
  | icMaskSet (who : Who) (host : Bool) (w : Nat) (bits : BitVec 32)
  /-- IC_MASK_CLR (R430): Clears quoin or host mask bits, which may set PBA bits. IC_HMASK_CLR[w] when `host`, else
  IC_QMASK_CLR[w]. -/
  | icMaskClr (who : Who) (host : Bool) (w : Nat) (bits : BitVec 32)
  /-- IC_TPEND_SET (R426): Sets a tile's pending bits. IC_TPEND_SET[tile]; a 4 B access leaves the other half's
  bits 0. -/
  | icTpendSet (who : Who) (tile : Nat) (bits : BitVec 64)
  /-- IC_TPEND_CLR (R426): Clears a tile's pending bits. IC_TPEND_CLR[tile]. -/
  | icTpendClr (who : Who) (tile : Nat) (bits : BitVec 64)
  /-- IC_TMASK_SET (R426): Sets a tile's mask bits. IC_TMASK_SET[tile]. -/
  | icTmaskSet (who : Who) (tile : Nat) (bits : BitVec 64)
  /-- IC_TMASK_CLR (R426): Clears a tile's mask bits. IC_TMASK_CLR[tile]. -/
  | icTmaskClr (who : Who) (tile : Nat) (bits : BitVec 64)
  /-- IC_LEVEL_WRITE (R436): A write of IC_QLEVEL or IC_TLEVEL routes sources to IRQ or URG. The level register and
  the value written to it. -/
  | icLevelWrite (who : Who) (reg : IcLevel) (value : BitVec 64)
  /-- IC_ROUTE_WRITE (R436): A write of IC_ROUTE changes a source's MSI-X vector. IC_ROUTE[src]. -/
  | icRouteWrite (who : Who) (src : Nat) (value : BitVec 32)
  /-- CLK_WINDOW_END (R438): A counter window of a clock source ends and is judged. Whether the source is XTAL; the
  cycles of MON_CLK counted in the window. -/
  | clkWindowEnd (xtal : Bool) (count : Nat)
  /-- CLK_STOP_DETECT (R439): No edge of a source for 256 MON_CLK cycles; the source fails. Whether the source is
  XTAL. -/
  | clkStopDetect (xtal : Bool)
  /-- XTAL_AMPLITUDE_DONE (R438): The XTAL amplitude has held for 2 ms; XTAL qualifies. -/
  | xtalAmplitudeDone
  /-- XTAL_AMPLITUDE_LOSS (R439): The XTAL amplitude falls below threshold in start-up; XTAL fails. -/
  | xtalAmplitudeLoss
  /-- PLL_REACQUIRE_DONE (R440): The PLLs reacquire the new source and leave holdover. -/
  | pllReacquireDone
  /-- SAFE_HOLD_RESTART (R442): A source qualifies in SAFE_HOLD and the device restarts from EGG. The straps found,
  as SEC_STRAPS lays them out. -/
  | safeHoldRestart (straps : BitVec 6)
  /-- CLK_REVERT (R440): CLK_SRC_CTRL.REVERT requests the switch back to REFCLK. The value written to CLK_SRC_CTRL. -/
  | clkRevert (who : Who) (value : BitVec 32)
  /-- XTAL_EN_WRITE (R437): A write of CLK_SRC_CTRL.XTAL_EN. The value written to CLK_SRC_CTRL. -/
  | xtalEnWrite (who : Who) (value : BitVec 32)
  /-- DVFS_REQUEST (R446): A write of PWR_DVFS_REQ.POINT requests an operating-point change, or is refused. The
  value written to PWR_DVFS_REQ. -/
  | dvfsRequest (who : Who) (value : BitVec 32)
  /-- AVS_ACK (R447): The regulator acknowledges an AVSBus voltage write. -/
  | avsAck
  /-- AVS_SETTLE_DONE (R447): The PWR_AVS_SETTLE wait ends. -/
  | avsSettleDone
  /-- AVS_TIMEOUT (R450): No acknowledge within 1 ms sets AVS_ERR. -/
  | avsTimeout
  /-- TILE_PARK (R448): A tile with no issued step parks for a change. -/
  | tilePark (tile : Nat)
  /-- DIVIDER_STEP (R449): After 512 cycles the divider takes its next half-integer step; the last releases the
  tiles. -/
  | dividerStep
  /-- CLK_EN_SET (R451): Requests block clocks on. The value written. -/
  | clkEnSet (who : Who) (value : BitVec 32)
  /-- CLK_EN_CLR (R451): Requests block clocks off. The value written. -/
  | clkEnClr (who : Who) (value : BitVec 32)
  /-- GATE_APPLY (R452): A deferred gate takes effect when the block reports idle. The gate bit of R444. -/
  | gateApply (bit_ : Nat)
  /-- CLK_OUT_CFG_WRITE (R455): A write of CLK_OUT_CFG changes the CLK_OUT source, divider or enable. The value
  written. -/
  | clkOutCfgWrite (who : Who) (value : BitVec 32)
  /-- CLK_CNT_CLR (R458): Clears the selected clock and power counters. The value written. -/
  | clkCntClr (who : Who) (value : BitVec 32)
  /-- CHAIN_ASSIGN_RX (R463): An ASSIGN frame is received; the device takes an address and forwards it. The frame
  received; whether the head sent it itself, and what the board places at the partner's address. -/
  | chainAssignRx (f : BitVec 64) (mine : AssignMark)
  /-- CHAIN_LOOP_RX (R467): A LOOP frame is received; the head measures H, and SUB 1 sets CHAIN_HOP_NS. The frame
  received, with the R that SUB 1 goes with. -/
  | chainLoopRx (f : LoopFrame)
  /-- CHAIN_SLOT_RX (R466): A SLOT frame is received and yields a time measurement e. The frame received. -/
  | chainSlotRx (f : BitVec 64)
  /-- CHAIN_WINGBEAT_RX (R479): A chain WINGBEAT frame from the partner is received. The frame received. -/
  | chainWingbeatRx (f : BitVec 64)
  /-- CHAIN_MSG_FRAME_RX (R470): A MSG frame enters the receive FIFO and pulses its line. The frame received. -/
  | chainMsgFrameRx (f : BitVec 64)
  /-- CHAIN_FRAME_TX (R462): A queued frame is sent on CHAIN_OUT. -/
  | chainFrameTx
  /-- CHAIN_ASSIGN_REPEAT (R463): The head repeats ASSIGN every 1 ms until it returns. -/
  | chainAssignRepeat
  /-- CHAIN_ASSIGN_TIMEOUT (R463): No ASSIGN returns within 10 ms; the head sets BROKEN. -/
  | chainAssignTimeout
  /-- CHAIN_SLOT_SEND (R466): The head sends SLOT at each slot boundary. -/
  | chainSlotSend
  /-- CHAIN_SLOT_IDLE (R469): CHAIN_OUT is held idle from 400 ns before an expected SLOT. -/
  | chainSlotIdle
  /-- CHAIN_SLOT_TIMEOUT (R469): No SLOT for 3 slot periods sets BROKEN. -/
  | chainSlotTimeout
  /-- CHAIN_LOOP_START (R467): CHAIN_CTRL.LOOP on the head starts a LOOP round. The value written. -/
  | chainLoopStart (who : Who) (value : BitVec 32)
  /-- CHAIN_MSG_TX_WRITE (R470): A write of CHAIN_MSG_TX queues a MSG frame. The halves of the register that the
  write covers. -/
  | chainMsgTxWrite (who : Who) (lo hi : Option (BitVec 32))
  /-- CHAIN_MSG_POP_WRITE (R470): A write of CHAIN_MSG_POP releases the oldest received MSG. The value written. -/
  | chainMsgPopWrite (who : Who) (value : BitVec 32)
  /-- CHAIN_CNT_CLR (R484): Clears the chain counters. The value written. -/
  | chainCntClr (who : Who) (value : BitVec 32)
  /-- BOND_FRAME_TX (R471): A bond frame is sent on the link. The mirror that reads its next course into a frame,
  or none for the frame in front that leaves. -/
  | bondFrameTx (pick : Option MirrorRead)
  /-- BOND_MWR_RX (R473): A mirror write is applied at the standby. WIN, FSEQ, ADDR and payload; whether the CRC
  holds; what its course met at the tile. -/
  | bondMwrRx (win : Nat) (fseq : BitVec 32) (addr : BitVec 64) (payload : BitVec 1024) (crcOk : Bool) (met : EdgeMet)
  /-- BOND_ACK_RX (R472): A cumulative ACK releases frames and may complete mirrored steps or a resync. The newest
  frame acknowledged; whether the CRC holds. -/
  | bondAckRx (fseq : BitVec 32) (crcOk : Bool)
  /-- BOND_NAK_RX (R472): A NAK makes the sender replay from the named FSEQ. The frame expected; whether the CRC
  holds. -/
  | bondNakRx (fseq : BitVec 32) (crcOk : Bool)
  /-- BOND_LINK_TRAINED (R472): The bond link completes training and LINK_UP is set. The TWIN_ROLE strap of the
  device at the other end. -/
  | bondLinkTrained (partnerStrap : Bool)
  /-- BOND_WINGBEAT_RX (R479): A bond WINGBEAT frame from the partner is received. FSEQ; the wingbeat's word as
  R461 lays it out; whether the CRC holds. -/
  | bondWingbeatRx (fseq word : BitVec 32) (crcOk : Bool)
  /-- BOND_STATE_RX (R478): The standby keeps a completion record and the ring state. FSEQ, queue and payload;
  whether the CRC holds. -/
  | bondStateRx (fseq : BitVec 32) (queue : Nat) (payload : BitVec 512) (crcOk : Bool)
  /-- BOND_CTX_RX (R477): The standby keeps a mirrored context or register copy. FSEQ, ADDR and payload; whether
  the CRC holds. -/
  | bondCtxRx (fseq : BitVec 32) (addr : BitVec 64) (payload : BitVec 512) (crcOk : Bool)
  /-- BOND_RELINQUISH_RX (R480): The standby receives CTRL RELINQUISH and promotes. FSEQ; whether the CRC holds. -/
  | bondRelinquishRx (fseq : BitVec 32) (crcOk : Bool)
  /-- BOND_TAKEOVER_RX (R482): A CTRL TAKEOVER with a newer epoch is received. FSEQ and the epoch; whether the CRC
  holds. -/
  | bondTakeoverRx (fseq : BitVec 32) (epoch : BitVec 8) (crcOk : Bool)
  /-- WINGBEAT_SEND (R479): Sends a wingbeat on both paths every 10 µs. -/
  | wingbeatSend
  /-- WINGBEAT_PERIOD_END (R479): A 10 µs period ends; misses are counted, and after 3 the partner is lost. -/
  | wingbeatPeriodEnd
  /-- PROMOTE (R480): BOND_CMD OP PROMOTE on a SYNCED standby. -/
  | promote (who : Who)
  /-- RELINQUISH (R481): BOND_CMD OP RELINQUISH stops every ring on the active device. -/
  | relinquish (who : Who)
  /-- RELINQUISH_COMPLETE (R481): With descriptors done and frames acknowledged, the device sends RELINQUISH and
  becomes standby. -/
  | relinquishComplete
  /-- RESYNC (R483): BOND_CMD OP RESYNC copies all windows and state to the standby. -/
  | resync (who : Who)
  /-- BOND_MWIN_WRITE (R485): A write of a mirror window register; a change while SYNCED clears SYNCED. The window;
  BOND_MWIN_B or A; the halves of the register that the write covers. -/
  | bondMwinWrite (who : Who) (win : Nat) (b : Bool) (lo hi : Option (BitVec 32))
  /-- BOND_CNT_CLR (R484): Clears the bond counters. The value written. -/
  | bondCntClr (who : Who) (value : BitVec 32)
  /-- RESET_ASSERT (R554): RESET_N low for at least 10 µs resets the whole device. Whether every sensor is below
  115 °C; whether the supplies came up in this reset. -/
  | resetAssert (cool power : Bool)
  /-- RESET_RELEASE (R486): RESET_N release enters EGG. What the pins show, and whether a sensor is at or above 115
  °C. -/
  | resetRelease (start : ResetPins) (hot : Bool)
  /-- LARVA_START (R492): The boot ROM starts the PLLs and LARVA begins. Whether the flash answers the read of its
  directory. -/
  | larvaStart (readOk : Bool)
  /-- PLL_LOCK_DONE (R492): The PLLs lock and TIME starts. Whether the flash answers the read of the helper area. -/
  | pllLockDone (readOk : Bool)
  /-- PLL_LOCK_TIMEOUT (R501): A PLL does not lock within 1 ms; boot error PLL_LOCK. -/
  | pllLockTimeout
  /-- CERT_VERIFY (R496): The owner certificate is verified once obtained. With BOOT_SRC = 0, whether the flash
  answers the read of the certificate. -/
  | certVerify (readOk : Bool)
  /-- IMAGE_VERIFY (R497): An image is verified once loaded, or raises a boot error. With BOOT_SRC = 0, whether the
  flash answers the read of the image. -/
  | imageVerify (readOk : Bool)
  /-- DDR_TRAIN_DONE (R492): Every DDR5 channel completes training. -/
  | ddrTrainDone
  /-- DDR_TRAIN_TIMEOUT (R492): A channel is untrained after 120 ms; boot error DDR_TRAIN. -/
  | ddrTrainTimeout
  /-- CHRYSALIS_ENTER (R500): LARVA ends without error; the decode table is written and RUN_POINT requested. -/
  | chrysalisEnter
  /-- LOAD (R506): Mailbox command that supplies bytes of the current boot object. -/
  | load (who : Who)
  /-- END_OBJECT (R506): Mailbox command that ends an object and verifies it. -/
  | endObject (who : Who)
  /-- END_LOAD (R506): Mailbox command that ends a mailbox boot. -/
  | endLoad (who : Who)
  /-- DECODE_STATUS (R506): Mailbox command that returns the decode-table state. -/
  | decodeStatus (who : Who)
  /-- GET_PUBKEY (R504): Mailbox command that returns the device public key. -/
  | getPubkey (who : Who)
  /-- ATTEST (R508): Mailbox command that returns a signed attestation report. -/
  | attest (who : Who)
  /-- ENROL (R505): Mailbox command that enrols the PUF identity from a signed token. Whether the write of the
  helper record to the flash succeeds. -/
  | enrol (who : Who) (written : Bool)
  /-- RUN (R509): Mailbox command that enters IMAGO and releases the tiles. -/
  | run (who : Who)
  /-- MAILBOX_COMPLETE (R506): The quoin completes a mailbox command and writes its result and code. -/
  | mailboxComplete
  /-- CAL_TASK_DUE (R512): A calibration task falls due one period after its last run. The task that falls due,
  with what the sensors read. -/
  | calTaskDue (due : CalDue)
  /-- CAL_GAP_START (R517): A declared gap begins and fitting tasks start. The entry of CAL_GAP. -/
  | calGapStart (k : Nat)
  /-- CAL_GAP_END (R517): A declared gap ends. The entry of CAL_GAP. -/
  | calGapEnd (k : Nat)
  /-- CAL_TASK_END (R513): A running calibration task ends. The task that ends, with what it found. -/
  | calTaskEnd (done : CalEnd)
  /-- CAL_OVERDUE (R520): A task still due 2 ms after falling due becomes overdue. -/
  | calOverdue (ch : Nat)
  /-- CAL_STEAL_START (R520): The quoin steals an overdue channel, sets CALIB_STEAL and counts the steal. -/
  | calStealStart (ch : Nat)
  /-- CAL_STEAL_END (R520): A steal ends after at most 1.2 µs and releases the channel. -/
  | calStealEnd
  /-- CAL_GAP_WRITE (R518): A write of CAL_GAP takes effect at the next slot boundary. The entry, and the halves
  that the write covers. -/
  | calGapWrite (who : Who) (k : Nat) (lo hi : Option (BitVec 32))
  /-- CAL_CNT_CLR (R522): Clears the calibration counters. The value written. -/
  | calCntClr (who : Who) (value : BitVec 32)
  /-- FENCE_TILE (R531): DEV_FLT_CMD FENCE_TILE fences a tile, or makes a second-tile device fault. What fences it,
  and the tile. -/
  | fenceTile (cause : FenceCause) (which : FencedTiles)
  /-- UNFENCE_TILE (R533): DEV_FLT_CMD UNFENCE_TILE resets a fenced tile and leaves it halted. INDEX of the write. -/
  | unfenceTile (who : Who) (tile : Nat)
  /-- RELEASE_TILE (R533): DEV_FLT_CMD RELEASE_TILE starts the unfenced tile's sequencer. INDEX of the write. -/
  | releaseTile (who : Who) (tile : Nat)
  /-- FENCE_SLICE (R534): DEV_FLT_CMD FENCE_SLICE fences a stream-cache slice. INDEX of the write. -/
  | fenceSlice (who : Who) (slice : Nat)
  /-- UNFENCE_SLICE (R534): DEV_FLT_CMD UNFENCE_SLICE returns a slice empty. INDEX of the write. -/
  | unfenceSlice (who : Who) (slice : Nat)
  /-- DEV_FAULT (R536): DEV_FLT_CMD DEV_FAULT raises a device fault. -/
  | devFault (who : Who)
  /-- KICK (R535): DEV_FLT_CMD KICK restarts the quoin watchdog. -/
  | kick (who : Who)
  /-- QUOIN_WDOG_EXPIRE (R535): No KICK within WDOG_MS raises a device fault. -/
  | quoinWdogExpire
  /-- PCIE_LINK_TIMEOUT (R535): The link stays down for LINK_MS and raises a device fault. -/
  | pcieLinkTimeout
  /-- UE_WINDOW_START (R534): A new 1 s window resets the uncorrectable-error counters. -/
  | ueWindowStart
  /-- DEV_FLT_CNT_CLR (R540): Clears the hod CE and mortar parity counters. The value written. -/
  | devFltCntClr (who : Who) (value : BitVec 32)
  /-- VEC_CNT_CLR (R197): Clears VEC_SWITCH_CNT. The value written. -/
  | vecCntClr (who : Who) (tile : Nat) (value : BitVec 32)
  /-- ARR_CNT_CLR (R256): Clears the array busy and wait counters. The value written. -/
  | arrCntClr (who : Who) (tile : Nat) (value : BitVec 32)
  /-- DRN_CNT_CLR (R256): Clears DRN_ROW_CNT. The value written. -/
  | drnCntClr (who : Who) (tile : Nat) (value : BitVec 32)
  /-- SCE_CNT_CLR (R282): Clears the small-channel engine counters. The value written. -/
  | sceCntClr (who : Who) (tile : Nat) (value : BitVec 32)
  /-- MOR_CNT_CLR (R313): Clears the mortar counters. The value written. -/
  | morCntClr (who : Who) (value : BitVec 32)
  /-- HOD_CNT_CLR (R313): Clears the hod rejection counters. The value written. -/
  | hodCntClr (who : Who) (value : BitVec 32)
  /-- STEP_CNT_CLR (R333): Clears the selected step counters. The value written. -/
  | stepCntClr (who : Who) (tile : Nat) (value : BitVec 32)
  /-- THERMAL_TRIP (R559): A sensor reaches the trip temperature; THERMTRIP_N goes low and the outputs are forced. -/
  | thermalTrip
  /-- PCIE_LINK_UP (R555): The PCIe link completes training and DEV_LINK_STATUS shows its width and speed. The
  fields of DEV_LINK_STATUS. -/
  | pcieLinkUp (width speed : BitVec 3) (flit : Bool)
  /-- BOND_LINK_DOWN (R479): The bond link goes down and LINK_UP reads 0. -/
  | bondLinkDown
  /-- COMPLETION_TIMEOUT (R381): A non-posted DMA request to the host gets no completion within the completion
  time-out and its element ends with HOST_ERR. The channel whose read request is not completed. -/
  | completionTimeout (ch : Nat)
  /-- PCIE_CONFIG_WRITE (R394): A host write to configuration space changes Bus Master Enable, Memory Space Enable
  or the MSI-X function mask. The setting, or what a read names; whether the write is poisoned. -/
  | pcieConfigWrite (field : PcieCfg) (ep : Bool)
  /-- CLK_SOURCE_EDGES_RETURN (R437): An ABSENT or FAILED reference source shows edges again and enters QUALIFYING.
  Whether the source is XTAL. -/
  | clkSourceEdgesReturn (xtal : Bool)
  /-- CHAIN_BAD_FRAME_RX (R461): A chain frame that fails its CRC, or has TYPE 0 or 6 to 15, is received and
  discarded with its count. The frame received. -/
  | chainBadFrameRx (f : BitVec 64)
  deriving DecidableEq, Repr

end Sys2Proof
end

