-- ==== Sys2Proof/Decode.lean ====
section
/-! DEFINITION. The command that a word spells by the bits of the spec's table. The table gives no row any bits: no
word spells a command. -/

namespace Sys2Proof

/-- The command whose bits, of the `nbits` that the table gives its row, are `w`: none, as no row has bits. -/
def decodeTableWord (_nbits _w : Nat) : Option Instr := none

end Sys2Proof
end

