-- ==== Sys2Proof/Machine/Bits.lean ====
section
/-! DEFINITION. Bit fields, sign extension and byte order (R5, R6). -/

namespace Sys2Proof.Machine

/-- The value of the `w` bits of `x` from bit `lo` up (R5). -/
def fld {n : Nat} (x : BitVec n) (lo w : Nat) : Nat := (x.toNat >>> lo) % 2 ^ w

/-- Bit `i` of `x`. -/
def bit {n : Nat} (x : BitVec n) (i : Nat) : Bool := x.getLsbD i

/-- `x` with the `w` bits from `lo` up replaced by `v`. -/
def setFld {n : Nat} (x : BitVec n) (lo w v : Nat) : BitVec n :=
  let old := (x.toNat >>> lo) % 2 ^ w
  BitVec.ofNat n (x.toNat - old <<< lo + (v % 2 ^ w) <<< lo)

/-- `x` with bit `i` set or cleared. -/
def setBit {n : Nat} (x : BitVec n) (i : Nat) (b : Bool) : BitVec n :=
  setFld x i 1 (if b then 1 else 0)

/-- A truth value as one bit. -/
def b2n (b : Bool) : Nat := if b then 1 else 0

/-- The signed value of the low `w` bits of `x`. -/
def sgn (w x : Nat) : Int :=
  let v := x % 2 ^ w
  if v < 2 ^ (w - 1) then (v : Int) else (v : Int) - (2 ^ w : Nat)

/-- The low `w` bits of an integer, as an unsigned value. -/
def wrap (w : Nat) (x : Int) : Nat := (x % ((2 ^ w : Nat) : Int)).toNat

/-- An integer held to the signed range of `w` bits. -/
def satS (w : Nat) (x : Int) : Int :=
  let hi : Int := (2 ^ (w - 1) : Nat)
  if x > hi - 1 then hi - 1 else if x < -hi then -hi else x

/-- An integer held to the unsigned range of `w` bits. -/
def satU (w : Nat) (x : Int) : Int :=
  let hi : Int := (2 ^ w : Nat)
  if x > hi - 1 then hi - 1 else if x < 0 then 0 else x

/-- Bytes to a number, the first byte lowest (R6). -/
def packBytes : List (BitVec 8) → Nat
  | [] => 0
  | b :: r => b.toNat + 256 * packBytes r

/-- The `n` low bytes of a number, lowest first (R6). -/
def unpackBytes : Nat → Nat → List (BitVec 8)
  | 0, _ => []
  | n + 1, x => BitVec.ofNat 8 x :: unpackBytes n (x / 256)

/-- Lane `i` of width `w` of `x`. -/
def lane {n : Nat} (x : BitVec n) (w i : Nat) : Nat := fld x (w * i) w

/-- Lanes of width `w`, the first lowest, packed into a number. -/
def packLanes (w : Nat) : List Nat → Nat
  | [] => 0
  | v :: r => v % 2 ^ w + 2 ^ w * packLanes w r

/-- The number of ones in `x`. -/
def popCount : Nat → Nat → Nat
  | 0, _ => 0
  | n + 1, x => x % 2 + popCount n (x / 2)

/-- The index of the lowest set bit of `x` among its `n` low bits. -/
def lowestSet (n x : Nat) : Option Nat := (List.range n).find? fun i => x.testBit i

/-- Bits needed to write `x`: 0 for 0, else ⌊log2 x⌋ + 1. -/
def bitLen (x : Nat) : Nat := if x = 0 then 0 else Nat.log2 x + 1

/-- The floor of an integer divided by a power of two. -/
def sar (x : Int) (k : Nat) : Int := x / ((2 ^ k : Nat) : Int)

/-- `x` divided by 2^k, rounded to nearest with ties toward +∞. -/
def sarRound (x : Int) (k : Nat) : Int :=
  if k = 0 then x else (x + ((2 ^ (k - 1) : Nat) : Int)) / ((2 ^ k : Nat) : Int)

end Sys2Proof.Machine
end

