-- ==== Sys2Proof/Machine/Num.lean ====
section
/-! DEFINITION. Exact arithmetic and rounding: binary floating-point formats, the narrow codes and their scales
(R95, R181, R199 to R205, R216).  A finite value is held as an exact fraction; every result is rounded once. -/

namespace Sys2Proof.Machine

/-- A floating-point value: an exact non-zero fraction n / d (d is positive), a signed zero, an infinity or a NaN. -/
inductive FV where
  | fin (n : Int) (d : Nat)
  | zero (neg : Bool)
  | inf (neg : Bool)
  | nan
  deriving DecidableEq, Repr

/-- The fraction n × 2^e / d. -/
def fracScale (n : Int) (d : Nat) (e : Int) : Int × Nat :=
  if e ≥ 0 then (n * ((2 ^ e.toNat : Nat) : Int), d) else (n, d * 2 ^ (-e).toNat)

/-- The value m × 2^e, +0 when m is 0. -/
def FV.ofDyadic (m : Int) (e : Int) : FV :=
  if m = 0 then .zero false else let (n, d) := fracScale m 1 e; .fin n d

/-- The fraction n / d as a value, +0 when n is 0. -/
def FV.ofFrac (n : Int) (d : Nat) : FV := if n = 0 then .zero false else .fin n d

/-- An exact integer as a value. -/
def FV.ofInt (n : Int) : FV := FV.ofFrac n 1

/-- ⌊log2 (n / d)⌋ for a positive fraction. -/
def fracLog2 (n d : Nat) : Int :=
  let l : Int := (bitLen n : Int) - (bitLen d : Int)
  let (a, b) := fracScale (n : Int) d (-l)
  if a ≥ (b : Int) then l else l - 1

/-- n / d in units of 2^e, rounded to nearest with ties toward +∞ (R95, R180). -/
def fracRound (n : Int) (d : Nat) (e : Int) : Int :=
  let (a, b) := fracScale n d (-e)
  (2 * a + (b : Int)) / (2 * (b : Int))

/-- n / d in units of 2^e, rounded toward −∞. -/
def fracFloor (n : Int) (d : Nat) (e : Int) : Int :=
  let (a, b) := fracScale n d (-e)
  a / (b : Int)

/-- n / d (not 0) rounded to `p` significant bits, ties toward +∞: the integer and the exponent of its unit. -/
def roundSig (p : Nat) (n : Int) (d : Nat) : Int × Int :=
  let e := fracLog2 n.natAbs d - (p : Int) + 1
  (fracRound n d e, e)

/-- Whether the value is negative (a signed zero or infinity included). -/
def FV.isNeg : FV → Bool
  | .fin n _ => decide (n < 0)
  | .zero s => s
  | .inf s => s
  | .nan => false

/-- Whether the value is a zero of either sign. -/
def FV.isZero : FV → Bool
  | .zero _ => true
  | _ => false

/-- The value with its sign inverted (R96 FNEG). -/
def FV.neg : FV → FV
  | .fin n d => .fin (-n) d
  | .zero s => .zero (!s)
  | .inf s => .inf (!s)
  | .nan => .nan

/-- The value with its sign cleared (R96 FABS). -/
def FV.abs : FV → FV
  | .fin n d => .fin n.natAbs d
  | .zero _ => .zero false
  | .inf _ => .inf false
  | .nan => .nan

/-- The exact sum; an exact sum of 0 is +0 unless both are −0 (IEEE 754, R95). -/
def FV.add : FV → FV → FV
  | .nan, _ => .nan
  | _, .nan => .nan
  | .inf a, .inf b => if a = b then .inf a else .nan
  | .inf a, _ => .inf a
  | _, .inf b => .inf b
  | .zero a, .zero b => .zero (a && b)
  | .zero _, y => y
  | x, .zero _ => x
  | .fin n d, .fin m e => FV.ofFrac (n * (e : Int) + m * (d : Int)) (d * e)

/-- The exact difference. -/
def FV.sub (x y : FV) : FV := x.add y.neg

/-- The exact product. -/
def FV.mul (x y : FV) : FV :=
  match x, y with
  | .nan, _ => .nan
  | _, .nan => .nan
  | .inf a, .zero _ => let _ := a; .nan
  | .zero _, .inf _ => .nan
  | .inf a, z => .inf (a != z.isNeg)
  | z, .inf a => .inf (a != z.isNeg)
  | .zero a, z => .zero (a != z.isNeg)
  | z, .zero a => .zero (a != z.isNeg)
  | .fin n d, .fin m e => .fin (n * m) (d * e)

/-- The exact quotient (R211, R254). -/
def FV.div (x y : FV) : FV :=
  match x, y with
  | .nan, _ => .nan
  | _, .nan => .nan
  | .inf _, .inf _ => .nan
  | .zero _, .zero _ => .nan
  | .inf a, z => .inf (a != z.isNeg)
  | z, .inf a => .zero (a != z.isNeg)
  | .zero a, z => .zero (a != z.isNeg)
  | z, .zero a => .inf (a != z.isNeg)
  | .fin n d, .fin m e =>
    if m < 0 then .fin (-(n * (e : Int))) (d * m.natAbs) else .fin (n * (e : Int)) (d * m.natAbs)

/-- Order of two values that are not NaN: −1, 0 or 1, zeros of either sign equal. -/
def FV.cmp (x y : FV) : Int :=
  let key : FV → Int × Nat
    | .fin n d => (n, d)
    | _ => (0, 1)
  match x, y with
  | .inf a, .inf b => if a = b then 0 else if a then -1 else 1
  | .inf a, _ => if a then -1 else 1
  | _, .inf b => if b then 1 else -1
  | _, _ =>
    let (n, d) := key x
    let (m, e) := key y
    let l := n * (e : Int)
    let r := m * (d : Int)
    if l < r then -1 else if l = r then 0 else 1

/-- The lesser value; +0 is taken as larger than −0, and a NaN source gives the other (R95, R96 FMIN). -/
def FV.minV (x y : FV) : FV :=
  match x, y with
  | .nan, z => z
  | z, .nan => z
  | .zero a, .zero b => .zero (a || b)
  | x, y => if x.cmp y ≤ 0 then x else y

/-- The greater value; +0 is taken as larger than −0, and a NaN source gives the other (R95, R96 FMAX). -/
def FV.maxV (x y : FV) : FV :=
  match x, y with
  | .nan, z => z
  | z, .nan => z
  | .zero a, .zero b => .zero (a && b)
  | x, y => if x.cmp y ≥ 0 then x else y

/-- A binary format: exponent and mantissa widths (IEEE layout, bias 2^(ew−1) − 1). -/
structure FFmt where
  ew : Nat
  mw : Nat
  deriving DecidableEq, Repr

/-- The bias of a format. -/
def FFmt.bias (f : FFmt) : Int := (2 ^ (f.ew - 1) : Nat) - 1

/-- binary32 (R95). -/
def fmtF32 : FFmt := ⟨8, 23⟩
/-- BF16 (R181). -/
def fmtBf16 : FFmt := ⟨8, 7⟩
/-- binary16 (R202). -/
def fmtF16 : FFmt := ⟨5, 10⟩

/-- The value that bits `x` of format `f` hold; `flush` takes a subnormal as a zero of its sign (R95). -/
def FFmt.decode (f : FFmt) (flush : Bool) (x : Nat) : FV :=
  let m := x % 2 ^ f.mw
  let e := (x / 2 ^ f.mw) % 2 ^ f.ew
  let s := (x / 2 ^ (f.mw + f.ew)) % 2 == 1
  let sg (k : Nat) : Int := if s then -(k : Int) else (k : Int)
  if e = 2 ^ f.ew - 1 then (if m = 0 then .inf s else .nan)
  else if e = 0 then
    if m = 0 || flush then .zero s else FV.ofDyadic (sg m) (1 - f.bias - (f.mw : Int))
  else FV.ofDyadic (sg (m + 2 ^ f.mw)) ((e : Int) - f.bias - (f.mw : Int))

/-- The quiet NaN of a format: exponent all ones and the top mantissa bit (R95, R181). -/
def FFmt.qnan (f : FFmt) : Nat := (2 ^ f.ew - 1) * 2 ^ f.mw + 2 ^ (f.mw - 1)

/-- The bits of a value in format `f`: rounded once to nearest, ties toward +∞, with the exponent unbounded below;
then a magnitude below the smallest normal is flushed to a zero of its sign (R95), or, without `flush`, rounded in
the subnormal unit. A rounded magnitude beyond the largest finite is an infinity. -/
def FFmt.encode (f : FFmt) (flush : Bool) (v : FV) : Nat :=
  let sb (s : Bool) : Nat := if s then 2 ^ (f.mw + f.ew) else 0
  match v with
  | .nan => f.qnan
  | .inf s => sb s + (2 ^ f.ew - 1) * 2 ^ f.mw
  | .zero s => sb s
  | .fin n d =>
    let s := decide (n < 0)
    let (r, e) := roundSig (f.mw + 1) n d
    let a := r.natAbs
    let (a, e) := if a ≥ 2 ^ (f.mw + 1) then (a / 2, e + 1) else (a, e)
    let ex : Int := e + (f.mw : Int) + f.bias
    if ex ≥ (2 ^ f.ew - 1 : Nat) then sb s + (2 ^ f.ew - 1) * 2 ^ f.mw
    else if ex ≥ 1 then sb s + ex.toNat * 2 ^ f.mw + (a - 2 ^ f.mw)
    else if flush then sb s
    else
      let q := (fracRound n d (1 - f.bias - (f.mw : Int))).natAbs
      sb s + q

/-- The value of an F32 source (R95). -/
def f32In (x : Nat) : FV := fmtF32.decode true (x % 2 ^ 32)

/-- An F32 result (R95). -/
def f32Out (v : FV) : Nat := fmtF32.encode true v

/-- A value rounded to an integer, ties toward +∞, held to the signed range of `w` bits; NaN gives 0 (R95 CVTFI). -/
def FV.toIntSat (w : Nat) : FV → Int
  | .nan => 0
  | .zero _ => 0
  | .inf s => if s then -((2 ^ (w - 1) : Nat) : Int) else ((2 ^ (w - 1) : Nat) : Int) - 1
  | .fin n d => satS w (fracRound n d 0)

/-! ### Codes and scales (chapter 07) -/

/-- The code formats of R199. -/
inductive Code where
  | int8 | uint8 | int4 | uint4 | e4m3 | e5m2 | e3m2 | e2m1
  deriving DecidableEq, Repr

/-- The code-format field of R199; values 8 to 15 are reserved. -/
def Code.ofField : Nat → Option Code
  | 0 => some .int8 | 1 => some .uint8 | 2 => some .int4 | 3 => some .uint4
  | 4 => some .e4m3 | 5 => some .e5m2 | 6 => some .e3m2 | 7 => some .e2m1
  | _ => none

/-- Bits of a code (R199). -/
def Code.bits : Code → Nat
  | .int8 | .uint8 | .e4m3 | .e5m2 => 8
  | .e3m2 => 6
  | .int4 | .uint4 | .e2m1 => 4

/-- qmax (R199). -/
def Code.qmax : Code → Nat
  | .int8 => 127 | .uint8 => 255 | .int4 => 7 | .uint4 => 15
  | .e4m3 => 448 | .e5m2 => 57344 | .e3m2 => 28 | .e2m1 => 6

/-- Whether the code is an integer code. -/
def Code.isInt : Code → Bool
  | .int8 | .uint8 | .int4 | .uint4 => true
  | _ => false

/-- Lowest code value of an integer code (R199). -/
def Code.lo : Code → Int
  | .int8 => -128 | .int4 => -8 | _ => 0

/-- Highest code value of an integer code (R199). -/
def Code.hi : Code → Int
  | .int8 => 127 | .uint8 => 255 | .int4 => 7 | .uint4 => 15 | _ => 0

/-- Exponent width, mantissa width and bias of a float code (R200). -/
def Code.fields : Code → Nat × Nat × Int
  | .e4m3 => (4, 3, 7) | .e5m2 => (5, 2, 15) | .e3m2 => (3, 2, 3) | .e2m1 => (2, 1, 1)
  | _ => (0, 0, 0)

/-- The code value of an integer code's bits. -/
def Code.intVal (c : Code) (x : Nat) : Int :=
  match c with
  | .int8 => sgn 8 x
  | .int4 => sgn 4 x
  | .uint4 => (x % 16 : Nat)
  | _ => (x % 256 : Nat)

/-- What a code's bits stand for: a value, an infinity or a NaN (R200, R201). -/
def Code.decode (c : Code) (x : Nat) : FV :=
  if c.isInt then FV.ofInt (c.intVal x)
  else
    let (ew, mw, b) := c.fields
    let m := x % 2 ^ mw
    let e := (x / 2 ^ mw) % 2 ^ ew
    let s := (x / 2 ^ (mw + ew)) % 2 == 1
    let sg (k : Nat) : Int := if s then -(k : Int) else (k : Int)
    if c = .e4m3 && decide (x % 128 = 127) then .nan
    else if c = .e5m2 && decide (e = 31) then (if m = 0 then .inf s else .nan)
    else if e = 0 then (if m = 0 then .zero s else FV.ofDyadic (sg m) (1 - b - (mw : Int)))
    else FV.ofDyadic (sg (m + 2 ^ mw)) ((e : Int) - b - (mw : Int))

/-- The unit of a float code's binade at the value n / d: the spacing of R216 as a power of two. -/
def Code.unit (c : Code) (n : Int) (d : Nat) : Int :=
  let (_, mw, b) := c.fields
  let lo := 1 - b - (mw : Int)
  if n = 0 then lo else max lo (fracLog2 n.natAbs d - (mw : Int))

/-- The code of a non-zero finite value r × 2^u of a float code's lattice; +0 for r = 0. -/
def Code.packFloat (c : Code) (r : Int) (u : Int) : Nat :=
  let (ew, mw, b) := c.fields
  if r = 0 then 0 else
    let s := if r < 0 then 2 ^ (mw + ew) else 0
    let a := r.natAbs
    let (a, u) := if a ≥ 2 ^ (mw + 1) then (a / 2, u + 1) else (a, u)
    if a < 2 ^ mw then s + a
    else s + (u + (mw : Int) + b).toNat * 2 ^ mw + (a - 2 ^ mw)

/-- The scale formats of R202; value 3 is reserved. -/
inductive ScaleFmt where
  | e8m0 | ue4m3 | fp16
  deriving DecidableEq, Repr

/-- The scale-format field of R202. -/
def ScaleFmt.ofField : Nat → Option ScaleFmt
  | 0 => some .e8m0 | 1 => some .ue4m3 | 2 => some .fp16 | _ => none

/-- The magnitude of a binary16 scale: the sign is ignored, and exponent field 31 is taken as 65,504 (R202). -/
def fp16Scale (x : Nat) : FV :=
  if (x / 1024) % 32 = 31 then FV.ofInt 65504 else (fmtF16.decode false (x % 32768)).abs

/-- The value of a scale word's scale; a ZERO scale is +0 (R202, R203). -/
def ScaleFmt.value (f : ScaleFmt) (word : Nat) : FV :=
  match f with
  | .e8m0 =>
    let e := word % 256
    if e = 255 then .zero false else FV.ofDyadic 1 ((e : Int) - 127)
  | .ue4m3 =>
    let m := word % 8
    let e := (word / 8) % 16
    if e = 0 then FV.ofDyadic m (-9) else FV.ofDyadic (m + 8 : Nat) ((e : Int) - 10)
  | .fp16 => fp16Scale word

/-- The zero point of a scale word, read according to the code format (R203). -/
def scaleZp (f : ScaleFmt) (c : Code) (word : Nat) : Int :=
  if f = .fp16 then 0 else
    match c with
    | .int8 => sgn 8 (word / 256)
    | .int4 => sgn 4 (word / 256)
    | .uint8 => (word / 256 % 256 : Nat)
    | .uint4 => (word / 256 % 16 : Nat)
    | _ => 0

/-- The ZERO encoding of a scale format (R202). -/
def ScaleFmt.zeroWord : ScaleFmt → Nat
  | .e8m0 => 0xFF
  | _ => 0

/-- The largest scale of a format (R202). -/
def ScaleFmt.maxWord : ScaleFmt → Nat
  | .e8m0 => 254
  | .ue4m3 => 0x7F
  | .fp16 => 0x7BFF

/-- The smallest scale of the format not less than n / d (positive), and whether n / d exceeded the largest scale
(R210). -/
def ScaleFmt.ceil (f : ScaleFmt) (n d : Nat) : Nat × Bool :=
  let up (e : Int) : Nat := (-(fracFloor (-(n : Int)) d e)).toNat
  match f with
  | .e8m0 =>
    let l := fracLog2 n d
    let k := if up l = 1 then l else l + 1
    if k > 127 then (254, true) else if k < -127 then (0, false) else ((k + 127).toNat, false)
  | .ue4m3 =>
    let u := max (-9) (fracLog2 n d - 3)
    let a := up u
    let (a, u) := if a ≥ 16 then (a / 2, u + 1) else (a, u)
    if a < 8 then (a, false)
    else
      let w := (u + 10).toNat * 8 + (a - 8)
      if w > 0x7F then (0x7F, true) else (w, false)
  | .fp16 =>
    let u := max (-24) (fracLog2 n d - 10)
    let a := up u
    let (a, u) := if a ≥ 2048 then (a / 2, u + 1) else (a, u)
    if a < 1024 then (a, false)
    else
      let w := (u + 25).toNat * 1024 + (a - 1024)
      if w > 0x7BFF then (0x7BFF, true) else (w, false)

/-- The ZF16 bits of an exact value (not special), with whether SCALE_SAT is set (R204, R205). -/
def zf16Of (v : FV) : BitVec 16 × Bool :=
  match v with
  | .fin n d =>
    let s : Nat := if n < 0 then 0x8000 else 0
    let l := fracLog2 n.natAbs d
    if l < -30 then (0, true)
    else
      let (r, e) := roundSig 10 n d
      let a := r.natAbs
      let (a, e) := if a ≥ 1024 then (a / 2, e + 1) else (a, e)
      let ex := e + 9 + 31
      if ex > 63 then (BitVec.ofNat 16 (s + 0x7FFF), true)
      else (BitVec.ofNat 16 (s + ex.toNat * 512 + (a - 512)), false)
  | .inf s => (if s then 0xFFFF#16 else 0x7FFF#16, true)
  | .nan => (0, true)
  | .zero _ => (0, false)

/-- The value of a ZF16 word as m × 2^e (R204). -/
def zf16Val (x : Nat) : Int × Int :=
  let e := (x / 512) % 64
  let f := x % 512
  if e = 0 then (0, 0)
  else ((if x ≥ 0x8000 then -((512 + f : Nat) : Int) else ((512 + f : Nat) : Int)), (e : Int) - 40)

/-- Expand a code with its scale into ZF16, and whether SCALE_SAT is set (R205, R201). -/
def expandCode (c : Code) (x : Nat) (scale : FV) : BitVec 16 × Bool :=
  let v := c.decode x
  if scale.isZero || v.isZero then (0, false) else zf16Of (v.mul scale)

end Sys2Proof.Machine
end

