-- ==== Sys2Proof/Config.lean ====
section
/-! DEFINITION. What the spec leaves open: free values with no body, so that no proof can learn a value of them.
Each is named in the assumption log. -/

namespace Sys2Proof.Config

/-- The `k`-th free value drawn, of `w` bits (log entry 1): where the spec leaves a value open and the device goes on. -/
opaque freeValue (w k : Nat) : BitVec w

/-- What an unwritten DDR5 byte reads as after the contents have been lost `gen` times (R442; log entry 3). -/
opaque ddrLost (gen addr : Nat) : BitVec 8

/-- A synchronised copy's lag behind TIME in TIME_CLK cycles, for the copy of unit `u` at draw `k` (R418; log
entry 6). -/
opaque copyLag (u k : Nat) : Nat

/-- A byte of the boot ROM (R490; log entry 7). -/
opaque romByte (addr : Nat) : BitVec 8

/-- A raw byte of the PUF SRAM before anything writes it (R490, R503; log entry 7). -/
opaque pufByte (addr : Nat) : BitVec 8

/-- A byte of the QSPI flash as the board was fitted with it (R489; log entry 7). -/
opaque flashByte (addr : Nat) : BitVec 8

/-- The ASCII text of a line that the boot ROM sends: 2n as item n begins and 2n + 1 as it ends, and 256 + the code of a boot error (R502; log
entry 109). -/
opaque romLine (line : Nat) : List (BitVec 8)

/-- How many cycles a bit of the boot ROM's console takes (R502; log entry 109). -/
opaque uartBit : Nat

/-- The level that quoin firmware gives UART_TX in a cycle (R502; log entry 109). -/
opaque uartFirmware (cycle : Nat) : Bool

/-- SHA3-256 of a byte string (R160, R496; log entry 7). -/
opaque sha3 (bytes : List (BitVec 8)) : BitVec 256

/-- ML-DSA-44 verification of a signature over a digest with a public key (R496; log entry 7). -/
opaque sigOk (key : BitVec 10496) (digest : BitVec 256) (sig : List (BitVec 8)) : Bool

/-- ML-DSA-44 signature over a digest by the private key of a seed (R504, R508; log entry 7). -/
opaque sign (seed : BitVec 256) (digest : BitVec 256) : List (BitVec 8)

/-- Public key of the ML-DSA-44 key pair that a 32-byte seed generates (R504; log entry 7). -/
opaque devicePublic (seed : BitVec 256) : BitVec 10496

/-- The digest of the vendor's root public key in mask ROM (R496; log entry 7). -/
opaque rootDigest : BitVec 256

/-- The PUF key reconstructed from a raw PUF read and the helper bits (R503; log entry 7). -/
opaque reconstruct (raw helper : List (BitVec 8)) : BitVec 256

/-- Byte `i` of the fresh helper bits that enrolment `k` generates for a raw PUF read (R505; log entry 7). -/
opaque helperByte (raw : List (BitVec 8)) (k i : Nat) : BitVec 8

/-- What a byte of SEC_MB_BUF reads as before anything writes it (R11, R510; log entry 7). -/
opaque mbByte (addr : Nat) : BitVec 8

/-- The scale-format field (R202) of a VQUANT or VDEQ slot, for which the spec names no bits (log entry 11). -/
opaque slotScaleFmt (slot : BitVec 64) : Nat

end Sys2Proof.Config
end

