-- ==== Sys2Proof/Machine/Sparse.lean ====
section
/-! DEFINITION. Sparse memories in one canonical form: a list of (index, contents) pairs, indices strictly rising,
with no entry equal to what an unlisted index reads as. -/

namespace Sys2Proof.Machine

/-- What index `a` holds: its entry, else the default `d a`. -/
def sget {β : Type} (d : Nat → β) : List (Nat × β) → Nat → β
  | [], a => d a
  | (k, v) :: r, a => if k = a then v else sget d r a

/-- Store `v` at index `a`, keeping the canonical form. -/
def sset {β : Type} [DecidableEq β] (d : Nat → β) : List (Nat × β) → Nat → β → List (Nat × β)
  | [], a, v => if v = d a then [] else [(a, v)]
  | (k, w) :: r, a, v =>
    if a < k then (if v = d a then (k, w) :: r else (a, v) :: (k, w) :: r)
    else if a = k then (if v = d a then r else (a, v) :: r)
    else (k, w) :: sset d r a v

/-- Drop every entry whose index satisfies `p`: those indices read as the default again. -/
def sdrop {β : Type} (p : Nat → Bool) (m : List (Nat × β)) : List (Nat × β) :=
  m.filter fun e => !p e.1

/-- Change every entry by `f`, keeping the canonical form. -/
def smap {β : Type} [DecidableEq β] (d : Nat → β) (f : Nat → β → β) (m : List (Nat × β)) : List (Nat × β) :=
  (m.map fun e => (e.1, f e.1 e.2)).filter fun e => !decide (e.2 = d e.1)

/-- Every index listed is at least `lo`, indices rise strictly, and no entry is a default. -/
def swfFrom {β : Type} [DecidableEq β] (d : Nat → β) : Nat → List (Nat × β) → Bool
  | _, [] => true
  | lo, (k, v) :: r => decide (lo ≤ k) && !decide (v = d k) && swfFrom d (k + 1) r

/-- The canonical form of a sparse memory. -/
def swf {β : Type} [DecidableEq β] (d : Nat → β) (m : List (Nat × β)) : Bool := swfFrom d 0 m

/-- Replace element `i` of a list by `f` of it; a list without that element is unchanged. -/
def upd {α : Type} : List α → Nat → (α → α) → List α
  | [], _, _ => []
  | x :: r, 0, f => f x :: r
  | x :: r, i + 1, f => x :: upd r i f

/-- Replace element `i` of a list. -/
def lput {α : Type} (l : List α) (i : Nat) (x : α) : List α := upd l i fun _ => x

/-- The entry of a keyed list. -/
def kget {β : Type} : List (Nat × β) → Nat → Option β
  | [], _ => none
  | (k, v) :: r, a => if k = a then some v else kget r a

/-- Put an entry in a keyed list, keys rising. -/
def kset {β : Type} : List (Nat × β) → Nat → β → List (Nat × β)
  | [], a, v => [(a, v)]
  | (k, w) :: r, a, v => if a < k then (a, v) :: (k, w) :: r else if a = k then (a, v) :: r else (k, w) :: kset r a v

end Sys2Proof.Machine
end

