-- ==== Sys2Proof/Machine/State.lean ====
section
/-! DEFINITION. The state of the device as plain data: every register, memory, FIFO, buffer, counter, mode and pin
that the spec names, with its reset value, and the queue of the commands that wait.  Each field's docstring gives
its width, its name, the rule that names it and its value at reset. -/

namespace Sys2Proof.Machine

/-- What the present cycle has brought to a block's CLR fields and counters, so that a CLR write and an event of one cycle end as R9, R71
and R198 say whichever the model takes first. -/
structure Happened where
  /-- [64] the fields, by the place of their bit, that an event of the present cycle set (the model's own bookkeeping, R9, 00_scope.md)
  reset 0. -/
  set : BitVec 64
  /-- [64] what the block's error register captures of the first case of the present cycle (the model's own bookkeeping, R9,
  00_scope.md) reset 0, none. -/
  err : BitVec 64
  /-- [32] the counters that a write of the present cycle cleared (the model's own bookkeeping, R71, 02_tile_store.md) reset 0. -/
  clr : BitVec 32
  deriving DecidableEq, Repr

/-- Nothing has happened. -/
def Happened.none : Happened := { set := 0, err := 0, clr := 0 }

/-! ### Tile store (chapter 02) -/

/-- The four power states of a tile-store bank and of a stream-cache slice (R63, R352). -/
inductive BankState where
  | off | waking | on | draining
  deriving DecidableEq, Repr

/-- A course range as a command or a step declares it (R27, R51). -/
structure Range where
  /-- [15] first course index, R27. -/
  start : Nat
  /-- [16] length in courses, R27. -/
  length : Nat
  /-- [1] DIR: true for a write range, R27. -/
  write : Bool
  /-- [1] CARRIED, R27. -/
  carried : Bool
  deriving DecidableEq, Repr

/-- One outstanding entry of the range scoreboard (TS_SB_ENTRY, R53, R70). -/
structure SbEntry where
  /-- [15] TS_SB_ENTRY.START, R70. -/
  start : Nat
  /-- [16] TS_SB_ENTRY.LENGTH, R70. -/
  length : Nat
  /-- [1] TS_SB_ENTRY.DIR, R70. -/
  write : Bool
  /-- [3] TS_SB_ENTRY.ENGINE, 0 to 5 the ENGINE_MASK bits, 6 a mirror read, R70. -/
  engine : Nat
  /-- [1] TS_SB_ENTRY.URGENT, R70. -/
  urgent : Bool
  /-- the ranges of the commands the entry stands for, each with its command's place in the order of issue (R53, R54). -/
  users : List (Range × Nat)
  deriving DecidableEq, Repr

/-- The tile store of one tile: its bytes, their parity, its banks and its TS_ block. -/
structure TileStore where
  /-- [8 each, 4 MiB] R39 (02_tile_store.md) reset every byte 0 (R68). -/
  bytes : List Host.Cell
  /-- [1 per 32-bit word] R59 (02_tile_store.md) reset every word's parity correct (R68): the words whose stored parity is wrong. -/
  badParity : List (Nat × Bool)
  /-- [16] TS_BANK_PWR_REQ.REQ, R70 (02_tile_store.md) reset 0xFFFF. -/
  pwrReq : BitVec 16
  /-- [2 × 16] TS_BANK_STATE.STATE, R63, R70 (02_tile_store.md) reset ON for each bank. -/
  bankState : List BankState
  /-- [64 × 16] R64 (02_tile_store.md) reset 0 for each bank: TIME at which the bank's 2 µs of WAKING began. -/
  wakeFrom : List Nat
  /-- [9 × 16] TS_BANK_INFLIGHT.COUNT, R65, R70 (02_tile_store.md) reset 0. -/
  inflight : List Nat
  /-- [32] TS_CONFLICT_CNT, R50, R70 (02_tile_store.md) reset 0. -/
  conflictCnt : BitVec 32
  /-- [32] TS_OFF_ACCESS, R67, R70 (02_tile_store.md) reset 0. -/
  offAccess : BitVec 32
  /-- [32] TS_PERR_STATUS (COURSE, WORD, SOURCE, OVERFLOW, VALID), R60, R70 (02_tile_store.md) reset 0. -/
  perrStatus : BitVec 32
  /-- [32] TS_PERR_COUNT, R60, R70 (02_tile_store.md) reset 0. -/
  perrCount : BitVec 32
  /-- [32] TS_PERR_INJ (ARM, WORD, COURSE), R62, R70 (02_tile_store.md) reset 0. -/
  perrInj : BitVec 32
  /-- [64 × 16] TS_SB_ENTRY (and TS_SB_STATUS.USED), R51, R53, R70 (02_tile_store.md) reset none outstanding. -/
  sb : List (Option SbEntry)
  /-- [7] TS_SB_STATUS.HELD: the normal step's commands held at issue, and bit 6, an instruction of the sequencer that waits, R70
  (02_tile_store.md) reset 0. -/
  held : BitVec 7
  /-- [7] TS_SB_STATUS.HELD: the urgent step's commands held at issue, R70 (02_tile_store.md) reset 0. -/
  heldU : BitVec 7
  /-- [1] TS_SB_STATUS.HELD bit 6: the sequencer's oldest buffered store waits under R56, R70 (02_tile_store.md) reset 0. -/
  drainHeld : Bool
  /-- the cycles that TS_CONFLICT_CNT has counted, as intervals from a cycle up to but not including a cycle, R50 (02_tile_store.md)
  reset none. -/
  conflictAt : List (Nat × Nat)
  /-- CLR fields and counters in the present cycle, R71 (02_tile_store.md), R9 reset nothing. -/
  now : Happened
  deriving DecidableEq, Repr

/-- The tile store at the end of reset: every bank ON, every course zero with correct parity (R68, R70). -/
def TileStore.reset : TileStore :=
  { bytes := [], badParity := [], pwrReq := 0xFFFF#16,
    bankState := List.replicate 16 .on, wakeFrom := List.replicate 16 0,
    inflight := List.replicate 16 0, conflictCnt := 0, offAccess := 0,
    perrStatus := 0, perrCount := 0, perrInj := 0,
    sb := List.replicate 16 none, held := 0, heldU := 0, drainHeld := false, conflictAt := [], now := .none }

/-! ### Sequencer core (chapters 03, 04, 05) -/

/-- A 36-bit sequencer word: a tag and a payload (R72). -/
structure TWord where
  /-- [4] the tag, R72. -/
  tag : BitVec 4
  /-- [32] the payload, R72. -/
  val : BitVec 32
  deriving DecidableEq, Repr

/-- Tag UNINIT, payload 0: what a local RAM word and a g register hold after reset (R73). -/
def TWord.uninit : TWord := ⟨0, 0⟩

/-- One entry of the fetch buffer: an instruction with the address it came from and what its fetch found
(R90, R116, R130). -/
structure FetchEntry where
  /-- [32] byte address the instruction was fetched from, R130. -/
  addr : BitVec 32
  /-- [64] the instruction, R89. -/
  word : BitVec 64
  /-- [1] a word of it carried a tag other than CODE, R90. -/
  notCode : Bool
  /-- [1] a word of it had a parity error, R116. -/
  parity : Bool
  /-- [1] its address is at or beyond 0x2_0000, R130. -/
  beyond : Bool
  deriving DecidableEq, Repr

/-- One entry of the store buffer (R134). -/
structure StoreEntry where
  /-- [1] true for the tile store, false for local RAM, R134. -/
  tile : Bool
  /-- [22] byte address, R134. -/
  addr : Nat
  /-- [5] bytes, 1 to 16, R127, R134. -/
  size : Nat
  /-- [128] the bytes, lowest address in the low bits, R134. -/
  data : BitVec 128
  /-- [4 × 4] for local RAM, the tags of the words the piece touches, in address order, R134. -/
  tags : List (BitVec 4)
  /-- [128] the whole words the piece touches, with its bytes merged in: what its write writes back, R135. -/
  back : BitVec 128
  deriving DecidableEq, Repr

/-- What a sequencer in WAITING waits for (R106 to R108, R112): the instruction's operands as they were read. -/
inductive WaitFor where
  /-- WAITE: destination specifier and mask, R106. -/
  | event (a : BitVec 19) (mask : BitVec 128)
  /-- WAITET: destination specifier, mask and time, R107. -/
  | eventTime (a : BitVec 19) (mask : BitVec 128) (t : BitVec 64)
  /-- WAITT: time, R108. -/
  | time (t : BitVec 64)
  /-- a STEP stalled on a full issue register: priority and the 128 B of its descriptor, R112. -/
  | step (urgent : Bool) (desc : BitVec 1024)
  deriving DecidableEq, Repr

/-- The first instruction of a pair, issued, and what it writes when its group writes back (R120, R140): nothing of it but
its store pieces is written before its second instruction completes, and an interrupt before then abandons the pair. -/
structure GroupLate where
  /-- [17] the first instruction's address, R140. -/
  pc : BitVec 32
  /-- [36 each] the registers g1 to g15 of the level that it writes, R120. -/
  g : List (Nat × TWord)
  /-- [64 each] the registers f0 to f31 that it writes, R120. -/
  f : List (Nat × BitVec 64)
  /-- [5] SEQ_FFCOUNT.COUNT, if it writes it, R120, R138. -/
  ffcount : Option (BitVec 5)
  /-- [36 each] the near-page words that it writes, R83, R120. -/
  near : List (Nat × TWord)
  /-- [128] the event lines that a PULSE drives, with SELF, R109, R120. -/
  pulse : BitVec 128
  /-- the status register that an STSTAT clears (true for urgent), as it read it, R113, R120. -/
  stat : Option (Bool × BitVec 32)
  /-- the address, bytes and data of a store into the RAW space, R120, R490. -/
  raw : Option (Nat × Nat × Nat)
  /-- the store-buffer entries that it has placed, which stand last, R120, R140. -/
  placed : Nat
  /-- [1] the second instruction is held or stalled, R140. -/
  held : Bool
  deriving DecidableEq, Repr

/-- A sequencer core: a tile's, or the quoin's (R72, R76, R118). -/
structure SeqCore where
  /-- [36 × 7] g1 to g7, R76 (03_sequencer_isa.md) reset UNINIT (R73). -/
  gShared : List TWord
  /-- [36 × 8] g8 to g15 of the base level, R76 (03_sequencer_isa.md) reset UNINIT (R73). -/
  gBase : List TWord
  /-- [36 × 8] g8 to g15 of the IRQ level and SEQ_SHADOW_IRQ, R76, R77, R118 (03_sequencer_isa.md) reset UNINIT (R73). -/
  gIrq : List TWord
  /-- [36 × 8] g8 to g15 of the URG level and SEQ_SHADOW_URG, R76, R77, R118 (03_sequencer_isa.md) reset UNINIT (R73). -/
  gUrg : List TWord
  /-- [64 × 32] f0 to f31, overlaid by q0 to q15, R76 (03_sequencer_isa.md) reset 0 (R73). -/
  f : List (BitVec 64)
  /-- [17] PC, SEQ_PC, R76, R118 (03_sequencer_isa.md) reset 0: held in 32 bits, so that an address beyond local RAM stays visible
  (R130). -/
  pc : BitVec 32
  /-- [32 entries] the hardware return stack, youngest first, R76, R79 (03_sequencer_isa.md) reset empty (R73). -/
  rstack : List (BitVec 32)
  /-- [15] SEQ_RSP_STATE.SPILLED, R79, R118 (03_sequencer_isa.md) reset 0. -/
  spilled : Nat
  /-- [32] SEQ_CTRL (IE_IRQ, IE_URG, SMC_EN, HALT_REQ), R118 (03_sequencer_isa.md) reset 0. -/
  ctrl : BitVec 32
  /-- [2] SEQ_STATUS.LEVEL, R118, R139 (03_sequencer_isa.md) reset 0. -/
  level : BitVec 2
  /-- [1] SEQ_STATUS.HALTED, R118 (03_sequencer_isa.md) reset 1. -/
  halted : Bool
  /-- [1] SEQ_STATUS.DOUBLE_TRAP, R115, R118 (03_sequencer_isa.md) reset 0. -/
  doubleTrap : Bool
  /-- SEQ_STATUS.WAITING and what is waited for, R110, R118 (03_sequencer_isa.md) reset not waiting. -/
  wait : Option WaitFor
  /-- [1 per level] SEQ_STATUS.BLK: a block instruction with RPT = 1 is suspended at base or IRQ level, R104, R118 (03_sequencer_isa.md)
  reset 0. -/
  blk : List Bool
  /-- [1] a block instruction with RPT = 1 has yielded between iterations and awaits its interrupt, R104, R140 (03_sequencer_isa.md)
  reset 0. -/
  yielded : Bool
  /-- [2] highest interrupt level that is recognised only after the next group completes (0 none), R147 (04_sequencer_timing.md) reset 0. -/
  recogHold : Nat
  /-- [1] a URG request that came in cycle 3 or 4 of an IRQ entry waits for the handler's first group, R145 (04_sequencer_timing.md)
  reset 0. -/
  entryHold : Bool
  /-- the pair whose second instruction has not yet completed, R120, R140 (04_sequencer_timing.md) reset none. -/
  group : Option GroupLate
  /-- [17] SEQ_ENTRY.PC, R118 (03_sequencer_isa.md) reset 0x0_1000. -/
  entry : BitVec 17
  /-- [17] SEQ_VEC_IRQ.PC, R118 (03_sequencer_isa.md) reset 0x0_1010. -/
  vecIrq : BitVec 17
  /-- [17] SEQ_VEC_URG.PC, R118 (03_sequencer_isa.md) reset 0x0_1020. -/
  vecUrg : BitVec 17
  /-- [17] SEQ_VEC_TRAP.PC, R118 (03_sequencer_isa.md) reset 0x0_1030. -/
  vecTrap : BitVec 17
  /-- [32] SEQ_TRAP_CAUSE (CAUSE, TAG, OPERAND), R114, R118 (03_sequencer_isa.md) reset 0. -/
  trapCause : BitVec 32
  /-- [17] SEQ_TRAP_PC.PC, R114, R118 (03_sequencer_isa.md) reset 0. -/
  trapPc : BitVec 17
  /-- [32] SEQ_TRAP_ADDR.ADDR, R114, R118 (03_sequencer_isa.md) reset 0. -/
  trapAddr : BitVec 32
  /-- [17] SEQ_RSP_BASE.ADDR, R79, R118 (03_sequencer_isa.md) reset 0x1_F000. -/
  rspBase : BitVec 17
  /-- [17] SEQ_RSP_LIMIT.ADDR, R79, R118 (03_sequencer_isa.md) reset 0x1_F400. -/
  rspLimit : BitVec 17
  /-- [5] SEQ_FFCOUNT.COUNT, R118, R138 (03_sequencer_isa.md) reset 0. -/
  ffcount : BitVec 5
  /-- [128] SEQ_EVT_LATCH, R105, R118 (03_sequencer_isa.md) reset 0. -/
  evtLatch : BitVec 128
  /-- [32] SEQ_STEP_STAT[0], R113, R118 (03_sequencer_isa.md) reset 0. -/
  stepStatN : BitVec 32
  /-- [32] SEQ_STEP_STAT[1], R113, R118 (03_sequencer_isa.md) reset 0. -/
  stepStatU : BitVec 32
  /-- [32] SEQ_STEP_ID[0], R113, R118 (03_sequencer_isa.md) reset 0. -/
  stepIdN : BitVec 32
  /-- [32] SEQ_STEP_ID[1], R113, R118 (03_sequencer_isa.md) reset 0. -/
  stepIdU : BitVec 32
  /-- [19] SEQ_EPC[0] (PC, PREV), R118, R119 (03_sequencer_isa.md) reset 0. -/
  epcIrq : BitVec 19
  /-- [19] SEQ_EPC[1] (PC, PREV), R118, R119 (03_sequencer_isa.md) reset 0. -/
  epcUrg : BitVec 19
  /-- [36 × 32,768] local RAM, by word index, R72, R73 (03_sequencer_isa.md) reset UNINIT 0 in every word (R73). -/
  lram : List (Nat × TWord)
  /-- [1 × 32,768] R116 (03_sequencer_isa.md) reset DESIGN CHOICE 0, correct in every word (entry 2): the local RAM words whose parity
  is wrong. -/
  lramBad : List (Nat × Bool)
  /-- [4 entries] the fetch buffer, oldest first, R130 (04_sequencer_timing.md) reset DESIGN CHOICE empty (entry 2). -/
  fetch : List FetchEntry
  /-- [4 entries] the store buffer, oldest first, R134 (04_sequencer_timing.md) reset DESIGN CHOICE empty (entry 2). -/
  stbuf : List StoreEntry
  /-- [32 × 576] decode RAM, by word index, R149, R150, R158 (05_decode_table.md) reset 0, every slot empty (R158, R160). -/
  decodeRam : List (Nat × BitVec 32)
  /-- [1 × 576] R163 (05_decode_table.md) reset DESIGN CHOICE 0, correct in every word (entry 2): the decode RAM words whose parity is
  wrong. -/
  decodeBad : List (Nat × Bool)
  deriving DecidableEq, Repr

/-- A sequencer core at reset (R73, R118). -/
def SeqCore.reset : SeqCore :=
  { gShared := List.replicate 7 .uninit, gBase := List.replicate 8 .uninit,
    gIrq := List.replicate 8 .uninit, gUrg := List.replicate 8 .uninit,
    f := List.replicate 32 0, pc := 0, rstack := [], spilled := 0, ctrl := 0, level := 0,
    halted := true, doubleTrap := false, wait := none, blk := [false, false], yielded := false,
    recogHold := 0, entryHold := false, group := none, entry := 0x1000#17, vecIrq := 0x1010#17, vecUrg := 0x1020#17,
    vecTrap := 0x1030#17, trapCause := 0, trapPc := 0, trapAddr := 0, rspBase := 0x1F000#17,
    rspLimit := 0x1F400#17, ffcount := 0, evtLatch := 0, stepStatN := 0, stepStatU := 0,
    stepIdN := 0, stepIdU := 0, epcIrq := 0, epcUrg := 0, lram := [], lramBad := [],
    fetch := [], stbuf := [], decodeRam := [], decodeBad := [] }

/-! ### Vector engine (chapter 06) -/

/-- A result of the vector engine on its way to its destination (R171, R191, R193). -/
structure VecResult where
  /-- engine cycle at whose end it lands (R171); in a drain latch, its distance d (R193). -/
  due : Nat
  /-- issue order of the operation, R172. -/
  seq : Nat
  /-- [2] slot of the operation, R172. -/
  slot : Nat
  /-- [11] bundle of the operation, R172. -/
  bundle : Nat
  /-- [1] issued by the urgent bank, R192. -/
  urgent : Bool
  /-- [1] true for an accumulator, false for a vector register, R171. -/
  acc : Bool
  /-- [5] number of the register or accumulator, R171. -/
  dst : Nat
  /-- the bits the result writes; the others keep their value (R187, R188, R190, R212). -/
  mask : BitVec 2304
  /-- the result's bits. -/
  val : BitVec 2304
  deriving DecidableEq, Repr

/-- One open loop of a vector program (R168). -/
structure VecLoop where
  /-- [11] first bundle of the body, R168. -/
  first : Nat
  /-- [11] last bundle of the body, R168. -/
  last : Nat
  /-- [11] repetitions still to come after the present one, R168. -/
  left : Nat
  deriving DecidableEq, Repr

/-- The banked state of the vector engine: one copy for normal and one for urgent steps (R192). -/
structure VecBank where
  /-- [1024 × 8] v24 to v31, R192 (06_vector_engine.md) reset 0 (R196). -/
  v : List (BitVec 1024)
  /-- [2304 × 2] a2 and a3, 64 lanes of 36 bits each, R179, R192 (06_vector_engine.md) reset 0 (R196). -/
  a : List (BitVec 2304)
  /-- [15 × 8] p0 to p7, R167, R192 (06_vector_engine.md) reset DESIGN CHOICE 0 (entry 2); cleared at a start (R196). -/
  p : List (BitVec 15)
  /-- [16 × 8] k0 to k7, R168, R192 (06_vector_engine.md) reset DESIGN CHOICE 0 (entry 2); cleared at a start (R196). -/
  k : List (BitVec 16)
  /-- [2 levels] loop state, innermost first, R168, R192 (06_vector_engine.md) reset DESIGN CHOICE no loop (entry 2); cleared at a start
  (R196). -/
  loops : List VecLoop
  /-- [11] VEC_PC.PC_N or PC_U, R197 (06_vector_engine.md) reset 0. -/
  pc : BitVec 11
  /-- [1] part of VEC_STATUS.RUN: the bank's program is running, R197 (06_vector_engine.md) reset 0. -/
  run : Bool
  /-- [1] END has been issued and its last results are landing, R177 (06_vector_engine.md) reset DESIGN CHOICE 0 (entry 2). -/
  ended : Bool
  /-- ranges of the current command, R175, R192 (06_vector_engine.md) reset none. -/
  ranges : List Range
  /-- [4] BE_ACC, R185, R197 (06_vector_engine.md) reset 0xF. -/
  beAcc : BitVec 4
  /-- [4] BE_PREV, R185, R197 (06_vector_engine.md) reset 0xF. -/
  bePrev : BitVec 4
  /-- [2] BE_SHIFT, R185, R197 (06_vector_engine.md) reset 0. -/
  beShift : BitVec 2
  /-- [8] BE_TOTAL, R185, R197 (06_vector_engine.md) reset 0. -/
  beTotal : BitVec 8
  /-- [32] VEC_LFSR, R182, R197 (06_vector_engine.md) reset 0x0000_0001. -/
  lfsr : BitVec 32
  /-- [32] LFSR state recorded at the first run of the bank's step, R196 (06_vector_engine.md) reset DESIGN CHOICE 0x0000_0001 (entry 2). -/
  lfsrSaved : BitVec 32
  /-- order of the newest result landed in each of a0 to a3 as the bank sees them, R184 (06_vector_engine.md) reset DESIGN CHOICE 0
  (entry 2). -/
  accSeq : List Nat
  deriving DecidableEq, Repr

/-- One bank of the vector engine at reset (R196, R197). -/
def VecBank.reset : VecBank :=
  { v := List.replicate 8 0, a := List.replicate 2 0, p := List.replicate 8 0,
    k := List.replicate 8 0, loops := [], pc := 0, run := false, ended := false, ranges := [],
    beAcc := 0xF, bePrev := 0xF, beShift := 0, beTotal := 0, lfsr := 1, lfsrSaved := 1,
    accSeq := [0, 0, 0, 0] }

/-- The vector engine of one tile (R164 to R198). -/
structure VecEngine where
  /-- [32 × 16,384] program RAM by 32-bit word, R164 (06_vector_engine.md) reset DESIGN CHOICE 0 in every word (entry 3). -/
  vpram : List (Nat × BitVec 32)
  /-- [1 × 16,384] R164 (06_vector_engine.md) reset DESIGN CHOICE 0, correct in every word (entry 2): the program RAM words whose parity
  is wrong. -/
  vpramBad : List (Nat × Bool)
  /-- [1024 × 24] v0 to v23, R192 (06_vector_engine.md) reset 0 (R196). -/
  v : List (BitVec 1024)
  /-- [2304 × 2] a0 and a1, R179, R192 (06_vector_engine.md) reset 0 (R196). -/
  a : List (BitVec 2304)
  /-- the normal bank, R192 (06_vector_engine.md) reset VecBank.reset. -/
  bankN : VecBank
  /-- the urgent bank, R192 (06_vector_engine.md) reset VecBank.reset. -/
  bankU : VecBank
  /-- engine cycles advanced, the clock of R171 and R174 (06_vector_engine.md) reset DESIGN CHOICE 0 (entry 2). -/
  cycle : Nat
  /-- operations issued, the order of R172 (06_vector_engine.md) reset DESIGN CHOICE 0 (entry 2). -/
  seq : Nat
  /-- results in flight, R171 (06_vector_engine.md) reset none. -/
  flight : List VecResult
  /-- drain latches, R193 (06_vector_engine.md) reset none. -/
  latches : List VecResult
  /-- [1] VEC_STATUS.BANK: true when the urgent bank is selected, R197 (06_vector_engine.md) reset 0. -/
  bank : Bool
  /-- [1] VEC_STATUS.PREEMPTED, R197 (06_vector_engine.md) reset 0. -/
  preempted : Bool
  /-- [1] VEC_STATUS.SAT, R180, R197 (06_vector_engine.md) reset 0. -/
  sat : Bool
  /-- [1] VEC_STATUS.ACC_SAT, R179, R197 (06_vector_engine.md) reset 0. -/
  accSat : Bool
  /-- [1] VEC_STATUS.WCOLL, R172, R197 (06_vector_engine.md) reset 0. -/
  wcoll : Bool
  /-- [1] VEC_STATUS.ILLEGAL, R170, R197 (06_vector_engine.md) reset 0. -/
  illegal : Bool
  /-- [32] VEC_ERR (BUNDLE, SLOT, CAUSE, VALID), R170, R172, R197 (06_vector_engine.md) reset 0. -/
  err : BitVec 32
  /-- [32] VEC_SWITCH_CNT, R195, R197 (06_vector_engine.md) reset 0. -/
  switchCnt : BitVec 32
  /-- CLR fields and counters in the present cycle, R198 (06_vector_engine.md), R9 reset nothing. -/
  now : Happened
  deriving DecidableEq, Repr

/-- The vector engine at reset (R196, R197). -/
def VecEngine.reset : VecEngine :=
  { vpram := [], vpramBad := [], v := List.replicate 24 0, a := List.replicate 2 0,
    bankN := .reset, bankU := .reset, cycle := 0, seq := 0,
    flight := [], latches := [], bank := false, preempted := false, sat := false,
    accSat := false, wcoll := false, illegal := false, err := 0, switchCnt := 0, now := .none }

/-! ### Steps and their engines: matrix array, drain, small-channel engine (chapters 01, 08, 09, 11) -/

/-- An extended real: an exact dyadic value m × 2^e, an infinity or a NaN.  What a column sum is before it is
rounded (R224, R225). -/
inductive XReal where
  /-- the exact value m × 2^e. -/
  | fin (m : Int) (e : Int)
  /-- an infinity, true for −∞. -/
  | inf (neg : Bool)
  /-- not a number. -/
  | nan
  deriving DecidableEq, Repr

/-- One mirror window (R473, R484). -/
structure MirrorWindow where
  /-- [64] BOND_MWIN_A (SPACE, TILE, LAG_N), R484 (17_twins_chain.md) reset 0. -/
  a : BitVec 64
  /-- [64] BOND_MWIN_B (START, LENGTH), R484 (17_twins_chain.md) reset 0. -/
  b : BitVec 64
  deriving DecidableEq, Repr

/-- A descriptor in an issue register (R112). -/
structure IssueReg where
  /-- [1024] the 128 B of the descriptor as STEP read them, R27, R111. -/
  desc : BitVec 1024
  /-- [1] its DEADLINE event has been set, R36, R328. -/
  dlSet : Bool
  /-- the mirror windows as they stood when STEP issued it, R485. -/
  wins : List (Nat × MirrorWindow)
  /-- [64] the cycle in which STEP placed it, R112, R315. -/
  placed : Nat
  deriving DecidableEq, Repr

/-- What the scan of a command list finds (R259): nothing, the final code of a rejection, a list that runs past local RAM, or a
parity error. -/
inductive Scan where
  | pass
  | reject (code : Nat)
  | beyond
  | parity
  deriving DecidableEq, Repr

/-- A step that has started: from its start cycle S to its completion cycle C (R31, R315). -/
structure StepRun where
  /-- [1024] its descriptor, R27. -/
  desc : BitVec 1024
  /-- [64] its start cycle S, R315. -/
  start : Nat
  /-- [64] first cycle of the present run, R322. -/
  runStart : Nat
  /-- [4] reruns performed, SEQ_STEP_STAT.RUNS, R113. -/
  runs : Nat
  /-- [1] COLD, judged in S, R37. -/
  cold : Bool
  /-- [1] SCALE_SAT, R33, R205. -/
  scaleSat : Bool
  /-- [1] RERUN_BLOCKED, R35. -/
  blocked : Bool
  /-- [1] a course of it has been sent to the hod or over the mortar, R35, R292. -/
  sent : Bool
  /-- [1] its DEADLINE event has been set, R328. -/
  dlSet : Bool
  /-- [32] byte address in local RAM of the next entry of its command list, R237. -/
  listAt : Nat
  /-- [1] the end entry has been reached, or there is no list, R237. -/
  listDone : Bool
  /-- [1] its vector program has started in this run, R196. -/
  vecStarted : Bool
  /-- final status decided and waiting for completion, R33. -/
  final : Option (BitVec 8)
  /-- [32 × 9] cycles charged to each slip source, R320, R334. -/
  src : List Nat
  /-- the mirror windows that apply to it, R485. -/
  wins : List (Nat × MirrorWindow)
  /-- the scan of its command list while it runs: what it finds, and the cycle in which it takes effect, R259, R315. -/
  scan : Option (Scan × Nat)
  /-- for each slip source the cycles charged in this run, as intervals from a cycle up to but not including a cycle, R321. -/
  spans : List (List (Nat × Nat))
  deriving DecidableEq, Repr

/-- A list entry on its way to, or waiting at, an engine (R55, R237). -/
structure EngCmd where
  /-- [512] the 64 B of the entry, R237. -/
  raw : BitVec 512
  /-- [512] for an array command, the WINDOW entry that feeds it (R263); else absent. -/
  win : Option (BitVec 512)
  /-- [512] for a drain command, the array or small-channel command it drains; else absent (R239, R276). -/
  pair : Option (BitVec 512)
  /-- [512] for a drain command, the WINDOW entry that feeds the command it drains; else absent (R266). -/
  pairWin : Option (BitVec 512)
  /-- index of the entry in the command list, ARR_ERR.CMD. -/
  index : Nat
  /-- for a drain command, the index of the command it drains. -/
  pairAt : Nat
  /-- [1] of the urgent step, R31. -/
  urgent : Bool
  /-- [1] it has reached its engine and been checked, R239. -/
  checked : Bool
  /-- [1] it has issued: its scoreboard entries are taken, R53. -/
  issued : Bool
  /-- [1] it is in execution: its engine has begun it, R31, R243. -/
  begun : Bool
  /-- [1] its last source course has been read; an MSEND then waits for its acknowledgement, R290. -/
  read : Bool
  deriving DecidableEq, Repr

/-- A weight-stream or scale-stream course delivered by the stream cache (R232, R236). -/
structure StreamCourse where
  /-- [6] stream number, R238. -/
  stream : Nat
  /-- [1024] the course. -/
  data : BitVec 1024
  /-- [1] poisoned line, R236. -/
  poison : Bool
  /-- [1] delivered for the urgent step, R243. -/
  urgent : Bool
  deriving DecidableEq, Repr

/-- A streamed vector's column sums on their way to the accumulators (R240). -/
structure Landing where
  /-- [1] accumulator bank, R242. -/
  bank : Nat
  /-- [6] accumulator row, R242. -/
  row : Nat
  /-- [1] the entry is written, not added to, R225. -/
  first : Bool
  /-- [1] the last vector of its row block (of its octet under DIAG8), R242. -/
  last : Bool
  /-- the exact sums of the 64 columns, R225. -/
  sums : List XReal
  deriving DecidableEq, Repr

/-- The matrix array of one tile (chapter 08) and its window unit (chapter 09). -/
structure ArrayEng where
  /-- [1] the command that the array last began is the urgent step's: what its banks and its working state hold is that step's, R243
  (08_matrix_array.md) reset DESIGN CHOICE 0 (entry 2). -/
  urgent : Bool
  /-- commands waiting at the array, oldest first; the first is the one in execution once issued, R237 (08_matrix_array.md) reset none. -/
  queue : List EngCmd
  /-- [16 × 64 × 128] active weights, a row of 64 cells each, R232 (08_matrix_array.md) reset DESIGN CHOICE 0 (entry 2). -/
  cells : List (Nat × BitVec 1024)
  /-- [16 × 64 × 128] shadow weights, R232 (08_matrix_array.md) reset DESIGN CHOICE 0 (entry 2). -/
  shadow : List (Nat × BitVec 1024)
  /-- [32 × 64 × 128] accumulator banks, a row of 64 FP32 columns each at 64 × bank + row, R225, R242 (08_matrix_array.md) reset DESIGN
  CHOICE 0 (entry 2). -/
  acc : List (Nat × BitVec 2048)
  /-- courses that urgent commands discarded of what was loaded ahead for the normal step, not yet fetched again, R243, R272, R320
  (08_matrix_array.md) reset DESIGN CHOICE 0 (entry 2). -/
  refetch : Nat
  /-- [2 × 32 KiB] weight stream buffer, courses not yet loaded, oldest first, R232 (08_matrix_array.md) reset DESIGN CHOICE empty
  (entry 2). -/
  wbuf : List StreamCourse
  /-- bytes of the oldest buffered course that have been loaded, R232 (08_matrix_array.md) reset DESIGN CHOICE 0 (entry 2). -/
  wbufAt : Nat
  /-- courses of the half being loaded that have been loaded, R232 (08_matrix_array.md) reset DESIGN CHOICE 0 (entry 2). -/
  wbufFreed : Nat
  /-- scale-stream courses delivered and not yet taken, oldest first, R233 (08_matrix_array.md) reset DESIGN CHOICE empty (entry 2). -/
  sbuf : List StreamCourse
  /-- [32 KiB] window buffer of DIAG8, one slice a pixel, by footprint index, R272 (09_windows.md) reset DESIGN CHOICE empty (entry 2). -/
  winBuf : List (Nat × BitVec 512)
  /-- [16 × 64 × 128] scale register file, entry (c, j) at 128 × c + j, R208 (07_narrow_numbers.md) reset 0x0000 in every entry. -/
  scales : List (Nat × BitVec 16)
  /-- [16] the expander's group counter, R234 (08_matrix_array.md) reset DESIGN CHOICE 0 (entry 2). -/
  groupCnt : BitVec 16
  /-- scale groups written for the row block in progress, first group and count of each block, R234, R235 (08_matrix_array.md) reset
  DESIGN CHOICE none (entry 2). -/
  groups : List (Nat × Nat)
  /-- [1] a KIND 2 block of the row block in progress has been written, R233 (08_matrix_array.md) reset DESIGN CHOICE 0 (entry 2). -/
  sumwDone : Bool
  /-- side-port courses of scale words of X for the slice in progress, by group, R227, R241 (08_matrix_array.md) reset DESIGN CHOICE
  none (entry 2). -/
  xs : List (Nat × BitVec 1024)
  /-- side-port courses of scale words of a tile-store S for the slice being loaded, by group, R227, R241 (08_matrix_array.md) reset
  DESIGN CHOICE none (entry 2). -/
  ss : List (Nat × BitVec 1024)
  /-- [1] the command's KIND 1 block has been written, R234 (08_matrix_array.md) reset DESIGN CHOICE 0 (entry 2). -/
  chanScaled : Bool
  /-- [1] that block has come in the row block in progress, R234 (08_matrix_array.md) reset DESIGN CHOICE 0 (entry 2). -/
  chanNow : Bool
  /-- row block whose scale blocks are arriving, R234 (08_matrix_array.md) reset DESIGN CHOICE 0 (entry 2). -/
  scaleBlock : Nat
  /-- [32 × 64] ARR_SUMW_N, R249, R256 (08_matrix_array.md) reset 0. -/
  sumwN : List (BitVec 32)
  /-- [32 × 64] ARR_SUMW_U, R249, R256 (08_matrix_array.md) reset 0. -/
  sumwU : List (BitVec 32)
  /-- column sums of a SUMW command in progress, R250 (08_matrix_array.md) reset DESIGN CHOICE 0 (entry 2). -/
  sumwAcc : List Int
  /-- row block, slice and row of the next weight row to load, R231, R232 (08_matrix_array.md) reset DESIGN CHOICE 0 (entry 2). -/
  loadBlock : Nat
  /-- slice (under DIAG8: record) of the next weight row to load, R231, R271 (08_matrix_array.md) reset DESIGN CHOICE 0 (entry 2). -/
  loadSlice : Nat
  /-- row of the next weight row to load, R231 (08_matrix_array.md) reset DESIGN CHOICE 0 (entry 2). -/
  loadRow : Nat
  /-- [1] the shadows hold a whole slice that has not been swapped in, R232 (08_matrix_array.md) reset DESIGN CHOICE 0 (entry 2). -/
  shadowFull : Bool
  /-- [1] the active cells hold the slice being streamed, R232 (08_matrix_array.md) reset DESIGN CHOICE 0 (entry 2). -/
  active : Bool
  /-- row block of the next vector to stream, R221 (08_matrix_array.md) reset DESIGN CHOICE 0 (entry 2). -/
  block : Nat
  /-- slice (under DIAG8: octet and pass) of the next vector to stream, R221 (08_matrix_array.md) reset DESIGN CHOICE 0 (entry 2). -/
  slice : Nat
  /-- row within the row block of the next vector to stream, R221 (08_matrix_array.md) reset DESIGN CHOICE 0 (entry 2). -/
  vec : Nat
  /-- footprint pixels of the row block read into the window buffer, R272 (09_windows.md) reset DESIGN CHOICE 0 (entry 2). -/
  footAt : Nat
  /-- [1] the load phase of the row block is over, R272 (09_windows.md) reset DESIGN CHOICE 0 (entry 2). -/
  footDone : Bool
  /-- code sums Σa of streamed rows, by accumulator row 64 × bank + row, R266 (09_windows.md) reset DESIGN CHOICE empty (entry 2). -/
  suma : List (Nat × Int)
  /-- vectors read and not yet landed, oldest first, R240 (08_matrix_array.md) reset DESIGN CHOICE none (entry 2). -/
  landing : List Landing
  /-- rows of each bank landed and not yet drained, ARR_STATUS.BANK_FULL, R242, R256 (08_matrix_array.md) reset 0. -/
  bankRows : List Nat
  /-- [1 × 2] the bank's row block is complete and being handed to the drain, R242 (08_matrix_array.md) reset DESIGN CHOICE 0 (entry 2). -/
  bankDone : List Bool
  /-- [1] ARR_STATUS.MALFORMED, R239, R256 (08_matrix_array.md) reset 0. -/
  malformed : Bool
  /-- [1] ARR_STATUS.OVF, R225, R256 (08_matrix_array.md) reset 0. -/
  ovf : Bool
  /-- [1] ARR_STATUS.SKEW, R234, R256 (08_matrix_array.md) reset 0. -/
  skew : Bool
  /-- [32] ARR_ERR (CAUSE, CMD, ENGINE, VALID), R239, R256 (08_matrix_array.md) reset 0. -/
  err : BitVec 32
  /-- [32] ARR_SKEW (EXPECTED, RECEIVED), R234, R256 (08_matrix_array.md) reset 0. -/
  skewReg : BitVec 32
  /-- [32] ARR_BUSY_CNT, R256 (08_matrix_array.md) reset 0. -/
  busyCnt : BitVec 32
  /-- [32] ARR_WAIT_CNT, R232, R256 (08_matrix_array.md) reset 0. -/
  waitCnt : BitVec 32
  /-- CLR fields and counters in the present cycle, R257 (08_matrix_array.md), R9 reset nothing. -/
  now : Happened
  deriving DecidableEq, Repr

/-- The matrix array at reset (R208, R249, R256). -/
def ArrayEng.reset : ArrayEng :=
  { urgent := false, queue := [], cells := [], shadow := [], acc := [], refetch := 0, wbuf := [], wbufAt := 0, wbufFreed := 0, sbuf := [],
    winBuf := [], scales := [], groupCnt := 0, groups := [], sumwDone := false, xs := [], ss := [], chanScaled := false, chanNow := false, scaleBlock := 0,
    sumwN := List.replicate 64 0, sumwU := List.replicate 64 0, sumwAcc := List.replicate 64 0,
    loadBlock := 0, loadSlice := 0, loadRow := 0, shadowFull := false, active := false, block := 0,
    slice := 0, vec := 0, footAt := 0, footDone := false, suma := [], landing := [],
    bankRows := [0, 0], bankDone := [false, false], malformed := false, ovf := false, skew := false,
    err := 0, skewReg := 0, busyCnt := 0, waitCnt := 0, now := .none }

/-- A write of the drain on its way to tile store (R245, R247, R273). -/
structure DrainWrite where
  /-- [15] course, R247. -/
  course : Nat
  /-- byte within the course at which the data begins (0 for a whole course), R273. -/
  byte : Nat
  /-- bytes written: 128 for a course, else a piece, R273. -/
  size : Nat
  /-- [1024] the bytes, first in the low bits. -/
  data : BitVec 1024
  deriving DecidableEq, Repr

/-- The drain unit of one tile (chapter 08). -/
structure DrainEng where
  /-- commands waiting at the drain, oldest first, R237, R239 (08_matrix_array.md) reset none. -/
  queue : List EngCmd
  /-- next accumulator row to read, R245 (08_matrix_array.md) reset DESIGN CHOICE 0 (entry 2). -/
  row : Nat
  /-- the parameter block as read at the command's start, R248 (08_matrix_array.md) reset DESIGN CHOICE none (entry 2). -/
  params : List (BitVec 1024)
  /-- [1024] the course of the Σa array that serves the row in progress, R251 (08_matrix_array.md) reset DESIGN CHOICE 0 (entry 2). -/
  sumaCourse : BitVec 1024
  /-- next pooled output to form, R280 (09_windows.md) reset DESIGN CHOICE 0 (entry 2). -/
  poolAt : Nat
  /-- rows that left the activation stage and are still under a pooling window, by row, R280 (09_windows.md) reset DESIGN CHOICE none
  (entry 2). -/
  poolRows : List (Nat × BitVec 2048)
  /-- output course being assembled, R247 (08_matrix_array.md) reset DESIGN CHOICE none (entry 2). -/
  part : Option DrainWrite
  /-- converted writes not yet performed, oldest first, R245 (08_matrix_array.md) reset DESIGN CHOICE none (entry 2). -/
  out : List DrainWrite
  /-- [1] DRN_STATUS.SAT, R247, R256 (08_matrix_array.md) reset 0. -/
  sat : Bool
  /-- [1] DRN_STATUS.NAN, R247, R256 (08_matrix_array.md) reset 0. -/
  nan : Bool
  /-- [32] DRN_ROW_CNT, R256 (08_matrix_array.md) reset 0. -/
  rowCnt : BitVec 32
  /-- CLR fields and counters in the present cycle, R257 (08_matrix_array.md), R9 reset nothing. -/
  now : Happened
  deriving DecidableEq, Repr

/-- The drain unit at reset (R256). -/
def DrainEng.reset : DrainEng :=
  { queue := [], row := 0, params := [], sumaCourse := 0, poolAt := 0, poolRows := [], part := none, out := [], sat := false,
    nan := false, rowCnt := 0, now := .none }

/-- The small-channel engine of one tile (chapter 09). -/
structure SceEng where
  /-- [1] the command that the engine last began is the urgent step's: what its banks and its working state hold is that step's, R243,
  R278 (09_windows.md) reset DESIGN CHOICE 0 (entry 2). -/
  urgent : Bool
  /-- commands waiting at the engine, oldest first, R237, R276 (09_windows.md) reset none. -/
  queue : List EngCmd
  /-- [32 KiB] weight buffer and, after the weights, the scale course, by load order, R275, R278 (09_windows.md) reset DESIGN CHOICE
  empty (entry 2). -/
  weights : List (Nat × BitVec 1024)
  /-- courses loaded in the load phase, R278 (09_windows.md) reset DESIGN CHOICE 0 (entry 2). -/
  loadAt : Nat
  /-- output pixel in progress, R278 (09_windows.md) reset DESIGN CHOICE 0 (entry 2). -/
  pixel : Nat
  /-- tap in progress, R278 (09_windows.md) reset DESIGN CHOICE 0 (entry 2). -/
  tap : Nat
  /-- exact integer sums of the pixel in progress, one an output channel, R277 (09_windows.md) reset DESIGN CHOICE empty (entry 2). -/
  sums : List Int
  /-- results computed and not yet landed: pixel and row of 64 FP32 columns, R278 (09_windows.md) reset DESIGN CHOICE none (entry 2). -/
  landing : List (Nat × BitVec 2048)
  /-- [32 × 64 × 128] result banks, a row at 64 × bank + row, R277, R278 (09_windows.md) reset DESIGN CHOICE 0 (entry 2). -/
  res : List (Nat × BitVec 2048)
  /-- rows of each bank landed and not yet drained, SCE_STATUS.BANK_FULL, R278, R282 (09_windows.md) reset 0. -/
  bankRows : List Nat
  /-- [1 × 2] the bank's row block is complete and being handed to the drain, R242, R278 (09_windows.md) reset DESIGN CHOICE 0 (entry 2). -/
  bankDone : List Bool
  /-- [1] SCE_STATUS.MALFORMED, R278, R282 (09_windows.md) reset 0. -/
  malformed : Bool
  /-- [32] SCE_ERR (CAUSE, CMD, VALID), R278, R282 (09_windows.md) reset 0. -/
  err : BitVec 32
  /-- [32] SCE_BUSY_CNT, R282 (09_windows.md) reset 0. -/
  busyCnt : BitVec 32
  /-- [32] SCE_WAIT_CNT, R282 (09_windows.md) reset 0. -/
  waitCnt : BitVec 32
  /-- CLR fields and counters in the present cycle, R283 (09_windows.md), R9 reset nothing. -/
  now : Happened
  deriving DecidableEq, Repr

/-- The small-channel engine at reset (R282). -/
def SceEng.reset : SceEng :=
  { urgent := false, queue := [], weights := [], loadAt := 0, pixel := 0, tap := 0, sums := [],
    landing := [], res := [], bankRows := [0, 0], bankDone := [false, false], malformed := false, err := 0, busyCnt := 0,
    waitCnt := 0, now := .none }

/-- A course in a tile's drain buffer, or granted by the hod (R299, R300). -/
structure HodCourse where
  /-- [4] sending tile, R297. -/
  tile : Nat
  /-- [1] of the sending tile's urgent step, R297. -/
  urgent : Bool
  /-- [64] start cycle S of the sending step, so that a late notice meets its own step, R297, R315. -/
  start : Nat
  /-- [6] target, R304, R307. -/
  tgt : Nat
  /-- target course relative to BASE, R304, R307. -/
  off : Nat
  /-- reruns that the sending step had made. -/
  rerun : Nat
  /-- [8] epoch of the sending step, R297. -/
  epoch : BitVec 8
  /-- tile cycle in which the hod granted it (0 before), R300. -/
  at_ : Nat
  /-- [1024] the partial. -/
  data : BitVec 1024
  deriving DecidableEq, Repr

/-- The hod port and the drain buffer of one tile (chapter 10). -/
structure HodPort where
  /-- commands waiting at the hod port, oldest first, R237, R304 (10_mortar_hod.md) reset none. -/
  queue : List EngCmd
  /-- next course of the SEND in progress, R304 (10_mortar_hod.md) reset DESIGN CHOICE 0 (entry 2). -/
  sendAt : Nat
  /-- next course that the BROADCAST in progress reads, R306 (10_mortar_hod.md) reset DESIGN CHOICE 0 (entry 2). -/
  bcastAt : Nat
  /-- [8 courses] drain buffer, oldest first, R299 (10_mortar_hod.md) reset DESIGN CHOICE empty (entry 2). -/
  buf : List HodCourse
  deriving DecidableEq, Repr

/-- Where a course stands on the mesh (R284 to R287). -/
structure MeshPos where
  /-- outputs still to be passed: router, input by which the course comes to it, and output, R285. -/
  hops : List (Nat × Nat × Nat)
  /-- [64] cycle from which it asks for the first of them, or, with none left, the cycle after it passed the last. -/
  since : Nat
  /-- cycles for which it waited at router outputs, R287. -/
  waited : Nat
  /-- cycle of jitter of the crossing by which it entered the mesh, R286. -/
  late : Nat
  deriving DecidableEq, Repr

/-- A course of an MSEND on the mesh, or its acknowledgement (R288 to R290). -/
structure MortarCourse where
  /-- [4] sending tile. -/
  src : Nat
  /-- [1] of the sending tile's urgent step. -/
  urgent : Bool
  /-- [64] start cycle S of the sending step, R315. -/
  start : Nat
  /-- [4] destination tile, R288. -/
  dst : Nat
  /-- [15] destination course, R288. -/
  course : Nat
  /-- [1024] the course. -/
  data : BitVec 1024
  /-- reruns that the sending step had made, so that a late acknowledgement meets its own run. -/
  rerun : Nat
  /-- [8] index of its command in the step's list, R290. -/
  index : Nat
  /-- [1] the last course of its command, R290. -/
  last : Bool
  /-- event line to pulse when its acknowledgement returns, R290. -/
  evt : Option Nat
  /-- [1] a failed acknowledgement, R527. -/
  failed : Bool
  /-- where it stands on the mesh, R285. -/
  mesh : MeshPos
  deriving DecidableEq, Repr

/-- The mortar-send engine of one tile (chapter 10). -/
structure MSendEng where
  /-- commands waiting at mortar send, oldest first, R237, R288 (10_mortar_hod.md) reset none. -/
  queue : List EngCmd
  /-- next source course of the command in progress, R289 (10_mortar_hod.md) reset DESIGN CHOICE 0 (entry 2). -/
  at_ : Nat
  deriving DecidableEq, Repr

/-- The step unit of one tile: issue registers, steps in progress and the STEP_ block (chapters 01, 11). -/
structure StepUnit where
  /-- [1024] issue register of normal priority, R112 (03_sequencer_isa.md) reset DESIGN CHOICE empty (entry 2). -/
  issueN : Option IssueReg
  /-- [1024] issue register of urgent priority, R112 (03_sequencer_isa.md) reset DESIGN CHOICE empty (entry 2). -/
  issueU : Option IssueReg
  /-- [64] the cycle in which the issue register of normal priority last gave up its descriptor, R112 (03_sequencer_isa.md) reset none. -/
  gaveN : Option Nat
  /-- [64] the cycle in which the issue register of urgent priority last gave up its descriptor, R112 (03_sequencer_isa.md) reset none. -/
  gaveU : Option Nat
  /-- the cycle C in which the last normal step completed, and its descriptor, which a tile holds through C, R30, R315 (11_slip.md)
  reset none. -/
  endedN : Option (Nat × BitVec 1024)
  /-- the same of the last urgent step, R30, R315 (11_slip.md) reset none. -/
  endedU : Option (Nat × BitVec 1024)
  /-- [64] the cycle in which the tile last applied a commit, R310 (10_mortar_hod.md) reset none. -/
  appliedAt : Option Nat
  /-- the normal step in progress, R31 (01_machine.md) reset none. -/
  runN : Option StepRun
  /-- the urgent step in progress, R31 (01_machine.md) reset none. -/
  runU : Option StepRun
  /-- [1 × 32,768] carried-state map, R37 (01_machine.md) reset 0 for each course. -/
  carried : List (Nat × Bool)
  /-- [8] applied epoch, R29, R311 (10_mortar_hod.md) reset 0. -/
  epoch : BitVec 8
  /-- [1] the tile sees MIXED set, R30, R309, R311 (10_mortar_hod.md) reset 0 (R313). -/
  seesMixed : Bool
  /-- [1] the tile is parked for a change of operating point, R30, R448 (16_clocks_power.md) reset DESIGN CHOICE 0 (entry 2). -/
  parked : Bool
  /-- [32] STEP_SLIP[0], R317, R333 (11_slip.md) reset 0. -/
  slipN : BitVec 32
  /-- [32] STEP_SLIP[1], R317, R333 (11_slip.md) reset 0. -/
  slipU : BitVec 32
  /-- [32] STEP_ELAPSED[0], R315, R333 (11_slip.md) reset 0. -/
  elapsedN : BitVec 32
  /-- [32] STEP_ELAPSED[1], R315, R333 (11_slip.md) reset 0. -/
  elapsedU : BitVec 32
  /-- [32] STEP_SLIP_MAX, R333 (11_slip.md) reset 0. -/
  slipMax : BitVec 32
  /-- [32] STEP_DL_CNT, R328, R333 (11_slip.md) reset 0. -/
  dlCnt : BitVec 32
  /-- [32] STEP_HOLD_CNT, R325, R333 (11_slip.md) reset 0. -/
  holdCnt : BitVec 32
  /-- [32] STEP_SEQ_SLIP, R325, R333 (11_slip.md) reset 0. -/
  seqSlip : BitVec 32
  /-- [32] STEP_SEQ_INT, R325, R333 (11_slip.md) reset 0. -/
  seqInt : BitVec 32
  /-- [32 × 9] STEP_SRC_N, R320, R333 (11_slip.md) reset 0. -/
  srcN : List (BitVec 32)
  /-- [32 × 9] STEP_SRC_U, R320, R333 (11_slip.md) reset 0. -/
  srcU : List (BitVec 32)
  /-- CLR fields and counters in the present cycle, R334 (11_slip.md), R9 reset nothing. -/
  now : Happened
  deriving DecidableEq, Repr

/-- The step unit at reset (R37, R311, R333). -/
def StepUnit.reset : StepUnit :=
  { issueN := none, issueU := none, gaveN := none, gaveU := none, endedN := none, endedU := none, appliedAt := none, runN := none, runU := none, carried := [], epoch := 0,
    seesMixed := false, parked := false, slipN := 0, slipU := 0, elapsedN := 0, elapsedU := 0,
    slipMax := 0, dlCnt := 0, holdCnt := 0, seqSlip := 0, seqInt := 0,
    srcN := List.replicate 9 0, srcU := List.replicate 9 0, now := .none }

/-! ### Mortar, hod and mode epochs (chapter 10) -/

/-- One hod target: its two registers as last written, the declaration in force, and its arrival records (R294). -/
structure HodTarget where
  /-- [64] HOD_TGT_A[t] as written, R313, R314 (10_mortar_hod.md) reset 0. -/
  regA : BitVec 64
  /-- [64] HOD_TGT_B[t] as written, without STATE and DONE, R313, R314 (10_mortar_hod.md) reset 0. -/
  regB : BitVec 64
  /-- [2] HOD_TGT_B[t].STATE: 0 FREE, 1 OPEN, 2 COMPLETE, R294, R313 (10_mortar_hod.md) reset 0. -/
  state : BitVec 2
  /-- [15] HOD_TGT_B[t].DONE, R298, R313 (10_mortar_hod.md) reset 0. -/
  done : Nat
  /-- [64] HOD_TGT_A fields of the declaration in force, R294, R314 (10_mortar_hod.md) reset 0. -/
  curA : BitVec 64
  /-- [64] HOD_TGT_B fields of the declaration in force, R294, R314 (10_mortar_hod.md) reset 0. -/
  curB : BitVec 64
  /-- partials granted, a tile mask a course of the target, R297 (10_mortar_hod.md) reset none. -/
  granted : List (Nat × BitVec 16)
  /-- partials combined, a tile mask a course, R296, R298 (10_mortar_hod.md) reset none. -/
  combined : List (Nat × BitVec 16)
  /-- partials staged and not yet folded, a tile mask a course, R302 (10_mortar_hod.md) reset none. -/
  staged : List (Nat × BitVec 16)
  deriving DecidableEq, Repr

/-- A FREE target with every field 0 (R313). -/
def HodTarget.reset : HodTarget :=
  { regA := 0, regB := 0, state := 0, done := 0, curA := 0, curB := 0, granted := [],
    combined := [], staged := [] }

/-- A rejection on its way back to the sending tile (R297). -/
structure HodNotice where
  /-- [4] tile. -/
  tile : Nat
  /-- [1] of its urgent step. -/
  urgent : Bool
  /-- [64] start cycle S of the sending step, R315. -/
  start : Nat
  /-- reruns that the sending step had made. -/
  rerun : Nat
  /-- [1] the epoch case, R297. -/
  epoch : Bool
  /-- [1] a parity error at intake, R527. -/
  parity : Bool
  deriving DecidableEq, Repr

/-- A declaration that waits until every course granted before it has been applied (R294). -/
structure HodDecl where
  /-- [6] target. -/
  tgt : Nat
  /-- [64] HOD_TGT_A fields, R294. -/
  a : BitVec 64
  /-- [64] HOD_TGT_B fields, R294. -/
  b : BitVec 64
  /-- courses granted before it and not yet applied, R294. -/
  ahead : Nat
  deriving DecidableEq, Repr

/-- A broadcast course on its way to one tile (R306). -/
structure BcastCourse where
  /-- [4] issuing tile. -/
  src : Nat
  /-- [1] of the issuing tile's urgent step. -/
  urgent : Bool
  /-- [64] start cycle S of the issuing step, R315. -/
  start : Nat
  /-- reruns that the issuing step had made. -/
  rerun : Nat
  /-- [4] tile it is written into. -/
  tile : Nat
  /-- [15] course it is written into. -/
  course : Nat
  /-- [1024] the course. -/
  data : BitVec 1024
  deriving DecidableEq, Repr

/-- The hod (R294 to R307). -/
structure Hod where
  /-- [1024 × 16,384] hod memory by course, R295, R303 (10_mortar_hod.md) reset DESIGN CHOICE 0 in every course (entry 3). -/
  mem : List (Nat × BitVec 1024)
  /-- [64 targets] R294 (10_mortar_hod.md) reset HodTarget.reset. -/
  tgts : List HodTarget
  /-- [2] intake pointer q, R300 (10_mortar_hod.md) reset DESIGN CHOICE 0 (entry 2): it equals the hod cycle modulo 4. -/
  q : Nat
  /-- [64 × 4] the cycle in which each lane last granted a course, R300 (10_mortar_hod.md) reset none. -/
  laneAt : List (Option Nat)
  /-- the cycle and the tile of the course applied last, R300, R301 (10_mortar_hod.md) reset DESIGN CHOICE 0 and 0 (entry 2). -/
  applied : Nat × Nat
  /-- courses granted and not yet applied, oldest first, R300 (10_mortar_hod.md) reset none. -/
  flight : List HodCourse
  /-- declarations waiting, oldest first, R294 (10_mortar_hod.md) reset none. -/
  decls : List HodDecl
  /-- rejections on their way to tiles, oldest first, R297 (10_mortar_hod.md) reset none. -/
  notices : List HodNotice
  /-- broadcast courses on their way, oldest first, R306 (10_mortar_hod.md) reset none. -/
  bcast : List BcastCourse
  /-- [1] HOD_STATUS.EPOCH_REJ, R313 (10_mortar_hod.md) reset 0. -/
  epochRej : Bool
  /-- [1] HOD_STATUS.REJ, R313 (10_mortar_hod.md) reset 0. -/
  rej : Bool
  /-- [32] HOD_ERR (CAUSE, TILE, CMD, VALID), R305, R313 (10_mortar_hod.md) reset 0. -/
  err : BitVec 32
  /-- [32] HOD_EPOCH_REJ_CNT, R297, R313 (10_mortar_hod.md) reset 0. -/
  epochRejCnt : BitVec 32
  /-- [32] HOD_REJ_CNT, R297, R313 (10_mortar_hod.md) reset 0. -/
  rejCnt : BitVec 32
  /-- [32 × 16] HOD_PORT_WAIT, R299, R313 (10_mortar_hod.md) reset 0. -/
  portWait : List (BitVec 32)
  /-- CLR fields and counters in the present cycle, R314 (10_mortar_hod.md), R9 reset nothing. -/
  now : Happened
  deriving DecidableEq, Repr

/-- The hod at reset (R313). -/
def Hod.reset : Hod :=
  { mem := [], tgts := List.replicate 64 .reset, q := 0, laneAt := List.replicate 4 none, applied := (0, 0), flight := [], decls := [], notices := [],
    bcast := [], epochRej := false, rej := false, err := 0, epochRejCnt := 0, rejCnt := 0,
    portWait := List.replicate 16 0, now := .none }

/-- The mortar: courses and acknowledgements in flight, mode epochs and the MOR_ block (R284 to R293, R309 to R313). -/
structure Mortar where
  /-- courses on the mesh, oldest first, R289 (10_mortar_hod.md) reset none. -/
  flight : List MortarCourse
  /-- acknowledgements on the reverse network, oldest first, R290 (10_mortar_hod.md) reset none. -/
  acks : List MortarCourse
  /-- per router output, by 6 × router + output, the input that it served last, 5 where none is listed, R285 (10_mortar_hod.md) reset
  DESIGN CHOICE none (entry 93). -/
  turns : List (Nat × Nat)
  /-- [8] MOR_MODE_STATE.EPOCH, R309, R313 (10_mortar_hod.md) reset 0. -/
  epoch : BitVec 8
  /-- [1] MOR_MODE_STATE.MIXED, R309, R313 (10_mortar_hod.md) reset 0. -/
  mixed : Bool
  /-- [1] MOR_MODE_STATE.REFUSED, R309, R313 (10_mortar_hod.md) reset 0. -/
  refused : Bool
  /-- [16] MOR_MODE_STATE.PENDING, R309, R313 (10_mortar_hod.md) reset 0. -/
  pending : BitVec 16
  /-- [16] tiles to which COMMIT has still to be delivered, R309 (10_mortar_hod.md) reset DESIGN CHOICE 0 (entry 2). -/
  deliver : BitVec 16
  /-- [16] tiles to which COMMIT is delivered and that have still to apply it, R310 (10_mortar_hod.md) reset DESIGN CHOICE 0 (entry 2). -/
  delivered : BitVec 16
  /-- [16] tiles whose report is on its way, R311 (10_mortar_hod.md) reset DESIGN CHOICE 0 (entry 2). -/
  reports : BitVec 16
  /-- [16] tiles that have still to see MIXED cleared, R311 (10_mortar_hod.md) reset DESIGN CHOICE 0 (entry 2). -/
  clearing : BitVec 16
  /-- [16] tiles unfenced and not yet released: each applies the committed mode and epoch before its first step, R311, R533
  (10_mortar_hod.md) reset DESIGN CHOICE 0 (entry 2). -/
  returning : BitVec 16
  /-- [32 × 16] MOR_MODE_STAGE, R309, R313 (10_mortar_hod.md) reset 0. -/
  stage : List (BitVec 32)
  /-- [32 × 16] mode words latched by the last accepted commit, R309 (10_mortar_hod.md) reset DESIGN CHOICE 0 (entry 2). -/
  latched : List (BitVec 32)
  /-- [32 × 16] MOR_MODE_APPLIED.WORD, R310, R313 (10_mortar_hod.md) reset 0. -/
  applied : List (BitVec 32)
  /-- [8 × 16] MOR_MODE_APPLIED.EPOCH, R310, R313 (10_mortar_hod.md) reset 0. -/
  appliedEpoch : List (BitVec 8)
  /-- [16] MOR_FENCE.FENCED, R313, R531 (10_mortar_hod.md) reset 0. -/
  fenced : BitVec 16
  /-- [32] MOR_LINK_WAIT, R287, R313 (10_mortar_hod.md) reset 0. -/
  linkWait : BitVec 32
  /-- [32] MOR_JITTER_CNT, R286, R313 (10_mortar_hod.md) reset 0. -/
  jitterCnt : BitVec 32
  /-- [32] MOR_DROP_CNT, R291, R313 (10_mortar_hod.md) reset 0. -/
  dropCnt : BitVec 32
  /-- CLR fields and counters in the present cycle, R314 (10_mortar_hod.md), R9 reset nothing. -/
  now : Happened
  deriving DecidableEq, Repr

/-- The mortar at reset (R311, R313). -/
def Mortar.reset : Mortar :=
  { flight := [], acks := [], turns := [], epoch := 0, mixed := false, refused := false, pending := 0,
    deliver := 0, delivered := 0, reports := 0, clearing := 0, returning := 0, stage := List.replicate 16 0,
    latched := List.replicate 16 0, applied := List.replicate 16 0,
    appliedEpoch := List.replicate 16 0, fenced := 0, linkWait := 0, jitterCnt := 0, dropCnt := 0, now := .none }

/-! ### Stream cache and DDR5 (chapter 12) -/

/-- A present line of the stream cache (R337, R343, R344). -/
structure CacheLine where
  /-- [19] tag, R337. -/
  tag : Nat
  /-- [1024] data. -/
  data : BitVec 1024
  /-- [1] poison bit, R344. -/
  poison : Bool
  deriving DecidableEq, Repr

/-- An operation on a ring that the DMA engine makes once it has the ring's context (R365, R366, R369, R372, R373, R477). -/
inductive CtxOp where
  /-- INIT, STOP, RESUME and OFF of DMA_RING_CMD, R365. -/
  | init (ring : Nat) | stop (ring : Nat) | resume (ring : Nat) | off (ring : Nat)
  /-- a doorbell of the host: its value, and whether it adds, R372. -/
  | bell (ring : Nat) (value : BitVec 32) (add : Bool)
  /-- a DOORBELL of a tile's command list, of the run that started in a cycle after so many reruns, R373. -/
  | tileBell (ring tile : Nat) (urgent : Bool) (start runs : Nat)
  /-- a ring that waited for room comes on chip, R366. -/
  | arrive (ring : Nat)
  /-- the context is copied to the standby: as a change is made, or by a RESYNC, R477, R483. -/
  | copy (ring : Nat) (resync : Bool)
  deriving DecidableEq, Repr

/-- Why a request to DDR5 was made (R356). -/
inductive DdrKind where
  /-- a declared-stream fill, class 1: tracker, its generation, which of its requests, and whether the line may no
  longer enter the cache (R341). -/
  | declared (tracker gen seq : Nat) (stale : Bool)
  /-- a learned prefetch, class 3: tracker, and whether the line may no longer enter the cache. -/
  | learned (tracker : Nat) (stale : Bool)
  /-- a write of bytes of the line from an offset, class 2: those of a DMA channel's descriptor name it. -/
  | write (off : Nat) (bytes : List (BitVec 8)) (ch : Option Nat)
  /-- a line that DMA channel `ch` reads, class 2, R375. -/
  | chan (ch : Nat)
  /-- the read of a ring's context for an operation on it, class 2, R366. -/
  | ctx (op : CtxOp)
  /-- a line that the host's read `tag` through BAR2 waits for, class 2, R400. -/
  | bar2 (tag : Nat)
  /-- the read of a line for the mirror frame that carries the FSEQ given, class 2, R473. -/
  | mirror (fseq : BitVec 32)
  deriving DecidableEq, Repr

/-- A request in a DDR5 channel's queue (R356). -/
structure DdrReq where
  /-- [33] line index. -/
  line : Nat
  /-- who made it. -/
  kind : DdrKind
  /-- [2] class in which it is served, 1 to 3, R356. -/
  cls : Nat
  /-- [64] TIME at which it was made. -/
  time : Nat
  /-- younger requests that have passed it, R356. -/
  passed : Nat
  /-- [1] it reached its channel while a gap task held that, and was counted, R519. -/
  met : Bool
  /-- [1] a calibration steal has held its channel while it waited, R320, R520. -/
  stolen : Bool
  deriving DecidableEq, Repr

/-- A declared line delivered to its consumer tile's tracker and not yet handed over (R342, R349). -/
structure ReadyLine where
  /-- which of the tracker's requests it answers. -/
  seq : Nat
  /-- [1] the line was corrected as its slice read it, R343. -/
  corrected : Bool
  /-- [1] a calibration steal held its channel, R320. -/
  stolen : Bool
  /-- [33] line index. -/
  line : Nat
  /-- [1024] data. -/
  data : BitVec 1024
  /-- [1] poisoned. -/
  poison : Bool
  /-- where its course stands on the mesh, R284, R285. -/
  mesh : MeshPos
  deriving DecidableEq, Repr

/-- One stream tracker (R346 to R351). -/
structure Tracker where
  /-- [2] SC_TRK.STATE: 0 IDLE, 1 UNTRAINED, 2 TRAINED, 3 DECLARED, R346, R359 (12_memory.md) reset 0. -/
  state : BitVec 2
  /-- [4] SC_TRK.OWNER, R359 (12_memory.md) reset 0. -/
  owner : Nat
  /-- [6] SC_TRK.DMA_CH, R359 (12_memory.md) reset 0. -/
  dmaCh : Nat
  /-- [16] SC_TRK.STRIDE, signed, R359 (12_memory.md) reset 0. -/
  stride : Int
  /-- [24] SC_TRK.POS: consumer's next line, or miss count, R359 (12_memory.md) reset 0. -/
  pos : Nat
  /-- [32] handle of line 0, R347, R348 (12_memory.md) reset DESIGN CHOICE 0 (entry 2). -/
  base : Nat
  /-- [24] lines a pass, R347 (12_memory.md) reset DESIGN CHOICE 0 (entry 2). -/
  count : Nat
  /-- [16] passes, R347 (12_memory.md) reset DESIGN CHOICE 0 (entry 2). -/
  rep : Nat
  /-- [7] lines requested ahead, R347 (12_memory.md) reset DESIGN CHOICE 0 (entry 2). -/
  depth : Nat
  /-- lines consumed since the declaration, R349 (12_memory.md) reset DESIGN CHOICE 0 (entry 2). -/
  used : Nat
  /-- lines requested since the declaration, R349 (12_memory.md) reset DESIGN CHOICE 0 (entry 2). -/
  asked : Nat
  /-- requested lines whose data has reached their slice or the bypass, R342 (12_memory.md) reset none. -/
  ready : List ReadyLine
  /-- [33] line of the last miss or read learned, R351 (12_memory.md) reset DESIGN CHOICE 0 (entry 2). -/
  last : Nat
  /-- delta of the last two misses, R351 (12_memory.md) reset DESIGN CHOICE 0 (entry 2). -/
  delta : Int
  /-- order of its last miss among all trackers, R351 (12_memory.md) reset DESIGN CHOICE 0 (entry 2). -/
  missAt : Nat
  /-- the model's own count of its restarts, so that a fill of an earlier declaration is told from the present one's, R348
  (12_memory.md) reset DESIGN CHOICE 0 (entry 2). -/
  gen : Nat
  deriving DecidableEq, Repr

/-- An IDLE tracker (R346, R359). -/
def Tracker.reset : Tracker :=
  { state := 0, owner := 0, dmaCh := 0, stride := 0, pos := 0, base := 0, count := 0, rep := 0,
    depth := 0, used := 0, asked := 0, ready := [], last := 0, delta := 0, missAt := 0,
    gen := 0 }

/-- An invalidation in progress (R341): its range (ALL when `count` is none), and the tile and entry that wait for it. -/
structure Inval where
  /-- [33] first line. -/
  line : Nat
  /-- lines, or every line. -/
  count : Option Nat
  /-- tile whose command list waits, R350. -/
  tile : Option Nat
  /-- [1] of the tile's urgent step. -/
  urgent : Bool
  deriving DecidableEq, Repr

/-- The stream cache and its trackers (R335 to R352). -/
structure StreamCache where
  /-- lines by 16,384 × slice + 16 × set + way, R337 (12_memory.md) reset none valid (R346). -/
  lines : List (Nat × CacheLine)
  /-- [15 × 16,384] pseudo-LRU trees by 1,024 × slice + set, R338 (12_memory.md) reset DESIGN CHOICE 0 (entry 2). -/
  plru : List (Nat × BitVec 15)
  /-- [64 trackers] R346 (12_memory.md) reset IDLE. -/
  trk : List Tracker
  /-- misses learned so far, the order of R351 (12_memory.md) reset DESIGN CHOICE 0 (entry 2). -/
  missOrder : Nat
  /-- SC_STATUS.INVAL_BUSY and the invalidation running, R341, R359 (12_memory.md) reset none. -/
  inval : Option Inval
  /-- [1] SC_STATUS.INVAL_LOST, R341, R359 (12_memory.md) reset 0. -/
  invalLost : Bool
  /-- [32] SC_CFG (DECL_WAYS, LEARN_DEPTH, LEARN_EN), R359 (12_memory.md) reset DECL_WAYS 12, LEARN_DEPTH 8, LEARN_EN 1. -/
  cfg : BitVec 32
  /-- [11] SC_CAPACITY.GIB, R335, R359 (12_memory.md) reset 0. -/
  capGib : Nat
  /-- [16] SC_SLICE_PWR_REQ.REQ, R352, R359 (12_memory.md) reset 0xFFFF. -/
  pwrReq : BitVec 16
  /-- [2 × 16] SC_SLICE_STATE, R352, R359 (12_memory.md) reset ON for each slice. -/
  sliceState : List BankState
  /-- [64 × 16] TIME at which the slice's 2 µs of WAKING began, R352 (12_memory.md) reset 0. -/
  wakeFrom : List Nat
  /-- [16] SC_FENCE.FENCED, R352, R359 (12_memory.md) reset 0. -/
  fence : BitVec 16
  /-- [32] SC_INVAL_BASE.HANDLE, R359 (12_memory.md) reset 0. -/
  invalBase : BitVec 32
  /-- [24] SC_INVAL_CTRL.COUNT, R359 (12_memory.md) reset 0. -/
  invalCount : BitVec 24
  /-- [32] SC_CE_CNT, R343, R359 (12_memory.md) reset 0. -/
  ceCnt : BitVec 32
  /-- [32] SC_UE_CNT, R344, R359 (12_memory.md) reset 0. -/
  ueCnt : BitVec 32
  /-- [64] SC_ERR, R344, R359 (12_memory.md) reset 0. -/
  err : BitVec 64
  /-- [32] SC_CMD_ERR, R350, R359 (12_memory.md) reset 0. -/
  cmdErr : BitVec 32
  /-- CLR fields and counters in the present cycle, R360 (12_memory.md), R9 reset nothing. -/
  now : Happened
  /-- the same for SC_CMD_ERR, R360 (12_memory.md) reset nothing. -/
  cmdNow : Happened
  deriving DecidableEq, Repr

/-- The stream cache at reset (R346, R359). -/
def StreamCache.reset : StreamCache :=
  { lines := [], plru := [], trk := List.replicate 64 .reset, missOrder := 0, inval := none,
    invalLost := false, cfg := 0x48C#32, capGib := 0, pwrReq := 0xFFFF#16,
    sliceState := List.replicate 16 .on, wakeFrom := List.replicate 16 0, fence := 0, invalBase := 0,
    invalCount := 0, ceCnt := 0, ueCnt := 0, err := 0, cmdErr := 0, now := .none, cmdNow := .none }

/-- One DDR5 channel and its DDR_CH block (R353 to R359). -/
structure DdrChan where
  /-- [32] DDR_CFG (DENSITY, RANKS), R353, R359 (12_memory.md) reset 0. -/
  cfg : BitVec 32
  /-- [32] DDR_CFG as the channel was last trained with it, R360 (12_memory.md) reset DESIGN CHOICE 0 (entry 2). -/
  trainedCfg : BitVec 32
  /-- [1] DDR_CTRL.SR_REQ, R358, R359 (12_memory.md) reset 0. -/
  srReq : Bool
  /-- [1] DDR_STATUS.TRAINED, R359 (12_memory.md) reset 0. -/
  trained : Bool
  /-- [1] DDR_STATUS.SR, R358, R359 (12_memory.md) reset 0. -/
  sr : Bool
  /-- [1] DDR_STATUS.HOT, R357, R359 (12_memory.md) reset 0. -/
  hot : Bool
  /-- [64] DDR_STATUS.EXITING, and TIME at which the exit began, R358, R359 (12_memory.md) reset 0. -/
  exiting : Option Nat
  /-- [64] TIME since which the queues have been empty, R358 (12_memory.md) reset 0. -/
  emptySince : Nat
  /-- requests waiting, oldest first, R356 (12_memory.md) reset none. -/
  queue : List DdrReq
  /-- the row open in each bank that has one, R356 (12_memory.md) reset DESIGN CHOICE none (entry 2). -/
  rows : List (Nat × Nat)
  /-- TIME of each bank's last refresh, R357 (12_memory.md) reset 0. -/
  refreshed : List (Nat × Nat)
  /-- [32] DDR_CE_CNT, R355, R359 (12_memory.md) reset 0. -/
  ceCnt : BitVec 32
  /-- [32] DDR_UE_CNT, R355, R359 (12_memory.md) reset 0. -/
  ueCnt : BitVec 32
  /-- [64] DDR_ERR, R355, R359 (12_memory.md) reset 0. -/
  err : BitVec 64
  /-- CLR fields and counters in the present cycle, R360 (12_memory.md), R9 reset nothing. -/
  now : Happened
  deriving DecidableEq, Repr

/-- A DDR5 channel at reset (R359). -/
def DdrChan.reset : DdrChan :=
  { cfg := 0, trainedCfg := 0, srReq := false, trained := false, sr := false, hot := false,
    exiting := none, emptySince := 0, queue := [], rows := [], refreshed := [], ceCnt := 0, ueCnt := 0, err := 0, now := .none }

/-- The DDR5 memory: its bytes and its eight channels. -/
structure Ddr where
  /-- [8 each, to 1 TiB] bytes by device address, R335 (12_memory.md) reset DESIGN CHOICE 0 in every byte (entry 3). -/
  bytes : List Host.Cell
  /-- how many times the contents have been lost (the generation of what an unlisted byte reads as), R442 (16_clocks_power.md) reset
  DESIGN CHOICE 0 (entry 3). -/
  gen : Nat
  /-- [8 channels] R353 (12_memory.md) reset DdrChan.reset. -/
  ch : List DdrChan
  deriving DecidableEq, Repr

/-- DDR5 at reset (R359). -/
def Ddr.reset : Ddr := { bytes := [], gen := 0, ch := List.replicate 8 .reset }

/-! ### DMA (chapter 13) -/

/-- A ring context held on chip (R363, R366). -/
structure RingCtx where
  /-- [15] ring. -/
  ring : Nat
  /-- [512] the context: its 64 B, kept up to date in the layout of R363. -/
  raw : BitVec 512
  deriving DecidableEq, Repr

/-- The live state of a ring, RING_STATE[n] (R364, R390). -/
structure RingLive where
  /-- [3] RING_STATE.STATE, R364. -/
  state : BitVec 3
  /-- [2] RING_STATE.STOP_CAUSE, R364. -/
  cause : BitVec 2
  /-- [16] RING_STATE.HEAD, R390. -/
  head : BitVec 16
  /-- [32] RING_STATE.CONSUMED_HSEQ, R390. -/
  consumed : BitVec 32
  deriving DecidableEq, Repr

/-- A ring that was never used: OFF, HEAD 0, CONSUMED_HSEQ 0xFFFF_FFFF (R364, R390). -/
def RingLive.reset : RingLive := { state := 0, cause := 0, head := 0, consumed := 0xFFFFFFFF#32 }

/-- A completion record on its way to its queue (R385, R387). -/
structure CqRecord where
  /-- [10] queue. -/
  cq : Nat
  /-- [8] STATUS, R381. -/
  status : BitVec 8
  /-- [4] ELEM. -/
  elem : BitVec 4
  /-- [4] CAUSE. -/
  cause : BitVec 4
  /-- [15] RING. -/
  ring : Nat
  /-- [32] HSEQ. -/
  hseq : BitVec 32
  /-- [32] USER. -/
  user : BitVec 32
  /-- [64] FAULT_ADDR or bytes written. -/
  last : BitVec 64
  /-- [1] the descriptor's IRQ, R388. -/
  irq : Bool
  deriving DecidableEq, Repr

/-- A channel's work on one descriptor (R369 to R383). -/
structure DmaWork where
  /-- [15] ring. -/
  ring : Nat
  /-- [512] the descriptor, R367. -/
  desc : BitVec 512
  /-- [64] byte address of its slot (encoded as R361). -/
  slot : BitVec 64
  /-- [1] it is malformed, R370. -/
  bad : Bool
  /-- element in progress, R368. -/
  elem : Nat
  /-- bytes of the element already read into the funnel, R380. -/
  read : Nat
  /-- bytes of the element already written, R380. -/
  put : Nat
  /-- bytes written by the descriptor, R382. -/
  written : Nat
  /-- bytes read and not yet written, in order, R378, R380. -/
  funnel : List (BitVec 8)
  /-- [4] cause of the first fault, a code of R381 from 4 to 8, or 0, R382. -/
  cause : Nat
  /-- [1] the fault is on the source side, R382. -/
  srcFault : Bool
  /-- [64] FAULT_ADDR, R382. -/
  faultAddr : BitVec 64
  /-- position of the faulting unit among the descriptor's bytes, R382. -/
  faultAt : Nat
  deriving DecidableEq, Repr

/-- A line of DDR5 that a channel reads past the cache: its index and, once its request has been served, its data and whether it is
poisoned (R339, R345, R356). -/
structure DmaLine where
  /-- [33] line index. -/
  line : Nat
  /-- the data and the poison, or none while the request waits. -/
  data : Option (BitVec 1024 × Bool)
  deriving DecidableEq, Repr

/-- A write of a channel that has left the engine for a tile store and not been performed (R65, R285, R376, R389). -/
structure DmaPut where
  /-- [6] channel. -/
  ch : Nat
  /-- [1] the descriptor that made it is still the channel's: its DISABLE, or a device fault, has not dropped it, R389. -/
  live : Bool
  /-- [4] tile. -/
  tile : Nat
  /-- [22] first byte in the tile's store. -/
  byte : Nat
  /-- the bytes, those that fill a FIFO's last course included, R378. -/
  data : List (BitVec 8)
  /-- bytes of the descriptor among them. -/
  n : Nat
  /-- position of the first one among the element's bytes, of a FIFO's among the descriptor's. -/
  pos : Nat
  /-- where its course stands on the mesh, R285, R376. -/
  mesh : MeshPos
  deriving DecidableEq, Repr

/-- One DMA channel (R375, R389, R390). -/
structure DmaChan where
  /-- [1] DMA_CH_CTRL.DISABLE, R389, R390 (13_dma.md) reset 0. -/
  disable : Bool
  /-- [1] DMA_CH_STATUS.PACED, R379, R390 (13_dma.md) reset 0. -/
  paced : Bool
  /-- FIFO on which it is paced, R379 (13_dma.md) reset none. -/
  pacedOn : Option Nat
  /-- DMA_CH_STATUS.BUSY, RING and the descriptor in progress, R375, R390 (13_dma.md) reset none. -/
  work : Option DmaWork
  /-- DMA_CH_STATUS.CQ_HELD: records waiting for their queue, oldest first, R387, R390 (13_dma.md) reset none. -/
  recs : List CqRecord
  /-- [1] the record has taken its place in its queue and waits for the partner's acknowledgement, R478 (17_twins_chain.md) reset 0. -/
  placed : Bool
  /-- [15] ring served last, R375 (13_dma.md) reset DESIGN CHOICE none (entry 2). -/
  lastRing : Option Nat
  /-- the line of DDR5 that it reads past the cache, R345, R356 (12_memory.md) reset none. -/
  line : Option DmaLine
  /-- writes of its descriptors that wait in the DDR5 channels' queues, R371, R389 (13_dma.md) reset 0. -/
  posted : Nat
  deriving DecidableEq, Repr

/-- An idle channel (R390). -/
def DmaChan.reset : DmaChan :=
  { disable := false, paced := false, pacedOn := none, work := none, recs := [], placed := false, lastRing := none, line := none, posted := 0 }

/-- A stream FIFO (R377, R390). -/
structure DmaFifo where
  /-- [64] DMA_FIFO_CFG (BASE, SIZE, HIGH, LOW), R377, R390 (13_dma.md) reset 0. -/
  cfg : BitVec 64
  /-- [32] DMA_FIFO_LEVEL.PUT, R377, R390 (13_dma.md) reset 0. -/
  put : BitVec 32
  /-- [32] DMA_FIFO_LEVEL.TAKE, R377, R390 (13_dma.md) reset 0. -/
  take : BitVec 32
  deriving DecidableEq, Repr

/-- An unconfigured FIFO (R390). -/
def DmaFifo.reset : DmaFifo := { cfg := 0, put := 0, take := 0 }

/-- A completion queue (R386, R390). -/
structure DmaCq where
  /-- [64] DMA_CQ_BASE.ADDR, R390 (13_dma.md) reset 0. -/
  base : BitVec 64
  /-- [14] DMA_CQ_CFG (LOG2_SIZE, VEC, IRQ_EN, ENABLE, KEEP), R390 (13_dma.md) reset 0. -/
  cfg : BitVec 14
  /-- [16] DMA_CQ_CFG.TAIL, R386, R390 (13_dma.md) reset 0. -/
  tail : BitVec 16
  /-- [1] DMA_CQ_CFG.PHASE, R386, R390 (13_dma.md) reset 0. -/
  phase : Bool
  /-- [16] DMA_CQ_HEAD.HEAD, R390 (13_dma.md) reset 0. -/
  head : BitVec 16
  deriving DecidableEq, Repr

/-- A disabled queue (R390). -/
def DmaCq.reset : DmaCq := { base := 0, cfg := 0, tail := 0, phase := false, head := 0 }

/-- The DMA engine (R361 to R391). -/
structure Dma where
  /-- [32] DMA_CTX_BASE.HANDLE, R390 (13_dma.md) reset 0. -/
  ctxBase : BitVec 32
  /-- [256 contexts] contexts on chip, most recently used first, R366 (13_dma.md) reset none. -/
  cache : List RingCtx
  /-- [64 × 32,768] RING_STATE by ring, R364, R390 (13_dma.md) reset OFF, HEAD 0, CONSUMED_HSEQ 0xFFFF_FFFF for each ring. -/
  rings : List (Nat × RingLive)
  /-- [64 channels] R375, R390 (13_dma.md) reset DmaChan.reset. -/
  ch : List DmaChan
  /-- [136 FIFOs] R377, R390 (13_dma.md) reset DmaFifo.reset. -/
  fifo : List (Nat × DmaFifo)
  /-- [1,024 queues] R386, R390 (13_dma.md) reset DmaCq.reset. -/
  cq : List (Nat × DmaCq)
  /-- [64] the DSEQ counter: the last value drawn, R405 (14_host.md) reset 0. -/
  dseq : BitVec 64
  /-- [64] DEV_DSEQ_LAST, R405, R415, R478 (14_host.md) reset 0. -/
  dseqLast : BitVec 64
  /-- [64] DMA_ERR, R365, R390 (13_dma.md) reset 0. -/
  err : BitVec 64
  /-- [32] DMA_DB_REJ_CNT, R372, R390 (13_dma.md) reset 0. -/
  dbRejCnt : BitVec 32
  /-- [32] DMA_OWN_MISS_CNT, R369, R390 (13_dma.md) reset 0. -/
  ownMissCnt : BitVec 32
  /-- [32] DMA_CQ_FULL_CNT, R387, R390 (13_dma.md) reset 0. -/
  cqFullCnt : BitVec 32
  /-- rings whose STOP waits for the descriptor in progress, R365 (13_dma.md) reset none. -/
  stopAfter : List Nat
  /-- IDLE rings that may consume but found no room on chip, in the order in which they are to become READY, R366 (13_dma.md) reset none. -/
  wait : List Nat
  /-- writes on their way to tile stores, in the order in which they left, R65, R376 (13_dma.md) reset none. -/
  flight : List DmaPut
  /-- operations on rings that wait for an earlier one of their ring, oldest first, R365 (13_dma.md) reset none. -/
  after : List CtxOp
  /-- CLR fields and counters in the present cycle, R391 (13_dma.md), R9 reset nothing. -/
  now : Happened
  deriving DecidableEq, Repr

/-- The DMA engine at reset (R364, R390, R405). -/
def Dma.reset : Dma :=
  { ctxBase := 0, cache := [], rings := [], ch := List.replicate 64 .reset, fifo := [], cq := [],
    dseq := 0, dseqLast := 0, err := 0, dbRejCnt := 0, ownMissCnt := 0, cqFullCnt := 0, stopAfter := [],
    wait := [], flight := [], after := [], now := .none }

/-! ### Host attachment (chapter 14) -/

/-- Something the device sends to the host over PCIe (R362, R388, R403, R407). -/
inductive HostOut where
  /-- a posted memory write: bus address and bytes, lowest first. -/
  | write (addr : BitVec 64) (bytes : List (BitVec 8))
  /-- an MSI-X message: vector, address and data. -/
  | msix (vector : Nat) (addr : BitVec 64) (data : BitVec 32)
  /-- a completion of a host read: data bytes, poisoned (EP), Unsupported Request. -/
  | completion (bytes : List (BitVec 8)) (ep : Bool) (ur : Bool)
  /-- an AER error message: 0 Uncorrectable Internal Error, 1 Poisoned TLP Received, 2 Unsupported Request,
  3 Completion Timeout. -/
  | aer (kind : Nat)
  deriving DecidableEq, Repr

/-- One entry of the MSI-X table (R403). -/
structure MsixEntry where
  /-- [64] message address, R403 (14_host.md) reset PRESUMED 0 (entry 4). -/
  addr : BitVec 64
  /-- [32] message data, R403 (14_host.md) reset PRESUMED 0 (entry 4). -/
  data : BitVec 32
  /-- [1] vector mask, R403, R413 (14_host.md) reset masked (R413). -/
  masked : Bool
  deriving DecidableEq, Repr

/-- One result mailbox (R410). -/
structure ResMb where
  /-- [32] RES_MB_STAT.SEQ, R410, R415 (14_host.md) reset 0. -/
  seq : BitVec 32
  /-- [1] RES_MB_STAT.VALID, R410, R415 (14_host.md) reset 0. -/
  valid : Bool
  /-- [1] RES_MB_STAT.OVERRUN, R410, R415 (14_host.md) reset 0. -/
  overrun : Bool
  /-- [512] RES_MB_DATA, R410, R415 (14_host.md) reset 0. -/
  data : BitVec 512
  deriving DecidableEq, Repr

/-- An unposted mailbox (R410, R415). -/
def ResMb.reset : ResMb := { seq := 0, valid := false, overrun := false, data := 0 }

/-- A read of the host through BAR2 that is not answered yet (R356, R400). -/
structure BarRead where
  /-- its number. -/
  tag : Nat
  /-- first byte asked for within the first line, and how many. -/
  skip : Nat
  len : Nat
  /-- per line, in order, its index, and its data and poison, or none while its request waits. -/
  lines : List (Nat × Option (BitVec 1024 × Bool))
  deriving DecidableEq, Repr

/-- The host attachment: PCIe, the DEV_ block and the result mailboxes (R392 to R416). -/
structure HostIf where
  /-- what the device has sent to the host, newest first (R362, R388, R403) reset none. -/
  out : List HostOut
  /-- [1] Bus Master Enable, R394 (14_host.md) reset PRESUMED 0 (entry 4). -/
  busMaster : Bool
  /-- [1] Memory Space Enable, R394 (14_host.md) reset PRESUMED 0 (entry 4). -/
  memSpace : Bool
  /-- [10] Max_Payload_Size in bytes, R392 (14_host.md) reset PRESUMED 128 (entry 4). -/
  maxPayload : Nat
  /-- [13] Max_Read_Request_Size in bytes, R392 (14_host.md) reset PRESUMED 512 (entry 4). -/
  maxRead : Nat
  /-- [4] completion time-out value, R392 (14_host.md) reset 0, the default of 50 ms. -/
  timeout : BitVec 4
  /-- [32] AER uncorrectable error status, R392, R394 (14_host.md) reset PRESUMED 0 (entry 4). -/
  aerStatus : BitVec 32
  /-- [1] MSI-X Enable, R403 (14_host.md) reset PRESUMED 0 (entry 4). -/
  msixEnable : Bool
  /-- [1] MSI-X Function Mask, R403 (14_host.md) reset PRESUMED 0 (entry 4). -/
  msixMask : Bool
  /-- [128 × 64] MSI-X table, R403 (14_host.md) reset every vector masked (R413). -/
  msix : List MsixEntry
  /-- [64] Pending Bit Array, R403 (14_host.md) reset 0. -/
  pba : BitVec 64
  /-- [1] PERST_N asserted, R555 (22_electrical.md) reset DESIGN CHOICE 1 (entry 2). -/
  perst : Bool
  /-- [1] ASPM L1 is enabled in the link's control register, R392, R547 (21_limitations.md) reset PRESUMED 0 (entry 4). -/
  aspm : Bool
  /-- [1] link in ASPM L1, R392, R547 (21_limitations.md) reset DESIGN CHOICE 0 (entry 2). -/
  l1 : Bool
  /-- [64] TIME of the last traffic on the link, from which the 10 µs before L1 count, R547 (21_limitations.md) reset DESIGN CHOICE 0
  (entry 2). -/
  trafficAt : Nat
  /-- [32 × 6] Base Address Registers as last written, R395 (14_host.md) reset PRESUMED 0 (entry 4). -/
  bars : List (BitVec 32)
  /-- [3] DEV_LINK_STATUS.WIDTH, R415 (14_host.md) reset 0. -/
  width : BitVec 3
  /-- [3] DEV_LINK_STATUS.SPEED, R415 (14_host.md) reset 0. -/
  speed : BitVec 3
  /-- [1] DEV_LINK_STATUS.FLIT, R415 (14_host.md) reset 0. -/
  flit : Bool
  /-- [16] DEV_LINK_STATUS.DOWN_CNT, R413, R415 (14_host.md) reset 0. -/
  downCnt : BitVec 16
  /-- [10] DEV_BAR2_OFFSET.OFFSET, R400, R415 (14_host.md) reset 0. -/
  bar2Off : BitVec 10
  /-- [52] DEV_HB_ADDR.ADDR, R407, R415 (14_host.md) reset 0. -/
  hbAddr : BitVec 52
  /-- [1] DEV_HB_CTRL.EN, R407, R415 (14_host.md) reset 0. -/
  hbEn : Bool
  /-- [6] DEV_HB_CTRL.RINGS_K, R407, R415 (14_host.md) reset 1. -/
  hbRingsK : BitVec 6
  /-- [64] page generation, R408 (14_host.md) reset 0. -/
  hbGen : BitVec 64
  /-- number of the last multiple of 100,000 ns for which a page has come due, R407 (14_host.md) reset DESIGN CHOICE 0 (entry 2). -/
  hbAt : Nat
  /-- [32] DEV_HB_SKIP_CNT, R409, R415 (14_host.md) reset 0. -/
  hbSkipCnt : BitVec 32
  /-- [32] DEV_HOST_REJ_CNT, R398, R415 (14_host.md) reset 0. -/
  hostRejCnt : BitVec 32
  /-- [32] DEV_BAR2_OOR_CNT, R400, R415 (14_host.md) reset 0. -/
  bar2OorCnt : BitVec 32
  /-- [256 mailboxes] R410, R415 (14_host.md) reset ResMb.reset. -/
  mb : List (Nat × ResMb)
  /-- [32] RES_ACK_MISS_CNT, R411, R415 (14_host.md) reset 0. -/
  ackMissCnt : BitVec 32
  /-- [32] RES_ERR, R412, R415 (14_host.md) reset 0. -/
  resErr : BitVec 32
  /-- reads of the host through BAR2 that wait for lines of DDR5, oldest first, R356, R400 (14_host.md) reset none. -/
  reads : List BarRead
  /-- number of the next such read, reset DESIGN CHOICE 0 (entry 2). -/
  readTag : Nat
  /-- CLR fields and counters in the present cycle, R416 (14_host.md), R9 reset nothing. -/
  now : Happened
  deriving DecidableEq, Repr

/-- The host attachment at reset (R410, R415). -/
def HostIf.reset : HostIf :=
  { out := [], busMaster := false, memSpace := false, maxPayload := 128, maxRead := 512, timeout := 0, aerStatus := 0,
    msixEnable := false, msixMask := false, msix := List.replicate 64 ⟨0, 0, true⟩, pba := 0,
    perst := true, aspm := false, l1 := false, trafficAt := 0, bars := List.replicate 6 0, width := 0, speed := 0, flit := false, downCnt := 0, bar2Off := 0,
    hbAddr := 0, hbEn := false, hbRingsK := 1, hbGen := 0, hbAt := 0, hbSkipCnt := 0, hostRejCnt := 0,
    bar2OorCnt := 0, mb := [], ackMissCnt := 0, resErr := 0, reads := [], readTag := 0, now := .none }

/-! ### Time base, events and interrupt controllers (chapter 15) -/

/-- What SLEWING has still to do (R421). -/
structure Slew where
  /-- nanoseconds still to be corrected, R421. -/
  left : Nat
  /-- true when TIME has to gain, R421. -/
  gain : Bool
  /-- TIME_CLK cycles of the present 1,024 ns period already past, R421. -/
  phase : Nat
  deriving DecidableEq, Repr

/-- A change of an EVT_OUT pin on its way to the pin, fixed when the hub took it (R424). -/
inductive PinEdge where
  /-- a pulse with the MODE and WIDTH taken at the hub, R424. -/
  | pulse (toggle : Bool) (width : Nat)
  /-- the pin goes low because EN was cleared, R424. -/
  | off
  deriving DecidableEq, Repr

/-- One EVT_OUT pin (R424). -/
structure EvtOut where
  /-- [32] EVT_OUT_CFG (LINE, EN, MODE, WIDTH), R424, R434 (15_events.md) reset LINE 0, EN 0, MODE 0, WIDTH 8. -/
  cfg : BitVec 32
  /-- [1] level of the pin, R424 (15_events.md) reset low. -/
  level : Bool
  /-- edges on their way to the pin, oldest first, R424 (15_events.md) reset none. -/
  edges : List PinEdge
  /-- hub cycle at whose end the pulse in progress ends, R424 (15_events.md) reset none. -/
  until_ : Option Nat
  deriving DecidableEq, Repr

/-- The time base, the edge hub and the event lines (R417 to R425). -/
structure TimeEvt where
  /-- [64] TIME, TIME_NOW, R417, R434 (15_events.md) reset 0. -/
  time : Nat
  /-- [1] SYS_PLL has locked, so that TIME runs, R417 (15_events.md) reset 0. -/
  running : Bool
  /-- [64 × 16] the tiles' synchronised copies of TIME, R418 (15_events.md) reset 0. -/
  tileCopy : List Nat
  /-- [64] the edge hub's copy of TIME, R418 (15_events.md) reset 0. -/
  hubCopy : Nat
  /-- [64] the DMA engine's copy of TIME, R418 (15_events.md) reset 0. -/
  dmaCopy : Nat
  /-- [64] the quoin's copy of TIME, R418, R518 (19_calibration.md) reset 0. -/
  quoinCopy : Nat
  /-- [64] the quoin's copy in the TIME_CLK cycle before, R517, R518 (19_calibration.md) reset 0. -/
  quoinPrev : Nat
  /-- [64 each] TIME before and after the last forward step, R421, R518 (15_events.md) reset 0. -/
  stepFrom : Nat
  stepTo : Nat
  /-- [64 each] the values TIME held in the last TIME_CLK cycles, newest first, from which the copies are drawn, R418 (15_events.md)
  reset none. -/
  past : List Nat
  /-- [2] TIME_CTRL.SRC, R420, R434 (15_events.md) reset 0. -/
  src : BitVec 2
  /-- [1] TIME_STATUS.ALIGNED, R421, R434 (15_events.md) reset 0. -/
  aligned : Bool
  /-- [1] no measurement has been acted on since SRC was last written, R421 (15_events.md) reset 1. -/
  firstMeas : Bool
  /-- TIME_STATUS.SLEWING and the slew in progress, R421, R434 (15_events.md) reset none. -/
  slew : Option Slew
  /-- TIME_STATUS.HOLDING: nanoseconds for which TIME still holds, R421, R434 (15_events.md) reset 0. -/
  hold : Nat
  /-- [64] TIME_SYNC_CAP, R420, R434 (15_events.md) reset 0. -/
  syncCap : Nat
  /-- [32] TIME_SLOT_PERIOD, R419, R434 (15_events.md) reset 500,000. -/
  period : BitVec 32
  /-- [32] TIME_SLOT_PHASE, R419, R434 (15_events.md) reset 0. -/
  phase : BitVec 32
  /-- [32] TIME_ERR, R421, R434 (15_events.md) reset 0. -/
  err : BitVec 32
  /-- [32] TIME_STEP_CNT, R421, R434 (15_events.md) reset 0. -/
  stepCnt : BitVec 32
  /-- [64 × 4] TIME_ALARM, R425, R434 (15_events.md) reset 0. -/
  alarm : List (BitVec 64)
  /-- [32 × 4] TIME_ALARM_CFG, R425, R434 (15_events.md) reset 0. -/
  alarmCfg : List (BitVec 32)
  /-- [4] alarms of which a forward step has passed several repeats, R425 (15_events.md) reset none. -/
  alarmSkip : BitVec 4
  /-- [32 × 4] EVT_IN_CFG, R423, R434 (15_events.md) reset 0. -/
  inCfg : List (BitVec 32)
  /-- [1 × 4] level of each EVT_IN pin last accepted, R423 (15_events.md) reset DESIGN CHOICE low (entry 2). -/
  inLevel : List Bool
  /-- hub cycle in which each EVT_IN pin last pulsed its line, R331, R423 (15_events.md) reset none. -/
  inAt : List (Option Nat)
  /-- [32 × 4] EVT_IN_CNT, R423, R434 (15_events.md) reset 0. -/
  inCnt : List (BitVec 32)
  /-- the four EVT_OUT pins, R424 (15_events.md) reset low, EVT_OUT_CFG.WIDTH 8. -/
  out : List EvtOut
  /-- [32] EVT_TICK_CFG, R419, R434 (15_events.md) reset 0. -/
  tickCfg : BitVec 32
  /-- [64] the last slot boundary that the hub pulsed, plus one, R419 (15_events.md) reset DESIGN CHOICE 0 (entry 2). -/
  tickDone : Nat
  /-- pulses on their way to every tile, in the order in which they reach the hub: the cycle in which they do, and a mask of the 64
  lines, R293 (10_mortar_hod.md) reset none. -/
  pulses : List (Nat × BitVec 64)
  /-- CLR fields and counters in the present cycle, R436 (15_events.md), R9 reset nothing. -/
  now : Happened
  deriving DecidableEq, Repr

/-- The time base and the edge hub at reset (R417, R434). -/
def TimeEvt.reset : TimeEvt :=
  { time := 0, running := false, tileCopy := List.replicate 16 0, hubCopy := 0, dmaCopy := 0, quoinCopy := 0, quoinPrev := 0, stepFrom := 0, stepTo := 0,
    past := [], src := 0, aligned := false, firstMeas := true, slew := none, hold := 0, syncCap := 0,
    period := 500000#32, phase := 0, err := 0, stepCnt := 0, alarm := List.replicate 4 0,
    alarmCfg := List.replicate 4 0, alarmSkip := 0, inCfg := List.replicate 4 0, inLevel := List.replicate 4 false, inAt := List.replicate 4 none,
    inCnt := List.replicate 4 0, out := List.replicate 4 ⟨0x80000#32, false, [], none⟩, tickCfg := 0,
    tickDone := 0, pulses := [], now := .none }

/-- What has happened to bits with SET and CLR addresses in the cycle `at_`: in that cycle a CLR write takes effect after
every SET write, and an event after every CLR write (R9). -/
structure SameCycle (w : Nat) where
  /-- the cycle that the record is of (the model's own bookkeeping, R9, 00_scope.md) reset 0. -/
  at_ : Nat
  /-- [w] bits that a CLR write of that cycle named, R9 (00_scope.md) reset 0. -/
  clr : BitVec w
  /-- [w] bits that an event of that cycle set, R9 (00_scope.md) reset 0. -/
  occ : BitVec w
  deriving DecidableEq, Repr

/-- Nothing has happened. -/
def SameCycle.none (w : Nat) : SameCycle w := { at_ := 0, clr := 0, occ := 0 }

/-- A tile's interrupt controller (R427, R429, R435). -/
structure TileIc where
  /-- [64] IC_TPEND, R426, R435 (15_events.md) reset 0. -/
  pend : BitVec 64
  /-- [64] IC_TMASK, R426, R435 (15_events.md) reset all ones. -/
  mask : BitVec 64
  /-- [64] IC_TLEVEL, R429, R435 (15_events.md) reset 0. -/
  level : BitVec 64
  /-- SET, CLR and events of one cycle at IC_TPEND, R9 (00_scope.md), R426 reset nothing. -/
  pendC : SameCycle 64
  /-- SET and CLR of one cycle at IC_TMASK, R9 (00_scope.md), R426 reset nothing. -/
  maskC : SameCycle 64
  /-- controller cycles left in which an IRQ request just withdrawn may still be delivered, R431 (15_events.md) reset 0. -/
  lateIrq : Nat
  /-- controller cycles left in which a URG request just withdrawn may still be delivered, R431 (15_events.md) reset 0. -/
  lateUrg : Nat
  deriving DecidableEq, Repr

/-- A tile controller at reset (R435). -/
def TileIc.reset : TileIc :=
  { pend := 0, mask := BitVec.allOnes 64, level := 0, pendC := .none 64, maskC := .none 64, lateIrq := 0, lateUrg := 0 }

/-- The device interrupt controller (R426 to R436). -/
structure DevIc where
  /-- [512] IC_PEND, R426, R435 (15_events.md) reset 0. -/
  pend : BitVec 512
  /-- [512] IC_QMASK, R426, R435 (15_events.md) reset all ones. -/
  qmask : BitVec 512
  /-- [512] IC_HMASK, R426, R435 (15_events.md) reset all ones. -/
  hmask : BitVec 512
  /-- [512] IC_QLEVEL, R429, R435 (15_events.md) reset 0. -/
  qlevel : BitVec 512
  /-- [6 × 512] IC_ROUTE.VEC, R430, R435 (15_events.md) reset s mod 64 for source s. -/
  route : List (Nat × BitVec 6)
  /-- SET, CLR and events of one cycle at IC_PEND, R9 (00_scope.md), R426 reset nothing. -/
  pendC : SameCycle 512
  /-- SET and CLR of one cycle at IC_QMASK, R9 (00_scope.md), R426 reset nothing. -/
  qmaskC : SameCycle 512
  /-- SET and CLR of one cycle at IC_HMASK, R9 (00_scope.md), R426 reset nothing. -/
  hmaskC : SameCycle 512
  /-- nanoseconds of TIME left (4 CFG_CLK cycles) in which an IRQ request to the quoin just withdrawn may still be delivered, R429, R431
  (15_events.md) reset 0. -/
  lateIrq : Nat
  /-- nanoseconds of TIME left in which a URG request to the quoin just withdrawn may still be delivered, R429, R431 (15_events.md)
  reset 0. -/
  lateUrg : Nat
  deriving DecidableEq, Repr

/-- The device controller at reset (R435). -/
def DevIc.reset : DevIc :=
  { pend := 0, qmask := BitVec.allOnes 512, hmask := BitVec.allOnes 512, qlevel := 0, route := [],
    pendC := .none 512, qmaskC := .none 512, hmaskC := .none 512, lateIrq := 0, lateUrg := 0 }

/-! ### Clocks and power (chapter 16) -/

/-- Where a change of operating point stands (R447 to R449). -/
inductive DvfsPhase where
  /-- no change in progress. -/
  | idle
  /-- the AVSBus write of the new voltage awaits its acknowledge, R447. -/
  | avs
  /-- PWR_AVS_SETTLE µs are passing, R447. -/
  | settle
  /-- the tiles are parking, R448. -/
  | park
  /-- the divider is ramping, R449. -/
  | ramp
  deriving DecidableEq, Repr

/-- Clock sources, domains, gating, operating point (R437 to R459). -/
structure Clock where
  /-- [2] CLK_SRC_STATUS.REF_STATE, R437, R458 (16_clocks_power.md) reset 0. -/
  refState : BitVec 2
  /-- [2] CLK_SRC_STATUS.XTAL_STATE, R437, R458 (16_clocks_power.md) reset 0. -/
  xtalState : BitVec 2
  /-- consecutive good windows of REFCLK in start-up and recovery, R438 (16_clocks_power.md) reset 0. -/
  refGood : Nat
  /-- [1] CLK_SRC_STATUS.ACTIVE: true for XTAL, R440, R458 (16_clocks_power.md) reset 0. -/
  activeXtal : Bool
  /-- [1] an active source has been taken since EGG began, R440 (16_clocks_power.md) reset 0. -/
  chosen : Bool
  /-- cycle in which the active source was chosen, R440 (16_clocks_power.md) reset none. -/
  chosenAt : Option Nat
  /-- [1] CLK_SRC_STATUS.MON_TRIMMED, R438, R458 (16_clocks_power.md) reset 0. -/
  monTrimmed : Bool
  /-- [1] CLK_SRC_STATUS.HOLDOVER, R440, R458 (16_clocks_power.md) reset 0. -/
  holdover : Bool
  /-- [1] CLK_SRC_CTRL.XTAL_EN, R437, R458 (16_clocks_power.md) reset 1. -/
  xtalEn : Bool
  /-- [5] CLK_PLL_STATUS (CORE, DDR, SYS, BOND, PCIE), R443, R458 (16_clocks_power.md) reset 0. -/
  pll : BitVec 5
  /-- [1] JTAG test mode, which TRST_N low keeps the device out of, R438 (16_clocks_power.md), R557 (22_electrical.md) reset DESIGN
  CHOICE 0 (entry 2). -/
  jtag : Bool
  /-- [1] SAFE_HOLD, R441 (16_clocks_power.md) reset 0. -/
  safeHold : Bool
  /-- [1] CLK_RESET_CAUSE.RESET_N, R442, R458 (16_clocks_power.md) reset 1 (after RESET_N). -/
  causeReset : Bool
  /-- [1] CLK_RESET_CAUSE.SAFE_HOLD, R442, R458 (16_clocks_power.md) reset 0. -/
  causeSafe : Bool
  /-- [29] CLK_EN, R451, R458 (16_clocks_power.md) reset 0x1FFF_FFFF. -/
  en : BitVec 29
  /-- SET and CLR of one cycle at CLK_EN, R9 (00_scope.md), R451, R459 reset nothing. -/
  enC : SameCycle 29
  /-- [29] CLK_GATE_STATUS, R451, R452, R458 (16_clocks_power.md) reset 0x1FFF_FFFF. -/
  gate : BitVec 29
  /-- [32] CLK_GATED_ACCESS, R453, R458 (16_clocks_power.md) reset 0. -/
  gatedAccess : BitVec 32
  /-- [32] CLK_SWITCH_CNT, R440, R458 (16_clocks_power.md) reset 0. -/
  switchCnt : BitVec 32
  /-- [32] CLK_OUT_CFG (SEL, EN, DIV), R455, R458 (16_clocks_power.md) reset SEL 0, EN 0, DIV 1. -/
  outCfg : BitVec 32
  /-- [32] PWR_DVFS_REQ (POINT, EVT, EVT_EN), R446, R458 (16_clocks_power.md) reset POINT 3. -/
  dvfsReq : BitVec 32
  /-- [2] PWR_STATUS.POINT, R447, R458 (16_clocks_power.md) reset 3. -/
  point : BitVec 2
  /-- [2] PWR_STATUS.TARGET, R447, R458 (16_clocks_power.md) reset 3. -/
  target : BitVec 2
  /-- PWR_STATUS.BUSY and the phase of the change, R447, R458 (16_clocks_power.md) reset idle. -/
  dvfs : DvfsPhase
  /-- [2] next target, requested during a change, R446 (16_clocks_power.md) reset none. -/
  nextTarget : Option (BitVec 2)
  /-- [64] TIME at which settling or parking began, R447, R448 (16_clocks_power.md) reset DESIGN CHOICE 0 (entry 2). -/
  dvfsFrom : Nat
  /-- [4] present CORE_PLL divider in half steps: 4 is /2, 8 is /4, R445, R449 (16_clocks_power.md) reset 8 (P3, R445). -/
  divider : Nat
  /-- [10] core voltage in mV last acknowledged by the regulator, R447 (16_clocks_power.md) reset 800, the regulator's boot voltage
  (R549, 22_electrical.md). -/
  millivolt : Nat
  /-- [1] PWR_STATUS.REFUSED, R446, R458 (16_clocks_power.md) reset 0. -/
  refused : Bool
  /-- [1] PWR_STATUS.AVS_ERR, R450, R458 (16_clocks_power.md) reset 0. -/
  avsErr : Bool
  /-- [16] PWR_STATUS.PARK_PENDING, R448, R458 (16_clocks_power.md) reset 0. -/
  parkPending : BitVec 16
  /-- [10] voltage in mV of the AVSBus write in progress, R447 (16_clocks_power.md) reset DESIGN CHOICE 0 (entry 2). -/
  avsMv : BitVec 10
  /-- [10] PWR_AVS_SETTLE.US, R447, R458 (16_clocks_power.md) reset 25. -/
  avsSettle : BitVec 10
  /-- [32] PWR_PARK_CNT, R448, R458 (16_clocks_power.md) reset 0. -/
  parkCnt : BitVec 32
  /-- [32] PWR_DVFS_CNT, R447, R458 (16_clocks_power.md) reset 0. -/
  dvfsCnt : BitVec 32
  /-- [10 × 4] PWR_OPP.MV, R445, R458 (16_clocks_power.md) reset 800, 740, 700, 660. -/
  opp : List (BitVec 10)
  /-- CLR fields and counters in the present cycle, R459 (16_clocks_power.md), R9 reset nothing. -/
  now : Happened
  deriving DecidableEq, Repr

/-- Clocks and power at reset (R445, R458). -/
def Clock.reset : Clock :=
  { refState := 0, xtalState := 0, refGood := 0, activeXtal := false, chosen := false, chosenAt := none,
    monTrimmed := false, holdover := false, xtalEn := true, pll := 0, jtag := false, safeHold := false,
    causeReset := true, causeSafe := false, en := 0x1FFFFFFF#29, enC := .none 29, gate := 0x1FFFFFFF#29,
    gatedAccess := 0, switchCnt := 0, outCfg := 0x10000#32, dvfsReq := 3, point := 3, target := 3,
    dvfs := .idle, nextTarget := none, dvfsFrom := 0, divider := 8, millivolt := 800,
    refused := false, avsErr := false, parkPending := 0, avsMv := 0, avsSettle := 25, parkCnt := 0, dvfsCnt := 0,
    opp := [800#10, 740#10, 700#10, 660#10], now := .none }

/-! ### Chain and bond link (chapter 17) -/

/-- The Cucon chain and its CHAIN_ block (R460 to R470, R484). -/
structure Chain where
  /-- [64 each] frames waiting to leave at CHAIN_OUT, oldest first, R462 (17_twins_chain.md) reset none. -/
  txq : List (BitVec 64)
  /-- [64 each] frames sent on CHAIN_OUT, newest first (the model's record of its output) reset none. -/
  sent : List (BitVec 64)
  /-- TIME since which CHAIN_OUT is held idle for an expected SLOT, R469 (17_twins_chain.md) reset not held. -/
  idleFrom : Option Nat
  /-- [64] slot boundary whose SLOT CHAIN_OUT was last held idle for, plus one, R469 (17_twins_chain.md) reset DESIGN CHOICE 0 (entry 2). -/
  idleDone : Nat
  /-- [64 × 16] MSG receive FIFO, oldest first, R470 (17_twins_chain.md) reset empty. -/
  rx : List (BitVec 64)
  /-- [32] low half of CHAIN_MSG_TX as last written, R470, R484 (17_twins_chain.md) reset 0. -/
  msgTxLow : BitVec 32
  /-- [4] CHAIN_STATUS.ADDR, R463, R484 (17_twins_chain.md) reset 0. -/
  addr : BitVec 4
  /-- [5] CHAIN_STATUS.SIZE, R463, R484 (17_twins_chain.md) reset 0. -/
  size : BitVec 5
  /-- [1] CHAIN_STATUS.HEAD, the CHAIN_HEAD strap, R463, R484 (17_twins_chain.md) reset DESIGN CHOICE 0 (entry 5): per strap. -/
  head : Bool
  /-- [1] CHAIN_STATUS.ASSIGNED, R463, R484 (17_twins_chain.md) reset 0. -/
  assigned : Bool
  /-- [1] CHAIN_STATUS.BROKEN, R463, R469, R484 (17_twins_chain.md) reset 0. -/
  broken : Bool
  /-- [1] CHAIN_STATUS.OVERSIZE, R463, R484 (17_twins_chain.md) reset 0. -/
  oversize : Bool
  /-- [1] CHAIN_STATUS.DUP_HEAD, R463, R484 (17_twins_chain.md) reset 0. -/
  dupHead : Bool
  /-- ASSIGN frames sent by this head and not yet returned, R463 (17_twins_chain.md) reset 0. -/
  assignOut : Nat
  /-- [64] TIME of the last ASSIGN sent, R463 (17_twins_chain.md) reset DESIGN CHOICE 0 (entry 2). -/
  assignLast : Nat
  /-- [64] TIME of the first ASSIGN, from which the 10 ms run, R463 (17_twins_chain.md) reset DESIGN CHOICE 0 (entry 2). -/
  assignFrom : Nat
  /-- [64] TIME of the last SLOT received, R469 (17_twins_chain.md) reset DESIGN CHOICE 0 (entry 2). -/
  slotSeen : Nat
  /-- [64] last slot boundary for which SLOT was sent, plus one, R466 (17_twins_chain.md) reset DESIGN CHOICE 0 (entry 2). -/
  slotSent : Nat
  /-- [6] CHAIN_CTRL.MSG_EVT, R470, R484 (17_twins_chain.md) reset 0. -/
  msgEvt : BitVec 6
  /-- [1] CHAIN_CTRL.MSG_EVT_EN, R470, R484 (17_twins_chain.md) reset 0. -/
  msgEvtEn : Bool
  /-- [16] CHAIN_HOP_NS.H, R467, R484 (17_twins_chain.md) reset 0. -/
  hopH : BitVec 16
  /-- [16] CHAIN_HOP_NS.R, R467, R484 (17_twins_chain.md) reset 0. -/
  hopR : BitVec 16
  /-- [16] R of the round being closed, kept by the head until it consumes SUB 1, R467 (17_twins_chain.md) reset DESIGN CHOICE 0 (entry
  2). -/
  roundR : BitVec 16
  /-- [16] CHAIN_SKEW.NS, R466, R484 (17_twins_chain.md) reset 0. -/
  skew : BitVec 16
  /-- [32] CHAIN_CRC_CNT, R462, R484 (17_twins_chain.md) reset 0. -/
  crcCnt : BitVec 32
  /-- [32] CHAIN_DROP_CNT, R461, R484 (17_twins_chain.md) reset 0. -/
  dropCnt : BitVec 32
  /-- CLR fields and counters in the present cycle, R485 (17_twins_chain.md), R9 reset nothing. -/
  now : Happened
  deriving DecidableEq, Repr

/-- The chain at reset, with the CHAIN_HEAD strap low (R484). -/
def Chain.reset : Chain :=
  { txq := [], sent := [], idleFrom := none, idleDone := 0, rx := [], msgTxLow := 0, addr := 0,
    size := 0, head := false, assigned := false, broken := false, oversize := false, dupHead := false,
    assignOut := 0, assignLast := 0, assignFrom := 0, slotSeen := 0, slotSent := 0, msgEvt := 0, msgEvtEn := false,
    hopH := 0, hopR := 0, roundR := 0, skew := 0, crcCnt := 0, dropCnt := 0, now := .none }

/-- A frame of the bond link (R471). -/
structure BondFrame where
  /-- [8] TYPE: 0 MWR, 1 ACK, 2 NAK, 3 WINGBEAT, 4 STATE, 5 CTX, 6 CTRL, R471. -/
  type : Nat
  /-- [8] WIN, R471. -/
  win : Nat
  /-- [32] FSEQ, R471. -/
  fseq : BitVec 32
  /-- [64] ADDR, R471. -/
  addr : BitVec 64
  /-- [8 × 128] payload, R471. -/
  payload : List (BitVec 8)
  deriving DecidableEq, Repr

/-- A step's mirror in progress (R474). -/
structure Mirror where
  /-- [4] tile. -/
  tile : Nat
  /-- [1] of the urgent step. -/
  urgent : Bool
  /-- courses still to be read, with their windows. -/
  left : List (Nat × Nat)
  /-- the ranges whose read entries are still held, R474. -/
  ranges : List Range
  /-- courses of the mirror in all, R475. -/
  count : Nat
  /-- [64] TIME of the retirement cycle, R475. -/
  since : Nat
  /-- [1] its read entries have been taken, R474. -/
  entered : Bool
  /-- [32] FSEQ of its last frame, once sent. -/
  lastSeq : Option (BitVec 32)
  /-- [4] the smallest LAG_N of its windows, R474. -/
  lag : Nat
  /-- [1] its step has completed, ahead of the acknowledgement, R474. -/
  past : Bool
  /-- [1] the partner has acknowledged its last frame, R474. -/
  acked : Bool
  /-- [1] it is a window's copy in a RESYNC, of no step, R483. -/
  copy : Bool
  deriving DecidableEq, Repr

/-- A record the standby has acknowledged, with its place (R478, R480). -/
structure HeldRecord where
  /-- [10] queue. -/
  cq : Nat
  /-- [16] slot. -/
  slot : BitVec 16
  /-- [256] the record. -/
  bits : BitVec 256
  deriving DecidableEq, Repr

/-- A record that waits for the acknowledgement of its STATE frame (R478). -/
structure StateWait where
  /-- [6] channel that holds the record. -/
  ch : Nat
  /-- [32] FSEQ of the STATE frame. -/
  fseq : BitVec 32
  /-- [1] the partner has acknowledged it. -/
  acked : Bool
  /-- its place and its bits. -/
  item : HeldRecord
  deriving DecidableEq, Repr

/-- The bond link and its BOND_ block (R464, R471 to R485). -/
structure Bond where
  /-- [1] BOND_STATUS.PAIRED, R464, R484 (17_twins_chain.md) reset 0. -/
  paired : Bool
  /-- [1] BOND_STATUS.ROLE: true for active, R464, R484 (17_twins_chain.md) reset DESIGN CHOICE 0 (entry 5): per TWIN_ROLE strap. -/
  active : Bool
  /-- [1] the partner is active, as its last wingbeat or CTRL frame told, or the first roles, R464, R479, R483 (17_twins_chain.md) reset
  DESIGN CHOICE 0 (entry 2). -/
  partnerActive : Bool
  /-- [1] the first roles of the pair have been settled, R464 (17_twins_chain.md) reset DESIGN CHOICE 0 (entry 2). -/
  roleSet : Bool
  /-- [1] BOND_STATUS.SYNCED, R483, R484 (17_twins_chain.md) reset 0. -/
  synced : Bool
  /-- [1] BOND_STATUS.LINK_UP, R472, R484 (17_twins_chain.md) reset 0. -/
  linkUp : Bool
  /-- [1] BOND_STATUS.PARTNER_LOST, R479, R484 (17_twins_chain.md) reset 0. -/
  partnerLost : Bool
  /-- [1] BOND_STATUS.ROLE_CONFLICT, R464, R484 (17_twins_chain.md) reset 0. -/
  roleConflict : Bool
  /-- [1] BOND_STATUS.TAKEOVER, R480, R484 (17_twins_chain.md) reset 0. -/
  takeover : Bool
  /-- [1] BOND_STATUS.SPLIT, R482, R484 (17_twins_chain.md) reset 0. -/
  split : Bool
  /-- [8] BOND_STATUS.ROLE_EPOCH, R480, R484 (17_twins_chain.md) reset 0. -/
  roleEpoch : BitVec 8
  /-- [1] BOND_CTRL.MIRROR_CQ, R477, R484 (17_twins_chain.md) reset 1. -/
  mirrorCq : Bool
  /-- [6] BOND_CTRL.TKO_EVT, R480, R484 (17_twins_chain.md) reset 0. -/
  tkoEvt : BitVec 6
  /-- [1] BOND_CTRL.TKO_EVT_EN, R480, R484 (17_twins_chain.md) reset 0. -/
  tkoEvtEn : Bool
  /-- [32] BOND_REPLAY_CNT, R472, R484 (17_twins_chain.md) reset 0. -/
  replayCnt : BitVec 32
  /-- [32] BOND_WB_MISS_CNT, R479, R484 (17_twins_chain.md) reset 0. -/
  wbMissCnt : BitVec 32
  /-- [32] BOND_SYNC_EXCESS, R475, R484 (17_twins_chain.md) reset 0. -/
  syncExcess : BitVec 32
  /-- [128 × 64] mirror windows, R473, R484 (17_twins_chain.md) reset 0. -/
  win : List (Nat × MirrorWindow)
  /-- frames waiting to be sent, oldest first, R471 (17_twins_chain.md) reset none. -/
  txq : List BondFrame
  /-- [256 frames] frames sent and not acknowledged, oldest first, R472 (17_twins_chain.md) reset none. -/
  unacked : List BondFrame
  /-- frames sent on the link, newest first (the model's record of its output) reset none. -/
  sent : List BondFrame
  /-- [32] FSEQ of the next frame sent, R471 (17_twins_chain.md) reset DESIGN CHOICE 0 (entry 2). -/
  txSeq : BitVec 32
  /-- [32] FSEQ of the next frame expected, R472 (17_twins_chain.md) reset DESIGN CHOICE 0 (entry 2). -/
  rxSeq : BitVec 32
  /-- [32] FSEQ named by the last NAK and the count of consecutive NAKs for it, R472 (17_twins_chain.md) reset 0. -/
  nakSeq : BitVec 32
  /-- consecutive NAKs for that FSEQ, R472 (17_twins_chain.md) reset 0. -/
  nakCnt : Nat
  /-- [16] wingbeats sent, R461 (17_twins_chain.md) reset 0. -/
  wbSent : BitVec 16
  /-- [64] number of the next 10 µs multiple of TIME at which a wingbeat is due, R479 (17_twins_chain.md) reset DESIGN CHOICE 0 (entry
  2). -/
  wbAt : Nat
  /-- [64] number of the 10 µs period whose end is due next, R479 (17_twins_chain.md) reset DESIGN CHOICE 0 (entry 2). -/
  wbEnd : Nat
  /-- [1] SYNCED in the partner's last wingbeat, R461, R483, R485 (17_twins_chain.md) reset DESIGN CHOICE 0 (entry 2). -/
  partnerSynced : Bool
  /-- queues whose TAKEOVER record has still to find room, R387, R480 (17_twins_chain.md) reset none. -/
  tkoWait : List Nat
  /-- [64] DSEQ_LAST of the standby before it promoted, R480 (17_twins_chain.md) reset DESIGN CHOICE 0 (entry 2). -/
  tkoLast : BitVec 64
  /-- [1] a wingbeat has come by the chain in the present period, R479 (17_twins_chain.md) reset 0. -/
  wbChain : Bool
  /-- [1] a wingbeat has come by the bond link in the present period, R479 (17_twins_chain.md) reset 0. -/
  wbBond : Bool
  /-- consecutive periods missed on both paths, R479 (17_twins_chain.md) reset 0. -/
  missed : Nat
  /-- consecutive periods with the bond link down, R479 (17_twins_chain.md) reset 0. -/
  downFor : Nat
  /-- [1] mirroring is suspended, R479 (17_twins_chain.md) reset DESIGN CHOICE 0 (entry 2). -/
  suspended : Bool
  /-- [1] a RELINQUISH is waiting for its rings and frames, R481 (17_twins_chain.md) reset 0. -/
  relinquishing : Bool
  /-- [32] FSEQ of the last frame of a RESYNC in progress, R483 (17_twins_chain.md) reset none. -/
  resync : Option (BitVec 32)
  /-- mirrors begun and not yet acknowledged whole, oldest first, R474 (17_twins_chain.md) reset none. -/
  mirrors : List Mirror
  /-- [64 records] records whose STATE frame has been queued and which are not yet written, oldest first, R478 (17_twins_chain.md) reset
  none. -/
  stateWait : List StateWait
  /-- at the standby: mirrored ring contexts, R477 (17_twins_chain.md) reset none. -/
  ctxs : List (Nat × BitVec 512)
  /-- at the standby: mirrored ring states, R477, R480 (17_twins_chain.md) reset none. -/
  ringStates : List (Nat × BitVec 3)
  /-- at the standby: mirrored queue state, R477 (17_twins_chain.md) reset none. -/
  cqs : List (Nat × DmaCq)
  /-- [64 records] at the standby: the last records acknowledged, newest first, R478 (17_twins_chain.md) reset none. -/
  held : List HeldRecord
  /-- [64 records] records of the standby that a takeover has still to write again, in DSEQ order, R480 (17_twins_chain.md) reset none. -/
  rewrite : List HeldRecord
  /-- CLR fields and counters in the present cycle, R485 (17_twins_chain.md), R9 reset nothing. -/
  now : Happened
  deriving DecidableEq, Repr

/-- The bond link at reset, with the TWIN_ROLE strap low (R484). -/
def Bond.reset : Bond :=
  { paired := false, active := false, partnerActive := false, roleSet := false, synced := false, linkUp := false, partnerLost := false,
    roleConflict := false, takeover := false, split := false, roleEpoch := 0, mirrorCq := true,
    tkoEvt := 0, tkoEvtEn := false, replayCnt := 0, wbMissCnt := 0, syncExcess := 0, win := [],
    txq := [], unacked := [], sent := [], txSeq := 0, rxSeq := 0, nakSeq := 0, nakCnt := 0, wbSent := 0, wbAt := 0, wbEnd := 0,
    partnerSynced := false, tkoWait := [], tkoLast := 0, wbChain := false, wbBond := false, missed := 0, downFor := 0, suspended := false,
    relinquishing := false, resync := none, mirrors := [], stateWait := [], ctxs := [],
    ringStates := [], cqs := [], held := [], rewrite := [], now := .none }

/-! ### Start-up, identity and the quoin (chapter 18) -/

/-- The four start-up states (R486). -/
inductive Life where
  | egg | larva | chrysalis | imago
  deriving DecidableEq, Repr

/-- A line the boot ROM sends on the console (R502). -/
inductive ConsoleLine where
  /-- item n of R492 begins. -/
  | itemBegin (n : Nat)
  /-- item n of R492 ends. -/
  | itemEnd (n : Nat)
  /-- a boot error stops LARVA: its code, R501. -/
  | bootError (code : Nat)
  deriving DecidableEq, Repr

/-- Start-up, the SEC_ block, the quoin mailbox and identity (R486 to R511). -/
structure Sec where
  /-- [3] DEV_STATE.LIFE, R486, R415 (18_startup.md) reset 0, EGG. -/
  life : Life
  /-- [4] DEV_ID.GRADE, R415 (14_host.md) reset 0, a ZV48-F12E (R3): per ordering code. -/
  grade : BitVec 4
  /-- [1] RESET_N is low, R554 (22_electrical.md) reset 0. -/
  resetLow : Bool
  /-- [1] THERMTRIP_N is low and the outputs are forced, R559 (22_electrical.md) reset 0. -/
  tripped : Bool
  /-- [6] SEC_STRAPS (BOOT_SRC, CHAIN_HEAD, TWIN_ROLE, BAR2_SIZE), R488, R510 (18_startup.md) reset DESIGN CHOICE 0 (entry 5): per
  strap, and a floating strap reads 0 (R556). -/
  straps : BitVec 6
  /-- [2] SEC_STATUS.ID_STATE, R503, R510 (18_startup.md) reset 1. -/
  idState : BitVec 2
  /-- [1] SEC_STATUS.CERT_OK, R496, R510 (18_startup.md) reset 0. -/
  certOk : Bool
  /-- [4] SEC_STATUS.IMAGES, R510 (18_startup.md) reset 0. -/
  images : Nat
  /-- [1] SEC_STATUS.BOOT_FAIL, R501, R510 (18_startup.md) reset 0. -/
  bootFail : Bool
  /-- [8] SEC_BOOT_ERR.CODE, R501, R510 (18_startup.md) reset 0. -/
  bootCode : BitVec 8
  /-- [3] SEC_BOOT_ERR.IMAGE, R501, R510 (18_startup.md) reset 0. -/
  bootImage : BitVec 3
  /-- [1] SEC_BOOT_ERR.VALID, R501, R510 (18_startup.md) reset 0. -/
  bootValid : Bool
  /-- [2] SEC_MB_STATUS.STATE, R506, R510 (18_startup.md) reset 0. -/
  mbState : BitVec 2
  /-- [8] SEC_MB_STATUS.RESULT, R506, R510 (18_startup.md) reset 0. -/
  mbResult : BitVec 8
  /-- [1] SEC_MB_STATUS.REJECTED, R506, R510 (18_startup.md) reset 0. -/
  mbRejected : Bool
  /-- [20] SEC_MB_LEN.LEN, R506, R510 (18_startup.md) reset 0. -/
  mbLen : BitVec 20
  /-- [8] OP of the mailbox command in progress, R506 (18_startup.md) reset 0. -/
  mbOp : BitVec 8
  /-- the result the quoin will place at completion: code and data, R506 (18_startup.md) reset none. -/
  mbDone : Option (BitVec 8 × List (BitVec 8))
  /-- [512 KiB] bytes of SEC_MB_BUF written so far, R510 (18_startup.md) reset —: an unwritten byte reads as a free value (R11). -/
  mbBuf : List (Nat × BitVec 8)
  /-- [256] SEC_ENROL_CHAL, R505, R510 (18_startup.md) reset 0. -/
  chal : BitVec 256
  /-- objects of a mailbox boot accepted so far: the certificate, then the images, R493 (18_startup.md) reset 0. -/
  objects : Nat
  /-- bytes of the object being loaded by LOAD, R493, R506 (18_startup.md) reset none. -/
  loadBuf : List (BitVec 8)
  /-- [1] END_LOAD has been accepted, R493 (18_startup.md) reset 0. -/
  loadEnded : Bool
  /-- images that the directory announces, R489 (18_startup.md) reset 0. -/
  dirImages : Nat
  /-- [1] item 1 of R492 has ended: the PLLs are locked (18_startup.md) reset 0. -/
  item1 : Bool
  /-- [1] item 2 of R492 has ended: the identity is known (18_startup.md) reset 0. -/
  item2 : Bool
  /-- [1] item 5 of R492 has ended: every channel is trained (18_startup.md) reset 0. -/
  item5 : Bool
  /-- [64] TIME at which DDR5 training began, R492 (18_startup.md) reset DESIGN CHOICE 0 (entry 2). -/
  trainFrom : Nat
  /-- [8 × 4 KiB] the raw PUF as read at this start, R486, R505 (18_startup.md) reset none read. -/
  raw : List (BitVec 8)
  /-- [1] the PUF SRAM has been overwritten with zeros, R491 (18_startup.md) reset 0. -/
  pufZeroed : Bool
  /-- [256] the PUF key, when one has been reconstructed, R503 (18_startup.md) reset none. -/
  pufKey : Option (BitVec 256)
  /-- [10,496] the device public key, when ENROLLED, R504 (18_startup.md) reset none. -/
  pubKey : Option (BitVec 10496)
  /-- [10,496] OWNER_KEY of the accepted certificate, R494, R496 (18_startup.md) reset 0. -/
  ownerKey : BitVec 10496
  /-- [64] OWNER_ID of the accepted certificate, R494 (18_startup.md) reset 0. -/
  ownerId : BitVec 64
  /-- [32] MIN_VERSION of the accepted certificate, R494 (18_startup.md) reset 0. -/
  minVersion : BitVec 32
  /-- [256] digest of the accepted certificate, R508 (18_startup.md) reset 0. -/
  certDigest : BitVec 256
  /-- [256 × 8] digests of the verified images, R508 (18_startup.md) reset 0. -/
  imgDigest : List (BitVec 256)
  /-- [2] RUN_POINT of DEVCFG, R499, R500 (18_startup.md) reset 0. -/
  runPoint : BitVec 2
  /-- [2,304 bytes] the DECODE section kept in quoin RAM, when an image held one, R158 (05_decode_table.md) reset none. -/
  decodeSect : Option (List (BitVec 8))
  /-- [1] the section was rejected under R159 (05_decode_table.md) reset 0. -/
  decodeBad : Bool
  /-- [256] decode-table digest, R160 (05_decode_table.md) reset DESIGN CHOICE 0 (entry 2): measured on entry into CHRYSALIS. -/
  decodeDigest : BitVec 256
  /-- lines sent on the console, newest first, R502 (18_startup.md) reset none. -/
  console : List ConsoleLine
  /-- bits of console frames that have still to leave on UART_TX, oldest first, R502 (18_startup.md) reset none, UART_TX high. -/
  uart : List Bool
  /-- cycle in which the bit now on UART_TX began, R502 (18_startup.md) reset DESIGN CHOICE 0 (entry 2). -/
  uartAt : Nat
  /-- [1] a verified image has held a QUOIN_FW section, so that firmware has the console from CHRYSALIS on, R502 (18_startup.md) reset 0. -/
  firmware : Bool
  /-- [8 × 2³²] bytes of the QSPI flash written since the board was fitted, R489, R503, R505 (18_startup.md) reset none: an unwritten
  byte reads as it was fitted. -/
  flash : List Host.Cell
  /-- [64 bytes] the flash directory as the boot ROM read it in EGG, R486, R489 (18_startup.md) reset DESIGN CHOICE 0 (entry 2). -/
  dir : BitVec 512
  /-- entries of the sections written during LARVA, R498 (18_startup.md) reset none. -/
  sects : List (BitVec 256)
  /-- CLR fields and counters in the present cycle, R511 (18_startup.md), R9 reset nothing. -/
  now : Happened
  /-- a command written to SEC_MB_CMD while BUSY in the present cycle: its OP, whether an ENROL's flash write succeeds, and REJECTED
  before it, R511 (18_startup.md) reset none. -/
  mbLate : Option (Nat × Bool × Bool)
  deriving DecidableEq, Repr

/-- Start-up state at the release of RESET_N (R486, R510). -/
def Sec.reset : Sec :=
  { life := .egg, grade := 0, resetLow := false, tripped := false, straps := 0, idState := 1,
    certOk := false, images := 0, bootFail := false, bootCode := 0, bootImage := 0,
    bootValid := false, mbState := 0, mbResult := 0, mbRejected := false, mbLen := 0, mbOp := 0,
    mbDone := none, mbBuf := [], chal := 0, objects := 0, loadBuf := [], loadEnded := false,
    dirImages := 0, item1 := false, item2 := false, item5 := false, trainFrom := 0, raw := [], pufZeroed := false,
    pufKey := none, pubKey := none, ownerKey := 0, ownerId := 0, minVersion := 0, certDigest := 0,
    imgDigest := List.replicate 8 0, runPoint := 0, decodeSect := none, decodeBad := false,
    decodeDigest := 0, console := [], uart := [], uartAt := 0, firmware := false, flash := [], dir := 0, sects := [], now := .none, mbLate := none }

/-- The quoin: its sequencer core and its own memories (R72, R490). -/
structure Quoin where
  /-- the quoin's sequencer core, R72, R81, R149 (03_sequencer_isa.md) reset SeqCore.reset, but for HALTED: it runs the boot ROM from
  EGG on (R486). -/
  seq : SeqCore
  /-- [8 × 1 MiB] quoin RAM, R490 (18_startup.md) reset DESIGN CHOICE 0 in every byte (entry 3). -/
  ram : List Host.Cell
  /-- [8 × 4 KiB] PUF SRAM bytes written since power-up, R490, R491 (18_startup.md) reset none: an unwritten byte reads as the raw PUF. -/
  puf : List (Nat × BitVec 8)
  deriving DecidableEq, Repr

/-- The quoin at reset (R73, R486). -/
def Quoin.reset : Quoin := { seq := { SeqCore.reset with halted := false }, ram := [], puf := [] }

/-! ### Calibration (chapter 19) -/

/-- A gap task of one channel (R512). -/
inductive CalTask where
  | retrain | dqs | temp | zq
  deriving DecidableEq, Repr

/-- The calibration state of one DDR5 channel (R512 to R521). -/
structure CalChan where
  /-- [64] TIME at which RETRAIN became due, R512 (19_calibration.md) reset none. -/
  retrainDue : Option Nat
  /-- [64] TIME at which DQS became, or becomes, due, R512 (19_calibration.md) reset 0. -/
  dqsDue : Nat
  /-- [64] TIME at which TEMP became, or becomes, due, R512 (19_calibration.md) reset 0. -/
  tempDue : Nat
  /-- [64] TIME at which ZQ became, or becomes, due, R512 (19_calibration.md) reset 0. -/
  zqDue : Nat
  /-- the task running and the TIME at which it ends, R513 (19_calibration.md) reset none. -/
  running : Option (CalTask × Nat)
  /-- tasks run since the channel was last free of them, R512, R520 (19_calibration.md) reset none. -/
  ran : List CalTask
  /-- [64] TIME at which the channel's last steal ended, R520 (19_calibration.md) reset none. -/
  stolenEnd : Option Nat
  /-- [32] CAL_STEAL_CNT[c], R520, R522 (19_calibration.md) reset 0. -/
  stealCnt : BitVec 32
  deriving DecidableEq, Repr

/-- A channel's calibration state at reset (R522). -/
def CalChan.reset : CalChan :=
  { retrainDue := none, dqsDue := 0, tempDue := 0, zqDue := 0, running := none, ran := [], stolenEnd := none,
    stealCnt := 0 }

/-- Calibration and the CAL_ block (R512 to R523). -/
structure Cal where
  /-- [1] CAL_CTRL.EN, R512, R522 (19_calibration.md) reset 1. -/
  en : Bool
  /-- [1] CAL_CTRL.STEAL_EN, R520, R522 (19_calibration.md) reset 1. -/
  stealEn : Bool
  /-- [16] CAL_CTRL.LOOP_MS, R512, R522 (19_calibration.md) reset 1,000. -/
  loopMs : BitVec 16
  /-- [1] tasks have begun: CHRYSALIS has been entered, R512 (19_calibration.md) reset 0. -/
  started : Bool
  /-- [64 × 8] CAL_GAP as written, R518, R522 (19_calibration.md) reset 0. -/
  gap : List (BitVec 64)
  /-- [64 × 8] CAL_GAP as in effect since the last slot boundary, R518 (19_calibration.md) reset 0. -/
  gapCur : List (BitVec 64)
  /-- [64] TIME of the last write of CAL_GAP, R518 (19_calibration.md) reset 0. -/
  gapAt : Nat
  /-- gaps in progress: entry, TIME at which it ends and its channels, R517, R518 (19_calibration.md) reset none. -/
  inGap : List (Nat × Nat × BitVec 8)
  /-- the eight channels, R512 (19_calibration.md) reset CalChan.reset. -/
  ch : List CalChan
  /-- [8] CAL_STATUS.OVERDUE, R520, R522 (19_calibration.md) reset 0. -/
  overdue : BitVec 8
  /-- CAL_STATUS.STEALING: TIME at which the steal in progress began, R520, R522 (19_calibration.md) reset none. -/
  stealing : Option Nat
  /-- [3] CAL_STATUS.CH, R522 (19_calibration.md) reset 0. -/
  stealCh : BitVec 3
  /-- [1] a channel has been stolen, so that CAL_STATUS.CH names it, R520 (19_calibration.md) reset 0. -/
  stolen : Bool
  /-- [64] TIME at which the last steal ended, R520 (19_calibration.md) reset none. -/
  lastSteal : Option Nat
  /-- [8] CAL_TEMP.DIE_MAX, R512, R522 (19_calibration.md) reset 0. -/
  dieMax : BitVec 8
  /-- [8] CAL_TEMP.DIE_MIN, R512, R522 (19_calibration.md) reset 0. -/
  dieMin : BitVec 8
  /-- [64] TIME at which DIE_TEMP is due, R512 (19_calibration.md) reset 0. -/
  dieDue : Nat
  /-- [64] TIME at which TRIM is due, R512, R515 (19_calibration.md) reset 0. -/
  trimDue : Nat
  /-- [1] a TRIM window is being counted, R515 (19_calibration.md) reset 0. -/
  trimming : Bool
  /-- [1] a trim code waits for a gap with DEV = 1, R515 (19_calibration.md) reset 0. -/
  trimReady : Bool
  /-- [1 × 2] the counter window in progress of REFCLK and of XTAL spans a trim, R515 (19_calibration.md) reset 0. -/
  windowSpoilt : List Bool
  /-- [64] TIME of the head's last LOOP round, R516 (19_calibration.md) reset 0. -/
  loopLast : Nat
  /-- [32] CAL_INTRUDE_CNT, R519, R522 (19_calibration.md) reset 0. -/
  intrudeCnt : BitVec 32
  /-- CLR fields and counters in the present cycle, R523 (19_calibration.md), R9 reset nothing. -/
  now : Happened
  deriving DecidableEq, Repr

/-- Calibration at reset (R522). -/
def Cal.reset : Cal :=
  { en := true, stealEn := true, loopMs := 1000#16, started := false, gap := List.replicate 8 0,
    gapCur := List.replicate 8 0, gapAt := 0, inGap := [], ch := List.replicate 8 .reset, overdue := 0,
    stealing := none, stealCh := 0, stolen := false, lastSteal := none, dieMax := 0, dieMin := 0,
    dieDue := 0, trimDue := 0, trimming := false, trimReady := false,
    windowSpoilt := [false, false], loopLast := 0, intrudeCnt := 0, now := .none }

/-! ### Faults (chapter 20) -/

/-- Errors, fences and the DEV_FLT_ block (R524 to R541). -/
structure Flt where
  /-- [1] DEV_FLT_STATUS.DEV_FAULT, R536, R540 (20_faults.md) reset 0. -/
  devFault : Bool
  /-- [3] DEV_FLT_STATUS.CAUSE, R535, R540 (20_faults.md) reset 0. -/
  cause : BitVec 3
  /-- [3] DEV_FLT_STATUS.CHANNEL, R535, R540 (20_faults.md) reset 0. -/
  channel : BitVec 3
  /-- [32] DEV_FLT_CFG (SC_UE_LIM, DDR_UE_LIM, LINK_MS, WDOG_MS), R540 (20_faults.md) reset 3, 16, 10, 10. -/
  cfg : BitVec 32
  /-- [32] DEV_FLT_CFG as in effect in the present window, R541 (20_faults.md) reset 3, 16, 10, 10. -/
  cfgCur : BitVec 32
  /-- [32] DEV_FLT_HOD_CE, R529, R540 (20_faults.md) reset 0. -/
  hodCe : BitVec 32
  /-- [32] DEV_FLT_MOR_PERR, R527, R540 (20_faults.md) reset 0. -/
  morPerr : BitVec 32
  /-- [6 × 16] DEV_FLT_TILE (CAUSE, STEP_N, STEP_U, WAIT_N, WAIT_U), R531, R540 (20_faults.md) reset 0. -/
  tile : List (BitVec 6)
  /-- [64 × 16] DEV_FLT_TILE_STEP, R531, R540 (20_faults.md) reset 0. -/
  tileStep : List (BitVec 64)
  /-- [64 × 16] DEV_FLT_TILE_WAIT, R531, R540 (20_faults.md) reset 0. -/
  tileWait : List (BitVec 64)
  /-- [8 × 16] DEV_FLT_SC_UE, R534, R540 (20_faults.md) reset 0. -/
  scUe : List (BitVec 8)
  /-- [8 × 8] DEV_FLT_DDR_UE, R535, R540 (20_faults.md) reset 0. -/
  ddrUe : List (BitVec 8)
  /-- [64] number of the window of 10⁹ ns being counted, R534 (20_faults.md) reset 0. -/
  window : Nat
  /-- [64] TIME of the last KICK, or of entry into CHRYSALIS, R535 (20_faults.md) reset 0. -/
  kickAt : Nat
  /-- [64] TIME since which the PCIe link has been down after having been up, R535 (20_faults.md) reset none. -/
  linkDownAt : Option Nat
  /-- CLR fields and counters in the present cycle, R541 (20_faults.md), R9 reset nothing. -/
  now : Happened
  deriving DecidableEq, Repr

/-- Faults at reset (R540). -/
def Flt.reset : Flt :=
  { devFault := false, cause := 0, channel := 0, cfg := 0x0A0A1003#32, cfgCur := 0x0A0A1003#32,
    hodCe := 0, morPerr := 0, tile := List.replicate 16 0, tileStep := List.replicate 16 0,
    tileWait := List.replicate 16 0, scUe := List.replicate 16 0, ddrUe := List.replicate 8 0,
    window := 0, kickAt := 0, linkDownAt := none, now := .none }

/-! ### The machine -/

/-- One tile (R18). -/
structure Tile where
  /-- its sequencer, R72 (03_sequencer_isa.md) reset SeqCore.reset. -/
  seq : SeqCore
  /-- its tile store, R39 (02_tile_store.md) reset TileStore.reset. -/
  ts : TileStore
  /-- its vector engine, R164 (06_vector_engine.md) reset VecEngine.reset. -/
  vec : VecEngine
  /-- its matrix array and window unit, R221 (08_matrix_array.md) reset ArrayEng.reset. -/
  arr : ArrayEng
  /-- its drain unit, R244 (08_matrix_array.md) reset DrainEng.reset. -/
  drn : DrainEng
  /-- its small-channel engine, R275 (09_windows.md) reset SceEng.reset. -/
  sce : SceEng
  /-- its hod port and drain buffer, R299 (10_mortar_hod.md) reset empty. -/
  hp : HodPort
  /-- its mortar send, R288 (10_mortar_hod.md) reset empty. -/
  ms : MSendEng
  /-- its step unit, R27 (01_machine.md) reset StepUnit.reset. -/
  st : StepUnit
  /-- its interrupt controller, R427 (15_events.md) reset TileIc.reset. -/
  ic : TileIc
  deriving DecidableEq, Repr

/-- A tile at the end of reset (R68, R73, R196, R533). -/
def Tile.reset : Tile :=
  { seq := .reset, ts := .reset, vec := .reset, arr := .reset, drn := .reset, sce := .reset,
    hp := { queue := [], sendAt := 0, bcastAt := 0, buf := [] }, ms := { queue := [], at_ := 0 },
    st := .reset, ic := .reset }

/-- The whole device, and the commands that wait for it. -/
structure State where
  /-- the sixteen tiles, R18 (01_machine.md) reset Tile.reset. -/
  tiles : List Tile
  /-- mortar and mode epochs, R284, R309 (10_mortar_hod.md) reset Mortar.reset. -/
  mor : Mortar
  /-- the hod, R294 (10_mortar_hod.md) reset Hod.reset. -/
  hod : Hod
  /-- the stream cache, R335 (12_memory.md) reset StreamCache.reset. -/
  sc : StreamCache
  /-- DDR5, R353 (12_memory.md) reset Ddr.reset. -/
  ddr : Ddr
  /-- the DMA engine, R361 (13_dma.md) reset Dma.reset. -/
  dma : Dma
  /-- the host attachment, R392 (14_host.md) reset HostIf.reset. -/
  host : HostIf
  /-- TIME and events, R417 (15_events.md) reset TimeEvt.reset. -/
  te : TimeEvt
  /-- the device interrupt controller, R426 (15_events.md) reset DevIc.reset. -/
  ic : DevIc
  /-- clocks and power, R437 (16_clocks_power.md) reset Clock.reset. -/
  clk : Clock
  /-- the Cucon chain, R460 (17_twins_chain.md) reset Chain.reset. -/
  chain : Chain
  /-- the bond link, R471 (17_twins_chain.md) reset Bond.reset. -/
  bond : Bond
  /-- start-up and identity, R486 (18_startup.md) reset Sec.reset. -/
  sec : Sec
  /-- the quoin, R72, R490 (18_startup.md) reset Quoin.reset. -/
  quoin : Quoin
  /-- calibration, R512 (19_calibration.md) reset Cal.reset. -/
  cal : Cal
  /-- errors and faults, R524 (20_faults.md) reset Flt.reset. -/
  flt : Flt
  /-- cycles of the tile clock since reset, the cycle numbers of R14, R315 (00_scope.md) reset DESIGN CHOICE 0 (entry 2). -/
  cycle : Nat
  /-- the model's own counter of free values drawn (DESIGN CHOICE 0 at reset, entry 1): no field of the spec's. -/
  freeCnt : Nat
  /-- the model's own queue of commands that wait, first in, first out; empty at reset. -/
  pending : List Instr
  deriving DecidableEq, Repr

/-- The machine right after reset: EGG, every register at the value its field table gives (R486). -/
def State.reset : State :=
  { tiles := List.replicate 16 .reset, mor := .reset, hod := .reset, sc := .reset, ddr := .reset,
    dma := .reset, host := .reset, te := .reset, ic := .reset, clk := .reset, chain := .reset,
    bond := .reset, sec := .reset, quoin := .reset, cal := .reset, flt := .reset, cycle := 0,
    freeCnt := 0, pending := [] }

/-- Why a step stops where the spec leaves what happens undefined. -/
inductive Fault where
  /-- Raised by no command: every command answers a next state.  It is the name under which a meaning would stop where software has
  broken the duty of the numbered rule and the spec names no result (R17); where the device goes on, the model draws a free value
  instead (log entry 13).  Safe. -/
  | dutyBroken (rule : Nat)
  deriving DecidableEq, Repr

/-- Why a command has no meaning. -/
inductive Refusal where
  /-- Raised by an arm of `exec` whose command the model gives no meaning yet: its mnemonic.  Safe. -/
  | notModelled (mnemonic : String)
  deriving DecidableEq, Repr

/-- The answer of a meaning. -/
abbrev Out := Host.Outcome State Fault Refusal

end Sys2Proof.Machine
end

