-- ==== Sys2Proof/Machine/Ops.lean ====
section
/-! DEFINITION. The named operations over the state: reaching a tile and a sequencer core, free values, the tile
store's narrow and wide accesses with bank power and parity (chapter 02), the range scoreboard (R51 to R57), and
entering and leaving a sequencer level (R114, R119, R142, R148). -/

namespace Sys2Proof.Machine

/-! ### CLR fields and counters in one cycle (R9, R71, R198) -/

/-- An event of the present cycle sets field `i`, if `b`. -/
def Happened.note (h : Happened) (i : Nat) (b : Bool) : Happened := if b then { h with set := setBit h.set i true } else h

/-- The case that an error register captures, `v` its value, is the first of the present cycle, or follows another. -/
def Happened.first {n : Nat} (h : Happened) (v : BitVec n) : Happened := if h.err = 0 then { h with err := v.setWidth 64 } else h

/-- Field `i` stands after a CLR write of `v` if it stood before: the write leaves it, or an event of the cycle set it. -/
def Happened.keeps {n : Nat} (h : Happened) (v : BitVec n) (i : Nat) : Bool := !bit v i || bit h.set i

/-- An error register after a write that clears VALID, its bit `i`, if `hit`: with a case in the present cycle it holds that one. -/
def Happened.errAfter {n : Nat} (h : Happened) (hit : Bool) (i : Nat) (x : BitVec n) : BitVec n :=
  if !hit then x else if h.err = 0 then setBit x i false else h.err.setWidth n

/-- The counters that `v` names are cleared in the present cycle. -/
def Happened.zeroed (h : Happened) (v : BitVec 32) : Happened := { h with clr := h.clr ||| v }

/-- Tile `t`. -/
def State.tile (s : State) (t : Nat) : Tile := s.tiles.getD t .reset

/-- Change tile `t`. -/
def State.updTile (s : State) (t : Nat) (f : Tile → Tile) : State := { s with tiles := upd s.tiles t f }

/-- Change the step unit of tile `t`. -/
def State.updSt (s : State) (t : Nat) (f : StepUnit → StepUnit) : State :=
  s.updTile t fun x => { x with st := f x.st }

/-- Change the tile store of tile `t`. -/
def State.updTs (s : State) (t : Nat) (f : TileStore → TileStore) : State :=
  s.updTile t fun x => { x with ts := f x.ts }

/-- Change the vector engine of tile `t`. -/
def State.updVec (s : State) (t : Nat) (f : VecEngine → VecEngine) : State :=
  s.updTile t fun x => { x with vec := f x.vec }

/-- Change the matrix array of tile `t`. -/
def State.updArr (s : State) (t : Nat) (f : ArrayEng → ArrayEng) : State :=
  s.updTile t fun x => { x with arr := f x.arr }

/-- Change the drain unit of tile `t`. -/
def State.updDrn (s : State) (t : Nat) (f : DrainEng → DrainEng) : State :=
  s.updTile t fun x => { x with drn := f x.drn }

/-- Change the small-channel engine of tile `t`. -/
def State.updSce (s : State) (t : Nat) (f : SceEng → SceEng) : State :=
  s.updTile t fun x => { x with sce := f x.sce }

/-- Change the interrupt controller of tile `t`. -/
def State.updTic (s : State) (t : Nat) (f : TileIc → TileIc) : State :=
  s.updTile t fun x => { x with ic := f x.ic }

/-- The number of the quoin's core: cores 0 to 15 are the tiles'. -/
def quoinCore : Nat := 16

/-- Sequencer core `c` (R72). -/
def State.core (s : State) (c : Nat) : SeqCore := if c = quoinCore then s.quoin.seq else (s.tile c).seq

/-- Change sequencer core `c`. -/
def State.updCore (s : State) (c : Nat) (f : SeqCore → SeqCore) : State :=
  if c = quoinCore then { s with quoin := { s.quoin with seq := f s.quoin.seq } }
  else s.updTile c fun x => { x with seq := f x.seq }

/-- Draw a free value of `w` bits (log entry 1). -/
def State.draw (s : State) (w : Nat) : BitVec w × State :=
  (Config.freeValue w s.freeCnt, { s with freeCnt := s.freeCnt + 1 })

/-- Whether tile `n` is fenced (R531). -/
def State.fencedTile (s : State) (n : Nat) : Bool := bit s.mor.fenced n

/-- Whether tile `n`'s clock is gated (R451). -/
def State.gatedTile (s : State) (n : Nat) : Bool := !bit s.clk.gate n

/-- The device runs: RESET_N is high, no trip holds it and it is not in SAFE_HOLD (R441, R554, R559). -/
def State.alive (s : State) : Bool := !s.sec.resetLow && !s.sec.tripped && !s.clk.safeHold

/-- Whether the device runs, tile `n` exists and its clock runs and it is not fenced: its units can act. -/
def State.tileLive (s : State) (n : Nat) : Bool := s.alive && decide (n < 16) && !s.fencedTile n && !s.gatedTile n

/-- The sequencer's clock runs: the quoin's from the first source taken on (R486), a tile's while the tile is live. -/
def State.coreRuns (s : State) (core : Nat) : Bool := if core = 16 then s.alive && s.clk.chosen else s.tileLive core

/-! ### Tile store -/

/-- The bank of a course: 8 × GROUP + SUB (R39). -/
def courseBank (c : Nat) : Nat := 8 * ((c / 16384) % 2) + c % 8

/-- Whether a bank accepts accesses (R63). -/
def BankState.live : BankState → Bool
  | .on | .draining => true
  | .off | .waking => false

/-- The code of a bank state (R63, R70). -/
def BankState.code : BankState → Nat
  | .off => 0 | .waking => 1 | .on => 2 | .draining => 3

/-- Whether the bank of course `c` accepts accesses. -/
def TileStore.live (ts : TileStore) (c : Nat) : Bool := (ts.bankState.getD (courseBank c) .off).live

/-- One byte of the tile store as stored. -/
def TileStore.byte (ts : TileStore) (a : Nat) : BitVec 8 := sget (fun _ => 0) ts.bytes a

/-- What an access of a read returned: the bytes as a number, the words in error (numbered within the course), and
whether its bank was OFF or WAKING. -/
structure TsRead where
  data : Nat
  bad : List Nat
  off : Bool
  deriving DecidableEq, Repr

/-- The first and last word numbers (of the tile store) that bytes `a` to `a + n − 1` touch. -/
def wordsOf (a n : Nat) : List Nat := List.range' (a / 4) ((a + n - 1) / 4 + 1 - a / 4)

/-- The words of a word list whose parity is wrong, numbered within their course. -/
def TileStore.badWords (ts : TileStore) (ws : List Nat) : List Nat :=
  (ws.filter fun w => sget (fun _ => false) ts.badParity w).map (· % 32)

/-- Read `n` bytes at byte address `a`, within one course (R43, R59, R67). -/
def TileStore.read (ts : TileStore) (a n : Nat) : TsRead :=
  if ts.live (a / 128) then
    { data := packBytes ((List.range n).map fun i => ts.byte (a + i)), bad := ts.badWords (wordsOf a n), off := false }
  else { data := 0, bad := [], off := true }

/-- Read course `c` (R41). -/
def TileStore.readCourse (ts : TileStore) (c : Nat) : TsRead := ts.read (128 * c) 128

/-- Count one discarded access or read of zeros of a bank in OFF or WAKING (R67). -/
def TileStore.countOff (ts : TileStore) (off : Bool) : TileStore :=
  if off then { ts with offAccess := satAdd32 ts.offAccess 1 } else ts

/-- TS_PERR_STATUS with the first bad word of an access captured (R60, R70). -/
def perrCapture (x : Word) (c w source : Nat) : Word := setBit (setFld (setFld (setFld x 0 15 c) 15 5 w) 20 3 source) 31 true

/-- An access in error, with `x` in TS_PERR_STATUS before it: bit 28 keeps OVERFLOW as it was before the first of the cycle, bit 29 says
that a second came, and bit 30 that VALID was 1. -/
def Happened.perr (h : Happened) (x : Word) (c w source : Nat) : Happened :=
  if h.err = 0 then ((h.first (perrCapture x c w source)).note 28 (bit x 30)).note 30 (bit x 31)
  else (h.note 29 true).note 30 (bit x 31)

/-- Capture and count the parity errors of one access to course `c` (R60): SOURCE as R70 numbers it. -/
def TileStore.notePerr (ts : TileStore) (c : Nat) (bad : List Nat) (source : Nat) : TileStore :=
  match bad with
  | [] => ts
  | w :: _ =>
    let st : Word := if bit ts.perrStatus 31 then setBit ts.perrStatus 30 true else perrCapture ts.perrStatus c w source
    { ts with perrStatus := st, perrCount := satAdd32 ts.perrCount bad.length, now := ts.now.perr ts.perrStatus c w source }

/-- Store bytes from address `a` up, with no look at banks or parity. -/
def storeBytes : List Host.Cell → Nat → List (BitVec 8) → List Host.Cell
  | m, _, [] => m
  | m, a, b :: r => storeBytes (sset (fun _ => 0) m a b) (a + 1) r

/-- Generate the parity of the words of `ws`: correct, but inverted at the word that TS_PERR_INJ arms, which disarms
it (R59, R62). -/
def TileStore.genParity (ts : TileStore) (ws : List Nat) : TileStore :=
  let inj := fld ts.perrInj 6 15 * 32 + fld ts.perrInj 1 5
  let hit := bit ts.perrInj 0 && ws.contains inj
  { ts with
    badParity := ws.foldl (fun m w => sset (fun _ => false) m w (hit && decide (w = inj))) ts.badParity
    perrInj := if hit then setBit ts.perrInj 0 false else ts.perrInj }

/-- Write bytes at address `a`, within one course, the bank accepting accesses: whole words, or words whose other
bytes the caller has read (R44, R59). -/
def TileStore.put (ts : TileStore) (a : Nat) (bs : List (BitVec 8)) : TileStore :=
  ({ ts with bytes := storeBytes ts.bytes a bs }).genParity (wordsOf a bs.length)

/-- Write whole course `c`; a bank in OFF or WAKING discards it, counted unless `dma` (R41, R67). -/
def TileStore.writeCourse (ts : TileStore) (c : Nat) (data : BitVec 1024) (dma : Bool) : TileStore :=
  if ts.live c then ts.put (128 * c) (unpackBytes 128 data.toNat) else ts.countOff (!dma)

/-- Words of the course that a write of `n` bytes at `a` leaves partly written (R44). -/
def partWords (a n : Nat) : List Nat :=
  (wordsOf a n).filter fun w => decide (4 * w < a) || decide (4 * w + 4 > a + n)

/-- A narrow write of 1 to 8 bytes within one course by a requester with no store buffer: a read-modify-write where it leaves a word
partly written. Its read half reads and checks only the words partly written (log entry 68). Answers the store and whether the read half
found a parity error, in which case the write is not performed (R44, R60). -/
def TileStore.writeNarrow (ts : TileStore) (a : Nat) (bs : List (BitVec 8)) (source : Nat) (dma : Bool) :
    TileStore × Bool :=
  if ts.live (a / 128) then
    let bad := ts.badWords (partWords a bs.length)
    if bad.isEmpty then (ts.put a bs, false) else (ts.notePerr (a / 128) bad source, true)
  else (ts.countOff (!dma), false)

/-! ### Range scoreboard -/

/-- Two course ranges overlap (R52). -/
def overlaps (s1 l1 s2 l2 : Nat) : Bool := decide (s1 < s2 + l2) && decide (s2 < s1 + l1)

/-- HELD of the engines' commands of one step. -/
def TileStore.heldOf (ts : TileStore) (u : Bool) : BitVec 7 := if u then ts.heldU else ts.held

/-- TS_SB_STATUS.HELD (R70). -/
def TileStore.heldReg (ts : TileStore) : BitVec 7 := ts.held ||| ts.heldU ||| (if ts.drainHeld then 0x40#7 else 0)

/-- The outstanding entries. -/
def TileStore.entries (ts : TileStore) : List SbEntry := ts.sb.filterMap id

/-- A range of engine `e` is held by an outstanding entry of another engine (R53). -/
def TileStore.heldBy (ts : TileStore) (e : Nat) (r : Range) : Bool :=
  ts.entries.any fun x =>
    x.engine != e && overlaps r.start r.length x.start x.length && (x.write || r.write)

/-- The range lies wholly within an entry of the same engine and direction, which stands for it as well (R53). -/
def covers (x : SbEntry) (e : Nat) (urgent : Bool) (r : Range) : Bool :=
  decide (x.engine = e) && (x.urgent == urgent) && (x.write == r.write) && decide (x.start ≤ r.start)
    && decide (r.start + r.length ≤ x.start + x.length)

/-- The ranges of a command that need an entry of their own (R53). -/
def TileStore.needing (ts : TileStore) (e : Nat) (urgent : Bool) (rs : List Range) : List Range :=
  rs.filter fun r => !(ts.entries.any fun x => covers x e urgent r)

/-- A command of engine `e` with ranges `rs` may issue (R53). -/
def TileStore.mayIssue (ts : TileStore) (e : Nat) (urgent : Bool) (rs : List Range) : Bool :=
  !(rs.any fun r => ts.heldBy e r)
    && decide ((ts.needing e urgent rs).length ≤ (ts.sb.filter fun x => x.isNone).length)

/-- The place in the order of issue that the next command takes: one above every command that holds an entry. -/
def sbNext (sb : List (Option SbEntry)) : Nat :=
  (sb.filterMap id).foldl (fun m x => x.users.foldl (fun m y => max m (y.2 + 1)) m) 0

/-- Take one range of a command: an entry of `old`, outstanding before the command, that covers it stands for the command
as well; else the range takes the first free entry for itself. -/
def sbTake (e : Nat) (urgent : Bool) (k : Nat) (old sb : List (Option SbEntry)) (r : Range) : List (Option SbEntry) :=
  match old.findIdx? fun x => match x with | some y => covers y e urgent r | none => false with
  | some i => upd sb i fun x => x.map fun y => { y with users := y.users ++ [(r, k)] }
  | none =>
    match sb.findIdx? fun x => x.isNone with
    | some i => lput sb i (some ⟨r.start, r.length, r.write, e, urgent, [(r, k)]⟩)
    | none => sb

/-- The ranges of an issuing command take their entries (R53). -/
def TileStore.issue (ts : TileStore) (e : Nat) (urgent : Bool) (rs : List Range) : TileStore :=
  { ts with sb := rs.foldl (sbTake e urgent (sbNext ts.sb) ts.sb) ts.sb }

/-- The place in the order of issue of the earliest command of an engine that holds range `r`, if any. -/
def sbOldest (e : Nat) (urgent : Bool) (sb : List (Option SbEntry)) (r : Range) : Option Nat :=
  (sb.filterMap id).foldl (fun m x =>
    if x.engine = e && x.urgent == urgent then
      x.users.foldl (fun m y => if y.1 = r then some (match m with | some k => min k y.2 | none => y.2) else m) m
    else m) none

/-- The earliest command's hold on range `r` ends: the entry that it took retires with the last command it stands for
(R54). An engine executes its commands in order, so a range that ends is its earliest holder's. -/
def sbRelease (e : Nat) (urgent : Bool) (sb : List (Option SbEntry)) (r : Range) : List (Option SbEntry) :=
  match sbOldest e urgent sb r with
  | none => sb
  | some k =>
    match sb.findIdx? fun x =>
        match x with | some y => y.engine = e && y.urgent == urgent && y.users.contains (r, k) | none => false with
    | some i =>
      upd sb i fun x =>
        match x with
        | some y =>
          let us := y.users.erase (r, k)
          if us.isEmpty then none else some { y with users := us }
        | none => none
    | none => sb

/-- The entries of a retiring command retire (R54). -/
def TileStore.retire (ts : TileStore) (e : Nat) (urgent : Bool) (rs : List Range) : TileStore :=
  { ts with sb := rs.foldl (sbRelease e urgent) ts.sb }

/-- Every entry of a step is released at once (R57): the entries of engines 0 to 5 of that priority. -/
def TileStore.releaseStep (ts : TileStore) (urgent : Bool) : TileStore :=
  { ts with
    sb := ts.sb.map fun x =>
      match x with
      | some y => if y.urgent == urgent && decide (y.engine < 6) then none else some y
      | none => none }

/-- A narrow access of the sequencer to course `c` waits (R56): a read on an outstanding write entry, a write on any
outstanding entry. -/
def TileStore.seqWaits (ts : TileStore) (c : Nat) (write : Bool) : Bool :=
  ts.entries.any fun x => overlaps c 1 x.start x.length && (write || x.write)

/-! ### Steps -/

/-- The descriptor of the step of a priority that the tile holds in cycle `now`: through its cycle C (R30, R315). -/
def StepUnit.stepIn (x : StepUnit) (u : Bool) (now : Nat) : Option (BitVec 1024) :=
  match if u then x.runU else x.runN with
  | some r => some r.desc
  | none =>
    match if u then x.endedU else x.endedN with
    | some (c, d) => if c = now then some d else none
    | none => none

/-- The tile holds no issued step in cycle `now`. -/
def StepUnit.free (x : StepUnit) (now : Nat) : Bool := (x.stepIn false now).isNone && (x.stepIn true now).isNone

/-! ### Sequencer levels -/

/-- The level whose bank, EPC and vector serve: PREV = 3 is held as URG (log entry 8). -/
def SeqCore.bankLevel (c : SeqCore) : Nat := min c.level.toNat 2

/-- g8 to g15 of level `l` (R76). -/
def SeqCore.gBank (c : SeqCore) (l : Nat) : List TWord :=
  if l = 0 then c.gBase else if l = 1 then c.gIrq else c.gUrg

/-- Read register g`i` at the present level (R76). -/
def SeqCore.g (c : SeqCore) (i : Nat) : TWord :=
  if i = 0 then ⟨1, 0⟩
  else if i < 8 then c.gShared.getD (i - 1) .uninit
  else (c.gBank c.bankLevel).getD (i - 8) .uninit

/-- Write register g`i` at the present level; writes of g0 are discarded (R76). -/
def SeqCore.setG (c : SeqCore) (i : Nat) (w : TWord) : SeqCore :=
  if i = 0 then c
  else if i < 8 then { c with gShared := lput c.gShared (i - 1) w }
  else if c.bankLevel = 0 then { c with gBase := lput c.gBase (i - 8) w }
  else if c.bankLevel = 1 then { c with gIrq := lput c.gIrq (i - 8) w }
  else { c with gUrg := lput c.gUrg (i - 8) w }

/-- Read f`i` (R76). -/
def SeqCore.fReg (c : SeqCore) (i : Nat) : BitVec 64 := c.f.getD i 0

/-- Read q`i`: f(2i) in the low half and f(2i + 1) in the high half (R76). -/
def SeqCore.qReg (c : SeqCore) (i : Nat) : BitVec 128 := (c.fReg (2 * i + 1)).append (c.fReg (2 * i))

/-- Write f`i`. -/
def SeqCore.setF (c : SeqCore) (i : Nat) (v : BitVec 64) : SeqCore := { c with f := lput c.f i v }

/-- Write q`i`. -/
def SeqCore.setQ (c : SeqCore) (i : Nat) (v : BitVec 128) : SeqCore :=
  (c.setF (2 * i) (v.extractLsb' 0 64)).setF (2 * i + 1) (v.extractLsb' 64 64)

/-- Why an instruction stops before it writes anything (R114, R115). -/
structure Trap where
  /-- CAUSE, the code of R115. -/
  cause : Nat
  /-- TAG: the offending tag, for TAG_TRAP and PRIV. -/
  tag : Nat
  /-- OPERAND: 0 A; 1 B; 2 C; 3 fetch or implicit. -/
  operand : Nat
  /-- SEQ_TRAP_ADDR. -/
  addr : BitVec 32
  deriving DecidableEq, Repr

/-- Enter level `l` (1 IRQ, 2 URG) with the return address `ret` and the vector `vec` (R119, R142): EPC of that level
takes the interrupted PC and level, LEVEL becomes `l`, the fetch buffer is emptied and the PC goes to the vector. -/
def SeqCore.enter (c : SeqCore) (l : Nat) (ret : BitVec 32) (vec : BitVec 17) : SeqCore :=
  let e : BitVec 19 := BitVec.ofNat 19 (fld ret 3 14 * 8 + c.level.toNat * 2 ^ 17)
  { c with
    epcIrq := if l = 1 then e else c.epcIrq
    epcUrg := if l = 1 then c.epcUrg else e
    level := BitVec.ofNat 2 l
    pc := (vec.extractLsb' 3 14).setWidth 32 * 8
    fetch := []
    wait := none
    yielded := false
    group := none }

/-- Take a trap: record it in SEQ_TRAP_CAUSE, SEQ_TRAP_PC and SEQ_TRAP_ADDR; enter URG level through SEQ_VEC_TRAP with
the trapping instruction's address (R114, R148); at URG level halt with DOUBLE_TRAP instead (R115). A HALT_REQ that is
pending leaves the trap to be taken and halts after the handler's first group (R118; log entry 104, the model's choice). -/
def SeqCore.takeTrap (c : SeqCore) (t : Trap) : SeqCore :=
  let c1 : SeqCore :=
    { c with
      trapCause := BitVec.ofNat 32 (t.cause % 256 + (t.tag % 16) * 256 + (t.operand % 4) * 4096)
      trapPc := c.pc.setWidth 17
      trapAddr := t.addr }
  if c.bankLevel = 2 then { c1 with halted := true, doubleTrap := true, group := none }
  else { c1.enter 2 c.pc c.vecTrap with recogHold := 0, entryHold := false }

/-- Leave the present level l + 1 (R119, R143): PC and LEVEL come from SEQ_EPC[l]; a request above the returned-to
level but not above the level just left waits for one group (R147). -/
def SeqCore.leave (c : SeqCore) : SeqCore :=
  let e := if c.bankLevel = 1 then c.epcIrq else c.epcUrg
  { c with
    pc := (e.extractLsb' 3 14).setWidth 32 * 8
    level := e.extractLsb' 17 2
    fetch := []
    recogHold := c.bankLevel
    entryHold := false }

end Sys2Proof.Machine
end

