-- ==== Sys2Proof/Machine/Gate.lean ====
section
/-! DEFINITION. Who may write a register, and what becomes of an access that a start-up state, a fence or a gated
clock turns away (R8, R26, R394, R398, R453, R507, R531). -/

namespace Sys2Proof.Machine

/-- The block that owns a register, for its clock gate (R444); a tile's interrupt controller runs in the tile's clock, outside the tile's
window (R429, R453, R531). -/
inductive Blk where
  | tile (n : Nat) | icTile (n : Nat) | hod | sc | ddr (c : Nat) | dma | bond | sec | always
  deriving DecidableEq, Repr

/-- The gate bit of a block, if it has one (R444). -/
def Blk.gateBit : Blk → Option Nat
  | .tile n => some n
  | .icTile n => some n
  | .hod => some 16
  | .sc => some 17
  | .ddr c => some (18 + c)
  | .dma => some 26
  | .bond => some 27
  | .sec => some 28
  | .always => none

/-- Whether the block's clock is gated (R451, R453). -/
def State.gated (s : State) (b : Blk) : Bool :=
  match b.gateBit with
  | some k => !bit s.clk.gate k
  | none => false

/-- Whether the block is a tile that is fenced (R531). -/
def State.fencedBlk (s : State) (b : Blk) : Bool :=
  match b with
  | .tile n => s.fencedTile n
  | _ => false

/-- What a register's host-writable column and R507 allow the host: never; in IMAGO and, unless it is a tile
register, in CHRYSALIS; already in LARVA; or, as the tile-store narrow view, from CHRYSALIS on. -/
inductive HostPerm where
  | no | yes | larva | tileStore
  deriving DecidableEq, Repr

/-- Whether BAR accesses reach the device: the link is up and Memory Space Enable is 1 (R394, R555). -/
def State.barOpen (s : State) : Bool := s.host.memSpace && decide (s.host.width ≠ 0)

/-- Whether the host may write, in the present start-up state (R398, R507). -/
def hostMayWrite (life : Life) (b : Blk) (p : HostPerm) : Bool :=
  match life, p with
  | .egg, _ => false
  | .larva, .larva => true
  | .larva, _ => false
  | _, .no => false
  | .chrysalis, .yes => match b with | .tile _ => false | _ => true
  | .chrysalis, _ => true
  | .imago, _ => true

/-- A host write that is discarded and counted (R398, R507, R531). -/
def State.hostReject (s : State) : State :=
  { s with host := { s.host with hostRejCnt := satAdd32 s.host.hostRejCnt 1 } }

/-- An access to a gated block: counted (R453). -/
def State.countGated (s : State) : State :=
  { s with clk := { s.clk with gatedAccess := satAdd32 s.clk.gatedAccess 1 } }

/-- The bit of an error message's kind in AER's uncorrectable error status (PRESUMED, log entry 92): 22 Uncorrectable Internal
Error, 12 Poisoned TLP Received, 20 Unsupported Request, 14 Completion Timeout. -/
def aerBit (kind : Nat) : Nat := [22, 12, 20, 14].getD kind 14

/-- Send something to the host: the newest stands first.  The traffic takes the link out of L1 (R547), and an error message leaves its
bit in AER's status (R392). -/
def State.toHost (s : State) (o : HostOut) : State :=
  { s with
    host := { s.host with
      out := o :: s.host.out
      l1 := false
      trafficAt := s.te.time
      aerStatus := match o with
        | .aer k => setBit s.host.aerStatus (aerBit k) true
        | _ => s.host.aerStatus } }

/-- A write request of the host to a BAR, whose effect is `f`: an Unsupported Request while Memory Space Enable is 0, and discarded and
reported when it is poisoned (R394). -/
def hostWrite (ep : Bool) (f : State → State) (s : State) : State :=
  if s.host.width = 0 then s
  else if !s.host.memSpace then s.toHost (.aer 2)
  else if ep then s.toHost (.aer 1)
  else f s

/-- Traffic on the link: it leaves L1, and the 10 µs after which it may enter L1 begin again (R547). -/
def State.linkUse (s : State) : State :=
  { s with
    host := { s.host with
      l1 := false
      trafficAt := s.te.time } }

/-- A channel leaves self-refresh or is ungated: its DQS and TEMP tasks become due at once (R514). -/
def calDueNow (ch : Nat) (s : State) : State :=
  { s with
    cal := { s.cal with
      ch := upd s.cal.ch ch fun c => { c with dqsDue := s.te.time, tempDue := s.te.time }
      overdue := setBit s.cal.overdue ch false } }

/-- A register write by `who` to block `b`, whose effect is `f`: performed, or turned away as the rules say. A tile's
sequencer reaches only its own tile's registers (R26, R433). -/
def regWrite (who : Who) (b : Blk) (p : HostPerm) (f : State → State) (s : State) : State :=
  match who with
  | .host =>
    if !s.barOpen then hostWrite false id s
    else if !hostMayWrite s.sec.life b p then s.linkUse.hostReject
    else if s.fencedBlk b then s.linkUse.hostReject
    else if s.gated b then s.linkUse.countGated
    else f s.linkUse
  | .quoin =>
    if !s.alive then s
    else if s.fencedBlk b then s.hostReject
    else if s.gated b then s.countGated
    else f s
  | .tile n => if b = .tile n && s.tileLive n then f s else s

end Sys2Proof.Machine
end

