-- ==== Sys2Proof/Machine/IntCtl.lean ====
section
/-! DEFINITION. The interrupt controllers: sources, requests, late delivery, the Pending Bit Array, and the IC_
registers (R426 to R436). -/

namespace Sys2Proof.Machine

/-! ### SET, CLR and events of one cycle (R9) -/

/-- The record of cycle `n`. -/
def SameCycle.now {w : Nat} (c : SameCycle w) (n : Nat) : SameCycle w := if c.at_ = n then c else { at_ := n, clr := 0, occ := 0 }

/-- A SET write of `b` in cycle `n` to bits that hold `v`: a CLR write of the cycle still takes effect last. -/
def SameCycle.setBits {w : Nat} (c : SameCycle w) (n : Nat) (v b : BitVec w) : BitVec w := v ||| (b &&& ~~~(c.now n).clr)

/-- A CLR write of `b` in cycle `n`: what an event of the cycle has set stays set. -/
def SameCycle.clrBits {w : Nat} (c : SameCycle w) (n : Nat) (v b : BitVec w) : BitVec w := v &&& ~~~(b &&& ~~~(c.now n).occ)

/-- The record after a CLR write of `b`. -/
def SameCycle.cleared {w : Nat} (c : SameCycle w) (n : Nat) (b : BitVec w) : SameCycle w :=
  { c.now n with clr := (c.now n).clr ||| b }

/-- The record after an event that sets `b`. -/
def SameCycle.occurred {w : Nat} (c : SameCycle w) (n : Nat) (b : BitVec w) : SameCycle w :=
  { c.now n with occ := (c.now n).occ ||| b }

/-- Sources of the device controller occur in cycle `n` (R426). -/
def DevIc.occur (c : DevIc) (n : Nat) (b : BitVec 512) : DevIc := { c with pend := c.pend ||| b, pendC := c.pendC.occurred n b }

/-- Sources of a tile's controller occur in cycle `n` (R426). -/
def TileIc.occur (c : TileIc) (n : Nat) (b : BitVec 64) : TileIc := { c with pend := c.pend ||| b, pendC := c.pendC.occurred n b }

/-- IC_ROUTE[s].VEC (R430, R435). -/
def DevIc.vec (c : DevIc) (src : Nat) : BitVec 6 := sget (fun k => BitVec.ofNat 6 k) c.route src

/-- The vectors of the device sources that come to be pending and unblocked for the host, when the controller goes
from `c` to `d` (R430). -/
def newVectors (c d : DevIc) : BitVec 64 :=
  let rise := d.pend &&& ~~~d.hmask &&& ~~~(c.pend &&& ~~~c.hmask)
  ((List.range 512).filter fun k => bit rise k).foldl (fun (v : BitVec 64) k => setBit v (d.vec k).toNat true) 0

/-- A request of level `l` (1 IRQ, 2 URG) that the device controller presents to the quoin (R429). -/
def DevIc.request (c : DevIc) (l : Nat) : Bool :=
  let live := c.pend &&& ~~~c.qmask
  decide ((if l = 1 then live &&& ~~~c.qlevel else live &&& c.qlevel) ≠ 0)

/-- A request of level `l` that a tile controller presents (R429). -/
def TileIc.request (c : TileIc) (l : Nat) : Bool :=
  let live := c.pend &&& ~~~c.mask
  decide ((if l = 1 then live &&& ~~~c.level else live &&& c.level) ≠ 0)

/-- The device controller moves from its present state to `d`: PBA bits are set (R430), and a request withdrawn may
still be delivered for 4 CFG_CLK cycles, 20 ns (R431). -/
def State.icTo (s : State) (d : DevIc) : State :=
  let v := newVectors s.ic d
  let late (l old : Nat) : Nat :=
    if s.ic.request l && !d.request l then 20 else if d.request l then 0 else old
  { s with
    ic := { d with lateIrq := late 1 s.ic.lateIrq, lateUrg := late 2 s.ic.lateUrg }
    host := { s.host with pba := s.host.pba ||| v } }

/-- A tile controller moves to `d`: a request withdrawn may still be delivered for 4 cycles (R431). -/
def TileIc.moveTo (c d : TileIc) : TileIc :=
  let late (l old : Nat) : Nat := if c.request l && !d.request l then 4 else if d.request l then 0 else old
  { d with lateIrq := late 1 c.lateIrq, lateUrg := late 2 c.lateUrg }

/-- Device source `k` occurs (R426, R428). -/
def State.devSource (s : State) (k : Nat) : State := s.icTo (s.ic.occur s.cycle (BitVec.ofNat 512 (2 ^ k)))

/-- Source `k` of tile `t`'s controller occurs (R426, R427). -/
def State.tileSource (s : State) (t k : Nat) : State :=
  s.updTic t fun c => c.moveTo (c.occur s.cycle (BitVec.ofNat 64 (2 ^ k)))

/-- Event `k` (0 to 67) is latched by tile `t`; events 64 to 66 and lines 0 to 31 are also sources of its controller
(R105, R427). -/
def State.latchEvent (s : State) (t k : Nat) : State :=
  let s1 := s.updCore t fun c => { c with evtLatch := setBit c.evtLatch k true }
  if k < 32 then s1.tileSource t (32 + k)
  else if 64 ≤ k && k ≤ 66 then s1.tileSource t (k - 64)
  else s1

/-- A parity error in an access to tile `t`'s store: captured, counted, and source TS_PERR when VALID becomes 1
(R60, R427). -/
def State.tsPerr (s : State) (t c : Nat) (bad : List Nat) (source : Nat) : State :=
  let was := bit (s.tile t).ts.perrStatus 31
  let s1 := s.updTs t fun ts => ts.notePerr c bad source
  if !was && bit (s1.tile t).ts.perrStatus 31 then s1.tileSource t 4 else s1

/-- A pin takes up a pulse that reaches the hub, with the MODE and WIDTH it finds there (R424); WIDTH 0 is taken as 1. -/
def EvtOut.hear (p : EvtOut) (lines : BitVec 64) : EvtOut :=
  if bit p.cfg 6 && bit lines (fld p.cfg 0 6) then
    { p with edges := p.edges ++ [.pulse (bit p.cfg 7) (max 1 (fld p.cfg 16 8))] }
  else p

/-- Lines that reach the hub in cycle `at_` join the pulses on their way, in the order of those cycles: pulses of one line in
one cycle are one pulse (R293). -/
def addPulse (at_ : Nat) (lines : BitVec 64) : List (Nat × BitVec 64) → List (Nat × BitVec 64)
  | [] => [(at_, lines)]
  | (k, m) :: r => if k = at_ then (k, m ||| lines) :: r else if at_ < k then (at_, lines) :: (k, m) :: r else (k, m) :: addPulse at_ lines r

/-- The lines that already reach the hub in cycle `at_`. -/
def pulsesAt (at_ : Nat) (l : List (Nat × BitVec 64)) : BitVec 64 := ((l.find? fun x => decide (x.1 = at_)).map Prod.snd).getD 0

/-- The EVT_OUT pins take up lines that reach the hub (R424). -/
def TimeEvt.heard (t : TimeEvt) (lines : BitVec 64) : TimeEvt := { t with out := t.out.map fun p => p.hear lines }

/-- Lines of the mask are pulsed, and reach the hub in cycle `at_`: they are in flight to every tile, and their device sources
128 + k set; the EVT_OUT pins hear them in the cycle in which they reach the hub (R293, R422, R424, R428). -/
def State.pulseAt (s : State) (at_ : Nat) (lines : BitVec 64) : State :=
  if lines = 0 then s
  else
    let s1 := s.icTo (s.ic.occur s.cycle (lines.setWidth 512 <<< 128))
    let t := { s1.te with pulses := addPulse at_ lines s1.te.pulses }
    { s1 with te := if at_ ≤ s.cycle then t.heard (lines &&& ~~~pulsesAt at_ s1.te.pulses) else t }

/-- A pulse of the hod, of an MSEND or of an edge unit: it is at the hub at the end of the cycle in which it is made (R293). -/
def State.pulse (s : State) (lines : BitVec 64) : State := s.pulseAt s.cycle lines

/-- A sequencer takes a trap; a tile's double trap is reported to the quoin as source SEQ_HALT[n] (R115, R428). -/
def State.coreTrap (s : State) (c : Nat) (t : Trap) : State :=
  let dbl := decide ((s.core c).bankLevel = 2)
  let s1 := s.updCore c fun q => q.takeTrap t
  if dbl && decide (c < 16) then s1.devSource (64 + c) else s1

/-! ### IC_ registers -/

/-- `bits` at the 32 sources of word `w` (R435). -/
def atWord (w : Nat) (bits : BitVec 32) : BitVec 512 := bits.setWidth 512 <<< (32 * w)

/-- A write of IC_PEND_SET[w] (R9). -/
def icPendSet (w : Nat) (bits : BitVec 32) (s : State) : State :=
  s.icTo { s.ic with pend := s.ic.pendC.setBits s.cycle s.ic.pend (atWord w bits) }

/-- A write of IC_PEND_CLR[w] (R9). -/
def icPendClr (w : Nat) (bits : BitVec 32) (s : State) : State :=
  s.icTo { s.ic with
    pend := s.ic.pendC.clrBits s.cycle s.ic.pend (atWord w bits)
    pendC := s.ic.pendC.cleared s.cycle (atWord w bits) }

/-- A write of IC_QMASK_SET[w] or IC_HMASK_SET[w] (R9). -/
def icMaskSet (host : Bool) (w : Nat) (bits : BitVec 32) (s : State) : State :=
  s.icTo (if host then { s.ic with hmask := s.ic.hmaskC.setBits s.cycle s.ic.hmask (atWord w bits) }
    else { s.ic with qmask := s.ic.qmaskC.setBits s.cycle s.ic.qmask (atWord w bits) })

/-- A write of IC_QMASK_CLR[w] or IC_HMASK_CLR[w] (R9). -/
def icMaskClr (host : Bool) (w : Nat) (bits : BitVec 32) (s : State) : State :=
  s.icTo (if host then
      { s.ic with
        hmask := s.ic.hmaskC.clrBits s.cycle s.ic.hmask (atWord w bits)
        hmaskC := s.ic.hmaskC.cleared s.cycle (atWord w bits) }
    else
      { s.ic with
        qmask := s.ic.qmaskC.clrBits s.cycle s.ic.qmask (atWord w bits)
        qmaskC := s.ic.qmaskC.cleared s.cycle (atWord w bits) })

/-- A change of tile `n`'s controller, told the cycle. -/
def icTile (n : Nat) (f : Nat → TileIc → TileIc) (s : State) : State := s.updTic n fun c => c.moveTo (f s.cycle c)

/-- A write of IC_TPEND_SET[n] (R9). -/
def icTPendSet (n : Nat) (bits : BitVec 64) : State → State :=
  icTile n fun k c => { c with pend := c.pendC.setBits k c.pend bits }

/-- A write of IC_TPEND_CLR[n] (R9). -/
def icTPendClr (n : Nat) (bits : BitVec 64) : State → State :=
  icTile n fun k c => { c with pend := c.pendC.clrBits k c.pend bits, pendC := c.pendC.cleared k bits }

/-- A write of IC_TMASK_SET[n] (R9). -/
def icTMaskSet (n : Nat) (bits : BitVec 64) : State → State :=
  icTile n fun k c => { c with mask := c.maskC.setBits k c.mask bits }

/-- A write of IC_TMASK_CLR[n] (R9). -/
def icTMaskClr (n : Nat) (bits : BitVec 64) : State → State :=
  icTile n fun k c => { c with mask := c.maskC.clrBits k c.mask bits, maskC := c.maskC.cleared k bits }

/-- A write of IC_TLEVEL[n]: `half` is none for an 8 B write, else the half written (R397). The level holds from the next
controller cycle: no request of the old level is delivered late (R436). -/
def icTLevel (n : Nat) (half : Option Nat) (v : BitVec 64) (s : State) : State :=
  s.updTic n fun c =>
    match half with
    | none => { c with level := v }
    | some h => { c with level := setFld c.level (32 * h) 32 v.toNat }

/-- A write of IC_QLEVEL[w], which holds from the next controller cycle (R436). -/
def icQLevel (w : Nat) (v : Nat) (s : State) : State :=
  { s with ic := { s.ic with qlevel := setFld s.ic.qlevel (32 * w) 32 v } }

/-- A write of IC_ROUTE[src]: it sets no PBA bit by itself (R436). -/
def icRoute (src : Nat) (v : BitVec 32) (s : State) : State :=
  { s with ic := { s.ic with route := sset (fun k => BitVec.ofNat 6 k) s.ic.route src (v.setWidth 6) } }

/-- IC_PEND_SET (R426): the written sources of word `w` become pending. -/
def execIcPendSet (who : Who) (w : Nat) (bits : BitVec 32) (s : State) : Out :=
  .next (if w < 16 then regWrite who .always .yes (icPendSet w bits) s else s)

/-- IC_PEND_CLR (R426): the written sources of word `w` stop being pending. -/
def execIcPendClr (who : Who) (w : Nat) (bits : BitVec 32) (s : State) : Out :=
  .next (if w < 16 then regWrite who .always .yes (icPendClr w bits) s else s)

/-- IC_MASK_SET (R426): the written sources become blocked for the host or the quoin. -/
def execIcMaskSet (who : Who) (host : Bool) (w : Nat) (bits : BitVec 32) (s : State) : Out :=
  .next (if w < 16 then regWrite who .always (if host then .yes else .no) (icMaskSet host w bits) s else s)

/-- IC_MASK_CLR (R426, R430): the written sources are unblocked, which may set PBA bits. -/
def execIcMaskClr (who : Who) (host : Bool) (w : Nat) (bits : BitVec 32) (s : State) : Out :=
  .next (if w < 16 then regWrite who .always (if host then .yes else .no) (icMaskClr host w bits) s else s)

/-- The block that owns a tile's IC registers: for the tile's own sequencer its tile (R433); for the host and the quoin, whatever the tile's
window does, the tile's controller, which its clock gate stops (R429, R451, R453). -/
def icBlk (who : Who) (n : Nat) : Blk :=
  match who with
  | .tile _ => .tile n
  | _ => .icTile n

/-- IC_TPEND_SET (R426, R433). -/
def execIcTpendSet (who : Who) (tile : Nat) (bits : BitVec 64) (s : State) : Out :=
  .next (if tile < 16 then regWrite who (icBlk who tile) .yes (icTPendSet tile bits) s else s)

/-- IC_TPEND_CLR (R426, R433). -/
def execIcTpendClr (who : Who) (tile : Nat) (bits : BitVec 64) (s : State) : Out :=
  .next (if tile < 16 then regWrite who (icBlk who tile) .no (icTPendClr tile bits) s else s)

/-- IC_TMASK_SET (R426, R433). -/
def execIcTmaskSet (who : Who) (tile : Nat) (bits : BitVec 64) (s : State) : Out :=
  .next (if tile < 16 then regWrite who (icBlk who tile) .no (icTMaskSet tile bits) s else s)

/-- IC_TMASK_CLR (R426, R433). -/
def execIcTmaskClr (who : Who) (tile : Nat) (bits : BitVec 64) (s : State) : Out :=
  .next (if tile < 16 then regWrite who (icBlk who tile) .no (icTMaskClr tile bits) s else s)

/-- IC_LEVEL_WRITE (R435, R436): the sources move between IRQ and URG. -/
def execIcLevelWrite (who : Who) (reg : IcLevel) (value : BitVec 64) (s : State) : Out :=
  match reg with
  | .quoin w => .next (if w < 16 then regWrite who .always .no (icQLevel w value.toNat) s else s)
  | .tile n => .next (if n < 16 then regWrite who (icBlk who n) .no (icTLevel n none value) s else s)
  | .tileLow n => .next (if n < 16 then regWrite who (icBlk who n) .no (icTLevel n (some 0) value) s else s)
  | .tileHigh n => .next (if n < 16 then regWrite who (icBlk who n) .no (icTLevel n (some 1) value) s else s)

/-- IC_ROUTE_WRITE (R430, R436). -/
def execIcRouteWrite (who : Who) (src : Nat) (value : BitVec 32) (s : State) : Out :=
  .next (if src < 512 then regWrite who .always .yes (icRoute src value) s else s)

end Sys2Proof.Machine
end

