-- ==== Sys2Proof/Machine/LocalRam.lean ====
section
/-! DEFINITION. Local RAM word by word, with its tags, its parity and a tile's interrupt-controller words (R72, R85, R116,
R433). -/

namespace Sys2Proof.Machine

/-- The tags of R72. -/
def tagUninit : BitVec 4 := 0x0
def tagInt : BitVec 4 := 0x1
def tagF32 : BitVec 4 := 0x2
def tagBool : BitVec 4 := 0x3
def tagLaddr : BitVec 4 := 0x4
def tagTaddr : BitVec 4 := 0x5
def tagDaddr : BitVec 4 := 0x6
def tagDesc : BitVec 4 := 0x7
def tagEvent : BitVec 4 := 0x8
def tagScale : BitVec 4 := 0x9
def tagTime : BitVec 4 := 0xA
def tagCount : BitVec 4 := 0xB
def tagCode : BitVec 4 := 0xE
def tagRaw : BitVec 4 := 0xF

/-- UNINIT and the reserved tags (R72). -/
def tagBad (t : BitVec 4) : Bool := t == 0x0#4 || t == 0xC#4 || t == 0xD#4

/-- Local RAM's size in bytes (R85). -/
def lramTop : Nat := 0x20000
/-- First byte of the interrupt-controller words (R433). -/
def icWords : Nat := 0x1FFC0
/-- The whole words that a piece touches, as read: their bytes from the word boundary up, their tags (empty in an
untagged space), a local RAM parity error, and the words in error of a tile-store access. -/
structure Words where
  data : Nat
  tags : List (BitVec 4)
  lrBad : Bool
  tsBad : List Nat
  deriving DecidableEq, Repr

/-- A word of tile `t`'s interrupt controller at byte offset `o` of its part (R433, R435): 0x38 up reads 0. -/
def icWordRead (s : State) (t o : Nat) : BitVec 32 :=
  let ic := (s.tile t).ic
  let r : BitVec 64 :=
    match o / 8 with
    | 0 | 1 | 2 => ic.pend
    | 3 | 4 | 5 => ic.mask
    | 6 => ic.level
    | _ => 0
  r.extractLsb' (32 * ((o / 4) % 2)) 32

/-- A store of one word into the interrupt-controller words (R433): each word acts on its own half. -/
def icWordWrite (t o : Nat) (v : BitVec 32) (s : State) : State :=
  let h := (o / 4) % 2
  let bits : BitVec 64 := v.setWidth 64 <<< (32 * h)
  match o / 8 with
  | 1 => icTPendSet t bits s
  | 2 => icTPendClr t bits s
  | 4 => icTMaskSet t bits s
  | 5 => icTMaskClr t bits s
  | 6 => icTLevel t (some h) (v.setWidth 64) s
  | _ => s

/-- A word of local RAM, word index `w` (R72). -/
def SeqCore.lword (c : SeqCore) (w : Nat) : TWord := sget (fun _ => .uninit) c.lram w

/-- Whether a local RAM word's parity is wrong (R116). -/
def SeqCore.lbad (c : SeqCore) (w : Nat) : Bool := sget (fun _ => false) c.lramBad w

/-- Write a whole local RAM word with correct parity (R116). -/
def SeqCore.setLword (c : SeqCore) (w : Nat) (v : TWord) : SeqCore :=
  { c with
    lram := sset (fun _ => .uninit) c.lram w v
    lramBad := sset (fun _ => false) c.lramBad w false }

/-- Words read from local RAM, the interrupt-controller words of a tile among them (R433: those return INT). -/
def readLram (s : State) (core : Nat) (ws : List Nat) : Words :=
  let c := s.core core
  let ic (w : Nat) : Bool := decide (core < 16) && decide (4 * w ≥ icWords)
  let one (w : Nat) : TWord := if ic w then ⟨tagInt, icWordRead s core (4 * w - icWords)⟩ else c.lword w
  { data := packLanes 32 (ws.map fun w => (one w).val.toNat)
    tags := ws.map fun w => (one w).tag
    lrBad := ws.any fun w => !ic w && c.lbad w
    tsBad := [] }

end Sys2Proof.Machine
end

