-- ==== Sys2Proof/Machine/TileStoreOps.lean ====
section
/-! DEFINITION. The tile store's own registers, its bank power, and the host's view of tile store and local RAM
(R46, R62 to R71, R116, R117). -/

namespace Sys2Proof.Machine

/-! ### The host's accesses -/

/-- A BAR0 read by the host of `len` bytes of block `b`: none comes without a link; Unsupported Request while BARs are closed (R394);
zeros outside the set that R507 allows (`larva` says the register is in it), of a fenced tile (R531), and of a gated block,
which counts (R453); else what `f` answers, with the poisoned bit. -/
def hostRead (b : Blk) (larva : Bool) (len : Nat) (f : State → List (BitVec 8) × Bool × State) (s : State) : State :=
  let zeros := HostOut.completion (List.replicate len 0) false false
  if s.host.width = 0 then s
  else if !s.host.memSpace then s.toHost (.completion [] false true)
  else if s.sec.life = .egg || (s.sec.life = .larva && !larva) then s.toHost zeros
  else if s.fencedBlk b then s.toHost zeros
  else if s.gated b then (s.countGated).toHost zeros
  else
    let (d, ep, s1) := f s
    s1.toHost (.completion d ep false)

/-- Split bytes at `a` into aligned 8-byte units, in ascending order (R46): offset and bytes of each. -/
def units8 : Nat → Nat → List (BitVec 8) → List (Nat × List (BitVec 8))
  | 0, _, _ => []
  | fuel + 1, a, bs =>
    if bs.isEmpty then [] else
      let n := 8 - a % 8
      (a, bs.take n) :: units8 fuel (a + n) (bs.drop n)

/-- One narrow write of the host or the quoin into tile `t` (R44, R46, R60, R67). -/
def tsUnitWrite (t : Nat) (host : Bool) (s : State) (u : Nat × List (BitVec 8)) : State :=
  let ts := (s.tile t).ts
  let c := u.1 / 128
  let (ts1, err) := ts.writeNarrow u.1 u.2 7 false
  if err then
    let s1 := s.tsPerr t c (ts.badWords (partWords u.1 u.2.length)) 7
    if host then s1.toHost (.aer 0) else s1
  else s.updTs t fun _ => ts1

/-- A write of the tile-store narrow view (R46). -/
def tsNarrowWrite (t a : Nat) (bs : List (BitVec 8)) (host : Bool) (s : State) : State :=
  (units8 (bs.length + 1) a bs).foldl (tsUnitWrite t host) s

/-- A read of the tile-store narrow view: the bytes, whether a word was in error, and the capture (R46, R60, R67). -/
def tsNarrowRead (t : Nat) : List (Nat × List (BitVec 8)) → State → List (BitVec 8) × Bool × State
  | [], s => ([], false, s)
  | (a, bs) :: r, s =>
    let x := (s.tile t).ts.read a bs.length
    let s1 := (s.updTs t fun ts => ts.countOff x.off).tsPerr t (a / 128) x.bad 7
    let (d, ep, s2) := tsNarrowRead t r s1
    (unpackBytes bs.length x.data ++ d, !x.bad.isEmpty || ep, s2)

/-- Cycles lost to bank arbitration by a requester of class 6 to 8 (R50). -/
def lostCycles (t n : Nat) (s : State) : State :=
  s.updTs t fun ts => { ts with conflictCnt := satAdd32 ts.conflictCnt n }

/-- Count cycles of crossing jitter and of waiting at router outputs (R286, R287). -/
def countTransit (jitter link : Nat) (s : State) : State :=
  { s with mor := { s.mor with linkWait := satAdd32 s.mor.linkWait link, jitterCnt := satAdd32 s.mor.jitterCnt jitter } }

/-- One more write on its way to a course of a tile (R65). -/
def inflightAdd (t c : Nat) (s : State) : State :=
  s.updTs t fun ts => { ts with inflight := upd ts.inflight (courseBank c) (· + 1) }

/-- One fewer. -/
def inflightSub (t c : Nat) (s : State) : State :=
  s.updTs t fun ts => { ts with inflight := upd ts.inflight (courseBank c) (· - 1) }

/-- Element `i` of a list may come before the ones ahead of it: none of those satisfies `blocks`. -/
def mayPass {α : Type} (l : List α) (i : Nat) (blocks : α → α → Bool) : Option α :=
  match l[i]? with
  | some x => if (l.take i).any (fun y => blocks y x) then none else some x
  | none => none

/-- The numbers from `a` to `b`, up or down. -/
def goFrom (a b : Nat) : List Nat := if a ≤ b then List.range' a (b - a + 1) else (List.range' b (a - b + 1)).reverse

/-- The routers that a course passes from tile `src` to tile `dst`: along x first, then along y (R285). -/
def xyPath (src dst : Nat) : List Nat :=
  (goFrom (src % 4) (dst % 4)).map (fun x => x + 4 * (src / 4)) ++ ((goFrom (src / 4) (dst / 4)).drop 1).map fun y => dst % 4 + 4 * y

/-! ### The mesh (R284 to R287) -/

/-- The number of a router's port: its tile, its slice, and the four sides. -/
def portTile : Nat := 0
def portSlice : Nat := 1
def portWest : Nat := 2
def portEast : Nat := 3
def portNorth : Nat := 4
def portSouth : Nat := 5

/-- The side by which router `a` sends to its neighbour `b`. -/
def sideTo (a b : Nat) : Nat := if b = a + 1 then portEast else if b + 1 = a then portWest else if a < b then portSouth else portNorth

/-- The side by which router `b` takes in what its neighbour `a` sends. -/
def sideFrom (a b : Nat) : Nat := sideTo b a

/-- The router outputs that a course passes along a path of routers, coming into the first by input `inp` and leaving the last by
output `out`: of each the router, the input and the output (R285). -/
def meshHops (out : Nat) : Nat → List Nat → List (Nat × Nat × Nat)
  | _, [] => []
  | inp, [r] => [(r, inp, out)]
  | inp, a :: b :: rest => (a, inp, sideTo a b) :: meshHops out (sideFrom a b) (b :: rest)

/-- A course that is read in cycle `now` at the port `inp` of router `src`, for the tile of router `dst`: it crosses out in two cycles,
and the `late` one of jitter, and then asks for its first output (R286, R289). -/
def MeshPos.enter (inp src dst now late : Nat) : MeshPos :=
  { hops := meshHops portTile inp (xyPath src dst), since := now + 3 + late, waited := 0, late := late }

/-- The course has passed its last output. -/
def MeshPos.through (p : MeshPos) : Bool := p.hops.isEmpty

/-- A course that stands before another at one input, and came to it earlier, or in one cycle with it and `first` in the order in which
the courses left (R285). -/
def MeshPos.ahead (p q : MeshPos) (first : Bool) : Bool :=
  match p.hops, q.hops with
  | (r, i, _) :: _, (r1, i1, _) :: _ => decide (r = r1) && decide (i = i1) && (decide (p.since < q.since) || (decide (p.since = q.since) && first))
  | _, _ => false

/-- Course `k` of `ps` asks for an output in cycle `c`: it has come to the router, and none stands before it at its input. -/
def meshAsks (c : Nat) (ps : List MeshPos) (k : Nat) (p : MeshPos) : Option (Nat × Nat × Nat) :=
  if decide (p.since ≤ c) && !ps.zipIdx.any fun (q, j) => q.ahead p (decide (j < k)) then p.hops.head? else none

/-- How long an output that served input `last` would still pass over input `inp`: it begins with the one after (R285). -/
def turnsAway (last inp : Nat) : Nat := (inp + 5 - last) % 6

/-- The input that output `o` of router `r` served last. -/
def turnOf (turns : List (Nat × Nat)) (r o : Nat) : Nat := sget (fun _ => 5) turns (6 * r + o)

/-- Course `k`, which asks for `a`, is served: no other input asks for that output that comes earlier in its round (R285). -/
def meshWins (asks : List (Option (Nat × Nat × Nat))) (turns : List (Nat × Nat)) (a : Nat × Nat × Nat) : Bool :=
  let (r, i, o) := a
  asks.all fun x => match x with
    | some (r1, i1, o1) => decide (r1 ≠ r) || decide (o1 ≠ o) || decide (turnsAway (turnOf turns r o) i ≤ turnsAway (turnOf turns r o) i1)
    | none => true

/-- One cycle of the mesh: every output passes one course, in turn, and the others that ask wait (R285, R287). -/
def meshTick (c : Nat) (ps : List MeshPos) (turns : List (Nat × Nat)) : List MeshPos × List (Nat × Nat) :=
  let asks := ps.zipIdx.map fun (p, k) => meshAsks c ps k p
  let moved := (ps.zip asks).map fun (p, a) => match a with
    | none => p
    | some x => if meshWins asks turns x then { p with hops := p.hops.drop 1, since := c + 1 } else { p with waited := p.waited + 1 }
  (moved, asks.foldl (fun m a => match a with
    | some (r, i, o) => if meshWins asks turns (r, i, o) then sset (fun _ => 5) m (6 * r + o) i else m
    | none => m) turns)

/-- A cycle of jitter at the crossing by which a course enters the mesh: left open, so that a free value says it (R286; log entry 1). -/
def State.crossing (s : State) : Nat × State :=
  let (v, s1) := s.draw 1
  (v.toNat, s1)

/-- A course that has passed its last output may arrive after the crossing there: the courses for the same tile that passed it earlier
have arrived (R285, R289). -/
def meshArrives (s : State) (dst : Nat) (p : MeshPos) (late : Nat) : Bool :=
  p.through && decide (p.since + 1 + late ≤ s.cycle)
    && (s.mor.flight.all fun m => decide (m.dst ≠ dst) || !m.mesh.through || decide (p.since ≤ m.mesh.since))
    && (s.dma.flight.all fun m => decide (m.tile ≠ dst) || !m.mesh.through || decide (p.since ≤ m.mesh.since))

/-- MOR_PERR. -/
def srcMorPerr : Nat := 297

/-- A mortar or hod course found in error (R527). -/
def countMorPerr (s : State) : State :=
  ({ s with flt := { s.flt with morPerr := satAdd32 s.flt.morPerr 1 } }).devSource srcMorPerr

/-- HOST_TS_WRITE (R46, R60, R394, R527). -/
def execHostTsWrite (tile addr : Nat) (data : HostBytes) (lost : Nat) (s : State) : Out :=
  .next (if tile < 16 && addr + data.bytes.length ≤ 0x400000 then
    hostWrite data.ep (regWrite .host (.tile tile) .tileStore fun z =>
      if data.bad then countMorPerr z else tsNarrowWrite tile addr data.bytes true (lostCycles tile lost z)) s
  else s)

/-- HOST_TS_READ (R46, R60, R527): a parity error returns the data poisoned; of a course in error on the mesh no data comes (log entry
108). -/
def execHostTsRead (tile addr len : Nat) (met : EdgeMet) (s : State) : Out :=
  .next (if tile < 16 && addr + len ≤ 0x400000 then
    hostRead (.tile tile) false len (fun z =>
      if met.bad then (List.replicate len 0, true, countMorPerr z)
      else tsNarrowRead tile (units8 (len + 1) addr (List.replicate len 0)) (lostCycles tile met.lost z)) s
  else s)

/-- Whether a local RAM byte offset of the payload view lies in the interrupt-controller words (R433). -/
def icByte (a : Nat) : Bool := decide (0x1FFC0 ≤ a)

/-- One byte of local RAM's payload (R6, R117). -/
def SeqCore.lbyte (c : SeqCore) (a : Nat) : BitVec 8 :=
  (sget (fun _ => TWord.uninit) c.lram (a / 4)).val.extractLsb' (8 * (a % 4)) 8

/-- Write payload bytes: tags unchanged; a word written whole gets correct parity (R116, R117). -/
def lramWrite (a : Nat) (bs : List (BitVec 8)) (c : SeqCore) : SeqCore :=
  let ws := (List.range bs.length).filter fun i => (a + i) % 4 = 0 && decide (i + 4 ≤ bs.length) && !icByte (a + i)
  let c1 := bs.zipIdx.foldl (fun (c : SeqCore) (b, i) =>
    if icByte (a + i) then c
    else
      let w := (a + i) / 4
      let old := sget (fun _ => TWord.uninit) c.lram w
      { c with
        lram := sset (fun _ => TWord.uninit) c.lram w ⟨old.tag, setFld old.val (8 * ((a + i) % 4)) 8 b.toNat⟩ }) c
  { c1 with lramBad := ws.foldl (fun m i => sset (fun _ => false) m ((a + i) / 4) false) c1.lramBad }

/-- Write the tag view: byte w sets word w's tag; the host's writes of 0xC, 0xD and 0xF are ignored (R117). -/
def lramTagWrite (a : Nat) (bs : List (BitVec 8)) (host : Bool) (c : SeqCore) : SeqCore :=
  bs.zipIdx.foldl (fun (c : SeqCore) (b, i) =>
    let w := a + i
    let t : BitVec 4 := b.setWidth 4
    if icByte (4 * w) || (host && (t == 0xC#4 || t == 0xD#4 || t == 0xF#4)) then c
    else
      let old := sget (fun _ => TWord.uninit) c.lram w
      { c with lram := sset (fun _ => TWord.uninit) c.lram w ⟨t, old.val⟩ }) c

/-- Read local RAM from outside: payloads or tags; the interrupt-controller words read zero (R117, R433). Answers the
bytes and whether a word was in error: its parity covers the tag as well as the payload (R116). -/
def lramRead (c : SeqCore) (tagView : Bool) (a n : Nat) : List (BitVec 8) × Bool :=
  if tagView then
    ((List.range n).map fun i =>
      if icByte (4 * (a + i)) then 0 else (sget (fun _ => TWord.uninit) c.lram (a + i)).tag.setWidth 8,
      (List.range n).any fun i => !icByte (4 * (a + i)) && sget (fun _ => false) c.lramBad (a + i))
  else
    ((List.range n).map fun i => if icByte (a + i) then 0 else c.lbyte (a + i),
      (wordsOf a n).any fun w => decide (n > 0) && !icByte (4 * w) && sget (fun _ => false) c.lramBad w)

/-- The size of a view of local RAM: 128 KiB of payloads, 32 KiB of tags. -/
def lramViewSize (tagView : Bool) : Nat := if tagView then 0x8000 else 0x20000

/-- HOST_LRAM_WRITE (R117, R394, R527). -/
def execHostLramWrite (tile : Nat) (tagView : Bool) (addr : Nat) (data : HostBytes) (s : State) : Out :=
  .next (if tile < 16 && addr + data.bytes.length ≤ lramViewSize tagView then
    hostWrite data.ep (regWrite .host (.tile tile) .yes fun z =>
      if data.bad then countMorPerr z
      else z.updCore tile (if tagView then lramTagWrite addr data.bytes true else lramWrite addr data.bytes)) s
  else s)

/-- HOST_LRAM_READ (R116, R117, R527): a parity error returns the data poisoned; of a course in error on the mesh no data comes (log
entry 108). -/
def execHostLramRead (tile : Nat) (tagView : Bool) (addr : Nat) (ask : LramAsk) (s : State) : Out :=
  .next (if tile < 16 && addr + ask.len ≤ lramViewSize tagView then
    hostRead (.tile tile) false ask.len (fun z =>
      if ask.bad then (List.replicate ask.len 0, true, countMorPerr z)
      else
        let (d, ep) := lramRead (z.core tile) tagView addr ask.len
        (d, ep, z)) s
  else s)

/-! ### Bank power -/

/-- One bank's move at a write of its request bit (R64). -/
def BankState.request (b : BankState) (on : Bool) : BankState :=
  match b, on with
  | .on, false => .draining
  | .draining, true => .on
  | .off, true => .waking
  | x, _ => x

/-- A write of TS_BANK_PWR_REQ (R64): a bank that starts to wake counts 2 µs of TIME from now. -/
def bankReqWrite (t : Nat) (v : BitVec 32) (s : State) : State :=
  s.updTs t fun ts =>
    { ts with
      pwrReq := v.setWidth 16
      wakeFrom := ts.wakeFrom.zipIdx.map fun (f, b) =>
        if ts.bankState.getD b .on = .off && bit v b then s.te.time else f
      bankState := ts.bankState.zipIdx.map fun (x, b) => x.request (bit v b) }

/-- BANK_PWR_REQ_WRITE (R64, R70, R454). -/
def execBankPwrReqWrite (who : Who) (tile : Nat) (value : BitVec 32) (s : State) : Out :=
  .next (if tile < 16 then regWrite who (.tile tile) .no (bankReqWrite tile value) s else s)

/-- BANK_WAKE_DONE (R64, R68, R454): after 2 µs of TIME a waking bank enters ON, or DRAINING if its request bit is 0; a
gated tile's bank enters when the clock returns. -/
def execBankWakeDone (tile bank : Nat) (s : State) : Out :=
  let ts := (s.tile tile).ts
  if tile < 16 && !s.gatedTile tile && ts.bankState.getD bank .on = .waking
      && s.te.time ≥ ts.wakeFrom.getD bank 0 + 2000 then
    .next (s.updTs tile fun ts =>
      { ts with bankState := lput ts.bankState bank (if bit ts.pwrReq bank then .on else .draining) })
  else .next s

/-- A course range has a course in bank `b`. -/
def touchesBank (b start len : Nat) : Bool := (List.range (min len 16400)).any fun i => courseBank (start + i) = b

/-- The declared ranges of a descriptor: RANGE[k], k below RANGE_COUNT, of which it has room for 8 (R27). -/
def descRanges (d : BitVec 1024) : List Range :=
  (List.range (min 8 (fld d 48 4))).map fun k =>
    let o := 512 + 64 * k
    ⟨fld d o 15, fld d (o + 16) 16, bit d (o + 32), bit d (o + 33)⟩

/-- Drop the bytes of a bank: its contents are lost (R68). -/
def dropBank (b : Nat) (ts : TileStore) : TileStore :=
  { ts with
    bytes := sdrop (fun a => decide (courseBank (a / 128) = b)) ts.bytes
    badParity := sdrop (fun w => decide (courseBank (w / 32) = b)) ts.badParity }

/-- Whether anything still keeps a DRAINING bank from OFF (R64, R65). -/
def bankBusy (x : Tile) (b : Nat) : Bool :=
  decide (x.ts.inflight.getD b 0 ≠ 0)
    || (x.ts.entries.any fun e => touchesBank b e.start e.length)
    || ([x.st.runN, x.st.runU].any fun r =>
      match r with
      | some r => (descRanges r.desc).any fun g => touchesBank b g.start g.length
      | none => false)

/-- BANK_DRAIN_DONE (R37, R64, R68): a DRAINING bank with no in-flight write and nothing that touches it goes OFF; its
contents are lost and its carried-state bits cleared. -/
def execBankDrainDone (tile bank : Nat) (s : State) : Out :=
  let x := s.tile tile
  if s.tileLive tile && x.ts.bankState.getD bank .on = .draining && !bankBusy x bank then
    .next (s.updTile tile fun x =>
      { x with
        ts := dropBank bank { x.ts with bankState := lput x.ts.bankState bank .off }
        st := { x.st with carried := sdrop (fun c => decide (courseBank c = bank)) x.st.carried } })
  else .next s

/-! ### Registers -/

/-- TS_PERR_INJ_ARM (R62, R70). -/
def execTsPerrInjArm (who : Who) (tile : Nat) (value : BitVec 32) (s : State) : Out :=
  .next (if tile < 16 then
    regWrite who (.tile tile) .no (fun z => z.updTs tile fun ts => { ts with perrInj := setFld ts.perrInj 0 21 value.toNat }) s
  else s)

/-- A write of TS_CNT_CLR (R70, R71). -/
def tsCntClr (v : BitVec 32) (ts : TileStore) : TileStore :=
  { ts with
    conflictCnt := if bit v 0 then 0 else ts.conflictCnt
    offAccess := if bit v 1 then 0 else ts.offAccess
    perrCount := if bit v 2 then 0 else ts.perrCount
    now := ts.now.zeroed v }

/-- The counters as they read: events of the cycle in which they were cleared are not counted (R71). -/
def TileStore.settle (ts : TileStore) : TileStore := tsCntClr ts.now.clr ts

/-- TS_CNT_CLR. -/
def execTsCntClr (who : Who) (tile : Nat) (value : BitVec 32) (s : State) : Out :=
  .next (if tile < 16 then regWrite who (.tile tile) .yes (fun z => z.updTs tile (tsCntClr value)) s else s)

/-- A write of TS_PERR_STATUS: a 1 clears OVERFLOW or VALID (R70).  A case of the same cycle is captured afresh when VALID is cleared,
and what it makes of OVERFLOW stands (R9, R71). -/
def tsPerrStatusWrite (v : BitVec 32) (ts : TileStore) : TileStore :=
  let x := ts.now.errAfter (bit v 31) 31 ts.perrStatus
  let ovf :=
    if bit v 31 && ts.now.err ≠ 0 then (bit ts.now.set 28 && !bit v 30) || bit ts.now.set 29
    else bit ts.perrStatus 30 && ts.now.keeps v 30
  { ts with perrStatus := setBit x 30 ovf }

/-- The TS_ register at offset `o` (R70): its value and its width in bytes. -/
def TileStore.readReg (ts : TileStore) (o : Nat) : Option (Nat × Nat) :=
  if o = 0x000 then some (ts.pwrReq.toNat, 4)
  else if o = 0x008 then some (packLanes 2 (ts.bankState.map BankState.code), 4)
  else if o = 0x010 then some (ts.conflictCnt.toNat, 4)
  else if o = 0x014 then some (ts.offAccess.toNat, 4)
  else if o = 0x018 then some (ts.perrStatus.toNat, 4)
  else if o = 0x01C then some (ts.perrCount.toNat, 4)
  else if o = 0x020 then some (ts.entries.length + 256 * ts.heldReg.toNat, 4)
  else if o = 0x024 then some (0, 4)
  else if o = 0x028 then some (ts.perrInj.toNat, 4)
  else if 0x040 ≤ o && o < 0x080 && o % 4 = 0 then some (ts.inflight.getD ((o - 0x40) / 4) 0 % 512, 4)
  else if 0x080 ≤ o && o < 0x100 && o % 8 = 0 then
    match ts.sb.getD ((o - 0x80) / 8) none with
    | some e =>
      some (e.start % 2 ^ 15 + 2 ^ 16 * (e.length % 2 ^ 16) + 2 ^ 32 * b2n e.write + 2 ^ 33 * (e.engine % 8)
        + 2 ^ 36 * b2n e.urgent + 2 ^ 63, 8)
    | none => some (0, 8)
  else none

end Sys2Proof.Machine
end

