-- ==== Sys2Proof/Machine/StepOps.lean ====
section
/-! DEFINITION. Steps: the descriptor's fields, slip charging, how a step completes, faults, is rerun or is rejected,
and its command list (R27 to R38, R113, R237, R259, R315 to R334). -/

namespace Sys2Proof.Machine

/-! ### Descriptor fields (R27) -/

/-- STEP_ID. -/
def dId (d : BitVec 1024) : BitVec 32 := d.extractLsb' 0 32
/-- MODE_EPOCH. -/
def dEpoch (d : BitVec 1024) : BitVec 8 := d.extractLsb' 32 8
/-- Bit `k` of ENGINE_MASK. -/
def dEng (d : BitVec 1024) (k : Nat) : Bool := bit d (40 + k)
/-- RANGE_COUNT. -/
def dCount (d : BitVec 1024) : Nat := fld d 48 4
/-- CYCLE_BUDGET. -/
def dBudget (d : BitVec 1024) : Nat := fld d 64 32
/-- DEADLINE. -/
def dDeadline (d : BitVec 1024) : Nat := fld d 128 64
/-- Bundle of VEC_ENTRY: bits [10:0] (R164). -/
def dVecEntry (d : BitVec 1024) : BitVec 11 := d.extractLsb' 192 11
/-- CMD_LIST. -/
def dList (d : BitVec 1024) : Nat := fld d 224 32

/-- Reruns that RERUN allows (R34). -/
def dReruns (d : BitVec 1024) : Nat :=
  match fld d 52 2 with
  | 0 => 0 | 1 => 1 | 2 => 3 | _ => 15

/-- RERUN is UNTIL_DEADLINE. -/
def dUntil (d : BitVec 1024) : Bool := decide (fld d 52 2 = 3)

/-- The final codes of SEQ_STEP_STAT (R33, R118). -/
def stOk : Nat := 0
def stRange : Nat := 1
def stAlias : Nat := 2
def stStale : Nat := 3
def stGeomEmpty : Nat := 4
def stGeomReflect : Nat := 5
def stParity : Nat := 6
def stSkew : Nat := 7
def stEpochMix : Nat := 8
def stPoison : Nat := 9
def stFenced : Nat := 10

/-- The codes that hardware reruns (R33). -/
def stRerunnable (code : Nat) : Bool := code = stParity || code = stSkew || code = stEpochMix

/-! ### Reaching a step -/

/-- The step of a priority in progress on tile `t`. -/
def State.run (s : State) (t : Nat) (u : Bool) : Option StepRun :=
  if u then (s.tile t).st.runU else (s.tile t).st.runN

/-- Replace it. -/
def State.setRun (s : State) (t : Nat) (u : Bool) (r : Option StepRun) : State :=
  s.updSt t fun x => if u then { x with runU := r } else { x with runN := r }

/-- Change it. -/
def State.updRun (s : State) (t : Nat) (u : Bool) (f : StepRun → StepRun) : State :=
  s.updSt t fun x => if u then { x with runU := x.runU.map f } else { x with runN := x.runN.map f }

/-- The tile's copy of TIME (R418). -/
def State.copyOf (s : State) (t : Nat) : Nat := s.te.tileCopy.getD t 0

/-- A step counts as having sent (R35, R374). -/
def State.markSent (s : State) (t : Nat) (u : Bool) : State := s.updRun t u fun r => { r with sent := true }

/-- SCALE_SAT (R33). -/
def State.markScaleSat (s : State) (t : Nat) (u b : Bool) : State :=
  if b then s.updRun t u fun r => { r with scaleSat := true } else s

/-! ### Slip (R320, R321) -/

/-- The cycles of a run in which source `k` has been charged. -/
def StepRun.span (r : StepRun) (k : Nat) : List (Nat × Nat) := r.spans.getD k []

/-- Cycle `c` lies in one of the intervals. -/
def inSpans (c : Nat) (is : List (Nat × Nat)) : Bool := is.any fun i => decide (i.1 ≤ c) && decide (c < i.2)

/-- Charge source `k` of a step for an engine that was held in the `n` cycles before cycle `now` (R321): a cycle counts once
however many engines the source held in it, only from the run's first cycle on, and, for the sources other than PREEMPT, not
where it is charged to PREEMPT (R322). -/
def addSrc (k n now : Nat) (r : StepRun) : StepRun :=
  let lo := max r.runStart (now - n)
  let new := (List.range' lo (now - lo)).filter fun c =>
    !inSpans c (r.span k) && (decide (k = 7) || !inSpans c (r.span 7))
  if new.isEmpty then r
  else { r with src := upd r.src k (· + new.length), spans := upd r.spans k ((lo, now) :: ·) }

/-- Charge one engine's holds: each source code with its cycles, the last first. One engine is held by one source in a cycle, so
the sources lie one before the other and the last ends just before cycle `now` (R321, log entry 30). -/
def addHolds (now : Nat) (l : List (Nat × Nat)) (r : StepRun) : StepRun :=
  (l.foldl (fun (x : StepRun × Nat) p => (addSrc p.1 p.2 x.2 x.1, x.2 - p.2)) (r, now)).1

/-- The holds of one access by source code, the last first: it waits for its data or its buffer (CAL, WAIT, ECC), then for the
drain buffer, its links and its crossing (HOD, LINK, JITTER), and at last for its bank (BANK). The wait of a normal step for
courses that an urgent command had discarded counts as PREEMPT (R243, R272, R320 code 7). -/
def holdOrder (h : Held) (refetch : Bool) : List (Nat × Nat) :=
  if refetch then [(0, h.bank), (2, h.jitter), (3, h.link), (5, h.hod), (7, h.ecc + h.wait + h.cal)]
  else [(0, h.bank), (2, h.jitter), (3, h.link), (5, h.hod), (1, h.ecc), (4, h.wait), (6, h.cal)]

/-- Cycles that engines of a tile's steps lost to bank arbitration: a cycle counts once in TS_CONFLICT_CNT, however many engines
were held in it (R50). -/
def TileStore.conflicts (ts : TileStore) (n now : Nat) : TileStore :=
  let new := (List.range' (now - n) (min n now)).filter fun c => !inSpans c ts.conflictAt
  if new.isEmpty then ts
  else { ts with conflictCnt := satAdd32 ts.conflictCnt new.length, conflictAt := (now - n, now) :: ts.conflictAt }

/-- Charge a step with the cycles that an engine of it was held, and count them in the device-wide counters that the
table of R320 names; `sce` says that the waits were the small-channel engine's, `refetch` that they were for courses
that an urgent command had discarded. -/
def chargeAll (t : Nat) (u sce refetch : Bool) (h : Held) (s : State) : State :=
  let s1 := s.updRun t u (addHolds s.cycle (holdOrder h refetch))
  let s2 := s1.updTs t fun ts => ts.conflicts h.bank s.cycle
  let s3 := if sce then s2.updSce t fun e => { e with waitCnt := satAdd32 e.waitCnt h.wait }
    else s2.updArr t fun e => { e with waitCnt := satAdd32 e.waitCnt h.wait }
  { s3 with
    mor := { s3.mor with
      linkWait := satAdd32 s3.mor.linkWait h.link
      jitterCnt := satAdd32 s3.mor.jitterCnt h.jitter }
    hod := { s3.hod with portWait := upd s3.hod.portWait t fun c => satAdd32 c h.hod } }

/-- What holds an engine at an access of its own; ECC and CAL come with the stream lines that it waits for (R320, R321). -/
def charge (t : Nat) (u sce : Bool) (h : Held) (s : State) : State := chargeAll t u sce false { h with ecc := 0, cal := 0 } s

/-- What held the array until a stream line came: the normal step's, while it fetches discarded courses again, as PREEMPT. -/
def chargeLine (t : Nat) (u : Bool) (h : Held) (s : State) : State :=
  chargeAll t u false (!u && decide ((s.tile t).arr.refetch > 0)) h s

/-! ### Engines of a step -/

/-- The commands that are not the step's. -/
def notOf (u : Bool) (q : List EngCmd) : List EngCmd := q.filter fun c => c.urgent != u

/-- The first command of a queue is the step's and is in execution. -/
def headIs (u : Bool) (q : List EngCmd) : Bool :=
  match q with
  | c :: _ => c.begun && c.urgent == u
  | [] => false

/-- The array's working state for a command, as it stands when a command issues. -/
def ArrayEng.fresh (a : ArrayEng) : ArrayEng :=
  { a with
    groupCnt := 0, groups := [], chanScaled := false, chanNow := false, sumwDone := false, xs := [], ss := [], scaleBlock := 0, sumwAcc := List.replicate 64 0,
    loadBlock := 0, loadSlice := 0, loadRow := 0, shadowFull := false, active := false, block := 0, slice := 0,
    vec := 0, footAt := 0, footDone := false, winBuf := [] }

/-- The array drops a step (R34, R57, R243): its commands, its courses loaded ahead and, where what the array holds is that
step's, everything of its work. -/
def ArrayEng.drop (a : ArrayEng) (u : Bool) : ArrayEng :=
  let b :=
    { a with
      queue := notOf u a.queue, wbuf := a.wbuf.filter fun c => c.urgent != u, sbuf := a.sbuf.filter fun c => c.urgent != u }
  if a.urgent == u then
    { b.fresh with wbufAt := 0, wbufFreed := 0, refetch := if u then a.refetch else 0, landing := [], bankRows := [0, 0], bankDone := [false, false] }
  else { b with refetch := if u then a.refetch else 0 }

/-- The small-channel engine drops a step (R278). -/
def SceEng.drop (e : SceEng) (u : Bool) : SceEng :=
  let b := { e with queue := notOf u e.queue }
  if e.urgent == u then
    { b with weights := [], loadAt := 0, pixel := 0, tap := 0, sums := [], landing := [], bankRows := [0, 0], bankDone := [false, false] }
  else b

/-- The drain drops a step: writes not yet performed are discarded. -/
def DrainEng.drop (d : DrainEng) (u : Bool) : DrainEng :=
  let b := { d with queue := notOf u d.queue }
  if headIs (!u) d.queue then b else { b with row := 0, params := [], poolAt := 0, poolRows := [], part := none, out := [] }

/-- The hod port drops a step, with its courses in the drain buffer. -/
def HodPort.drop (p : HodPort) (u : Bool) : HodPort :=
  let b := { p with queue := notOf u p.queue, buf := p.buf.filter fun c => c.urgent != u }
  if headIs (!u) p.queue then b else { b with sendAt := 0, bcastAt := 0 }

/-- The mortar send drops a step. -/
def MSendEng.drop (m : MSendEng) (u : Bool) : MSendEng :=
  let b := { m with queue := notOf u m.queue }
  if headIs (!u) (m.queue.filter fun c => !c.read) then b else { b with at_ := 0 }

/-- The vector engine drops a program of a bank: its results in flight and, for the normal bank, in the drain latches
(R195). -/
def VecEngine.drop (v : VecEngine) (u : Bool) : VecEngine :=
  let stop (b : VecBank) : VecBank := { b with run := false, ended := false, ranges := [] }
  let v1 := { v with flight := v.flight.filter fun r => r.urgent != u }
  if u then
    let v2 := { v1 with bankU := stop v1.bankU }
    if v2.preempted then v2 else { v2 with bank := false }
  else { v1 with bankN := stop v1.bankN, latches := [], preempted := false, bank := v1.bankU.run }

/-- The mirror of a step, when it has begun (R474). -/
def mirrorOf (s : State) (t : Nat) (u : Bool) : Option Mirror := s.bond.mirrors.find? fun m => !m.past && m.tile == t && m.urgent == u

/-- A step's mirror ends, its read entries released. -/
def dropMirror (t : Nat) (u : Bool) (s : State) : State :=
  match mirrorOf s t u with
  | none => s
  | some m =>
    let s1 := if m.entered && !m.left.isEmpty then s.updTs t fun ts => ts.retire 6 u m.ranges else s
    { s1 with bond := { s1.bond with mirrors := s1.bond.mirrors.filter fun m => m.past || !(m.tile == t && m.urgent == u) } }

/-- No command of the step is held at issue any more; the other step's stay (R57, R70). -/
def TileStore.dropHeld (ts : TileStore) (u : Bool) : TileStore :=
  if u then { ts with heldU := 0 } else { ts with held := ts.held &&& 0x40#7 }

/-- Every engine of the tile drops a step, and its scoreboard entries are released at once (R34, R57). -/
def dropStep (t : Nat) (u : Bool) (s : State) : State :=
  (dropMirror t u s).updTile t fun x =>
    { x with
      arr := x.arr.drop u, sce := x.sce.drop u, drn := x.drn.drop u, hp := x.hp.drop u, ms := x.ms.drop u
      vec := x.vec.drop u
      ts := (x.ts.releaseStep u).dropHeld u }

/-- Start, or restart, a step's vector program (R196): `first` at its first run records the bank's LFSR state, a rerun
restores it.  An urgent program that finds no normal program running has its bank selected at once (R193). -/
def vecStart (t : Nat) (u first : Bool) (entry : BitVec 11) (s : State) : State :=
  s.updVec t fun v =>
    let f (b : VecBank) : VecBank :=
      { b with
        pc := entry, p := List.replicate 8 0, k := List.replicate 8 0, loops := [], beAcc := 0xF, bePrev := 0xF,
        beShift := 0, beTotal := 0, ranges := [], run := true, ended := false
        lfsr := if first then b.lfsr else b.lfsrSaved
        lfsrSaved := if first then b.lfsr else b.lfsrSaved }
    if u then { v with bankU := f v.bankU, bank := v.bank || !v.bankN.run } else { v with bankN := f v.bankN }

/-! ### Completion (R33, R36, R37, R113, R317, R328, R334) -/

/-- Sixteen-bit and larger counts held to 32 bits. -/
def sat32 (n : Nat) : BitVec 32 := if n ≥ 2 ^ 32 then 0xFFFFFFFF#32 else BitVec.ofNat 32 n

/-- The status word (R118). -/
def statusWord (code : Nat) (r : StepRun) (dl overrun : Bool) : BitVec 32 :=
  BitVec.ofNat 32 (code % 256 + 256 * b2n r.cold + 512 * b2n dl + 1024 * b2n (decide (r.runs > 0)) + 2048 * b2n r.blocked
    + 4096 * b2n r.scaleSat + 65536 * (r.runs % 16) + 2 ^ 30 * b2n overrun + 2 ^ 31)

/-- The write of SEQ_STEP_STAT[p] and SEQ_STEP_ID[p] (R113). -/
def SeqCore.putStatus (c : SeqCore) (u : Bool) (code : Nat) (r : StepRun) (dl : Bool) : SeqCore :=
  if u then { c with stepStatU := statusWord code r dl (bit c.stepStatU 31), stepIdU := dId r.desc }
  else { c with stepStatN := statusWord code r dl (bit c.stepStatN 31), stepIdN := dId r.desc }

/-- The write of the STEP_ registers of a priority (R317, R333, R334). -/
def StepUnit.putSlip (x : StepUnit) (u : Bool) (elapsed slip : Nat) (dl : Bool) (src : List Nat) : StepUnit :=
  let x1 :=
    if u then { x with slipU := sat32 slip, elapsedU := sat32 elapsed, srcU := src.map sat32 }
    else { x with slipN := sat32 slip, elapsedN := sat32 elapsed, srcN := src.map sat32 }
  { x1 with
    slipMax := if slip > x1.slipMax.toNat then sat32 slip else x1.slipMax
    dlCnt := if dl then satAdd32 x1.dlCnt 1 else x1.dlCnt }

/-- The carried-state bits of a step's CARRIED write ranges (R37). -/
def setCarried (d : BitVec 1024) (m : List (Nat × Bool)) : List (Nat × Bool) :=
  ((descRanges d).filter fun g => g.write && g.carried).foldl
    (fun m g => (List.range g.length).foldl (fun m i => sset (fun _ => false) m (g.start + i) true) m) m

/-- The step of priority `u` completes, or is rejected, with a final code, in the present cycle, C (R315). -/
def completeStep (t : Nat) (u : Bool) (code : Nat) (rejected : Bool) (s : State) : State :=
  match s.run t u with
  | none => s
  | some r =>
    let dl := decide (s.copyOf t > dDeadline r.desc)
    let e := s.cycle - r.start + 1
    let slip := if rejected then 0 else e - dBudget r.desc
    let s1 := s.updTile t fun x =>
      let st := x.st.putSlip u e slip dl r.src
      { x with
        seq := x.seq.putStatus u code r dl
        st := { st with
          runN := if u then st.runN else none
          runU := if u then none else st.runU
          endedN := if u then st.endedN else some (s.cycle, r.desc)
          endedU := if u then some (s.cycle, r.desc) else st.endedU
          carried := if code = stOk then setCarried r.desc st.carried else st.carried } }
    s1.latchEvent t (if u then 65 else 64)

/-- A step ends at once with a final code, its engines stopped (R32, R33). -/
def endStep (t : Nat) (u : Bool) (code : Nat) (s : State) : State :=
  match s.run t u with
  | none => s
  | some _ => completeStep t u code false (dropStep t u s)

/-- Whether a rerun is allowed now (R34, R329). -/
def rerunAllowed (s : State) (t : Nat) (r : StepRun) : Bool :=
  decide (r.runs < dReruns r.desc) && (!dUntil r.desc || decide (s.copyOf t ≤ dDeadline r.desc))

/-- A step starts again from its first command (R34, R322): the abandoned run's cycles go to RERUN alone.  A normal step
rerun while it is switched out restarts when the switch-out ends (R195). -/
def rerunStep (t : Nat) (u : Bool) (r : StepRun) (s : State) : State :=
  let lost := s.cycle - r.runStart
  let r1 : StepRun :=
    { r with
      runs := r.runs + 1, runStart := s.cycle, listAt := dList r.desc, listDone := decide (dList r.desc = 0), final := none
      src := [0, 0, 0, 0, 0, 0, 0, 0, r.src.getD 8 0 + lost], scan := none, spans := List.replicate 9 [] }
  let out := !u && (s.tile t).vec.preempted
  let s1 := (dropStep t u s).setRun t u (some r1)
  let s2 := if dEng r.desc 0 then vecStart t u false (dVecEntry r.desc) s1 else s1
  if out then s2.updVec t fun v => { v with bank := true, preempted := true } else s2

/-- A fault of a step (R33 to R35, R374): it is rerun, or it ends with the fault's status. -/
def stepFault (t : Nat) (u : Bool) (code : Nat) (s : State) : State :=
  match s.run t u with
  | none => s
  | some r =>
    if !stRerunnable code then endStep t u code s
    else if r.sent then endStep t u code (s.updRun t u fun r => { r with blocked := true })
    else if rerunAllowed s t r then rerunStep t u r s
    else endStep t u code s

/-! ### Error registers of the engines -/

/-- Record a malformed array, drain, window, mortar or undefined entry (R239, R256). -/
def arrErr (t cause engine index : Nat) (s : State) : State :=
  let was := bit (s.tile t).arr.err 31
  let x : Word := BitVec.ofNat 32 (cause % 256 + 256 * (index % 256) + 65536 * engine + 2 ^ 31)
  let s1 := s.updArr t fun a =>
    { a with
      malformed := true
      err := if was then a.err else x
      now := (a.now.note 8 true).first x }
  if was then s1 else s1.tileSource t 6

/-- Record a malformed small-channel command (R278, R282). -/
def sceErr (t cause index : Nat) (s : State) : State :=
  let was := bit (s.tile t).sce.err 31
  let x : Word := BitVec.ofNat 32 (cause % 256 + 256 * (index % 256) + 2 ^ 31)
  let s1 := s.updSce t fun a =>
    { a with malformed := true, err := if was then a.err else x, now := (a.now.note 8 true).first x }
  if was then s1 else s1.tileSource t 7

/-- Record a case in HOD_ERR (R305, R313). -/
def hodErr (t cause index : Nat) (s : State) : State :=
  let x : Word := BitVec.ofNat 32 (cause % 256 + 256 * (t % 16) + 4096 * (index % 256) + 2 ^ 31)
  { s with hod := { s.hod with err := if bit s.hod.err 31 then s.hod.err else x, now := s.hod.now.first x } }

/-! ### The command list (R237, R259) -/

/-- An entry of a list as read: its 64 B, and whether a word was in error (R116). -/
structure ListEntry where
  raw : BitVec 512
  bad : Bool
  deriving DecidableEq, Repr

/-- Read the entry at byte address `a` of tile `t`'s local RAM; none at or beyond 0x2_0000. -/
def listEntry (s : State) (t a : Nat) : Option ListEntry :=
  if a + 64 ≤ lramTop then
    let w := readLram s t (wordsOf a 64)
    some { raw := BitVec.ofNat 512 w.data, bad := w.lrBad }
  else none

/-- The type of an entry. -/
def eType (e : BitVec 512) : Nat := fld e 0 8

/-- The number of an entry in its list. -/
def entryIndex (r : StepRun) : Nat := (r.listAt - dList r.desc) / 64

/-- The types of the entries after the one at `a`, up to the end entry: what the following entries are. -/
def entriesFrom (s : State) (t : Nat) : Nat → Nat → List (BitVec 512)
  | 0, _ => []
  | fuel + 1, a =>
    match listEntry s t a with
    | none => []
    | some e => if eType e.raw = 0 then [] else e.raw :: entriesFrom s t fuel (a + 64)

/-- A scoreboard range of a command at byte `b` (R51, R237). -/
def cmdRange (e : BitVec 512) (b : Nat) : Range := ⟨fld e (8 * b) 15, fld e (8 * b + 16) 16, bit e (8 * b + 32), bit e (8 * b + 33)⟩

/-- The range is present. -/
def hasRange (e : BitVec 512) (b : Nat) : Bool := decide (fld e (8 * b + 16) 16 ≠ 0)

/-- All 64 bits of the range at byte `b` are zero, as an absent range must be (R237). -/
def zeroRange (e : BitVec 512) (b : Nat) : Bool := decide (fld e (8 * b) 64 = 0)

/-- The range at byte `b` breaks the layout: reserved bits set, or bits set in an absent range (R237). -/
def badRange (e : BitVec 512) (b : Nat) : Bool :=
  if hasRange e b then bit e (8 * b + 15) || decide (fld e (8 * b + 34) 30 ≠ 0) else !zeroRange e b

/-- The ranges a command declares (R51). -/
def cmdRanges (e : BitVec 512) : List Range := ([0x28, 0x30, 0x38].filter fun b => hasRange e b).map (cmdRange e)

/-- Some bit of the entry outside the listed (first bit, width) fields is set. -/
def strayBits (e : BitVec 512) (fs : List (Nat × Nat)) : Bool :=
  decide (fs.foldl (fun (x : BitVec 512) (f : Nat × Nat) => setFld x f.1 f.2 0) e ≠ 0)

/-! ### Geometry (R258, R262) -/

/-- The output size along one dimension. -/
def outSize (h k st dil p : Nat) : Int := ((h : Int) + 2 * p - dil * ((k : Int) - 1) - 1) / (st : Int) + 1

/-- The geometry of a window or small-channel entry (R263, R276). -/
structure Geom where
  pad : Nat
  h : Nat
  w : Nat
  kh : Nat
  kw : Nat
  sh : Nat
  sw : Nat
  dh : Nat
  dw : Nat
  ph : Nat
  pw : Nat
  start : Nat
  xs : Nat
  ys : Nat
  deriving DecidableEq, Repr

/-- Read a geometry. -/
def Geom.ofEntry (e : BitVec 512) : Geom :=
  { pad := fld e 10 2, h := fld e 32 16, w := fld e 48 16, kh := fld e 64 4, kw := fld e 68 4, sh := fld e 72 4, sw := fld e 76 4
    dh := fld e 80 4, dw := fld e 84 4, ph := fld e 96 8, pw := fld e 104 8, start := fld e 128 15, xs := fld e 144 16, ys := fld e 160 16 }

/-- A zero kernel, stride or dilation field. -/
def Geom.zeroField (g : Geom) : Bool := g.kh * g.kw * g.sh * g.sw * g.dh * g.dw = 0

/-- Output rows and columns. -/
def Geom.oh (g : Geom) : Int := outSize g.h g.kh g.sh g.dh g.ph
def Geom.ow (g : Geom) : Int := outSize g.w g.kw g.sw g.dw g.pw

/-- The pooling geometry of a drain entry (R279). -/
structure Pool where
  kh : Nat
  kw : Nat
  sh : Nat
  sw : Nat
  ph : Nat
  pw : Nat
  avgPad : Bool
  h : Nat
  w : Nat
  deriving DecidableEq, Repr

/-- Read a pooling geometry. -/
def Pool.ofEntry (e : BitVec 512) : Pool :=
  { kh := fld e 128 4, kw := fld e 132 4, sh := fld e 136 4, sw := fld e 140 4, ph := fld e 144 2, pw := fld e 146 2
    avgPad := bit e 148, h := fld e 160 16, w := fld e 176 16 }

/-- Pooled output rows and columns. -/
def Pool.oh (p : Pool) : Int := outSize p.h p.kh p.sh 1 p.ph
def Pool.ow (p : Pool) : Int := outSize p.w p.kw p.sw 1 p.pw

/-- An entry fails check 5: an empty output (R28, R259). -/
def failsEmpty (e : BitVec 512) : Bool :=
  if eType e = 3 || eType e = 4 then
    let g := Geom.ofEntry e
    !g.zeroField && (decide (g.oh < 1) || decide (g.ow < 1))
  else if eType e = 2 && fld e 20 2 ≠ 0 then
    let p := Pool.ofEntry e
    decide (p.kh * p.kw * p.sh * p.sw ≠ 0) && (decide (p.oh < 1) || decide (p.ow < 1))
  else false

/-- One dimension of the REFLECT limits (R262). -/
def reflectOk (h k d p : Nat) : Bool := decide (p + 1 ≤ h) && decide (d * (k - 1) ≤ 2 * (h - 1))

/-- An entry fails check 6. -/
def failsReflect (e : BitVec 512) : Bool :=
  if eType e = 3 || eType e = 4 then
    let g := Geom.ofEntry e
    !g.zeroField && decide (g.pad = 2) && !(reflectOk g.h g.kh g.dh g.ph && reflectOk g.w g.kw g.dw g.pw)
  else false

/-- The scan from entry address `a`: check 5 entry by entry, then check 6 over all of them; and how many entries it read. -/
def scanList (s : State) (t : Nat) : Nat → Nat → Bool → Nat → Scan × Nat
  | 0, _, _, n => (.beyond, n)
  | fuel + 1, a, refl, n =>
    match listEntry s t a with
    | none => (.beyond, n)
    | some e =>
      if e.bad then (.parity, n + 1)
      else if eType e.raw = 0 then (if refl then .reject stGeomReflect else .pass, n + 1)
      else if failsEmpty e.raw then (.reject stGeomEmpty, n + 1)
      else scanList s t fuel (a + 64) (refl || failsReflect e.raw) (n + 1)

/-- Entries that local RAM can hold. -/
def listFuel : Nat := 2049

/-! ### The checks of R28 -/

/-- Check 1: reserved fields, RANGE_COUNT, ENGINE_MASK, lengths and CMD_LIST. -/
def checkFields (d : BitVec 1024) : Bool :=
  decide (fld d 46 2 = 0) && decide (fld d 55 9 = 0) && decide (fld d 96 32 = 0) && decide (fld d 256 256 = 0)
    && decide (dCount d ≤ 8)
    && ((List.range (min 8 (dCount d))).all fun k =>
      let o := 512 + 64 * k
      !bit d (o + 15) && decide (fld d (o + 34) 30 = 0) && decide (fld d (o + 16) 16 ≥ 1))
    && decide (dList d % 64 = 0) && (decide (dList d ≠ 0) || decide (fld d 41 7 = 0))

/-- Check 2: every range within the store. -/
def checkBounds (d : BitVec 1024) : Bool := (descRanges d).all fun g => decide (g.start + g.length ≤ 32768)

/-- Check 3: no write range overlaps another declared range. -/
def checkAlias (d : BitVec 1024) : Bool :=
  let rs := (descRanges d).zipIdx
  rs.all fun (g, i) => !g.write || rs.all fun (h, j) => decide (i = j) || !overlaps g.start g.length h.start h.length

/-- Epoch age (R29). -/
def epochAge (d : BitVec 1024) (applied : BitVec 8) : Nat := (dEpoch d - applied).toNat

/-- Checks 1 to 4 (R28): the status of the first that fails. -/
def checkDesc (d : BitVec 1024) (applied : BitVec 8) : Option Nat :=
  if !checkFields d then some stRange
  else if !checkBounds d then some stRange
  else if !checkAlias d then some stAlias
  else if epochAge d applied ≥ 128 then some stStale
  else none

/-- A tile that has been asked to park, and has not yet, parks in the first cycle in which it holds no issued step: no step
starts in it (R448). -/
def State.parksNow (s : State) (t : Nat) : Bool :=
  bit s.clk.parkPending t && (s.tile t).st.free s.cycle

/-- A tile to which a commit has been delivered applies it in the first cycle in which it holds no issued step: no step starts
before that (R310). -/
def State.appliesNow (s : State) (t : Nat) : Bool :=
  bit s.mor.delivered t && (s.tile t).st.free s.cycle

/-- A descriptor that waited in its issue register before cycle `now`, in which the tile applied a commit: it is checked again in the
next (R310). -/
def StepUnit.checksNext (x : StepUnit) (placed now : Nat) : Bool := x.appliedAt == some now && decide (placed + 1 < now)

/-- A descriptor in an issue register is held in cycle `now` (R30). -/
def stepHeld (x : StepUnit) (u : Bool) (d : BitVec 1024) (now : Nat) : Bool :=
  let age := epochAge d x.epoch
  (decide (1 ≤ age) && decide (age ≤ 127))
    || ((dEng d 4 || dEng d 5) && x.seesMixed)
    || x.parked
    || (x.stepIn u now).isSome
    || (u && (match x.stepIn false now with
      | none => false
      | some r => (descRanges d).any fun g => (descRanges r).any fun h =>
          (g.write || h.write) && overlaps g.start g.length h.start h.length))

/-- COLD (R37): a CARRIED read range has a course whose bit is 0. -/
def judgeCold (d : BitVec 1024) (m : List (Nat × Bool)) : Bool :=
  (descRanges d).any fun g =>
    !g.write && g.carried && (List.range g.length).any fun i => !sget (fun _ => false) m (g.start + i)

/-- The step in its start cycle. -/
def startRun (i : IssueReg) (cycle : Nat) : StepRun :=
  let d := i.desc
  { desc := d, start := cycle, runStart := cycle, runs := 0, cold := false, scaleSat := false, blocked := false
    sent := false, dlSet := i.dlSet, listAt := dList d, listDone := decide (dList d = 0), vecStarted := dEng d 0
    final := none, src := List.replicate 9 0, wins := i.wins
    scan := none, spans := List.replicate 9 [] }

/-- Whether every access of `n` courses from `c` lies in a declared range of the step of that direction (R32). -/
def inStep (r : StepRun) (c : Nat) (write : Bool) : Bool :=
  (descRanges r.desc).any fun g => g.write == write && decide (g.start ≤ c) && decide (c < g.start + g.length)

/-- Whether the course lies in one of the ranges given, of that direction. -/
def inRanges (rs : List Range) (c : Nat) (write : Bool) : Bool :=
  rs.any fun g => g.write == write && decide (g.start ≤ c) && decide (c < g.start + g.length)

/-- An engine's read of course `c`: the store's answer, or the fault it makes (R32, R60, R67). -/
def engRead (t : Nat) (u : Bool) (engine c : Nat) (s : State) : Except State (BitVec 1024 × State) :=
  match s.run t u with
  | none => .error s
  | some r =>
    if !inStep r c false then .error (stepFault t u stRange s)
    else
      let x := (s.tile t).ts.readCourse c
      let s1 := (s.updTs t fun ts => ts.countOff x.off).tsPerr t c x.bad engine
      if x.bad.isEmpty then .ok (BitVec.ofNat 1024 x.data, s1) else .error (stepFault t u stParity s1)

/-- An engine's write of a whole course (R32, R67). -/
def engWrite (t : Nat) (u : Bool) (c : Nat) (data : BitVec 1024) (s : State) : Except State State :=
  match s.run t u with
  | none => .error s
  | some r =>
    if !inStep r c true then .error (stepFault t u stRange s)
    else .ok (s.updTs t fun ts => ts.writeCourse c data false)

/-- The command of a step that an engine has at issue is held, or no more (R53, R70). -/
def setHeld (t e : Nat) (u b : Bool) (s : State) : State :=
  s.updTs t fun ts => if u then { ts with heldU := setBit ts.heldU e b } else { ts with held := setBit ts.held e b }

/-- The commands of the step that a queue holds. -/
def hasOf (u : Bool) (q : List EngCmd) : Bool := q.any fun c => c.urgent == u

/-- The step's engines have retired its last command and its drain buffer is empty (R33). -/
def engDone (s : State) (t : Nat) (u : Bool) (r : StepRun) : Bool :=
  let x := s.tile t
  let b := if u then x.vec.bankU else x.vec.bankN
  r.listDone && !(dEng r.desc 0 && b.run) && !hasOf u x.arr.queue && !hasOf u x.drn.queue && !hasOf u x.sce.queue
    && !hasOf u x.hp.queue && !hasOf u x.ms.queue && (x.hp.buf.all fun c => c.urgent != u)
    && (match s.sc.inval with
      | some i => !(i.tile == some t && i.urgent == u)
      | none => true)

end Sys2Proof.Machine
end

