-- ==== Sys2Proof/Machine/VecOps.lean ====
section
/-! DEFINITION. The operations of the vector engine's slots 1 to 3 as functions of their sources: lane arithmetic,
conversion, butterflies, permutes, pooling, group scales and the optimiser step (R178 to R191, R207 to R216,
R254), and the checks that make a slot invalid (R170). -/

namespace Sys2Proof.Machine

/-- The lane formats of R178. -/
inductive LFmt where
  | int8 | int16 | int32 | q15 | q31 | cq15 | bf16 | fp32
  deriving DecidableEq, Repr

/-- The FMT field (R178); 8 to 15 are reserved. -/
def LFmt.ofField : Nat → Option LFmt
  | 0 => some .int8 | 1 => some .int16 | 2 => some .int32 | 3 => some .q15 | 4 => some .q31
  | 5 => some .cq15 | 6 => some .bf16 | 7 => some .fp32 | _ => none

/-- Bits of a lane; a part of a complex element is a lane of 16 bits. -/
def LFmt.bits : LFmt → Nat
  | .int8 => 8
  | .int16 | .q15 | .cq15 | .bf16 => 16
  | .int32 | .q31 | .fp32 => 32

/-- Whether the lanes are floating-point. -/
def LFmt.isFloat : LFmt → Bool
  | .bf16 | .fp32 => true
  | _ => false

/-- The binary format of a float lane. -/
def LFmt.ff : LFmt → FFmt
  | .bf16 => fmtBf16
  | _ => fmtF32

/-- Fraction bits of a fixed-point lane. -/
def LFmt.frac : LFmt → Nat
  | .q15 | .cq15 => 15
  | .q31 => 31
  | _ => 0

/-- Whether addition and subtraction saturate (R180). -/
def LFmt.saturates : LFmt → Bool
  | .q15 | .q31 | .cq15 => true
  | _ => false

/-- A slot of R169, its fields split. -/
structure VSlot where
  op : Nat
  fmt : Nat
  dst : Nat
  sa : Nat
  sb : Nat
  sc : Nat
  acc : Nat
  sr : Bool
  inv : Bool
  sh : Nat
  rsv : Nat
  imm : Nat
  deriving DecidableEq, Repr

/-- Split a slot (R169). -/
def VSlot.ofBits (x : BitVec 64) : VSlot :=
  { op := fld x 56 8, fmt := fld x 52 4, dst := fld x 47 5, sa := fld x 42 5, sb := fld x 37 5,
    sc := fld x 32 5, acc := fld x 30 2, sr := bit x 29, inv := bit x 28, sh := fld x 22 6,
    rsv := fld x 16 6, imm := fld x 0 16 }

/-- What an operation reads at issue. -/
structure VCtx where
  /-- a vector register. -/
  v : Nat → BitVec 1024
  /-- an accumulator as VACCX sees it. -/
  accVis : Nat → BitVec 2304
  /-- an accumulator as an accumulating operation chains from it (R184). -/
  accNew : Nat → BitVec 2304
  /-- BE_SHIFT. -/
  shift : Nat
  /-- the stepped LFSR state of a .sr issue (R182). -/
  lfsr : BitVec 32
  /-- the slot as it stands in the bundle. -/
  raw : BitVec 64

/-- A register or accumulator write of an operation: the bits of `mask` take `val`, but those of `free` take a free
value, because the spec states none. -/
structure VRes where
  acc : Bool
  dst : Nat
  mask : Nat
  val : Nat
  free : Nat
  deriving DecidableEq, Repr

/-- What a valid operation does: its latency, its results, the flags it sets, and the minimum that VBEXP feeds to
BE_ACC. -/
structure VOut where
  lat : Nat
  res : List VRes
  sat : Bool
  accSat : Bool
  be : Option Nat
  deriving DecidableEq, Repr

/-- All ones in `n` bits. -/
def ones (n : Nat) : Nat := 2 ^ n - 1

/-- The lanes of a register. -/
def lanesOf (w : Nat) (x : BitVec 1024) : List Nat := (List.range (1024 / w)).map (lane x w)

/-- A lane's new bits, whether it saturated, and whether the spec states no result for it. -/
structure LaneRes where
  val : Nat
  sat : Bool
  free : Bool
  deriving DecidableEq, Repr

/-- A plain lane result. -/
def lr (v : Nat) : LaneRes := ⟨v, false, false⟩

/-- A result held to the signed range of a lane (R180). -/
def satLane (w : Nat) (x : Int) : LaneRes := ⟨wrap w (satS w x), decide (satS w x ≠ x), false⟩

/-- A whole register written from lane results. -/
def vregOut (dst w lat : Nat) (ls : List LaneRes) : VOut :=
  { lat := lat
    res := [{ acc := false, dst := dst, mask := ones 1024, val := packLanes w (ls.map (·.val)),
              free := packLanes w (ls.map fun l => if l.free then ones w else 0) }]
    sat := ls.any (·.sat), accSat := false, be := none }

/-- Pair up lanes. -/
def zipL {α : Type} (f : Nat → Nat → α) (a b : List Nat) : List α := (a.zip b).map fun p => f p.1 p.2

/-! ### Lane arithmetic of slots 1 and 2 (R183) -/

/-- VADD and VSUB (R180, R181). -/
def laneAdd (f : LFmt) (neg : Bool) (a b : Nat) : LaneRes :=
  if f.isFloat then
    let x := f.ff.decode true a
    let y := f.ff.decode true b
    lr (f.ff.encode true (if neg then x.sub y else x.add y))
  else
    let w := f.bits
    let r := if neg then sgn w a - sgn w b else sgn w a + sgn w b
    if f.saturates then satLane w r else lr (wrap w r)

/-- VADDS and VSUBS. -/
def laneAddS (f : LFmt) (neg : Bool) (a b : Nat) : LaneRes :=
  satLane f.bits (if neg then sgn f.bits a - sgn f.bits b else sgn f.bits a + sgn f.bits b)

/-- VMIN and VMAX: +0 above −0 (R181); the result for a NaN operand is not stated and is free. -/
def laneMinMax (f : LFmt) (mx : Bool) (a b : Nat) : LaneRes :=
  if f.isFloat then
    let x := f.ff.decode true a
    let y := f.ff.decode true b
    if x = .nan || y = .nan then ⟨0, false, true⟩
    else lr (f.ff.encode true (if mx then x.maxV y else x.minV y))
  else
    let x := sgn f.bits a
    let y := sgn f.bits b
    lr (wrap f.bits (if mx then max x y else min x y))

/-- VABS and VNEG. -/
def laneAbsNeg (f : LFmt) (neg : Bool) (a : Nat) : LaneRes :=
  if f.isFloat then
    let x := f.ff.decode true a
    lr (f.ff.encode true (if neg then x.neg else x.abs))
  else
    let x := sgn f.bits a
    satLane f.bits (if neg then -x else (x.natAbs : Int))

/-- VSHL. -/
def laneShl (f : LFmt) (sh a : Nat) : LaneRes :=
  let r := sgn f.bits a * ((2 ^ sh : Nat) : Int)
  if f.saturates then satLane f.bits r else lr (wrap f.bits r)

/-- VSAR, VSARR and VSHRL. -/
def laneShr (f : LFmt) (round logical : Bool) (sh a : Nat) : LaneRes :=
  if logical then lr (a / 2 ^ sh)
  else if round then satLane f.bits (sarRound (sgn f.bits a) sh)
  else lr (wrap f.bits (sar (sgn f.bits a) sh))

/-- VCEQ (0), VCLT (1) and VCLE (2): a comparison with a NaN is false. -/
def laneCmp (f : LFmt) (k a b : Nat) : LaneRes :=
  let c : Option Int :=
    if f.isFloat then
      let x := f.ff.decode true a
      let y := f.ff.decode true b
      if x = .nan || y = .nan then none else some (x.cmp y)
    else
      let x := sgn f.bits a
      let y := sgn f.bits b
      some (if x < y then -1 else if x = y then 0 else 1)
  let r :=
    match c with
    | none => false
    | some c => if k = 0 then decide (c = 0) else if k = 1 then decide (c < 0) else decide (c ≤ 0)
  lr (if r then ones f.bits else 0)

/-- VMOVI: the immediate sign-extended or truncated to the lane. -/
def laneMovi (f : LFmt) (imm : Nat) : LaneRes := lr (wrap f.bits (sgn 16 imm))

/-! ### Stochastic rounding (R182, R216) -/

/-- One step of the LFSR (R182). -/
def lfsrStep (s : BitVec 32) : BitVec 32 :=
  if bit s 0 then (s >>> 1) ^^^ 0x80200003#32 else s >>> 1

/-- The draw of lane `i`, 24 bits (R182): the hash is mixed before its top bits are taken. -/
def srDraw (s : BitVec 32) (i : Nat) : Nat :=
  let h := (s.toNat + 0x9E3779B9 * (i + 1)) % 2 ^ 32
  (h ^^^ (h >>> 15)) / 2 ^ 8

/-- n / d in units of 2^e, rounded by R180, or stochastically with draw `u` (R216). -/
def roundUnit (n : Int) (d : Nat) (e : Int) (draw : Option Nat) : Int :=
  match draw with
  | none => fracRound n d e
  | some u => (fracFloor n d (e - 24) + (u : Int)) / 16777216

/-! ### VCVT (R187) -/

/-- The value of a lane. -/
def laneValue (f : LFmt) (a : Nat) : FV :=
  if f.isFloat then f.ff.decode true a else FV.ofDyadic (sgn f.bits a) (-(f.frac : Int))

/-- A value written into a lane of format `f`; the result for a NaN in an integer or fixed-point lane is not stated. -/
def laneOfValue (f : LFmt) (draw : Option Nat) (v : FV) : LaneRes :=
  if f.isFloat then lr (f.ff.encode true v)
  else
    let w := f.bits
    match v with
    | .nan => ⟨0, false, true⟩
    | .zero _ => lr 0
    | .inf s => ⟨wrap w (satS w (if s then -(2 ^ 80) else 2 ^ 80)), true, false⟩
    | .fin n d => satLane w (roundUnit n d (-(f.frac : Int)) draw)

/-- The formats of VCVT's wide table. -/
def cvtWide : LFmt → Bool
  | .int16 | .int32 | .q15 | .q31 | .bf16 | .fp32 => true
  | _ => false

/-- The pairs VCVT accepts. -/
def cvtPair (a b : LFmt) : Bool :=
  (cvtWide a && cvtWide b && a != b) || (a == .int8 && b == .int16) || (a == .int16 && b == .int8)

/-- VCVT from `f` to `t`: `half` is IMM[4]. -/
def vcvt (f t : LFmt) (half sr : Bool) (dst : Nat) (src : BitVec 1024) (lfsr : BitVec 32) : VOut :=
  let xs := lanesOf f.bits src
  let draw (i : Nat) : Option Nat := if sr then some (srDraw lfsr i) else none
  let nt := 1024 / t.bits
  if f.bits ≤ t.bits then
    let part := (if f.bits < t.bits && half then xs.drop nt else xs).take nt
    vregOut dst t.bits 2 (part.zipIdx.map fun (x, i) => laneOfValue t (draw i) (laneValue f x))
  else
    let off := if half then nt / 2 else 0
    let ls := xs.zipIdx.map fun (x, i) => laneOfValue t (draw (off + i)) (laneValue f x)
    let sh := off * t.bits
    { lat := 2
      res := [{ acc := false, dst := dst, mask := ones 512 <<< sh,
                val := packLanes t.bits (ls.map (·.val)) <<< sh,
                free := packLanes t.bits (ls.map fun l => if l.free then ones t.bits else 0) <<< sh }]
      sat := ls.any (·.sat), accSat := false, be := none }

/-! ### VBEXP, VAMAX, SCALEGEN (R185, R188, R210) -/

/-- Redundant sign bits of a 16-bit value (R185). -/
def signBits (x : Nat) : Nat :=
  let m := if x % 65536 ≥ 32768 then 65535 - x % 65536 else x % 65536
  15 - bitLen m

/-- The minimum of L over the parts of SA and SB. -/
def vbexp (a b : BitVec 1024) : Nat :=
  (lanesOf 16 a ++ lanesOf 16 b).foldl (fun m x => min m (signBits x)) 15

/-- The elements VAMAX takes: SA, then SB where a group reaches past SA. -/
def elems (f : LFmt) (a b : BitVec 1024) : List Nat :=
  if f = .int8 then lanesOf 8 a else lanesOf f.bits a ++ lanesOf f.bits b

/-- The magnitude of an element as a value; none for a NaN. -/
def magnitude (f : LFmt) (x : Nat) : Option FV :=
  if f.isFloat then
    match f.ff.decode true x with
    | .nan => none
    | v => some v.abs
  else some (FV.ofInt (sgn f.bits x).natAbs)

/-- The value of a lane, with its sign; none for a NaN. -/
def laneNumber (f : LFmt) (x : Nat) : Option FV :=
  match laneValue f x with
  | .nan => none
  | v => some v

/-- The larger of two values. -/
def maxMag (a b : Option FV) : Option FV :=
  match a, b with
  | some x, some y => some (x.maxV y)
  | _, _ => none

/-- VAMAX: results of the groups of an issue, in order. -/
def vamaxGroups (f : LFmt) (g : Nat) (xs : List Nat) : List (Option FV) :=
  let regLanes := if f = .int8 then 128 else 1024 / f.bits
  let size := min (32 * 2 ^ g) xs.length
  (List.range (if size ≤ regLanes then regLanes / size else 1)).map fun k =>
    ((xs.drop (k * size)).take size).foldl (fun m x => maxMag m (magnitude f x)) (some (.zero false))

/-- VAMAX (R188): with IMM[2] = 1 each result is combined with the signed value of the same lane of SC.  A result whose lane
lies past the end of DST is discarded (log entry 82). -/
def vamax (f : LFmt) (s : VSlot) (c : VCtx) : VOut :=
  let w := if f = .fp32 then 32 else 16
  let keep := bit (BitVec.ofNat 16 s.imm) 2
  let base := s.imm / 16 % 64
  let rf : LFmt := if f.isFloat then f else .int16
  let put (k : Nat) (m : Option FV) : Nat × LaneRes :=
    let j := base + k
    let m := if keep then maxMag m (laneNumber rf (lane (c.v s.sc) w j)) else m
    match m with
    | none => (j, ⟨0, false, true⟩)
    | some v => (j, if f.isFloat then lr (f.ff.encode true v) else satLane 16 (v.toIntSat 40))
  let all := (vamaxGroups f (s.imm % 4) (elems f (c.v s.sa) (c.v s.sb))).zipIdx.map fun (m, k) => put k m
  let ls := all.filter fun (j, _) => decide (j < 1024 / w)
  { lat := 2
    res := [{ acc := false, dst := s.dst
              mask := ls.foldl (fun m (j, _) => m ||| (ones w <<< (w * j))) 0
              val := ls.foldl (fun m (j, l) => m ||| (l.val % 2 ^ w <<< (w * j))) 0
              free := ls.foldl (fun m (j, l) => if l.free then m ||| (ones w <<< (w * j)) else m) 0 }]
    sat := ls.any fun (_, l) => l.sat
    accSat := false, be := none }

/-- A scale word from a magnitude (R210): the word and whether SAT is set. -/
def scaleFrom (sf : ScaleFmt) (qmax : Nat) (v : FV) : Nat × Bool :=
  match v with
  | .nan => (sf.maxWord, true)
  | .inf _ => (sf.maxWord, true)
  | .zero _ => (sf.zeroWord, false)
  | .fin n d => sf.ceil n.natAbs (d * qmax)

/-- SCALEGEN (R210). -/
def scalegen (f : LFmt) (sf : ScaleFmt) (code : Code) (dst : Nat) (a : BitVec 1024) : VOut :=
  let ls := (lanesOf f.bits a).map fun x => scaleFrom sf code.qmax (laneValue (if f.isFloat then f else .int16) x)
  let n := ls.length
  { lat := 2
    res := [{ acc := false, dst := dst, mask := ones (16 * n), val := packLanes 16 (ls.map (·.1)), free := 0 }]
    sat := ls.any (·.2), accSat := false, be := none }

/-! ### VQUANT and VDEQ (R211 to R213, R216) -/

/-- The code of a value for scale `s` and zero point `z`, and whether SAT is set (R211, R216). -/
def quantCode (c : Code) (s : FV) (z : Int) (draw : Option Nat) (x : FV) : Nat × Bool :=
  let top (neg : Bool) : Nat :=
    if c.isInt then wrap c.bits (if neg then c.lo else c.hi)
    else
      let q : Int := if neg then -(c.qmax : Int) else c.qmax
      c.packFloat (fracRound q 1 (c.unit q 1)) (c.unit q 1)
  if s.isZero then (0, false)
  else
    match x with
    | .nan => (if c.isInt then wrap c.bits z else 0, true)
    | .inf neg => (top neg, true)
    | _ =>
      match x.div s with
      | .fin n d =>
        if c.isInt then
          let r := roundUnit n d 0 draw + z
          if r < c.lo then (wrap c.bits c.lo, true)
          else if r > c.hi then (wrap c.bits c.hi, true)
          else (wrap c.bits r, false)
        else if n.natAbs > c.qmax * d then (top (decide (n < 0)), true)
        else
          let u := c.unit n d
          (c.packFloat (roundUnit n d u draw) u, false)
      | _ =>
        if c.isInt then
          if z < c.lo then (wrap c.bits c.lo, true)
          else if z > c.hi then (wrap c.bits c.hi, true)
          else (wrap c.bits z, false)
        else (0, false)

/-- The scale word of element position `e` (R207, R211). -/
def scaleWordAt (imm : Nat) (sc : BitVec 1024) (e : Nat) : Nat :=
  let base := imm / 256 % 64
  let g := imm % 4
  lane sc 16 ((if g = 3 then base else base + e / (32 * 2 ^ g)) % 64)

/-- The value and zero point of a scale word. -/
def scaleOf (sf : ScaleFmt) (code : Code) (w : Nat) : FV × Int := (sf.value w, scaleZp sf code w)

/-- VQUANT (R211, R212). -/
def vquant (f : LFmt) (sf : ScaleFmt) (code : Code) (s : VSlot) (c : VCtx) : VOut :=
  let vf : LFmt := if f = .q15 then .int16 else f
  let half := s.imm / 4 % 2
  let e0 := if f = .fp32 then 64 * half else 0
  let xs := lanesOf f.bits (c.v s.sa) ++ lanesOf f.bits (c.v s.sb)
  let codes := xs.zipIdx.map fun (x, i) =>
    let (sv, z) := scaleOf sf code (scaleWordAt s.imm (c.v s.sc) (e0 + i))
    quantCode code sv z (if s.sr then some (srDraw c.lfsr i) else none) (laneValue vf x)
  let packed := packLanes code.bits (codes.map (·.1))
  let res : VRes :=
    if code.bits = 4 || f = .fp32 then
      { acc := false, dst := s.dst, mask := ones 512 <<< (512 * half), val := packed <<< (512 * half), free := 0 }
    else { acc := false, dst := s.dst, mask := ones 1024, val := packed, free := 0 }
  { lat := 3, res := [res], sat := codes.any (·.2), accSat := false, be := none }

/-- One value of VDEQ in format `f` (R213, R201). -/
def dequant (f : LFmt) (sf : ScaleFmt) (code : Code) (sw x : Nat) : LaneRes :=
  let (sv, z) := scaleOf sf code sw
  let q : LFmt := if f = .q15 then .int16 else f
  if sv.isZero then lr 0
  else
    match code.decode x with
    | .nan => if f.isFloat then lr f.ff.qnan else ⟨0, true, false⟩
    | .inf s => laneOfValue q none (.inf s)
    | v => laneOfValue q none ((v.sub (FV.ofInt (if code.isInt then z else 0))).mul sv)

/-- VDEQ (R213). -/
def vdeq (f : LFmt) (sf : ScaleFmt) (code : Code) (s : VSlot) (c : VCtx) : VOut :=
  let half := s.imm / 4 % 2
  let n := 2 * (1024 / f.bits)
  let e0 := if f = .fp32 then 64 * half else 0
  let bit0 := if code.bits = 4 then 512 * half else code.bits * e0
  let ls := (List.range n).map fun i =>
    dequant f sf code (scaleWordAt s.imm (c.v s.sc) (e0 + i)) (fld (c.v s.sa) (bit0 + code.bits * i) code.bits)
  let reg (k : Nat) (p : List LaneRes) : VRes :=
    { acc := false, dst := s.dst + k, mask := ones 1024, val := packLanes f.bits (p.map (·.val))
      free := packLanes f.bits (p.map fun l => if l.free then ones f.bits else 0) }
  { lat := 3, res := [reg 0 (ls.take (n / 2)), reg 1 (ls.drop (n / 2))], sat := ls.any (·.sat), accSat := false
    be := none }

/-! ### Accumulators (R179, R184) -/

/-- The 64 lanes of an accumulator, signed. -/
def accLanes (a : BitVec 2304) : List Int := (List.range 64).map fun i => sgn 36 (lane a 36 i)

/-- Accumulator lanes written with saturation: those of `on` only. -/
def accOut (acc lat : Nat) (on : Nat → Bool) (vals : List Int) : VOut :=
  { lat := lat
    res := [{ acc := true, dst := acc
              mask := packLanes 36 ((List.range 64).map fun i => if on i then ones 36 else 0)
              val := packLanes 36 (vals.map fun x => wrap 36 (satS 36 x)), free := 0 }]
    sat := false
    accSat := vals.zipIdx.any fun (x, i) => on i && decide (satS 36 x ≠ x)
    be := none }

/-- A complex product: real and imaginary parts at full precision, `conj` taking the conjugate of the second (R183). -/
def cmul (conj : Bool) (ar ai br bi : Int) : Int × Int :=
  let bi := if conj then -bi else bi
  (ar * br - ai * bi, ar * bi + ai * br)

/-- The signed 16-bit parts of a register. -/
def parts (x : BitVec 1024) : List Int := (lanesOf 16 x).map (sgn 16)

/-- Pairs of successive elements. -/
def pairUp {α : Type} : List α → List (α × α)
  | a :: b :: r => (a, b) :: pairUp r
  | _ => []

/-- The products of the 64 lanes, whole (R179). -/
def products (f : LFmt) (inv : Bool) (a b : BitVec 1024) : List Int :=
  if f = .cq15 then
    ((pairUp (parts a)).zip (pairUp (parts b))).flatMap fun ((ar, ai), (br, bi)) =>
      let (r, i) := cmul inv ar ai br bi
      [r, i]
  else ((parts a).zip (parts b)).map fun (x, y) => x * y

/-- VMAC (0), VMSU (1) and VMACZ (2). -/
def vmac (f : LFmt) (k : Nat) (s : VSlot) (c : VCtx) : VOut :=
  let p := products f s.inv (c.v s.sa) (c.v s.sb)
  let old := accLanes (c.accNew s.acc)
  accOut s.acc 3 (fun _ => true)
    (if k = 2 then p else (old.zip p).map fun (o, x) => if k = 0 then o + x else o - x)

/-- VDOT2. -/
def vdot2 (s : VSlot) (c : VCtx) : VOut :=
  let uns := s.imm % 2 = 1
  let pa := pairUp ((lanesOf 8 (c.v s.sa)).map fun (x : Nat) => if uns then Int.ofNat x else sgn 8 x)
  let pb := pairUp ((lanesOf 8 (c.v s.sb)).map (sgn 8))
  let p := (pa.zip pb).map fun ((a0, a1), (b0, b1)) => a0 * b0 + a1 * b1
  accOut s.acc 3 (fun _ => true) (((accLanes (c.accNew s.acc)).zip p).map fun (o, x) => o + x)

/-- VACCX. -/
def vaccx (s : VSlot) (c : VCtx) : VOut :=
  let m : Int := if s.imm = 0 then 1 else (s.imm : Int)
  vregOut s.dst 16 2 ((accLanes (c.accVis s.acc)).map fun a => satLane 16 (sarRound (a * m) s.sh))

/-- VACCLD: a lane whose shifted value does not fit 36 bits has no stated result. -/
def vaccld (s : VSlot) (c : VCtx) : VOut :=
  let vals := (parts (c.v s.sa)).map fun x => x * ((2 ^ s.sh : Nat) : Int)
  { lat := 1
    res := [{ acc := true, dst := s.acc, mask := ones 2304, val := packLanes 36 (vals.map (wrap 36))
              free := packLanes 36 (vals.map fun x => if satS 36 x = x then 0 else ones 36) }]
    sat := false, accSat := false, be := none }

/-- VMUL. -/
def vmul (f : LFmt) (s : VSlot) (c : VCtx) : VOut :=
  let a := c.v s.sa
  let b := c.v s.sb
  match f with
  | .int16 => vregOut s.dst 16 3 ((products f false a b).map fun x => lr (wrap 16 x))
  | .q15 | .cq15 => vregOut s.dst 16 3 ((products f s.inv a b).map fun x => satLane 16 (sarRound x 15))
  | .q31 => vregOut s.dst 32 3 (zipL (fun x y => satLane 32 (sarRound (sgn 32 x * sgn 32 y) 31)) (lanesOf 32 a) (lanesOf 32 b))
  | _ => vregOut s.dst f.bits 4
      (zipL (fun x y => lr (f.ff.encode true ((f.ff.decode true x).mul (f.ff.decode true y))))
        (lanesOf f.bits a) (lanesOf f.bits b))

/-! ### Butterflies (R186) -/

/-- The complex elements of a register. -/
def celems (x : BitVec 1024) : List (Int × Int) := pairUp (parts x)

/-- A register of complex outputs, each part rounded once by a shift of 15 + s (R180). -/
def cregOut (dst s : Nat) (xs : List (Int × Int)) : VRes × Bool :=
  let ls := xs.flatMap fun (r, i) => [satLane 16 (sarRound r (15 + s)), satLane 16 (sarRound i (15 + s))]
  ({ acc := false, dst := dst, mask := ones 1024, val := packLanes 16 (ls.map (·.val)), free := 0 }, ls.any (·.sat))

/-- Sum and difference of complex values. -/
def cadd (a b : Int × Int) : Int × Int := (a.1 + b.1, a.2 + b.2)
def csub (a b : Int × Int) : Int × Int := (a.1 - b.1, a.2 - b.2)
/-- j times a complex value. -/
def cj (a : Int × Int) : Int × Int := (-a.2, a.1)

/-- VBFLY2. -/
def vbfly2 (s : VSlot) (c : VCtx) : VOut :=
  let up (x : Int × Int) : Int × Int := (x.1 * 32768, x.2 * 32768)
  let t := (celems (c.v s.sb)).zip (celems (c.v s.sc)) |>.map fun (b, w) =>
    cmul false b.1 b.2 w.1 (if s.inv then -w.2 else w.2)
  let a := (celems (c.v s.sa)).map up
  let (r0, s0) := cregOut s.dst c.shift ((a.zip t).map fun (x, y) => cadd x y)
  let (r1, s1) := cregOut (s.dst + 1) c.shift ((a.zip t).map fun (x, y) => csub x y)
  { lat := 3, res := [r0, r1], sat := s0 || s1, accSat := false, be := none }

/-- One radix-4 butterfly on b0 to b3. -/
def bfly4 (inv : Bool) (b0 b1 b2 b3 : Int × Int) : List (Int × Int) :=
  let d := cj (csub b1 b3)
  let e := csub b0 b2
  let y1 := if inv then cadd e d else csub e d
  let y3 := if inv then csub e d else cadd e d
  [cadd (cadd b0 b2) (cadd b1 b3), y1, csub (cadd b0 b2) (cadd b1 b3), y3]

/-- VBFLY4. -/
def vbfly4 (s : VSlot) (c : VCtx) : VOut :=
  let x (k : Nat) := celems (c.v (s.sa + k))
  let w (k : Nat) := celems (c.v (s.sb + k))
  let up (x : Int × Int) : Int × Int := (x.1 * 32768, x.2 * 32768)
  let b0 := (x 0).map up
  let b (m : Nat) := ((x m).zip (w m)).map fun (p, q) => cmul false p.1 p.2 q.1 q.2
  let ys := (b0.zip ((b 1).zip ((b 2).zip (b 3)))).map fun (p0, p1, p2, p3) => bfly4 s.inv p0 p1 p2 p3
  let outs := (List.range 4).map fun k => cregOut (s.dst + k) c.shift (ys.map fun y => y.getD k (0, 0))
  { lat := 4, res := outs.map (·.1), sat := outs.any (·.2), accSat := false, be := none }

/-! ### Permutes (R183) -/

/-- Bits of `x` reversed within `n` bits. -/
def bitRev : Nat → Nat → Nat
  | 0, _ => 0
  | n + 1, x => (x % 2) * 2 ^ n + bitRev n (x / 2)

/-- VSHUF's patterns: the lane of SA:SB that lane `i` takes, n lanes a register. -/
def shufSrc (n pat i : Nat) : Nat :=
  match pat with
  | 0 => if i % 2 = 0 then i / 2 else n + i / 2
  | 1 => if i % 2 = 0 then n / 2 + i / 2 else n + n / 2 + i / 2
  | 2 => 2 * i
  | 3 => 2 * i + 1
  | 4 => n - 1 - i
  | _ => bitRev (Nat.log2 n) i

/-- Each lane takes a lane of SA:SB. -/
def gather (w dst : Nat) (a b : BitVec 1024) (src : Nat → Nat) : VOut :=
  let n := 1024 / w
  vregOut dst w 2 ((List.range n).map fun i =>
    let j := src i
    lr (if j < n then lane a w j else lane b w (j - n)))

/-- VBCAST: a lane number beyond the register has no stated result. -/
def vbcast (w : Nat) (s : VSlot) (c : VCtx) : VOut :=
  let n := 1024 / w
  if s.imm < n then gather w s.dst (c.v s.sa) (c.v s.sa) fun _ => s.imm
  else vregOut s.dst w 2 (List.replicate n ⟨0, false, true⟩)

/-! ### Pooling along lanes (R190) -/

/-- The windows that lie wholly within SA:SB: output lane and its elements. -/
def windows (n kw sw : Nat) (xs : List Nat) : List (Nat × List Nat) :=
  ((List.range n).filter fun j => decide (j * sw + kw ≤ 2 * n)).map fun j => (j, (xs.drop (j * sw)).take kw)

/-- VPOOLMAX. -/
def vpoolmax (f : LFmt) (s : VSlot) (c : VCtx) : VOut :=
  let w := f.bits
  let xs := lanesOf w (c.v s.sa) ++ lanesOf w (c.v s.sb)
  let ls := (windows (1024 / w) (s.imm % 16) (s.imm / 16 % 16) xs).map fun (j, e) =>
    (j, e.foldl (fun (m : LaneRes) x =>
      let r := laneMinMax f true m.val x
      { r with free := r.free || m.free }) (lr (lane (c.v s.sc) w j)))
  { lat := 2
    res := [{ acc := false, dst := s.dst
              mask := ls.foldl (fun m (j, _) => m ||| (ones w <<< (w * j))) 0
              val := ls.foldl (fun m (j, l) => m ||| (l.val <<< (w * j))) 0
              free := ls.foldl (fun m (j, l) => if l.free then m ||| (ones w <<< (w * j)) else m) 0 }]
    sat := false, accSat := false, be := none }

/-- VPOOLAVG: an accumulator has lanes 0 to 63. -/
def vpoolavg (f : LFmt) (s : VSlot) (c : VCtx) : VOut :=
  let w := f.bits
  let n := 1024 / w
  let kw := s.imm % 16
  let sw := s.imm / 16 % 16
  let xs := lanesOf w (c.v s.sa) ++ lanesOf w (c.v s.sb)
  let on (j : Nat) : Bool := decide (j * sw + kw ≤ 2 * n)
  accOut s.acc 2 on ((accLanes (c.accNew s.acc)).zipIdx.map fun (o, j) =>
    if on j then o + (((xs.drop (j * sw)).take kw).map (sgn w)).foldl (· + ·) 0 else o)

/-! ### The optimiser step (R191, R254) -/

/-- The integer square root by digits: `fuel` bits of the root. -/
def isqrt : Nat → Nat → Nat → Nat
  | 0, _, r => r
  | fuel + 1, n, r =>
    let t := r + 2 ^ fuel
    isqrt fuel n (if t * t ≤ n then t else r)

/-- The square root rounded to FP32 under R181. -/
def fsqrt (v : FV) : FV :=
  match v with
  | .fin n d =>
    if n < 0 then .nan
    else
      let l := fracLog2 n.natAbs d
      let e := l / 2 - 25
      let (a, b) := fracScale n d (-2 * e)
      let r := isqrt 30 (a.natAbs / b) 0
      let exact := decide (r * r * b = a.natAbs)
      f32In (f32Out (FV.ofDyadic (2 * (r : Int) + (if exact then 0 else 1)) (e - 1)))
  | .zero s => .zero s
  | .inf s => if s then .nan else .inf false
  | .nan => .nan

/-- One FP32 rounding (R181). -/
def r32 (v : FV) : FV := f32In (f32Out v)

/-- The hyperparameters of SC (R254). -/
structure Hyper where
  eta : FV
  beta1 : FV
  beta2 : FV
  eps : FV
  lambda : FV
  c1 : FV
  c2 : FV
  gamma : FV
  deriving DecidableEq, Repr

/-- One element's update: new moments and weight (R254). -/
def optElem (h : Hyper) (e s m v w : FV) : FV × FV × FV :=
  let one := FV.ofInt 1
  let n1 := r32 (one.sub h.beta1)
  let n2 := r32 (one.sub h.beta2)
  let g := r32 ((r32 (e.mul s)).mul h.gamma)
  let m1 := r32 ((r32 (h.beta1.mul m)).add (r32 (n1.mul g)))
  let v1 := r32 ((r32 (h.beta2.mul v)).add (r32 (n2.mul (r32 (g.mul g)))))
  let den := r32 ((fsqrt (r32 (h.c2.mul v1))).add h.eps)
  let q := r32 ((r32 (h.c1.mul m1)).div den)
  let w1 := r32 (w.sub (r32 (h.eta.mul (r32 (q.add (r32 (h.lambda.mul w)))))))
  (m1, v1, w1)

/-- VOPT (R191, R254): all moment and gradient scales are E8M0 (R220). -/
def vopt (s : VSlot) (c : VCtx) : VOut :=
  let sb := c.v s.sb
  let hp (i : Nat) : FV := f32In (lane (c.v s.sc) 32 i)
  let h : Hyper := ⟨hp 0, hp 1, hp 2, hp 3, hp 4, hp 5, hp 6, hp 7⟩
  let sv (i : Nat) : FV := ScaleFmt.e8m0.value (lane sb 16 i)
  let dec (code : Code) (x : Nat) (s : FV) : FV :=
    if s.isZero then .zero false else r32 ((code.decode x).mul s)
  let weight (i : Nat) : FV := fmtBf16.decode true (lane (c.v (s.dst + 2 + i / 64)) 16 (i % 64))
  let out := (List.range 128).map fun i =>
    let gs := sv (i / 32)
    let e := if gs.isZero then FV.zero false else Code.e5m2.decode (lane (c.v s.sa) 8 i)
    optElem h e (if gs.isZero then .zero false else gs)
      (dec .int8 (lane (c.v s.dst) 8 i) (sv 4)) (dec .uint8 (lane (c.v (s.dst + 1)) 8 i) (sv 5)) (weight i)
  let big (xs : List FV) : FV := xs.foldl (fun m x => if m = .nan || x = .nan then .nan else m.maxV x) (.zero false)
  let top (xs : List FV) : FV :=
    match xs with
    | [] => .zero false
    | x :: r => r.foldl (fun m x => if m = .nan || x = .nan then .nan else m.maxV x) x
  let (w1, t1) := scaleFrom .e8m0 127 (big (out.map fun o => o.1.abs))
  let (w2, t2) := scaleFrom .e8m0 255 (top (out.map fun o => o.2.1))
  let q (code : Code) (w : Nat) (x : FV) : Nat × Bool := quantCode code (ScaleFmt.e8m0.value w) 0 none x
  let ms := out.map fun o => q .int8 w1 o.1
  let vs := out.map fun o => q .uint8 w2 o.2.1
  let ws := out.map fun o => fmtBf16.encode true o.2.2
  let reg (k v : Nat) : VRes := { acc := false, dst := s.dst + k, mask := ones 1024, val := v, free := 0 }
  { lat := 6
    res := [reg 0 (packLanes 8 (ms.map (·.1))), reg 1 (packLanes 8 (vs.map (·.1))),
            reg 2 (packLanes 16 (ws.take 64)), reg 3 (packLanes 16 (ws.drop 64)),
            { acc := false, dst := s.sb, mask := ones 32 <<< 64, val := (w1 + w2 * 65536) <<< 64, free := 0 }]
    sat := t1 || t2 || ms.any (·.2) || vs.any (·.2)
    accSat := false, be := none }

/-! ### Validity (R170) and dispatch -/

/-- Which fields an operation uses; every other must be zero (R170). -/
structure Uses where
  dst : Bool := false
  sa : Bool := false
  sb : Bool := false
  sc : Bool := false
  acc : Bool := false
  sr : Bool := false
  inv : Bool := false
  sh : Bool := false
  /-- the bits of IMM in use. -/
  imm : Nat := 0
  deriving DecidableEq, Repr

/-- A field that the operation does not use is not zero. -/
def VSlot.stray (s : VSlot) (u : Uses) : Bool :=
  s.rsv != 0 || (!u.dst && s.dst != 0) || (!u.sa && s.sa != 0) || (!u.sb && s.sb != 0) || (!u.sc && s.sc != 0)
    || (!u.acc && s.acc != 0) || (!u.sr && s.sr) || (!u.inv && s.inv) || (!u.sh && s.sh != 0)
    || s.imm &&& (65535 - u.imm) != 0

/-- Reads of one, two or three registers into a destination. -/
def uA : Uses := { dst := true, sa := true }
def uAB : Uses := { dst := true, sa := true, sb := true }
def uABC : Uses := { dst := true, sa := true, sb := true, sc := true }

/-- An answer, when the slot's formats are accepted and no unused field is set. -/
def okIf (b : Bool) (s : VSlot) (u : Uses) (o : VOut) : Option VOut := if b && !s.stray u then some o else none

/-- The code format of IMM[7:4] (R199). -/
def VSlot.code (s : VSlot) : Option Code := Code.ofField (s.imm / 16 % 16)

/-- The scale format of a VQUANT or VDEQ slot: the spec names no field for it, so it is free (log entry 11). -/
def VCtx.scaleFmt (c : VCtx) : Option ScaleFmt := ScaleFmt.ofField (Config.slotScaleFmt c.raw)

/-- VQUANT and VDEQ accept the code and scale formats together (R207, R211, R213). -/
def quantOk (f : LFmt) (sf : ScaleFmt) (code : Code) (imm : Nat) : Bool :=
  (f != .fp32 || code.bits = 8) && (sf != .fp16 || imm % 4 = 3)

/-- The lane formats of SCALEGEN, VQUANT and VDEQ: INT16 and Q15 behave identically in all three (R201, R209, R213), although
the table of R183 lists only one of them for SCALEGEN and for VDEQ (log entry 83). -/
def narrowOk (f : LFmt) : Bool := f == .int16 || f == .q15 || f.isFloat

/-- The operations of slots 1 and 2. VSARR with SH = 0, VAMAX with IMM[1:0] = 3, VDEQ with an odd DST and a pooling window or
stride outside 1 to 8 make the slot invalid (log entry 106, the model's choice). -/
def runAlu (s : VSlot) (f : LFmt) (c : VCtx) : Option VOut :=
  let a := c.v s.sa
  let b := c.v s.sb
  let w := f.bits
  let fl := if f.isFloat then 3 else 1
  let two (lat : Nat) (g : Nat → Nat → LaneRes) : VOut := vregOut s.dst w lat (zipL g (lanesOf w a) (lanesOf w b))
  let one (lat : Nat) (g : Nat → LaneRes) : VOut := vregOut s.dst w lat ((lanesOf w a).map g)
  let ints := f == .int8 || f == .int16 || f == .int32
  let bits (v : BitVec 1024) : VOut := vregOut s.dst 1024 1 [lr v.toNat]
  let shiftable := !f.isFloat && f != .cq15
  match s.op with
  | 0x01 => okIf true s uAB (two fl (laneAdd f false))
  | 0x02 => okIf true s uAB (two fl (laneAdd f true))
  | 0x03 => okIf ints s uAB (two 1 (laneAddS f false))
  | 0x04 => okIf ints s uAB (two 1 (laneAddS f true))
  | 0x05 => okIf (f != .cq15) s uAB (two fl (laneMinMax f false))
  | 0x06 => okIf (f != .cq15) s uAB (two fl (laneMinMax f true))
  | 0x07 => okIf (f != .cq15) s uA (one 1 (laneAbsNeg f false))
  | 0x08 => okIf true s uA (one 1 (laneAbsNeg f true))
  | 0x09 => okIf true s uAB (bits (a &&& b))
  | 0x0A => okIf true s uAB (bits (a ||| b))
  | 0x0B => okIf true s uAB (bits (a ^^^ b))
  | 0x0C => okIf shiftable s { uA with sh := true } (one 1 (laneShl f s.sh))
  | 0x0D => okIf (!f.isFloat) s { uA with sh := true } (one 1 (laneShr f false false s.sh))
  | 0x0E => okIf (!f.isFloat && s.sh != 0) s { uA with sh := true } (one 2 (laneShr f true false s.sh))
  | 0x0F => okIf ints s { uA with sh := true } (one 1 (laneShr f false true s.sh))
  | 0x10 =>
    okIf true s uAB (if f = .cq15 then
      vregOut s.dst 32 1 (zipL (laneCmp .int32 0) (lanesOf 32 a) (lanesOf 32 b)) else two 1 (laneCmp f 0))
  | 0x11 => okIf (f != .cq15) s uAB (two 1 (laneCmp f 1))
  | 0x12 => okIf (f != .cq15) s uAB (two 1 (laneCmp f 2))
  | 0x13 => okIf true s uABC (bits ((c.v s.sc &&& a) ||| (~~~(c.v s.sc) &&& b)))
  | 0x14 => okIf shiftable s { dst := true, imm := 65535 } (vregOut s.dst w 1 (List.replicate (1024 / w) (laneMovi f s.imm)))
  | 0x15 => okIf true s uA (bits a)
  | 0x16 =>
    match LFmt.ofField (s.imm % 16) with
    | none => none
    | some src =>
      okIf (cvtPair src f) s { uA with sr := !f.isFloat, imm := if src.bits = w then 15 else 31 }
        (vcvt src f (s.imm / 16 % 2 = 1) s.sr s.dst a c.lfsr)
  | 0x18 =>
    okIf (f == .int16 || f == .q15 || f == .cq15) s { sa := true, sb := true }
      { lat := 1, res := [], sat := false, accSat := false, be := some (vbexp a b) }
  | 0x19 =>
    let g := s.imm % 4
    let regLanes := 1024 / w
    okIf ((f == .int8 || f == .int16 || f == .q15 || f.isFloat) && g != 3) s
      { dst := true, sa := true, sb := decide (f ≠ .int8 ∧ 32 * 2 ^ g > regLanes), sc := s.imm / 4 % 2 = 1, imm := 0x3F7 }
      (vamax f s c)
  | 0x1A =>
    match ScaleFmt.ofField (s.imm % 4), s.code with
    | some sf, some code => okIf (narrowOk f) s { uA with imm := 0xF3 } (scalegen f sf code s.dst a)
    | _, _ => none
  | 0x1B =>
    match c.scaleFmt, s.code with
    | some sf, some code =>
      okIf (narrowOk f && quantOk f sf code s.imm) s
        { uABC with sr := true, imm := if f == .fp32 || code.bits = 4 then 0x3FF7 else 0x3FF3 } (vquant f sf code s c)
    | _, _ => none
  | 0x1C =>
    match c.scaleFmt, s.code with
    | some sf, some code =>
      okIf (narrowOk f && s.dst % 2 = 0 && quantOk f sf code s.imm) s
        { dst := true, sa := true, sc := true, imm := if f == .fp32 || code.bits = 4 then 0x3FF7 else 0x3FF3 }
        (vdeq f sf code s c)
    | _, _ => none
  | 0x1D =>
    okIf ((f == .int8 || f == .int16 || f == .q15 || f == .bf16) && poolOk s.imm) s { uABC with imm := 0xFF } (vpoolmax f s c)
  | 0x1E =>
    okIf ((f == .int8 || f == .int16 || f == .q15) && poolOk s.imm) s
      { sa := true, sb := true, acc := true, imm := 0xFF } (vpoolavg f s c)
  | _ => none
where
  /-- Window and stride of 1 to 8 (R190); another makes the slot invalid (log entry 106, the model's choice). -/
  poolOk (imm : Nat) : Bool :=
    decide (1 ≤ imm % 16) && decide (imm % 16 ≤ 8) && decide (1 ≤ imm / 16 % 16) && decide (imm / 16 % 16 ≤ 8)

/-- The operations of slot 3. VBFLY2 with an odd DST and VSHUF with IMM[2:0] = 6 or 7 make the slot invalid (log entry 106, the
model's choice). -/
def runMac (s : VSlot) (f : LFmt) (c : VCtx) : Option VOut :=
  let w := f.bits
  let ints := f == .int8 || f == .int16 || f == .int32
  let mac := f == .int16 || f == .q15 || f == .cq15
  let cinv := f == .cq15
  let uM : Uses := { sa := true, sb := true, acc := true, inv := cinv }
  let n := 1024 / w
  match s.op with
  | 0x40 => okIf (f != .int8 && f != .int32) s { uAB with inv := cinv } (vmul f s c)
  | 0x41 => okIf mac s uM (vmac f 0 s c)
  | 0x42 => okIf mac s uM (vmac f 1 s c)
  | 0x43 => okIf mac s uM (vmac f 2 s c)
  | 0x44 => okIf (f == .int8) s { sa := true, sb := true, acc := true, imm := 1 } (vdot2 s c)
  | 0x45 => okIf mac s { dst := true, acc := true, sh := true, imm := 65535 } (vaccx s c)
  | 0x46 => okIf mac s { sa := true, acc := true, sh := true } (vaccld s c)
  | 0x48 => okIf (f == .cq15 && s.dst % 2 = 0) s { uABC with inv := true } (vbfly2 s c)
  | 0x49 =>
    okIf (f == .cq15 && s.dst % 4 = 0 && s.sa % 4 = 0 && s.sb % 4 = 0) s { uAB with inv := true } (vbfly4 s c)
  | 0x50 => okIf ints s uABC (gather w s.dst (c.v s.sa) (c.v s.sb) fun i => lane (c.v s.sc) w i % (2 * n))
  | 0x51 =>
    let pat := s.imm % 8
    okIf (ints && pat ≤ 5) s { dst := true, sa := true, sb := decide (pat < 4), imm := 7 }
      (gather w s.dst (c.v s.sa) (c.v s.sb) (shufSrc n pat))
  | 0x52 => okIf ints s { uA with imm := 65535 } (gather w s.dst (c.v s.sa) (c.v s.sa) fun i => (i + s.imm) % n)
  | 0x53 => okIf ints s { uA with imm := 65535 } (vbcast w s c)
  | 0x58 => okIf (f == .int8 && s.dst % 4 = 0) s uABC (vopt s c)
  | _ => none

/-- Run slot `n` (1 to 3): none when the slot is invalid (R170). NOP does nothing, and all its fields are zero. -/
def runSlot (n : Nat) (s : VSlot) (c : VCtx) : Option VOut :=
  if s.op = 0 then
    if s.fmt = 0 && !s.stray {} then some { lat := 1, res := [], sat := false, accSat := false, be := none } else none
  else
    match LFmt.ofField s.fmt with
    | none => none
    | some f => if n = 3 then runMac s f c else runAlu s f c

end Sys2Proof.Machine
end

