-- ==== Sys2Proof/Machine/VecEngine.lean ====
section
/-! DEFINITION. The vector engine: bundles, control operations, issue and landing, the fast switch, and the VEC_ block
(R164 to R198). -/

namespace Sys2Proof.Machine

/-- The bank of a priority (R192). -/
def VecEngine.bk (v : VecEngine) (u : Bool) : VecBank := if u then v.bankU else v.bankN

/-- Change it. -/
def VecEngine.updBk (v : VecEngine) (u : Bool) (f : VecBank → VecBank) : VecEngine :=
  if u then { v with bankU := f v.bankU } else { v with bankN := f v.bankN }

/-- Register v`i` as bank `u` sees it (R192). -/
def VecEngine.vreg (v : VecEngine) (u : Bool) (i : Nat) : BitVec 1024 :=
  if i < 24 then v.v.getD i 0 else (v.bk u).v.getD (i - 24) 0

/-- Write it. -/
def VecEngine.setV (v : VecEngine) (u : Bool) (i : Nat) (x : BitVec 1024) : VecEngine :=
  if i < 24 then { v with v := lput v.v i x } else v.updBk u fun b => { b with v := lput b.v (i - 24) x }

/-- Accumulator a`i` as bank `u` sees it. -/
def VecEngine.areg (v : VecEngine) (u : Bool) (i : Nat) : BitVec 2304 :=
  if i < 2 then v.a.getD i 0 else (v.bk u).a.getD (i - 2) 0

/-- Write it. -/
def VecEngine.setA (v : VecEngine) (u : Bool) (i : Nat) (x : BitVec 2304) : VecEngine :=
  if i < 2 then { v with a := lput v.a i x } else v.updBk u fun b => { b with a := lput b.a (i - 2) x }

/-- `old` with the bits of `mask` taken from `val`. -/
def blend {n : Nat} (mask val old : BitVec n) : BitVec n := (val &&& mask) ||| (old &&& ~~~mask)

/-- The accumulator as the next accumulating operation chains from it (R184): the landed value, with the results still
in flight that were issued after it, in issue order. -/
def VecEngine.accNew (v : VecEngine) (u : Bool) (i : Nat) : BitVec 2304 :=
  let fl := v.flight.filter fun r => r.acc && decide (r.dst = i) && r.urgent == u && decide (r.seq > (v.bk u).accSeq.getD i 0)
  fl.foldl (fun x r => blend r.mask r.val x) (v.areg u i)

/-- Record the first case in VEC_ERR (R170, R172, R197), with source VEC_ERR of the tile's controller. -/
def vecErr (t bundle slot cause : Nat) (s : State) : State :=
  let x : Word := BitVec.ofNat 32 (bundle % 2048 + 2048 * (slot % 4) + 8192 * (cause % 2) + 2 ^ 31)
  let was := bit (s.tile t).vec.err 31
  let s1 := s.updVec t fun v => { v with err := if was then v.err else x, now := v.now.first x }
  if was then s1 else s1.tileSource t 5

/-- A case of R170. -/
def vecIllegal (t bundle slot : Nat) (s : State) : State :=
  vecErr t bundle slot 0 (s.updVec t fun v => { v with illegal := true, now := v.now.note 11 true })

/-! ### Landing (R171, R172) -/

/-- Two results go to one register. -/
def VecResult.same (a b : VecResult) : Bool := a.acc == b.acc && a.dst == b.dst && a.urgent == b.urgent

/-- One result lands. -/
def VecEngine.land (v : VecEngine) (r : VecResult) : VecEngine :=
  if r.acc then
    (v.setA r.urgent r.dst (blend r.mask r.val (v.areg r.urgent r.dst))).updBk r.urgent fun b =>
      { b with accSeq := upd b.accSeq r.dst (max r.seq) }
  else
    v.setV r.urgent r.dst
      (blend (r.mask.setWidth 1024) (r.val.setWidth 1024) (v.vreg r.urgent r.dst))

/-- One result of those that land at the end of one cycle, taken in the order of their issue: it writes its lanes over those
of the results issued before it (R172, R184), and the last of several to one register records the collision.  Two of one slot
of one bundle leave what stands unstated: the lanes take a free value (entry 1). -/
def landOne (t : Nat) (due : List VecResult) (s : State) (r : VecResult) : State :=
  let rivals := due.filter r.same
  if rivals.length ≤ 1 then s.updVec t fun v => v.land r
  else
    let s1 := if rivals.any fun x => decide (x.seq > r.seq) then s
      else vecErr t r.bundle r.slot 1 (s.updVec t fun v => { v with wcoll := true, now := v.now.note 10 true })
    if (rivals.filter fun x => decide (x.seq = r.seq)).length ≤ 1 then s1.updVec t fun v => v.land r
    else
      let (x, s2) := s1.draw 2304
      s2.updVec t fun v => v.land { r with val := x }

/-- The results due at the end of the present cycle land. -/
def landDue (t : Nat) (s : State) : State :=
  let v := (s.tile t).vec
  let due := v.flight.filter fun r => decide (r.due ≤ v.cycle)
  let s1 := s.updVec t fun v => { v with flight := v.flight.filter fun r => !decide (r.due ≤ v.cycle) }
  due.foldl (landOne t due) s1

/-- A program's work is complete once END has issued and its last result has landed (R177): the bank stops and, for an
urgent program that switched no normal one out, the normal bank is selected again. -/
def VecEngine.finish (v : VecEngine) (u : Bool) : VecEngine :=
  if (v.bk u).ended && (v.flight.all fun r => r.urgent != u) then
    let w := v.updBk u fun b => { b with run := false, ended := false, ranges := [] }
    if u && !v.preempted then { w with bank := false } else w
  else v

/-- The end of an engine cycle: results land, the block exponent takes the minimum that VBEXP found, a stage closes or
starts, and the cycle is counted. -/
def endCycle (t : Nat) (u : Bool) (be : List Nat) (ctl : VecBank → VecBank) (s : State) : State :=
  (landDue t s).updVec t fun v =>
    let v1 := v.updBk u fun b => ctl { b with beAcc := BitVec.ofNat 4 (be.foldl min b.beAcc.toNat) }
    ({ v1 with cycle := v1.cycle + 1 }).finish u

/-! ### Slot 0 (R166 to R168) -/

/-- The fields of slot 0. -/
structure VSlot0 where
  xen : Bool
  xp : Nat
  xinc : Nat
  xdst : Nat
  yen : Bool
  yp : Nat
  yinc : Nat
  ydst : Nat
  wen : Bool
  wp : Nat
  winc : Nat
  wsrc : Nat
  ctl : Nat
  cimm : Nat
  deriving DecidableEq, Repr

/-- Split slot 0. -/
def VSlot0.ofBits (x : BitVec 64) : VSlot0 :=
  { xen := bit x 63, xp := fld x 60 3, xinc := fld x 56 4, xdst := fld x 51 5, yen := bit x 50, yp := fld x 47 3
    yinc := fld x 43 4, ydst := fld x 38 5, wen := bit x 37, wp := fld x 34 3, winc := fld x 30 4, wsrc := fld x 25 5
    ctl := fld x 21 4, cimm := fld x 0 21 }

/-- The 256 bits of bundle `b`. -/
def VecEngine.bundle (v : VecEngine) (b : Nat) : BitVec 256 :=
  BitVec.ofNat 256 (packLanes 32 ((List.range 8).map fun i => (sget (fun _ => 0) v.vpram (8 * b + i)).toNat))

/-- A word of bundle `b` has bad parity. -/
def VecEngine.bundleBad (v : VecEngine) (b : Nat) : Bool :=
  (List.range 8).any fun i => sget (fun _ => false) v.vpramBad (8 * b + i)

/-- The ranges of a range record, or none when it breaks a rule of R175. -/
def rangeRecord (x : BitVec 256) : Option (List Range) :=
  if fld x 192 64 ≠ 0 then none
  else if (List.range 3).any fun j => decide (fld x (64 * j + 16) 16 = 0) && decide (fld x (64 * j) 64 ≠ 0) then none
  else
    some (((List.range 3).filter fun j => decide (fld x (64 * j + 16) 16 ≠ 0)).map fun j =>
      ⟨fld x (64 * j) 15, fld x (64 * j + 16) 16, bit x (64 * j + 32), bit x (64 * j + 33)⟩)

/-- A field of a port that is not enabled is unused and must be zero (R170). -/
def VSlot0.portsOk (z : VSlot0) : Bool :=
  (z.xen || decide (z.xp + z.xinc + z.xdst = 0)) && (z.yen || decide (z.yp + z.yinc + z.ydst = 0))
    && (z.wen || decide (z.wp + z.winc + z.wsrc = 0))

/-- The count of a LOOPK: k[KI], unsigned (R168). -/
def VSlot0.loopCount (z : VSlot0) (b : VecBank) : Nat := (b.k.getD (z.cimm / 2 ^ 18) 0).toNat

/-- The control operation is valid (R168, R170), but for SEG's record: a LOOPK of count 0 skips its body and opens no level. A
BENEXT whose H is neither 2 nor 3 is invalid (log entry 106, the model's choice). -/
def VSlot0.ctlOk (z : VSlot0) (b : VecBank) : Bool :=
  match z.ctl with
  | 0 => decide (z.cimm = 0)
  | 1 => decide (b.loops.length < 2)
  | 2 => (decide (b.loops.length < 2) || decide (z.loopCount b = 0)) && decide (z.cimm / 2 ^ 10 % 2 ^ 8 = 0)
  | 3 => decide (b.loops.length = 0) && decide (z.cimm < 2 ^ 11)
  | 4 => decide (z.cimm = 0)
  | 5 => decide (z.cimm / 2 ^ 15 % 8 = 0)
  | 6 => decide (z.cimm / 2 ^ 16 % 4 = 0)
  | 7 => decide (z.cimm < 2 ^ 11)
  | 8 => decide (z.cimm < 16)
  | 9 => decide (z.cimm = 2) || decide (z.cimm = 3)
  | _ => false

/-- LEN of a loop: 0 means 1,024. -/
def VSlot0.len (z : VSlot0) : Nat := if z.cimm % 1024 = 0 then 1024 else z.cimm % 1024

/-- The amount an increment code adds to pointer `n`, modulo 32,768 (R167). -/
def incOf (b : VecBank) (n code : Nat) : Int :=
  if code ≤ 7 then code
  else if code = 8 then (b.k.getD n 0).toInt
  else if code = 9 then -(b.k.getD n 0).toInt
  else 9 - (code : Int)

/-- The pointers after a bundle: increments add up, and a SETP overrides them (R167, R168). -/
def VSlot0.pointers (z : VSlot0) (b : VecBank) : List (BitVec 15) :=
  let add (on : Bool) (n code : Nat) (p : List (BitVec 15)) : List (BitVec 15) :=
    if on then upd p n fun x => x + BitVec.ofInt 15 (incOf b n code) else p
  let p := add z.wen z.wp z.winc (add z.yen z.yp z.yinc (add z.xen z.xp z.xinc b.p))
  if z.ctl = 5 then lput p (z.cimm / 2 ^ 18) (BitVec.ofNat 15 z.cimm) else p

/-- The next bundle after bundle `pc`, with the loops still open: a body's last bundle leads back to its first while
repetitions are left (R168). -/
def nextOf (pc : Nat) : List VecLoop → Nat × List VecLoop
  | [] => ((pc + 1) % 2048, [])
  | l :: r =>
    if pc = l.last then (if l.left > 0 then (l.first, { l with left := l.left - 1 } :: r) else nextOf pc r)
    else ((pc + 1) % 2048, l :: r)

/-- The next bundle and the open loops after a bundle with a valid slot 0. -/
def VSlot0.next (z : VSlot0) (b : VecBank) : Nat × List VecLoop :=
  let pc := b.pc.toNat
  let body (count : Nat) : Nat × List VecLoop :=
    ((pc + 1) % 2048, ⟨(pc + 1) % 2048, (pc + z.len) % 2048, count - 1⟩ :: b.loops)
  match z.ctl with
  | 1 => body (if z.cimm / 1024 = 0 then 2048 else z.cimm / 1024)
  | 2 =>
    let c := z.loopCount b
    if c = 0 then nextOf ((pc + z.len) % 2048) b.loops else body c
  | 3 => (z.cimm, b.loops)
  | _ => nextOf pc b.loops

/-- What the control operation does to the block-exponent state at the end of its cycle (R168, R185). -/
def VSlot0.blockExp (z : VSlot0) (b : VecBank) : VecBank :=
  match z.ctl with
  | 8 => { b with beAcc := BitVec.ofNat 4 z.cimm, bePrev := 15, beShift := 0, beTotal := 0 }
  | 9 =>
    let sh := z.cimm - b.beAcc.toNat
    { b with bePrev := b.beAcc, beShift := BitVec.ofNat 2 sh, beTotal := b.beTotal + BitVec.ofNat 8 sh, beAcc := 15 }
  | _ => b

/-- The registers after a bundle with a valid slot 0. -/
def VSlot0.apply (z : VSlot0) (b : VecBank) : VecBank :=
  let (pc, loops) := z.next b
  { b with
    p := z.pointers b
    k := if z.ctl = 6 then lput b.k (z.cimm / 2 ^ 18) (BitVec.ofNat 16 z.cimm) else b.k
    pc := BitVec.ofNat 11 pc, loops := loops, ended := b.ended || decide (z.ctl = 4) }

/-- The bundle after one with an invalid slot 0. -/
def VecBank.skip (b : VecBank) : VecBank :=
  let (pc, loops) := nextOf b.pc.toNat b.loops
  { b with pc := BitVec.ofNat 11 pc, loops := loops }

/-! ### Issue -/

/-- What slots 1 to 3 of a bundle do: each result with its slot, and the slots that are invalid; the LFSR steps once at
each .sr issue (R182). -/
structure VRun where
  lfsr : BitVec 32
  outs : List (Nat × VOut)
  bad : List Nat
  deriving DecidableEq, Repr

/-- Run the slots of `x` given as (number, first bit), in the order of their numbers: of two .sr slots of one bundle the
lower-numbered steps the LFSR first (log entry 107, the model's choice). -/
def runSlots (v : VecEngine) (u : Bool) (x : BitVec 256) : List (Nat × Nat) → VRun → VRun
  | [], a => a
  | (n, lo) :: r, a =>
    let raw := x.extractLsb' lo 64
    let sl := VSlot.ofBits raw
    let lf := if sl.sr then lfsrStep a.lfsr else a.lfsr
    let ctx : VCtx :=
      { v := v.vreg u, accVis := v.areg u, accNew := v.accNew u, shift := (v.bk u).beShift.toNat, lfsr := lf, raw := raw }
    match runSlot n sl ctx with
    | none => runSlots v u x r { a with bad := a.bad ++ [n] }
    | some o => runSlots v u x r { a with lfsr := lf, outs := a.outs ++ [(n, o)] }

/-- The register that a result writes is one that the two banks share (R192). -/
def VRes.shared (r : VRes) : Bool := if r.acc then decide (r.dst < 2) else decide (r.dst < 24)

/-- A result of slot `n` on its way; lanes with no stated result take a free value, and so does every lane of a shared register
that an urgent program writes, which it must not (R17, R192, log entry 84). -/
def pushRes (t : Nat) (u : Bool) (bundle lat n : Nat) (s : State) (r : VRes) : State :=
  let free := if u && r.shared then r.mask else r.free
  let (fv, s1) := if free = 0 then ((0 : BitVec 2304), s) else s.draw 2304
  let fr := BitVec.ofNat 2304 free
  s1.updVec t fun v =>
    { v with
      flight := v.flight ++ [{
        due := v.cycle + lat - 1, seq := 4 * v.seq + n, slot := n, bundle := bundle, urgent := u, acc := r.acc, dst := r.dst
        mask := BitVec.ofNat 2304 r.mask, val := blend fr fv (BitVec.ofNat 2304 r.val) }] }

/-- An operation's results and flags. -/
def pushOut (t : Nat) (u : Bool) (bundle : Nat) (s : State) (o : Nat × VOut) : State :=
  let s1 := s.updVec t fun v =>
    { v with sat := v.sat || o.2.sat, accSat := v.accSat || o.2.accSat, now := (v.now.note 8 o.2.sat).note 9 o.2.accSat }
  o.2.res.foldl (pushRes t u bundle o.2.lat o.1) s1

/-- A port's read of course `c` into v`dst` (R173, R60): its data on the way, and whether a word was in error. -/
def portRead (t : Nat) (u : Bool) (bundle c dst : Nat) (s : State) : State × Bool :=
  let x := (s.tile t).ts.readCourse c
  let s1 := (s.updTs t fun ts => ts.countOff x.off).tsPerr t c x.bad 0
  (pushRes t u bundle 2 0 s1 { acc := false, dst := dst, mask := ones 1024, val := x.data, free := 0 }, !x.bad.isEmpty)

/-- The cycle that a port lost because its course lay in the other group (R42): one cycle of bank-conflict slip. -/
def crossGroup (z : VSlot0) (b : VecBank) : Nat :=
  let x := z.xen && decide ((b.p.getD z.xp 0).toNat ≥ 16384)
  let y := z.yen && decide ((b.p.getD z.yp 0).toNat < 16384)
  if x || y then 1 else 0

/-- The accesses of a bundle lie within the current command's ranges and the step's (R32, R176). -/
def accessOk (r : StepRun) (rs : List Range) (z : VSlot0) (b : VecBank) : Bool :=
  let ok (on : Bool) (p : Nat) (w : Bool) : Bool :=
    !on || (inRanges rs (b.p.getD p 0).toNat w && inStep r (b.p.getD p 0).toNat w)
  ok z.xen z.xp false && ok z.yen z.yp false && ok z.wen z.wp true

/-- The bundle issues: `rs` are the ranges of the command it belongs to, and `ok0` says that slot 0 is valid. -/
def issueBundle (t : Nat) (u : Bool) (x : BitVec 256) (z : VSlot0) (ok0 : Bool) (rs : List Range) (r : StepRun)
    (s : State) : Out :=
  let v := (s.tile t).vec
  let b := v.bk u
  let pc := b.pc.toNat
  let run := runSlots v u x [(1, 128), (2, 64), (3, 0)] { lfsr := b.lfsr, outs := [], bad := [] }
  if ok0 && !accessOk r rs z b then .next (stepFault t u stRange s)
  else
    let wdata := v.vreg u z.wsrc
    let (s1, bx) := if ok0 && z.xen then portRead t u pc (b.p.getD z.xp 0).toNat z.xdst s else (s, false)
    let (s2, bY) := if ok0 && z.yen then portRead t u pc (b.p.getD z.yp 0).toNat z.ydst s1 else (s1, false)
    if bx || bY then .next (stepFault t u stParity s2)
    else
      let s3 := if ok0 && z.wen then s2.updTs t fun ts => ts.writeCourse (b.p.getD z.wp 0).toNat wdata false else s2
      let s4 := run.outs.foldl (pushOut t u pc) s3
      let s5 := if ok0 then s4 else vecIllegal t pc 0 s4
      let s6 := run.bad.foldl (fun s n => vecIllegal t pc n s) s5
      let s7 := s6.updVec t fun v =>
        let w := { v with seq := v.seq + 1 }
        w.updBk u fun b =>
          let b1 := { b with lfsr := run.lfsr, ranges := rs }
          if ok0 then z.apply b1 else b1.skip
      let s8 := if ok0 && decide (z.ctl = 4) then s7.updTs t fun ts => ts.retire 0 u rs else s7
      .next (endCycle t u (run.outs.filterMap fun o => o.2.be) (if ok0 then z.blockExp else id) s8)

/-- VEC_BUNDLE_ISSUE (R164 to R177): the selected bank issues its next bundle, unless a switch-in is due.  A SEG whose
ranges cannot take their entries stays held at issue. -/
def execVecBundleIssue (tile : Nat) (held : Held) (s : State) : Out :=
  let v := (s.tile tile).vec
  let u := v.bank
  let b := v.bk u
  match s.run tile u with
  | none => .next s
  | some r =>
    if !s.tileLive tile || !b.run || b.ended || (!u && v.bankU.run) then .next s
    else
      let pc := b.pc.toNat
      let x := v.bundle pc
      let z := VSlot0.ofBits (x.extractLsb' 192 64)
      let okc := z.portsOk && z.ctlOk b
      let seg := decide (z.ctl = 7)
      let fetchBad := v.bundleBad pc || (seg && okc && v.bundleBad z.cimm)
      if fetchBad then .next (stepFault tile u stParity (charge tile u false held s))
      else
        let rec? := if seg && okc then rangeRecord (v.bundle z.cimm) else none
        let ok0 := okc && (!seg || rec?.isSome)
        let rs := if seg then rec?.getD [] else b.ranges
        if seg && !(s.tile tile).ts.mayIssue 0 u rs then .next (setHeld tile 0 u true s)
        else
          let s1 := charge tile u false
            { held with bank := held.bank + (if ok0 then crossGroup z b else 0) } (setHeld tile 0 u false s)
          let s2 := if seg then s1.updTs tile fun ts => (ts.issue 0 u rs).retire 0 u b.ranges else s1
          issueBundle tile u x z ok0 rs r s2

/-- VEC_RESULT_LAND (R171, R177): one engine cycle in which no bundle issues, because END has issued or a SEG is held,
and results in flight advance and land. Once an urgent program has started they move into drain latches instead, at the switch-in
(R193). -/
def execVecResultLand (tile : Nat) (s : State) : Out :=
  let v := (s.tile tile).vec
  let b := v.bk v.bank
  if s.tileLive tile && b.run && (b.ended || bit ((s.tile tile).ts.heldOf v.bank) 0) && (v.bank || !v.bankU.run) then
    .next (endCycle tile v.bank [] id s)
  else .next s

/-- VEC_SWITCH_IN (R193, R195): results of the normal bank still in flight move to drain latches with their distance,
and the urgent bank is selected. -/
def execVecSwitchIn (tile : Nat) (s : State) : Out :=
  let v := (s.tile tile).vec
  if s.tileLive tile && !v.bank && v.bankU.run && v.bankN.run then
    .next (setHeld tile 0 false false (s.updVec tile fun v =>
      { v with
        latches := v.flight.map fun r => { r with due := r.due - (v.cycle - 1) }
        flight := [], bank := true, preempted := true, switchCnt := satAdd32 v.switchCnt 1 }))
  else .next s

/-- VEC_SWITCH_OUT (R194): the urgent program is complete; the normal bank is selected again, and each latched result
lands at its distance. -/
def execVecSwitchOut (tile : Nat) (s : State) : Out :=
  let v := (s.tile tile).vec
  if s.tileLive tile && v.bank && v.preempted && !v.bankU.run then
    .next (s.updVec tile fun v =>
      { v with
        flight := v.flight ++ v.latches.map fun r => { r with due := v.cycle + r.due - 1 }
        latches := [], bank := false, preempted := false })
  else .next s

/-! ### Program RAM and registers -/

/-- Bytes written into program RAM at byte `a`: a word written whole gets correct parity (R164). -/
def vpramPut (a : Nat) (bs : List (BitVec 8)) (v : VecEngine) : VecEngine :=
  let mem := bs.zipIdx.foldl (fun m (b, i) =>
    let w := (a + i) / 4
    sset (fun _ => (0 : BitVec 32)) m w (setFld (sget (fun _ => 0) m w) (8 * ((a + i) % 4)) 8 b.toNat)) v.vpram
  let whole := (List.range bs.length).filter fun i => (a + i) % 4 = 0 && decide (i + 4 ≤ bs.length)
  { v with vpram := mem, vpramBad := whole.foldl (fun m i => sset (fun _ => false) m ((a + i) / 4) false) v.vpramBad }

/-- HOST_VPRAM_WRITE (R164, R527): performed also while a step uses the engine. -/
def execHostVpramWrite (tile addr : Nat) (data : HostBytes) (s : State) : Out :=
  .next (if tile < 16 && addr + data.bytes.length ≤ 0x10000 then
    hostWrite data.ep (regWrite .host (.tile tile) .yes fun z =>
      if data.bad then countMorPerr z else z.updVec tile (vpramPut addr data.bytes)) s
  else s)

/-- A write of VEC_CNT_CLR. -/
def vecCntClr (v : BitVec 32) (e : VecEngine) : VecEngine :=
  { e with switchCnt := if bit v 0 then 0 else e.switchCnt, now := e.now.zeroed v }

/-- The counters as they read: events of the cycle in which they were cleared are not counted (R71, R198). -/
def VecEngine.settle (e : VecEngine) : VecEngine := vecCntClr e.now.clr e

/-- VEC_CNT_CLR (R197). -/
def execVecCntClr (who : Who) (tile : Nat) (value : BitVec 32) (s : State) : Out :=
  .next (if tile < 16 then regWrite who (.tile tile) .yes (fun z => z.updVec tile (vecCntClr value)) s else s)

/-- A write of VEC_STATUS: a 1 clears SAT, ACC_SAT, WCOLL or ILLEGAL, unless an event of the same cycle sets it (R198). -/
def vecStatusWrite (w : BitVec 32) (e : VecEngine) : VecEngine :=
  { e with
    sat := e.sat && e.now.keeps w 8, accSat := e.accSat && e.now.keeps w 9, wcoll := e.wcoll && e.now.keeps w 10
    illegal := e.illegal && e.now.keeps w 11 }

/-- A write of VEC_ERR: a 1 clears VALID. -/
def vecErrWrite (w : BitVec 32) (e : VecEngine) : VecEngine := { e with err := e.now.errAfter (bit w 31) 31 e.err }

/-- A write of VEC_LFSR[b]: 0 is stored as 1. -/
def vecLfsrWrite (u : Bool) (w : BitVec 32) (e : VecEngine) : VecEngine :=
  e.updBk u fun b => { b with lfsr := if w = 0 then 1 else w }

/-- VEC_BE of a bank. -/
def VecBank.beWord (b : VecBank) : Nat :=
  b.beAcc.toNat + 16 * b.bePrev.toNat + 256 * b.beShift.toNat + 65536 * b.beTotal.toNat

/-- VEC_STATUS.SWITCHING (R193, R194, R197): the urgent program waits for the normal one to be switched out, or has completed
and the normal one has still to be switched in again. -/
def VecEngine.switching (v : VecEngine) : Bool :=
  (!v.bank && v.bankU.run && v.bankN.run) || (v.bank && v.preempted && !v.bankU.run)

/-- The VEC_ register at offset `o` (R197): its value and its width in bytes. -/
def VecEngine.readReg (v : VecEngine) (o : Nat) : Option (Nat × Nat) :=
  match o with
  | 0x000 =>
    some (b2n (v.bankN.run || v.bankU.run) + 2 * b2n v.bank + 4 * b2n v.switching + 8 * b2n v.preempted + 256 * b2n v.sat + 512 * b2n v.accSat
      + 1024 * b2n v.wcoll + 2048 * b2n v.illegal, 4)
  | 0x004 => some (v.bankN.pc.toNat + 65536 * v.bankU.pc.toNat, 4)
  | 0x008 => some (v.err.toNat, 4)
  | 0x00C => some (v.bankN.beWord, 4)
  | 0x010 => some (v.bankU.beWord, 4)
  | 0x014 => some (v.bankN.lfsr.toNat, 4)
  | 0x018 => some (v.bankU.lfsr.toNat, 4)
  | 0x01C => some (v.switchCnt.toNat, 4)
  | 0x020 => some (0, 4)
  | _ => none

end Sys2Proof.Machine
end

