-- ==== Sys2Proof/Machine/StepQueue.lean ====
section
/-! DEFINITION. The command queues of a tile's engines: passing an entry of the command list to its engine, issue under
the range scoreboard, and beginning and retiring a command (R31, R51 to R57, R237, R239, R243). -/

namespace Sys2Proof.Machine

/-- The queue of engine `e`, numbered as the ENGINE_MASK bits (R27). -/
def engQ (e : Nat) (x : Tile) : List EngCmd :=
  match e with
  | 1 => x.arr.queue
  | 2 => x.sce.queue
  | 3 => x.drn.queue
  | 4 => x.hp.queue
  | 5 => x.ms.queue
  | _ => []

/-- Replace it. -/
def setEngQ (e : Nat) (q : List EngCmd) (x : Tile) : Tile :=
  match e with
  | 1 => { x with arr := { x.arr with queue := q } }
  | 2 => { x with sce := { x.sce with queue := q } }
  | 3 => { x with drn := { x.drn with queue := q } }
  | 4 => { x with hp := { x.hp with queue := q } }
  | 5 => { x with ms := { x.ms with queue := q } }
  | _ => x

/-- Change it. -/
def State.updQ (s : State) (t e : Nat) (f : List EngCmd → List EngCmd) : State :=
  s.updTile t fun x => setEngQ e (f (engQ e x)) x

/-- Change the first element that satisfies `p`. -/
def mapFirst {α : Type} (p : α → Bool) (f : α → α) : List α → List α
  | [] => []
  | x :: r => if p x then f x :: r else x :: mapFirst p f r

/-- The command that an array, small-channel or drain queue holds waiting: the drain's pair has not begun (R31). -/
def pairWaits (x : Tile) (c : EngCmd) : Bool :=
  let q := match c.pair with
    | some p => if eType p = 4 then x.sce.queue else x.arr.queue
    | none => []
  q.any fun a => a.urgent == c.urgent && decide (a.index = c.pairAt) && !a.begun

/-- The order in which engines take commands (R31, R243): a command in execution, and a drain whose pair is, come first;
then the urgent step's, then the normal step's. -/
def cmdKey (x : Tile) (c : EngCmd) : Nat :=
  if c.begun || (eType c.raw = 2 && !c.urgent && !pairWaits x c) then 0 else if c.urgent then 1 else 2

/-- Insert a command: behind every command of its own step, which an engine executes in list order (R318), and then behind the
other step's commands of its rank or a lower one (R31, R243). -/
def enqueue (x : Tile) (c : EngCmd) (q : List EngCmd) : List EngCmd :=
  let n := q.length - (q.reverse.findIdx fun a => a.urgent == c.urgent)
  let rest := q.drop n
  let k := (rest.findIdx? fun a => decide (cmdKey x c < cmdKey x a)).getD rest.length
  q.take n ++ rest.take k ++ [c] ++ rest.drop k

/-- The ranges that a command's issue takes (R51); with a WINDOW, its range 0 and the array command's ranges 1 and 2
(R265); those of a SEND or MSEND are its own. -/
def issueRanges (c : EngCmd) : List Range :=
  match c.win with
  | some w => (cmdRanges w).take 1 ++ ([0x30, 0x38].filter fun b => hasRange c.raw b).map (cmdRange c.raw)
  | none => cmdRanges c.raw

/-- A normal command waits while an urgent step is in progress, but for a drain whose pair is in execution (R31). -/
def mayTake (s : State) (t : Nat) (c : EngCmd) : Bool :=
  c.urgent || (s.run t true).isNone || (eType c.raw = 2 && !pairWaits (s.tile t) c)

/-- The command of an engine that is at issue: checked, and the first that has not issued. -/
def atIssue (s : State) (t e : Nat) : Option EngCmd :=
  match (engQ e (s.tile t)).find? fun c => !c.issued with
  | some c => if c.checked && mayTake s t c then some c else none
  | none => none

/-- The ranges that an engine would take, were its command at issue to issue now. -/
def wantRanges (s : State) (t e : Nat) : Option (Bool × List Range) :=
  match atIssue s t e with
  | some c => if (s.tile t).ts.mayIssue e c.urgent (issueRanges c) then some (c.urgent, issueRanges c) else none
  | none => none

/-- The ranges of a SEG that the vector engine holds at issue (R55, R175). -/
def segWant (s : State) (t : Nat) : Option (Bool × List Range) :=
  let v := (s.tile t).vec
  let u := v.bank
  if bit ((s.tile t).ts.heldOf u) 0 then
    let z := VSlot0.ofBits ((v.bundle (v.bk u).pc.toNat).extractLsb' 192 64)
    (rangeRecord (v.bundle z.cimm)).map fun rs => (u, rs)
  else none

/-- The scoreboard with the commands of lower-numbered engines, which are taken first (R55), issued. -/
def lowerIssued (s : State) (t : Nat) : Nat → TileStore
  | 0 => (s.tile t).ts
  | e + 1 =>
    let ts := lowerIssued s t e
    match if e = 0 then segWant s t else wantRanges s t e with
    | some (u, rs) => if ts.mayIssue e u rs then ts.issue e u rs else ts
    | none => ts

/-- The command at issue at engine `e` issues if the scoreboard lets it, in the order of R55, and takes its entries; else
it is held (R53). -/
def tryIssue (t e : Nat) (s : State) : State :=
  match atIssue s t e with
  | none => s
  | some c =>
    let rs := issueRanges c
    if (s.tile t).ts.mayIssue e c.urgent rs && (lowerIssued s t e).mayIssue e c.urgent rs then
      setHeld t e c.urgent false ((s.updTs t fun ts => ts.issue e c.urgent rs).updQ t e (mapFirst (fun c => !c.issued) fun c => { c with issued := true }))
    else setHeld t e c.urgent true s

/-- The command at an engine's turn: the first, issued, and begun or allowed to begin. -/
def engHead (s : State) (t e : Nat) : Option EngCmd :=
  match engQ e (s.tile t) with
  | c :: _ => if c.issued && (c.begun || mayTake s t c) then some c else none
  | [] => none

/-- The first command of a queue is in execution from now on. -/
def beginCmd (t e : Nat) (s : State) : State :=
  s.updQ t e fun q => match q with
    | c :: r => { c with begun := true } :: r
    | [] => []

/-- An engine's first command leaves its queue. -/
def popCmd (t e : Nat) (s : State) : State := s.updQ t e (·.drop 1)

/-- Ranges of a command's entries retire (R54). -/
def retireRanges (t e : Nat) (u : Bool) (rs : List Range) (s : State) : State := s.updTs t fun ts => ts.retire e u rs

/-- A malformed command ends the step with STEP_RANGE (R239). -/
def malformed (t : Nat) (u : Bool) (s : State) : State := endStep t u stRange s

/-- The command that an engine has to check next: the first unissued one, not yet checked. -/
def toCheck (s : State) (t e : Nat) : Option EngCmd :=
  match (engQ e (s.tile t)).find? fun c => !c.issued with
  | some c => if !c.checked && mayTake s t c then some c else none
  | none => none

/-- That command has passed its check. -/
def markChecked (t e : Nat) (s : State) : State := s.updQ t e (mapFirst (fun c => !c.issued) fun c => { c with checked := true })

/-! ### Looking at the list around an entry -/

/-- Entry `i` of a step's list. -/
def entryAt (s : State) (t : Nat) (u : Bool) (i : Nat) : Option (BitVec 512) :=
  match s.run t u with
  | some r => (listEntry s t (dList r.desc + 64 * i)).map (·.raw)
  | none => none

/-- The first array, drain or small-channel entry after entry `i`, up to the end entry. -/
def nextUnit (s : State) (t : Nat) (u : Bool) : Nat → Nat → Option (BitVec 512)
  | 0, _ => none
  | fuel + 1, i =>
    match entryAt s t u (i + 1) with
    | none => none
    | some e =>
      if eType e = 0 then none
      else if eType e = 1 || eType e = 2 || eType e = 4 then some e
      else nextUnit s t u fuel (i + 1)

/-- The nearest array, drain or small-channel entry before entry `i`, with its index. -/
def prevUnit (s : State) (t : Nat) (u : Bool) : Nat → Option (Nat × BitVec 512)
  | 0 => none
  | i + 1 =>
    match entryAt s t u i with
    | none => none
    | some e => if eType e = 1 || eType e = 2 || eType e = 4 then some (i, e) else prevUnit s t u i

/-- The WINDOW entry just before entry `i`, if there is one (R263). -/
def windowBefore (s : State) (t : Nat) (u : Bool) : Nat → Option (BitVec 512)
  | 0 => none
  | i + 1 =>
    match entryAt s t u i with
    | some e => if eType e = 3 then some e else none
    | none => none

/-- Entry `i` as a command on its way to its engine. -/
def cmdOf (s : State) (t : Nat) (u : Bool) (i : Nat) (e : BitVec 512) : EngCmd :=
  let pr := if eType e = 2 then prevUnit s t u i else none
  { raw := e, win := if eType e = 1 then windowBefore s t u i else none
    pair := pr.map (·.2), pairWin := match pr with
      | some (j, p) => if eType p = 1 then windowBefore s t u j else none
      | none => none
    index := i, pairAt := (pr.map (·.1)).getD 0, urgent := u, checked := false, issued := false, begun := false, read := false }

/-- The engine of an entry's type (R27, R237): WINDOW and array entries 1, small-channel 2, drain 3, HOD 4, MSEND 5. -/
def engOf (e : BitVec 512) : Nat :=
  match eType e with
  | 1 | 3 => 1
  | 2 => 3
  | 4 => 2
  | 5 => 4
  | _ => 5

/-- The case of an engine bit that is 0, in the register that records that engine's malformed commands (R237). -/
def engBitErr (t e index : Nat) (s : State) : State :=
  match e with
  | 1 => arrErr t 1 0 index s
  | 2 => sceErr t 1 index s
  | 3 => arrErr t 1 1 index s
  | 4 => hodErr t 1 index s
  | _ => arrErr t 1 2 index s

/-- The list moves on to its next entry. -/
def advanceList (t : Nat) (u : Bool) (s : State) : State := s.updRun t u fun r => { r with listAt := r.listAt + 64 }

/-- The step waits for its invalidation (R350). -/
def invalWaits (s : State) (t : Nat) (u : Bool) : Bool :=
  match s.sc.inval with
  | some i => i.tile == some t && i.urgent == u
  | none => false

/-- What the list's next entry is: nothing to pass, an ending of the step, or an entry of the types that tile commands
outside the engines take (7 to 0x0A). -/
def nextEntry (s : State) (t : Nat) (u : Bool) : Option (StepRun × ListEntry) :=
  match s.run t u with
  | some r =>
    if s.tileLive t && !r.listDone && r.final.isNone && r.scan.isNone && !invalWaits s t u then
      (listEntry s t r.listAt).map fun e => (r, e)
    else none
  | none => none

/-- A list entry of a unit outside the tile (STREAM, TAKE, DOORBELL, POST) that is next, free of parity errors. -/
def outerEntry (s : State) (t : Nat) (u : Bool) (type : Nat) : Option (StepRun × BitVec 512) :=
  match nextEntry s t u with
  | some (r, e) => if !e.bad && decide (eType e.raw = type) then some (r, e.raw) else none
  | none => none

/-- Every earlier command of the list has retired (R373). -/
def earlierRetired (s : State) (t : Nat) (u : Bool) : Bool :=
  let x := s.tile t
  !hasOf u x.arr.queue && !hasOf u x.drn.queue && !hasOf u x.sce.queue && !hasOf u x.hp.queue && !hasOf u x.ms.queue

/-- An entry of the types 8 to 0x0A that is next and may execute now (R373, R412). -/
def ownEntry (s : State) (t : Nat) (u : Bool) (type : Nat) : Option (StepRun × BitVec 512) :=
  if earlierRetired s t u then outerEntry s t u type else none

end Sys2Proof.Machine
end

