-- ==== Sys2Proof/Machine/ArrayOps.lean ====
section
/-! DEFINITION. The matrix array's commands: their fields and checks, operand layouts, expansion and exact column sums
(R221 to R239, R258 to R271). -/

namespace Sys2Proof.Machine

/-! ### Fields (R238) -/

/-- OP. -/
def aOp (e : BitVec 512) : Nat := fld e 8 8
/-- MODE: 0 REAL, 1 COMPLEX, 2 SPLIT4, 3 FLOAT16. -/
def aMode (e : BitVec 512) : Nat := fld e 16 2
/-- STAT_SRC. -/
def aStat (e : BitVec 512) : Bool := bit e 18
/-- TRANSPOSE. -/
def aTr (e : BitVec 512) : Bool := bit e 19
/-- CONJ. -/
def aConj (e : BitVec 512) : Bool := bit e 20
/-- S_CODE. -/
def aSCode (e : BitVec 512) : Nat := fld e 32 4
/-- S_SFMT. -/
def aSFmt (e : BitVec 512) : Nat := fld e 36 2
/-- S_SKIND. -/
def aSKind (e : BitVec 512) : Nat := fld e 38 2
/-- S_G. -/
def aSG (e : BitVec 512) : Nat := fld e 40 2
/-- X_CODE. -/
def aXCode (e : BitVec 512) : Nat := fld e 48 4
/-- X_SFMT. -/
def aXFmt (e : BitVec 512) : Nat := fld e 52 2
/-- X_SKIND. -/
def aXKind (e : BitVec 512) : Nat := fld e 54 2
/-- X_G. -/
def aXG (e : BitVec 512) : Nat := fld e 56 2
/-- M. -/
def aM (e : BitVec 512) : Nat := fld e 64 16
/-- K. -/
def aK (e : BitVec 512) : Nat := fld e 80 16
/-- WSTREAM. -/
def aWs (e : BitVec 512) : Nat := fld e 96 6
/-- SSTREAM. -/
def aSs (e : BitVec 512) : Nat := fld e 104 6
/-- TAG0. -/
def aTag0 (e : BitVec 512) : BitVec 16 := e.extractLsb' 112 16
/-- S_BOFF. -/
def aBoff (e : BitVec 512) : Nat := fld e 256 1
/-- XSCALE. -/
def aXScale (e : BitVec 512) : Nat := fld e 288 16
/-- SSCALE. -/
def aSScale (e : BitVec 512) : Nat := fld e 304 16

/-- A group size: 32, 64 or 128. -/
def groupSize (g : Nat) : Nat := 32 * 2 ^ g

/-- D, the reduction length of a slice (R222). -/
def aD (e : BitVec 512) : Nat := match aMode e with | 1 => 32 | 2 => 128 | _ => 64

/-- Slices of a command. -/
def aSlices (e : BitVec 512) : Nat := (aK e + aD e - 1) / aD e

/-- Row blocks of a command. -/
def aBlocks (e : BitVec 512) : Nat := (aM e + 63) / 64

/-- Rows of row block `b`. -/
def aRows (e : BitVec 512) (b : Nat) : Nat := min 64 (aM e - 64 * b)

/-- Bits of a code; 16 in FLOAT16. -/
def codeBits (e : BitVec 512) (code : Nat) : Nat :=
  if aMode e = 3 then 16 else ((Code.ofField code).map Code.bits).getD 8

/-- MAP of a WINDOW: 0 UNFOLD, 1 GROUPED, 2 DIAG8. -/
def wMap (w : BitVec 512) : Nat := fld w 8 2
/-- GW. -/
def wGw (w : BitVec 512) : Nat := fld w 12 2
/-- PIX2. -/
def wPix2 (w : BitVec 512) : Bool := bit w 14
/-- CS. -/
def wCs (w : BitVec 512) : Nat := fld w 15 3

/-- The command is fed by a WINDOW with MAP = DIAG8. -/
def isDiag (win : Option (BitVec 512)) : Bool := match win with | some w => wMap w == 2 | none => false

/-- Taps of a window. -/
def Geom.taps (g : Geom) : Nat := g.kh * g.kw

/-- Runs of an output row under DIAG8 (R269). -/
def Geom.runsPerRow (g : Geom) : Nat := (g.ow.toNat + 7) / 8

/-- Passes of DIAG8. -/
def Geom.passes (g : Geom) : Nat := (g.taps + 7) / 8

/-! ### Checks of an array command (R239, R256) -/

/-- The fields of R238. -/
def arrFields : List (Nat × Nat) :=
  [(0, 8), (8, 8), (16, 5), (32, 4), (36, 2), (38, 2), (40, 2), (48, 4), (52, 2), (54, 2), (56, 2), (64, 32), (96, 6), (104, 6), (112, 16)]
    ++ [(128, 15), (144, 16), (160, 15), (176, 16), (192, 15), (208, 16), (224, 15), (240, 16), (256, 1), (288, 32), (320, 192)]

/-- The code is one that mode `m` accepts (R223, R224, R226). -/
def codeOk (m code : Nat) : Bool :=
  match m with
  | 0 => code = 0 || code = 1 || code = 4 || code = 5 || code = 6
  | 1 => code = 0 || code = 4 || code = 5
  | 2 => code = 2 || code = 3 || code = 7
  | _ => code ≤ 1

/-- The causes of R239 for a command that is MATMUL or SUMW, but for the drain pairing: none when it is well-formed.
`zp` says that the following drain has ZP_EN = 1. -/
def arrCause (e : BitVec 512) (zp : Bool) : Option Nat :=
  let m := aMode e
  let op := aOp e
  let res := strayBits e arrFields || badRange e 0x28 || badRange e 0x30 || !zeroRange e 0x38
    || (op = 1 && (hasRange e 0x28 || hasRange e 0x30))
  if res then some 7
  else if op ≥ 2 || !codeOk m (aSCode e) || !codeOk m (aXCode e) then some 2
  else if aSFmt e = 3 || aXFmt e = 3 || aSG e = 3 || aXG e = 3 then some 3
  else if m = 2 && ((aSFmt e ≠ 0 && aSKind e ≠ 3) || (aXFmt e ≠ 0 && aXKind e ≠ 3)) then some 2
  else if aStat e && (m = 1 || m = 2 || op = 1) then some 2
  else if aTr e && (m = 1 || m = 2 || aStat e || aK e > 64) then some 2
  else if aConj e && m ≠ 1 then some 2
  else if m = 3 && aBoff e ≠ 0 then some 2
  else if m = 3 && (aSKind e ≠ 3 || aXKind e ≠ 3) then some 3
  else if aXKind e = 1 || (aSKind e = 1 && aStat e) then some 3
  else if (aSKind e = 0 && aSFmt e = 2) || (aXKind e = 0 && aXFmt e = 2) then some 3
  else if op = 1 && aXKind e ≠ 3 then some 3
  else if aM e = 0 || aK e = 0 || (op = 1 && aM e ≠ 1) then some 4
  else if aStat e && (aWs e ≠ 0 || aSs e ≠ 0) then some 4
  else if !aStat e && aSKind e ≥ 2 && !zp && aSs e ≠ 0 then some 4
  else none

/-! ### Checks of a WINDOW (R263 to R270) -/

/-- The fields of R263. -/
def winFields : List (Nat × Nat) := [(0, 8), (8, 10), (32, 32), (64, 24), (96, 16), (128, 15), (144, 16), (160, 16), (320, 64)]

/-- Bytes of a slice (R264). -/
def sliceBytes (e : BitVec 512) : Nat := if aMode e = 3 then 128 else 64

/-- The pixel under output (oy, ox) and tap t, mapped by the pad mode: none for a pad position of ZERO (R258, R261). -/
def mapCoord (pad h : Nat) (y : Int) : Option Nat :=
  if 0 ≤ y && y < h then some y.toNat
  else if pad = 1 then some (if y < 0 then 0 else h - 1)
  else if pad = 2 then some (if y < 0 then (-y).toNat else (2 * ((h : Int) - 1) - y).toNat)
  else none

/-- The pixel under tap `t` of output pixel (oy, ox). -/
def Geom.pixel (g : Geom) (oy ox t : Nat) : Option (Nat × Nat) :=
  let y : Int := (oy * g.sh : Nat) - (g.ph : Int) + ((t / g.kw) * g.dh : Nat)
  let x : Int := (ox * g.sw : Nat) - (g.pw : Int) + ((t % g.kw) * g.dw : Nat)
  match mapCoord g.pad g.h y, mapCoord g.pad g.w x with
  | some a, some b => some (a, b)
  | _, _ => none

/-- The first course of a pixel (R264). -/
def Geom.course (g : Geom) (p : Nat × Nat) : Nat := (g.start + p.1 * g.ys + p.2 * g.xs) % 32768

/-- Insert in ascending raster order without repeats. -/
def insertPix (p : Nat × Nat) : List (Nat × Nat) → List (Nat × Nat)
  | [] => [p]
  | q :: r => if p = q then q :: r else if p.1 < q.1 || (p.1 = q.1 && p.2 < q.2) then p :: q :: r else q :: insertPix p r

/-- The footprint of row block `b` of a DIAG8 command: every in-image pixel under a tap of an output pixel of its runs,
in raster order (R272). -/
def footprint (e : BitVec 512) (g : Geom) (b : Nat) : List (Nat × Nat) :=
  let runs := (List.range (aRows e b)).map fun i => 64 * b + i
  let outs := runs.flatMap fun m =>
    let oy := m / g.runsPerRow
    let x0 := 8 * (m % g.runsPerRow)
    ((List.range 8).filter fun j => decide (x0 + j < g.ow.toNat)).map fun j => (oy, x0 + j)
  let pix := outs.flatMap fun o => (List.range g.taps).filterMap fun t => g.pixel o.1 o.2 t
  pix.foldl (fun l p => insertPix p l) []

/-- The causes of R267 for a WINDOW and the array command that follows it (none when the entry is missing). -/
def winCause (w : BitVec 512) (next : Option (BitVec 512)) : Option Nat :=
  let g := Geom.ofEntry w
  let map := wMap w
  if strayBits w winFields || badRange w 0x28 || !zeroRange w 0x30 || !zeroRange w 0x38 || map = 3 || g.pad = 3
      || (map = 1 && wGw w = 3) || (map ≠ 1 && wGw w ≠ 0) then some 7
  else if g.zeroField || g.h = 0 || g.w = 0 || wCs w = 0 || wCs w > 4 then some 4
  else
    match next with
    | none => some 4
    | some e =>
      if eType e ≠ 1 || aOp e ≠ 0 then some 4
      else
        let m := aMode e
        let d8 := map = 2
        let codes8 (c : Nat) : Bool := c = 0 || c = 1 || c = 4 || c = 5
        if map = 1 && ((m ≠ 0 && m ≠ 3) || aStat e) then some 2
        else if d8 && (m ≠ 0 || aStat e || !codes8 (aSCode e) || !codes8 (aXCode e)) then some 2
        else if aXKind e < 2 || (d8 && aSKind e = 0) then some 3
        else if map = 1 && (wCs w ≠ 1 || aTr e) then some 4
        else if d8 && (wCs w ≠ 1 || wPix2 w || aTr e) then some 4
        else if wCs w * sliceBytes e > (if wPix2 w then 256 else 128) then some 4
        else if fld e 128 64 ≠ 0 || hasRange e 0x28 then some 4
        else if d8 then
          if g.taps > 64 || (aM e : Int) ≠ g.oh * g.runsPerRow || aK e ≠ g.taps then some 4
          else if (List.range (aBlocks e)).any fun b => decide ((footprint e g b).length > 512) then some 4
          else none
        else if (aM e : Int) ≠ g.oh * g.ow || aK e ≠ g.taps * wCs w * aD e then some 4
        else none

/-! ### Codes of a slice (R226, R231) -/

/-- The codes that a slice of `bits` (a 64 B slice, or a 128 B one) holds in mode `m`: 64 of them, 128 in SPLIT4. -/
def sliceCodes {n : Nat} (m cb : Nat) (x : BitVec n) : List Nat :=
  match m with
  | 2 => (List.range 128).map fun j => fld x (4 * j) 4
  | 3 => (List.range 64).map fun j => fld x (16 * j) 16
  | _ => if cb = 6 then (List.range 64).map fun j => fld x (6 * j) 6 else (List.range 64).map fun j => fld x (8 * j) 8

/-- The reduction index of the r-th code of slice `s`: complex elements have two codes each. -/
def kOf (e : BitVec 512) (s r : Nat) : Nat := s * aD e + (if aMode e = 1 then r / 2 else r)

/-- The group of reduction index `k` under group-size field `g` (R207). -/
def groupOf (g k : Nat) : Nat := k / groupSize g

/-- The value of a scale word in format field `f`. -/
def scaleVal (f w : Nat) : FV := match ScaleFmt.ofField f with | some sf => sf.value w | none => FV.ofInt 1

/-- An operand of the array as its cells take it: the ZF16 word of a code with its scale word (none: scale 1), or in
FLOAT16 the value itself; and whether SCALE_SAT is set (R205, R230). -/
def operand (e : BitVec 512) (code sfmt : Nat) (word : Option Nat) (x : Nat) : BitVec 16 × Bool :=
  if aMode e = 3 then (BitVec.ofNat 16 x, false)
  else
    match Code.ofField code with
    | some c => expandCode c x (match word with | some w => scaleVal sfmt w | none => FV.ofInt 1)
    | none => (0, false)

/-- The exact product of two cell words as an integer multiple of 2^−80 (R204). -/
def zfProduct (a b : BitVec 16) : Int :=
  let (m, p) := zf16Val a.toNat
  let (n, q) := zf16Val b.toNat
  m * n * ((2 ^ (p + q + 80).toNat : Nat) : Int)

/-- A 16-bit float operand of FLOAT16: FP16 for code 0, with subnormals exact; BF16 for code 1, subnormals flushed
(R224). -/
def halfValue (code : Nat) (x : BitVec 16) : FV :=
  if code = 0 then fmtF16.decode false x.toNat else fmtBf16.decode true x.toNat

/-- The exact sum of values as an extended real: a NaN, or infinities of both signs, give NaN. -/
def exactSum (l : List FV) : XReal :=
  match l.foldl FV.add (.zero false) with
  | .nan => .nan
  | .inf s => .inf s
  | .zero _ => .fin 0 0
  | .fin n d => .fin n (-(Nat.log2 d : Int))

/-- The cells of a row: 64 words. -/
def rowWord (x : BitVec 1024) (c : Nat) : BitVec 16 := x.extractLsb' (16 * c) 16

/-- The exact sum of column `c` for the words `xs` of a vector, each with its cell row; `on r c` says which cells take
part (R221, R225, R268). -/
def columnSum (e : BitVec 512) (cells : List (Nat × BitVec 1024)) (xs : List (Nat × BitVec 16)) (on : Nat → Nat → Bool) (c : Nat) : XReal :=
  let ps := xs.filter fun p => on p.1 c
  let cell (r : Nat) : BitVec 16 := rowWord (sget (fun _ => 0) cells r) c
  if aMode e = 3 then
    exactSum (ps.map fun p => (halfValue (aXCode e) p.2).mul (halfValue (aSCode e) (cell p.1)))
  else .fin (ps.foldl (fun a p => a + zfProduct p.2 (cell p.1)) 0) (-80)

/-- A value of an extended real. -/
def XReal.toFV : XReal → FV
  | .fin m e => FV.ofDyadic m e
  | .inf s => .inf s
  | .nan => .nan

/-- One cell to write: its row and column, its word, and whether its expansion saturated. -/
structure CellWrite where
  row : Nat
  col : Nat
  word : BitVec 16
  sat : Bool
  deriving DecidableEq, Repr

/-- The cells of one weight row: `r` is the row of the block, `cs` its codes, and `sc n k` the scale word of original
column n and original row k (R222, R229, R231). -/
def placeRow (e : BitVec 512) (s r : Nat) (cs : List Nat) (sc : Nat → Nat → Option Nat) : List CellWrite :=
  let ex (n k x : Nat) : BitVec 16 × Bool := operand e (aSCode e) (aSFmt e) (sc n k) x
  let neg (w : BitVec 16) : BitVec 16 := w ^^^ 0x8000#16
  match aMode e with
  | 1 =>
    (List.range 32).flatMap fun c =>
      let (wr, a) := ex c (s * 32 + r) (cs.getD (2 * c) 0)
      let (w, b) := ex c (s * 32 + r) (cs.getD (2 * c + 1) 0)
      let wi := if aConj e then neg w else w
      [⟨2 * r, 2 * c, wr, a⟩, ⟨2 * r, 2 * c + 1, wi, b⟩, ⟨2 * r + 1, 2 * c, neg wi, b⟩, ⟨2 * r + 1, 2 * c + 1, wr, a⟩]
  | 2 =>
    (List.range 128).map fun i =>
      let (w, a) := ex (i % 64) (s * 128 + 2 * r + i / 64) (cs.getD i 0)
      ⟨2 * r + i / 64, i % 64, w, a⟩
  | _ =>
    (List.range 64).map fun c =>
      let (w, a) := ex c (s * 64 + r) (cs.getD c 0)
      if aTr e then ⟨c, r, w, a⟩ else ⟨r, c, w, a⟩

/-- Set one cell. -/
def setCell (m : List (Nat × BitVec 1024)) (p : CellWrite) : List (Nat × BitVec 1024) :=
  sset (fun _ => 0) m p.row (setFld (sget (fun _ => 0) m p.row) (16 * p.col) 16 p.word.toNat)

end Sys2Proof.Machine
end

