-- ==== Sys2Proof/Machine/ArrayRun.lean ====
section
/-! DEFINITION. The matrix array at work: its commands' checks, the weight and scale streams, streaming and landing
(R221 to R243, R249, R250, R256), with the window unit (R263 to R272). -/

namespace Sys2Proof.Machine

/-- MALFORMED array command, drain pairing or WINDOW: recorded, and the step ends (R239, R267). -/
def arrReject (t : Nat) (c : EngCmd) (cause : Nat) (s : State) : State :=
  malformed t c.urgent (arrErr t cause 0 c.index s)

/-- The command passes its check and goes to issue (R53). -/
def passCheck (t e : Nat) (s : State) : State := tryIssue t e (markChecked t e s)

/-- WINDOW_CMD (R263, R267): the WINDOW is checked with the array command that must follow it; it then feeds that
command. -/
def execWindowCmd (tile : Nat) (s : State) : Out :=
  match toCheck s tile 1 with
  | none => .next s
  | some c =>
    if !s.tileLive tile || eType c.raw ≠ 3 then .next s
    else
      match winCause c.raw (entryAt s tile c.urgent (c.index + 1)) with
      | some k => .next (arrReject tile c k s)
      | none => .next (s.updQ tile 1 fun q => q.filter fun d => !(d.urgent == c.urgent && d.index == c.index))

/-- The drain command that the next of the following entries is, if the pairing of R239 holds. -/
def followingDrain (s : State) (t : Nat) (c : EngCmd) : Option (BitVec 512) :=
  match nextUnit s t c.urgent listFuel c.index with
  | some e => if eType e = 2 then some e else none
  | none => none

/-- MATMUL_CMD (R238, R239): an array command with OP other than SUMW is checked and goes to issue. -/
def execMatmulCmd (tile : Nat) (s : State) : Out :=
  match toCheck s tile 1 with
  | none => .next s
  | some c =>
    if !s.tileLive tile || eType c.raw ≠ 1 || aOp c.raw = 1 then .next s
    else
      let d := followingDrain s tile c
      let zp := match d with | some e => bit e 17 | none => false
      match arrCause c.raw zp with
      | some k => .next (arrReject tile c k s)
      | none => .next (if d.isNone then arrReject tile c 6 s else passCheck tile 1 s)

/-- SUMW_CMD (R239, R250): an array command with OP = SUMW is checked and goes to issue. -/
def execSumwCmd (tile : Nat) (s : State) : Out :=
  match toCheck s tile 1 with
  | none => .next s
  | some c =>
    if !s.tileLive tile || eType c.raw ≠ 1 || aOp c.raw ≠ 1 then .next s
    else
      match arrCause c.raw false with
      | some k => .next (arrReject tile c k s)
      | none => .next (passCheck tile 1 s)

/-! ### Streams -/

/-- Record a case in SC_CMD_ERR (R350, R359). -/
def scCmdErr (t cause index : Nat) (s : State) : State :=
  let x : Word := BitVec.ofNat 32 (cause % 256 + 256 * (t % 16) + 4096 * (index % 256) + 2 ^ 31)
  { s with sc := { s.sc with cmdErr := if bit s.sc.cmdErr 31 then s.sc.cmdErr else x, cmdNow := s.sc.cmdNow.first x } }

/-- A tracker. -/
def StreamCache.tracker (c : StreamCache) (n : Nat) : Tracker := c.trk.getD n .reset

/-- Change a tracker. -/
def State.updTrk (s : State) (n : Nat) (f : Tracker → Tracker) : State := { s with sc := { s.sc with trk := upd s.sc.trk n f } }

/-- The tile holds tracker `n` DECLARED. -/
def holdsTracker (s : State) (t n : Nat) : Bool := (s.sc.tracker n).state = 3 && (s.sc.tracker n).owner = t

/-- A course loaded ahead is fetched again later (R243): its tracker steps back by one line. -/
def rewindOne (s : State) (c : StreamCourse) : State :=
  s.updTrk c.stream fun k =>
    { k with gen := k.gen + 1, used := k.used - 1, asked := k.used - 1, ready := [], pos := (k.used - 1) % (max 1 k.count) }

/-- The streams that an array command uses. -/
def arrStreams (e : BitVec 512) : List Nat :=
  if aStat e then [] else aWs e :: (if aOp e = 0 && (aSKind e < 2 || aSs e ≠ 0) then [aSs e] else [])

/-! ### Beginning a command -/

/-- Both accumulator banks have been drained. -/
def ArrayEng.drained (a : ArrayEng) : Bool := a.bankRows.all (· = 0) && a.bankDone.all (!·) && a.landing.isEmpty

/-- The array command at its turn; an urgent one starts only when both banks have been drained (R243). -/
def arrTurn (s : State) (t : Nat) : Option EngCmd :=
  match engHead s t 1 with
  | some c =>
    if s.tileLive t && eType c.raw = 1 && (c.begun || !c.urgent || (s.tile t).arr.drained) then some c else none
  | none => none

/-- The array begins the command at its turn, if it has not; an urgent command discards what was loaded ahead for the
normal step, which has then so many courses to fetch again (R243, R320 code 7). -/
def beginArr (t : Nat) (c : EngCmd) (s : State) : State :=
  if c.begun then s
  else
    let a := (s.tile t).arr
    let lost := if c.urgent then (a.wbuf.filter fun x => !x.urgent) else []
    let s1 := (beginCmd t 1 s).updArr t fun a =>
      { a.fresh with
        urgent := c.urgent
        groupCnt := aTag0 c.raw
        wbuf := if c.urgent then a.wbuf.filter (·.urgent) else a.wbuf
        wbufFreed := if lost.isEmpty then a.wbufFreed else 0
        refetch := a.refetch + lost.length }
    lost.foldl rewindOne s1

/-- The array begins the command at its turn, if it has not (R350): a stream that the command uses and whose tracker the tile
does not hold DECLARED ends the step. -/
def startArr (t : Nat) (c : EngCmd) (s : State) : Except State State :=
  if !c.begun && (arrStreams c.raw).any fun n => !holdsTracker s t n then
    .error (malformed t c.urgent (scCmdErr t 4 c.index (beginArr t c s)))
  else .ok (beginArr t c s)

/-! ### Loading weights (R228 to R232, R250) -/

/-- Rows of a weight block: 32 in COMPLEX, 8 of a DIAG8 record, else 64. -/
def blockRows (c : EngCmd) : Nat := if isDiag c.win then 8 else if aMode c.raw = 1 then 32 else 64

/-- Slices of a row block: 8 octets of passes under DIAG8. -/
def cmdSlices (c : EngCmd) : Nat :=
  match c.win with
  | some w => if wMap w = 2 then 8 * (Geom.ofEntry w).passes else aSlices c.raw
  | none => aSlices c.raw

/-- The reduction indices of weight row `r` of slice `s`: the first. -/
def rowK (e : BitVec 512) (s r : Nat) : Nat := s * aD e + (if aMode e = 2 then 2 * r else r)

/-- The groups of the row block that have been written contain `j`. -/
def groupWritten (a : ArrayEng) (j : Nat) : Bool := a.groups.any fun g => decide (g.1 ≤ j) && decide (j < g.1 + g.2)

/-- The last original row, by reduction index, whose scales the scale stream carries: the whole block's under TRANSPOSE (R229),
else the last below K (R221, R231). -/
def lastScaled (e : BitVec 512) : Nat := if aTr e then 63 else aK e - 1

/-- The scales that a row needs have been written (R234); a row past K needs none of its own. -/
def scalesReady (c : EngCmd) (a : ArrayEng) : Bool :=
  let e := c.raw
  if aOp e = 1 || aStat e || aMode e = 3 then true
  else
    match aSKind e with
    | 0 => decide (a.scaleBlock = a.loadBlock) && groupWritten a (groupOf (aSG e) (min (rowK e a.loadSlice a.loadRow) (lastScaled e)))
    | 1 => a.chanScaled
    | _ => true

/-- The scale word of column `n`, index `k` of the stationary operand (R208, R227). -/
def statScale (e : BitVec 512) (a : ArrayEng) (n k : Nat) : Option Nat :=
  let file (j : Nat) : Option Nat := some (sget (fun _ => (0 : BitVec 16)) a.scales (128 * n + j)).toNat
  match aSKind e with
  | 0 =>
    if aStat e then some (lane (sget (fun _ => (0 : BitVec 1024)) a.ss (groupOf (aSG e) n)) 16 (k % 64))
    else file (groupOf (aSG e) k % 128)
  | 1 => file 0
  | 2 => some (aSScale e)
  | _ => none

/-- The cells that one loaded row writes into the shadows. -/
def rowCells (c : EngCmd) (a : ArrayEng) (cs : List Nat) : List CellWrite :=
  let e := c.raw
  match c.win with
  | some w =>
    if wMap w = 2 then
      let o := a.loadSlice / (Geom.ofEntry w).passes
      (List.range 8).flatMap fun b =>
        let (x, sat) := operand e (aSCode e) (aSFmt e) (statScale e a (8 * o + b) 0) (cs.getD (8 * b + a.loadRow) 0)
        (List.range 8).map fun j => ⟨8 * b + a.loadRow, 8 * b + j, x, sat⟩
    else placeRow e a.loadSlice a.loadRow cs (statScale e a)
  | none => placeRow e a.loadSlice a.loadRow cs (statScale e a)

/-- Whether a cell's product counts: its reduction index is below K (R221). -/
def cellCounts (c : EngCmd) (a : ArrayEng) (w : CellWrite) : Bool :=
  match c.win with
  | some z =>
    if wMap z = 2 then decide (8 * (a.loadSlice % (Geom.ofEntry z).passes) + w.row % 8 < aK c.raw)
    else decide (kOf c.raw a.loadSlice w.row < aK c.raw)
  | none => decide (kOf c.raw a.loadSlice w.row < aK c.raw)

/-- The sums of a SUMW command after one more row: integer codes of column c over k below K (R250). -/
def sumwRow (e : BitVec 512) (s r : Nat) (cs : List Nat) (acc : List Int) : List Int :=
  match Code.ofField (aSCode e) with
  | none => acc
  | some code =>
    let at_ (i : Nat) : Int := code.intVal (cs.getD i 0)
    if aTr e then upd acc r fun x => x + ((List.range (min 64 (aK e))).map at_).foldl (· + ·) 0
    else if aMode e = 2 then
      acc.zipIdx.map fun (x, c) =>
        x + (if rowK e s r < aK e then at_ c else 0) + (if rowK e s r + 1 < aK e then at_ (64 + c) else 0)
    else acc.zipIdx.map fun (x, c) => if rowK e s r < aK e then x + at_ c else x

/-- The spec states the sums of a SUMW command: REAL or SPLIT4 with integer codes. -/
def sumwStated (e : BitVec 512) : Bool :=
  (aMode e = 0 || aMode e = 2) && ((Code.ofField (aSCode e)).map Code.isInt).getD false

/-- Write the SUMW set of a priority (R249). -/
def setSumw (t : Nat) (u : Bool) (l : List (BitVec 32)) (s : State) : State :=
  s.updArr t fun a => if u then { a with sumwU := l } else { a with sumwN := l }

/-- 64 free values (entry 1). -/
def drawSumw (s : State) : List (BitVec 32) × State :=
  let (x, s1) := s.draw 2048
  ((List.range 64).map fun c => x.extractLsb' (32 * c) 32, s1)

/-- A row has been loaded. -/
def afterRow (t : Nat) (c : EngCmd) (cs : List Nat) (s : State) : State :=
  let e := c.raw
  let a := (s.tile t).arr
  let lastRow := decide (a.loadRow + 1 = blockRows c)
  if aOp e = 1 then
    let acc := sumwRow e a.loadSlice a.loadRow cs a.sumwAcc
    let s1 := s.updArr t fun a =>
      { a with
        sumwAcc := acc
        loadRow := if lastRow then 0 else a.loadRow + 1
        loadSlice := if lastRow then a.loadSlice + 1 else a.loadSlice }
    if lastRow && decide (a.loadSlice + 1 = aSlices e) then
      let (l, s2) := if sumwStated e then (acc.map fun x => BitVec.ofInt 32 x, s1) else drawSumw s1
      popCmd t 1 (setSumw t c.urgent l s2)
    else s1
  else
    let cells := rowCells c a cs
    let s1 := s.updArr t fun a =>
      { a with
        shadow := cells.foldl setCell (if a.loadRow = 0 then [] else a.shadow)
        loadRow := if lastRow then 0 else a.loadRow + 1
        shadowFull := lastRow }
    s1.markScaleSat t c.urgent (cells.any fun w => w.sat && cellCounts c a w)

/-- Take the bytes of the next row from the weight stream buffer: the course that holds them, and the buffer after. -/
def takeRow (e : BitVec 512) (diag lastRow : Bool) (a : ArrayEng) : Option (StreamCourse × BitVec 1024 × ArrayEng) :=
  match a.wbuf.find? fun x => x.stream = aWs e with
  | none => none
  | some x =>
    let n := if aMode e = 3 then 128 else 64
    let d := x.data >>> (8 * a.wbufAt)
    let next := if diag && !lastRow then a.wbufAt else a.wbufAt + n
    let b :=
      if next ≥ 128 then { a with wbufAt := 0, wbufFreed := (a.wbufFreed + 1) % 256, wbuf := a.wbuf.eraseP fun x => x.stream = aWs e }
      else { a with wbufAt := next }
    some (x, d, b)

/-- Read the side-port scale courses of the slice being loaded, group by group (R227, R241). -/
def readStatScales (t : Nat) (c : EngCmd) : List Nat → State → Except State State
  | [], s => .ok s
  | j :: r, s =>
    let e := c.raw
    let course := (fld e 224 15 + j * fld e 240 16 + (s.tile t).arr.loadSlice) % 32768
    match engRead t c.urgent 1 course s with
    | .error z => .error z
    | .ok (d, z) => readStatScales t c r (z.updArr t fun a => { a with ss := sset (fun _ => 0) a.ss j d })

/-- A load of one row from tile store (R228): a row at or beyond K is not read. Where X has no scale words of its own there, the
command's last row is its last read through the side port, whose entry retires (R54). -/
def loadFromStore (t : Nat) (c : EngCmd) (s : State) : State :=
  let e := c.raw
  let a := (s.tile t).arr
  let k := rowK e a.loadSlice a.loadRow
  let s0 : Except State State :=
    if aSKind e = 0 && a.loadRow = 0 then
      readStatScales t c (List.range (64 / groupSize (aSG e) + (if aSG e = 2 then 1 else 0)))
        (s.updArr t fun a => { a with ss := [] })
    else .ok s
  match s0 with
  | .error z => z
  | .ok s1 =>
    if k ≥ aK e then afterRow t c [] s1
    else
      match engRead t c.urgent 1 ((fld e 192 15 + k * fld e 208 16) % 32768) s1 with
      | .error z => z
      | .ok (d, s2) =>
        let x := if aMode e = 3 then d else d >>> (512 * aBoff e)
        let lastRead := decide (k + 1 = aK e) && decide (a.loadBlock + 1 = aBlocks e) && decide (aXKind e ≠ 0)
        afterRow t c (sliceCodes (aMode e) (codeBits e (aSCode e)) x)
          (if lastRead then retireRanges t 1 c.urgent (if hasRange e 0x30 then [cmdRange e 0x30] else []) s2 else s2)

/-- WEIGHT_ROW_LOAD (R228 to R232, R236, R250, R271, R350): one row goes into the shadow cells, expanded, or into the
sums of a SUMW command. -/
def execWeightRowLoad (tile : Nat) (held : Held) (s : State) : Out :=
  match arrTurn s tile with
  | none => .next s
  | some c =>
    let e := c.raw
    match startArr tile c s with
    | .error z => .next z
    | .ok s0 =>
    let a := (s0.tile tile).arr
    if a.shadowFull || a.loadBlock ≥ (if aOp e = 1 then 1 else aBlocks e) then .next s0
    else if !scalesReady c a then .next s0
    else if aStat e then .next (loadFromStore tile c (charge tile c.urgent false held s0))
    else
      match takeRow e (isDiag c.win) (a.loadRow + 1 = blockRows c) a with
      | none => .next s0
      | some (x, d, b) =>
        let s1 := charge tile c.urgent false held s0
        if x.poison then .next (endStep tile c.urgent stPoison s1)
        else
          .next (afterRow tile c (sliceCodes (aMode e) (codeBits e (aSCode e)) d)
            (s1.updArr tile fun a => { a with wbuf := b.wbuf, wbufAt := b.wbufAt, wbufFreed := b.wbufFreed }))

/-! ### Scale blocks (R233 to R236) -/

/-- The first `n` courses of a stream in the scale buffer. -/
def streamHead (l : List StreamCourse) (n st : Nat) : List StreamCourse := (l.filter fun x => x.stream = st).take n

/-- Drop the first `n` courses of a stream. -/
def dropStream (st : Nat) : Nat → List StreamCourse → List StreamCourse
  | 0, l => l
  | n + 1, l => dropStream st n (l.eraseP fun x => x.stream = st)

/-- Groups of a row block. -/
def groupsOf (e : BitVec 512) : Nat := groupOf (aSG e) (lastScaled e) + 1

/-- A block of this KIND still belongs to the row block in progress. -/
def blockDue (e : BitVec 512) (a : ArrayEng) (kind : Nat) : Bool :=
  match kind with
  | 0 => !groupWritten a (groupsOf e - 1)
  | 1 => !a.chanNow
  | _ => !a.sumwDone

/-- The block whose header is `h` belongs to this command (R234, R236): always while a row block is still to load. Once the last slice
is swapped in only a block of Σw that the counter expects can still be its own; another is a later command's (log entry 85). -/
def blockMine (e : BitVec 512) (a : ArrayEng) (h : StreamCourse) : Bool :=
  decide (a.loadBlock < aBlocks e) || (decide (fld h.data 16 8 = 2) && !a.sumwDone && decide (h.data.extractLsb' 0 16 = a.groupCnt))

/-- The expander starts a row block: its counter takes TAG0 (R234). -/
def nextScaleBlock (e : BitVec 512) (a : ArrayEng) : ArrayEng :=
  { a with scaleBlock := a.scaleBlock + 1, groupCnt := aTag0 e, groups := [], chanNow := false, sumwDone := false }

/-- A group that block entry `j` would overwrite still has a row to load (R235). -/
def groupPending (c : EngCmd) (a : ArrayEng) (j : Nat) : Bool :=
  if j < 128 then false
  else
    let e := c.raw
    let last := min ((j - 127) * groupSize (aSG e)) (aK e) - 1
    let next := if a.shadowFull then rowK e (a.loadSlice + 1) 0 else rowK e a.loadSlice a.loadRow
    decide (a.loadBlock ≤ a.scaleBlock) && decide (next ≤ last)

/-- Write a course of scale words into entries (c, j). -/
def putScales (j : Nat) (d : BitVec 1024) (m : List (Nat × BitVec 16)) : List (Nat × BitVec 16) :=
  (List.range 64).foldl (fun m c => sset (fun _ => 0) m (128 * c + j) (d.extractLsb' (16 * c) 16)) m

/-- A scale block whose tag matches is written. -/
def writeBlock (t : Nat) (c : EngCmd) (kind g : Nat) (data : List StreamCourse) (s : State) : State :=
  match kind with
  | 0 =>
    s.updArr t fun a =>
      { a with
        scales := data.zipIdx.foldl (fun m (x, i) => putScales ((g + i) % 128) x.data m) a.scales
        groups := a.groups ++ [(g, data.length)], groupCnt := a.groupCnt + BitVec.ofNat 16 data.length }
  | 1 =>
    s.updArr t fun a =>
      { a with
        scales := data.foldl (fun m x => putScales 0 x.data m) a.scales
        chanScaled := true, chanNow := true, groupCnt := a.groupCnt + 1 }
  | _ =>
    let w (i : Nat) : BitVec 32 := ((data.getD (i / 32) ⟨0, 0, false, false⟩).data).extractLsb' (32 * (i % 32)) 32
    (setSumw t c.urgent ((List.range 64).map w) s).updArr t fun a => { a with sumwDone := true, groupCnt := a.groupCnt + 1 }

/-- KIND and N of a header course, when R233 names them; a header that breaks R233 has no stated effect (R17), and its block is
taken as one of a free KIND and N of those that R233 names (log entry 86). -/
def blockShape (h : BitVec 1024) (s : State) : (Nat × Nat) × State :=
  let kind := fld h 16 8
  let n := fld h 24 8
  if (kind = 0 && 1 ≤ n && n ≤ 7) || (kind = 1 && n = 1) || (kind = 2 && n = 2) then ((kind, n), s)
  else
    let (x, s1) := s.draw 8
    let k := x.toNat % 3
    ((k, if k = 0 then 1 + x.toNat / 4 % 7 else k), s1)

/-- SCALE_BLOCK_ARRIVE (R233 to R236, R350): the next scale block of the command's scale stream, once it is due, is checked and
written; poison ends the step ahead of a tag mismatch.  Whether a poisoned header's block is due is judged by the KIND that it
holds (log entry 85). -/
def execScaleBlockArrive (tile : Nat) (s : State) : Out :=
  match arrTurn s tile with
  | none => .next s
  | some c =>
    let e := c.raw
    if aOp e = 1 || aStat e then .next s
    else
      match startArr tile c s with
      | .error z => .next z
      | .ok s0 =>
      let a := (s0.tile tile).arr
      match streamHead a.sbuf 1 (aSs e) with
      | [] => .next s0
      | h :: _ =>
        let due := blockDue e a (fld h.data 16 8)
        if (!due && a.loadBlock ≤ a.scaleBlock) || !blockMine e a h then .next s0
        else if h.poison then .next (endStep tile c.urgent stPoison s0)
        else
          let (shape, z) := blockShape h.data s0
          let (kind, n) := shape
          let data := (streamHead a.sbuf (n + 1) (aSs e)).drop 1
          if data.any (·.poison) then .next (endStep tile c.urgent stPoison z)
          else if data.length < n then .next z
          else
            let a1 := if due then a else nextScaleBlock e a
            let tag : BitVec 16 := h.data.extractLsb' 0 16
            let g := (tag - aTag0 e).toNat
            if tag ≠ a1.groupCnt then
              .next (stepFault tile c.urgent stSkew (z.updArr tile fun a =>
                { a with
                  skew := true, skewReg := BitVec.ofNat 32 (a1.groupCnt.toNat + 65536 * tag.toNat), now := a.now.note 10 true }))
            else if kind = 0 && (List.range n).any fun i => groupPending c a1 (g + i) then .next z
            else
              .next (writeBlock tile c kind g data (z.updArr tile fun _ => { a1 with sbuf := dropStream (aSs e) (n + 1) a1.sbuf }))

/-! ### Streaming (R226, R240 to R242, R265, R269) -/

/-- Swap the shadow weights in at a slice boundary (R232); the load moves on to the next slice. -/
def swapIn (c : EngCmd) (a : ArrayEng) : ArrayEng :=
  if a.active then a
  else
    let last := decide (a.loadSlice + 1 = cmdSlices c)
    { a with
      cells := a.shadow, active := true, shadowFull := false
      loadSlice := if last then 0 else a.loadSlice + 1, loadBlock := if last then a.loadBlock + 1 else a.loadBlock }

/-- The accumulator bank of the vector in progress (R242, R272). -/
def bankOf (c : EngCmd) (a : ArrayEng) : Nat :=
  match c.win with
  | some w => if wMap w = 2 then (8 * a.block + a.slice / (Geom.ofEntry w).passes) % 2 else a.block % 2
  | none => a.block % 2

/-- The vector in progress is the first into its bank. -/
def firstOfBank (c : EngCmd) (a : ArrayEng) : Bool :=
  a.vec = 0 && (match c.win with
    | some w => if wMap w = 2 then a.slice % (Geom.ofEntry w).passes = 0 else a.slice = 0
    | none => a.slice = 0)

/-- It is the last: of its row block, or of its octet. -/
def lastOfBank (c : EngCmd) (a : ArrayEng) : Bool :=
  let rows := aRows c.raw a.block
  a.vec + 1 = rows && (match c.win with
    | some w =>
      let q := (Geom.ofEntry w).passes
      if wMap w = 2 then a.slice % q + 1 = q else a.slice + 1 = aSlices c.raw
    | none => a.slice + 1 = aSlices c.raw)

/-- The bank may take a new row block: its former one has been drained (R242). -/
def bankFree (a : ArrayEng) (b : Nat) : Bool :=
  a.bankRows.getD b 0 = 0 && !a.bankDone.getD b false && !(a.landing.any fun l => l.bank = b)

/-- Read the side-port courses of scale words of X for a slice of a row block (R227). -/
def readXScales (t : Nat) (c : EngCmd) : List Nat → State → Except State State
  | [], s => .ok s
  | j :: r, s =>
    let e := c.raw
    let course := (fld e 160 15 + j * fld e 176 16 + (s.tile t).arr.block) % 32768
    match engRead t c.urgent 1 course s with
    | .error z => .error z
    | .ok (d, z) => readXScales t c r (z.updArr t fun a => { a with xs := sset (fun _ => 0) a.xs j d })

/-- Groups of X that slice `s` meets. -/
def xGroups (e : BitVec 512) (s : Nat) : List Nat :=
  let a := groupOf (aXG e) (s * aD e)
  let b := groupOf (aXG e) (min (aK e) ((s + 1) * aD e) - 1)
  List.range' a (b + 1 - a)

/-- The pad code of a ZERO pad slice (R219, R261). -/
def padCode (e : BitVec 512) : Nat :=
  match Code.ofField (aXCode e), ScaleFmt.ofField (aXFmt e) with
  | some c, some f => if aMode e ≠ 3 && c.isInt && aXKind e = 2 then wrap c.bits (scaleZp f c (aXScale e)) else 0
  | _, _ => 0

/-- The codes of the streamed vector in progress, read through the stream port or the window unit (R226, R264, R265). -/
def readVector (t : Nat) (c : EngCmd) (s : State) : Except State (List Nat × State) :=
  let e := c.raw
  let a := (s.tile t).arr
  let m := 64 * a.block + a.vec
  let cb := codeBits e (aXCode e)
  let fromCourse (course byte : Nat) : Except State (List Nat × State) :=
    match engRead t c.urgent 1 course s with
    | .error z => .error z
    | .ok (d, z) => .ok (sliceCodes (aMode e) cb (d >>> (8 * byte)), z)
  match c.win with
  | none =>
    let o := a.slice * sliceBytes e
    fromCourse ((fld e 128 15 + m * fld e 144 16 + o / 128) % 32768) (o % 128)
  | some w =>
    let g := Geom.ofEntry w
    let ow := g.ow.toNat
    match g.pixel (m / ow) (m % ow) (a.slice / wCs w) with
    | none => .ok (List.replicate (if aMode e = 2 then 128 else 64) (padCode e), s)
    | some p =>
      let o := (a.slice % wCs w) * sliceBytes e
      let course := (g.course p + o / 128) % 32768
      if inRanges ((cmdRanges w).take 1) course false then fromCourse course (o % 128)
      else .error (stepFault t c.urgent stRange s)

/-- The scale word of code `r` of the streamed vector (R227). -/
def xScale (e : BitVec 512) (a : ArrayEng) (r : Nat) : Option Nat :=
  match aXKind e with
  | 0 => some (lane (sget (fun _ => (0 : BitVec 1024)) a.xs (groupOf (aXG e) (kOf e a.slice r))) 16 a.vec)
  | 2 => some (aXScale e)
  | _ => none

/-- The cells that take part under GROUPED (R268). -/
def takesPart (win : Option (BitVec 512)) (r c : Nat) : Bool :=
  match win with
  | some w => if wMap w = 1 then r / 2 ^ (3 + wGw w) = c / 2 ^ (3 + wGw w) else true
  | none => true

/-- The window buffer's code of channel `ch` of a pixel. -/
def bufCode (e : BitVec 512) (g : Geom) (a : ArrayEng) (p : Nat × Nat) (ch : Nat) : Nat :=
  match (footprint e g a.block).findIdx? (· == p) with
  | some i => lane (sget (fun _ => (0 : BitVec 512)) a.winBuf i) 8 ch
  | none => 0

/-- The words of the DIAG8 run in progress for column 8b + j: pairs (cell row, word), and whether one saturated (R269). -/
def diagWords (e : BitVec 512) (g : Geom) (a : ArrayEng) (b j : Nat) : List (Nat × BitVec 16 × Bool) :=
  let m := 64 * a.block + a.vec
  let oy := m / g.runsPerRow
  let ox := 8 * (m % g.runsPerRow) + j
  let o := a.slice / g.passes
  let q := a.slice % g.passes
  if ox ≥ g.ow.toNat then []
  else
    ((List.range 8).filter fun r => decide (8 * q + r < g.taps)).map fun r =>
      let x := match g.pixel oy ox (8 * q + r) with
        | some p => bufCode e g a p (8 * o + b)
        | none => 0
      let (w, sat) := operand e (aXCode e) (aXFmt e) (xScale e a 0) x
      (8 * b + r, w, sat)

/-- The array's read range that streaming reads: the rows of X, or the WINDOW's pixels (R238, R263, R265). -/
def streamRange (c : EngCmd) : List Range :=
  match c.win with
  | some w => (cmdRanges w).take 1
  | none => if hasRange c.raw 0x28 then [cmdRange c.raw 0x28] else []

/-- The array's read range of the side port (R238). -/
def sideRange (c : EngCmd) : List Range := if hasRange c.raw 0x30 then [cmdRange c.raw 0x30] else []

/-- Vector `v` of slice `s` of row block `b` reads tile store as it streams: always, but a ZERO pad slice needs no read (R265), and
DIAG8 has read its pixels in the load phase (R272). -/
def vectorReads (c : EngCmd) (b s v : Nat) : Bool :=
  match c.win with
  | none => true
  | some w =>
    let g := Geom.ofEntry w
    let m := 64 * b + v
    decide (wMap w ≠ 2) && (g.pixel (m / g.ow.toNat) (m % g.ow.toNat) (s / wCs w)).isSome

/-- A vector from (b, s, v) on, in the order of streaming, still reads tile store. -/
def readsFrom (c : EngCmd) (b s v : Nat) : Bool :=
  let row (b s v : Nat) : Bool := (List.range' v (aRows c.raw b - v)).any (vectorReads c b s)
  let block (b s : Nat) : Bool := (List.range' s (cmdSlices c - s)).any fun k => row b k 0
  decide (b < aBlocks c.raw)
    && (row b s v || block b (s + 1) || (List.range' (b + 1) (aBlocks c.raw - (b + 1))).any fun k => block k 0)

/-- The ranges whose last read has been made with vector (b, s, v), the last of the command or not (R54); the next is (b1, s1, v1).
A range of which the command reads nothing retires with its last vector. -/
def readsDone (c : EngCmd) (b s v b1 s1 v1 : Nat) (last : Bool) : List Range :=
  let e := c.raw
  let diag := isDiag c.win
  let foot := match c.win with
    | some w => (List.range (aBlocks e)).any fun k => !(footprint e (Geom.ofEntry w) k).isEmpty
    | none => false
  let x :=
    if diag then last && !foot
    else (readsFrom c b s v && !readsFrom c b1 s1 v1) || (last && !readsFrom c 0 0 0)
  let side :=
    if aXKind e = 0 then decide (b + 1 = aBlocks e) && decide (s + 1 = cmdSlices c) && decide (v = 0)
    else last && !aStat e
  (if x then streamRange c else []) ++ (if side then sideRange c else [])

/-- After a vector: its sums are on their way, the next vector, slice and row block follow, and the read entries whose last read
this was retire (R54). -/
def pushVector (t : Nat) (c : EngCmd) (sums : List XReal) (s : State) : State :=
  let a := (s.tile t).arr
  let rows := aRows c.raw a.block
  let endSlice := decide (a.vec + 1 = rows)
  let endBlock := endSlice && decide (a.slice + 1 = cmdSlices c)
  let vec := if endSlice then 0 else a.vec + 1
  let slice := if endBlock then 0 else if endSlice then a.slice + 1 else a.slice
  let block := if endBlock then a.block + 1 else a.block
  let s1 := s.updArr t fun a =>
    { a with
      landing := a.landing ++ [{ bank := bankOf c a, row := a.vec, first := firstSlice c a, last := lastOfBank c a, sums := sums }]
      vec := vec
      active := !endSlice
      xs := if endSlice then [] else a.xs
      slice := slice
      block := block
      footAt := if endBlock then 0 else a.footAt
      footDone := a.footDone && !endBlock
      winBuf := if endBlock then [] else a.winBuf }
  let last := endBlock && decide (a.block + 1 = aBlocks c.raw)
  retireRanges t 1 c.urgent (readsDone c a.block a.slice a.vec block slice vec last) s1
where
  /-- The slice, or the pass of an octet, that writes the entries. -/
  firstSlice (c : EngCmd) (a : ArrayEng) : Bool :=
    (match c.win with
      | some w => if wMap w = 2 then a.slice % (Geom.ofEntry w).passes else a.slice
      | none => a.slice) == 0

/-- One vector through the present slice. -/
def streamVector (t : Nat) (c : EngCmd) (s : State) : State :=
  let e := c.raw
  let a := (s.tile t).arr
  if isDiag c.win then
    let g := Geom.ofEntry (c.win.getD 0)
    let ws := (List.range 64).map fun col => diagWords e g a (col / 8) (col % 8)
    let sums := ws.zipIdx.map fun (l, col) => columnSum e a.cells (l.map fun p => (p.1, p.2.1)) (fun _ _ => true) col
    (pushVector t c sums s).markScaleSat t c.urgent (ws.any fun l => l.any fun p => p.2.2)
  else
    let sx : Except State State :=
      if aXKind e = 0 && a.vec = 0 then readXScales t c (xGroups e a.slice) s else .ok s
    match sx with
    | .error z => z
    | .ok s1 =>
      match readVector t c s1 with
      | .error z => z
      | .ok (codes, s2) =>
        let b := (s2.tile t).arr
        let ops := (codes.zipIdx.filter fun p => decide (kOf e a.slice p.2 < aK e)).map fun p =>
          (p.2, operand e (aXCode e) (aXFmt e) (xScale e b p.2) p.1)
        let xs := ops.map fun p => (p.1, p.2.1)
        let sums := (List.range 64).map fun col => columnSum e b.cells xs (takesPart c.win) col
        let add : Int := match Code.ofField (aXCode e) with
          | some k => (codes.zipIdx.filter fun p => decide (kOf e a.slice p.2 < aK e)).foldl (fun n p => n + k.intVal p.1) 0
          | none => 0
        let s3 := if c.win.isSome then
            let k := 64 * (a.block % 2) + a.vec
            s2.updArr t fun a =>
              { a with suma := sset (fun _ => 0) a.suma k (if a.slice = 0 then add else sget (fun _ => 0) a.suma k + add) }
          else s2
        (pushVector t c sums s3).markScaleSat t c.urgent (ops.any fun p => p.2.2)

/-- ARRAY_VECTOR_STREAM (R221, R232, R240 to R242, R265, R269, R272): one vector is read and streamed through the slice
in the cells, which is swapped in first at a slice boundary.  `bufBad`: the window buffer's parity is wrong. -/
def execArrayVectorStream (tile : Nat) (held : Held) (bufBad : Bool) (s : State) : Out :=
  match arrTurn s tile with
  | none => .next s
  | some c =>
    let e := c.raw
    let a := (s.tile tile).arr
    let diagReady := match c.win with
      | some w => wMap w ≠ 2 || a.footDone || (footprint e (Geom.ofEntry w) a.block).isEmpty
      | none => true
    if aOp e = 1 || !c.begun || a.block ≥ aBlocks e || !(a.active || a.shadowFull) || !diagReady
        || (firstOfBank c a && !bankFree a (bankOf c a)) then .next s
    else
      let s1 := charge tile c.urgent false held s
      if bufBad && isDiag c.win then .next (stepFault tile c.urgent stParity s1)
      else .next (streamVector tile c (s1.updArr tile (swapIn c)))

/-- DIAG8_LOAD_PHASE (R54, R272, R350): the next footprint pixel is read into the window buffer; the entry of the pixels retires with
the command's last. -/
def execDiag8LoadPhase (tile : Nat) (held : Held) (s : State) : Out :=
  match arrTurn s tile with
  | none => .next s
  | some c =>
    match c.win with
    | none => .next s
    | some w =>
      match startArr tile c s with
      | .error z => .next z
      | .ok s0 =>
      let a := (s0.tile tile).arr
      let g := Geom.ofEntry w
      let fp := footprint c.raw g a.block
      if wMap w ≠ 2 || a.footDone || a.block ≥ aBlocks c.raw then .next s
      else
        match fp[a.footAt]? with
        | none => .next (s0.updArr tile fun a => { a with footDone := true })
        | some p =>
          let s1 := charge tile c.urgent false held s0
          if !inRanges ((cmdRanges w).take 1) (g.course p) false then .next (stepFault tile c.urgent stRange s1)
          else
            match engRead tile c.urgent 1 (g.course p) s1 with
            | .error z => .next z
            | .ok (d, s2) =>
              let more := decide (a.footAt + 1 < fp.length)
                || (List.range' (a.block + 1) (aBlocks c.raw - (a.block + 1))).any fun k => !(footprint c.raw g k).isEmpty
              .next ((if more then s2 else retireRanges tile 1 c.urgent (streamRange c) s2).updArr tile fun a =>
                { a with
                  winBuf := sset (fun _ => 0) a.winBuf a.footAt (d.setWidth 512), footAt := a.footAt + 1
                  footDone := decide (a.footAt + 1 = fp.length) })

/-- One column's accumulator entry after a landing, and whether it overflowed (R225). -/
def accEntry (first : Bool) (old : Nat) (sum : XReal) : Nat × Bool :=
  let v := if first then sum.toFV else (f32In old).add sum.toFV
  let r := f32Out v
  let past := match v with | .fin _ _ => (f32In r == .inf false) || (f32In r == .inf true) | _ => false
  (r, past)

/-- ACC_LAND (R225, R240, R242): the oldest vector's column sums go into its accumulator row; the last of a row block
hands the bank to the drain, and the last of a command ends it. -/
def execAccLand (tile : Nat) (s : State) : Out :=
  let a := (s.tile tile).arr
  match a.landing with
  | [] => .next s
  | l :: rest =>
    if !s.tileLive tile then .next s
    else
      let k := 64 * l.bank + l.row
      let old := sget (fun _ => (0 : BitVec 2048)) a.acc k
      let es := (List.range 64).map fun c => accEntry l.first (lane old 32 c) (l.sums.getD c (.fin 0 0))
      let s1 := s.updArr tile fun a =>
        { a with
          acc := sset (fun _ => 0) a.acc k (BitVec.ofNat 2048 (packLanes 32 (es.map (·.1))))
          ovf := a.ovf || es.any (·.2), now := a.now.note 9 (es.any (·.2)), landing := rest
          bankRows := upd a.bankRows l.bank (max (l.row + 1))
          bankDone := if l.last then lput a.bankDone l.bank true else a.bankDone }
      match arrTurn s1 tile with
      | some c =>
        .next (if c.begun && aOp c.raw = 0 && rest.isEmpty && (s1.tile tile).arr.block ≥ aBlocks c.raw then popCmd tile 1 s1 else s1)
      | none => .next s1

/-! ### ARR_ registers (R256) -/

/-- A write of ARR_CNT_CLR. -/
def arrCntClr (v : BitVec 32) (a : ArrayEng) : ArrayEng :=
  { a with busyCnt := if bit v 0 then 0 else a.busyCnt, waitCnt := if bit v 1 then 0 else a.waitCnt, now := a.now.zeroed v }

/-- The counters as they read: events of the cycle in which they were cleared are not counted (R257). -/
def ArrayEng.settle (a : ArrayEng) : ArrayEng := arrCntClr a.now.clr a

/-- ARR_CNT_CLR. -/
def execArrCntClr (who : Who) (tile : Nat) (value : BitVec 32) (s : State) : Out :=
  .next (if tile < 16 then regWrite who (.tile tile) .yes (fun z => z.updArr tile (arrCntClr value)) s else s)

/-- A write of ARR_STATUS: a 1 clears MALFORMED, OVF or SKEW, unless an event of the same cycle sets it (R257). -/
def arrStatusWrite (v : BitVec 32) (a : ArrayEng) : ArrayEng :=
  { a with
    malformed := a.malformed && a.now.keeps v 8, ovf := a.ovf && a.now.keeps v 9, skew := a.skew && a.now.keeps v 10 }

/-- A write of ARR_ERR: a 1 clears VALID. -/
def arrErrWrite (v : BitVec 32) (a : ArrayEng) : ArrayEng := { a with err := a.now.errAfter (bit v 31) 31 a.err }

/-- BUSY and URGENT of an engine whose queue is `q`. -/
def busyBits (q : List EngCmd) : Nat :=
  match q with
  | c :: _ => if c.begun then 1 + 2 * b2n c.urgent else 0
  | [] => 0

/-- The ARR_ register at offset `o`: its value and its width in bytes. -/
def ArrayEng.readReg (a : ArrayEng) (o : Nat) : Option (Nat × Nat) :=
  if o = 0x000 then
    some (busyBits a.queue + 4 * b2n (a.bankRows.getD 0 0 ≠ 0) + 8 * b2n (a.bankRows.getD 1 0 ≠ 0) + 256 * b2n a.malformed
      + 512 * b2n a.ovf + 1024 * b2n a.skew, 4)
  else if o = 0x004 then some (a.err.toNat, 4)
  else if o = 0x008 then some (a.skewReg.toNat, 4)
  else if o = 0x00C then some (a.busyCnt.toNat, 4)
  else if o = 0x010 then some (a.waitCnt.toNat, 4)
  else if o = 0x014 then some (0, 4)
  else if 0x100 ≤ o && o < 0x200 && o % 4 = 0 then some ((a.sumwN.getD ((o - 0x100) / 4) 0).toNat, 4)
  else if 0x200 ≤ o && o < 0x300 && o % 4 = 0 then some ((a.sumwU.getD ((o - 0x200) / 4) 0).toNat, 4)
  else none

end Sys2Proof.Machine
end

