-- ==== Sys2Proof/Machine/CacheOps.lean ====
section
/-! DEFINITION. Device addresses, the lines of the stream cache and their pseudo-LRU order, the DDR5 bytes, and the
queues of the DDR5 channels (R335 to R344, R352 to R358, R442, R453). -/

namespace Sys2Proof

/-- No beat in error. -/
def BeatErr.none : BeatErr := ⟨0, 0, false, false, 0⟩

/-- A beat is uncorrectable, so the line is poisoned. -/
def BeatErr.bad (e : BeatErr) : Bool := decide (e.ue ≠ 0)

/-- The first case is an uncorrectable beat. -/
def BeatErr.firstBad (e : BeatErr) : Bool := e.bad && (e.firstUe || decide (e.ce = 0))

end Sys2Proof

namespace Sys2Proof.Machine

/-! ### Addresses (R335, R337, R354) -/

/-- Populated lines. -/
def State.capLines (s : State) : Nat := s.sc.capGib * 2 ^ 23

/-- The slice of line `l` (R337). -/
def lineSlice (l : Nat) : Nat := (l % 16) ^^^ (l / 16 % 16) ^^^ (l / 256 % 16) ^^^ (l / 4096 % 16)

/-- Its set. -/
def lineSet (l : Nat) : Nat := l / 16 % 1024

/-- Its tag. -/
def lineTag (l : Nat) : Nat := l / 16384 % 2 ^ 19

/-- Its channel (R354). -/
def lineChan (l : Nat) : Nat := (l % 8) ^^^ (l / 256 % 8) ^^^ (l / 65536 % 8)

/-- Where a line lies in its channel (R354). -/
structure DdrPlace where
  /-- [3] bank group. -/
  group : Nat
  /-- [2] bank. -/
  bank : Nat
  /-- [10] column address of its two bursts, one on each subchannel. -/
  column : Nat
  /-- [1] rank. -/
  rank : Nat
  /-- [18] row. -/
  row : Nat
  deriving DecidableEq, Repr

/-- The place of line `l` in a channel trained with DDR_CFG `cfg`: DENSITY gives 16 to 18 row bits and RANKS one rank or two
(R353, R354). -/
def ddrPlace (cfg : BitVec 32) (l : Nat) : DdrPlace :=
  let cl := l / 8
  let two := bit cfg 2
  { group := cl % 8, bank := cl / 8 % 4, column := 16 * (cl / 32 % 64)
    rank := if two then cl / 2 ^ 11 % 2 else 0
    row := (if two then cl / 2 ^ 12 else cl / 2 ^ 11) % 2 ^ (16 + fld cfg 0 2) }

/-- The number of a place's bank among those of its channel. -/
def DdrPlace.number (p : DdrPlace) : Nat := 32 * p.rank + 4 * p.group + p.bank

/-- The line held in slice `n`, set `i` with tag `t`: the inverse of R337. -/
def lineOf (n i t : Nat) : Nat :=
  let hi := (t * 1024 + i) % 2 ^ 29
  16 * hi + (n ^^^ (hi % 16) ^^^ (hi / 16 % 16) ^^^ (hi / 256 % 16))

/-! ### DDR5 bytes -/

/-- What an unlisted DDR5 byte reads as: 0 until the contents have been lost, then a free value (R442). -/
def ddrDefault (gen a : Nat) : BitVec 8 := if gen = 0 then 0 else Config.ddrLost gen a

/-- `n` bytes of DDR5 from device address `a`. -/
def State.ddrBytes (s : State) (a n : Nat) : List (BitVec 8) :=
  (List.range n).map fun i => sget (ddrDefault s.ddr.gen) s.ddr.bytes (a + i)

/-- Bytes stored from `a` up. -/
def ddrPut (gen : Nat) : List Host.Cell → Nat → List (BitVec 8) → List Host.Cell
  | m, _, [] => m
  | m, a, b :: r => ddrPut gen (sset (ddrDefault gen) m a b) (a + 1) r

/-- Write bytes to DDR5. -/
def State.ddrStore (s : State) (a : Nat) (bs : List (BitVec 8)) : State :=
  { s with ddr := { s.ddr with bytes := ddrPut s.ddr.gen s.ddr.bytes a bs } }

/-- The data of line `l`. -/
def State.lineData (s : State) (l : Nat) : BitVec 1024 := BitVec.ofNat 1024 (packBytes (s.ddrBytes (128 * l) 128))

/-! ### Channels -/

/-- Channel `c`. -/
def State.chan (s : State) (c : Nat) : DdrChan := s.ddr.ch.getD c .reset

/-- Change channel `c`. -/
def State.updChan (s : State) (c : Nat) (f : DdrChan → DdrChan) : State :=
  { s with ddr := { s.ddr with ch := upd s.ddr.ch c f } }

/-- Channel `c` has failed: no further access is made to it (R535, R536). -/
def State.failedChan (s : State) (c : Nat) : Bool := s.flt.devFault && s.flt.cause = 1 && decide (s.flt.channel.toNat = c)

/-- The channel's clock is gated (R453). -/
def State.chanGated (s : State) (l : Nat) : Bool := s.gated (.ddr (lineChan l))

/-- A steal holds channel `c` (R520). -/
def stolenNow (s : State) (c : Nat) : Bool := s.cal.stealing.isSome && decide (s.cal.stealCh.toNat = c)

/-- A gap task holds channel `c` (R519). -/
def gapTaskOn (s : State) (c : Nat) : Bool := (s.cal.ch.getD c .reset).running.isSome && !stolenNow s c

/-- The channel can serve. -/
def chanServes (s : State) (c : Nat) : Bool :=
  let x := s.chan c
  decide (c < 8) && x.trained && !x.sr && x.exiting.isNone && !s.gated (.ddr c) && !s.failedChan c

/-- One more access that met a gap task (R519). -/
def countIntrude (s : State) : State := { s with cal := { s.cal with intrudeCnt := satAdd32 s.cal.intrudeCnt 1 } }

/-- A request joins its channel's queue; a channel in self-refresh begins its exit, and one that a gap task holds counts it (R356, R358,
R519). -/
def State.ddrRequest (s : State) (line : Nat) (kind : DdrKind) (cls : Nat) : State :=
  let c := lineChan line
  let s1 := if gapTaskOn s c then countIntrude s else s
  s1.updChan c fun x =>
    { x with
      queue := x.queue ++
        [{ line := line, kind := kind, cls := cls, time := s.te.time, passed := 0, met := gapTaskOn s c, stolen := stolenNow s c }]
      sr := false
      exiting := if x.sr then some s.te.time else x.exiting }

/-- An access of class 2 to line `l` would be served at once: its channel serves, neither a gap task nor a steal holds it, and nothing waits
there but learned prefetches (R356, R519, R521). -/
def State.ddrFast (s : State) (l : Nat) : Bool :=
  let c := lineChan l
  chanServes s c && !stolenNow s c && !gapTaskOn s c && (s.chan c).queue.all fun r => decide (2 < r.cls)

/-- An access to line `l` that is served at once leaves its row open (R356). -/
def State.ddrOpen (s : State) (l : Nat) : State :=
  s.updChan (lineChan l) fun c =>
    let p := ddrPlace c.trainedCfg l
    { c with rows := kset c.rows p.number p.row, emptySince := if c.queue.isEmpty then s.te.time else c.emptySince }

/-- One write more, or fewer, of channel `ch`'s descriptors waits for DDR5 (R371, R389). -/
def State.countPosted (s : State) (ch : Option Nat) (f : Nat → Nat) : State :=
  match ch with
  | some c => { s with dma := { s.dma with ch := upd s.dma.ch c fun x => { x with posted := f x.posted } } }
  | none => s

/-- A write of `bs` at device address `a`, within one line, takes its place in the channel's queue; a gated channel counts it, and a
failed one takes no access (R339, R356, R453, R536). -/
def State.ddrWrite (s : State) (a : Nat) (bs : List (BitVec 8)) (ch : Option Nat) : State :=
  if s.chanGated (a / 128) then s.countGated
  else if s.failedChan (lineChan (a / 128)) then s
  else (s.ddrRequest (a / 128) (.write (a % 128) bs ch) 2).countPosted ch (· + 1)

/-- Write bytes line by line. -/
def State.ddrWriteLines (ch : Option Nat) : Nat → Nat → List (BitVec 8) → State → State
  | 0, _, _, s => s
  | fuel + 1, a, bs, s =>
    if bs.isEmpty then s
    else
      let n := 128 - a % 128
      State.ddrWriteLines ch fuel (a + n) (bs.drop n) (s.ddrWrite a (bs.take n) ch)

/-- The DDR5 bytes after the write of a request. -/
def DdrReq.store (gen : Nat) (m : List Host.Cell) (r : DdrReq) : List Host.Cell :=
  match r.kind with
  | .write off bs _ => ddrPut gen m (128 * r.line + off) bs
  | _ => m

/-- `n` bytes of the line at device address `a`, as they stand once the writes that wait in its channel's queue have been performed. -/
def State.ddrSoon (s : State) (a n : Nat) : List (BitVec 8) :=
  let m := (s.chan (lineChan (a / 128))).queue.foldl (DdrReq.store s.ddr.gen) s.ddr.bytes
  (List.range n).map fun i => sget (ddrDefault s.ddr.gen) m (a + i)

/-! ### Slices and ways -/

/-- Slice `n` is bypassed: OFF, WAKING, fenced, or the cache's clock is gated (R352, R453). -/
def State.bypassed (s : State) (n : Nat) : Bool :=
  !(s.sc.sliceState.getD n .off).live || bit s.sc.fence n || s.gated .sc

/-- The key of a way. -/
def wayKey (l w : Nat) : Nat := 16384 * lineSlice l + 16 * lineSet l + w

/-- The way that holds line `l` (R337). -/
def StreamCache.wayOf (c : StreamCache) (l : Nat) : Option Nat :=
  (List.range 16).find? fun w => match kget c.lines (wayKey l w) with
    | some x => decide (x.tag = lineTag l)
    | none => false

/-- The present line `l`. -/
def StreamCache.present (c : StreamCache) (l : Nat) : Option CacheLine :=
  match c.wayOf l with
  | some w => kget c.lines (wayKey l w)
  | none => none

/-- The nodes of the tree on the way to leaf `w`, and whether the path goes right there (R338). -/
def plruPath (w : Nat) : List (Nat × Bool) :=
  let b (i : Nat) : Nat := b2n (w.testBit i)
  [(0, w.testBit 3), (1 + b 3, w.testBit 2), (3 + 2 * b 3 + b 2, w.testBit 1), (7 + 4 * b 3 + 2 * b 2 + b 1, w.testBit 0)]

/-- Way `w` becomes most recently used (`mru`), or least recently used (R338): each node of its path points away from
it, or to it. -/
def plruTouch (t : BitVec 15) (w : Nat) (mru : Bool) : BitVec 15 :=
  (plruPath w).foldl (fun t (n, r) => setBit t n (r != mru)) t

/-- The least recently used way of those from `lo` up, `2^h` ways from `base` below `node` (R338). -/
def plruPick (t : BitVec 15) (lo : Nat) : Nat → Nat → Nat → Nat
  | 0, _, base => base
  | h + 1, node, base =>
    if bit t node || decide (base + 2 ^ h ≤ lo) then plruPick t lo h (2 * node + 2) (base + 2 ^ h)
    else plruPick t lo h (2 * node + 1) base

/-- The order of line `l`'s set. -/
def StreamCache.order (c : StreamCache) (l : Nat) : BitVec 15 := sget (fun _ => 0) c.plru (1024 * lineSlice l + lineSet l)

/-- A way of line `l`'s set becomes most or least recently used. -/
def StreamCache.touch (c : StreamCache) (l w : Nat) (mru : Bool) : StreamCache :=
  { c with plru := sset (fun _ => 0) c.plru (1024 * lineSlice l + lineSet l) (plruTouch (c.order l) w mru) }

/-- The way that a fill of line `l` takes (R338): the one that holds the line, else an empty one, else the least recently
used, of all ways for a declared stream and of ways DECL_WAYS to 15 for a learned prefetch. -/
def StreamCache.fillWay (c : StreamCache) (l : Nat) (declared : Bool) : Nat :=
  let lo := if declared then 0 else fld c.cfg 0 4
  match c.wayOf l with
  | some w => w
  | none =>
    match (List.range 16).find? fun w => decide (lo ≤ w) && (kget c.lines (wayKey l w)).isNone with
    | some w => w
    | none => plruPick (c.order l) lo 4 0 0

/-- Line `l` enters its slice (R338, R344). -/
def StreamCache.fill (c : StreamCache) (l : Nat) (data : BitVec 1024) (poison declared : Bool) : StreamCache :=
  let w := c.fillWay l declared
  ({ c with lines := kset c.lines (wayKey l w) ⟨lineTag l, data, poison⟩ }).touch l w declared

/-! ### Invalidation -/

/-- A fill under way of a line that is invalidated may no longer enter the cache (R341). -/
def DdrReq.stale (r : DdrReq) : DdrReq :=
  { r with
    kind := match r.kind with
      | .declared n g k _ => .declared n g k true
      | .learned n _ => .learned n true
      | x => x }

/-- Every present line whose index satisfies `p` becomes invalid, and fills of such lines may no longer enter. -/
def State.dropLines (s : State) (p : Nat → Bool) : State :=
  { s with
    sc := { s.sc with
      lines := s.sc.lines.filter fun (k, x) => !p (lineOf (k / 16384) (k / 16 % 1024) x.tag) }
    ddr := { s.ddr with
      ch := s.ddr.ch.map fun c => { c with queue := c.queue.map fun r => if p r.line then r.stale else r } } }

/-- A tracker made IDLE (R346): what it still has under way is not its any more. -/
def Tracker.idle (k : Tracker) : Tracker := { Tracker.reset with gen := k.gen + 1 }

end Sys2Proof.Machine
end

