-- ==== Sys2Proof/Machine/StepCmds.lean ====
section
/-! DEFINITION. The life of a step: start, checks and scan, passing the command list, issue, retirement with its mirror,
completion and the deadline (R28 to R38, R53 to R55, R113, R237, R259, R315, R328, R333, R474). -/

namespace Sys2Proof.Machine

/-- What the scan of a step's list finds takes effect (R28, R259): the step goes on, its vector program starting; or it is
rejected, or ends; or it meets a parity error, as a fault. -/
def scanEffect (t : Nat) (u : Bool) (k : Scan) (s : State) : State :=
  match s.run t u with
  | none => s
  | some r =>
    let s1 := s.updRun t u fun r => { r with scan := none }
    let started := if dEng r.desc 0 then vecStart t u true (dVecEntry r.desc) s1 else s1
    let noCold := s1.updRun t u fun r => { r with cold := false }
    match k with
    | .pass => started
    | .reject code => completeStep t u code true noCold
    | .beyond => completeStep t u stRange false noCold
    | .parity => stepFault t u stParity started

/-- The cycle in which a scan of `n` entries that began in cycle `now` takes effect: its last cycle, or, when it passes, the one
after (R259, R315). -/
def scanDue (k : Scan) (now n : Nat) : Nat := if k = .pass then now + n else now + n - 1

/-- A scan whose cycle has come takes effect. -/
def scanEnd (t : Nat) (u : Bool) (s : State) : State :=
  match s.run t u with
  | some r =>
    match r.scan with
    | some (k, due) => if s.tileLive t && decide (s.cycle ≥ due) then scanEffect t u k s else s
    | none => s
  | none => s

/-- STEP_START (R28, R30, R37, R112, R196, R259, R310, R315, R448): no hold applies to a descriptor placed in an earlier cycle,
nor does the tile apply a commit or park in this one, and one that waited while the tile applied a commit is checked again in the
cycle after.  The descriptor leaves the issue register; the first four checks are
made, and the scan of the command list begins, one entry a cycle. -/
def execStepStart (tile : Nat) (urgent : Bool) (s : State) : Out :=
  let x := (s.tile tile).st
  match if urgent then x.issueU else x.issueN with
  | none => .next s
  | some i =>
    if !s.tileLive tile || decide (s.cycle ≤ i.placed) || stepHeld x urgent i.desc s.cycle || s.parksNow tile || s.appliesNow tile
        || x.checksNext i.placed s.cycle then
      .next s
    else
      let d := i.desc
      let run := startRun i s.cycle
      let s1 := s.updSt tile fun x =>
        if urgent then { x with issueU := none, gaveU := some s.cycle, runU := some run }
        else { x with issueN := none, gaveN := some s.cycle, runN := some run }
      match checkDesc d x.epoch with
      | some code => .next (completeStep tile urgent code true s1)
      | none =>
        let (k, n) := if dList d = 0 then (Scan.pass, 0) else scanList s tile listFuel (dList d) false 0
        .next (scanEnd tile urgent (s1.updRun tile urgent fun r =>
          { r with cold := judgeCold d x.carried, scan := some (k, scanDue k s.cycle n) }))

/-- LIST_ENTRY_PASS (R237): the next entry goes to its engine.  The end entry ends the list; an entry of undefined type,
an engine bit that is 0, or a list that runs past local RAM ends the step with STEP_RANGE; a parity error is a fault.
STREAM, TAKE, DOORBELL and POST entries are taken by their own events. -/
def execListEntryPass (tile : Nat) (urgent : Bool) (s : State) : Out :=
  match s.run tile urgent with
  | none => .next s
  | some r =>
    if !s.tileLive tile || r.listDone || r.final.isSome || r.scan.isSome || invalWaits s tile urgent then .next s
    else
      let i := entryIndex r
      match listEntry s tile r.listAt with
      | none => .next (endStep tile urgent stRange s)
      | some e =>
        if e.bad then .next (stepFault tile urgent stParity s)
        else
          let ty := eType e.raw
          if ty = 0 then .next (s.updRun tile urgent fun r => { r with listDone := true })
          else if ty ≥ 0x0B then .next (malformed tile urgent (arrErr tile 7 0 i s))
          else if ty ≥ 7 then .next s
          else
            let en := engOf e.raw
            if !dEng r.desc en then .next (malformed tile urgent (engBitErr tile en i s))
            else
              let c := cmdOf s tile urgent i e.raw
              .next (advanceList tile urgent (s.updTile tile fun x => setEngQ en (enqueue x c (engQ en x)) x))

/-- ENGINE_CMD_ISSUE (R53, R55): the command at issue at an engine issues and takes its entries, or stays held. -/
def execEngineCmdIssue (tile engine : Nat) (s : State) : Out :=
  .next (if s.tileLive tile then tryIssue tile engine s else s)

/-! ### Mirrors of steps (R473, R474) -/

/-- The device copies writes into its windows to its partner (R473, R479). -/
def mirrorOn (s : State) : Bool := s.bond.paired && s.bond.active && !s.bond.suspended

/-- SPACE of a window; 3 is treated as 0 (R484). -/
def MirrorWindow.space (w : MirrorWindow) : Nat := if fld w.a 0 2 = 3 then 0 else fld w.a 0 2
/-- TILE. -/
def MirrorWindow.tile (w : MirrorWindow) : Nat := fld w.a 2 4
/-- LAG_N. -/
def MirrorWindow.lag (w : MirrorWindow) : Nat := fld w.a 6 4
/-- START: a course for SPACE 1, a handle for SPACE 2. -/
def MirrorWindow.start (w : MirrorWindow) : Nat := if w.space = 1 then fld w.b 0 15 else fld w.b 0 32
/-- LENGTH. -/
def MirrorWindow.len (w : MirrorWindow) : Nat := fld w.b 32 32

/-- The part of a range that a window of courses covers. -/
def MirrorWindow.cut (w : MirrorWindow) (g : Range) : Range :=
  let a := max g.start w.start
  let b := min (g.start + g.length) (w.start + w.len)
  { start := a, length := b - a, write := false, carried := false }

/-- The windows of a step: those of its tile's store that overlap one of its write ranges, with the ranges to copy. -/
def stepWindows (t : Nat) (r : StepRun) : List (Nat × MirrorWindow × Range) :=
  let ws := r.wins.filter fun w => w.2.space = 1 && decide (w.2.tile = t)
  (ws.flatMap fun w => (((descRanges r.desc).filter (·.write)).map fun g => (w.1, w.2, w.2.cut g))).filter
    fun c => decide (c.2.2.length > 0)

/-- The mirror of a step at its retirement (R474). -/
def newMirror (s : State) (t : Nat) (u : Bool) (r : StepRun) : Option Mirror :=
  let ws := stepWindows t r
  if !mirrorOn s || ws.isEmpty then none
  else
    let left := ws.flatMap fun c => (List.range c.2.2.length).map fun i => (c.2.2.start + i, c.1)
    some { tile := t, urgent := u, left := left, ranges := ws.map fun c => c.2.2, count := left.length, since := s.te.time
           entered := false, lastSeq := none, lag := ws.foldl (fun n c => min n c.2.1.lag) 15, past := false, acked := false
           copy := false }

/-- A mirror takes its read entries, ahead of every command at issue, when they suffice. -/
def enterMirror (t : Nat) (u : Bool) (s : State) : State :=
  match mirrorOf s t u with
  | none => s
  | some m =>
    if m.entered || !(s.tile t).ts.mayIssue 6 u m.ranges then s
    else
      let s1 := s.updTs t fun ts => ts.issue 6 u m.ranges
      { s1 with bond := { s1.bond with mirrors := mapFirst (fun m => !m.past && m.tile == t && m.urgent == u) (fun m => { m with entered := true }) s1.bond.mirrors } }

/-- STEP_RETIRE (R33, R474): the engines have retired the step's last run and its last drain-buffer course has left; its
final status is OK and its mirror begins, or waits for entries. -/
def execStepRetire (tile : Nat) (urgent : Bool) (s : State) : Out :=
  match s.run tile urgent with
  | none => .next s
  | some r =>
    if !s.tileLive tile then .next s
    else if r.final.isSome then .next (enterMirror tile urgent s)
    else if !engDone s tile urgent r then .next s
    else
      let s1 := s.updRun tile urgent fun r => { r with final := some (BitVec.ofNat 8 stOk) }
      match newMirror s tile urgent r with
      | none => .next s1
      | some m => .next (enterMirror tile urgent { s1 with bond := { s1.bond with mirrors := s1.bond.mirrors ++ [m] } })

/-- Whether a step's mirror lets it complete (R474, R479): its read entries have been taken, and no more than n mirrored steps of
its tile, counting this one, lack the partner's acknowledgement. -/
def mirrorDone (s : State) (m : Mirror) : Bool :=
  !mirrorOn s || m.entered && decide ((s.bond.mirrors.filter fun l => l.tile = m.tile && !l.acked && !l.copy).length ≤ m.lag)

/-- The step of a mirror completes; the mirror goes on until it is acknowledged, or ends when mirroring is off. -/
def leaveMirror (t : Nat) (u : Bool) (s : State) : State :=
  if mirrorOn s && !((mirrorOf s t u).map (·.acked)).getD true then
    { s with bond := { s.bond with mirrors := mapFirst (fun m => !m.past && m.tile == t && m.urgent == u) (fun m => { m with past := true }) s.bond.mirrors } }
  else dropMirror t u s

/-- The SYNC wait beyond 0.6 µs and 4.625 ns a course, in whole ns (R475). -/
def syncExcess (s : State) (m : Mirror) : Nat := if m.lag = 0 then (8 * (s.te.time - m.since) - 4800 - 37 * m.count) / 8 else 0

/-- STEP_COMPLETE (R33, R37, R113, R317, R334, R474): the step reports its status word. -/
def execStepComplete (tile : Nat) (urgent : Bool) (s : State) : Out :=
  match s.run tile urgent with
  | none => .next s
  | some r =>
    match r.final with
    | none => .next s
    | some code =>
      if !s.tileLive tile then .next s
      else
        match mirrorOf s tile urgent with
        | none => .next (completeStep tile urgent code.toNat false s)
        | some m =>
          if mirrorDone s m then
            let s1 := leaveMirror tile urgent s
            .next (completeStep tile urgent code.toNat false
              { s1 with bond := { s1.bond with syncExcess := satAdd32 s1.bond.syncExcess (syncExcess s m) } })
          else .next s

/-- The DEADLINE event of a watched step: event 66, once (R36, R328). -/
def deadlineEvent (t : Nat) (s : State) : State := s.latchEvent t 66

/-- DEADLINE_PASS (R327, R328): the tile's copy of TIME exceeds the DEADLINE of a step in progress, or of a descriptor in
an issue register. -/
def execDeadlinePass (tile : Nat) (urgent waiting : Bool) (s : State) : Out :=
  let x := (s.tile tile).st
  if !s.tileLive tile then .next s
  else if waiting then
    match if urgent then x.issueU else x.issueN with
    | some i =>
      if !i.dlSet && decide (s.copyOf tile > dDeadline i.desc) then
        .next (deadlineEvent tile (s.updSt tile fun x =>
          if urgent then { x with issueU := x.issueU.map fun i => { i with dlSet := true } }
          else { x with issueN := x.issueN.map fun i => { i with dlSet := true } }))
      else .next s
    | none => .next s
  else
    match s.run tile urgent with
    | some r =>
      if !r.dlSet && decide (s.copyOf tile > dDeadline r.desc) then
        .next (deadlineEvent tile (s.updRun tile urgent fun r => { r with dlSet := true }))
      else .next s
    | none => .next s

/-! ### STEP_ registers (R333) -/

/-- A write of STEP_CNT_CLR. -/
def stepCntClr (v : BitVec 32) (x : StepUnit) : StepUnit :=
  { x with
    slipMax := if bit v 0 then 0 else x.slipMax
    dlCnt := if bit v 1 then 0 else x.dlCnt
    holdCnt := if bit v 2 then 0 else x.holdCnt
    seqSlip := if bit v 3 then 0 else x.seqSlip
    seqInt := if bit v 3 then 0 else x.seqInt
    now := x.now.zeroed v }

/-- The counters as they read: events of the cycle in which they were cleared are not counted (R334). -/
def StepUnit.settle (x : StepUnit) : StepUnit := stepCntClr x.now.clr x

/-- STEP_CNT_CLR. -/
def execStepCntClr (who : Who) (tile : Nat) (value : BitVec 32) (s : State) : Out :=
  .next (if tile < 16 then regWrite who (.tile tile) .yes (fun z => z.updSt tile (stepCntClr value)) s else s)

/-- The STEP_ register at offset `o`: its value and its width in bytes. -/
def StepUnit.readReg (x : StepUnit) (o : Nat) : Option (Nat × Nat) :=
  if o = 0x000 then some (x.slipN.toNat, 4)
  else if o = 0x004 then some (x.slipU.toNat, 4)
  else if o = 0x008 then some (x.elapsedN.toNat, 4)
  else if o = 0x00C then some (x.elapsedU.toNat, 4)
  else if o = 0x010 then some (x.slipMax.toNat, 4)
  else if o = 0x014 then some (x.dlCnt.toNat, 4)
  else if o = 0x018 then some (x.holdCnt.toNat, 4)
  else if o = 0x01C then some (x.seqSlip.toNat, 4)
  else if o = 0x020 then some (x.seqInt.toNat, 4)
  else if o = 0x024 then some (0, 4)
  else if 0x040 ≤ o && o < 0x064 && o % 4 = 0 then some ((x.srcN.getD ((o - 0x40) / 4) 0).toNat, 4)
  else if 0x080 ≤ o && o < 0x0A4 && o % 4 = 0 then some ((x.srcU.getD ((o - 0x80) / 4) 0).toNat, 4)
  else none

end Sys2Proof.Machine
end

