-- ==== Sys2Proof/Machine/BondOps.lean ====
section
/-! DEFINITION. What other units send over the bond link: numbered frames, mirror writes of DDR5, context and queue copies
(R471, R473, R477, R478). -/

namespace Sys2Proof.Machine

/-- The device is the standby of its pair (R464). -/
def standby (s : State) : Bool := s.bond.paired && !s.bond.active

/-- Frame types of R471. -/
def bMwr : Nat := 0
def bAck : Nat := 1
def bNak : Nat := 2
def bWing : Nat := 3
def bState : Nat := 4
def bCtx : Nat := 5
def bCtrl : Nat := 6

/-- Queue a frame with the next FSEQ (R471). -/
def State.bondSend (s : State) (type win : Nat) (addr : BitVec 64) (payload : List (BitVec 8)) : State :=
  { s with
    bond := { s.bond with
      txq := s.bond.txq ++ [⟨type, win, s.bond.txSeq, addr, payload⟩]
      txSeq := s.bond.txSeq + 1 } }

/-- Queue an ACK or NAK, which carries in FSEQ the number it names and takes none of its own. -/
def State.bondReply (s : State) (type : Nat) (fseq : BitVec 32) : State :=
  { s with bond := { s.bond with txq := s.bond.txq ++ [⟨type, 0, fseq, 0, []⟩] } }

/-- The window of DDR5 that holds line `l` (R473). -/
def ddrWindow (s : State) (l : Nat) : Option Nat :=
  (s.bond.win.find? fun w => w.2.space = 2 && decide (2 * w.2.start ≤ l) && decide (l < 2 * (w.2.start + w.2.len))).map (·.1)

/-- Line `l` is read for a frame of window `w`, which leaves once its channel has served the read (R356, R473); a gated channel
answers zeros (R453). -/
def mirrorSend (w l : Nat) (s : State) : State :=
  let addr := BitVec.ofNat 64 (128 * l)
  if s.chanGated l then s.countGated.bondSend bMwr w addr (List.replicate 128 0)
  else (s.ddrRequest l (.mirror s.bond.txSeq) 2).bondSend bMwr w addr (List.replicate 128 0)

/-- Copy line `l`, just written, to the standby when it lies in a window: read back whole. -/
def mirrorLine (l : Nat) (s : State) : State :=
  if !mirrorOn s || s.chanGated l then s
  else
    match ddrWindow s l with
    | some w => mirrorSend w l s
    | none => s

/-- The lines of `n` bytes written at device address `a` are copied. -/
def mirrorLines (a n : Nat) (s : State) : State :=
  if n = 0 then s else (List.range' (a / 128) ((a + n - 1) / 128 + 1 - a / 128)).foldl (fun z l => mirrorLine l z) s

/-- A DMA write of DDR5, of channel `ch`'s data where one is named: past the cache, and copied to the standby (R339, R473). -/
def dmaDdrWrite (a : Nat) (bs : List (BitVec 8)) (ch : Option Nat) (s : State) : State :=
  mirrorLines a bs.length (State.ddrWriteLines ch (bs.length + 1) a bs s)

/-- Contexts, queue registers and records are copied (R477). -/
def cqMirrored (s : State) : Bool := mirrorOn s && s.bond.mirrorCq

/-- A ring's context and its state go to the standby. -/
def sendRing (n : Nat) (raw : BitVec 512) (live : RingLive) (s : State) : State :=
  s.bondSend bCtx 0 (BitVec.ofNat 64 n) (unpackBytes 64 (setFld (setFld raw 288 3 live.state.toNat) 291 2 live.cause.toNat).toNat)

/-- A ring context change made by DMA_RING_CMD is copied. -/
def mirrorRing (n : Nat) (raw : BitVec 512) (live : RingLive) (s : State) : State :=
  if cqMirrored s then sendRing n raw live s else s

/-- DMA_CQ_CFG as its register shows it (R390). -/
def DmaCq.cfgReg (q : DmaCq) : Nat := q.cfg.toNat + 2 ^ 16 * q.tail.toNat + 2 ^ 32 * b2n q.phase

/-- The registers of queue `n` as a frame's payload. -/
def cqPayload (q : DmaCq) : List (BitVec 8) :=
  unpackBytes 8 q.base.toNat ++ unpackBytes 8 q.cfgReg ++ unpackBytes 8 q.head.toNat ++ List.replicate 40 0

/-- A queue's registers go to the standby. -/
def sendCq (n : Nat) (q : DmaCq) (s : State) : State := s.bondSend bCtx 0 (BitVec.ofNat 64 (2 ^ 32 + n)) (cqPayload q)

/-- A host write of a queue's registers is copied. -/
def mirrorCqRegs (n : Nat) (q : DmaCq) (s : State) : State := if cqMirrored s then sendCq n q s else s

/-- The payload of a STATE frame (R478): the record, its slot, the queue's new TAIL and PHASE, and the ring's HEAD, EXP_HSEQ,
LIMIT, BYTE_CNT and DESC_CNT, at fixed bytes. -/
def statePayload (bits : BitVec 256) (slot tail : BitVec 16) (phase : Bool) (ctx : BitVec 512) : List (BitVec 8) :=
  unpackBytes 32 bits.toNat ++ unpackBytes 2 slot.toNat ++ unpackBytes 2 tail.toNat ++ unpackBytes 2 (b2n phase)
    ++ unpackBytes 2 (fld ctx 96 16) ++ unpackBytes 4 (fld ctx 128 32) ++ unpackBytes 4 (fld ctx 160 32)
    ++ unpackBytes 8 (fld ctx 192 64) ++ unpackBytes 4 (fld ctx 256 32) ++ List.replicate 4 0

end Sys2Proof.Machine
end

