-- ==== Sys2Proof/Machine/ClkOps.lean ====
section
/-! DEFINITION. Clock sources and SAFE_HOLD, changes of operating point, clock gating and the CLK_ and PWR_ registers
(R437 to R459). -/

namespace Sys2Proof.Machine

/-! ### Losing every state (R442, R554, R559) -/

/-- What is left when the clocks stop for good: the pins, the source states, the reset causes, the flash and the PUF SRAM;
DDR5 goes unrefreshed and loses its contents. The quoin runs nothing. -/
def State.lost (s : State) : State :=
  { State.reset with
    pending := s.pending
    freeCnt := s.freeCnt
    quoin := { Quoin.reset with
      seq := { Quoin.reset.seq with halted := true }
      puf := s.quoin.puf }
    ddr := { Ddr.reset with gen := s.ddr.gen + 1 }
    host := { HostIf.reset with perst := s.host.perst }
    te := { TimeEvt.reset with inLevel := s.te.inLevel }
    clk := { Clock.reset with
      refState := s.clk.refState
      xtalState := s.clk.xtalState
      refGood := 0
      jtag := s.clk.jtag
      causeReset := s.clk.causeReset
      causeSafe := s.clk.causeSafe }
    sec := { Sec.reset with
      grade := s.sec.grade
      flash := s.sec.flash
      pufZeroed := s.sec.pufZeroed
      resetLow := s.sec.resetLow
      tripped := s.sec.tripped } }

/-- The state of EGG on straps sampled now (R486, R488): the quoin runs its boot ROM, and the strapped roles show. -/
def State.hatch (s : State) (straps : BitVec 6) : State :=
  let l := s.lost
  { l with
    quoin := { l.quoin with seq := Quoin.reset.seq }
    sec := { l.sec with straps := straps }
    chain := { l.chain with head := bit straps 1 }
    bond := { l.bond with active := bit straps 2 } }

/-! ### Sources (R437 to R442) -/

/-- Normal service: the monitor is trimmed, and the device is neither in SAFE_HOLD nor in JTAG test mode (R438). -/
def Clock.normal (c : Clock) : Bool := c.monTrimmed && !c.safeHold && !c.jtag

/-- A source's state. -/
def Clock.srcState (c : Clock) (xtal : Bool) : BitVec 2 := if xtal then c.xtalState else c.refState

/-- Set it. -/
def Clock.setSrc (c : Clock) (xtal : Bool) (v : BitVec 2) : Clock := if xtal then { c with xtalState := v } else { c with refState := v }

/-- Change the clock state. -/
def State.updClk (s : State) (f : Clock → Clock) : State := { s with clk := f s.clk }

/-- The PUF SRAM as it reads now. -/
def pufRaw (s : State) : List (BitVec 8) :=
  (List.range 4096).map fun a => if s.sec.pufZeroed then 0 else sget Config.pufByte s.quoin.puf a

/-- The quoin starts, in EGG, on its first source: the boot ROM reads the raw PUF before anything can write it (R486, R491). -/
def romStart (s : State) : State := { s with sec := { s.sec with raw := pufRaw s } }

/-- A source becomes QUALIFIED; the first of them is taken, and REFCLK where both become so in one cycle in EGG (R440). -/
def srcQualified (xtal : Bool) (s : State) : State :=
  let tie := s.sec.life = .egg && s.clk.chosenAt = some s.cycle && !xtal
  (if s.clk.chosen || s.clk.safeHold then s else romStart s).updClk fun c =>
    let c1 := c.setSrc xtal 2
    if c1.safeHold then c1
    else if !c1.chosen then { c1 with chosen := true, activeXtal := xtal, chosenAt := some s.cycle }
    else if tie then { c1 with activeXtal := false }
    else c1

/-- The multiplexer changes to the other source (R440). -/
def srcSwitch (s : State) : State :=
  (s.updClk fun c =>
    { c with
      activeXtal := !c.activeXtal
      holdover := true
      switchCnt := satAdd32 c.switchCnt 1 }).devSource 298

/-- The device enters SAFE_HOLD (R441): every state but what R442 keeps is lost. -/
def safeHoldEnter (s : State) : State := s.lost.updClk fun c => { c with safeHold := true }

/-- A source is lost for use, with the state `v` (FAILED, or ABSENT): the active one is switched away from, or SAFE_HOLD is
entered. -/
def srcLost (xtal : Bool) (v : BitVec 2) (s : State) : State :=
  let s1 := s.updClk fun c => c.setSrc xtal v
  if s.clk.chosen && s.clk.activeXtal == xtal then
    if s1.clk.srcState (!xtal) = 2 then srcSwitch s1 else safeHoldEnter s1
  else s1

/-- The MON_CLK count expected of a window of 65,536 cycles. -/
def windowCount (xtal : Bool) : Nat := if xtal then 1310720 else 327680

/-- A count within `p` per cent of the one expected. -/
def within (p count expected : Nat) : Bool :=
  decide (100 * count ≤ (100 + p) * expected) && decide ((100 - p) * expected ≤ 100 * count)

/-- CLK_WINDOW_END (R438, R439, R515): a counter window of a source ends with `count` cycles of MON_CLK; one that a trim has
spoilt is not judged. -/
def execClkWindowEnd (xtal : Bool) (count : Nat) (s : State) : Out :=
  let st := s.clk.srcState xtal
  let k := if xtal then 1 else 0
  if s.sec.resetLow || s.sec.tripped || st = 0 || st = 3 then .next s
  else if s.cal.windowSpoilt.getD k false then
    .next { s with cal := { s.cal with windowSpoilt := lput s.cal.windowSpoilt k false } }
  else if s.clk.normal then
    let good := within 2 count (windowCount xtal)
    if st = 1 then .next (if good then srcQualified xtal s else s)
    else .next (if good then s else srcLost xtal 3 s)
  else if xtal then .next s
  else
    let good := within 15 count (windowCount false)
    if st = 1 then
      if !good then .next (s.updClk fun c => { c with refGood := 0 })
      else if s.clk.refGood = 0 then .next (s.updClk fun c => { c with refGood := 1 })
      else .next (srcQualified false (s.updClk fun c => { c with refGood := 0 }))
    else .next (if good then s else srcLost false 3 s)

/-- CLK_STOP_DETECT (R439). -/
def execClkStopDetect (xtal : Bool) (s : State) : Out :=
  .next (if s.clk.srcState xtal = 2 && !s.sec.resetLow && !s.sec.tripped then srcLost xtal 3 s else s)

/-- XTAL_AMPLITUDE_DONE (R438). -/
def execXtalAmplitudeDone (s : State) : Out :=
  .next (if s.clk.xtalState = 1 && !s.clk.normal && !s.sec.resetLow && !s.sec.tripped then srcQualified true s else s)

/-- XTAL_AMPLITUDE_LOSS (R439). -/
def execXtalAmplitudeLoss (s : State) : Out :=
  .next (if s.clk.xtalState = 2 && !s.clk.normal && !s.sec.resetLow && !s.sec.tripped then srcLost true 3 s else s)

/-- CLK_SOURCE_EDGES_RETURN (R437): a source shows edges and is judged, in windows that no trim has spoilt yet. -/
def execClkSourceEdgesReturn (xtal : Bool) (s : State) : Out :=
  let st := s.clk.srcState xtal
  .next (if (st = 0 || st = 3) && (!xtal || s.clk.xtalEn) && !s.sec.resetLow && !s.sec.tripped then
    let s1 := s.updClk fun c => { c.setSrc xtal 1 with refGood := if xtal then c.refGood else 0 }
    { s1 with cal := { s1.cal with windowSpoilt := lput s1.cal.windowSpoilt (b2n xtal) false } }
  else s)

/-- PLL_REACQUIRE_DONE (R440). -/
def execPllReacquireDone (s : State) : Out := .next (s.updClk fun c => { c with holdover := false })

/-- SAFE_HOLD_RESTART (R442, R488): a source is QUALIFIED; the device restarts from EGG on the straps found now. -/
def execSafeHoldRestart (straps : BitVec 6) (s : State) : Out :=
  if s.clk.safeHold && !s.sec.resetLow && !s.sec.tripped && (s.clk.refState = 2 || s.clk.xtalState = 2) then
    .next ((romStart (s.hatch straps)).updClk fun c =>
      { c with
        chosen := true
        activeXtal := decide (s.clk.refState ≠ 2)
        causeReset := false
        causeSafe := true })
  else .next s

/-- A write of CLK_SRC_CTRL (R437, R440): XTAL_EN, and REVERT. -/
def srcCtrlWrite (v : BitVec 32) (s : State) : State :=
  let s1 := s.updClk fun c => { c with xtalEn := bit v 1 }
  let s2 := if !bit v 1 && s.clk.xtalState ≠ 0 then srcLost true 0 s1 else s1
  if bit v 0 && s2.clk.activeXtal && s2.clk.chosen && s2.clk.refState = 2 then srcSwitch s2 else s2

/-- CLK_REVERT: a write of CLK_SRC_CTRL with REVERT = 1. -/
def execClkRevert (who : Who) (value : BitVec 32) (s : State) : Out := .next (regWrite who .always .no (srcCtrlWrite value) s)

/-- XTAL_EN_WRITE: a write of CLK_SRC_CTRL. -/
def execXtalEnWrite (who : Who) (value : BitVec 32) (s : State) : Out := .next (regWrite who .always .no (srcCtrlWrite value) s)

/-! ### The 40 domains (R443 to R445) -/

/-- What a clock domain is derived from (R444). -/
inductive ClkParent where
  /-- CORE_PLL, by the divider of the operating point. -/
  | core
  /-- DDR_PLL. -/
  | ddr
  /-- SYS_PLL. -/
  | sys
  /-- the PCIe SerDes PLL. -/
  | pcie
  /-- the bond SerDes PLL. -/
  | bondTx
  /-- the bond receivers' recovered clock. -/
  | bondRx
  /-- the TCK pin. -/
  | tck
  /-- the monitor's ring oscillator. -/
  | ring
  deriving DecidableEq, Repr

/-- A clock domain: its parent, its fixed divider, its frequency in kHz at P0 with the PLLs locked (of DBG_CLK the highest, of
MON_CLK the nominal one), and its gate bit (R444). -/
structure Domain where
  parent : ClkParent
  div : Nat
  khz : Nat
  gate : Option Nat
  deriving DecidableEq, Repr

/-- The domain with code `k` in CLK_OUT_CFG.SEL (R444). -/
def domain (k : Nat) : Option Domain :=
  if k < 16 then some ⟨.core, 1, 1250000, some k⟩
  else if k = 16 then some ⟨.core, 1, 1250000, none⟩
  else if k = 17 then some ⟨.core, 1, 1250000, some 16⟩
  else if k = 18 then some ⟨.core, 1, 1250000, some 17⟩
  else if k < 27 then some ⟨.ddr, 2, 1600000, some (k - 1)⟩
  else
    match k with
    | 27 => some ⟨.sys, 4, 1000000, none⟩
    | 28 => some ⟨.pcie, 1, 1000000, none⟩
    | 29 => some ⟨.bondTx, 1, 1000000, some 27⟩
    | 30 => some ⟨.bondRx, 1, 1000000, some 27⟩
    | 31 => some ⟨.sys, 4, 1000000, some 26⟩
    | 32 => some ⟨.sys, 5, 800000, none⟩
    | 33 => some ⟨.sys, 10, 400000, some 28⟩
    | 34 => some ⟨.sys, 4, 1000000, none⟩
    | 35 => some ⟨.sys, 16, 250000, none⟩
    | 36 => some ⟨.sys, 200, 20000, none⟩
    | 37 => some ⟨.tck, 1, 50000, none⟩
    | 38 => some ⟨.sys, 20, 200000, none⟩
    | 39 => some ⟨.ring, 1, 500000, none⟩
    | _ => none

/-- The present frequency of a domain in kHz, its PLL locked: a CORE_PLL domain follows the divider, 2.5 GHz over half steps (R445,
R449). -/
def Domain.now (d : Domain) (c : Clock) : Nat :=
  match d.parent with
  | .core => 2 * 2500000 / c.divider
  | _ => d.khz

/-- Whether domain `k` has its clock: it is not gated, and of the internal domains only MON_CLK runs in SAFE_HOLD, and none after a trip
(R441, R451, R559). -/
def State.domainRuns (s : State) (k : Nat) : Bool :=
  match domain k with
  | none => false
  | some d =>
    (s.alive || d.parent == .ring && !s.sec.tripped)
      && match d.gate with
        | some g => bit s.clk.gate g
        | none => true

/-- LOCK, the pin (R443). -/
def lockPin (s : State) : Bool :=
  s.alive && decide (fld s.clk.pll 0 3 = 7) && !s.clk.holdover && s.clk.chosen && s.clk.srcState s.clk.activeXtal = 2

/-! ### Operating point (R445 to R450) -/

/-- The divider of a point, in half steps. -/
def pointDiv (p : BitVec 2) : Nat := [4, 5, 6, 8].getD p.toNat 8

/-- Start the AVSBus write of the target's voltage. -/
def avsStart (s : State) : State :=
  s.updClk fun c =>
    { c with
      dvfs := .avs
      dvfsFrom := s.te.time
      avsMv := c.opp.getD c.target.toNat 0 }

/-- The tiles are released. -/
def unpark (s : State) : State :=
  { s with
    tiles := s.tiles.map fun x => { x with st := { x.st with parked := false } }
    clk := { s.clk with
      parkPending := 0
      parkCnt := satAdd32 s.clk.parkCnt (s.te.time - s.clk.dvfsFrom) } }

/-- The divider moves one half-integer step towards its target. -/
def divStep (c : Clock) : Clock :=
  let d := pointDiv c.target
  { c with divider := if c.divider < d then c.divider + 1 else if c.divider > d then c.divider - 1 else c.divider }

/-- Every change begins so: a raise writes the voltage first, a lower parks first.  `park` begins the parking. -/
def dvfsBegin (p : BitVec 2) (park : State → State) (s : State) : State :=
  let s1 := s.updClk fun c => { c with target := p, nextTarget := none }
  if p.toNat < s.clk.point.toNat then avsStart s1 else park s1

/-- The change is complete: POINT, the count and the line. -/
def dvfsEnd (s : State) : State :=
  let s1 := s.updClk fun c =>
    { c with
      point := c.target
      dvfs := .idle
      dvfsCnt := satAdd32 c.dvfsCnt 1 }
  if bit s.clk.dvfsReq 8 then s1.pulse (BitVec.ofNat 64 (2 ^ fld s.clk.dvfsReq 2 6)) else s1

/-- The ramp is over: a raise is complete, a lower writes its voltage. -/
def rampEnd (s : State) : State :=
  let s1 := unpark s
  if s.clk.target.toNat < s.clk.point.toNat then dvfsEnd s1 else avsStart s1

/-- The ramp begins once no tile is waited for. -/
def parkCheck (s : State) : State :=
  if s.clk.dvfs = .park && s.clk.parkPending = 0 then
    let s1 := s.updClk fun c => { divStep c with dvfs := .ramp }
    if s1.clk.divider = pointDiv s1.clk.target then rampEnd s1 else s1
  else s

/-- The park request reaches every unfenced tile. -/
def parkStart (s : State) : State :=
  parkCheck (s.updClk fun c =>
    { c with
      dvfs := .park
      dvfsFrom := s.te.time
      parkPending := ~~~s.mor.fenced })

/-- A completed change is followed by the next target, when one was requested. -/
def dvfsNext (s : State) : State :=
  match s.clk.dvfs, s.clk.nextTarget with
  | .idle, some p =>
    if p = s.clk.point then s.updClk fun c => { c with nextTarget := none } else dvfsBegin p parkStart s
  | _, _ => s

/-- A request for point `p`. -/
def dvfsAsk (p : BitVec 2) (s : State) : State :=
  if (p = 0 && s.sec.grade = 1) || s.mor.mixed || s.clk.avsErr then
    s.updClk fun c => { c with refused := true, now := c.now.note 5 true }
  else
    match s.clk.dvfs with
    | .idle => if p = s.clk.point then s else dvfsNext (dvfsBegin p parkStart s)
    | _ => s.updClk fun c => { c with nextTarget := some p }

/-- A write of PWR_DVFS_REQ; after a device fault it is refused and counted (R536). -/
def dvfsReqWrite (v : BitVec 32) (s : State) : State :=
  if s.flt.devFault then s.hostReject
  else dvfsAsk (v.setWidth 2) (s.updClk fun c => { c with dvfsReq := v &&& 0x1FF#32 })

/-- DVFS_REQUEST (R446). -/
def execDvfsRequest (who : Who) (value : BitVec 32) (s : State) : Out :=
  .next (regWrite who .always .yes (dvfsReqWrite value) s)

/-- AVS_ACK (R447). -/
def execAvsAck (s : State) : Out :=
  .next (if s.clk.dvfs = .avs then
    s.updClk fun c =>
      { c with
        dvfs := .settle
        dvfsFrom := s.te.time
        millivolt := c.avsMv.toNat }
  else s)

/-- AVS_SETTLE_DONE (R447): PWR_AVS_SETTLE µs after the acknowledge. -/
def execAvsSettleDone (s : State) : Out :=
  if s.clk.dvfs = .settle && s.te.time ≥ s.clk.dvfsFrom + 1000 * s.clk.avsSettle.toNat then
    .next (dvfsNext (if s.clk.target.toNat < s.clk.point.toNat then parkStart s else dvfsEnd s))
  else .next s

/-- AVS_TIMEOUT (R450): no acknowledge within 1 ms.  A raise is abandoned; a lower keeps the new frequency. -/
def execAvsTimeout (s : State) : Out :=
  if s.clk.dvfs = .avs && s.te.time ≥ s.clk.dvfsFrom + 1000000 then
    .next ((s.updClk fun c =>
      { c with
        dvfs := .idle
        avsErr := true
        now := c.now.note 6 true
        nextTarget := none
        point := if c.target.toNat < c.point.toNat then c.point else c.target
        target := if c.target.toNat < c.point.toNat then c.point else c.target }).devSource 299)
  else .next s

/-- TILE_PARK (R448): a tile with no step in progress parks; the last one starts the ramp. -/
def execTilePark (tile : Nat) (s : State) : Out :=
  let x := (s.tile tile).st
  if s.clk.dvfs = .park && tile < 16 && bit s.clk.parkPending tile && x.free s.cycle then
    .next (dvfsNext (parkCheck ((s.updSt tile fun x => { x with parked := true }).updClk fun c =>
      { c with parkPending := setBit c.parkPending tile false })))
  else .next s

/-- DIVIDER_STEP (R449): 512 cycles have passed at the present divider. -/
def execDividerStep (s : State) : Out :=
  if s.clk.dvfs = .ramp then
    let s1 := s.updClk divStep
    .next (if s1.clk.divider = pointDiv s1.clk.target then dvfsNext (rampEnd s1) else s1)
  else .next s

/-! ### Gating (R451, R452) -/

/-- CLK_EN_SET in cycle `n`: a block asked for runs at once, unless the same cycle has a CLK_EN_CLR of it (R9, R452, R459). -/
def clkEnSet (n : Nat) (v : BitVec 32) (c : Clock) : Clock :=
  { c with
    en := c.enC.setBits n c.en (v.setWidth 29)
    gate := c.enC.setBits n c.gate (v.setWidth 29) }

/-- CLK_EN_SET: a DDR5 channel that is ungated has its DQS and TEMP tasks due at once (R514). -/
def clkEnSetWrite (v : BitVec 32) (s : State) : State :=
  let s1 := s.updClk (clkEnSet s.cycle v)
  (List.range 8).foldl (fun z c => if bit s1.clk.gate (18 + c) && !bit s.clk.gate (18 + c) then calDueNow c z else z) s1

/-- CLK_EN_CLR in cycle `n`: the gate follows when the block is idle (R452). -/
def clkEnClr (n : Nat) (v : BitVec 32) (c : Clock) : Clock :=
  { c with
    en := c.enC.clrBits n c.en (v.setWidth 29)
    enC := c.enC.cleared n (v.setWidth 29) }

/-- CLK_EN_SET. -/
def execClkEnSet (who : Who) (value : BitVec 32) (s : State) : Out :=
  .next (regWrite who .always .no (clkEnSetWrite value) s)

/-- CLK_EN_CLR. -/
def execClkEnClr (who : Who) (value : BitVec 32) (s : State) : Out :=
  .next (regWrite who .always .no (fun z => z.updClk (clkEnClr z.cycle value)) s)

/-- The block of gate bit `b` is in the middle of a bus access (R452, log entry 88): a tile with a course on its way to or from it,
the hod with a course granted or being broadcast, the stream cache with a fill on its way or an invalidation running, a DDR5 channel
with a request queued, a task running or an exit begun, the DMA engine with a write on its way, the bond link with a frame whose line
is being read. -/
def gateBusy (b : Nat) (s : State) : Bool :=
  if b < 16 then
    (s.tile b).ts.inflight.any (fun n => decide (n ≠ 0)) || s.mor.flight.any (fun m => decide (m.src = b))
      || s.mor.acks.any (fun m => decide (m.src = b))
  else if b = 16 then !s.hod.flight.isEmpty || !s.hod.bcast.isEmpty
  else if b = 17 then
    s.sc.inval.isSome
      || s.ddr.ch.any fun c => c.queue.any fun r => match r.kind with | .declared _ _ _ _ | .learned _ _ => true | _ => false
  else if b < 26 then
    let ch := s.ddr.ch.getD (b - 18) .reset
    !ch.queue.isEmpty || ch.exiting.isSome || (s.cal.ch.getD (b - 18) .reset).running.isSome
  else if b = 26 then !s.dma.flight.isEmpty
  else if b = 27 then s.ddr.ch.any fun c => c.queue.any fun r => match r.kind with | .mirror _ => true | _ => false
  else false

/-- GATE_APPLY (R451, R452): a gate asked for takes effect, once the block is idle; a DDR5 controller goes into self-refresh with
it. -/
def execGateApply (bit_ : Nat) (s : State) : Out :=
  if bit_ < 29 && !bit s.clk.en bit_ && bit s.clk.gate bit_ && !gateBusy bit_ s then
    let s1 := s.updClk fun c => { c with gate := setBit c.gate bit_ false }
    .next (if 18 ≤ bit_ && bit_ ≤ 25 then
      { s1 with
        ddr := { s1.ddr with
          ch := upd s1.ddr.ch (bit_ - 18) fun c => { c with sr := c.trained, rows := [] } } }
    else s1)
  else .next s

/-! ### CLK_OUT and registers (R455, R458) -/

/-- What CLK_OUT can be driven by (R455). -/
inductive ClkSrc where
  | domain (k : Nat)
  | refclk
  | xtal
  | pcieRefclk
  deriving DecidableEq, Repr

/-- The source of a value of CLK_OUT_CFG.SEL (R455). -/
def clkSrc (sel : Nat) : Option ClkSrc :=
  if sel < 40 then some (.domain sel)
  else
    match sel with
    | 40 => some .refclk
    | 41 => some .xtal
    | 42 => some .pcieRefclk
    | _ => none

/-- A divided clock: its source, its period in source cycles, and the source half cycles of a period for which it is high. -/
structure Wave where
  src : ClkSrc
  period : Nat
  highHalves : Nat
  deriving DecidableEq, Repr

/-- A source divided by `n` (R455): half the period high for an even `n`, (n + 1) / 2 source cycles for an odd one; a source divided by
1 is the source itself. -/
def divided (src : ClkSrc) (n : Nat) : Wave := ⟨src, n, if n = 1 then 1 else if n % 2 = 0 then n else n + 1⟩

/-- What CLK_OUT drives (R455): none where the pin is low, with EN = 0, under a SEL above 42, in SAFE_HOLD and in reset. -/
def clkOut (s : State) : Option Wave :=
  let n := fld s.clk.outCfg 16 12
  if !s.alive || !bit s.clk.outCfg 6 then none
  else (clkSrc (fld s.clk.outCfg 0 6)).map fun src => divided src (if n = 0 then 4096 else n)

/-- CLK_OUT_CFG_WRITE. -/
def execClkOutCfgWrite (who : Who) (value : BitVec 32) (s : State) : Out :=
  .next (regWrite who .always .yes (fun z => z.updClk fun c => { c with outCfg := value &&& 0x0FFF007F#32 }) s)

/-- The tiles are parking, or parked, for a change of operating point (R448). -/
def Clock.parking (c : Clock) : Bool := c.dvfs = .park || c.dvfs = .ramp

/-- PWR_PARK_CNT as it reads: it counts while the tiles are parked (R448). -/
def parkCount (s : State) : BitVec 32 :=
  if s.clk.parking then satAdd32 s.clk.parkCnt (s.te.time - s.clk.dvfsFrom) else s.clk.parkCnt

/-- A write of CLK_CNT_CLR at TIME `now`. -/
def clkCntClr (v : BitVec 32) (now : Nat) (c : Clock) : Clock :=
  { c with
    dvfsFrom := if bit v 2 && c.parking then now else c.dvfsFrom
    gatedAccess := if bit v 0 then 0 else c.gatedAccess
    switchCnt := if bit v 1 then 0 else c.switchCnt
    parkCnt := if bit v 2 then 0 else c.parkCnt
    dvfsCnt := if bit v 3 then 0 else c.dvfsCnt
    now := c.now.zeroed v }

/-- The counters as they read: events of the cycle in which they were cleared are not counted (R459); PWR_PARK_CNT counts from the TIME
of the write. -/
def Clock.settle (c : Clock) : Clock := clkCntClr (c.now.clr &&& 0xB#32) 0 c

/-- CLK_CNT_CLR. -/
def execClkCntClr (who : Who) (value : BitVec 32) (s : State) : Out :=
  .next (regWrite who .always .yes (fun z => z.updClk (clkCntClr value z.te.time)) s)

/-- PWR_STATUS.IDLE (R456). -/
def idleState (s : State) : Bool := decide (fld s.clk.gate 0 17 = 0) && s.ddr.ch.all fun c => c.sr

/-- The CLK_ or PWR_ register at offset `o`: its value and its width in bytes. -/
def clkReadReg (s : State) (o : Nat) : Option (Nat × Nat) :=
  let c := s.clk
  if o = 0x000 then
    some (c.refState.toNat + 4 * c.xtalState.toNat + 16 * b2n c.activeXtal + 32 * b2n c.monTrimmed + 64 * b2n c.holdover, 4)
  else if o = 0x004 then some (2 * b2n c.xtalEn, 4)
  else if o = 0x008 then some (c.pll.toNat, 4)
  else if o = 0x00C then some (b2n c.causeReset + 2 * b2n c.causeSafe, 4)
  else if o = 0x010 || o = 0x014 || o = 0x018 then some (c.en.toNat, 4)
  else if o = 0x01C then some (c.gate.toNat, 4)
  else if o = 0x020 then some (c.gatedAccess.toNat, 4)
  else if o = 0x024 then some (c.switchCnt.toNat, 4)
  else if o = 0x028 then some (c.outCfg.toNat, 4)
  else if o = 0x02C then some (0, 4)
  else if o = 0x100 then some (c.dvfsReq.toNat, 4)
  else if o = 0x104 then
    some (c.point.toNat + 4 * c.target.toNat + 16 * b2n (decide (c.dvfs ≠ .idle)) + 32 * b2n c.refused + 64 * b2n c.avsErr
      + 128 * b2n (idleState s) + 65536 * c.parkPending.toNat, 4)
  else if o = 0x108 then some (c.avsSettle.toNat, 4)
  else if o = 0x10C then some ((parkCount s).toNat, 4)
  else if o = 0x110 then some (c.dvfsCnt.toNat, 4)
  else if 0x120 ≤ o && o < 0x130 && o % 4 = 0 then some ((c.opp.getD ((o - 0x120) / 4) 0).toNat, 4)
  else none

/-- A write of CLK_RESET_CAUSE. -/
def resetCauseWrite (v : BitVec 32) (c : Clock) : Clock :=
  { c with
    causeReset := c.causeReset && !bit v 0
    causeSafe := c.causeSafe && !bit v 1 }

/-- A write of PWR_STATUS: a 1 clears REFUSED or AVS_ERR, unless an event of the same cycle sets it (R459). -/
def pwrStatusWrite (v : BitVec 32) (c : Clock) : Clock :=
  { c with
    refused := c.refused && c.now.keeps v 5
    avsErr := c.avsErr && c.now.keeps v 6 }

/-- A write of PWR_OPP[k]: a voltage outside 650 to 850 mV is ignored. -/
def oppWrite (k : Nat) (v : BitVec 32) (c : Clock) : Clock :=
  if 650 ≤ fld v 0 10 && fld v 0 10 ≤ 850 then { c with opp := lput c.opp k (v.setWidth 10) } else c

end Sys2Proof.Machine
end

