-- ==== Sys2Proof/Machine/Console.lean ====
section
/-! DEFINITION. The quoin's console: the lines of the boot ROM, their frames and UART_TX (R492, R502). -/

namespace Sys2Proof.Machine

/-- A frame: a start bit of 0, the byte from its least significant bit on, and a stop bit of 1 (R502). -/
def uartFrame (b : BitVec 8) : List Bool := false :: (List.range 8).map (fun i => bit b i) ++ [true]

/-- The number of a line. -/
def ConsoleLine.number : ConsoleLine → Nat
  | .itemBegin n => 2 * n
  | .itemEnd n => 2 * n + 1
  | .bootError c => 256 + c

/-- The boot ROM sends a line: the frames of its text follow those that wait (log entry 109). -/
def conLine (x : ConsoleLine) (s : State) : State :=
  let bits := (Config.romLine x.number).flatMap uartFrame
  { s with
    sec := { s.sec with
      console := x :: s.sec.console
      uartAt := if s.sec.uart.isEmpty then s.cycle else s.sec.uartAt
      uart := s.sec.uart ++ bits } }

/-- An item ends. -/
def itemEnd (n : Nat) (s : State) : State := conLine (.itemEnd n) s

/-- An item begins. -/
def itemBegin (n : Nat) (s : State) : State := conLine (.itemBegin n) s

/-- One cycle of the console: the bit on UART_TX gives way to the next once it has had its time. -/
def uartTick (s : State) : State :=
  match s.sec.uart with
  | [] => s
  | _ :: rest =>
    if s.cycle + 1 < s.sec.uartAt + Config.uartBit then s
    else { s with sec := { s.sec with uart := rest, uartAt := s.cycle + 1 } }

/-- UART_TX (R502): the bit being sent, high where none is, and whenever the device does not run; from CHRYSALIS on what quoin firmware
sends, where an image has brought some. -/
def uartTx (s : State) : Bool :=
  if !s.alive then true
  else if s.sec.firmware && (s.sec.life = .chrysalis || s.sec.life = .imago) then Config.uartFirmware s.cycle
  else s.sec.uart.headD true

end Sys2Proof.Machine
end

