-- ==== Sys2Proof/Machine/Fence.lean ====
section
/-! DEFINITION. Fencing a tile or a slice, device faults, and the DEV_FLT_ block (R524 to R541). -/

namespace Sys2Proof.Machine

/-! ### Sources (R539) -/

/-- TILE_FENCED[0]. -/
def srcTileFenced : Nat := 256
/-- SC_FENCED[0]. -/
def srcScFenced : Nat := 272
/-- DDR_UE[A]. -/
def srcDdrUe : Nat := 288
/-- SC_UE. -/
def srcScUe : Nat := 296
/-- CLK_SWITCH. -/
def srcClkSwitch : Nat := 298
/-- AVS_ERR. -/
def srcAvsErr : Nat := 299
/-- TAKEOVER. -/
def srcTakeover : Nat := 300
/-- PARTNER_LOST. -/
def srcPartnerLost : Nat := 301
/-- SPLIT. -/
def srcSplit : Nat := 302
/-- THERM_WARN. -/
def srcThermWarn : Nat := 303
/-- DEV_FAULT. -/
def srcDevFault : Nat := 304

/-- FAULT_N is driven low (R487, R539): in EGG and LARVA by R487's rule, from CHRYSALIS on by a device fault or a pending
source marked "Yes". -/
def faultLow (s : State) : Bool :=
  match s.sec.life with
  | .egg => true
  | .larva => true
  | _ => s.flt.devFault || bit s.ic.pend srcAvsErr || bit s.ic.pend srcSplit || bit s.ic.pend srcDevFault

/-- The output pins that R441 forces, and THERMTRIP_N, CLK_OUT, UART_TX and the DDR5 chip selects of ranks that are not there with them. -/
structure OutPins where
  /-- EVT_OUT[3:0], R424. -/
  evtOut : List Bool
  /-- FAULT_N, R539. -/
  faultN : Bool
  /-- the DDR5 chip selects of every channel are held deasserted. -/
  ddrDeselect : Bool
  /-- [1 × 16] CSs_N[k] of both subchannels of channel c are driven high without end, at 2c + k: forced, or of a rank that a one-rank
  configuration does not have, R353, R564. -/
  ddrCsHigh : List Bool
  /-- LOCK, R443. -/
  lock : Bool
  /-- the PCIe transmitters, the bond-link transmitters and the chain output are in electrical idle. -/
  idle : Bool
  /-- THERMTRIP_N, R559. -/
  thermtripN : Bool
  /-- CLK_OUT: what it drives, or none where it is low, R455. -/
  clkOut : Option Wave
  /-- UART_TX, R502. -/
  uartTx : Bool
  deriving DecidableEq, Repr

/-- The outputs as they stand: forced in SAFE_HOLD, while RESET_N is low and after a trip (R441, R554, R559). -/
def State.outPins (s : State) : OutPins :=
  { evtOut := s.te.out.map fun p => p.level && s.alive
    faultN := s.alive && !faultLow s
    ddrDeselect := !s.alive
    ddrCsHigh := s.ddr.ch.flatMap fun c => [!s.alive, !s.alive || !bit c.trainedCfg 2]
    lock := lockPin s
    idle := !s.alive
    thermtripN := !s.sec.tripped
    clkOut := clkOut s
    uartTx := uartTx s }

/-- From CHRYSALIS onward. -/
def Life.running : Life → Bool
  | .egg => false
  | .larva => false
  | .chrysalis => true
  | .imago => true

/-! ### Stopping a tile's work -/

/-- The steps of a tile that have started end with TILE_FENCED, their status written (R113, R531, R536). -/
def fenceSteps (t : Nat) (s : State) : State := endStep t true stFenced (endStep t false stFenced s)

/-- Waiting descriptors are discarded and the sequencer halts. -/
def fenceHalt (t : Nat) (s : State) : State :=
  s.updTile t fun x =>
    { x with
      st := { x.st with issueN := none, issueU := none }
      seq := { x.seq with halted := true, wait := none, yielded := false }
      hp := { x.hp with buf := [] } }

/-! ### Leaving a mode commit (R311) -/

/-- The tiles that are not fenced. -/
def unfenced (s : State) : BitVec 16 := ~~~s.mor.fenced

/-- MIXED clears when no tile is pending; every tile has then to see it cleared. -/
def mixedCheck (s : State) : State :=
  if s.mor.mixed && s.mor.pending = 0 then { s with mor := { s.mor with mixed := false, clearing := unfenced s } } else s

/-- Tile `n` leaves PENDING. -/
def morLeave (n : Nat) (s : State) : State :=
  mixedCheck
    { s with
      mor := { s.mor with
        pending := setBit s.mor.pending n false, deliver := setBit s.mor.deliver n false
        delivered := setBit s.mor.delivered n false, reports := setBit s.mor.reports n false } }

/-! ### Device fault (R535 to R537) -/

/-- Stop a ring as by STOP (R364, R536). -/
def RingLive.halt (r : RingLive) : RingLive :=
  if r.state = 1 || r.state = 2 || r.state = 3 then { r with state := 4, cause := 0 } else r

/-- The DMA engine at a device fault: rings stop, descriptors in progress are abandoned, records are dropped. -/
def Dma.halt (d : Dma) : Dma :=
  { d with
    rings := d.rings.map fun e => (e.1, e.2.halt)
    ch := d.ch.map fun c => { c with work := none, recs := [], placed := false, paced := false, pacedOn := none, line := none }
    stopAfter := []
    after := []
    wait := []
    flight := d.flight.map fun p => { p with live := false } }

/-- A device fault is raised; the first cause stands (R535, R536). -/
def deviceFault (cause channel : Nat) (s : State) : State :=
  if s.flt.devFault then s
  else
    let s1 := (List.range 16).foldl (fun z t => fenceHalt t (fenceSteps t z)) s
    let s2 := { s1 with
      flt := { s1.flt with devFault := true, cause := BitVec.ofNat 3 cause, channel := BitVec.ofNat 3 channel }
      dma := s1.dma.halt
      bond := { s1.bond with stateWait := [], tkoWait := [] } }
    s2.devSource srcDevFault

/-! ### Tile fence (R530, R531, R533) -/

/-- DEV_FLT_TILE[n], DEV_FLT_TILE_STEP[n] and DEV_FLT_TILE_WAIT[n] of a fence. -/
def fenceRecord (t cause : Nat) (s : State) : State :=
  let x := (s.tile t).st
  let sid (r : Option StepRun) : Nat := match r with | some r => (dId r.desc).toNat | none => 0
  let wid (i : Option IssueReg) : Nat := match i with | some i => (dId i.desc).toNat | none => 0
  let v := cause + 4 * b2n x.runN.isSome + 8 * b2n x.runU.isSome + 16 * b2n x.issueN.isSome + 32 * b2n x.issueU.isSome
  { s with
    flt := { s.flt with
      tile := lput s.flt.tile t (BitVec.ofNat 6 v)
      tileStep := lput s.flt.tileStep t (BitVec.ofNat 64 (sid x.runN + 2 ^ 32 * sid x.runU))
      tileWait := lput s.flt.tileWait t (BitVec.ofNat 64 (wid x.issueN + 2 ^ 32 * wid x.issueU)) } }

/-- The tile's declared trackers become IDLE (R346). -/
def idleTrackers (t : Nat) (l : List Tracker) : List Tracker :=
  l.map fun k => if k.state = 3 && k.owner = t then k.idle else k

/-- The contents of the tile's stream FIFOs are discarded (R377, R531). -/
def dropFifos (t : Nat) (l : List (Nat × DmaFifo)) : List (Nat × DmaFifo) :=
  smap (fun _ => DmaFifo.reset) (fun k x => if k / 8 = t then { x with take := x.put } else x) l

/-- A tile fence takes effect (R531). -/
def applyFence (t cause : Nat) (s : State) : State :=
  let s1 := fenceHalt t (fenceSteps t (fenceRecord t cause s))
  let s2 := morLeave t
    { s1 with
      mor := { s1.mor with fenced := setBit s1.mor.fenced t true }
      sc := { s1.sc with trk := idleTrackers t s1.sc.trk }
      dma := { s1.dma with fifo := dropFifos t s1.dma.fifo }
      bond := { s1.bond with mirrors := s1.bond.mirrors.filter fun m => decide (m.tile ≠ t) }
      clk := { s1.clk with en := setBit s1.clk.en t false, parkPending := setBit s1.clk.parkPending t false } }
  dvfsNext (parkCheck (s2.devSource (srcTileFenced + t)))

/-- A cause of R530 arises for tile `t`: the tile is fenced, or with another tile fenced already the device faults; after a
device fault nothing is fenced. -/
def fenceTile (t cause : Nat) (s : State) : State :=
  if t ≥ 16 || s.flt.devFault || s.fencedTile t then s
  else if s.mor.fenced ≠ 0 then deviceFault 5 0 s
  else applyFence t cause s

/-- The decode RAM's words of the kept 2,304 B (R150, R158). -/
def decodeWords (bs : List (BitVec 8)) : List (Nat × BitVec 32) :=
  (List.range 576).foldl (fun m i =>
    sset (fun _ => 0) m i (BitVec.ofNat 32 (packBytes ((bs.drop (4 * i)).take 4)))) []

/-- The words of the table that the quoin loaded in CHRYSALIS and keeps (R158): every slot is empty without one. -/
def keptTable (s : State) : List (Nat × BitVec 32) :=
  match s.sec.decodeSect with
  | some b => if s.sec.life.running then decodeWords b else []
  | none => []

/-- A tile as UNFENCE_TILE leaves it (R158, R533): reset, with its sequencer halted and its decode RAM restored from `dec`, the words of
the kept table.
Its interrupt controller keeps its bits, which only their own addresses change (R426); writes on their way to its banks are still
counted (R65); while the tiles are parked it is parked too (R448), and while MIXED is set it sees it
set (R309). -/
def Tile.renew (x : Tile) (dec : List (Nat × BitVec 32)) (parked mixed : Bool) : Tile :=
  { Tile.reset with
    seq := { SeqCore.reset with decodeRam := dec, decodeBad := [] }
    ts := { TileStore.reset with inflight := x.ts.inflight }
    st := { StepUnit.reset with parked := parked, seesMixed := mixed }
    ic := x.ic }

/-- UNFENCE_TILE (R158, R311, R533). -/
def unfenceTile (t : Nat) (s : State) : State :=
  if t ≥ 16 || s.flt.devFault || !s.fencedTile t then s
  else
    let s1 := s.updTile t fun x => x.renew (keptTable s) s.clk.parking s.mor.mixed
    { s1 with
      clk := { s1.clk with en := setBit s1.clk.en t true, gate := setBit s1.clk.gate t true }
      mor := { s1.mor with fenced := setBit s1.mor.fenced t false, returning := setBit s1.mor.returning t true }
      flt := { s1.flt with
        tile := lput s1.flt.tile t 0, tileStep := lput s1.flt.tileStep t 0, tileWait := lput s1.flt.tileWait t 0 } }

/-- A tile applies the committed mode and epoch (R310): MOR_MODE_APPLIED[n], the two local RAM words and source MODE_APPLIED of
its controller (R427). -/
def applyMode (t : Nat) (s : State) : State :=
  let e := s.mor.epoch
  let w := s.mor.latched.getD t 0
  let s1 := s.updTile t fun x =>
    { x with
      st := { x.st with epoch := e }
      seq := { x.seq with
        lram := sset (fun _ => .uninit) (sset (fun _ => .uninit) x.seq.lram 0x3FE ⟨1, w⟩) 0x3FF ⟨1, e.setWidth 32⟩
        lramBad := sset (fun _ => false) (sset (fun _ => false) x.seq.lramBad 0x3FE false) 0x3FF false } }
  { (s1.tileSource t 3) with
    mor := { s1.mor with
      applied := lput s1.mor.applied t w, appliedEpoch := lput s1.mor.appliedEpoch t e
      returning := setBit s1.mor.returning t false } }

/-- RELEASE_TILE (R311, R533): an unfenced tile's halted sequencer starts at SEQ_ENTRY; a tile that returns to service applies the
committed mode and epoch first. -/
def releaseTile (t : Nat) (s : State) : State :=
  if t ≥ 16 || s.flt.devFault || s.fencedTile t || !(s.core t).halted then s
  else
    (if bit s.mor.returning t then applyMode t s else s).updCore t fun c =>
      { c with halted := false, doubleTrap := false, level := 0, pc := c.entry.setWidth 32, fetch := [] }

/-- Every unfenced tile is released (R480, R509). -/
def releaseAll (s : State) : State := (List.range 16).foldl (fun z t => releaseTile t z) s

/-! ### Slice fence (R534) -/

/-- Fence slice `n`. -/
def fenceSlice (n : Nat) (s : State) : State :=
  if n ≥ 16 || s.flt.devFault || bit s.sc.fence n then s
  else
    ({ s with sc := { s.sc with fence := setBit s.sc.fence n true } }.dropLines fun l => lineSlice l = n).devSource (srcScFenced + n)

/-- UNFENCE_SLICE: the slice returns holding no valid line. -/
def unfenceSlice (n : Nat) (s : State) : State :=
  if n ≥ 16 || s.flt.devFault || !bit s.sc.fence n then s
  else
    { s with sc := { s.sc with fence := setBit s.sc.fence n false } }

/-- Eight-bit counters that stop at 0xFF. -/
def satAdd8 (x : BitVec 8) : BitVec 8 := if x = 0xFF then x else x + 1

/-- An uncorrectable error of slice `n` (R344, R534): counted in the window, and the slice is fenced at the limit. -/
def countScUe (n : Nat) (s : State) : State :=
  let c := satAdd8 (s.flt.scUe.getD n 0)
  let s1 := { s with flt := { s.flt with scUe := lput s.flt.scUe n c } }
  let lim := fld s.flt.cfgCur 0 8
  if lim ≠ 0 && c.toNat ≥ lim then fenceSlice n s1 else s1

/-- An uncorrectable error of channel `c` (R355, R535). -/
def countDdrUe (c : Nat) (s : State) : State :=
  let k := satAdd8 (s.flt.ddrUe.getD c 0)
  let s1 := { s with flt := { s.flt with ddrUe := lput s.flt.ddrUe c k } }
  let lim := fld s.flt.cfgCur 8 8
  if lim ≠ 0 && k.toNat ≥ lim then deviceFault 1 c s1 else s1

/-- What reading `n` hod courses found (R529): of their words, 16 in a course, `ce` corrected, and an uncorrectable one. -/
def hodEcc (n ce : Nat) (ue : Bool) (s : State) : State :=
  let s1 := { s with flt := { s.flt with hodCe := satAdd32 s.flt.hodCe (min (16 * n) ce) } }
  if ue && decide (n ≠ 0) then deviceFault 2 0 s1 else s1

/-! ### DEV_FLT_CMD (R540, R541) -/

/-- KICK. -/
def kick (s : State) : State := { s with flt := { s.flt with kickAt := s.te.time } }

/-- A write of DEV_FLT_CMD. -/
def devFltCmd (v : BitVec 32) (s : State) : State :=
  let i := fld v 4 4
  match fld v 0 3 with
  | 1 => fenceTile i 3 s
  | 2 => unfenceTile i s
  | 3 => releaseTile i s
  | 4 => fenceSlice i s
  | 5 => unfenceSlice i s
  | 6 => deviceFault 6 0 s
  | 7 => kick s
  | _ => s

/-- A cause for tile `t` arises, and in the same cycle an internal check of tile `also` fails: with no tile fenced before, two tiles
make a device fault, and neither is fenced (R538). -/
def fenceBoth (t cause : Nat) (also : Option Nat) (s : State) : State :=
  match also with
  | none => fenceTile t cause s
  | some k =>
    if k < 16 && t < 16 && k ≠ t && s.mor.fenced = 0 then deviceFault 5 0 s
    else fenceTile k 2 (fenceTile t cause s)

/-- FENCE_TILE (R530, R531, R538): by DEV_FLT_CMD, or by a failed internal check of the tile. -/
def execFenceTile (cause : FenceCause) (which : FencedTiles) (s : State) : Out :=
  match cause with
  | .command who => .next (regWrite who .always .no (fenceBoth which.tile 3 which.also) s)
  | .hardware => .next (if s.alive then fenceBoth which.tile 2 which.also s else s)

/-- UNFENCE_TILE (R533). -/
def execUnfenceTile (who : Who) (tile : Nat) (s : State) : Out := .next (regWrite who .always .no (unfenceTile tile) s)

/-- RELEASE_TILE (R533). -/
def execReleaseTile (who : Who) (tile : Nat) (s : State) : Out := .next (regWrite who .always .no (releaseTile tile) s)

/-- FENCE_SLICE (R534). -/
def execFenceSlice (who : Who) (slice : Nat) (s : State) : Out := .next (regWrite who .always .no (fenceSlice slice) s)

/-- UNFENCE_SLICE (R534). -/
def execUnfenceSlice (who : Who) (slice : Nat) (s : State) : Out := .next (regWrite who .always .no (unfenceSlice slice) s)

/-- DEV_FAULT (R536). -/
def execDevFault (who : Who) (s : State) : Out := .next (regWrite who .always .no (deviceFault 6 0) s)

/-- KICK (R535). -/
def execKick (who : Who) (s : State) : Out := .next (regWrite who .always .no kick s)

/-- QUOIN_WDOG_EXPIRE (R535): no KICK within WDOG_MS ms, from CHRYSALIS onward. -/
def execQuoinWdogExpire (s : State) : Out :=
  let ms := fld s.flt.cfgCur 24 8
  .next (if s.sec.life.running && ms ≠ 0 && s.te.time - s.flt.kickAt > ms * 1000000 then deviceFault 4 0 s else s)

/-- PCIE_LINK_TIMEOUT (R535): the link has been down for LINK_MS ms. -/
def execPcieLinkTimeout (s : State) : Out :=
  let ms := fld s.flt.cfgCur 16 8
  match s.flt.linkDownAt with
  | some t => .next (if ms ≠ 0 && s.te.time - t ≥ ms * 1000000 then deviceFault 3 0 s else s)
  | none => .next s

/-- UE_WINDOW_START (R534, R541): a new window of 10⁹ ns; the counters restart, and writes of DEV_FLT_CFG take effect. -/
def execUeWindowStart (s : State) : Out :=
  let k := s.te.time / 1000000000
  .next (if k = s.flt.window then s
  else
    { s with
      flt := { s.flt with
        window := k, scUe := List.replicate 16 0, ddrUe := List.replicate 8 0, cfgCur := s.flt.cfg } })

/-- A write of DEV_FLT_CNT_CLR. -/
def devFltCntClr (v : BitVec 32) (f : Flt) : Flt :=
  { f with hodCe := if bit v 0 then 0 else f.hodCe, morPerr := if bit v 1 then 0 else f.morPerr, now := f.now.zeroed v }

/-- The counters as they read: events of the cycle in which they were cleared are not counted (R541). -/
def Flt.settle (f : Flt) : Flt := devFltCntClr f.now.clr f

/-- DEV_FLT_CNT_CLR. -/
def execDevFltCntClr (who : Who) (value : BitVec 32) (s : State) : Out :=
  .next (regWrite who .always .yes (fun z => { z with flt := devFltCntClr value z.flt }) s)

/-- The DEV_FLT_ register at offset `o`: its value and its width in bytes. -/
def Flt.readReg (f : Flt) (o : Nat) : Option (Nat × Nat) :=
  if o = 0x000 then some (b2n f.devFault + 2 * f.cause.toNat + 16 * f.channel.toNat, 4)
  else if o = 0x004 then some (f.cfg.toNat, 4)
  else if o = 0x008 then some (0, 4)
  else if o = 0x00C then some (f.hodCe.toNat, 4)
  else if o = 0x010 then some (f.morPerr.toNat, 4)
  else if o = 0x014 then some (0, 4)
  else if 0x040 ≤ o && o < 0x080 && o % 4 = 0 then some ((f.tile.getD ((o - 0x40) / 4) 0).toNat, 4)
  else if 0x080 ≤ o && o < 0x100 && o % 8 = 0 then some ((f.tileStep.getD ((o - 0x80) / 8) 0).toNat, 8)
  else if 0x100 ≤ o && o < 0x140 && o % 4 = 0 then some ((f.scUe.getD ((o - 0x100) / 4) 0).toNat, 4)
  else if 0x140 ≤ o && o < 0x160 && o % 4 = 0 then some ((f.ddrUe.getD ((o - 0x140) / 4) 0).toNat, 4)
  else if 0x180 ≤ o && o < 0x200 && o % 8 = 0 then some ((f.tileWait.getD ((o - 0x180) / 8) 0).toNat, 8)
  else none

end Sys2Proof.Machine
end

