-- ==== Sys2Proof/Machine/Stream.lean ====
section
/-! DEFINITION. The stream cache's readers and trackers, invalidation, slice power, and the DDR5 channels at work, with the
SC_ and DDR_ registers (R335 to R360). -/

namespace Sys2Proof.Machine

/-! ### Errors -/

/-- Capture the first case in SC_ERR (R344, R359). -/
def scErr (l way kind : Nat) (s : State) : State :=
  let x : BitVec 64 := BitVec.ofNat 64 (lineSlice l + 16 * lineSet l + 2 ^ 14 * way + 2 ^ 18 * kind + 2 ^ 63)
  { s with sc := { s.sc with err := if bit s.sc.err 63 then s.sc.err else x, now := s.sc.now.first x } }

/-- A line or its tag was corrected (R343). -/
def scCorrected (l way kind : Nat) (s : State) : State :=
  scErr l way kind { s with sc := { s.sc with ceCnt := satAdd32 s.sc.ceCnt 1 } }

/-- A line or its tag was found uncorrectable: captured, the source set, and counted in its slice's window (R344, R534). -/
def scUncorrected (l way kind : Nat) (s : State) : State := countScUe (lineSlice l) ((scErr l way kind s).devSource srcScUe)

/-- What a channel's check code found in line `l` (R355): each beat corrected and each found uncorrectable is counted, the first
case is captured, and an uncorrectable one is reported. -/
def ddrErr (l : Nat) (be : BeatErr) (s : State) : State :=
  if be.ce = 0 && !be.bad then s
  else
    let c := lineChan l
    let s1 := s.updChan c fun x =>
      let v : BitVec 64 := BitVec.ofNat 64 (l % 2 ^ 33 + 2 ^ 33 * b2n be.subch + 2 ^ 34 * (be.beat % 16) + 2 ^ 38 * b2n be.firstBad
        + 2 ^ 39 * (ddrPlace x.trainedCfg l).rank + 2 ^ 63)
      { x with
        ceCnt := satAdd32 x.ceCnt be.ce
        ueCnt := satAdd32 x.ueCnt be.ue
        err := if bit x.err 63 then x.err else v
        now := x.now.first v }
    if be.bad then countDdrUe c (s1.devSource (srcDdrUe + c)) else s1

/-! ### Reading a present line -/

/-- Look line `l` up in its slice, with what SECDED finds in the tags of its set (R343, R344): the way that holds it.  A tag
that was corrected is counted; an uncorrectable one empties the set.  A way that holds no line has no tag to find wrong. -/
def cacheLook (l : Nat) (ecc : LineEcc) (s : State) : Option Nat × State :=
  let held (w : Nat) : Bool := decide (w < 16) && (kget s.sc.lines (wayKey l w)).isSome
  match ecc with
  | .tagCe w => (s.sc.wayOf l, if held w then scCorrected l w 2 s else s)
  | .tagUe w =>
    if held w then
      let k := wayKey l 0 / 16
      (none, scUncorrected l w 3 { s with sc := { s.sc with lines := s.sc.lines.filter fun e => e.1 / 16 ≠ k } })
    else (s.sc.wayOf l, s)
  | _ => (s.sc.wayOf l, s)

/-- A present line as it is read: its data, its poison bit, and whether it comes 4 cycles later for a correction (R343). -/
structure LineRead where
  /-- [1024] data. -/
  data : BitVec 1024
  /-- [1] poisoned. -/
  poison : Bool
  /-- [1] corrected. -/
  corrected : Bool
  deriving DecidableEq, Repr

/-- Read line `l` of its slice, with what SECDED finds (R343 to R345): none when it is absent or its set has been emptied. -/
def cacheRead (l : Nat) (ecc : LineEcc) (s : State) : Option LineRead × State :=
  let (way, s0) := cacheLook l ecc s
  match way with
  | none => (none, s0)
  | some w =>
    match kget s0.sc.lines (wayKey l w) with
    | none => (none, s0)
    | some x =>
      let s1 := { s0 with sc := s0.sc.touch l w true }
      match ecc with
      | .dataCe => (some ⟨x.data, x.poison, true⟩, scCorrected l w 0 s1)
      | .dataUe =>
        let s2 := { s1 with sc := { s1.sc with ueCnt := satAdd32 s1.sc.ueCnt 1 } }
        (some ⟨x.data, true, false⟩, scUncorrected l w 1 (s2.dropLines (· = l)))
      | .tagCe v => (some ⟨x.data, x.poison, decide (v < 16) && (kget s0.sc.lines (wayKey l v)).isSome⟩, s1)
      | _ => (some ⟨x.data, x.poison, false⟩, s1)

/-! ### STREAM commands (R347 to R350) -/

/-- OP of a STREAM entry. -/
def sOp (e : BitVec 512) : Nat := fld e 8 2
/-- TRACKER. -/
def sTrk (e : BitVec 512) : Nat := fld e 10 6
/-- Line 0: BASE is a handle of 256 bytes. -/
def sLine (e : BitVec 512) : Nat := 2 * fld e 32 32
/-- COUNT. -/
def sCount (e : BitVec 512) : Nat := fld e 64 24

/-- The fields that an OP uses; OP 3 has none of its own, and the whole layout counts. -/
def sFields (op : Nat) : List (Nat × Nat) :=
  match op with
  | 1 => [(0, 8), (8, 2), (10, 6)]
  | 2 => [(0, 8), (8, 2), (32, 32), (64, 24)]
  | _ => [(0, 8), (8, 2), (10, 6), (32, 32), (64, 24), (96, 16), (112, 16), (128, 7)]

/-- The cause of a malformed STREAM command (R350). -/
def streamCause (s : State) (t : Nat) (e : BitVec 512) : Option Nat :=
  let op := sOp e
  let k := s.sc.tracker (sTrk e)
  if strayBits e (sFields op) then some 1
  else if op = 3 then some 2
  else if op ≠ 1 && sCount e = 0 then some 3
  else if op = 0 && (fld e 96 16 = 0 || fld e 112 16 = 0 || fld e 128 7 = 0 || fld e 128 7 > 64) then some 3
  else if op ≠ 2 && k.state = 3 && k.owner ≠ t then some 4
  else none

/-- A STREAM command is checked; a well-formed one does `f` to the state, and the list moves on.  What a gated stream cache
holds does not change: the access is counted (R451, R453). -/
def streamCmd (t : Nat) (u : Bool) (r : StepRun) (e : BitVec 512) (f : State → State) (s : State) : State :=
  match streamCause s t e with
  | some k => malformed t u (scCmdErr t k (entryIndex r) s)
  | none => advanceList t u (if s.gated .sc then s.countGated else f s)

/-- A tracker bound to tile `t` by a DECLARE (R348). -/
def Tracker.declare (k : Tracker) (t : Nat) (e : BitVec 512) : Tracker :=
  { Tracker.reset with
    state := 3, owner := t, stride := sgn 16 (fld e 96 16), base := fld e 32 32, count := sCount e, rep := fld e 112 16
    depth := fld e 128 7, gen := k.gen + 1 }

/-- STREAM_DECLARE (R348, R350): the entry of OP 0, or of the undefined OP 3. -/
def execStreamDeclare (tile : Nat) (urgent : Bool) (s : State) : Out :=
  match outerEntry s tile urgent 7 with
  | none => .next s
  | some (r, e) =>
    .next (if sOp e = 1 || sOp e = 2 then s
    else streamCmd tile urgent r e (fun z => z.updTrk (sTrk e) fun k => k.declare tile e) s)

/-- STREAM_RELEASE (R349). -/
def execStreamRelease (tile : Nat) (urgent : Bool) (s : State) : Out :=
  match outerEntry s tile urgent 7 with
  | none => .next s
  | some (r, e) =>
    .next (if sOp e ≠ 1 then s else streamCmd tile urgent r e (fun z => z.updTrk (sTrk e) Tracker.idle) s)

/-- An invalidation begins (R341): the lines become invalid, and it runs until its end. -/
def invalBegin (line : Nat) (count tile : Option Nat) (urgent : Bool) (s : State) : State :=
  let p (l : Nat) : Bool := match count with
    | some n => decide (line ≤ l) && decide (l < line + n)
    | none => true
  let s1 := s.dropLines p
  { s1 with sc := { s1.sc with inval := some ⟨line, count, tile, urgent⟩ } }

/-- STREAM_INVAL (R341, R350): it waits for an invalidation that runs already. -/
def execStreamInval (tile : Nat) (urgent : Bool) (s : State) : Out :=
  match outerEntry s tile urgent 7 with
  | none => .next s
  | some (r, e) =>
    .next (if sOp e ≠ 2 || (s.sc.inval.isSome && !s.gated .sc && (streamCause s tile e).isNone) then s
    else streamCmd tile urgent r e (invalBegin (sLine e) (some (sCount e)) (some tile) urgent) s)

/-! ### Declared streams (R342, R349) -/

/-- Request `k` of a DECLARED tracker: its line index (R348). -/
def Tracker.lineOfReq (k : Tracker) (i : Nat) : Nat :=
  wrap 33 ((2 * k.base : Nat) + ((i % max 1 k.count : Nat) : Int) * k.stride)

/-- The array command that consumes tracker `n` at its tile: whether as the weight stream, and its step's priority. -/
def consumerOf (s : State) (n : Nat) : Option (Bool × Bool) :=
  match (s.tile (s.sc.tracker n).owner).arr.queue.find? fun c => eType c.raw = 1 && (arrStreams c.raw).contains n with
  | some c => some (decide (aWs c.raw = n), c.urgent)
  | none => none

/-- Courses of the weight stream buffer: both halves, but the first alone while a DIAG8 command waits for its records or is in
execution, whose window buffer is the second (R232, R272). -/
def wbufCourses (a : ArrayEng) (n : Nat) : Nat :=
  if a.queue.any fun c => isDiag c.win && (c.begun || aWs c.raw = n) then 256 else 512

/-- Courses that the consumer of a tracker can still take: the weight stream buffer refills a half once its last row is
loaded (R232); the expander holds at most 64 courses not yet taken. -/
def consumerRoom (s : State) (n : Nat) : Nat :=
  let a := (s.tile (s.sc.tracker n).owner).arr
  match consumerOf s n with
  | some (true, _) => wbufCourses a n - (a.wbuf.length + a.wbufFreed)
  | some (false, _) => 64 - a.sbuf.length
  | none => 64

/-- A line of tracker `k` sets out at the port of its slice, read there in cycle `at_`, for the tracker's tile (R284, R285). -/
def Tracker.linePath (k : Tracker) (l at_ late : Nat) : MeshPos := .enter portSlice (lineSlice l) k.owner at_ late

/-- A line reaches a tracker, on its way to the consumer. -/
def Tracker.take (k : Tracker) (x : ReadyLine) : Tracker := { k with ready := k.ready ++ [x] }

/-- The cycles that a request takes to its slice and the line to be read there: with the way back, 10 + 2h in all (R342). -/
def requestCycles (k : Tracker) (l : Nat) : Nat := 4 + (xyPath k.owner (lineSlice l)).length

/-- STREAM_REQUEST (R336, R342 to R345, R349, R352, R453): a DECLARED tracker asks for its next line: beyond capacity it comes
poisoned, a present line is read in its slice, with what SECDED finds there, of a gated channel it comes as zeros, and any other
is fetched. -/
def execStreamRequest (look : StreamLook) (s : State) : Out :=
  let tracker := look.tracker
  let k := s.sc.tracker tracker
  if tracker < 64 && k.state = 3 && s.tileLive k.owner && k.asked < k.used + k.depth && k.asked < k.count * k.rep
      && k.asked - k.used < consumerRoom s tracker then
    let l := k.lineOfReq k.asked
    let s1 := s.updTrk tracker fun k => { k with asked := k.asked + 1 }
    let got (x : LineRead) (z : State) : State :=
      let (late, z1) := z.crossing
      z1.updTrk tracker fun t =>
        t.take ⟨k.asked, x.corrected, false, l, x.data, x.poison, t.linePath l (s.cycle + requestCycles t l + 4 * b2n x.corrected) late⟩
    let fetch (z : State) : State :=
      if z.chanGated l then got ⟨0, false, false⟩ z.countGated
      else z.ddrRequest l (.declared tracker k.gen k.asked (z.bypassed (lineSlice l))) 1
    if l ≥ s.capLines then .next (scErr l 0 4 (got ⟨0, true, false⟩ s1))
    else if s.bypassed (lineSlice l) then .next (fetch (if s.gated .sc then s1.countGated else s1))
    else
      match cacheRead l look.ecc s1 with
      | (some x, s2) => .next (got x s2)
      | (none, s2) => .next (fetch s2)
  else .next s

/-- A course of a declared stream enters its buffer at the tile, and the tracker moves on. -/
def handOver (n : Nat) (weight urgent : Bool) (data : BitVec 1024) (poison : Bool) (s : State) : State :=
  let k := s.sc.tracker n
  let c : StreamCourse := ⟨n, data, poison, urgent⟩
  (s.updArr k.owner fun a =>
    if weight then { a with wbuf := a.wbuf ++ [c], refetch := if urgent then a.refetch else a.refetch - 1 } else { a with sbuf := a.sbuf ++ [c] }).updTrk n fun k =>
      { k with
        used := k.used + 1, pos := (k.used + 1) % max 1 k.count
        ready := k.ready.filter fun x => x.seq ≠ k.used }

/-- What the engine that waited for line `x` was held for (R320, R321, R343): exactly 4 cycles under ECC for a corrected line, and
cycles under CAL only where a steal held the line's channel. -/
def lineHeld (x : ReadyLine) (jitter : Nat) (h : LineWait) : Held :=
  { bank := 0, ecc := if x.corrected then 4 else 0, jitter := min 4 jitter, link := min x.mesh.waited h.link, wait := h.wait, hod := 0
    cal := if x.stolen then h.cal else 0 }

/-- A line's course shows a parity error at the tile: it is discarded there, and the step that consumes it ends with STEP_PARITY (R527;
log entry 108). -/
def lineBad (n : Nat) (urgent : Bool) (s : State) : State :=
  let k := s.sc.tracker n
  stepFault k.owner urgent stParity ((countMorPerr s).updTrk n fun k => { k with ready := k.ready.filter fun x => x.seq ≠ k.used })

/-- STREAM_LINE_DELIVER (R232, R233, R284 to R287, R342, R527): the tracker's next line, when it has passed its last router and crossed in,
reaches its consumer. -/
def execStreamLineDeliver (tracker jitter : Nat) (held : LineWait) (s : State) : Out :=
  let k := s.sc.tracker tracker
  match k.ready.find? fun x => x.seq = k.used, consumerOf s tracker with
  | some x, some (weight, urgent) =>
    if tracker ≥ 64 || k.state ≠ 3 || !s.tileLive k.owner || consumerRoom s tracker = 0 || !x.mesh.through
        || decide (s.cycle < x.mesh.since + 1) then .next s
    else
      let s1 := countTransit 0 (x.mesh.waited - held.link) (chargeLine k.owner urgent (lineHeld x jitter held) s)
      .next (if held.bad then lineBad tracker urgent s1 else handOver tracker weight urgent x.data x.poison s1)
  | _, _ => .next s

/-! ### Invalidation by register (R341) -/

/-- A write of SC_INVAL_CTRL: COUNT is kept; GO starts an invalidation, or is lost while one runs. -/
def scInvalCtrl (v : BitVec 32) (s : State) : State :=
  let s1 := { s with sc := { s.sc with invalCount := v.setWidth 24 } }
  if !bit v 31 then s1
  else if s1.sc.inval.isSome then { s1 with sc := { s1.sc with invalLost := true, now := s1.sc.now.note 1 true } }
  else if bit v 30 then invalBegin 0 none none false s1
  else invalBegin (2 * s1.sc.invalBase.toNat) (some (fld v 0 24)) none false s1

/-- SC_INVAL_GO: a write of SC_INVAL_CTRL with GO = 1 and ALL = 0. -/
def execScInvalGo (who : Who) (value : BitVec 32) (s : State) : Out :=
  .next (if bit value 31 && !bit value 30 then regWrite who .sc .yes (scInvalCtrl value) s else s)

/-- SC_INVAL_ALL: a write of SC_INVAL_CTRL with GO = 1 and ALL = 1. -/
def execScInvalAll (who : Who) (value : BitVec 32) (s : State) : Out :=
  .next (if bit value 31 && bit value 30 then regWrite who .sc .yes (scInvalCtrl value) s else s)

/-- SC_INVAL_DONE (R341, R350, R451): the invalidation ends, and a command list that waits for it goes on. -/
def execScInvalDone (s : State) : Out := .next (if s.gated .sc then s else { s with sc := { s.sc with inval := none } })

/-! ### Slice power and fences (R352) -/

/-- A write of SC_SLICE_PWR_REQ. -/
def sliceReqWrite (v : BitVec 32) (s : State) : State :=
  { s with
    sc := { s.sc with
      pwrReq := v.setWidth 16
      wakeFrom := s.sc.wakeFrom.zipIdx.map fun (f, n) => if s.sc.sliceState.getD n .on = .off && bit v n then s.te.time else f
      sliceState := s.sc.sliceState.zipIdx.map fun (x, n) => x.request (bit v n) } }

/-- SC_SLICE_PWR_REQ_WRITE. -/
def execScSlicePwrReqWrite (who : Who) (value : BitVec 32) (s : State) : Out :=
  .next (regWrite who .sc .no (sliceReqWrite value) s)

/-- SLICE_WAKE_DONE: after 2 µs of TIME a waking slice enters ON, or DRAINING if its request bit is 0 (R64). -/
def execSliceWakeDone (slice : Nat) (s : State) : Out :=
  .next (if slice < 16 && !s.gated .sc && s.sc.sliceState.getD slice .on = .waking
      && s.te.time ≥ s.sc.wakeFrom.getD slice 0 + 2000 then
    { s with
      sc := { s.sc with
        sliceState := lput s.sc.sliceState slice (if bit s.sc.pwrReq slice then .on else .draining) } }
  else s)

/-- A fill of slice `n` is outstanding. -/
def fillOutstanding (s : State) (n : Nat) : Bool :=
  s.ddr.ch.any fun c => c.queue.any fun r => lineSlice r.line = n && match r.kind with
    | .declared _ _ _ stale => !stale
    | .learned _ stale => !stale
    | _ => false

/-- SLICE_DRAIN_DONE: a DRAINING slice with no outstanding fill goes OFF and loses its lines. -/
def execSliceDrainDone (slice : Nat) (s : State) : Out :=
  .next (if slice < 16 && !s.gated .sc && s.sc.sliceState.getD slice .on = .draining && !fillOutstanding s slice then
    { s with sc := { s.sc with sliceState := lput s.sc.sliceState slice .off } }.dropLines fun l => lineSlice l = slice
  else s)

/-- A write of SC_FENCE: a slice newly fenced loses its lines (R352, R534). -/
def scFenceWrite (v : BitVec 32) (s : State) : State :=
  let new : BitVec 16 := v.setWidth 16 &&& ~~~s.sc.fence
  let s1 := { s with sc := { s.sc with fence := v.setWidth 16 } }.dropLines fun l => bit new (lineSlice l)
  (List.range 16).foldl (fun (z : State) n => if bit new n then z.devSource (srcScFenced + n) else z) s1

/-- SC_FENCE_WRITE. -/
def execScFenceWrite (who : Who) (value : BitVec 32) (s : State) : Out := .next (regWrite who .sc .no (scFenceWrite value) s)

/-- A write of SC_CNT_CLR. -/
def scCntClr (v : BitVec 32) (c : StreamCache) : StreamCache :=
  { c with ceCnt := if bit v 0 then 0 else c.ceCnt, ueCnt := if bit v 1 then 0 else c.ueCnt, now := c.now.zeroed v }

/-- The counters as they read: events of the cycle in which they were cleared are not counted (R360). -/
def StreamCache.settle (c : StreamCache) : StreamCache := scCntClr c.now.clr c

/-- SC_CNT_CLR. -/
def execScCntClr (who : Who) (value : BitVec 32) (s : State) : Out :=
  .next (regWrite who .sc .yes (fun z => { z with sc := scCntClr value z.sc }) s)

/-- The trackers that learn become IDLE (R351). -/
def stopLearning (l : List Tracker) : List Tracker := l.map fun k => if k.state = 1 || k.state = 2 then k.idle else k

/-- A write of SC_CFG. -/
def scCfgWrite (v : BitVec 32) (c : StreamCache) : StreamCache :=
  { c with cfg := setFld c.cfg 0 11 v.toNat, trk := if bit v 10 then c.trk else stopLearning c.trk }

/-! ### Learned prefetch (R351) -/

/-- A tracker prefetches line `l`, unless it is beyond capacity, bypassed, present, or on its way. -/
def prefetch (n l : Nat) (s : State) : State :=
  let l := l % 2 ^ 33
  if l ≥ s.capLines || s.bypassed (lineSlice l) || (s.sc.wayOf l).isSome || s.chanGated l
      || (s.chan (lineChan l)).queue.any fun r => r.line = l && match r.kind with | .declared _ _ _ _ | .learned _ _ => true | _ => false then s
  else s.ddrRequest l (.learned n false) 3

/-- A TRAINED tracker prefetches the LEARN_DEPTH lines that follow the last line read. -/
def prefetchAhead (n : Nat) (s : State) : State :=
  let k := s.sc.tracker n
  (List.range (fld s.sc.cfg 4 6)).foldl (fun (z : State) (i : Nat) => prefetch n (wrap 33 ((k.last : Int) + k.stride * ((i : Int) + 1))) z) s

/-- The tracker that a miss of DMA channel `d` goes to. -/
def learner (c : StreamCache) (d : Nat) : Option Nat :=
  c.trk.findIdx? fun k => (k.state = 1 || k.state = 2) && k.dmaCh = d

/-- The tracker that a channel without one takes: the first IDLE one, else the learning one missed longest ago. -/
def learnerTaken (c : StreamCache) : Option Nat :=
  match c.trk.findIdx? fun k => k.state = 0 with
  | some n => some n
  | none =>
    (c.trk.zipIdx.foldl (fun (b : Option (Nat × Nat)) (k, i) =>
      if k.state = 1 || k.state = 2 then
        match b with
        | some (m, j) => if k.missAt < m then some (k.missAt, i) else some (m, j)
        | none => some (k.missAt, i)
      else b) none).map (·.2)

/-- What a tracker learns from a miss at line `l`. -/
def Tracker.learn (k : Tracker) (l at_ : Nat) : Tracker :=
  let d : Int := (l : Int) - k.last
  if k.state = 2 then
    if wrap 33 ((k.last : Int) + k.stride) = l then { k with last := l, missAt := at_ }
    else { k with state := 1, pos := 1, last := l, delta := 0, stride := 0, missAt := at_ }
  else if k.pos ≥ 2 && d = k.delta then { k with state := 2, stride := d, last := l, missAt := at_, pos := 0 }
  else { k with pos := k.pos + 1, delta := d, last := l, missAt := at_ }

/-- A DMA read of DDR5 by channel `d` missed at line `l`: a tracker is trained and prefetches (R351). -/
def trainMiss (d l : Nat) (s : State) : State :=
  if !bit s.sc.cfg 10 || s.gated .sc then s
  else
    let s0 := { s with sc := { s.sc with missOrder := s.sc.missOrder + 1 } }
    let at_ := s0.sc.missOrder
    let go (n : Nat) (z : State) : State :=
      if (z.sc.tracker n).state = 2 then prefetchAhead n z else prefetch n (l + 1) z
    match learner s.sc d with
    | some n => go n (s0.updTrk n fun k => k.learn l at_)
    | none =>
      match learnerTaken s.sc with
      | some n => go n (s0.updTrk n fun k => { k.idle with state := 1, dmaCh := d, pos := 1, last := l, missAt := at_ })
      | none => s0

/-- A DMA read of channel `d` hit line `l`: a TRAINED tracker of it moves along its stride. -/
def trainHit (d l : Nat) (s : State) : State :=
  match learner s.sc d with
  | some n =>
    let k := s.sc.tracker n
    if k.state = 2 && wrap 33 ((k.last : Int) + k.stride) = l then prefetchAhead n (s.updTrk n fun k => { k with last := l })
    else s
  | none => s

/-- The line of DDR5 that DMA channel `d` has asked for, or has read, past the cache. -/
def dmaLine (s : State) (d l : Nat) : Option DmaLine :=
  match (s.dma.ch.getD d .reset).line with
  | some x => if x.line = l then some x else none
  | none => none

/-- Set it. -/
def State.setDmaLine (s : State) (d : Nat) (x : Option DmaLine) : State :=
  { s with dma := { s.dma with ch := upd s.dma.ch d fun c => { c with line := x } } }

/-- The look-up of line `l` in its slice by a DMA read; of a gated stream cache it is counted (R339, R453). -/
def dmaLook (l : Nat) (ecc : LineEcc) (s : State) : Option LineRead × State :=
  if s.gated .sc then (none, s.countGated)
  else if s.bypassed (lineSlice l) then (none, s)
  else cacheRead l ecc s

/-- A read of line `l` by DMA channel `d` has to wait: it misses, and its channel cannot serve it at once, or has still to serve it
(R356, R358, R519, R521). -/
def dmaReadWaits (d l : Nat) (ecc : LineEcc) (s : State) : Bool :=
  match dmaLine s d l with
  | some x => x.data.isNone
  | none => (dmaLook l ecc s).1.isNone && !s.chanGated l && !s.ddrFast l

/-- Such a read asks for its line, once. -/
def dmaAsk (d l : Nat) (ecc : LineEcc) (s : State) : State :=
  match dmaLine s d l with
  | some _ => s
  | none => (trainMiss d l ((dmaLook l ecc s).2.ddrRequest l (.chan d) 2)).setDmaLine d (some ⟨l, none⟩)

/-- A DMA read of line `l` by channel `d` (R339, R345, R351, R355, R356, R453): its data and whether it is poisoned. -/
def dmaReadLine (d l : Nat) (ecc : LineEcc) (be : BeatErr) (s : State) : (BitVec 1024 × Bool) × State :=
  match (dmaLine s d l).bind (·.data) with
  | some x => (x, s.setDmaLine d none)
  | none =>
    match dmaLook l ecc s with
    | (some x, s1) => ((x.data, x.poison), trainHit d l s1)
    | (none, s1) =>
      if s.chanGated l then ((0, false), s1.countGated)
      else ((s.lineData l, be.bad), trainMiss d l (ddrErr l be (s1.ddrOpen l)))

/-! ### DDR5 channels at work (R355 to R358) -/

/-- The row that a request needs is open in its bank (R356). -/
def DdrChan.rowOpen (c : DdrChan) (r : DdrReq) : Bool :=
  let p := ddrPlace c.trainedCfg r.line
  kget c.rows p.number == some p.row

/-- Request `i` may be served next (R356): no request of a higher class waits, and of its class none is older but requests that
open a row, each passed by fewer than 4, where it needs an open row itself. -/
def mayServe (c : DdrChan) (i : Nat) (r : DdrReq) : Bool :=
  (c.queue.all fun x => decide (r.cls ≤ x.cls))
    && (c.queue.take i).all fun x => decide (x.cls ≠ r.cls) || (c.rowOpen r && !c.rowOpen x && decide (x.passed < 4))

/-- The channel after its request `i`, which is `r`, has been served: its row is open. -/
def DdrChan.served (c : DdrChan) (i : Nat) (r : DdrReq) (now : Nat) : DdrChan :=
  let p := ddrPlace c.trainedCfg r.line
  let q := (c.queue.take i).map fun x => if x.cls = r.cls then { x with passed := x.passed + 1 } else x
  let q1 := q ++ c.queue.drop (i + 1)
  { c with queue := q1, rows := kset c.rows p.number p.row, emptySince := if q1.isEmpty then now else c.emptySince }

/-- DDR_CLASS_PROMOTE (R356): a class-2 request that has waited 2 µs joins class 1. -/
def execDdrClassPromote (ch i : Nat) (s : State) : Out :=
  .next (s.updChan ch fun c =>
    { c with queue := upd c.queue i fun r => if r.cls = 2 && s.te.time ≥ r.time + 2000 then { r with cls := 1 } else r })

/-- DDR_REFRESH (R357): a same-bank refresh of bank `bank` that is due, one interval of 3.9 µs, or 1.95 µs while HOT,
after the last; one is postponed by at most 4 intervals. -/
def execDdrRefresh (ch bank : Nat) (s : State) : Out :=
  let c := s.chan ch
  let iv := if c.hot then 1950 else 3900
  let last := sget (fun _ => 0) c.refreshed bank
  .next (if chanServes s ch && bank < (if bit c.trainedCfg 2 then 64 else 32) && s.te.time ≥ last + iv then
    s.updChan ch fun c =>
      { c with
        rows := c.rows.filter fun e => e.1 ≠ bank
        refreshed := sset (fun _ => 0) c.refreshed bank (max (last + iv) (s.te.time - 4 * iv)) }
  else s)

/-- DDR_SR_ENTER (R358): with SR_REQ 1 and the queues empty for 100 µs the channel enters self-refresh. -/
def execDdrSrEnter (ch : Nat) (s : State) : Out :=
  let c := s.chan ch
  .next (if chanServes s ch && c.srReq && c.queue.isEmpty && (s.cal.ch.getD ch .reset).running.isNone
      && s.te.time ≥ c.emptySince + 100000 then
    s.updChan ch fun c => { c with sr := true, rows := [] }
  else s)

/-- DDR_SR_EXIT_DONE (R358): the exit ends after 2 µs. -/
def execDdrSrExitDone (ch : Nat) (s : State) : Out :=
  match (s.chan ch).exiting with
  | some t =>
    .next (if s.te.time ≥ t + 2000 && !s.gated (.ddr ch) then
      calDueNow ch (s.updChan ch fun c => { c with exiting := none, emptySince := s.te.time })
    else s)
  | none => .next s

/-- DDR_SR_REQ_WRITE (R358, R359). -/
def execDdrSrReqWrite (who : Who) (ch : Nat) (value : BitVec 32) (s : State) : Out :=
  .next (if ch < 8 then regWrite who (.ddr ch) .no (fun z => z.updChan ch fun c => { c with srReq := bit value 0 }) s else s)

/-- A write of DDR_CNT_CLR. -/
def ddrCntClr (v : BitVec 32) (c : DdrChan) : DdrChan :=
  { c with ceCnt := if bit v 0 then 0 else c.ceCnt, ueCnt := if bit v 1 then 0 else c.ueCnt, now := c.now.zeroed v }

/-- The counters as they read: events of the cycle in which they were cleared are not counted (R360). -/
def DdrChan.settle (c : DdrChan) : DdrChan := ddrCntClr c.now.clr c

/-- DDR_CNT_CLR. -/
def execDdrCntClr (who : Who) (ch : Nat) (value : BitVec 32) (s : State) : Out :=
  .next (if ch < 8 then regWrite who (.ddr ch) .yes (fun z => z.updChan ch (ddrCntClr value)) s else s)

/-! ### Registers (R359) -/

/-- SC_TRK[n]. -/
def Tracker.reg (k : Tracker) : Nat :=
  k.state.toNat + 4 * (k.owner % 16) + 64 * (k.dmaCh % 64) + 2 ^ 16 * wrap 16 k.stride + 2 ^ 32 * (k.pos % 2 ^ 24)

/-- The SC_ register at offset `o`: its value and its width in bytes. -/
def StreamCache.readReg (c : StreamCache) (o : Nat) : Option (Nat × Nat) :=
  if o = 0x000 then some (c.cfg.toNat, 4)
  else if o = 0x004 then
    some (b2n c.inval.isSome + 2 * b2n c.invalLost + 4 * (c.trk.filter fun k => k.state = 3).length
      + 512 * (c.trk.filter fun k => k.state = 1 || k.state = 2).length, 4)
  else if o = 0x008 then some (c.capGib % 2 ^ 11, 4)
  else if o = 0x010 then some (c.pwrReq.toNat, 4)
  else if o = 0x014 then some (packLanes 2 (c.sliceState.map BankState.code), 4)
  else if o = 0x018 then some (c.fence.toNat, 4)
  else if o = 0x020 then some (c.invalBase.toNat, 4)
  else if o = 0x024 then some (c.invalCount.toNat, 4)
  else if o = 0x030 then some (c.ceCnt.toNat, 4)
  else if o = 0x034 then some (c.ueCnt.toNat, 4)
  else if o = 0x038 then some (c.err.toNat, 8)
  else if o = 0x040 then some (c.cmdErr.toNat, 4)
  else if o = 0x044 then some (0, 4)
  else if 0x100 ≤ o && o < 0x300 && o % 8 = 0 then some ((c.tracker ((o - 0x100) / 8)).reg, 8)
  else none

/-- The DDR_ register of a channel at offset `o`. -/
def DdrChan.readReg (c : DdrChan) (o : Nat) : Option (Nat × Nat) :=
  if o = 0x00 then some (c.cfg.toNat, 4)
  else if o = 0x04 then some (b2n c.srReq, 4)
  else if o = 0x08 then some (b2n c.trained + 2 * b2n c.sr + 4 * b2n c.hot + 8 * b2n c.exiting.isSome, 4)
  else if o = 0x0C then some (c.ceCnt.toNat, 4)
  else if o = 0x10 then some (c.ueCnt.toNat, 4)
  else if o = 0x18 then some (c.err.toNat, 8)
  else if o = 0x20 then some (0, 4)
  else none

end Sys2Proof.Machine
end

