-- ==== Sys2Proof/Machine/DmaOps.lean ====
section
/-! DEFINITION. The DMA engine's rings: contexts and their cache, ring commands, doorbells, FIFOs, completion-queue registers
and the tile commands TAKE and DOORBELL (R361 to R366, R372 to R374, R377, R386, R389 to R391). -/

namespace Sys2Proof.Machine

/-! ### Addresses (R361) -/

/-- SPACE of an address. -/
def aSpace (a : BitVec 64) : Nat := fld a 60 4

/-- The byte within its space: of HOST the bus address, of DDR5 the device address, of TILE and HOD the byte. -/
def aByte (a : BitVec 64) : Nat :=
  match aSpace a with
  | 0 => fld a 0 60
  | 1 => 256 * fld a 0 32 + fld a 32 8
  | 2 => fld a 0 22
  | 3 => fld a 0 21
  | _ => 0

/-- Byte `b` of the space that `a` names, in that space's encoding. -/
def aAt (a : BitVec 64) (b : Nat) : BitVec 64 :=
  match aSpace a with
  | 0 => BitVec.ofNat 64 (b % 2 ^ 60)
  | 1 => BitVec.ofNat 64 (2 ^ 60 + b / 256 % 2 ^ 32 + 2 ^ 32 * (b % 256))
  | 2 => BitVec.ofNat 64 (2 * 2 ^ 60 + 2 ^ 24 * fld a 24 4 + b % 2 ^ 22)
  | 3 => BitVec.ofNat 64 (3 * 2 ^ 60 + b % 2 ^ 21)
  | _ => a

/-- The bits that an address's space does not name are zero, and the space is not a reserved one. -/
def aWf (a : BitVec 64) : Bool :=
  match aSpace a with
  | 0 => true
  | 1 => decide (fld a 40 20 = 0)
  | 2 => decide (fld a 28 32 = 0) && decide (fld a 22 2 = 0)
  | 3 => decide (fld a 21 39 = 0)
  | 4 => decide (fld a 8 52 = 0)
  | _ => false

/-- Requests to the host can be made (R394, R413). -/
def State.hostReach (s : State) : Bool := s.host.busMaster && decide (s.host.width ≠ 0)

/-! ### Contexts (R363) -/

/-- RING_BASE. -/
def cBase (c : BitVec 512) : BitVec 64 := c.extractLsb' 0 64
/-- Slots of the ring. -/
def cSize (c : BitVec 512) : Nat := 2 ^ fld c 64 5
/-- CH. -/
def cCh (c : BitVec 512) : Nat := fld c 69 6
/-- CQ. -/
def cCq (c : BitVec 512) : Nat := fld c 75 10
/-- STOP_ON_ERR. -/
def cStopErr (c : BitVec 512) : Bool := bit c 85
/-- DB_TILE_EN. -/
def cTileEn (c : BitVec 512) : Bool := bit c 86
/-- DB_TILE. -/
def cTile (c : BitVec 512) : Nat := fld c 87 4
/-- HEAD. -/
def cHead (c : BitVec 512) : Nat := fld c 96 16
/-- EXP_HSEQ. -/
def cExp (c : BitVec 512) : BitVec 32 := c.extractLsb' 128 32
/-- LIMIT. -/
def cLimit (c : BitVec 512) : BitVec 32 := c.extractLsb' 160 32

/-- A descriptor may be consumed (R369). -/
def consumable (c : BitVec 512) : Bool := decide ((cLimit c - cExp c).toNat < 2 ^ 31)

/-- An image keeps to R363. -/
def ctxOk (c : BitVec 512) : Bool :=
  aSpace (cBase c) ≤ 1 && aWf (cBase c) && decide (aByte (cBase c) % 64 = 0) && decide (4 ≤ fld c 64 5) && decide (fld c 64 5 ≤ 16)
    && decide (fld c 91 5 = 0) && decide (fld c 112 16 = 0) && decide (fld c 293 219 = 0)

/-- RING_STATE[n] (R364). -/
def Dma.live (d : Dma) (n : Nat) : RingLive := sget (fun _ => RingLive.reset) d.rings n

/-- Change it. -/
def State.updLive (s : State) (n : Nat) (f : RingLive → RingLive) : State :=
  { s with dma := { s.dma with rings := sset (fun _ => RingLive.reset) s.dma.rings n (f (s.dma.live n)) } }

/-- A context held on chip (R366). -/
def Dma.ctx (d : Dma) (n : Nat) : Option (BitVec 512) := (d.cache.find? fun c => c.ring = n).map (·.raw)

/-- Put a context on chip, most recently used. -/
def Dma.putCtx (d : Dma) (n : Nat) (raw : BitVec 512) : Dma :=
  { d with cache := ⟨n, raw⟩ :: d.cache.filter fun c => c.ring ≠ n }

/-- Change a context held on chip. -/
def State.updCtx (s : State) (n : Nat) (f : BitVec 512 → BitVec 512) : State :=
  match s.dma.ctx n with
  | some c => { s with dma := s.dma.putCtx n (f c) }
  | none => s

/-- The device address of a context's image. -/
def ctxAt (s : State) (n : Nat) : Nat := 256 * s.dma.ctxBase.toNat + 64 * n

/-- The image of a context in DDR5, with the writes that wait before it: zeros where the channel is gated (R356, R453). -/
def ctxImage (s : State) (n : Nat) : BitVec 512 :=
  if s.chanGated (ctxAt s n / 128) then 0 else BitVec.ofNat 512 (packBytes (s.ddrSoon (ctxAt s n) 64))

/-- The context of a ring, wherever it stands. -/
def ctxPeek (s : State) (n : Nat) : BitVec 512 := (s.dma.ctx n).getD (ctxImage s n)

/-- A context with its copy of the live state (R363). -/
def ctxOut (s : State) (n : Nat) (c : BitVec 512) : BitVec 512 :=
  setFld (setFld c 288 3 (s.dma.live n).state.toNat) 291 2 (s.dma.live n).cause.toNat

/-- Write a context back to DDR5. -/
def writeBack (s : State) (c : RingCtx) : State :=
  State.ddrWriteLines none 65 (ctxAt s c.ring) (unpackBytes 64 (ctxOut s c.ring c.raw).toNat) s

/-- A ring whose context must stay on chip. -/
def ctxPinned (s : State) (n : Nat) : Bool := (s.dma.live n).state = 2 || (s.dma.live n).state = 3

/-- Room for one more context: the least recently used one of a ring neither READY nor RUNNING is written back (R366);
none when every context is needed. -/
def makeRoom (s : State) : Option State :=
  if s.dma.cache.length < 256 then some s
  else
    match s.dma.cache.reverse.find? fun c => !ctxPinned s c.ring with
    | some c =>
      let s1 := writeBack s c
      some { s1 with dma := { s1.dma with cache := s1.dma.cache.filter fun x => x.ring ≠ c.ring } }
    | none => none

/-- A ring no longer waits for room on chip. -/
def notWaiting (n : Nat) (s : State) : State := { s with dma := { s.dma with wait := s.dma.wait.filter (· ≠ n) } }

/-- The context `c` of ring `n` is on chip, given room, most recently used, and the ring does not wait for room any more (R366); none when
every context on chip is needed. -/
def keepCtx (n : Nat) (c : BitVec 512) (s : State) : Option State :=
  if (s.dma.ctx n).isSome then some (notWaiting n { s with dma := s.dma.putCtx n c })
  else (makeRoom s).map fun s1 => notWaiting n { s1 with dma := s1.dma.putCtx n c }

/-! ### Errors (R365, R373, R390) -/

/-- Capture the first case in DMA_ERR. -/
def dmaErr (cause ring tile cmd : Nat) (s : State) : State :=
  let x : BitVec 64 := BitVec.ofNat 64 (cause % 256 + 2 ^ 8 * (ring % 2 ^ 15) + 2 ^ 23 * (tile % 16) + 2 ^ 27 * (cmd % 256) + 2 ^ 63)
  { s with dma := { s.dma with err := if bit s.dma.err 63 then s.dma.err else x, now := s.dma.now.first x } }

/-! ### Ring commands (R365) -/

/-- A ring is IDLE or READY, as its context says. -/
def ringReady (n : Nat) (c : BitVec 512) (s : State) : State :=
  s.updLive n fun _ =>
    { state := if consumable c then 2 else 1, cause := 0, head := BitVec.ofNat 16 (cHead c), consumed := cExp c - 1 }

/-- A ring that finds no room on chip is IDLE; one that may consume becomes READY once there is room (log entry 42). -/
def ringParked (n : Nat) (c : BitVec 512) (s : State) : State :=
  let s1 := s.updLive n fun _ => { state := 1, cause := 0, head := BitVec.ofNat 16 (cHead c), consumed := cExp c - 1 }
  if consumable c then { s1 with dma := { s1.dma with wait := s1.dma.wait.filter (· ≠ n) ++ [n] } } else s1

/-- INIT and RESUME leave a ring with its context on chip where there is room, and IDLE or READY. -/
def ringStart (n : Nat) (c : BitVec 512) (s : State) : State :=
  let s1 := match keepCtx n c s with
    | some z => ringReady n c z
    | none => ringParked n c s
  mirrorRing n c (s1.dma.live n) s1

/-- INIT: any copy on chip is discarded, and the image `c`, just read, is checked. -/
def ringInit (n : Nat) (c : BitVec 512) (s : State) : State :=
  let st := (s.dma.live n).state
  if st ≠ 0 && st ≠ 4 then dmaErr 1 n 0 0 s
  else if !ctxOk c then dmaErr 4 n 0 0 s
  else ringStart n c { s with dma := { s.dma with cache := s.dma.cache.filter fun x => x.ring ≠ n } }

/-- A ring that is not RUNNING stops; one that is stops after its descriptor. -/
def ringHalt (n : Nat) (s : State) : State :=
  let st := (s.dma.live n).state
  if st = 3 then { s with dma := { s.dma with stopAfter := n :: s.dma.stopAfter.filter (· ≠ n) } }
  else if st = 1 || st = 2 then
    { s with dma := { s.dma with wait := s.dma.wait.filter (· ≠ n) } }.updLive n fun r => { r with state := 4, cause := 0 }
  else s

/-- STOP. -/
def ringStop (n : Nat) (s : State) : State :=
  let st := (s.dma.live n).state
  if st = 1 || st = 2 || st = 3 then ringHalt n s else dmaErr 2 n 0 0 s

/-- RESUME, with the ring's context. -/
def ringResume (n : Nat) (c : BitVec 512) (s : State) : State :=
  if (s.dma.live n).state ≠ 4 then dmaErr 2 n 0 0 s else ringStart n c s

/-- OFF: the context is written back and leaves the chip. -/
def ringOff (n : Nat) (s : State) : State :=
  let st := (s.dma.live n).state
  if st ≠ 4 && st ≠ 1 then dmaErr 2 n 0 0 s
  else
    let s1 := s.updLive n fun r => { r with state := 0, cause := 0 }
    let s2 := match s.dma.ctx n with
      | some c => writeBack s1 ⟨n, c⟩
      | none => s1
    notWaiting n { s2 with dma := { s2.dma with cache := s2.dma.cache.filter fun x => x.ring ≠ n } }

/-- FLUSH. -/
def ringFlush (s : State) : State := s.dma.cache.foldl writeBack s

/-- A doorbell of ring `n`, whose context is `c`: LIMIT is set, or `v` is added to it; an IDLE ring that may now consume becomes
READY.  Where the context is not on chip and there is no room, or the ring is OFF, its image changes; a ring that finds no room
becomes READY later (log entry 42). -/
def ringBell (n : Nat) (v : BitVec 32) (add : Bool) (c : BitVec 512) (s : State) : State :=
  let c1 := setFld c 160 32 (if add then cLimit c + v else v).toNat
  let image (z : State) : State := State.ddrWriteLines none 5 (ctxAt z n + 20) (unpackBytes 4 (cLimit c1).toNat) z
  let st := (s.dma.live n).state
  if st = 0 && (s.dma.ctx n).isNone then image s
  else
    match keepCtx n c1 s with
    | some s1 => if st = 1 && consumable c1 then s1.updLive n fun r => { r with state := 2 } else s1
    | none =>
      let s1 := image s
      if st = 1 && consumable c1 then { s1 with dma := { s1.dma with wait := s1.dma.wait.filter (· ≠ n) ++ [n] } } else s1

/-- One more doorbell ignored. -/
def countBell (s : State) : State := { s with dma := { s.dma with dbRejCnt := satAdd32 s.dma.dbRejCnt 1 } }

/-- A ring that waits for room comes on chip and becomes READY, or IDLE when it may no longer consume (log entry 42). -/
def ringArrive (n : Nat) (c : BitVec 512) (s : State) : State :=
  match keepCtx n c s with
  | some s1 => if (s.dma.live n).state = 1 && consumable c then s1.updLive n fun r => { r with state := 2 } else s1
  | none => s

/-- The DOORBELL entry of a tile's command list that an operation stands for, while its run still stands at it. -/
def bellEntry (s : State) (tile : Nat) (urgent : Bool) (start runs : Nat) : Option (StepRun × BitVec 512) :=
  match ownEntry s tile urgent 9 with
  | some (r, e) => if r.start = start && r.runs = runs then some (r, e) else none
  | none => none

/-- A DOORBELL of a command list rings, or, of a ring that is not the tile's to ring, is malformed (R373, R374). -/
def tileBell (n tile : Nat) (urgent : Bool) (start runs : Nat) (c : BitVec 512) (s : State) : State :=
  match bellEntry s tile urgent start runs with
  | none => s
  | some (r, e) =>
    if !cTileEn c || cTile c ≠ tile then malformed tile urgent (dmaErr 6 n tile (entryIndex r) s)
    else advanceList tile urgent ((ringBell n (e.extractLsb' 64 32) true c s).markSent tile urgent)

/-! ### Operations that need a ring's context (R356, R365, R366) -/

/-- The ring of an operation. -/
def CtxOp.ring : CtxOp → Nat
  | .init n | .stop n | .resume n | .off n | .bell n _ _ | .tileBell n _ _ _ _ | .arrive n | .copy n _ => n

/-- An operation reads the context's image in DDR5: INIT always, where it is allowed, and the others that need a context where none is on
chip. -/
def readsImage (s : State) (op : CtxOp) : Bool :=
  let st := (s.dma.live op.ring).state
  match op with
  | .init _ => decide (st = 0) || decide (st = 4)
  | .resume n => decide (st = 4) && (s.dma.ctx n).isNone
  | .stop _ | .off _ => false
  | .bell n _ _ | .tileBell n _ _ _ _ | .arrive n | .copy n _ => (s.dma.ctx n).isNone

/-- A ring's context goes to the standby; one that a RESYNC sends is now its last frame (R483). -/
def copySend (n : Nat) (resync : Bool) (c : BitVec 512) (s : State) : State :=
  if !mirrorOn s then s
  else
    let s1 := sendRing n c (s.dma.live n) s
    if resync && s.bond.resync.isSome then { s1 with bond := { s1.bond with resync := some s.bond.txSeq } } else s1

/-- An operation with the ring's context `c`. -/
def runOp (op : CtxOp) (c : BitVec 512) (s : State) : State :=
  match op with
  | .init n => ringInit n c s
  | .stop n => ringStop n s
  | .resume n => ringResume n c s
  | .off n => ringOff n s
  | .bell n v add => if cTileEn c then countBell s else ringBell n v add c s
  | .tileBell n t u st runs => tileBell n t u st runs c s
  | .arrive n => ringArrive n c s
  | .copy n resync => copySend n resync c s

/-- An operation whose context is poisoned does nothing (log entry 97): INIT and RESUME record the error, and a tile's step ends with
POISON (R525). -/
def poisonedOp (op : CtxOp) (s : State) : State :=
  match op with
  | .init n | .resume n => dmaErr 4 n 0 0 s
  | .tileBell _ t u st runs => if (bellEntry s t u st runs).isSome then stepFault t u stPoison s else s
  | .arrive n => notWaiting n s
  | _ => s

/-- The image has been read, with what the channel's check code found (R355). -/
def gotImage (op : CtxOp) (err : BeatErr) (s : State) : State :=
  let s1 := ddrErr (ctxAt s op.ring / 128) err s
  if err.bad then poisonedOp op s1
  else runOp op (BitVec.ofNat 512 (packBytes (s.ddrBytes (ctxAt s op.ring) 64))) s1

/-- An operation begins: it runs with the context on chip, or its request for the image joins the channel's queue; where the channel serves
at once and `err` says what the check code finds, it is served. -/
def startOp (op : CtxOp) (err : Option BeatErr) (s : State) : State :=
  if !readsImage s op then runOp op (ctxPeek s op.ring) s
  else
    let l := ctxAt s op.ring / 128
    if s.chanGated l then runOp op 0 s.countGated
    else
      match err, s.ddrFast l with
      | some e, true => gotImage op e (s.ddrOpen l)
      | _, _ => s.ddrRequest l (.ctx op) 2

/-- A channel's queue holds a request for the context of ring `n`. -/
def imageAsked (s : State) (n : Nat) : Bool :=
  s.ddr.ch.any fun c => c.queue.any fun r => match r.kind with | .ctx op => decide (op.ring = n) | _ => false

/-- An earlier operation on ring `n` still waits (R365). -/
def opWaits (s : State) (n : Nat) : Bool := imageAsked s n || s.dma.after.any fun x => decide (x.ring = n)

/-- An operation on a ring: those of one ring take effect in the order in which they reach the engine (R365). -/
def ringOp (op : CtxOp) (err : Option BeatErr) (s : State) : State :=
  if opWaits s op.ring then { s with dma := { s.dma with after := s.dma.after ++ [op] } } else startOp op err s

/-- The operations that waited for an earlier one of ring `n` go on, until one of them waits itself. -/
def opsAfter (n : Nat) : Nat → State → State
  | 0, s => s
  | fuel + 1, s =>
    if imageAsked s n then s
    else
      match s.dma.after.find? fun x => decide (x.ring = n) with
      | none => s
      | some op => opsAfter n fuel (startOp op none { s with dma := { s.dma with after := s.dma.after.erase op } })

/-- The request of an operation for a context is served. -/
def serveOp (op : CtxOp) (err : BeatErr) (s : State) : State :=
  let s1 := if readsImage s op then gotImage op err s else runOp op (ctxPeek s op.ring) (ddrErr (ctxAt s op.ring / 128) err s)
  opsAfter op.ring s1.dma.after.length s1

/-- The context of ring `n`, as it now stands, is copied to the standby (R477). -/
def copyRing (n : Nat) (s : State) : State := if cqMirrored s then startOp (.copy n false) none s else s

/-- A ring stops as by STOP, with the copy of its context where it was in use (R477, log entry 54). -/
def haltCopied (n : Nat) (s : State) : State :=
  let st := (s.dma.live n).state
  let s1 := ringHalt n s
  if st = 1 || st = 2 || st = 3 then copyRing n s1 else s1

/-- STOP, with the copy of the ring's context. -/
def stopCopied (n : Nat) (s : State) : State :=
  let st := (s.dma.live n).state
  let s1 := ringOp (.stop n) none s
  if st = 1 || st = 2 || st = 3 then copyRing n s1 else s1

/-- OFF, with the copy of the ring's context. -/
def offCopied (n : Nat) (s : State) : State :=
  let st := (s.dma.live n).state
  let s1 := ringOp (.off n) none s
  if st = 1 || st = 4 then copyRing n s1 else s1

/-- A write of DMA_RING_CMD, with what is found where it reads a context; after a device fault it is refused and counted
(R536). -/
def dmaRingCmd (v : BitVec 32) (err : BeatErr) (s : State) : State :=
  let n := fld v 0 15
  if s.flt.devFault then s.hostReject
  else
    match fld v 16 3 with
    | 0 => ringOp (.init n) (some err) s
    | 1 => stopCopied n s
    | 2 => ringOp (.resume n) (some err) s
    | 3 => offCopied n s
    | 4 => ringFlush s
    | _ => dmaErr 3 n 0 0 s

/-- The word of a ring command. -/
def ringWord (op ring : Nat) : BitVec 32 := BitVec.ofNat 32 (ring % 2 ^ 15 + 2 ^ 16 * op)

/-- RING_INIT (R365, R366). -/
def execRingInit (who : Who) (look : RingLook) (s : State) : Out :=
  .next (regWrite who .dma .yes (dmaRingCmd (ringWord 0 look.ring) look.err) s)

/-- RING_STOP. -/
def execRingStop (who : Who) (ring : Nat) (s : State) : Out :=
  .next (regWrite who .dma .yes (dmaRingCmd (ringWord 1 ring) .none) s)

/-- RING_RESUME. -/
def execRingResume (who : Who) (look : RingLook) (s : State) : Out :=
  .next (regWrite who .dma .yes (dmaRingCmd (ringWord 2 look.ring) look.err) s)

/-- RING_OFF. -/
def execRingOff (who : Who) (ring : Nat) (s : State) : Out :=
  .next (regWrite who .dma .yes (dmaRingCmd (ringWord 3 ring) .none) s)

/-- RING_FLUSH. -/
def execRingFlush (who : Who) (ring : Nat) (s : State) : Out :=
  .next (regWrite who .dma .yes (dmaRingCmd (ringWord 4 ring) .none) s)

/-! ### Doorbells (R372, R373) -/

/-- DOORBELL_WRITE (R372, R394, R402, R477, R507, R536): a host write at BAR4 offset 8n; `lo` and `hi` are the halves that it
covers, and `err` what is found where it reads a context. -/
def execDoorbellWrite (look : RingLook) (lo hi : Option (BitVec 32)) (ep : Bool) (s : State) : Out :=
  if look.ring ≥ 32768 || s.host.width = 0 then .next s
  else if !s.barOpen || ep then .next (hostWrite ep id s)
  else if !s.sec.life.running || s.flt.devFault then .next s.linkUse.hostReject
  else if s.gated .dma then .next s.linkUse.countGated
  else
    match lo with
    | none => .next s.linkUse
    | some v =>
      if standby s then .next (countBell s.linkUse)
      else .next (ringOp (.bell look.ring v (match hi with | some h => bit h 0 | none => false)) (some look.err) s.linkUse)

/-! ### Stream FIFOs (R377) -/

/-- FIFO `k`. -/
def Dma.fifoOf (d : Dma) (k : Nat) : DmaFifo := sget (fun _ => DmaFifo.reset) d.fifo k

/-- Change FIFO `k`. -/
def State.updFifo (s : State) (k : Nat) (f : DmaFifo → DmaFifo) : State :=
  { s with dma := { s.dma with fifo := sset (fun _ => DmaFifo.reset) s.dma.fifo k (f (s.dma.fifoOf k)) } }

/-- LEVEL. -/
def DmaFifo.level (f : DmaFifo) : Nat := (f.put - f.take).toNat

/-- Add to TAKE. -/
def fifoTake (k n : Nat) (s : State) : State := s.updFifo k fun f => { f with take := f.take + BitVec.ofNat 32 n }

/-- A write of DMA_FIFO_CFG[k]. -/
def fifoCfgWrite (k : Nat) (v : BitVec 64) (s : State) : State :=
  s.updFifo k fun _ => { cfg := setFld v 15 1 0, put := 0, take := 0 }

/-- DMA_FIFO_CFG_WRITE. -/
def execDmaFifoCfgWrite (who : Who) (fifo : Nat) (value : BitVec 64) (s : State) : Out :=
  .next (if fifo < 136 then regWrite who .dma .yes (fifoCfgWrite fifo value) s else s)

/-- A write of DMA_FIFO_TAKE[k]: a COUNT above LEVEL is ignored and recorded. -/
def fifoTakeWrite (k : Nat) (v : BitVec 32) (s : State) : State :=
  if fld v 0 16 > (s.dma.fifoOf k).level then dmaErr 5 0 0 0 s else fifoTake k (fld v 0 16) s

/-- DMA_FIFO_TAKE_WRITE. -/
def execDmaFifoTakeWrite (who : Who) (fifo : Nat) (value : BitVec 32) (s : State) : Out :=
  .next (if fifo < 136 then regWrite who .dma .yes (fifoTakeWrite fifo value) s else s)

/-- TAKE (R373, R374, R451, R453): a tile's command list releases courses; a malformed one ends the step; of a gated engine it is counted.
-/
def execTake (tile : Nat) (urgent : Bool) (s : State) : Out :=
  match ownEntry s tile urgent 8 with
  | none => .next s
  | some (r, e) =>
    let k := fld e 32 8
    let n := fld e 64 16
    if strayBits e [(0, 8), (32, 8), (64, 16)] || n = 0 || n > 32768 || !(k / 8 = tile || (128 ≤ k && k ≤ 135))
        || n > (s.dma.fifoOf k).level then
      .next (malformed tile urgent (dmaErr 5 0 tile (entryIndex r) s))
    else .next (advanceList tile urgent (if s.gated .dma then s.countGated else (fifoTake k n s).markSent tile urgent))

/-- DOORBELL (R356, R373, R374, R451, R453): a tile's command list adds to a ring's LIMIT, once the ring's context is at hand, `err` being
what is found where that is read at once; a malformed one ends the step; of a gated engine it is counted. -/
def execDoorbell (list : StepRef) (err : BeatErr) (s : State) : Out :=
  let tile := list.tile
  let urgent := list.urgent
  match ownEntry s tile urgent 9 with
  | none => .next s
  | some (r, e) =>
    let op : CtxOp := .tileBell (fld e 32 15) tile urgent r.start r.runs
    let waits := s.dma.after.contains op || s.ddr.ch.any fun c => c.queue.any fun q => q.kind == .ctx op
    if strayBits e [(0, 8), (32, 15), (64, 32)] then .next (malformed tile urgent (dmaErr 6 (fld e 32 15) tile (entryIndex r) s))
    else if s.gated .dma then .next (advanceList tile urgent s.countGated)
    else if waits then .next s
    else .next (ringOp op (some err) s)

/-! ### Completion-queue registers (R386, R387, R391) -/

/-- Queue `q`. -/
def Dma.cqOf (d : Dma) (q : Nat) : DmaCq := sget (fun _ => DmaCq.reset) d.cq q

/-- Change queue `q`. -/
def State.updCq (s : State) (q : Nat) (f : DmaCq → DmaCq) : State :=
  { s with dma := { s.dma with cq := sset (fun _ => DmaCq.reset) s.dma.cq q (f (s.dma.cqOf q)) } }

/-- ENABLE. -/
def DmaCq.en (q : DmaCq) : Bool := bit q.cfg 12

/-- Record slots. -/
def DmaCq.size (q : DmaCq) : Nat := 2 ^ fld q.cfg 0 5

/-- A write of the low half of DMA_CQ_CFG: while ENABLE is 1 only ENABLE is written; setting it starts the queue. -/
def DmaCq.cfgWrite (q : DmaCq) (v : BitVec 32) : DmaCq :=
  if q.en then { q with cfg := setBit q.cfg 12 (bit v 12) }
  else
    let q1 := { q with cfg := v.setWidth 14 }
    if bit v 12 && !bit v 13 then { q1 with tail := 0, phase := true } else q1

/-- That write, copied to the standby when the host makes it. -/
def cqCfgWrite (who : Who) (n : Nat) (v : BitVec 32) (s : State) : State :=
  let s1 := s.updCq n fun q => q.cfgWrite v
  if who = .host then mirrorCqRegs n (s1.dma.cqOf n) s1 else s1

/-- CQ_ENABLE: a write of DMA_CQ_CFG that sets ENABLE. -/
def execCqEnable (who : Who) (cq : Nat) (value : BitVec 32) (s : State) : Out :=
  .next (if cq < 1024 && bit value 12 && !(s.dma.cqOf cq).en then regWrite who .dma .yes (cqCfgWrite who cq value) s else s)

/-- A write of DMA_CQ_HEAD[q]. -/
def cqHeadWrite (who : Who) (n : Nat) (v : BitVec 32) (s : State) : State :=
  let s1 := s.updCq n fun q => { q with head := v.setWidth 16 }
  if who = .host then mirrorCqRegs n (s1.dma.cqOf n) s1 else s1

/-- CQ_HEAD_WRITE. -/
def execCqHeadWrite (who : Who) (cq : Nat) (value : BitVec 32) (s : State) : Out :=
  .next (if cq < 1024 then regWrite who .dma .yes (cqHeadWrite who cq value) s else s)

/-- A write of one half, or the whole, of DMA_CQ_BASE[q]: only while ENABLE is 0. -/
def cqBaseWrite (who : Who) (n : Nat) (v : BitVec 64) (s : State) : State :=
  if (s.dma.cqOf n).en then s
  else
    let s1 := s.updCq n fun q => { q with base := v }
    if who = .host then mirrorCqRegs n (s1.dma.cqOf n) s1 else s1

/-! ### Disabling a channel (R389) -/

/-- Channel `c`. -/
def Dma.chan (d : Dma) (c : Nat) : DmaChan := d.ch.getD c .reset

/-- Change channel `c`. -/
def State.updDch (s : State) (c : Nat) (f : DmaChan → DmaChan) : State := { s with dma := { s.dma with ch := upd s.dma.ch c f } }

/-- The ring of a dropped descriptor becomes OFF, HEAD and EXP_HSEQ stand at that descriptor, and its counts, and the PUT of
a FIFO it was writing, are free values (log entry 1); the standby is told (log entry 54). -/
def dropWork (w : DmaWork) (s : State) : State :=
  let c := ctxPeek s w.ring
  let head := (cHead c + cSize c - 1) % cSize c
  let (b, s1) := s.draw 64
  let (n, s2) := s1.draw 32
  let s3 := s2.updCtx w.ring fun c =>
    setFld (setFld (setFld (setFld c 96 16 head) 128 32 (cExp c - 1).toNat) 192 64 b.toNat) 256 32 n.toNat
  let s4 := s3.updLive w.ring fun r =>
    { r with state := 0, cause := 0, head := BitVec.ofNat 16 head, consumed := cExp c - 2 }
  let s4 := copyRing w.ring s4
  let dst : BitVec 64 := w.desc.extractLsb' 128 64
  if aSpace dst = 4 && fld dst 0 8 < 136 then
    let (p, s5) := s4.draw 32
    s5.updFifo (fld dst 0 8) fun f => { f with put := p }
  else s4

/-- A ring of channel `c` that is in use stops with cause 3, its context intact (R389); the standby is told (log entry 54). -/
def ringCut (c : Nat) (s : State) (n : Nat) : State :=
  let st := (s.dma.live n).state
  if (st = 1 || st = 2 || st = 4) && cCh (ctxPeek s n) = c then
    copyRing n ((notWaiting n s).updLive n fun r => { r with state := 4, cause := 3 })
  else s

/-- What channel `c` has asked of DDR5 for itself is lost (R389). -/
def dropReads (c : Nat) (s : State) : State :=
  let keep (x : DdrChan) : DdrChan := { x with queue := x.queue.filter fun r => r.kind != .chan c }
  let s1 := { s with ddr := { s.ddr with ch := s.ddr.ch.map keep } }
  s1.setDmaLine c none

/-- DISABLE set in DMA_CH_CTRL[c]: writes that have left the engine are still performed. -/
def chanDisable (c : Nat) (s : State) : State :=
  let x := s.dma.chan c
  let s1 := dropReads c ((s.dma.rings.map (·.1)).foldl (ringCut c) s)
  let s2 := match x.work with
    | some w => dropWork w s1
    | none => s1
  let s3 := s2.updDch c fun x =>
    { x with disable := true, paced := false, pacedOn := none, work := none, recs := [], placed := false }
  { s3 with
    dma := { s3.dma with
      stopAfter := match x.work with
        | some w => s3.dma.stopAfter.filter (· ≠ w.ring)
        | none => s3.dma.stopAfter
      flight := s3.dma.flight.map fun p => if p.ch = c then { p with live := false } else p }
    bond := { s3.bond with stateWait := s3.bond.stateWait.filter fun w => w.ch ≠ c } }

/-- A write of DMA_CH_CTRL[c]. -/
def chCtrlWrite (c : Nat) (v : BitVec 32) (s : State) : State :=
  if bit v 0 then chanDisable c s else s.updDch c fun x => { x with disable := false }

/-- CHANNEL_DISABLE: a write of DMA_CH_CTRL[c] with DISABLE = 1. -/
def execChannelDisable (who : Who) (ch : Nat) (s : State) : Out :=
  .next (if ch < 64 then regWrite who .dma .yes (chCtrlWrite ch 1) s else s)

/-! ### Registers (R390) -/

/-- A write of DMA_CNT_CLR. -/
def dmaCntClr (v : BitVec 32) (d : Dma) : Dma :=
  { d with
    dbRejCnt := if bit v 0 then 0 else d.dbRejCnt
    ownMissCnt := if bit v 1 then 0 else d.ownMissCnt
    cqFullCnt := if bit v 2 then 0 else d.cqFullCnt
    now := d.now.zeroed v }

/-- The counters as they read: events of the cycle in which they were cleared are not counted (R391). -/
def Dma.settle (d : Dma) : Dma := dmaCntClr d.now.clr d

/-- DMA_CNT_CLR. -/
def execDmaCntClr (who : Who) (value : BitVec 32) (s : State) : Out :=
  .next (regWrite who .dma .yes (fun z => { z with dma := dmaCntClr value z.dma }) s)

/-- The queue has a free slot. -/
def DmaCq.room (q : DmaCq) : Bool := decide ((q.tail.toNat + 1) % q.size ≠ q.head.toNat)

/-- No write of channel `c` is outstanding (R389). -/
def Dma.quiet (d : Dma) (c : Nat) : Bool := !(d.flight.any fun p => decide (p.ch = c)) && decide ((d.chan c).posted = 0)

/-- Every write of the descriptor that channel `c` works on has come to its tile: those that DISABLE has dropped do not count (R371,
R389). -/
def Dma.landed (d : Dma) (c : Nat) : Bool := !(d.flight.any fun p => decide (p.ch = c) && p.live)

/-- Channel `c` holds a record for a queue that is full or disabled (R387). -/
def Dma.cqHeld (d : Dma) (c : Nat) : Bool :=
  match (d.chan c).recs with
  | r :: _ => !(d.cqOf r.cq).en || (!(d.chan c).placed && !(d.cqOf r.cq).room)
  | [] => false

/-- DMA_CH_STATUS[c]. -/
def Dma.chStatus (d : Dma) (c : Nat) : Nat :=
  let x := d.chan c
  b2n x.work.isSome + 2 * b2n x.paced + 4 * b2n (d.quiet c) + 8 * b2n (d.cqHeld c)
    + 256 * (match x.work with | some w => w.ring % 2 ^ 15 | none => 0)

/-- RING_STATE[n]. -/
def Dma.ringReg (d : Dma) (n : Nat) : Nat :=
  let r := d.live n
  r.state.toNat + 8 * r.cause.toNat + 32 * b2n (d.ctx n).isSome + 64 * r.head.toNat + 2 ^ 32 * r.consumed.toNat

/-- The DMA_ register at offset `o`: its value and its width in bytes. -/
def Dma.readReg (d : Dma) (o : Nat) : Option (Nat × Nat) :=
  if o = 0x00 then some (d.cache.length % 512 + 512 * (d.ch.filter fun c => c.work.isSome).length, 4)
  else if o = 0x08 then some (d.ctxBase.toNat, 8)
  else if o = 0x10 then some (0, 4)
  else if o = 0x18 then some (d.err.toNat, 8)
  else if o = 0x20 then some (d.dbRejCnt.toNat, 4)
  else if o = 0x24 then some (d.ownMissCnt.toNat, 4)
  else if o = 0x28 then some (d.cqFullCnt.toNat, 4)
  else if o = 0x2C then some (0, 4)
  else if 0x100 ≤ o && o < 0x200 && o % 4 = 0 then some (b2n (d.chan ((o - 0x100) / 4)).disable, 4)
  else if 0x200 ≤ o && o < 0x300 && o % 4 = 0 then some (d.chStatus ((o - 0x200) / 4), 4)
  else if 0x10000 ≤ o && o < 0x10440 && o % 8 = 0 then some ((d.fifoOf ((o - 0x10000) / 8)).cfg.toNat, 8)
  else if 0x11000 ≤ o && o < 0x11440 && o % 8 = 0 then
    let f := d.fifoOf ((o - 0x11000) / 8)
    some (f.put.toNat + 2 ^ 32 * f.take.toNat, 8)
  else if 0x12000 ≤ o && o < 0x12220 && o % 4 = 0 then some (0, 4)
  else if 0x20000 ≤ o && o < 0x24000 && o % 8 = 0 then
    let q := d.cqOf ((o - 0x20000) / 16)
    some (if o % 16 = 0 then q.base.toNat else q.cfgReg, 8)
  else if 0x40000 ≤ o && o < 0x41000 && o % 4 = 0 then some ((d.cqOf ((o - 0x40000) / 4)).head.toNat, 4)
  else if 0x80000 ≤ o && o < 0xC0000 && o % 8 = 0 then some (d.ringReg ((o - 0x80000) / 8), 8)
  else none

end Sys2Proof.Machine
end

