-- ==== Sys2Proof/Machine/DmaRun.lean ====
section
/-! DEFINITION. The DMA engine at work: fetching and checking a descriptor, the byte funnel, pacing, element faults,
completion and its record (R367 to R371, R375 to R388). -/

namespace Sys2Proof.Machine

/-! ### Descriptors (R367, R368) -/

/-- TYPE: 0 COPY, 1 GATHER, 2 NOP. -/
def xType (d : BitVec 512) : Nat := fld d 1 2
/-- HSEQ. -/
def xHseq (d : BitVec 512) : BitVec 32 := d.extractLsb' 32 32
/-- SRC. -/
def xSrc (d : BitVec 512) : BitVec 64 := d.extractLsb' 64 64
/-- DST. -/
def xDst (d : BitVec 512) : BitVec 64 := d.extractLsb' 128 64
/-- LENGTH. -/
def xLen (d : BitVec 512) : Nat := fld d 192 32
/-- Bytes of one element: a COPY is one element. -/
def xElen (d : BitVec 512) : Nat := if xType d = 0 then xLen d else if xType d = 1 then fld d 192 13 else 0
/-- Elements. -/
def xElems (d : BitVec 512) : Nat := if xType d = 0 then 1 else if xType d = 1 then fld d 208 5 else 0
/-- First source byte of element `k`, within its space. -/
def xFrom (d : BitVec 512) (k : Nat) : Nat :=
  aByte (xSrc d) + (if xType d = 1 then fld d (256 + 16 * k) 16 * 2 ^ fld d 216 5 else 0)
/-- First destination byte of element `k`, within its space. -/
def xTo (d : BitVec 512) (k : Nat) : Nat := aByte (xDst d) + k * xElen d
/-- The FIFO that the descriptor writes. -/
def xFifo (d : BitVec 512) : Option Nat := if aSpace (xDst d) = 4 then some (fld (xDst d) 0 8) else none

/-- A reserved field, or an OFF beyond the elements, is non-zero (R367, R370). -/
def xStray (d : BitVec 512) : Bool :=
  decide (fld d 12 20 ≠ 0)
    || (if xType d = 1 then
          decide (fld d 205 3 ≠ 0) || decide (fld d 213 3 ≠ 0) || decide (fld d 221 3 ≠ 0)
            || decide (fld d (256 + 16 * xElems d) 256 ≠ 0)
        else decide (fld d 256 256 ≠ 0))

/-- A HOD address or length is not whole courses (R370). -/
def xHodBad (a : BitVec 64) (n : Nat) : Bool := aSpace a = 3 && (decide (aByte a % 128 ≠ 0) || decide (n % 128 ≠ 0))

/-- The descriptor is malformed (R370). -/
def xBad (d : BitVec 512) : Bool :=
  xStray d
    || (match xType d with
        | 0 => decide (xLen d = 0)
        | 1 => decide (xElen d = 0) || decide (xElen d > 4096) || decide (xElems d = 0) || decide (xElems d > 16)
            || decide (fld d 216 5 > 20) || aSpace (xSrc d) = 3 || aSpace (xSrc d) = 0
        | 2 => decide (xSrc d ≠ 0) || decide (xDst d ≠ 0) || decide (xLen d ≠ 0)
        | _ => true)
    || (xType d < 2 && (!aWf (xSrc d) || !aWf (xDst d) || aSpace (xSrc d) = 4 || xHodBad (xSrc d) (xElen d)
          || xHodBad (xDst d) (xElen d)))

/-! ### Fetching (R369, R375, R404) -/

/-- The channel may take up a descriptor. -/
def chanFree (s : State) (c : Nat) : Bool :=
  let x := s.dma.chan c
  decide (c < 64) && !s.gated .dma && !s.flt.devFault && !x.disable && !x.paced && x.work.isNone && x.recs.isEmpty

/-- The READY rings of channel `c`. -/
def readyRings (s : State) (c : Nat) : List Nat :=
  (s.dma.cache.filter fun x => (s.dma.live x.ring).state = 2 && cCh x.raw = c).map (·.ring)

/-- The smallest of a list. -/
def least : List Nat → Option Nat
  | [] => none
  | a :: r => match least r with | some b => some (min a b) | none => some a

/-- The ring a channel serves next: the first READY ring after the one served last, in ring order, around. -/
def nextRing (s : State) (c : Nat) : Option Nat :=
  let l := readyRings s c
  match (s.dma.chan c).lastRing with
  | some k => (least (l.filter (k < ·))).orElse fun _ => least l
  | none => least l

/-- Bytes `b` to `b + n − 1` of a line. -/
def lineCut (x : BitVec 1024) (b n : Nat) : List (BitVec 8) := unpackBytes n (x.toNat >>> (8 * (b % 128)))

/-- Exactly `n` bytes of an answer. -/
def padTo (n : Nat) (l : List (BitVec 8)) : List (BitVec 8) := (l ++ List.replicate n 0).take n

/-- Read a ring slot: none when the request to the host fails or the data is poisoned. -/
def readSlot (c : Nat) (slot : BitVec 64) (host : HostAns) (ecc : LineEcc) (err : BeatErr) (s : State) :
    Option (BitVec 512) × State :=
  if aSpace slot = 0 then
    match s.hostReach, host with
    | true, .data l => (some (BitVec.ofNat 512 (packBytes (padTo 64 l))), s.linkUse)
    | true, _ => (none, s.linkUse)
    | false, _ => (none, s)
  else
    let b := aByte slot
    if b + 64 > 128 * s.capLines then (none, s)
    else
      let ((x, poison), s1) := dmaReadLine c (b / 128) ecc err s
      (if poison then none else some (BitVec.ofNat 512 (packBytes (lineCut x b 64))), s1)

/-- The descriptor at HEAD is consumed: the channel begins to work on it. -/
def consume (c n : Nat) (slot : BitVec 64) (d : BitVec 512) (s : State) : State :=
  let s1 := s.updCtx n fun x =>
    setFld (setFld (setFld x 96 16 ((cHead x + 1) % cSize x)) 128 32 (cExp x + 1).toNat) 256 32 (fld x 256 32 + 1)
  let x := ctxPeek s1 n
  (s1.updLive n fun _ => { state := 3, cause := 0, head := BitVec.ofNat 16 (cHead x), consumed := cExp x - 1 }).updDch c
    fun q => { q with
      work := some { ring := n, desc := d, slot := slot, bad := xBad d, elem := 0, read := 0, put := 0, written := 0, funnel := []
                     cause := 0, srcFault := false, faultAddr := 0, faultAt := 0 } }

/-- An unexpected HSEQ: a SEQ_GAP record is due and the ring stops.  The record's last field is a free value. -/
def seqGap (c n : Nat) (d : BitVec 512) (s : State) : State :=
  let (v, s1) := s.draw 64
  let r : CqRecord :=
    { cq := cCq (ctxPeek s n), status := 1, elem := 0, cause := 0, ring := n, hseq := xHseq d, user := 0, last := v, irq := false }
  (s1.updLive n fun x => { x with state := 4, cause := 2 }).updDch c fun q => { q with recs := [r] }

/-- The first ring that waits for room and for which no other operation waits, when there is some room. -/
def ringWaiting (s : State) : Option Nat := if (makeRoom s).isSome then s.dma.wait.find? fun n => !opWaits s n else none

/-- The slot, or the line, at byte `b` of address `a` cannot be read by channel `c` yet: its request waits for a DDR5 channel (R356, R358,
R519, R521). -/
def sourceWaits (c : Nat) (a : BitVec 64) (b n : Nat) (ecc : LineEcc) (s : State) : Bool :=
  decide (aSpace a = 1) && decide (b + n ≤ 128 * s.capLines) && dmaReadWaits c (b / 128) ecc s

/-- DESC_FETCH (R356, R358, R366, R369, R370, R375): a ring that waited for room comes on chip first. A slot in DDR5 is asked for, and
read when DESC_FETCH comes again after that (log entry 90). -/
def execDescFetch (ch : Nat) (host : HostAns) (ecc : LineEcc) (err : BeatErr) (s : State) : Out :=
  if !chanFree s ch then .next s
  else
    match ringWaiting s with
    | some n => .next (ringOp (.arrive n) (some err) s)
    | none =>
      match nextRing s ch with
      | none => .next s
      | some n =>
        let c := ctxPeek s n
        if !consumable c then .next (s.updLive n fun r => { r with state := 1 })
        else
          let slot := aAt (cBase c) (aByte (cBase c) + 64 * cHead c)
          if sourceWaits ch slot (aByte slot) 64 ecc s then .next (dmaAsk ch (aByte slot / 128) ecc s)
          else
            let (got, s1) := readSlot ch slot host ecc err s
            match got with
            | none => .next s1
            | some d =>
              let s2 := (s1.updDch ch fun q => { q with lastRing := some n }).updCtx n id
              if !bit d 0 then
                .next ({ s2 with dma := { s2.dma with ownMissCnt := satAdd32 s2.dma.ownMissCnt 1 } }.updLive n
                  fun r => { r with state := 1 })
              else if xHseq d ≠ cExp c then .next (seqGap ch n d s2)
              else .next (consume ch n slot d s2)

/-! ### The byte funnel (R380) -/

/-- Bytes `b` to `b + n − 1` of the space of `a` exist and may be reached (R361, R376, R381). -/
def unitInSpace (s : State) (a : BitVec 64) (b n : Nat) : Bool :=
  match aSpace a with
  | 0 => decide (b + n ≤ 2 ^ 60)
  | 1 => decide (b + n ≤ 128 * s.capLines)
  | 2 => decide (b + n ≤ 2 ^ 22) && !s.fencedTile (fld a 24 4)
  | 3 => decide (b + n ≤ 2 ^ 21)
  | _ => false

/-- The narrow reads of a head or a tail, one aligned 8 B unit each: the bytes, and whether a word was in error. -/
def dmaNarrowRead (t : Nat) : List (Nat × List (BitVec 8)) → State → (List (BitVec 8) × Bool) × State
  | [], s => (([], false), s)
  | (a, bs) :: r, s =>
    let x := (s.tile t).ts.read a bs.length
    let ((l, bad), s1) := dmaNarrowRead t r (s.tsPerr t (a / 128) x.bad 7)
    ((unpackBytes bs.length x.data ++ l, !x.bad.isEmpty || bad), s1)

/-- Read one unit of a tile store: the cause of a fault (0 none) and the bytes. -/
def dmaTileRead (t b n : Nat) (s : State) : (Nat × List (BitVec 8)) × State :=
  if s.gatedTile t then ((0, List.replicate n 0), s.countGated)
  else if !(s.tile t).ts.live (b / 128) then ((7, []), s)
  else if n = 128 then
    let x := (s.tile t).ts.read b 128
    ((if x.bad.isEmpty then 0 else 5, unpackBytes 128 x.data), s.tsPerr t (b / 128) x.bad 7)
  else
    let ((l, bad), s1) := dmaNarrowRead t (units8 (n + 1) b (List.replicate n 0)) s
    ((if bad then 5 else 0, l), s1)

/-- Read one unit from the source: the cause of a fault (0 none) and the bytes. A tile's course found in error on the mesh is discarded
and ends the element as a parity error of the store does (R527; log entry 108). -/
def readUnit (c : Nat) (a : BitVec 64) (b n : Nat) (host : HostAns) (ecc : LineEcc) (err : BeatErr) (ce : Nat) (ue : Bool) (met : UnitMet)
    (s : State) : (Nat × List (BitVec 8)) × State :=
  if !unitInSpace s a b n then ((4, []), s)
  else
    match aSpace a with
    | 0 =>
      if !s.hostReach then ((8, []), s)
      else
        match host with
        | .data l => ((0, padTo n l), s.linkUse)
        | .poisoned => ((6, []), s.linkUse)
        | .error => ((8, []), s.linkUse)
    | 1 =>
      let ((x, poison), s1) := dmaReadLine c (b / 128) ecc err s
      ((if poison then 6 else 0, lineCut x b n), s1)
    | 2 =>
      let t := fld a 24 4
      let s1 := countTransit (min 2 met.jitter) met.link (lostCycles t met.lost s)
      if met.bad && !s.gatedTile t then ((5, []), countMorPerr s1) else dmaTileRead t b n s1
    | _ =>
      if s.gated .hod then ((0, List.replicate n 0), s.countGated)
      else ((0, lineCut (sget (fun _ => 0) s.hod.mem (b / 128)) 0 n), hodEcc 1 ce ue s)

/-- The narrow writes of a head or a tail; a read half in error leaves its unit unwritten (R44, R60). Answers whether one
was in error, and the bytes written. -/
def dmaNarrowWrite (t : Nat) : List (Nat × List (BitVec 8)) → State → (Bool × Nat) × State
  | [], s => ((false, 0), s)
  | (a, bs) :: r, s =>
    let ts := (s.tile t).ts
    let (ts1, err) := ts.writeNarrow a bs 7 true
    let s1 := if err then s.tsPerr t (a / 128) (ts.badWords (partWords a bs.length)) 7 else s.updTs t fun _ => ts1
    let ((bad, n), s2) := dmaNarrowWrite t r s1
    ((err || bad, (if err then 0 else bs.length) + n), s2)

/-- Write one unit of a tile store: the cause of a fault (0 none) and the bytes written. -/
def dmaTileWrite (t b : Nat) (bs : List (BitVec 8)) (s : State) : (Nat × Nat) × State :=
  if s.gatedTile t then ((0, bs.length), s.countGated)
  else if !(s.tile t).ts.live (b / 128) then ((7, 0), s)
  else if bs.length = 128 then
    ((0, 128), s.updTs t fun ts => ts.writeCourse (b / 128) (BitVec.ofNat 1024 (packBytes bs)) true)
  else
    let ((bad, n), s1) := dmaNarrowWrite t (units8 (bs.length + 1) b bs) s
    ((if bad then 5 else 0, n), s1)

/-- Write one course of hod memory (R303). -/
def dmaHodWrite (course : Nat) (bs : List (BitVec 8)) (s : State) : State :=
  if s.gated .hod then s.countGated
  else { s with hod := { s.hod with mem := sset (fun _ => 0) s.hod.mem course (BitVec.ofNat 1024 (packBytes bs)) } }

/-- Write one unit of channel `ch` to the destination: the cause of a fault (0 none) and the bytes written. -/
def writeUnit (ch : Nat) (a : BitVec 64) (b : Nat) (bs : List (BitVec 8)) (s : State) : (Nat × Nat) × State :=
  if !unitInSpace s a b bs.length then ((4, 0), s)
  else
    match aSpace a with
    | 0 => if s.hostReach then ((0, bs.length), s.toHost (.write (BitVec.ofNat 64 b) bs)) else ((8, 0), s)
    | 1 => ((0, bs.length), dmaDdrWrite b bs (some ch) s)
    | 2 => dmaTileWrite (fld a 24 4) b bs s
    | _ => ((0, bs.length), dmaHodWrite (b / 128) bs s)

/-- The course of FIFO `k` that is issued next (R377, R378). -/
def fifoAt (k : Nat) (s : State) : Nat :=
  let f := s.dma.fifoOf k
  (fld f.cfg 0 15 + f.put.toNat % fld f.cfg 16 16) % (if k < 128 then 32768 else 16384)

/-- FIFO `k` takes courses: it is configured, and its tile is not fenced (R376, R377). -/
def fifoOpen (k : Nat) (s : State) : Bool :=
  decide (k < 136) && decide (fld (s.dma.fifoOf k).cfg 16 16 ≠ 0) && !(decide (k < 128) && s.fencedTile (k / 8))

/-- PUT counts one more course (R377). -/
def fifoCount (k : Nat) (s : State) : State := s.updFifo k fun f => { f with put := f.put + 1 }

/-- The channel is to stop before a course of FIFO `k` (R379): not for an unconfigured one. -/
def fifoHigh (k : Nat) (s : State) : Bool :=
  let f := s.dma.fifoOf k
  decide (k < 136) && decide (fld f.cfg 16 16 ≠ 0) && decide (f.level ≥ fld f.cfg 32 16)

/-! ### One unit (R375, R380, R382, R383) -/

/-- More of the present element is to be read. -/
def DmaWork.reading (w : DmaWork) : Bool :=
  !w.bad && !w.srcFault && decide (w.elem < xElems w.desc) && decide (w.read < xElen w.desc)

/-- Bytes in the funnel that may be written: of a GATHER, those of elements wholly read. -/
def DmaWork.avail (w : DmaWork) : Nat := w.funnel.length - (if xType w.desc = 1 && w.reading then w.read else 0)

/-- The size of the next write, 0 when none may be made yet. -/
def DmaWork.nextWrite (w : DmaWork) : Nat :=
  match xFifo w.desc with
  | some _ =>
    if w.avail ≥ 128 then 128
    else if w.reading then 0
    else w.avail
  | none =>
    let n := min (128 - (xTo w.desc w.elem + w.put) % 128) (if w.srcFault then w.avail else xElen w.desc - w.put)
    if n ≤ w.avail then n else 0

/-- The next element begins when the present one is through and none has failed. -/
def DmaWork.step (w : DmaWork) : DmaWork :=
  let through := match xFifo w.desc with
    | some _ => decide (w.read = xElen w.desc)
    | none => decide (w.put = xElen w.desc)
  if through && w.cause = 0 && decide (w.elem + 1 < xElems w.desc) then
    match xFifo w.desc with
    | some _ => { w with elem := w.elem + 1, read := 0 }
    | none => { w with elem := w.elem + 1, read := 0, put := 0 }
  else w

/-- Every byte that is to be moved has been. -/
def DmaWork.done (w : DmaWork) : Bool := !w.reading && w.funnel.isEmpty

/-- A fault of the unit at position `pos` of the descriptor's bytes is earlier than the one recorded, if there is one: the faulting unit is
the first in which an error is found (R382). -/
def DmaWork.faultsFirst (w : DmaWork) (pos : Nat) : Bool := decide (w.cause = 0) || decide (pos < w.faultAt)

/-- It is recorded. -/
def DmaWork.fault (w : DmaWork) (cause pos : Nat) (addr : BitVec 64) : DmaWork :=
  if w.faultsFirst pos then { w with cause := cause, faultAddr := addr, faultAt := pos } else w

/-- A source fault in the unit at byte `b`: reading ends, and the element's bytes of a GATHER are dropped; bytes that a COPY
has read are still written. -/
def DmaWork.srcFail (w : DmaWork) (cause b : Nat) : DmaWork :=
  let w1 := w.fault cause (w.elem * xElen w.desc + w.read) (aAt (xSrc w.desc) b)
  { w1 with
    srcFault := true
    funnel := if xType w.desc = 1 then w.funnel.take (w.funnel.length - w.read) else w.funnel }

/-- Take in the bytes of one unit read. -/
def DmaWork.take (w : DmaWork) (bs : List (BitVec 8)) : DmaWork :=
  ({ w with funnel := w.funnel ++ bs, read := w.read + bs.length }).step

/-- `n` bytes of the funnel leave the engine. -/
def DmaWork.leave (w : DmaWork) (n : Nat) : DmaWork := { w with funnel := w.funnel.drop n, put := w.put + n }

/-- A destination fault of a FIFO course that held `n` bytes from position `pos` of a GATHER's bytes: the element that holds its
first byte fails, and no later one is written. -/
def DmaWork.fifoFail (w : DmaWork) (pos n : Nat) : DmaWork :=
  let j := pos / xElen w.desc
  if !w.faultsFirst pos || xType w.desc = 0 then w
  else { w with elem := j, srcFault := true, funnel := w.funnel.take ((j + 1) * xElen w.desc - (pos + n)) }

/-- `n` bytes that left from position `pos`, for byte `b` of the destination, have been presented there: `got` of them were
written; `cause` is that of a fault, or 0. -/
def DmaWork.landed (w : DmaWork) (cause pos b n got : Nat) : DmaWork :=
  let at_ := if (xFifo w.desc).isSome then pos else w.elem * xElen w.desc + pos
  let w1 := if cause ≠ 0 && (xFifo w.desc).isSome then w.fifoFail pos n else w
  let w2 := if cause ≠ 0 then w1.fault cause at_ (aAt (xDst w.desc) b) else w1
  { w2 with written := w2.written + got }

/-- A unit that leaves and is performed, or turned away, at once. -/
def DmaWork.gave (w : DmaWork) (cause b n got : Nat) : DmaWork := (((w.leave n).landed cause w.put b n got)).step

/-- Keep the channel's work after a unit, unless a device fault has ended it. -/
def keepWork (c : Nat) (w : DmaWork) (s : State) : State :=
  if s.flt.devFault then s else s.updDch c fun q => { q with work := some w }

/-- A unit leaves for a tile's store, by the west port of the tile's mesh row: it is on its way until MORTAR_COURSE_ARRIVE (R65, R376,
R389). -/
def sendUnit (ch tile byte n : Nat) (w : DmaWork) (data : List (BitVec 8)) (s : State) : State :=
  let (late, s1) := s.crossing
  let m : DmaPut :=
    { ch := ch, live := true, tile := tile, byte := byte, data := data, n := n, pos := w.put
      mesh := .enter portWest (4 * (tile / 4)) tile s.cycle late }
  keepWork ch (w.leave n) (inflightAdd tile (byte / 128) { s1 with dma := { s1.dma with flight := s1.dma.flight ++ [m] } })

/-- The channel writes its next unit, of `n` bytes, to a FIFO. -/
def fifoUnit (ch k n : Nat) (w : DmaWork) (s : State) : State :=
  let bs := w.funnel.take n
  if fifoHigh k s then s.updDch ch fun q => { q with paced := true, pacedOn := some k }
  else if !fifoOpen k s then keepWork ch (w.gave 4 0 n 0) s
  else
    let course := fifoAt k s
    let s1 := fifoCount k s
    if k < 128 then sendUnit ch (k / 8) (128 * course) n w (padTo 128 bs) s1
    else keepWork ch (w.gave 0 0 n n) (dmaHodWrite course (padTo 128 bs) s1)

/-- The channel writes its next unit, of `n` bytes. -/
def putUnit (ch n : Nat) (w : DmaWork) (s : State) : State :=
  match xFifo w.desc with
  | some k => fifoUnit ch k n w s
  | none =>
    let bs := w.funnel.take n
    let b := xTo w.desc w.elem + w.put
    if aSpace (xDst w.desc) = 2 && unitInSpace s (xDst w.desc) b n then sendUnit ch (fld (xDst w.desc) 24 4) b n w bs s
    else
      let ((cause, got), s1) := writeUnit ch (xDst w.desc) b bs s
      keepWork ch (w.gave cause b n got) s1

/-- A unit may not leave yet: the courses of a GATHER into a FIFO go one at a time, since a fault ends at an element (R382, R383). -/
def putWaits (ch : Nat) (w : DmaWork) (s : State) : Bool :=
  decide (xType w.desc = 1) && (xFifo w.desc).isSome && !s.dma.landed ch

/-- DMA_UNIT_TRANSFER (R358, R362, R375 to R380, R382, R383): the channel writes the next unit when it holds one, and else reads
one, what it meets there being given. -/
def execDmaUnitTransfer (ch : Nat) (host : HostAns) (ecc : LineEcc) (err : BeatErr) (hodCe : Nat) (hodUe : Bool) (met : UnitMet)
    (s : State) : Out :=
  let x := s.dma.chan ch
  if ch ≥ 64 || s.gated .dma || s.flt.devFault || x.paced || !x.recs.isEmpty then .next s
  else
    match x.work with
    | none => .next s
    | some w =>
      let n := w.nextWrite
      if n > 0 then .next (if putWaits ch w s then s else putUnit ch n w s)
      else if !w.reading then .next s
      else
        let b := xFrom w.desc w.elem + w.read
        let m := min (128 - b % 128) (xElen w.desc - w.read)
        if sourceWaits ch (xSrc w.desc) b m ecc s then .next (dmaAsk ch (b / 128) ecc s)
        else
          let ((cause, bs), s1) := readUnit ch (xSrc w.desc) b m host ecc err hodCe hodUe met s
          .next (keepWork ch (if cause = 0 then w.take bs else w.srcFail cause b) s1)

/-- Course `i` of those on their way from the engine, when it has passed its last router and crossed in, with a cycle of jitter or
without (R285, R376). -/
def putHere (s : State) (i jitter : Nat) : Option DmaPut :=
  match s.dma.flight[i]? with
  | some m => if meshArrives s m.tile m.mesh (min 1 jitter) then some m else none
  | none => none

/-- A write of channel `m.ch` has arrived with outcome `cause`, `got` bytes of the descriptor written; an element whose last write
this was is through. -/
def putDone (m : DmaPut) (cause got : Nat) (s : State) : State :=
  match (s.dma.chan m.ch).work with
  | some w =>
    if !m.live then s
    else
      let b := if (xFifo w.desc).isSome then 0 else m.byte
      let w1 := w.landed cause m.pos b m.n got
      keepWork m.ch (if s.dma.landed m.ch then w1.step else w1) s
  | none => s

/-- MORTAR_COURSE_ARRIVE of a DMA write (R65, R286, R287, R291, R376, R382, R527): it is written, dropped at a tile fenced meanwhile, or
discarded at a gated one, after `lost` cycles of bank arbitration.  A course found in error is discarded, and its element ends as with a
parity error (log entry 108). -/
def putArrive (i jitter lost : Nat) (bad : Bool) (s : State) : State :=
  match putHere s i jitter with
  | none => s
  | some m =>
    let s1 := countTransit (m.mesh.late + min 1 jitter) m.mesh.waited
      (inflightSub m.tile (m.byte / 128) { s with dma := { s.dma with flight := s.dma.flight.eraseIdx i } })
    if s.fencedTile m.tile then
      putDone m 4 0 { s1 with mor := { s1.mor with dropCnt := satAdd32 s1.mor.dropCnt 1 } }
    else if bad && !s.gatedTile m.tile then putDone m 5 0 (countMorPerr s1)
    else
      let ((cause, got), s2) := dmaTileWrite m.tile m.byte m.data (lostCycles m.tile lost s1)
      putDone m cause (min got m.n) s2

/-- COMPLETION_TIMEOUT (R381, R392): a read request to the host gets no completion; the element ends with HOST_ERR. -/
def execCompletionTimeout (ch : Nat) (s : State) : Out :=
  match (s.dma.chan ch).work with
  | some w =>
    if w.reading && w.nextWrite = 0 && aSpace (xSrc w.desc) = 0 && s.hostReach && !s.gated .dma && !(s.dma.chan ch).paced then
      .next (keepWork ch (w.srcFail 8 (xFrom w.desc w.elem + w.read)) (s.toHost (.aer 3)))
    else .next s
  | none => .next s

/-- DMA_PACE_RESUME (R379). -/
def execDmaPaceResume (ch : Nat) (s : State) : Out :=
  match (s.dma.chan ch).pacedOn with
  | some k =>
    if (s.dma.fifoOf k).level ≤ fld (s.dma.fifoOf k).cfg 48 16 && !s.gated .dma then
      .next (s.updDch ch fun q => { q with paced := false, pacedOn := none })
    else .next s
  | none => .next s

/-! ### Completion (R371, R384) -/

/-- STATUS of the record (R381, R383). -/
def DmaWork.status (w : DmaWork) : Nat :=
  if w.bad then 2 else if w.cause = 0 then 0 else if xType w.desc = 1 then 3 else w.cause

/-- The descriptor is through: its ring goes on or stops, and its event line is pulsed. -/
def finishDesc (c : Nat) (w : DmaWork) (s : State) : State :=
  let x := ctxPeek s w.ring
  let s1 := s.updLive w.ring fun r =>
    if w.status ≠ 0 && cStopErr x then { r with state := 4, cause := 1 }
    else if s.dma.stopAfter.contains w.ring then { r with state := 4, cause := 0 }
    else { r with state := if consumable x then 2 else 1 }
  let s2 := { s1 with dma := { s1.dma with stopAfter := s1.dma.stopAfter.filter (· ≠ w.ring) } }
  let s2 := if s.dma.stopAfter.contains w.ring then copyRing w.ring s2 else s2
  let s3 := s2.updDch c fun q => { q with work := none }
  if bit w.desc 5 then s3.pulse (BitVec.ofNat 64 (2 ^ fld w.desc 6 6)) else s3

/-- The record of a descriptor; the last field of DESC_BAD is the free value `v`. -/
def workRecord (w : DmaWork) (cq : Nat) (v : BitVec 64) : CqRecord :=
  { cq := cq, status := BitVec.ofNat 8 w.status
    elem := if w.status = 3 then BitVec.ofNat 4 w.elem else 0
    cause := if w.status = 3 then BitVec.ofNat 4 w.cause else 0
    ring := w.ring, hseq := xHseq w.desc, user := w.desc.extractLsb' 224 32
    last := if w.status = 0 then BitVec.ofNat 64 w.written else if w.bad then v else w.faultAddr
    irq := bit w.desc 3 }

/-- The control word goes back with OWN = 0. -/
def ownBack (w : DmaWork) (s : State) : State :=
  let bs := unpackBytes 4 (fld w.desc 1 31 * 2)
  if aSpace w.slot = 0 then
    if s.hostReach then s.toHost (.write (BitVec.ofNat 64 (aByte w.slot)) bs) else s
  else dmaDdrWrite (aByte w.slot) bs none s

/-- DESC_COMPLETE (R371, R382 to R384): the data is written; OWN goes back, the counts move, and the record comes due, or,
with none due, the descriptor is through. -/
def execDescComplete (ch : Nat) (s : State) : Out :=
  let x := s.dma.chan ch
  match x.work with
  | some w =>
    if !w.done || !s.dma.quiet ch || !x.recs.isEmpty || s.gated .dma then .next s
    else
      let s1 := (ownBack w s).updCtx w.ring fun c => setFld c 192 64 (fld c 192 64 + w.written)
      if bit w.desc 4 || w.status ≠ 0 then
        let (v, s2) := if w.bad then s1.draw 64 else (0, s1)
        .next (s2.updDch ch fun q => { q with recs := [workRecord w (cCq (ctxPeek s1 w.ring)) v] })
      else .next (finishDesc ch w s1)
  | none => .next s

/-! ### Records (R385 to R388, R478) -/

/-- The 32 B of a record. -/
def recordBits (r : CqRecord) (phase : Bool) (dseq : BitVec 64) : BitVec 256 :=
  BitVec.ofNat 256 (b2n phase + 2 ^ 8 * r.status.toNat + 2 ^ 16 * r.elem.toNat + 2 ^ 20 * r.cause.toNat + 2 ^ 32 * (r.ring % 2 ^ 15)
    + 2 ^ 64 * r.hseq.toNat + 2 ^ 96 * r.user.toNat + 2 ^ 128 * dseq.toNat + 2 ^ 192 * r.last.toNat)

/-- Requests to a queue's memory can be made. -/
def cqReach (s : State) (q : DmaCq) : Bool := aSpace q.base ≠ 0 || s.hostReach

/-- TAIL moves past a slot; PHASE inverts where it wraps. -/
def DmaCq.advance (q : DmaCq) : DmaCq :=
  let t := (q.tail.toNat + 1) % q.size
  { q with tail := BitVec.ofNat 16 t, phase := if t = 0 then !q.phase else q.phase }

/-- One 32 B write of a record into its slot. -/
def putRecord (q : DmaCq) (slot : Nat) (bits : BitVec 256) (s : State) : State :=
  let b := aByte q.base + 32 * slot
  if aSpace q.base = 0 then s.toHost (.write (BitVec.ofNat 64 b) (unpackBytes 32 bits.toNat))
  else if aSpace q.base = 1 then dmaDdrWrite b (unpackBytes 32 bits.toNat) none s
  else s

/-- A record takes the queue's next slot and the next DSEQ. -/
def reserve (r : CqRecord) (s : State) : HeldRecord × State :=
  let q := s.dma.cqOf r.cq
  let n := s.dma.dseq + 1
  let s1 := s.updCq r.cq DmaCq.advance
  (⟨r.cq, q.tail, recordBits r q.phase n⟩, { s1 with dma := { s1.dma with dseq := n } })

/-- DSEQ of a record. -/
def HeldRecord.dseq (h : HeldRecord) : BitVec 64 := h.bits.extractLsb' 128 64

/-- The record is written and is the newest (R405), its interrupt follows, and the descriptor is through. -/
def landRecord (c : Nat) (r : CqRecord) (h : HeldRecord) (s : State) : State :=
  let q := s.dma.cqOf h.cq
  let s1 := putRecord q h.slot.toNat h.bits s
  let s2 := { s1 with dma := { s1.dma with dseqLast := if s1.dma.dseqLast < h.dseq then h.dseq else s1.dma.dseqLast } }
  let s3 := if (r.irq || r.status ≠ 0) && bit q.cfg 11 then s2.devSource (fld q.cfg 5 6) else s2
  let s4 := s3.updDch c fun x => { x with recs := [], placed := false }
  match (s.dma.chan c).work with
  | some w => finishDesc c w s4
  | none => s4

/-- The record's STATE frame is queued, with the place the record will take. -/
def sendState (c : Nat) (r : CqRecord) (s : State) : State :=
  let (h, s1) := reserve r s
  let q := s1.dma.cqOf r.cq
  let s2 := s1.bondSend bState 0 (BitVec.ofNat 64 r.cq) (statePayload h.bits h.slot q.tail q.phase (ctxPeek s1 r.ring))
  let w : StateWait := ⟨c, s.bond.txSeq, false, h⟩
  { s2 with bond := { s2.bond with stateWait := s2.bond.stateWait ++ [w] } }.updDch c fun x => { x with placed := true }

/-- The cycles for which a channel's record was held are counted. -/
def countHeld (n : Nat) (s : State) : State := { s with dma := { s.dma with cqFullCnt := satAdd32 s.dma.cqFullCnt n } }

/-- A demoted device writes no further record: its descriptor is through without one. -/
def dropRecord (c : Nat) (s : State) : State :=
  let s1 := { s with bond := { s.bond with stateWait := s.bond.stateWait.filter fun x => x.ch ≠ c } }.updDch c
    fun x => { x with recs := [], placed := false }
  match (s.dma.chan c).work with
  | some w => finishDesc c w s1
  | none => s1

/-- The standby's records that are still to be written again are, once their queues can be reached, in DSEQ order (R480). -/
def rewriteHeld (s : State) : State :=
  let s1 := s.bond.rewrite.foldl (fun (z : State) h =>
    if cqReach z (z.dma.cqOf h.cq) then putRecord (z.dma.cqOf h.cq) h.slot.toNat h.bits z else z) s
  { s1 with bond := { s1.bond with rewrite := s.bond.rewrite.filter fun h => !cqReach s (s.dma.cqOf h.cq) } }

/-- The TAKEOVER record of queue `q` (R480). -/
def takeoverRecord (q : Nat) (s : State) : State :=
  let r : CqRecord := { cq := q, status := 9, elem := 0, cause := 0, ring := 0, hseq := 0, user := 0, last := s.bond.tkoLast, irq := false }
  let (h, s1) := reserve r { s with bond := { s.bond with tkoWait := s.bond.tkoWait.filter (· ≠ q) } }
  landRecord 64 r h s1

/-- The TAKEOVER records still due are written, in ascending order of their queues; a full queue's waits for room (R387, R480). -/
def takeoverRecords (s : State) : State :=
  s.bond.tkoWait.foldl (fun (z : State) q =>
    let x := z.dma.cqOf q
    if x.en && x.room && cqReach z x then takeoverRecord q z else z) s

/-- A record whose STATE frame has been sent may be written now: its queue takes it, and no earlier one's does (R387, R405, R408). -/
def recordTurn (s : State) (w : StateWait) : Bool :=
  let takes (x : StateWait) : Bool := (s.dma.cqOf x.item.cq).en && cqReach s (s.dma.cqOf x.item.cq)
  s.bond.stateWait.find? takes = some w

/-- CQ_RECORD_WRITE (R386 to R388, R405, R478): the record is written if its queue has room; a mirrored one first sends its
STATE frame and waits for the acknowledgement; a device that has been demoted discards it (R482).  `held` cycles were spent on
a full or disabled queue.  Where no record of a channel is due, what a takeover still has to write is written: the standby's records,
then the TAKEOVER records that waited for room. -/
def execCqRecordWrite (ch held : Nat) (s : State) : Out :=
  match (s.dma.chan ch).recs with
  | [] => .next (if s.gated .dma || s.flt.devFault then s else takeoverRecords (rewriteHeld s))
  | r :: _ =>
    let q := s.dma.cqOf r.cq
    if s.gated .dma || s.flt.devFault then .next s
    else if standby s then .next (dropRecord ch s)
    else
      match s.bond.stateWait.find? fun w => w.ch = ch with
      | some w =>
        if recordTurn s w && (w.acked || !cqMirrored s) then
          .next (landRecord ch r w.item
            (countHeld held { s with bond := { s.bond with stateWait := s.bond.stateWait.filter fun x => x.ch ≠ ch } }))
        else .next (if q.en then s else countHeld held s)
      | none =>
        if !q.en || !q.room then .next (countHeld held s)
        else if !cqReach s q || s.bond.tkoWait.contains r.cq then .next s
        else if cqMirrored s then .next (sendState ch r (countHeld held s))
        else
          let (h, s1) := reserve r (countHeld held s)
          .next (landRecord ch r h s1)

end Sys2Proof.Machine
end

