-- ==== Sys2Proof/Machine/Drain.lean ====
section
/-! DEFINITION. The drain unit: its command's checks, its stages and its writes (R244 to R251, R273, R279, R280). -/

namespace Sys2Proof.Machine

/-! ### Fields (R244, R307) -/

/-- OFMT: 0 FP32, 1 BF16, 2 INT16, 3 codes. -/
def dnFmt (e : BitVec 512) : Nat := fld e 8 4
/-- OCODE. -/
def dnCode (e : BitVec 512) : Nat := fld e 12 4
/-- DEST: the hod port. -/
def dnHod (e : BitVec 512) : Bool := bit e 16
/-- ZP_EN. -/
def dnZp (e : BitVec 512) : Bool := bit e 17
/-- BIAS_EN. -/
def dnBias (e : BitVec 512) : Bool := bit e 18
/-- ACT_EN. -/
def dnAct (e : BitVec 512) : Bool := bit e 19
/-- POOL. -/
def dnPool (e : BitVec 512) : Nat := fld e 20 2
/-- OSFMT. -/
def dnSFmt (e : BitVec 512) : Nat := fld e 22 2
/-- OSH. -/
def dnSh (e : BitVec 512) : Nat := fld e 24 5
/-- OUT_START. -/
def dnStart (e : BitVec 512) : Nat := fld e 32 15
/-- OUT_RSTRIDE. -/
def dnStride (e : BitVec 512) : Nat := fld e 48 16
/-- PARAM_START. -/
def dnParam (e : BitVec 512) : Nat := fld e 64 15
/-- SUMA_START. -/
def dnSuma (e : BitVec 512) : Nat := fld e 80 15
/-- TGT. -/
def dnTgt (e : BitVec 512) : Nat := fld e 256 6
/-- OFFSET. -/
def dnOff (e : BitVec 512) : Nat := fld e 272 15

/-- The packed row size (R247). -/
def packedSize (e : BitVec 512) : Nat :=
  match dnFmt e with
  | 0 => 256
  | 1 => 128
  | 2 => 128
  | _ => if ((Code.ofField (dnCode e)).map Code.bits).getD 8 = 4 then 32 else 64

/-- The parameter block is used (R244, R248). -/
def needsParams (e : BitVec 512) : Bool := dnBias e || dnAct e || dnFmt e = 3

/-- M of the command that the drain follows: its output pixels for a small-channel command. -/
def pairM (p : BitVec 512) : Nat :=
  if eType p = 4 then ((Geom.ofEntry p).oh * (Geom.ofEntry p).ow).toNat else aM p

/-! ### Checks (R239, R247, R248, R251, R266, R273, R279, R307) -/

/-- The fields of R244. -/
def drnFields (e : BitVec 512) : List (Nat × Nat) :=
  [(0, 29), (32, 15), (48, 16), (64, 15), (80, 15), (320, 192)]
    ++ (if dnPool e ≠ 0 then [(128, 21), (160, 32)] else []) ++ (if dnHod e then [(256, 6), (272, 15)] else [])

/-- The conditions of ZP_EN = 1 (R251, R266). -/
def zpOk (p : BitVec 512) (win : Option (BitVec 512)) : Bool :=
  eType p = 1 && (aMode p = 0 || aMode p = 2) && !aStat p && !aTr p && (aSKind p = 1 || aXKind p = 2) && !isDiag win

/-- With a WINDOW the window unit forms Σa: SUMA_START is 0 and range 1 is absent (R266). -/
def windowSumaOk (e : BitVec 512) (win : Option (BitVec 512)) : Bool := win.isNone || (dnSuma e = 0 && !hasRange e 0x30)

/-- The pooling fields are in their ranges and meet R279. -/
def poolOk (e p : BitVec 512) (win : Option (BitVec 512)) : Bool :=
  let q := Pool.ofEntry e
  let in3 (n : Nat) : Bool := decide (1 ≤ n) && decide (n ≤ 3)
  in3 q.kh && in3 q.kw && in3 q.sh && in3 q.sw && decide (q.ph < q.kh) && decide (q.pw < q.kw)
    && decide (q.h * q.w = pairM p) && decide (q.w * (q.kh - 1) ≤ 128) && !dnHod e && !isDiag win

/-- OP of the hod target as it stands (R294, R307, R313). -/
def State.tgt (s : State) (n : Nat) : HodTarget := s.hod.tgts.getD n .reset

/-- OP of a target's declaration in force. -/
def HodTarget.op (g : HodTarget) : Nat := fld g.curA 32 3

/-- The target's OP takes the drain's rows (R307). -/
def hodOpOk (fmt op : Nat) : Bool := if fmt = 0 then op = 0 || op = 2 else op = 1 || op = 3

/-- The causes of R239 for a drain command; `hodEng`: ENGINE_MASK bit 4. -/
def drnCause (c : EngCmd) (hodEng : Bool) : Option Nat :=
  let e := c.raw
  match c.pair with
  | none => some 6
  | some p =>
    if strayBits e (drnFields e) || badRange e 0x28 || badRange e 0x30 || badRange e 0x38 || dnPool e = 3 then some 7
    else if eType p = 2 || (eType p = 1 && aOp p ≠ 0) then some 6
    else if dnFmt e > 3 || (dnFmt e = 3 && dnCode e > 7) then some 2
    else if dnFmt e = 3 && dnSFmt e = 3 then some 3
    else if (dnZp e && !zpOk p c.pairWin) || !windowSumaOk e c.pairWin then some 5
    else if dnPool e ≠ 0 && !poolOk e p c.pairWin then some 4
    else if isDiag c.pairWin && !(dnFmt e = 2 || (dnFmt e = 3 && ((Code.ofField (dnCode e)).map Code.bits) == some 8)) then some 2
    else if isDiag c.pairWin && (dnHod e || dnStride e ≠ 128) then some 8
    else if !isDiag c.pairWin && dnStride e ≠ packedSize e && (dnStride e = 0 || dnStride e % 128 ≠ 0) then some 8
    else if dnHod e && (!hodEng || !(dnFmt e = 0 || (dnFmt e = 2 && dnSh e = 0))) then some 8
    else none

/-- DRAIN_CMD (R239, R244, R307): the command is checked and goes to issue. -/
def execDrainCmd (tile : Nat) (s : State) : Out :=
  match toCheck s tile 3 with
  | none => .next s
  | some c =>
    if !s.tileLive tile then .next s
    else
      let eng := match s.run tile c.urgent with | some r => dEng r.desc 4 | none => false
      match drnCause c eng with
      | some k => .next (malformed tile c.urgent (arrErr tile k 1 c.index s))
      | none =>
        if dnHod c.raw && !hodOpOk (dnFmt c.raw) (s.tgt (dnTgt c.raw)).op then
          .next (malformed tile c.urgent (hodErr tile 5 c.index (arrErr tile 8 1 c.index s)))
        else .next (passCheck tile 3 s)

/-! ### The stages (R245 to R247) -/

/-- The 32-bit parameter at byte `b` of the block (R248). -/
def paramWord (ps : List (BitVec 1024)) (b : Nat) : Nat := fld (ps.getD (b / 128) 0) (8 * (b % 128)) 32

/-- The floor of a value held to 0 to 63; a NaN gives 0 (R246). -/
def segmentOf (v : FV) : Nat :=
  match v with
  | .nan => 0
  | .zero _ => 0
  | .inf neg => if neg then 0 else 63
  | .fin n d => (min 63 (max 0 (n / (d : Int)))).toNat

/-- The activation (R246). -/
def activate (ps : List (BitVec 1024)) (y : Nat) : Nat :=
  let d := f32Out ((f32In y).sub (f32In (paramWord ps 0x300)))
  let i := segmentOf (f32In (f32Out ((f32In d).mul (f32In (paramWord ps 0x304)))))
  f32Out (((f32In (paramWord ps (0x100 + 8 * i))).mul (f32In y)).add (f32In (paramWord ps (0x104 + 8 * i))))

/-- The integer T of column `c` (R217, R218): `suma` is Σa of the row. -/
def zpTerm (p : BitVec 512) (a : ArrayEng) (urgent : Bool) (suma : Int) (c : Nat) : Int :=
  let word := (sget (fun _ => (0 : BitVec 16)) a.scales (128 * c)).toNat
  let zp (fmt code w : Nat) : Int := match ScaleFmt.ofField fmt, Code.ofField code with
    | some f, some k => scaleZp f k w
    | _, _ => 0
  let zw := if aSKind p = 1 then zp (aSFmt p) (aSCode p) word else 0
  let za := if aXKind p = 2 then zp (aXFmt p) (aXCode p) (aXScale p) else 0
  let sw := sgn 32 (((if urgent then a.sumwU else a.sumwN).getD c 0).toNat)
  zw * suma + za * sw - (aK p : Int) * za * zw

/-- The zero-point correction C of column `c` (R217, R218). -/
def zpCorrection (p : BitVec 512) (a : ArrayEng) (urgent : Bool) (suma : Int) (c : Nat) : Nat :=
  let word := (sget (fun _ => (0 : BitVec 16)) a.scales (128 * c)).toNat
  let sa := if aXKind p = 2 then scaleVal (aXFmt p) (aXScale p) else FV.ofInt 1
  f32Out (((FV.ofInt (zpTerm p a urgent suma c)).mul (scaleVal (aSFmt p) word)).mul sa)

/-- One converted column: its bits, and whether it saturated (R247). -/
def convert (e : BitVec 512) (ps : List (BitVec 1024)) (y : Nat) : Nat × Bool :=
  match dnFmt e with
  | 0 => (y, false)
  | 1 => (fmtBf16.encode true (f32In y), false)
  | 2 =>
    let v := (f32In y).mul (FV.ofDyadic 1 (dnSh e))
    let r := v.toIntSat 16
    let past := match v with
      | .inf _ => true
      | .fin n d => decide (fracRound n d 0 ≠ r)
      | _ => false
    (wrap 16 r, past)
  | _ =>
    match Code.ofField (dnCode e), ScaleFmt.ofField (dnSFmt e) with
    | some k, some f =>
      let w := paramWord ps 0x308 % 65536
      quantCode k (f.value w) (scaleZp f k w) none (f32In y)
    | _, _ => (0, false)

/-- Bits of one converted column. -/
def outBits (e : BitVec 512) : Nat :=
  match dnFmt e with
  | 0 => 32
  | 1 => 16
  | 2 => 16
  | _ => ((Code.ofField (dnCode e)).map Code.bits).getD 8

/-- Where row `i` of the drain's sequence lies: its row block, its octet under DIAG8, and its row m (R242, R273). -/
def drainPlace (p : BitVec 512) (win : Option (BitVec 512)) (i : Nat) : Nat × Nat × Nat :=
  if isDiag win then
    let b := i / 512
    let n := aRows p b
    (b, i % 512 / n, 64 * b + i % 512 % n)
  else (i / 64, 0, i)

/-- The accumulator or result bank of a place. -/
def placeBank (win : Option (BitVec 512)) (q : Nat × Nat × Nat) : Nat := if isDiag win then (8 * q.1 + q.2.1) % 2 else q.1 % 2

/-- Accumulator rows that the drain reads in all. -/
def drainRows (p : BitVec 512) (win : Option (BitVec 512)) : Nat := if isDiag win then 8 * aM p else pairM p

/-- The stages that act on one row before pooling: correction, bias and activation. -/
def rowStages (c : EngCmd) (o : Nat) (ps : List (BitVec 1024)) (corr : Option (List Nat)) (row : BitVec 2048) : List Nat :=
  let e := c.raw
  (List.range 64).map fun k =>
    let y0 := lane row 32 k
    let y1 := match corr with
      | some l => f32Out ((f32In y0).sub (f32In (l.getD k 0)))
      | none => y0
    let ch := if isDiag c.pairWin then 8 * o + k / 8 else k
    let y2 := if dnBias e then f32Out ((f32In y1).add (f32In (paramWord ps (4 * ch)))) else y1
    if dnAct e then activate ps y2 else y2

/-! ### Pooling (R279, R280) -/

/-- The in-image taps of pooled output `i`, in raster order, as input rows. -/
def poolTaps (q : Pool) (i : Nat) : List Nat :=
  let ow := q.ow.toNat
  let py := i / ow
  let px := i % ow
  (List.range (q.kh * q.kw)).filterMap fun t =>
    let y : Int := (py * q.sh + t / q.kw : Nat) - (q.ph : Int)
    let x : Int := (px * q.sw + t % q.kw : Nat) - (q.pw : Int)
    if 0 ≤ y && y < q.h && 0 ≤ x && x < q.w then some (y.toNat * q.w + x.toNat) else none

/-- One pooled value from its in-image taps. -/
def poolValue (mode : Nat) (q : Pool) (xs : List Nat) : Nat :=
  match xs with
  | [] => 0
  | x :: r =>
    if mode = 1 then
      if xs.any (fun y => f32In y == .nan) then f32Out .nan
      else f32Out (r.foldl (fun a y => a.maxV (f32In y)) (f32In x))
    else
      let sum := r.foldl (fun a y => f32Out ((f32In a).add (f32In y))) x
      f32Out ((f32In sum).div (FV.ofInt (if q.avgPad then q.kh * q.kw else xs.length : Nat)))

/-- Form the pooled outputs whose last in-image tap is row `m` or an earlier one: output number and columns. -/
def poolForm (mode : Nat) (q : Pool) (rows : List (Nat × BitVec 2048)) (m : Nat) : Nat → Nat → List (Nat × List Nat)
  | 0, _ => []
  | fuel + 1, i =>
    if decide (i < q.oh.toNat * q.ow.toNat) && (poolTaps q i).all (fun k => decide (k ≤ m)) then
      let ts := (poolTaps q i).map fun k => sget (fun _ => (0 : BitVec 2048)) rows k
      (i, (List.range 64).map fun c => poolValue mode q (ts.map fun r => lane r 32 c)) :: poolForm mode q rows m fuel (i + 1)
    else []

/-! ### Packing (R247, R273, R307) -/

/-- Add one packed row to the output: whole courses go out, a shared course waits for its last row. -/
def packRow (e : BitVec 512) (r : Nat) (last : Bool) (bits : Nat) (d : DrainEng) : DrainEng :=
  let n := packedSize e
  if dnHod e then
    let w (k : Nat) : DrainWrite := { course := dnOff e + 2 * r + k, byte := 0, size := 128, data := BitVec.ofNat 1024 (bits >>> (1024 * k)) }
    { d with out := d.out ++ [w 0, w 1] }
  else
    let a := dnStride e * r
    let course := (dnStart e + a / 128) % 32768
    if n ≥ 128 then
      let w (k : Nat) : DrainWrite := { course := (course + k) % 32768, byte := 0, size := 128, data := BitVec.ofNat 1024 (bits >>> (1024 * k)) }
      { d with out := d.out ++ (List.range (n / 128)).map w }
    else
      let old : BitVec 1024 := match d.part with | some w => w.data | none => 0
      let w : DrainWrite := { course := course, byte := 0, size := 128, data := old ||| BitVec.ofNat 1024 (bits <<< (8 * (a % 128))) }
      if dnStride e ≠ n || a % 128 + n = 128 || last then { d with out := d.out ++ [w], part := none }
      else { d with part := some w }

/-- The pieces of one row of a DIAG8 command: `l` are its 64 converted columns (R273). -/
def diagPieces (e : BitVec 512) (win : BitVec 512) (o m : Nat) (l : List Nat) : List DrainWrite :=
  let g := Geom.ofEntry win
  let ow := g.ow.toNat
  (List.range 8).flatMap fun j =>
    let ox := 8 * (m % g.runsPerRow) + j
    if ox ≥ ow then []
    else
      let course := (dnStart e + m / g.runsPerRow * ow + ox) % 32768
      let v := packLanes (outBits e) ((List.range 8).map fun b => l.getD (8 * b + j) 0)
      if dnFmt e = 2 then
        [{ course := course, byte := 16 * o, size := 8, data := BitVec.ofNat 1024 (v % 2 ^ 64) },
         { course := course, byte := 16 * o + 8, size := 8, data := BitVec.ofNat 1024 (v / 2 ^ 64) }]
      else [{ course := course, byte := 8 * o, size := 8, data := BitVec.ofNat 1024 v }]

/-- The drain after a converted row: status flags and writes. `r` is the output row, `last` that it is the last. -/
def emitRow (c : EngCmd) (o m r : Nat) (last : Bool) (d : DrainEng) (ys : List Nat) : DrainEng :=
  let e := c.raw
  let cs := ys.map (convert e d.params)
  let d1 := { d with
    sat := d.sat || cs.any (·.2)
    nan := d.nan || ys.any fun y => f32In y == .nan
    now := (d.now.note 8 (cs.any (·.2))).note 9 (ys.any fun y => f32In y == .nan) }
  let l := cs.map (·.1)
  let packed :=
    if dnHod e && dnFmt e = 2 then packLanes 32 (l.map fun x => wrap 32 (sgn 16 x)) else packLanes (outBits e) l
  match c.pairWin with
  | some w => if wMap w = 2 then { d1 with out := d1.out ++ diagPieces e w o m l } else packRow e r last packed d1
  | none => packRow e r last packed d1

/-! ### Reading rows -/

/-- Read the 7 courses of the parameter block; its read entry retires (R54, R248). -/
def readParams (t : Nat) (c : EngCmd) : List Nat → State → Except State State
  | [], s => .ok (if hasRange c.raw 0x28 then retireRanges t 3 c.urgent [cmdRange c.raw 0x28] s else s)
  | k :: r, s =>
    match engRead t c.urgent 3 ((dnParam c.raw + k) % 32768) s with
    | .error z => .error z
    | .ok (d, z) => readParams t c r (z.updDrn t fun x => { x with params := x.params ++ [d] })

/-- The parameter block, read before the first row. -/
def withParams (t : Nat) (c : EngCmd) (s : State) : Except State State :=
  if (s.tile t).drn.row = 0 && needsParams c.raw then
    readParams t c (List.range 7) (s.updDrn t fun d => { d with params := [] })
  else .ok s

/-- Σa of row `m`, at accumulator row `k` (R251, R266). -/
def sumaOf (t : Nat) (c : EngCmd) (m k : Nat) (s : State) : Except State (Int × State) :=
  if c.pairWin.isSome then .ok (sget (fun _ => (0 : Int)) (s.tile t).arr.suma k, s)
  else
    let got : Except State State :=
      if m % 32 = 0 then
        match engRead t c.urgent 3 ((dnSuma c.raw + m / 32) % 32768) s with
        | .error z => .error z
        | .ok (d, z) => .ok (z.updDrn t fun x => { x with sumaCourse := d })
      else .ok s
    match got with
    | .error z => .error z
    | .ok z => .ok (sgn 32 (lane (z.tile t).drn.sumaCourse 32 (m % 32)), z)

/-- The scale sw of column `c` is ZERO: its correction T × sw × sa is 0 whatever sa (R217, R218). -/
def zeroScale (p : BitVec 512) (a : ArrayEng) (c : Nat) : Bool :=
  match scaleVal (aSFmt p) (sget (fun _ => (0 : BitVec 16)) a.scales (128 * c)).toNat with
  | .zero _ => true
  | _ => false

/-- The corrections of a row when ZP_EN is 1.  With group-scaled activations the spec names no activation scale: the correction
is a free value (entry 1), but 0 where T or sw is 0. -/
def corrOf (t : Nat) (c : EngCmd) (p : BitVec 512) (m k : Nat) (s : State) : Except State (Option (List Nat) × State) :=
  if !dnZp c.raw then .ok (none, s)
  else
    match sumaOf t c m k s with
    | .error z => .error z
    | .ok (sa, z) =>
      if aXKind p = 0 then
        let (x, z1) := z.draw 2048
        .ok (some ((List.range 64).map fun i =>
          if zpTerm p (z.tile t).arr c.urgent sa i = 0 || zeroScale p (z.tile t).arr i then 0 else lane x 32 i), z1)
      else .ok (some ((List.range 64).map fun i => zpCorrection p (z.tile t).arr c.urgent sa i), z)

/-- A bank gives up a row to the drain (R242). -/
def takeBankRow (b : Nat) (rows : List Nat) (done : List Bool) : List Nat × List Bool :=
  let n := rows.getD b 0 - 1
  (lput rows b n, if n = 0 then lput done b false else done)

/-- The row leaves its bank. -/
def bankRead (t b : Nat) (sce : Bool) (s : State) : State :=
  if sce then
    s.updSce t fun e =>
      let (r, d) := takeBankRow b e.bankRows e.bankDone
      { e with bankRows := r, bankDone := d }
  else
    s.updArr t fun e =>
      let (r, d) := takeBankRow b e.bankRows e.bankDone
      { e with bankRows := r, bankDone := d }

/-- A row that has passed the stages goes to pooling or to conversion. -/
def drainOut (t : Nat) (c : EngCmd) (o m : Nat) (ys : List Nat) (last : Bool) (s : State) : State :=
  let e := c.raw
  if dnPool e = 0 then s.updDrn t fun d => emitRow c o m m last d ys
  else
    let q := Pool.ofEntry e
    s.updDrn t fun d =>
      let rows := sset (fun _ => 0) d.poolRows m (BitVec.ofNat 2048 (packLanes 32 ys))
      let outs := poolForm (dnPool e) q rows m (q.oh.toNat * q.ow.toNat + 1 - d.poolAt) d.poolAt
      let n := q.oh.toNat * q.ow.toNat
      let d1 := outs.foldl (fun d w => emitRow c o m w.1 (w.1 + 1 = n) d w.2) d
      { d1 with poolRows := sdrop (fun k => decide (k + q.w * q.kh < m)) rows, poolAt := d.poolAt + outs.length }

/-- Row `i` has been read, of `n`: the Σa entry retires with its last course, and an entry of which the command reads nothing with its
last row (R54, R248, R251). -/
def rowsDone (t : Nat) (c : EngCmd) (i n : Nat) (s : State) : State :=
  let e := c.raw
  let last := decide (i + 1 = n)
  let suma := if dnZp e && c.pairWin.isNone then decide (i = 32 * ((n - 1) / 32)) else last
  let rs := (if suma && hasRange e 0x30 then [cmdRange e 0x30] else [])
    ++ (if last && !needsParams e && hasRange e 0x28 then [cmdRange e 0x28] else [])
  retireRanges t 3 c.urgent rs s

/-- A drain command whose rows are all read and whose writes are all performed ends: its write entry retires (R54). -/
def drainEnd (t : Nat) (c : EngCmd) (p : BitVec 512) (s : State) : State :=
  let d := (s.tile t).drn
  if d.row ≥ drainRows p c.pairWin && d.out.isEmpty && d.part.isNone then
    let s1 := if hasRange c.raw 0x38 then retireRanges t 3 c.urgent [cmdRange c.raw 0x38] s else s
    popCmd t 3 (s1.updDrn t fun d => { d with row := 0, params := [], poolAt := 0, poolRows := [] })
  else s

/-- DRAIN_ROW_READ (R242, R245 to R251, R273, R280): the next accumulator row is read, passes the stages and joins the
output. -/
def execDrainRowRead (tile : Nat) (held : Held) (s : State) : Out :=
  match engHead s tile 3 with
  | none => .next s
  | some c =>
    match c.pair with
    | none => .next s
    | some p =>
      let d := (s.tile tile).drn
      let q := drainPlace p c.pairWin d.row
      let b := placeBank c.pairWin q
      let sce := decide (eType p = 4)
      let ready := if sce then (s.tile tile).sce.bankDone.getD b false else (s.tile tile).arr.bankDone.getD b false
      if !s.tileLive tile || d.row ≥ drainRows p c.pairWin || !ready then .next s
      else
        let s0 := beginCmd tile 3 (charge tile c.urgent sce held s)
        match withParams tile c s0 with
        | .error z => .next z
        | .ok s1 =>
          let k := 64 * b + q.2.2 % 64
          match corrOf tile c p q.2.2 k s1 with
          | .error z => .next z
          | .ok (corr, s2) =>
            let x := s2.tile tile
            let row := sget (fun _ => (0 : BitVec 2048)) (if sce then x.sce.res else x.arr.acc) k
            let ys := rowStages c q.2.1 x.drn.params corr row
            let last := decide (d.row + 1 = drainRows p c.pairWin)
            let s3 := drainOut tile c q.2.1 q.2.2 ys last s2
            let s4 := (bankRead tile b sce s3).updDrn tile fun d => { d with row := d.row + 1, rowCnt := satAdd32 d.rowCnt 1 }
            let s5 := rowsDone tile c d.row (drainRows p c.pairWin) s4
            .next (if last then drainEnd tile c p s5 else s5)

/-- A drain course on its way to the hod joins the drain buffer (R299, R307). -/
def hodCourseOf (t : Nat) (u : Bool) (r : StepRun) (tgt : Nat) (off : Nat) (data : BitVec 1024) : HodCourse :=
  { tile := t, urgent := u, start := r.start, rerun := r.runs, tgt := tgt, off := off, epoch := dEpoch r.desc, at_ := 0
    data := data }

/-- Courses that the drain buffer holds at most (R299). -/
def drainBufCap : Nat := 8

/-- Add a course to the drain buffer. -/
def pushHod (t : Nat) (h : HodCourse) (s : State) : State := s.updTile t fun x => { x with hp := { x.hp with buf := x.hp.buf ++ [h] } }

/-- A piece of a DIAG8 row: a narrow write of whole words (R273, R32). -/
def engPiece (t : Nat) (u : Bool) (w : DrainWrite) (s : State) : Except State State :=
  match s.run t u with
  | none => .error s
  | some r =>
    if !inStep r w.course true then .error (stepFault t u stRange s)
    else .ok (s.updTs t fun ts => (ts.writeNarrow (128 * w.course + w.byte) (unpackBytes w.size w.data.toNat) 3 false).1)

/-- DRAIN_COURSE_WRITE (R245, R247, R273, R299): the oldest converted course or piece is written, or joins the drain
buffer; a full buffer holds it. -/
def execDrainCourseWrite (tile : Nat) (held : Held) (s : State) : Out :=
  match engHead s tile 3 with
  | none => .next s
  | some c =>
    match c.pair, (s.tile tile).drn.out, s.run tile c.urgent with
    | some p, w :: rest, some r =>
      if !s.tileLive tile then .next s
      else if dnHod c.raw then
        if (s.tile tile).hp.buf.length ≥ drainBufCap then .next s
        else
          let s1 := pushHod tile (hodCourseOf tile c.urgent r (dnTgt c.raw) w.course w.data) (charge tile c.urgent false held s)
          .next (drainEnd tile c p (s1.updDrn tile fun d => { d with out := rest }))
      else
        let s1 := charge tile c.urgent false held s
        match (if w.size = 128 then engWrite tile c.urgent w.course w.data s1 else engPiece tile c.urgent w s1) with
        | .error z => .next z
        | .ok z => .next (drainEnd tile c p (z.updDrn tile fun d => { d with out := rest }))
    | _, _, _ => .next s

/-! ### DRN_ registers (R256) -/

/-- A write of DRN_CNT_CLR. -/
def drnCntClr (v : BitVec 32) (d : DrainEng) : DrainEng :=
  { d with rowCnt := if bit v 0 then 0 else d.rowCnt, now := d.now.zeroed v }

/-- The counter as it reads: events of the cycle in which it was cleared are not counted (R257). -/
def DrainEng.settle (d : DrainEng) : DrainEng := drnCntClr d.now.clr d

/-- DRN_CNT_CLR. -/
def execDrnCntClr (who : Who) (tile : Nat) (value : BitVec 32) (s : State) : Out :=
  .next (if tile < 16 then regWrite who (.tile tile) .yes (fun z => z.updDrn tile (drnCntClr value)) s else s)

/-- A write of DRN_STATUS: a 1 clears SAT or NAN, unless an event of the same cycle sets it (R257). -/
def drnStatusWrite (v : BitVec 32) (d : DrainEng) : DrainEng :=
  { d with sat := d.sat && d.now.keeps v 8, nan := d.nan && d.now.keeps v 9 }

/-- The DRN_ register at offset `o`: its value and its width in bytes. -/
def DrainEng.readReg (d : DrainEng) (o : Nat) : Option (Nat × Nat) :=
  if o = 0x000 then some (busyBits d.queue % 2 + 256 * b2n d.sat + 512 * b2n d.nan, 4)
  else if o = 0x004 then some (d.rowCnt.toNat, 4)
  else if o = 0x008 then some (0, 4)
  else none

end Sys2Proof.Machine
end

