-- ==== Sys2Proof/Machine/MortarOps.lean ====
section
/-! DEFINITION. The mortar: MSEND, its courses and acknowledgements, event lines, and mode epochs (R284 to R293,
R309 to R313, R527). -/

namespace Sys2Proof.Machine

/-! ### What crosses the mortar -/

/-- The step that a late notice, course or acknowledgement belongs to is in progress: the one that started in its cycle S. A
later step, of the same descriptor even (R308), starts later. -/
def ownStep (s : State) (t : Nat) (u : Bool) (start : Nat) : Bool :=
  match s.run t u with
  | some r => decide (r.start = start)
  | none => false

/-- And it is still in the same run. -/
def ownRun (s : State) (t : Nat) (u : Bool) (start rerun : Nat) : Bool :=
  match s.run t u with
  | some r => decide (r.start = start) && decide (r.runs = rerun)
  | none => false

/-- What a course or an acknowledgement met on its way: counted, and charged to the step that sent it while that is in
progress (R286, R287, R321). -/
def chargeSender (t : Nat) (u : Bool) (start jitter link : Nat) (s : State) : State :=
  countTransit jitter link
    (if ownStep s t u start then s.updRun t u fun r => addHolds s.cycle [(2, jitter), (3, link)] r else s)

/-! ### MSEND (R288 to R290) -/

/-- The causes of ARR_ERR for an MSEND. -/
def msendCause (e : BitVec 512) : Option Nat :=
  if strayBits e [(0, 8), (8, 11), (32, 15), (320, 64)] || badRange e 0x28 || !zeroRange e 0x30 || !zeroRange e 0x38 then some 7
  else if !hasRange e 0x28 || bit e (8 * 0x28 + 32) then some 4
  else none

/-- The MSEND whose courses are being read: the first whose last course has not been. A normal MSEND that has read its last course
and awaits its acknowledgement no longer holds the unit: an urgent one reads then (R31, R290; log entry 105, the model's choice). -/
def msendTurn (s : State) (t : Nat) : Option EngCmd :=
  match (s.tile t).ms.queue.find? fun c => !c.read with
  | some c => if c.issued && (c.begun || mayTake s t c) then some c else none
  | none => none

/-- Change the command whose courses are being read. -/
def updMsend (t : Nat) (f : EngCmd → EngCmd) (s : State) : State := s.updQ t 5 (mapFirst (fun c => !c.read) f)

/-- MSEND (R288, R289, R290): the command is checked and goes to issue; once issued, each event reads its next source
course and sends it. -/
def execMsend (tile : Nat) (held : Held) (s : State) : Out :=
  if !s.tileLive tile then .next s
  else
    match msendTurn s tile with
    | some c =>
      let g := cmdRange c.raw 0x28
      let i := (s.tile tile).ms.at_
      let dst := fld c.raw 8 4
      let course := (fld c.raw 32 15 + i) % 32768
      match s.run tile c.urgent with
      | none => .next s
      | some r =>
        match engRead tile c.urgent 5 ((g.start + i) % 32768) (charge tile c.urgent false held s) with
        | .error z => .next z
        | .ok (d, s0) =>
          let (late, s1) := s0.crossing
          let last := decide (i + 1 = g.length)
          let m : MortarCourse :=
            { src := tile, urgent := c.urgent, start := r.start, dst := dst, course := course, data := d, rerun := r.runs, index := c.index, last := last
              evt := if bit c.raw 18 then some (fld c.raw 12 6) else none, failed := false
              mesh := .enter portTile tile dst s.cycle late }
          let s2 := inflightAdd dst course { s1 with mor := { s1.mor with flight := s1.mor.flight ++ [m] } }
          let s3 := s2.updTile tile fun x => { x with ms := { x.ms with at_ := if last then 0 else i + 1 } }
          .next (updMsend tile (fun c => { c with begun := true, read := last }) s3)
    | none =>
      match toCheck s tile 5 with
      | none => .next s
      | some c =>
        match msendCause c.raw with
        | some k => .next (malformed tile c.urgent (arrErr tile k 2 c.index s))
        | none => .next (passCheck tile 5 s)

/-- An acknowledgement from the same tile to the same tile is ahead. -/
def samePath (a b : MortarCourse) : Bool := decide (a.src = b.src) && decide (a.dst = b.dst)

/-- Course `i` of MSEND commands, when it has passed its last router and crossed in, with a cycle of jitter or without. -/
def msendHere (s : State) (i jitter : Nat) : Option MortarCourse :=
  match s.mor.flight[i]? with
  | some m => if meshArrives s m.dst m.mesh (min 1 jitter) then some m else none
  | none => none

/-- Course `i` of MSEND commands reaches its destination after the crossing there, with `jitter`, and is written after `lost` cycles
of bank arbitration, dropped at a fenced tile, discarded at a gated one, or found in error; it is acknowledged in every case.  Its waits
at router outputs and the jitter of both crossings are counted.  It counts as sent when it is written (R285 to R292, R453, R527). -/
def msendArrive (i jitter lost : Nat) (bad : Bool) (s : State) : State :=
  match msendHere s i jitter with
  | none => s
  | some m =>
    let s1 := chargeSender m.src m.urgent m.start (m.mesh.late + min 1 jitter) m.mesh.waited
      (inflightSub m.dst m.course { s with mor := { s.mor with flight := s.mor.flight.eraseIdx i } })
    let ack (failed : Bool) (z : State) : State := { z with mor := { z.mor with acks := z.mor.acks ++ [{ m with failed := failed }] } }
    if s.fencedTile m.dst then ack false { s1 with mor := { s1.mor with dropCnt := satAdd32 s1.mor.dropCnt 1 } }
    else if s.gatedTile m.dst then ack false s1.countGated
    else if bad then ack true (countMorPerr s1)
    else
      let live := (s1.tile m.dst).ts.live m.course
      let s2 := (lostCycles m.dst lost s1).updTs m.dst fun ts => ts.writeCourse m.course m.data false
      ack false (if live && ownStep s2 m.src m.urgent m.start then s2.markSent m.src m.urgent else s2)

/-- MORTAR_COURSE_ARRIVE (R65, R285, R289 to R292, R376, R453, R527). -/
def execMortarCourseArrive (course : MorCourse) (met : Transit) (bad : Bool) (s : State) : Out :=
  match course with
  | .msend i => .next (msendArrive i met.jitter met.lost bad s)
  | .dma i => .next (putArrive i met.jitter met.lost bad s)

/-- A list without the first of its elements that satisfies `p`. -/
def dropFirst {α : Type} (p : α → Bool) : List α → List α
  | [] => []
  | x :: r => if p x then r else x :: dropFirst p r

/-- The command of a tile's mortar send that an acknowledgement belongs to: its courses are all read, and its index and its
step's priority are the acknowledged course's (R290). -/
def ackedCmd (m : MortarCourse) (c : EngCmd) : Bool := c.read && c.urgent == m.urgent && decide (c.index = m.index)

/-- MSEND_ACK (R290, R527): acknowledgement `i` returns, after `jitter` cycles at its two crossings.  A failed one is a fault of
its step; the last one of a command retires it and pulses its line. -/
def execMsendAck (i jitter : Nat) (s : State) : Out :=
  match mayPass s.mor.acks i samePath with
  | none => .next s
  | some m =>
    let s1 := chargeSender m.src m.urgent m.start (min 2 jitter) 0 { s with mor := { s.mor with acks := s.mor.acks.eraseIdx i } }
    if !ownRun s1 m.src m.urgent m.start m.rerun then .next s1
    else if m.failed then .next (stepFault m.src m.urgent stParity s1)
    else if !m.last then .next s1
    else
      match (s1.tile m.src).ms.queue.find? (ackedCmd m) with
      | none => .next s1
      | some c =>
        let s2 := retireRanges m.src 5 m.urgent (issueRanges c) (s1.updQ m.src 5 (dropFirst (ackedCmd m)))
        match m.evt with
        | some k => .next (s2.pulse (setBit 0 k true))
        | none => .next s2

/-! ### Event lines (R293) -/

/-- A tile latches the lines of a mask in cycle `n` (R105, R293, R427). -/
def latchLines (n : Nat) (lines : BitVec 64) (x : Tile) : Tile :=
  { x with
    seq := { x.seq with evtLatch := x.seq.evtLatch ||| lines.setWidth 128 }
    ic := x.ic.moveTo (x.ic.occur n (lines <<< 32)) }

/-- A pulse of lines reaches tile `t`: it latches them, unless it is fenced, or gated, which counts (R293, R453, R531). -/
def latchAt (lines : BitVec 64) (s : State) (t : Nat) : State :=
  if s.fencedTile t then s
  else if s.gatedTile t then s.countGated
  else s.updTile t (latchLines s.cycle lines)

/-- The oldest pulses that reached the hub reach every tile (R293). -/
def latchPulses (s : State) : State :=
  match s.te.pulses with
  | [] => s
  | (k, lines) :: rest =>
    let t := { s.te with pulses := rest }
    (List.range 16).foldl (latchAt lines) { s with te := if s.cycle < k then t.heard lines else t }

/-- EVT_LATCH (R293, R453, R559): in a device that runs, the pulses that reached the hub first reach every tile; fenced and gated tiles
do not latch them. -/
def execEvtLatch (s : State) : Out := .next (if s.alive then latchPulses s else s)

/-! ### Mode epochs (R309 to R312) -/

/-- A commit is refused; device source 82 occurs when REFUSED becomes 1 (R309, R428). -/
def morRefuse (s : State) : State :=
  let s1 := { s with mor := { s.mor with refused := true, now := s.mor.now.note 9 true } }
  if s.mor.refused then s1 else s1.devSource 82

/-- A write of MOR_COMMIT with epoch `e`. Tiles that have still to see an earlier MIXED cleared see that first (R309, R311). -/
def morCommit (e : BitVec 8) (s : State) : State :=
  let d := (e - s.mor.epoch).toNat
  if s.mor.mixed || d = 0 || d > 127 then morRefuse s
  else
    mixedCheck
      { s with
        mor := { s.mor with
          latched := s.mor.stage, epoch := e, mixed := true, pending := unfenced s, deliver := unfenced s
          delivered := 0, reports := 0 } }

/-- MOR_COMMIT (R309). -/
def execMorCommit (who : Who) (value : BitVec 32) (s : State) : Out :=
  .next (regWrite who .always .yes (morCommit (value.setWidth 8)) s)

/-- MODE_COMMIT_DELIVER (R309): COMMIT reaches every unfenced tile, which sees MIXED set. An earlier MIXED cleared, which set out
first, is seen first (R311). -/
def execModeCommitDeliver (s : State) : Out :=
  let d := s.mor.deliver &&& unfenced s
  .next (if s.mor.clearing ≠ 0 then s else (List.range 16).foldl (fun z t => if bit d t then z.updSt t fun x => { x with seesMixed := true } else z)
    { s with mor := { s.mor with deliver := 0, delivered := s.mor.delivered ||| d } })

/-- MODE_APPLY (R310): a tile that holds no issued step applies the commit; its report sets out. -/
def execModeApply (tile : Nat) (s : State) : Out :=
  let x := (s.tile tile).st
  if s.tileLive tile && bit s.mor.delivered tile && x.free s.cycle then
    let s1 := (applyMode tile s).updSt tile fun x => { x with appliedAt := some s.cycle }
    .next { s1 with
      mor := { s1.mor with
        delivered := setBit s1.mor.delivered tile false, reports := setBit s1.mor.reports tile true } }
  else .next s

/-- MODE_REPORT (R311): the tile's report clears its PENDING bit. -/
def execModeReport (tile : Nat) (s : State) : Out :=
  if bit s.mor.reports tile then .next (morLeave tile s) else .next s

/-- MIXED_CLEAR_SEEN (R311): every tile sees MIXED cleared. -/
def execMixedClearSeen (s : State) : Out :=
  .next ((List.range 16).foldl (fun z t => if bit s.mor.clearing t then z.updSt t fun x => { x with seesMixed := false } else z)
    { s with mor := { s.mor with clearing := 0 } })

/-! ### MOR_ registers (R313) -/

/-- A write of MOR_CNT_CLR. -/
def morCntClr (v : BitVec 32) (m : Mortar) : Mortar :=
  { m with
    linkWait := if bit v 0 then 0 else m.linkWait
    jitterCnt := if bit v 1 then 0 else m.jitterCnt
    dropCnt := if bit v 2 then 0 else m.dropCnt
    now := m.now.zeroed v }

/-- The counters as they read: events of the cycle in which they were cleared are not counted (R314). -/
def Mortar.settle (m : Mortar) : Mortar := morCntClr m.now.clr m

/-- MOR_CNT_CLR. -/
def execMorCntClr (who : Who) (value : BitVec 32) (s : State) : Out :=
  .next (regWrite who .always .yes (fun z => { z with mor := morCntClr value z.mor }) s)

/-- A write of MOR_MODE_STATE: a 1 clears REFUSED, unless a refusal of the same cycle sets it (R314). -/
def morStateWrite (v : BitVec 32) (m : Mortar) : Mortar := { m with refused := m.refused && m.now.keeps v 9 }

/-- A write of MOR_MODE_STAGE[n]. -/
def morStageWrite (n : Nat) (v : BitVec 32) (m : Mortar) : Mortar := { m with stage := lput m.stage n v }

/-- MOR_MODE_STATE, which DEV_MODE_STATE shows as well (R311). -/
def Mortar.modeState (m : Mortar) : Nat := m.epoch.toNat + 256 * b2n m.mixed + 512 * b2n m.refused + 65536 * m.pending.toNat

/-- The MOR_ register at offset `o`: its value and its width in bytes. -/
def Mortar.readReg (m : Mortar) (o : Nat) : Option (Nat × Nat) :=
  if o = 0x000 then some (0, 4)
  else if o = 0x004 then some (m.modeState, 4)
  else if o = 0x008 then some (m.fenced.toNat, 4)
  else if o = 0x00C then some (m.linkWait.toNat, 4)
  else if o = 0x010 then some (m.jitterCnt.toNat, 4)
  else if o = 0x014 then some (m.dropCnt.toNat, 4)
  else if o = 0x018 then some (0, 4)
  else if 0x100 ≤ o && o < 0x140 && o % 4 = 0 then some ((m.stage.getD ((o - 0x100) / 4) 0).toNat, 4)
  else if 0x180 ≤ o && o < 0x200 && o % 8 = 0 then
    let n := (o - 0x180) / 8
    some ((m.applied.getD n 0).toNat + 2 ^ 32 * (m.appliedEpoch.getD n 0).toNat, 8)
  else none

end Sys2Proof.Machine
end

