-- ==== Sys2Proof/Machine/HostOps.lean ====
section
/-! DEFINITION. The host attachment: BAR2, resets of the PCIe function, MSI-X, the heartbeat page, the result mailboxes and
the DEV_ and RES_ registers (R392 to R416, R547, R555). -/

namespace Sys2Proof.Machine

/-! ### BAR2 (R399 to R401) -/

/-- The size of BAR2 in GiB, by strap (R399). -/
def bar2Gib (strap : Nat) : Nat := [1, 4, 16, 64, 128, 256, 512, 1024].getD strap 1

/-- The device address of a BAR2 offset. -/
def bar2At (s : State) (off : Nat) : Nat := s.host.bar2Off.toNat * 2 ^ 30 + off

/-- The channel that holds line `l` has failed (R535, R536). -/
def failedLine (s : State) (l : Nat) : Bool := s.failedChan (lineChan l)

/-- The lines of `n` bytes at device address `a`. -/
def linesOf (a n : Nat) : List Nat := if n = 0 then [] else List.range' (a / 128) ((a + n - 1) / 128 + 1 - a / 128)

/-- A BAR2 access beyond capacity (R400). -/
def countOor (s : State) : State := { s with host := { s.host with bar2OorCnt := satAdd32 s.host.bar2OorCnt 1 } }

/-- Write the lines of a host write one by one. -/
def bar2Put : Nat → Nat → List (BitVec 8) → State → State
  | 0, _, _, s => s
  | fuel + 1, a, bs, s =>
    if bs.isEmpty then s
    else
      let n := 128 - a % 128
      bar2Put fuel (a + n) (bs.drop n) (dmaDdrWrite a (bs.take n) none s)

/-- HOST_BAR2_WRITE (R339, R394, R400, R473, R507, R536). -/
def execHostBar2Write (off : Nat) (bytes : List (BitVec 8)) (ep : Bool) (s : State) : Out :=
  if off + bytes.length > bar2Gib (fld s.sec.straps 3 3) * 2 ^ 30 then .next s
  else if !s.barOpen || ep then .next (hostWrite ep id s)
  else if !s.sec.life.running then .next s.linkUse.hostReject
  else
    let a := bar2At s off
    if a + bytes.length > 128 * s.capLines then .next (countOor s.linkUse)
    else if (linesOf a bytes.length).any (failedLine s) then .next (s.toHost (.aer 2))
    else .next (bar2Put (bytes.length + 1) a bytes s.linkUse)

/-- A line of a host read: read at once where its channel serves it, with what the check code finds, zeros of a gated channel, and else
asked for under the read's number (R355, R356, R453). -/
def bar2Line (tag : Nat) (be : BeatErr) (l : Nat) (s : State) : Option (BitVec 1024 × Bool) × State :=
  if s.chanGated l then (some (0, false), s.countGated)
  else if s.ddrFast l then (some (s.lineData l, be.bad), ddrErr l be (s.ddrOpen l))
  else (none, s.ddrRequest l (.bar2 tag) 2)

/-- The lines of a host read, in order. -/
def bar2Get (tag : Nat) : List BeatErr → List Nat → State → List (Nat × Option (BitVec 1024 × Bool)) × State
  | _, [], s => ([], s)
  | errs, l :: ls, s =>
    let (x, s1) := bar2Line tag (errs.headD .none) l s
    let (r, s2) := bar2Get tag errs.tail ls s1
    ((l, x) :: r, s2)

/-- A host read of which every line has come is answered: poisoned when one of them is (R400). -/
def bar2Answer (r : BarRead) (s : State) : State :=
  let ds := r.lines.map fun x => x.2.getD (0, false)
  let bytes := (ds.map fun d => unpackBytes 128 d.1.toNat).flatten
  s.toHost (.completion ((bytes.drop r.skip).take r.len) (ds.any (·.2)) false)

/-- A host read is answered, or waits for the lines that it has asked for. -/
def bar2Keep (r : BarRead) (s : State) : State :=
  if r.lines.all (fun x => x.2.isSome) then bar2Answer r s
  else { s with host := { s.host with reads := s.host.reads ++ [r] } }

/-- A host read whose line `l` has come. -/
def BarRead.got (r : BarRead) (l : Nat) (d : BitVec 1024 × Bool) : BarRead :=
  { r with lines := r.lines.map fun (k, x) => if k = l then (k, some d) else (k, x) }

/-- Every line of a host read has come. -/
def BarRead.whole (r : BarRead) : Bool := r.lines.all fun x => x.2.isSome

/-- A line that a host read waits for has come (R355, R356, R400). -/
def bar2Got (tag l : Nat) (d : BitVec 1024 × Bool) (s : State) : State :=
  match s.host.reads.find? fun r => decide (r.tag = tag) with
  | none => s
  | some r =>
    let others := s.host.reads.filter fun (x : BarRead) => decide (x.tag ≠ tag)
    let put (x : BarRead) : BarRead := if x.tag = tag then r.got l d else x
    if (r.got l d).whole then bar2Answer (r.got l d) { s with host := { s.host with reads := others } }
    else { s with host := { s.host with reads := s.host.reads.map put } }

/-- HOST_BAR2_READ (R339, R355, R356, R358, R394, R400, R507, R519, R521, R536): `errs` says what the check code finds in each line that is
read at once; the read is answered when every line of it has come. -/
def execHostBar2Read (off len : Nat) (errs : List BeatErr) (s : State) : Out :=
  let a := bar2At s off
  if off + len > bar2Gib (fld s.sec.straps 3 3) * 2 ^ 30 || s.host.width = 0 then .next s
  else if !s.barOpen then .next (s.toHost (.completion [] false true))
  else if !s.sec.life.running then .next (s.toHost (.completion (List.replicate len 0) false false))
  else if a + len > 128 * s.capLines then .next ((countOor s).toHost (.completion [] false true))
  else if (linesOf a len).any (failedLine s) then .next (s.toHost (.completion [] false true))
  else
    let tag := s.host.readTag
    let (ls, s1) := bar2Get tag errs (linesOf a len) { s.linkUse with host := { s.linkUse.host with readTag := tag + 1 } }
    .next (bar2Keep { tag := tag, skip := a % 128, len := len, lines := ls } s1)

/-! ### The link and the function (R392, R394, R413, R547, R555) -/

/-- Ring `n` lies in HOST space. -/
def inHost (s : State) (n : Nat) : Bool := decide (aSpace (cBase (ctxPeek s n)) = 0)

/-- The rings in HOST space are stopped as by STOP; the standby is told (log entry 54). -/
def stopHostRings (s : State) : State :=
  (s.dma.rings.map (·.1)).foldl (fun z n => if inHost z n then haltCopied n z else z) s

/-- A channel's element that needs the host ends with HOST_ERR: one that is still reading host memory, and of a ring in HOST space one
that has still to write there; what is bound for the host is discarded (R382, R413). -/
def hostDrop (hostRing : Nat → Bool) (w : DmaWork) : DmaWork :=
  if w.reading && aSpace (xSrc w.desc) = 0 then w.srcFail 8 (xFrom w.desc w.elem + w.read)
  else if aSpace (xDst w.desc) = 0 && xType w.desc < 2 && !w.bad && !w.done && hostRing w.ring then
    { w.landed 8 w.put (xTo w.desc w.elem + w.put) 0 0 with srcFault := true, funnel := [] }
  else w

/-- What FLR and a link-down event do (R413). -/
def functionReset (s : State) : State :=
  let s1 := stopHostRings s
  { s1 with
    dma := { s1.dma with
      cq := smap (fun _ => DmaCq.reset) (fun _ c => if aSpace c.base = 0 then { c with cfg := setBit c.cfg 12 false } else c) s1.dma.cq
      ch := s1.dma.ch.map fun c => { c with work := c.work.map (hostDrop (inHost s)) } }
    host := { s1.host with
      busMaster := false
      memSpace := false
      maxPayload := 128
      maxRead := 512
      timeout := 0
      aerStatus := 0
      msixEnable := false
      msixMask := false
      aspm := false
      l1 := false
      bars := List.replicate 6 0
      msix := List.replicate 64 ⟨0, 0, true⟩
      pba := 0
      hbEn := false
      bar2Off := 0
      reads := [] } }

/-- FLR. -/
def execFlr (s : State) : Out := .next (if s.host.width ≠ 0 then functionReset s else s)

/-- The link goes down. -/
def linkDown (s : State) : State :=
  let s1 := functionReset s
  { s1 with
    host := { s1.host with
      width := 0
      speed := 0
      flit := false
      downCnt := if s1.host.downCnt = 0xFFFF then s1.host.downCnt else s1.host.downCnt + 1 }
    flt := { s1.flt with linkDownAt := some s1.te.time } }

/-- LINK_DOWN. -/
def execLinkDown (s : State) : Out := .next (if s.host.width ≠ 0 then linkDown s else s)

/-- PERST_ASSERT (R555). -/
def execPerstAssert (s : State) : Out :=
  let s1 := if s.host.width ≠ 0 then linkDown s else s
  .next { s1 with host := { s1.host with perst := true } }

/-- PERST_RELEASE (R555). -/
def execPerstRelease (s : State) : Out := .next { s with host := { s.host with perst := false } }

/-- PCIE_LINK_UP (R392, R415, R555): after PCIE_PERST_N is high and LARVA has begun. -/
def execPcieLinkUp (width speed : BitVec 3) (flit : Bool) (s : State) : Out :=
  if s.host.width = 0 && !s.host.perst && s.sec.life ≠ .egg && (width = 1 || width = 2 || width = 4) && 1 ≤ speed.toNat
      && speed.toNat ≤ 6 && (speed ≠ 6 || flit) then
    .next { s with
      host := { s.host with
        width := width
        speed := speed
        flit := flit }
      flt := { s.flt with linkDownAt := none } }.linkUse
  else .next s

/-- PCIE_L1_ENTER (R547): there was no traffic in either direction for 10 µs of TIME (log entry 92). -/
def execPcieL1Enter (s : State) : Out :=
  .next (if s.host.width ≠ 0 && s.host.aspm && s.host.trafficAt + 10000 ≤ s.te.time then
    { s with host := { s.host with l1 := true } } else s)

/-- What configuration space says of the device (R393). -/
structure ConfigId where
  /-- [16] Vendor ID. -/
  vendor : BitVec 16
  /-- [16] Device ID. -/
  device : BitVec 16
  /-- [8] Revision ID. -/
  revision : BitVec 8
  /-- [24] class code. -/
  classCode : BitVec 24
  /-- [16] Subsystem ID. -/
  subsystem : BitVec 16
  deriving DecidableEq, Repr

/-- The identity of a device of grade 0 (ZV48-F12E) or 1 (ZV48-F10E) (R393, R415). -/
def configId (grade : Nat) : ConfigId :=
  { vendor := 0x1F3C, device := 0x0048, revision := 0xB0, classCode := 0x120000
    subsystem := if grade = 0 then 0x0012 else 0x0010 }

/-- One BAR: its size in bytes and its type (R395). -/
structure BarInfo where
  /-- size in bytes. -/
  size : Nat
  /-- [1] 64-bit. -/
  wide : Bool
  /-- [1] prefetchable. -/
  prefetchable : Bool
  deriving DecidableEq, Repr

/-- BAR0, BAR2 and BAR4, the strap giving the size of BAR2 (R395, R399). -/
def barInfo (strap : Nat) : List (Nat × BarInfo) :=
  [(0, ⟨256 * 2 ^ 20, true, false⟩), (2, ⟨bar2Gib strap * 2 ^ 30, true, true⟩), (4, ⟨256 * 2 ^ 10, true, false⟩)]

/-- Word `i` of the Base Address Registers as it reads: the base as written with the bits that the size of the BAR leaves free, and in the
low bits its type, 64-bit and prefetchable (R395; the places of the bits PRESUMED, log entry 92). -/
def barWord (i : Nat) (s : State) : BitVec 32 :=
  match (barInfo (fld s.sec.straps 3 3)).find? fun x => decide (x.1 = i / 2 * 2) with
  | none => 0
  | some (k, b) =>
    let v := (s.host.bars.getD k 0).toNat + 2 ^ 32 * (s.host.bars.getD (k + 1) 0).toNat
    BitVec.ofNat 32 ((v / b.size * b.size + 4 * b2n b.wide + 8 * b2n b.prefetchable) / 2 ^ (32 * (i % 2)))

/-- The completion time-out of a value of its setting, in ns: the default, and two values in each of ranges A to D (R392; the values
PRESUMED, log entry 92). -/
def timeoutNs (code : Nat) : Option Nat :=
  match code with
  | 0 => some 50000000
  | 1 => some 100000
  | 2 => some 10000000
  | 5 => some 55000000
  | 6 => some 210000000
  | 9 => some 900000000
  | 10 => some 3500000000
  | 13 => some 13000000000
  | 14 => some 64000000000
  | _ => none

/-- Link Capabilities: 64 GT/s, 4 lanes, ASPM L1 alone, and an L1 exit latency of 2 µs to less than 4 µs (R392, R547; the places of the
fields PRESUMED, log entry 92). -/
def linkCapabilities : BitVec 32 := BitVec.ofNat 32 (6 + 2 ^ 4 * 4 + 2 ^ 10 * 2 + 2 ^ 15 * 2)

/-- The word that a read of configuration space returns, of the identity, of the BARs, of Link Capabilities and of AER's status; other
words are not modelled and read zero (log entry 92). -/
def configRead (offset : Nat) (s : State) : BitVec 32 :=
  let i := configId s.sec.grade.toNat
  match offset with
  | 0x00 => (i.device.append i.vendor).setWidth 32
  | 0x08 => (i.classCode.append i.revision).setWidth 32
  | 0x10 => barWord 0 s
  | 0x14 => barWord 1 s
  | 0x18 => barWord 2 s
  | 0x1C => barWord 3 s
  | 0x20 => barWord 4 s
  | 0x24 => barWord 5 s
  | 0x2C => (i.subsystem.append i.vendor).setWidth 32
  | 0x4C => linkCapabilities
  | 0x104 => s.host.aerStatus
  | _ => 0

/-- A setting of configuration space. -/
def HostIf.config (h : HostIf) : PcieCfg → HostIf
  | .busMaster b => { h with busMaster := b }
  | .memSpace b => { h with memSpace := b }
  | .msixEnable b => { h with msixEnable := b }
  | .msixMask b => { h with msixMask := b }
  | .aspm b => { h with aspm := b }
  | .maxPayload n => if n = 128 ∨ n = 256 ∨ n = 512 then { h with maxPayload := n } else h
  | .maxRead n => if n ∈ [128, 256, 512, 1024, 2048, 4096] then { h with maxRead := n } else h
  | .timeout v => if (timeoutNs v.toNat).isSome then { h with timeout := v } else h
  | .bar i v => { h with bars := upd h.bars i fun _ => v }
  | .aerClear v => { h with aerStatus := h.aerStatus &&& ~~~v }
  | .read _ => h

/-- PCIE_CONFIG_WRITE (R392 to R394, R403): a poisoned one is discarded and reported; a read returns its word. -/
def execPcieConfigWrite (field : PcieCfg) (ep : Bool) (s : State) : Out :=
  if s.host.width = 0 then .next s
  else
    match field with
    | .read o => .next (s.toHost (.completion (unpackBytes 4 (configRead o s).toNat) false false))
    | _ => .next (if ep then s.toHost (.aer 1) else { s with host := (s.linkUse.host).config field })

/-- MSIX_SEND (R394, R403, R430): a pending, unmasked vector sends its message. -/
def execMsixSend (vector : Nat) (s : State) : Out :=
  let e := s.host.msix.getD vector ⟨0, 0, true⟩
  if vector < 64 && bit s.host.pba vector && s.host.msixEnable && !s.host.msixMask && !e.masked && s.hostReach then
    .next (({ s with host := { s.host with pba := setBit s.host.pba vector false } }).toHost (.msix vector e.addr e.data))
  else .next s

/-- A 4 B write of the MSI-X table: word `i` (R403). -/
def msixWrite (i : Nat) (v : BitVec 32) (h : HostIf) : HostIf :=
  { h with
    msix := upd h.msix (i / 4) fun e =>
      match i % 4 with
      | 0 => { e with addr := setFld e.addr 0 32 (v.toNat / 4 * 4) }
      | 1 => { e with addr := setFld e.addr 32 32 v.toNat }
      | 2 => { e with data := v }
      | _ => { e with masked := bit v 0 } }

/-- A word of the MSI-X table. -/
def msixRead (i : Nat) (h : HostIf) : Nat :=
  let e := h.msix.getD (i / 4) ⟨0, 0, true⟩
  match i % 4 with
  | 0 => fld e.addr 0 32
  | 1 => fld e.addr 32 32
  | 2 => e.data.toNat
  | _ => b2n e.masked

/-! ### Heartbeat (R407 to R409) -/

/-- Posted writes of bytes at a bus address, cut at 128 B. -/
def postBytes : Nat → Nat → List (BitVec 8) → State → State
  | 0, _, _, s => s
  | fuel + 1, a, bs, s =>
    if bs.isEmpty then s
    else
      let n := 128 - a % 128
      postBytes fuel (a + n) (bs.drop n) (s.toHost (.write (BitVec.ofNat 64 a) (bs.take n)))

/-- The heartbeat page's bytes. -/
def hbPage (s : State) (gen : BitVec 64) : List (BitVec 8) :=
  let rings := 1024 * s.host.hbRingsK.toNat
  unpackBytes 8 gen.toNat ++ unpackBytes 8 s.dma.dseqLast.toNat ++ unpackBytes 8 s.te.dmaCopy
    ++ unpackBytes 4 ((match s.sec.life with | .egg => 0 | .larva => 1 | .chrysalis => 2 | .imago => 3) + 8 * b2n (standby s))
    ++ unpackBytes 4 rings ++ unpackBytes 8 gen.toNat ++ List.replicate 24 0
    ++ ((List.range rings).map fun n => unpackBytes 4 (s.dma.live n).consumed.toNat).flatten

/-- A page is written: GEN_BEGIN, then the body, then GEN_END. -/
def hbWrite (s : State) : State :=
  let gen := s.host.hbGen + 1
  let page := hbPage s gen
  let a := 4096 * s.host.hbAddr.toNat
  let s1 := { s with host := { s.host with hbGen := gen } }
  let s2 := s1.toHost (.write (BitVec.ofNat 64 a) (page.take 8))
  let s3 := postBytes 2 (a + 8) ((page.drop 8).take 24) s2
  let s4 := postBytes (page.length + 1) (a + 0x28) (page.drop 0x28) s3
  s4.toHost (.write (BitVec.ofNat 64 (a + 0x20)) ((page.drop 0x20).take 8))

/-- HEARTBEAT_DUE (R407 to R409): the engine's copy of TIME has reached a multiple of 100,000 ns.  `busy` says that the page
before is still being written: this one is then skipped. -/
def execHeartbeatDue (busy : Bool) (s : State) : Out :=
  let k := s.te.dmaCopy / 100000
  if !s.host.hbEn || k ≤ s.host.hbAt || s.gated .dma then .next s
  else
    let s1 := { s with host := { s.host with hbAt := k } }
    if busy then .next (({ s1 with host := { s1.host with hbSkipCnt := satAdd32 s1.host.hbSkipCnt 1 } }).devSource 81)
    else if s.hostReach then .next (hbWrite s1)
    else .next s1

/-- A write of DEV_HB_CTRL. -/
def hbCtrlWrite (v : BitVec 32) (s : State) : State :=
  let h := if s.host.hbEn then s.host else { s.host with hbRingsK := v.extractLsb' 1 6 }
  { s with
    host :=
      if bit v 0 && !h.hbEn then { h with hbEn := true, hbGen := 0, hbAt := s.te.dmaCopy / 100000 }
      else { h with hbEn := bit v 0 } }

/-- HB_CTRL_WRITE. -/
def execHbCtrlWrite (who : Who) (value : BitVec 32) (s : State) : Out := .next (regWrite who .always .yes (hbCtrlWrite value) s)

/-- A write of DEV_CNT_CLR. -/
def devCntClr (v : BitVec 32) (h : HostIf) : HostIf :=
  { h with
    hbSkipCnt := if bit v 0 then 0 else h.hbSkipCnt
    hostRejCnt := if bit v 1 then 0 else h.hostRejCnt
    bar2OorCnt := if bit v 2 then 0 else h.bar2OorCnt
    now := h.now.zeroed (v &&& 7#32) }

/-- DEV_CNT_CLR. -/
def execDevCntClr (who : Who) (value : BitVec 32) (s : State) : Out :=
  .next (regWrite who .always .yes (fun z => { z with host := devCntClr value z.host }) s)

/-! ### Result mailboxes (R410 to R412) -/

/-- Mailbox `n`. -/
def HostIf.mbOf (h : HostIf) (n : Nat) : ResMb := sget (fun _ => ResMb.reset) h.mb n

/-- Change mailbox `n`. -/
def State.updMb (s : State) (n : Nat) (f : ResMb → ResMb) : State :=
  { s with host := { s.host with mb := sset (fun _ => ResMb.reset) s.host.mb n (f (s.host.mbOf n)) } }

/-- A post. -/
def ResMb.post (m : ResMb) (d : BitVec 512) : ResMb := { seq := m.seq + 1, valid := true, overrun := m.overrun || m.valid, data := d }

/-- A malformed POST: RES_ERR records the first case. -/
def resErr (cause tile cmd : Nat) (s : State) : State :=
  let x : Word := BitVec.ofNat 32 (cause + 2 ^ 8 * tile + 2 ^ 12 * (cmd % 256) + 2 ^ 31)
  { s with host := { s.host with resErr := if bit s.host.resErr 31 then s.host.resErr else x, now := s.host.now.first x } }

/-- The cause for which a POST is malformed: 2 a range of non-zero LENGTH, before 1, another reserved bit. -/
def postCause (e : BitVec 512) : Option Nat :=
  if fld e (8 * 0x28 + 16) 16 ≠ 0 || fld e (8 * 0x30 + 16) 16 ≠ 0 || fld e (8 * 0x38 + 16) 16 ≠ 0 then some 2
  else if strayBits e [(0, 8), (32, 9), (64, 16)] then some 1
  else none

/-- POST (R32, R410, R412): half a course goes to a mailbox. -/
def execPost (tile : Nat) (urgent : Bool) (lost : Nat) (s : State) : Out :=
  match ownEntry s tile urgent 0x0A with
  | none => .next s
  | some (r, e) =>
    match postCause e with
    | some k => .next (malformed tile urgent (resErr k tile (entryIndex r) s))
    | none =>
      let c := fld e 64 15
      if !inStep r c false then .next (stepFault tile urgent stRange s)
      else
        let s0 := lostCycles tile lost s
        let x := (s0.tile tile).ts.read (128 * c + 64 * b2n (bit e 79)) 64
        let s1 := (s0.updTs tile fun ts => ts.countOff x.off).tsPerr tile c x.bad 7
        if !x.bad.isEmpty then .next (stepFault tile urgent stParity s1)
        else
          let s2 := s1.updMb (fld e 32 8) fun m => m.post (BitVec.ofNat 512 x.data)
          let s3 := if bit e 40 then s2.devSource 80 else s2
          .next (advanceList tile urgent (s3.markSent tile urgent))

/-- A write of RES_ACK[n]. -/
def resAck (n : Nat) (v : BitVec 32) (s : State) : State :=
  let m := s.host.mbOf n
  if m.valid && m.seq = v then s.updMb n fun m => { m with valid := false, overrun := false }
  else { s with host := { s.host with ackMissCnt := satAdd32 s.host.ackMissCnt 1 } }

/-- RES_ACK_WRITE. -/
def execResAckWrite (who : Who) (mb : Nat) (value : BitVec 32) (s : State) : Out :=
  .next (if mb < 256 then regWrite who .always .yes (resAck mb value) s else s)

/-- A write of RES_CNT_CLR. -/
def resCntClr (v : BitVec 32) (h : HostIf) : HostIf :=
  { h with ackMissCnt := if bit v 0 then 0 else h.ackMissCnt, now := h.now.zeroed ((v &&& 1#32) <<< 8) }

/-- The DEV_ and RES_ counters as they read: events of the cycle in which they were cleared are not counted (R416). -/
def HostIf.settle (h : HostIf) : HostIf := resCntClr (h.now.clr >>> 8) (devCntClr h.now.clr h)

/-- RES_CNT_CLR. -/
def execResCntClr (who : Who) (value : BitVec 32) (s : State) : Out :=
  .next (regWrite who .always .yes (fun z => { z with host := resCntClr value z.host }) s)

/-! ### Registers (R415) -/

/-- LIFE as DEV_STATE shows it. -/
def Life.code : Life → Nat
  | .egg => 0 | .larva => 1 | .chrysalis => 2 | .imago => 3

/-- The DEV_ register at offset `o` (DEV_FLT_ aside): its value and its width in bytes. -/
def devReadReg (s : State) (o : Nat) : Option (Nat × Nat) :=
  let h := s.host
  if o = 0x000 then some (0x00B00048 + 2 ^ 24 * s.sec.grade.toNat, 4)
  else if o = 0x008 then some (s.sec.life.code, 4)
  else if o = 0x010 then some (h.width.toNat + 8 * h.speed.toNat + 64 * b2n h.flit + 65536 * h.downCnt.toNat, 4)
  else if o = 0x018 then some (s.dma.dseqLast.toNat, 8)
  else if o = 0x020 then some (2 ^ 30 * h.bar2Off.toNat, 8)
  else if o = 0x028 then some (4096 * h.hbAddr.toNat, 8)
  else if o = 0x030 then some (b2n h.hbEn + 2 * h.hbRingsK.toNat, 4)
  else if o = 0x034 then some (h.hbSkipCnt.toNat, 4)
  else if o = 0x038 then some (h.hostRejCnt.toNat, 4)
  else if o = 0x03C then some (h.bar2OorCnt.toNat, 4)
  else if o = 0x040 then some (0, 4)
  else if o = 0x048 then some (s.mor.modeState, 4)
  else if 0xF0000 ≤ o && o < 0xF0400 && o % 4 = 0 then some (msixRead ((o - 0xF0000) / 4) h, 4)
  else if o = 0xF8000 then some (h.pba.toNat, 8)
  else none

/-- The RES_ register at offset `o`; RES_MB_DATA is read in units of 8 B. -/
def resReadReg (h : HostIf) (o : Nat) : Option (Nat × Nat) :=
  if o < 0x8000 then
    let m := h.mbOf (o / 128)
    if o % 128 = 0 then some (m.seq.toNat + 2 ^ 32 * b2n m.valid + 2 ^ 33 * b2n m.overrun, 8)
    else if 64 ≤ o % 128 && o % 8 = 0 then some (fld m.data (8 * (o % 128 - 64)) 64, 8)
    else none
  else if o < 0x8800 && o % 8 = 0 then some (0, 4)
  else if o = 0x9000 then some (h.ackMissCnt.toNat, 4)
  else if o = 0x9004 then some (h.resErr.toNat, 4)
  else if o = 0x9008 then some (0, 4)
  else none

end Sys2Proof.Machine
end

