-- ==== Sys2Proof/Machine/TimeOps.lean ====
section
/-! DEFINITION. TIME and its alignment, slot ticks and alarms, the EVT_IN and EVT_OUT pins, and the TIME_ and EVT_
registers (R417 to R425, R434). -/

namespace Sys2Proof.Machine

/-! ### TIME (R417, R418, R421) -/

/-- By how much TIME advances in a TIME_CLK cycle, and what is left of a slew. -/
def TimeEvt.advance (t : TimeEvt) : Nat × Option Slew :=
  match t.slew with
  | none => (1, none)
  | some w =>
    if w.phase + 1 < 1024 then (1, some { w with phase := w.phase + 1 })
    else (if w.gain then 2 else 0, if w.left ≤ 1 then none else some { w with left := w.left - 1, phase := 0 })

/-- The copy of unit `u` (0 to 15 the tiles, 16 the edge hub, 17 the DMA engine, 18 the quoin) at draw `k`: a value that TIME held 2 to 7 ns
ago, and never less than before (R418). -/
def copyAt (past : List Nat) (u k old : Nat) : Nat := max old (past.getD (2 + Config.copyLag u k % 6) old)

/-- The copies follow TIME. -/
def TimeEvt.copies (t : TimeEvt) (k : Nat) : TimeEvt :=
  let p := (t.time :: t.past).take 8
  { t with
    past := p
    tileCopy := t.tileCopy.zipIdx.map fun (c, u) => copyAt p u k c
    hubCopy := copyAt p 16 k t.hubCopy
    dmaCopy := copyAt p 17 k t.dmaCopy
    quoinCopy := copyAt p 18 k t.quoinCopy
    quoinPrev := t.quoinCopy }

/-- One TIME_CLK cycle passes: the copies move, and the device controller's late deliveries run out (R418, R431). -/
def timeCycle (s : State) : State :=
  { s with
    te := s.te.copies s.freeCnt
    ic := { s.ic with lateIrq := s.ic.lateIrq - 1, lateUrg := s.ic.lateUrg - 1 }
    freeCnt := s.freeCnt + 1 }

/-- TIME_TICK (R417, R421): TIME advances by 1, or as a slew says; a hold keeps it. The last cycle of a hold is
TIME_HOLD_END. -/
def execTimeTick (s : State) : Out :=
  if !s.te.running || s.te.hold = 1 then .next s
  else if s.te.hold > 1 then .next (timeCycle { s with te := { s.te with hold := s.te.hold - 1 } })
  else
    let (n, w) := s.te.advance
    .next (timeCycle { s with
      te := { s.te with
        time := (s.te.time + n) % 2 ^ 64
        slew := w } })

/-- TIME_HOLD_END (R421): the last held cycle passes; TIME then advances again. -/
def execTimeHoldEnd (s : State) : Out :=
  if s.te.running && s.te.hold = 1 then .next (timeCycle { s with te := { s.te with hold := 0 } }) else .next s

/-- TIME steps: it counts and sets its source. -/
def timeStepped (s : State) : State :=
  ({ s with te := { s.te with stepCnt := satAdd32 s.te.stepCnt 1 } }).devSource 83

/-- How many of the values of an alarm at `a` that repeats every `p` lie in (`old`, `new`]. -/
def repeatsPassed (a p old new : Nat) : Nat :=
  if p = 0 || new < a then 0 else if old < a then (new - a) / p + 1 else (new - a) / p - (old - a) / p

/-- TIME steps forward by `n`: a repeating alarm of which it passes several repeats is noted (R421, R425). -/
def TimeEvt.forward (t : TimeEvt) (n : Nat) : TimeEvt :=
  let due (k : Nat) : Bool :=
    bit (t.alarmCfg.getD k 0) 6 && bit (t.alarmCfg.getD k 0) 7
      && decide (2 ≤ repeatsPassed (t.alarm.getD k 0).toNat t.period.toNat t.time (t.time + n))
  { t with
    time := (t.time + n) % 2 ^ 64
    stepFrom := t.time
    stepTo := t.time + n
    alarmSkip := t.alarmSkip ||| ((List.range 4).foldl (fun v k => setBit v k (due k)) 0) }

/-- A measurement `e` is acted on; it replaces any correction in progress. -/
def timeMeasure (e : Int) (s : State) : State :=
  let n := e.natAbs
  let t := { s.te with
    err := BitVec.ofNat 32 (wrap 32 (satS 32 e))
    aligned := true
    firstMeas := false
    slew := none
    hold := 0 }
  if e = 0 then { s with te := t }
  else if s.te.firstMeas || n > 1000 then
    if e > 0 then timeStepped { s with te := t.forward n }
    else timeStepped { s with te := { t with hold := n } }
  else { s with te := { t with slew := some ⟨n, decide (e > 0), 0⟩ } }

/-- The slot boundary nearest to `c`, the later one on a tie (R419, R420). -/
def nearestBoundary (period phase c : Nat) : Nat :=
  if period = 0 || c ≤ phase then phase
  else phase + (2 * (c - phase) + period) / (2 * period) * period

/-- The newest slot boundary at or before `c`, if there is one. -/
def lastBoundary (period phase c : Nat) : Option Nat :=
  if c < phase then none else some (if period = 0 then phase else phase + (c - phase) / period * period)

/-- SLOT_SYNC_EDGE (R420): TIME is captured, `off` minus 1 ns from its value, and with SRC = 1 a measurement is formed. -/
def execSlotSyncEdge (off : Nat) (s : State) : Out :=
  if !s.te.running || off > 2 then .next s
  else
    let c := s.te.time + off - 1
    let s1 := { s with te := { s.te with syncCap := c } }
    if s.te.src = 1 then
      .next (timeMeasure ((nearestBoundary s.te.period.toNat s.te.phase.toNat c : Int) - (c : Int)) s1)
    else .next s1

/-- A write of TIME_CTRL. -/
def timeCtrlWrite (v : BitVec 32) (t : TimeEvt) : TimeEvt := { t with src := v.setWidth 2, aligned := false, firstMeas := true }

/-- TIME_CTRL_WRITE. -/
def execTimeCtrlWrite (who : Who) (value : BitVec 32) (s : State) : Out :=
  .next (regWrite who .always .no (fun z => { z with te := timeCtrlWrite value z.te }) s)

/-- A write of TIME_CNT_CLR. -/
def timeCntClr (v : BitVec 32) (t : TimeEvt) : TimeEvt :=
  { t with
    stepCnt := if bit v 0 then 0 else t.stepCnt
    inCnt := if bit v 1 then List.replicate 4 0 else t.inCnt
    now := t.now.zeroed v }

/-- The counters as they read: events of the cycle in which they were cleared are not counted (R436). -/
def TimeEvt.settle (t : TimeEvt) : TimeEvt := timeCntClr t.now.clr t

/-- TIME_CNT_CLR. -/
def execTimeCntClr (who : Who) (value : BitVec 32) (s : State) : Out :=
  .next (regWrite who .always .yes (fun z => { z with te := timeCntClr value z.te }) s)

/-! ### Ticks and alarms (R419, R425) -/

/-- One line as a mask. -/
def lineMask (n : Nat) : BitVec 64 := BitVec.ofNat 64 (2 ^ (n % 64))

/-- SLOT_TICK (R419): the hub's copy has reached a boundary that it has not pulsed. -/
def execSlotTick (s : State) : Out :=
  match lastBoundary s.te.period.toNat s.te.phase.toNat s.te.hubCopy with
  | some b =>
    if bit s.te.tickCfg 6 && s.te.tickDone ≤ b then
      .next (({ s with te := { s.te with tickDone := b + 1 } }).pulse (lineMask (fld s.te.tickCfg 0 6)))
    else .next s
  | none => .next s

/-- Boundaries up to the hub's present copy are no longer due: EVT_TICK_CFG, TIME_SLOT_PERIOD or TIME_SLOT_PHASE was written. -/
def TimeEvt.tickFrom (t : TimeEvt) : TimeEvt := { t with tickDone := max t.tickDone (t.hubCopy + 1) }

/-- The value of a repeating alarm after it fires: one period on, or, where a forward step has passed several repeats, the next
one beyond TIME (R425). -/
def alarmNext (skip : Bool) (alarm period time : Nat) : Nat :=
  if !skip || period = 0 || alarm + period > time then alarm + period
  else alarm + ((time - alarm) / period + 1) * period

/-- A write of TIME_ALARM[k] or TIME_ALARM_CFG[k]: what a step has passed of the old alarm is forgotten. -/
def TimeEvt.rearm (t : TimeEvt) (k : Nat) : TimeEvt := { t with alarmSkip := setBit t.alarmSkip k false }

/-- ALARM_FIRE (R425). -/
def execAlarmFire (k : Nat) (s : State) : Out :=
  let c := s.te.alarmCfg.getD k 0
  let a := (s.te.alarm.getD k 0).toNat
  if k < 4 && bit c 6 && s.te.hubCopy ≥ a then
    let t :=
      if bit c 7 then
        { s.te.rearm k with
          alarm := lput s.te.alarm k (BitVec.ofNat 64 (alarmNext (bit s.te.alarmSkip k) a s.te.period.toNat s.te.time)) }
      else { s.te with alarmCfg := lput s.te.alarmCfg k (setBit c 6 false) }
    .next (({ s with te := t }).pulse (lineMask (fld c 0 6)))
  else .next s

/-! ### Pins (R423, R424) -/

/-- EVT_IN_EDGE (R331, R423): the synchroniser has seen the pin at a new level.  `merged`: the edge, less than 8 cycles after
the last, yields no pulse of its own. -/
def execEvtInEdge (pin : Nat) (level merged : Bool) (s : State) : Out :=
  if !s.alive || pin ≥ 4 || s.te.inLevel.getD pin false = level then .next s
  else
    let c := s.te.inCfg.getD pin 0
    let s1 := { s with te := { s.te with inLevel := lput s.te.inLevel pin level } }
    let kind := fld c 8 2
    if bit c 6 && (kind = 2 || (kind = 0 && level) || (kind = 1 && !level)) then
      let near := match s.te.inAt.getD pin none with
        | some w => decide (s.cycle < w + 8)
        | none => false
      let s2 := { s1 with te := { s1.te with inCnt := upd s1.te.inCnt pin fun n => satAdd32 n 1 } }
      if merged && near then .next s2
      else .next (({ s2 with te := { s2.te with inAt := lput s2.te.inAt pin (some s.cycle) } }).pulse (lineMask (fld c 0 6)))
    else .next s1

/-- Change pin `j`. -/
def State.updOut (s : State) (j : Nat) (f : EvtOut → EvtOut) : State := { s with te := { s.te with out := upd s.te.out j f } }

/-- The pin's oldest edge is made in hub cycle `now`. -/
def EvtOut.edge (p : EvtOut) (now : Nat) : EvtOut :=
  match p.edges with
  | [] => p
  | .pulse true _ :: r => { p with edges := r, level := !p.level, until_ := none }
  | .pulse false w :: r => { p with edges := r, level := true, until_ := some (now + w) }
  | .off :: r => { p with edges := r, level := false, until_ := none }

/-- EVT_OUT_EDGE (R424). -/
def execEvtOutEdge (pin : Nat) (s : State) : Out := .next (if pin < 4 then s.updOut pin fun p => p.edge s.cycle else s)

/-- EVT_OUT_WIDTH_END (R424): WIDTH cycles have passed since the last pulse's edge. -/
def execEvtOutWidthEnd (pin : Nat) (s : State) : Out :=
  .next (s.updOut pin fun p =>
    match p.until_ with
    | some c => if s.cycle ≥ c then { p with level := false, until_ := none } else p
    | none => p)

/-- A write of EVT_OUT_CFG: clearing EN takes the pin low. -/
def EvtOut.cfgWrite (v : BitVec 32) (p : EvtOut) : EvtOut :=
  { p with
    cfg := v &&& 0x00FF00FF#32
    edges := if bit p.cfg 6 && !bit v 6 then p.edges ++ [.off] else p.edges }

/-- EVT_OUT_CFG_WRITE. -/
def execEvtOutCfgWrite (who : Who) (pin : Nat) (value : BitVec 32) (s : State) : Out :=
  .next (if pin < 4 then regWrite who .always .yes (fun z => z.updOut pin (EvtOut.cfgWrite value)) s else s)

/-- EVT_PULSE_WRITE (R422). -/
def execEvtPulseWrite (who : Who) (lines : BitVec 64) (s : State) : Out :=
  .next (regWrite who .always .yes (fun z => z.pulse lines) s)

/-! ### Registers (R434) -/

/-- The TIME_ or EVT_ register at offset `o`: its value and its width in bytes. -/
def TimeEvt.readReg (t : TimeEvt) (o : Nat) : Option (Nat × Nat) :=
  if o = 0x000 then some (t.time, 8)
  else if o = 0x008 then some (t.src.toNat, 4)
  else if o = 0x00C then some (b2n t.aligned + 2 * b2n t.slew.isSome + 4 * b2n (decide (t.hold > 0)), 4)
  else if o = 0x010 then some (t.syncCap % 2 ^ 64, 8)
  else if o = 0x018 then some (t.period.toNat, 4)
  else if o = 0x01C then some (t.phase.toNat, 4)
  else if o = 0x020 then some (t.err.toNat, 4)
  else if o = 0x024 then some (t.stepCnt.toNat, 4)
  else if o = 0x028 then some (0, 4)
  else if 0x040 ≤ o && o < 0x060 && o % 8 = 0 then some ((t.alarm.getD ((o - 0x40) / 8) 0).toNat, 8)
  else if 0x060 ≤ o && o < 0x070 && o % 4 = 0 then some ((t.alarmCfg.getD ((o - 0x60) / 4) 0).toNat, 4)
  else if 0x100 ≤ o && o < 0x110 && o % 4 = 0 then some ((t.inCfg.getD ((o - 0x100) / 4) 0).toNat, 4)
  else if 0x110 ≤ o && o < 0x120 && o % 4 = 0 then
    match t.out[(o - 0x110) / 4]? with
    | some p => some (p.cfg.toNat, 4)
    | none => some (0, 4)
  else if o = 0x120 then some (t.tickCfg.toNat, 4)
  else if o = 0x128 then some (0, 8)
  else if 0x130 ≤ o && o < 0x140 && o % 4 = 0 then some ((t.inCnt.getD ((o - 0x130) / 4) 0).toNat, 4)
  else none

/-- A write of TIME_SLOT_PERIOD. -/
def slotPeriodWrite (v : BitVec 32) (t : TimeEvt) : TimeEvt := ({ t with period := v }).tickFrom

/-- A write of TIME_SLOT_PHASE. -/
def slotPhaseWrite (v : BitVec 32) (t : TimeEvt) : TimeEvt := ({ t with phase := v }).tickFrom

/-- A write of EVT_TICK_CFG. -/
def tickCfgWrite (v : BitVec 32) (t : TimeEvt) : TimeEvt :=
  if bit t.tickCfg 6 then { t with tickCfg := v &&& 0x7F#32 } else ({ t with tickCfg := v &&& 0x7F#32 }).tickFrom

end Sys2Proof.Machine
end

