-- ==== Sys2Proof/Machine/BondRole.lean ====
section
/-! DEFINITION. The pair's roles: wingbeats, lost partners, demotion and promotion, and the frames of the chain that carry
wingbeats (R460 to R462, R464, R479 to R482). -/

namespace Sys2Proof.Machine

/-! ### Chain frames (R460, R461) -/

/-- One bit of CRC-8, polynomial 7. -/
def crcBit (c : Nat) (b : Bool) : Nat :=
  let top := c.testBit 7 != b
  let d := 2 * c % 256
  if top then d ^^^ 7 else d

/-- CRC-8 over bits 63 down to 8 of a frame. -/
def crc8 (f : BitVec 64) : Nat := (List.range 56).foldl (fun c i => crcBit c (bit f (63 - i))) 0

/-- A frame, with its CRC. -/
def mkFrame (type src dst : Nat) (bcast : Bool) (sub hop payload : Nat) : BitVec 64 :=
  let f : BitVec 64 :=
    BitVec.ofNat 64 (2 ^ 8 * (payload % 2 ^ 32) + 2 ^ 44 * (hop % 16) + 2 ^ 48 * (sub % 8) + 2 ^ 51 * b2n bcast + 2 ^ 52 * (dst % 16)
      + 2 ^ 56 * (src % 16) + 2 ^ 60 * (type % 16))
  setFld f 0 8 (crc8 f)

/-- TYPE. -/
def fType (f : BitVec 64) : Nat := fld f 60 4
/-- SRC. -/
def fSrc (f : BitVec 64) : Nat := fld f 56 4
/-- DST. -/
def fDst (f : BitVec 64) : Nat := fld f 52 4
/-- BCAST. -/
def fBcast (f : BitVec 64) : Bool := bit f 51
/-- SUB. -/
def fSub (f : BitVec 64) : Nat := fld f 48 3
/-- HOP. -/
def fHop (f : BitVec 64) : Nat := fld f 44 4
/-- PAYLOAD. -/
def fPay (f : BitVec 64) : Nat := fld f 8 32
/-- The CRC holds. -/
def fOk (f : BitVec 64) : Bool := decide (fld f 0 8 = crc8 f)

/-- Change the chain. -/
def State.updChain (s : State) (f : Chain → Chain) : State := { s with chain := f s.chain }

/-- Queue a frame at CHAIN_OUT; a SLOT goes ahead of every other but an earlier SLOT (R462, R469). -/
def chainPush (f : BitVec 64) (s : State) : State :=
  s.updChain fun c =>
    { c with
      txq :=
        if fType f = 3 then c.txq.takeWhile (fun g => fType g = 3) ++ f :: c.txq.dropWhile (fun g => fType g = 3) else c.txq ++ [f] }

/-! ### Roles -/

/-- Change the bond link's state. -/
def State.updBond (s : State) (f : Bond → Bond) : State := { s with bond := f s.bond }

/-- The first roles of a pair (R464): by the TWIN_ROLE straps, or by address when they agree. -/
def firstRole (partnerStrap : Bool) (s : State) : State :=
  if s.bond.roleSet then s
  else
    let mine := bit s.sec.straps 2
    let active := if mine == partnerStrap then decide (s.chain.addr.toNat % 2 = 0) else mine
    s.updBond fun b =>
      { b with
        roleSet := true
        active := active
        partnerActive := !active
        roleConflict := b.roleConflict || mine == partnerStrap
        now := b.now.note 5 (mine == partnerStrap) }

/-- The device has a partner, of the TWIN_ROLE strap given (R464): the pair's first roles are settled, and its wingbeats begin with the
next period (R479). -/
def partnerFound (strap : Bool) (s : State) : State :=
  if s.bond.paired then s
  else
    (firstRole strap s).updBond fun b =>
      { b with
        paired := true
        wbAt := s.te.time / 10000 + 1
        wbEnd := s.te.time / 10000 + 1 }

/-- The word of a wingbeat (R461). -/
def wingWord (b : Bond) : Nat := b.roleEpoch.toNat + 256 * b2n b.active + 512 * b2n b.synced + 65536 * b.wbSent.toNat

/-- A chain wingbeat to the partner. -/
def chainWing (s : State) : State :=
  if s.chain.assigned then
    chainPush (mkFrame 4 s.chain.addr.toNat (s.chain.addr.toNat ^^^ 1) false 0 0 (wingWord s.bond)) s
  else s

/-- Operations of a CTRL frame, in its ADDR: 1 RELINQUISH, 2 TAKEOVER with the epoch from bit 8 up. -/
def ctrlAddr (op : Nat) (epoch : BitVec 8) : BitVec 64 := BitVec.ofNat 64 (op + 256 * epoch.toNat)

/-- Every ring is stopped as by STOP. -/
def stopAllRings (s : State) : State := (s.dma.rings.map (·.1)).foldl (fun z n => ringHalt n z) s

/-- The rings as a standby shows them: OFF (R477). -/
def Dma.asStandby (d : Dma) : Dma := { d with rings := smap (fun _ => RingLive.reset) (fun _ r => { r with state := 0, cause := 0 }) d.rings }

/-- The device's own rings are OFF, one whose descriptor is in progress aside (R477). -/
def State.ringsOff (s : State) : State :=
  { s with
    dma := { s.dma with
      rings := smap (fun _ => RingLive.reset) (fun _ r => if r.state = 3 then r else { r with state := 0, cause := 0 }) s.dma.rings } }

/-- The mirrors that `p` picks end, their read entries released. -/
def endMirrorsIf (p : Mirror → Bool) (s : State) : State :=
  let s1 := (s.bond.mirrors.filter p).foldl (fun (z : State) m =>
    if m.entered && !m.left.isEmpty then z.updTs m.tile fun ts => ts.retire 6 m.urgent m.ranges else z) s
  s1.updBond fun b => { b with mirrors := b.mirrors.filter fun m => !p m }

/-- Every mirror in progress ends. -/
def endMirrors (s : State) : State := endMirrorsIf (fun _ => true) s

/-- An active device demotes (R482). -/
def demote (epoch : BitVec 8) (s : State) : State :=
  ((endMirrors (stopAllRings s).ringsOff).updBond fun b =>
    { b with
      active := false
      synced := false
      split := true
      now := b.now.note 7 true
      roleEpoch := epoch
      tkoWait := []
      relinquishing := false
      resync := none }).devSource srcSplit

/-- A partner claims to be active in epoch `e`: an active device behind it demotes, a standby follows it (R479, R482). -/
def hearActive (e : BitVec 8) (s0 : State) : State :=
  let s := s0.updBond fun b => { b with partnerActive := true }
  let d := (e - s.bond.roleEpoch).toNat
  if d = 0 || d ≥ 128 then s
  else if s.bond.active then demote e s
  else s.updBond fun b => { b with roleEpoch := e }

/-- SYNCED follows the partner's: it sets when the active partner's wingbeats begin to show it, and clears when the partner's stop
showing it, as a change of a window makes them do (R461, R483, R485). -/
def followSync (w : BitVec 32) (b : Bond) : Bond :=
  { b with
    partnerSynced := bit w 9
    synced := (b.synced && (bit w 9 || !b.partnerSynced)) || (bit w 8 && !b.active && bit w 9 && !b.partnerSynced) }

/-- A wingbeat of the partner has come, by the chain or by the bond link (R461, R479, R483). -/
def hearWing (chain : Bool) (w : BitVec 32) (s : State) : State :=
  if !s.bond.paired then s
  else
    let s1 := s.updBond fun b =>
      { b with
        partnerLost := false
        partnerActive := bit w 8
        wbChain := b.wbChain || chain
        wbBond := b.wbBond || !chain }
    (if bit w 8 then hearActive (w.extractLsb' 0 8) s1 else s1).updBond (followSync w)

/-! ### Promotion (R480) -/

/-- The mirrored queues become the device's own. -/
def adoptQueues (s : State) : State :=
  s.bond.cqs.foldl (fun (z : State) e => z.updCq e.1 fun _ => e.2) s

/-- A held record is among the last min(64, size − 1) before its queue's TAIL. -/
def heldRecent (s : State) (h : HeldRecord) : Bool :=
  let q := s.dma.cqOf h.cq
  let back := (q.tail.toNat + q.size - h.slot.toNat) % q.size
  decide (1 ≤ back) && decide (back ≤ min 64 (q.size - 1))

/-- Records kept by the standby are due to be written again, in DSEQ order: those among their queue's last (R480). -/
def rewriteDue (s : State) : State :=
  s.updBond fun b => { b with rewrite := b.held.reverse.filter fun h => heldRecent s h }

/-- Rings that ran at the active device are initialised from their mirrored contexts. -/
def adoptRings (s : State) : State :=
  s.bond.ctxs.foldl (fun (z : State) e =>
    let st := (kget z.bond.ringStates e.1).getD 0
    if st = 1 || st = 2 || st = 3 then
      ringOp (.init e.1) none (State.ddrWriteLines none 65 (ctxAt z e.1) (unpackBytes 64 e.2.toNat) z)
    else z) s

/-- The standby promotes. -/
def promote (s : State) : State :=
  let last := s.dma.dseqLast
  let s1 := (s.updBond fun b =>
    { b with
      roleEpoch := b.roleEpoch + 1
      active := true
      synced := false
      takeover := true
      now := b.now.note 6 true
      suspended := b.partnerLost || !b.linkUp }).devSource srcTakeover
  let s2 := chainWing (s1.bondSend bCtrl 0 (ctrlAddr 2 s1.bond.roleEpoch) [])
  let s3 := rewriteHeld (rewriteDue (adoptQueues s2))
  let s4 := takeoverRecords { s3 with
    dma := { s3.dma with dseq := last }
    bond := { s3.bond with tkoLast := last, tkoWait := (List.range 1024).filter fun q => (s3.dma.cqOf q).en } }
  let s5 := adoptRings s4.ringsOff
  let s6 := if s5.sec.life = .imago then releaseAll s5 else s5
  if s6.bond.tkoEvtEn then s6.pulse (lineMask s6.bond.tkoEvt.toNat) else s6

/-- Mirroring is suspended: steps complete and records are written without acknowledgements; mirrors already past their
step end (R479). -/
def suspend (s : State) : State :=
  (endMirrorsIf (fun m => m.past) s).updBond fun b =>
    { b with
      suspended := true
      synced := false
      resync := none }

/-- PROMOTE (R480): BOND_CMD.OP = 1. -/
def bondPromote (s : State) : State :=
  if standby s && s.bond.synced && !s.flt.devFault then promote s else s

/-- Wingbeats are sent and judged: the device has a partner and no fault (R479, R536). -/
def winging (s : State) : Bool := s.bond.paired && !s.flt.devFault && s.te.running

/-- WINGBEAT_SEND (R479): TIME has reached a multiple of 10,000 ns; a wingbeat goes out on both paths. -/
def execWingbeatSend (s : State) : Out :=
  if winging s && s.te.time ≥ 10000 * s.bond.wbAt then
    let s1 := s.updBond fun b =>
      { b with
        wbSent := b.wbSent + 1
        wbAt := s.te.time / 10000 + 1 }
    let s2 := chainWing s1
    .next (if s2.bond.linkUp then s2.bondSend bWing 0 (BitVec.ofNat 64 (wingWord s2.bond)) [] else s2)
  else .next s

/-- The partner is found lost (R479). -/
def partnerGone (s : State) : State :=
  let s1 := if s.bond.partnerLost then s else (s.updBond fun b => { b with partnerLost := true }).devSource srcPartnerLost
  if s1.bond.active then suspend s1
  else if s1.bond.synced then promote s1
  else s1

/-- WINGBEAT_PERIOD_END (R479): the 10 µs period ends; misses are counted, and the partner or the link is found lost after
three. -/
def execWingbeatPeriodEnd (s : State) : Out :=
  if winging s && s.te.time ≥ 10000 * s.bond.wbEnd then
    let miss := !s.bond.wbChain && !s.bond.wbBond
    let s1 := s.updBond fun b =>
      { b with
        wbMissCnt := if miss then satAdd32 b.wbMissCnt 1 else b.wbMissCnt
        missed := if miss then b.missed + 1 else 0
        downFor := if b.linkUp then 0 else b.downFor + 1
        wbChain := false
        wbBond := false
        wbEnd := s.te.time / 10000 + 1 }
    if s1.bond.missed ≥ 3 then .next (partnerGone s1)
    else if s1.bond.downFor ≥ 3 && s.bond.wbChain then
      .next (if s1.bond.active then suspend s1 else s1.updBond fun b => { b with synced := false })
    else .next s1
  else .next s

/-- PROMOTE. -/
def execPromote (who : Who) (s : State) : Out := .next (regWrite who .bond .yes bondPromote s)

end Sys2Proof.Machine
end

