-- ==== Sys2Proof/Machine/ChainOps.lean ====
section
/-! DEFINITION. The Cucon chain: addressing, time frames, messages and the CHAIN_ registers (R460 to R470, R484). -/

namespace Sys2Proof.Machine

/-- The chain's clock runs. -/
def chainOn (s : State) : Bool := s.te.running && s.alive

/-- A frame is discarded and counted. -/
def chainDrop (s : State) : State := s.updChain fun c => { c with dropCnt := satAdd32 c.dropCnt 1 }

/-- A received frame goes on with HOP + 1, or is discarded at HOP 15 (R462). -/
def chainForward (f : BitVec 64) (s : State) : State :=
  if fHop f = 15 then chainDrop s
  else
    let s1 := chainPush (mkFrame (fType f) (fSrc f) (fDst f) (fBcast f) (fSub f) (fHop f + 1) (fPay f)) s
    if fType f = 3 then s1.updChain fun c => { c with idleFrom := none } else s1

/-- What a device does with a frame (R462): `own` when it has gone round, `take` when it is consumed. -/
def chainHandle (f : BitVec 64) (own take : State → State) (s : State) : State :=
  let a := s.chain.addr.toNat
  if s.chain.assigned && fSrc f = a then own s
  else if s.chain.assigned && !fBcast f && fDst f = a then take s
  else if fBcast f then chainForward f (take s)
  else chainForward f s

/-- A frame of the type is received with its CRC good. -/
def chainGood (type : Nat) (f : BitVec 64) (s : State) : Bool := chainOn s && decide (fType f = type) && fOk f

/-- A frame whose CRC fails, or whose type is 0 or 6 to 15, is discarded and counted (R461, R462). -/
def badFrame (f : BitVec 64) (s : State) : State :=
  if !chainOn s then s
  else if !fOk f then s.updChain fun c => { c with crcCnt := satAdd32 c.crcCnt 1 }
  else if fType f = 0 || fType f ≥ 6 then chainDrop s
  else s

/-- A LOOP round begins at the head (R467); its PAYLOAD is set when it leaves. -/
def loopRound (s : State) : State :=
  if s.chain.head && s.chain.assigned && s.chain.size ≠ 0 then
    chainPush (mkFrame 2 0 0 true 0 0 0) { s with cal := { s.cal with loopLast := s.te.time } }
  else s

/-- Addressing has ended, well or not, and the bond link of a device with a partner is trained: in LARVA the console tells once that item 6
ends (R492, R502). -/
def addressed (s : State) : State :=
  if s.sec.life = .larva && !s.sec.bootFail && !s.sec.console.contains (.itemEnd 6) && (!s.bond.paired || s.bond.linkUp) then itemEnd 6 s
  else s

/-- Item 6 goes on: no boot error has stopped LARVA (R492, R501). -/
def linking (s : State) : Bool := chainOn s && !s.sec.bootFail

/-- ASSIGN leaves the head. -/
def sendAssign (s : State) : State :=
  (chainPush (mkFrame 1 0 0 true 0 0 1) s).updChain fun c =>
    { c with
      assignOut := c.assignOut + 1
      assignLast := s.te.time }

/-- Addressing has failed: the device has no chain address and no partner (R464, R492). -/
def noAddress (s : State) : State :=
  addressed ((s.updChain fun c => { c with assigned := false }).updBond fun b => { b with paired := false, linkUp := false })

/-- Whether the head has a partner, of the strap given, in a chain of `n` devices (R464). -/
def headPaired (n : Nat) (strap : Bool) (s : State) : State :=
  if 1 < n then partnerFound strap s else s.updBond fun b => { b with paired := false, linkUp := false }

/-- The head's ASSIGN has come back with the chain's size: addressing ends, and H is measured (R463, R464, R467). -/
def assignBack (n : Nat) (strap : Bool) (s : State) : State :=
  let s1 := s.updChain fun c => { c with assignOut := c.assignOut - 1, broken := false }
  if s.chain.size ≠ 0 || s.chain.dupHead || s.chain.oversize then s1
  else if n > 16 then noAddress (s1.updChain fun c => { c with oversize := true })
  else
    loopRound (addressed (headPaired n strap (s1.updChain fun c =>
      { c with
        assigned := true
        size := BitVec.ofNat 5 n
        slotSent := s.te.time + 1
        slotSeen := s.te.time })))

/-- A device takes address `p` (R463): an odd one has a partner, which has taken the address before it, an even one where the chain has a
device after it (R464). -/
def takeAddress (p : Nat) (mark : AssignMark) (s : State) : State :=
  let s1 := s.updChain fun c =>
    { c with
      addr := BitVec.ofNat 4 p
      assigned := true
      slotSeen := s.te.time }
  if p % 2 = 1 || mark.partner then addressed (partnerFound mark.strap s1) else addressed s1

/-- CHAIN_ASSIGN_RX (R462, R463): `mine` says whether the frame is one that this head sent, and what the partner is. A device that a boot
error has stopped takes no part in addressing and handles the frame as any other (R492, R501). -/
def execChainAssignRx (f : BitVec 64) (mine : AssignMark) (s : State) : Out :=
  let c := s.chain
  if !chainGood 1 f s then .next (badFrame f s)
  else if s.sec.bootFail then .next (chainHandle f id id s)
  else if c.head then
    if mine.mine && c.assignOut > 0 then .next (assignBack (fPay f) mine.strap s)
    else if fSrc f ≠ 0 then .next (chainHandle f id id s)
    else .next (if s.chain.size ≠ 0 then s.updChain fun c => { c with dupHead := true }
      else noAddress (s.updChain fun c => { c with dupHead := true }))
  else if c.assigned then .next (chainHandle f id id s)
  else if fPay f ≥ 16 then
    .next (chainPush (mkFrame 1 (fSrc f) (fDst f) (fBcast f) (fSub f) (min 15 (fHop f + 1)) 0xFFFFFFFF)
      (addressed (s.updChain fun c => { c with oversize := true })))
  else
    .next (chainForward (mkFrame 1 (fSrc f) (fDst f) (fBcast f) (fSub f) (fHop f) (fPay f + 1)) (takeAddress (fPay f) mine s))

/-- CHAIN_ASSIGN_REPEAT (R463): 1 ms has passed since the last ASSIGN and none has come back. -/
def execChainAssignRepeat (s : State) : Out :=
  .next (if linking s && s.chain.head && s.chain.size = 0 && !s.chain.oversize && !s.chain.dupHead
      && s.te.time ≥ s.chain.assignLast + 1000000 then sendAssign s else s)

/-- CHAIN_ASSIGN_TIMEOUT (R463): no ASSIGN has come back for 10 ms. -/
def execChainAssignTimeout (s : State) : Out :=
  .next (if linking s && s.chain.head && s.chain.size = 0 && !s.chain.oversize
      && s.te.time ≥ s.chain.assignFrom + 10000000 then noAddress (s.updChain fun c => { c with broken := true }) else s)

/-- The head has its LOOP back (R467): H follows from R, and goes round as SUB 1. -/
def loopBack (f : BitVec 64) (s : State) : State :=
  let n := s.chain.size.toNat
  if n = 0 then s
  else
    let r : Nat := (s.te.time + 2 ^ 32 - fPay f) % 2 ^ 32
    let x : Int := (r : Int) - 272 * ((n : Int) - 1)
    let h := wrap 16 ((2 * x + n) / (2 * (n : Int)))
    chainPush (mkFrame 2 0 0 true 1 0 h) (s.updChain fun c => { c with roundR := BitVec.ofNat 16 r })

/-- LOOP SUB 1 is consumed: CHAIN_HOP_NS takes H and R; the head has R from its own measurement, and any other device from beside the frame
(log entry 52). -/
def hopSet (f : LoopFrame) (s : State) : State :=
  s.updChain fun c => { c with hopH := BitVec.ofNat 16 (fPay f.frame), hopR := if c.head then c.roundR else f.r }

/-- CHAIN_LOOP_RX (R462, R467). -/
def execChainLoopRx (x : LoopFrame) (s : State) : Out :=
  let f := x.frame
  if !chainGood 2 f s then .next (badFrame f s)
  else
    .next (chainHandle f
      (fun z => if !z.chain.head then z else if fSub f = 0 then loopBack f z else if fSub f = 1 then hopSet x z else z)
      (fun z => if fSub f = 1 then hopSet x z else z) s)

/-- The path delay P_k of the device (R466). -/
def pathDelay (c : Chain) : Nat := c.addr.toNat * c.hopH.toNat + (c.addr.toNat - 1) * 272

/-- The value nearest to `x` whose low 32 bits are `low` (R466). -/
def nearestLow (x : Int) (low : Nat) : Int :=
  let m : Int := 2 ^ 32
  let d := (x - low) / m
  let y := low + d * m
  if x - y ≤ y + m - x then y else y + m

/-- The head's own SLOT has gone round the ring: it is removed, and the ring is whole (R462, R469). -/
def slotBack (s : State) : State := s.updChain fun c => { c with slotSeen := s.te.time, broken := false }

/-- A SLOT is consumed: with SRC = 2 its measurement is acted on (R420, R466). -/
def slotTake (f : BitVec 64) (s : State) : State :=
  let s1 := slotBack s
  if s.te.src = 2 && s.chain.assigned then
    let c : Int := s.te.time
    let p : Int := pathDelay s.chain
    timeMeasure (nearestLow (c - p) (fPay f) + p + s.chain.skew.toInt - c) s1
  else s1

/-- CHAIN_SLOT_RX (R462, R466, R469). -/
def execChainSlotRx (f : BitVec 64) (s : State) : Out :=
  if chainGood 3 f s then .next (chainHandle f slotBack (slotTake f) s) else .next (badFrame f s)

/-- CHAIN_WINGBEAT_RX (R461, R462, R479, R482). -/
def execChainWingbeatRx (f : BitVec 64) (s : State) : Out :=
  if chainGood 4 f s then
    .next (chainHandle f id
      (fun z => if fSrc f = z.chain.addr.toNat ^^^ 1 then hearWing true (BitVec.ofNat 32 (fPay f)) z else z) s)
  else .next (badFrame f s)

/-- A MSG is consumed (R470). -/
def msgTake (f : BitVec 64) (s : State) : State :=
  if s.chain.rx.length ≥ 16 then chainDrop s
  else
    let s1 := s.updChain fun c => { c with rx := c.rx ++ [f] }
    if s.chain.msgEvtEn then s1.pulse (lineMask s.chain.msgEvt.toNat) else s1

/-- CHAIN_MSG_FRAME_RX (R462, R470). -/
def execChainMsgFrameRx (f : BitVec 64) (s : State) : Out :=
  if chainGood 5 f s then .next (chainHandle f id (msgTake f) s) else .next (badFrame f s)

/-- CHAIN_BAD_FRAME_RX (R461, R462). -/
def execChainBadFrameRx (f : BitVec 64) (s : State) : Out := .next (badFrame f s)

/-- The frame as it leaves: a LOOP of SUB 0 that the head starts carries its TIME at the start bit (R461). -/
def stampFrame (s : State) (f : BitVec 64) : BitVec 64 :=
  if s.chain.head && fType f = 2 && fSub f = 0 && fSrc f = 0 then mkFrame 2 0 0 true 0 0 s.te.time else f

/-- CHAIN_FRAME_TX (R462, R469): the frame in front leaves, unless CHAIN_OUT is held idle for a SLOT. -/
def execChainFrameTx (s : State) : Out :=
  if !chainOn s then .next s
  else
    match s.chain.txq with
    | [] => .next s
    | f :: r =>
      let held := match s.chain.idleFrom with
        | some t => fType f ≠ 3 && decide (s.te.time < t + 1000)
        | none => false
      if held then .next s
      else .next (s.updChain fun c => { c with txq := r, sent := stampFrame s f :: c.sent, idleFrom := none })

/-- CHAIN_SLOT_SEND (R466): the head's TIME has reached a slot boundary. -/
def execChainSlotSend (s : State) : Out :=
  match lastBoundary s.te.period.toNat s.te.phase.toNat s.te.time with
  | some b =>
    if chainOn s && s.chain.head && s.chain.assigned && s.chain.size ≠ 0 && s.chain.slotSent ≤ b then
      .next (chainPush (mkFrame 3 0 0 true 0 0 b) (s.updChain fun c => { c with slotSent := b + 1 }))
    else .next s
  | none => .next s

/-- CHAIN_SLOT_IDLE (R469): a SLOT is expected within 400 ns. -/
def execChainSlotIdle (s : State) : Out :=
  let p := pathDelay s.chain
  match lastBoundary s.te.period.toNat s.te.phase.toNat (s.te.time + 400 - p) with
  | some b =>
    if chainOn s && !s.chain.head && s.chain.assigned && p ≤ s.te.time + 400 && s.chain.idleDone ≤ b && s.te.time ≤ b + p then
      .next (s.updChain fun c => { c with idleFrom := some s.te.time, idleDone := b + 1 })
    else .next s
  | none => .next s

/-- CHAIN_SLOT_TIMEOUT (R469): the device has received no SLOT for 3 slot periods. -/
def execChainSlotTimeout (s : State) : Out :=
  .next (if chainOn s && s.te.time ≥ s.chain.slotSeen + 3 * s.te.period.toNat then
    s.updChain fun c => { c with broken := true }
  else s)

/-- A write of CHAIN_CTRL. -/
def chainCtrlWrite (v : BitVec 32) (s : State) : State :=
  let s1 := s.updChain fun c => { c with msgEvt := v.extractLsb' 0 6, msgEvtEn := bit v 6 }
  if bit v 7 then loopRound s1 else s1

/-- CHAIN_LOOP_START: a write of CHAIN_CTRL. -/
def execChainLoopStart (who : Who) (value : BitVec 32) (s : State) : Out :=
  .next (regWrite who .always .no (chainCtrlWrite value) s)

/-- MSG frames of this device that wait. -/
def msgQueued (c : Chain) : Nat := (c.txq.filter fun f => fType f = 5 && fSrc f = c.addr.toNat).length

/-- A write of CHAIN_MSG_TX, whole or by halves: the high half sends the frame. -/
def msgTxWrite (lo hi : Option (BitVec 32)) (s : State) : State :=
  let s1 := match lo with
    | some v => s.updChain fun c => { c with msgTxLow := v &&& 0xFF#32 }
    | none => s
  match hi with
  | none => s1
  | some p =>
    if msgQueued s1.chain ≥ 4 then chainDrop s1
    else
      let v := s1.chain.msgTxLow
      chainPush (mkFrame 5 s1.chain.addr.toNat (fld v 0 4) (bit v 4) (fld v 5 3) 0 p.toNat) s1

/-- CHAIN_MSG_TX_WRITE. -/
def execChainMsgTxWrite (who : Who) (lo hi : Option (BitVec 32)) (s : State) : Out :=
  .next (regWrite who .always .yes (msgTxWrite lo hi) s)

/-- A write of CHAIN_MSG_POP. -/
def msgPop (v : BitVec 32) (c : Chain) : Chain := if bit v 0 then { c with rx := c.rx.drop 1 } else c

/-- CHAIN_MSG_POP_WRITE. -/
def execChainMsgPopWrite (who : Who) (value : BitVec 32) (s : State) : Out :=
  .next (regWrite who .always .yes (fun z => z.updChain (msgPop value)) s)

/-- A write of CHAIN_CNT_CLR. -/
def chainCntClr (v : BitVec 32) (c : Chain) : Chain :=
  { c with
    crcCnt := if bit v 0 then 0 else c.crcCnt
    dropCnt := if bit v 1 then 0 else c.dropCnt
    now := c.now.zeroed v }

/-- The counters as they read: events of the cycle in which they were cleared are not counted (R485). -/
def Chain.settle (c : Chain) : Chain := chainCntClr c.now.clr c

/-- CHAIN_CNT_CLR. -/
def execChainCntClr (who : Who) (value : BitVec 32) (s : State) : Out :=
  .next (regWrite who .always .yes (fun z => z.updChain (chainCntClr value)) s)

/-- CHAIN_STATUS. -/
def Chain.status (c : Chain) : Nat :=
  c.addr.toNat + 16 * c.size.toNat + 512 * b2n c.head + 1024 * b2n c.assigned + 2048 * b2n c.broken + 4096 * b2n c.oversize
    + 8192 * b2n c.dupHead

/-- CHAIN_MSG_RX: the oldest entry. -/
def Chain.msgRx (c : Chain) : Nat :=
  match c.rx with
  | [] => 0
  | f :: _ => fSrc f + 16 * b2n (fBcast f) + 32 * fSub f + 256 + 2 ^ 32 * fPay f

/-- The CHAIN_ register at offset `o` of the block: its value and its width in bytes. -/
def Chain.readReg (c : Chain) (o : Nat) : Option (Nat × Nat) :=
  if o = 0x800 then some (c.status, 4)
  else if o = 0x804 then some (c.msgEvt.toNat + 64 * b2n c.msgEvtEn, 4)
  else if o = 0x808 then some (c.hopH.toNat + 65536 * c.hopR.toNat, 4)
  else if o = 0x80C then some (c.skew.toNat, 4)
  else if o = 0x810 then some (0, 8)
  else if o = 0x818 then some (c.msgRx, 8)
  else if o = 0x820 then some (0, 4)
  else if o = 0x824 then some (c.crcCnt.toNat, 4)
  else if o = 0x828 then some (c.dropCnt.toNat, 4)
  else if o = 0x82C then some (0, 4)
  else none

end Sys2Proof.Machine
end

