-- ==== Sys2Proof/Machine/BondLink.lean ====
section
/-! DEFINITION. The bond link: its frames, their order and replay, mirror reads, what the standby keeps, RELINQUISH and RESYNC,
and the BOND_ registers (R471 to R485). -/

namespace Sys2Proof.Machine

/-! ### Sending (R471, R472, R474) -/

/-- Frame `a` comes no later than `b`, modulo 2³². -/
def seqLe (a b : BitVec 32) : Bool := decide ((b - a).toNat < 2 ^ 31)

/-- A frame takes a number of its own. -/
def BondFrame.numbered (f : BondFrame) : Bool := f.type ≠ bAck && f.type ≠ bNak

/-- The partner has acknowledged every frame up to `q`. -/
def Bond.acked (b : Bond) (q : BitVec 32) : Bool := !((b.unacked ++ b.txq).any fun f => f.numbered && seqLe f.fseq q)

/-- Every frame has been acknowledged. -/
def Bond.quiet (b : Bond) : Bool := b.unacked.isEmpty && !(b.txq.any fun f => f.numbered)

/-- A mirror has read one course of its front range; a range whose last course has been read gives its entry up. -/
def mirrorPop (k : Nat) (m : Mirror) (s : State) : State :=
  let left := m.left.drop 1
  let rest := m.ranges.drop 1
  let done := decide (left.length ≤ (rest.map fun g => g.length).sum)
  let s1 := if done then s.updTs m.tile fun ts => ts.retire 6 m.urgent (m.ranges.take 1) else s
  s1.updBond fun b =>
    { b with
      mirrors := upd b.mirrors k fun m =>
        { m with
          left := left
          ranges := if done then rest else m.ranges
          lastSeq := if left.isEmpty then some (b.txSeq - 1) else none } }

/-- Cycles lost to bank arbitration by a mirror's read, of class 5 as the mortar send's (R47, R50, R474): charged to its step while
that has not completed. -/
def mirrorLost (m : Mirror) (lost : Nat) (s : State) : State :=
  if m.past then lostCycles m.tile lost s else charge m.tile m.urgent false ⟨lost, 0, 0, 0, 0, 0, 0⟩ s

/-- Mirror `k` reads its next course, as source 5, and queues it as an MWR. -/
def mirrorRead (k : Nat) (m : Mirror) (lost : Nat) (s0 : State) : State :=
  match m.left with
  | [] => s0
  | (c, w) :: _ =>
    let s := mirrorLost m lost s0
    let x := (s.tile m.tile).ts.readCourse c
    let s1 := (s.updTs m.tile fun ts => ts.countOff x.off).tsPerr m.tile c x.bad 5
    if x.bad.isEmpty then mirrorPop k m (s1.bondSend bMwr w (BitVec.ofNat 64 c) (unpackBytes 128 x.data))
    else if m.past then mirrorPop k m s1
    else stepFault m.tile m.urgent stParity s1

/-- Mirror `k` takes its turn: it takes its read entries if it has none, and reads. -/
def mirrorTurn (k lost : Nat) (s : State) : State :=
  match s.bond.mirrors[k]? with
  | none => s
  | some m =>
    if !mirrorOn s || !s.tileLive m.tile then s
    else if m.entered then mirrorRead k m lost s
    else if !m.copy || !(s.tile m.tile).ts.mayIssue 6 m.urgent m.ranges then s
    else
      let s1 := (s.updTs m.tile fun ts => ts.issue 6 m.urgent m.ranges).updBond fun b =>
        { b with mirrors := upd b.mirrors k fun m => { m with entered := true } }
      mirrorRead k { m with entered := true } lost s1

/-- The bond link carries frames. -/
def bondOn (s : State) : Bool := s.bond.linkUp && s.alive && !s.gated .bond

/-- A frame's line of DDR5 has still to be read (R356, R473). -/
def mirrorReads (s : State) (f : BondFrame) : Bool :=
  decide (f.type = bMwr) && s.ddr.ch.any fun c => c.queue.any fun r => r.kind == .mirror f.fseq

/-- The frame in front leaves; with 256 frames unacknowledged, or while a line is still being read for the first numbered one, only an
ACK or NAK may. -/
def bondTx (s : State) : State :=
  let full := decide (s.bond.unacked.length ≥ 256)
    || match s.bond.txq.find? fun f => f.numbered with
      | some f => mirrorReads s f
      | none => false
  match s.bond.txq.findIdx? fun f => !full || !f.numbered with
  | none => s
  | some i =>
    match s.bond.txq[i]? with
    | none => s
    | some f =>
      s.updBond fun b =>
        { b with
          txq := b.txq.eraseIdx i
          unacked := if f.numbered then b.unacked ++ [f] else b.unacked
          sent := f :: b.sent }

/-- BOND_FRAME_TX (R471, R472, R474): a mirror reads its next course into a frame, after `lost` cycles of bank arbitration, or the
frame in front leaves. -/
def execBondFrameTx (pick : Option MirrorRead) (s : State) : Out :=
  match pick with
  | some m => .next (mirrorTurn m.mirror m.lost s)
  | none => .next (if bondOn s then bondTx s else s)

/-! ### Receiving (R472) -/

/-- A numbered frame is received: in order it is applied by `f` and acknowledged; one that fails its CRC is answered with a NAK;
one already received is acknowledged again; one beyond the expected is discarded. -/
def bondTake (fseq : BitVec 32) (crcOk : Bool) (f : State → State) (s : State) : State :=
  let want := s.bond.rxSeq
  if !bondOn s then s
  else if !crcOk then s.bondReply bNak want
  else if fseq = want then f ((s.updBond fun b => { b with rxSeq := want + 1 }).bondReply bAck want)
  else if seqLe fseq want then s.bondReply bAck (want - 1)
  else s

/-- An MWR at the standby goes to the same place here: a course of the window's tile as class 6, discarded if it shows a parity error
there, or a line of DDR5 past the cache (R473, R476, R527). -/
def mwrApply (win : Nat) (addr : BitVec 64) (payload : BitVec 1024) (met : EdgeMet) (s : State) : State :=
  let w := (kget s.bond.win win).getD ⟨0, 0⟩
  if !standby s then s
  else if w.space = 1 then
    if s.fencedTile w.tile then s
    else if s.gatedTile w.tile then s.countGated
    else if met.bad then countMorPerr s
    else
      s.updTs w.tile fun ts =>
        ({ ts with conflictCnt := satAdd32 ts.conflictCnt met.lost }).writeCourse (fld addr 0 15) payload false
  else if w.space = 2 then State.ddrWriteLines none 129 addr.toNat (unpackBytes 128 payload.toNat) s
  else s

/-- BOND_MWR_RX. -/
def execBondMwrRx (win : Nat) (fseq : BitVec 32) (addr : BitVec 64) (payload : BitVec 1024) (crcOk : Bool) (met : EdgeMet) (s : State) : Out :=
  .next (bondTake fseq crcOk (mwrApply win addr payload met) s)

/-- A ring's context has still to be read for a copy to the partner. -/
def copyPends (s : State) : Bool :=
  let isCopy (op : CtxOp) : Bool := match op with | .copy _ _ => true | _ => false
  s.dma.after.any isCopy || s.ddr.ch.any fun c => c.queue.any fun r => match r.kind with | .ctx op => isCopy op | _ => false

/-- A mirror has still courses to read. -/
def mirrorPends (s : State) : Bool := s.bond.mirrors.any fun m => !m.left.isEmpty

/-- A RESYNC ends when its last frame is acknowledged and no window or context is still being copied (R483). -/
def resyncCheck (s : State) : State :=
  match s.bond.resync with
  | some q =>
    if s.bond.acked q && !(s.bond.mirrors.any fun m => m.copy) && !copyPends s then
      s.updBond fun b => { b with synced := true, resync := none }
    else s
  | none => s

/-- What an acknowledgement of every frame up to `n` brings: frames are released, mirrors and records are acknowledged, a
RESYNC may end. -/
def ackUpTo (n : BitVec 32) (s : State) : State :=
  let s1 := s.updBond fun b => { b with unacked := b.unacked.filter fun f => !seqLe f.fseq n }
  resyncCheck (s1.updBond fun b =>
    { b with
      mirrors := (b.mirrors.map fun m =>
        { m with acked := m.acked || (match m.lastSeq with | some q => b.acked q | none => false) }).filter fun m => !(m.past && m.acked)
      stateWait := b.stateWait.map fun w => { w with acked := w.acked || b.acked w.fseq } })

/-- BOND_ACK_RX (R472). -/
def execBondAckRx (fseq : BitVec 32) (crcOk : Bool) (s : State) : Out :=
  if !bondOn s then .next s
  else if !crcOk then .next (s.bondReply bNak s.bond.rxSeq)
  else .next (ackUpTo fseq s)

/-- A NAK names the frame expected: those before it are acknowledged, those from it on are sent again; the eighth for one frame
retrains the link. -/
def nakTake (n : BitVec 32) (s : State) : State :=
  (ackUpTo (n - 1) s).updBond fun b =>
    let k := if b.nakSeq = n then b.nakCnt + 1 else 1
    { b with
      txq := b.unacked ++ b.txq
      unacked := []
      replayCnt := satAdd32 b.replayCnt 1
      nakSeq := n
      nakCnt := if k ≥ 8 then 0 else k
      linkUp := decide (k < 8) }

/-- BOND_NAK_RX (R472). -/
def execBondNakRx (fseq : BitVec 32) (crcOk : Bool) (s : State) : Out :=
  if !bondOn s then .next s
  else if !crcOk then .next (s.bondReply bNak s.bond.rxSeq)
  else .next (nakTake fseq s)

/-- BOND_LINK_TRAINED (R464, R472): the link of a device that has a partner comes up; roles not yet settled are; what is unacknowledged
goes again. -/
def execBondLinkTrained (partnerStrap : Bool) (s : State) : Out :=
  if s.bond.linkUp || !linking s || !s.bond.paired then .next s
  else
    .next (addressed ((firstRole partnerStrap s).updBond fun b =>
      { b with
        linkUp := true
        txq := b.unacked ++ b.txq
        unacked := []
        downFor := 0 }))

/-- BOND_LINK_DOWN (R479). -/
def execBondLinkDown (s : State) : Out := .next (s.updBond fun b => { b with linkUp := false })

/-- BOND_WINGBEAT_RX (R479, R482). -/
def execBondWingbeatRx (fseq word : BitVec 32) (crcOk : Bool) (s : State) : Out := .next (bondTake fseq crcOk (hearWing false word) s)

/-! ### What the standby keeps (R477, R478) -/

/-- The standby's copy of a ring's context. -/
def mirroredCtx (s : State) (n : Nat) : BitVec 512 := (kget s.bond.ctxs n).getD 0

/-- The standby's copy of a queue. -/
def mirroredCq (s : State) (n : Nat) : DmaCq := (kget s.bond.cqs n).getD .reset

/-- A STATE frame is kept: its record, its queue's place, and its ring's, which the active has stopped on SEQ_GAP, and on any error where
the context says so (R369, R384, R478). -/
def stateKeep (q : Nat) (p : BitVec 512) (s : State) : State :=
  if !standby s then s
  else
    let bits : BitVec 256 := p.extractLsb' 0 256
    let ring := fld bits 32 15
    let h : HeldRecord := ⟨q, p.extractLsb' 256 16, bits⟩
    let c0 := mirroredCtx s ring
    let c1 := setFld (setFld (setFld (setFld (setFld c0 96 16 (fld p 304 16)) 128 32 (fld p 320 32)) 160 32 (fld p 352 32))
      192 64 (fld p 384 64)) 256 32 (fld p 448 32)
    { s with
      bond := { s.bond with
        cqs := kset s.bond.cqs q { mirroredCq s q with tail := p.extractLsb' 272 16, phase := bit p 288 }
        ctxs := kset s.bond.ctxs ring c1
        ringStates := if fld bits 8 8 = 1 || fld bits 8 8 ≠ 0 && cStopErr c1 then kset s.bond.ringStates ring 4 else s.bond.ringStates
        held := (h :: s.bond.held).take 64 }
      dma := { s.dma with dseqLast := if s.dma.dseqLast < h.dseq then h.dseq else s.dma.dseqLast } }

/-- BOND_STATE_RX. -/
def execBondStateRx (fseq : BitVec 32) (queue : Nat) (payload : BitVec 512) (crcOk : Bool) (s : State) : Out :=
  .next (bondTake fseq crcOk (stateKeep (queue % 1024) payload) s)

/-- A CTX frame is kept: a ring's context with its state, or a queue's registers. -/
def ctxKeep (addr : BitVec 64) (p : BitVec 512) (s : State) : State :=
  if !standby s then s
  else if fld addr 32 1 = 0 then
    let n := fld addr 0 15
    s.updBond fun b => { b with ctxs := kset b.ctxs n p, ringStates := kset b.ringStates n (p.extractLsb' 288 3) }
  else
    s.updBond fun b =>
      { b with
        cqs := kset b.cqs (fld addr 0 10)
          { base := p.extractLsb' 0 64, cfg := p.extractLsb' 64 14, tail := p.extractLsb' 80 16, phase := bit p 96, head := p.extractLsb' 128 16 } }

/-- BOND_CTX_RX. -/
def execBondCtxRx (fseq : BitVec 32) (addr : BitVec 64) (payload : BitVec 512) (crcOk : Bool) (s : State) : Out :=
  .next (bondTake fseq crcOk (ctxKeep addr payload) s)

/-- BOND_RELINQUISH_RX (R480): the standby promotes. -/
def execBondRelinquishRx (fseq : BitVec 32) (crcOk : Bool) (s : State) : Out :=
  .next (bondTake fseq crcOk (fun z =>
    let z1 := z.updBond fun b => { b with partnerActive := false }
    if standby z && !z.flt.devFault then promote z1 else z1) s)

/-- BOND_TAKEOVER_RX (R482). -/
def execBondTakeoverRx (fseq : BitVec 32) (epoch : BitVec 8) (crcOk : Bool) (s : State) : Out :=
  .next (bondTake fseq crcOk (fun z => if z.bond.paired then hearActive epoch z else z) s)

/-! ### RELINQUISH and RESYNC (R481, R483) -/

/-- OP = 2 of BOND_CMD. -/
def bondRelinquish (s : State) : State :=
  if s.bond.paired && s.bond.active && s.bond.synced && !s.bond.relinquishing then
    (stopAllRings s).updBond fun b => { b with relinquishing := true }
  else s

/-- RELINQUISH. -/
def execRelinquish (who : Who) (s : State) : Out := .next (regWrite who .bond .yes bondRelinquish s)

/-- RELINQUISH_COMPLETE (R481): every descriptor in progress is through, everything to be copied has been read and sent, and every frame is
acknowledged. -/
def execRelinquishComplete (s : State) : Out :=
  if s.bond.relinquishing && (s.dma.ch.all fun c => c.work.isNone && c.recs.isEmpty) && s.bond.stateWait.isEmpty && s.bond.quiet
      && !mirrorPends s && !copyPends s then
    .next ((((endMirrors s).bondSend bCtrl 0 (ctrlAddr 1 s.bond.roleEpoch) []).updBond fun b =>
      { b with
        active := false
        synced := false
        relinquishing := false
        resync := none }).ringsOff)
  else .next s

/-- The copy of a tile-store window. -/
def copyMirror (s : State) (n : Nat) (w : MirrorWindow) : Mirror :=
  let len := min w.len (32768 - w.start)
  { tile := w.tile, urgent := false, left := (List.range len).map fun i => (w.start + i, n)
    ranges := [{ start := w.start, length := len, write := false, carried := false }], count := len, since := s.te.time
    entered := false, lastSeq := none, lag := w.lag, past := true, acked := false, copy := true }

/-- One window is copied in full: a tile's courses by a mirror of no step, DDR5 lines as their channels
read them. -/
def copyWindow (e : Nat × MirrorWindow) (s : State) : State :=
  let w := e.2
  if w.len = 0 then s
  else if w.space = 1 then if s.fencedTile w.tile then s else s.updBond fun b => { b with mirrors := b.mirrors ++ [copyMirror s e.1 w] }
  else if w.space = 2 then
    (List.range' (2 * w.start) (2 * w.len)).foldl (fun z l =>
      if l < z.capLines then mirrorSend e.1 l z else z) s
  else s

/-- Every ring context and all queue state is copied, whatever BOND_CTRL.MIRROR_CQ says; a context that is not on chip is read first. -/
def copyState (s : State) : State :=
  let s1 := s.dma.rings.foldl (fun (z : State) e => ringOp (.copy e.1 true) none z) s
  s1.dma.cq.foldl (fun (z : State) e => sendCq e.1 e.2 z) s1

/-- OP = 3 of BOND_CMD. -/
def bondResync (s : State) : State :=
  if s.bond.paired && s.bond.active && s.bond.linkUp && !s.bond.partnerLost && !s.bond.partnerActive then
    let s1 := s.updBond fun b => { b with suspended := false, resync := some (b.txSeq - 1) }
    let s2 := copyState (s1.bond.win.foldl (fun z e => copyWindow e z) s1)
    resyncCheck (s2.updBond fun b => { b with resync := some (b.txSeq - 1) })
  else s

/-- RESYNC. -/
def execResync (who : Who) (s : State) : Out := .next (regWrite who .bond .yes bondResync s)

/-! ### BOND_ registers (R484, R485) -/

/-- A 64-bit register after a write of the halves given. -/
def halves (old : BitVec 64) (lo hi : Option (BitVec 32)) : BitVec 64 :=
  ((hi.getD (old.extractLsb' 32 32)).append (lo.getD (old.extractLsb' 0 32))).setWidth 64

/-- A write of BOND_MWIN_A[w] or BOND_MWIN_B[w]: a change while SYNCED clears SYNCED. -/
def mwinWrite (n : Nat) (b : Bool) (lo hi : Option (BitVec 32)) (s : State) : State :=
  let w := (kget s.bond.win n).getD ⟨0, 0⟩
  let w1 : MirrorWindow := if b then { w with b := halves w.b lo hi } else { w with a := halves w.a lo hi &&& 0x3FF#64 }
  if w1 = w then s
  else s.updBond fun x => { x with win := kset x.win n w1, synced := false }

/-- BOND_MWIN_WRITE. -/
def execBondMwinWrite (who : Who) (win : Nat) (b : Bool) (lo hi : Option (BitVec 32)) (s : State) : Out :=
  .next (if win < 64 then regWrite who .bond .no (mwinWrite win b lo hi) s else s)

/-- A write of BOND_CTRL. -/
def bondCtrlWrite (v : BitVec 32) (b : Bond) : Bond :=
  { b with
    mirrorCq := bit v 0
    tkoEvt := v.extractLsb' 1 6
    tkoEvtEn := bit v 7 }

/-- A write of BOND_STATUS: its CLR fields, unless an event of the same cycle sets them (R485). -/
def bondStatusWrite (v : BitVec 32) (b : Bond) : Bond :=
  { b with
    roleConflict := b.roleConflict && b.now.keeps v 5
    takeover := b.takeover && b.now.keeps v 6
    split := b.split && b.now.keeps v 7 }

/-- A write of BOND_CMD. -/
def bondCmdWrite (v : BitVec 32) (s : State) : State :=
  match fld v 0 2 with
  | 1 => bondPromote s
  | 2 => bondRelinquish s
  | 3 => bondResync s
  | _ => s

/-- A write of BOND_CNT_CLR. -/
def bondCntClr (v : BitVec 32) (b : Bond) : Bond :=
  { b with
    replayCnt := if bit v 0 then 0 else b.replayCnt
    wbMissCnt := if bit v 1 then 0 else b.wbMissCnt
    syncExcess := if bit v 2 then 0 else b.syncExcess
    now := b.now.zeroed v }

/-- The counters as they read: events of the cycle in which they were cleared are not counted (R485). -/
def Bond.settle (b : Bond) : Bond := bondCntClr b.now.clr b

/-- BOND_CNT_CLR. -/
def execBondCntClr (who : Who) (value : BitVec 32) (s : State) : Out :=
  .next (regWrite who .bond .yes (fun z => z.updBond (bondCntClr value)) s)

/-- BOND_STATUS. -/
def Bond.status (b : Bond) : Nat :=
  b2n b.paired + 2 * b2n b.active + 4 * b2n b.synced + 8 * b2n b.linkUp + 16 * b2n b.partnerLost + 32 * b2n b.roleConflict
    + 64 * b2n b.takeover + 128 * b2n b.split + 256 * b.roleEpoch.toNat

/-- The BOND_ register at offset `o`: its value and its width in bytes. -/
def Bond.readReg (b : Bond) (o : Nat) : Option (Nat × Nat) :=
  if o = 0x000 then some (b2n b.mirrorCq + 2 * b.tkoEvt.toNat + 128 * b2n b.tkoEvtEn, 4)
  else if o = 0x004 then some (b.status, 4)
  else if o = 0x008 then some (0, 4)
  else if o = 0x00C then some (b.replayCnt.toNat, 4)
  else if o = 0x010 then some (b.wbMissCnt.toNat, 4)
  else if o = 0x014 then some (b.syncExcess.toNat, 4)
  else if o = 0x018 then some (0, 4)
  else if 0x100 ≤ o && o < 0x500 && o % 8 = 0 then
    let w := (kget b.win ((o - 0x100) / 16)).getD ⟨0, 0⟩
    some (if o % 16 = 0 then w.a.toNat else w.b.toNat, 8)
  else none

end Sys2Proof.Machine
end

