-- ==== Sys2Proof/Machine/Calib.lean ====
section
/-! DEFINITION. Calibration: tasks, declared gaps, steals and the CAL_ registers (R512 to R523). -/

namespace Sys2Proof.Machine

/-- Calibration runs: CHRYSALIS has been entered and CAL_CTRL.EN is 1. -/
def calOn (s : State) : Bool := s.cal.started && s.cal.en && s.te.running

/-- Change channel `c`'s calibration state. -/
def State.updCal (s : State) (c : Nat) (f : CalChan → CalChan) : State := { s with cal := { s.cal with ch := upd s.cal.ch c f } }

/-- Channel `c`'s calibration state. -/
def State.calCh (s : State) (c : Nat) : CalChan := s.cal.ch.getD c .reset

/-- The channel can run tasks: neither in self-refresh, nor on its way out, nor gated (R514), nor failed (R536). -/
def calAble (s : State) (c : Nat) : Bool :=
  decide (c < 8) && !s.failedChan c && !(s.chan c).sr && (s.chan c).exiting.isNone && !s.gated (.ddr c)

/-- Duration of a task in ns. -/
def CalTask.len : CalTask → Nat
  | .retrain => 800 | .dqs => 200 | .temp => 100 | .zq => 500

/-- Period of a task in ns: RETRAIN has none. -/
def CalTask.period : CalTask → Nat
  | .retrain => 0 | .dqs => 1000000 | .temp => 1000000 | .zq => 128000000

/-- When a task became, or becomes, due. -/
def CalChan.dueAt (c : CalChan) : CalTask → Option Nat
  | .retrain => c.retrainDue | .dqs => some c.dqsDue | .temp => some c.tempDue | .zq => some c.zqDue

/-- The gap tasks in the order of R513. -/
def calOrder : List CalTask := [.retrain, .dqs, .temp, .zq]

/-- The tasks of a channel that are due and have not run since it was last free of tasks. -/
def CalChan.dueNow (c : CalChan) (now : Nat) : List CalTask :=
  calOrder.filter fun t => !c.ran.contains t && (match c.dueAt t with | some d => decide (d ≤ now) | none => false)

/-- A task that has not run since the channel was last free of tasks has been due for 2 ms (R520). -/
def CalChan.late (c : CalChan) (now : Nat) : Bool :=
  calOrder.any fun t => !c.ran.contains t && match c.dueAt t with | some d => decide (d + 2000000 ≤ now) | none => false

/-- How many ns are left in which a task on channel `c` has to end: in a steal 1.2 µs from its start, in gaps, which are judged against the
quoin's copy of TIME, up to 100 ns before the last of them ends (R513, R518, R520). -/
def calLimit (s : State) (c : Nat) : Option Nat :=
  if stolenNow s c then s.cal.stealing.map (· + 1200 - s.te.time)
  else
    match (s.cal.inGap.filter fun g => bit g.2.2 c).map fun g => g.2.1 with
    | [] => none
    | e :: r => some (r.foldl max e - 100 - s.te.quoinCopy)

/-- The first task due on channel `c` that fits starts, when none runs. -/
def calStart (c : Nat) (s : State) : State :=
  if !calOn s || !calAble s c || (s.calCh c).running.isSome then s
  else
    match calLimit s c with
    | none => s
    | some l =>
      match ((s.calCh c).dueNow s.te.time).find? fun t => decide (t.len ≤ l) with
      | some t => s.updCal c fun x => { x with running := some (t, s.te.time + t.len) }
      | none => s

/-- The channel is free of tasks again: those that have run fall due one period from now (R512). -/
def calFree (c : Nat) (s : State) : State :=
  let x := s.calCh c
  let next (t : CalTask) (old : Nat) : Nat := if x.ran.contains t then s.te.time + t.period else old
  let s1 := s.updCal c fun x =>
    { x with
      dqsDue := next .dqs x.dqsDue
      tempDue := next .temp x.tempDue
      zqDue := next .zq x.zqDue
      ran := [] }
  { s1 with cal := { s1.cal with overdue := setBit s1.cal.overdue c (bit s1.cal.overdue c && (s1.calCh c).late s.te.time) } }

/-- The sensors are read; THERM_WARN is set when the highest reaches 105 °C (R512, R539). -/
def dieTemp (hi lo : BitVec 8) (s : State) : State :=
  let warm := decide (s.cal.dieMax.toInt < 105) && decide (hi.toInt ≥ 105)
  let s1 := { s with
    cal := { s.cal with
      dieMax := hi
      dieMin := lo
      dieDue := s.te.time + 1000000 } }
  if warm then s1.devSource srcThermWarn else s1

/-- CAL_TASK_DUE (R512, R515): a gap task that falls due in a gap starts if it fits; the sensors are read; the monitor
oscillator's measurement begins, unless XTAL is the active source. -/
def execCalTaskDue (due : CalDue) (s : State) : Out :=
  match due with
  | .gap ch => .next (calStart ch s)
  | .dieTemp hi lo => .next (if calOn s && s.te.time ≥ s.cal.dieDue then dieTemp hi lo s else s)
  | .trim =>
    .next (if calOn s && s.te.time ≥ s.cal.trimDue && !s.cal.trimming && !s.clk.activeXtal then
      { s with cal := { s.cal with trimming := true } }
    else s)

/-! ### Gaps (R516 to R518) -/

/-- Writes of CAL_GAP take effect at the first slot boundary after them (R518). -/
def gapSettle (s : State) : State :=
  match lastBoundary s.te.period.toNat s.te.phase.toNat s.te.quoinCopy with
  | some b => if b > s.cal.gapAt then { s with cal := { s.cal with gapCur := s.cal.gap } } else s
  | none => s

/-- PHASE of a gap. -/
def gPhase (g : BitVec 64) : Nat := fld g 0 32
/-- LEN. -/
def gLen (g : BitVec 64) : Nat := fld g 32 16
/-- CH. -/
def gCh (g : BitVec 64) : BitVec 8 := g.extractLsb' 48 8

/-- A trim code is applied: the counter windows in progress, of the sources that show edges, are discarded (R437, R515). -/
def trimApply (s : State) : State :=
  let counting (xtal : Bool) : Bool := s.clk.srcState xtal = 1 || s.clk.srcState xtal = 2
  { s with cal := { s.cal with trimReady := false, windowSpoilt := [counting false, counting true] } }

/-- ns from now to the next slot boundary. -/
def toBoundary (s : State) : Nat :=
  let p := s.te.period.toNat
  match lastBoundary p s.te.phase.toNat s.te.time with
  | some b => b + p - s.te.time
  | none => s.te.phase.toNat - s.te.time

/-- The LOOP task at the start of a gap with CHAIN = 1 (R516). -/
def gapLoop (s : State) : State :=
  let ms := s.cal.loopMs.toNat
  if ms ≠ 0 && s.te.time ≥ s.cal.loopLast + 1000000 * ms && toBoundary s ≥ 20000 then loopRound s else s

/-- A gap is due to begin at `b`, of `len` ns (R517, R518): the quoin's copy of TIME has just reached `b`, which no forward step of TIME has
passed over. -/
def gapDue (b len : Nat) (t : TimeEvt) : Bool :=
  decide (t.quoinPrev < b) && decide (b ≤ t.quoinCopy) && decide (t.quoinCopy < b + len)
    && !(decide (t.stepFrom < b) && decide (b < t.stepTo))

/-- CAL_GAP_START (R512, R513, R515 to R518): entry `k` begins; while CAL_CTRL.EN is 1 a trim code or a LOOP round takes its place in
it, and on each channel the first task due that fits starts. -/
def execCalGapStart (k : Nat) (s0 : State) : Out :=
  let s := gapSettle s0
  let g := s.cal.gapCur.getD k 0
  match lastBoundary s.te.period.toNat (s.te.phase.toNat + gPhase g) s.te.quoinCopy with
  | some b =>
    if !s.te.running || k ≥ 8 || !bit g 56 || !gapDue b (gLen g) s.te || s.cal.inGap.contains (k, b + gLen g, gCh g) then .next s
    else
      let s1 := { s with cal := { s.cal with inGap := s.cal.inGap ++ [(k, b + gLen g, gCh g)] } }
      let s2 := if bit g 58 && calOn s && s.cal.trimReady then trimApply s1 else s1
      let s3 := if bit g 57 && calOn s then gapLoop s2 else s2
      .next ((List.range 8).foldl (fun z c => if bit (gCh g) c then calStart c z else z) s3)
  | none => .next s

/-- CAL_GAP_END (R517). -/
def execCalGapEnd (k : Nat) (s : State) : Out :=
  .next { s with cal := { s.cal with inGap := s.cal.inGap.filter fun e => !(e.1 == k && decide (e.2.1 ≤ s.te.quoinCopy)) } }

/-! ### The end of a task (R512, R513, R515) -/

/-- What a task of channel `c` leaves: a DQS that finds a drift makes RETRAIN due, if it is not yet; a RETRAIN that fails to re-centre the
channel is a device fault (R358, R535). -/
def taskEffect (c : Nat) (t : CalTask) (drift hot fails : Bool) (s : State) : State :=
  match t with
  | .retrain =>
    let s1 := s.updCal c fun x => { x with retrainDue := none }
    if fails then deviceFault 1 c s1 else s1
  | .dqs => if drift then s.updCal c fun x => { x with retrainDue := some (x.retrainDue.getD s.te.time) } else s
  | .temp => s.updChan c fun x => { x with hot := hot }
  | .zq => s

/-- RETRAIN may run again when a later DQS finds a drift; the others have run. -/
def taskRan (c : Nat) (t : CalTask) (s : State) : State :=
  s.updCal c fun x => { x with running := none, ran := if t = .retrain then x.ran else t :: x.ran }

/-- A task of channel `c` has ended: the next one starts, or, outside a steal, the channel is free of tasks. -/
def taskOver (c : Nat) (s : State) : State :=
  let s1 := calStart c s
  if (s1.calCh c).running.isSome || stolenNow s c then s1 else calFree c s1

/-- The TRIM measurement ends: the first sets MON_TRIMMED, a later one waits for a gap (R515). -/
def trimEnd (s : State) : State :=
  let s1 := { s with cal := { s.cal with trimming := false, trimDue := s.te.time + 100000000 } }
  if s.clk.activeXtal then s1
  else if s.clk.monTrimmed then { s1 with cal := { s1.cal with trimReady := true } }
  else trimApply (s1.updClk fun c => { c with monTrimmed := true })

/-- CAL_TASK_END (R512, R513, R515). -/
def execCalTaskEnd (done : CalEnd) (s : State) : Out :=
  match done with
  | .trim => .next (if calOn s && s.cal.trimming then trimEnd s else s)
  | .gap ch drift hot fails =>
    match (s.calCh ch).running with
    | some (t, e) =>
      if s.te.time ≥ e then .next (taskOver ch (taskEffect ch t drift hot fails (taskRan ch t s))) else .next s
    | none => .next s

/-! ### Steals (R520, R521) -/

/-- CAL_OVERDUE (R514, R520). -/
def execCalOverdue (ch : Nat) (s : State) : Out :=
  .next (if calOn s && calAble s ch && (s.calCh ch).late s.te.time then
    { s with cal := { s.cal with overdue := setBit s.cal.overdue ch true } }
  else s)

/-- Channel `c` may be stolen now. -/
def stealable (s : State) (c : Nat) : Bool :=
  bit s.cal.overdue c && calAble s c && (s.calCh c).running.isNone
    && (match (s.calCh c).stolenEnd with | some e => decide (s.te.time ≥ e + 2000000) | none => true)

/-- The channel to steal: the first at or after the one stolen last, A first when none has been. -/
def stealNext (s : State) : Option Nat :=
  let from_ := if s.cal.stolen then s.cal.stealCh.toNat else 0
  ((List.range 8).map fun i => (from_ + i) % 8).find? (stealable s)

/-- CAL_STEAL_START (R428, R520): CALIB_STEAL is set, the steal counted, and the first task due starts. -/
def execCalStealStart (ch : Nat) (s : State) : Out :=
  let rested := match s.cal.lastSteal with | some e => decide (s.te.time ≥ e + 50000) | none => true
  if calOn s && s.cal.stealEn && s.cal.stealing.isNone && rested && stealNext s = some ch then
    let s1 := { s with
      cal := { s.cal with
        stealing := some s.te.time
        stealCh := BitVec.ofNat 3 ch
        stolen := true } }
    let s2 := s1.updChan ch fun c => { c with queue := c.queue.map fun r => { r with stolen := true } }
    .next (calStart ch ((s2.updCal ch fun c => { c with stealCnt := satAdd32 c.stealCnt 1 }).devSource 84))
  else .next s

/-- CAL_STEAL_END (R520): every task that fits has run; the channel is released. -/
def execCalStealEnd (s : State) : Out :=
  let c := s.cal.stealCh.toNat
  if s.cal.stealing.isSome && (s.calCh c).running.isNone then
    let s1 := calFree c s
    .next ({ s1 with cal := { s1.cal with stealing := none, lastSteal := some s.te.time } }.updCal c
      fun x => { x with stolenEnd := some s.te.time })
  else .next s

/-! ### CAL_ registers (R522, R523) -/

/-- A write of CAL_CTRL: a TRIM measurement is given up with EN = 0, and is still due (R512). -/
def calCtrlWrite (v : BitVec 32) (c : Cal) : Cal :=
  { c with
    en := bit v 0
    trimming := c.trimming && bit v 0
    stealEn := bit v 1
    loopMs := v.extractLsb' 16 16 }

/-- A write of CAL_GAP[k]: a PHASE not below TIME_SLOT_PERIOD leaves EN at 0. -/
def calGapWrite (k : Nat) (lo hi : Option (BitVec 32)) (s0 : State) : State :=
  let s := gapSettle s0
  let g := halves (s.cal.gap.getD k 0) lo hi &&& 0x07FFFFFFFFFFFFFF#64
  let g1 := if gPhase g < s.te.period.toNat then g else setBit g 56 false
  { s with cal := { s.cal with gap := lput s.cal.gap k g1, gapAt := s.te.quoinCopy } }

/-- CAL_GAP_WRITE. -/
def execCalGapWrite (who : Who) (k : Nat) (lo hi : Option (BitVec 32)) (s : State) : Out :=
  .next (if k < 8 then regWrite who .always .yes (calGapWrite k lo hi) s else s)

/-- A write of CAL_CNT_CLR. -/
def calCntClr (v : BitVec 32) (c : Cal) : Cal :=
  { c with
    intrudeCnt := if bit v 0 then 0 else c.intrudeCnt
    ch := if bit v 1 then c.ch.map fun x => { x with stealCnt := 0 } else c.ch
    now := c.now.zeroed v }

/-- The counters as they read: events of the cycle in which they were cleared are not counted (R523). -/
def Cal.settle (c : Cal) : Cal := calCntClr c.now.clr c

/-- CAL_CNT_CLR. -/
def execCalCntClr (who : Who) (value : BitVec 32) (s : State) : Out :=
  .next (regWrite who .always .yes (fun z => { z with cal := calCntClr value z.cal }) s)

/-- CAL_STATUS. -/
def Cal.status (c : Cal) : Nat :=
  c.overdue.toNat + 256 * b2n c.stealing.isSome + 512 * c.stealCh.toNat
    + 65536 * (c.inGap.foldl (fun m g => m ||| g.2.2) (0 : BitVec 8)).toNat

/-- The CAL_ register at offset `o` of its block: its value and its width in bytes. -/
def Cal.readReg (c : Cal) (o : Nat) : Option (Nat × Nat) :=
  if o = 0x000 then some (b2n c.en + 2 * b2n c.stealEn + 65536 * c.loopMs.toNat, 4)
  else if o = 0x004 then some (c.status, 4)
  else if o = 0x008 then some (c.dieMax.toNat + 256 * c.dieMin.toNat, 4)
  else if o = 0x00C then some (c.intrudeCnt.toNat, 4)
  else if o = 0x010 then some (0, 4)
  else if 0x040 ≤ o && o < 0x080 && o % 8 = 0 then some ((c.gap.getD ((o - 0x40) / 8) 0).toNat, 8)
  else if 0x080 ≤ o && o < 0x0A0 && o % 4 = 0 then some (((c.ch.getD ((o - 0x80) / 4) .reset).stealCnt).toNat, 4)
  else none

end Sys2Proof.Machine
end

