-- ==== Sys2Proof/Machine/DdrServe.lean ====
section
/-! DEFINITION. DDR_REQUEST_SERVE: what a request of a DDR5 channel's queue brings when it is served, fills, reads and writes alike
(R339, R341 to R346, R355, R356, R371, R400, R473, R519, R521, R525, R526). -/

namespace Sys2Proof.Machine

/-- A window number that names no mirror window. -/
def noWindow : Nat := 64

/-- The line read for a mirror frame goes into it; for a line found uncorrectable the frame keeps its number but copies nothing, so that
no poisoned value reaches the standby (R355, R473, R526; log entry 97). -/
def mirrorFill (q : BitVec 32) (d : BitVec 1024) (bad : Bool) (s : State) : State :=
  s.updBond fun b =>
    { b with
      txq := b.txq.map fun f =>
        if f.type = bMwr && f.fseq = q then
          { f with win := if bad then noWindow else f.win, payload := if bad then [] else unpackBytes 128 d.toNat }
        else f }

/-- A write of the line is performed: one of part of it reads the line first, and is not made where that is uncorrectable (R355, R526;
log entry 97). -/
def writeServed (r : DdrReq) (off : Nat) (bs : List (BitVec 8)) (ch : Option Nat) (err : BeatErr) (s : State) : State :=
  let s1 := s.countPosted ch (· - 1)
  if off = 0 && bs.length = 128 then s1.ddrStore (128 * r.line) bs
  else
    let s2 := ddrErr r.line err s1
    if err.bad then s2 else s2.ddrStore (128 * r.line + off) bs

/-- A fill's line enters the cache, unless it was invalidated meanwhile or its slice is bypassed (R341, R344). -/
def fillEnters (r : DdrReq) (stale declared : Bool) (err : BeatErr) (s : State) : State :=
  if stale || s.bypassed (lineSlice r.line) then s
  else { s with sc := s.sc.fill r.line (s.lineData r.line) err.bad declared }

/-- A declared-stream fill has come: its tracker, while it is the one that asked, sends it on to its consumer (R342, R344, R346). -/
def fillReady (r : DdrReq) (n gen seq : Nat) (err : BeatErr) (s : State) : State :=
  let (late, s1) := s.crossing
  s1.updTrk n fun x =>
    if x.state = 3 && x.gen = gen then
      x.take ⟨seq, false, r.stolen, r.line, s.lineData r.line, err.bad, x.linePath r.line s.cycle late⟩
    else x

/-- What a request brings when it is served, the channel's check code having found `err`. -/
def served (r : DdrReq) (err : BeatErr) (s : State) : State :=
  match r.kind with
  | .declared n g k stale => fillReady r n g k err (fillEnters r stale true err (ddrErr r.line err s))
  | .learned _ stale => fillEnters r stale false err (ddrErr r.line err s)
  | .mirror q => mirrorFill q (s.lineData r.line) err.bad (ddrErr r.line err s)
  | .write off bs ch => writeServed r off bs ch err s
  | .chan c =>
    let s1 := ddrErr r.line err s
    match dmaLine s c r.line with
    | some _ => s1.setDmaLine c (some ⟨r.line, some (s.lineData r.line, err.bad)⟩)
    | none => s1
  | .ctx op => serveOp op err s
  | .bar2 tag => bar2Got tag r.line (s.lineData r.line, err.bad) (ddrErr r.line err s)

/-- DDR_REQUEST_SERVE (R355, R356, R519, R521): channel `ch` serves its request `i`; while a gap task or a steal holds the channel, all
wait. -/
def execDdrRequestServe (ch i : Nat) (err : BeatErr) (s : State) : Out :=
  let c := s.chan ch
  match c.queue[i]? with
  | none => .next s
  | some r =>
    if !chanServes s ch || stolenNow s ch || gapTaskOn s ch || !mayServe c i r then .next s
    else .next (served r err (s.updChan ch fun c => c.served i r s.te.time))

end Sys2Proof.Machine
end

