-- ==== Sys2Proof/Machine/HodOps.lean ====
section
/-! DEFINITION. The hod: targets, intake, ordered and unordered combination, folding, broadcast (R294 to R308, R313, R314,
R527 to R529). -/

namespace Sys2Proof.Machine

/-! ### Targets (R294, R295) -/

/-- BASE. -/
def tgBase (a : BitVec 64) : Nat := fld a 0 14
/-- LENGTH. -/
def tgLen (a : BitVec 64) : Nat := fld a 16 15
/-- OP. -/
def tgOp (a : BitVec 64) : Nat := fld a 32 3
/-- ORDERED. -/
def tgOrd (a : BitVec 64) : Bool := bit a 35
/-- KEEP. -/
def tgKeep (a : BitVec 64) : Bool := bit a 36
/-- EPOCH. -/
def tgEpoch (a : BitVec 64) : BitVec 8 := a.extractLsb' 40 8
/-- CONTRIB. -/
def tgContrib (a : BitVec 64) : BitVec 16 := a.extractLsb' 48 16
/-- STAGE_BASE. -/
def tgStage (b : BitVec 64) : Nat := fld b 0 14

/-- Courses of hod memory. -/
def hodCourses : Nat := 16384

/-- A declaration is malformed (R295, R313): an area past the last course, CONTRIB 0, or LENGTH 0. -/
def declBad (a b : BitVec 64) : Bool :=
  let k := popCount 16 (tgContrib a).toNat
  tgContrib a = 0 || tgLen a = 0 || decide (tgBase a + tgLen a > hodCourses)
    || (tgOrd a && decide (k > 1) && decide (tgStage b + (k - 1) * tgLen a > hodCourses))

/-- Change target `n`. -/
def State.updTgt (s : State) (n : Nat) (f : HodTarget → HodTarget) : State := { s with hod := { s.hod with tgts := upd s.hod.tgts n f } }

/-- A declaration takes effect: the target is OPEN, with no arrival record. -/
def HodTarget.open (g : HodTarget) (a b : BitVec 64) : HodTarget :=
  { g with state := 1, done := 0, curA := a, curB := b, granted := [], combined := [], staged := [] }

/-- Declare target `n`: at once when nothing granted is unapplied, else after it (R294). -/
def declare (n : Nat) (a b : BitVec 64) (s : State) : State :=
  let s1 := s.updTgt n fun g => { g with regA := a, regB := b }
  if s1.hod.flight.isEmpty then s1.updTgt n fun g => g.open a b
  else { s1 with hod := { s1.hod with decls := s1.hod.decls ++ [{ tgt := n, a := a, b := b, ahead := s1.hod.flight.length }] } }

/-- Free target `n`. -/
def freeTgt (n : Nat) (s : State) : State :=
  let s1 := s.updTgt n fun g => { g with state := 0, done := 0, granted := [], combined := [], staged := [] }
  { s1 with hod := { s1.hod with decls := s1.hod.decls.filter fun d => d.tgt ≠ n } }

/-- A written HOD_TGT_A: its RW fields. -/
def tgAMask : BitVec 64 := 0xFFFFFF1F7FFF3FFF#64
/-- A written HOD_TGT_B: STAGE_BASE, EVT and EVT_EN. -/
def tgBMask : BitVec 64 := 0x7F3FFF#64

/-- A write of HOD_TGT_A[n], whole or by halves: `mask` says which bits the access covers. -/
def tgtAWrite (n : Nat) (mask v : BitVec 64) (s : State) : State :=
  s.updTgt n fun g => { g with regA := (g.regA &&& ~~~(mask &&& tgAMask)) ||| (v &&& mask &&& tgAMask) }

/-- A write of HOD_TGT_B[n] (R294, R314): STATE 1 declares, 0 frees, and 2 and 3 change only the other fields.  A
declaration that breaks R295 is not made, and HOD_ERR records it. -/
def tgtBWrite (n : Nat) (mask v : BitVec 64) (s : State) : State :=
  let s1 := s.updTgt n fun g => { g with regB := (g.regB &&& ~~~(mask &&& tgBMask)) ||| (v &&& mask &&& tgBMask) }
  if !bit mask 24 then s1
  else
    let g := s1.tgt n
    match fld v 24 2 with
    | 0 => freeTgt n s1
    | 1 =>
    if tgOp g.regA > 4 then hodErr 0 2 0 s1
    else if declBad g.regA g.regB then hodErr 0 3 0 s1
    else declare n g.regA g.regB s1
    | _ => s1

/-- HOD_TGT_DECLARE_WRITE (R294): a whole write of HOD_TGT_B with STATE = 1. -/
def execHodTgtDeclareWrite (who : Who) (tgt : Nat) (value : BitVec 64) (s : State) : Out :=
  .next (if tgt < 64 then regWrite who .hod .yes (tgtBWrite tgt (BitVec.allOnes 64) (setFld value 24 2 1)) s else s)

/-- HOD_TGT_FREE_WRITE (R294): a whole write of HOD_TGT_B with STATE = 0. -/
def execHodTgtFreeWrite (who : Who) (tgt : Nat) (value : BitVec 64) (s : State) : Out :=
  .next (if tgt < 64 then regWrite who .hod .yes (tgtBWrite tgt (BitVec.allOnes 64) (setFld value 24 2 0)) s else s)

/-! ### HOD commands (R304 to R306) -/

/-- OP: 0 DECLARE, 1 SEND, 2 BROADCAST. -/
def hOp (e : BitVec 512) : Nat := fld e 8 2
/-- TGT. -/
def hTgt (e : BitVec 512) : Nat := fld e 10 6
/-- BASE, OFFSET or SRC. -/
def hBase (e : BitVec 512) : Nat := fld e 32 14
/-- LENGTH or COUNT. -/
def hLen (e : BitVec 512) : Nat := fld e 48 15
/-- WAIT. -/
def hWait (e : BitVec 512) : Bool := bit e 69
/-- DST. -/
def hDst (e : BitVec 512) : Nat := fld e 80 15
/-- EVT, when EVT_EN is 1. -/
def hEvt (e : BitVec 512) : Option Nat := if bit e 118 then some (fld e 112 6) else none

/-- HOD_TGT_A of a DECLARE of a step with MODE_EPOCH `ep`. -/
def declA (e : BitVec 512) (ep : BitVec 8) : BitVec 64 :=
  BitVec.ofNat 64 (hBase e + 2 ^ 16 * hLen e + 2 ^ 32 * fld e 64 3 + 2 ^ 35 * fld e 67 1 + 2 ^ 36 * fld e 68 1 + 2 ^ 40 * ep.toNat
    + 2 ^ 48 * fld e 80 16)

/-- HOD_TGT_B of it. -/
def declB (e : BitVec 512) : BitVec 64 := BitVec.ofNat 64 (fld e 96 14 + 2 ^ 16 * fld e 112 7)

/-- The fields of R304 that an OP uses. -/
def hodFields (op : Nat) : List (Nat × Nat) :=
  match op with
  | 0 => [(0, 16), (32, 14), (48, 15), (64, 5), (80, 16), (96, 14), (112, 7)]
  | 1 => [(0, 16), (32, 14), (320, 64)]
  | _ => [(0, 16), (32, 14), (48, 15), (69, 1), (80, 15), (112, 7)]

/-- The causes of HOD_ERR for a HOD command (R305, R313). -/
def hodCause (s : State) (e : BitVec 512) : Option Nat :=
  let op := hOp e
  if op = 3 || strayBits e (hodFields op) then some 2
  else if op = 1 && (!hasRange e 0x28 || badRange e 0x28 || bit e (8 * 0x28 + 32)) then some 2
  else if op = 0 && fld e 64 3 > 4 then some 2
  else if op = 0 && declBad (declA e 0) (declB e) then some 3
  else if op = 2 && (hLen e = 0 || hBase e + hLen e > hodCourses) then some 3
  else if op = 1 && hBase e + (cmdRange e 0x28).length > tgLen (s.tgt (hTgt e)).curA then some 4
  else none

/-- The hod port's command: the first of its queue. -/
def hodHead (s : State) (t : Nat) : Option EngCmd :=
  match (s.tile t).hp.queue with
  | c :: _ => if s.tileLive t && (c.begun || mayTake s t c) then some c else none
  | [] => none

/-- A HOD command reaches the port: malformed, it ends the step (R305); else it goes to issue. -/
def hodCheck (t : Nat) (c : EngCmd) (s : State) : State :=
  match hodCause s c.raw with
  | some k => malformed t c.urgent (hodErr t k c.index s)
  | none => passCheck t 4 s

/-- HOD_DECLARE (R294, R304, R305, R453): the target is declared with the step's MODE_EPOCH; a gated hod discards the
declaration, and counts it (log entry 87).  An undefined OP is found here. -/
def execHodDeclare (tile : Nat) (s : State) : Out :=
  match hodHead s tile with
  | none => .next s
  | some c =>
    if hOp c.raw ≠ 0 && hOp c.raw ≠ 3 then .next s
    else
      match hodCause s c.raw, s.run tile c.urgent with
      | some k, _ => .next (malformed tile c.urgent (hodErr tile k c.index s))
      | none, some r =>
        .next (popCmd tile 4
          (if s.gated .hod then s.countGated else declare (hTgt c.raw) (declA c.raw (dEpoch r.desc)) (declB c.raw) s))
      | none, none => .next s

/-- HOD_SEND (R299, R304, R305): the command is checked and goes to issue; once issued, each event reads its next course
into the drain buffer, unless that is full. -/
def execHodSend (tile : Nat) (held : Held) (s : State) : Out :=
  match hodHead s tile with
  | none => .next s
  | some c =>
    if hOp c.raw ≠ 1 then .next s
    else if !c.checked then .next (hodCheck tile c s)
    else if !c.issued then .next (tryIssue tile 4 s)
    else
      match s.run tile c.urgent with
      | none => .next s
      | some r =>
        let hp := (s.tile tile).hp
        if hp.buf.length ≥ drainBufCap then .next s
        else
          let g := cmdRange c.raw 0x28
          match engRead tile c.urgent 4 ((g.start + hp.sendAt) % 32768) (beginCmd tile 4 (charge tile c.urgent false held s)) with
          | .error z => .next z
          | .ok (d, s1) =>
            let s2 := pushHod tile (hodCourseOf tile c.urgent r (hTgt c.raw) (hBase c.raw + hp.sendAt) d) s1
            if hp.sendAt + 1 = g.length then
              .next (popCmd tile 4 (retireRanges tile 4 c.urgent [g]
                (s2.updTile tile fun x => { x with hp := { x.hp with sendAt := 0 } })))
            else .next (s2.updTile tile fun x => { x with hp := { x.hp with sendAt := x.hp.sendAt + 1 } })

/-- HOD_BROADCAST (R305, R306): the command is checked and begins; its courses are read by BROADCAST_READ. -/
def execHodBroadcast (tile : Nat) (s : State) : Out :=
  match hodHead s tile with
  | none => .next s
  | some c =>
    if hOp c.raw ≠ 2 || c.begun then .next s
    else
      match hodCause s c.raw with
      | some k => .next (malformed tile c.urgent (hodErr tile k c.index s))
      | none =>
        let s1 := s.updQ tile 4 fun q => match q with
          | a :: r => { a with checked := true, issued := true, begun := true } :: r
          | [] => []
        .next (s1.updTile tile fun x => { x with hp := { x.hp with bcastAt := 0 } })

/-- The read of a BROADCAST waits: its first read, with WAIT = 1, while TGT is not COMPLETE (R306). -/
def bcastWaits (s : State) (t : Nat) (c : EngCmd) : Bool :=
  hWait c.raw && decide ((s.tile t).hp.bcastAt = 0) && decide ((s.tgt (hTgt c.raw)).state ≠ 2)

/-- A hod course as a BROADCAST reads it: zeros of a gated hod (R453). -/
def hodCourse (s : State) (k : Nat) : BitVec 1024 := if s.gated .hod then 0 else sget (fun _ => 0) s.hod.mem k

/-- The next course of a BROADCAST sets out to every unfenced tile. -/
def sendBroadcast (tile : Nat) (c : EngCmd) (r : StepRun) (s : State) : State :=
  let i := (s.tile tile).hp.bcastAt
  let course := (hDst c.raw + i) % 32768
  let ts := (List.range 16).filter fun t => !s.fencedTile t
  let s1 := ts.foldl (fun z t => inflightAdd t course z)
    { s with
      hod := { s.hod with
        bcast := s.hod.bcast ++ ts.map fun t =>
          { src := tile, urgent := c.urgent, start := r.start, rerun := r.runs, tile := t, course := course
            data := hodCourse s (hBase c.raw + i) } } }
  let s2 := s1.updTile tile fun x => { x with hp := { x.hp with bcastAt := i + 1 } }
  if i + 1 = hLen c.raw then
    s2.updQ tile 4 fun q => match q with
      | a :: r => { a with read := true } :: r
      | [] => []
  else s2

/-- BROADCAST_READ (R306, R453, R529): the next hod course is read, and sets out to every unfenced tile; with WAIT the first
read waits for TGT to be COMPLETE. A gated hod gives zeros, and counts the read (log entry 87). -/
def execBroadcastRead (tile : Nat) (ce : Nat) (ue : Bool) (s : State) : Out :=
  match hodHead s tile with
  | none => .next s
  | some c =>
    if hOp c.raw ≠ 2 || !c.begun || c.read || bcastWaits s tile c then .next s
    else
      match s.run tile c.urgent with
      | none => .next s
      | some r =>
        if s.gated .hod then .next (sendBroadcast tile c r s.countGated)
        else if ue then .next (hodEcc 1 ce ue s)
        else .next (sendBroadcast tile c r (hodEcc 1 ce ue s))

/-- A broadcast course for the same tile is ahead. -/
def sameDest (a b : BcastCourse) : Bool := decide (a.tile = b.tile)

/-- BROADCAST_COURSE_WRITE (R306, R453, R527, R528): broadcast course `i` reaches its tile, after a further cycle or none,
and is written there after the cycles lost to bank arbitration; a fenced or gated tile discards it, and a course in error is
discarded there and is a fault of the issuing step. -/
def execBroadcastCourseWrite (i : Nat) (met : Crossing) (bad : Bool) (s : State) : Out :=
  match mayPass s.hod.bcast i sameDest with
  | none => .next s
  | some m =>
    let s1 := chargeSender m.src m.urgent m.start (b2n met.jitter) 0
      (inflightSub m.tile m.course { s with hod := { s.hod with bcast := s.hod.bcast.eraseIdx i } })
    if s.fencedTile m.tile then .next { s1 with mor := { s1.mor with dropCnt := satAdd32 s1.mor.dropCnt 1 } }
    else if s.gatedTile m.tile then .next s1.countGated
    else if bad then
      let s2 := countMorPerr s1
      .next (if ownRun s2 m.src m.urgent m.start m.rerun then stepFault m.src m.urgent stParity s2 else s2)
    else
      let live := (s1.tile m.tile).ts.live m.course
      let s2 := (lostCycles m.tile met.lost s1).updTs m.tile fun ts => ts.writeCourse m.course m.data false
      .next (if live && ownStep s2 m.src m.urgent m.start then s2.markSent m.src m.urgent else s2)

/-- BROADCAST_RETIRE (R306): every tile has acknowledged the last course; the command retires and pulses its line. -/
def execBroadcastRetire (tile : Nat) (s : State) : Out :=
  match hodHead s tile with
  | none => .next s
  | some c =>
    if hOp c.raw ≠ 2 || !c.read || s.hod.bcast.any (fun m => decide (m.src = tile) && m.urgent == c.urgent) then .next s
    else
      let s1 := popCmd tile 4 s
      match hEvt c.raw with
      | some k => .next (s1.pulse (setBit 0 k true))
      | none => .next s1

/-! ### Intake (R297 to R300) -/

/-- What the hod decides of a partial in its grant cycle (R297). -/
inductive Judged where
  | ok | epoch | other
  deriving DecidableEq, Repr

/-- The judgement: the epoch case is judged last. -/
def judge (g : HodTarget) (h : HodCourse) : Judged :=
  if g.state ≠ 1 || !bit (tgContrib g.curA) h.tile || h.off ≥ tgLen g.curA
      || bit (sget (fun _ => (0 : BitVec 16)) g.granted h.off) h.tile then .other
  else if h.epoch ≠ tgEpoch g.curA then .epoch
  else .ok

/-- A rejection sets out for its tile. -/
def notify (h : HodCourse) (epoch parity : Bool) (s : State) : State :=
  { s with
    hod := { s.hod with
      notices := s.hod.notices ++ [{ tile := h.tile, urgent := h.urgent, start := h.start, rerun := h.rerun, epoch := epoch, parity := parity }] } }

/-- The tile that lane `r` grants: the first with a course, in the order of the pointer (R300). -/
def grantTile (s : State) (r : Nat) : Option Nat :=
  (((List.range 4).map fun k => 4 * r + (s.hod.q + k) % 4).find? fun t => !(s.tile t).hp.buf.isEmpty)

/-- The lane has not yet granted in this cycle. -/
def laneFree (s : State) (r : Nat) : Bool := decide (s.hod.laneAt.getD r none ≠ some s.cycle)

/-- HOD_GRANT (R292, R297, R300, R453, R527): intake lane `lane` grants one tile's oldest course, one in a cycle; the course
leaves its tile and is judged.  `bad`: the course shows a parity error. -/
def execHodGrant (lane : Nat) (bad : Bool) (s : State) : Out :=
  if lane ≥ 4 || !laneFree s lane then .next s
  else
    match grantTile s lane with
    | none => .next s
    | some t =>
      match (s.tile t).hp.buf with
      | [] => .next s
      | h :: rest =>
        let s0 := { s with hod := { s.hod with laneAt := lput s.hod.laneAt lane (some s.cycle) } }
        let s1 := s0.updTile t fun x => { x with hp := { x.hp with buf := rest } }
        if s.gated .hod then .next s1.countGated
        else if bad then .next (notify h false true (countMorPerr s1))
        else
          match judge (s1.tgt h.tgt) h with
          | .epoch =>
            .next (notify h true false
              { s1 with hod := { s1.hod with epochRej := true, epochRejCnt := satAdd32 s1.hod.epochRejCnt 1, now := s1.hod.now.note 8 true } })
          | .other =>
            .next (notify h false false
              { s1 with hod := { s1.hod with rej := true, rejCnt := satAdd32 s1.hod.rejCnt 1, now := s1.hod.now.note 9 true } })
          | .ok =>
            let s2 := s1.updTgt h.tgt fun g =>
              { g with granted := sset (fun _ => 0) g.granted h.off (setBit (sget (fun _ => 0) g.granted h.off) h.tile true) }
            let s3 := { s2 with hod := { s2.hod with flight := s2.hod.flight ++ [{ h with at_ := s.cycle }] } }
            .next (if ownStep s3 h.tile h.urgent h.start then s3.markSent h.tile h.urgent else s3)

/-- HOD_REJECT_NOTICE (R286, R297, R320, R527): the sending tile learns of its oldest rejection; whether its
crossing takes a further cycle is left open, so that a free value says it (log entry 1). An epoch rejection or a parity error is a
fault of the step. -/
def execHodRejectNotice (s : State) : Out :=
  match s.hod.notices with
  | [] => .next s
  | n :: rest =>
    let (late, z) := ({ s with hod := { s.hod with notices := rest } } : State).draw 1
    let s1 := chargeSender n.tile n.urgent n.start late.toNat 0 z
    if !ownRun s1 n.tile n.urgent n.start n.rerun then .next s1
    else if n.epoch then .next (stepFault n.tile n.urgent stEpochMix s1)
    else if n.parity then .next (stepFault n.tile n.urgent stParity s1)
    else .next s1

/-! ### Combination (R296, R301, R302) -/

/-- The identity of an OP, as a course. -/
def identity (op : Nat) : BitVec 1024 :=
  BitVec.ofNat 1024 (packLanes 32 (List.replicate 32 (match op with | 2 => 0xFF800000 | 3 => 0x80000000 | _ => 0)))

/-- The larger value of two FP32 lanes; a NaN gives the quiet NaN. -/
def f32Max (x y : Nat) : Nat :=
  if f32In x == .nan || f32In y == .nan then f32Out .nan else f32Out ((f32In x).maxV (f32In y))

/-- y ⊕ p (R296). -/
def combine (op : Nat) (y p : BitVec 1024) : BitVec 1024 :=
  let f (a b : Nat) : Nat :=
    match op with
    | 0 => f32Out ((f32In a).add (f32In b))
    | 1 => (a + b) % 2 ^ 32
    | 2 => f32Max a b
    | _ => if sgn 32 a ≥ sgn 32 b then a else b
  if op ≥ 4 then p else BitVec.ofNat 1024 (packLanes 32 ((List.range 32).map fun i => f (lane y 32 i) (lane p 32 i)))

/-- The tile masks of one course. -/
def maskAt (m : List (Nat × BitVec 16)) (k : Nat) : BitVec 16 := sget (fun _ => 0) m k

/-- Contributors of lower index than `t`. -/
def lowerMask (t : Nat) : BitVec 16 := BitVec.ofNat 16 (2 ^ t - 1)

/-- The rank of a contributor (R302). -/
def rankOf (contrib : BitVec 16) (t : Nat) : Nat := popCount 16 (contrib &&& lowerMask t).toNat

/-- The staging course of a contributor's partial. -/
def stageCourse (g : HodTarget) (t off : Nat) : Nat := tgStage g.curB + (rankOf (tgContrib g.curA) t - 1) * tgLen g.curA + off

/-- A target whose every course is complete becomes COMPLETE and pulses its line (R298). -/
def completeCheck (n : Nat) (s : State) : State :=
  let g := s.tgt n
  if g.state = 1 && g.done = tgLen g.curA then
    let s1 := s.updTgt n fun g => { g with state := 2 }
    if bit g.curB 22 then s1.pulse (setBit 0 (fld g.curB 16 6) true) else s1
  else s

/-- Combine partial `p` of tile `t` into course `off` of target `n`. -/
def applyPartial (n t off : Nat) (p : BitVec 1024) (s : State) : State :=
  let g := s.tgt n
  let course := tgBase g.curA + off
  let first := maskAt g.combined off = 0
  let stored := sget (fun _ => (0 : BitVec 1024)) s.hod.mem course
  let y := if first && !tgKeep g.curA then identity (tgOp g.curA) else stored
  let mask := setBit (maskAt g.combined off) t true
  let s1 := (s.updTgt n fun g =>
    { g with
      combined := sset (fun _ => 0) g.combined off mask
      done := if mask = tgContrib g.curA then g.done + 1 else g.done })
  completeCheck n { s1 with hod := { s1.hod with mem := sset (fun _ => 0) s1.hod.mem course (combine (tgOp g.curA) y p) } }

/-- Declarations whose earlier courses are all applied take effect (R294): course `i` of those in flight has been. -/
def declsAfter (i : Nat) (s : State) : State :=
  let ds := s.hod.decls.map fun d => if i < d.ahead then { d with ahead := d.ahead - 1 } else d
  let s1 := { s with hod := { s.hod with decls := ds.filter fun d => d.ahead ≠ 0 } }
  (ds.filter fun d => d.ahead = 0).foldl (fun z d => z.updTgt d.tgt fun g => g.open d.a d.b) s1

/-- The cycle in which a granted course is applied, with or without the cycle of jitter of its crossing (R300). -/
def applyCycle (h : HodCourse) (jitter : Bool) : Nat := h.at_ + 4 + b2n jitter

/-- A course applied in cycle `a` from tile `t` comes before one applied in cycle `b` from tile `u`: of one cycle, in ascending
tile index (R301). -/
def appliesBefore (a t b u : Nat) : Bool := decide (a < b) || (decide (a = b) && decide (t < u))

/-- Granted course `i` of those in flight, when it may be applied now with or without jitter: four cycles after its grant and the one of
jitter, after the course applied last, with no course left behind that could then only be applied before it, and no earlier one of its
own tile (R300, R301). -/
def applicable (s : State) (i : Nat) (jitter : Bool) : Option HodCourse :=
  match s.hod.flight[i]? with
  | none => none
  | some h =>
    let c := applyCycle h jitter
    if decide (s.cycle < c) || appliesBefore c h.tile s.hod.applied.1 s.hod.applied.2
        || s.hod.flight.any (fun g => appliesBefore (applyCycle g true) g.tile c h.tile)
        || (s.hod.flight.take i).any (fun g => decide (g.tile = h.tile)) then none
    else some h

/-- A contributor of lower index is still missing, so that an ORDERED target stages the course (R302). -/
def stages (s : State) (h : HodCourse) : Bool :=
  let g := s.tgt h.tgt
  let lower := tgContrib g.curA &&& lowerMask h.tile
  tgOrd g.curA && lower &&& maskAt g.combined h.off ≠ lower

/-- Whether the next combination of course `off` of a target reads its stored value: the first one without KEEP does not (R296). -/
def readsStored (g : HodTarget) (off : Nat) : Bool := !(decide (maskAt g.combined off = 0) && !tgKeep g.curA)

/-- A granted course is combined, or staged while a contributor of lower index is missing (R296, R302). -/
def applyCourse (h : HodCourse) (s : State) : State :=
  let g := s.tgt h.tgt
  if stages s h then
    let z := s.updTgt h.tgt fun g =>
      { g with staged := sset (fun _ => 0) g.staged h.off (setBit (maskAt g.staged h.off) h.tile true) }
    { z with hod := { z.hod with mem := sset (fun _ => 0) z.hod.mem (stageCourse g h.tile h.off) h.data } }
  else applyPartial h.tgt h.tile h.off h.data s

/-- HOD_APPLY (R296 to R302, R320, R451, R529): granted course `i` is applied, after a further cycle of its crossing with
`jitter`, which is counted and charged. A gated hod stands still. -/
def execHodApply (i : Nat) (jitter : Bool) (ecc : CourseEcc) (s : State) : Out :=
  match applicable s i jitter with
  | none => .next s
  | some h =>
    let n := b2n (!stages s h && readsStored (s.tgt h.tgt) h.off)
    if s.gated .hod then .next s
    else if ecc.ue && decide (n ≠ 0) then .next (hodEcc n ecc.ce true s)
    else
      let s1 := { s with hod := { s.hod with flight := s.hod.flight.eraseIdx i, applied := (applyCycle h jitter, h.tile) } }
      .next (declsAfter i (applyCourse h (hodEcc n ecc.ce false (chargeSender h.tile h.urgent h.start (b2n jitter) 0 s1))))

/-- HOD_FOLD (R302, R451, R529): the staged partial of course `off` whose turn has come is combined; a gated hod stands still. -/
def execHodFold (tgt off ce : Nat) (ue : Bool) (s : State) : Out :=
  let g := s.tgt tgt
  let n := 1 + b2n (readsStored g off)
  let st := maskAt g.staged off
  let missing := tgContrib g.curA &&& ~~~maskAt g.combined off
  match lowestSet 16 missing.toNat with
  | none => .next s
  | some t =>
    if !bit st t || s.gated .hod then .next s
    else if ue then .next (hodEcc n ce ue s)
    else
      let s1 := (hodEcc n ce ue s).updTgt tgt fun g => { g with staged := sset (fun _ => 0) g.staged off (setBit st t false) }
      .next (applyPartial tgt t off (sget (fun _ => 0) s.hod.mem (stageCourse g t off)) s1)

/-! ### HOD_ registers (R313, R314) -/

/-- A write of HOD_CNT_CLR. -/
def hodCntClr (v : BitVec 32) (h : Hod) : Hod :=
  { h with
    epochRejCnt := if bit v 0 then 0 else h.epochRejCnt, rejCnt := if bit v 1 then 0 else h.rejCnt, now := h.now.zeroed v }

/-- The counters as they read: events of the cycle in which they were cleared are not counted (R314). -/
def Hod.settle (h : Hod) : Hod := hodCntClr h.now.clr h

/-- HOD_CNT_CLR. -/
def execHodCntClr (who : Who) (value : BitVec 32) (s : State) : Out :=
  .next (regWrite who .hod .yes (fun z => { z with hod := hodCntClr value z.hod }) s)

/-- A write of HOD_STATUS: a 1 clears EPOCH_REJ or REJ, unless a rejection of the same cycle sets it (R314). -/
def hodStatusWrite (v : BitVec 32) (h : Hod) : Hod :=
  { h with epochRej := h.epochRej && h.now.keeps v 8, rej := h.rej && h.now.keeps v 9 }

/-- A write of HOD_ERR: a 1 clears VALID. -/
def hodErrWrite (v : BitVec 32) (h : Hod) : Hod := { h with err := h.now.errAfter (bit v 31) 31 h.err }

/-- A staged partial of the target whose turn has come, so that it is being folded (R302). -/
def HodTarget.folding (g : HodTarget) : Bool :=
  g.staged.any fun x => match lowestSet 16 (tgContrib g.curA &&& ~~~maskAt g.combined x.1).toNat with
    | some t => bit x.2 t
    | none => false

/-- A course is being applied, folded or broadcast. -/
def Hod.busy (h : Hod) : Bool := !h.flight.isEmpty || !h.bcast.isEmpty || h.tgts.any HodTarget.folding

/-- The HOD_ register at offset `o`: its value and its width in bytes. -/
def Hod.readReg (h : Hod) (o : Nat) : Option (Nat × Nat) :=
  if o = 0x000 then some (b2n h.busy + 256 * b2n h.epochRej + 512 * b2n h.rej, 4)
  else if o = 0x004 then some (h.err.toNat, 4)
  else if o = 0x008 then some (h.epochRejCnt.toNat, 4)
  else if o = 0x00C then some (h.rejCnt.toNat, 4)
  else if o = 0x010 then some (0, 4)
  else if 0x040 ≤ o && o < 0x080 && o % 4 = 0 then some ((h.portWait.getD ((o - 0x40) / 4) 0).toNat, 4)
  else if 0x400 ≤ o && o < 0x800 && o % 8 = 0 then
    let g := h.tgts.getD ((o - 0x400) / 16) .reset
    if o % 16 = 0 then some (g.regA.toNat, 8)
    else some (g.regB.toNat + 2 ^ 24 * g.state.toNat + 2 ^ 32 * (g.done % 2 ^ 15), 8)
  else none

end Sys2Proof.Machine
end

