-- ==== Sys2Proof/Machine/DecodeTable.lean ====
section
/-! DEFINITION. The writable decode table: slot records, micro-operation words and the checks made at loading (R149 to R153,
R158, R159). -/

namespace Sys2Proof.Machine

/-- UOPC of a micro-operation (R152). -/
def uOp (w : BitVec 32) : Nat := fld w 26 6
/-- DST. -/
def uDst (w : BitVec 32) : Nat := fld w 22 4
/-- SRC1. -/
def uSrc1 (w : BitVec 32) : Nat := fld w 18 4
/-- SRC2. -/
def uSrc2 (w : BitVec 32) : Nat := fld w 14 4
/-- IMM, signed. -/
def uImm (w : BitVec 32) : Int := sgn 14 (fld w 0 14)

/-- Selector codes: temporaries t0 to t7 below 8, the operands, IMM, and u0 to u3 from 12 (R152). -/
def selA : Nat := 8
def selB : Nat := 9
def selC : Nat := 10
def selImm : Nat := 11

/-- LENGTH of a slot (R150). -/
def slotLen (h0 : BitVec 32) : Nat := fld h0 0 6
/-- AMASK, BMASK or CMASK: operand 0, 1 or 2. -/
def slotMask (h0 : BitVec 32) (n : Nat) : Nat := fld h0 (6 + 7 * n) 7
/-- AFILE, BFILE or CFILE. -/
def slotFile (h1 : BitVec 32) (n : Nat) : Nat := fld h1 (3 * n) 3

/-- A scalar micro-operation of one source. -/
def uOne (op : Nat) : Bool := op = 0x01 || op = 0x03 || op = 0x04 || (0x19 ≤ op && op ≤ 0x1C)
/-- A scalar micro-operation of two sources. -/
def uTwo (op : Nat) : Bool := (0x08 ≤ op && op ≤ 0x0C) || (0x10 ≤ op && op ≤ 0x18) || (0x20 ≤ op && op ≤ 0x25)
/-- A short-vector micro-operation. -/
def uVec (op : Nat) : Bool := 0x28 ≤ op && op ≤ 0x2F
/-- LDO and STO. -/
def uMem (op : Nat) : Bool := op = 0x30 || op = 0x31
/-- SKIPF and SKIPT. -/
def uSkip (op : Nat) : Bool := op = 0x38 || op = 0x39
/-- A UOPC of R153. -/
def uValid (op : Nat) : Bool := op = 0 || uOne op || uTwo op || uVec op || uMem op || uSkip op

/-- The selectors a micro-operation uses. -/
def uUsed (w : BitVec 32) : List Nat :=
  let op := uOp w
  if uOne op || uMem op || op = 0x2C || op = 0x2F then [uDst w, uSrc1 w]
  else if uTwo op || uVec op then [uDst w, uSrc1 w, uSrc2 w]
  else if uSkip op then [uSrc1 w]
  else []

/-- The selectors it uses as short-vector registers. -/
def uVecRegs (w : BitVec 32) : List Nat := if !uVec (uOp w) then [] else if uOp w = 0x2F then [uDst w] else uUsed w

/-- An operand's mask allows only what the micro-operation's kind may name (R159). -/
def maskFits (op : Nat) (h0 h1 : BitVec 32) (sel : Nat) : Bool :=
  if sel < selA || sel > selC then true
  else
    let m := slotMask h0 (sel - selA)
    let f := slotFile h1 (sel - selA)
    if uMem op then m &&& 0x78 = 0
    else if uVec op then m &&& 0x5F = 0 && (m &&& 0x20 = 0 || f &&& 3 = 0)
    else m &&& 0x1F = 0 && (m &&& 0x20 = 0 || f &&& 6 = 0)

/-- Micro-operation `k` of a slot passes the checks of R159. -/
def uopFits (h0 h1 : BitVec 32) (k : Nat) (w : BitVec 32) : Bool :=
  let op := uOp w
  let d := uDst w
  uValid op && !(selB ≤ d && d ≤ selImm)
    && (!uSkip op || decide ((k : Int) + uImm w < slotLen h0))
    && (uVec op || (uUsed w).all fun x => decide (x < 12))
    && ((uVecRegs w).all fun x => decide (8 ≤ x) && x ≠ selImm)
    && ((uUsed w).all (maskFits op h0 h1))

/-- A slot of 36 words passes. -/
def slotFits (ws : List (BitVec 32)) : Bool :=
  let h0 := ws.getD 0 0
  let h1 := ws.getD 1 0
  let n := slotLen h0
  let us := ws.drop 4
  ws.getD 2 0 = 0 && ws.getD 3 0 = 0 && fld h0 27 5 = 0 && !bit h0 12 && fld h1 9 23 = 0 && decide (n ≤ 32)
    && ((us.drop n).all fun w => w = 0) && ((us.take n).zipIdx.all fun (w, k) => uopFits h0 h1 k w)
    && decide (((us.take n).filter fun w => uOp w = 0x31).length ≤ 4)

/-- The words of a table. -/
def tableWords (bs : List (BitVec 8)) : List (BitVec 32) :=
  (List.range 576).map fun i => BitVec.ofNat 32 (packBytes ((bs.drop (4 * i)).take 4))

/-- The section passes every check of R159. -/
def tableFits (bs : List (BitVec 8)) : Bool :=
  let ws := tableWords bs
  (List.range 16).all fun i => slotFits ((ws.drop (36 * i)).take 36)

end Sys2Proof.Machine
end

