-- ==== Sys2Proof/Machine/Image.lean ====
section
/-! DEFINITION. The boot objects: the QSPI directory, the owner certificate, images and their sections, the DEVCFG record
(R489, R494 to R499). -/

namespace Sys2Proof.Machine

/-- `n` bytes of an object from `off`, as a number (R6). -/
def objNat (b : List (BitVec 8)) (off n : Nat) : Nat := packBytes ((b.drop off).take n)

/-- The bytes from `off` are all zero. -/
def objZero (b : List (BitVec 8)) (off n : Nat) : Bool := ((b.drop off).take n).all fun x => x = 0

/-- DEV_ID bits [23:0] (R415). -/
def devPart : Nat := 0xB00048

/-- Whether a boot check failed for a signature, for what a mailbox command then returns (R506). -/
inductive BootFail where
  /-- the code of R501, and whether it is the signature that failed. -/
  | fail (code : Nat) (sig : Bool)
  deriving DecidableEq, Repr

/-! ### The flash (R489, R493) -/

/-- `n` bytes of the flash from `off`. -/
def flashBytes (s : State) (off n : Nat) : List (BitVec 8) := (List.range n).map fun i => sget Config.flashByte s.sec.flash (off + i)

/-- Bytes written to the flash from `off`. -/
def flashPut (off : Nat) (bs : List (BitVec 8)) (m : List Host.Cell) : List Host.Cell :=
  bs.zipIdx.foldl (fun z (b, i) => sset Config.flashByte z (off + i) b) m

/-- CERT_OFF. -/
def certOff (s : State) : Nat := fld s.sec.dir 64 32
/-- HELPER_OFF. -/
def helperOff (s : State) : Nat := fld s.sec.dir 96 32
/-- IMG_OFF[i]. -/
def imgOff (s : State) (i : Nat) : Nat := fld s.sec.dir (128 + 32 * i) 32

/-- The certificate as the flash holds it. -/
def flashCert (s : State) : List (BitVec 8) := flashBytes s (certOff s) 5076

/-- Image `i` as the flash holds it: up to its signature's end, or its header alone where LENGTH can be no image's (R495). -/
def flashImage (s : State) (i : Nat) : List (BitVec 8) :=
  let len := packBytes (flashBytes s (imgOff s i + 0x10) 8)
  flashBytes s (imgOff s i) (if 544 ≤ len && len ≤ 2 ^ 32 then len + 2420 else 544)

/-- The helper record as the flash holds it (R503). -/
def flashHelper (s : State) : List (BitVec 8) := flashBytes s (helperOff s) 3200

/-! ### The owner certificate (R494, R496) -/

/-- ROOT_KEY's digest and the certificate's fields hold. -/
def certForm (b : List (BitVec 8)) : Bool :=
  decide (b.length = 5076) && decide (objNat b 0 4 = 0x5A564331) && objZero b 0x14 12 && decide (objNat b 4 4 = devPart)
    && Config.sha3 ((b.drop 0x540).take 1312) == Config.rootDigest

/-- Its signature verifies under ROOT_KEY. -/
def certSig (b : List (BitVec 8)) : Bool :=
  Config.sigOk (BitVec.ofNat 10496 (objNat b 0x540 1312)) (Config.sha3 (b.take 0xA60)) ((b.drop 0xA60).take 2420)

/-- The check of a certificate. -/
def certFault (b : List (BitVec 8)) : Option BootFail :=
  if !certForm b then some (.fail 3 false) else if !certSig b then some (.fail 3 true) else none

/-- What an accepted certificate leaves. -/
def certAccept (b : List (BitVec 8)) (s : State) : State :=
  { s with
    sec := { s.sec with
      certOk := true
      objects := 1
      ownerKey := BitVec.ofNat 10496 (objNat b 0x20 1312)
      ownerId := BitVec.ofNat 64 (objNat b 8 8)
      minVersion := BitVec.ofNat 32 (objNat b 0x10 4)
      certDigest := Config.sha3 b } }

/-! ### Images (R495, R497) -/

/-- NSECT. -/
def imgSects (b : List (BitVec 8)) : Nat := objNat b 5 1
/-- LENGTH. -/
def imgLen (b : List (BitVec 8)) : Nat := objNat b 0x10 8
/-- The section entries. -/
def imgEntries (b : List (BitVec 8)) : List (BitVec 256) :=
  (List.range (imgSects b)).map fun k => BitVec.ofNat 256 (objNat b (0x20 + 32 * k) 32)

/-- TYPE of a section. -/
def sectType (e : BitVec 256) : Nat := fld e 0 16
/-- OFFSET. -/
def sectOff (e : BitVec 256) : Nat := fld e 64 32
/-- SIZE. -/
def sectSize (e : BitVec 256) : Nat := fld e 96 32
/-- DEST. -/
def sectDest (e : BitVec 256) : BitVec 64 := e.extractLsb' 128 64

/-- The header is well formed and names the certificate's owner. -/
def headerForm (s : State) (b : List (BitVec 8)) : Bool :=
  decide (objNat b 0 4 = 0x5A564932) && decide (objNat b 4 1 ≤ 7) && decide (1 ≤ imgSects b) && decide (imgSects b ≤ 16)
    && objZero b 0xC 4 && decide (imgLen b ≤ 2 ^ 32) && decide (544 ≤ imgLen b) && decide (b.length = imgLen b + 2420)
    && decide (objNat b 0x18 8 = s.sec.ownerId.toNat)
    && ((imgEntries b).all fun e => decide (1 ≤ sectType e) && decide (sectType e ≤ 7) && fld e 16 48 = 0 && fld e 192 64 = 0)

/-- Sections lie within LENGTH, at multiples of 128 beyond the header, and do not overlap. -/
def sectsApart (b : List (BitVec 8)) : Bool :=
  let es := imgEntries b
  (es.all fun e => sectOff e % 128 = 0 && decide (544 ≤ sectOff e) && decide (sectOff e + sectSize e ≤ imgLen b))
    && (es.zipIdx.all fun (e, i) => es.zipIdx.all fun (f, j) => i = j || !overlaps (sectOff e) (sectSize e) (sectOff f) (sectSize f))

/-- A section's SIZE and DEST fit its destination; `i` is the image. -/
def sectFits (s : State) (i : Nat) (e : BitVec 256) : Bool :=
  let n := sectSize e
  let d := sectDest e
  match sectType e with
  | 1 => i = 0 && n = 256 && d = 0
  | 2 => decide (d.toNat + n ≤ 0x100000)
  | 3 => n = 2304 && d = 0
  | 4 => n % 5 = 0 && fld d 32 2 = 0 && decide (fld d 32 17 + n / 5 * 4 ≤ 0x20000)
  | 5 => n % 32 = 0 && decide (fld d 32 11 + n / 32 ≤ 2048)
  | 6 => n % 128 = 0 && decide (fld d 32 15 + n / 128 ≤ 32768)
  | 7 => decide (1 ≤ i) && aSpace d = 1 && aWf d && decide (aByte d + n ≤ 128 * s.capLines)
  | _ => false

/-! ### DEVCFG (R499) -/

/-- Every field lies in its range and every other byte is zero. -/
def devcfgForm (r : List (BitVec 8)) : Bool :=
  let w (o : Nat) : Nat := objNat r o 4
  decide (w 0 < 8) && w 0 % 4 ≠ 3 && ([4, 8, 12, 16].all fun o => decide (650 ≤ w o) && decide (w o ≤ 850)) && decide (w 0x14 ≤ 3)
    && decide (w 0x18 ≤ 1023) && w 0x1C % 8192 = 0 && decide (w 0x20 < 2048) && decide (1 ≤ w 0x20 / 16 % 64) && decide (w 0x20 / 16 % 64 ≤ 32)
    && decide (w 0x24 ≤ 1) && objZero r 0x28 216

/-- The record is applied, and the training of the channels begins. -/
def devcfgApply (r : List (BitVec 8)) (s : State) : State :=
  let w (o : Nat) : BitVec 32 := BitVec.ofNat 32 (objNat r o 4)
  let s1 := srcCtrlWrite (2 * w 0x24) s
  { s1 with
    ddr := { s1.ddr with ch := s1.ddr.ch.map fun c => { c with cfg := w 0 } }
    clk := { s1.clk with
      opp := [(w 4).setWidth 10, (w 8).setWidth 10, (w 12).setWidth 10, (w 16).setWidth 10]
      avsSettle := (w 0x18).setWidth 10 }
    dma := { s1.dma with ctxBase := w 0x1C }
    sc := scCfgWrite (w 0x20) s1.sc
    sec := { s1.sec with
      runPoint := (w 0x14).setWidth 2
      trainFrom := s1.te.time } }

/-! ### Writing the sections (R495, R498) -/

/-- The tiles of a mask. -/
def maskTiles (d : BitVec 64) : List Nat := (List.range 16).filter fun t => bit d t

/-- TILE_SEQ: n words, then their n tag bytes. -/
def putTileSeq (a : Nat) (bs : List (BitVec 8)) (c : SeqCore) : SeqCore :=
  let n := bs.length / 5
  (List.range n).foldl (fun (z : SeqCore) k =>
    z.setLword (a / 4 + k) ⟨((bs.drop (4 * n)).getD k 0).setWidth 4, BitVec.ofNat 32 (objNat bs (4 * k) 4)⟩) c

/-- The bytes of a section. -/
def sectBytes (b : List (BitVec 8)) (e : BitVec 256) : List (BitVec 8) := (b.drop (sectOff e)).take (sectSize e)

/-- Bytes go to a section's destination; the record of a DEVCFG section is applied instead. -/
def putBytes (e : BitVec 256) (bs : List (BitVec 8)) (s : State) : State :=
  let d := sectDest e
  match sectType e with
  | 2 =>
    { s with
      quoin := { s.quoin with
        ram := bs.zipIdx.foldl (fun m (x, i) => sset (fun _ => (0 : BitVec 8)) m (d.toNat + i) x) s.quoin.ram } }
  | 3 => { s with sec := { s.sec with decodeSect := some bs } }
  | 4 => (maskTiles d).foldl (fun z t => z.updCore t (putTileSeq (fld d 32 17) bs)) s
  | 5 => (maskTiles d).foldl (fun z t => z.updVec t (vpramPut (32 * fld d 32 11) bs)) s
  | 6 => (maskTiles d).foldl (fun z t => z.updTs t fun ts => ts.put (128 * fld d 32 15) bs) s
  | 7 => State.ddrWriteLines none (bs.length + 1) (aByte d) bs s
  | _ => s

/-- A section goes to its destination. -/
def putSection (b : List (BitVec 8)) (s : State) (e : BitVec 256) : State :=
  if sectType e = 1 then devcfgApply (sectBytes b e) s else putBytes e (sectBytes b e) s

/-- After a boot error what a section's destination holds is free (R498, log entry 1). -/
def spoilSection (s : State) (e : BitVec 256) : State :=
  let (v, s1) := s.draw (8 * sectSize e)
  putBytes e (unpackBytes (sectSize e) v.toNat) s1

/-- A boot error stops LARVA (R498, R501): the contents of every destination written so far are undefined. -/
def bootError (code image : Nat) (s : State) : State :=
  let s1 := s.sec.sects.foldl spoilSection s
  conLine (.bootError code)
    { s1 with
      sec := { s1.sec with
        sects := []
        bootFail := true
        bootCode := BitVec.ofNat 8 code
        bootImage := BitVec.ofNat 3 image
        bootValid := true
        now := s1.sec.now.note 31 true } }

/-- The sections of a type. -/
def sectsOf (b : List (BitVec 8)) (ty : Nat) : List (BitVec 256) := (imgEntries b).filter fun e => sectType e = ty

/-- The image's own checks: header, sections, INDEX, signature, in that order (R497). -/
def imageForm (s : State) (i : Nat) (b : List (BitVec 8)) : Bool :=
  headerForm s b && sectsApart b && ((imgEntries b).all (sectFits s i)) && decide (objNat b 4 1 = i)

/-- The signature verifies under OWNER_KEY. -/
def imageSig (s : State) (b : List (BitVec 8)) : Bool :=
  Config.sigOk s.sec.ownerKey (Config.sha3 (b.take (imgLen b))) ((b.drop (imgLen b)).take 2420)

/-- What stops the boot at image `i`: IMAGE, then ROLLBACK, then a second DECODE section, then DEVCFG (R497, R499, R501). -/
def imageFault (s : State) (i : Nat) (b : List (BitVec 8)) : Option BootFail :=
  if !imageForm s i b then some (.fail 4 false)
  else if !imageSig s b then some (.fail 4 true)
  else if objNat b 8 4 < s.sec.minVersion.toNat then some (.fail 5 false)
  else if (sectsOf b 3).length + b2n s.sec.decodeSect.isSome > 1 then some (.fail 8 false)
  else if i = 0 then
    match sectsOf b 1 with
    | [e] => if devcfgForm ((b.drop (sectOff e)).take 256) then none else some (.fail 6 false)
    | _ => some (.fail 6 false)
  else none

/-- An image that fails has been streamed all the same: those of its sections that fit are written (R498). -/
def imageStreamed (i : Nat) (b : List (BitVec 8)) (s : State) : State :=
  { s with
    sec := { s.sec with
      sects := s.sec.sects ++ (imgEntries b).filter fun e => sectFits s i e && decide (sectOff e + sectSize e ≤ b.length) } }

/-- A verified image takes effect. -/
def imageAccept (i : Nat) (b : List (BitVec 8)) (s : State) : State :=
  let s1 := (imgEntries b).foldl (putSection b) s
  { s1 with
    sec := { s1.sec with
      images := i + 1
      objects := s1.sec.objects + 1
      sects := s1.sec.sects ++ imgEntries b
      firmware := s1.sec.firmware || !(sectsOf b 2).isEmpty
      imgDigest := lput s1.sec.imgDigest i (Config.sha3 (b.take (imgLen b))) } }

end Sys2Proof.Machine
end

