-- ==== Sys2Proof/Machine/Startup.lean ====
section
/-! DEFINITION. From reset to IMAGO: reset and trip, the LARVA sequence, boot errors, entry into CHRYSALIS (R486 to R504,
R554, R559). -/

namespace Sys2Proof.Machine

/-! ### Reset and trip (R486, R554, R559) -/

/-- RESET_ASSERT (R442, R554, R559): RESET_N is low for 10 µs or longer.  A tripped device stays so unless every sensor is
cool; with the supplies off the PUF SRAM has lost what was written to it. -/
def execResetAssert (cool power : Bool) (s : State) : Out :=
  let l := s.lost
  .next { l with
    sec := { l.sec with
      resetLow := true
      tripped := s.sec.tripped && !cool
      pufZeroed := s.sec.pufZeroed && !power }
    quoin := { l.quoin with puf := if power then [] else l.quoin.puf }
    clk := { l.clk with
      refState := 0
      xtalState := 0
      causeReset := true
      causeSafe := false } }

/-- RESET_RELEASE (R438, R486, R488, R557, R559): EGG begins, on the straps sampled now, in JTAG test mode if the test logic is in
use; a device that is still hot stays tripped. -/
def execResetRelease (start : ResetPins) (hot : Bool) (s : State) : Out :=
  if !s.sec.resetLow then .next s
  else if s.sec.tripped && hot then .next { s with sec := { s.sec with resetLow := false } }
  else
    let h := s.hatch start.straps
    .next { h with
      sec := { h.sec with resetLow := false, tripped := false }
      clk := { h.clk with jtag := start.jtag } }

/-- THERMAL_TRIP (R559): every internal domain stops and the outputs are forced. -/
def execThermalTrip (s : State) : Out :=
  let l := s.lost
  .next { l with sec := { l.sec with tripped := true } }

/-! ### EGG (R486, R489) -/

/-- LARVA goes on. -/
def larvaOn (s : State) : Bool := s.alive && s.sec.life = .larva && !s.sec.bootFail

/-- BOOT_SRC: objects come through the mailbox. -/
def mailboxBoot (s : State) : Bool := bit s.sec.straps 0

/-- The directory may be used: MAGIC holds, the helper area is aligned, and a flash boot has 1 to 8 images (R489, log entry 55). -/
def dirForm (d : BitVec 512) (mailbox : Bool) : Bool :=
  let n := fld d 32 8
  decide (fld d 0 32 = 0x5A564430) && decide (fld d 96 32 % 4096 = 0) && (mailbox || (n ≠ 0 && n ≤ 8))

/-- LARVA_START (R486, R489, R492): with a source taken, the ROM has read the directory at flash offset 0, unless the flash fails to answer,
and starts the PLLs. -/
def execLarvaStart (readOk : Bool) (s : State) : Out :=
  if !(s.alive && s.sec.life = .egg && s.clk.chosen) then .next s
  else
    let d : BitVec 512 := BitVec.ofNat 512 (packBytes (flashBytes s 0 64))
    let s1 := { s with sec := { s.sec with life := .larva } }
    if !readOk || !dirForm d (mailboxBoot s) then .next (bootError 2 0 s1)
    else .next (itemBegin 1 { s1 with sec := { s1.sec with dir := d, dirImages := fld d 32 8 } })

/-! ### Items 1, 2 and 6 (R463, R492, R503, R504) -/

/-- A helper record's MAGIC. -/
def helperMagic : Nat := 0x5A564833

/-- The seed of the device's key pair, SHA3-256(0x01 ‖ PUF key) (R504). -/
def deviceSeed (key : BitVec 256) : BitVec 256 := Config.sha3 (1 :: unpackBytes 32 key.toNat)

/-- The key pair of a PUF key: ENROLLED. -/
def enrolled (key : BitVec 256) (s : State) : State :=
  { s with
    sec := { s.sec with
      idState := 0
      pufKey := some key
      pubKey := some (Config.devicePublic (deviceSeed key)) } }

/-- Item 2: the key is reconstructed from the raw PUF as the ROM read it and judged; without it the challenge is shown; the PUF SRAM is
overwritten with zeros. -/
def identify (readOk : Bool) (s : State) : State :=
  let raw := s.sec.raw
  let s1 := { s with sec := { s.sec with pufZeroed := true, item2 := true } }
  let missing (st : BitVec 2) : State := { s1 with sec := { s1.sec with idState := st, chal := Config.sha3 raw } }
  let h := flashHelper s
  if !readOk || objNat h 0 4 ≠ helperMagic then missing 1
  else
    let key := Config.reconstruct raw ((h.drop 64).take 3072)
    if Config.sha3 (unpackBytes 32 key.toNat) = BitVec.ofNat 256 (objNat h 3136 32) then enrolled key s1 else missing 2

/-- Item 6: the head takes address 0 and sends ASSIGN. -/
def chainBegin (s : State) : State :=
  if s.chain.head then
    sendAssign (s.updChain fun c => { c with addr := 0, assigned := true, assignFrom := s.te.time })
  else s

/-- PLL_LOCK_DONE (R417, R492): SYS_PLL, DDR_PLL and CORE_PLL lock, TIME starts; items 2, 3 and 6 begin, and item 2 ends, the helper area
read unless the flash fails to answer. -/
def execPllLockDone (readOk : Bool) (s : State) : Out :=
  if !larvaOn s || s.sec.item1 then .next s
  else
    let s1 := { s with
      sec := { s.sec with item1 := true }
      te := { s.te with running := true }
      clk := { s.clk with pll := 0x1F } }
    .next (itemEnd 2 (identify readOk (chainBegin (itemBegin 6 (itemBegin 3 (itemBegin 2 (itemEnd 1 s1)))))))

/-- PLL_LOCK_TIMEOUT (R492, R501). -/
def execPllLockTimeout (s : State) : Out := .next (if larvaOn s && !s.sec.item1 then bootError 1 0 s else s)

/-! ### Items 3, 4, 5 and 7 (R492 to R498) -/

/-- A certificate is judged: what failed, and what follows. -/
def judgeCert (b : List (BitVec 8)) (s : State) : Option BootFail × State :=
  match certFault b with
  | some (.fail c g) => (some (.fail c g), bootError c 0 s)
  | none => (none, itemBegin 4 (itemEnd 3 (certAccept b s)))

/-- Every image has been obtained and verified: those that the directory announces, or those that came before END_LOAD. -/
def imagesDone (s : State) : Bool := if mailboxBoot s then s.sec.loadEnded else decide (s.sec.images = s.sec.dirImages)

/-- The last image has been verified, with every channel trained: item 7 ends (R492). -/
def loadDone (s : State) : State := if s.sec.item5 && imagesDone s then itemEnd 7 s else s

/-- Image `i` is judged. -/
def judgeImage (i : Nat) (b : List (BitVec 8)) (s : State) : Option BootFail × State :=
  match imageFault s i b with
  | some (.fail c g) => (some (.fail c g), bootError c (if c = 4 || c = 5 then i else 0) (imageStreamed i b s))
  | none =>
    let s1 := imageAccept i b s
    (none, if i = 0 then itemBegin 5 (itemEnd 4 s1) else loadDone s1)

/-- The next object may be obtained: the items it depends on have ended. -/
def objectReady (s : State) : Bool :=
  larvaOn s && s.sec.item1 && (s.sec.objects < 2 || s.sec.item5)

/-- CERT_VERIFY (R493, R496): the certificate is read from its place in the flash and judged. -/
def execCertVerify (readOk : Bool) (s : State) : Out :=
  if !objectReady s || mailboxBoot s || s.sec.objects ≠ 0 then .next s
  else if !readOk then .next (bootError 2 0 s)
  else .next (judgeCert (flashCert s) s).2

/-- IMAGE_VERIFY (R493, R497): the next image is read from its place in the flash and judged. -/
def execImageVerify (readOk : Bool) (s : State) : Out :=
  let i := s.sec.objects - 1
  if !objectReady s || mailboxBoot s || s.sec.objects = 0 || i ≥ s.sec.dirImages then .next s
  else if !readOk then .next (bootError 2 0 s)
  else .next (judgeImage i (flashImage s i) s).2

/-- Image 0 has been applied and the channels are in training. -/
def training (s : State) : Bool := larvaOn s && s.sec.objects ≥ 2 && !s.sec.item5

/-- Capacity in GiB of a configuration (R353). -/
def cfgGib (cfg : BitVec 32) : Nat := 128 * 2 ^ fld cfg 0 2 * (1 + fld cfg 2 1)

/-- DDR_TRAIN_DONE (R353, R360, R492): every channel is trained with its DDR_CFG. -/
def execDdrTrainDone (s : State) : Out :=
  if !training s then .next s
  else
    let s1 := { s with
      ddr := { s.ddr with
        ch := s.ddr.ch.map fun c => { c with trained := true, trainedCfg := c.cfg, emptySince := s.te.time } }
      sc := { s.sc with capGib := cfgGib (s.chan 0).cfg }
      sec := { s.sec with item5 := true } }
    .next (loadDone (itemBegin 7 (itemEnd 5 s1)))

/-- DDR_TRAIN_TIMEOUT (R492): a channel is untrained after 120 ms. -/
def execDdrTrainTimeout (s : State) : Out :=
  .next (if training s && s.te.time ≥ s.sec.trainFrom + 120000000 then bootError 7 0 s else s)

/-! ### CHRYSALIS (R158 to R160, R486, R500, R512, R515, R535) -/

/-- Items 2 and 7 have ended. -/
def larvaDone (s : State) : Bool :=
  larvaOn s && s.sec.item2 && s.sec.item5 && imagesDone s

/-- The decode table is written into every tile, or every slot left empty; it is measured (R158 to R160). -/
def loadTable (s : State) : State :=
  let good := match s.sec.decodeSect with
    | some b => tableFits b
    | none => true
  let table := if good then s.sec.decodeSect else none
  let words := match table with
    | some b => decodeWords b
    | none => []
  { s with
    tiles := s.tiles.map fun x => { x with seq := { x.seq with decodeRam := words, decodeBad := [] } }
    sec := { s.sec with
      decodeSect := table
      decodeBad := !good
      decodeDigest := Config.sha3 (table.getD (List.replicate 2304 0)) } }

/-- The calibration tasks begin: each is due one period from now; the first TRIM runs at once, if tasks run (R512, R515). -/
def calBegin (s : State) : State :=
  let t := s.te.time
  { s with
    cal := { s.cal with
      started := true
      ch := s.cal.ch.map fun c => { c with dqsDue := t + 1000000, tempDue := t + 1000000, zqDue := t + 128000000 }
      dieDue := t + 1000000
      trimDue := t
      trimming := s.cal.en && !s.clk.activeXtal } }

/-- CHRYSALIS_ENTER (R500): the decode table is loaded, RUN_POINT is requested, the watchdog and the calibration tasks
start. -/
def execChrysalisEnter (s : State) : Out :=
  if !larvaDone s then .next s
  else
    let s1 := loadTable { s with
      sec := { s.sec with life := .chrysalis }
      flt := { s.flt with kickAt := s.te.time, window := s.te.time / 1000000000 } }
    .next (dvfsAsk s.sec.runPoint ((calBegin s1).updClk fun c => { c with dvfsReq := setFld c.dvfsReq 0 2 s.sec.runPoint.toNat }))

end Sys2Proof.Machine
end

