-- ==== Sys2Proof/Machine/Mailbox.lean ====
section
/-! DEFINITION. The quoin mailbox: commands, their results, identity, attestation and RUN (R503 to R511), and the SEC_
registers. -/

namespace Sys2Proof.Machine

/-- A byte of SEC_MB_BUF. -/
def Sec.mbByte (c : Sec) (a : Nat) : BitVec 8 := (kget c.mbBuf a).getD (Config.mbByte a)

/-- The argument of the command: the first LEN bytes. -/
def mbArg (s : State) : List (BitVec 8) := (List.range s.sec.mbLen.toNat).map s.sec.mbByte

/-- Bytes put into SEC_MB_BUF. -/
def mbPut (a : Nat) (bs : List (BitVec 8)) (m : List (Nat × BitVec 8)) : List (Nat × BitVec 8) :=
  bs.zipIdx.foldl (fun z (b, i) => kset z (a + i) b) m

/-- What a command answers: its RESULT and data, with the state it leaves. -/
abbrev MbAnswer := Nat × List (BitVec 8) × State

/-- RESULT of a failed boot check (R506). -/
def BootFail.result : BootFail → Nat
  | .fail _ true => 3
  | .fail _ false => 4

/-- The commands of a mailbox boot are allowed (R506). -/
def mbLoading (s : State) : Bool := larvaOn s && mailboxBoot s && !s.sec.loadEnded

/-- LOAD (R493): 1 B to 512 KiB of the current object. -/
def mbLoad (s : State) : MbAnswer :=
  if !mbLoading s || !objectReady s then (1, [], s)
  else if s.sec.mbLen = 0 || s.sec.mbLen.toNat > 524288 then (2, [], s)
  else (0, [], { s with sec := { s.sec with loadBuf := s.sec.loadBuf ++ mbArg s } })

/-- END_OBJECT (R493, R496, R497): the object loaded is verified. -/
def mbEndObject (s : State) : MbAnswer :=
  if !mbLoading s || !objectReady s then (1, [], s)
  else
    let b := s.sec.loadBuf
    let s1 := { s with sec := { s.sec with loadBuf := [] } }
    let (f, s2) := if s.sec.objects = 0 then judgeCert b s1 else judgeImage (s.sec.objects - 1) b s1
    ((f.map BootFail.result).getD 0, [], s2)

/-- END_LOAD (R492, R493): the last image has been sent; item 7 ends with it, once it has begun. -/
def mbEndLoad (s : State) : MbAnswer :=
  if !mbLoading s || s.sec.images = 0 then (1, [], s)
  else (0, [], loadDone { s with sec := { s.sec with loadEnded := true } })

/-- DECODE_STATUS (R159). -/
def mbDecodeStatus (s : State) : MbAnswer :=
  if !s.sec.life.running then (1, [], s) else (0, unpackBytes 4 (b2n s.sec.decodeBad), s)

/-- GET_PUBKEY (R504). -/
def mbGetPubkey (s : State) : MbAnswer :=
  if !s.sec.life.running then (1, [], s)
  else
    match s.sec.pubKey with
    | some k => (0, unpackBytes 1312 k.toNat, s)
    | none => (5, [], s)

/-- A byte string cut or filled to `n`. -/
def fixLen (n : Nat) (l : List (BitVec 8)) : List (BitVec 8) := (l ++ List.replicate n 0).take n

/-- The body of an attestation report (R508). -/
def attestBody (s : State) (pub : BitVec 10496) (nonce : List (BitVec 8)) : List (BitVec 8) :=
  let digest (d : BitVec 256) : List (BitVec 8) := unpackBytes 32 d.toNat
  unpackBytes 4 0x5A565235 ++ unpackBytes 1 s.sec.life.code ++ unpackBytes 1 s.sec.images ++ unpackBytes 2 0
    ++ unpackBytes 4 (devPart + 2 ^ 24 * s.sec.grade.toNat) ++ unpackBytes 4 s.sec.straps.toNat ++ unpackBytes 4 s.chain.status
    ++ unpackBytes 4 s.bond.status ++ unpackBytes 8 s.dma.dseqLast.toNat ++ unpackBytes 8 s.te.time
    ++ unpackBytes 8 s.sec.ownerId.toNat ++ nonce ++ digest (Config.sha3 (unpackBytes 1312 pub.toNat)) ++ digest s.sec.certDigest
    ++ digest s.sec.decodeDigest
    ++ ((List.range 8).map fun i => digest (if i < s.sec.images then s.sec.imgDigest.getD i 0 else 0)).flatten

/-- ATTEST (R508). -/
def mbAttest (s : State) : MbAnswer :=
  if !s.sec.life.running then (1, [], s)
  else if s.sec.mbLen ≠ 32 then (2, [], s)
  else
    match s.sec.pubKey, s.sec.pufKey with
    | some pub, some key =>
      let body := attestBody s pub (mbArg s)
      (0, body ++ fixLen 2420 (Config.sign (deviceSeed key) (Config.sha3 body)), s)
    | _, _ => (5, [], s)

/-- An enrolment token's fields match the certificate and the challenge (R505). -/
def tokenForm (s : State) (b : List (BitVec 8)) : Bool :=
  decide (objNat b 0 4 = 0x5A564534) && decide (objNat b 4 4 = devPart) && decide (objNat b 8 8 = s.sec.ownerId.toNat)
    && decide (objNat b 0x10 32 = s.sec.chal.toNat) && objZero b 0x30 16

/-- The helper record of a key (R503). -/
def helperRecord (bits : List (BitVec 8)) (key : BitVec 256) : List (BitVec 8) :=
  unpackBytes 4 helperMagic ++ List.replicate 60 0 ++ bits ++ unpackBytes 32 (Config.sha3 (unpackBytes 32 key.toNat)).toNat
    ++ List.replicate 32 0

/-- ENROL (R505): fresh helper data is made and written, and the key pair derived.  `written` says that the flash took the
record. -/
def mbEnrol (written : Bool) (s : State) : MbAnswer :=
  let b := mbArg s
  if s.sec.life ≠ .chrysalis || s.sec.idState = 0 then (1, [], s)
  else if s.sec.mbLen ≠ 2484 then (2, [], s)
  else if !tokenForm s b then (4, [], s)
  else if !Config.sigOk s.sec.ownerKey (Config.sha3 (b.take 64)) (b.drop 64) then (3, [], s)
  else if !written then (6, [], s)
  else
    let (k, s1) := s.draw 64
    let bits := (List.range 3072).map (Config.helperByte s.sec.raw k.toNat)
    let key := Config.reconstruct s.sec.raw bits
    (0, [], enrolled key { s1 with sec := { s1.sec with flash := flashPut (helperOff s) (helperRecord bits key) s1.sec.flash } })

/-- RUN (R509). -/
def mbRun (s : State) : MbAnswer :=
  if s.sec.life ≠ .chrysalis then (1, [], s)
  else if s.sec.idState ≠ 0 then (5, [], s)
  else
    let s1 := { s with sec := { s.sec with life := .imago } }
    (0, [], if standby s1 then s1 else releaseAll s1)

/-- The command of an OP; an OP not listed is BAD_OP. -/
def mbCommand (op : Nat) (written : Bool) (s : State) : MbAnswer :=
  match op with
  | 0x01 => mbLoad s
  | 0x02 => mbEndObject s
  | 0x03 => mbEndLoad s
  | 0x04 => mbDecodeStatus s
  | 0x10 => mbGetPubkey s
  | 0x11 => mbAttest s
  | 0x12 => mbEnrol written s
  | 0x20 => mbRun s
  | _ => (7, [], s)

/-- A write of SEC_MB_CMD (R506): BUSY with the command's work under way, or REJECTED while BUSY; a completion of the same cycle would
still come first (R511). -/
def mbStart (op : Nat) (written : Bool) (s : State) : State :=
  if s.sec.mbState = 1 then
    { s with
      sec := { s.sec with
        mbRejected := true
        mbLate := some (op, written, s.sec.mbRejected)
        now := s.sec.now.note 16 true } }
  else
    let (code, data, s1) := mbCommand op written s
    { s1 with
      sec := { s1.sec with
        mbState := 1
        mbOp := BitVec.ofNat 8 op
        mbDone := some (BitVec.ofNat 8 code, data) } }

/-- A command written while BUSY in the cycle of the completion is accepted after all, and REJECTED is as before it (R511). -/
def mbAfter (s : State) : State :=
  match s.sec.mbLate with
  | none => s
  | some (op, written, was) =>
    mbStart op written { s with
      sec := { s.sec with
        mbRejected := was
        mbLate := none
        now := { s.sec.now with set := setBit s.sec.now.set 16 false } } }

/-- MAILBOX_COMPLETE (R506, R511): the result, its length and its code are shown; a command written in this cycle then begins. -/
def execMailboxComplete (s : State) : Out :=
  match s.sec.mbDone with
  | some (code, data) =>
    .next (mbAfter { s with
      sec := { s.sec with
        mbBuf := mbPut 0 data s.sec.mbBuf
        mbLen := BitVec.ofNat 20 data.length
        mbResult := code
        mbState := if code = 0 then 2 else 3
        mbDone := none } })
  | none => .next s

/-- A mailbox command as a register write. -/
def mbWrite (who : Who) (op : Nat) (written : Bool) (s : State) : State := regWrite who .sec .larva (mbStart op written) s

/-- LOAD. -/
def execLoad (who : Who) (s : State) : Out := .next (mbWrite who 0x01 true s)
/-- END_OBJECT. -/
def execEndObject (who : Who) (s : State) : Out := .next (mbWrite who 0x02 true s)
/-- END_LOAD. -/
def execEndLoad (who : Who) (s : State) : Out := .next (mbWrite who 0x03 true s)
/-- DECODE_STATUS. -/
def execDecodeStatus (who : Who) (s : State) : Out := .next (mbWrite who 0x04 true s)
/-- GET_PUBKEY. -/
def execGetPubkey (who : Who) (s : State) : Out := .next (mbWrite who 0x10 true s)
/-- ATTEST. -/
def execAttest (who : Who) (s : State) : Out := .next (mbWrite who 0x11 true s)
/-- ENROL. -/
def execEnrol (who : Who) (written : Bool) (s : State) : Out := .next (mbWrite who 0x12 written s)
/-- RUN. -/
def execRun (who : Who) (s : State) : Out := .next (mbWrite who 0x20 true s)

/-! ### SEC_ registers (R510) -/

/-- A write of SEC_MB_CMD through its register: the flash write of an ENROL succeeds or fails freely (log entry 1). -/
def mbCmdWrite (v : Nat) (s : State) : State :=
  let (ok, s1) := if v % 256 = 0x12 then s.draw 1 else (1, s)
  mbStart (v % 256) (ok = 1) s1

/-- Bytes written into SEC_MB_BUF; a host's while BUSY are discarded (R506). -/
def mbBufWrite (host : Bool) (a : Nat) (bs : List (BitVec 8)) (s : State) : State :=
  if host && s.sec.mbState = 1 then s else { s with sec := { s.sec with mbBuf := mbPut a bs s.sec.mbBuf } }

/-- The SEC_ register at offset `o`, SEC_MB_BUF aside: its value and its width in bytes. -/
def Sec.readReg (c : Sec) (o : Nat) : Option (Nat × Nat) :=
  if o = 0x000 then some (c.idState.toNat + 4 * b2n c.certOk + 8 * (c.images % 16) + 128 * b2n c.bootFail, 4)
  else if o = 0x004 then some (c.bootCode.toNat + 2 ^ 8 * c.bootImage.toNat + 2 ^ 31 * b2n c.bootValid, 4)
  else if o = 0x008 then some (c.straps.toNat, 4)
  else if o = 0x00C then some (0, 4)
  else if o = 0x010 then some (c.mbState.toNat + 2 ^ 8 * c.mbResult.toNat + 2 ^ 16 * b2n c.mbRejected, 4)
  else if o = 0x014 then some (c.mbLen.toNat, 4)
  else if 0x020 ≤ o && o < 0x040 && o % 4 = 0 then some (fld c.chal (8 * (o - 0x020)) 32, 4)
  else if 0x040 ≤ o && o < 0x060 && o % 4 = 0 then some (fld Config.rootDigest (8 * (o - 0x040)) 32, 4)
  else none

end Sys2Proof.Machine
end

