-- ==== Sys2Proof/Machine/SeqRegs.lean ====
section
/-! DEFINITION. The SEQ_ registers by offset, as MFSR, MTSR, the quoin and the host reach them (R100, R118). -/

namespace Sys2Proof.Machine

/-- SEQ_STATUS (R118). -/
def SeqCore.status (c : SeqCore) : Nat :=
  c.level.toNat + 4 * b2n c.halted + 8 * b2n c.wait.isSome + 16 * b2n (c.blk.any id) + 32 * b2n c.doubleTrap

/-- SEQ_RSP_STATE (R118). -/
def SeqCore.rspState (c : SeqCore) : Nat := c.rstack.length + 256 * (c.spilled % 2 ^ 15)

/-- The SEQ_ register whose first byte is at offset `o`: its value, and the tag MFSR gives it (R100, R118); none when
no register begins there. -/
def SeqCore.readReg (c : SeqCore) (o : Nat) : Option (BitVec 64 × BitVec 4) :=
  let int (v : Nat) : Option (BitVec 64 × BitVec 4) := some (BitVec.ofNat 64 v, 0x1)
  let ladr (v : Nat) : Option (BitVec 64 × BitVec 4) := some (BitVec.ofNat 64 v, 0x4)
  let shadow (b : List TWord) (k : Nat) : Option (BitVec 64 × BitVec 4) :=
    let w := b.getD k .uninit
    some (BitVec.ofNat 64 (w.val.toNat + 2 ^ 32 * w.tag.toNat), w.tag)
  if o = 0x000 then int (c.ctrl.toNat % 16)
  else if o = 0x004 then int c.status
  else if o = 0x008 then ladr c.entry.toNat
  else if o = 0x00C then ladr (c.pc.toNat % 2 ^ 17)
  else if o = 0x010 then ladr c.vecIrq.toNat
  else if o = 0x014 then ladr c.vecUrg.toNat
  else if o = 0x018 then ladr c.vecTrap.toNat
  else if o = 0x020 then int c.trapCause.toNat
  else if o = 0x024 then ladr c.trapPc.toNat
  else if o = 0x028 then int c.trapAddr.toNat
  else if o = 0x030 then int c.rspBase.toNat
  else if o = 0x034 then int c.rspLimit.toNat
  else if o = 0x038 then int c.rspState
  else if o = 0x03C then int c.ffcount.toNat
  else if 0x040 ≤ o && o < 0x050 && o % 4 = 0 then int (fld c.evtLatch (32 * ((o - 0x40) / 4)) 32)
  else if o = 0x050 then int c.stepStatN.toNat
  else if o = 0x054 then int c.stepStatU.toNat
  else if o = 0x058 then int c.stepIdN.toNat
  else if o = 0x05C then int c.stepIdU.toNat
  else if o = 0x060 then int c.epcIrq.toNat
  else if o = 0x064 then int c.epcUrg.toNat
  else if 0x080 ≤ o && o < 0x0C0 && o % 8 = 0 then shadow c.gIrq ((o - 0x80) / 8)
  else if 0x0C0 ≤ o && o < 0x100 && o % 8 = 0 then shadow c.gUrg ((o - 0xC0) / 8)
  else none

/-- A word written to a shadow register: a tile's sequencer cannot write tag 0xF, which leaves the tag as it was; the
payload is written all the same (R118, log entry 73). -/
def shadowPut (b : List TWord) (k : Nat) (tag : BitVec 4) (v : BitVec 32) (tile : Bool) : List TWord :=
  upd b k fun w => ⟨if tile && tag == 0xF#4 then w.tag else tag, v⟩

/-- Write the RW fields of the SEQ_ register at offset `o` (R100, R118). `halt` says that HALT_REQ may be written, which
only the quoin's bus write does; `tile` that a tile's sequencer writes; `tag` is what a shadow register's TAG takes. -/
def SeqCore.writeReg (c : SeqCore) (o : Nat) (v : BitVec 32) (tag : BitVec 4) (tile halt : Bool) : SeqCore :=
  let pc17 : BitVec 17 := BitVec.ofNat 17 (fld v 3 14 * 8)
  let sp17 : BitVec 17 := BitVec.ofNat 17 (fld v 2 15 * 4)
  let epc : BitVec 19 := BitVec.ofNat 19 (fld v 3 14 * 8 + fld v 17 2 * 2 ^ 17)
  if o = 0x000 then
    let c1 := { c with ctrl := setFld c.ctrl 0 (if halt then 4 else 3) v.toNat }
    if halt && bit v 3 && c.wait.isNone && !c.yielded && c.group.isNone then { c1 with halted := true } else c1
  else if o = 0x008 then { c with entry := pc17 }
  else if o = 0x010 then { c with vecIrq := pc17 }
  else if o = 0x014 then { c with vecUrg := pc17 }
  else if o = 0x018 then { c with vecTrap := pc17 }
  else if o = 0x030 then { c with rspBase := sp17 }
  else if o = 0x034 then { c with rspLimit := sp17 }
  else if o = 0x060 then { c with epcIrq := epc }
  else if o = 0x064 then { c with epcUrg := epc }
  else if 0x080 ≤ o && o < 0x0C0 && o % 8 = 0 then { c with gIrq := shadowPut c.gIrq ((o - 0x80) / 8) tag v tile }
  else if 0x0C0 ≤ o && o < 0x100 && o % 8 = 0 then { c with gUrg := shadowPut c.gUrg ((o - 0xC0) / 8) tag v tile }
  else c

end Sys2Proof.Machine
end

