-- ==== Sys2Proof/Machine/SmallChan.lean ====
section
/-! DEFINITION. The small-channel engine (R275 to R278, R282). -/

namespace Sys2Proof.Machine

/-! ### Fields (R276) -/

/-- ORIENT: NARROW_OUT. -/
def scOut (e : BitVec 512) : Bool := bit e 16
/-- XF. -/
def scXf (e : BitVec 512) : Nat := fld e 17 2
/-- WF. -/
def scWf (e : BitVec 512) : Nat := fld e 19 2
/-- XS_FMT. -/
def scXsFmt (e : BitVec 512) : Nat := fld e 21 2
/-- WS_FMT. -/
def scWsFmt (e : BitVec 512) : Nat := fld e 23 2
/-- CIN. -/
def scCin (e : BitVec 512) : Nat := fld e 112 8
/-- COUT. -/
def scCout (e : BitVec 512) : Nat := fld e 120 8
/-- W_START. -/
def scWStart (e : BitVec 512) : Nat := fld e 192 15
/-- WS_START. -/
def scWsStart (e : BitVec 512) : Nat := fld e 208 15
/-- XSCALE. -/
def scXScale (e : BitVec 512) : Nat := fld e 224 16

/-- Bytes of the weights. -/
def scBytes (e : BitVec 512) : Nat := (Geom.ofEntry e).taps * scCin e * scCout e * (if scWf e = 0 then 1 else 2)

/-- Weight courses. -/
def scCourses (e : BitVec 512) : Nat := (scBytes e + 127) / 128

/-- Courses of the load phase (R278). -/
def scLoads (e : BitVec 512) : Nat := scCourses e + (if scWsFmt e = 3 then 0 else 1)

/-- Output pixels. -/
def scPixels (e : BitVec 512) : Nat := pairM e

/-! ### Checks (R275, R276, R278, R282) -/

/-- The fields of R276. -/
def sceFields : List (Nat × Nat) :=
  [(0, 8), (10, 2), (16, 9), (32, 32), (64, 24), (96, 32), (128, 15), (144, 16), (160, 16), (192, 15), (208, 15), (224, 16), (320, 128)]

/-- A scale word of format `f` (3: none) has a non-zero ZP field (R203). -/
def hasZp (f w : Nat) : Bool := f < 2 && decide (w / 256 % 256 ≠ 0)

/-- The causes of SCE_ERR for a command; `next` is the entry after it. -/
def sceCause (e : BitVec 512) (next : Option (BitVec 512)) : Option Nat :=
  let g := Geom.ofEntry e
  let within (n hi : Nat) : Bool := decide (1 ≤ n) && decide (n ≤ hi)
  if strayBits e sceFields || badRange e 0x28 || badRange e 0x30 || !zeroRange e 0x38 || g.pad = 3 then some 7
  else if scXf e > 1 || scWf e > 1 then some 2
  else if !(within (scCin e) (if scOut e then 64 else 8)) || !(within (scCout e) (if scOut e then 8 else 64)) then some 3
  else if g.zeroField || g.kh > 7 || g.kw > 7 || g.h = 0 || g.w = 0 then some 4
  else if scBytes e > 32768 then some 5
  else if hasZp (scXsFmt e) (scXScale e) then some 8
  else
    match next with
    | none => some 6
    | some d => if eType d ≠ 2 || dnZp d || (dnPool d ≠ 0 && dnHod d) then some 6 else none

/-- Malformed: recorded in SCE_ERR, and the step ends (R278). -/
def sceReject (t : Nat) (c : EngCmd) (cause : Nat) (s : State) : State := malformed t c.urgent (sceErr t cause c.index s)

/-- SCE_CMD (R276, R278): the command is checked with the drain command that must follow it, and goes to issue. -/
def execSceCmd (tile : Nat) (s : State) : Out :=
  match toCheck s tile 2 with
  | none => .next s
  | some c =>
    if !s.tileLive tile then .next s
    else
      match sceCause c.raw (entryAt s tile c.urgent (c.index + 1)) with
      | some k => .next (sceReject tile c k s)
      | none => .next (passCheck tile 2 s)

/-! ### The two phases (R277, R278) -/

/-- Both result banks have been drained. -/
def SceEng.drained (e : SceEng) : Bool := e.bankRows.all (· = 0) && e.bankDone.all (!·) && e.landing.isEmpty

/-- The command at the engine's turn (R243, R278). -/
def sceTurn (s : State) (t : Nat) : Option EngCmd :=
  match engHead s t 2 with
  | some c => if s.tileLive t && (c.begun || !c.urgent || (s.tile t).sce.drained) then some c else none
  | none => none

/-- The engine begins the command at its turn. -/
def beginSce (t : Nat) (c : EngCmd) (s : State) : State :=
  if c.begun then s
  else (beginCmd t 2 s).updSce t fun e => { e with urgent := c.urgent, weights := [], loadAt := 0, pixel := 0, tap := 0, sums := [] }

/-- SCE_LOAD_PHASE (R278): the next weight course, or the scale course, is loaded. -/
def execSceLoadPhase (tile : Nat) (held : Held) (s : State) : Out :=
  match sceTurn s tile with
  | none => .next s
  | some c =>
    let e := c.raw
    let s0 := beginSce tile c s
    let i := (s0.tile tile).sce.loadAt
    if i ≥ scLoads e then .next s
    else
      let course := if i < scCourses e then scWStart e + i else scWsStart e
      match engRead tile c.urgent 2 (course % 32768) (charge tile c.urgent true held s0) with
      | .error z => .next z
      | .ok (d, s1) =>
        if decide (i = scCourses e) && (List.range 64).any fun k => hasZp (scWsFmt e) (lane d 16 k) then
          .next (sceReject tile c 8 s1)
        else
          let s2 := s1.updSce tile fun x => { x with weights := sset (fun _ => 0) x.weights i d, loadAt := i + 1 }
          .next (if i + 1 = scLoads e && hasRange e 0x30 then retireRanges tile 2 c.urgent [cmdRange e 0x30] s2 else s2)

/-- Weight (t, ci, co) in the buffer. -/
def scWeight (e : BitVec 512) (ws : List (Nat × BitVec 1024)) (t ci co : Nat) : Int :=
  let w := if scWf e = 0 then 1 else 2
  let b := ((t * scCin e + ci) * scCout e + co) * w
  sgn (8 * w) (fld (sget (fun _ => (0 : BitVec 1024)) ws (b / 128)) (8 * (b % 128)) (8 * w))

/-- Input channel `ci` of a pixel's course. -/
def scInput (e : BitVec 512) (d : BitVec 1024) (ci : Nat) : Int :=
  let w := if scXf e = 0 then 8 else 16
  sgn w (lane d w ci)

/-- The sums of a pixel with one more tap, whose course is `d`. -/
def scAdd (e : BitVec 512) (ws : List (Nat × BitVec 1024)) (t : Nat) (d : BitVec 1024) (sums : List Int) : List Int :=
  (List.range (scCout e)).map fun co =>
    sums.getD co 0 + ((List.range (scCin e)).map fun ci => scInput e d ci * scWeight e ws t ci co).foldl (· + ·) 0

/-- A pixel's results: scaled exactly, rounded once, in 64 columns (R277). -/
def scRow (e : BitVec 512) (ws : List (Nat × BitVec 1024)) (sums : List Int) : BitVec 2048 :=
  let sc : BitVec 1024 := sget (fun _ => (0 : BitVec 1024)) ws (scCourses e)
  BitVec.ofNat 2048 (packLanes 32 ((List.range 64).map fun co =>
    if co < scCout e then
      f32Out (((FV.ofInt (sums.getD co 0)).mul (scaleVal (scXsFmt e) (scXScale e))).mul
        (if scWsFmt e = 3 then FV.ofInt 1 else scaleVal (scWsFmt e) (lane sc 16 co)))
    else 0))

/-- The result bank may take a new row block (R242, R278). -/
def sceBankFree (e : SceEng) (b : Nat) : Bool :=
  e.bankRows.getD b 0 = 0 && !e.bankDone.getD b false && !(e.landing.any fun l => l.1 / 64 % 2 = b)

/-- SCE_STREAM_TAP (R277, R278): one tap of the pixel in progress; the last tap sends the pixel's results on.  `bufBad`:
the weight buffer shows a parity error. -/
def execSceStreamTap (tile : Nat) (held : Held) (bufBad : Bool) (s : State) : Out :=
  match sceTurn s tile with
  | none => .next s
  | some c =>
    let e := c.raw
    let x := (s.tile tile).sce
    let g := Geom.ofEntry e
    let bank := x.pixel / 64 % 2
    if !c.begun || x.loadAt < scLoads e || x.pixel ≥ scPixels e
        || (x.pixel % 64 = 0 && x.tap = 0 && !sceBankFree x bank) then .next s
    else
      let s1 := charge tile c.urgent true held s
      if bufBad then .next (stepFault tile c.urgent stParity s1)
      else
        let ow := g.ow.toNat
        let got : Except State (BitVec 1024 × State) :=
          match g.pixel (x.pixel / ow) (x.pixel % ow) x.tap with
          | some p => engRead tile c.urgent 2 (g.course p) s1
          | none => .ok (0, s1)
        match got with
        | .error z => .next z
        | .ok (d, s2) =>
          let sums := scAdd e x.weights x.tap d (if x.tap = 0 then [] else x.sums)
          if x.tap + 1 < g.taps then .next (s2.updSce tile fun y => { y with sums := sums, tap := x.tap + 1 })
          else
            let s3 := s2.updSce tile fun y =>
              { y with sums := [], tap := 0, pixel := x.pixel + 1, landing := y.landing ++ [(x.pixel, scRow e x.weights sums)] }
            .next (if x.pixel + 1 = scPixels e && hasRange e 0x28 then retireRanges tile 2 c.urgent [cmdRange e 0x28] s3 else s3)

/-- SCE_RESULT_LAND (R277, R278): the oldest results go into their bank; the last of a row block hands the bank to the
drain, and the last of a command ends it. -/
def execSceResultLand (tile : Nat) (s : State) : Out :=
  let x := (s.tile tile).sce
  match x.landing, sceTurn s tile with
  | (p, row) :: rest, some c =>
    let b := p / 64 % 2
    let lastPixel := decide (p + 1 = scPixels c.raw)
    let done := decide (p % 64 = 63) || lastPixel
    let s1 := s.updSce tile fun y =>
      { y with
        res := sset (fun _ => 0) y.res (64 * b + p % 64) row, landing := rest
        bankRows := upd y.bankRows b (max (p % 64 + 1))
        bankDone := if done then lput y.bankDone b true else y.bankDone }
    .next (if lastPixel then popCmd tile 2 s1 else s1)
  | _, _ => .next s

/-! ### SCE_ registers (R282) -/

/-- A write of SCE_CNT_CLR. -/
def sceCntClr (v : BitVec 32) (e : SceEng) : SceEng :=
  { e with
    busyCnt := if bit v 0 then 0 else e.busyCnt, waitCnt := if bit v 1 then 0 else e.waitCnt, now := e.now.zeroed v }

/-- The counters as they read: events of the cycle in which they were cleared are not counted (R283). -/
def SceEng.settle (e : SceEng) : SceEng := sceCntClr e.now.clr e

/-- SCE_CNT_CLR. -/
def execSceCntClr (who : Who) (tile : Nat) (value : BitVec 32) (s : State) : Out :=
  .next (if tile < 16 then regWrite who (.tile tile) .yes (fun z => z.updSce tile (sceCntClr value)) s else s)

/-- A write of SCE_STATUS: a 1 clears MALFORMED, unless an event of the same cycle sets it (R283). -/
def sceStatusWrite (v : BitVec 32) (e : SceEng) : SceEng :=
  { e with malformed := e.malformed && e.now.keeps v 8 }

/-- A write of SCE_ERR: a 1 clears VALID. -/
def sceErrWrite (v : BitVec 32) (e : SceEng) : SceEng := { e with err := e.now.errAfter (bit v 31) 31 e.err }

/-- The SCE_ register at offset `o`: its value and its width in bytes. -/
def SceEng.readReg (e : SceEng) (o : Nat) : Option (Nat × Nat) :=
  if o = 0x000 then
    some (busyBits e.queue + 4 * b2n (e.bankRows.getD 0 0 ≠ 0) + 8 * b2n (e.bankRows.getD 1 0 ≠ 0) + 256 * b2n e.malformed, 4)
  else if o = 0x004 then some (e.err.toNat, 4)
  else if o = 0x008 then some (e.busyCnt.toNat, 4)
  else if o = 0x00C then some (e.waitCnt.toNat, 4)
  else if o = 0x010 then some (0, 4)
  else none

end Sys2Proof.Machine
end

