-- ==== Sys2Proof/Machine/Regs.lean ====
section
/-! DEFINITION. BAR0 as one space (R396, R397): which register stands at an offset, what it reads, who may write it, and
what a write of it does. -/

namespace Sys2Proof.Machine

/-! ### The map -/

/-- A block of registers of BAR0 (R396). -/
inductive RegBlock where
  | dev | flt | ic | icTile (n : Nat) | clk | cal | dma | sc | ddr (c : Nat) | mor | hod | bond | chain | sec | time | res
  | seq (n : Nat) | vec (n : Nat) | arr (n : Nat) | ts (n : Nat) | sce (n : Nat) | drn (n : Nat) | step (n : Nat)
  deriving DecidableEq, Repr

/-- A memory window of BAR0 (R46, R117, R164, R510). -/
inductive MemWindow where
  | store (n : Nat) | lram (n : Nat) | tags (n : Nat) | vpram (n : Nat) | mbBuf
  deriving DecidableEq, Repr

/-- The tile window and the offset in it. -/
def tileWindow (o : Nat) : Option (Nat × Nat) :=
  if 0x01000000 ≤ o && o < 0x09000000 then some ((o - 0x01000000) / 0x800000, o % 0x800000) else none

/-- The memory window at BAR0 offset `o`, and the offset in it. -/
def memWindow (o : Nat) : Option (MemWindow × Nat) :=
  match tileWindow o with
  | some (n, x) =>
    if x < 0x400000 then some (.store n, x)
    else if 0x600000 ≤ x && x < 0x620000 then some (.lram n, x - 0x600000)
    else if 0x640000 ≤ x && x < 0x648000 then some (.tags n, x - 0x640000)
    else if 0x700000 ≤ x && x < 0x710000 then some (.vpram n, x - 0x700000)
    else none
  | none => if 0x780000 ≤ o && o < 0x800000 then some (.mbBuf, o - 0x780000) else none

/-- The register block at BAR0 offset `o`, and the offset in the frame that its registers are numbered in. -/
def regBlock (o : Nat) : Option (RegBlock × Nat) :=
  match tileWindow o with
  | some (n, x) =>
    match x / 0x1000 with
    | 0x400 => some (.seq n, x - 0x400000)
    | 0x401 => some (.vec n, x - 0x401000)
    | 0x402 => some (.arr n, x - 0x402000)
    | 0x403 => some (.ts n, x - 0x403000)
    | 0x404 => some (.sce n, x - 0x404000)
    | 0x405 => some (.drn n, x - 0x405000)
    | 0x406 => some (.step n, x - 0x406000)
    | _ => none
  | none =>
    let x := o % 0x100000
    match o / 0x100000 with
    | 0 => if 0x1000 ≤ x && x < 0x2000 then some (.flt, x - 0x1000) else some (.dev, x)
    | 1 => if 0x8000 ≤ x && x < 0x9000 then some (.icTile ((x - 0x8000) / 0x100), x) else some (.ic, x)
    | 2 => if 0x800 ≤ x && x < 0x1000 then some (.cal, x - 0x800) else some (.clk, x)
    | 3 => some (.dma, x)
    | 4 =>
      if x < 0x10000 then some (.sc, x)
      else if x < 0x10800 then some (.ddr ((x - 0x10000) / 0x100), x % 0x100)
      else none
    | 5 => if x < 0x1000 then some (.mor, x) else if x < 0x2000 then some (.hod, x - 0x1000) else none
    | 6 => if 0x800 ≤ x && x < 0x1000 then some (.chain, x) else some (.bond, x)
    | 7 => if x < 0x1000 then some (.sec, x) else none
    | 8 => some (.time, x)
    | 9 => some (.res, x)
    | _ => none

/-- The block whose clock and fence rule a register block. -/
def RegBlock.blk : RegBlock → Blk
  | .hod => .hod
  | .sc => .sc
  | .ddr c => .ddr c
  | .dma => .dma
  | .bond => .bond
  | .sec => .sec
  | .seq n | .vec n | .arr n | .ts n | .sce n | .drn n | .step n => .tile n
  | .icTile n => .icTile n
  | _ => .always

/-- The block of a memory window. -/
def MemWindow.blk : MemWindow → Blk
  | .store n | .lram n | .tags n | .vpram n => .tile n
  | .mbBuf => .sec

/-! ### Reading -/

/-- The IC_ register at offset `o` (R435): SET and CLR registers read the state that they change. -/
def icReadReg (s : State) (o : Nat) : Option (Nat × Nat) :=
  let word (v : BitVec 512) : Option (Nat × Nat) := some (fld v (32 * (o % 0x40 / 4)) 32, 4)
  if o < 0x0C0 && o % 4 = 0 then word s.ic.pend
  else if 0x100 ≤ o && o < 0x1C0 && o % 4 = 0 then word s.ic.qmask
  else if 0x200 ≤ o && o < 0x2C0 && o % 4 = 0 then word s.ic.hmask
  else if 0x300 ≤ o && o < 0x340 && o % 4 = 0 then word s.ic.qlevel
  else if 0x1000 ≤ o && o < 0x1800 && o % 4 = 0 then some ((s.ic.vec ((o - 0x1000) / 4)).toNat, 4)
  else if 0x8000 ≤ o && o < 0x9000 && o % 8 = 0 then
    let c := (s.tile ((o - 0x8000) / 0x100)).ic
    match o % 0x100 / 8 with
    | 0 | 1 | 2 => some (c.pend.toNat, 8)
    | 3 | 4 | 5 => some (c.mask.toNat, 8)
    | 6 => some (c.level.toNat, 8)
    | _ => none
  else none

/-- The register that begins at offset `o` of block `b`: its value and its width in bytes. -/
def RegBlock.read (b : RegBlock) (o : Nat) (s : State) : Option (Nat × Nat) :=
  match b with
  | .dev => devReadReg { s with host := s.host.settle } o
  | .flt => s.flt.settle.readReg o
  | .ic | .icTile _ => icReadReg s o
  | .clk => clkReadReg (s.updClk Clock.settle) o
  | .cal => s.cal.settle.readReg o
  | .dma => (if standby s then s.dma.settle.asStandby else s.dma.settle).readReg o
  | .sc => s.sc.settle.readReg o
  | .ddr c => (s.chan c).settle.readReg o
  | .mor => s.mor.settle.readReg o
  | .hod => s.hod.settle.readReg o
  | .bond => s.bond.settle.readReg o
  | .chain => s.chain.settle.readReg o
  | .sec => s.sec.readReg o
  | .time => s.te.settle.readReg o
  | .res => resReadReg s.host.settle o
  | .seq n => ((s.core n).readReg o).map fun v => (v.1.toNat, if 0x080 ≤ o then 8 else 4)
  | .vec n => (s.tile n).vec.settle.readReg o
  | .arr n => (s.tile n).arr.settle.readReg o
  | .ts n => (s.tile n).ts.settle.readReg o
  | .sce n => (s.tile n).sce.settle.readReg o
  | .drn n => (s.tile n).drn.settle.readReg o
  | .step n => (s.tile n).st.settle.readReg o

/-- The register that begins at BAR0 offset `o`: its block, its offset there, its value and its width. -/
def regAt (o : Nat) (s : State) : Option (RegBlock × Nat × Nat × Nat) :=
  match regBlock o with
  | some (b, x) => (b.read x s).map fun r => (b, x, r.1, r.2)
  | none => none

/-- The word at BAR0 offset `o`, a multiple of 4 (R397): a 32-bit register, a half of a 64-bit one, or zero. -/
def regWord (o : Nat) (s : State) : Nat :=
  match regAt o s with
  | some (_, _, v, _) => v % 2 ^ 32
  | none =>
    if o % 8 = 4 then
      match regAt (o - 4) s with
      | some (_, _, v, 8) => v / 2 ^ 32 % 2 ^ 32
      | _ => 0
    else 0

/-- Bytes `o` to `o + n - 1`, read from the word at `u`: a fragment of a word is a free value (R17, R397). -/
def wordBytes (o n u : Nat) (s : State) : List (BitVec 8) × State :=
  let inn := (List.range 4).filter fun i => decide (o ≤ u + i) && decide (u + i < o + n)
  if inn.length = 4 then (unpackBytes 4 (regWord u s), s)
  else if inn.isEmpty then ([], s)
  else
    let (v, s1) := s.draw (8 * inn.length)
    (unpackBytes inn.length v.toNat, s1)

/-- Read a memory window, for the quoin. A word of local RAM in error goes on as it stands: R116 names a trap of the sequencer's
own reads and the poisoned bit of a host read, and nothing for the quoin (log entry 103, the model's choice). -/
def MemWindow.read (w : MemWindow) (x n : Nat) (s : State) : List (BitVec 8) × State :=
  match w with
  | .store t =>
    let (d, _, s1) := tsNarrowRead t [(x, List.replicate n 0)] s
    (d, s1)
  | .lram t => ((lramRead (s.core t) false x n).1, s)
  | .tags t => ((lramRead (s.core t) true x n).1, s)
  | .vpram t => ((List.range n).map fun i =>
      (sget (fun _ => (0 : BitVec 32)) (s.tile t).vec.vpram ((x + i) / 4)).extractLsb' (8 * ((x + i) % 4)) 8, s)
  | .mbBuf => ((List.range n).map fun i => s.sec.mbByte (x + i), s)

/-- The block at BAR0 offset `o`, if anything stands there. -/
def blkAt (o : Nat) : Option Blk :=
  match memWindow o with
  | some (w, _) => some w.blk
  | none => (regBlock o).map fun b => b.1.blk

/-- Read `n` bytes within one aligned 8-byte unit: zeros of a fenced tile, of a gated block, which counts, and where
nothing stands (R397, R453, R531). -/
def unitRead (o n : Nat) (s : State) : List (BitVec 8) × State :=
  match blkAt o with
  | none => (List.replicate n 0, s)
  | some b =>
    if s.fencedBlk b then (List.replicate n 0, s)
    else if s.gated b then (List.replicate n 0, s.countGated)
    else
      match memWindow o with
      | some (w, x) => w.read x n s
      | none =>
        let (lo, s1) := wordBytes o n (o / 8 * 8) s
        let (hi, s2) := wordBytes o n (o / 8 * 8 + 4) s1
        (lo ++ hi, s2)

/-- Read units in ascending order. -/
def unitsRead : List (Nat × List (BitVec 8)) → State → List (BitVec 8) × State
  | [], s => ([], s)
  | (o, bs) :: r, s =>
    let (d, s1) := unitRead o bs.length s
    let (d2, s2) := unitsRead r s1
    (d ++ d2, s2)

/-- The quoin reads `n` bytes at BAR0 offset `o` (R397, R490). -/
def bar0Read (o n : Nat) (s : State) : Nat × State :=
  let (d, s1) := unitsRead (units8 (n + 1) o (List.replicate n 0)) s
  (packBytes d, s1)

/-! ### Who may write -/

/-- An entry of an array of registers: the first at `a`, `n` of them, `k` bytes apart. -/
def inArray (o a k n : Nat) : Bool := decide (a ≤ o) && decide (o < a + k * n) && decide ((o - a) % k = 0)

/-- Whether the register at offset `o` of block `b` is host-writable: the last column of its block's table. -/
def RegBlock.hostYes (b : RegBlock) (o : Nat) : Bool :=
  match b with
  | .dev => [0x20, 0x28, 0x30, 0x40, 0xF8000].contains o || inArray o 0xF0000 4 256
  | .flt => o == 0x14
  | .ic => inArray o 0x40 4 32 || inArray o 0x240 4 32 || inArray o 0x1000 4 512
  | .icTile _ => o % 0x100 == 0x08
  | .clk => [0x00C, 0x028, 0x02C, 0x100, 0x104].contains o
  | .cal => o == 0x10 || inArray o 0x40 8 8
  | .dma =>
    [0x10, 0x18, 0x2C].contains o || inArray o 0x100 4 64 || inArray o 0x10000 8 136 || inArray o 0x12000 4 136
      || inArray o 0x20000 8 2048 || inArray o 0x40000 4 1024
  | .sc => [0x04, 0x20, 0x24, 0x38, 0x40, 0x44].contains o
  | .ddr _ => o == 0x18 || o == 0x20
  | .mor => [0x00, 0x04, 0x18].contains o || inArray o 0x100 4 16
  | .hod => [0x00, 0x04, 0x10].contains o || inArray o 0x400 8 128
  | .bond => [0x04, 0x08, 0x18].contains o
  | .chain => [0x810, 0x820, 0x82C].contains o
  | .sec => [0x04, 0x10].contains o
  | .time =>
    o == 0x28 || inArray o 0x40 8 4 || inArray o 0x60 4 4 || inArray o 0x100 4 9 || o == 0x128
  | .res => inArray o 0x8000 8 256 || o == 0x9004 || o == 0x9008
  | .seq _ => false
  | .vec _ => [0x00, 0x08, 0x20].contains o
  | .arr _ => [0x00, 0x04, 0x14].contains o
  | .ts _ => o == 0x18 || o == 0x24
  | .sce _ => [0x00, 0x04, 0x10].contains o
  | .drn _ => o == 0x00 || o == 0x08
  | .step _ => o == 0x24

/-- What the host may write, with the start-up state (R398, R507). -/
def RegBlock.perm (b : RegBlock) (o : Nat) : HostPerm :=
  if b = .sec && (o == 0x0C || o == 0x14) then .larva else if b.hostYes o then .yes else .no

/-! ### Writing -/

/-- The write of the 32-bit register at offset `o` of block `b`. -/
def RegBlock.write32 (b : RegBlock) (who : Who) (o : Nat) (v : BitVec 32) (s : State) : State :=
  match b with
  | .dev =>
    if o = 0x30 then hbCtrlWrite v s
    else if o = 0x40 then { s with host := devCntClr v s.host }
    else if inArray o 0xF0000 4 256 then { s with host := msixWrite ((o - 0xF0000) / 4) v s.host }
    else s
  | .flt =>
    if o = 0x04 then { s with flt := { s.flt with cfg := v } }
    else if o = 0x08 then devFltCmd v s
    else if o = 0x14 then { s with flt := devFltCntClr v s.flt }
    else s
  | .icTile _ => s
  | .ic =>
    let w := o % 0x40 / 4
    if inArray o 0x040 4 16 then icPendSet w v s
    else if inArray o 0x080 4 16 then icPendClr w v s
    else if inArray o 0x140 4 16 then icMaskSet false w v s
    else if inArray o 0x180 4 16 then icMaskClr false w v s
    else if inArray o 0x240 4 16 then icMaskSet true w v s
    else if inArray o 0x280 4 16 then icMaskClr true w v s
    else if inArray o 0x300 4 16 then icQLevel w v.toNat s
    else if inArray o 0x1000 4 512 then icRoute ((o - 0x1000) / 4) v s
    else s
  | .clk =>
    if o = 0x004 then srcCtrlWrite v s
    else if o = 0x00C then s.updClk (resetCauseWrite v)
    else if o = 0x014 then clkEnSetWrite v s
    else if o = 0x018 then s.updClk (clkEnClr s.cycle v)
    else if o = 0x028 then s.updClk fun c => { c with outCfg := v &&& 0x0FFF007F#32 }
    else if o = 0x02C then s.updClk (clkCntClr v s.te.time)
    else if o = 0x100 then dvfsReqWrite v s
    else if o = 0x104 then s.updClk (pwrStatusWrite v)
    else if o = 0x108 then s.updClk fun c => { c with avsSettle := v.setWidth 10 }
    else if inArray o 0x120 4 4 then s.updClk (oppWrite ((o - 0x120) / 4) v)
    else s
  | .cal =>
    if o = 0x00 then { s with cal := calCtrlWrite v s.cal }
    else if o = 0x10 then { s with cal := calCntClr v s.cal }
    else s
  | .dma =>
    if o = 0x10 then dmaRingCmd v .none s
    else if o = 0x2C then { s with dma := dmaCntClr v s.dma }
    else if inArray o 0x100 4 64 then chCtrlWrite ((o - 0x100) / 4) v s
    else if inArray o 0x12000 4 136 then fifoTakeWrite ((o - 0x12000) / 4) v s
    else if inArray o 0x40000 4 1024 then cqHeadWrite who ((o - 0x40000) / 4) v s
    else s
  | .sc =>
    if o = 0x00 then { s with sc := scCfgWrite v s.sc }
    else if o = 0x04 then { s with sc := { s.sc with invalLost := s.sc.invalLost && s.sc.now.keeps v 1 } }
    else if o = 0x10 then sliceReqWrite v s
    else if o = 0x18 then scFenceWrite v s
    else if o = 0x20 then { s with sc := { s.sc with invalBase := v } }
    else if o = 0x24 then scInvalCtrl v s
    else if o = 0x40 then { s with sc := { s.sc with cmdErr := s.sc.cmdNow.errAfter (bit v 31) 31 s.sc.cmdErr } }
    else if o = 0x44 then { s with sc := scCntClr v s.sc }
    else s
  | .ddr c =>
    if o = 0x00 then s.updChan c fun x => { x with cfg := v &&& 7#32 }
    else if o = 0x04 then s.updChan c fun x => { x with srReq := bit v 0 }
    else if o = 0x20 then s.updChan c (ddrCntClr v)
    else s
  | .mor =>
    if o = 0x00 then morCommit (v.setWidth 8) s
    else if o = 0x04 then { s with mor := morStateWrite v s.mor }
    else if o = 0x18 then { s with mor := morCntClr v s.mor }
    else if inArray o 0x100 4 16 then { s with mor := morStageWrite ((o - 0x100) / 4) v s.mor }
    else s
  | .hod =>
    if o = 0x00 then { s with hod := hodStatusWrite v s.hod }
    else if o = 0x04 then { s with hod := hodErrWrite v s.hod }
    else if o = 0x10 then { s with hod := hodCntClr v s.hod }
    else s
  | .bond =>
    if o = 0x00 then s.updBond (bondCtrlWrite v)
    else if o = 0x04 then s.updBond (bondStatusWrite v)
    else if o = 0x08 then bondCmdWrite v s
    else if o = 0x18 then s.updBond (bondCntClr v)
    else s
  | .chain =>
    if o = 0x804 then chainCtrlWrite v s
    else if o = 0x80C then s.updChain fun c => { c with skew := v.setWidth 16 }
    else if o = 0x820 then s.updChain (msgPop v)
    else if o = 0x82C then s.updChain (chainCntClr v)
    else s
  | .sec =>
    if o = 0x04 then { s with sec := { s.sec with bootValid := s.sec.bootValid && s.sec.now.keeps v 31 } }
    else if o = 0x0C then mbCmdWrite v.toNat s
    else if o = 0x10 then { s with sec := { s.sec with mbRejected := s.sec.mbRejected && s.sec.now.keeps v 16 } }
    else if o = 0x14 then { s with sec := { s.sec with mbLen := v.setWidth 20 } }
    else s
  | .time =>
    if o = 0x08 then { s with te := timeCtrlWrite v s.te }
    else if o = 0x18 then
      ({ s with te := slotPeriodWrite v s.te }).updChain fun c => { c with slotSent := s.te.time + 1 }
    else if o = 0x1C then
      ({ s with te := slotPhaseWrite v s.te }).updChain fun c => { c with slotSent := s.te.time + 1 }
    else if o = 0x28 then { s with te := timeCntClr v s.te }
    else if inArray o 0x60 4 4 then
      { s with te := { s.te.rearm ((o - 0x60) / 4) with alarmCfg := lput s.te.alarmCfg ((o - 0x60) / 4) (v &&& 0xFF#32) } }
    else if inArray o 0x100 4 4 then
      { s with te := { s.te with inCfg := lput s.te.inCfg ((o - 0x100) / 4) (v &&& 0x37F#32) } }
    else if inArray o 0x110 4 4 then s.updOut ((o - 0x110) / 4) (EvtOut.cfgWrite v)
    else if o = 0x120 then { s with te := tickCfgWrite v s.te }
    else s
  | .res =>
    if inArray o 0x8000 8 256 then resAck ((o - 0x8000) / 8) v s
    else if o = 0x9004 then { s with host := { s.host with resErr := s.host.now.errAfter (bit v 31) 31 s.host.resErr } }
    else if o = 0x9008 then { s with host := resCntClr v s.host }
    else s
  | .seq n => s.updCore n fun c => c.writeReg o v tagInt false true
  | .vec n =>
    if o = 0x00 then s.updVec n (vecStatusWrite v)
    else if o = 0x08 then s.updVec n (vecErrWrite v)
    else if o = 0x14 then s.updVec n (vecLfsrWrite false v)
    else if o = 0x18 then s.updVec n (vecLfsrWrite true v)
    else if o = 0x20 then s.updVec n (vecCntClr v)
    else s
  | .arr n =>
    if o = 0x00 then s.updArr n (arrStatusWrite v)
    else if o = 0x04 then s.updArr n (arrErrWrite v)
    else if o = 0x14 then s.updArr n (arrCntClr v)
    else s
  | .ts n =>
    if o = 0x00 then bankReqWrite n v s
    else if o = 0x18 then s.updTs n (tsPerrStatusWrite v)
    else if o = 0x24 then s.updTs n (tsCntClr v)
    else if o = 0x28 then s.updTs n fun ts => { ts with perrInj := setFld ts.perrInj 0 21 v.toNat }
    else s
  | .sce n =>
    if o = 0x00 then s.updSce n (sceStatusWrite v)
    else if o = 0x04 then s.updSce n (sceErrWrite v)
    else if o = 0x10 then s.updSce n (sceCntClr v)
    else s
  | .drn n =>
    if o = 0x00 then s.updDrn n (drnStatusWrite v)
    else if o = 0x08 then s.updDrn n (drnCntClr v)
    else s
  | .step n => if o = 0x24 then s.updSt n (stepCntClr v) else s

/-- The mask of the halves written. -/
def halfMask (lo hi : Option (BitVec 32)) : BitVec 64 :=
  halves 0 (lo.map fun _ => BitVec.allOnes 32) (hi.map fun _ => BitVec.allOnes 32)

/-- A half as a 64-bit value, zero where it is not written. -/
def halvesZ (lo hi : Option (BitVec 32)) : BitVec 64 := halves 0 lo hi

/-- Clear VALID, bit 63, of an error register, unless a case of the same cycle sets it (R9). -/
def clrValid (h : Happened) (x : BitVec 64) (hi : Option (BitVec 32)) : BitVec 64 := h.errAfter (bit (halvesZ none hi) 63) 63 x

/-- A write, whole or by halves, of the 64-bit register at offset `o` of block `b`, which holds `old` (R397). -/
def RegBlock.write64 (b : RegBlock) (who : Who) (o old : Nat) (lo hi : Option (BitVec 32)) (s : State) : State :=
  let v := halves (BitVec.ofNat 64 old) lo hi
  match b with
  | .dev =>
    if o = 0x20 then { s with host := { s.host with bar2Off := v.extractLsb' 30 10 } }
    else if o = 0x28 then { s with host := { s.host with hbAddr := v.extractLsb' 12 52 } }
    else s
  | .icTile n =>
    match o % 0x100 / 8 with
    | 1 => icTPendSet n (halvesZ lo hi) s
    | 2 => icTPendClr n (halvesZ lo hi) s
    | 4 => icTMaskSet n (halvesZ lo hi) s
    | 5 => icTMaskClr n (halvesZ lo hi) s
    | 6 => icTLevel n none v s
    | _ => s
  | .cal => if inArray o 0x40 8 8 then calGapWrite ((o - 0x40) / 8) lo hi s else s
  | .dma =>
    if o = 0x08 then { s with dma := { s.dma with ctxBase := v.setWidth 32 } }
    else if o = 0x18 then { s with dma := { s.dma with err := clrValid s.dma.now s.dma.err hi } }
    else if inArray o 0x10000 8 136 then fifoCfgWrite ((o - 0x10000) / 8) v s
    else if inArray o 0x20000 16 1024 then cqBaseWrite who ((o - 0x20000) / 16) v s
    else if inArray o 0x20008 16 1024 then
      match lo with
      | some w => cqCfgWrite who ((o - 0x20000) / 16) w s
      | none => s
    else s
  | .sc => if o = 0x38 then { s with sc := { s.sc with err := clrValid s.sc.now s.sc.err hi } } else s
  | .ddr c => if o = 0x18 then s.updChan c fun x => { x with err := clrValid x.now x.err hi } else s
  | .hod =>
    let n := (o - 0x400) / 16
    if inArray o 0x400 16 64 then tgtAWrite n (halfMask lo hi) (halvesZ lo hi) s
    else if inArray o 0x408 16 64 then tgtBWrite n (halfMask lo hi) (halvesZ lo hi) s
    else s
  | .bond =>
    if inArray o 0x100 16 64 then mwinWrite ((o - 0x100) / 16) false lo hi s
    else if inArray o 0x108 16 64 then mwinWrite ((o - 0x100) / 16) true lo hi s
    else s
  | .chain => if o = 0x810 then msgTxWrite lo hi s else s
  | .time =>
    if inArray o 0x40 8 4 then { s with te := { s.te.rearm ((o - 0x40) / 8) with alarm := lput s.te.alarm ((o - 0x40) / 8) v } }
    else if o = 0x128 then s.pulse (halvesZ lo hi)
    else s
  | .seq n => s.updCore n fun c => c.writeReg o (v.setWidth 32) (v.extractLsb' 32 4) false true
  | _ => s

/-- A memory window written by the host or the quoin. -/
def MemWindow.write (w : MemWindow) (who : Who) (x : Nat) (bs : List (BitVec 8)) (s : State) : State :=
  let host := decide (who = .host)
  match w with
  | .store t => regWrite who w.blk .tileStore (tsNarrowWrite t x bs host) s
  | .lram t => regWrite who w.blk .yes (fun z => z.updCore t (lramWrite x bs)) s
  | .tags t => regWrite who w.blk .yes (fun z => z.updCore t (lramTagWrite x bs host)) s
  | .vpram t => regWrite who w.blk .yes (fun z => z.updVec t (vpramPut x bs)) s
  | .mbBuf => regWrite who w.blk .larva (mbBufWrite host x bs) s

/-- What bytes at `o` write of the word at `u`: nothing, all of it, or a fragment, whose effect is that of a write of a
free value (R17, R397). -/
def wordPiece (o : Nat) (bs : List (BitVec 8)) (u : Nat) (s : State) : Option (BitVec 32) × State :=
  let inn := (List.range 4).filter fun i => decide (o ≤ u + i) && decide (u + i < o + bs.length)
  if inn.isEmpty then (none, s)
  else if inn.length = 4 then (some (BitVec.ofNat 32 (packBytes ((bs.drop (u - o)).take 4))), s)
  else
    let (v, s1) := s.draw 32
    (some v, s1)

/-- A host write to a reserved address before CHRYSALIS lies outside the set of R507; elsewhere it does nothing (R397). -/
def reservedWrite (who : Who) (s : State) : State :=
  if who = .host && s.barOpen && !hostMayWrite s.sec.life .always .yes then s.hostReject else s

/-- Write the word at `u` when a 32-bit register stands there. -/
def wordWrite (who : Who) (u : Nat) (v : Option (BitVec 32)) (s : State) : State :=
  match v with
  | none => s
  | some v =>
    match regAt u s with
    | some (b, x, _, 4) => regWrite who b.blk (b.perm x) (b.write32 who x v) s
    | _ => reservedWrite who s

/-- Write bytes within one aligned 8-byte unit, of a request that begins at `start`: each register once, in ascending
order (R397). -/
def unitWrite (who : Who) (start o : Nat) (bs : List (BitVec 8)) (s : State) : State :=
  match memWindow o with
  | some (w, x) => w.write who x bs s
  | none =>
    let u := o / 8 * 8
    let (lo, s1) := wordPiece o bs u s
    let (hi, s2) := wordPiece o bs (u + 4) s1
    match regAt u s2 with
    | some (b, x, old, 8) =>
      -- RES_MB_DATA is one register of 64 B: one discarded write of it counts once
      if b = .res && 64 < x % 128 && start < o then s2
      else regWrite who b.blk (b.perm x) (b.write64 who x old lo hi) s2
    | _ => wordWrite who (u + 4) hi (wordWrite who u lo s2)

/-- Write bytes at BAR0 offset `o`. -/
def bar0Bytes (who : Who) (o : Nat) (bs : List (BitVec 8)) (s : State) : State :=
  (units8 (bs.length + 1) o bs).foldl (fun z u => unitWrite who o u.1 u.2 z) s

/-- The quoin writes `n` bytes at BAR0 offset `o` (R397, R490). -/
def bar0Write (who : Who) (o n v : Nat) (s : State) : State := bar0Bytes who o (unpackBytes n v) s

/-- An access of `n` bytes at BAR0 offset `o` touches registers, SEC_MB_BUF and, where it reads, vector program RAM only: the other
accesses to a tile's memory windows have rows of their own. -/
def regsOnly (reads : Bool) (o n : Nat) : Bool :=
  decide (o + n ≤ 0x10000000) && decide (0 < n) && (units8 (n + 1) o (List.replicate n 0)).all fun u =>
    match memWindow u.1 with
    | some (.mbBuf, _) => true
    | some (.vpram _, _) => reads
    | some _ => false
    | none => true

/-- The registers of tile `n` that its own sequencer reaches here: all but its SEQ_ block, which has instructions of its own (R70, R197,
R256). -/
def ownRegs (n o len : Nat) : Bool :=
  (units8 (len + 1) o (List.replicate len 0)).all fun u =>
    match regBlock u.1 with
    | some (.seq _, _) => false
    | some (b, _) => decide (b.blk = .tile n)
    | none => false

/-- The host may read the unit at BAR0 offset `o` in the present start-up state (R507). -/
def hostMayRead (life : Life) (o : Nat) : Bool :=
  match life with
  | .egg => false
  | .larva => decide (o / 0x100000 = 7) || decide (o < 0x18)
  | _ => true

/-- What the host reads of units, in ascending order. -/
def hostUnits : List (Nat × List (BitVec 8)) → State → List (BitVec 8) × State
  | [], s => ([], s)
  | (o, bs) :: r, s =>
    let (d, s1) := if hostMayRead s.sec.life o then unitRead o bs.length s else (List.replicate bs.length 0, s)
    let (d2, s2) := hostUnits r s1
    (d ++ d2, s2)

/-- A read request of the host for `n` bytes of registers at BAR0 offset `o` (R394, R397, R410, R453, R507). -/
def hostRegRead (o n : Nat) (s : State) : State :=
  if s.host.width = 0 then s
  else if !s.host.memSpace then s.toHost (.completion [] false true)
  else
    let (d, s1) := hostUnits (units8 (n + 1) o (List.replicate n 0)) s
    s1.toHost (.completion d false false)

/-- A read request of the host for `n` bytes of BAR4: zeros (R372, R394, R453). -/
def hostBellRead (n : Nat) (s : State) : State :=
  if s.host.width = 0 then s
  else if !s.host.memSpace then s.toHost (.completion [] false true)
  else (if s.sec.life.running && s.gated .dma then s.countGated else s).toHost (.completion (List.replicate n 0) false false)

/-- An access of the host or the quoin to a tile's registers goes over the mesh, and a course of it, or of its answer, shows a parity
error there: it is discarded (R284, R527). -/
def meshLost (offset : Nat) (mark : AccessMark) (s : State) : Bool :=
  mark.bad && match tileWindow offset with
    | some (n, _) => !s.fencedTile n && !s.gatedTile n
    | none => false

/-- HOST_REG_WRITE (R372, R394, R397, R398, R410, R507, R527): an access to registers of BAR0, to SEC_MB_BUF, or a read of BAR4. -/
def execHostRegWrite (who : Who) (offset : Nat) (access : RegAccess) (mark : AccessMark) (s : State) : Out :=
  match access, who with
  | .write bytes, .host =>
    .next (if regsOnly false offset bytes.length then
      hostWrite mark.ep (fun z => if meshLost offset mark z then countMorPerr z.linkUse else bar0Bytes .host offset bytes z.linkUse) s
    else s)
  | .write bytes, .quoin =>
    .next (if !regsOnly false offset bytes.length then s
    else if meshLost offset mark s && s.alive then countMorPerr s
    else bar0Bytes .quoin offset bytes s)
  | .write bytes, .tile n =>
    .next (if regsOnly false offset bytes.length && ownRegs n offset bytes.length then bar0Bytes (.tile n) offset bytes s else s)
  | .read n, .host =>
    .next (if !regsOnly true offset n then s
    else if meshLost offset mark s && s.barOpen && s.sec.life.running then
      (countMorPerr s).toHost (.completion (List.replicate n 0) true false)
    else hostRegRead offset n s)
  | .bellRead n, .host => .next (if offset + n ≤ 0x40000 then hostBellRead n s else s)
  | _, _ => .next s

end Sys2Proof.Machine
end

