-- ==== Sys2Proof/Machine/Operands.lean ====
section
/-! DEFINITION. Sequencer operands: every operand form, its addressing checks, loads through the store buffer, and
stores (R80 to R88, R127 to R137, R155, R433, R490). -/

namespace Sys2Proof.Machine

/-- How far an instruction got: it goes on with a value, it traps with nothing of its own written, or a tile-store
access of it waits (R56) and nothing is done. -/
inductive SeqRes (α : Type) where
  | ok (s : State) (a : α)
  | trap (s : State) (t : Trap)
  | wait

/-- Go on with the next part of an instruction. -/
def SeqRes.bind {α β : Type} (r : SeqRes α) (f : State → α → SeqRes β) : SeqRes β :=
  match r with
  | .ok s a => f s a
  | .trap s t => .trap s t
  | .wait => .wait

/-- A check that either passes or traps (R114). -/
def SeqRes.ofExcept {α : Type} (s : State) : Except Trap α → SeqRes α
  | .ok a => .ok s a
  | .error t => .trap s t

/-- The trap causes of R115. -/
def causeTag : Nat := 1
def causeAddr : Nat := 2
def causeAlign : Nat := 3
def causeIllegal : Nat := 4
def causePriv : Nat := 5
def causeFetchTag : Nat := 6
def causeTsParity : Nat := 7
def causeLrParity : Nat := 8
def causeDiv0 : Nat := 9
def causeRstack : Nat := 10
def causeSwTrap : Nat := 11

/-- An operand specifier, decoded (R80). -/
inductive Opd where
  | mem (w base : Nat) (disp : Int)
  | g (i : Nat)
  | f (i : Nat)
  | q (i : Nat)
  | imm (v : Int)
  deriving DecidableEq, Repr

/-- Decode a specifier; none for W = 7, FILE 3, an index beyond its file, or a register operand with a non-zero bit
in BASE or DISP[9:5] (R80, R82). -/
def Opd.ofBits (x : BitVec 19) : Option Opd :=
  let w := fld x 16 3
  let base := fld x 12 4
  let disp := fld x 0 12
  if w ≤ 4 then some (.mem w base (sgn 12 disp))
  else if w = 5 then
    let i := disp % 32
    if base ≠ 0 || (disp / 32) % 32 ≠ 0 then none
    else match disp / 1024 with
      | 0 => if i < 16 then some (.g i) else none
      | 1 => some (.f i)
      | 2 => if i < 16 then some (.q i) else none
      | _ => none
  else if w = 6 then some (.imm (sgn 16 (fld x 0 16)))
  else none

/-- The kinds that an instruction allows for an operand (R96): the memory sizes, the register files, an immediate.
An operand with no kind at all is unused. -/
structure Kinds where
  mem : List Nat
  g : Bool
  f : Bool
  q : Bool
  imm : Bool

/-- An unused operand. -/
def kNone : Kinds := ⟨[], false, false, false, false⟩
/-- "Any" of R96 for a source. -/
def kSrc : Kinds := ⟨[0, 1, 2, 3, 4], true, false, false, true⟩
/-- "Any" of R96 for A. -/
def kDst : Kinds := ⟨[0, 1, 2, 3, 4], true, false, false, false⟩
/-- "Any, f" for a source. -/
def kSrcF : Kinds := ⟨[0, 1, 2, 3, 4], true, true, false, true⟩
/-- "Any, f" for A. -/
def kDstF : Kinds := ⟨[0, 1, 2, 3, 4], true, true, false, false⟩
/-- Immediate only. -/
def kImm : Kinds := ⟨[], false, false, false, true⟩
/-- A q register only. -/
def kQ : Kinds := ⟨[], false, false, true, false⟩
/-- Memory of one size only. -/
def kMem (w : Nat) : Kinds := ⟨[w], false, false, false, false⟩

/-- Whether the kinds leave the operand unused. -/
def Kinds.unused (k : Kinds) : Bool := k.mem.isEmpty && !k.g && !k.f && !k.q && !k.imm

/-- Whether an operand is of an allowed kind. -/
def Kinds.allows (k : Kinds) : Opd → Bool
  | .mem w _ _ => k.mem.contains w
  | .g _ => k.g
  | .f _ => k.f
  | .q _ => k.q
  | .imm _ => k.imm

/-- Decode operand number `n` under the kinds allowed (R82): an unused field must be all zero. -/
def decodeOpd (k : Kinds) (n : Nat) (x : BitVec 19) : Except Trap (Option Opd) :=
  if k.unused then
    if x = 0 then .ok none else .error ⟨causeIllegal, 0, n, 0⟩
  else
    match Opd.ofBits x with
    | some o => if k.allows o then .ok (some o) else .error ⟨causeIllegal, 0, n, 0⟩
    | none => .error ⟨causeIllegal, 0, n, 0⟩

/-- The spaces that an operand reaches (R81): local RAM, the tile store's narrow view, and on the quoin the RAW
space. -/
inductive Space where
  | lram | tile | raw
  deriving DecidableEq, Repr

/-- Where an operand lies, its addressing checked. -/
inductive Place where
  | none
  | g (i : Nat)
  | f (i : Nat)
  | q (i : Nat)
  | imm (v : Int)
  | mem (sp : Space) (w addr : Nat)
  deriving DecidableEq, Repr

/-- The tile store's size in bytes (R85). -/
def tsTop : Nat := 0x400000
/-- First byte beyond the near page (R83). -/
def nearTop : Nat := 0x1000

/-- The space a base register's tag selects (R81). -/
def baseSpace (core : Nat) (t : BitVec 4) : Option Space :=
  if t = tagLaddr then some .lram
  else if t = tagTaddr then some .tile
  else if t = tagRaw && core = quoinCore then some .raw
  else none

/-- Alignment and range of `2^w` bytes at `addr` (R84, R85, R433): `n` is the operand's number for the trap. The quoin
has no tile store (log entry 9). -/
def checkAddr (core : Nat) (sp : Space) (w addr n : Nat) : Except Trap Unit :=
  let a := BitVec.ofNat 32 addr
  match sp with
  | .raw => .ok ()
  | .lram =>
    if w = 1 && addr % 2 ≠ 0 || decide (w ≥ 2) && addr % 4 ≠ 0 then .error ⟨causeAlign, 0, n, a⟩
    else if addr + 2 ^ w > lramTop then .error ⟨causeAddr, 0, n, a⟩
    else if core < 16 && addr + 2 ^ w > icWords && w ≠ 2 && w ≠ 3 then .error ⟨causeAddr, 0, n, a⟩
    else .ok ()
  | .tile =>
    if core ≥ 16 || addr + 2 ^ w > tsTop then .error ⟨causeAddr, 0, n, a⟩ else .ok ()

/-- The space and the effective address of a memory operand (R80, R81, R85): the base tag is checked; g0 supplies
LADDR 0. -/
def effAddr (core : Nat) (c : SeqCore) (w base : Nat) (disp : Int) (n : Nat) : Except Trap (Space × Nat) :=
  let b : TWord := if base = 0 then ⟨tagLaddr, 0⟩ else c.g base
  let addr := wrap 32 ((b.val.toNat : Int) + disp * ((2 ^ w : Nat) : Int))
  match baseSpace core b.tag with
  | none => .error ⟨causeTag, b.tag.toNat, n, BitVec.ofNat 32 addr⟩
  | some sp => .ok (sp, addr)

/-- Place operand `n` (R114 item 3). -/
def placeOpd (core : Nat) (c : SeqCore) (n : Nat) : Option Opd → Except Trap Place
  | Option.none => .ok .none
  | some (.g i) => .ok (.g i)
  | some (.f i) => .ok (.f i)
  | some (.q i) => .ok (.q i)
  | some (.imm v) => .ok (.imm v)
  | some (.mem w base disp) =>
    match effAddr core c w base disp n with
    | .error t => .error t
    | .ok (sp, addr) =>
      match checkAddr core sp w addr n with
      | .error t => .error t
      | .ok () => .ok (.mem sp w addr)

/-! ### Reading memory -/

/-- The pieces of a far operand, lowest address first (R127). -/
def pieces (sp : Space) (addr size : Nat) : List (Nat × Nat) :=
  match sp with
  | .raw => [(addr, size)]
  | .lram => if size = 16 && addr % 8 ≠ 0 then [(addr, 8), (addr + 8, 8)] else [(addr, size)]
  | .tile =>
    let halves := if size = 16 then [(addr, 8), (addr + 8, 8)] else [(addr, size)]
    halves.flatMap fun (a, n) =>
      if a / 128 = (a + n - 1) / 128 then [(a, n)]
      else [(a, 128 - a % 128), (a + (128 - a % 128), n - (128 - a % 128))]

/-- An entry of the store buffer overlaps the `n` bytes at `a`. -/
def StoreEntry.meets (e : StoreEntry) (tile : Bool) (a n : Nat) : Bool :=
  e.tile == tile && decide (e.addr < a + n) && decide (a < e.addr + e.size)

/-- The youngest entry of the store buffer that overlaps the `n` bytes at `a`, with its position, the oldest counting 1. -/
def youngestOverlap (buf : List StoreEntry) (tile : Bool) (a n : Nat) : Option (Nat × StoreEntry) :=
  (buf.zipIdx.filter fun (e, _) => e.meets tile a n).getLast?.map fun (e, i) => (i + 1, e)

/-- Perform the oldest store-buffer entry of a core (R134 to R136): none when it waits under R56. -/
def drainOne (core : Nat) (s : State) : Option State :=
  match (s.core core).stbuf with
  | [] => some s
  | e :: r =>
    let pop (c : SeqCore) : SeqCore := { c with stbuf := r }
    let w0 := e.addr / 4
    let nw := (wordsOf e.addr e.size).length
    if e.tile then
      let ts := (s.tile core).ts
      if ts.seqWaits (e.addr / 128) true then none
      else
        let s1 := s.updCore core pop
        some (s1.updTs core fun ts =>
          let ts := { ts with drainHeld := false }
          if ts.live (e.addr / 128) then ts.put (4 * w0) (unpackBytes (4 * nw) e.back.toNat) else ts.countOff true)
    else
      let s1 := s.updCore core pop
      some ((List.range nw).foldl (fun (z : State) i =>
        let v : BitVec 32 := e.back.extractLsb' (32 * i) 32
        let w := w0 + i
        if core < 16 && 4 * w ≥ icWords then icWordWrite core (4 * w - icWords) v z
        else z.updCore core fun c => c.setLword w ⟨e.tags.getD i tagInt, v⟩) s1)

/-- Perform the `k` oldest entries; none when one of them waits. -/
def drainN (core : Nat) : Nat → State → Option State
  | 0, s => some s
  | k + 1, s =>
    match drainOne core s with
    | some s1 => drainN core k s1
    | none => none

/-- Charge a tile's sequencer slip (R325); the quoin has no such counter. -/
def chargeSeq (core n : Nat) (s : State) : State :=
  if core < 16 then s.updSt core fun u => { u with seqSlip := satAdd32 u.seqSlip n } else s

/-- The words a far piece touches, through the store buffer (R134). The entries compared are those that overlap the `len`
bytes at `lo`: the piece's own bytes for a load, the whole words that it returns for the read access of a partial-word
store (log entry 69). The words are forwarded from an entry of exactly the piece's address and size, else, on a partial
overlap, read after the entries up to the youngest overlapping one have drained, which costs k − 1 stall cycles. A
tile-store read waits under R56, captures and counts the words it finds in error (R60), and gets zeros from a bank in OFF or
WAKING, counted (R67). An interrupt-controller word returns INT, forwarded or not (R433). -/
def readPiece (core : Nat) (sp : Space) (a n lo len : Nat) (s : State) : SeqRes Words :=
  let tile := decide (sp = .tile)
  let ws := wordsOf a n
  let fetch (z : State) : SeqRes Words :=
    if tile then
      let ts := (z.tile core).ts
      if ts.seqWaits (a / 128) false then .wait
      else
        let r := ts.read (4 * (a / 4)) (4 * ws.length)
        .ok ((z.updTs core fun ts => ts.countOff r.off).tsPerr core (a / 128) r.bad 6) ⟨r.data, [], false, r.bad⟩
    else .ok z (readLram z core ws)
  let tagOf (w : Nat) (t : BitVec 4) : BitVec 4 := if core < 16 && 4 * w ≥ icWords then tagInt else t
  let buf := (s.core core).stbuf
  match youngestOverlap buf tile lo len with
  | none => fetch s
  | some (k, e) =>
    if buf.all fun x => !x.meets tile lo len || decide (x.addr = a && x.size = n) then
      .ok s ⟨e.back.toNat, if tile then [] else List.zipWith tagOf ws e.tags, false, []⟩
    else
      match drainN core k s with
      | some s1 => fetch (chargeSeq core (k - 1) s1)
      | none => .wait

/-! ### The quoin's RAW space (R490) -/

/-- One byte of the RAW space below BAR0: boot ROM, quoin RAM, PUF SRAM; QSPI and SHA3 registers read free values. -/
def rawByte (a : Nat) (s : State) : BitVec 8 × State :=
  if a < 0x10000 then (Config.romByte a, s)
  else if 0x100000 ≤ a && a < 0x200000 then (sget (fun _ => 0) s.quoin.ram (a - 0x100000), s)
  else if 0x200000 ≤ a && a < 0x201000 then
    (if s.sec.pufZeroed then 0 else sget Config.pufByte s.quoin.puf (a - 0x200000), s)
  else if 0x300000 ≤ a && a < 0x300100 || 0x400000 ≤ a && a < 0x400100 then s.draw 8
  else (0, s)

/-- Read `n` bytes of the RAW space; 0x1000_0000 + o is BAR0 offset o (R490). -/
def rawRead : Nat → Nat → State → Nat × State
  | _, 0, s => (0, s)
  | a, n + 1, s =>
    let (b, s1) := rawByte a s
    let (r, s2) := rawRead (a + 1) n s1
    (b.toNat + 256 * r, s2)

/-- Write bytes to the RAW space: quoin RAM and PUF SRAM take them; the ROM, and offsets not listed, discard them. -/
def rawWrite : Nat → List (BitVec 8) → State → State
  | _, [], s => s
  | a, b :: r, s =>
    let q := s.quoin
    let s1 :=
      if 0x100000 ≤ a && a < 0x200000 then
        { s with quoin := { q with ram := sset (fun _ => 0) q.ram (a - 0x100000) b } }
      else if 0x200000 ≤ a && a < 0x201000 then
        { s with quoin := { q with puf := sset Config.pufByte q.puf (a - 0x200000) b } }
      else s
    rawWrite (a + 1) r s1

/-- BAR0 within the RAW space. -/
def isBar0 (a : Nat) : Bool := decide (0x10000000 ≤ a) && decide (a < 0x20000000)

/-- Read `n` bytes at RAW address `a` (R490): untagged, taken as INT (log entry 9). -/
def readRaw (a n : Nat) (s : State) : Nat × State :=
  if isBar0 a then bar0Read (a - 0x10000000) n s else rawRead a n s

/-- Write `n` bytes at RAW address `a` (R490). -/
def writeRaw (a n v : Nat) (s : State) : State :=
  if isBar0 a then bar0Write .quoin (a - 0x10000000) n v s else rawWrite a (unpackBytes n v) s

/-! ### Source values -/

/-- A parity error found by an access, not yet taken (R114 item 6). -/
structure ParErr where
  cause : Nat
  operand : Nat
  addr : Nat
  deriving DecidableEq, Repr

/-- A source value: its tags as held (empty for an untagged register), its bits, their number, and the first parity
error of its accesses. -/
structure SVal where
  tags : List (BitVec 4)
  val : Nat
  bits : Nat
  /-- byte or half word of local RAM: sign-extended, INT whatever the word's tag (R86). -/
  part : Bool
  /-- effective address, 0 for a register or an immediate. -/
  addr : Nat
  perr : Option ParErr
  deriving DecidableEq, Repr

/-- A parity error's record for operand `n`. -/
def perrOf (sp : Space) (n a : Nat) (w : Words) : Option ParErr :=
  if w.lrBad then some ⟨causeLrParity, n, a⟩
  else if sp = .tile && !w.tsBad.isEmpty then some ⟨causeTsParity, n, a⟩
  else none

/-- Read the pieces of an operand: its bytes, its words' tags, and the first parity error. -/
def readPieces (core : Nat) (sp : Space) (n : Nat) :
    List (Nat × Nat) → State → SeqRes (Nat × List (BitVec 4) × Option ParErr)
  | [], s => .ok s (0, [], none)
  | (a, k) :: r, s =>
    (readPiece core sp a k a k s).bind fun s1 w =>
      (readPieces core sp n r s1).bind fun s2 (d, tags, pe) =>
        let here := (w.data >>> (8 * (a % 4))) % 2 ^ (8 * k)
        .ok s2 (here + 2 ^ (8 * k) * d, w.tags ++ tags, (perrOf sp n a w).orElse fun _ => pe)

/-- Load `2^w` bytes of memory as operand `n`: near operands directly, far ones by pieces (R83, R86, R87). -/
def loadMem (core : Nat) (sp : Space) (w addr n : Nat) (s : State) : SeqRes SVal :=
  let size := 2 ^ w
  let ext (v : Nat) : Nat := if w < 2 then wrap 32 (sgn (8 * size) v) else v
  let bits := if w < 2 then 32 else 8 * size
  match sp with
  | .raw =>
    let (v, s1) := readRaw addr size s
    .ok s1 ⟨[tagInt], ext v, bits, false, addr, none⟩
  | .tile =>
    (readPieces core .tile n (pieces .tile addr size) s).bind fun s1 (d, _, pe) =>
      .ok s1 ⟨[tagInt], ext d, bits, false, addr, pe⟩
  | .lram =>
    let mk (s1 : State) (d : Nat) (tags : List (BitVec 4)) (pe : Option ParErr) : SeqRes SVal :=
      .ok s1 ⟨tags, ext d, bits, decide (w < 2), addr, pe⟩
    if addr + size ≤ nearTop then
      let r := readLram s core (wordsOf addr size)
      mk s ((r.data >>> (8 * (addr % 4))) % 2 ^ (8 * size)) r.tags (perrOf .lram n addr r)
    else
      (readPieces core .lram n (pieces .lram addr size) s).bind fun s1 (d, tags, pe) => mk s1 d tags pe

/-- Read operand `n` from its place (R88): an f or q register carries no tag. -/
def loadOpd (core : Nat) (n : Nat) (p : Place) (s : State) : SeqRes SVal :=
  let c := s.core core
  match p with
  | .none => .ok s ⟨[], 0, 32, false, 0, none⟩
  | .g i => .ok s ⟨[(c.g i).tag], (c.g i).val.toNat, 32, false, 0, none⟩
  | .f i => .ok s ⟨[], (c.fReg i).toNat, 64, false, 0, none⟩
  | .q i => .ok s ⟨[], (c.qReg i).toNat, 128, false, 0, none⟩
  | .imm v => .ok s ⟨[tagInt], wrap 32 v, 32, false, 0, none⟩
  | .mem sp w addr => loadMem core sp w addr n s

/-- Take the first parity error of the list (R114 item 6). -/
def checkParity (vs : List SVal) (s : State) : SeqRes Unit :=
  match vs.findSome? fun v => v.perr with
  | none => .ok s ()
  | some p => .trap s ⟨p.cause, 0, p.operand, BitVec.ofNat 32 p.addr⟩

/-- The tag of a source: all its words must carry the same tag (R74); a byte or half word of local RAM is INT, its
containing word neither UNINIT nor reserved (R86); RAW on a tile takes PRIV (R93). An untagged source counts as
holding `dflt`. -/
def srcTag (core n : Nat) (dflt : BitVec 4) (v : SVal) : Except Trap (BitVec 4) :=
  let a := BitVec.ofNat 32 v.addr
  match v.tags with
  | [] => .ok dflt
  | t :: r =>
    if core < 16 && (t :: r).contains tagRaw then .error ⟨causePriv, 15, n, a⟩
    else
      match r.find? fun x => x ≠ t with
      | some x => .error ⟨causeTag, x.toNat, n, a⟩
      | none =>
        if v.part then (if tagBad t then .error ⟨causeTag, t.toNat, n, a⟩ else .ok tagInt) else .ok t

/-- A source of an operation whose A is an f or q register: only UNINIT and reserved tags trap (R75, R91). -/
def srcUntagged (core n : Nat) (v : SVal) : Except Trap Unit :=
  let a := BitVec.ofNat 32 v.addr
  match v.tags.find? fun t => tagBad t || (decide (core < 16) && t == tagRaw) with
  | some t => .error ⟨if t = tagRaw then causePriv else causeTag, t.toNat, n, a⟩
  | none => .ok ()

/-! ### Results -/

/-- How a result narrower than its destination is widened: by its sign (R88, R94), or, where the spec states no upper
bits, by a free value (log entry 10). -/
inductive Widen where
  | sign | free
  deriving DecidableEq, Repr

/-- Fit a result of `frm` bits to `wid` bits. -/
def fitBits (v frm wid : Nat) (wd : Widen) (s : State) : Nat × State :=
  let v := v % 2 ^ frm
  if wid ≤ frm then (v % 2 ^ wid, s)
  else match wd with
    | .sign => (wrap wid (sgn frm v), s)
    | .free =>
      let (h, s1) := s.draw (wid - frm)
      (v + 2 ^ frm * h.toNat, s1)

/-- One store piece prepared: its entry, once its read access, if it needs one, has returned (R128, R135). The read access
reads and checks every word that the piece touches, partly written or not (log entry 68). -/
def makeEntry (core : Nat) (sp : Space) (a n data : Nat) (tags : List (BitVec 4)) (s : State) :
    SeqRes (StoreEntry × Option ParErr) :=
  let ws := wordsOf a n
  let whole := a % 4 = 0 && n % 4 = 0
  let entry (words : Nat) (tg : List (BitVec 4)) : StoreEntry :=
    { tile := decide (sp = .tile), addr := a, size := n, data := BitVec.ofNat 128 data, tags := tg,
      back := BitVec.ofNat 128 words }
  if whole then .ok s (entry data tags, none)
  else
    (readPiece core sp a n (4 * (a / 4)) (4 * ws.length) s).bind fun s1 w =>
      let sh := 8 * (a % 4)
      let old := w.data % 2 ^ (32 * ws.length)
      let cut := ((old >>> sh) % 2 ^ (8 * n)) <<< sh
      .ok s1 (entry (old - cut + data <<< sh) [tagInt], perrOf sp 0 a w)

/-- The words that an entry writes back, with the bytes that an earlier piece of the same instruction puts into them: its
read access came before that piece entered the buffer (R128). -/
def StoreEntry.after (earlier e : StoreEntry) : StoreEntry :=
  let base := 4 * (e.addr / 4)
  let top := base + 4 * (wordsOf e.addr e.size).length
  if earlier.tile ≠ e.tile then e
  else
    { e with
      back := BitVec.ofNat 128 ((List.range earlier.size).foldl (fun w i =>
        let a := earlier.addr + i
        if base ≤ a && a < top && !(e.addr ≤ a && a < e.addr + e.size) then
          let sh := 8 * (a - base)
          w - ((w >>> sh) % 256) <<< sh + ((earlier.data.toNat >>> (8 * i)) % 256) <<< sh
        else w) e.back.toNat) }

/-- Pieces of one instruction, each with the bytes of the earlier ones in the words it writes back. -/
def afterEarlier : List StoreEntry → List StoreEntry → List StoreEntry
  | _, [] => []
  | done, e :: r => (done.foldl (fun x d => d.after x) e) :: afterEarlier (done ++ [e]) r

/-- Prepare the store pieces of an operand in order: each write access performs the oldest entry of the buffer
(R128); the entries are placed only after the last read access (R120, R137). -/
def makeEntries (core : Nat) (sp : Space) (tags : List (BitVec 4)) :
    List (Nat × Nat) → Nat → State → SeqRes (List StoreEntry × Option ParErr)
  | [], _, s => .ok s ([], none)
  | (a, n) :: r, data, s =>
    (makeEntry core sp a n (data % 2 ^ (8 * n)) (tags.take (wordsOf a n).length) s).bind fun s1 (e, pe) =>
      match drainOne core s1 with
      | none => .wait
      | some s2 =>
        (makeEntries core sp (tags.drop (wordsOf a n).length) r (data >>> (8 * n)) s2).bind fun s3 (es, pe2) =>
          .ok s3 (e :: es, pe.orElse fun _ => pe2)

/-- Store `2^w` bytes with the given word tags: near and RAW operands at writeback, far ones through the store buffer; a RAW
store of a pair's first instruction is kept for its group's writeback (R83, R86, R120, R134, R490). -/
def storeMem (core : Nat) (sp : Space) (w addr data : Nat) (tags : List (BitVec 4)) (s : State) : SeqRes Unit :=
  let size := 2 ^ w
  match sp with
  | .raw =>
    .ok (match (s.core core).group with
      | some l => s.updCore core fun c => { c with group := some { l with raw := some (addr, size, data) } }
      | none => writeRaw addr size data s) ()
  | _ =>
    if sp = .lram && addr + size ≤ nearTop then
      let ws := wordsOf addr size
      let r := readLram s core ws
      if w < 2 && r.lrBad then .trap s ⟨causeLrParity, 0, 0, BitVec.ofNat 32 addr⟩
      else
        let sh := 8 * (addr % 4)
        let cut := ((r.data >>> sh) % 2 ^ (8 * size)) <<< sh
        let words := if w < 2 then r.data - cut + data <<< sh else data
        .ok ((List.range ws.length).foldl (fun (z : State) i =>
          z.updCore core fun c =>
            c.setLword (addr / 4 + i)
              ⟨if w < 2 then tagInt else tags.getD i tagInt, BitVec.ofNat 32 (words >>> (32 * i))⟩) s) ()
    else
      (makeEntries core sp tags (pieces sp addr size) data s).bind fun s1 (es, pe) =>
        match pe with
        | some p => .trap s1 ⟨p.cause, 0, p.operand, BitVec.ofNat 32 p.addr⟩
        | none => .ok (s1.updCore core fun c => { c with stbuf := c.stbuf ++ afterEarlier [] es }) ()

/-- A byte or half word of local RAM takes INT only (R86): any other tag takes TAG_TRAP, recorded at operand A with A's
address (log entry 70). An untagged result is written as INT. -/
def storeTagOk (p : Place) (tag : Option (BitVec 4)) : Except Trap Unit :=
  match p with
  | .mem sp w addr =>
    let tg := tag.getD tagInt
    if sp = .lram && w < 2 && tg ≠ tagInt then .error ⟨causeTag, tg.toNat, 0, BitVec.ofNat 32 addr⟩ else .ok ()
  | _ => .ok ()

/-- Write a result of `bits` bits and tag `tag` to operand A (R75, R76, R86, R87): a byte or half word of local RAM
takes INT only. An untagged result is written to tagged places as INT. -/
def storeOpd (core : Nat) (p : Place) (tag : Option (BitVec 4)) (v bits : Nat) (wd : Widen) (s : State) : SeqRes Unit :=
  let tg := tag.getD tagInt
  match p with
  | .none => .ok s ()
  | .imm _ => .ok s ()
  | .g i =>
    let (x, s1) := fitBits v bits 32 wd s
    .ok (s1.updCore core fun c => c.setG i ⟨tg, BitVec.ofNat 32 x⟩) ()
  | .f i =>
    let (x, s1) := fitBits v bits 64 wd s
    .ok (s1.updCore core fun c => c.setF i (BitVec.ofNat 64 x)) ()
  | .q i =>
    let (x, s1) := fitBits v bits 128 wd s
    .ok (s1.updCore core fun c => c.setQ i (BitVec.ofNat 128 x)) ()
  | .mem sp w addr =>
    match storeTagOk p tag with
    | .error t => .trap s t
    | .ok () =>
      let (x, s1) := fitBits v bits (8 * 2 ^ w) wd s
      storeMem core sp w addr x (List.replicate 4 tg) s1

end Sys2Proof.Machine
end

