-- ==== Sys2Proof/Machine/SeqPair.lean ====
section
/-! DEFINITION. Issue groups of two instructions: which two pair, what the first keeps for the group's writeback, and what an
abandoned pair leaves (R120, R122, R125, R126, R140). -/

namespace Sys2Proof.Machine

/-- The class of an instruction (R122). -/
inductive IssueClass where
  | pair | long | control | alone
  deriving DecidableEq, Repr

/-- The class of opcode `o` (R122). -/
def issueClass (o : Nat) : IssueClass :=
  if o ≤ 0x0B || (0x10 ≤ o && o ≤ 0x1C) || (0x20 ≤ o && o ≤ 0x25) || o = 0x4A || o = 0x4C || o = 0x4E || o = 0x50
      || (0x58 ≤ o && o ≤ 0x5B) then .pair
  else if (0x0C ≤ o && o ≤ 0x0F) || (0x28 ≤ o && o ≤ 0x34) || (0x5C ≤ o && o ≤ 0x6C) then .long
  else if (0x38 ≤ o && o ≤ 0x3C) || o = 0x3E then .control
  else .alone

/-- Operand A is a destination of the opcode (R96). -/
def writesA (o : Nat) : Bool :=
  !(o = 0x00 || o = 0x05 || (0x38 ≤ o && o ≤ 0x3C) || o = 0x4A)

/-- Operand A is a source as well (R96, R98, R126). -/
def readsA (o : Nat) : Bool := o = 0x2B || o = 0x3E || o = 0x61 || o = 0x6B

/-- Operand B is a source (R96). -/
def readsB (o : Nat) : Bool := !(o = 0x00 || o = 0x06 || o = 0x3C || o = 0x4C)

/-- Operand C is a source other than an immediate (R96). -/
def readsC (o : Nat) : Bool :=
  (0x08 ≤ o && o ≤ 0x18) || (0x20 ≤ o && o ≤ 0x25) || (0x28 ≤ o && o ≤ 0x30) || o = 0x39 || o = 0x3A
    || (0x5E ≤ o && o ≤ 0x6B)

/-- A location that an instruction reads or writes (R125). -/
inductive SeqLoc where
  | g (i : Nat)
  | f (i : Nat)
  | ffcount
  | mem (sp : Space) (addr size : Nat)
  deriving DecidableEq, Repr

/-- Two locations meet: the same register, or overlapping bytes of one space. -/
def SeqLoc.meets : SeqLoc → SeqLoc → Bool
  | .mem s1 a1 n1, .mem s2 a2 n2 => s1 = s2 && decide (a1 < a2 + n2) && decide (a2 < a1 + n1)
  | x, y => x = y

/-- The place of an operand specifier, its checks aside; none where its base register selects no space. -/
def specPlace (core : Nat) (c : SeqCore) (x : BitVec 19) : Place :=
  match Opd.ofBits x with
  | some (.g i) => .g i
  | some (.f i) => .f i
  | some (.q i) => .q i
  | some (.mem w base disp) =>
    match effAddr core c w base disp 0 with
    | .ok (sp, a) => .mem sp w a
    | .error _ => .none
  | _ => .none

/-- The locations of a place: q`i` covers f(2i) and f(2i + 1); g0 holds nothing. -/
def Place.locs : Place → List SeqLoc
  | .g i => if i = 0 then [] else [.g i]
  | .f i => [.f i]
  | .q i => [.f (2 * i), .f (2 * i + 1)]
  | .mem sp w a => [.mem sp a (2 ^ w)]
  | _ => []

/-- The base register of a memory operand. -/
def specBase (x : BitVec 19) : List SeqLoc :=
  match Opd.ofBits x with
  | some (.mem _ base _) => if base = 0 then [] else [.g base]
  | _ => []

/-- A far memory operand (R83). -/
def Place.far : Place → Bool
  | .mem sp w a => sp ≠ .lram || decide (a + 2 ^ w > nearTop)
  | _ => false

/-- The near-page read and write ports of a place as a source (R126). -/
def Place.readPorts (p : Place) : Nat :=
  match p with
  | .mem _ w _ => if p.far then 0 else if w = 3 then 2 else if w = 4 then 4 else 1
  | _ => 0

/-- The near-page read and write ports of a place as a destination (R126). -/
def Place.writePorts (p : Place) : Nat × Nat :=
  match p with
  | .mem _ w _ => if p.far then (0, 0) else if w < 2 then (1, 1) else if w = 2 then (0, 1) else (0, 2)
  | _ => (0, 0)

/-- What an instruction reads, writes and takes of the ports. -/
structure SeqUse where
  cls : IssueClass
  reads : List SeqLoc
  writes : List SeqLoc
  far : Nat
  rports : Nat
  wports : Nat

/-- What the instruction `w` uses (R125, R126): the word that PUSH or POP moves counts as an operand (log entry 71). -/
def useOf (core : Nat) (c : SeqCore) (w : BitVec 64) : SeqUse :=
  let o := fld w 57 7
  let xa : BitVec 19 := w.extractLsb' 38 19
  let xb : BitVec 19 := w.extractLsb' 19 19
  let xc : BitVec 19 := w.extractLsb' 0 19
  let srcX := (if readsB o then [xb] else []) ++ (if readsC o then [xc] else []) ++ (if readsA o then [xa] else [])
  let dstX := if writesA o then [xa] else []
  let stack : List Place :=
    if o = 0x05 then [.mem .lram 2 (wrap 32 ((c.g 15).val.toNat - 4 : Int))]
    else if o = 0x06 then [.mem .lram 2 (c.g 15).val.toNat] else []
  let src := srcX.map (specPlace core c) ++ (if o = 0x06 then stack else [])
  let dst := dstX.map (specPlace core c) ++ (if o = 0x05 then stack else [])
  let sp : List SeqLoc := if o = 0x05 || o = 0x06 then [.g 15] else []
  { cls := issueClass o
    reads := src.flatMap Place.locs ++ (srcX ++ dstX).flatMap specBase ++ sp
      ++ (if o = 0x50 && fld xb 0 16 = 0x3C then [.ffcount] else [])
    writes := dst.flatMap Place.locs ++ sp ++ (if o = 0x5A then [.ffcount] else [])
    far := ((if readsA o then src.dropLast else src) ++ dst).countP Place.far
    rports := (src.map Place.readPorts).sum + (dst.map fun p => p.writePorts.1).sum
    wports := (dst.map fun p => p.writePorts.2).sum }

/-- The two oldest buffered instructions issue as a pair (R125): `c` is the core before the first. -/
def pairs (core : Nat) (c : SeqCore) (x y : FetchEntry) : Bool :=
  let ok (h : FetchEntry) : Bool := !h.beyond && !h.notCode && !h.parity
  let a := useOf core c x.word
  let b := useOf core c y.word
  ok x && ok y && a.cls ≠ .alone && b.cls ≠ .alone && a.cls ≠ .control && !(a.cls = .long && b.cls = .long)
    && decide (a.far + b.far ≤ 1) && decide (a.rports + b.rports ≤ 4) && decide (a.wports + b.wports ≤ 2)
    && !(a.writes.any fun l => (b.reads ++ b.writes).any l.meets)

/-- A far store of the instruction `w` places this many entries: the pieces of A, or of PUSH's word. -/
def placedBy (core : Nat) (c : SeqCore) (w : BitVec 64) : Nat :=
  let o := fld w 57 7
  let p : Place :=
    if o = 0x05 then .mem .lram 2 (wrap 32 ((c.g 15).val.toNat - 4 : Int))
    else if writesA o then specPlace core c (w.extractLsb' 38 19) else .none
  match p with
  | .mem .raw _ _ => 0
  | .mem sp w a => if p.far then (pieces sp a (2 ^ w)).length else 0
  | _ => 0

/-- The instruction at the buffer's head is the first of a pair (R125). -/
def SeqCore.firstOfPair (core : Nat) (c : SeqCore) : Bool :=
  match c.fetch with
  | x :: y :: _ => c.group.isNone && decide (y.addr = c.pc + 8) && pairs core c x y
  | _ => false

/-- A pair's first instruction begins: nothing of it is kept yet. -/
def SeqCore.beginPair (c : SeqCore) : SeqCore :=
  { c with group := some ⟨c.pc, [], [], none, [], 0, none, none, 0, false⟩ }

/-- The near-page words of a location. -/
def SeqLoc.near : SeqLoc → List Nat
  | .mem .lram a n => if a + n ≤ nearTop then wordsOf a n else []
  | _ => []

/-- The first instruction of a pair is done, and its group is still in progress (R120): `c` is the core before it and `d`
after it; what it writes to registers and to the near page is kept for the group's writeback, and `c`'s values stand. -/
def SeqCore.firstDone (core : Nat) (c d : SeqCore) (l : GroupLate) : SeqCore :=
  match c.fetch with
  | [] => d
  | x :: _ =>
    let ws := (useOf core c x.word).writes
    let near := ws.flatMap SeqLoc.near
    { d with
      gShared := c.gShared, gBase := c.gBase, gIrq := c.gIrq, gUrg := c.gUrg, f := c.f, ffcount := c.ffcount
      lram := near.foldl (fun m w => sset (fun _ => .uninit) m w (c.lword w)) d.lram
      lramBad := near.foldl (fun m w => sset (fun _ => false) m w (c.lbad w)) d.lramBad
      pc := c.pc + 8
      fetch := c.fetch.drop 1
      group := some { l with
        g := ws.filterMap fun x => match x with | .g i => some (i, d.g i) | _ => none
        f := ws.filterMap fun x => match x with | .f i => some (i, d.fReg i) | _ => none
        ffcount := if ws.contains .ffcount then some d.ffcount else none
        near := near.map fun w => (w, d.lword w)
        placed := placedBy core c x.word } }

/-- VALID and OVERRUN of a status register, cleared at STSTAT's writeback: a completion that came after it was read stands with
OVERRUN clear (R113). -/
def clearStat (read now : BitVec 32) : BitVec 32 := if now = read then setFld now 30 2 0 else setFld now 30 1 0

/-- The first instruction's registers and near-page words, written back (R120). -/
def SeqCore.writeBackFirst (c : SeqCore) (l : GroupLate) : SeqCore :=
  let c := l.g.foldl (fun (c : SeqCore) x => c.setG x.1 x.2) c
  let c := l.f.foldl (fun (c : SeqCore) x => c.setF x.1 x.2) c
  let c := l.near.foldl (fun (c : SeqCore) x => c.setLword x.1 x.2) c
  { c with
    ffcount := l.ffcount.getD c.ffcount
    stepStatN := match l.stat with | some (false, v) => clearStat v c.stepStatN | _ => c.stepStatN
    stepStatU := match l.stat with | some (true, v) => clearStat v c.stepStatU | _ => c.stepStatU
    group := none }

/-- A PULSE takes effect: its event lines, and bit 67, the sequencer's own SELF (R109, R123). -/
def State.pulseNow (core : Nat) (mask : BitVec 128) (s : State) : State :=
  let s1 := s.pulseAt (s.cycle + 6) (mask.setWidth 64)
  if mask.getLsbD 67 then s1.updCore core fun c => { c with evtLatch := setBit c.evtLatch 67 true } else s1

/-- The pair in progress writes back what its first instruction did (R120). -/
def State.writeback (core : Nat) (s : State) : State :=
  match (s.core core).group with
  | none => s
  | some l =>
    let s1 := s.updCore core fun c => c.writeBackFirst l
    let s2 := if l.pulse = 0 then s1 else s1.pulseNow core l.pulse
    match l.raw with
    | some (a, n, v) => writeRaw a n v s2
    | none => s2

/-- An abandoned pair leaves no part of itself performed (R120, R140): its store-buffer entries are removed, and its first
instruction is to be issued again. -/
def SeqCore.abandon (c : SeqCore) : SeqCore :=
  match c.group with
  | none => c
  | some l => { c with pc := l.pc, stbuf := c.stbuf.take (c.stbuf.length - l.placed), fetch := [], group := none }

end Sys2Proof.Machine
end

