-- ==== Sys2Proof/Machine/SeqIrq.lean ====
section
/-! DEFINITION. When a sequencer recognises an interrupt request, and how it enters the request's level (R104, R110, R139
to R147, R429, R431). -/

namespace Sys2Proof.Machine

/-- Whether a controller presents a request of level `l`, or one just withdrawn may still be delivered (R429, R431). -/
def State.presents (s : State) (core l : Nat) : Bool :=
  if core = quoinCore then s.ic.request l || decide ((if l = 1 then s.ic.lateIrq else s.ic.lateUrg) > 0)
  else
    let ic := (s.tile core).ic
    ic.request l || decide ((if l = 1 then ic.lateIrq else ic.lateUrg) > 0)

/-- A group is in progress that recognition waits for (R139, R140): a pair whose first instruction has issued and whose second
is neither held nor stalled. -/
def SeqCore.busy (c : SeqCore) : Bool := match c.group with | some l => !l.held | none => false

/-- A request of level `l` is recognised (R139, R145, R147). -/
def State.recognised (s : State) (core l : Nat) : Bool :=
  let c := s.core core
  s.presents core l && bit c.ctrl (l - 1) && decide (c.bankLevel < l) && !c.halted && !c.busy && decide (c.recogHold < l)
    && !(c.entryHold && decide (l = 2))

/-- A delivery ends the late window of its level (R431). -/
def State.spendLate (s : State) (core l : Nat) : State :=
  if core = quoinCore then
    if l = 1 then { s with ic := { s.ic with lateIrq := 0 } } else { s with ic := { s.ic with lateUrg := 0 } }
  else s.updTic core fun ic => if l = 1 then { ic with lateIrq := 0 } else { ic with lateUrg := 0 }

/-- Enter level `l` from what the sequencer is doing: a wait or a yielded block instruction is left at its own address,
which BLK shows (R104, R110, R142), and a pair whose second instruction is
held is abandoned (R140). Of an IRQ entry, a URG request that comes before the handler's first group issues has come in cycle 3 or 4
of it, and waits (R145). A HALT_REQ that is
pending halts after the handler's first group (log entry 104, the model's choice). -/
def SeqCore.interrupt (c : SeqCore) (l : Nat) : SeqCore :=
  let c := c.abandon
  let c1 := if c.yielded && c.bankLevel < 2 then { c with blk := lput c.blk c.bankLevel true } else c
  { c1.enter l c.pc (if l = 1 then c.vecIrq else c.vecUrg) with recogHold := 0, entryHold := decide (l = 1) }

end Sys2Proof.Machine
end

