-- ==== Sys2Proof/Machine/SeqIssue.lean ====
section
/-! DEFINITION. Issuing one sequencer instruction: the fetch buffer's head, the decode and addressing checks in the
order of R114, and what completion, a trap and a wait leave (R89, R90, R97, R99, R114, R120, R145). -/

namespace Sys2Proof.Machine

/-- The opcodes of R96. -/
def opcListed (o : Nat) : Bool :=
  o ≤ 0x1C || (0x20 ≤ o && o ≤ 0x25) || (0x28 ≤ o && o ≤ 0x34) || (0x38 ≤ o && o ≤ 0x43)
    || (0x48 ≤ o && o ≤ 0x52) || (0x58 ≤ o && o ≤ 0x6C) || (0x70 ≤ o && o ≤ 0x7F)

/-- The 64 bits of an instruction: OPC [63:57], A [56:38], B [37:19], C [18:0] (R89). -/
def encodeSeq (opc : Nat) (a b c : BitVec 19) : BitVec 64 :=
  (BitVec.ofNat 7 opc ++ a ++ b ++ c : BitVec 64)

/-- A sequencer can issue: it exists, its tile is neither fenced nor gated, it is not halted and waits for nothing
(R106, R118, R454, R531). -/
def State.coreReady (s : State) (c : Nat) : Bool :=
  s.coreRuns c && !(s.core c).halted && (s.core c).wait.isNone

/-- Whether HALT_REQ is set (R118). -/
def SeqCore.haltReq (c : SeqCore) : Bool := bit c.ctrl 3

/-- What ends a group: a level's first group has completed (R145, R147), a suspended block instruction of the level
has run on (R104), and HALT_REQ halts (R118). -/
def SeqCore.endGroup (c : SeqCore) : SeqCore :=
  { c with
    recogHold := 0
    entryHold := false
    yielded := false
    group := none
    blk := if c.bankLevel < 2 then lput c.blk c.bankLevel false else c.blk
    halted := c.halted || c.haltReq }

/-- The group completes and the PC moves past it (R120). -/
def SeqCore.advance (c : SeqCore) : SeqCore := { c with pc := c.pc + 8, fetch := c.fetch.drop 1 }.endGroup

/-- The group completes and control goes to `target`: every instruction fetched after it is killed (R132). -/
def SeqCore.jumpTo (c : SeqCore) (target : BitVec 32) : SeqCore := { c with pc := target, fetch := [] }.endGroup

/-- How an instruction that has done its work leaves the sequencer. -/
inductive Flow where
  /-- on to the next instruction. -/
  | seq
  /-- a taken branch. -/
  | jump (target : BitVec 32)
  /-- it stays at its own address: it waits, or has yielded. -/
  | stay
  /-- it stays, an access of its next iteration waiting (R56). -/
  | hold
  /-- it has set the PC itself (RETI). -/
  | done
  deriving DecidableEq, Repr

/-- TS_SB_STATUS.HELD bit 6: the sequencer has a narrow access waiting (R70). -/
def holdBit (core : Nat) (b : Bool) (s : State) : State :=
  if core < 16 then s.updTs core fun ts => { ts with held := setBit ts.held 6 b } else s

/-- Cycles that a narrow access lost to bank arbitration count in TS_CONFLICT_CNT (R50). -/
def chargeBank (core n : Nat) (s : State) : State :=
  if core < 16 then s.updTs core fun ts => { ts with conflictCnt := satAdd32 ts.conflictCnt n } else s

/-- The first group of an IRQ handler stays at its address, waiting, held or yielding: a URG request that is not presented by
now comes after the entry's cycle 4, and R145 does not make it wait. -/
def settleEntry (core : Nat) (s : State) : State :=
  if s.presents core 2 && bit (s.core core).ctrl 1 then s else s.updCore core fun c => { c with entryHold := false }

/-- The second instruction of a pair is held or stalled (R140). -/
def SeqCore.markHeld (c : SeqCore) : SeqCore := { c with group := c.group.map fun l => { l with held := true } }

/-- The instruction's end: its held cycles are charged (R325), and it advances, jumps or stays; the first of a pair leaves
its group in progress until the second has completed, with its writes kept for that writeback (R120); a trap is taken with nothing
of its own written (R114); a waiting access leaves everything as it was but the held cycles (R56, R140). `s` is the state before the
instruction. -/
def finishSeq (core held lost : Nat) (s : State) : SeqRes Flow → State
  | .ok s1 f =>
    let s2 := holdBit core false (chargeBank core lost (chargeSeq core held s1))
    match f with
    | .seq => s2.updCore core fun c =>
      match c.group with
      | some l => (s.core core).firstDone core c l
      | none => c.advance
    | .jump t => s2.updCore core fun c => c.jumpTo t
    | .stay => settleEntry core s2
    | .hold => settleEntry core (holdBit core true s2)
    | .done => s2
  | .trap s1 t => (holdBit core false (chargeBank core lost (chargeSeq core held s1))).coreTrap core t
  | .wait => settleEntry core (holdBit core true (chargeBank core lost (chargeSeq core held (s.updCore core SeqCore.markHeld))))

/-- The trap of a buffered instruction before it is decoded, if any: its fetch's faults, then an opcode that is not
listed (R90, R114, R116, R130). -/
def fetchTrap (h : FetchEntry) : Option Trap :=
  if h.beyond then some ⟨causeAddr, 0, 3, h.addr⟩
  else if h.notCode then some ⟨causeFetchTag, 0, 3, h.addr⟩
  else if h.parity then some ⟨causeLrParity, 0, 3, h.addr⟩
  else if !opcListed (fld h.word 57 7) then some ⟨causeIllegal, 0, 3, 0⟩
  else none

/-- The state in which an instruction runs: of a pair's second, the first's writes are made with its own (R120); a pair's first
begins a group. -/
def State.beginSeq (core : Nat) (s : State) : State :=
  if (s.core core).firstOfPair core then s.updCore core SeqCore.beginPair else s.writeback core

/-- Issue the instruction that stands at the PC in the fetch buffer, when it is `opc` with the operands given: `body`
runs it. A faulty head traps whatever it was to be; with any other head, or none, nothing happens. -/
def issueSeq (opc : Nat) (o : SeqOps) (body : State → SeqRes Flow) (s : State) : Out :=
  if !s.coreReady o.core then .next s
  else
    match (s.core o.core).fetch with
    | [] => .next s
    | h :: _ =>
      if h.addr ≠ (s.core o.core).pc then .next s
      else
        match fetchTrap h with
        | some t => .next ((s.writeback o.core).coreTrap o.core t)
        | none =>
          if h.word ≠ encodeSeq opc o.a o.b o.c then .next s
          else .next (finishSeq o.core o.held o.lost s (body (s.beginSeq o.core)))

/-- The three operands, decoded and placed. -/
structure Args where
  core : Nat
  a : Place
  b : Place
  c : Place
  deriving DecidableEq, Repr

/-- Decode the three operands under their kinds, A first (R82), with a check of the instruction's own, and place them
in the order B, C, A (R114). -/
def withArgs (ka kb kc : Kinds) (own : Option Opd → Option Opd → Option Opd → Option Nat) (o : SeqOps)
    (body : Args → State → SeqRes Flow) (s : State) : SeqRes Flow :=
  let c := s.core o.core
  match decodeOpd ka 0 o.a, decodeOpd kb 1 o.b, decodeOpd kc 2 o.c with
  | .error t, _, _ => .trap s t
  | _, .error t, _ => .trap s t
  | _, _, .error t => .trap s t
  | .ok a, .ok b, .ok cc =>
    match own a b cc with
    | some n => .trap s ⟨causeIllegal, 0, n, 0⟩
    | none =>
      match placeOpd o.core c 1 b, placeOpd o.core c 2 cc, placeOpd o.core c 0 a with
      | .error t, _, _ => .trap s t
      | _, .error t, _ => .trap s t
      | _, _, .error t => .trap s t
      | .ok pb, .ok pc, .ok pa => body ⟨o.core, pa, pb, pc⟩ s

/-- No check of its own. -/
def noOwn : Option Opd → Option Opd → Option Opd → Option Nat := fun _ _ _ => none

/-- Whether the place is an f or q register: such a result carries no tag (R75, R91). -/
def Place.untagged : Place → Bool
  | .f _ | .q _ => true
  | _ => false

/-- Whether the place is D64 memory (R94). -/
def Place.isD64 : Place → Bool
  | .mem _ 3 _ => true
  | _ => false

/-- A 64-bit operation applies: A or a source is D64 (R94). -/
def Args.wide (x : Args) : Bool := x.a.isD64 || x.b.isD64 || x.c.isD64

/-- The first of a list of checks that traps. -/
def firstTrap : List (Except Trap Unit) → Option Trap
  | [] => none
  | .error t :: _ => some t
  | .ok () :: r => firstTrap r

/-- Run `k` when no check of the list traps. -/
def guardAll (s : State) (cs : List (Except Trap Unit)) (k : SeqRes Flow) : SeqRes Flow :=
  match firstTrap cs with
  | some t => .trap s t
  | none => k

end Sys2Proof.Machine
end

