-- ==== Sys2Proof/Machine/SeqAlu.lean ====
section
/-! DEFINITION. The sequencer's data operations: moves, tags, integer arithmetic, comparisons and binary32
(opcodes 0x00 to 0x34, R75, R78, R91 to R97). -/

namespace Sys2Proof.Machine

/-- The tag rule of an operation: the result tag for the tags of B and C (C is INT for an operation of one source),
or none (R91). -/
abbrev TagRule := BitVec 4 → BitVec 4 → Option (BitVec 4)

/-- The sixteen tags. -/
def allTags : List (BitVec 4) := (List.range 16).map fun i => BitVec.ofNat 4 i

/-- Whether a tag is one of the address tags (R91). -/
def isAddrTag (t : BitVec 4) : Bool := t == tagLaddr || t == tagTaddr || t == tagDaddr || t == tagDesc

/-- ADD's rows of R91: those of TIME hold for a 64-bit operation only. -/
def ruleAdd (wide : Bool) : TagRule := fun b c =>
  let one (t : BitVec 4) : Bool := isAddrTag t || t == tagCount || (wide && t == tagTime)
  if b = tagInt && c = tagInt then some tagInt
  else if one b && c = tagInt then some b
  else if b = tagInt && one c then some c
  else none

/-- SUB's rows of R91. -/
def ruleSub : TagRule := fun b c =>
  if b = tagInt && c = tagInt then some tagInt
  else if (isAddrTag b || b = tagCount || b = tagTime) && c = tagInt then some b
  else if b = c && (b = tagLaddr || b = tagTaddr || b = tagDaddr || b = tagCount || b = tagTime) then some tagInt
  else none

/-- INT, INT gives INT. -/
def ruleInt : TagRule := fun b c => if b = tagInt && c = tagInt then some tagInt else none

/-- AND, OR, XOR, ANDN: equal INT, BOOL or EVENT. -/
def ruleLogic : TagRule := fun b c =>
  if b = c && (b = tagInt || b = tagBool || b = tagEvent) then some b else none

/-- NOT: INT or BOOL. -/
def ruleNot : TagRule := fun b _ => if b = tagInt || b = tagBool then some b else none

/-- CEQ, CNE: any equal pair except UNINIT, reserved and CODE. -/
def ruleCeq : TagRule := fun b c => if b = c && !tagBad b && b ≠ tagCode then some tagBool else none

/-- CLT, CLE, CLTU, CLEU. -/
def ruleClt : TagRule := fun b c =>
  if b = c && (b = tagInt || b = tagLaddr || b = tagTaddr || b = tagCount || b = tagTime) then some tagBool else none

/-- F32, F32 gives F32. -/
def ruleF : TagRule := fun b c => if b = tagF32 && c = tagF32 then some tagF32 else none

/-- F32, F32 gives BOOL. -/
def ruleFc : TagRule := fun b c => if b = tagF32 && c = tagF32 then some tagBool else none

/-- F32 gives F32. -/
def ruleF1 : TagRule := fun b _ => if b = tagF32 then some tagF32 else none

/-- INT gives F32 (CVTIF). -/
def ruleIf : TagRule := fun b _ => if b = tagInt then some tagF32 else none

/-- F32 gives INT (CVTFI). -/
def ruleFi : TagRule := fun b _ => if b = tagF32 then some tagInt else none

/-- Any except UNINIT and reserved, the source's tag (MOV). -/
def ruleMov : TagRule := fun b _ => if tagBad b then none else some b

/-- Any except UNINIT and reserved, F32 (LDF). -/
def ruleLdf : TagRule := fun b _ => if tagBad b then none else some tagF32

/-- On the quoin a RAW source passes every check; the result takes RAW, but BOOL for a comparison (R93). -/
def rawRule (r : TagRule) : TagRule := fun b c =>
  if b = tagRaw || c = tagRaw then
    let cmp := allTags.any fun x => allTags.any fun y => r x y = some tagBool && x ≠ tagBool
    let okB := b = tagRaw || allTags.any fun x => (r b x).isSome
    let okC := c = tagRaw || allTags.any fun x => (r x c).isSome
    if okB && okC then some (if cmp then tagBool else tagRaw) else none
  else r b c

/-- Check two source tags under a rule: B fails when no tag of C would admit it, else C fails (R114 item 4). -/
def checkPair (core : Nat) (r : TagRule) (vb vc : SVal) (tb tc : BitVec 4) : Except Trap (BitVec 4) :=
  let r' : TagRule := if core = quoinCore then rawRule r else r
  match r' tb tc with
  | some t => .ok t
  | none =>
    if allTags.any fun x => (r' tb x).isSome then .error ⟨causeTag, tc.toNat, 2, BitVec.ofNat 32 vc.addr⟩
    else .error ⟨causeTag, tb.toNat, 1, BitVec.ofNat 32 vb.addr⟩

/-- A result value: an integer narrowed on writing, its width and how a wider place is filled. -/
structure RVal where
  val : Nat
  bits : Nat
  wd : Widen

/-- The tags of two sources admitted together under a rule: B's failure comes before C's (R91, R93, R114 item 4). `dflt` is
the tag that an untagged source counts as holding; `two` says whether C is a source. -/
def pairTags (core : Nat) (rule : TagRule) (dflt : BitVec 4) (two : Bool) (vb vc : SVal) : Except Trap (BitVec 4) :=
  match srcTag core 1 dflt vb, (if two then srcTag core 2 dflt vc else .ok tagInt) with
  | .error t, _ => .error t
  | .ok tb, .error t =>
    let r : TagRule := if core = quoinCore then rawRule rule else rule
    if !(allTags.any fun y => (r tb y).isSome) then .error ⟨causeTag, tb.toNat, 1, BitVec.ofNat 32 vb.addr⟩
    else .error t
  | .ok tb, .ok tc => checkPair core rule vb vc tb tc

/-- The tag of a result (R91): none for an f or q register, whose sources are only checked for UNINIT and reserved tags
(R75); else what the rule gives for the sources' tags. -/
def dataTag (rule : TagRule) (dflt : BitVec 4) (two : Bool) (x : Args) (vb vc : SVal) : Except Trap (Option (BitVec 4)) :=
  if x.a.untagged then
    match srcUntagged x.core 1 vb, srcUntagged x.core 2 vc with
    | .error t, _ => .error t
    | _, .error t => .error t
    | _, _ => .ok none
  else (pairTags x.core rule dflt two vb vc).map some

/-- An operation of one or two sources (R91): load B and C, check their tags and that A takes the result's (R86), then DIV0,
then parity, compute, and write A. -/
def dataOp (rule : Args → TagRule) (dflt : BitVec 4) (two : Bool) (div0 : Args → SVal → Bool)
    (f : Args → BitVec 4 → SVal → SVal → RVal) (x : Args) (s : State) : SeqRes Flow :=
  (loadOpd x.core 1 x.b s).bind fun s1 vb =>
  (loadOpd x.core 2 x.c s1).bind fun s2 vc =>
    match dataTag (rule x) dflt two x vb vc with
    | .error t => .trap s2 t
    | .ok tg =>
      guardAll s2 [storeTagOk x.a tg,
          if div0 x vc then .error ⟨causeDiv0, 0, 2, BitVec.ofNat 32 vc.addr⟩ else .ok ()]
        ((checkParity [vb, vc] s2).bind fun s3 () =>
          let r := f x (tg.getD dflt) vb vc
          (storeOpd x.core x.a tg r.val r.bits r.wd s3).bind fun s4 () => .ok s4 .seq)

/-- No zero-divisor check. -/
def noDiv0 : Args → SVal → Bool := fun _ _ => false

/-- The width of an integer operation (R94). -/
def Args.width (x : Args) : Nat := if x.wide then 64 else 32

/-- A source as a signed integer of its own width, narrowed to the operation's (R88, R94). -/
def SVal.int (v : SVal) (w : Nat) : Int := sgn w (wrap w (sgn v.bits v.val))

/-- A source as the unsigned bits of the operation's width. -/
def SVal.nat (v : SVal) (w : Nat) : Nat := wrap w (sgn v.bits v.val)

/-- An integer result of the operation's width. -/
def intRes (w : Nat) (r : Int) : RVal := ⟨wrap w r, w, .sign⟩

/-- An integer operation of two sources on signed values (R94). -/
def intOp2 (rule : Args → TagRule) (f : Nat → Int → Int → Int) : Args → State → SeqRes Flow :=
  dataOp rule tagInt true noDiv0 fun x _ b c => intRes x.width (f x.width (b.int x.width) (c.int x.width))

/-- An integer operation of two sources on unsigned bits (R94). -/
def bitOp2 (rule : TagRule) (f : Nat → Nat → Nat → Nat) : Args → State → SeqRes Flow :=
  dataOp (fun _ => rule) tagInt true noDiv0 fun x _ b c =>
    ⟨f x.width (b.nat x.width) (c.nat x.width) % 2 ^ x.width, x.width, .sign⟩

/-- A comparison: BOOL 1 or 0 (R97). -/
def cmpOp (rule : TagRule) (f : Nat → SVal → SVal → Bool) : Args → State → SeqRes Flow :=
  dataOp (fun _ => rule) tagInt true noDiv0 fun x _ b c => ⟨b2n (f x.width b c), 32, .sign⟩

/-- DIVS and REMS: rounded toward zero; the most negative dividend by −1 gives the largest value and 0; a zero
divisor takes DIV0 (R94). -/
def divsInt (w : Nat) (b c : Int) : Int :=
  if c = -1 && b = -((2 ^ (w - 1) : Nat) : Int) then ((2 ^ (w - 1) : Nat) : Int) - 1 else Int.tdiv b c

/-- REMS: the sign of the dividend (R94). -/
def remsInt (w : Nat) (b c : Int) : Int :=
  if c = -1 && b = -((2 ^ (w - 1) : Nat) : Int) then 0 else Int.tmod b c

/-- DIVS or REMS as an instruction. -/
def divOp (f : Nat → Int → Int → Int) : Args → State → SeqRes Flow :=
  dataOp (fun _ => ruleInt) tagInt true (fun x c => decide (c.nat x.width = 0)) fun x _ b c =>
    intRes x.width (f x.width (b.int x.width) (c.int x.width))

/-- Leading zeros of the `w` low bits (R96). -/
def clzN (w v : Nat) : Nat := w - bitLen (v % 2 ^ w)

/-- A binary32 operation of two sources. -/
def fOp2 (rule : TagRule) (f : FV → FV → Nat) : Args → State → SeqRes Flow :=
  dataOp (fun _ => rule) tagF32 true noDiv0 fun _ _ b c => ⟨f (f32In b.val) (f32In c.val), 32, .free⟩

/-- A binary32 operation of one source. -/
def fOp1 (f : FV → Nat) : Args → State → SeqRes Flow :=
  dataOp (fun _ => ruleF1) tagF32 false noDiv0 fun _ _ b _ => ⟨f (f32In b.val), 32, .free⟩

/-- A binary32 comparison: false if either is NaN (R96). -/
def fCmp (f : Int → Bool) : Args → State → SeqRes Flow :=
  dataOp (fun _ => ruleFc) tagF32 true noDiv0 fun _ _ b c =>
    let x := f32In b.val
    let y := f32In c.val
    ⟨b2n (x ≠ .nan && y ≠ .nan && f (x.cmp y)), 32, .sign⟩

/-- An instruction of the data group: kinds, then the operation. -/
def dataInstr (opc : Nat) (ka kb kc : Kinds) (op : Args → State → SeqRes Flow) (o : SeqOps) (s : State) : Out :=
  issueSeq opc o (withArgs ka kb kc noOwn o op) s

/-- NOP (R96). -/
def execNop (o : SeqOps) (s : State) : Out :=
  dataInstr 0x00 kNone kNone kNone (fun _ s => .ok s .seq) o s

/-- How wide MOV and LDF copy: a D64 operand makes 64 bits (R94), an f register holds 64 (R88); a wider untagged
destination's upper bits are stated by no rule (log entry 10). -/
def movVal (x : Args) (v : SVal) : RVal :=
  if v.tags.isEmpty || x.a.untagged then ⟨v.val, v.bits, .free⟩ else ⟨v.val, v.bits, .sign⟩

/-- MOV (R75, R86, R91): A ← B; an f register copied to a tagged place is INT. -/
def execMov (o : SeqOps) (s : State) : Out :=
  dataInstr 0x01 kDstF kSrcF kNone (dataOp (fun _ => ruleMov) tagInt false noDiv0 fun x _ b _ => movVal x b) o s

/-- LDF (R75, R87): A ← B, tagged F32. -/
def execLdf (o : SeqOps) (s : State) : Out :=
  dataInstr 0x02 kDstF kSrcF kNone (dataOp (fun _ => ruleLdf) tagInt false noDiv0 fun x _ b _ => movVal x b) o s

/-- Whether RETAG may convert (R92): from RAW only to INT, UNINIT and, on the quoin, RAW. -/
def retagOk (core : Nat) (smc : Bool) (frm dest : BitVec 4) (payload : Nat) : Bool :=
  if dest = tagUninit then true
  else if dest = tagRaw then core = quoinCore
  else if tagBad dest || tagBad frm then false
  else if dest = tagInt then true
  else if dest = tagDesc then frm = tagLaddr || frm = tagInt
  else if frm ≠ tagInt then false
  else if dest = tagBool then decide (payload ≤ 1)
  else if dest = tagCode then smc
  else true

/-- The tags that RETAG and TAGOF see, with no check but that D64 words agree (R74) and RAW on a tile is PRIV (R93). -/
def looseTag (core n : Nat) (v : SVal) : Except Trap (BitVec 4) :=
  let a := BitVec.ofNat 32 v.addr
  match v.tags with
  | [] => .ok tagInt
  | t :: r =>
    if core < 16 && (t :: r).contains tagRaw then .error ⟨causePriv, 15, n, a⟩
    else
      match r.find? fun x => x ≠ t with
      | some x => .error ⟨causeTag, x.toNat, n, a⟩
      | none => .ok (if v.part && !tagBad t then tagInt else t)

/-- RETAG (R92): B's payload to A with the tag given by the immediate C. A byte or half word of a word that holds UNINIT
or a reserved tag takes TAG_TRAP (R86). -/
def execRetag (o : SeqOps) (s : State) : Out :=
  issueSeq 0x03 o (withArgs kDst kSrc kImm noOwn o fun x s =>
    (loadOpd x.core 1 x.b s).bind fun s1 v =>
      let dest : Int := match x.c with | .imm i => i | _ => 0
      match looseTag x.core 1 v with
      | .error t => .trap s1 t
      | .ok frm =>
        if v.part && tagBad frm then .trap s1 ⟨causeTag, frm.toNat, 1, BitVec.ofNat 32 v.addr⟩
        else if dest < 0 || dest > 15 then .trap s1 ⟨causeTag, frm.toNat, 1, BitVec.ofNat 32 v.addr⟩
        else
          let tt := BitVec.ofInt 4 dest
          if tt = tagRaw && x.core < 16 then .trap s1 ⟨causePriv, 15, 2, 0⟩
          else if !retagOk x.core (bit (s1.core x.core).ctrl 2) frm tt v.val then
            .trap s1 ⟨causeTag, frm.toNat, 1, BitVec.ofNat 32 v.addr⟩
          else
            guardAll s1 [storeTagOk x.a (some tt)]
              ((checkParity [v] s1).bind fun s2 () =>
                (storeOpd x.core x.a (some tt) v.val v.bits .sign s2).bind fun s3 () => .ok s3 .seq)) s

/-- TAGOF (R92): A ← tag of B, as INT; the only instruction that reads UNINIT and reserved tags without a trap. -/
def execTagof (o : SeqOps) (s : State) : Out :=
  issueSeq 0x04 o (withArgs kDst kSrc kNone noOwn o fun x s =>
    (loadOpd x.core 1 x.b s).bind fun s1 v =>
      match looseTag x.core 1 v with
      | .error t => .trap s1 t
      | .ok t =>
        (checkParity [v] s1).bind fun s2 () =>
          (storeOpd x.core x.a (some tagInt) t.toNat 32 .sign s2).bind fun s3 () => .ok s3 .seq) s

/-- The data-stack slot at `addr`: g15 must hold LADDR, and the word is checked as any W32 operand (R76, R78). -/
def stackSlot (core : Nat) (c : SeqCore) (below : Bool) : Except Trap Nat :=
  let sp := c.g 15
  let a := (if below then sp.val - 4 else sp.val).toNat
  if sp.tag ≠ tagLaddr then .error ⟨causeTag, sp.tag.toNat, 3, BitVec.ofNat 32 a⟩
  else (checkAddr core .lram 2 a 3).map fun _ => a

/-- PUSH (R78): the operand at g15 − 4, then g15 ← g15 − 4; a W32 word with its tag. -/
def execPush (o : SeqOps) (s : State) : Out :=
  issueSeq 0x05 o (withArgs kNone kSrc kNone noOwn o fun x s =>
    match stackSlot x.core (s.core x.core) true with
    | .error t => .trap s t
    | .ok sp =>
      (loadOpd x.core 1 x.b s).bind fun s1 v =>
        match srcTag x.core 1 tagInt v with
        | .error t => .trap s1 t
        | .ok tb =>
          match checkPair x.core ruleMov v v tb tagInt with
          | .error t => .trap s1 t
          | .ok tg =>
            (checkParity [v] s1).bind fun s2 () =>
              (storeMem x.core .lram 2 sp (v.val % 2 ^ 32) [tg] s2).bind fun s3 () =>
                .ok (s3.updCore x.core fun c => c.setG 15 ⟨tagLaddr, BitVec.ofNat 32 sp⟩) .seq) s

/-- POP's source, the word at g15, is addressed before its destination A (R114 item 3). -/
def stackFirst (o : SeqOps) (body : State → SeqRes Flow) (s : State) : SeqRes Flow :=
  match decodeOpd kDst 0 o.a, decodeOpd kNone 1 o.b, decodeOpd kNone 2 o.c, stackSlot o.core (s.core o.core) false with
  | .ok _, .ok _, .ok _, .error t => .trap s t
  | _, _, _, _ => body s

/-- POP (R78): the word at g15 to A, then g15 ← g15 + 4. -/
def execPop (o : SeqOps) (s : State) : Out :=
  issueSeq 0x06 o (stackFirst o <| withArgs kDst kNone kNone noOwn o fun x s =>
    match stackSlot x.core (s.core x.core) false with
    | .error t => .trap s t
    | .ok sp =>
      (loadMem x.core .lram 2 sp 3 s).bind fun s1 v =>
        match srcTag x.core 3 tagInt v with
        | .error t => .trap s1 t
        | .ok tb =>
          if tagBad tb then .trap s1 ⟨causeTag, tb.toNat, 3, BitVec.ofNat 32 sp⟩
          else
            guardAll s1 [storeTagOk x.a (some tb)]
              ((checkParity [v] s1).bind fun s2 () =>
                (storeOpd x.core x.a (some tb) v.val 32 .sign s2).bind fun s3 () =>
                  .ok (s3.updCore x.core fun c => c.setG 15 ⟨tagLaddr, BitVec.ofNat 32 (sp + 4)⟩) .seq)) s

/-- FST (R75): A ← f[31:0], tagged F32 in local RAM. -/
def execFst (o : SeqOps) (s : State) : Out :=
  issueSeq 0x07 o (withArgs ⟨[0, 1, 2, 3, 4], false, false, false, false⟩ ⟨[], false, true, false, false⟩ kNone noOwn o
    fun x s =>
      (loadOpd x.core 1 x.b s).bind fun s1 v =>
        (storeOpd x.core x.a (some tagF32) (v.val % 2 ^ 32) 32 .free s1).bind fun s2 () => .ok s2 .seq) s

/-- ADD (R91, R94): A ← B + C, wrapping. -/
def execAdd (o : SeqOps) (s : State) : Out :=
  dataInstr 0x08 kDst kSrc kSrc (intOp2 (fun x => ruleAdd x.wide) fun _ b c => b + c) o s

/-- SUB (R91, R94): A ← B − C, wrapping. -/
def execSub (o : SeqOps) (s : State) : Out :=
  dataInstr 0x09 kDst kSrc kSrc (intOp2 (fun _ => ruleSub) fun _ b c => b - c) o s

/-- ADDS (R94): saturating B + C. -/
def execAdds (o : SeqOps) (s : State) : Out :=
  dataInstr 0x0A kDst kSrc kSrc (intOp2 (fun _ => ruleInt) fun w b c => satS w (b + c)) o s

/-- SUBS (R94): saturating B − C. -/
def execSubs (o : SeqOps) (s : State) : Out :=
  dataInstr 0x0B kDst kSrc kSrc (intOp2 (fun _ => ruleInt) fun w b c => satS w (b - c)) o s

/-- MUL (R94): the low half of the signed product. -/
def execMul (o : SeqOps) (s : State) : Out :=
  dataInstr 0x0C kDst kSrc kSrc (intOp2 (fun _ => ruleInt) fun _ b c => b * c) o s

/-- MULH (R94): the high half of the signed product. -/
def execMulh (o : SeqOps) (s : State) : Out :=
  dataInstr 0x0D kDst kSrc kSrc (intOp2 (fun _ => ruleInt) fun w b c => sar (b * c) w) o s

/-- DIVS (R94). -/
def execDivs (o : SeqOps) (s : State) : Out :=
  dataInstr 0x0E kDst kSrc kSrc (divOp divsInt) o s

/-- REMS (R94). -/
def execRems (o : SeqOps) (s : State) : Out :=
  dataInstr 0x0F kDst kSrc kSrc (divOp remsInt) o s

/-- AND (R96). -/
def execAnd (o : SeqOps) (s : State) : Out :=
  dataInstr 0x10 kDst kSrc kSrc (bitOp2 ruleLogic fun _ b c => b &&& c) o s

/-- OR (R96). -/
def execOr (o : SeqOps) (s : State) : Out :=
  dataInstr 0x11 kDst kSrc kSrc (bitOp2 ruleLogic fun _ b c => b ||| c) o s

/-- XOR (R96). -/
def execXor (o : SeqOps) (s : State) : Out :=
  dataInstr 0x12 kDst kSrc kSrc (bitOp2 ruleLogic fun _ b c => b ^^^ c) o s

/-- ANDN (R96): B & ~C. -/
def execAndn (o : SeqOps) (s : State) : Out :=
  dataInstr 0x13 kDst kSrc kSrc (bitOp2 ruleLogic fun w b c => b &&& (2 ^ w - 1 - c)) o s

/-- SHL (R94): the count modulo 32. -/
def execShl (o : SeqOps) (s : State) : Out :=
  dataInstr 0x14 kDst kSrc kSrc (bitOp2 ruleInt fun _ b c => b <<< (c % 32)) o s

/-- SHR (R94): logical, the count modulo 32. -/
def execShr (o : SeqOps) (s : State) : Out :=
  dataInstr 0x15 kDst kSrc kSrc (bitOp2 ruleInt fun _ b c => b >>> (c % 32)) o s

/-- SAR (R94): arithmetic, the count modulo 32. -/
def execSar (o : SeqOps) (s : State) : Out :=
  dataInstr 0x16 kDst kSrc kSrc (intOp2 (fun _ => ruleInt) fun _ b c => sar b (c % 32).toNat) o s

/-- MIN (R96): the signed minimum. -/
def execMin (o : SeqOps) (s : State) : Out :=
  dataInstr 0x17 kDst kSrc kSrc (intOp2 (fun _ => ruleInt) fun _ b c => min b c) o s

/-- MAX (R96): the signed maximum. -/
def execMax (o : SeqOps) (s : State) : Out :=
  dataInstr 0x18 kDst kSrc kSrc (intOp2 (fun _ => ruleInt) fun _ b c => max b c) o s

/-- NOT's value: ~B; for BOOL, 1 − B (R96). -/
def notVal (t : BitVec 4) (w v : Nat) : Nat := if t = tagBool then wrap w (1 - (v : Int)) else 2 ^ w - 1 - v

/-- NOT (R96). -/
def execNot (o : SeqOps) (s : State) : Out :=
  dataInstr 0x19 kDst kSrc kNone
    (dataOp (fun _ => ruleNot) tagInt false noDiv0 fun x t b _ => ⟨notVal t x.width (b.nat x.width), x.width, .sign⟩) o s

/-- NEG (R96): −B, wrapping. -/
def execNeg (o : SeqOps) (s : State) : Out :=
  dataInstr 0x1A kDst kSrc kNone
    (dataOp (fun _ => ruleInt) tagInt false noDiv0 fun x _ b _ => intRes x.width (-(b.int x.width))) o s

/-- CLZ (R96): of a 64-bit operation the count runs from 0 to 64 (log entry 72). -/
def execClz (o : SeqOps) (s : State) : Out :=
  dataInstr 0x1B kDst kSrc kNone
    (dataOp (fun _ => ruleInt) tagInt false noDiv0 fun x _ b _ => ⟨clzN x.width (b.nat x.width), x.width, .sign⟩) o s

/-- POPC (R96). -/
def execPopc (o : SeqOps) (s : State) : Out :=
  dataInstr 0x1C kDst kSrc kNone
    (dataOp (fun _ => ruleInt) tagInt false noDiv0 fun x _ b _ => ⟨popCount x.width (b.nat x.width), x.width, .sign⟩) o s

/-- CEQ (R97). -/
def execCeq (o : SeqOps) (s : State) : Out :=
  dataInstr 0x20 kDst kSrc kSrc (cmpOp ruleCeq fun w b c => b.nat w == c.nat w) o s

/-- CNE (R97). -/
def execCne (o : SeqOps) (s : State) : Out :=
  dataInstr 0x21 kDst kSrc kSrc (cmpOp ruleCeq fun w b c => b.nat w != c.nat w) o s

/-- CLT (R97): signed B < C. -/
def execClt (o : SeqOps) (s : State) : Out :=
  dataInstr 0x22 kDst kSrc kSrc (cmpOp ruleClt fun w b c => decide (b.int w < c.int w)) o s

/-- CLE (R97): signed B ≤ C. -/
def execCle (o : SeqOps) (s : State) : Out :=
  dataInstr 0x23 kDst kSrc kSrc (cmpOp ruleClt fun w b c => decide (b.int w ≤ c.int w)) o s

/-- CLTU (R97): unsigned B < C. -/
def execCltu (o : SeqOps) (s : State) : Out :=
  dataInstr 0x24 kDst kSrc kSrc (cmpOp ruleClt fun w b c => decide (b.nat w < c.nat w)) o s

/-- CLEU (R97): unsigned B ≤ C. -/
def execCleu (o : SeqOps) (s : State) : Out :=
  dataInstr 0x25 kDst kSrc kSrc (cmpOp ruleClt fun w b c => decide (b.nat w ≤ c.nat w)) o s

/-- FADD (R95). -/
def execFadd (o : SeqOps) (s : State) : Out :=
  dataInstr 0x28 kDstF kSrcF kSrcF (fOp2 ruleF fun b c => f32Out (b.add c)) o s

/-- FSUB (R95). -/
def execFsub (o : SeqOps) (s : State) : Out :=
  dataInstr 0x29 kDstF kSrcF kSrcF (fOp2 ruleF fun b c => f32Out (b.sub c)) o s

/-- FMUL (R95). -/
def execFmul (o : SeqOps) (s : State) : Out :=
  dataInstr 0x2A kDstF kSrcF kSrcF (fOp2 ruleF fun b c => f32Out (b.mul c)) o s

/-- FMA (R91, R95): A ← A + B × C with one rounding; A is a source as well, F32 like B and C. -/
def execFma (o : SeqOps) (s : State) : Out :=
  issueSeq 0x2B o (withArgs kDstF kSrcF kSrcF noOwn o fun x s =>
    (loadOpd x.core 1 x.b s).bind fun s1 vb =>
    (loadOpd x.core 2 x.c s1).bind fun s2 vc =>
    (loadOpd x.core 0 x.a s2).bind fun s3 va =>
      let chk (n : Nat) (v : SVal) : Except Trap Unit :=
        if x.a.untagged then srcUntagged x.core n v
        else match srcTag x.core n tagF32 v with
          | .error t => .error t
          | .ok t =>
            if t = tagF32 || (t = tagRaw && x.core = quoinCore) then .ok ()
            else .error ⟨causeTag, t.toNat, n, BitVec.ofNat 32 v.addr⟩
      let raw := x.core = quoinCore && [va, vb, vc].any fun v => v.tags.contains tagRaw
      let tg := if x.a.untagged then none else some (if raw then tagRaw else tagF32)
      guardAll s3 [chk 1 vb, chk 2 vc, chk 0 va, storeTagOk x.a tg]
        ((checkParity [vb, vc, va] s3).bind fun s4 () =>
          let r := f32Out ((f32In va.val).add ((f32In vb.val).mul (f32In vc.val)))
          (storeOpd x.core x.a tg r 32 .free s4).bind
            fun s5 () => .ok s5 .seq)) s

/-- FMIN (R95, R96). -/
def execFmin (o : SeqOps) (s : State) : Out :=
  dataInstr 0x2C kDstF kSrcF kSrcF (fOp2 ruleF fun b c => f32Out (b.minV c)) o s

/-- FMAX (R95, R96). -/
def execFmax (o : SeqOps) (s : State) : Out :=
  dataInstr 0x2D kDstF kSrcF kSrcF (fOp2 ruleF fun b c => f32Out (b.maxV c)) o s

/-- FCEQ (R96). -/
def execFceq (o : SeqOps) (s : State) : Out :=
  dataInstr 0x2E kDst kSrcF kSrcF (fCmp fun k => k == 0) o s

/-- FCLT (R96). -/
def execFclt (o : SeqOps) (s : State) : Out :=
  dataInstr 0x2F kDst kSrcF kSrcF (fCmp fun k => decide (k < 0)) o s

/-- FCLE (R96). -/
def execFcle (o : SeqOps) (s : State) : Out :=
  dataInstr 0x30 kDst kSrcF kSrcF (fCmp fun k => decide (k ≤ 0)) o s

/-- CVTIF (R95): integer to F32. -/
def execCvtif (o : SeqOps) (s : State) : Out :=
  dataInstr 0x31 kDstF kSrc kNone
    (dataOp (fun _ => ruleIf) tagInt false noDiv0 fun _ _ b _ => ⟨f32Out (FV.ofInt (sgn b.bits b.val)), 32, .free⟩) o s

/-- CVTFI (R95): to nearest, ties toward +∞, saturating to signed 32 bits; NaN gives 0. -/
def execCvtfi (o : SeqOps) (s : State) : Out :=
  dataInstr 0x32 kDst kSrcF kNone
    (dataOp (fun _ => ruleFi) tagF32 false noDiv0 fun _ _ b _ => intRes 32 ((f32In b.val).toIntSat 32)) o s

/-- FABS (R96): clear the sign. -/
def execFabs (o : SeqOps) (s : State) : Out :=
  dataInstr 0x33 kDstF kSrcF kNone (fOp1 fun b => f32Out b.abs) o s

/-- FNEG (R96): invert the sign. -/
def execFneg (o : SeqOps) (s : State) : Out :=
  dataInstr 0x34 kDstF kSrcF kNone (fOp1 fun b => f32Out b.neg) o s

end Sys2Proof.Machine
end

