-- ==== Sys2Proof/Machine/SeqCtl.lean ====
section
/-! DEFINITION. Control transfers, waits, events, time, steps and SEQ_ registers (opcodes 0x38 to 0x3F and 0x48 to
0x52), and the wakes of a waiting sequencer (R79, R97 to R100, R105 to R114, R119, R133, R143). -/

namespace Sys2Proof.Machine

/-- A source must hold `want` in every word; on the quoin RAW in every word passes, and on a tile RAW takes PRIV (R74, R91,
R93). An untagged
source counts as holding it; a byte or half word of local RAM is INT (R86). -/
def needTag (core n : Nat) (want : BitVec 4) (v : SVal) : Except Trap Unit :=
  let a := BitVec.ofNat 32 v.addr
  if core < 16 && v.tags.contains tagRaw then .error ⟨causePriv, 15, n, a⟩
  else
    let held := if v.part then v.tags.map fun t => if tagBad t then t else tagInt else v.tags
    if core = quoinCore && held.all (· == tagRaw) then .ok ()
    else
      match held.find? fun t => t ≠ want with
      | some t => .error ⟨causeTag, t.toNat, n, a⟩
      | none => .ok ()

/-- The tag check of a branch target: LADDR unless it is an immediate (R98). -/
def targetTag (core : Nat) (p : Place) (v : SVal) : Except Trap Unit :=
  match p with
  | .imm _ => .ok ()
  | _ => needTag core 1 tagLaddr v

/-- Where a branch goes: PC-relative in instructions for an immediate, else the LADDR's payload (R98). -/
def targetOf (pc : BitVec 32) (p : Place) (v : SVal) : BitVec 32 :=
  match p with
  | .imm i => pc + BitVec.ofInt 32 (8 * i)
  | _ => BitVec.ofNat 32 v.val

/-- A target that is not an immediate must be 8-aligned (R98). -/
def targetAlign (p : Place) (v : SVal) : Except Trap Unit :=
  match p with
  | .imm _ => .ok ()
  | _ => if v.val % 8 = 0 then .ok () else .error ⟨causeAlign, 0, 1, BitVec.ofNat 32 v.val⟩

/-- Load and check a branch target, then go on with it. -/
def withTarget (x : Args) (s : State) (k : State → BitVec 32 → SeqRes Flow) : SeqRes Flow :=
  (loadOpd x.core 1 x.b s).bind fun s1 v =>
    guardAll s1 [targetTag x.core x.b v, targetAlign x.b v]
      ((checkParity [v] s1).bind fun s2 () => k s2 (targetOf (s2.core x.core).pc x.b v))

/-- BR (R98). -/
def execBr (o : SeqOps) (s : State) : Out :=
  issueSeq 0x38 o (withArgs kNone kSrc kNone noOwn o fun x s => withTarget x s fun s1 t => .ok s1 (.jump t)) s

/-- BT and BF: jump to B when the condition C, a BOOL, equals `want` (R91, R98). -/
def condBranch (opc want : Nat) (o : SeqOps) (s : State) : Out :=
  issueSeq opc o (withArgs kNone kSrc kSrc noOwn o fun x s =>
    (loadOpd x.core 1 x.b s).bind fun s1 v =>
    (loadOpd x.core 2 x.c s1).bind fun s2 cv =>
      guardAll s2 [targetTag x.core x.b v, needTag x.core 2 tagBool cv, targetAlign x.b v]
        ((checkParity [v, cv] s2).bind fun s3 () =>
          if cv.val % 2 ^ 32 = want then .ok s3 (.jump (targetOf (s3.core x.core).pc x.b v)) else .ok s3 .seq)) s

/-- BT (R96): jump to B if C = 1. -/
def execBt (o : SeqOps) (s : State) : Out := condBranch 0x39 1 o s

/-- BF (R96): jump to B if C = 0. -/
def execBf (o : SeqOps) (s : State) : Out := condBranch 0x3A 0 o s

/-- Push a return address (R79): with the 32 entries full the oldest is spilled to the next word of the spill area,
tagged LADDR; a spill that would reach SEQ_RSP_LIMIT takes RSTACK and does not push. -/
def pushReturn (core : Nat) (ret : BitVec 32) (s : State) : SeqRes Unit :=
  let c := s.core core
  if c.rstack.length < 32 then .ok (s.updCore core fun c => { c with rstack := ret :: c.rstack }) ()
  else
    let a := c.rspBase.toNat + 4 * c.spilled
    if a ≥ c.rspLimit.toNat || a + 4 > lramTop then .trap s ⟨causeRstack, 0, 3, BitVec.ofNat 32 a⟩
    else
      (storeMem core .lram 2 a (c.rstack.getLastD 0).toNat [tagLaddr] s).bind fun s1 () =>
        .ok (s1.updCore core fun c => { c with rstack := ret :: c.rstack.dropLast, spilled := c.spilled + 1 }) ()

/-- CALL (R79, R98). -/
def execCall (o : SeqOps) (s : State) : Out :=
  issueSeq 0x3B o (withArgs kNone kSrc kNone noOwn o fun x s =>
    withTarget x s fun s1 t =>
      (pushReturn x.core ((s1.core x.core).pc + 8) s1).bind fun s2 () => .ok s2 (.jump t)) s

/-- RET (R79): the youngest hardware entry, else the last spilled word, which must be an 8-aligned LADDR (any other tag,
RAW too, takes TAG_TRAP); with nothing to pop, RSTACK. -/
def retBody (x : Args) (s : State) : SeqRes Flow :=
  let c := s.core x.core
  match c.rstack with
  | r :: rest => .ok (s.updCore x.core fun c => { c with rstack := rest }) (.jump r)
  | [] =>
    if c.spilled = 0 then .trap s ⟨causeRstack, 0, 3, 0⟩
    else
      let a := c.rspBase.toNat + 4 * (c.spilled - 1)
      (loadMem x.core .lram 2 a 3 s).bind fun s1 v =>
        guardAll s1 [match v.tags with
              | [] => .ok ()
              | t :: _ => if t = tagLaddr then .ok () else .error ⟨causeTag, t.toNat, 3, BitVec.ofNat 32 a⟩,
            if v.val % 8 = 0 then .ok () else .error ⟨causeAlign, 0, 3, BitVec.ofNat 32 v.val⟩]
          ((checkParity [v] s1).bind fun s2 () =>
            .ok (s2.updCore x.core fun c => { c with spilled := c.spilled - 1 }) (.jump (BitVec.ofNat 32 v.val)))

/-- RET. -/
def execRet (o : SeqOps) (s : State) : Out :=
  issueSeq 0x3C o (withArgs kNone kNone kNone noOwn o retBody) s

/-- An exit from IRQ level that a URG request abandons (R146): SEQ_EPC[1] takes the PC and PREV that the exit had read from
SEQ_EPC[0], and URG level is entered; the IRQ bank keeps its contents. -/
def SeqCore.abandonExit (c : SeqCore) : SeqCore :=
  { c with
    epcUrg := c.epcIrq
    level := 2
    pc := (c.vecUrg.extractLsb' 3 14).setWidth 32 * 8
    fetch := []
    recogHold := 0
    entryHold := false }

/-- RETI (R119, R143, R147): PC and LEVEL from SEQ_EPC of the level; at base level ILLEGAL. A URG request that is
recognisable during the exit from IRQ level abandons it (R146); with HALT_REQ set as well the exit completes and the sequencer halts
(R118; log entry 104, the model's choice). -/
def execReti (o : SeqOps) (s : State) : Out :=
  issueSeq 0x3D o (withArgs kNone kNone kNone noOwn o fun x s =>
    let c := s.core x.core
    if c.bankLevel = 0 then .trap s ⟨causeIllegal, 0, 3, 0⟩
    else if c.bankLevel = 1 && s.presents x.core 2 && bit c.ctrl 1 && !c.haltReq then
      .ok ((s.spendLate x.core 2).updCore x.core SeqCore.abandonExit) .done
    else .ok (s.updCore x.core fun c => { c.leave with halted := c.halted || c.haltReq }) .done) s

/-- DBNZ (R91, R94, R98): A ← A − 1, a COUNT; jump to B if A ≠ 0. -/
def execDbnz (o : SeqOps) (s : State) : Out :=
  issueSeq 0x3E o (withArgs kDst kSrc kNone noOwn o fun x s =>
    (loadOpd x.core 1 x.b s).bind fun s1 v =>
    (loadOpd x.core 0 x.a s1).bind fun s2 cv =>
      guardAll s2 [targetTag x.core x.b v, needTag x.core 0 tagCount cv, targetAlign x.b v]
        ((checkParity [v, cv] s2).bind fun s3 () =>
          let r := wrap cv.bits ((cv.val : Int) - 1)
          let pc := (s3.core x.core).pc
          let tg := cv.tags.headD tagCount
          (storeOpd x.core x.a (some tg) r cv.bits .sign s3).bind fun s4 () =>
            if r = 0 then .ok s4 .seq else .ok s4 (.jump (targetOf pc x.b v)))) s

/-- Perform every store-buffer entry (R133); a held one makes the instruction wait. -/
def drainAll (core : Nat) (s : State) : SeqRes Unit :=
  match drainN core (s.core core).stbuf.length s with
  | some s1 => .ok s1 ()
  | none => .wait

/-- IFLUSH (R99, R133): every earlier store is performed, then the fetch buffer is emptied. -/
def execIflush (o : SeqOps) (s : State) : Out :=
  issueSeq 0x3F o (withArgs kNone kNone kNone noOwn o fun x s =>
    (drainAll x.core s).bind fun s1 () => .ok s1 (.jump ((s1.core x.core).pc + 8))) s

/-- FENCE (R96, R133): every earlier store is performed. -/
def execFence (o : SeqOps) (s : State) : Out :=
  issueSeq 0x4F o (withArgs kNone kNone kNone noOwn o fun x s =>
    (drainAll x.core s).bind fun s1 () => .ok s1 .seq) s

/-! ### Events and time -/

/-- The copy of TIME that a sequencer reads (R108, R418); the quoin has one of its own (R518, log entry 9). -/
def State.seqTime (s : State) (core : Nat) : Nat :=
  if core < 16 then s.te.tileCopy.getD core 0 else s.te.quoinCopy

/-- The lowest latched event of a mask (R106). -/
def readyEvent (c : SeqCore) (mask : BitVec 128) : Option Nat := lowestSet 128 (c.evtLatch &&& mask).toNat

/-- Consume event `n`: its number to A as INT, then, last, its latch bit is cleared (R106, R110). -/
def consumeEvent (x : Args) (n : Nat) (s : State) : SeqRes Flow :=
  (storeOpd x.core x.a (some tagInt) n 32 .sign s).bind fun s1 () =>
    .ok (s1.updCore x.core fun c => { c with evtLatch := setBit c.evtLatch n false }) .seq

/-- Begin to wait: the instruction stays at its address (R110). -/
def beginWait (core : Nat) (w : WaitFor) (s : State) : SeqRes Flow :=
  .ok (s.updCore core fun c => { c with wait := some w }) .stay

/-- WAITE (R106): completes as soon as latch and mask share a set bit; until then the sequencer waits. -/
def execWaite (o : SeqOps) (s : State) : Out :=
  issueSeq 0x48 o (withArgs kDst (kMem 4) kNone noOwn o fun x s =>
    (loadOpd x.core 1 x.b s).bind fun s1 m =>
      guardAll s1 [needTag x.core 1 tagEvent m]
        ((checkParity [m] s1).bind fun s2 () =>
          let mask := BitVec.ofNat 128 m.val
          match readyEvent (s2.core x.core) mask with
          | some n => consumeEvent x n s2
          | none => beginWait x.core (.event o.a mask) s2)) s

/-- A TIME operand's 64 bits; a g register is sign-extended (R74, R88). -/
def timeVal (v : SVal) : BitVec 64 := BitVec.ofInt 64 (sgn v.bits v.val)

/-- WAITET (R107): as WAITE, or until TIME ≥ C, when A receives 255; an event is taken before the time. -/
def execWaitet (o : SeqOps) (s : State) : Out :=
  issueSeq 0x49 o (withArgs kDst (kMem 4) ⟨[3], true, false, false, false⟩ noOwn o fun x s =>
    (loadOpd x.core 1 x.b s).bind fun s1 m =>
    (loadOpd x.core 2 x.c s1).bind fun s2 t =>
      guardAll s2 [needTag x.core 1 tagEvent m, needTag x.core 2 tagTime t]
        ((checkParity [m, t] s2).bind fun s3 () =>
          let mask := BitVec.ofNat 128 m.val
          match readyEvent (s3.core x.core) mask with
          | some n => consumeEvent x n s3
          | none =>
            if s3.seqTime x.core ≥ (timeVal t).toNat then
              (storeOpd x.core x.a (some tagInt) 255 32 .sign s3).bind fun s4 () => .ok s4 .seq
            else beginWait x.core (.eventTime o.a mask (timeVal t)) s3)) s

/-- PULSE (R109, R123): pulses the lines of bits 0 to 63; bit 67 sets the tile's own SELF. As the first of a pair it does so when
its group writes back (R120). -/
def execPulse (o : SeqOps) (s : State) : Out :=
  issueSeq 0x4A o (withArgs kNone (kMem 4) kNone noOwn o fun x s =>
    (loadOpd x.core 1 x.b s).bind fun s1 m =>
      guardAll s1 [needTag x.core 1 tagEvent m]
        ((checkParity [m] s1).bind fun s2 () =>
          let mask := BitVec.ofNat 128 m.val
          .ok (match (s2.core x.core).group with
            | some l => s2.updCore x.core fun c => { c with group := some { l with pulse := mask } }
            | none => s2.pulseNow x.core mask) .seq)) s

/-- WAITT (R108): completes when TIME ≥ B. -/
def execWaitt (o : SeqOps) (s : State) : Out :=
  issueSeq 0x4B o (withArgs kNone (kMem 3) kNone noOwn o fun x s =>
    (loadOpd x.core 1 x.b s).bind fun s1 t =>
      guardAll s1 [needTag x.core 1 tagTime t]
        ((checkParity [t] s1).bind fun s2 () =>
          if s2.seqTime x.core ≥ (timeVal t).toNat then .ok s2 .seq
          else beginWait x.core (.time (timeVal t)) s2)) s

/-- RDTIME (R108): A ← the copy of TIME, tagged TIME. -/
def execRdtime (o : SeqOps) (s : State) : Out :=
  issueSeq 0x4C o (withArgs (kMem 3) kNone kNone noOwn o fun x s =>
    (storeOpd x.core x.a (some tagTime) (s.seqTime x.core) 64 .sign s).bind fun s1 () => .ok s1 .seq) s

/-- A waiting sequencer that exists, is live and not halted, and what it waits for. -/
def waitingFor (s : State) (core : Nat) : Option WaitFor :=
  if s.coreRuns core && !(s.core core).halted then (s.core core).wait else none

/-- A waiting instruction completes: `body` writes its result, operand A placed again from its specifier. -/
def wakeWith (core : Nat) (a : BitVec 19) (body : Args → State → SeqRes Flow) (s : State) : State :=
  let s1 := s.updCore core fun c => { c with wait := none }
  match Opd.ofBits a with
  | none => s
  | some d =>
    match placeOpd core (s1.core core) 0 (some d) with
    | .error t => s1.coreTrap core t
    | .ok p =>
      match body ⟨core, p, .none, .none⟩ s1 with
      | .wait => holdBit core true s
      | r => finishSeq core 0 0 s r

/-- WAITE_WAKE (R106): the latch and the mask share a bit, and the WAITE completes. -/
def execWaiteWake (core : Nat) (s : State) : Out :=
  match waitingFor s core with
  | some (.event a mask) =>
    match readyEvent (s.core core) mask with
    | some n => .next (wakeWith core a (fun x z => consumeEvent x n z) s)
    | none => .next s
  | _ => .next s

/-- WAITET_WAKE (R107): an event is ready, or the time has come. -/
def execWaitetWake (core : Nat) (s : State) : Out :=
  match waitingFor s core with
  | some (.eventTime a mask t) =>
    match readyEvent (s.core core) mask with
    | some n => .next (wakeWith core a (fun x z => consumeEvent x n z) s)
    | none =>
      if s.seqTime core ≥ t.toNat then
        .next (wakeWith core a (fun x z =>
          (storeOpd x.core x.a (some tagInt) 255 32 .sign z).bind fun z1 () => .ok z1 .seq) s)
      else .next s
  | _ => .next s

/-- WAITT_WAKE (R108): TIME has reached the operand. -/
def execWaittWake (core : Nat) (s : State) : Out :=
  match waitingFor s core with
  | some (.time t) =>
    if s.seqTime core ≥ t.toNat then
      .next (finishSeq core 0 0 s (.ok (s.updCore core fun c => { c with wait := none }) .seq))
    else .next s
  | _ => .next s

/-! ### Steps -/

/-- PRIORITY of a descriptor: true for urgent (R27). -/
def descUrgent (d : BitVec 1024) : Bool := bit d 54

/-- Place a descriptor in the issue register of its priority (R112). -/
def placeStep (t : Nat) (d : BitVec 1024) (s : State) : State :=
  s.updSt t fun u =>
    let i : IssueReg := ⟨d, false, s.bond.win, s.cycle⟩
    if descUrgent d then { u with issueU := some i } else { u with issueN := some i }

/-- Whether the issue register of a priority is free in cycle `now`: it is from the cycle after its descriptor's start cycle
(R112). -/
def StepUnit.issueFree (u : StepUnit) (now : Nat) (urgent : Bool) : Bool :=
  if urgent then u.issueU.isNone && u.gaveU != some now else u.issueN.isNone && u.gaveN != some now

/-- STEP (R111, R112, R124): the operand holds DESC, 128-aligned within local RAM; earlier stores are performed, the
128 B are read, payloads only, and go to the issue register of their PRIORITY; a full register stalls the
sequencer. On the quoin, which has no step unit, STEP makes its checks and its descriptor read and then completes with no
further effect (log entry 74). -/
def execStep (o : SeqOps) (s : State) : Out :=
  issueSeq 0x4D o (withArgs kNone kSrc kNone noOwn o fun x s =>
    (loadOpd x.core 1 x.b s).bind fun s1 v =>
      let a := v.val % 2 ^ 32
      guardAll s1 [needTag x.core 1 tagDesc v,
          if a % 128 = 0 then .ok () else .error ⟨causeAlign, 0, 1, BitVec.ofNat 32 a⟩,
          if a + 128 ≤ lramTop then .ok () else .error ⟨causeAddr, 0, 1, BitVec.ofNat 32 a⟩]
        ((checkParity [v] s1).bind fun s2 () =>
        (drainAll x.core s2).bind fun s3 () =>
          let w := readLram s3 x.core (wordsOf a 128)
          if w.lrBad then .trap s3 ⟨causeLrParity, 0, 1, BitVec.ofNat 32 a⟩
          else if x.core ≥ 16 then .ok s3 .seq
          else
            let d := BitVec.ofNat 1024 w.data
            if (s3.tile x.core).st.issueFree s3.cycle (descUrgent d) then .ok (placeStep x.core d s3) .seq
            else beginWait x.core (.step (descUrgent d) d) s3)) s

/-- STEP_STALL_RELEASE (R112): the register is free, and the stalled STEP places its descriptor and completes. -/
def execStepStallRelease (core : Nat) (s : State) : Out :=
  match waitingFor s core with
  | some (.step u d) =>
    if (s.tile core).st.issueFree s.cycle u then
      .next (finishSeq core 0 0 s (.ok (placeStep core d (s.updCore core fun c => { c with wait := none })) .seq))
    else .next s
  | _ => .next s

/-- The immediate of an operand. -/
def Opd.immVal? : Option Opd → Option Int
  | some (.imm v) => some v
  | _ => none

/-- STSTAT (R113): SEQ_STEP_STAT[p] to A as INT, then VALID and OVERRUN are cleared; another p takes ILLEGAL. -/
def execStstat (o : SeqOps) (s : State) : Out :=
  issueSeq 0x4E o (withArgs kDst kImm kNone
    (fun _ b _ => if Opd.immVal? b = some 0 || Opd.immVal? b = some 1 then none else some 1) o fun x s =>
      let u := x.b == .imm 1
      let c := s.core x.core
      let v := if u then c.stepStatU else c.stepStatN
      (storeOpd x.core x.a (some tagInt) v.toNat 32 .sign s).bind fun s1 () =>
        .ok (s1.updCore x.core fun c =>
          match c.group with
          | some l => { c with group := some { l with stat := some (u, v) } }
          | none =>
            if u then { c with stepStatU := clearStat v c.stepStatU } else { c with stepStatN := clearStat v c.stepStatN }) .seq) s

/-- The SEQ_ offset of an immediate operand must be the first byte of a register (R100): else ILLEGAL at operand B. -/
def seqOffOk (b : Option Opd) : Option Nat :=
  match Opd.immVal? b with
  | some v => if 0 ≤ v && (SeqCore.reset.readReg v.toNat).isSome then none else some 1
  | none => some 1

/-- The offset named by operand B. -/
def Args.seqOff (x : Args) : Nat := match x.b with | .imm v => v.toNat | _ => 0

/-- MFSR (R100): A ← the SEQ_ register at offset B, with the tag its field table names, or INT. -/
def execMfsr (o : SeqOps) (s : State) : Out :=
  issueSeq 0x50 o (withArgs kDst kImm kNone (fun _ b _ => seqOffOk b) o fun x s =>
    let (v, tg) := ((s.core x.core).readReg x.seqOff).getD (0, tagInt)
    (storeOpd x.core x.a (some tg) (v.toNat % 2 ^ 32) 32 .sign s).bind fun s1 () => .ok s1 .seq) s

/-- MTSR (R100): the SEQ_ register at offset B ← C, RW fields only, HALT_REQ unchanged; a shadow register takes the
tag as well. UNINIT and reserved tags trap (R92). -/
def execMtsr (o : SeqOps) (s : State) : Out :=
  issueSeq 0x51 o (withArgs kNone kImm kSrc (fun _ b _ => seqOffOk b) o fun x s =>
    (loadOpd x.core 2 x.c s).bind fun s1 v =>
      match srcTag x.core 2 tagInt v with
      | .error t => .trap s1 t
      | .ok tg =>
        if tagBad tg then .trap s1 ⟨causeTag, tg.toNat, 2, BitVec.ofNat 32 v.addr⟩
        else
          (checkParity [v] s1).bind fun s2 () =>
            .ok (s2.updCore x.core fun c =>
              c.writeReg x.seqOff (BitVec.ofNat 32 v.val) tg (decide (x.core < 16)) false) .seq) s

/-- TRAP (R96, R114): takes SWTRAP, with B in SEQ_TRAP_ADDR. -/
def execTrap (o : SeqOps) (s : State) : Out :=
  issueSeq 0x52 o (withArgs kNone kImm kNone noOwn o fun x s =>
    .trap s ⟨causeSwTrap, 0, 3, match x.b with | .imm v => BitVec.ofInt 32 v | _ => 0⟩) s

end Sys2Proof.Machine
end

