-- ==== Sys2Proof/Machine/SeqBlock.lean ====
section
/-! DEFINITION. The block instructions: their control immediate, one iteration of each, and the run of iterations
between which a request may make them yield (R101 to R104). -/

namespace Sys2Proof.Machine

/-- The control immediate of a block instruction: [15:4] must be zero (R82, R101). -/
def blkCtlOk (a : Option Opd) : Option Nat :=
  match Opd.immVal? a with
  | some v => if 0 ≤ v && v < 16 then none else some 0
  | none => some 0

/-- The control immediate's value. -/
def Args.blkCtl (x : Args) : Nat := match x.a with | .imm v => v.toNat | _ => 0

/-- A pointer of a block instruction: LADDR or TADDR, on the quoin too, its element aligned and in range (R84, R85, R101). -/
def blkPtr (core : Nat) (c : SeqCore) (g sz : Nat) : Except Trap (Space × Nat) :=
  let w := c.g g
  if w.tag = tagLaddr || w.tag = tagTaddr then
    let sp : Space := if w.tag = tagLaddr then .lram else .tile
    (checkAddr core sp sz w.val.toNat 3).map fun _ => (sp, w.val.toNat)
  else .error ⟨causeTag, w.tag.toNat, 3, w.val⟩

/-- What one iteration says of the next: go on, or stop with g14 as given. -/
inductive BlkStep where
  | more
  | stop

/-- Advance the named pointers by the element size in the direction of DOWN, then decrement g11 (R102). -/
def blkAdvance (core ctl : Nat) (src dst : Bool) (s : State) : State :=
  let d : BitVec 32 := BitVec.ofNat 32 (2 ^ (ctl % 4))
  let mv (w : TWord) : TWord := ⟨w.tag, if ctl.testBit 3 then w.val - d else w.val + d⟩
  s.updCore core fun c =>
    let c1 := if src then c.setG 12 (mv (c.g 12)) else c
    let c2 := if dst then c1.setG 13 (mv (c1.g 13)) else c1
    c2.setG 11 ⟨(c2.g 11).tag, (c2.g 11).val - 1⟩

/-- Set g14 to a BOOL (R102). -/
def setG14 (core : Nat) (b : Bool) (s : State) : State :=
  s.updCore core fun c => c.setG 14 ⟨tagBool, if b then 1 else 0⟩

/-- The value of a block element for a comparison: its payload, sign-extended when it is a byte or half word (R103). -/
def elemVal (v : SVal) : Nat := wrap 64 (sgn v.bits v.val)

/-- The words that a block element was read from must be defined (R86, R92), and on a tile not RAW (R93). -/
def elemOk (core : Nat) (v : SVal) : Except Trap Unit :=
  match v.tags.find? fun t => tagBad t || (decide (core < 16) && t == tagRaw) with
  | some t => .error ⟨if t = tagRaw then causePriv else causeTag, t.toNat, 3, BitVec.ofNat 32 v.addr⟩
  | none => .ok ()

/-- A trap on the element at an implicit pointer names operand 3 (R118). -/
def atPointer (r : SeqRes Unit) : SeqRes Unit :=
  match r with
  | .trap s t => .trap s { t with operand := 3 }
  | _ => r

/-- A trap inside an iteration suspends an instruction with RPT = 1 (R104). -/
def blkSuspend (core ctl : Nat) (s : State) : State :=
  if ctl.testBit 2 && (s.core core).bankLevel < 2 then
    s.updCore core fun c => { c with blk := lput c.blk c.bankLevel true }
  else s

/-- One iteration of BMOVE (R102, R103): a W32 or D64 move from local RAM to local RAM keeps tags; any other writes INT
into local RAM. -/
def bmoveIter (ctl : Nat) (_fill : SVal) (core : Nat) (s : State) : SeqRes BlkStep :=
  let c := s.core core
  let w := ctl % 4
  match blkPtr core c 12 w, blkPtr core c 13 w with
  | .error t, _ => .trap s t
  | _, .error t => .trap s t
  | .ok (ssp, sa), .ok (dsp, da) =>
    (loadMem core ssp w sa 3 s).bind fun s1 v =>
      let keep := ssp = .lram && dsp = .lram && w ≥ 2
      match elemOk core v with
      | .error t => .trap s1 t
      | .ok () =>
        (checkParity [v] s1).bind fun s2 () =>
          (atPointer (storeMem core dsp w da (v.val % 2 ^ (8 * 2 ^ w)) (if keep then v.tags else [tagInt, tagInt]) s2)).bind
            fun s3 () => .ok (blkAdvance core ctl true true s3) .more

/-- One iteration of BFILL (R102, R103): B to [g13], its tag in every word; a byte or half word needs INT (R86). -/
def bfillIter (ctl : Nat) (fill : SVal) (core : Nat) (s : State) : SeqRes BlkStep :=
  let w := ctl % 4
  match blkPtr core (s.core core) 13 w with
  | .error t => .trap s t
  | .ok (dsp, da) =>
    let tg := fill.tags.headD tagInt
    (atPointer (storeOpd core (.mem dsp w da) (some (if fill.part then tagInt else tg)) fill.val fill.bits .sign s)).bind
      fun s1 () => .ok (blkAdvance core ctl false true s1) .more

/-- One iteration of BCMP (R102, R103): payloads only. -/
def bcmpIter (ctl : Nat) (_fill : SVal) (core : Nat) (s : State) : SeqRes BlkStep :=
  let c := s.core core
  let w := ctl % 4
  match blkPtr core c 12 w, blkPtr core c 13 w with
  | .error t, _ => .trap s t
  | _, .error t => .trap s t
  | .ok (ssp, sa), .ok (dsp, da) =>
    (loadMem core ssp w sa 3 s).bind fun s1 x =>
    (loadMem core dsp w da 3 s1).bind fun s2 y =>
      match elemOk core x, elemOk core y with
      | .error t, _ => .trap s2 t
      | _, .error t => .trap s2 t
      | .ok (), .ok () =>
        (checkParity [x, y] s2).bind fun s3 () =>
          if elemVal x ≠ elemVal y then .ok (setG14 core true s3) .stop
          else .ok (blkAdvance core ctl true true s3) .more

/-- One iteration of BSEEK (R102, R103): [g12] against B, payloads only. -/
def bseekIter (ctl : Nat) (fill : SVal) (core : Nat) (s : State) : SeqRes BlkStep :=
  let w := ctl % 4
  match blkPtr core (s.core core) 12 w with
  | .error t => .trap s t
  | .ok (ssp, sa) =>
    (loadMem core ssp w sa 3 s).bind fun s1 x =>
      match elemOk core x with
      | .error t => .trap s1 t
      | .ok () =>
        (checkParity [x] s1).bind fun s2 () =>
          if elemVal x = elemVal fill then .ok (setG14 core true s2) .stop
          else .ok (blkAdvance core ctl true false s2) .more

/-- Iterate: until g11 is 0, a stop, or, with RPT = 1, `fuel` iterations are done, when the instruction stays at its
address and may yield (R102, R104). `seek` says that the instruction sets g14 to BOOL 0 when g11 is or reaches 0. -/
def blkRun (core ctl : Nat) (seek : Bool) (iter : State → SeqRes BlkStep) : Nat → State → SeqRes Flow
  | 0, s =>
    if ((s.core core).g 11).val = 0 then .ok (if seek then setG14 core false s else s) .seq
    else .ok (s.updCore core fun c => { c with yielded := true }) .stay
  | n + 1, s =>
    if ((s.core core).g 11).val = 0 then .ok (if seek then setG14 core false s else s) .seq
    else
      match iter s with
      | .ok s1 .more =>
        if ctl.testBit 2 then blkRun core ctl seek iter n s1
        else .ok (if seek && ((s1.core core).g 11).val = 0 then setG14 core false s1 else s1) .seq
      | .ok s1 .stop => .ok s1 .seq
      | .trap s1 t =>
        .trap (blkSuspend core ctl s1) t
      | .wait => .ok (if ctl.testBit 2 then s.updCore core fun c => { c with yielded := true } else s) .hold

/-- A block instruction: g11 must hold COUNT at each execution (R101); the pointers `ptrs` of its first iteration are checked,
as addressing, before B's tag (R114); B, where used, may hold any tag except UNINIT and reserved (R91), and BFILL of a byte or
half word into local RAM needs INT (R86). A wait that follows
completed iterations keeps them. -/
def blkInstr (opc : Nat) (kb : Kinds) (ptrs : List Nat) (seek : Bool) (iter : Nat → SVal → Nat → State → SeqRes BlkStep)
    (upto : Nat) (o : SeqOps) (s : State) : Out :=
  issueSeq opc o (withArgs kImm kb kNone (fun a _ _ => blkCtlOk a) o fun x s =>
    let ctl := x.blkCtl
    let s := s.updCore x.core fun c =>
      { c with blk := if c.bankLevel < 2 then lput c.blk c.bankLevel false else c.blk, yielded := false }
    let cnt := (s.core x.core).g 11
    if cnt.tag ≠ tagCount then
      .trap s ⟨causeTag, cnt.tag.toNat, 3, 0⟩
    else
      (loadOpd x.core 1 x.b s).bind fun s1 v =>
        let chk : Except Trap Unit :=
          if kb.unused then .ok ()
          else
            match srcTag x.core 1 tagInt v with
            | .error t => .error t
            | .ok t => if tagBad t then .error ⟨causeTag, t.toNat, 1, BitVec.ofNat 32 v.addr⟩ else .ok ()
        let byte : Except Trap Unit :=
          if opc = 0x41 && ((s1.core x.core).g 11).val ≠ 0 then
            match blkPtr x.core (s1.core x.core) 13 (ctl % 4) with
            | .ok (sp, a) =>
              match storeTagOk (.mem sp (ctl % 4) a) (some (if v.part then tagInt else v.tags.headD tagInt)) with
              | .error t => .error { t with operand := 3 }
              | .ok () => .ok ()
            | .error _ => .ok ()
          else .ok ()
        let c1 := s1.core x.core
        let first : List (Except Trap Unit) :=
          if (c1.g 11).val = 0 then [] else ptrs.map fun g => (blkPtr x.core c1 g (ctl % 4)).map fun _ => ()
        guardAll (if (firstTrap first).isSome then blkSuspend x.core ctl s1 else s1) (first ++ [chk, byte])
          ((checkParity [v] s1).bind fun s2 () =>
            blkRun x.core ctl seek (iter ctl v x.core) (if ctl.testBit 2 then upto else 1) s2)) s

/-- BMOVE (R102). -/
def execBmove (upto : Nat) (o : SeqOps) (s : State) : Out := blkInstr 0x40 kNone [12, 13] false bmoveIter upto o s

/-- BFILL (R102). -/
def execBfill (upto : Nat) (o : SeqOps) (s : State) : Out := blkInstr 0x41 kSrc [13] false bfillIter upto o s

/-- BCMP (R102). -/
def execBcmp (upto : Nat) (o : SeqOps) (s : State) : Out := blkInstr 0x42 kNone [12, 13] true bcmpIter upto o s

/-- BSEEK (R102). -/
def execBseek (upto : Nat) (o : SeqOps) (s : State) : Out := blkInstr 0x43 kSrc [12] true bseekIter upto o s

end Sys2Proof.Machine
end

