-- ==== Sys2Proof/Machine/SeqQ.lean ====
section
/-! DEFINITION. The short-vector instructions, opcodes 0x58 to 0x6C (R75, R96, R137, R138). -/

namespace Sys2Proof.Machine

/-- QLD (R96, R137): 128 bits from memory; no register is written unless both halves read well. -/
def execQld (o : SeqOps) (s : State) : Out :=
  issueSeq 0x58 o (withArgs kQ (kMem 4) kNone noOwn o fun x s =>
    (loadOpd x.core 1 x.b s).bind fun s1 v =>
      guardAll s1 [srcUntagged x.core 1 v]
        ((checkParity [v] s1).bind fun s2 () =>
          (storeOpd x.core x.a none v.val 128 .free s2).bind fun s3 () => .ok s3 .seq)) s

/-- QST (R75, R96): 128 bits to memory, tagged INT in local RAM. -/
def execQst (o : SeqOps) (s : State) : Out :=
  issueSeq 0x59 o (withArgs (kMem 4) kQ kNone noOwn o fun x s =>
    (loadOpd x.core 1 x.b s).bind fun s1 v =>
      (storeOpd x.core x.a none v.val 128 .free s1).bind fun s2 () => .ok s2 .seq) s

/-- Element `e` of `c` bytes at `addr` faults (R138): beyond the space, in the interrupt-controller words, or, in local
RAM, in a word that holds UNINIT or a reserved tag. `tags` are those of the words from `addr` up. -/
def ffFault (core : Nat) (sp : Space) (addr c : Nat) (tags : List (BitVec 4)) (e : Nat) : Bool :=
  let lo := addr + e * c
  match sp with
  | .tile => decide (lo + c > tsTop)
  | .raw => false
  | .lram =>
    decide (lo + c > (if core < 16 then icWords else lramTop))
      || (wordsOf lo c).any fun w => tagBad (tags.getD (w - addr / 4) tagInt)

/-- Read the `n` bytes that exist of a first-fault operand at `addr`. -/
def ffRead (core : Nat) (sp : Space) (addr n : Nat) (s : State) : SeqRes (Nat × List (BitVec 4) × Option ParErr) :=
  if n = 0 then .ok s (0, [], none)
  else
    match sp with
    | .raw =>
      let (v, s1) := readRaw addr n s
      .ok s1 (v, [], none)
    | _ =>
      if sp = .lram && addr + n ≤ nearTop then
        let r := readLram s core (wordsOf addr n)
        .ok s (r.data % 2 ^ (8 * n), r.tags, perrOf .lram 1 addr r)
      else
        let ps := (pieces sp addr 16).filterMap fun (a, k) =>
          if a ≥ addr + n then none else some (a, min k (addr + n - a))
        readPieces core sp 1 ps s

/-- QLDFF (R138): loads the elements below the lowest faulting one; with element 0 faulting, the trap QLD would take;
SEQ_FFCOUNT takes the number loaded. On a tile a RAW word takes PRIV (R93) only in an element that is loaded (log entry
75). -/
def qldffBody (core qi c : Nat) (sp : Space) (addr : Nat) (s : State) : SeqRes Flow :=
  let top := match sp with
    | .tile => if core < 16 then tsTop else 0
    | .lram => if core < 16 then icWords else lramTop
    | .raw => addr + 16
  let n := min 16 (top - addr)
  (ffRead core sp addr n s).bind fun s1 (v, tags, pe) =>
    let cnt := 16 / c
    let j := ((List.range cnt).find? fun e => decide (addr + (e + 1) * c > top) || ffFault core sp addr c tags e).getD cnt
    let used := tags.take ((wordsOf addr (j * c)).length)
    let a := BitVec.ofNat 32 addr
    let badTag : Except Trap Unit :=
      if j = 0 then
        if n < 16 then .error ⟨causeAddr, 0, 1, a⟩
        else srcUntagged core 1 ⟨tags, v, 128, false, addr, none⟩
      else if core < 16 && used.contains tagRaw then .error ⟨causePriv, 15, 1, a⟩
      else .ok ()
    guardAll s1 [badTag]
      ((checkParity [⟨[], 0, 128, false, addr, pe⟩] s1).bind fun s2 () =>
        .ok (s2.updCore core fun q =>
          { q.setQ qi (setFld (q.qReg qi) 0 (8 * c * j) v) with ffcount := BitVec.ofNat 5 j }) .seq)

/-- QLDFF. -/
def execQldff (o : SeqOps) (s : State) : Out :=
  issueSeq 0x5A o (fun s =>
    match decodeOpd kQ 0 o.a, decodeOpd (kMem 4) 1 o.b, decodeOpd kImm 2 o.c with
    | .ok (some (.q qi)), .ok (some (.mem w base disp)), .ok (some (.imm c)) =>
      if c = 1 || c = 2 || c = 4 || c = 8 then
        match effAddr o.core (s.core o.core) w base disp 1 with
        | .error t => .trap s t
        | .ok (sp, addr) =>
          if sp = .lram && addr % 4 ≠ 0 then .trap s ⟨causeAlign, 0, 1, BitVec.ofNat 32 addr⟩
          else qldffBody o.core qi c.toNat sp addr s
      else .trap s ⟨causeIllegal, 0, 2, 0⟩
    | .error t, _, _ => .trap s t
    | _, .error t, _ => .trap s t
    | _, _, .error t => .trap s t
    | _, _, _ => .trap s ⟨causeIllegal, 0, 3, 0⟩) s

/-- QMOV (R96): copy; a wider destination's upper bits are stated by no rule (log entry 10). -/
def execQmov (o : SeqOps) (s : State) : Out :=
  issueSeq 0x5B o (withArgs ⟨[], false, true, true, false⟩ ⟨[0, 1, 2, 3, 4], false, true, true, false⟩ kNone noOwn o
    fun x s =>
      (loadOpd x.core 1 x.b s).bind fun s1 v =>
        guardAll s1 [srcUntagged x.core 1 v]
          ((checkParity [v] s1).bind fun s2 () =>
            (storeOpd x.core x.a none v.val v.bits .free s2).bind fun s3 () => .ok s3 .seq)) s

/-- QSPLAT: the low `w` bits of B into each lane of A (R96). -/
def splatInstr (opc w : Nat) (o : SeqOps) (s : State) : Out :=
  issueSeq opc o (withArgs kQ kSrc kNone noOwn o fun x s =>
    (loadOpd x.core 1 x.b s).bind fun s1 v =>
      guardAll s1 [srcUntagged x.core 1 v]
        ((checkParity [v] s1).bind fun s2 () =>
          (storeOpd x.core x.a none (packLanes w (List.replicate (128 / w) v.val)) 128 .free s2).bind
            fun s3 () => .ok s3 .seq)) s

/-- QSPLAT.H. -/
def execQsplatH (o : SeqOps) (s : State) : Out := splatInstr 0x5C 16 o s

/-- QSPLAT.W. -/
def execQsplatW (o : SeqOps) (s : State) : Out := splatInstr 0x5D 32 o s

/-- A lane operation on signed lanes of width `w`: `f a b c`. -/
def laneOp (w : Nat) (f : Int → Int → Int → Int) (a b c : BitVec 128) : BitVec 128 :=
  BitVec.ofNat 128 (packLanes w ((List.range (128 / w)).map fun i =>
    wrap w (f (sgn w (lane a w i)) (sgn w (lane b w i)) (sgn w (lane c w i)))))

/-- A lane operation on binary32 lanes (R95). -/
def laneF (f : FV → FV → FV → FV) (a b c : BitVec 128) : BitVec 128 :=
  BitVec.ofNat 128 (packLanes 32 ((List.range 4).map fun i =>
    f32Out (f (f32In (lane a 32 i)) (f32In (lane b 32 i)) (f32In (lane c 32 i)))))

/-- A short-vector instruction of three q registers: A may also be a source. -/
def q3Instr (opc : Nat) (f : BitVec 128 → BitVec 128 → BitVec 128 → BitVec 128) (o : SeqOps) (s : State) : Out :=
  issueSeq opc o (withArgs kQ kQ kQ noOwn o fun x s =>
    match x.a, x.b, x.c with
    | .q a, .q b, .q c =>
      let r := s.core x.core
      .ok (s.updCore x.core fun z => z.setQ a (f (r.qReg a) (r.qReg b) (r.qReg c))) .seq
    | _, _, _ => .ok s .seq) s

/-- The sum, saturated (Q15 or Q31). -/
def qAdds (w : Nat) : Int → Int → Int → Int := fun _ b c => satS w (b + c)
/-- The difference, saturated. -/
def qSubs (w : Nat) : Int → Int → Int → Int := fun _ b c => satS w (b - c)
/-- The rounded product, saturated (R96). -/
def qMulr (w : Nat) : Int → Int → Int → Int := fun _ b c => satS w (sarRound (b * c) (w - 1))
/-- Accumulate the rounded product, saturated. -/
def qMacr (w : Nat) : Int → Int → Int → Int := fun a b c => satS w (a + sarRound (b * c) (w - 1))

/-- QADDS.H. -/
def execQaddsH (o : SeqOps) (s : State) : Out := q3Instr 0x5E (laneOp 16 (qAdds 16)) o s
/-- QSUBS.H. -/
def execQsubsH (o : SeqOps) (s : State) : Out := q3Instr 0x5F (laneOp 16 (qSubs 16)) o s
/-- QMULR.H. -/
def execQmulrH (o : SeqOps) (s : State) : Out := q3Instr 0x60 (laneOp 16 (qMulr 16)) o s
/-- QMACR.H. -/
def execQmacrH (o : SeqOps) (s : State) : Out := q3Instr 0x61 (laneOp 16 (qMacr 16)) o s
/-- QMIN.H. -/
def execQminH (o : SeqOps) (s : State) : Out := q3Instr 0x63 (laneOp 16 fun _ b c => min b c) o s
/-- QMAX.H. -/
def execQmaxH (o : SeqOps) (s : State) : Out := q3Instr 0x64 (laneOp 16 fun _ b c => max b c) o s
/-- QADDS.W. -/
def execQaddsW (o : SeqOps) (s : State) : Out := q3Instr 0x65 (laneOp 32 (qAdds 32)) o s
/-- QSUBS.W. -/
def execQsubsW (o : SeqOps) (s : State) : Out := q3Instr 0x66 (laneOp 32 (qSubs 32)) o s
/-- QMULR.W. -/
def execQmulrW (o : SeqOps) (s : State) : Out := q3Instr 0x67 (laneOp 32 (qMulr 32)) o s
/-- QFADD. -/
def execQfadd (o : SeqOps) (s : State) : Out := q3Instr 0x69 (laneF fun _ b c => b.add c) o s
/-- QFMUL. -/
def execQfmul (o : SeqOps) (s : State) : Out := q3Instr 0x6A (laneF fun _ b c => b.mul c) o s
/-- QFMA. -/
def execQfma (o : SeqOps) (s : State) : Out := q3Instr 0x6B (laneF fun a b c => a.add (b.mul c)) o s

/-- An immediate C within a range, else ILLEGAL (R96). -/
def immIn (lo hi : Int) : Option Opd → Option Opd → Option Opd → Option Nat := fun _ _ c =>
  match Opd.immVal? c with
  | some v => if lo ≤ v && v ≤ hi then none else some 2
  | none => some 2

/-- QSHRR: rounded right shift by the immediate, no saturation (R96). -/
def shrrInstr (opc w : Nat) (hi : Int) (o : SeqOps) (s : State) : Out :=
  issueSeq opc o (withArgs kQ kQ kImm (immIn 1 hi) o fun x s =>
    match x.a, x.b, x.c with
    | .q a, .q b, .imm k =>
      let r := s.core x.core
      .ok (s.updCore x.core fun z => z.setQ a (laneOp w (fun _ v _ => sarRound v k.toNat) 0 (r.qReg b) 0)) .seq
    | _, _, _ => .ok s .seq) s

/-- QSHRR.H. -/
def execQshrrH (o : SeqOps) (s : State) : Out := shrrInstr 0x62 16 15 o s
/-- QSHRR.W. -/
def execQshrrW (o : SeqOps) (s : State) : Out := shrrInstr 0x68 32 31 o s

/-- QEXT.H (R96): A ← lane C of B, sign-extended, INT. -/
def execQextH (o : SeqOps) (s : State) : Out :=
  issueSeq 0x6C o (withArgs kDst kQ kImm (immIn 0 7) o fun x s =>
    (loadOpd x.core 1 x.b s).bind fun s1 v =>
      let k := match x.c with | .imm i => i.toNat | _ => 0
      (storeOpd x.core x.a (some tagInt) (wrap 32 (sgn 16 (v.val >>> (16 * k)))) 32 .sign s1).bind
        fun s2 () => .ok s2 .seq) s

end Sys2Proof.Machine
end

