-- ==== Sys2Proof/Machine/SeqSys.lean ====
section
/-! DEFINITION. What a sequencer does between instructions: fetch, store-buffer drains, interrupt entry, and the halt
that the quoin requests (R118, R129 to R134, R139 to R148). -/

namespace Sys2Proof.Machine

/-- What the fetch of the instruction at byte address `a` finds (R89, R90, R116, R130). -/
def fetchAt (c : SeqCore) (a : BitVec 32) : FetchEntry :=
  if a.toNat + 8 > lramTop then ⟨a, 0, false, false, true⟩
  else
    let w := a.toNat / 4
    let lo := c.lword w
    let hi := c.lword (w + 1)
    ⟨a, hi.val ++ lo.val, lo.tag != tagCode || hi.tag != tagCode, c.lbad w || c.lbad (w + 1), false⟩

/-- SEQ_FETCH (R130, R131): with at least 2 entries free, the 16 B at the next fetch address enter the fetch buffer. -/
def execSeqFetch (core : Nat) (starved : Nat) (s : State) : Out :=
  let c := s.core core
  if s.coreRuns core && !c.halted && c.fetch.length ≤ 2 then
    let a := c.pc + BitVec.ofNat 32 (8 * c.fetch.length)
    .next (chargeSeq core starved
      (s.updCore core fun c => { c with fetch := c.fetch ++ [fetchAt c a, fetchAt c (a + 8)] }))
  else .next s

/-- STORE_BUFFER_DRAIN (R129, R134, R136): the memory port performs the oldest entry; into the tile store it waits under
R56, shown in TS_SB_STATUS.HELD (R70). Cycles that the access lost to arbitration count in TS_CONFLICT_CNT (R50). The entries of a
pair still in progress stay until it is done (R140). -/
def execStoreBufferDrain (core : Nat) (held : Nat) (s : State) : Out :=
  if s.coreRuns core then
    match (s.core core).stbuf with
    | [] => .next s
    | _ =>
      let placed := match (s.core core).group with | some g => g.placed | none => 0
      if (s.core core).stbuf.length ≤ placed then .next s
      else
        match drainOne core s with
        | some s1 => .next (chargeBank core held s1)
        | none => .next (if core < 16 then s.updTs core fun ts => { ts with drainHeld := true } else s)
  else .next s

/-- INTERRUPT_ENTRY (R139, R142, R144, R145): the highest recognised request enters its level; a URG request that comes
during an IRQ entry waits for the handler's first group. -/
def execInterruptEntry (core : Nat) (s : State) : Out :=
  if s.coreRuns core then
    if s.recognised core 2 then .next (holdBit core false ((s.spendLate core 2).updCore core fun c => c.interrupt 2))
    else if s.recognised core 1 then .next (holdBit core false ((s.spendLate core 1).updCore core fun c => c.interrupt 1))
    else .next s
  else .next s

/-- SEQ_HALT_REQ (R100, R118): the quoin's write of SEQ_CTRL; HALT_REQ halts the sequencer after the current
instruction. -/
def execSeqHaltReq (who : Who) (tile : Nat) (value : BitVec 32) (s : State) : Out :=
  match who with
  | .tile _ => .next s
  | _ =>
    .next (if tile < 16 then
      regWrite who (.tile tile) .no (fun z => z.updCore tile fun c => c.writeReg 0 value tagInt false true) s
    else s)

end Sys2Proof.Machine
end

