-- ==== Sys2Proof/Machine/SeqUop.lean ====
section
/-! DEFINITION. Customer instructions: the micro-operations of a decode-table slot, run (R149 to R157, R163). -/

namespace Sys2Proof.Machine

/-- A word of the decode RAM. -/
def SeqCore.dword (c : SeqCore) (i : Nat) : BitVec 32 := sget (fun _ => 0) c.decodeRam i

/-- A decode RAM word's parity is wrong (R163). -/
def SeqCore.dbad (c : SeqCore) (i : Nat) : Bool := sget (fun _ => false) c.decodeBad i

/-- A write to operand A held until the last micro-operation (R156). -/
inductive AWrite where
  | g (w : TWord)
  | q (v : BitVec 128)
  /-- a piece on its way into the store buffer: an STO's, or that of an LDO whose DST is A. -/
  | ent (e : StoreEntry)
  deriving DecidableEq, Repr

/-- What a customer instruction holds while it runs: t0 to t7, u0 to u3 and the writes to A. -/
structure UState where
  t : List TWord
  u : List (BitVec 128)
  out : List AWrite
  deriving DecidableEq, Repr

/-- The start of every execution (R152). -/
def UState.start : UState := { t := List.replicate 8 .uninit, u := List.replicate 4 0, out := [] }

/-- The operands as decoded. -/
structure UArgs where
  core : Nat
  a : Option Opd
  b : Option Opd
  c : Option Opd
  deriving DecidableEq, Repr

/-- The operand a selector names, with its number: 3 for a temporary or IMM (R157). -/
def UArgs.sel (x : UArgs) (k : Nat) : Option Opd := if k = selA then x.a else if k = selB then x.b else if k = selC then x.c else none

/-- OPERAND of a trap on a selector. -/
def selNum (k : Nat) : Nat := if selA ≤ k && k ≤ selC then k - selA else 3

/-- ILLEGAL on a selector. -/
def selIllegal (k : Nat) : Trap := ⟨causeIllegal, 0, selNum k, 0⟩

/-- The value a selector gives as a source; A gives its value at the start of the instruction (R156). -/
def uValue (x : UArgs) (u : UState) (imm : Int) (k : Nat) (s : State) : Except Trap SVal :=
  let c := s.core x.core
  if k < 8 then
    let w := u.t.getD k .uninit
    .ok ⟨[w.tag], w.val.toNat, 32, false, 0, none⟩
  else if k ≥ 12 then .ok ⟨[], (u.u.getD (k - 12) 0).toNat, 128, false, 0, none⟩
  else if k = selImm then .ok ⟨[tagInt], wrap 32 imm, 32, false, 0, none⟩
  else
    match x.sel k with
    | some (.g i) => .ok ⟨[(c.g i).tag], (c.g i).val.toNat, 32, false, 0, none⟩
    | some (.q i) => .ok ⟨[], (c.qReg i).toNat, 128, false, 0, none⟩
    | some (.imm v) => .ok ⟨[tagInt], wrap 32 v, 32, false, 0, none⟩
    | _ => .error (selIllegal k)

/-- The address of the memory operand a selector names, moved on by IMM of its sizes and checked: one piece only, judged as an
alignment, before the range (R114, R155). -/
def uAddr (x : UArgs) (imm : Int) (k : Nat) (s : State) : Except Trap (Space × Nat × Nat) :=
  match x.sel k with
  | some (.mem w base disp) =>
    if w > 2 then .error (selIllegal k)
    else
      match effAddr x.core (s.core x.core) w base disp (selNum k) with
      | .error t => .error t
      | .ok (sp, addr) =>
        let a := wrap 32 ((addr : Int) + imm * ((2 ^ w : Nat) : Int))
        if (pieces sp a (2 ^ w)).length > 1 then .error ⟨causeAlign, 0, selNum k, BitVec.ofNat 32 a⟩
        else (checkAddr x.core sp w a (selNum k)).map fun _ => (sp, w, a)
  | _ => .error (selIllegal k)

/-- A write of a scalar: to a temporary at once, to A held. -/
def uWrite (x : UArgs) (k : Nat) (w : TWord) (u : UState) : Except Trap UState :=
  if k < 8 then .ok { u with t := lput u.t k w }
  else if k = selA then
    match x.a with
    | some (.g _) => .ok { u with out := u.out ++ [.g w] }
    | _ => .error (selIllegal k)
  else .error (selIllegal k)

/-- A write of a short vector. -/
def uWriteQ (x : UArgs) (k : Nat) (v : BitVec 128) (u : UState) : Except Trap UState :=
  if k ≥ 12 then .ok { u with u := lput u.u (k - 12) v }
  else if k = selA then
    match x.a with
    | some (.q _) => .ok { u with out := u.out ++ [.q v] }
    | _ => .error (selIllegal k)
  else .error (selIllegal k)

/-- The scalar operations: the tag rule and the 32-bit result (R91 to R94, R96, R153). -/
def uScalar (op : Nat) : Option (TagRule × (BitVec 4 → SVal → SVal → Nat)) :=
  let int (f : Int → Int → Int) : BitVec 4 → SVal → SVal → Nat := fun _ b c => wrap 32 (f (b.int 32) (c.int 32))
  let nat (f : Nat → Nat → Nat) : BitVec 4 → SVal → SVal → Nat := fun _ b c => f (b.nat 32) (c.nat 32) % 2 ^ 32
  match op with
  | 0x01 => some (ruleMov, nat fun b _ => b)
  | 0x08 => some (ruleAdd false, int fun b c => b + c)
  | 0x09 => some (ruleSub, int fun b c => b - c)
  | 0x0A => some (ruleInt, int fun b c => satS 32 (b + c))
  | 0x0B => some (ruleInt, int fun b c => satS 32 (b - c))
  | 0x0C => some (ruleInt, nat fun b c => wrap 32 (sgn 16 b * sgn 16 c))
  | 0x10 => some (ruleLogic, nat fun b c => b &&& c)
  | 0x11 => some (ruleLogic, nat fun b c => b ||| c)
  | 0x12 => some (ruleLogic, nat fun b c => b ^^^ c)
  | 0x13 => some (ruleLogic, nat fun b c => b &&& (2 ^ 32 - 1 - c))
  | 0x14 => some (ruleInt, nat fun b c => b <<< (c % 32))
  | 0x15 => some (ruleInt, nat fun b c => b >>> (c % 32))
  | 0x16 => some (ruleInt, int fun b c => sar b (c % 32).toNat)
  | 0x17 => some (ruleInt, int fun b c => min b c)
  | 0x18 => some (ruleInt, int fun b c => max b c)
  | 0x19 => some (ruleNot, fun t b _ => notVal t 32 (b.nat 32))
  | 0x1A => some (ruleInt, int fun b _ => -b)
  | 0x1B => some (ruleInt, nat fun b _ => clzN 32 b)
  | 0x1C => some (ruleInt, nat fun b _ => popCount 32 b)
  | 0x20 => some (ruleCeq, nat fun b c => b2n (b == c))
  | 0x21 => some (ruleCeq, nat fun b c => b2n (b != c))
  | 0x22 => some (ruleClt, int fun b c => if b < c then 1 else 0)
  | 0x23 => some (ruleClt, int fun b c => if b ≤ c then 1 else 0)
  | 0x24 => some (ruleClt, nat fun b c => b2n (decide (b < c)))
  | 0x25 => some (ruleClt, nat fun b c => b2n (decide (b ≤ c)))
  | _ => none

/-- A trap found on operand 1 or 2 of an operation, named by the selectors it had. -/
def selTrap (w : BitVec 32) (t : Trap) : Trap := { t with operand := selNum (if t.operand = 2 then uSrc2 w else uSrc1 w) }

/-- A scalar micro-operation of R91. -/
def uScalarStep (x : UArgs) (w : BitVec 32) (r : TagRule) (f : BitVec 4 → SVal → SVal → Nat) (u : UState) (s : State) : Except Trap UState := do
  let b ← uValue x u (uImm w) (uSrc1 w) s
  let c ← if uTwo (uOp w) then uValue x u (uImm w) (uSrc2 w) s else .ok ⟨[tagInt], 0, 32, false, 0, none⟩
  let tb ← (srcTag x.core 1 tagInt b).mapError (selTrap w)
  let t ← (pairTags x.core r tagInt (uTwo (uOp w)) b c).mapError (selTrap w)
  uWrite x (uDst w) ⟨t, BitVec.ofNat 32 (f tb b c)⟩ u

/-- RETAG (R92): the tag is IMM[3:0]. -/
def uRetag (x : UArgs) (w : BitVec 32) (u : UState) (s : State) : Except Trap UState := do
  let b ← uValue x u (uImm w) (uSrc1 w) s
  let frm ← (looseTag x.core 1 b).mapError (selTrap w)
  let dest : BitVec 4 := BitVec.ofInt 4 (uImm w)
  if dest = tagRaw then .error ⟨causePriv, 15, 3, 0⟩
  else if !retagOk x.core (bit (s.core x.core).ctrl 2) frm dest b.val then .error ⟨causeTag, frm.toNat, selNum (uSrc1 w), 0⟩
  else uWrite x (uDst w) ⟨dest, BitVec.ofNat 32 b.val⟩ u

/-- TAGOF. -/
def uTagof (x : UArgs) (w : BitVec 32) (u : UState) (s : State) : Except Trap UState := do
  let b ← uValue x u (uImm w) (uSrc1 w) s
  let t ← (looseTag x.core 1 b).mapError (selTrap w)
  uWrite x (uDst w) ⟨tagInt, t.setWidth 32⟩ u

/-- The lane operation of a short-vector micro-operation. -/
def uLanes (op : Nat) (imm : Int) : BitVec 128 → BitVec 128 → BitVec 128 → BitVec 128 :=
  match op with
  | 0x28 => laneOp 16 (qAdds 16)
  | 0x29 => laneOp 16 (qSubs 16)
  | 0x2A => laneOp 16 fun _ b c => min b c
  | 0x2B => laneOp 16 fun _ b c => max b c
  | 0x2C => laneOp 16 fun _ b _ => sarRound b imm.toNat
  | 0x2D => laneOp 16 (qMulr 16)
  | 0x2E => laneOp 16 (qMacr 16)
  | _ => fun _ b _ => BitVec.ofNat 128 (packLanes 16 (List.replicate 8 b.toNat))

/-- A short-vector micro-operation: QSHRR.H's count is IMM, 1 to 15. -/
def uVecStep (x : UArgs) (w : BitVec 32) (u : UState) (s : State) : Except Trap UState := do
  let op := uOp w
  let b ← uValue x u (uImm w) (uSrc1 w) s
  let c ← if op = 0x2C || op = 0x2F then .ok b else uValue x u (uImm w) (uSrc2 w) s
  let a ← if op = 0x2E then uValue x u (uImm w) (uDst w) s else .ok b
  let _ ← (srcUntagged x.core 1 b).mapError (selTrap w)
  if op = 0x2C && (uImm w < 1 || uImm w > 15) then .error ⟨causeIllegal, 0, 3, 0⟩
  else
    let v := uLanes op (uImm w) (BitVec.ofNat 128 a.val) (BitVec.ofNat 128 b.val) (BitVec.ofNat 128 c.val)
    uWriteQ x (uDst w) v u

/-- The access of an LDO: one piece through the memory port, near or far (R154, R155), compared with the store buffer
(R134). -/
def portLoad (core : Nat) (sp : Space) (w addr n : Nat) (s : State) : SeqRes SVal :=
  if sp = .raw then loadMem core sp w addr n s
  else
    (readPieces core sp n [(addr, 2 ^ w)] s).bind fun s1 (d, tags, pe) =>
      .ok s1 ⟨if sp = .tile then [tagInt] else tags, if w < 2 then wrap 32 (sgn (8 * 2 ^ w) d) else d, 32,
        decide (sp = .lram) && decide (w < 2), addr, pe⟩

/-- The access of an STO's second cycle: the read access of a store of part of a word, or else a write access, which
performs the oldest store-buffer entry (R155). It makes the entry of the piece, near or far (R156). -/
def portStore (core : Nat) (sp : Space) (n a data : Nat) (tag : BitVec 4) (s : State) : SeqRes StoreEntry :=
  (makeEntry core sp a (2 ^ n) data [tag] s).bind fun s1 (e, pe) =>
    (checkParity [⟨[], 0, 32, false, 0, pe⟩] s1).bind fun s2 () =>
      if a % 4 ≠ 0 || n < 2 then .ok s2 e
      else
        match drainOne core s2 with
        | some s3 => .ok s3 e
        | none => .wait

/-- A byte or half word of local RAM takes INT only (R86). -/
def uTagFits (sp : Space) (n : Nat) (t : BitVec 4) (k a : Nat) : Except Trap Unit :=
  if sp = .lram && n < 2 && t ≠ tagInt then .error ⟨causeTag, t.toNat, selNum k, BitVec.ofNat 32 a⟩ else .ok ()

/-- A write of the memory operand placed at `a`, held until the last micro-operation (R155, R156). -/
def uStore (x : UArgs) (sp : Space) (n a : Nat) (t : BitVec 4) (v : Nat) (u : UState) (s : State) : SeqRes UState :=
  (portStore x.core sp n a (v % 2 ^ (8 * 2 ^ n)) t s).bind fun s1 e => .ok s1 { u with out := u.out ++ [.ent e] }

/-- The place of a memory operand A that LDO names as DST, checked; none where DST is no memory operand (R114 item 3). -/
def uDstMem (x : UArgs) (w : BitVec 32) (s : State) : Except Trap (Option (Space × Nat × Nat)) :=
  match if uDst w = selA then x.a else none with
  | some (.mem _ _ _) => (uAddr x 0 selA s).map some
  | _ => .ok none

/-- LDO (R153, R155), its checks in the order of R114: the address of SRC1, then that of a memory operand A; the tags; the
parity. With A, a memory operand, as DST, its value becomes a piece as an STO's does (R156, log entry 76). -/
def uLdo (x : UArgs) (w : BitVec 32) (u : UState) (s : State) : SeqRes UState :=
  let k := uSrc1 w
  (SeqRes.ofExcept s (uAddr x (uImm w) k s)).bind fun s1 (sp, n, a) =>
  (SeqRes.ofExcept s1 (uDstMem x w s1)).bind fun s2 dst =>
  (portLoad x.core sp n a (selNum k) s2).bind fun s3 v =>
  (SeqRes.ofExcept s3 (srcTag x.core (selNum k) tagInt v)).bind fun s4 t =>
    if tagBad t then .trap s4 ⟨causeTag, t.toNat, selNum k, BitVec.ofNat 32 a⟩
    else
      match dst with
      | some (dsp, dn, da) =>
        (SeqRes.ofExcept s4 (uTagFits dsp dn t selA da)).bind fun s5 () =>
          (checkParity [v] s5).bind fun s6 () => uStore x dsp dn da t v.val u s6
      | none =>
        (checkParity [v] s4).bind fun s5 () => SeqRes.ofExcept s5 (uWrite x (uDst w) ⟨t, BitVec.ofNat 32 v.val⟩ u)

/-- STO (R153, R155, R156), its checks in the order of R114; the store is held until the last micro-operation. -/
def uSto (x : UArgs) (w : BitVec 32) (u : UState) (s : State) : SeqRes UState :=
  (SeqRes.ofExcept s (uAddr x (uImm w) (uDst w) s)).bind fun s1 (sp, n, a) =>
  (SeqRes.ofExcept s1 (uValue x u (uImm w) (uSrc1 w) s1)).bind fun s2 v =>
  (SeqRes.ofExcept s2 ((srcTag x.core 1 tagInt v).mapError (selTrap w))).bind fun s3 t =>
    if tagBad t then .trap s3 ⟨causeTag, t.toNat, selNum (uSrc1 w), 0⟩
    else (SeqRes.ofExcept s3 (uTagFits sp n t (uDst w) a)).bind fun s4 () => uStore x sp n a t v.val u s4

/-- SKIPF or SKIPT: how many of the next micro-operations have no effect. -/
def uSkipStep (x : UArgs) (w : BitVec 32) (u : UState) (s : State) : Except Trap Nat := do
  let b ← uValue x u (uImm w) (uSrc1 w) s
  let t ← (srcTag x.core 1 tagInt b).mapError (selTrap w)
  if t ≠ tagBool then .error ⟨causeTag, t.toNat, selNum (uSrc1 w), 0⟩
  else .ok (if b.val % 2 ^ 32 = (if uOp w = 0x39 then 1 else 0) then (uImm w).toNat else 0)

/-- One micro-operation, with the number of the next ones it skips. -/
def uStep (x : UArgs) (w : BitVec 32) (u : UState) (s : State) : SeqRes (UState × Nat) :=
  let op := uOp w
  let keep (r : SeqRes UState) : SeqRes (UState × Nat) := r.bind fun s1 u1 => .ok s1 (u1, 0)
  if op = 0 then .ok s (u, 0)
  else if op = 0x03 then keep (SeqRes.ofExcept s (uRetag x w u s))
  else if op = 0x04 then keep (SeqRes.ofExcept s (uTagof x w u s))
  else if op = 0x30 then keep (uLdo x w u s)
  else if op = 0x31 then keep (uSto x w u s)
  else if uSkip op then (SeqRes.ofExcept s (uSkipStep x w u s)).bind fun s1 n => .ok s1 (u, n)
  else if uVec op then keep (SeqRes.ofExcept s (uVecStep x w u s))
  else
    match uScalar op with
    | some (r, f) => keep (SeqRes.ofExcept s (uScalarStep x w r f u s))
    | none => .trap s ⟨causeIllegal, 0, 3, 0⟩

/-- The micro-operations in order; `skip` of them have no effect (R153). -/
def uRun (x : UArgs) : List (BitVec 32) → Nat → UState → State → SeqRes UState
  | [], _, u, s => .ok s u
  | _ :: r, n + 1, u, s => uRun x r n u s
  | w :: r, 0, u, s => (uStep x w u s).bind fun s1 (u1, n) => uRun x r n u1 s1

/-- The pieces enter the store buffer of four entries one by one, in micro-operation order: without room the oldest entry is
performed first, and the instruction stalls while that waits (R134, R156). -/
def uPlace (core : Nat) : List StoreEntry → State → SeqRes Unit
  | [], s => .ok s ()
  | e :: r, s =>
    match if (s.core core).stbuf.length < 4 then some s else drainOne core s with
    | some s1 => uPlace core r (s1.updCore core fun c => { c with stbuf := c.stbuf ++ [e] })
    | none => .wait

/-- The pieces among the writes to A, in micro-operation order. -/
def uPieces (out : List AWrite) : List StoreEntry :=
  out.filterMap fun w => match w with | .ent e => some e | _ => none

/-- The register writes to A take effect in micro-operation order (R156). -/
def uCommit (x : UArgs) : List AWrite → State → State
  | [], s => s
  | .ent _ :: r, s => uCommit x r s
  | .g w :: r, s =>
    uCommit x r (match x.a with | some (.g i) => s.updCore x.core fun c => c.setG i w | _ => s)
  | .q v :: r, s =>
    uCommit x r (match x.a with | some (.q i) => s.updCore x.core fun c => c.setQ i v | _ => s)

/-- The kinds a slot's masks allow operand `n` (R151). -/
def slotKinds (h0 h1 : BitVec 32) (n : Nat) : Kinds :=
  let m := slotMask h0 n
  let f := slotFile h1 n
  { mem := (List.range 5).filter fun w => m.testBit w
    g := m.testBit 5 && f.testBit 0
    f := m.testBit 5 && f.testBit 1
    q := m.testBit 5 && f.testBit 2
    imm := m.testBit 6 }

/-- Decode operand `n` of a slot: a mask of 0 leaves it unused (R151). -/
def slotOpd (h0 h1 : BitVec 32) (n : Nat) (x : BitVec 19) : Except Trap (Option Opd) :=
  let k := slotKinds h0 h1 n
  if slotMask h0 n ≠ 0 && k.unused then .error ⟨causeIllegal, 0, n, 0⟩ else decodeOpd k n x

/-- A customer instruction's body. -/
def uopBody (slot : Nat) (o : SeqOps) (s : State) : SeqRes Flow :=
  let c := s.core o.core
  let base := 36 * slot
  let h0 := c.dword base
  let h1 := c.dword (base + 1)
  let n := min 32 (slotLen h0)
  let words := [base, base + 1] ++ (List.range n).map fun k => base + 4 + k
  if o.core ≥ 16 then .trap s ⟨causeIllegal, 0, 3, 0⟩
  else if words.any c.dbad then .ok (fenceTile o.core 1 s) .done
  else if n = 0 then .trap s ⟨causeIllegal, 0, 3, 0⟩
  else
    match slotOpd h0 h1 0 o.a, slotOpd h0 h1 1 o.b, slotOpd h0 h1 2 o.c with
    | .error t, _, _ => .trap s t
    | _, .error t, _ => .trap s t
    | _, _, .error t => .trap s t
    | .ok a, .ok b, .ok cc =>
      let x : UArgs := ⟨o.core, a, b, cc⟩
      (uRun x ((List.range n).map fun k => c.dword (base + 4 + k)) 0 .start s).bind fun s1 u =>
        (uPlace x.core (afterEarlier [] (uPieces u.out)) s1).bind fun s2 () => .ok (uCommit x u.out s2) .seq

/-- UOP0 to UOP15 (R149, R154, R157): opcode 0x70 + slot. -/
def execUop (slot : Nat) (o : SeqOps) (s : State) : Out :=
  if slot < 16 then issueSeq (0x70 + slot) o (uopBody slot o) s else .next s

end Sys2Proof.Machine
end

