-- ==== Sys2Proof/Machine/Dispatch.lean ====
section
/-! DEFINITION. One arm per command: each calls the command's meaning. -/

namespace Sys2Proof.Machine

def exec (i : Instr) (s : State) : Host.Outcome State Fault Refusal :=
  match i with
  | .nop o => Sys2Proof.Machine.execNop o s
  | .mov o => Sys2Proof.Machine.execMov o s
  | .ldf o => Sys2Proof.Machine.execLdf o s
  | .retag o => Sys2Proof.Machine.execRetag o s
  | .tagof o => Sys2Proof.Machine.execTagof o s
  | .push o => Sys2Proof.Machine.execPush o s
  | .pop o => Sys2Proof.Machine.execPop o s
  | .fst o => Sys2Proof.Machine.execFst o s
  | .add o => Sys2Proof.Machine.execAdd o s
  | .sub o => Sys2Proof.Machine.execSub o s
  | .adds o => Sys2Proof.Machine.execAdds o s
  | .subs o => Sys2Proof.Machine.execSubs o s
  | .mul o => Sys2Proof.Machine.execMul o s
  | .mulh o => Sys2Proof.Machine.execMulh o s
  | .divs o => Sys2Proof.Machine.execDivs o s
  | .rems o => Sys2Proof.Machine.execRems o s
  | .and o => Sys2Proof.Machine.execAnd o s
  | .or o => Sys2Proof.Machine.execOr o s
  | .xor o => Sys2Proof.Machine.execXor o s
  | .andn o => Sys2Proof.Machine.execAndn o s
  | .shl o => Sys2Proof.Machine.execShl o s
  | .shr o => Sys2Proof.Machine.execShr o s
  | .sar o => Sys2Proof.Machine.execSar o s
  | .min o => Sys2Proof.Machine.execMin o s
  | .max o => Sys2Proof.Machine.execMax o s
  | .not o => Sys2Proof.Machine.execNot o s
  | .neg o => Sys2Proof.Machine.execNeg o s
  | .clz o => Sys2Proof.Machine.execClz o s
  | .popc o => Sys2Proof.Machine.execPopc o s
  | .ceq o => Sys2Proof.Machine.execCeq o s
  | .cne o => Sys2Proof.Machine.execCne o s
  | .clt o => Sys2Proof.Machine.execClt o s
  | .cle o => Sys2Proof.Machine.execCle o s
  | .cltu o => Sys2Proof.Machine.execCltu o s
  | .cleu o => Sys2Proof.Machine.execCleu o s
  | .fadd o => Sys2Proof.Machine.execFadd o s
  | .fsub o => Sys2Proof.Machine.execFsub o s
  | .fmul o => Sys2Proof.Machine.execFmul o s
  | .fma o => Sys2Proof.Machine.execFma o s
  | .fmin o => Sys2Proof.Machine.execFmin o s
  | .fmax o => Sys2Proof.Machine.execFmax o s
  | .fceq o => Sys2Proof.Machine.execFceq o s
  | .fclt o => Sys2Proof.Machine.execFclt o s
  | .fcle o => Sys2Proof.Machine.execFcle o s
  | .cvtif o => Sys2Proof.Machine.execCvtif o s
  | .cvtfi o => Sys2Proof.Machine.execCvtfi o s
  | .fabs o => Sys2Proof.Machine.execFabs o s
  | .fneg o => Sys2Proof.Machine.execFneg o s
  | .br o => Sys2Proof.Machine.execBr o s
  | .bt o => Sys2Proof.Machine.execBt o s
  | .bf o => Sys2Proof.Machine.execBf o s
  | .call o => Sys2Proof.Machine.execCall o s
  | .ret o => Sys2Proof.Machine.execRet o s
  | .reti o => Sys2Proof.Machine.execReti o s
  | .dbnz o => Sys2Proof.Machine.execDbnz o s
  | .iflush o => Sys2Proof.Machine.execIflush o s
  | .bmove upto o => Sys2Proof.Machine.execBmove upto o s
  | .bfill upto o => Sys2Proof.Machine.execBfill upto o s
  | .bcmp upto o => Sys2Proof.Machine.execBcmp upto o s
  | .bseek upto o => Sys2Proof.Machine.execBseek upto o s
  | .waite o => Sys2Proof.Machine.execWaite o s
  | .waiteWake core => Sys2Proof.Machine.execWaiteWake core s
  | .waitet o => Sys2Proof.Machine.execWaitet o s
  | .waitetWake core => Sys2Proof.Machine.execWaitetWake core s
  | .pulse o => Sys2Proof.Machine.execPulse o s
  | .waitt o => Sys2Proof.Machine.execWaitt o s
  | .waittWake core => Sys2Proof.Machine.execWaittWake core s
  | .rdtime o => Sys2Proof.Machine.execRdtime o s
  | .step o => Sys2Proof.Machine.execStep o s
  | .stepStallRelease core => Sys2Proof.Machine.execStepStallRelease core s
  | .ststat o => Sys2Proof.Machine.execStstat o s
  | .fence o => Sys2Proof.Machine.execFence o s
  | .mfsr o => Sys2Proof.Machine.execMfsr o s
  | .mtsr o => Sys2Proof.Machine.execMtsr o s
  | .trap o => Sys2Proof.Machine.execTrap o s
  | .qld o => Sys2Proof.Machine.execQld o s
  | .qst o => Sys2Proof.Machine.execQst o s
  | .qldff o => Sys2Proof.Machine.execQldff o s
  | .qmov o => Sys2Proof.Machine.execQmov o s
  | .qsplatH o => Sys2Proof.Machine.execQsplatH o s
  | .qsplatW o => Sys2Proof.Machine.execQsplatW o s
  | .qaddsH o => Sys2Proof.Machine.execQaddsH o s
  | .qsubsH o => Sys2Proof.Machine.execQsubsH o s
  | .qmulrH o => Sys2Proof.Machine.execQmulrH o s
  | .qmacrH o => Sys2Proof.Machine.execQmacrH o s
  | .qshrrH o => Sys2Proof.Machine.execQshrrH o s
  | .qminH o => Sys2Proof.Machine.execQminH o s
  | .qmaxH o => Sys2Proof.Machine.execQmaxH o s
  | .qaddsW o => Sys2Proof.Machine.execQaddsW o s
  | .qsubsW o => Sys2Proof.Machine.execQsubsW o s
  | .qmulrW o => Sys2Proof.Machine.execQmulrW o s
  | .qshrrW o => Sys2Proof.Machine.execQshrrW o s
  | .qfadd o => Sys2Proof.Machine.execQfadd o s
  | .qfmul o => Sys2Proof.Machine.execQfmul o s
  | .qfma o => Sys2Proof.Machine.execQfma o s
  | .qextH o => Sys2Proof.Machine.execQextH o s
  | .uop slot o => Sys2Proof.Machine.execUop slot o s
  | .seqFetch core starved => Sys2Proof.Machine.execSeqFetch core starved s
  | .storeBufferDrain core held => Sys2Proof.Machine.execStoreBufferDrain core held s
  | .interruptEntry core => Sys2Proof.Machine.execInterruptEntry core s
  | .seqHaltReq who tile value => Sys2Proof.Machine.execSeqHaltReq who tile value s
  | .stepStart tile urgent => Sys2Proof.Machine.execStepStart tile urgent s
  | .stepRetire tile urgent => Sys2Proof.Machine.execStepRetire tile urgent s
  | .stepComplete tile urgent => Sys2Proof.Machine.execStepComplete tile urgent s
  | .deadlinePass tile urgent waiting => Sys2Proof.Machine.execDeadlinePass tile urgent waiting s
  | .listEntryPass tile urgent => Sys2Proof.Machine.execListEntryPass tile urgent s
  | .engineCmdIssue tile engine => Sys2Proof.Machine.execEngineCmdIssue tile engine s
  | .bankPwrReqWrite who tile value => Sys2Proof.Machine.execBankPwrReqWrite who tile value s
  | .bankWakeDone tile bank => Sys2Proof.Machine.execBankWakeDone tile bank s
  | .bankDrainDone tile bank => Sys2Proof.Machine.execBankDrainDone tile bank s
  | .tsPerrInjArm who tile value => Sys2Proof.Machine.execTsPerrInjArm who tile value s
  | .tsCntClr who tile value => Sys2Proof.Machine.execTsCntClr who tile value s
  | .hostTsWrite tile addr data lost => Sys2Proof.Machine.execHostTsWrite tile addr data lost s
  | .hostTsRead tile addr len met => Sys2Proof.Machine.execHostTsRead tile addr len met s
  | .hostLramWrite tile tagView addr data => Sys2Proof.Machine.execHostLramWrite tile tagView addr data s
  | .hostLramRead tile tagView addr ask => Sys2Proof.Machine.execHostLramRead tile tagView addr ask s
  | .hostVpramWrite tile addr data => Sys2Proof.Machine.execHostVpramWrite tile addr data s
  | .vecBundleIssue tile held => Sys2Proof.Machine.execVecBundleIssue tile held s
  | .vecResultLand tile => Sys2Proof.Machine.execVecResultLand tile s
  | .vecSwitchIn tile => Sys2Proof.Machine.execVecSwitchIn tile s
  | .vecSwitchOut tile => Sys2Proof.Machine.execVecSwitchOut tile s
  | .matmulCmd tile => Sys2Proof.Machine.execMatmulCmd tile s
  | .sumwCmd tile => Sys2Proof.Machine.execSumwCmd tile s
  | .weightRowLoad tile held => Sys2Proof.Machine.execWeightRowLoad tile held s
  | .arrayVectorStream tile held bufBad => Sys2Proof.Machine.execArrayVectorStream tile held bufBad s
  | .accLand tile => Sys2Proof.Machine.execAccLand tile s
  | .scaleBlockArrive tile => Sys2Proof.Machine.execScaleBlockArrive tile s
  | .drainCmd tile => Sys2Proof.Machine.execDrainCmd tile s
  | .drainRowRead tile held => Sys2Proof.Machine.execDrainRowRead tile held s
  | .drainCourseWrite tile held => Sys2Proof.Machine.execDrainCourseWrite tile held s
  | .windowCmd tile => Sys2Proof.Machine.execWindowCmd tile s
  | .diag8LoadPhase tile held => Sys2Proof.Machine.execDiag8LoadPhase tile held s
  | .sceCmd tile => Sys2Proof.Machine.execSceCmd tile s
  | .sceLoadPhase tile held => Sys2Proof.Machine.execSceLoadPhase tile held s
  | .sceStreamTap tile held bufBad => Sys2Proof.Machine.execSceStreamTap tile held bufBad s
  | .sceResultLand tile => Sys2Proof.Machine.execSceResultLand tile s
  | .msend tile held => Sys2Proof.Machine.execMsend tile held s
  | .mortarCourseArrive course met bad => Sys2Proof.Machine.execMortarCourseArrive course met bad s
  | .msendAck idx jitter => Sys2Proof.Machine.execMsendAck idx jitter s
  | .evtLatch => Sys2Proof.Machine.execEvtLatch s
  | .hodDeclare tile => Sys2Proof.Machine.execHodDeclare tile s
  | .hodSend tile held => Sys2Proof.Machine.execHodSend tile held s
  | .hodBroadcast tile => Sys2Proof.Machine.execHodBroadcast tile s
  | .broadcastRead tile ce ue => Sys2Proof.Machine.execBroadcastRead tile ce ue s
  | .broadcastCourseWrite idx met bad => Sys2Proof.Machine.execBroadcastCourseWrite idx met bad s
  | .broadcastRetire tile => Sys2Proof.Machine.execBroadcastRetire tile s
  | .hodTgtDeclareWrite who tgt value => Sys2Proof.Machine.execHodTgtDeclareWrite who tgt value s
  | .hodTgtFreeWrite who tgt value => Sys2Proof.Machine.execHodTgtFreeWrite who tgt value s
  | .hodGrant lane bad => Sys2Proof.Machine.execHodGrant lane bad s
  | .hodRejectNotice => Sys2Proof.Machine.execHodRejectNotice s
  | .hodApply idx jitter ecc => Sys2Proof.Machine.execHodApply idx jitter ecc s
  | .hodFold tgt off ce ue => Sys2Proof.Machine.execHodFold tgt off ce ue s
  | .morCommit who value => Sys2Proof.Machine.execMorCommit who value s
  | .modeCommitDeliver => Sys2Proof.Machine.execModeCommitDeliver s
  | .modeApply tile => Sys2Proof.Machine.execModeApply tile s
  | .modeReport tile => Sys2Proof.Machine.execModeReport tile s
  | .mixedClearSeen => Sys2Proof.Machine.execMixedClearSeen s
  | .streamDeclare tile urgent => Sys2Proof.Machine.execStreamDeclare tile urgent s
  | .streamRelease tile urgent => Sys2Proof.Machine.execStreamRelease tile urgent s
  | .streamInval tile urgent => Sys2Proof.Machine.execStreamInval tile urgent s
  | .streamRequest look => Sys2Proof.Machine.execStreamRequest look s
  | .streamLineDeliver tracker jitter held => Sys2Proof.Machine.execStreamLineDeliver tracker jitter held s
  | .scInvalGo who value => Sys2Proof.Machine.execScInvalGo who value s
  | .scInvalAll who value => Sys2Proof.Machine.execScInvalAll who value s
  | .scInvalDone => Sys2Proof.Machine.execScInvalDone s
  | .scSlicePwrReqWrite who value => Sys2Proof.Machine.execScSlicePwrReqWrite who value s
  | .sliceWakeDone slice => Sys2Proof.Machine.execSliceWakeDone slice s
  | .sliceDrainDone slice => Sys2Proof.Machine.execSliceDrainDone slice s
  | .scFenceWrite who value => Sys2Proof.Machine.execScFenceWrite who value s
  | .scCntClr who value => Sys2Proof.Machine.execScCntClr who value s
  | .ddrRequestServe ch idx err => Sys2Proof.Machine.execDdrRequestServe ch idx err s
  | .ddrClassPromote ch idx => Sys2Proof.Machine.execDdrClassPromote ch idx s
  | .ddrRefresh ch bank => Sys2Proof.Machine.execDdrRefresh ch bank s
  | .ddrSrEnter ch => Sys2Proof.Machine.execDdrSrEnter ch s
  | .ddrSrExitDone ch => Sys2Proof.Machine.execDdrSrExitDone ch s
  | .ddrSrReqWrite who ch value => Sys2Proof.Machine.execDdrSrReqWrite who ch value s
  | .ddrCntClr who ch value => Sys2Proof.Machine.execDdrCntClr who ch value s
  | .ringInit who look => Sys2Proof.Machine.execRingInit who look s
  | .ringStop who ring => Sys2Proof.Machine.execRingStop who ring s
  | .ringResume who look => Sys2Proof.Machine.execRingResume who look s
  | .ringOff who ring => Sys2Proof.Machine.execRingOff who ring s
  | .ringFlush who ring => Sys2Proof.Machine.execRingFlush who ring s
  | .doorbellWrite look lo hi ep => Sys2Proof.Machine.execDoorbellWrite look lo hi ep s
  | .take tile urgent => Sys2Proof.Machine.execTake tile urgent s
  | .doorbell list err => Sys2Proof.Machine.execDoorbell list err s
  | .descFetch ch host ecc err => Sys2Proof.Machine.execDescFetch ch host ecc err s
  | .dmaUnitTransfer ch host ecc err hodCe hodUe met => Sys2Proof.Machine.execDmaUnitTransfer ch host ecc err hodCe hodUe met s
  | .dmaPaceResume ch => Sys2Proof.Machine.execDmaPaceResume ch s
  | .descComplete ch => Sys2Proof.Machine.execDescComplete ch s
  | .cqRecordWrite ch held => Sys2Proof.Machine.execCqRecordWrite ch held s
  | .cqEnable who cq value => Sys2Proof.Machine.execCqEnable who cq value s
  | .cqHeadWrite who cq value => Sys2Proof.Machine.execCqHeadWrite who cq value s
  | .dmaFifoCfgWrite who fifo value => Sys2Proof.Machine.execDmaFifoCfgWrite who fifo value s
  | .dmaFifoTakeWrite who fifo value => Sys2Proof.Machine.execDmaFifoTakeWrite who fifo value s
  | .channelDisable who ch => Sys2Proof.Machine.execChannelDisable who ch s
  | .dmaCntClr who value => Sys2Proof.Machine.execDmaCntClr who value s
  | .hostBar2Write off bytes ep => Sys2Proof.Machine.execHostBar2Write off bytes ep s
  | .hostBar2Read off len errs => Sys2Proof.Machine.execHostBar2Read off len errs s
  | .hostRegWrite who offset access mark => Sys2Proof.Machine.execHostRegWrite who offset access mark s
  | .flr => Sys2Proof.Machine.execFlr s
  | .linkDown => Sys2Proof.Machine.execLinkDown s
  | .perstAssert => Sys2Proof.Machine.execPerstAssert s
  | .perstRelease => Sys2Proof.Machine.execPerstRelease s
  | .pcieL1Enter => Sys2Proof.Machine.execPcieL1Enter s
  | .heartbeatDue busy => Sys2Proof.Machine.execHeartbeatDue busy s
  | .hbCtrlWrite who value => Sys2Proof.Machine.execHbCtrlWrite who value s
  | .devCntClr who value => Sys2Proof.Machine.execDevCntClr who value s
  | .post tile urgent lost => Sys2Proof.Machine.execPost tile urgent lost s
  | .resAckWrite who mb value => Sys2Proof.Machine.execResAckWrite who mb value s
  | .resCntClr who value => Sys2Proof.Machine.execResCntClr who value s
  | .msixSend vector => Sys2Proof.Machine.execMsixSend vector s
  | .timeTick => Sys2Proof.Machine.execTimeTick s
  | .timeHoldEnd => Sys2Proof.Machine.execTimeHoldEnd s
  | .slotSyncEdge off => Sys2Proof.Machine.execSlotSyncEdge off s
  | .timeCtrlWrite who value => Sys2Proof.Machine.execTimeCtrlWrite who value s
  | .timeCntClr who value => Sys2Proof.Machine.execTimeCntClr who value s
  | .slotTick => Sys2Proof.Machine.execSlotTick s
  | .alarmFire k => Sys2Proof.Machine.execAlarmFire k s
  | .evtInEdge pin level merged => Sys2Proof.Machine.execEvtInEdge pin level merged s
  | .evtOutEdge pin => Sys2Proof.Machine.execEvtOutEdge pin s
  | .evtOutWidthEnd pin => Sys2Proof.Machine.execEvtOutWidthEnd pin s
  | .evtOutCfgWrite who pin value => Sys2Proof.Machine.execEvtOutCfgWrite who pin value s
  | .evtPulseWrite who lines => Sys2Proof.Machine.execEvtPulseWrite who lines s
  | .icPendSet who w bits => Sys2Proof.Machine.execIcPendSet who w bits s
  | .icPendClr who w bits => Sys2Proof.Machine.execIcPendClr who w bits s
  | .icMaskSet who host w bits => Sys2Proof.Machine.execIcMaskSet who host w bits s
  | .icMaskClr who host w bits => Sys2Proof.Machine.execIcMaskClr who host w bits s
  | .icTpendSet who tile bits => Sys2Proof.Machine.execIcTpendSet who tile bits s
  | .icTpendClr who tile bits => Sys2Proof.Machine.execIcTpendClr who tile bits s
  | .icTmaskSet who tile bits => Sys2Proof.Machine.execIcTmaskSet who tile bits s
  | .icTmaskClr who tile bits => Sys2Proof.Machine.execIcTmaskClr who tile bits s
  | .icLevelWrite who reg value => Sys2Proof.Machine.execIcLevelWrite who reg value s
  | .icRouteWrite who src value => Sys2Proof.Machine.execIcRouteWrite who src value s
  | .clkWindowEnd xtal count => Sys2Proof.Machine.execClkWindowEnd xtal count s
  | .clkStopDetect xtal => Sys2Proof.Machine.execClkStopDetect xtal s
  | .xtalAmplitudeDone => Sys2Proof.Machine.execXtalAmplitudeDone s
  | .xtalAmplitudeLoss => Sys2Proof.Machine.execXtalAmplitudeLoss s
  | .pllReacquireDone => Sys2Proof.Machine.execPllReacquireDone s
  | .safeHoldRestart straps => Sys2Proof.Machine.execSafeHoldRestart straps s
  | .clkRevert who value => Sys2Proof.Machine.execClkRevert who value s
  | .xtalEnWrite who value => Sys2Proof.Machine.execXtalEnWrite who value s
  | .dvfsRequest who value => Sys2Proof.Machine.execDvfsRequest who value s
  | .avsAck => Sys2Proof.Machine.execAvsAck s
  | .avsSettleDone => Sys2Proof.Machine.execAvsSettleDone s
  | .avsTimeout => Sys2Proof.Machine.execAvsTimeout s
  | .tilePark tile => Sys2Proof.Machine.execTilePark tile s
  | .dividerStep => Sys2Proof.Machine.execDividerStep s
  | .clkEnSet who value => Sys2Proof.Machine.execClkEnSet who value s
  | .clkEnClr who value => Sys2Proof.Machine.execClkEnClr who value s
  | .gateApply bit_ => Sys2Proof.Machine.execGateApply bit_ s
  | .clkOutCfgWrite who value => Sys2Proof.Machine.execClkOutCfgWrite who value s
  | .clkCntClr who value => Sys2Proof.Machine.execClkCntClr who value s
  | .chainAssignRx f mine => Sys2Proof.Machine.execChainAssignRx f mine s
  | .chainLoopRx f => Sys2Proof.Machine.execChainLoopRx f s
  | .chainSlotRx f => Sys2Proof.Machine.execChainSlotRx f s
  | .chainWingbeatRx f => Sys2Proof.Machine.execChainWingbeatRx f s
  | .chainMsgFrameRx f => Sys2Proof.Machine.execChainMsgFrameRx f s
  | .chainFrameTx => Sys2Proof.Machine.execChainFrameTx s
  | .chainAssignRepeat => Sys2Proof.Machine.execChainAssignRepeat s
  | .chainAssignTimeout => Sys2Proof.Machine.execChainAssignTimeout s
  | .chainSlotSend => Sys2Proof.Machine.execChainSlotSend s
  | .chainSlotIdle => Sys2Proof.Machine.execChainSlotIdle s
  | .chainSlotTimeout => Sys2Proof.Machine.execChainSlotTimeout s
  | .chainLoopStart who value => Sys2Proof.Machine.execChainLoopStart who value s
  | .chainMsgTxWrite who lo hi => Sys2Proof.Machine.execChainMsgTxWrite who lo hi s
  | .chainMsgPopWrite who value => Sys2Proof.Machine.execChainMsgPopWrite who value s
  | .chainCntClr who value => Sys2Proof.Machine.execChainCntClr who value s
  | .bondFrameTx pick => Sys2Proof.Machine.execBondFrameTx pick s
  | .bondMwrRx win fseq addr payload crcOk met => Sys2Proof.Machine.execBondMwrRx win fseq addr payload crcOk met s
  | .bondAckRx fseq crcOk => Sys2Proof.Machine.execBondAckRx fseq crcOk s
  | .bondNakRx fseq crcOk => Sys2Proof.Machine.execBondNakRx fseq crcOk s
  | .bondLinkTrained partnerStrap => Sys2Proof.Machine.execBondLinkTrained partnerStrap s
  | .bondWingbeatRx fseq word crcOk => Sys2Proof.Machine.execBondWingbeatRx fseq word crcOk s
  | .bondStateRx fseq queue payload crcOk => Sys2Proof.Machine.execBondStateRx fseq queue payload crcOk s
  | .bondCtxRx fseq addr payload crcOk => Sys2Proof.Machine.execBondCtxRx fseq addr payload crcOk s
  | .bondRelinquishRx fseq crcOk => Sys2Proof.Machine.execBondRelinquishRx fseq crcOk s
  | .bondTakeoverRx fseq epoch crcOk => Sys2Proof.Machine.execBondTakeoverRx fseq epoch crcOk s
  | .wingbeatSend => Sys2Proof.Machine.execWingbeatSend s
  | .wingbeatPeriodEnd => Sys2Proof.Machine.execWingbeatPeriodEnd s
  | .promote who => Sys2Proof.Machine.execPromote who s
  | .relinquish who => Sys2Proof.Machine.execRelinquish who s
  | .relinquishComplete => Sys2Proof.Machine.execRelinquishComplete s
  | .resync who => Sys2Proof.Machine.execResync who s
  | .bondMwinWrite who win b lo hi => Sys2Proof.Machine.execBondMwinWrite who win b lo hi s
  | .bondCntClr who value => Sys2Proof.Machine.execBondCntClr who value s
  | .resetAssert cool power => Sys2Proof.Machine.execResetAssert cool power s
  | .resetRelease start hot => Sys2Proof.Machine.execResetRelease start hot s
  | .larvaStart readOk => Sys2Proof.Machine.execLarvaStart readOk s
  | .pllLockDone readOk => Sys2Proof.Machine.execPllLockDone readOk s
  | .pllLockTimeout => Sys2Proof.Machine.execPllLockTimeout s
  | .certVerify readOk => Sys2Proof.Machine.execCertVerify readOk s
  | .imageVerify readOk => Sys2Proof.Machine.execImageVerify readOk s
  | .ddrTrainDone => Sys2Proof.Machine.execDdrTrainDone s
  | .ddrTrainTimeout => Sys2Proof.Machine.execDdrTrainTimeout s
  | .chrysalisEnter => Sys2Proof.Machine.execChrysalisEnter s
  | .load who => Sys2Proof.Machine.execLoad who s
  | .endObject who => Sys2Proof.Machine.execEndObject who s
  | .endLoad who => Sys2Proof.Machine.execEndLoad who s
  | .decodeStatus who => Sys2Proof.Machine.execDecodeStatus who s
  | .getPubkey who => Sys2Proof.Machine.execGetPubkey who s
  | .attest who => Sys2Proof.Machine.execAttest who s
  | .enrol who written => Sys2Proof.Machine.execEnrol who written s
  | .run who => Sys2Proof.Machine.execRun who s
  | .mailboxComplete => Sys2Proof.Machine.execMailboxComplete s
  | .calTaskDue due => Sys2Proof.Machine.execCalTaskDue due s
  | .calGapStart k => Sys2Proof.Machine.execCalGapStart k s
  | .calGapEnd k => Sys2Proof.Machine.execCalGapEnd k s
  | .calTaskEnd done => Sys2Proof.Machine.execCalTaskEnd done s
  | .calOverdue ch => Sys2Proof.Machine.execCalOverdue ch s
  | .calStealStart ch => Sys2Proof.Machine.execCalStealStart ch s
  | .calStealEnd => Sys2Proof.Machine.execCalStealEnd s
  | .calGapWrite who k lo hi => Sys2Proof.Machine.execCalGapWrite who k lo hi s
  | .calCntClr who value => Sys2Proof.Machine.execCalCntClr who value s
  | .fenceTile cause which => Sys2Proof.Machine.execFenceTile cause which s
  | .unfenceTile who tile => Sys2Proof.Machine.execUnfenceTile who tile s
  | .releaseTile who tile => Sys2Proof.Machine.execReleaseTile who tile s
  | .fenceSlice who slice => Sys2Proof.Machine.execFenceSlice who slice s
  | .unfenceSlice who slice => Sys2Proof.Machine.execUnfenceSlice who slice s
  | .devFault who => Sys2Proof.Machine.execDevFault who s
  | .kick who => Sys2Proof.Machine.execKick who s
  | .quoinWdogExpire => Sys2Proof.Machine.execQuoinWdogExpire s
  | .pcieLinkTimeout => Sys2Proof.Machine.execPcieLinkTimeout s
  | .ueWindowStart => Sys2Proof.Machine.execUeWindowStart s
  | .devFltCntClr who value => Sys2Proof.Machine.execDevFltCntClr who value s
  | .vecCntClr who tile value => Sys2Proof.Machine.execVecCntClr who tile value s
  | .arrCntClr who tile value => Sys2Proof.Machine.execArrCntClr who tile value s
  | .drnCntClr who tile value => Sys2Proof.Machine.execDrnCntClr who tile value s
  | .sceCntClr who tile value => Sys2Proof.Machine.execSceCntClr who tile value s
  | .morCntClr who value => Sys2Proof.Machine.execMorCntClr who value s
  | .hodCntClr who value => Sys2Proof.Machine.execHodCntClr who value s
  | .stepCntClr who tile value => Sys2Proof.Machine.execStepCntClr who tile value s
  | .thermalTrip => Sys2Proof.Machine.execThermalTrip s
  | .pcieLinkUp width speed flit => Sys2Proof.Machine.execPcieLinkUp width speed flit s
  | .bondLinkDown => Sys2Proof.Machine.execBondLinkDown s
  | .completionTimeout ch => Sys2Proof.Machine.execCompletionTimeout ch s
  | .pcieConfigWrite field ep => Sys2Proof.Machine.execPcieConfigWrite field ep s
  | .clkSourceEdgesReturn xtal => Sys2Proof.Machine.execClkSourceEdgesReturn xtal s
  | .chainBadFrameRx f => Sys2Proof.Machine.execChainBadFrameRx f s

end Sys2Proof.Machine
end

