-- ==== Sys2Proof/Machine/Tick.lean ====
section
/-! DEFINITION. One cycle of the tile clock with no command: what the spec counts or lets run out in every cycle (R31,
R285, R300, R320, R325, R431). It is what a step does on an empty queue (log entry 60). -/

namespace Sys2Proof.Machine

/-- Descriptors that stand in an issue register under a hold of R30: each adds one to STEP_HOLD_CNT per cycle (R325). -/
def heldDescs (s : State) (t : Nat) (x : StepUnit) : Nat :=
  (match x.issueN with | some i => b2n (stepHeld x false i.desc s.cycle || s.parksNow t) | none => 0)
    + (match x.issueU with | some i => b2n (stepHeld x true i.desc s.cycle || s.parksNow t) | none => 0)

/-- An engine queue in which the normal step's commands wait for the urgent step (R31, R243): one waits, and none reads or
computes. An MSEND that has read its last course only awaits its acknowledgement, and the next would read at once (R290). -/
def normalWaits (s : State) (t e : Nat) : Bool :=
  let q := engQ e (s.tile t)
  (q.any fun c => !c.urgent && !c.begun && !mayTake s t c) && !q.any fun c => !c.urgent && c.begun && !c.read

/-- The vector engine keeps the normal program from issuing: a switch to the urgent program or back, or an urgent program that
runs (R31, R193 to R195). -/
def vecHeld (v : VecEngine) : Bool := v.preempted || (v.bankN.run && v.bankU.run)

/-- The urgent step, or the switch to it and back, holds an engine of the normal step (R31, R195, R320 code 7). -/
def preempted (s : State) (t : Nat) : Bool :=
  (s.run t false).isSome
    && (vecHeld (s.tile t).vec || ((s.run t true).isSome && [1, 2, 3, 4, 5].any (normalWaits s t)))

/-- A command of the queue is in execution. -/
def executing (q : List EngCmd) : Bool := match q with | c :: _ => c.begun | [] => false

/-- One cycle of tile `t`'s clock. -/
def tileTick (s : State) (t : Nat) (x : Tile) : Tile :=
  if !s.tileLive t then x
  else
    let run := if preempted s t then x.st.runN.map (addSrc 7 1 (s.cycle + 1)) else x.st.runN
    { x with
      st := { x.st with
        runN := run
        holdCnt := satAdd32 x.st.holdCnt (heldDescs s t x.st)
        seqInt := satAdd32 x.st.seqInt (b2n (decide (x.seq.level ≠ 0))) }
      arr := { x.arr with busyCnt := satAdd32 x.arr.busyCnt (b2n (executing x.arr.queue)) }
      sce := { x.sce with busyCnt := satAdd32 x.sce.busyCnt (b2n (executing x.sce.queue)) }
      ic := { x.ic with lateIrq := x.ic.lateIrq - 1, lateUrg := x.ic.lateUrg - 1 } }

/-- Where the courses of the mesh stand: those of MSEND commands, of the DMA engine, and stream lines (R284, R285). -/
def meshPositions (s : State) : List MeshPos :=
  s.mor.flight.map (·.mesh) ++ s.dma.flight.map (·.mesh) ++ (s.sc.trk.map fun k => k.ready.map (·.mesh)).flatten

/-- A tracker's lines with the first positions of a list, and the positions left. -/
def placeLines : List Tracker → List MeshPos → List Tracker
  | [], _ => []
  | k :: ks, ps => { k with ready := (k.ready.zip ps).map fun (x, p) => { x with mesh := p } } :: placeLines ks (ps.drop k.ready.length)

/-- One cycle of the mesh (R285, R287). -/
def meshCycle (s : State) : State :=
  let ps := meshPositions s
  if ps.isEmpty then s
  else
    let (qs, turns) := meshTick s.cycle ps s.mor.turns
    let n := s.mor.flight.length
    let m := s.dma.flight.length
    { s with
      mor := { s.mor with flight := (s.mor.flight.zip qs).map fun (x, p) => { x with mesh := p }, turns := turns }
      dma := { s.dma with flight := (s.dma.flight.zip (qs.drop n)).map fun (x, p) => { x with mesh := p } }
      sc := { s.sc with trk := placeLines s.sc.trk (qs.drop (n + m)) } }

/-- A new cycle for what CLR writes and events of one cycle leave of tile `x` (R71, R198, R257, R283, R334). -/
def Tile.newCycle (x : Tile) : Tile :=
  { x with
    ts := { x.ts.settle with now := .none }
    vec := { x.vec.settle with now := .none }
    arr := { x.arr.settle with now := .none }
    drn := { x.drn.settle with now := .none }
    sce := { x.sce.settle with now := .none }
    st := { x.st.settle with now := .none } }

/-- A new cycle for what CLR writes and events of one cycle leave of the device's blocks (R9, R314, R360, R391, R416, R436, R459, R485,
R511, R523, R541). -/
def State.newCycle (s : State) : State :=
  { s with
    tiles := s.tiles.map Tile.newCycle
    mor := { s.mor.settle with now := .none }
    hod := { s.hod.settle with now := .none }
    sc := { s.sc.settle with now := .none, cmdNow := .none }
    ddr := { s.ddr with ch := s.ddr.ch.map fun c => { c.settle with now := .none } }
    dma := { s.dma.settle with now := .none }
    host := { s.host.settle with now := .none }
    te := { s.te.settle with now := .none }
    clk := { s.clk.settle with now := .none }
    chain := { s.chain.settle with now := .none }
    bond := { s.bond.settle with now := .none }
    sec := { s.sec with now := .none, mbLate := none }
    cal := { s.cal.settle with now := .none }
    flt := { s.flt.settle with now := .none } }

/-- One cycle of the tile clock. -/
def cycleTick (s0 : State) : State :=
  if !s0.alive then s0
  else
    let s := uartTick (meshCycle s0)
    let s1 : State :=
      { s with
        tiles := s.tiles.zipIdx.map fun (x, t) => tileTick s t x
        hod := { s.hod with q := (s.cycle + 1) % 4 }
        te := s.te.heard (pulsesAt (s.cycle + 1) s.te.pulses)
        cycle := s.cycle + 1 }
    (List.range 16).foldl (fun z t => scanEnd t true (scanEnd t false z)) s1.newCycle

end Sys2Proof.Machine
end

