-- ==== Sys2Proof/WellFormed.lean ====
section
/-! DEFINITION. Well-formed commands: every number that names a unit, a register of an array or a level is one that the
spec gives the device. The meanings are total: a command whose number names nothing leaves the state as it is (log
entry 61). -/

namespace Sys2Proof

/-- Tiles (R18), tile-store banks and stream-cache slices: 16 of each (R39, R336). -/
def tiles : Nat := 16
def banks : Nat := 16
def slices : Nat := 16
/-- Sequencers: one per tile, and the quoin's (R72). -/
def cores : Nat := 17
/-- Ways of a stream-cache set (R337). -/
def ways : Nat := 16
/-- DDR5 channels (R353), and the banks that a refresh names, in both ranks (R357). -/
def ddrChannels : Nat := 8
def refreshBanks : Nat := 64
/-- DMA channels, rings, completion queues and stream FIFOs (R364, R377, R386). -/
def dmaChannels : Nat := 64
def rings : Nat := 32768
def queues : Nat := 1024
def fifos : Nat := 136
/-- Hod targets, intake lanes and courses (R294, R300). -/
def targets : Nat := 64
def lanes : Nat := 4
def hodCourses : Nat := 16384
/-- Mirror windows (R485), stream trackers (R346), result mailboxes (R410). -/
def windows : Nat := 64
def trackers : Nat := 64
def mailboxes : Nat := 256
/-- Alarms, event pins (R434), words of device sources, device sources, vectors (R430, R435). -/
def alarms : Nat := 4
def pins : Nat := 4
def sourceWords : Nat := 16
def sources : Nat := 512
def vectors : Nat := 64
/-- Clock gate bits (R444), calibration gaps (R518), micro-operation slots (R149). -/
def gateBits : Nat := 29
def gaps : Nat := 8
def uopSlots : Nat := 16

/-- The sender exists. -/
def Who.wf : Who → Bool
  | .host => true
  | .quoin => true
  | .tile n => decide (n < tiles)

/-- The sequencer exists. -/
def SeqOps.wf (o : SeqOps) : Bool := decide (o.core < cores)

/-- What fences a tile can be. -/
def FenceCause.wf : FenceCause → Bool
  | .command who => who.wf
  | .hardware => true

/-- The level register exists. -/
def IcLevel.wf : IcLevel → Bool
  | .quoin w => decide (w < sourceWords)
  | .tile n => decide (n < tiles)
  | .tileLow n => decide (n < tiles)
  | .tileHigh n => decide (n < tiles)

/-- The channel of a calibration task exists. -/
def CalDue.wf : CalDue → Bool
  | .gap ch => decide (ch < ddrChannels)
  | .dieTemp _ _ => true
  | .trim => true

/-- The channel of a calibration task exists. -/
def CalEnd.wf : CalEnd → Bool
  | .gap ch _ _ _ => decide (ch < ddrChannels)
  | .trim => true

/-- The bytes of an access lie in BAR0. -/
def RegAccess.wf (offset : Nat) : RegAccess → Bool
  | .write bytes => !bytes.isEmpty && decide (offset + bytes.length ≤ 0x10000000)
  | .read len => decide (offset + len ≤ 0x10000000)
  | .bellRead len => decide (offset + len ≤ 0x40000)

/-- The way of a tag error exists (R337). -/
def LineEcc.wf : LineEcc → Bool
  | .tagCe way => decide (way < ways)
  | .tagUe way => decide (way < ways)
  | _ => true

/-- The tracker exists, and the way of a tag error. -/
def StreamLook.wf (look : StreamLook) : Bool := decide (look.tracker < trackers) && look.ecc.wf

/-- The ring exists. -/
def RingLook.wf (look : RingLook) : Bool := decide (look.ring < rings)

/-- The tile of the step exists. -/
def StepRef.wf (list : StepRef) : Bool := decide (list.tile < tiles)

/-- The tiles that a cause fences exist. -/
def FencedTiles.wf (which : FencedTiles) : Bool := decide (which.tile < tiles) && which.also.all fun k => decide (k < tiles)

/-- A command is well formed. -/
def Instr.wf (i : Instr) : Bool :=
  match i with
  | .nop o => o.wf
  | .mov o => o.wf
  | .ldf o => o.wf
  | .retag o => o.wf
  | .tagof o => o.wf
  | .push o => o.wf
  | .pop o => o.wf
  | .fst o => o.wf
  | .add o => o.wf
  | .sub o => o.wf
  | .adds o => o.wf
  | .subs o => o.wf
  | .mul o => o.wf
  | .mulh o => o.wf
  | .divs o => o.wf
  | .rems o => o.wf
  | .and o => o.wf
  | .or o => o.wf
  | .xor o => o.wf
  | .andn o => o.wf
  | .shl o => o.wf
  | .shr o => o.wf
  | .sar o => o.wf
  | .min o => o.wf
  | .max o => o.wf
  | .not o => o.wf
  | .neg o => o.wf
  | .clz o => o.wf
  | .popc o => o.wf
  | .ceq o => o.wf
  | .cne o => o.wf
  | .clt o => o.wf
  | .cle o => o.wf
  | .cltu o => o.wf
  | .cleu o => o.wf
  | .fadd o => o.wf
  | .fsub o => o.wf
  | .fmul o => o.wf
  | .fma o => o.wf
  | .fmin o => o.wf
  | .fmax o => o.wf
  | .fceq o => o.wf
  | .fclt o => o.wf
  | .fcle o => o.wf
  | .cvtif o => o.wf
  | .cvtfi o => o.wf
  | .fabs o => o.wf
  | .fneg o => o.wf
  | .br o => o.wf
  | .bt o => o.wf
  | .bf o => o.wf
  | .call o => o.wf
  | .ret o => o.wf
  | .reti o => o.wf
  | .dbnz o => o.wf
  | .iflush o => o.wf
  | .bmove upto o => decide (upto ≤ 65536) && o.wf
  | .bfill upto o => decide (upto ≤ 65536) && o.wf
  | .bcmp upto o => decide (upto ≤ 65536) && o.wf
  | .bseek upto o => decide (upto ≤ 65536) && o.wf
  | .waite o => o.wf
  | .waiteWake core => decide (core < cores)
  | .waitet o => o.wf
  | .waitetWake core => decide (core < cores)
  | .pulse o => o.wf
  | .waitt o => o.wf
  | .waittWake core => decide (core < cores)
  | .rdtime o => o.wf
  | .step o => o.wf
  | .stepStallRelease core => decide (core < cores)
  | .ststat o => o.wf
  | .fence o => o.wf
  | .mfsr o => o.wf
  | .mtsr o => o.wf
  | .trap o => o.wf
  | .qld o => o.wf
  | .qst o => o.wf
  | .qldff o => o.wf
  | .qmov o => o.wf
  | .qsplatH o => o.wf
  | .qsplatW o => o.wf
  | .qaddsH o => o.wf
  | .qsubsH o => o.wf
  | .qmulrH o => o.wf
  | .qmacrH o => o.wf
  | .qshrrH o => o.wf
  | .qminH o => o.wf
  | .qmaxH o => o.wf
  | .qaddsW o => o.wf
  | .qsubsW o => o.wf
  | .qmulrW o => o.wf
  | .qshrrW o => o.wf
  | .qfadd o => o.wf
  | .qfmul o => o.wf
  | .qfma o => o.wf
  | .qextH o => o.wf
  | .uop slot o => decide (slot < uopSlots) && o.wf
  | .seqFetch core _ => decide (core < cores)
  | .storeBufferDrain core _ => decide (core < cores)
  | .interruptEntry core => decide (core < cores)
  | .seqHaltReq who tile _ => who.wf && decide (tile < tiles)
  | .stepStart tile _ => decide (tile < tiles)
  | .stepRetire tile _ => decide (tile < tiles)
  | .stepComplete tile _ => decide (tile < tiles)
  | .deadlinePass tile _ _ => decide (tile < tiles)
  | .listEntryPass tile _ => decide (tile < tiles)
  | .engineCmdIssue tile engine => decide (tile < tiles) && decide (1 ≤ engine) && decide (engine ≤ 5)
  | .bankPwrReqWrite who tile _ => who.wf && decide (tile < tiles)
  | .bankWakeDone tile bank => decide (tile < tiles) && decide (bank < banks)
  | .bankDrainDone tile bank => decide (tile < tiles) && decide (bank < banks)
  | .tsPerrInjArm who tile _ => who.wf && decide (tile < tiles)
  | .tsCntClr who tile _ => who.wf && decide (tile < tiles)
  | .hostTsWrite tile addr data _ => decide (tile < tiles) && decide (addr + data.bytes.length ≤ 0x400000)
  | .hostTsRead tile addr len _ => decide (tile < tiles) && decide (addr + len ≤ 0x400000)
  | .hostLramWrite tile tagView addr data => decide (tile < tiles) && decide (addr + data.bytes.length ≤ (if tagView then 0x8000 else 0x20000))
  | .hostLramRead tile tagView addr ask => decide (tile < tiles) && decide (addr + ask.len ≤ (if tagView then 0x8000 else 0x20000))
  | .hostVpramWrite tile addr data => decide (tile < tiles) && decide (addr + data.bytes.length ≤ 0x10000)
  | .vecBundleIssue tile _ => decide (tile < tiles)
  | .vecResultLand tile => decide (tile < tiles)
  | .vecSwitchIn tile => decide (tile < tiles)
  | .vecSwitchOut tile => decide (tile < tiles)
  | .matmulCmd tile => decide (tile < tiles)
  | .sumwCmd tile => decide (tile < tiles)
  | .weightRowLoad tile _ => decide (tile < tiles)
  | .arrayVectorStream tile _ _ => decide (tile < tiles)
  | .accLand tile => decide (tile < tiles)
  | .scaleBlockArrive tile => decide (tile < tiles)
  | .drainCmd tile => decide (tile < tiles)
  | .drainRowRead tile _ => decide (tile < tiles)
  | .drainCourseWrite tile _ => decide (tile < tiles)
  | .windowCmd tile => decide (tile < tiles)
  | .diag8LoadPhase tile _ => decide (tile < tiles)
  | .sceCmd tile => decide (tile < tiles)
  | .sceLoadPhase tile _ => decide (tile < tiles)
  | .sceStreamTap tile _ _ => decide (tile < tiles)
  | .sceResultLand tile => decide (tile < tiles)
  | .msend tile _ => decide (tile < tiles)
  | .mortarCourseArrive _ _ _ => true
  | .msendAck _ _ => true
  | .evtLatch => true
  | .hodDeclare tile => decide (tile < tiles)
  | .hodSend tile _ => decide (tile < tiles)
  | .hodBroadcast tile => decide (tile < tiles)
  | .broadcastRead tile _ _ => decide (tile < tiles)
  | .broadcastCourseWrite _ _ _ => true
  | .broadcastRetire tile => decide (tile < tiles)
  | .hodTgtDeclareWrite who tgt _ => who.wf && decide (tgt < targets)
  | .hodTgtFreeWrite who tgt _ => who.wf && decide (tgt < targets)
  | .hodGrant lane _ => decide (lane < lanes)
  | .hodRejectNotice => true
  | .hodApply _ _ _ => true
  | .hodFold tgt off _ _ => decide (tgt < targets) && decide (off < hodCourses)
  | .morCommit who _ => who.wf
  | .modeCommitDeliver => true
  | .modeApply tile => decide (tile < tiles)
  | .modeReport tile => decide (tile < tiles)
  | .mixedClearSeen => true
  | .streamDeclare tile _ => decide (tile < tiles)
  | .streamRelease tile _ => decide (tile < tiles)
  | .streamInval tile _ => decide (tile < tiles)
  | .streamRequest look => look.wf
  | .streamLineDeliver tracker _ _ => decide (tracker < trackers)
  | .scInvalGo who _ => who.wf
  | .scInvalAll who _ => who.wf
  | .scInvalDone => true
  | .scSlicePwrReqWrite who _ => who.wf
  | .sliceWakeDone slice => decide (slice < slices)
  | .sliceDrainDone slice => decide (slice < slices)
  | .scFenceWrite who _ => who.wf
  | .scCntClr who _ => who.wf
  | .ddrRequestServe ch _ _ => decide (ch < ddrChannels)
  | .ddrClassPromote ch _ => decide (ch < ddrChannels)
  | .ddrRefresh ch bank => decide (ch < ddrChannels) && decide (bank < refreshBanks)
  | .ddrSrEnter ch => decide (ch < ddrChannels)
  | .ddrSrExitDone ch => decide (ch < ddrChannels)
  | .ddrSrReqWrite who ch _ => who.wf && decide (ch < ddrChannels)
  | .ddrCntClr who ch _ => who.wf && decide (ch < ddrChannels)
  | .ringInit who look => who.wf && look.wf
  | .ringStop who ring => who.wf && decide (ring < rings)
  | .ringResume who look => who.wf && look.wf
  | .ringOff who ring => who.wf && decide (ring < rings)
  | .ringFlush who ring => who.wf && decide (ring < rings)
  | .doorbellWrite look _ _ _ => look.wf
  | .take tile _ => decide (tile < tiles)
  | .doorbell list _ => list.wf
  | .descFetch ch _ ecc _ => decide (ch < dmaChannels) && ecc.wf
  | .dmaUnitTransfer ch _ ecc _ _ _ _ => decide (ch < dmaChannels) && ecc.wf
  | .dmaPaceResume ch => decide (ch < dmaChannels)
  | .descComplete ch => decide (ch < dmaChannels)
  | .cqRecordWrite ch _ => decide (ch < dmaChannels)
  | .cqEnable who cq _ => who.wf && decide (cq < queues)
  | .cqHeadWrite who cq _ => who.wf && decide (cq < queues)
  | .dmaFifoCfgWrite who fifo _ => who.wf && decide (fifo < fifos)
  | .dmaFifoTakeWrite who fifo _ => who.wf && decide (fifo < fifos)
  | .channelDisable who ch => who.wf && decide (ch < dmaChannels)
  | .dmaCntClr who _ => who.wf
  | .hostBar2Write _ _ _ => true
  | .hostBar2Read _ _ _ => true
  | .hostRegWrite who offset access _ => who.wf && access.wf offset
  | .flr => true
  | .linkDown => true
  | .perstAssert => true
  | .perstRelease => true
  | .pcieL1Enter => true
  | .heartbeatDue _ => true
  | .hbCtrlWrite who _ => who.wf
  | .devCntClr who _ => who.wf
  | .post tile _ _ => decide (tile < tiles)
  | .resAckWrite who mb _ => who.wf && decide (mb < mailboxes)
  | .resCntClr who _ => who.wf
  | .msixSend vector => decide (vector < vectors)
  | .timeTick => true
  | .timeHoldEnd => true
  | .slotSyncEdge off => decide (off ≤ 2)
  | .timeCtrlWrite who _ => who.wf
  | .timeCntClr who _ => who.wf
  | .slotTick => true
  | .alarmFire k => decide (k < alarms)
  | .evtInEdge pin _ _ => decide (pin < pins)
  | .evtOutEdge pin => decide (pin < pins)
  | .evtOutWidthEnd pin => decide (pin < pins)
  | .evtOutCfgWrite who pin _ => who.wf && decide (pin < pins)
  | .evtPulseWrite who _ => who.wf
  | .icPendSet who w _ => who.wf && decide (w < sourceWords)
  | .icPendClr who w _ => who.wf && decide (w < sourceWords)
  | .icMaskSet who _ w _ => who.wf && decide (w < sourceWords)
  | .icMaskClr who _ w _ => who.wf && decide (w < sourceWords)
  | .icTpendSet who tile _ => who.wf && decide (tile < tiles)
  | .icTpendClr who tile _ => who.wf && decide (tile < tiles)
  | .icTmaskSet who tile _ => who.wf && decide (tile < tiles)
  | .icTmaskClr who tile _ => who.wf && decide (tile < tiles)
  | .icLevelWrite who reg _ => who.wf && reg.wf
  | .icRouteWrite who src _ => who.wf && decide (src < sources)
  | .clkWindowEnd _ _ => true
  | .clkStopDetect _ => true
  | .xtalAmplitudeDone => true
  | .xtalAmplitudeLoss => true
  | .pllReacquireDone => true
  | .safeHoldRestart _ => true
  | .clkRevert who _ => who.wf
  | .xtalEnWrite who _ => who.wf
  | .dvfsRequest who _ => who.wf
  | .avsAck => true
  | .avsSettleDone => true
  | .avsTimeout => true
  | .tilePark tile => decide (tile < tiles)
  | .dividerStep => true
  | .clkEnSet who _ => who.wf
  | .clkEnClr who _ => who.wf
  | .gateApply bit_ => decide (bit_ < gateBits)
  | .clkOutCfgWrite who _ => who.wf
  | .clkCntClr who _ => who.wf
  | .chainAssignRx _ _ => true
  | .chainLoopRx _ => true
  | .chainSlotRx _ => true
  | .chainWingbeatRx _ => true
  | .chainMsgFrameRx _ => true
  | .chainFrameTx => true
  | .chainAssignRepeat => true
  | .chainAssignTimeout => true
  | .chainSlotSend => true
  | .chainSlotIdle => true
  | .chainSlotTimeout => true
  | .chainLoopStart who _ => who.wf
  | .chainMsgTxWrite who _ _ => who.wf
  | .chainMsgPopWrite who _ => who.wf
  | .chainCntClr who _ => who.wf
  | .bondFrameTx _ => true
  | .bondMwrRx win _ _ _ _ _ => decide (win < windows)
  | .bondAckRx _ _ => true
  | .bondNakRx _ _ => true
  | .bondLinkTrained _ => true
  | .bondWingbeatRx _ _ _ => true
  | .bondStateRx _ queue _ _ => decide (queue < queues)
  | .bondCtxRx _ _ _ _ => true
  | .bondRelinquishRx _ _ => true
  | .bondTakeoverRx _ _ _ => true
  | .wingbeatSend => true
  | .wingbeatPeriodEnd => true
  | .promote who => who.wf
  | .relinquish who => who.wf
  | .relinquishComplete => true
  | .resync who => who.wf
  | .bondMwinWrite who win _ _ _ => who.wf && decide (win < windows)
  | .bondCntClr who _ => who.wf
  | .resetAssert _ _ => true
  | .resetRelease _ _ => true
  | .larvaStart _ => true
  | .pllLockDone _ => true
  | .pllLockTimeout => true
  | .certVerify _ => true
  | .imageVerify _ => true
  | .ddrTrainDone => true
  | .ddrTrainTimeout => true
  | .chrysalisEnter => true
  | .load who => who.wf
  | .endObject who => who.wf
  | .endLoad who => who.wf
  | .decodeStatus who => who.wf
  | .getPubkey who => who.wf
  | .attest who => who.wf
  | .enrol who _ => who.wf
  | .run who => who.wf
  | .mailboxComplete => true
  | .calTaskDue due => due.wf
  | .calGapStart k => decide (k < gaps)
  | .calGapEnd k => decide (k < gaps)
  | .calTaskEnd done => done.wf
  | .calOverdue ch => decide (ch < ddrChannels)
  | .calStealStart ch => decide (ch < ddrChannels)
  | .calStealEnd => true
  | .calGapWrite who k _ _ => who.wf && decide (k < gaps)
  | .calCntClr who _ => who.wf
  | .fenceTile cause which => cause.wf && which.wf
  | .unfenceTile who tile => who.wf && decide (tile < tiles)
  | .releaseTile who tile => who.wf && decide (tile < tiles)
  | .fenceSlice who slice => who.wf && decide (slice < slices)
  | .unfenceSlice who slice => who.wf && decide (slice < slices)
  | .devFault who => who.wf
  | .kick who => who.wf
  | .quoinWdogExpire => true
  | .pcieLinkTimeout => true
  | .ueWindowStart => true
  | .devFltCntClr who _ => who.wf
  | .vecCntClr who tile _ => who.wf && decide (tile < tiles)
  | .arrCntClr who tile _ => who.wf && decide (tile < tiles)
  | .drnCntClr who tile _ => who.wf && decide (tile < tiles)
  | .sceCntClr who tile _ => who.wf && decide (tile < tiles)
  | .morCntClr who _ => who.wf
  | .hodCntClr who _ => who.wf
  | .stepCntClr who tile _ => who.wf && decide (tile < tiles)
  | .thermalTrip => true
  | .pcieLinkUp _ _ _ => true
  | .bondLinkDown => true
  | .completionTimeout ch => decide (ch < dmaChannels)
  | .pcieConfigWrite _ _ => true
  | .clkSourceEdgesReturn _ => true
  | .chainBadFrameRx _ => true

end Sys2Proof
end

