-- ==== Sys2Proof/Safety.lean ====
section
/-! DEFINITION. What a sound state is, and the terms of the statements about sequencer instructions and register writes. -/

open Sys2Proof Sys2Proof.Machine

/-! ### Sound states -/

/-- A tile's memories are in their canonical form. -/
def Sys2Proof.Machine.Tile.memWf (x : Tile) : Bool :=
  swf (fun _ => 0) x.ts.bytes && swf (fun _ => false) x.ts.badParity
    && swf (fun _ => .uninit) x.seq.lram && swf (fun _ => false) x.seq.lramBad && swf (fun _ => 0) x.seq.decodeRam
    && swf (fun _ => 0) x.vec.vpram && swf (fun _ => false) x.vec.vpramBad

/-- Every memory of the device is in its canonical form: the tiles' memories, the hod's, DDR5, and the quoin's. -/
def Sys2Proof.Machine.Memory.wf (s : State) : Bool :=
  (s.tiles.all Tile.memWf) && swf (fun _ => 0) s.hod.mem && swf (ddrDefault s.ddr.gen) s.ddr.bytes
    && swf (fun _ => 0) s.quoin.ram && swf Config.pufByte s.quoin.puf && swf Config.flashByte s.sec.flash
    && swf (fun _ => .uninit) s.quoin.seq.lram && swf (fun _ => false) s.quoin.seq.lramBad

/-- The device has as many of each unit as R18, R294, R353 and R361 give it. -/
def Sys2Proof.Machine.State.shaped (s : State) : Bool :=
  s.tiles.length = 16 && s.hod.tgts.length = 64 && s.ddr.ch.length = 8 && s.dma.ch.length = 64

/-- A sound state: it has the device's shape, its memories are canonical, the hod's pointer q is the cycle number modulo 4
(R300), and every waiting command is well formed. -/
structure Sys2Proof.Safety.Sound (s : State) : Prop where
  shaped : s.shaped = true
  memory : Memory.wf s = true
  pointer : s.hod.q = s.cycle % 4
  queue : ∀ c ∈ s.pending, c.wf = true

/-! ### Terms of the statements about sequencer instructions -/

/-- The instruction `opc` with the operands of `o` stands at the PC of its core, which can issue it in the state `s0`; it runs in
the state `s`: as the second of a pair behind its first instruction's writes, which are made with its own, and as the first of one
with its group begun (R120). -/
def Sys2Proof.Claims.Ready (opc : Nat) (o : SeqOps) (s0 s : State) : Prop :=
  s0.coreReady o.core = true ∧ s = s0.beginSeq o.core
    ∧ ∃ h r, (s0.core o.core).fetch = h :: r ∧ h.addr = (s0.core o.core).pc ∧ fetchTrap h = none
        ∧ h.word = encodeSeq opc o.a o.b o.c

/-- The operands decode under their kinds, pass their addressing checks, and stand at the places of `x`. -/
def Sys2Proof.Claims.Placed (ka kb kc : Kinds) (o : SeqOps) (s : State) (x : Args) : Prop :=
  x.core = o.core
    ∧ ∃ a b c, decodeOpd ka 0 o.a = .ok a ∧ decodeOpd kb 1 o.b = .ok b ∧ decodeOpd kc 2 o.c = .ok c
        ∧ placeOpd o.core (s.core o.core) 1 b = .ok x.b ∧ placeOpd o.core (s.core o.core) 2 c = .ok x.c
        ∧ placeOpd o.core (s.core o.core) 0 a = .ok x.a

/-- The instruction completes: its own effect has made `s1` of what stood when it began, and the sequencer leaves it by `f`; `s` is
the state before it. -/
def Sys2Proof.Claims.seqDone (o : SeqOps) (s s1 : State) (f : Flow) : State :=
  finishSeq o.core o.held o.lost s (.ok s1 f)

/-! ### Terms of the statements about registers -/

/-- A write by `who` of a register of block `b` reaches it: the host's with BARs open, the register writable in this
start-up state, the block neither fenced nor gated; the quoin's likewise in a running device; a tile's own live
sequencer's of its own tile. -/
def Sys2Proof.Claims.Writable (who : Who) (b : Blk) (p : HostPerm) (s : State) : Prop :=
  match who with
  | .host => s.barOpen = true ∧ hostMayWrite s.sec.life b p = true ∧ s.fencedBlk b = false ∧ s.gated b = false
  | .quoin => s.alive = true ∧ s.fencedBlk b = false ∧ s.gated b = false
  | .tile n => b = .tile n ∧ s.tileLive n = true

/-- What the write's passage itself does: the host's traffic takes the link out of L1 (R547). -/
def Sys2Proof.Claims.came (who : Who) (s : State) : State :=
  match who with
  | .host => s.linkUse
  | _ => s
end

