-- ==== Sys2Proof/Certificates/Slice0/Obligations.lean ====
section
/-! DEFINITION. The statements for the provers. -/

open Sys2Proof Sys2Proof.Machine

/-! ### Data instructions of a sequencer -/

/-- A data instruction: its opcode, operand kinds, tag rule, and the value and width of its result. -/
structure Sys2Proof.Claims.DataRow where
  ins : SeqOps → Instr
  opc : Nat
  ka : Kinds
  kb : Kinds
  kc : Kinds
  rule : Args → TagRule
  dflt : BitVec 4
  two : Bool
  div : Bool
  val : Args → BitVec 4 → SVal → SVal → Nat
  bits : Args → SVal → Nat
  wd : Args → SVal → Widen

/-- A row of two integer sources with an integer result of the operation's width. -/
def Sys2Proof.Claims.intRow (mk : SeqOps → Instr) (opc : Nat) (rule : TagRule) (f : Nat → Int → Int → Int) : Claims.DataRow :=
  ⟨mk, opc, kDst, kSrc, kSrc, fun _ => rule, tagInt, true, false, fun x _ b c => wrap x.width (f x.width (b.int x.width) (c.int x.width)),
    fun x _ => x.width, fun _ _ => .sign⟩

/-- A row of two sources taken as unsigned bits. -/
def Sys2Proof.Claims.bitRow (mk : SeqOps → Instr) (opc : Nat) (rule : TagRule) (f : Nat → Nat → Nat → Nat) : Claims.DataRow :=
  ⟨mk, opc, kDst, kSrc, kSrc, fun _ => rule, tagInt, true, false,
    fun x _ b c => f x.width (b.nat x.width) (c.nat x.width) % 2 ^ x.width, fun x _ => x.width, fun _ _ => .sign⟩

/-- A row that compares two sources: BOOL 1 or 0. -/
def Sys2Proof.Claims.cmpRow (mk : SeqOps → Instr) (opc : Nat) (rule : TagRule) (f : Nat → SVal → SVal → Bool) : Claims.DataRow :=
  ⟨mk, opc, kDst, kSrc, kSrc, fun _ => rule, tagInt, true, false, fun x _ b c => if f x.width b c then 1 else 0,
    fun _ _ => 32, fun _ _ => .sign⟩

/-- A row of one integer source. -/
def Sys2Proof.Claims.oneRow (mk : SeqOps → Instr) (opc : Nat) (rule : TagRule) (f : Nat → BitVec 4 → SVal → Nat) : Claims.DataRow :=
  ⟨mk, opc, kDst, kSrc, kNone, fun _ => rule, tagInt, false, false, fun x t b _ => f x.width t b, fun x _ => x.width, fun _ _ => .sign⟩

/-- A row of two binary32 sources. -/
def Sys2Proof.Claims.f32Row (mk : SeqOps → Instr) (opc : Nat) (f : FV → FV → FV) : Claims.DataRow :=
  ⟨mk, opc, kDstF, kSrcF, kSrcF, fun _ => ruleF, tagF32, true, false, fun _ _ b c => f32Out (f (f32In b.val) (f32In c.val)),
    fun _ _ => 32, fun _ _ => .free⟩

/-- A row that compares two binary32 sources: 0 when either is NaN. -/
def Sys2Proof.Claims.fcmpRow (mk : SeqOps → Instr) (opc : Nat) (f : Int → Bool) : Claims.DataRow :=
  ⟨mk, opc, kDst, kSrcF, kSrcF, fun _ => ruleFc, tagF32, true, false,
    fun _ _ b c => if f32In b.val = .nan ∨ f32In c.val = .nan then 0 else if f ((f32In b.val).cmp (f32In c.val)) then 1 else 0,
    fun _ _ => 32, fun _ _ => .sign⟩

/-- A row of one binary32 source. -/
def Sys2Proof.Claims.f32OneRow (mk : SeqOps → Instr) (opc : Nat) (f : FV → FV) : Claims.DataRow :=
  ⟨mk, opc, kDstF, kSrcF, kNone, fun _ => ruleF1, tagF32, false, false, fun _ _ b _ => f32Out (f (f32In b.val)),
    fun _ _ => 32, fun _ _ => .free⟩

/-- The integer instructions of two sources, by the operations of R94 and R96. -/
def Sys2Proof.Claims.intRows : List Claims.DataRow :=
  [{ Claims.intRow .add 0x08 ruleInt (fun _ b c => b + c) with rule := fun x => ruleAdd x.wide },
   Claims.intRow .sub 0x09 ruleSub fun _ b c => b - c,
   Claims.intRow .adds 0x0A ruleInt fun w b c => satS w (b + c),
   Claims.intRow .subs 0x0B ruleInt fun w b c => satS w (b - c),
   Claims.intRow .mul 0x0C ruleInt fun _ b c => b * c,
   Claims.intRow .mulh 0x0D ruleInt fun w b c => b * c / ((2 ^ w : Nat) : Int),
   { Claims.intRow .divs 0x0E ruleInt (fun w b c =>
       if c = -1 ∧ b = -((2 ^ (w - 1) : Nat) : Int) then ((2 ^ (w - 1) : Nat) : Int) - 1 else Int.tdiv b c) with div := true },
   { Claims.intRow .rems 0x0F ruleInt (fun w b c =>
       if c = -1 ∧ b = -((2 ^ (w - 1) : Nat) : Int) then 0 else Int.tmod b c) with div := true },
   Claims.intRow .sar 0x16 ruleInt fun _ b c => b / ((2 ^ (c % 32).toNat : Nat) : Int),
   Claims.intRow .min 0x17 ruleInt fun _ b c => if b ≤ c then b else c,
   Claims.intRow .max 0x18 ruleInt fun _ b c => if b ≤ c then c else b,
   Claims.bitRow .and 0x10 ruleLogic fun _ b c => b &&& c,
   Claims.bitRow .or 0x11 ruleLogic fun _ b c => b ||| c,
   Claims.bitRow .xor 0x12 ruleLogic fun _ b c => b ^^^ c,
   Claims.bitRow .andn 0x13 ruleLogic fun w b c => b &&& (2 ^ w - 1 - c),
   Claims.bitRow .shl 0x14 ruleInt fun _ b c => b * 2 ^ (c % 32),
   Claims.bitRow .shr 0x15 ruleInt fun _ b c => b / 2 ^ (c % 32)]

/-- The comparisons, by R97. -/
def Sys2Proof.Claims.cmpRows : List Claims.DataRow :=
  [Claims.cmpRow .ceq 0x20 ruleCeq fun w b c => decide (b.nat w = c.nat w),
   Claims.cmpRow .cne 0x21 ruleCeq fun w b c => decide (b.nat w ≠ c.nat w),
   Claims.cmpRow .clt 0x22 ruleClt fun w b c => decide (b.int w < c.int w),
   Claims.cmpRow .cle 0x23 ruleClt fun w b c => decide (b.int w ≤ c.int w),
   Claims.cmpRow .cltu 0x24 ruleClt fun w b c => decide (b.nat w < c.nat w),
   Claims.cmpRow .cleu 0x25 ruleClt fun w b c => decide (b.nat w ≤ c.nat w)]

/-- The instructions of one integer source, and the copies MOV and LDF, which keep 64 bits of a D64 operand or an f
register. -/
def Sys2Proof.Claims.oneRows : List Claims.DataRow :=
  [Claims.oneRow .not 0x19 ruleNot fun w t b =>
     if t = tagBool then wrap w (1 - (b.nat w : Int)) else 2 ^ w - 1 - b.nat w,
   Claims.oneRow .neg 0x1A ruleInt fun w _ b => wrap w (-(b.int w)),
   Claims.oneRow .clz 0x1B ruleInt fun w _ b => clzN w (b.nat w),
   Claims.oneRow .popc 0x1C ruleInt fun w _ b => popCount w (b.nat w),
   ⟨.mov, 0x01, kDstF, kSrcF, kNone, fun _ => ruleMov, tagInt, false, false, fun _ _ b _ => b.val, fun _ b => b.bits,
     fun x b => if b.tags.isEmpty || x.a.untagged then .free else .sign⟩,
   ⟨.ldf, 0x02, kDstF, kSrcF, kNone, fun _ => ruleLdf, tagInt, false, false, fun _ _ b _ => b.val, fun _ b => b.bits,
     fun x b => if b.tags.isEmpty || x.a.untagged then .free else .sign⟩]

/-- The binary32 instructions, by R95 and R96, FMA aside. -/
def Sys2Proof.Claims.f32Rows : List Claims.DataRow :=
  [Claims.f32Row .fadd 0x28 fun b c => b.add c,
   Claims.f32Row .fsub 0x29 fun b c => b.sub c,
   Claims.f32Row .fmul 0x2A fun b c => b.mul c,
   Claims.f32Row .fmin 0x2C fun b c => b.minV c,
   Claims.f32Row .fmax 0x2D fun b c => b.maxV c,
   Claims.fcmpRow .fceq 0x2E fun k => decide (k = 0),
   Claims.fcmpRow .fclt 0x2F fun k => decide (k < 0),
   Claims.fcmpRow .fcle 0x30 fun k => decide (k ≤ 0),
   ⟨.cvtif, 0x31, kDstF, kSrc, kNone, fun _ => ruleIf, tagInt, false, false, fun _ _ b _ => f32Out (FV.ofInt (sgn b.bits b.val)),
     fun _ _ => 32, fun _ _ => .free⟩,
   ⟨.cvtfi, 0x32, kDst, kSrcF, kNone, fun _ => ruleFi, tagF32, false, false, fun _ _ b _ => wrap 32 ((f32In b.val).toIntSat 32),
     fun _ _ => 32, fun _ _ => .sign⟩,
   Claims.f32OneRow .fabs 0x33 fun b => b.abs,
   Claims.f32OneRow .fneg 0x34 fun b => b.neg]

/-- A data instruction completes, for every operand form: with both sources read, their tags accepted, the result's tag one
that A takes (R86), no zero divisor where it divides and no parity error, the next state is that of A written with the row's value. -/
def Sys2Proof.Claims.RowCompletes (p : Claims.DataRow) : Prop :=
  ∀ (o : SeqOps) (s0 s s1 s2 s3 : State) (x : Args) (vb vc : SVal) (tg : Option (BitVec 4)),
    Claims.Ready p.opc o s0 s → Claims.Placed p.ka p.kb p.kc o s x →
    loadOpd o.core 1 x.b s = .ok s1 vb → loadOpd o.core 2 x.c s1 = .ok s2 vc →
    dataTag (p.rule x) p.dflt p.two x vb vc = .ok tg → storeTagOk x.a tg = .ok () →
    (p.div = true → vc.nat x.width ≠ 0) → vb.perr = none → vc.perr = none →
    storeOpd o.core x.a tg (p.val x (tg.getD p.dflt) vb vc) (p.bits x vb) (p.wd x vb) s2 = .ok s3 () →
    exec (p.ins o) s0 = .next (Claims.seqDone o s0 s3 .seq)

/-- R75, R91, R94, R96: the integer instructions of one and of two sources, MOV and LDF compute what the opcode table says,
in every operand form; CLZ of 64 bits counts to 64 (log entry 72). -/
def Obligations.IntegerInstructionsComplete : Prop := ∀ p ∈ Claims.intRows ++ Claims.oneRows, Claims.RowCompletes p

/-- R97: a comparison writes 1 or 0, with tag BOOL where the destination holds a tag, in every operand form; one of width
64 compares the whole 64-bit values. -/
def Obligations.ComparisonsComplete : Prop :=
  ∀ p ∈ Claims.cmpRows, Claims.RowCompletes p
    ∧ (∀ (x : Args) (t : BitVec 4) (b c : SVal), (p.val x t b c = 0 ∨ p.val x t b c = 1) ∧ p.bits x b = 32)
    ∧ (∀ (x : Args) (b c : SVal) (tg : Option (BitVec 4)), x.a.untagged = false → dataTag (p.rule x) p.dflt p.two x b c = .ok tg →
        tg = some tagBool)

/-- R95, R96: the binary32 instructions, in every operand form. -/
def Obligations.Binary32InstructionsComplete : Prop := ∀ p ∈ Claims.f32Rows, Claims.RowCompletes p

/-- R115: a zero divisor makes DIVS and REMS take DIV0 at operand C, with nothing written. The address recorded is that of operand C,
and 0 for an operand that has none: both are the model's choice (log entries 18 and 80). -/
def Obligations.ZeroDivisorTraps : Prop :=
  ∀ p ∈ Claims.intRows, p.div = true →
    ∀ (o : SeqOps) (s0 s s1 s2 : State) (x : Args) (vb vc : SVal) (tg : Option (BitVec 4)),
      Claims.Ready p.opc o s0 s → Claims.Placed p.ka p.kb p.kc o s x →
      loadOpd o.core 1 x.b s = .ok s1 vb → loadOpd o.core 2 x.c s1 = .ok s2 vc →
      dataTag (p.rule x) p.dflt p.two x vb vc = .ok tg → storeTagOk x.a tg = .ok () → vc.nat x.width = 0 →
      exec (p.ins o) s0 = .next (finishSeq o.core o.held o.lost s0 (.trap s2 ⟨causeDiv0, 0, 2, BitVec.ofNat 32 vc.addr⟩))

/-- With register operands whose words are INT, the integer instructions change one g register of their core, and the
core then moves on: nothing else of the state but the cycles charged changes (g0 stays 0: writes of it are
discarded). -/
def Obligations.IntegerRegisterForms : Prop :=
  ∀ p ∈ Claims.intRows, ∀ (o : SeqOps) (s0 s : State) (x : Args) (a b c : Nat) (vb vc : BitVec 32),
    Claims.Ready p.opc o s0 s → Claims.Placed kDst kSrc kSrc o s x →
    x.a = .g a → x.b = .g b → x.c = .g c →
    (s.core o.core).g b = ⟨tagInt, vb⟩ → (s.core o.core).g c = ⟨tagInt, vc⟩ → (p.div = true → vc ≠ 0) →
    exec (p.ins o) s0 = .next (Claims.seqDone o s0
      (s.updCore o.core fun k => k.setG a ⟨tagInt, BitVec.ofNat 32
        (p.val x tagInt ⟨[tagInt], vb.toNat, 32, false, 0, none⟩ ⟨[tagInt], vc.toNat, 32, false, 0, none⟩)⟩) .seq)
/-! ### Other sequencer instructions -/

/-- A source that holds no parity error. -/
def Sys2Proof.Claims.Clean (v : SVal) : Prop := v.perr = none

/-- R96: NOP completes with no effect but the PC's advance. -/
def Sys2Proof.Claims.NopOnlyAdvances : Prop :=
  ∀ (o : SeqOps) (s0 s : State) (x : Args), Claims.Ready 0x00 o s0 s → Claims.Placed kNone kNone kNone o s x →
    exec (.nop o) s0 = .next (Claims.seqDone o s0 s .seq)

/-- A source of a tagged FMA: F32 in every word, or, on the quoin, RAW (R91, R93). -/
def Sys2Proof.Claims.F32Source (core n : Nat) (v : SVal) : Prop :=
  srcTag core n tagF32 v = .ok tagF32 ∨ (core = quoinCore ∧ srcTag core n tagF32 v = .ok tagRaw)

/-- FMA, RETAG, TAGOF and FST complete, in every operand form: FMA with one rounding of A + B × C (R95), RETAG with B's
payload under the tag that C names (R92), TAGOF with the tag of B (R92), FST with bits 31 to 0 of an f register as F32
(R75). -/
def Obligations.TaggedMovesComplete : Prop :=
  (∀ (o : SeqOps) (s0 s s1 s2 s3 s4 : State) (x : Args) (va vb vc : SVal) (tg : BitVec 4),
    Claims.Ready 0x2B o s0 s → Claims.Placed kDstF kSrcF kSrcF o s x → x.a.untagged = false →
    loadOpd o.core 1 x.b s = .ok s1 vb → loadOpd o.core 2 x.c s1 = .ok s2 vc → loadOpd o.core 0 x.a s2 = .ok s3 va →
    Claims.F32Source o.core 1 vb → Claims.F32Source o.core 2 vc → Claims.F32Source o.core 0 va →
    tg = (if o.core = quoinCore ∧ tagRaw ∈ va.tags ++ vb.tags ++ vc.tags then tagRaw else tagF32) →
    storeTagOk x.a (some tg) = .ok () →
    Claims.Clean va → Claims.Clean vb → Claims.Clean vc →
    storeOpd o.core x.a (some tg) (f32Out ((f32In va.val).add ((f32In vb.val).mul (f32In vc.val)))) 32 .free s3 = .ok s4 () →
    exec (.fma o) s0 = .next (Claims.seqDone o s0 s4 .seq))
  ∧ (∀ (o : SeqOps) (s0 s s1 s2 s3 s4 : State) (x : Args) (va vb vc : SVal),
    Claims.Ready 0x2B o s0 s → Claims.Placed kDstF kSrcF kSrcF o s x → x.a.untagged = true →
    loadOpd o.core 1 x.b s = .ok s1 vb → loadOpd o.core 2 x.c s1 = .ok s2 vc → loadOpd o.core 0 x.a s2 = .ok s3 va →
    srcUntagged o.core 1 vb = .ok () → srcUntagged o.core 2 vc = .ok () → srcUntagged o.core 0 va = .ok () →
    Claims.Clean va → Claims.Clean vb → Claims.Clean vc →
    storeOpd o.core x.a none (f32Out ((f32In va.val).add ((f32In vb.val).mul (f32In vc.val)))) 32 .free s3 = .ok s4 () →
    exec (.fma o) s0 = .next (Claims.seqDone o s0 s4 .seq))
  ∧ (∀ (o : SeqOps) (s0 s s1 s2 : State) (x : Args) (v : SVal) (frm : BitVec 4) (dest : Nat),
    Claims.Ready 0x03 o s0 s → Claims.Placed kDst kSrc kImm o s x → x.c = .imm dest → dest < 16 →
    loadOpd o.core 1 x.b s = .ok s1 v → looseTag o.core 1 v = .ok frm → Claims.Clean v →
    (v.part = true → tagBad frm = false) → (dest = 15 → o.core = quoinCore) → retagOk o.core (bit (s1.core o.core).ctrl 2) frm (BitVec.ofNat 4 dest) v.val = true →
    storeTagOk x.a (some (BitVec.ofNat 4 dest)) = .ok () →
    storeOpd o.core x.a (some (BitVec.ofNat 4 dest)) v.val v.bits .sign s1 = .ok s2 () →
    exec (.retag o) s0 = .next (Claims.seqDone o s0 s2 .seq))
  ∧ (∀ (o : SeqOps) (s0 s s1 s2 : State) (x : Args) (v : SVal) (t : BitVec 4),
    Claims.Ready 0x04 o s0 s → Claims.Placed kDst kSrc kNone o s x →
    loadOpd o.core 1 x.b s = .ok s1 v → looseTag o.core 1 v = .ok t → Claims.Clean v →
    storeOpd o.core x.a (some tagInt) t.toNat 32 .sign s1 = .ok s2 () →
    exec (.tagof o) s0 = .next (Claims.seqDone o s0 s2 .seq))
  ∧ (∀ (o : SeqOps) (s0 s s1 s2 : State) (x : Args) (v : SVal),
    Claims.Ready 0x07 o s0 s →
    Claims.Placed ⟨[0, 1, 2, 3, 4], false, false, false, false⟩ ⟨[], false, true, false, false⟩ kNone o s x →
    loadOpd o.core 1 x.b s = .ok s1 v → storeOpd o.core x.a (some tagF32) (v.val % 2 ^ 32) 32 .free s1 = .ok s2 () →
    exec (.fst o) s0 = .next (Claims.seqDone o s0 s2 .seq))

/-- R78: PUSH stores its operand at g15 - 4 and then sets g15 to g15 - 4; POP reads the word at g15 into its destination and
then sets g15 to g15 + 4. Both use W32 words and keep tags; the one check of the stack is that of its address. That POP into g15
leaves g15 + 4 there, the stack pointer being written last, is the model's choice (log entry 19). -/
def Obligations.PushAndPopComplete : Prop :=
  (∀ (o : SeqOps) (s0 s s1 s2 : State) (x : Args) (v : SVal) (sp : Nat) (tb tg : BitVec 4),
    Claims.Ready 0x05 o s0 s → Claims.Placed kNone kSrc kNone o s x →
    stackSlot o.core (s.core o.core) true = .ok sp → loadOpd o.core 1 x.b s = .ok s1 v →
    srcTag o.core 1 tagInt v = .ok tb → checkPair o.core ruleMov v v tb tagInt = .ok tg → Claims.Clean v →
    storeMem o.core .lram 2 sp (v.val % 2 ^ 32) [tg] s1 = .ok s2 () →
    exec (.push o) s0 = .next (Claims.seqDone o s0 (s2.updCore o.core fun c => c.setG 15 ⟨tagLaddr, BitVec.ofNat 32 sp⟩) .seq))
  ∧ (∀ (o : SeqOps) (s0 s s1 s2 : State) (x : Args) (v : SVal) (sp : Nat) (tb : BitVec 4),
    Claims.Ready 0x06 o s0 s → Claims.Placed kDst kNone kNone o s x →
    stackSlot o.core (s.core o.core) false = .ok sp → loadMem o.core .lram 2 sp 3 s = .ok s1 v →
    srcTag o.core 3 tagInt v = .ok tb → tagBad tb = false → storeTagOk x.a (some tb) = .ok () → Claims.Clean v →
    storeOpd o.core x.a (some tb) v.val 32 .sign s1 = .ok s2 () →
    exec (.pop o) s0 = .next (Claims.seqDone o s0 (s2.updCore o.core fun c => c.setG 15 ⟨tagLaddr, BitVec.ofNat 32 (sp + 4)⟩) .seq))

/-- The target of a branch passes its checks (R98): the value `v` that operand B reads is an immediate, or an 8-aligned
LADDR with no parity error. -/
def Sys2Proof.Claims.GoodTarget (o : SeqOps) (x : Args) (v : SVal) : Prop :=
  targetTag o.core x.b v = .ok () ∧ targetAlign x.b v = .ok () ∧ Claims.Clean v

/-- R98, R79: BR, CALL and DBNZ go to their target, BT and BF on their condition; CALL pushes the address after it, spilling
the oldest of 32 to the spill area below SEQ_RSP_LIMIT; DBNZ counts A down by one and falls through at 0; RET goes to the
youngest return address of the hardware stack, or, that being empty, to the last one spilled. -/
def Obligations.BranchesComplete : Prop :=
  (∀ (o : SeqOps) (s0 s s1 : State) (x : Args) (v : SVal),
    Claims.Ready 0x38 o s0 s → Claims.Placed kNone kSrc kNone o s x → loadOpd o.core 1 x.b s = .ok s1 v →
    Claims.GoodTarget o x v →
    exec (.br o) s0 = .next (Claims.seqDone o s0 s1 (.jump (targetOf (s1.core o.core).pc x.b v))))
  ∧ (∀ (want : Nat) (i : Instr) (o : SeqOps) (s0 s s1 s2 : State) (x : Args) (v cv : SVal),
    (want = 1 ∧ i = .bt o ∧ Claims.Ready 0x39 o s0 s) ∨ (want = 0 ∧ i = .bf o ∧ Claims.Ready 0x3A o s0 s) →
    Claims.Placed kNone kSrc kSrc o s x → loadOpd o.core 1 x.b s = .ok s1 v → loadOpd o.core 2 x.c s1 = .ok s2 cv →
    Claims.GoodTarget o x v → needTag o.core 2 tagBool cv = .ok () → Claims.Clean cv →
    exec i s0 = .next (Claims.seqDone o s0 s2
      (if cv.val % 2 ^ 32 = want then .jump (targetOf (s2.core o.core).pc x.b v) else .seq)))
  ∧ (∀ (o : SeqOps) (s0 s s1 : State) (x : Args) (v : SVal),
    Claims.Ready 0x3B o s0 s → Claims.Placed kNone kSrc kNone o s x → loadOpd o.core 1 x.b s = .ok s1 v →
    Claims.GoodTarget o x v → (s1.core o.core).rstack.length < 32 →
    exec (.call o) s0 = .next (Claims.seqDone o s0
      (s1.updCore o.core fun c => { c with rstack := ((s1.core o.core).pc + 8) :: c.rstack })
      (.jump (targetOf (s1.core o.core).pc x.b v))))
  ∧ (∀ (o : SeqOps) (s0 s s1 s2 : State) (x : Args) (v : SVal) (a : Nat),
    Claims.Ready 0x3B o s0 s → Claims.Placed kNone kSrc kNone o s x → loadOpd o.core 1 x.b s = .ok s1 v →
    Claims.GoodTarget o x v → 32 ≤ (s1.core o.core).rstack.length →
    a = (s1.core o.core).rspBase.toNat + 4 * (s1.core o.core).spilled → a < (s1.core o.core).rspLimit.toNat → a + 4 ≤ lramTop →
    storeMem o.core .lram 2 a ((s1.core o.core).rstack.getLastD 0).toNat [tagLaddr] s1 = .ok s2 () →
    exec (.call o) s0 = .next (Claims.seqDone o s0
      (s2.updCore o.core fun c =>
        { c with rstack := ((s1.core o.core).pc + 8) :: c.rstack.dropLast, spilled := c.spilled + 1 })
      (.jump (targetOf (s1.core o.core).pc x.b v))))
  ∧ (∀ (o : SeqOps) (s0 s s1 : State) (x : Args) (v : SVal),
    Claims.Ready 0x3C o s0 s → Claims.Placed kNone kNone kNone o s x → (s.core o.core).rstack = [] → (s.core o.core).spilled ≠ 0 →
    loadMem o.core .lram 2 ((s.core o.core).rspBase.toNat + 4 * ((s.core o.core).spilled - 1)) 3 s = .ok s1 v →
    v.tags = [tagLaddr] → v.val % 8 = 0 → Claims.Clean v →
    exec (.ret o) s0 = .next (Claims.seqDone o s0
      (s1.updCore o.core fun c => { c with spilled := (s.core o.core).spilled - 1 }) (.jump (BitVec.ofNat 32 v.val))))
  ∧ (∀ (o : SeqOps) (s0 s : State) (x : Args) (r : BitVec 32) (rest : List (BitVec 32)),
    Claims.Ready 0x3C o s0 s → Claims.Placed kNone kNone kNone o s x → (s.core o.core).rstack = r :: rest →
    exec (.ret o) s0 = .next (Claims.seqDone o s0 (s.updCore o.core fun c => { c with rstack := rest }) (.jump r)))
  ∧ (∀ (o : SeqOps) (s0 s s1 s2 s3 : State) (x : Args) (v cv : SVal),
    Claims.Ready 0x3E o s0 s → Claims.Placed kDst kSrc kNone o s x → loadOpd o.core 1 x.b s = .ok s1 v →
    loadOpd o.core 0 x.a s1 = .ok s2 cv → Claims.GoodTarget o x v → needTag o.core 0 tagCount cv = .ok () → Claims.Clean cv →
    storeOpd o.core x.a (some (cv.tags.headD tagCount)) (wrap cv.bits ((cv.val : Int) - 1)) cv.bits .sign s2 = .ok s3 () →
    exec (.dbnz o) s0 = .next (Claims.seqDone o s0 s3
      (if wrap cv.bits ((cv.val : Int) - 1) = 0 then .seq else .jump (targetOf (s2.core o.core).pc x.b v))))

/-- R99, R133: IFLUSH and FENCE complete once every store of the store buffer has been performed; IFLUSH then empties the
fetch buffer and goes on at the next address. -/
def Sys2Proof.Claims.FlushAndFenceDrain : Prop :=
  ∀ (o : SeqOps) (s0 s s1 : State) (x : Args), Claims.Placed kNone kNone kNone o s x →
    drainN o.core (s.core o.core).stbuf.length s = some s1 →
    (Claims.Ready 0x3F o s0 s → exec (.iflush o) s0 = .next (Claims.seqDone o s0 s1 (.jump ((s1.core o.core).pc + 8))))
      ∧ (Claims.Ready 0x4F o s0 s → exec (.fence o) s0 = .next (Claims.seqDone o s0 s1 .seq))

/-- NOP only advances; IFLUSH and FENCE complete once every earlier store has been performed. -/
def Obligations.NopFlushAndFenceComplete : Prop :=
  Claims.NopOnlyAdvances ∧ Claims.FlushAndFenceDrain

/-- R119, R143: RETI at IRQ or URG level takes PC and LEVEL from SEQ_EPC of that level and empties the fetch buffer. R146: a
URG request that is recognisable during the exit from IRQ level abandons the exit: SEQ_EPC[1] takes what SEQ_EPC[0] holds,
and URG level is entered by its vector. -/
def Sys2Proof.Claims.RetiReturns : Prop :=
  ∀ (o : SeqOps) (s0 s : State) (x : Args), Claims.Ready 0x3D o s0 s → Claims.Placed kNone kNone kNone o s x →
    o.core < 16 → o.core < s.tiles.length → (s.core o.core).bankLevel ≠ 0 →
    ∃ t, exec (.reti o) s0 = .next t
      ∧ (t.core o.core).fetch = [] ∧ (t.core o.core).gShared = (s.core o.core).gShared
      ∧ (t.core o.core).lram = (s.core o.core).lram ∧ (t.core o.core).f = (s.core o.core).f
      ∧ (if (s.core o.core).bankLevel = 1 ∧ s.presents o.core 2 = true ∧ bit (s.core o.core).ctrl 1 = true
            ∧ (s.core o.core).haltReq = false
          then (t.core o.core).pc = (((s.core o.core).vecUrg.extractLsb' 3 14).setWidth 32 : BitVec 32) * 8
            ∧ (t.core o.core).level = 2 ∧ (t.core o.core).epcUrg = (s.core o.core).epcIrq
          else ∃ e, e = (if (s.core o.core).bankLevel = 1 then (s.core o.core).epcIrq else (s.core o.core).epcUrg)
            ∧ (t.core o.core).pc = BitVec.ofNat 32 (fld e 3 14 * 8) ∧ (t.core o.core).level = e.extractLsb' 17 2)

/-- R114, R115, R148: TRAP takes SWTRAP: the cause, the instruction's address and B are recorded, SEQ_EPC[1] takes the
address and the level, and the sequencer stands at SEQ_VEC_TRAP at URG level; at URG level it halts with DOUBLE_TRAP. -/
def Sys2Proof.Claims.TrapEntersUrg : Prop :=
  ∀ (o : SeqOps) (s0 s : State) (x : Args) (b : Int), Claims.Ready 0x52 o s0 s → Claims.Placed kNone kImm kNone o s x → x.b = .imm b →
    o.core < 16 → o.core < s.tiles.length →
    ∃ t, exec (.trap o) s0 = .next t
      ∧ (t.core o.core).trapCause = BitVec.ofNat 32 (11 + 3 * 4096)
      ∧ (t.core o.core).trapPc = (s.core o.core).pc.setWidth 17
      ∧ (t.core o.core).trapAddr = BitVec.ofInt 32 b
      ∧ (if (s.core o.core).bankLevel = 2 then (t.core o.core).halted = true ∧ (t.core o.core).doubleTrap = true
          else (t.core o.core).level = 2
            ∧ (t.core o.core).pc = (((s.core o.core).vecTrap.extractLsb' 3 14).setWidth 32 : BitVec 32) * 8
            ∧ (t.core o.core).epcUrg
              = BitVec.ofNat 19 (fld (s.core o.core).pc 3 14 * 8 + (s.core o.core).level.toNat * 2 ^ 17))

/-- TRAP enters URG level by its vector, and RETI takes the saved address and level back. Two clauses are the model's choice: that
SWTRAP records OPERAND 3 (log entry 21), and what a level of 3 in SEQ_EPC does (log entry 8). RETI goes on, and halts, where HALT_REQ
is set while a URG request is recognisable (log entry 104). -/
def Obligations.TrapAndReturn : Prop :=
  Claims.RetiReturns ∧ Claims.TrapEntersUrg

/-- What a PULSE of `mask` does: lines 0 to 63 are pulsed, to be heard 6 cycles later, and bit 67 latches the sequencer's SELF. -/
def Sys2Proof.Claims.pulsed (core : Nat) (mask : BitVec 128) (s : State) : State :=
  if mask.getLsbD 67 then (s.pulseAt (s.cycle + 6) (mask.setWidth 64)).updCore core fun c => { c with evtLatch := setBit c.evtLatch 67 true }
  else s.pulseAt (s.cycle + 6) (mask.setWidth 64)

/-- R106 to R109: WAITE and WAITET complete at once on a latched event of their mask, whose lowest number goes to A and whose latch bit is
cleared; WAITET, with none, completes at once with 255 when the time has come; PULSE pulses lines 0 to 63, to be heard 6 cycles later, and
latches SELF on bit 67, as the first of a pair when its group writes back; WAITT completes at once when the time has come; RDTIME reads
the sequencer's copy of TIME. -/
def Sys2Proof.Claims.EventsAndTimeComplete : Prop :=
  (∀ (o : SeqOps) (s0 s s1 s2 : State) (x : Args) (m : SVal) (n : Nat),
    Claims.Ready 0x48 o s0 s → Claims.Placed kDst (kMem 4) kNone o s x → loadOpd o.core 1 x.b s = .ok s1 m →
    needTag o.core 1 tagEvent m = .ok () → Claims.Clean m →
    lowestSet 128 ((s1.core o.core).evtLatch &&& BitVec.ofNat 128 m.val).toNat = some n →
    storeOpd o.core x.a (some tagInt) n 32 .sign s1 = .ok s2 () →
    exec (.waite o) s0 = .next (Claims.seqDone o s0
      (s2.updCore o.core fun c => { c with evtLatch := setBit c.evtLatch n false }) .seq))
  ∧ (∀ (o : SeqOps) (s0 s s1 s2 s3 : State) (x : Args) (m t : SVal) (n : Nat),
    Claims.Ready 0x49 o s0 s → Claims.Placed kDst (kMem 4) ⟨[3], true, false, false, false⟩ o s x →
    loadOpd o.core 1 x.b s = .ok s1 m → loadOpd o.core 2 x.c s1 = .ok s2 t →
    needTag o.core 1 tagEvent m = .ok () → needTag o.core 2 tagTime t = .ok () → Claims.Clean m → Claims.Clean t →
    lowestSet 128 ((s2.core o.core).evtLatch &&& BitVec.ofNat 128 m.val).toNat = some n →
    storeOpd o.core x.a (some tagInt) n 32 .sign s2 = .ok s3 () →
    exec (.waitet o) s0 = .next (Claims.seqDone o s0
      (s3.updCore o.core fun c => { c with evtLatch := setBit c.evtLatch n false }) .seq))
  ∧ (∀ (o : SeqOps) (s0 s s1 s2 s3 : State) (x : Args) (m t : SVal),
    Claims.Ready 0x49 o s0 s → Claims.Placed kDst (kMem 4) ⟨[3], true, false, false, false⟩ o s x →
    loadOpd o.core 1 x.b s = .ok s1 m → loadOpd o.core 2 x.c s1 = .ok s2 t →
    needTag o.core 1 tagEvent m = .ok () → needTag o.core 2 tagTime t = .ok () → Claims.Clean m → Claims.Clean t →
    (s2.core o.core).evtLatch &&& BitVec.ofNat 128 m.val = 0 → (timeVal t).toNat ≤ s2.seqTime o.core →
    storeOpd o.core x.a (some tagInt) 255 32 .sign s2 = .ok s3 () →
    exec (.waitet o) s0 = .next (Claims.seqDone o s0 s3 .seq))
  ∧ (∀ (o : SeqOps) (s0 s s1 : State) (x : Args) (m : SVal),
    Claims.Ready 0x4A o s0 s → Claims.Placed kNone (kMem 4) kNone o s x → loadOpd o.core 1 x.b s = .ok s1 m →
    needTag o.core 1 tagEvent m = .ok () → Claims.Clean m →
    exec (.pulse o) s0 = .next (Claims.seqDone o s0
      (match (s1.core o.core).group with
       | some l => s1.updCore o.core fun c => { c with group := some { l with pulse := BitVec.ofNat 128 m.val } }
       | none => Claims.pulsed o.core (BitVec.ofNat 128 m.val) s1) .seq))
  ∧ (∀ (core : Nat) (s : State) (l : GroupLate), (s.core core).group = some l → l.pulse ≠ 0 → l.raw = none →
    s.writeback core = Claims.pulsed core l.pulse (s.updCore core fun c => c.writeBackFirst l))
  ∧ (∀ (o : SeqOps) (s0 s s1 : State) (x : Args) (t : SVal),
    Claims.Ready 0x4B o s0 s → Claims.Placed kNone (kMem 3) kNone o s x → loadOpd o.core 1 x.b s = .ok s1 t →
    needTag o.core 1 tagTime t = .ok () → Claims.Clean t → (timeVal t).toNat ≤ s1.seqTime o.core →
    exec (.waitt o) s0 = .next (Claims.seqDone o s0 s1 .seq))
  ∧ (∀ (o : SeqOps) (s0 s s1 : State) (x : Args),
    Claims.Ready 0x4C o s0 s → Claims.Placed (kMem 3) kNone kNone o s x →
    storeOpd o.core x.a (some tagTime) (s.seqTime o.core) 64 .sign s = .ok s1 () →
    exec (.rdtime o) s0 = .next (Claims.seqDone o s0 s1 .seq))

/-- R110: what WAITE, WAITET and WAITT do when they must wait, and the wakes that complete them: the sequencer stays at the
instruction's address; when an event of the mask is latched its lowest number goes to A and its latch bit is cleared, when
the time has come WAITET's A takes 255, and the sequencer goes on. -/
def Sys2Proof.Claims.WaitsAndWakes : Prop :=
  (∀ (o : SeqOps) (s0 s s1 : State) (x : Args) (m : SVal),
    Claims.Ready 0x48 o s0 s → Claims.Placed kDst (kMem 4) kNone o s x → loadOpd o.core 1 x.b s = .ok s1 m →
    needTag o.core 1 tagEvent m = .ok () → Claims.Clean m →
    (s1.core o.core).evtLatch &&& BitVec.ofNat 128 m.val = 0 →
    exec (.waite o) s0 = .next (Claims.seqDone o s0
      (s1.updCore o.core fun c => { c with wait := some (.event o.a (BitVec.ofNat 128 m.val)) }) .stay))
  ∧ (∀ (o : SeqOps) (s0 s s1 s2 : State) (x : Args) (m t : SVal),
    Claims.Ready 0x49 o s0 s → Claims.Placed kDst (kMem 4) ⟨[3], true, false, false, false⟩ o s x →
    loadOpd o.core 1 x.b s = .ok s1 m → loadOpd o.core 2 x.c s1 = .ok s2 t →
    needTag o.core 1 tagEvent m = .ok () → needTag o.core 2 tagTime t = .ok () → Claims.Clean m → Claims.Clean t →
    (s2.core o.core).evtLatch &&& BitVec.ofNat 128 m.val = 0 → s2.seqTime o.core < (timeVal t).toNat →
    exec (.waitet o) s0 = .next (Claims.seqDone o s0
      (s2.updCore o.core fun c => { c with wait := some (.eventTime o.a (BitVec.ofNat 128 m.val) (timeVal t)) }) .stay))
  ∧ (∀ (o : SeqOps) (s0 s s1 : State) (x : Args) (t : SVal),
    Claims.Ready 0x4B o s0 s → Claims.Placed kNone (kMem 3) kNone o s x → loadOpd o.core 1 x.b s = .ok s1 t →
    needTag o.core 1 tagTime t = .ok () → Claims.Clean t → s1.seqTime o.core < (timeVal t).toNat →
    exec (.waitt o) s0 = .next (Claims.seqDone o s0
      (s1.updCore o.core fun c => { c with wait := some (.time (timeVal t)) }) .stay))
  ∧ (∀ (core : Nat) (s s1 s2 : State) (a : BitVec 19) (mask : BitVec 128) (d : Opd) (p : Place) (n : Nat),
    waitingFor s core = some (.event a mask) → lowestSet 128 ((s.core core).evtLatch &&& mask).toNat = some n →
    s1 = s.updCore core (fun c => { c with wait := none }) → Opd.ofBits a = some d → placeOpd core (s1.core core) 0 (some d) = .ok p →
    storeOpd core p (some tagInt) n 32 .sign s1 = .ok s2 () →
    exec (.waiteWake core) s = .next (finishSeq core 0 0 s
      (.ok (s2.updCore core fun c => { c with evtLatch := setBit c.evtLatch n false }) .seq)))
  ∧ (∀ (core : Nat) (s s1 s2 : State) (a : BitVec 19) (mask : BitVec 128) (t : BitVec 64) (d : Opd) (p : Place) (n : Nat),
    waitingFor s core = some (.eventTime a mask t) → lowestSet 128 ((s.core core).evtLatch &&& mask).toNat = some n →
    s1 = s.updCore core (fun c => { c with wait := none }) → Opd.ofBits a = some d → placeOpd core (s1.core core) 0 (some d) = .ok p →
    storeOpd core p (some tagInt) n 32 .sign s1 = .ok s2 () →
    exec (.waitetWake core) s = .next (finishSeq core 0 0 s
      (.ok (s2.updCore core fun c => { c with evtLatch := setBit c.evtLatch n false }) .seq)))
  ∧ (∀ (core : Nat) (s s1 s2 : State) (a : BitVec 19) (mask : BitVec 128) (t : BitVec 64) (d : Opd) (p : Place),
    waitingFor s core = some (.eventTime a mask t) → (s.core core).evtLatch &&& mask = 0 → t.toNat ≤ s.seqTime core →
    s1 = s.updCore core (fun c => { c with wait := none }) → Opd.ofBits a = some d → placeOpd core (s1.core core) 0 (some d) = .ok p →
    storeOpd core p (some tagInt) 255 32 .sign s1 = .ok s2 () →
    exec (.waitetWake core) s = .next (finishSeq core 0 0 s (.ok s2 .seq)))
  ∧ (∀ (core : Nat) (s : State) (t : BitVec 64), waitingFor s core = some (.time t) → t.toNat ≤ s.seqTime core →
    exec (.waittWake core) s = .next (finishSeq core 0 0 s (.ok (s.updCore core fun c => { c with wait := none }) .seq)))

/-- The instructions that wait for events or for a time, RDTIME, and the wakes that complete them. -/
def Obligations.EventAndTimeInstructions : Prop :=
  Claims.EventsAndTimeComplete ∧ Claims.WaitsAndWakes

/-- R111 to R113, R100: STEP reads the 128 B of its descriptor, after earlier stores, into the issue register of the descriptor's
priority, or waits while that is not free; a stalled STEP does so when the register is free; STSTAT reads SEQ_STEP_STAT and clears VALID
and OVERRUN, as the first of a pair when its group writes back; MFSR and MTSR read and write SEQ_ registers. On the quoin, which has no
step unit, STEP completes after its checks (the model's choice, log entry 74). -/
def Obligations.StepAndSpecialRegisters : Prop :=
  (∀ (o : SeqOps) (s0 s s1 s2 : State) (x : Args) (v : SVal) (d : BitVec 1024),
    Claims.Ready 0x4D o s0 s → Claims.Placed kNone kSrc kNone o s x → loadOpd o.core 1 x.b s = .ok s1 v →
    needTag o.core 1 tagDesc v = .ok () → Claims.Clean v → v.val % 2 ^ 32 % 128 = 0 → v.val % 2 ^ 32 + 128 ≤ lramTop →
    drainN o.core (s1.core o.core).stbuf.length s1 = some s2 →
    (readLram s2 o.core (wordsOf (v.val % 2 ^ 32) 128)).lrBad = false →
    d = BitVec.ofNat 1024 (readLram s2 o.core (wordsOf (v.val % 2 ^ 32) 128)).data →
    exec (.step o) s0 = .next (
      if o.core ≥ 16 then Claims.seqDone o s0 s2 .seq
      else if (s2.tile o.core).st.issueFree s2.cycle (descUrgent d) = true then
        Claims.seqDone o s0 (placeStep o.core d s2) .seq
      else Claims.seqDone o s0 (s2.updCore o.core fun c => { c with wait := some (.step (descUrgent d) d) }) .stay))
  ∧ (∀ (core : Nat) (s : State) (u : Bool) (d : BitVec 1024), waitingFor s core = some (.step u d) →
    (s.tile core).st.issueFree s.cycle u = true →
    exec (.stepStallRelease core) s = .next (finishSeq core 0 0 s
      (.ok (placeStep core d (s.updCore core fun c => { c with wait := none })) .seq)))
  ∧ (∀ (o : SeqOps) (s0 s s1 : State) (x : Args) (u : Bool),
    Claims.Ready 0x4E o s0 s → Claims.Placed kDst kImm kNone o s x → x.b = .imm (if u then 1 else 0) →
    storeOpd o.core x.a (some tagInt) (if u then (s.core o.core).stepStatU else (s.core o.core).stepStatN).toNat 32 .sign s = .ok s1 () →
    exec (.ststat o) s0 = .next (Claims.seqDone o s0 (s1.updCore o.core fun c =>
      match c.group with
      | some l => { c with group := some { l with
          stat := some (u, if u then (s.core o.core).stepStatU else (s.core o.core).stepStatN) } }
      | none =>
        if u then { c with stepStatU := clearStat (s.core o.core).stepStatU c.stepStatU }
        else { c with stepStatN := clearStat (s.core o.core).stepStatN c.stepStatN }) .seq))
  ∧ (∀ v : BitVec 32, clearStat v v = setFld v 30 2 0)
  ∧ (∀ (o : SeqOps) (s0 s s1 : State) (x : Args) (off : Nat) (v : BitVec 64) (tg : BitVec 4),
    Claims.Ready 0x50 o s0 s → Claims.Placed kDst kImm kNone o s x → x.b = .imm off →
    (SeqCore.reset.readReg off).isSome = true → (s.core o.core).readReg off = some (v, tg) →
    storeOpd o.core x.a (some tg) (v.toNat % 2 ^ 32) 32 .sign s = .ok s1 () →
    exec (.mfsr o) s0 = .next (Claims.seqDone o s0 s1 .seq))
  ∧ (∀ (o : SeqOps) (s0 s s1 : State) (x : Args) (off : Nat) (v : SVal) (tg : BitVec 4),
    Claims.Ready 0x51 o s0 s → Claims.Placed kNone kImm kSrc o s x → x.b = .imm off →
    (SeqCore.reset.readReg off).isSome = true → loadOpd o.core 2 x.c s = .ok s1 v → srcTag o.core 2 tagInt v = .ok tg →
    tagBad tg = false → Claims.Clean v →
    exec (.mtsr o) s0 = .next (Claims.seqDone o s0
      (s1.updCore o.core fun c => c.writeReg off (BitVec.ofNat 32 v.val) tg (decide (o.core < 16)) false) .seq))
/-! ### Block, short-vector and customer instructions; fetch, store buffer, interrupts -/

/-- The core of a block instruction as it begins: not suspended. -/
def Sys2Proof.Claims.blkStart (core : Nat) (s : State) : State :=
  s.updCore core fun c =>
    { c with blk := if c.bankLevel < 2 then lput c.blk c.bankLevel false else c.blk, yielded := false }

/-- A block instruction that has made its element `z` is over, unless RPT = 1 and g11 is not 0: then it stays at its own
address, where it has yielded. -/
def Sys2Proof.Claims.blkOver (o : SeqOps) (s0 : State) (ctl : Nat) (z : State) : State :=
  if ctl.testBit 2 = true ∧ (z.core o.core |>.g 11).val ≠ 0 then
    Claims.seqDone o s0 (z.updCore o.core fun c => { c with yielded := true }) .stay
  else Claims.seqDone o s0 z .seq

/-- A comparing block instruction that has made its element `z`: BOOL 0 in g14 when g11 has reached 0. -/
def Sys2Proof.Claims.blkCompared (o : SeqOps) (s0 : State) (ctl : Nat) (z : State) : State :=
  if (z.core o.core |>.g 11).val = 0 then Claims.seqDone o s0 (setG14 o.core false z) .seq else Claims.blkOver o s0 ctl z

/-- R101 to R104: one element of BMOVE, BFILL, BCMP and BSEEK, for every element size and direction: the element moves, is
filled, or is compared; the pointers that the instruction uses move by the element's size and g11 counts down; BCMP and
BSEEK stop with BOOL 1 in g14 when the elements differ or match, and leave BOOL 0 when g11 reaches 0. With RPT = 0 the
instruction is then over; with RPT = 1 it goes on until g11 is 0, and may yield after any element. With g11 = 0 BMOVE and
BCMP do nothing, but that BCMP leaves BOOL 0 in g14. -/
def Obligations.BlockElementsComplete : Prop :=
  (∀ (upto ctl : Nat) (o : SeqOps) (s0 s s1 s2 : State) (x : Args) (ssp dsp : Space) (sa da : Nat) (v : SVal),
    Claims.Ready 0x40 o s0 s → Claims.Placed kImm kNone kNone o s x → x.a = .imm ctl → ctl < 16 → (ctl.testBit 2 = true → upto = 1) →
    ((Claims.blkStart o.core s).core o.core |>.g 11).tag = tagCount → ((Claims.blkStart o.core s).core o.core |>.g 11).val ≠ 0 →
    blkPtr o.core ((Claims.blkStart o.core s).core o.core) 12 (ctl % 4) = .ok (ssp, sa) →
    blkPtr o.core ((Claims.blkStart o.core s).core o.core) 13 (ctl % 4) = .ok (dsp, da) →
    loadMem o.core ssp (ctl % 4) sa 3 (Claims.blkStart o.core s) = .ok s1 v → elemOk o.core v = .ok () → Claims.Clean v →
    storeMem o.core dsp (ctl % 4) da (v.val % 2 ^ (8 * 2 ^ (ctl % 4)))
      (if ssp = .lram ∧ dsp = .lram ∧ 2 ≤ ctl % 4 then v.tags else [tagInt, tagInt]) s1 = .ok s2 () →
    exec (.bmove upto o) s0 = .next (Claims.blkOver o s0 ctl (blkAdvance o.core ctl true true s2)))
  ∧ (∀ (upto ctl : Nat) (o : SeqOps) (s0 s s1 s2 : State) (x : Args) (dsp : Space) (da : Nat) (v : SVal) (t : BitVec 4),
    Claims.Ready 0x41 o s0 s → Claims.Placed kImm kSrc kNone o s x → x.a = .imm ctl → ctl < 16 → (ctl.testBit 2 = true → upto = 1) →
    ((Claims.blkStart o.core s).core o.core |>.g 11).tag = tagCount →
    loadOpd o.core 1 x.b (Claims.blkStart o.core s) = .ok s1 v → srcTag o.core 1 tagInt v = .ok t → tagBad t = false →
    Claims.Clean v → (s1.core o.core |>.g 11).val ≠ 0 →
    blkPtr o.core (s1.core o.core) 13 (ctl % 4) = .ok (dsp, da) →
    storeOpd o.core (.mem dsp (ctl % 4) da) (some (if v.part then tagInt else v.tags.headD tagInt)) v.val v.bits .sign s1 = .ok s2 () →
    exec (.bfill upto o) s0 = .next (Claims.blkOver o s0 ctl (blkAdvance o.core ctl false true s2)))
  ∧ (∀ (upto ctl : Nat) (o : SeqOps) (s0 s s1 s2 : State) (x : Args) (ssp dsp : Space) (sa da : Nat) (v w : SVal),
    Claims.Ready 0x42 o s0 s → Claims.Placed kImm kNone kNone o s x → x.a = .imm ctl → ctl < 16 → (ctl.testBit 2 = true → upto = 1) →
    ((Claims.blkStart o.core s).core o.core |>.g 11).tag = tagCount → ((Claims.blkStart o.core s).core o.core |>.g 11).val ≠ 0 →
    blkPtr o.core ((Claims.blkStart o.core s).core o.core) 12 (ctl % 4) = .ok (ssp, sa) →
    blkPtr o.core ((Claims.blkStart o.core s).core o.core) 13 (ctl % 4) = .ok (dsp, da) →
    loadMem o.core ssp (ctl % 4) sa 3 (Claims.blkStart o.core s) = .ok s1 v →
    loadMem o.core dsp (ctl % 4) da 3 s1 = .ok s2 w → elemOk o.core v = .ok () → elemOk o.core w = .ok () →
    Claims.Clean v → Claims.Clean w →
    exec (.bcmp upto o) s0 = .next (
      if elemVal v ≠ elemVal w then Claims.seqDone o s0 (setG14 o.core true s2) .seq
      else Claims.blkCompared o s0 ctl (blkAdvance o.core ctl true true s2)))
  ∧ (∀ (upto ctl : Nat) (o : SeqOps) (s0 s s1 s2 : State) (x : Args) (ssp : Space) (sa : Nat) (v w : SVal) (t : BitVec 4),
    Claims.Ready 0x43 o s0 s → Claims.Placed kImm kSrc kNone o s x → x.a = .imm ctl → ctl < 16 → (ctl.testBit 2 = true → upto = 1) →
    ((Claims.blkStart o.core s).core o.core |>.g 11).tag = tagCount →
    loadOpd o.core 1 x.b (Claims.blkStart o.core s) = .ok s1 v → srcTag o.core 1 tagInt v = .ok t → tagBad t = false →
    Claims.Clean v → (s1.core o.core |>.g 11).val ≠ 0 →
    blkPtr o.core (s1.core o.core) 12 (ctl % 4) = .ok (ssp, sa) →
    loadMem o.core ssp (ctl % 4) sa 3 s1 = .ok s2 w → elemOk o.core w = .ok () → Claims.Clean w →
    exec (.bseek upto o) s0 = .next (
      if elemVal w = elemVal v then Claims.seqDone o s0 (setG14 o.core true s2) .seq
      else Claims.blkCompared o s0 ctl (blkAdvance o.core ctl true false s2)))
  ∧ (∀ (upto ctl : Nat) (o : SeqOps) (s0 s : State) (x : Args), Claims.Placed kImm kNone kNone o s x → x.a = .imm ctl → ctl < 16 →
    ((Claims.blkStart o.core s).core o.core |>.g 11).tag = tagCount → ((Claims.blkStart o.core s).core o.core |>.g 11).val = 0 →
    (Claims.Ready 0x40 o s0 s → exec (.bmove upto o) s0 = .next (Claims.seqDone o s0 (Claims.blkStart o.core s) .seq))
      ∧ (Claims.Ready 0x42 o s0 s →
        exec (.bcmp upto o) s0 = .next (Claims.seqDone o s0 (setG14 o.core false (Claims.blkStart o.core s)) .seq)))

/-- A short-vector instruction of three q registers. -/
structure Sys2Proof.Claims.QRow where
  ins : SeqOps → Instr
  opc : Nat
  f : BitVec 128 → BitVec 128 → BitVec 128 → BitVec 128

/-- R96: the short-vector instructions of three q registers, by their lanes: `H` of 16 bits, `W` of 32, `F` of binary32. -/
def Sys2Proof.Claims.qRows : List Claims.QRow :=
  [⟨.qaddsH, 0x5E, laneOp 16 fun _ b c => satS 16 (b + c)⟩,
   ⟨.qsubsH, 0x5F, laneOp 16 fun _ b c => satS 16 (b - c)⟩,
   ⟨.qmulrH, 0x60, laneOp 16 fun _ b c => satS 16 ((b * c + 2 ^ 14) / 2 ^ 15)⟩,
   ⟨.qmacrH, 0x61, laneOp 16 fun a b c => satS 16 (a + (b * c + 2 ^ 14) / 2 ^ 15)⟩,
   ⟨.qminH, 0x63, laneOp 16 fun _ b c => min b c⟩,
   ⟨.qmaxH, 0x64, laneOp 16 fun _ b c => max b c⟩,
   ⟨.qaddsW, 0x65, laneOp 32 fun _ b c => satS 32 (b + c)⟩,
   ⟨.qsubsW, 0x66, laneOp 32 fun _ b c => satS 32 (b - c)⟩,
   ⟨.qmulrW, 0x67, laneOp 32 fun _ b c => satS 32 ((b * c + 2 ^ 30) / 2 ^ 31)⟩,
   ⟨.qfadd, 0x69, laneF fun _ b c => b.add c⟩,
   ⟨.qfmul, 0x6A, laneF fun _ b c => b.mul c⟩,
   ⟨.qfma, 0x6B, laneF fun a b c => a.add (b.mul c)⟩]

/-- R96: the lane instructions write their q register and nothing else of the core but what completion does; QSHRR takes
its count from the immediate. -/
def Sys2Proof.Claims.LaneInstructionsComplete : Prop :=
  (∀ p ∈ Claims.qRows, ∀ (o : SeqOps) (s0 s : State) (x : Args) (a b c : Nat),
    Claims.Ready p.opc o s0 s → Claims.Placed kQ kQ kQ o s x → x.a = .q a → x.b = .q b → x.c = .q c →
    exec (p.ins o) s0 = .next (Claims.seqDone o s0
      (s.updCore o.core fun k => k.setQ a (p.f ((s.core o.core).qReg a) ((s.core o.core).qReg b) ((s.core o.core).qReg c))) .seq))
  ∧ (∀ (w k : Nat) (i : Instr) (o : SeqOps) (s0 s : State) (x : Args) (a b : Nat),
    (w = 16 ∧ k ≤ 15 ∧ i = .qshrrH o ∧ Claims.Ready 0x62 o s0 s) ∨ (w = 32 ∧ k ≤ 31 ∧ i = .qshrrW o ∧ Claims.Ready 0x68 o s0 s) →
    1 ≤ k → Claims.Placed kQ kQ kImm o s x → x.a = .q a → x.b = .q b → x.c = .imm k →
    exec i s0 = .next (Claims.seqDone o s0
      (s.updCore o.core fun z => z.setQ a (laneOp w (fun _ v _ => (v + 2 ^ (k - 1)) / 2 ^ k) 0 ((s.core o.core).qReg b) 0)) .seq))

/-- Where the elements of QLDFF that can be read end (R138): the tile store's end, the interrupt-controller words on a tile. -/
def Sys2Proof.Claims.ffTop (core : Nat) (sp : Space) (addr : Nat) : Nat :=
  match sp with
  | .tile => if core < 16 then tsTop else 0
  | .lram => if core < 16 then icWords else lramTop
  | .raw => addr + 16

/-- Element `e` of QLDFF is a faulting one. -/
def Sys2Proof.Claims.FfBad (core : Nat) (sp : Space) (addr c : Nat) (tags : List (BitVec 4)) (e : Nat) : Bool :=
  decide (addr + (e + 1) * c > Claims.ffTop core sp addr) || ffFault core sp addr c tags e

/-- R75, R96, R137, R138: QLD, QST, QMOV, QSPLAT and QEXT; QLDFF loads the elements below the lowest faulting
one, j of them, the first not among the faulting, and SEQ_FFCOUNT takes j (log entry 75). -/
def Sys2Proof.Claims.VectorMovesComplete : Prop :=
  (∀ (o : SeqOps) (s0 s s1 s2 : State) (x : Args) (v : SVal),
    Claims.Ready 0x58 o s0 s → Claims.Placed kQ (kMem 4) kNone o s x → loadOpd o.core 1 x.b s = .ok s1 v →
    srcUntagged o.core 1 v = .ok () → Claims.Clean v → storeOpd o.core x.a none v.val 128 .free s1 = .ok s2 () →
    exec (.qld o) s0 = .next (Claims.seqDone o s0 s2 .seq))
  ∧ (∀ (o : SeqOps) (s0 s s1 s2 : State) (x : Args) (v : SVal),
    Claims.Ready 0x59 o s0 s → Claims.Placed (kMem 4) kQ kNone o s x → loadOpd o.core 1 x.b s = .ok s1 v →
    storeOpd o.core x.a none v.val 128 .free s1 = .ok s2 () →
    exec (.qst o) s0 = .next (Claims.seqDone o s0 s2 .seq))
  ∧ (∀ (o : SeqOps) (s0 s s1 s2 : State) (x : Args) (v : SVal),
    Claims.Ready 0x5B o s0 s →
    Claims.Placed ⟨[], false, true, true, false⟩ ⟨[0, 1, 2, 3, 4], false, true, true, false⟩ kNone o s x →
    loadOpd o.core 1 x.b s = .ok s1 v → srcUntagged o.core 1 v = .ok () → Claims.Clean v →
    storeOpd o.core x.a none v.val v.bits .free s1 = .ok s2 () →
    exec (.qmov o) s0 = .next (Claims.seqDone o s0 s2 .seq))
  ∧ (∀ (w : Nat) (i : Instr) (o : SeqOps) (s0 s s1 s2 : State) (x : Args) (v : SVal),
    (w = 16 ∧ i = .qsplatH o ∧ Claims.Ready 0x5C o s0 s) ∨ (w = 32 ∧ i = .qsplatW o ∧ Claims.Ready 0x5D o s0 s) →
    Claims.Placed kQ kSrc kNone o s x → loadOpd o.core 1 x.b s = .ok s1 v → srcUntagged o.core 1 v = .ok () → Claims.Clean v →
    storeOpd o.core x.a none (packLanes w (List.replicate (128 / w) v.val)) 128 .free s1 = .ok s2 () →
    exec i s0 = .next (Claims.seqDone o s0 s2 .seq))
  ∧ (∀ (o : SeqOps) (s0 s s1 : State) (x : Args) (b k : Nat),
    Claims.Ready 0x6C o s0 s → Claims.Placed kDst kQ kImm o s x → x.b = .q b → x.c = .imm k → k ≤ 7 →
    storeOpd o.core x.a (some tagInt) (wrap 32 (sgn 16 (((s.core o.core).qReg b).toNat / 2 ^ (16 * k)))) 32 .sign s = .ok s1 () →
    exec (.qextH o) s0 = .next (Claims.seqDone o s0 s1 .seq))
  ∧ (∀ (o : SeqOps) (s0 s s1 : State) (q base c addr v j : Nat) (sp : Space) (disp : Int) (tags : List (BitVec 4)),
    Claims.Ready 0x5A o s0 s → decodeOpd kQ 0 o.a = .ok (some (.q q)) → decodeOpd (kMem 4) 1 o.b = .ok (some (.mem 4 base disp)) →
    decodeOpd kImm 2 o.c = .ok (some (.imm c)) → c ∈ [1, 2, 4, 8] →
    effAddr o.core (s.core o.core) 4 base disp 1 = .ok (sp, addr) → (sp = .lram → addr % 4 = 0) →
    ffRead o.core sp addr (min 16 (Claims.ffTop o.core sp addr - addr)) s = .ok s1 (v, tags, none) →
    0 < j → j ≤ 16 / c → (∀ e < j, Claims.FfBad o.core sp addr c tags e = false) →
    (j < 16 / c → Claims.FfBad o.core sp addr c tags j = true) →
    (o.core < 16 → tagRaw ∉ tags.take (wordsOf addr (j * c)).length) →
    exec (.qldff o) s0 = .next (Claims.seqDone o s0
      (s1.updCore o.core fun z => { z.setQ q (setFld (z.qReg q) 0 (8 * c * j) v) with ffcount := BitVec.ofNat 5 j }) .seq))

/-- The short-vector instructions, lane by lane, and the moves of q registers. -/
def Obligations.ShortVectorsComplete : Prop :=
  Claims.LaneInstructionsComplete ∧ Claims.VectorMovesComplete

/-- R149 to R157: a customer instruction of a tile whose slot holds micro-operations runs them in order and then makes its
writes to A, as one group: its stores enter the store buffer, and A's register takes its value. -/
def Obligations.CustomerInstructionsComplete : Prop :=
  ∀ (slot : Nat) (o : SeqOps) (s0 s s1 s2 : State) (a b c : Option Opd) (h0 h1 : BitVec 32) (n : Nat) (u : UState),
    slot < 16 → o.core < 16 → Claims.Ready (0x70 + slot) o s0 s →
    h0 = (s.core o.core).dword (36 * slot) → h1 = (s.core o.core).dword (36 * slot + 1) → n = min 32 (slotLen h0) → 0 < n →
    (s.core o.core).dbad (36 * slot) = false → (s.core o.core).dbad (36 * slot + 1) = false →
    (∀ k < n, (s.core o.core).dbad (36 * slot + 4 + k) = false) →
    slotOpd h0 h1 0 o.a = .ok a → slotOpd h0 h1 1 o.b = .ok b → slotOpd h0 h1 2 o.c = .ok c →
    uRun ⟨o.core, a, b, c⟩ ((List.range n).map fun k => (s.core o.core).dword (36 * slot + 4 + k)) 0 .start s = .ok s1 u →
    uPlace o.core (afterEarlier [] (uPieces u.out)) s1 = .ok s2 () →
    exec (.uop slot o) s0 = .next (Claims.seqDone o s0 (uCommit ⟨o.core, a, b, c⟩ u.out s2) .seq)

/-- R130 to R136, R142, R118: the fetch buffer takes two instructions when two entries are free; the memory port performs the oldest
store-buffer entry, those of a pair in progress aside, or, where R56 makes it wait, shows HELD; the highest recognised request enters its
level; and the quoin's write of SEQ_CTRL reaches every field of it. -/
def Obligations.SequencerEventsComplete : Prop :=
  (∀ (core starved : Nat) (s : State), s.coreRuns core = true → (s.core core).halted = false →
    (s.core core).fetch.length ≤ 2 →
    exec (.seqFetch core starved) s = .next (chargeSeq core starved (s.updCore core fun c =>
      { c with fetch := c.fetch ++
          [fetchAt c ((s.core core).pc + BitVec.ofNat 32 (8 * (s.core core).fetch.length)),
           fetchAt c ((s.core core).pc + BitVec.ofNat 32 (8 * (s.core core).fetch.length) + 8)] })))
  ∧ (∀ (core held : Nat) (s : State), s.coreRuns core = true →
    (match (s.core core).group with | some g => g.placed | none => 0) < (s.core core).stbuf.length →
    exec (.storeBufferDrain core held) s = .next (
      match drainOne core s with
      | some s1 => holdBit core false (chargeBank core held s1)
      | none => holdBit core true s))
  ∧ (∀ (core l : Nat) (s : State), s.coreRuns core = true →
    (l = 2 ∧ s.recognised core 2 = true) ∨ (l = 1 ∧ s.recognised core 2 = false ∧ s.recognised core 1 = true) →
    exec (.interruptEntry core) s = .next (holdBit core false ((s.spendLate core l).updCore core fun c => c.interrupt l)))
  ∧ (∀ (tile : Nat) (v : BitVec 32) (s : State), tile < 16 → s.alive = true → s.tileLive tile = true →
    exec (.seqHaltReq .quoin tile v) s = .next (s.updCore tile fun c => c.writeReg 0 v tagInt false true))
/-! ### Registers -/

/-- What a cycle in which a tile's counters were cleared leaves of them, whatever events came after the write: 0 (R71, R198, R257, R283,
R334). -/
def Sys2Proof.Claims.ClearsOutlastEvents : Prop :=
  ∀ (s : State) (t : Nat),
    (∀ i < 3, (s.tile t).ts.now.clr.getLsbD i = true →
      [(s.newCycle.tile t).ts.conflictCnt, (s.newCycle.tile t).ts.offAccess, (s.newCycle.tile t).ts.perrCount].getD i 1 = 0)
    ∧ ((s.tile t).vec.now.clr.getLsbD 0 = true → (s.newCycle.tile t).vec.switchCnt = 0)
    ∧ (∀ i < 2, (s.tile t).arr.now.clr.getLsbD i = true →
      [(s.newCycle.tile t).arr.busyCnt, (s.newCycle.tile t).arr.waitCnt].getD i 1 = 0)
    ∧ ((s.tile t).drn.now.clr.getLsbD 0 = true → (s.newCycle.tile t).drn.rowCnt = 0)
    ∧ (∀ i < 2, (s.tile t).sce.now.clr.getLsbD i = true →
      [(s.newCycle.tile t).sce.busyCnt, (s.newCycle.tile t).sce.waitCnt].getD i 1 = 0)
    ∧ (s.newCycle.tile t).vec.now = .none ∧ (s.newCycle.tile t).vec.sat = (s.tile t).vec.sat
    ∧ (s.alive = true → ∃ z : State, cycleTick s = (List.range 16).foldl (fun y n => scanEnd n true (scanEnd n false y)) z.newCycle)

/-- The counters that a write of each clear register sets to 0, and keeps 0 to the end of its cycle; all its other bits, and all other
state, have no part. PWR_PARK_CNT, cleared while tiles are parked, counts on from the TIME of the write. -/
def Obligations.CounterClearsComplete : Prop :=
  Claims.ClearsOutlastEvents ∧
  (∀ who t v s, t < 16 → Claims.Writable who (.tile t) .yes s →
    exec (.stepCntClr who t v) s = .next ((Claims.came who s).updSt t fun x =>
      { x with
        slipMax := if v.getLsbD 0 then 0 else x.slipMax
        dlCnt := if v.getLsbD 1 then 0 else x.dlCnt
        holdCnt := if v.getLsbD 2 then 0 else x.holdCnt
        seqSlip := if v.getLsbD 3 then 0 else x.seqSlip
        seqInt := if v.getLsbD 3 then 0 else x.seqInt
        now := x.now.zeroed v })
    ∧ exec (.tsCntClr who t v) s = .next ((Claims.came who s).updTs t fun x =>
      { x with
        conflictCnt := if v.getLsbD 0 then 0 else x.conflictCnt
        offAccess := if v.getLsbD 1 then 0 else x.offAccess
        perrCount := if v.getLsbD 2 then 0 else x.perrCount
        now := x.now.zeroed v })
    ∧ exec (.vecCntClr who t v) s = .next ((Claims.came who s).updVec t fun x =>
      { x with switchCnt := if v.getLsbD 0 then 0 else x.switchCnt, now := x.now.zeroed v })
    ∧ exec (.arrCntClr who t v) s = .next ((Claims.came who s).updArr t fun x =>
      { x with
        busyCnt := if v.getLsbD 0 then 0 else x.busyCnt
        waitCnt := if v.getLsbD 1 then 0 else x.waitCnt
        now := x.now.zeroed v })
    ∧ exec (.drnCntClr who t v) s = .next ((Claims.came who s).updDrn t fun x =>
      { x with rowCnt := if v.getLsbD 0 then 0 else x.rowCnt, now := x.now.zeroed v })
    ∧ exec (.sceCntClr who t v) s = .next ((Claims.came who s).updSce t fun x =>
      { x with
        busyCnt := if v.getLsbD 0 then 0 else x.busyCnt
        waitCnt := if v.getLsbD 1 then 0 else x.waitCnt
        now := x.now.zeroed v }))
  ∧ (∀ who v s, Claims.Writable who .hod .yes s →
    exec (.hodCntClr who v) s = .next { Claims.came who s with
      hod := { (Claims.came who s).hod with
        epochRejCnt := if v.getLsbD 0 then 0 else s.hod.epochRejCnt
        rejCnt := if v.getLsbD 1 then 0 else s.hod.rejCnt
        now := s.hod.now.zeroed v } })
  ∧ (∀ who v s, Claims.Writable who .sc .yes s →
    exec (.scCntClr who v) s = .next { Claims.came who s with
      sc := { (Claims.came who s).sc with
        ceCnt := if v.getLsbD 0 then 0 else s.sc.ceCnt
        ueCnt := if v.getLsbD 1 then 0 else s.sc.ueCnt
        now := s.sc.now.zeroed v } })
  ∧ (∀ who c v s, c < 8 → Claims.Writable who (.ddr c) .yes s →
    exec (.ddrCntClr who c v) s = .next ((Claims.came who s).updChan c fun x =>
      { x with
        ceCnt := if v.getLsbD 0 then 0 else x.ceCnt
        ueCnt := if v.getLsbD 1 then 0 else x.ueCnt
        now := x.now.zeroed v }))
  ∧ (∀ who v s, Claims.Writable who .dma .yes s →
    exec (.dmaCntClr who v) s = .next { Claims.came who s with
      dma := { (Claims.came who s).dma with
        dbRejCnt := if v.getLsbD 0 then 0 else s.dma.dbRejCnt
        ownMissCnt := if v.getLsbD 1 then 0 else s.dma.ownMissCnt
        cqFullCnt := if v.getLsbD 2 then 0 else s.dma.cqFullCnt
        now := s.dma.now.zeroed v } })
  ∧ (∀ who v s, Claims.Writable who .bond .yes s →
    exec (.bondCntClr who v) s = .next { Claims.came who s with
      bond := { (Claims.came who s).bond with
        replayCnt := if v.getLsbD 0 then 0 else s.bond.replayCnt
        wbMissCnt := if v.getLsbD 1 then 0 else s.bond.wbMissCnt
        syncExcess := if v.getLsbD 2 then 0 else s.bond.syncExcess
        now := s.bond.now.zeroed v } })
  ∧ (∀ who v s, Claims.Writable who .always .yes s →
    exec (.morCntClr who v) s = .next { Claims.came who s with
      mor := { (Claims.came who s).mor with
        linkWait := if v.getLsbD 0 then 0 else s.mor.linkWait
        jitterCnt := if v.getLsbD 1 then 0 else s.mor.jitterCnt
        dropCnt := if v.getLsbD 2 then 0 else s.mor.dropCnt
        now := s.mor.now.zeroed v } }
    ∧ (∃ h, exec (.devCntClr who v) s = .next { Claims.came who s with host := h }
      ∧ h = { (Claims.came who s).host with
        hbSkipCnt := if v.getLsbD 0 then 0 else s.host.hbSkipCnt
        hostRejCnt := if v.getLsbD 1 then 0 else s.host.hostRejCnt
        bar2OorCnt := if v.getLsbD 2 then 0 else s.host.bar2OorCnt
        now := s.host.now.zeroed (v &&& 7#32) })
    ∧ (∃ h, exec (.resCntClr who v) s = .next { Claims.came who s with host := h }
      ∧ h = { (Claims.came who s).host with
        ackMissCnt := if v.getLsbD 0 then 0 else s.host.ackMissCnt
        now := s.host.now.zeroed ((v &&& 1#32) <<< 8) })
    ∧ exec (.timeCntClr who v) s = .next { Claims.came who s with
      te := { (Claims.came who s).te with
        stepCnt := if v.getLsbD 0 then 0 else s.te.stepCnt
        inCnt := if v.getLsbD 1 then List.replicate 4 0 else s.te.inCnt
        now := s.te.now.zeroed v } }
    ∧ exec (.clkCntClr who v) s = .next { Claims.came who s with
      clk := { (Claims.came who s).clk with
        dvfsFrom := if v.getLsbD 2 = true ∧ (s.clk.dvfs = .park ∨ s.clk.dvfs = .ramp) then s.te.time else s.clk.dvfsFrom
        gatedAccess := if v.getLsbD 0 then 0 else s.clk.gatedAccess
        switchCnt := if v.getLsbD 1 then 0 else s.clk.switchCnt
        parkCnt := if v.getLsbD 2 then 0 else s.clk.parkCnt
        dvfsCnt := if v.getLsbD 3 then 0 else s.clk.dvfsCnt
        now := s.clk.now.zeroed v } }
    ∧ exec (.chainCntClr who v) s = .next { Claims.came who s with
      chain := { (Claims.came who s).chain with
        crcCnt := if v.getLsbD 0 then 0 else s.chain.crcCnt
        dropCnt := if v.getLsbD 1 then 0 else s.chain.dropCnt
        now := s.chain.now.zeroed v } }
    ∧ exec (.calCntClr who v) s = .next { Claims.came who s with
      cal := { (Claims.came who s).cal with
        intrudeCnt := if v.getLsbD 0 then 0 else s.cal.intrudeCnt
        ch := if v.getLsbD 1 then s.cal.ch.map fun x => { x with stealCnt := 0 } else s.cal.ch
        now := s.cal.now.zeroed v } }
    ∧ exec (.devFltCntClr who v) s = .next { Claims.came who s with
      flt := { (Claims.came who s).flt with
        hodCe := if v.getLsbD 0 then 0 else s.flt.hodCe
        morPerr := if v.getLsbD 1 then 0 else s.flt.morPerr
        now := s.flt.now.zeroed v } })

/-! ### Steps -/

/-- The issue register of a priority. -/
def Sys2Proof.Claims.issueOf (x : StepUnit) (u : Bool) : Option IssueReg := if u then x.issueU else x.issueN

/-- Nothing holds a descriptor that was placed in an earlier cycle: no hold of R30, and its tile neither parks nor applies a
commit in this cycle, or did in this one while the descriptor waited (R310, R448). -/
def Sys2Proof.Claims.MayStart (t : Nat) (u : Bool) (s : State) (i : IssueReg) : Prop :=
  s.tileLive t = true ∧ Claims.issueOf (s.tile t).st u = some i ∧ i.placed < s.cycle
    ∧ stepHeld (s.tile t).st u i.desc s.cycle = false ∧ s.parksNow t = false ∧ s.appliesNow t = false
    ∧ (s.tile t).st.checksNext i.placed s.cycle = false

/-- The descriptor has left its issue register, which takes no other in this cycle, and its step, `r`, is in its start
cycle. -/
def Sys2Proof.Claims.stepTaken (t : Nat) (u : Bool) (r : StepRun) (s : State) : State :=
  s.updSt t fun x =>
    if u then { x with issueU := none, gaveU := some s.cycle, runU := some r }
    else { x with issueN := none, gaveN := some s.cycle, runN := some r }

/-- The run of a step that starts, COLD judged. -/
def Sys2Proof.Claims.newRun (t : Nat) (i : IssueReg) (s : State) : StepRun :=
  { startRun i s.cycle with cold := judgeCold i.desc (s.tile t).st.carried }

/-- R28, R30, R37, R112, R196, R259, R315: a step that nothing holds and that passes its first four checks leaves its issue
register, and COLD is judged. Without a command list its vector program, if ENGINE_MASK has one, begins at VEC_ENTRY; with
one the list's scan of n entries begins, to take effect after n cycles when it passes (log entry 95). -/
def Sys2Proof.Claims.StepStartCompletes : Prop :=
  ∀ (t : Nat) (u : Bool) (s : State) (i : IssueReg),
    Claims.MayStart t u s i → checkDesc i.desc (s.tile t).st.epoch = none →
    (dList i.desc = 0 →
      exec (.stepStart t u) s = .next
        (if i.desc.getLsbD 40 then vecStart t u true (dVecEntry i.desc) (Claims.stepTaken t u (Claims.newRun t i s) s)
         else Claims.stepTaken t u (Claims.newRun t i s) s))
    ∧ (∀ n, dList i.desc ≠ 0 → 0 < n → scanList s t listFuel (dList i.desc) false 0 = (.pass, n) →
      exec (.stepStart t u) s = .next
        (Claims.stepTaken t u { Claims.newRun t i s with scan := some (.pass, s.cycle + n) } s))

/-- R28, R29, R33, R315: checks 1 to 4 run in order and the first that fails rejects the step, with the status of that check:
1 for a field, a range count or a bound, 2 for an alias, 3 for an epoch 128 or more behind; SLIP of a rejected step is 0,
and its completion event is latched. -/
def Sys2Proof.Claims.StepRejection : Prop :=
  ∀ (t : Nat) (u : Bool) (s : State) (i : IssueReg) (code : Nat),
    s.tiles.length = 16 → Claims.MayStart t u s i →
    ((checkFields i.desc = false ∨ checkBounds i.desc = false) ∧ code = 1
      ∨ (checkFields i.desc = true ∧ checkBounds i.desc = true ∧ checkAlias i.desc = false) ∧ code = 2
      ∨ (checkFields i.desc = true ∧ checkBounds i.desc = true ∧ checkAlias i.desc = true
          ∧ 128 ≤ (i.desc.extractLsb' 32 8 - (s.tile t).st.epoch).toNat) ∧ code = 3) →
    ∃ z, exec (.stepStart t u) s = .next z
      ∧ Claims.issueOf (z.tile t).st u = none ∧ z.run t u = none
      ∧ (if u then (z.core t).stepStatU else (z.core t).stepStatN).toNat % 256 = code
      ∧ (if u then (z.core t).stepIdU else (z.core t).stepIdN) = i.desc.extractLsb' 0 32
      ∧ (if u then (z.tile t).st.slipU else (z.tile t).st.slipN) = 0
      ∧ (z.core t).evtLatch = setBit (s.core t).evtLatch (if u then 65 else 64) true
      ∧ (z.tile t).vec = (s.tile t).vec ∧ (z.tile t).ts = (s.tile t).ts ∧ (∀ j, j ≠ t → z.tile j = s.tile j)

/-- R28, R196, R259, R315: in its due cycle a scan takes effect: one that passes lets the vector program begin, and one that
finds an empty output or a reflection too wide rejects the step with that check's status. -/
def Sys2Proof.Claims.ScanEnds : Prop :=
  ∀ (t : Nat) (u : Bool) (s : State) (r : StepRun) (due : Nat),
    s.tileLive t = true → s.run t u = some r → due ≤ s.cycle →
    (r.scan = some (.pass, due) →
      scanEnd t u s = (let s1 := s.updRun t u fun r => { r with scan := none }
        if r.desc.getLsbD 40 then vecStart t u true (dVecEntry r.desc) s1 else s1))
    ∧ (∀ code, r.scan = some (.reject code, due) → code = 4 ∨ code = 5 →
      (scanEnd t u s).run t u = none
        ∧ (if u then ((scanEnd t u s).core t).stepStatU else ((scanEnd t u s).core t).stepStatN).toNat % 256 = code
        ∧ (if u then ((scanEnd t u s).tile t).st.slipU else ((scanEnd t u s).tile t).st.slipN) = 0)

/-- STEP_START: a step starts, its list being scanned, or is rejected with its status. -/
def Obligations.StepsStartOrAreRejected : Prop :=
  Claims.StepStartCompletes ∧ Claims.StepRejection ∧ Claims.ScanEnds

/-- A step's report: its status word, its slip registers and its completion event; COLD's bits are set when it is OK. -/
def Sys2Proof.Claims.reported (t : Nat) (u : Bool) (r : StepRun) (code : Nat) (s : State) : State :=
  let dl := decide (s.copyOf t > dDeadline r.desc)
  let e := s.cycle - r.start + 1
  (s.updTile t fun x =>
    { x with
      seq := x.seq.putStatus u code r dl
      st := { x.st.putSlip u e (e - dBudget r.desc) dl r.src with
        runN := if u then x.st.runN else none
        runU := if u then none else x.st.runU
        endedN := if u then x.st.endedN else some (s.cycle, r.desc)
        endedU := if u then some (s.cycle, r.desc) else x.st.endedU
        carried := if code = 0 then setCarried r.desc x.st.carried else x.st.carried } }).latchEvent t (if u then 65 else 64)

/-- R33, R36, R37, R113, R317, R328, R474: a step whose engines have retired everything gets its final status and, when
its writes are copied to no partner, reports it: elapsed cycles, slip over CYCLE_BUDGET, DEADLINE_MISSED judged against
the tile's copy of TIME. -/
def Sys2Proof.Claims.StepRetireAndComplete : Prop :=
  (∀ (t : Nat) (u : Bool) (s : State) (r : StepRun),
    s.tileLive t = true → s.run t u = some r → r.final = none → engDone s t u r = true → newMirror s t u r = none →
    exec (.stepRetire t u) s = .next (s.updRun t u fun r => { r with final := some 0 }))
  ∧ (∀ (t : Nat) (u : Bool) (s : State) (r : StepRun) (m : Mirror),
    s.tileLive t = true → s.run t u = some r → r.final = none → engDone s t u r = true → newMirror s t u r = some m →
    ∃ z, exec (.stepRetire t u) s = .next z
      ∧ z = enterMirror t u { s.updRun t u (fun r => { r with final := some 0 }) with
          bond := { (s.updRun t u (fun r => { r with final := some 0 })).bond with mirrors := s.bond.mirrors ++ [m] } })
  ∧ (∀ (t : Nat) (u : Bool) (s : State) (r : StepRun) (code : BitVec 8),
    s.tileLive t = true → s.run t u = some r → r.final = some code → mirrorOf s t u = none →
    exec (.stepComplete t u) s = .next (Claims.reported t u r code.toNat s))
  ∧ (∀ (t : Nat) (u : Bool) (s : State) (r : StepRun) (code : BitVec 8) (m : Mirror),
    s.tileLive t = true → s.run t u = some r → r.final = some code → mirrorOf s t u = some m → mirrorOn s = true →
    (s.bond.mirrors.filter fun l => l.tile = m.tile && !l.acked && !l.copy).length > m.lag →
    exec (.stepComplete t u) s = .next s)

/-- R327, R328: DEADLINE passed: event 66 is latched once for a step in progress, or for a descriptor still held in its
issue register. -/
def Sys2Proof.Claims.DeadlineCompletes : Prop :=
  (∀ (t : Nat) (u : Bool) (s : State) (r : StepRun),
    s.tileLive t = true → s.run t u = some r → r.dlSet = false → s.copyOf t > dDeadline r.desc →
    exec (.deadlinePass t u false) s = .next ((s.updRun t u fun r => { r with dlSet := true }).latchEvent t 66))
  ∧ (∀ (t : Nat) (u : Bool) (s : State) (i : IssueReg),
    s.tileLive t = true → Claims.issueOf (s.tile t).st u = some i → i.dlSet = false → s.copyOf t > dDeadline i.desc →
    exec (.deadlinePass t u true) s = .next ((s.updSt t fun x =>
      if u then { x with issueU := x.issueU.map fun i => { i with dlSet := true } }
      else { x with issueN := x.issueN.map fun i => { i with dlSet := true } }).latchEvent t 66))
  ∧ (∀ (t : Nat) (u : Bool) (s : State) (r : StepRun), s.run t u = some r → r.dlSet = true →
    exec (.deadlinePass t u false) s = .next s)

/-- A step retires and completes, and deadlines pass. -/
def Obligations.StepsEnd : Prop :=
  Claims.StepRetireAndComplete ∧ Claims.DeadlineCompletes

/-- R31, R51, R53, R55, R237: the list's next entry goes to its engine's queue, behind the commands that engine takes first,
and the list moves on 64 bytes; the end entry ends the list; a command at issue issues and takes its scoreboard entries
when its ranges and those of every lower-numbered engine that issues let it, and else is shown as held. -/
def Obligations.ListAndIssueComplete : Prop :=
  (∀ (t : Nat) (u : Bool) (s : State) (r : StepRun) (e : ListEntry),
    nextEntry s t u = some (r, e) → e.bad = false → e.raw.toNat % 256 = 0 →
    exec (.listEntryPass t u) s = .next (s.updRun t u fun r => { r with listDone := true }))
  ∧ (∀ (t : Nat) (u : Bool) (s : State) (r : StepRun) (e : ListEntry),
    nextEntry s t u = some (r, e) → e.bad = false → 1 ≤ e.raw.toNat % 256 → e.raw.toNat % 256 ≤ 6 →
    r.desc.getLsbD (40 + engOf e.raw) = true →
    exec (.listEntryPass t u) s = .next ((s.updTile t fun x =>
      setEngQ (engOf e.raw) (enqueue x (cmdOf s t u ((r.listAt - dList r.desc) / 64) e.raw) (engQ (engOf e.raw) x)) x).updRun t u
        fun r => { r with listAt := r.listAt + 64 }))
  ∧ (∀ (t e : Nat) (s : State) (c : EngCmd),
    s.tileLive t = true → atIssue s t e = some c → (s.tile t).ts.mayIssue e c.urgent (issueRanges c) = true →
    (lowerIssued s t e).mayIssue e c.urgent (issueRanges c) = true →
    exec (.engineCmdIssue t e) s = .next (((s.updTs t fun ts => ts.issue e c.urgent (issueRanges c)).updQ t e
      (mapFirst (fun c => !c.issued) fun c => { c with issued := true })).updTs t fun ts =>
        if c.urgent then { ts with heldU := setBit ts.heldU e false } else { ts with held := setBit ts.held e false }))
  ∧ (∀ (t e : Nat) (s : State) (c : EngCmd),
    s.tileLive t = true → atIssue s t e = some c → (s.tile t).ts.mayIssue e c.urgent (issueRanges c) = false →
    exec (.engineCmdIssue t e) s = .next (s.updTs t fun ts =>
      if c.urgent then { ts with heldU := setBit ts.heldU e true } else { ts with held := setBit ts.held e true }))

/-! ### Tile store and local RAM from outside -/

/-- R46, R60, R116, R117, R394, R527: the host's narrow accesses of tile store and local RAM, where they are let through: a write is
made unit by unit in ascending address order, a poisoned one is discarded and reported, a read answers the bytes, poisoned when a
word was in error. Of an access of which a course shows a parity error on the mesh nothing is done but its count, and a read answers
poisoned zeros (the model's choice, log entry 108). -/
def Sys2Proof.Claims.HostTileAccessComplete : Prop :=
  (∀ (t a lost : Nat) (bs : List (BitVec 8)) (s : State), t < 16 → a + bs.length ≤ 0x400000 →
    Claims.Writable .host (.tile t) .tileStore s →
    exec (.hostTsWrite t a ⟨bs, false, false⟩ lost) s = .next (tsNarrowWrite t a bs true (lostCycles t lost s.linkUse))
    ∧ exec (.hostTsWrite t a ⟨bs, false, true⟩ lost) s = .next (countMorPerr s.linkUse)
    ∧ (∀ bad, exec (.hostTsWrite t a ⟨bs, true, bad⟩ lost) s = .next (s.toHost (.aer 1))))
  ∧ (∀ (t a n lost : Nat) (s : State), t < 16 → a + n ≤ 0x400000 → s.barOpen = true →
    (s.sec.life = .chrysalis ∨ s.sec.life = .imago) → s.fencedBlk (.tile t) = false → s.gated (.tile t) = false →
    (∃ d ep z, tsNarrowRead t (units8 (n + 1) a (List.replicate n 0)) (lostCycles t lost s) = (d, ep, z)
      ∧ exec (.hostTsRead t a n ⟨lost, false⟩) s = .next (z.toHost (.completion d ep false)))
    ∧ exec (.hostTsRead t a n ⟨lost, true⟩) s = .next ((countMorPerr s).toHost (.completion (List.replicate n 0) true false)))
  ∧ (∀ (t a : Nat) (bs : List (BitVec 8)) (s : State), t < 16 → Claims.Writable .host (.tile t) .yes s →
    (a + bs.length ≤ 0x20000 → exec (.hostLramWrite t false a ⟨bs, false, false⟩) s = .next (s.linkUse.updCore t (lramWrite a bs)))
    ∧ (a + bs.length ≤ 0x8000 →
      exec (.hostLramWrite t true a ⟨bs, false, false⟩) s = .next (s.linkUse.updCore t (lramTagWrite a bs true)))
    ∧ (∀ view, a + bs.length ≤ 0x8000 →
      (∀ bad, exec (.hostLramWrite t view a ⟨bs, true, bad⟩) s = .next (s.toHost (.aer 1)))
      ∧ exec (.hostLramWrite t view a ⟨bs, false, true⟩) s = .next (countMorPerr s.linkUse)))
  ∧ (∀ (t a n : Nat) (tags : Bool) (s : State), t < 16 → a + n ≤ (if tags then 0x8000 else 0x20000) → s.barOpen = true →
    (s.sec.life = .chrysalis ∨ s.sec.life = .imago) → s.fencedBlk (.tile t) = false → s.gated (.tile t) = false →
    exec (.hostLramRead t tags a ⟨n, false⟩) s
      = .next (s.toHost (.completion (lramRead (s.core t) tags a n).1 (lramRead (s.core t) tags a n).2 false))
    ∧ exec (.hostLramRead t tags a ⟨n, true⟩) s = .next ((countMorPerr s).toHost (.completion (List.replicate n 0) true false)))

/-- R64, R65, R68, R70: bank power. Writing TS_BANK_PWR_REQ moves ON to DRAINING and OFF to WAKING by the request bits, a
bank wakes after 2 µs of TIME, and a drained bank that nothing touches goes OFF, its contents and carried-state bits
lost. -/
def Sys2Proof.Claims.BankPowerComplete : Prop :=
  (∀ (who : Who) (t : Nat) (v : BitVec 32) (s : State), t < 16 → Claims.Writable who (.tile t) .no s →
    exec (.bankPwrReqWrite who t v) s = .next ((Claims.came who s).updTs t fun ts =>
      { ts with
        pwrReq := v.setWidth 16
        wakeFrom := ts.wakeFrom.zipIdx.map fun (f, b) =>
          if ts.bankState.getD b .on = .off ∧ v.getLsbD b = true then s.te.time else f
        bankState := ts.bankState.zipIdx.map fun (x, b) =>
          if x = .on ∧ v.getLsbD b = false then .draining
          else if x = .draining ∧ v.getLsbD b = true then .on
          else if x = .off ∧ v.getLsbD b = true then .waking
          else x }))
  ∧ (∀ (t b : Nat) (s : State), t < 16 → s.gatedTile t = false → (s.tile t).ts.bankState.getD b .on = .waking →
    (s.tile t).ts.wakeFrom.getD b 0 + 2000 ≤ s.te.time →
    exec (.bankWakeDone t b) s = .next (s.updTs t fun ts =>
      { ts with bankState := lput ts.bankState b (if ts.pwrReq.getLsbD b then .on else .draining) }))
  ∧ (∀ (t b : Nat) (s : State), s.tileLive t = true → (s.tile t).ts.bankState.getD b .on = .draining →
    bankBusy (s.tile t) b = false →
    exec (.bankDrainDone t b) s = .next (s.updTile t fun x =>
      { x with
        ts := dropBank b { x.ts with bankState := lput x.ts.bankState b .off }
        st := { x.st with carried := sdrop (fun c => decide (courseBank c = b)) x.st.carried } }))
  ∧ (∀ (who : Who) (t : Nat) (v : BitVec 32) (s : State), t < 16 → Claims.Writable who (.tile t) .no s →
    exec (.tsPerrInjArm who t v) s = .next ((Claims.came who s).updTs t fun ts =>
      { ts with perrInj := setFld ts.perrInj 0 21 (v.toNat % 2 ^ 21) }))

/-- Narrow accesses of the host, bank power and parity injection. -/
def Obligations.TileStoreCommandsComplete : Prop :=
  Claims.HostTileAccessComplete ∧ Claims.BankPowerComplete
/-! ### The vector engine -/

/-- The bank that may issue a bundle of tile `t`, its step and its bundle's slot 0: a valid one, of a bundle free of parity
errors; no switch to the urgent bank is due. -/
def Sys2Proof.Claims.MayIssueBundle (t : Nat) (s : State) (r : StepRun) (z : VSlot0) : Prop :=
  let v := (s.tile t).vec
  let b := v.bk v.bank
  s.tiles.length = 16 ∧ s.tileLive t = true ∧ s.run t v.bank = some r ∧ b.run = true ∧ b.ended = false
    ∧ (v.bank = true ∨ v.bankU.run = false) ∧ v.bundleBad b.pc.toNat = false
    ∧ z = VSlot0.ofBits ((v.bundle b.pc.toNat).extractLsb' 192 64) ∧ z.portsOk = true ∧ z.ctlOk b = true

/-- The ranges of the command that a bundle belongs to: those of a SEG's record, which must be free of parity errors and
whose entries the scoreboard must give; else those in force. -/
def Sys2Proof.Claims.BundleRanges (t : Nat) (s : State) (z : VSlot0) (rs : List Range) : Prop :=
  let v := (s.tile t).vec
  if z.ctl = 7 then
    v.bundleBad z.cimm = false ∧ rangeRecord (v.bundle z.cimm) = some rs ∧ (s.tile t).ts.mayIssue 0 v.bank rs = true
  else rs = (v.bk v.bank).ranges

/-- The reads of a bundle meet no parity error. -/
def Sys2Proof.Claims.PortsClean (t : Nat) (s : State) (z : VSlot0) : Prop :=
  let b := (s.tile t).vec.bk (s.tile t).vec.bank
  (z.xen = true → ((s.tile t).ts.readCourse (b.p.getD z.xp 0).toNat).bad = [])
    ∧ (z.yen = true → ((s.tile t).ts.readCourse (b.p.getD z.yp 0).toNat).bad = [])

/-- R165 to R173, R175 to R177, R185: a bundle with a valid slot 0, whose accesses are in range and free of parity errors,
issues and completes its slot 0: its pointers take their increments and SETP, K takes SETK, the next bundle and the loops
follow, a SEG takes its entries and releases the last command's, END ends the program and releases them, the W port writes
its course, and one engine cycle passes. A SEG whose entries the scoreboard does not give is held at issue. -/
def Sys2Proof.Claims.VectorBundleCompletes : Prop :=
  (∀ (t : Nat) (held : Held) (s : State) (r : StepRun) (z : VSlot0) (rs : List Range) (run : VRun),
    let v := (s.tile t).vec
    let u := v.bank
    let b := v.bk u
    Claims.MayIssueBundle t s r z → Claims.BundleRanges t s z rs → Claims.PortsClean t s z → accessOk r rs z b = true →
    run = runSlots v u (v.bundle b.pc.toNat) [(1, 128), (2, 64), (3, 0)] { lfsr := b.lfsr, outs := [], bad := [] } →
    ∃ n, exec (.vecBundleIssue t held) s = .next n
      ∧ ((n.tile t).vec.bk u).p = z.pointers b
      ∧ ((n.tile t).vec.bk u).k = (if z.ctl = 6 then lput b.k (z.cimm / 2 ^ 18) (BitVec.ofNat 16 z.cimm) else b.k)
      ∧ ((n.tile t).vec.bk u).pc = BitVec.ofNat 11 (z.next b).1 ∧ ((n.tile t).vec.bk u).loops = (z.next b).2
      ∧ ((n.tile t).vec.bk u).lfsr = run.lfsr
      ∧ (z.ctl ≠ 4 → ((n.tile t).vec.bk u).run = true ∧ ((n.tile t).vec.bk u).ended = false
          ∧ ((n.tile t).vec.bk u).ranges = rs)
      ∧ (z.ctl = 4 → ((n.tile t).vec.bk u).run = false ∨ ((n.tile t).vec.bk u).ended = true)
      ∧ ((n.tile t).vec.bk (!u)).p = (v.bk (!u)).p ∧ ((n.tile t).vec.bk (!u)).pc = (v.bk (!u)).pc
      ∧ ((n.tile t).vec.bk (!u)).run = (v.bk (!u)).run
      ∧ (n.tile t).vec.cycle = v.cycle + 1 ∧ (n.tile t).vec.seq = v.seq + 1 ∧ (n.tile t).vec.vpram = v.vpram
      ∧ (n.tile t).ts.bytes = (if z.wen then ((s.tile t).ts.writeCourse (b.p.getD z.wp 0).toNat (v.vreg u z.wsrc) false).bytes
          else (s.tile t).ts.bytes)
      ∧ (n.tile t).ts.sb = (if z.ctl = 7 then (((s.tile t).ts.issue 0 u rs).retire 0 u b.ranges).sb
          else if z.ctl = 4 then ((s.tile t).ts.retire 0 u b.ranges).sb else (s.tile t).ts.sb)
      ∧ (n.tile t).arr.acc = (s.tile t).arr.acc ∧ (n.tile t).st.carried = (s.tile t).st.carried
      ∧ (∀ j, j ≠ t → n.tile j = s.tile j) ∧ n.ddr = s.ddr ∧ n.dma = s.dma)
  ∧ (∀ (t : Nat) (held : Held) (s : State) (r : StepRun) (z : VSlot0) (rs : List Range),
    Claims.MayIssueBundle t s r z → z.ctl = 7 → (s.tile t).vec.bundleBad z.cimm = false →
    rangeRecord ((s.tile t).vec.bundle z.cimm) = some rs → (s.tile t).ts.mayIssue 0 (s.tile t).vec.bank rs = false →
    exec (.vecBundleIssue t held) s = .next (s.updTs t fun ts =>
      if (s.tile t).vec.bank then { ts with heldU := setBit ts.heldU 0 true } else { ts with held := setBit ts.held 0 true }))

/-- R171, R177, R192 to R195: in a cycle without an issue the results that are due land, but those of the
normal bank no more once an urgent program has started; the switch to the urgent bank
latches the normal bank's results with their distances, and the switch back sets them in flight again. R164, R394: the host
writes program RAM; a poisoned write is discarded and reported, one with a parity error on the mesh discarded and counted (R527). -/
def Sys2Proof.Claims.VectorCyclesAndSwitch : Prop :=
  (∀ (t : Nat) (s : State), s.tileLive t = true → ((s.tile t).vec.bk (s.tile t).vec.bank).run = true →
    (((s.tile t).vec.bk (s.tile t).vec.bank).ended = true ∨ ((s.tile t).ts.heldOf (s.tile t).vec.bank).getLsbD 0 = true) →
    ((s.tile t).vec.bank = true ∨ (s.tile t).vec.bankU.run = false) → s.tiles.length = 16 →
    ∃ z, exec (.vecResultLand t) s = .next z
      ∧ (z.tile t).vec.cycle = (s.tile t).vec.cycle + 1
      ∧ (z.tile t).vec.flight = (s.tile t).vec.flight.filter (fun r => !decide (r.due ≤ (s.tile t).vec.cycle))
      ∧ (z.tile t).ts = (s.tile t).ts)
  ∧ (∀ (t : Nat) (s : State) (r : VecResult), s.tileLive t = true → s.tiles.length = 16 →
    ((s.tile t).vec.bk (s.tile t).vec.bank).run = true → ((s.tile t).ts.heldOf (s.tile t).vec.bank).getLsbD 0 = true →
    ((s.tile t).vec.bank = true ∨ (s.tile t).vec.bankU.run = false) →
    r ∈ (s.tile t).vec.flight → r.due ≤ (s.tile t).vec.cycle → r.acc = false → r.dst < 24 → (s.tile t).vec.v.length = 24 →
    (∀ x ∈ (s.tile t).vec.flight, x.acc = false → x.dst = r.dst → x.due ≤ (s.tile t).vec.cycle → x = r) →
    ((s.tile t).vec.flight.filter (· = r)).length = 1 →
    ∃ z, exec (.vecResultLand t) s = .next z
      ∧ (z.tile t).vec.v.getD r.dst 0 = blend (r.mask.setWidth 1024) (r.val.setWidth 1024) ((s.tile t).vec.v.getD r.dst 0))
  ∧ (∀ (t : Nat) (s : State), s.tileLive t = true → (s.tile t).vec.bank = false → (s.tile t).vec.bankU.run = true →
    (s.tile t).vec.bankN.run = true →
    exec (.vecSwitchIn t) s = .next ((s.updVec t fun v =>
      { v with
        latches := v.flight.map fun r => { r with due := r.due - (v.cycle - 1) }
        flight := [], bank := true, preempted := true, switchCnt := satAdd32 v.switchCnt 1 }).updTs t fun ts =>
          { ts with held := setBit ts.held 0 false }))
  ∧ (∀ (t : Nat) (s : State), (s.tile t).vec.bank = false → (s.tile t).vec.bankU.run = true →
    exec (.vecResultLand t) s = .next s)
  ∧ (∀ (t : Nat) (s : State), s.tileLive t = true → (s.tile t).vec.bank = true → (s.tile t).vec.preempted = true →
    (s.tile t).vec.bankU.run = false →
    exec (.vecSwitchOut t) s = .next (s.updVec t fun v =>
      { v with
        flight := v.flight ++ v.latches.map fun r => { r with due := v.cycle + r.due - 1 }
        latches := [], bank := false, preempted := false }))
  ∧ (∀ (t a : Nat) (bs : List (BitVec 8)) (s : State), t < 16 → a + bs.length ≤ 0x10000 →
    Claims.Writable .host (.tile t) .yes s →
    exec (.hostVpramWrite t a ⟨bs, false, false⟩) s = .next (s.linkUse.updVec t (vpramPut a bs))
    ∧ exec (.hostVpramWrite t a ⟨bs, false, true⟩) s = .next (countMorPerr s.linkUse)
    ∧ (∀ bad, exec (.hostVpramWrite t a ⟨bs, true, bad⟩) s = .next (s.toHost (.aer 1))))

/-- A bundle of the vector engine, its cycles, the switch to and from an urgent step, and VPRAM. -/
def Obligations.VectorUnitCompletes : Prop :=
  Claims.VectorBundleCompletes ∧ Claims.VectorCyclesAndSwitch

/-! ### The matrix array, the drain, the small-channel engine -/

/-- R237 to R239, R249, R250, R263, R267, R276, R278: a command of an engine that passes the checks of its entry and stands
with the entries it must stand with goes to issue, a WINDOW into its array command; one that fails, of any engine, is recorded
with its cause, a DRAIN to a target that refuses its format in HOD_ERR as well, and ends its step with STEP_RANGE. That an entry
with several faults reports the cause of the lowest number is the model's choice (log entry 31). -/
def Obligations.EngineCommandsComplete : Prop :=
  (∀ (t : Nat) (s : State) (c : EngCmd) (d : BitVec 512), s.tileLive t = true → toCheck s t 1 = some c →
    c.raw.toNat % 256 = 1 → aOp c.raw ≠ 1 → followingDrain s t c = some d → arrCause c.raw (d.getLsbD 17) = none →
    exec (.matmulCmd t) s = .next (passCheck t 1 s))
  ∧ (∀ (t : Nat) (s : State) (c : EngCmd), s.tileLive t = true → toCheck s t 1 = some c →
    c.raw.toNat % 256 = 1 → aOp c.raw = 1 → arrCause c.raw false = none →
    exec (.sumwCmd t) s = .next (passCheck t 1 s))
  ∧ (∀ (t : Nat) (s : State) (c : EngCmd), s.tileLive t = true → toCheck s t 1 = some c →
    c.raw.toNat % 256 = 3 → winCause c.raw (entryAt s t c.urgent (c.index + 1)) = none →
    exec (.windowCmd t) s = .next (s.updTile t fun x =>
      { x with arr := { x.arr with queue := x.arr.queue.filter fun d => !(d.urgent == c.urgent && d.index == c.index) } }))
  ∧ (∀ (t : Nat) (s : State) (c : EngCmd) (r : StepRun), s.tileLive t = true → toCheck s t 3 = some c →
    s.run t c.urgent = some r → drnCause c (r.desc.getLsbD 44) = none →
    (dnHod c.raw = true → hodOpOk (dnFmt c.raw) (s.tgt (dnTgt c.raw)).op = true) →
    exec (.drainCmd t) s = .next (passCheck t 3 s))
  ∧ (∀ (t : Nat) (s : State) (c : EngCmd), s.tileLive t = true → toCheck s t 2 = some c →
    sceCause c.raw (entryAt s t c.urgent (c.index + 1)) = none →
    exec (.sceCmd t) s = .next (passCheck t 2 s))
  ∧ (∀ (t : Nat) (s : State) (c : EngCmd) (k : Nat), s.tileLive t = true → toCheck s t 1 = some c →
    c.raw.toNat % 256 = 1 → aOp c.raw = 1 → arrCause c.raw false = some k →
    exec (.sumwCmd t) s = .next (endStep t c.urgent 1 (arrErr t k 0 c.index s)))
  ∧ (∀ (t : Nat) (s : State) (c : EngCmd) (d : BitVec 512) (k : Nat), s.tileLive t = true → toCheck s t 1 = some c →
    c.raw.toNat % 256 = 1 → aOp c.raw ≠ 1 → followingDrain s t c = some d → arrCause c.raw (d.getLsbD 17) = some k →
    exec (.matmulCmd t) s = .next (endStep t c.urgent 1 (arrErr t k 0 c.index s)))
  ∧ (∀ (t : Nat) (s : State) (c : EngCmd), s.tileLive t = true → toCheck s t 1 = some c →
    c.raw.toNat % 256 = 1 → aOp c.raw ≠ 1 → followingDrain s t c = none →
    exec (.matmulCmd t) s = .next (endStep t c.urgent 1 (arrErr t ((arrCause c.raw false).getD 6) 0 c.index s)))
  ∧ (∀ (t : Nat) (s : State) (c : EngCmd) (k : Nat), s.tileLive t = true → toCheck s t 1 = some c →
    c.raw.toNat % 256 = 3 → winCause c.raw (entryAt s t c.urgent (c.index + 1)) = some k →
    exec (.windowCmd t) s = .next (endStep t c.urgent 1 (arrErr t k 0 c.index s)))
  ∧ (∀ (t : Nat) (s : State) (c : EngCmd) (r : StepRun) (k : Nat), s.tileLive t = true → toCheck s t 3 = some c →
    s.run t c.urgent = some r → drnCause c (r.desc.getLsbD 44) = some k →
    exec (.drainCmd t) s = .next (endStep t c.urgent 1 (arrErr t k 1 c.index s)))
  ∧ (∀ (t : Nat) (s : State) (c : EngCmd) (r : StepRun), s.tileLive t = true → toCheck s t 3 = some c →
    s.run t c.urgent = some r → drnCause c (r.desc.getLsbD 44) = none →
    dnHod c.raw = true → hodOpOk (dnFmt c.raw) (s.tgt (dnTgt c.raw)).op = false →
    exec (.drainCmd t) s = .next (endStep t c.urgent 1 (hodErr t 5 c.index (arrErr t 8 1 c.index s))))
  ∧ (∀ (t : Nat) (s : State) (c : EngCmd) (k : Nat), s.tileLive t = true → toCheck s t 2 = some c →
    sceCause c.raw (entryAt s t c.urgent (c.index + 1)) = some k →
    exec (.sceCmd t) s = .next (endStep t c.urgent 1 (sceErr t k c.index s)))

/-- R54, R225 to R232, R234, R240 to R242, R250, R265, R269, R272: the array at work on the command at its turn: one weight row loads,
from its stream or from tile store, and the side port's entry retires with its last read; a scale block with the tag due is written; a
window-buffer pixel is read, and its entry retires with the last; one vector streams and its column sums are on their way; sums land in
the accumulators. -/
def Obligations.ArrayWorkCompletes : Prop :=
  (∀ (t : Nat) (held : Held) (s : State) (c : EngCmd) (x : StreamCourse) (d : BitVec 1024) (b : ArrayEng),
    arrTurn s t = some c → c.begun = true → (s.tile t).arr.shadowFull = false →
    (s.tile t).arr.loadBlock < (if aOp c.raw = 1 then 1 else aBlocks c.raw) → scalesReady c (s.tile t).arr = true →
    aStat c.raw = false → takeRow c.raw (isDiag c.win) ((s.tile t).arr.loadRow + 1 = blockRows c) (s.tile t).arr = some (x, d, b) →
    x.poison = false →
    exec (.weightRowLoad t held) s = .next (afterRow t c (sliceCodes (aMode c.raw) (codeBits c.raw (aSCode c.raw)) d)
      ((charge t c.urgent false held s).updArr t fun a => { a with wbuf := b.wbuf, wbufAt := b.wbufAt, wbufFreed := b.wbufFreed })))
  ∧ (∀ (t : Nat) (held : Held) (s s2 : State) (c : EngCmd) (d : BitVec 1024),
    arrTurn s t = some c → c.begun = true → (s.tile t).arr.shadowFull = false →
    (s.tile t).arr.loadBlock < (if aOp c.raw = 1 then 1 else aBlocks c.raw) → aStat c.raw = true → aSKind c.raw ≠ 0 →
    s.tiles.length = 16 →
    rowK c.raw (s.tile t).arr.loadSlice (s.tile t).arr.loadRow < aK c.raw →
    engRead t c.urgent 1
      ((fld c.raw 192 15 + rowK c.raw (s.tile t).arr.loadSlice (s.tile t).arr.loadRow * fld c.raw 208 16) % 32768)
      (charge t c.urgent false held s) = .ok (d, s2) →
    exec (.weightRowLoad t held) s = .next (afterRow t c (sliceCodes (aMode c.raw) (codeBits c.raw (aSCode c.raw))
      (if aMode c.raw = 3 then d else d >>> (512 * aBoff c.raw)))
      (if rowK c.raw (s.tile t).arr.loadSlice (s.tile t).arr.loadRow + 1 = aK c.raw ∧ (s.tile t).arr.loadBlock + 1 = aBlocks c.raw
          ∧ aXKind c.raw ≠ 0 then retireRanges t 1 c.urgent (sideRange c) s2 else s2)))
  ∧ (∀ (t : Nat) (s : State) (c : EngCmd) (h : StreamCourse) (data : List StreamCourse),
    arrTurn s t = some c → c.begun = true → aOp c.raw ≠ 1 → aStat c.raw = false → (s.tile t).arr.loadBlock < aBlocks c.raw →
    streamHead (s.tile t).arr.sbuf 1 (aSs c.raw) = [h] → h.poison = false →
    h.data.toNat / 2 ^ 16 % 2 ^ 8 = 0 → 1 ≤ data.length → data.length ≤ 7 → h.data.toNat / 2 ^ 24 % 2 ^ 8 = data.length →
    (streamHead (s.tile t).arr.sbuf (data.length + 1) (aSs c.raw)).drop 1 = data → data.any (·.poison) = false →
    blockDue c.raw (s.tile t).arr 0 = true → h.data.extractLsb' 0 16 = (s.tile t).arr.groupCnt →
    ((List.range data.length).any fun i =>
      groupPending c (s.tile t).arr ((h.data.extractLsb' 0 16 - aTag0 c.raw).toNat + i)) = false →
    exec (.scaleBlockArrive t) s = .next (s.updArr t fun a =>
      { a with
        sbuf := dropStream (aSs c.raw) (data.length + 1) a.sbuf
        scales := data.zipIdx.foldl (fun m (x, i) =>
          putScales (((h.data.extractLsb' 0 16 - aTag0 c.raw).toNat + i) % 128) x.data m) a.scales
        groups := a.groups ++ [((h.data.extractLsb' 0 16 - aTag0 c.raw).toNat, data.length)]
        groupCnt := a.groupCnt + BitVec.ofNat 16 data.length }))
  ∧ (∀ (t : Nat) (held : Held) (s s2 : State) (c : EngCmd) (w : BitVec 512) (p : Nat × Nat) (d : BitVec 1024) (lastPixel : Bool),
    (lastPixel = true ↔ (footprint c.raw (Geom.ofEntry w) (s.tile t).arr.block).length ≤ (s.tile t).arr.footAt + 1
      ∧ ∀ k, (s.tile t).arr.block < k → k < aBlocks c.raw → footprint c.raw (Geom.ofEntry w) k = []) →
    arrTurn s t = some c → c.begun = true → c.win = some w → wMap w = 2 → (s.tile t).arr.footDone = false →
    (s.tile t).arr.block < aBlocks c.raw →
    (footprint c.raw (Geom.ofEntry w) (s.tile t).arr.block)[(s.tile t).arr.footAt]? = some p →
    inRanges ((cmdRanges w).take 1) ((Geom.ofEntry w).course p) false = true →
    engRead t c.urgent 1 ((Geom.ofEntry w).course p) (charge t c.urgent false held s) = .ok (d, s2) →
    exec (.diag8LoadPhase t held) s = .next ((if lastPixel then retireRanges t 1 c.urgent (streamRange c) s2 else s2).updArr t fun a =>
      { a with
        winBuf := sset (fun _ => 0) a.winBuf a.footAt (d.setWidth 512)
        footAt := a.footAt + 1
        footDone := decide (a.footAt + 1 = (footprint c.raw (Geom.ofEntry w) (s.tile t).arr.block).length) }))
  ∧ (∀ (t : Nat) (held : Held) (bad : Bool) (s s1 s2 : State) (c : EngCmd) (codes : List Nat) (ops : List (Nat × BitVec 16 × Bool)),
    arrTurn s t = some c → aOp c.raw ≠ 1 → c.begun = true → (s.tile t).arr.block < aBlocks c.raw → c.win = none →
    ((s.tile t).arr.active = true ∨ (s.tile t).arr.shadowFull = true) →
    (firstOfBank c (s.tile t).arr = true → bankFree (s.tile t).arr (bankOf c (s.tile t).arr) = true) →
    s1 = (charge t c.urgent false held s).updArr t (swapIn c) → aXKind c.raw ≠ 0 →
    readVector t c s1 = .ok (codes, s2) →
    ops = ((codes.zipIdx.filter fun p => decide (kOf c.raw (s1.tile t).arr.slice p.2 < aK c.raw)).map fun p =>
      (p.2, operand c.raw (aXCode c.raw) (aXFmt c.raw) (xScale c.raw (s2.tile t).arr p.2) p.1)) →
    exec (.arrayVectorStream t held bad) s = .next ((pushVector t c
      ((List.range 64).map fun col => columnSum c.raw (s2.tile t).arr.cells (ops.map fun p => (p.1, p.2.1)) (takesPart none) col)
      s2).markScaleSat t c.urgent (ops.any fun p => p.2.2)))
  ∧ (∀ (t : Nat) (s : State) (l : Landing) (rest : List Landing), s.tileLive t = true → s.tiles.length = 16 →
    (s.tile t).arr.landing = l :: rest →
    ∃ z, exec (.accLand t) s = .next z
      ∧ (z.tile t).arr.landing = rest
      ∧ (z.tile t).arr.acc = sset (fun _ => 0) (s.tile t).arr.acc (64 * l.bank + l.row)
          (BitVec.ofNat 2048 (packLanes 32 ((List.range 64).map fun c =>
            f32Out (if l.first then (l.sums.getD c (.fin 0 0)).toFV
              else (f32In (((sget (fun _ => (0 : BitVec 2048)) (s.tile t).arr.acc (64 * l.bank + l.row)).toNat >>> (32 * c)) % 2 ^ 32)).add
                (l.sums.getD c (.fin 0 0)).toFV))))
      ∧ (z.tile t).arr.bankRows = upd (s.tile t).arr.bankRows l.bank (max (l.row + 1))
      ∧ (z.tile t).arr.bankDone = (if l.last then lput (s.tile t).arr.bankDone l.bank true else (s.tile t).arr.bankDone)
      ∧ (z.tile t).ts = (s.tile t).ts ∧ (z.tile t).vec = (s.tile t).vec ∧ (∀ j, j ≠ t → z.tile j = s.tile j))

/-- R242, R245 to R248, R251, R273, R277 to R280, R299: the drain reads one accumulator row through its stages, and writes
one converted course; the small-channel engine loads one course, takes one tap of a pixel, and lands a pixel's results. -/
def Obligations.DrainAndSmallChannelComplete : Prop :=
  (∀ (t : Nat) (held : Held) (s s1 s2 : State) (c : EngCmd) (p : BitVec 512) (q : Nat × Nat × Nat) (corr : Option (List Nat)),
    s.tileLive t = true → engHead s t 3 = some c → c.pair = some p → q = drainPlace p c.pairWin (s.tile t).drn.row →
    (s.tile t).drn.row + 1 < drainRows p c.pairWin →
    (if p.toNat % 256 = 4 then (s.tile t).sce.bankDone else (s.tile t).arr.bankDone).getD (placeBank c.pairWin q) false = true →
    withParams t c (beginCmd t 3 (charge t c.urgent (decide (p.toNat % 256 = 4)) held s)) = .ok s1 →
    corrOf t c p q.2.2 (64 * placeBank c.pairWin q + q.2.2 % 64) s1 = .ok (corr, s2) →
    exec (.drainRowRead t held) s = .next (rowsDone t c (s.tile t).drn.row (drainRows p c.pairWin) ((bankRead t (placeBank c.pairWin q) (decide (p.toNat % 256 = 4))
      (drainOut t c q.2.1 q.2.2
        (rowStages c q.2.1 (s2.tile t).drn.params corr
          (sget (fun _ => 0) (if p.toNat % 256 = 4 then (s2.tile t).sce.res else (s2.tile t).arr.acc)
            (64 * placeBank c.pairWin q + q.2.2 % 64))) false s2)).updDrn t fun d =>
              { d with row := d.row + 1, rowCnt := satAdd32 d.rowCnt 1 })))
  ∧ (∀ (t : Nat) (held : Held) (s s1 : State) (c : EngCmd) (p : BitVec 512) (w : DrainWrite) (rest : List DrainWrite) (r : StepRun),
    s.tileLive t = true → engHead s t 3 = some c → c.pair = some p → (s.tile t).drn.out = w :: rest →
    s.run t c.urgent = some r → dnHod c.raw = false →
    (if w.size = 128 then engWrite t c.urgent w.course w.data (charge t c.urgent false held s)
      else engPiece t c.urgent w (charge t c.urgent false held s)) = .ok s1 →
    exec (.drainCourseWrite t held) s = .next (drainEnd t c p (s1.updDrn t fun d => { d with out := rest })))
  ∧ (∀ (t : Nat) (held : Held) (s : State) (c : EngCmd) (p : BitVec 512) (w : DrainWrite) (rest : List DrainWrite) (r : StepRun),
    s.tileLive t = true → engHead s t 3 = some c → c.pair = some p → (s.tile t).drn.out = w :: rest →
    s.run t c.urgent = some r → dnHod c.raw = true → (s.tile t).hp.buf.length < 8 →
    exec (.drainCourseWrite t held) s = .next (drainEnd t c p ((pushHod t
      (hodCourseOf t c.urgent r (dnTgt c.raw) w.course w.data) (charge t c.urgent false held s)).updDrn t fun d => { d with out := rest })))
  ∧ (∀ (t : Nat) (held : Held) (s s1 : State) (c : EngCmd) (d : BitVec 1024),
    sceTurn s t = some c → c.begun = true → (s.tile t).sce.loadAt < scCourses c.raw →
    engRead t c.urgent 2 ((scWStart c.raw + (s.tile t).sce.loadAt) % 32768) (charge t c.urgent true held s) = .ok (d, s1) →
    (s.tile t).sce.loadAt + 1 < scLoads c.raw →
    exec (.sceLoadPhase t held) s = .next (s1.updSce t fun x =>
      { x with weights := sset (fun _ => 0) x.weights (s.tile t).sce.loadAt d, loadAt := (s.tile t).sce.loadAt + 1 }))
  ∧ (∀ (t : Nat) (held : Held) (s s1 : State) (c : EngCmd) (p : Nat × Nat) (d : BitVec 1024),
    sceTurn s t = some c → c.begun = true → scLoads c.raw ≤ (s.tile t).sce.loadAt → (s.tile t).sce.pixel < scPixels c.raw →
    0 < (s.tile t).sce.tap → (s.tile t).sce.tap + 1 < (Geom.ofEntry c.raw).taps →
    (Geom.ofEntry c.raw).pixel ((s.tile t).sce.pixel / (Geom.ofEntry c.raw).ow.toNat)
      ((s.tile t).sce.pixel % (Geom.ofEntry c.raw).ow.toNat) (s.tile t).sce.tap = some p →
    engRead t c.urgent 2 ((Geom.ofEntry c.raw).course p) (charge t c.urgent true held s) = .ok (d, s1) →
    exec (.sceStreamTap t held false) s = .next (s1.updSce t fun y =>
      { y with
        sums := scAdd c.raw (s.tile t).sce.weights (s.tile t).sce.tap d (s.tile t).sce.sums
        tap := (s.tile t).sce.tap + 1 }))
  ∧ (∀ (t : Nat) (s : State) (c : EngCmd) (p : Nat) (row : BitVec 2048) (rest : List (Nat × BitVec 2048)),
    (s.tile t).sce.landing = (p, row) :: rest → sceTurn s t = some c → p + 1 ≠ scPixels c.raw →
    exec (.sceResultLand t) s = .next (s.updSce t fun y =>
      { y with
        res := sset (fun _ => 0) y.res (64 * (p / 64 % 2) + p % 64) row
        landing := rest
        bankRows := upd y.bankRows (p / 64 % 2) (max (p % 64 + 1))
        bankDone := if p % 64 = 63 then lput y.bankDone (p / 64 % 2) true else y.bankDone }))
/-! ### The mortar, events and modes -/

/-- R285, R288 to R292, R376, R527: an issued MSEND reads its next source course and sends it to its destination, numbered by
its place; a course that has passed its routers (log entry 93 says how the model takes their turns) arrives, is written where its tile is
neither fenced nor gated, is dropped and counted at a fenced one, is counted and not written with a parity error, and is acknowledged in
every case; the last acknowledgement of a command retires it and pulses its line, a failed one ends the run, and one of another run only
counts (the model's choice, log entry 36). A whole course of the DMA engine that arrives is written into its live tile, or, with a parity
error, is counted and discarded, its element ending with cause 5 (the model's choice, log entry 108). -/
def Sys2Proof.Claims.MortarSendComplete : Prop :=
  (∀ (t : Nat) (held : Held) (s s1 : State) (c : EngCmd) (r : StepRun) (d : BitVec 1024), s.tileLive t = true → s.tiles.length = 16 →
    msendTurn s t = some c → s.run t c.urgent = some r →
    engRead t c.urgent 5 (((cmdRange c.raw 0x28).start + (s.tile t).ms.at_) % 32768) (charge t c.urgent false held s) = .ok (d, s1) →
    ∃ z, exec (.msend t held) s = .next z
      ∧ z.freeCnt = s1.freeCnt + 1
      ∧ z.mor.flight = s1.mor.flight ++ [{
          src := t, urgent := c.urgent, start := r.start, dst := c.raw.toNat / 2 ^ 8 % 2 ^ 4
          course := (c.raw.toNat / 2 ^ 32 % 2 ^ 15 + (s.tile t).ms.at_) % 32768, data := d, rerun := r.runs, index := c.index
          last := decide ((s.tile t).ms.at_ + 1 = (cmdRange c.raw 0x28).length)
          evt := if c.raw.getLsbD 18 then some (c.raw.toNat / 2 ^ 12 % 2 ^ 6) else none, failed := false
          mesh := .enter portTile t (c.raw.toNat / 2 ^ 8 % 2 ^ 4) s1.cycle (Config.freeValue 1 s1.freeCnt).toNat }]
      ∧ (z.tile t).ms.at_ = (if (s.tile t).ms.at_ + 1 = (cmdRange c.raw 0x28).length then 0 else (s.tile t).ms.at_ + 1)
      ∧ (∀ j, (z.tile j).ts.bytes = (s1.tile j).ts.bytes) ∧ z.hod = s1.hod)
  ∧ (∀ (i : Nat) (met : Transit) (s : State) (m : MortarCourse), msendHere s i met.jitter = some m → s.tiles.length = 16 →
    m.dst < 16 → s.tileLive m.dst = true →
    ∃ z, exec (.mortarCourseArrive (.msend i) met false) s = .next z
      ∧ z.mor.flight = s.mor.flight.eraseIdx i ∧ z.mor.acks = s.mor.acks ++ [{ m with failed := false }]
      ∧ (z.tile m.dst).ts.bytes = ((s.tile m.dst).ts.writeCourse m.course m.data false).bytes
      ∧ (∀ j, j ≠ m.dst → (z.tile j).ts.bytes = (s.tile j).ts.bytes))
  ∧ (∀ (i : Nat) (met : Transit) (s : State) (m : MortarCourse), msendHere s i met.jitter = some m →
    m.dst < 16 → s.tileLive m.dst = true →
    ∃ z, exec (.mortarCourseArrive (.msend i) met true) s = .next z
      ∧ z.mor.flight = s.mor.flight.eraseIdx i ∧ z.mor.acks = s.mor.acks ++ [{ m with failed := true }]
      ∧ z.flt.morPerr = satAdd32 s.flt.morPerr 1 ∧ (∀ j, (z.tile j).ts.bytes = (s.tile j).ts.bytes))
  ∧ (∀ (i : Nat) (met : Transit) (bad : Bool) (s : State) (m : MortarCourse), msendHere s i met.jitter = some m →
    s.fencedTile m.dst = true →
    ∃ z, exec (.mortarCourseArrive (.msend i) met bad) s = .next z
      ∧ z.mor.acks = s.mor.acks ++ [{ m with failed := false }] ∧ z.mor.dropCnt = satAdd32 s.mor.dropCnt 1
      ∧ (∀ j, (z.tile j).ts.bytes = (s.tile j).ts.bytes))
  ∧ (∀ (i : Nat) (met : Transit) (s : State) (m : DmaPut) (w : DmaWork), putHere s i met.jitter = some m →
    s.tileLive m.tile = true → (s.dma.chan m.ch).work = some w →
    ∃ z s1, exec (.mortarCourseArrive (.dma i) met true) s = .next z
      ∧ z = keepWork m.ch
          (let w1 := w.landed 5 m.pos (if (xFifo w.desc).isSome then 0 else m.byte) m.n 0
           if s1.dma.landed m.ch then w1.step else w1) s1
      ∧ s1.dma.flight = s.dma.flight.eraseIdx i ∧ s1.flt.morPerr = satAdd32 s.flt.morPerr 1 ∧ (∀ j, (s1.tile j).ts.bytes = (s.tile j).ts.bytes))
  ∧ (∀ (i : Nat) (met : Transit) (s : State) (m : DmaPut), putHere s i met.jitter = some m →
    s.tiles.length = 16 → m.tile < 16 → s.tileLive m.tile = true → m.data.length = 128 →
    ∃ z, exec (.mortarCourseArrive (.dma i) met false) s = .next z
      ∧ z.dma.flight = s.dma.flight.eraseIdx i
      ∧ (z.tile m.tile).ts.bytes = ((s.tile m.tile).ts.writeCourse (m.byte / 128) (BitVec.ofNat 1024 (packBytes m.data)) true).bytes
      ∧ (∀ j, j ≠ m.tile → (z.tile j).ts.bytes = (s.tile j).ts.bytes))
  ∧ (∀ (i jitter : Nat) (s : State) (m : MortarCourse) (c : EngCmd), mayPass s.mor.acks i samePath = some m →
    ownRun s m.src m.urgent m.start m.rerun = true → m.failed = false → m.last = true →
    (s.tile m.src).ms.queue.find? (fun c => c.read && c.urgent == m.urgent && decide (c.index = m.index)) = some c →
    exec (.msendAck i jitter) s = .next
      (let z := retireRanges m.src 5 m.urgent (issueRanges c)
        ((chargeSender m.src m.urgent m.start (min 2 jitter) 0 { s with mor := { s.mor with acks := s.mor.acks.eraseIdx i } }).updQ m.src 5
          (dropFirst fun c => c.read && c.urgent == m.urgent && decide (c.index = m.index)))
       match m.evt with
       | some k => z.pulse (setBit 0 k true)
       | none => z))
  ∧ (∀ (i jitter : Nat) (s : State) (m : MortarCourse), mayPass s.mor.acks i samePath = some m →
    (ownRun s m.src m.urgent m.start m.rerun = false ∨ m.failed = false ∧ m.last = false) →
    exec (.msendAck i jitter) s = .next
      (chargeSender m.src m.urgent m.start (min 2 jitter) 0 { s with mor := { s.mor with acks := s.mor.acks.eraseIdx i } }))
  ∧ (∀ (i jitter : Nat) (s : State) (m : MortarCourse), mayPass s.mor.acks i samePath = some m →
    ownRun s m.src m.urgent m.start m.rerun = true → m.failed = true →
    exec (.msendAck i jitter) s = .next (stepFault m.src m.urgent 6
      (chargeSender m.src m.urgent m.start (min 2 jitter) 0 { s with mor := { s.mor with acks := s.mor.acks.eraseIdx i } })))

/-- R293, R424, R427, R453: in a device that runs, the pulse that reached the hub first reaches every tile that is neither fenced nor
gated (a device that does not run latches nothing, R559): its event latches take the lines, its interrupt controller's sources 32 to 63
take lines 0 to 31; other tiles keep theirs, and each gated, unfenced one counts a gated access. The EVT_OUT pins take the lines if they
had not yet. -/
def Obligations.EventLatchCompletes : Prop :=
  (∀ (s : State) (k : Nat) (lines : BitVec 64) (rest : List (Nat × BitVec 64)), s.te.pulses = (k, lines) :: rest → s.tiles.length = 16 →
    s.alive = true →
    ∃ z, exec .evtLatch s = .next z
      ∧ z.te = (if s.cycle < k then { s.te with pulses := rest, out := s.te.out.map fun p => p.hear lines }
          else { s.te with pulses := rest })
      ∧ (∀ t, s.tileLive t = true →
        (z.tile t).seq = { (s.tile t).seq with evtLatch := (s.tile t).seq.evtLatch ||| lines.setWidth 128 }
        ∧ (z.tile t).ic.pend = (s.tile t).ic.pend ||| (lines <<< 32) ∧ (z.tile t).ic.mask = (s.tile t).ic.mask
        ∧ (z.tile t).ts = (s.tile t).ts ∧ (z.tile t).st = (s.tile t).st)
      ∧ (∀ t, s.tileLive t = false → z.tile t = s.tile t)
      ∧ z.clk.gatedAccess = ((List.range 16).filter fun t => !s.fencedTile t && s.gatedTile t).foldl (fun n _ => satAdd32 n 1) s.clk.gatedAccess
      ∧ z.hod = s.hod ∧ z.ddr = s.ddr ∧ z.quoin = s.quoin)
  ∧ (∀ (s : State), s.alive = false → exec .evtLatch s = .next s)

/-- R309 to R312, R427, R428: committing a mode epoch: accepted when no commit is in progress and the epoch is 1 to 127 ahead, and over at
once when every tile is fenced; else refused, device source 82 set when REFUSED becomes 1. Delivery, once every tile has seen an earlier
MIXED cleared, shows MIXED to the unfenced tiles; a tile that holds no step in the cycle applies it, and its source 3 is set; its report
clears its PENDING bit, and the last report clears MIXED, which every tile then sees. -/
def Sys2Proof.Claims.ModeEpochsComplete : Prop :=
  (∀ (who : Who) (v : BitVec 32) (s : State), Claims.Writable who .always .yes s → s.mor.mixed = false →
    1 ≤ (v.setWidth 8 - s.mor.epoch).toNat → (v.setWidth 8 - s.mor.epoch).toNat ≤ 127 →
    exec (.morCommit who v) s = .next { Claims.came who s with
      mor := { (Claims.came who s).mor with
        latched := s.mor.stage, epoch := v.setWidth 8, mixed := decide (s.mor.fenced ≠ BitVec.allOnes 16)
        pending := ~~~s.mor.fenced, deliver := ~~~s.mor.fenced, delivered := 0, reports := 0
        clearing := if s.mor.fenced = BitVec.allOnes 16 then 0 else s.mor.clearing } })
  ∧ (∀ (who : Who) (v : BitVec 32) (s : State), Claims.Writable who .always .yes s →
    (s.mor.mixed = true ∨ (v.setWidth 8 - s.mor.epoch).toNat = 0 ∨ 127 < (v.setWidth 8 - s.mor.epoch).toNat) →
    exec (.morCommit who v) s = .next
      (let z := { Claims.came who s with mor := { (Claims.came who s).mor with refused := true, now := (Claims.came who s).mor.now.note 9 true } }
       if s.mor.refused then z else z.devSource 82))
  ∧ (∀ (s : State), s.tiles.length = 16 → s.mor.clearing = 0 →
    ∃ z, exec .modeCommitDeliver s = .next z
      ∧ z.mor = { s.mor with deliver := 0, delivered := s.mor.delivered ||| (s.mor.deliver &&& ~~~s.mor.fenced) }
      ∧ (∀ t, t < 16 → z.tile t = (if (s.mor.deliver &&& ~~~s.mor.fenced).getLsbD t
          then { s.tile t with st := { (s.tile t).st with seesMixed := true } } else s.tile t)))
  ∧ (∀ (s : State), s.mor.clearing ≠ 0 → exec .modeCommitDeliver s = .next s)
  ∧ (∀ (t : Nat) (s : State), s.tiles.length = 16 → s.tileLive t = true → s.mor.delivered.getLsbD t = true →
    (s.tile t).st.free s.cycle = true →
    ∃ z, exec (.modeApply t) s = .next z
      ∧ (z.tile t).st = { (s.tile t).st with epoch := s.mor.epoch, appliedAt := some s.cycle }
      ∧ (z.tile t).ic.pend = (s.tile t).ic.pend ||| 8 ∧ (z.tile t).ts = (s.tile t).ts
      ∧ sget (fun _ => TWord.uninit) (z.tile t).seq.lram 0x3FE = ⟨1, s.mor.latched.getD t 0⟩
      ∧ sget (fun _ => TWord.uninit) (z.tile t).seq.lram 0x3FF = ⟨1, s.mor.epoch.setWidth 32⟩
      ∧ (∀ w, w ≠ 0x3FE → w ≠ 0x3FF →
          sget (fun _ => TWord.uninit) (z.tile t).seq.lram w = sget (fun _ => TWord.uninit) (s.tile t).seq.lram w)
      ∧ z.mor.reports.getLsbD t = true ∧ z.mor.delivered.getLsbD t = false ∧ (∀ j, j ≠ t → z.tile j = s.tile j))
  ∧ (∀ (t : Nat) (s : State), t < 16 → s.mor.reports.getLsbD t = true → s.mor.mixed = true →
    ∃ z, exec (.modeReport t) s = .next z
      ∧ z.mor.pending.getLsbD t = false
      ∧ (z.mor.mixed = false ↔ ∀ j, j < 16 → j ≠ t → s.mor.pending.getLsbD j = false) ∧ z.tiles = s.tiles)
  ∧ (∀ (s : State), s.tiles.length = 16 →
    ∃ z, exec .mixedClearSeen s = .next z
      ∧ z.mor = { s.mor with clearing := 0 }
      ∧ (∀ t, t < 16 → z.tile t = (if s.mor.clearing.getLsbD t
          then { s.tile t with st := { (s.tile t).st with seesMixed := false } } else s.tile t)))

/-- The mortar send, and the commit and delivery of mode epochs. -/
def Obligations.MortarCommandsComplete : Prop :=
  Claims.MortarSendComplete ∧ Claims.ModeEpochsComplete

/-! ### The hod -/

/-- R294, R304, R305, R314: in a running hod, a target declared by a command or by a register write, with no granted course
unapplied, is OPEN at once with no arrival record, holding the step's MODE_EPOCH or the written one; with courses granted and
unapplied the declaration waits for them (that HOD_TGT_A and HOD_TGT_B show a declaration at once, while the target holds the
earlier one until it takes effect, is the model's choice, log entry 35); writing STATE = 0 frees it. -/
def Obligations.HodTargetsComplete : Prop :=
  (∀ (t : Nat) (s : State) (c : EngCmd) (r : StepRun), hodHead s t = some c → c.raw.toNat / 2 ^ 8 % 2 ^ 2 = 0 →
    hodCause s c.raw = none → s.run t c.urgent = some r → s.gated .hod = false → s.hod.flight = [] → s.hod.tgts.length = 64 →
    ∃ z, exec (.hodDeclare t) s = .next z
      ∧ z.tgt (hTgt c.raw) = { s.tgt (hTgt c.raw) with
          regA := declA c.raw (dEpoch r.desc), regB := declB c.raw, state := 1, done := 0
          curA := declA c.raw (dEpoch r.desc), curB := declB c.raw, granted := [], combined := [], staged := [] }
      ∧ (∀ n, n ≠ hTgt c.raw → z.tgt n = s.tgt n) ∧ z.hod.mem = s.hod.mem
      ∧ (z.tile t).hp.queue = (s.tile t).hp.queue.drop 1)
  ∧ (∀ (t : Nat) (s : State) (c : EngCmd) (r : StepRun), hodHead s t = some c → c.raw.toNat / 2 ^ 8 % 2 ^ 2 = 0 →
    hodCause s c.raw = none → s.run t c.urgent = some r → s.gated .hod = false → s.hod.flight ≠ [] →
    ∃ z, exec (.hodDeclare t) s = .next z
      ∧ z.hod.decls = s.hod.decls ++ [{
          tgt := hTgt c.raw, a := declA c.raw (dEpoch r.desc), b := declB c.raw, ahead := s.hod.flight.length }]
      ∧ (∀ n, (z.tgt n).state = (s.tgt n).state ∧ (z.tgt n).curA = (s.tgt n).curA ∧ (z.tgt n).granted = (s.tgt n).granted))
  ∧ (∀ (who : Who) (n : Nat) (v : BitVec 64) (s : State), n < 64 → Claims.Writable who .hod .yes s → s.hod.flight = [] →
    s.hod.tgts.length = 64 → tgOp (s.tgt n).regA ≤ 4 →
    declBad (s.tgt n).regA (((s.tgt n).regB &&& ~~~0x7F3FFF#64) ||| (v &&& 0x7F3FFF#64)) = false →
    ∃ z, exec (.hodTgtDeclareWrite who n v) s = .next z
      ∧ z.tgt n = { s.tgt n with
          regB := ((s.tgt n).regB &&& ~~~0x7F3FFF#64) ||| (v &&& 0x7F3FFF#64), state := 1, done := 0
          curA := (s.tgt n).regA, curB := ((s.tgt n).regB &&& ~~~0x7F3FFF#64) ||| (v &&& 0x7F3FFF#64)
          granted := [], combined := [], staged := [] }
      ∧ (∀ j, j ≠ n → z.tgt j = s.tgt j) ∧ z.tiles = s.tiles)
  ∧ (∀ (who : Who) (n : Nat) (v : BitVec 64) (s : State), n < 64 → Claims.Writable who .hod .yes s → s.hod.flight ≠ [] →
    s.hod.tgts.length = 64 → tgOp (s.tgt n).regA ≤ 4 →
    declBad (s.tgt n).regA (((s.tgt n).regB &&& ~~~0x7F3FFF#64) ||| (v &&& 0x7F3FFF#64)) = false →
    ∃ z, exec (.hodTgtDeclareWrite who n v) s = .next z
      ∧ z.tgt n = { s.tgt n with regB := ((s.tgt n).regB &&& ~~~0x7F3FFF#64) ||| (v &&& 0x7F3FFF#64) }
      ∧ z.hod.decls = s.hod.decls ++ [{
          tgt := n, a := (s.tgt n).regA, b := ((s.tgt n).regB &&& ~~~0x7F3FFF#64) ||| (v &&& 0x7F3FFF#64)
          ahead := s.hod.flight.length }]
      ∧ (∀ j, j ≠ n → z.tgt j = s.tgt j) ∧ z.tiles = s.tiles)
  ∧ (∀ (who : Who) (n : Nat) (v : BitVec 64) (s : State), n < 64 → Claims.Writable who .hod .yes s → s.hod.tgts.length = 64 →
    ∃ z, exec (.hodTgtFreeWrite who n v) s = .next z
      ∧ (z.tgt n).state = 0 ∧ (z.tgt n).done = 0 ∧ (z.tgt n).granted = [] ∧ (z.tgt n).combined = [] ∧ (z.tgt n).staged = []
      ∧ (∀ j, j ≠ n → z.tgt j = s.tgt j) ∧ z.hod.mem = s.hod.mem ∧ z.tiles = s.tiles)

/-- R285, R299, R304 to R306: an issued SEND reads its next course into the drain buffer, and retires with its last; a BROADCAST
begins, reads its next hod course, the first one once TGT allows, and sets it out to every unfenced tile, where it is written; a
gated hod gives zeros (log entry 87); when every tile has acknowledged the last, the command retires and pulses its line. -/
def Sys2Proof.Claims.HodSendAndBroadcastComplete : Prop :=
  (∀ (t : Nat) (held : Held) (s s1 : State) (c : EngCmd) (r : StepRun) (d : BitVec 1024), hodHead s t = some c →
    c.raw.toNat / 2 ^ 8 % 2 ^ 2 = 1 → c.checked = true → c.issued = true → s.run t c.urgent = some r →
    (s.tile t).hp.buf.length < 8 →
    engRead t c.urgent 4 (((cmdRange c.raw 0x28).start + (s.tile t).hp.sendAt) % 32768)
      (beginCmd t 4 (charge t c.urgent false held s)) = .ok (d, s1) →
    exec (.hodSend t held) s = .next
      (let z := pushHod t (hodCourseOf t c.urgent r (hTgt c.raw) (c.raw.toNat / 2 ^ 32 % 2 ^ 14 + (s.tile t).hp.sendAt) d) s1
       if (s.tile t).hp.sendAt + 1 = (cmdRange c.raw 0x28).length then
         popCmd t 4 (retireRanges t 4 c.urgent [cmdRange c.raw 0x28] (z.updTile t fun x => { x with hp := { x.hp with sendAt := 0 } }))
       else z.updTile t fun x => { x with hp := { x.hp with sendAt := x.hp.sendAt + 1 } }))
  ∧ (∀ (t : Nat) (s : State) (c : EngCmd), hodHead s t = some c → c.raw.toNat / 2 ^ 8 % 2 ^ 2 = 2 → c.begun = false →
    hodCause s c.raw = none → s.tiles.length = 16 →
    ∃ z, exec (.hodBroadcast t) s = .next z
      ∧ (z.tile t).hp = { (s.tile t).hp with
          queue := { c with checked := true, issued := true, begun := true } :: (s.tile t).hp.queue.drop 1, bcastAt := 0 }
      ∧ (∀ j, j ≠ t → z.tile j = s.tile j) ∧ z.hod = s.hod)
  ∧ (∀ (t : Nat) (s : State) (c : EngCmd) (r : StepRun), hodHead s t = some c → c.raw.toNat / 2 ^ 8 % 2 ^ 2 = 2 →
    c.begun = true → c.read = false →
    (hWait c.raw = true → (s.tile t).hp.bcastAt = 0 → (s.tgt (hTgt c.raw)).state = 2) → s.run t c.urgent = some r →
    ∃ z, exec (.broadcastRead t 0 false) s = .next z
      ∧ z.hod = { s.hod with
          bcast := s.hod.bcast ++ ((List.range 16).filter fun j => !s.fencedTile j).map fun j =>
            { src := t, urgent := c.urgent, start := r.start, rerun := r.runs, tile := j
              course := (hDst c.raw + (s.tile t).hp.bcastAt) % 32768
              data := if s.gated .hod then 0 else sget (fun _ => 0) s.hod.mem (hBase c.raw + (s.tile t).hp.bcastAt) } }
      ∧ (∀ j, (z.tile j).ts.bytes = (s.tile j).ts.bytes))
  ∧ (∀ (t ce : Nat) (ue : Bool) (s : State) (c : EngCmd), hodHead s t = some c → hWait c.raw = true → (s.tile t).hp.bcastAt = 0 →
    (s.tgt (hTgt c.raw)).state ≠ 2 → exec (.broadcastRead t ce ue) s = .next s)
  ∧ (∀ (i : Nat) (met : Crossing) (s : State) (m : BcastCourse), mayPass s.hod.bcast i sameDest = some m → s.tiles.length = 16 →
    s.tileLive m.tile = true →
    ∃ z, exec (.broadcastCourseWrite i met false) s = .next z
      ∧ z.hod.bcast = s.hod.bcast.eraseIdx i
      ∧ (z.tile m.tile).ts.bytes = ((s.tile m.tile).ts.writeCourse m.course m.data false).bytes
      ∧ (∀ j, j ≠ m.tile → (z.tile j).ts.bytes = (s.tile j).ts.bytes))
  ∧ (∀ (t : Nat) (s : State) (c : EngCmd), hodHead s t = some c → c.raw.toNat / 2 ^ 8 % 2 ^ 2 = 2 → c.read = true →
    (s.hod.bcast.any fun m => decide (m.src = t) && m.urgent == c.urgent) = false →
    exec (.broadcastRetire t) s = .next
      (match hEvt c.raw with
        | some k => (s.updQ t 4 (·.drop 1)).pulse (setBit 0 k true)
        | none => s.updQ t 4 (·.drop 1)))

/-- R296 to R302: in a running hod, a lane that has not granted in this cycle grants the first tile of its four, in the order of its
pointer, that has a course: judged OK, the course is in flight and its tile is in the arrival record; a rejected one is counted and its
tile is told, with a free value for the jitter of the notice (log entry 1). A course that may be applied is combined, or staged while a
contributor of lower index is missing; a staged one is combined at its turn; the corrected words of the courses read are counted (R529).
-/
def Sys2Proof.Claims.HodIntakeCompletes : Prop :=
  (∀ (lane t : Nat) (s : State) (h : HodCourse) (rest : List HodCourse), lane < 4 → laneFree s lane = true → grantTile s lane = some t →
    (s.tile t).hp.buf = h :: rest → s.gated .hod = false → judge (s.tgt h.tgt) h = .ok → s.hod.tgts.length = 64 → h.tgt < 64 →
    ∃ z, exec (.hodGrant lane false) s = .next z
      ∧ z.hod.flight = s.hod.flight ++ [{ h with at_ := s.cycle }]
      ∧ sget (fun _ => (0 : BitVec 16)) (z.tgt h.tgt).granted h.off
          = setBit (sget (fun _ => 0) (s.tgt h.tgt).granted h.off) h.tile true
      ∧ z.hod.rejCnt = s.hod.rejCnt ∧ z.hod.epochRejCnt = s.hod.epochRejCnt ∧ z.hod.mem = s.hod.mem)
  ∧ (∀ (lane t : Nat) (s : State) (h : HodCourse) (rest : List HodCourse), lane < 4 → laneFree s lane = true → grantTile s lane = some t →
    (s.tile t).hp.buf = h :: rest → s.gated .hod = false → judge (s.tgt h.tgt) h = .epoch →
    ∃ z, exec (.hodGrant lane false) s = .next z
      ∧ z.hod.flight = s.hod.flight ∧ z.hod.epochRejCnt = satAdd32 s.hod.epochRejCnt 1 ∧ z.hod.epochRej = true
      ∧ z.hod.notices = s.hod.notices ++ [⟨h.tile, h.urgent, h.start, h.rerun, true, false⟩])
  ∧ (∀ (lane t : Nat) (s : State) (h : HodCourse) (rest : List HodCourse), lane < 4 → laneFree s lane = true → grantTile s lane = some t →
    (s.tile t).hp.buf = h :: rest → s.gated .hod = false → judge (s.tgt h.tgt) h = .other →
    ∃ z, exec (.hodGrant lane false) s = .next z
      ∧ z.hod.flight = s.hod.flight ∧ z.hod.rejCnt = satAdd32 s.hod.rejCnt 1 ∧ z.hod.rej = true
      ∧ z.hod.notices = s.hod.notices ++ [⟨h.tile, h.urgent, h.start, h.rerun, false, false⟩])
  ∧ (∀ (s : State) (n : HodNotice) (rest : List HodNotice), s.hod.notices = n :: rest →
    ownRun s n.tile n.urgent n.start n.rerun = true →
    exec .hodRejectNotice s = .next
      (let z := ({ s with hod := { s.hod with notices := rest } } : State).draw 1
       let s1 := chargeSender n.tile n.urgent n.start z.1.toNat 0 z.2
       if n.epoch then stepFault n.tile n.urgent 8 s1 else if n.parity then stepFault n.tile n.urgent 6 s1 else s1))
  ∧ (∀ (i ce : Nat) (jitter : Bool) (s : State) (h : HodCourse), applicable s i jitter = some h → s.gated .hod = false →
    (tgOrd (s.tgt h.tgt).curA = false
      ∨ tgContrib (s.tgt h.tgt).curA &&& lowerMask h.tile &&& maskAt (s.tgt h.tgt).combined h.off
          = tgContrib (s.tgt h.tgt).curA &&& lowerMask h.tile) →
    exec (.hodApply i jitter ⟨ce, false⟩) s = .next
      (declsAfter i (applyPartial h.tgt h.tile h.off h.data (hodEcc (if readsStored (s.tgt h.tgt) h.off then 1 else 0) ce false (chargeSender h.tile h.urgent h.start (b2n jitter) 0
        { s with hod := { s.hod with flight := s.hod.flight.eraseIdx i, applied := (h.at_ + 4 + b2n jitter, h.tile) } })))))
  ∧ (∀ (i : Nat) (jitter : Bool) (s : State) (h : HodCourse), applicable s i jitter = some h → s.gated .hod = false → s.hod.decls = [] →
    tgOrd (s.tgt h.tgt).curA = true → s.hod.tgts.length = 64 → h.tgt < 64 → h.tile < 16 →
    tgContrib (s.tgt h.tgt).curA &&& lowerMask h.tile &&& maskAt (s.tgt h.tgt).combined h.off
      ≠ tgContrib (s.tgt h.tgt).curA &&& lowerMask h.tile →
    ∃ z, exec (.hodApply i jitter ⟨0, false⟩) s = .next z
      ∧ z.hod.mem = sset (fun _ => 0) s.hod.mem (stageCourse (s.tgt h.tgt) h.tile h.off) h.data
      ∧ maskAt (z.tgt h.tgt).staged h.off = setBit (maskAt (s.tgt h.tgt).staged h.off) h.tile true
      ∧ z.hod.flight = s.hod.flight.eraseIdx i)
  ∧ (∀ (n off t ce : Nat) (s : State),
    lowestSet 16 (tgContrib (s.tgt n).curA &&& ~~~maskAt (s.tgt n).combined off).toNat = some t →
    (maskAt (s.tgt n).staged off).getLsbD t = true → s.gated .hod = false →
    exec (.hodFold n off ce false) s = .next (applyPartial n t off
      (sget (fun _ => 0) s.hod.mem (stageCourse (s.tgt n) t off))
      ((hodEcc (1 + if readsStored (s.tgt n) off then 1 else 0) ce false s).updTgt n fun g => { g with staged := sset (fun _ => 0) g.staged off (setBit (maskAt (s.tgt n).staged off) t false) })))

/-- Sends to the hod, broadcasts, and what the hod takes in. -/
def Obligations.HodTransfersComplete : Prop :=
  Claims.HodSendAndBroadcastComplete ∧ Claims.HodIntakeCompletes
/-! ### Streams and the stream cache -/

/-- A DECLARED tracker of a live tile that may ask for its next line: within DEPTH, COUNT and REPEAT, and its consumer's room. -/
def Sys2Proof.Claims.MayAsk (n : Nat) (s : State) : Prop :=
  n < 64 ∧ (s.sc.tracker n).state = 3 ∧ s.tileLive (s.sc.tracker n).owner = true
    ∧ (s.sc.tracker n).asked < (s.sc.tracker n).used + (s.sc.tracker n).depth
    ∧ (s.sc.tracker n).asked < (s.sc.tracker n).count * (s.sc.tracker n).rep
    ∧ (s.sc.tracker n).asked - (s.sc.tracker n).used < consumerRoom s n

/-- The state in which tracker `n` has asked for its next line. -/
def Sys2Proof.Claims.asked (n : Nat) (s : State) : State := s.updTrk n fun k => { k with asked := k.asked + 1 }

/-- Line `l` has been read, as `x`, for request `seq` of tracker `n`: it sets out for the tracker's tile from the port of its slice, 4
cycles later for a correction; a further cycle as it enters the mesh is a free value (log entry 1). -/
def Sys2Proof.Claims.came2 (n seq l : Nat) (x : LineRead) (s : State) : State :=
  ({ s with freeCnt := s.freeCnt + 1 } : State).updTrk n fun k =>
    { k with
      ready := k.ready ++ [⟨seq, x.corrected, false, l, x.data, x.poison, .enter portSlice (lineSlice l) k.owner
        (s.cycle + (4 + (xyPath k.owner (lineSlice l)).length) + 4 * b2n x.corrected) (Config.freeValue 1 s.freeCnt).toNat⟩] }

/-- R336, R342 to R344, R352, R453: the request of a tracker. Beyond capacity the line comes poisoned, and SC_ERR captures it; a
line that its slice holds comes from there and becomes most recently used, and one corrected there is counted; a line that it
does not hold, or of a bypassed slice, is asked of its channel, and of a gated channel comes as zeros. -/
def Sys2Proof.Claims.StreamRequestCompletes : Prop :=
  (∀ (n : Nat) (ecc : LineEcc) (s : State), Claims.MayAsk n s →
    s.capLines ≤ (s.sc.tracker n).lineOfReq (s.sc.tracker n).asked →
    exec (.streamRequest ⟨n, ecc⟩) s = .next
      (let k := s.sc.tracker n
       let l := k.lineOfReq k.asked
       scErr l 0 4 (Claims.came2 n k.asked l ⟨0, true, false⟩ (Claims.asked n s))))
  ∧ (∀ (n : Nat) (ecc : LineEcc) (s : State), Claims.MayAsk n s →
    (s.sc.tracker n).lineOfReq (s.sc.tracker n).asked < s.capLines →
    s.bypassed (lineSlice ((s.sc.tracker n).lineOfReq (s.sc.tracker n).asked)) = true →
    exec (.streamRequest ⟨n, ecc⟩) s = .next
      (let k := s.sc.tracker n
       let l := k.lineOfReq k.asked
       let z := if s.gated .sc then (Claims.asked n s).countGated else Claims.asked n s
       if s.chanGated l then Claims.came2 n k.asked l ⟨0, false, false⟩ z.countGated
       else z.ddrRequest l (.declared n k.gen k.asked true) 1))
  ∧ (∀ (n : Nat) (s : State), Claims.MayAsk n s →
    (s.sc.tracker n).lineOfReq (s.sc.tracker n).asked < s.capLines →
    s.bypassed (lineSlice ((s.sc.tracker n).lineOfReq (s.sc.tracker n).asked)) = false →
    s.sc.wayOf ((s.sc.tracker n).lineOfReq (s.sc.tracker n).asked) = none →
    exec (.streamRequest ⟨n, .clean⟩) s = .next
      (let k := s.sc.tracker n
       let l := k.lineOfReq k.asked
       let z := Claims.asked n s
       if s.chanGated l then Claims.came2 n k.asked l ⟨0, false, false⟩ z.countGated
       else z.ddrRequest l (.declared n k.gen k.asked false) 1))
  ∧ (∀ (n : Nat) (s : State) (w : Nat) (y : CacheLine), Claims.MayAsk n s →
    (s.sc.tracker n).lineOfReq (s.sc.tracker n).asked < s.capLines →
    s.bypassed (lineSlice ((s.sc.tracker n).lineOfReq (s.sc.tracker n).asked)) = false →
    s.sc.wayOf ((s.sc.tracker n).lineOfReq (s.sc.tracker n).asked) = some w →
    kget s.sc.lines (wayKey ((s.sc.tracker n).lineOfReq (s.sc.tracker n).asked) w) = some y →
    exec (.streamRequest ⟨n, .clean⟩) s = .next
      (let k := s.sc.tracker n
       let l := k.lineOfReq k.asked
       let z := Claims.asked n s
       Claims.came2 n k.asked l ⟨y.data, y.poison, false⟩ { z with sc := z.sc.touch l w true })
    ∧ exec (.streamRequest ⟨n, .dataCe⟩) s = .next
      (let k := s.sc.tracker n
       let l := k.lineOfReq k.asked
       let z := Claims.asked n s
       Claims.came2 n k.asked l ⟨y.data, y.poison, true⟩ (scCorrected l w 0 { z with sc := z.sc.touch l w true })))

/-- R320, R342, R346, R348 to R350, R451: with the stream cache running, a well-formed STREAM entry binds, idles or invalidates and the
list moves on (that an invalidation drops its lines at once is the model's choice, log entry 38); a tracker asks for its lines; its next
line, once it has passed its routers (log entry 93), reaches its consumer, which was held 4 cycles more for a corrected one and under CAL
only for one whose channel a steal held, or, with a parity error of its course, is counted and discarded and its consumer's step ends with
STEP_PARITY (the model's choice, log entry 108). A gated stream cache keeps what it holds (the model's reading, log entry 89). -/
def Obligations.StreamsComplete : Prop :=
  (∀ (t : Nat) (u : Bool) (s : State) (r : StepRun) (e : BitVec 512), outerEntry s t u 7 = some (r, e) →
    streamCause s t e = none → s.gated .sc = false → e.toNat / 2 ^ 8 % 2 ^ 2 = 0 →
    exec (.streamDeclare t u) s = .next ((s.updTrk (e.toNat / 2 ^ 10 % 2 ^ 6) fun k =>
      { Tracker.reset with
        state := 3, owner := t, stride := sgn 16 (e.toNat / 2 ^ 96 % 2 ^ 16), base := e.toNat / 2 ^ 32 % 2 ^ 32
        count := e.toNat / 2 ^ 64 % 2 ^ 24, rep := e.toNat / 2 ^ 112 % 2 ^ 16, depth := e.toNat / 2 ^ 128 % 2 ^ 7
        gen := k.gen + 1 }).updRun t u fun r => { r with listAt := r.listAt + 64 }))
  ∧ (∀ (t : Nat) (u : Bool) (s : State) (r : StepRun) (e : BitVec 512), outerEntry s t u 7 = some (r, e) →
    streamCause s t e = none → s.gated .sc = false → e.toNat / 2 ^ 8 % 2 ^ 2 = 1 →
    exec (.streamRelease t u) s = .next ((s.updTrk (e.toNat / 2 ^ 10 % 2 ^ 6) fun k =>
      { Tracker.reset with gen := k.gen + 1 }).updRun t u fun r => { r with listAt := r.listAt + 64 }))
  ∧ (∀ (t : Nat) (u : Bool) (s : State) (r : StepRun) (e : BitVec 512), outerEntry s t u 7 = some (r, e) →
    streamCause s t e = none → s.gated .sc = false → e.toNat / 2 ^ 8 % 2 ^ 2 = 2 → s.sc.inval = none →
    exec (.streamInval t u) s = .next ((
      let lo := 2 * (e.toNat / 2 ^ 32 % 2 ^ 32)
      let n := e.toNat / 2 ^ 64 % 2 ^ 24
      let z := s.dropLines fun l => decide (lo ≤ l) && decide (l < lo + n)
      { z with sc := { z.sc with inval := some ⟨lo, some n, some t, u⟩ } }).updRun t u fun r => { r with listAt := r.listAt + 64 }))
  ∧ (∀ (t : Nat) (u : Bool) (s : State) (r : StepRun) (e : BitVec 512), outerEntry s t u 7 = some (r, e) →
    streamCause s t e = none → s.gated .sc = true →
    (e.toNat / 2 ^ 8 % 2 ^ 2 = 0 → exec (.streamDeclare t u) s = .next (s.countGated.updRun t u fun r => { r with listAt := r.listAt + 64 }))
    ∧ (e.toNat / 2 ^ 8 % 2 ^ 2 = 1 → exec (.streamRelease t u) s = .next (s.countGated.updRun t u fun r => { r with listAt := r.listAt + 64 }))
    ∧ (e.toNat / 2 ^ 8 % 2 ^ 2 = 2 → exec (.streamInval t u) s = .next (s.countGated.updRun t u fun r => { r with listAt := r.listAt + 64 })))
  ∧ Claims.StreamRequestCompletes
  ∧ (∀ (n jitter : Nat) (held : LineWait) (s : State) (x : ReadyLine) (w u : Bool), n < 64 → (s.sc.tracker n).state = 3 →
    ((s.sc.tracker n).ready.find? fun x => x.seq = (s.sc.tracker n).used) = some x → consumerOf s n = some (w, u) →
    s.tileLive (s.sc.tracker n).owner = true → 0 < consumerRoom s n → x.mesh.through = true → x.mesh.since + 1 ≤ s.cycle →
    (held.bad = true → exec (.streamLineDeliver n jitter held) s = .next (stepFault (s.sc.tracker n).owner u 6
      ((countMorPerr (countTransit 0 (x.mesh.waited - held.link) (chargeLine (s.sc.tracker n).owner u
        { bank := 0, ecc := if x.corrected then 4 else 0, jitter := min 4 jitter, link := min x.mesh.waited held.link, wait := held.wait,
          hod := 0, cal := if x.stolen then held.cal else 0 } s))).updTrk n fun k =>
        { k with ready := k.ready.filter fun x => x.seq ≠ k.used })))
    ∧ (held.bad = false → exec (.streamLineDeliver n jitter held) s = .next (((countTransit 0 (x.mesh.waited - held.link)
      (chargeLine (s.sc.tracker n).owner u
      { bank := 0, ecc := if x.corrected then 4 else 0, jitter := min 4 jitter, link := min x.mesh.waited held.link, wait := held.wait, hod := 0,
        cal := if x.stolen then held.cal else 0 }
      s)).updArr (s.sc.tracker n).owner fun a =>
        if w then { a with wbuf := a.wbuf ++ [⟨n, x.data, x.poison, u⟩], refetch := if u then a.refetch else a.refetch - 1 } else { a with sbuf := a.sbuf ++ [⟨n, x.data, x.poison, u⟩] }).updTrk n fun k =>
        { k with
          used := k.used + 1, pos := (k.used + 1) % max 1 k.count
          ready := k.ready.filter fun x => x.seq ≠ k.used })))

/-- R338, R341, R344, R352, R534: invalidation and slices: a GO with no invalidation running clears every valid line it names (at once:
the model's choice, log entry 38); its end is SC_INVAL_DONE, while the cache is not gated; slices switch by their request bits; a drained
slice and a newly fenced one lose their lines. -/
def Obligations.SliceControlComplete : Prop :=
  (∀ (who : Who) (v : BitVec 32) (s : State), Claims.Writable who .sc .yes s → v.getLsbD 31 = true → s.sc.inval = none →
    (v.getLsbD 30 = false → ∃ z, exec (.scInvalGo who v) s = .next z
      ∧ z.sc.inval = some ⟨2 * s.sc.invalBase.toNat, some (v.toNat % 2 ^ 24), none, false⟩
      ∧ z.sc.lines = s.sc.lines.filter (fun e =>
          let l := lineOf (e.1 / 16384) (e.1 / 16 % 1024) e.2.tag
          !(decide (2 * s.sc.invalBase.toNat ≤ l) && decide (l < 2 * s.sc.invalBase.toNat + v.toNat % 2 ^ 24)))
      ∧ z.ddr.bytes = s.ddr.bytes ∧ z.tiles = s.tiles)
    ∧ (v.getLsbD 30 = true → ∃ z, exec (.scInvalAll who v) s = .next z
      ∧ z.sc.inval = some ⟨0, none, none, false⟩ ∧ z.sc.lines = [] ∧ z.ddr.bytes = s.ddr.bytes ∧ z.tiles = s.tiles))
  ∧ (∀ (s : State), exec .scInvalDone s = .next (if s.gated .sc then s else { s with sc := { s.sc with inval := none } }))
  ∧ (∀ (who : Who) (v : BitVec 32) (s : State), Claims.Writable who .sc .no s →
    ∃ z, exec (.scSlicePwrReqWrite who v) s = .next z
      ∧ z.sc.pwrReq = v.setWidth 16
      ∧ z.sc.sliceState = s.sc.sliceState.zipIdx.map (fun (x, b) =>
          if x = .on ∧ v.getLsbD b = false then .draining
          else if x = .draining ∧ v.getLsbD b = true then .on
          else if x = .off ∧ v.getLsbD b = true then .waking
          else x)
      ∧ z.sc.lines = s.sc.lines)
  ∧ (∀ (n : Nat) (s : State), n < 16 → s.gated .sc = false → s.sc.sliceState.getD n .on = .waking →
    s.sc.wakeFrom.getD n 0 + 2000 ≤ s.te.time →
    exec (.sliceWakeDone n) s = .next { s with
      sc := { s.sc with sliceState := lput s.sc.sliceState n (if s.sc.pwrReq.getLsbD n then .on else .draining) } })
  ∧ (∀ (n : Nat) (s : State), n < 16 → s.gated .sc = false → s.sc.sliceState.getD n .on = .draining →
    fillOutstanding s n = false →
    ∃ z, exec (.sliceDrainDone n) s = .next z
      ∧ z.sc.sliceState = lput s.sc.sliceState n .off
      ∧ z.sc.lines = s.sc.lines.filter (fun e => !decide (lineSlice (lineOf (e.1 / 16384) (e.1 / 16 % 1024) e.2.tag) = n)))
  ∧ (∀ (who : Who) (v : BitVec 32) (s : State), Claims.Writable who .sc .no s →
    ∃ z, exec (.scFenceWrite who v) s = .next z
      ∧ z.sc.fence = v.setWidth 16
      ∧ z.sc.lines = s.sc.lines.filter (fun e =>
          !(v.setWidth 16 &&& ~~~s.sc.fence).getLsbD (lineSlice (lineOf (e.1 / 16384) (e.1 / 16 % 1024) e.2.tag))))

/-! ### DDR5 channels -/

/-- R355 to R358, R514, R519 to R521: a channel at work serves the request that its order lets go next, whose row is then open (log entry
91; one that writes is made then; the schedule of refreshes is the model's choice, log entry 40); a request that reaches a channel which a
gap task holds joins its queue and is counted; a class-2 request that has waited 2 µs joins class 1; a due refresh is made, and closes its
bank; a channel with SR_REQ that has been empty for 100 µs enters self-refresh, no row open, and leaves it 2 µs after a request. -/
def Obligations.DdrChannelsComplete : Prop :=
  (∀ (c i : Nat) (err : BeatErr) (s : State) (r : DdrReq), (s.chan c).queue[i]? = some r → chanServes s c = true →
    stolenNow s c = false → gapTaskOn s c = false → mayServe (s.chan c) i r = true →
    exec (.ddrRequestServe c i err) s = .next (served r err (s.updChan c fun x =>
      let q := ((x.queue.take i).map fun y => if y.cls = r.cls then { y with passed := y.passed + 1 } else y) ++ x.queue.drop (i + 1)
      let p := ddrPlace x.trainedCfg r.line
      { x with queue := q, rows := kset x.rows p.number p.row, emptySince := if q = [] then s.te.time else x.emptySince })))
  ∧ (∀ (c i off : Nat) (err : BeatErr) (s : State) (r : DdrReq) (bs : List (BitVec 8)) (ch : Option Nat), (s.chan c).queue[i]? = some r →
    chanServes s c = true → stolenNow s c = false → gapTaskOn s c = false → mayServe (s.chan c) i r = true → r.kind = .write off bs ch →
    (off = 0 ∧ bs.length = 128 ∨ err.bad = false) →
    ∃ z, exec (.ddrRequestServe c i err) s = .next z
      ∧ z.ddr.bytes = ddrPut s.ddr.gen s.ddr.bytes (128 * r.line + off) bs ∧ z.sc = s.sc ∧ z.tiles = s.tiles)
  ∧ (∀ (c i : Nat) (err : BeatErr) (s : State), stolenNow s c = true ∨ gapTaskOn s c = true →
    exec (.ddrRequestServe c i err) s = .next s)
  ∧ (∀ (l cls : Nat) (kind : DdrKind) (s : State), lineChan l < 8 → s.ddr.ch.length = 8 →
    ((s.ddrRequest l kind cls).chan (lineChan l)).queue = (s.chan (lineChan l)).queue ++
        [{ line := l, kind := kind, cls := cls, time := s.te.time, passed := 0
           met := gapTaskOn s (lineChan l), stolen := stolenNow s (lineChan l) }]
      ∧ ((s.ddrRequest l kind cls).chan (lineChan l)).sr = false
      ∧ ((s.ddrRequest l kind cls).chan (lineChan l)).exiting
          = (if (s.chan (lineChan l)).sr then some s.te.time else (s.chan (lineChan l)).exiting)
      ∧ (s.ddrRequest l kind cls).cal.intrudeCnt
          = (if gapTaskOn s (lineChan l) then satAdd32 s.cal.intrudeCnt 1 else s.cal.intrudeCnt))
  ∧ (∀ (c i : Nat) (s : State),
    exec (.ddrClassPromote c i) s = .next (s.updChan c fun x =>
      { x with queue := upd x.queue i fun r => if r.cls = 2 ∧ r.time + 2000 ≤ s.te.time then { r with cls := 1 } else r }))
  ∧ (∀ (c b : Nat) (s : State), chanServes s c = true → b < (if (s.chan c).trainedCfg.getLsbD 2 then 64 else 32) →
    sget (fun _ => 0) (s.chan c).refreshed b + (if (s.chan c).hot then 1950 else 3900) ≤ s.te.time →
    exec (.ddrRefresh c b) s = .next (s.updChan c fun x =>
      { x with
        rows := x.rows.filter fun e => e.1 ≠ b
        refreshed := sset (fun _ => 0) x.refreshed b
          (max (sget (fun _ => 0) x.refreshed b + (if x.hot then 1950 else 3900)) (s.te.time - 4 * (if x.hot then 1950 else 3900))) }))
  ∧ (∀ (c : Nat) (s : State), chanServes s c = true → (s.chan c).srReq = true → (s.chan c).queue = [] →
    (s.cal.ch.getD c .reset).running = none → (s.chan c).emptySince + 100000 ≤ s.te.time →
    exec (.ddrSrEnter c) s = .next (s.updChan c fun x => { x with sr := true, rows := [] }))
  ∧ (∀ (c t : Nat) (s : State), (s.chan c).exiting = some t → t + 2000 ≤ s.te.time → s.gated (.ddr c) = false →
    ∃ z, exec (.ddrSrExitDone c) s = .next z
      ∧ z.ddr = { s.ddr with ch := upd s.ddr.ch c fun x => { x with exiting := none, emptySince := s.te.time } }
      ∧ z.cal.ch = upd s.cal.ch c (fun x => { x with dqsDue := s.te.time, tempDue := s.te.time })
      ∧ z.cal.overdue = setBit s.cal.overdue c false)
  ∧ (∀ (who : Who) (c : Nat) (v : BitVec 32) (s : State), c < 8 → Claims.Writable who (.ddr c) .no s →
    exec (.ddrSrReqWrite who c v) s = .next ((Claims.came who s).updChan c fun x => { x with srReq := v.getLsbD 0 }))
/-! ### The DMA engine -/

/-- The context of ring `n` as it stands in DDR5. -/
def Sys2Proof.Claims.image (s : State) (n : Nat) : BitVec 512 := BitVec.ofNat 512 (packBytes (s.ddrBytes (ctxAt s n) 64))

/-- It can be read at once: no earlier operation on the ring waits, and the channel serves, with nothing before it. -/
def Sys2Proof.Claims.AtOnce (s : State) (n : Nat) : Prop :=
  opWaits s n = false ∧ s.chanGated (ctxAt s n / 128) = false ∧ s.ddrFast (ctxAt s n / 128) = true

/-- R356, R364 to R366, R371, R536: a ring command on a ring in a state that admits it: INIT and RESUME, which read the image of a context
that is not on chip, at once or when a request for it is served (operations on one ring go in order), make the ring READY or IDLE by LIMIT
and EXP_HSEQ, with its HEAD, and its context comes on chip where there is room; with every context on chip needed, INIT leaves it IDLE,
waiting for room when it may consume (the model's choice, log entry 42); STOP stops it, a RUNNING one after its descriptor; OFF takes its
context off the chip and a write of it joins its channel's queue; FLUSH writes every context back. -/
def Obligations.RingCommandsComplete : Prop :=
  (∀ (who : Who) (n : Nat) (err : BeatErr) (s : State), n < 2 ^ 15 → Claims.Writable who .dma .yes s → s.flt.devFault = false →
    ((s.dma.live n).state = 0 ∨ (s.dma.live n).state = 4) → Claims.AtOnce s n → ctxOk (Claims.image s n) = true → err.bad = false →
    (s.dma.cache.filter fun x => x.ring ≠ n).length < 256 →
    ∃ z, exec (.ringInit who ⟨n, err⟩) s = .next z
      ∧ z.dma.live n = ⟨if consumable (Claims.image s n) then 2 else 1, 0, BitVec.ofNat 16 ((Claims.image s n).toNat / 2 ^ 96 % 2 ^ 16),
          (Claims.image s n).extractLsb' 128 32 - 1⟩
      ∧ z.dma.ctx n = some (Claims.image s n) ∧ (∀ j, j ≠ n → z.dma.live j = s.dma.live j ∧ z.dma.ctx j = s.dma.ctx j)
      ∧ z.ddr.bytes = s.ddr.bytes ∧ z.tiles = s.tiles)
  ∧ (∀ (who : Who) (n : Nat) (err : BeatErr) (s : State), n < 2 ^ 15 → Claims.Writable who .dma .yes s → s.flt.devFault = false →
    ((s.dma.live n).state = 0 ∨ (s.dma.live n).state = 4) → Claims.AtOnce s n → ctxOk (Claims.image s n) = true → err.bad = false →
    256 ≤ (s.dma.cache.filter fun x => x.ring ≠ n).length → (∀ x ∈ s.dma.cache, x.ring ≠ n → ctxPinned s x.ring = true) →
    ∃ z, exec (.ringInit who ⟨n, err⟩) s = .next z
      ∧ z.dma.live n = ⟨1, 0, BitVec.ofNat 16 ((Claims.image s n).toNat / 2 ^ 96 % 2 ^ 16), (Claims.image s n).extractLsb' 128 32 - 1⟩
      ∧ z.dma.ctx n = none
      ∧ z.dma.wait = (if consumable (Claims.image s n) then s.dma.wait.filter (· ≠ n) ++ [n] else s.dma.wait)
      ∧ z.ddr.bytes = s.ddr.bytes ∧ z.tiles = s.tiles)
  ∧ (∀ (who : Who) (n : Nat) (err : BeatErr) (s : State), n < 2 ^ 15 → Claims.Writable who .dma .yes s → s.flt.devFault = false →
    ((s.dma.live n).state = 0 ∨ (s.dma.live n).state = 4) → s.chanGated (ctxAt s n / 128) = false →
    (opWaits s n = false → s.ddrFast (ctxAt s n / 128) = false →
      exec (.ringInit who ⟨n, err⟩) s = .next ((Claims.came who s).ddrRequest (ctxAt s n / 128) (.ctx (.init n)) 2))
    ∧ (opWaits s n = true → exec (.ringInit who ⟨n, err⟩) s = .next { Claims.came who s with
        dma := { (Claims.came who s).dma with after := s.dma.after ++ [.init n] } }))
  ∧ (∀ (who : Who) (n : Nat) (s : State), n < 2 ^ 15 → Claims.Writable who .dma .yes s → s.flt.devFault = false →
    opWaits s n = false → ((s.dma.live n).state = 1 ∨ (s.dma.live n).state = 2) →
    ∃ z, exec (.ringStop who n) s = .next z
      ∧ z.dma.live n = { s.dma.live n with state := 4, cause := 0 } ∧ (∀ j, j ≠ n → z.dma.live j = s.dma.live j)
      ∧ z.dma.cache = s.dma.cache ∧ z.ddr.bytes = s.ddr.bytes ∧ z.tiles = s.tiles)
  ∧ (∀ (who : Who) (n : Nat) (s : State), n < 2 ^ 15 → Claims.Writable who .dma .yes s → s.flt.devFault = false →
    opWaits s n = false → (s.dma.live n).state = 3 →
    ∃ z, exec (.ringStop who n) s = .next z ∧ n ∈ z.dma.stopAfter ∧ z.dma.rings = s.dma.rings ∧ z.ddr.bytes = s.ddr.bytes)
  ∧ (∀ (who : Who) (n : Nat) (err : BeatErr) (s : State), n < 2 ^ 15 → Claims.Writable who .dma .yes s →
    s.flt.devFault = false → (s.dma.live n).state = 4 → s.dma.ctx n = none → Claims.AtOnce s n → err.bad = false → s.dma.cache.length < 256 →
    ∃ z, exec (.ringResume who ⟨n, err⟩) s = .next z
      ∧ z.dma.live n = ⟨if consumable (Claims.image s n) then 2 else 1, 0, BitVec.ofNat 16 ((Claims.image s n).toNat / 2 ^ 96 % 2 ^ 16),
          (Claims.image s n).extractLsb' 128 32 - 1⟩
      ∧ z.dma.ctx n = some (Claims.image s n) ∧ z.ddr.bytes = s.ddr.bytes ∧ z.tiles = s.tiles)
  ∧ (∀ (who : Who) (n : Nat) (err : BeatErr) (s : State) (c : BitVec 512), n < 2 ^ 15 → Claims.Writable who .dma .yes s →
    s.flt.devFault = false → opWaits s n = false → (s.dma.live n).state = 4 → s.dma.ctx n = some c →
    ∃ z, exec (.ringResume who ⟨n, err⟩) s = .next z
      ∧ z.dma.live n = ⟨if consumable c then 2 else 1, 0, BitVec.ofNat 16 (c.toNat / 2 ^ 96 % 2 ^ 16), c.extractLsb' 128 32 - 1⟩
      ∧ z.dma.ctx n = some c ∧ z.ddr = s.ddr ∧ z.tiles = s.tiles)
  ∧ (∀ (who : Who) (n : Nat) (s : State), n < 2 ^ 15 → Claims.Writable who .dma .yes s → s.flt.devFault = false →
    opWaits s n = false → ((s.dma.live n).state = 1 ∨ (s.dma.live n).state = 4) → s.ddr.ch.length = 8 → swf (fun _ => RingLive.reset) s.dma.rings = true →
    ∃ z, exec (.ringOff who n) s = .next z
      ∧ z.dma.live n = { s.dma.live n with state := 0, cause := 0 } ∧ z.dma.ctx n = none
      ∧ (∀ j, j ≠ n → z.dma.ctx j = s.dma.ctx j) ∧ z.ddr.bytes = s.ddr.bytes ∧ z.tiles = s.tiles
      ∧ (∀ c, s.dma.ctx n = some c → s.chanGated (ctxAt s n / 128) = false → s.failedChan (lineChan (ctxAt s n / 128)) = false →
          ∃ r ∈ (z.chan (lineChan (ctxAt s n / 128))).queue, r.line = ctxAt s n / 128
            ∧ r.kind = .write (ctxAt s n % 128) (unpackBytes 64 (setFld (setFld c 288 3 0) 291 2 0).toNat) none))
  ∧ (∀ (who : Who) (n : Nat) (s : State), Claims.Writable who .dma .yes s → s.flt.devFault = false →
    exec (.ringFlush who n) s = .next (s.dma.cache.foldl writeBack (Claims.came who s)))

/-- R372 to R374, R377, R378, R402: doorbells and FIFOs: a host doorbell of a ring without DB_TILE_EN, whose context is on chip,
sets LIMIT, or adds to it, and an IDLE ring that may now consume is READY; a tile's DOORBELL adds to the LIMIT of its own ring, once the
ring's context has been read where it is not on chip; a TAKE releases courses of a FIFO; DMA_FIFO_CFG empties its FIFO. -/
def Obligations.DoorbellsAndFifosComplete : Prop :=
  (∀ (n : Nat) (v : BitVec 32) (hi : Option (BitVec 32)) (err : BeatErr) (s : State) (c : BitVec 512), n < 2 ^ 15 → s.barOpen = true →
    (s.sec.life = .chrysalis ∨ s.sec.life = .imago) → s.flt.devFault = false → s.gated .dma = false →
    standby s = false → c.getLsbD 86 = false → s.dma.ctx n = some c → opWaits s n = false →
    ∃ z lim, exec (.doorbellWrite ⟨n, err⟩ (some v) hi false) s = .next z
      ∧ lim = (if (hi.map fun h => h.getLsbD 0) = some true then c.extractLsb' 160 32 + v else v)
      ∧ z.dma.ctx n = some (setFld c 160 32 lim.toNat)
      ∧ z.dma.live n = (if (s.dma.live n).state = 1 ∧ (lim - c.extractLsb' 128 32).toNat < 2 ^ 31 then
          { s.dma.live n with state := 2 } else s.dma.live n)
      ∧ (∀ j, j ≠ n → z.dma.live j = s.dma.live j ∧ z.dma.ctx j = s.dma.ctx j) ∧ z.ddr = s.ddr ∧ z.tiles = s.tiles)
  ∧ (∀ (t : Nat) (u : Bool) (err : BeatErr) (s : State) (r : StepRun) (e c : BitVec 512), ownEntry s t u 9 = some (r, e) →
    strayBits e [(0, 8), (32, 15), (64, 32)] = false → s.gated .dma = false → opWaits s (e.toNat / 2 ^ 32 % 2 ^ 15) = false →
    s.dma.ctx (e.toNat / 2 ^ 32 % 2 ^ 15) = some c → c.getLsbD 86 = true → cTile c = t →
    exec (.doorbell ⟨t, u⟩ err) s = .next
      (((ringBell (e.toNat / 2 ^ 32 % 2 ^ 15) (e.extractLsb' 64 32) true c s).updRun t u fun r => { r with sent := true }).updRun t u
        fun r => { r with listAt := r.listAt + 64 }))
  ∧ (∀ (t n : Nat) (u : Bool) (s : State) (r : StepRun) (e : BitVec 512), ownEntry s t u 9 = some (r, e) →
    n = e.toNat / 2 ^ 32 % 2 ^ 15 → strayBits e [(0, 8), (32, 15), (64, 32)] = false → s.gated .dma = false → s.dma.ctx n = none →
    (Claims.AtOnce s n → (Claims.image s n).getLsbD 86 = true → cTile (Claims.image s n) = t →
      exec (.doorbell ⟨t, u⟩ .none) s = .next
        (((ringBell n (e.extractLsb' 64 32) true (Claims.image s n) (s.ddrOpen (ctxAt s n / 128))).updRun t u
          fun r => { r with sent := true }).updRun t u fun r => { r with listAt := r.listAt + 64 }))
    ∧ (opWaits s n = false → s.chanGated (ctxAt s n / 128) = false → s.ddrFast (ctxAt s n / 128) = false →
      exec (.doorbell ⟨t, u⟩ .none) s = .next (s.ddrRequest (ctxAt s n / 128) (.ctx (.tileBell n t u r.start r.runs)) 2)))
  ∧ (∀ (t : Nat) (u : Bool) (s : State) (r : StepRun) (e : BitVec 512) (k n : Nat), ownEntry s t u 8 = some (r, e) →
    k = e.toNat / 2 ^ 32 % 2 ^ 8 → n = e.toNat / 2 ^ 64 % 2 ^ 16 → strayBits e [(0, 8), (32, 8), (64, 16)] = false →
    s.gated .dma = false → 1 ≤ n → n ≤ 32768 → (k / 8 = t ∨ (128 ≤ k ∧ k ≤ 135)) → n ≤ ((s.dma.fifoOf k).put - (s.dma.fifoOf k).take).toNat →
    exec (.take t u) s = .next
      (((s.updFifo k fun f => { f with take := f.take + BitVec.ofNat 32 n }).updRun t u fun r => { r with sent := true }).updRun t u
        fun r => { r with listAt := r.listAt + 64 }))
  ∧ (∀ (who : Who) (k : Nat) (v : BitVec 64) (s : State), k < 136 → Claims.Writable who .dma .yes s →
    exec (.dmaFifoCfgWrite who k v) s = .next ((Claims.came who s).updFifo k fun _ => ⟨setFld v 15 1 0, 0, 0⟩))
  ∧ (∀ (who : Who) (k : Nat) (v : BitVec 32) (s : State), k < 136 → Claims.Writable who .dma .yes s →
    v.toNat % 2 ^ 16 ≤ ((s.dma.fifoOf k).put - (s.dma.fifoOf k).take).toNat →
    exec (.dmaFifoTakeWrite who k v) s = .next ((Claims.came who s).updFifo k fun f =>
      { f with take := f.take + BitVec.ofNat 32 (v.toNat % 2 ^ 16) }))

/-- The next unit of channel `c`, whose work is `w`, may leave or be read. -/
def Sys2Proof.Claims.MayMove (c : Nat) (s : State) (w : DmaWork) : Prop :=
  c < 64 ∧ s.gated .dma = false ∧ s.flt.devFault = false ∧ (s.dma.chan c).paced = false ∧ (s.dma.chan c).recs = []
    ∧ (s.dma.chan c).work = some w

/-- R358, R366, R367, R369, R370, R375 to R384, R389: a channel takes up the descriptor at HEAD of the ring it serves next: consumed with
OWN = 1 and the expected HSEQ, left with OWN = 0, or a SEQ_GAP; it writes one unit when it holds one, which a tile's store, its own or a
FIFO's, gets when its course arrives, unless a FIFO is at its high mark; else it reads one, a line of DDR5 that cannot be read at once
being asked for, and read when the command is presented again (the model's choice, log entry 90); a paced channel goes on at the low mark;
a read without completion fails its element; the descriptor completes when its last write has arrived. What a record of DESC_BAD holds in
its last field is free (log entry 43). -/
def Sys2Proof.Claims.DescriptorsComplete : Prop :=
  (∀ (c n : Nat) (host : HostAns) (ecc : LineEcc) (err : BeatErr) (s s1 : State) (d : BitVec 512) (slot : BitVec 64),
    chanFree s c = true → ringWaiting s = none → nextRing s c = some n → consumable (ctxPeek s n) = true →
    slot = aAt (cBase (ctxPeek s n)) (aByte (cBase (ctxPeek s n)) + 64 * cHead (ctxPeek s n)) →
    sourceWaits c slot (aByte slot) 64 ecc s = false → readSlot c slot host ecc err s = (some d, s1) →
    exec (.descFetch c host ecc err) s = .next
      (let s2 := (s1.updDch c fun q => { q with lastRing := some n }).updCtx n id
       if d.getLsbD 0 = false then
         ({ s2 with dma := { s2.dma with ownMissCnt := satAdd32 s2.dma.ownMissCnt 1 } }).updLive n fun r => { r with state := 1 }
       else if d.extractLsb' 32 32 = (ctxPeek s n).extractLsb' 128 32 then consume c n slot d s2
       else seqGap c n d s2))
  ∧ (∀ (c n : Nat) (host : HostAns) (ecc : LineEcc) (err : BeatErr) (s : State) (slot : BitVec 64),
    chanFree s c = true → ringWaiting s = none → nextRing s c = some n → consumable (ctxPeek s n) = true →
    slot = aAt (cBase (ctxPeek s n)) (aByte (cBase (ctxPeek s n)) + 64 * cHead (ctxPeek s n)) →
    sourceWaits c slot (aByte slot) 64 ecc s = true →
    exec (.descFetch c host ecc err) s = .next (dmaAsk c (aByte slot / 128) ecc s))
  ∧ (∀ (c : Nat) (host : HostAns) (ecc : LineEcc) (err : BeatErr) (ce : Nat) (ue : Bool) (met : UnitMet) (s s1 : State) (w : DmaWork)
    (cause got : Nat), Claims.MayMove c s w → 0 < w.nextWrite → xFifo w.desc = none →
    (aSpace (xDst w.desc) = 2 → unitInSpace s (xDst w.desc) (xTo w.desc w.elem + w.put) w.nextWrite = false) →
    writeUnit c (xDst w.desc) (xTo w.desc w.elem + w.put) (w.funnel.take w.nextWrite) s = ((cause, got), s1) →
    s1.flt.devFault = false →
    exec (.dmaUnitTransfer c host ecc err ce ue met) s = .next (s1.updDch c fun q =>
      { q with work := some ({ w with
        cause := if cause ≠ 0 ∧ (w.cause = 0 ∨ w.elem * xElen w.desc + w.put < w.faultAt) then cause else w.cause
        faultAddr := if cause ≠ 0 ∧ (w.cause = 0 ∨ w.elem * xElen w.desc + w.put < w.faultAt) then
            aAt (xDst w.desc) (xTo w.desc w.elem + w.put) else w.faultAddr
        faultAt := if cause ≠ 0 ∧ (w.cause = 0 ∨ w.elem * xElen w.desc + w.put < w.faultAt) then w.elem * xElen w.desc + w.put
          else w.faultAt
        funnel := w.funnel.drop w.nextWrite, put := w.put + w.nextWrite, written := w.written + got }).step }))
  ∧ (∀ (c : Nat) (host : HostAns) (ecc : LineEcc) (err : BeatErr) (ce : Nat) (ue : Bool) (met : UnitMet) (s : State) (w : DmaWork),
    Claims.MayMove c s w → 0 < w.nextWrite → xFifo w.desc = none → aSpace (xDst w.desc) = 2 → s.dma.ch.length = 64 →
    unitInSpace s (xDst w.desc) (xTo w.desc w.elem + w.put) w.nextWrite = true →
    ∃ z, exec (.dmaUnitTransfer c host ecc err ce ue met) s = .next z
      ∧ z.dma.flight = s.dma.flight ++ [{
          ch := c, live := true, tile := (xDst w.desc).toNat / 2 ^ 24 % 2 ^ 4, byte := xTo w.desc w.elem + w.put
          data := w.funnel.take w.nextWrite, n := w.nextWrite, pos := w.put
          mesh := .enter portWest (4 * ((xDst w.desc).toNat / 2 ^ 24 % 2 ^ 4 / 4)) ((xDst w.desc).toNat / 2 ^ 24 % 2 ^ 4) s.cycle
            (Config.freeValue 1 s.freeCnt).toNat }]
      ∧ (z.dma.chan c).work = some { w with funnel := w.funnel.drop w.nextWrite, put := w.put + w.nextWrite }
      ∧ (∀ j, (z.tile j).ts.bytes = (s.tile j).ts.bytes) ∧ z.ddr = s.ddr ∧ z.hod = s.hod)
  ∧ (∀ (c k : Nat) (host : HostAns) (ecc : LineEcc) (err : BeatErr) (ce : Nat) (ue : Bool) (met : UnitMet) (s : State) (w : DmaWork),
    Claims.MayMove c s w → 0 < w.nextWrite → xFifo w.desc = some k → putWaits c w s = false → fifoHigh k s = false →
    fifoOpen k s = true → s.dma.ch.length = 64 →
    ∃ z, exec (.dmaUnitTransfer c host ecc err ce ue met) s = .next z
      ∧ z.dma.fifoOf k = { s.dma.fifoOf k with put := (s.dma.fifoOf k).put + 1 }
      ∧ (k < 128 → z.dma.flight = s.dma.flight ++ [{
            ch := c, live := true, tile := k / 8, byte := 128 * fifoAt k s
            data := padTo 128 (w.funnel.take w.nextWrite), n := w.nextWrite, pos := w.put
            mesh := .enter portWest (4 * (k / 8 / 4)) (k / 8) s.cycle (Config.freeValue 1 s.freeCnt).toNat }]
          ∧ (z.dma.chan c).work = some { w with funnel := w.funnel.drop w.nextWrite, put := w.put + w.nextWrite })
      ∧ (128 ≤ k → z.dma.flight = s.dma.flight
          ∧ (s.gated .hod = false → z.hod.mem = sset (fun _ => 0) s.hod.mem (fifoAt k s)
              (BitVec.ofNat 1024 (packBytes (padTo 128 (w.funnel.take w.nextWrite))))))
      ∧ (∀ j, (z.tile j).ts.bytes = (s.tile j).ts.bytes) ∧ z.ddr = s.ddr)
  ∧ (∀ (c : Nat) (host : HostAns) (ecc : LineEcc) (err : BeatErr) (ce : Nat) (ue : Bool) (met : UnitMet) (s s1 : State) (w : DmaWork)
    (cause : Nat) (bs : List (BitVec 8)), Claims.MayMove c s w → w.nextWrite = 0 → w.reading = true →
    sourceWaits c (xSrc w.desc) (xFrom w.desc w.elem + w.read)
      (min (128 - (xFrom w.desc w.elem + w.read) % 128) (xElen w.desc - w.read)) ecc s = false →
    readUnit c (xSrc w.desc) (xFrom w.desc w.elem + w.read)
      (min (128 - (xFrom w.desc w.elem + w.read) % 128) (xElen w.desc - w.read)) host ecc err ce ue met s
        = ((cause, bs), s1) → s1.flt.devFault = false →
    exec (.dmaUnitTransfer c host ecc err ce ue met) s = .next (s1.updDch c fun q =>
      { q with work := some (
        if cause = 0 then ({ w with funnel := w.funnel ++ bs, read := w.read + bs.length }).step
        else w.srcFail cause (xFrom w.desc w.elem + w.read)) }))
  ∧ (∀ (c : Nat) (host : HostAns) (ecc : LineEcc) (err : BeatErr) (ce : Nat) (ue : Bool) (met : UnitMet) (s : State) (w : DmaWork),
    Claims.MayMove c s w → w.nextWrite = 0 → w.reading = true →
    sourceWaits c (xSrc w.desc) (xFrom w.desc w.elem + w.read)
      (min (128 - (xFrom w.desc w.elem + w.read) % 128) (xElen w.desc - w.read)) ecc s = true →
    exec (.dmaUnitTransfer c host ecc err ce ue met) s = .next (dmaAsk c ((xFrom w.desc w.elem + w.read) / 128) ecc s))
  ∧ (∀ (c k : Nat) (host : HostAns) (ecc : LineEcc) (err : BeatErr) (ce : Nat) (ue : Bool) (met : UnitMet) (s : State) (w : DmaWork),
    Claims.MayMove c s w → 0 < w.nextWrite → xFifo w.desc = some k → putWaits c w s = false → fifoHigh k s = true →
    exec (.dmaUnitTransfer c host ecc err ce ue met) s = .next
      (s.updDch c fun q => { q with paced := true, pacedOn := some k }))
  ∧ (∀ (c k : Nat) (s : State), (s.dma.chan c).pacedOn = some k → s.gated .dma = false →
    (s.dma.fifoOf k).level ≤ fld (s.dma.fifoOf k).cfg 48 16 →
    exec (.dmaPaceResume c) s = .next (s.updDch c fun q => { q with paced := false, pacedOn := none }))
  ∧ (∀ (c : Nat) (s : State) (w : DmaWork), (s.dma.chan c).work = some w → w.reading = true → w.nextWrite = 0 →
    aSpace (xSrc w.desc) = 0 → s.hostReach = true → s.gated .dma = false → (s.dma.chan c).paced = false → s.flt.devFault = false →
    exec (.completionTimeout c) s = .next ((s.toHost (.aer 3)).updDch c fun q =>
      { q with work := some (w.srcFail 8 (xFrom w.desc w.elem + w.read)) }))
  ∧ (∀ (c : Nat) (s : State) (w : DmaWork), (s.dma.chan c).work = some w → w.done = true → s.dma.quiet c = true → (s.dma.chan c).recs = [] →
    s.gated .dma = false → w.bad = false → (w.desc.getLsbD 4 = true ∨ w.status ≠ 0) →
    exec (.descComplete c) s = .next
      (let s1 := (ownBack w s).updCtx w.ring fun x => setFld x 192 64 (fld x 192 64 + w.written)
       s1.updDch c fun q => { q with recs := [workRecord w (cCq (ctxPeek s1 w.ring)) 0] }))
  ∧ (∀ (c : Nat) (s : State) (w : DmaWork), (s.dma.chan c).work = some w → w.done = true → s.dma.quiet c = true → (s.dma.chan c).recs = [] →
    s.gated .dma = false → w.bad = true →
    exec (.descComplete c) s = .next
      (let s1 := (ownBack w s).updCtx w.ring fun x => setFld x 192 64 (fld x 192 64 + w.written)
       { s1 with freeCnt := s1.freeCnt + 1 }.updDch c fun q =>
         { q with recs := [workRecord w (cCq (ctxPeek s1 w.ring)) (Config.freeValue 64 s1.freeCnt)] }))
  ∧ (∀ (c : Nat) (s : State) (w : DmaWork), (s.dma.chan c).work = some w → w.done = true → s.dma.quiet c = true → (s.dma.chan c).recs = [] →
    s.gated .dma = false → w.bad = false → w.desc.getLsbD 4 = false → w.status = 0 →
    exec (.descComplete c) s = .next (finishDesc c w
      ((ownBack w s).updCtx w.ring fun x => setFld x 192 64 (fld x 192 64 + w.written))))

/-- R385 to R389, R391, R405: a record takes the next slot of its enabled queue with room, and the next DSEQ: it is
written with the queue's PHASE, TAIL moves on and PHASE inverts at the wrap; a full queue holds it and the cycles are
counted; setting ENABLE starts a queue at slot 0; HEAD is the host's; DISABLE stops the channel's IDLE, READY and STOPPED rings with
cause 3 (which rings that is is the model's choice, log entry 42). -/
def Sys2Proof.Claims.CompletionQueuesComplete : Prop :=
  (∀ (c held : Nat) (s : State) (r : CqRecord) (rest : List CqRecord) (w : DmaWork), (s.dma.chan c).recs = r :: rest →
    s.gated .dma = false → s.flt.devFault = false → standby s = false → cqMirrored s = false →
    (s.bond.stateWait.find? fun x => x.ch = c) = none → s.bond.tkoWait.contains r.cq = false → (s.dma.cqOf r.cq).en = true → (s.dma.cqOf r.cq).room = true →
    aSpace (s.dma.cqOf r.cq).base = 0 → s.hostReach = true → (s.dma.chan c).work = some w → w.desc.getLsbD 5 = false →
    ∃ z, exec (.cqRecordWrite c held) s = .next z
      ∧ z.dma.dseq = s.dma.dseq + 1 ∧ z.dma.cqFullCnt = satAdd32 s.dma.cqFullCnt held
      ∧ z.dma.cqOf r.cq = { s.dma.cqOf r.cq with
          tail := BitVec.ofNat 16 (((s.dma.cqOf r.cq).tail.toNat + 1) % (s.dma.cqOf r.cq).size)
          phase := if ((s.dma.cqOf r.cq).tail.toNat + 1) % (s.dma.cqOf r.cq).size = 0 then !(s.dma.cqOf r.cq).phase
            else (s.dma.cqOf r.cq).phase }
      ∧ z.host.out = .write (BitVec.ofNat 64 (aByte (s.dma.cqOf r.cq).base + 32 * (s.dma.cqOf r.cq).tail.toNat))
          (unpackBytes 32 (recordBits r (s.dma.cqOf r.cq).phase (s.dma.dseq + 1)).toNat) :: s.host.out
      ∧ z.tiles = s.tiles ∧ z.ddr = s.ddr)
  ∧ (∀ (c held : Nat) (s : State) (r : CqRecord) (rest : List CqRecord), (s.dma.chan c).recs = r :: rest →
    s.gated .dma = false → s.flt.devFault = false → standby s = false → (s.bond.stateWait.find? fun x => x.ch = c) = none →
    ((s.dma.cqOf r.cq).en = false ∨ (s.dma.cqOf r.cq).room = false) →
    exec (.cqRecordWrite c held) s = .next { s with dma := { s.dma with cqFullCnt := satAdd32 s.dma.cqFullCnt held } })
  ∧ (∀ (who : Who) (q : Nat) (v : BitVec 32) (s : State), q < 1024 → v.getLsbD 12 = true → (s.dma.cqOf q).cfg.getLsbD 12 = false →
    Claims.Writable who .dma .yes s → cqMirrored s = false →
    exec (.cqEnable who q v) s = .next ((Claims.came who s).updCq q fun x =>
      if v.getLsbD 13 then { x with cfg := v.setWidth 14 } else { x with cfg := v.setWidth 14, tail := 0, phase := true }))
  ∧ (∀ (who : Who) (q : Nat) (v : BitVec 32) (s : State), q < 1024 → Claims.Writable who .dma .yes s → cqMirrored s = false →
    exec (.cqHeadWrite who q v) s = .next ((Claims.came who s).updCq q fun x => { x with head := v.setWidth 16 }))
  ∧ (∀ (who : Who) (c : Nat) (s : State), c < 64 → Claims.Writable who .dma .yes s → (s.dma.chan c).work = none →
    s.dma.ch.length = 64 → swf (fun _ => RingLive.reset) s.dma.rings = true →
    ∃ z, exec (.channelDisable who c) s = .next z
      ∧ (z.dma.chan c).disable = true ∧ (z.dma.chan c).recs = [] ∧ (z.dma.chan c).paced = false
      ∧ (∀ n, z.dma.live n = (if ((s.dma.live n).state = 1 ∨ (s.dma.live n).state = 2 ∨ (s.dma.live n).state = 4) ∧ cCh (ctxPeek s n) = c
          then { s.dma.live n with state := 4, cause := 3 } else s.dma.live n))
      ∧ z.ddr.bytes = s.ddr.bytes ∧ z.tiles = s.tiles)

/-- Descriptors, their elements, and the completion queues. -/
def Obligations.DescriptorsAndRecordsComplete : Prop :=
  Claims.DescriptorsComplete ∧ Claims.CompletionQueuesComplete
/-! ### The host attachment -/

/-- A host read of `n` bytes at BAR2 offset `off`, the device address `a`, reaches DDR5: the function and the start-up state let it, it lies
in the BAR and within capacity, and no channel has failed. -/
def Sys2Proof.Claims.Bar2Open (off n a : Nat) (s : State) : Prop :=
  a = s.host.bar2Off.toNat * 2 ^ 30 + off ∧ off + n ≤ bar2Gib (fld s.sec.straps 3 3) * 2 ^ 30 ∧ s.barOpen = true
    ∧ (s.sec.life = .chrysalis ∨ s.sec.life = .imago) ∧ a + n ≤ 128 * s.capLines ∧ s.flt.devFault = false

/-- The state in which a host read of BAR2 has taken the next number of its kind. -/
def Sys2Proof.Claims.tagged (s : State) : State := { s.linkUse with host := { s.linkUse.host with readTag := s.host.readTag + 1 } }

/-- R339, R355, R356, R394, R399 to R401, R507: BAR2 in CHRYSALIS and IMAGO: a write within capacity goes to DDR5 line by line at
offset plus BAR2_OFF GiB, each part joining its channel's queue; a poisoned one, and one with the BARs closed, is discarded and reported; a
read takes a line at once where its channel serves it, asks for it else, and is answered with the bytes of its lines, poisoned where one is
uncorrectable, when all have come; beyond capacity the access is counted, a write dropped, a read refused. -/
def Sys2Proof.Claims.Bar2Complete : Prop :=
  (∀ (off a : Nat) (bs : List (BitVec 8)) (s : State), Claims.Bar2Open off bs.length a s →
    exec (.hostBar2Write off bs false) s = .next (bar2Put (bs.length + 1) a bs s.linkUse))
  ∧ (∀ (off a : Nat) (b : BitVec 8) (s : State), Claims.Bar2Open off 1 a s → s.chanGated (a / 128) = false → mirrorOn s = false →
    exec (.hostBar2Write off [b] false) s = .next (s.linkUse.ddrRequest (a / 128) (.write (a % 128) [b] none) 2))
  ∧ (∀ (off n a : Nat) (errs : List BeatErr) (s s1 : State) (ls : List (Nat × Option (BitVec 1024 × Bool))), Claims.Bar2Open off n a s →
    bar2Get s.host.readTag errs (linesOf a n) (Claims.tagged s) = (ls, s1) →
    exec (.hostBar2Read off n errs) s = .next (
      if ls.all (fun x => x.2.isSome) then s1.toHost (.completion
        ((((ls.map fun x => unpackBytes 128 (x.2.getD (0, false)).1.toNat).flatten).drop (a % 128)).take n)
        ((ls.map fun x => x.2.getD (0, false)).any (·.2)) false)
      else { s1 with host := { s1.host with reads := s1.host.reads ++ [⟨s.host.readTag, a % 128, n, ls⟩] } }))
  ∧ (∀ (off n a : Nat) (be : BeatErr) (s : State), Claims.Bar2Open off n a s → 0 < n → a % 128 + n ≤ 128 → s.chanGated (a / 128) = false →
    (s.ddrFast (a / 128) = true →
      exec (.hostBar2Read off n [be]) s = .next ((ddrErr (a / 128) be ((Claims.tagged s).ddrOpen (a / 128))).toHost
        (.completion (((unpackBytes 128 (s.lineData (a / 128)).toNat).drop (a % 128)).take n) be.bad false)))
    ∧ (s.ddrFast (a / 128) = false →
      exec (.hostBar2Read off n [be]) s = .next
        (let z := (Claims.tagged s).ddrRequest (a / 128) (.bar2 s.host.readTag) 2
         { z with host := { z.host with reads := z.host.reads ++ [⟨s.host.readTag, a % 128, n, [(a / 128, none)]⟩] } })))
  ∧ (∀ (c i : Nat) (err : BeatErr) (s : State) (r : DdrReq) (x : BarRead), (s.chan c).queue[i]? = some r → r.kind = .bar2 x.tag →
    chanServes s c = true → stolenNow s c = false → gapTaskOn s c = false → mayServe (s.chan c) i r = true → err.bad = false →
    s.host.reads = [x] → x.lines = [(r.line, none)] →
    ∃ z, exec (.ddrRequestServe c i err) s = .next z
      ∧ z.host.out = .completion (((unpackBytes 128 (s.lineData r.line).toNat).drop x.skip).take x.len) false false :: s.host.out
      ∧ z.host.reads = [] ∧ z.ddr.bytes = s.ddr.bytes ∧ z.sc = s.sc ∧ z.tiles = s.tiles)
  ∧ (∀ (off : Nat) (bs : List (BitVec 8)) (s : State), off + bs.length ≤ bar2Gib (fld s.sec.straps 3 3) * 2 ^ 30 →
    (s.barOpen = true → exec (.hostBar2Write off bs true) s = .next (s.toHost (.aer 1)))
    ∧ (∀ ep, s.host.width ≠ 0 → s.host.memSpace = false → exec (.hostBar2Write off bs ep) s = .next (s.toHost (.aer 2))))
  ∧ (∀ (off n : Nat) (errs : List BeatErr) (s : State), off + n ≤ bar2Gib (fld s.sec.straps 3 3) * 2 ^ 30 →
    s.barOpen = true → (s.sec.life = .chrysalis ∨ s.sec.life = .imago) →
    128 * s.capLines < s.host.bar2Off.toNat * 2 ^ 30 + off + n →
    ∃ z, exec (.hostBar2Read off n errs) s = .next z
      ∧ z.host.out = .completion [] false true :: s.host.out ∧ z.host.bar2OorCnt = satAdd32 s.host.bar2OorCnt 1 ∧ z.ddr = s.ddr)

/-- R392 to R395, R403, R413, R415, R430, R547, R555: the PCIe function: FLR and link down close the BARs, turn MSI-X and the
heartbeat off and set the function's registers back (to the defaults of log entry 4, the model's), link down also losing the link and
counting; PERST; link training; L1 after 10 µs without traffic; configuration settings, and the identity and the types and sizes of the BARs
that configuration space reads; an enabled, unmasked pending vector sends its message. The offsets of configuration space, the places of the
BARs' type bits and the encoding of the completion time-out setting are the model's (log entry 92). -/
def Sys2Proof.Claims.PcieFunctionComplete : Prop :=
  (∀ (s : State), s.host.width ≠ 0 → ∃ z, exec .flr s = .next z
    ∧ z.host.busMaster = false ∧ z.host.memSpace = false ∧ z.host.msixEnable = false ∧ z.host.pba = 0 ∧ z.host.hbEn = false
    ∧ z.host.timeout = 0 ∧ z.host.bar2Off = 0 ∧ z.host.maxPayload = 128 ∧ z.host.maxRead = 512 ∧ z.host.msix = List.replicate 64 ⟨0, 0, true⟩
    ∧ z.host.bars = List.replicate 6 0 ∧ z.host.aerStatus = 0
    ∧ z.host.width = s.host.width ∧ z.ddr.bytes = s.ddr.bytes ∧ z.tiles = s.tiles ∧ z.sc = s.sc
    ∧ (cqMirrored s = false → z.bond = s.bond ∧ z.ddr = s.ddr))
  ∧ (∀ (s : State), s.host.width ≠ 0 → ∃ z, exec .linkDown s = .next z
    ∧ z.host.busMaster = false ∧ z.host.memSpace = false ∧ z.host.width = 0 ∧ z.host.hbEn = false
    ∧ z.host.downCnt = (if s.host.downCnt = 0xFFFF then s.host.downCnt else s.host.downCnt + 1)
    ∧ z.flt.linkDownAt = some s.te.time ∧ z.ddr.bytes = s.ddr.bytes ∧ z.tiles = s.tiles)
  ∧ (∀ (s : State), ∃ z, exec .perstAssert s = .next z ∧ z.host.perst = true ∧ z.host.width = 0 ∧ z.ddr.bytes = s.ddr.bytes ∧ z.tiles = s.tiles)
  ∧ (∀ (s : State), exec .perstRelease s = .next { s with host := { s.host with perst := false } })
  ∧ (∀ (w sp : BitVec 3) (flit : Bool) (s : State), s.host.width = 0 → s.host.perst = false → s.sec.life ≠ .egg →
    (w = 1 ∨ w = 2 ∨ w = 4) → 1 ≤ sp.toNat → sp.toNat ≤ 6 → (sp = 6 → flit = true) →
    exec (.pcieLinkUp w sp flit) s = .next { s with
      host := { s.host with
        width := w
        speed := sp
        flit := flit
        l1 := false
        trafficAt := s.te.time }
      flt := { s.flt with linkDownAt := none } })
  ∧ (∀ (s : State), s.host.width ≠ 0 → s.host.aspm = true →
    (s.host.trafficAt + 10000 ≤ s.te.time → exec .pcieL1Enter s = .next { s with host := { s.host with l1 := true } })
    ∧ (s.te.time < s.host.trafficAt + 10000 → exec .pcieL1Enter s = .next s))
  ∧ (∀ (b : Bool) (s : State), s.host.width ≠ 0 →
    exec (.pcieConfigWrite (.busMaster b) false) s = .next { s with host := { s.host with l1 := false, trafficAt := s.te.time, busMaster := b } }
    ∧ exec (.pcieConfigWrite (.memSpace b) false) s = .next { s with host := { s.host with l1 := false, trafficAt := s.te.time, memSpace := b } }
    ∧ exec (.pcieConfigWrite (.msixEnable b) false) s = .next { s with host := { s.host with l1 := false, trafficAt := s.te.time, msixEnable := b } }
    ∧ exec (.pcieConfigWrite (.msixMask b) false) s = .next { s with host := { s.host with l1 := false, trafficAt := s.te.time, msixMask := b } }
    ∧ exec (.pcieConfigWrite (.aspm b) false) s = .next { s with host := { s.host with l1 := false, trafficAt := s.te.time, aspm := b } })
  ∧ (∀ (n : Nat) (v : BitVec 4) (s : State), s.host.width ≠ 0 →
    (n ∈ [128, 256, 512] →
      exec (.pcieConfigWrite (.maxPayload n) false) s = .next { s with host := { s.host with l1 := false, trafficAt := s.te.time, maxPayload := n } })
    ∧ (n ∈ [128, 256, 512, 1024, 2048, 4096] →
      exec (.pcieConfigWrite (.maxRead n) false) s = .next { s with host := { s.host with l1 := false, trafficAt := s.te.time, maxRead := n } })
    ∧ ((timeoutNs v.toNat).isSome = true →
      exec (.pcieConfigWrite (.timeout v) false) s = .next { s with host := { s.host with l1 := false, trafficAt := s.te.time, timeout := v } }))
  ∧ (∀ (ep : Bool) (s : State), s.host.width ≠ 0 →
    exec (.pcieConfigWrite (.read 0) ep) s = .next (s.toHost (.completion [0x3C, 0x1F, 0x48, 0x00] false false))
    ∧ exec (.pcieConfigWrite (.read 8) ep) s = .next (s.toHost (.completion [0xB0, 0x00, 0x00, 0x12] false false))
    ∧ ∃ a b, exec (.pcieConfigWrite (.read 0x2C) ep) s = .next (s.toHost (.completion
        [a, b, if s.sec.grade.toNat = 0 then 0x12 else 0x10, 0x00] false false)))
  ∧ (∀ (i : Nat) (v : BitVec 32) (s : State), s.host.width ≠ 0 →
    exec (.pcieConfigWrite (.bar i v) false) s
      = .next { s with host := { s.host with l1 := false, trafficAt := s.te.time, bars := upd s.host.bars i fun _ => v } })
  ∧ (∀ (ep : Bool) (s : State), s.host.width ≠ 0 →
    (s.host.bars = List.replicate 6 0 →
      exec (.pcieConfigWrite (.read 0x10) ep) s = .next (s.toHost (.completion [0x04, 0x00, 0x00, 0x00] false false))
      ∧ exec (.pcieConfigWrite (.read 0x18) ep) s = .next (s.toHost (.completion [0x0C, 0x00, 0x00, 0x00] false false))
      ∧ exec (.pcieConfigWrite (.read 0x20) ep) s = .next (s.toHost (.completion [0x04, 0x00, 0x00, 0x00] false false)))
    ∧ (s.host.bars = List.replicate 6 0xFFFFFFFF →
      exec (.pcieConfigWrite (.read 0x10) ep) s = .next (s.toHost (.completion [0x04, 0x00, 0x00, 0xF0] false false))
      ∧ exec (.pcieConfigWrite (.read 0x20) ep) s = .next (s.toHost (.completion [0x04, 0x00, 0xFC, 0xFF] false false))))
  ∧ (∀ (k : Nat) (s : State) (e : MsixEntry), k < 64 → s.host.msix[k]? = some e → s.host.pba.getLsbD k = true →
    s.host.msixEnable = true → s.host.msixMask = false → e.masked = false → s.hostReach = true →
    exec (.msixSend k) s = .next { s with
      host := { s.host with
        pba := setBit s.host.pba k false
        out := .msix k e.addr e.data :: s.host.out
        l1 := false
        trafficAt := s.te.time } })

/-- BAR2 accesses, the PCIe function and its link. -/
def Obligations.PcieComplete : Prop :=
  Claims.Bar2Complete ∧ Claims.PcieFunctionComplete

/-- R407 to R412, R428: the heartbeat page goes out when its copy of TIME reaches the next multiple of 100 µs, GEN_BEGIN first and GEN_END
last with one generation more, or is skipped while the last is still written; DEV_HB_CTRL; a POST stores its half course in a mailbox with
SEQ one more, and with IRQ sets device source 80; an acknowledgement with its SEQ frees the mailbox, another is counted. -/
def Obligations.HeartbeatAndMailboxesComplete : Prop :=
  (∀ (s : State), s.host.hbEn = true → s.host.hbAt < s.te.dmaCopy / 100000 → s.gated .dma = false → s.hostReach = true →
    ∃ z page, exec (.heartbeatDue false) s = .next z
      ∧ page = hbPage { s with host := { s.host with hbAt := s.te.dmaCopy / 100000 } } (s.host.hbGen + 1)
      ∧ z.host.hbGen = s.host.hbGen + 1 ∧ z.host.hbAt = s.te.dmaCopy / 100000
      ∧ z.host.out.head? = some (.write (BitVec.ofNat 64 (4096 * s.host.hbAddr.toNat + 0x20)) ((page.drop 0x20).take 8))
      ∧ .write (BitVec.ofNat 64 (4096 * s.host.hbAddr.toNat)) (page.take 8) ∈ z.host.out
      ∧ z.dma = s.dma ∧ z.ddr = s.ddr ∧ z.tiles = s.tiles)
  ∧ (∀ (s : State), s.host.hbEn = true → s.host.hbAt < s.te.dmaCopy / 100000 → s.gated .dma = false →
    ∃ z, exec (.heartbeatDue true) s = .next z
      ∧ z.host.hbSkipCnt = satAdd32 s.host.hbSkipCnt 1 ∧ z.host.hbGen = s.host.hbGen ∧ z.host.out = s.host.out)
  ∧ (∀ (who : Who) (v : BitVec 32) (s : State), Claims.Writable who .always .yes s → s.host.hbEn = false →
    ∃ z, exec (.hbCtrlWrite who v) s = .next z
      ∧ z.host.hbRingsK = v.extractLsb' 1 6 ∧ z.host.hbEn = v.getLsbD 0
      ∧ z.host.hbGen = (if v.getLsbD 0 then 0 else s.host.hbGen) ∧ z.dma = s.dma ∧ z.tiles = s.tiles)
  ∧ (∀ (t : Nat) (u : Bool) (lost c : Nat) (s : State) (r : StepRun) (e : BitVec 512), ownEntry s t u 0x0A = some (r, e) →
    postCause e = none → c = e.toNat / 2 ^ 64 % 2 ^ 15 → inStep r c false = true →
    ((s.tile t).ts.read (128 * c + 64 * (if e.getLsbD 79 then 1 else 0)) 64).bad = [] →
    ∃ z, exec (.post t u lost) s = .next z
      ∧ z.host.mbOf (e.toNat / 2 ^ 32 % 2 ^ 8) =
        ⟨(s.host.mbOf (e.toNat / 2 ^ 32 % 2 ^ 8)).seq + 1, true,
          (s.host.mbOf (e.toNat / 2 ^ 32 % 2 ^ 8)).overrun || (s.host.mbOf (e.toNat / 2 ^ 32 % 2 ^ 8)).valid,
          BitVec.ofNat 512 ((s.tile t).ts.read (128 * c + 64 * (if e.getLsbD 79 then 1 else 0)) 64).data⟩
      ∧ (∀ n, n ≠ e.toNat / 2 ^ 32 % 2 ^ 8 → z.host.mbOf n = s.host.mbOf n)
      ∧ (e.getLsbD 40 = true → z.ic.pend.getLsbD 80 = true) ∧ (e.getLsbD 40 = false → z.ic = s.ic)
      ∧ (∀ j, (z.tile j).ts.bytes = (s.tile j).ts.bytes) ∧ z.ddr = s.ddr)
  ∧ (∀ (who : Who) (n : Nat) (v : BitVec 32) (s : State), n < 256 → Claims.Writable who .always .yes s →
    (s.host.mbOf n).valid = true → (s.host.mbOf n).seq = v →
    exec (.resAckWrite who n v) s = .next ((Claims.came who s).updMb n fun m => { m with valid := false, overrun := false }))
  ∧ (∀ (who : Who) (n : Nat) (v : BitVec 32) (s : State), n < 256 → Claims.Writable who .always .yes s →
    ((s.host.mbOf n).valid = false ∨ (s.host.mbOf n).seq ≠ v) →
    ∃ z, exec (.resAckWrite who n v) s = .next z ∧ z.host.mb = s.host.mb ∧ z.host.ackMissCnt = satAdd32 s.host.ackMissCnt 1)
/-! ### TIME, event pins, interrupt controllers -/

/-- R417 to R421, R428: TIME advances by 1 a cycle, a hold keeps it and its last cycle ends it (a TIME_HOLD_END of its own: the model's
choice, log entry 48); SLOT_SYNC captures TIME within 1 ns either way, and its error is acted on: 0 corrects nothing, one within 1,000 ns is
slewed, one beyond, or any other at the first measurement, is a step or a hold, which device source 83 reports. -/
def Obligations.TimeCompletes : Prop :=
  (∀ (s : State), s.te.running = true → s.te.hold = 0 → s.te.slew = none → s.te.time + 1 < 2 ^ 64 →
    ∃ z, exec .timeTick s = .next z
      ∧ z.te.time = s.te.time + 1 ∧ z.te.slew = none ∧ z.te.hold = 0 ∧ z.te.alarm = s.te.alarm ∧ z.te.pulses = s.te.pulses
      ∧ (∀ t, t < s.te.tileCopy.length → s.te.tileCopy.getD t 0 ≤ z.te.tileCopy.getD t 0)
      ∧ z.tiles = s.tiles ∧ z.dma = s.dma ∧ z.clk = s.clk)
  ∧ (∀ (s : State) (n phase : Nat) (gain : Bool), s.te.running = true → s.te.hold = 0 → s.te.slew = some ⟨n, gain, phase⟩ →
    1024 ≤ phase + 1 → s.te.time + 2 < 2 ^ 64 →
    ∃ z, exec .timeTick s = .next z ∧ z.te.time = s.te.time + (if gain then 2 else 0)
      ∧ z.te.slew = (if n ≤ 1 then none else some ⟨n - 1, gain, 0⟩))
  ∧ (∀ (s : State), s.te.running = true → 1 < s.te.hold →
    ∃ z, exec .timeTick s = .next z ∧ z.te.time = s.te.time ∧ z.te.hold = s.te.hold - 1)
  ∧ (∀ (s : State), s.te.running = true → s.te.hold = 1 →
    ∃ z, exec .timeHoldEnd s = .next z ∧ z.te.time = s.te.time ∧ z.te.hold = 0 ∧ z.tiles = s.tiles)
  ∧ (∀ (s : State) (off : Nat), s.te.running = true → off ≤ 2 → s.te.src ≠ 1 →
    exec (.slotSyncEdge off) s = .next { s with te := { s.te with syncCap := s.te.time + off - 1 } })
  ∧ (∀ (s : State) (off c : Nat) (e : Int), s.te.running = true → off ≤ 2 → s.te.src = 1 → c = s.te.time + off - 1 →
    e = (nearestBoundary s.te.period.toNat s.te.phase.toNat c : Int) - (c : Int) → e ≠ 0 →
    ∃ z, exec (.slotSyncEdge off) s = .next z
      ∧ z.te.syncCap = c ∧ z.te.aligned = true ∧ z.te.firstMeas = false
      ∧ z.te.err = BitVec.ofNat 32 (wrap 32 (satS 32 e))
      ∧ (if s.te.firstMeas = true ∨ 1000 < e.natAbs then
          z.te.stepCnt = satAdd32 s.te.stepCnt 1 ∧ z.te.slew = none ∧ z.ic.pend = s.ic.pend ||| BitVec.ofNat 512 (2 ^ 83)
            ∧ (if 0 < e then z.te.time = (s.te.time + e.natAbs) % 2 ^ 64 ∧ z.te.hold = 0 else z.te.time = s.te.time ∧ z.te.hold = e.natAbs)
        else z.te.time = s.te.time ∧ z.te.hold = 0 ∧ z.te.slew = some ⟨e.natAbs, decide (0 < e), 0⟩ ∧ z.te.stepCnt = s.te.stepCnt
          ∧ z.ic = s.ic))
  ∧ (∀ (s : State) (off : Nat), s.te.running = true → off ≤ 2 → s.te.src = 1 →
    nearestBoundary s.te.period.toNat s.te.phase.toNat (s.te.time + off - 1) = s.te.time + off - 1 →
    exec (.slotSyncEdge off) s = .next { s with
      te := { s.te with syncCap := s.te.time + off - 1, err := 0, aligned := true, firstMeas := false, slew := none, hold := 0 } })
  ∧ (∀ (who : Who) (v : BitVec 32) (s : State), Claims.Writable who .always .no s →
    exec (.timeCtrlWrite who v) s = .next { Claims.came who s with
      te := { (Claims.came who s).te with src := v.setWidth 2, aligned := false, firstMeas := true } })

/-- R293, R419, R422 to R425, R428: slot ticks, alarms, pins and the pulse register: each pulse sets its device source, is in
flight to the tiles, and is heard by the EVT_OUT pins; a repeating alarm moves one period on, or, when a step of TIME has passed
several of its repeats, beyond TIME; an input edge is counted and pulses its line; an output pin toggles, which cancels a pulse's
end still due (the model's choice, log entry 49), or pulses for its width. -/
def Obligations.EventSourcesComplete : Prop :=
  (∀ (s : State) (b : Nat), lastBoundary s.te.period.toNat s.te.phase.toNat s.te.hubCopy = some b → s.te.tickCfg.getLsbD 6 = true →
    s.te.tickDone ≤ b →
    exec .slotTick s = .next (({ s with te := { s.te with tickDone := b + 1 } }).pulse
      (BitVec.ofNat 64 (2 ^ (s.te.tickCfg.toNat % 64)))))
  ∧ (∀ (k : Nat) (s : State), k < 4 → (s.te.alarmCfg.getD k 0).getLsbD 6 = true → (s.te.alarm.getD k 0).toNat ≤ s.te.hubCopy →
    exec (.alarmFire k) s = .next (({ s with
      te := if (s.te.alarmCfg.getD k 0).getLsbD 7 then
          { s.te with
            alarmSkip := setBit s.te.alarmSkip k false
            alarm := lput s.te.alarm k (BitVec.ofNat 64 (
              let a := (s.te.alarm.getD k 0).toNat
              let p := s.te.period.toNat
              if s.te.alarmSkip.getLsbD k = false ∨ p = 0 ∨ s.te.time < a + p then a + p
              else a + ((s.te.time - a) / p + 1) * p)) }
        else { s.te with alarmCfg := lput s.te.alarmCfg k (setBit (s.te.alarmCfg.getD k 0) 6 false) } }).pulse
          (BitVec.ofNat 64 (2 ^ ((s.te.alarmCfg.getD k 0).toNat % 64)))))
  ∧ (∀ (k : Nat) (level : Bool) (s : State) (c : BitVec 32), k < 4 → s.alive = true → s.te.inLevel.getD k false ≠ level → c = s.te.inCfg.getD k 0 →
    c.getLsbD 6 = true →
    (c.toNat / 256 % 4 = 2 ∨ (c.toNat / 256 % 4 = 0 ∧ level = true) ∨ (c.toNat / 256 % 4 = 1 ∧ level = false)) →
    exec (.evtInEdge k level false) s = .next (({ s with
      te := { s.te with
        inLevel := lput s.te.inLevel k level, inCnt := upd s.te.inCnt k fun n => satAdd32 n 1
        inAt := lput s.te.inAt k (some s.cycle) } }).pulse (BitVec.ofNat 64 (2 ^ (c.toNat % 64)))))
  ∧ (∀ (k : Nat) (s : State) (p : EvtOut) (r : List PinEdge), k < 4 → s.te.out[k]? = some p →
    (∀ w, p.edges = .pulse true w :: r →
      exec (.evtOutEdge k) s = .next (s.updOut k fun _ => { p with edges := r, level := !p.level, until_ := none }))
    ∧ (∀ w, p.edges = .pulse false w :: r →
      exec (.evtOutEdge k) s = .next (s.updOut k fun _ => { p with edges := r, level := true, until_ := some (s.cycle + w) }))
    ∧ (∀ c, p.until_ = some c → c ≤ s.cycle →
      exec (.evtOutWidthEnd k) s = .next (s.updOut k fun _ => { p with level := false, until_ := none })))
  ∧ (∀ (who : Who) (k : Nat) (v : BitVec 32) (s : State), k < 4 → Claims.Writable who .always .yes s →
    exec (.evtOutCfgWrite who k v) s = .next ((Claims.came who s).updOut k fun p =>
      { p with
        cfg := v &&& 0x00FF00FF#32
        edges := if p.cfg.getLsbD 6 = true ∧ v.getLsbD 6 = false then p.edges ++ [.off] else p.edges }))
  ∧ (∀ (who : Who) (lines : BitVec 64) (s : State), lines ≠ 0 → Claims.Writable who .always .yes s →
    ∃ z, exec (.evtPulseWrite who lines) s = .next z
      ∧ z.te.pulses = addPulse s.cycle lines s.te.pulses ∧ z.ic.pend = s.ic.pend ||| (lines.setWidth 512 <<< 128) ∧ z.tiles = s.tiles)

/-- What CLR writes of this cycle have named of bits with SET and CLR addresses (R9). -/
def Sys2Proof.Claims.clrNow {w : Nat} (c : SameCycle w) (s : State) : BitVec w := if c.at_ = s.cycle then c.clr else 0

/-- What events of this cycle have set of them. -/
def Sys2Proof.Claims.occNow {w : Nat} (c : SameCycle w) (s : State) : BitVec w := if c.at_ = s.cycle then c.occ else 0

/-- R9, R426, R429 to R431, R433, R435, R436: the set and clear registers of the interrupt controllers change the bits written
and no others, a CLR of the same cycle (cycles as log entry 94 has them)
taking effect after a SET and an event of it after a CLR; a source that an IC_PEND_SET or an IC_HMASK_CLR makes pending and
unblocked for the host sets its PBA bit; the level registers and the routing are written. That a tile's IC registers answer the host and
the quoin whether or not the tile is fenced, while its clock runs, is the model's choice (log entry 59). -/
def Obligations.InterruptRegistersComplete : Prop :=
  (∀ (who : Who) (w : Nat) (v : BitVec 32) (s : State), w < 16 →
    (Claims.Writable who .always .yes s →
      (∃ z, exec (.icPendSet who w v) s = .next z
        ∧ z.ic.pend = s.ic.pend ||| (v.setWidth 512 <<< (32 * w) &&& ~~~Claims.clrNow s.ic.pendC s) ∧ z.ic.qmask = s.ic.qmask ∧ z.ic.hmask = s.ic.hmask
        ∧ z.ic.qlevel = s.ic.qlevel ∧ z.ic.route = s.ic.route ∧ z.tiles = s.tiles
        ∧ z.host.pba = s.host.pba ||| newVectors s.ic
            { s.ic with pend := s.ic.pend ||| (v.setWidth 512 <<< (32 * w) &&& ~~~Claims.clrNow s.ic.pendC s) })
      ∧ (∃ z, exec (.icPendClr who w v) s = .next z
        ∧ z.ic.pend = s.ic.pend &&& ~~~(v.setWidth 512 <<< (32 * w) &&& ~~~Claims.occNow s.ic.pendC s) ∧ z.ic.qmask = s.ic.qmask ∧ z.ic.hmask = s.ic.hmask
        ∧ z.tiles = s.tiles)
      ∧ (∃ z, exec (.icMaskSet who true w v) s = .next z
        ∧ z.ic.hmask = s.ic.hmask ||| (v.setWidth 512 <<< (32 * w) &&& ~~~Claims.clrNow s.ic.hmaskC s) ∧ z.ic.qmask = s.ic.qmask ∧ z.ic.pend = s.ic.pend)
      ∧ (∃ z, exec (.icMaskClr who true w v) s = .next z
        ∧ z.ic.hmask = s.ic.hmask &&& ~~~(v.setWidth 512 <<< (32 * w) &&& ~~~Claims.occNow s.ic.hmaskC s) ∧ z.ic.qmask = s.ic.qmask ∧ z.ic.pend = s.ic.pend
        ∧ z.host.pba = s.host.pba ||| newVectors s.ic
            { s.ic with hmask := s.ic.hmask &&& ~~~(v.setWidth 512 <<< (32 * w) &&& ~~~Claims.occNow s.ic.hmaskC s) }))
    ∧ (Claims.Writable who .always .no s →
      (∃ z, exec (.icMaskSet who false w v) s = .next z
        ∧ z.ic.qmask = s.ic.qmask ||| (v.setWidth 512 <<< (32 * w) &&& ~~~Claims.clrNow s.ic.qmaskC s) ∧ z.ic.hmask = s.ic.hmask ∧ z.ic.pend = s.ic.pend)
      ∧ (∃ z, exec (.icMaskClr who false w v) s = .next z
        ∧ z.ic.qmask = s.ic.qmask &&& ~~~(v.setWidth 512 <<< (32 * w) &&& ~~~Claims.occNow s.ic.qmaskC s) ∧ z.ic.hmask = s.ic.hmask ∧ z.ic.pend = s.ic.pend)
      ∧ (∃ z, exec (.icLevelWrite who (.quoin w) (v.setWidth 64)) s = .next z
        ∧ z.ic.qlevel = setFld s.ic.qlevel (32 * w) 32 v.toNat ∧ z.ic.pend = s.ic.pend ∧ z.tiles = s.tiles)))
  ∧ (∀ (who : Who) (t : Nat) (v : BitVec 64) (s : State), t < 16 → s.tiles.length = 16 →
    (Claims.Writable who (icBlk who t) .yes s → ∃ z, exec (.icTpendSet who t v) s = .next z
      ∧ (z.tile t).ic.pend = (s.tile t).ic.pend ||| (v &&& ~~~Claims.clrNow (s.tile t).ic.pendC s) ∧ (z.tile t).ic.mask = (s.tile t).ic.mask
      ∧ (z.tile t).ic.level = (s.tile t).ic.level ∧ (z.tile t).seq = (s.tile t).seq ∧ (∀ j, j ≠ t → z.tile j = s.tile j))
    ∧ (Claims.Writable who (icBlk who t) .no s →
      (∃ z, exec (.icTpendClr who t v) s = .next z
        ∧ (z.tile t).ic.pend = (s.tile t).ic.pend &&& ~~~(v &&& ~~~Claims.occNow (s.tile t).ic.pendC s) ∧ (z.tile t).ic.mask = (s.tile t).ic.mask
        ∧ (∀ j, j ≠ t → z.tile j = s.tile j))
      ∧ (∃ z, exec (.icTmaskSet who t v) s = .next z
        ∧ (z.tile t).ic.mask = (s.tile t).ic.mask ||| (v &&& ~~~Claims.clrNow (s.tile t).ic.maskC s) ∧ (z.tile t).ic.pend = (s.tile t).ic.pend
        ∧ (∀ j, j ≠ t → z.tile j = s.tile j))
      ∧ (∃ z, exec (.icTmaskClr who t v) s = .next z
        ∧ (z.tile t).ic.mask = (s.tile t).ic.mask &&& ~~~(v &&& ~~~Claims.occNow (s.tile t).ic.maskC s) ∧ (z.tile t).ic.pend = (s.tile t).ic.pend
        ∧ (∀ j, j ≠ t → z.tile j = s.tile j))
      ∧ (∃ z, exec (.icLevelWrite who (.tile t) v) s = .next z
        ∧ (z.tile t).ic = { (s.tile t).ic with level := v } ∧ (∀ j, j ≠ t → z.tile j = s.tile j))
      ∧ (∃ z, exec (.icLevelWrite who (.tileLow t) v) s = .next z
        ∧ (z.tile t).ic = { (s.tile t).ic with level := setFld (s.tile t).ic.level 0 32 v.toNat } ∧ (∀ j, j ≠ t → z.tile j = s.tile j))
      ∧ (∃ z, exec (.icLevelWrite who (.tileHigh t) v) s = .next z
        ∧ (z.tile t).ic = { (s.tile t).ic with level := setFld (s.tile t).ic.level 32 32 v.toNat }
        ∧ (∀ j, j ≠ t → z.tile j = s.tile j))))
  ∧ (∀ (who : Who) (k : Nat) (v : BitVec 32) (s : State), k < 512 → Claims.Writable who .always .yes s →
    exec (.icRouteWrite who k v) s = .next { Claims.came who s with
      ic := { (Claims.came who s).ic with route := sset (fun k => BitVec.ofNat 6 k) s.ic.route k (v.setWidth 6) } })

/-! ### Clocks and power -/

/-- R437 to R442, R486, R491, R515: a source is judged by its window against MON_CLK, in normal service by one within 2 per cent, before it
REFCLK by two within 15 (that one is enough, and that a source's state is lost as SAFE_HOLD is entered: the model's choice, log entry 50);
the first QUALIFIED source is taken, and the quoin's boot ROM reads the raw PUF then, REFCLK where both qualify in one cycle of EGG; the
active one's failure switches to a QUALIFIED other, or, with none, everything is lost and SAFE_HOLD is entered, which a QUALIFIED source
ends by a restart from EGG. -/
def Sys2Proof.Claims.ClockSourcesComplete : Prop :=
  (∀ (xtal : Bool) (n : Nat) (s : State), s.sec.resetLow = false → s.sec.tripped = false → s.clk.srcState xtal = 1 →
    s.cal.windowSpoilt.getD (if xtal then 1 else 0) false = false → s.clk.normal = true →
    s.clk.chosen = true → s.clk.chosenAt ≠ some s.cycle → 100 * n ≤ 102 * windowCount xtal → 98 * windowCount xtal ≤ 100 * n →
    exec (.clkWindowEnd xtal n) s = .next { s with clk := s.clk.setSrc xtal 2 })
  ∧ (∀ (n : Nat) (s : State), s.sec.resetLow = false → s.sec.tripped = false → s.clk.refState = 1 → s.clk.refGood = 1 →
    s.cal.windowSpoilt.getD 0 false = false → s.clk.normal = false → s.clk.safeHold = false → 100 * n ≤ 115 * 327680 → 85 * 327680 ≤ 100 * n →
    ∃ z, exec (.clkWindowEnd false n) s = .next z
      ∧ z.clk.refState = 2 ∧ z.clk.chosen = true
      ∧ z.clk.activeXtal = (if s.clk.chosen = true ∧ ¬ (s.sec.life = .egg ∧ s.clk.chosenAt = some s.cycle) then s.clk.activeXtal else false)
      ∧ z.sec.raw = (if s.clk.chosen = true then s.sec.raw else pufRaw s) ∧ z.tiles = s.tiles ∧ z.quoin = s.quoin)
  ∧ (∀ (s : State), s.clk.xtalState = 1 → s.clk.normal = false → s.sec.resetLow = false → s.sec.tripped = false → s.clk.chosen = false →
    s.clk.safeHold = false →
    ∃ z, exec .xtalAmplitudeDone s = .next z
      ∧ z.clk.xtalState = 2 ∧ z.clk.chosen = true ∧ z.clk.activeXtal = true ∧ z.sec.raw = pufRaw s ∧ z.tiles = s.tiles)
  ∧ (∀ (xtal : Bool) (s : State), s.clk.srcState xtal = 2 → s.sec.resetLow = false → s.sec.tripped = false → s.clk.chosen = true →
    s.clk.activeXtal = xtal →
    (s.clk.srcState (!xtal) = 2 → ∃ z, exec (.clkStopDetect xtal) s = .next z
      ∧ z.clk.srcState xtal = 3 ∧ z.clk.activeXtal = !xtal ∧ z.clk.holdover = true ∧ z.clk.switchCnt = satAdd32 s.clk.switchCnt 1
      ∧ z.ic.pend.getLsbD 298 = true ∧ z.tiles = s.tiles ∧ z.ddr = s.ddr ∧ z.te = s.te)
    ∧ (s.clk.srcState (!xtal) ≠ 2 → ∃ z, exec (.clkStopDetect xtal) s = .next z
      ∧ z.clk.safeHold = true ∧ z.sec.life = .egg ∧ z.tiles = State.reset.tiles ∧ z.ddr.bytes = [] ∧ z.ddr.gen = s.ddr.gen + 1
      ∧ z.quoin.puf = s.quoin.puf ∧ z.pending = s.pending))
  ∧ (∀ (s : State), s.clk.xtalState = 1 → s.clk.normal = false → s.sec.resetLow = false → s.sec.tripped = false → s.clk.chosen = true →
    exec .xtalAmplitudeDone s = .next { s with clk := { s.clk with xtalState := 2 } })
  ∧ (∀ (s : State), s.clk.xtalState = 2 → s.clk.normal = false → s.sec.resetLow = false → s.sec.tripped = false →
    s.clk.activeXtal = false →
    exec .xtalAmplitudeLoss s = .next { s with clk := { s.clk with xtalState := 3 } })
  ∧ (∀ (xtal : Bool) (s : State), (s.clk.srcState xtal = 0 ∨ s.clk.srcState xtal = 3) → (xtal = true → s.clk.xtalEn = true) →
    s.sec.resetLow = false → s.sec.tripped = false →
    ∃ z, exec (.clkSourceEdgesReturn xtal) s = .next z
      ∧ z.clk.srcState xtal = 1 ∧ z.clk.srcState (!xtal) = s.clk.srcState (!xtal) ∧ z.tiles = s.tiles
      ∧ z.cal.windowSpoilt = lput s.cal.windowSpoilt (if xtal then 1 else 0) false)
  ∧ (∀ (s : State), exec .pllReacquireDone s = .next { s with clk := { s.clk with holdover := false } })
  ∧ (∀ (st : BitVec 6) (s : State), s.clk.safeHold = true → s.sec.resetLow = false → s.sec.tripped = false →
    (s.clk.refState = 2 ∨ s.clk.xtalState = 2) →
    ∃ z, exec (.safeHoldRestart st) s = .next z
      ∧ z.sec.life = .egg ∧ z.sec.straps = st ∧ z.clk.safeHold = false ∧ z.clk.causeSafe = true ∧ z.clk.causeReset = false
      ∧ z.clk.chosen = true ∧ z.clk.activeXtal = decide (s.clk.refState ≠ 2) ∧ z.chain.head = st.getLsbD 1 ∧ z.bond.active = st.getLsbD 2)
  ∧ (∀ (who : Who) (v : BitVec 32) (s : State), Claims.Writable who .always .no s → v.getLsbD 0 = true → v.getLsbD 1 = true →
    s.clk.activeXtal = true → s.clk.chosen = true → s.clk.refState = 2 →
    ∃ z, exec (.clkRevert who v) s = .next z
      ∧ z.clk.activeXtal = false ∧ z.clk.holdover = true ∧ z.clk.xtalEn = true ∧ z.clk.switchCnt = satAdd32 s.clk.switchCnt 1)
  ∧ (∀ (who : Who) (v : BitVec 32) (s : State), Claims.Writable who .always .no s → v.getLsbD 0 = false → v.getLsbD 1 = true →
    exec (.xtalEnWrite who v) s = .next { Claims.came who s with clk := { (Claims.came who s).clk with xtalEn := true } })

/-- R9, R445 to R452, R455, R458, R514: an operating-point change: a raise writes its voltage first, then settles, parks the tiles and
ramps the divider; a lower parks and ramps first and then writes it; an unacknowledged voltage is abandoned after 1 ms, with any target
that waits (the model's choice, log entry 51); clock enables and gates, which a block in the middle of an access holds up (its access as
log entry 88 names it), and a gated DDR5 channel is in self-refresh, two of its calibration tasks due when it runs again; the CLK_OUT
configuration. -/
def Sys2Proof.Claims.OperatingPointComplete : Prop :=
  (∀ (who : Who) (v : BitVec 32) (s : State), Claims.Writable who .always .yes s → s.flt.devFault = false →
    s.mor.mixed = false → s.clk.avsErr = false → s.clk.dvfs = .idle → v.toNat % 4 < s.clk.point.toNat →
    ¬ (v.toNat % 4 = 0 ∧ s.sec.grade = 1) →
    exec (.dvfsRequest who v) s = .next { Claims.came who s with
      clk := { (Claims.came who s).clk with
        dvfsReq := v &&& 0x1FF#32, target := v.setWidth 2, nextTarget := none, dvfs := .avs, dvfsFrom := s.te.time
        avsMv := s.clk.opp.getD (v.toNat % 4) 0 } })
  ∧ (∀ (who : Who) (v : BitVec 32) (s : State), Claims.Writable who .always .yes s → s.flt.devFault = false →
    s.mor.mixed = false → s.clk.avsErr = false → s.clk.dvfs = .idle → s.clk.point.toNat < v.toNat % 4 →
    s.mor.fenced ≠ BitVec.allOnes 16 →
    exec (.dvfsRequest who v) s = .next { Claims.came who s with
      clk := { (Claims.came who s).clk with
        dvfsReq := v &&& 0x1FF#32, target := v.setWidth 2, nextTarget := none, dvfs := .park, dvfsFrom := s.te.time
        parkPending := ~~~s.mor.fenced } })
  ∧ (∀ (s : State), s.clk.dvfs = .avs →
    exec .avsAck s = .next { s with clk := { s.clk with dvfs := .settle, dvfsFrom := s.te.time, millivolt := s.clk.avsMv.toNat } })
  ∧ (∀ (s : State), s.clk.dvfs = .settle → s.clk.dvfsFrom + 1000 * s.clk.avsSettle.toNat ≤ s.te.time →
    s.clk.point.toNat ≤ s.clk.target.toNat → s.clk.nextTarget = none → s.clk.dvfsReq.getLsbD 8 = false →
    exec .avsSettleDone s = .next { s with
      clk := { s.clk with point := s.clk.target, dvfs := .idle, dvfsCnt := satAdd32 s.clk.dvfsCnt 1 } })
  ∧ (∀ (s : State), s.clk.dvfs = .avs → s.clk.dvfsFrom + 1000000 ≤ s.te.time →
    ∃ z, exec .avsTimeout s = .next z
      ∧ z.clk.dvfs = .idle ∧ z.clk.avsErr = true ∧ z.clk.nextTarget = none
      ∧ z.clk.point = (if s.clk.target.toNat < s.clk.point.toNat then s.clk.point else s.clk.target)
      ∧ z.ic.pend.getLsbD 299 = true ∧ z.tiles = s.tiles)
  ∧ (∀ (t j : Nat) (s : State), s.clk.dvfs = .park → t < 16 → s.clk.parkPending.getLsbD t = true →
    (s.tile t).st.free s.cycle = true → j < 16 → j ≠ t → s.clk.parkPending.getLsbD j = true → s.tiles.length = 16 →
    ∃ z, exec (.tilePark t) s = .next z
      ∧ (z.tile t).st.parked = true ∧ z.clk = { s.clk with parkPending := setBit s.clk.parkPending t false }
      ∧ (∀ k, k ≠ t → z.tile k = s.tile k))
  ∧ (∀ (s : State), s.clk.dvfs = .ramp → (divStep s.clk).divider ≠ pointDiv s.clk.target →
    exec .dividerStep s = .next { s with
      clk := { s.clk with divider := if s.clk.divider < pointDiv s.clk.target then s.clk.divider + 1
        else if s.clk.divider > pointDiv s.clk.target then s.clk.divider - 1 else s.clk.divider } })
  ∧ (∀ (who : Who) (v : BitVec 32) (s : State), Claims.Writable who .always .no s →
    exec (.clkEnSet who v) s = .next
      (let on := v.setWidth 29 &&& ~~~Claims.clrNow s.clk.enC s
       (List.range 8).foldl (fun z c => if (s.clk.gate ||| on).getLsbD (18 + c) && !s.clk.gate.getLsbD (18 + c) then calDueNow c z else z)
        { Claims.came who s with clk := { (Claims.came who s).clk with en := s.clk.en ||| on, gate := s.clk.gate ||| on } })
    ∧ exec (.clkEnClr who v) s = .next { Claims.came who s with
      clk := { (Claims.came who s).clk with
        en := s.clk.en &&& ~~~(v.setWidth 29 &&& ~~~Claims.occNow s.clk.enC s)
        enC := ⟨s.cycle, Claims.clrNow s.clk.enC s ||| v.setWidth 29, Claims.occNow s.clk.enC s⟩ } })
  ∧ (∀ (k : Nat) (s : State), k < 29 → s.clk.en.getLsbD k = false → s.clk.gate.getLsbD k = true → gateBusy k s = false →
    exec (.gateApply k) s = .next
      (let z := { s with clk := { s.clk with gate := setBit s.clk.gate k false } }
       if 18 ≤ k ∧ k ≤ 25 then z.updChan (k - 18) fun c => { c with sr := c.trained, rows := [] } else z))
  ∧ (∀ (k : Nat) (s : State), gateBusy k s = true → exec (.gateApply k) s = .next s)
  ∧ (∀ (who : Who) (v : BitVec 32) (s : State), Claims.Writable who .always .yes s →
    exec (.clkOutCfgWrite who v) s = .next { Claims.came who s with
      clk := { (Claims.came who s).clk with outCfg := v &&& 0x0FFF007F#32 } })

/-- Clock sources, gating, and the change of operating point. -/
def Obligations.ClocksAndPowerComplete : Prop :=
  Claims.ClockSourcesComplete ∧ Claims.OperatingPointComplete
/-! ### The chain -/

/-- R460 to R464, R467: addressing: an ASSIGN gives a device without an address its PAYLOAD as address and goes on with PAYLOAD and HOP
one more, or is dropped with HOP 15; an odd address has a partner, and so has an even one with a device after it, the roles following from
the straps; one with PAYLOAD 16 or more makes the chain too large. Back at the head it gives the chain's size, with a partner from 2
devices on, and the chain's times are measured, unless a second head shows or the size is above 16; none back is repeated after 1 ms, and
after 10 ms the chain is broken and the head has no address; a device that a boot error has stopped takes no address. The model's choices:
that an ASSIGN which finds the chain too large goes on with HOP held at 15, that an operand says whether an ASSIGN is the head's own, and
that a head whose addressing fails has no address (log entry 52), that an operand tells an even address of its partner and its strap (log
entry 54), and when the console tells that item 6 ends (log entry 55). -/
def Obligations.ChainAddressingCompletes : Prop :=
  (∀ (f : BitVec 64) (mark : AssignMark) (s : State), chainGood 1 f s = true → s.sec.bootFail = false → s.chain.head = false → s.chain.assigned = false →
    fPay f < 16 →
    ∃ z, exec (.chainAssignRx f mark) s = .next z
      ∧ z.chain.addr = BitVec.ofNat 4 (fPay f) ∧ z.chain.assigned = true ∧ z.chain.slotSeen = s.te.time
      ∧ z.chain.txq = (if fHop f = 15 then s.chain.txq
          else s.chain.txq ++ [mkFrame 1 (fSrc f) (fDst f) (fBcast f) (fSub f) (fHop f + 1) (fPay f + 1)])
      ∧ z.chain.dropCnt = (if fHop f = 15 then satAdd32 s.chain.dropCnt 1 else s.chain.dropCnt)
      ∧ z.tiles = s.tiles ∧ z.te = s.te
      ∧ (s.bond.paired = true ∨ (fPay f % 2 = 0 ∧ mark.partner = false) → z.bond = s.bond)
      ∧ (s.bond.paired = false → fPay f % 2 = 1 ∨ mark.partner = true →
          z.bond.paired = true ∧ z.bond.wbAt = s.te.time / 10000 + 1 ∧ z.bond.wbEnd = s.te.time / 10000 + 1 ∧ z.bond.roleSet = true
          ∧ (s.bond.roleSet = false →
              z.bond.active = (if s.sec.straps.getLsbD 2 = mark.strap then decide (fPay f % 2 = 0) else s.sec.straps.getLsbD 2)
              ∧ z.bond.roleConflict = (s.bond.roleConflict || decide (s.sec.straps.getLsbD 2 = mark.strap)))))
  ∧ (∀ (f : BitVec 64) (mark : AssignMark) (s : State), chainGood 1 f s = true → s.sec.bootFail = false → s.chain.head = false → s.chain.assigned = false →
    16 ≤ fPay f →
    exec (.chainAssignRx f mark) s = .next
      (let z := addressed { s with chain := { s.chain with oversize := true } }
       { z with
         chain := { z.chain with
           txq := z.chain.txq ++ [mkFrame 1 (fSrc f) (fDst f) (fBcast f) (fSub f) (min 15 (fHop f + 1)) 0xFFFFFFFF] } }))
  ∧ (∀ (f : BitVec 64) (mark : AssignMark) (s : State), chainGood 1 f s = true → s.sec.bootFail = true →
    exec (.chainAssignRx f mark) s = .next (chainHandle f id id s))
  ∧ (∀ (f : BitVec 64) (mark : AssignMark) (s : State), chainGood 1 f s = true → s.sec.bootFail = false → s.chain.head = true → mark.mine = true →
    0 < s.chain.assignOut → s.chain.size = 0 →
    s.chain.dupHead = false → s.chain.oversize = false → 1 ≤ fPay f → fPay f ≤ 16 →
    ∃ z, exec (.chainAssignRx f mark) s = .next z
      ∧ z.chain.size = BitVec.ofNat 5 (fPay f) ∧ z.chain.assigned = true ∧ z.chain.broken = false
      ∧ z.chain.assignOut = s.chain.assignOut - 1 ∧ z.chain.txq = s.chain.txq ++ [mkFrame 2 0 0 true 0 0 0]
      ∧ z.bond.paired = decide (1 < fPay f) ∧ (fPay f = 1 → z.bond.linkUp = false))
  ∧ (∀ (f : BitVec 64) (mark : AssignMark) (s : State), chainGood 1 f s = true → s.sec.bootFail = false → s.chain.head = true → mark.mine = true →
    0 < s.chain.assignOut → s.chain.size = 0 →
    s.chain.dupHead = false → s.chain.oversize = false → 16 < fPay f →
    ∃ z, exec (.chainAssignRx f mark) s = .next z
      ∧ z.chain.oversize = true ∧ z.chain.assigned = false ∧ z.chain.size = 0 ∧ z.bond.paired = false ∧ z.bond.linkUp = false)
  ∧ (∀ (f : BitVec 64) (mark : AssignMark) (s : State), chainGood 1 f s = true → s.sec.bootFail = false → s.chain.head = true → (mark.mine = false ∨ s.chain.assignOut = 0) →
    fSrc f = 0 →
    exec (.chainAssignRx f mark) s = .next (
      if s.chain.size = 0 then addressed { s with
        chain := { s.chain with dupHead := true, assigned := false }, bond := { s.bond with paired := false, linkUp := false } }
      else { s with chain := { s.chain with dupHead := true } }))
  ∧ (∀ (s : State), linking s = true → s.chain.head = true → s.chain.size = 0 → s.chain.oversize = false →
    (s.chain.dupHead = false → s.chain.assignLast + 1000000 ≤ s.te.time →
      exec .chainAssignRepeat s = .next { s with
        chain := { s.chain with
          txq := s.chain.txq ++ [mkFrame 1 0 0 true 0 0 1], assignOut := s.chain.assignOut + 1, assignLast := s.te.time } })
    ∧ (s.chain.assignFrom + 10000000 ≤ s.te.time →
      exec .chainAssignTimeout s = .next (addressed { s with
        chain := { s.chain with broken := true, assigned := false }, bond := { s.bond with paired := false, linkUp := false } })))

/-- R461, R462, R466, R467, R469: frames received with their CRC good: a device's own has gone round, one to it is consumed, a broadcast
is consumed and goes on, any other goes on; with HOP 15 it is discarded. LOOP measures H at the head, and every device then writes H and R
(at a device that is not the head R is an operand: the model's choice, log entry 52); a SLOT clears BROKEN and disciplines TIME; a bad CRC
and an undefined type are counted and discarded. -/
def Sys2Proof.Claims.ChainFramesComplete : Prop :=
  (∀ (f : BitVec 64) (r0 : BitVec 16) (s : State) (n : Nat), chainGood 2 f s = true → s.chain.head = true → s.chain.assigned = true → fSrc f = s.chain.addr.toNat →
    fSub f = 0 → n = s.chain.size.toNat → n ≠ 0 →
    ∃ z r, exec (.chainLoopRx ⟨f, r0⟩) s = .next z
      ∧ r = (s.te.time + 2 ^ 32 - fPay f) % 2 ^ 32 ∧ z.chain.roundR = BitVec.ofNat 16 r
      ∧ z.chain.txq = s.chain.txq ++ [mkFrame 2 0 0 true 1 0 (wrap 16 ((2 * ((r : Int) - 272 * ((n : Int) - 1)) + n) / (2 * (n : Int))))])
  ∧ (∀ (f : BitVec 64) (r0 : BitVec 16) (s : State), chainGood 2 f s = true → s.chain.head = false → s.chain.assigned = true →
    fSrc f ≠ s.chain.addr.toNat → fBcast f = true → fSub f = 1 → fHop f ≠ 15 →
    ∃ z, exec (.chainLoopRx ⟨f, r0⟩) s = .next z
      ∧ z.chain.hopH = BitVec.ofNat 16 (fPay f) ∧ z.chain.hopR = r0
      ∧ z.chain.txq = s.chain.txq ++ [mkFrame 2 (fSrc f) (fDst f) true 1 (fHop f + 1) (fPay f)])
  ∧ (∀ (f : BitVec 64) (r0 : BitVec 16) (s : State), chainGood 2 f s = true → s.chain.head = true → s.chain.assigned = true →
    fSrc f = s.chain.addr.toNat → fSub f = 1 →
    exec (.chainLoopRx ⟨f, r0⟩) s = .next { s with chain := { s.chain with hopH := BitVec.ofNat 16 (fPay f), hopR := s.chain.roundR } })
  ∧ (∀ (f : BitVec 64) (s : State), chainGood 3 f s = true → s.chain.assigned = true → fSrc f ≠ s.chain.addr.toNat → fBcast f = true →
    fHop f ≠ 15 →
    ∃ z, exec (.chainSlotRx f) s = .next z
      ∧ z.chain.slotSeen = s.te.time ∧ z.chain.broken = false ∧ z.chain.idleFrom = none
      ∧ z.chain.txq = s.chain.txq.takeWhile (fun g => fType g = 3) ++ mkFrame 3 (fSrc f) (fDst f) true (fSub f) (fHop f + 1) (fPay f)
          :: s.chain.txq.dropWhile (fun g => fType g = 3)
      ∧ (s.te.src ≠ 2 → z.te = s.te))
  ∧ (∀ (f : BitVec 64) (s : State), chainGood 4 f s = true → s.chain.assigned = true → fSrc f ≠ s.chain.addr.toNat → fBcast f = false →
    fDst f = s.chain.addr.toNat → fSrc f = s.chain.addr.toNat ^^^ 1 →
    exec (.chainWingbeatRx f) s = .next (hearWing true (BitVec.ofNat 32 (fPay f)) s))
  ∧ (∀ (f : BitVec 64) (s : State), chainGood 5 f s = true → s.chain.assigned = true → fSrc f ≠ s.chain.addr.toNat → fBcast f = false →
    fDst f = s.chain.addr.toNat → s.chain.rx.length < 16 → s.chain.msgEvtEn = false →
    exec (.chainMsgFrameRx f) s = .next { s with chain := { s.chain with rx := s.chain.rx ++ [f] } })
  ∧ (∀ (f : BitVec 64) (s : State), chainGood 5 f s = true → s.chain.assigned = true → fSrc f ≠ s.chain.addr.toNat → fBcast f = false →
    fDst f = s.chain.addr.toNat → 16 ≤ s.chain.rx.length →
    exec (.chainMsgFrameRx f) s = .next { s with chain := { s.chain with dropCnt := satAdd32 s.chain.dropCnt 1 } })
  ∧ (∀ (f : BitVec 64) (s : State), chainGood 5 f s = true → s.chain.assigned = true → fSrc f ≠ s.chain.addr.toNat → fBcast f = false →
    fDst f ≠ s.chain.addr.toNat →
    exec (.chainMsgFrameRx f) s = .next { s with
      chain := if fHop f = 15 then { s.chain with dropCnt := satAdd32 s.chain.dropCnt 1 }
        else { s.chain with txq := s.chain.txq ++ [mkFrame 5 (fSrc f) (fDst f) false (fSub f) (fHop f + 1) (fPay f)] } })
  ∧ (∀ (f : BitVec 64) (s : State), chainOn s = true →
    (fOk f = false →
      exec (.chainBadFrameRx f) s = .next { s with chain := { s.chain with crcCnt := satAdd32 s.chain.crcCnt 1 } })
    ∧ (fOk f = true → (fType f = 0 ∨ 6 ≤ fType f) →
      exec (.chainBadFrameRx f) s = .next { s with chain := { s.chain with dropCnt := satAdd32 s.chain.dropCnt 1 } }))

/-- R461, R462, R466, R469, R470: frames sent: the one in front leaves unless CHAIN_OUT is held idle for a SLOT; the head
sends a SLOT at each slot boundary; a device holds CHAIN_OUT idle when one is due, and is broken after 3 slot periods
without one; LOOP rounds and MSG frames by the registers. -/
def Sys2Proof.Claims.ChainSendingCompletes : Prop :=
  (∀ (s : State) (f : BitVec 64) (r : List (BitVec 64)), chainOn s = true → s.chain.txq = f :: r →
    (s.chain.idleFrom = none ∨ fType f = 3) →
    ∃ z, exec .chainFrameTx s = .next z ∧ z.chain.txq = r
      ∧ z.chain.sent = (if s.chain.head = true ∧ fType f = 2 ∧ fSub f = 0 ∧ fSrc f = 0 then mkFrame 2 0 0 true 0 0 s.te.time else f)
          :: s.chain.sent)
  ∧ (∀ (s : State) (f : BitVec 64) (r : List (BitVec 64)) (t : Nat), chainOn s = true → s.chain.txq = f :: r →
    s.chain.idleFrom = some t → fType f ≠ 3 → s.te.time < t + 1000 → exec .chainFrameTx s = .next s)
  ∧ (∀ (s : State) (b : Nat), lastBoundary s.te.period.toNat s.te.phase.toNat s.te.time = some b → chainOn s = true →
    s.chain.head = true → s.chain.assigned = true → s.chain.size ≠ 0 → s.chain.slotSent ≤ b →
    exec .chainSlotSend s = .next { s with
      chain := { s.chain with
        txq := s.chain.txq.takeWhile (fun g => fType g = 3) ++ mkFrame 3 0 0 true 0 0 b :: s.chain.txq.dropWhile (fun g => fType g = 3)
        slotSent := b + 1 } })
  ∧ (∀ (s : State) (b : Nat), lastBoundary s.te.period.toNat s.te.phase.toNat (s.te.time + 400 - pathDelay s.chain) = some b →
    chainOn s = true → s.chain.head = false → s.chain.assigned = true → pathDelay s.chain ≤ s.te.time + 400 →
    s.chain.idleDone ≤ b → s.te.time ≤ b + pathDelay s.chain →
    exec .chainSlotIdle s = .next { s with chain := { s.chain with idleFrom := some s.te.time, idleDone := b + 1 } })
  ∧ (∀ (s : State), chainOn s = true →
    s.chain.slotSeen + 3 * s.te.period.toNat ≤ s.te.time →
    exec .chainSlotTimeout s = .next { s with chain := { s.chain with broken := true } })
  ∧ (∀ (who : Who) (v : BitVec 32) (s : State), Claims.Writable who .always .no s → v.getLsbD 7 = true → s.chain.head = true →
    s.chain.assigned = true → s.chain.size ≠ 0 →
    ∃ z, exec (.chainLoopStart who v) s = .next z
      ∧ z.chain = { s.chain with
          msgEvt := v.extractLsb' 0 6, msgEvtEn := v.getLsbD 6, txq := s.chain.txq ++ [mkFrame 2 0 0 true 0 0 0] }
      ∧ z.cal = { s.cal with loopLast := s.te.time })
  ∧ (∀ (who : Who) (lo hi : BitVec 32) (s : State), Claims.Writable who .always .yes s → msgQueued s.chain < 4 →
    exec (.chainMsgTxWrite who (some lo) (some hi)) s = .next { Claims.came who s with
      chain := { (Claims.came who s).chain with
        msgTxLow := lo &&& 0xFF#32
        txq := s.chain.txq ++ [mkFrame 5 s.chain.addr.toNat (lo.toNat % 16) (lo.getLsbD 4) (lo.toNat / 32 % 8) 0 hi.toNat] } })
  ∧ (∀ (who : Who) (v : BitVec 32) (s : State), Claims.Writable who .always .yes s →
    exec (.chainMsgPopWrite who v) s = .next { Claims.came who s with
      chain := { (Claims.came who s).chain with rx := if v.getLsbD 0 then s.chain.rx.drop 1 else s.chain.rx } })

/-- Frames of the chain, received, forwarded and sent. -/
def Obligations.ChainFramesAndSendingComplete : Prop :=
  Claims.ChainFramesComplete ∧ Claims.ChainSendingCompletes

/-! ### The bond link -/

/-- R471, R472: numbered frames are taken in order: the one expected is applied and acknowledged, a duplicate acknowledged
again, a bad CRC answered with a NAK of the frame expected, one beyond it discarded (the answers to a duplicate, a bad frame and a gap are
the model's choice, log entry 53). -/
def Sys2Proof.Claims.BondReceptionInOrder : Prop :=
  ∀ (f : State → State) (i : Instr) (q : BitVec 32) (ok : Bool) (s : State), bondOn s = true →
    ((∃ w a p l, i = .bondMwrRx w q a p ok l ∧ f = mwrApply w a p l)
      ∨ (∃ w, i = .bondWingbeatRx q w ok ∧ f = hearWing false w)
      ∨ (∃ n p, i = .bondStateRx q n p ok ∧ f = stateKeep (n % 1024) p)
      ∨ (∃ a p, i = .bondCtxRx q a p ok ∧ f = ctxKeep a p)
      ∨ (i = .bondRelinquishRx q ok ∧ f = fun z =>
          let y := { z with bond := { z.bond with partnerActive := false } };
          if standby z && !z.flt.devFault then promote y else y)
      ∨ (∃ e, i = .bondTakeoverRx q e ok ∧ f = fun z => if z.bond.paired then hearActive e z else z)) →
    (ok = true → q = s.bond.rxSeq →
      exec i s = .next (f { s with
        bond := { s.bond with rxSeq := s.bond.rxSeq + 1, txq := s.bond.txq ++ [⟨1, 0, s.bond.rxSeq, 0, []⟩] } }))
    ∧ (ok = false → exec i s = .next { s with bond := { s.bond with txq := s.bond.txq ++ [⟨2, 0, s.bond.rxSeq, 0, []⟩] } })
    ∧ (ok = true → q ≠ s.bond.rxSeq → (s.bond.rxSeq - q).toNat < 2 ^ 31 →
      exec i s = .next { s with bond := { s.bond with txq := s.bond.txq ++ [⟨1, 0, s.bond.rxSeq - 1, 0, []⟩] } })
    ∧ (ok = true → q ≠ s.bond.rxSeq → 2 ^ 31 ≤ (s.bond.rxSeq - q).toNat → exec i s = .next s)

/-- R356, R464, R471 to R474: frames leave in order, at most 256 numbered ones unacknowledged, one whose DDR5 line is still being
read waits; a mirror's turn reads its next course
into a frame; an ACK releases the frames up to it; a NAK releases those before the frame it names and replays the rest;
training brings the link up, settles the roles of a new pair and replays; the link goes down. The numbering of frames is the model's choice
(log entry 53), and so is that training may settle the roles from an operand with the partner's strap (log entry 54). -/
def Sys2Proof.Claims.BondLinkCompletes : Prop :=
  (∀ (s : State) (f : BondFrame) (r : List BondFrame), bondOn s = true → s.bond.txq = f :: r →
    (f.type = 1 ∨ f.type = 2 ∨ (s.bond.unacked.length < 256 ∧ mirrorReads s f = false)) →
    exec (.bondFrameTx none) s = .next { s with
      bond := { s.bond with
        txq := r, unacked := if f.type ≠ 1 ∧ f.type ≠ 2 then s.bond.unacked ++ [f] else s.bond.unacked, sent := f :: s.bond.sent } })
  ∧ (∀ (s : State) (f : BondFrame), bondOn s = true → s.bond.txq = [f] → f.type ≠ 1 → f.type ≠ 2 →
    (256 ≤ s.bond.unacked.length ∨ mirrorReads s f = true) → exec (.bondFrameTx none) s = .next s)
  ∧ (∀ (lost : Nat) (s : State) (k : Nat) (m : Mirror) (c w : Nat) (rest : List (Nat × Nat)), mirrorOn s = true → s.bond.mirrors[k]? = some m →
    s.tileLive m.tile = true → m.entered = true → m.left = (c, w) :: rest → ((s.tile m.tile).ts.readCourse c).bad = [] →
    ∃ z, exec (.bondFrameTx (some ⟨k, lost⟩)) s = .next z
      ∧ z.bond.txq = s.bond.txq ++ [⟨0, w, s.bond.txSeq, BitVec.ofNat 64 c, unpackBytes 128 ((s.tile m.tile).ts.readCourse c).data⟩]
      ∧ z.bond.txSeq = s.bond.txSeq + 1 ∧ (z.bond.mirrors[k]?.map (·.left)) = some rest
      ∧ (∀ j, (z.tile j).ts.bytes = (s.tile j).ts.bytes))
  ∧ (∀ (q : BitVec 32) (s : State), bondOn s = true → s.bond.resync = none →
    ∃ z, exec (.bondAckRx q true) s = .next z
      ∧ z.bond.unacked = s.bond.unacked.filter (fun f => !decide ((q - f.fseq).toNat < 2 ^ 31))
      ∧ z.bond.txq = s.bond.txq ∧ z.tiles = s.tiles ∧ z.dma = s.dma)
  ∧ (∀ (q : BitVec 32) (s : State), bondOn s = true → s.bond.resync = none →
    ∃ z, exec (.bondNakRx q true) s = .next z
      ∧ z.bond.unacked = []
      ∧ z.bond.txq = s.bond.unacked.filter (fun f => !decide ((q - 1 - f.fseq).toNat < 2 ^ 31)) ++ s.bond.txq
      ∧ z.bond.replayCnt = satAdd32 s.bond.replayCnt 1 ∧ z.tiles = s.tiles)
  ∧ (∀ (strap : Bool) (s : State), s.bond.linkUp = false → linking s = true → s.bond.paired = true →
    ∃ z, exec (.bondLinkTrained strap) s = .next z
      ∧ z.bond.linkUp = true ∧ z.bond.paired = true ∧ z.bond.txq = s.bond.unacked ++ s.bond.txq ∧ z.bond.unacked = []
      ∧ z.bond.active = (if s.bond.roleSet then s.bond.active
          else if s.sec.straps.getLsbD 2 = strap then decide (s.chain.addr.toNat % 2 = 0) else s.sec.straps.getLsbD 2)
      ∧ z.tiles = s.tiles)
  ∧ (∀ (s : State), exec .bondLinkDown s = .next { s with bond := { s.bond with linkUp := false } })

/-- Frames of the bond link, in order, and the link itself. -/
def Obligations.BondLinkComplete : Prop :=
  Claims.BondReceptionInOrder ∧ Claims.BondLinkCompletes

/-- R477 to R483: wingbeats go out at multiples of 10 µs on both paths and their periods are judged; a SYNCED standby promotes into the
next epoch, active and not SYNCED; the active device relinquishes once every ring is stopped and every frame acknowledged, and its rings
are then OFF, as a standby's are (the model's choice, log entry 54); a RESYNC to a standby copies every window, ring context and queue
(contexts at once where they are on chip; that the windows' tile courses are copied as by a mirror of no step is the model's choice, log
entry 54); window writes clear SYNCED; a record of a mirrored queue first sends its STATE frame, waits for its acknowledgement, and is
then written, and the standby keeps what the frame says. -/
def Obligations.BondRolesComplete : Prop :=
  (∀ (s : State), winging s = true → 10000 * s.bond.wbAt ≤ s.te.time → s.bond.linkUp = true →
    ∃ z, exec .wingbeatSend s = .next z
      ∧ z.bond.wbSent = s.bond.wbSent + 1 ∧ z.bond.wbAt = s.te.time / 10000 + 1
      ∧ z.bond.txq = s.bond.txq ++ [⟨3, 0, s.bond.txSeq, BitVec.ofNat 64 (s.bond.roleEpoch.toNat
          + 256 * (if s.bond.active then 1 else 0) + 512 * (if s.bond.synced then 1 else 0) + 65536 * (s.bond.wbSent + 1).toNat), []⟩])
  ∧ (∀ (s : State), winging s = true → 10000 * s.bond.wbEnd ≤ s.te.time → s.bond.wbChain = true → s.bond.linkUp = true →
    exec .wingbeatPeriodEnd s = .next { s with
      bond := { s.bond with missed := 0, downFor := 0, wbChain := false, wbBond := false, wbEnd := s.te.time / 10000 + 1 } })
  ∧ (∀ (s : State), winging s = true → 10000 * s.bond.wbEnd ≤ s.te.time → s.bond.wbChain = false → s.bond.wbBond = false →
    2 ≤ s.bond.missed → s.bond.active = true →
    ∃ z, exec .wingbeatPeriodEnd s = .next z
      ∧ z.bond.partnerLost = true ∧ z.bond.suspended = true ∧ z.bond.synced = false ∧ z.bond.wbMissCnt = satAdd32 s.bond.wbMissCnt 1)
  ∧ (∀ (who : Who) (s : State), Claims.Writable who .bond .yes s → s.bond.paired = true → s.bond.active = false → s.bond.synced = true →
    s.flt.devFault = false →
    ∃ z, exec (.promote who) s = .next z
      ∧ z.bond.roleEpoch = s.bond.roleEpoch + 1 ∧ z.bond.active = true ∧ z.bond.synced = false ∧ z.bond.takeover = true)
  ∧ (∀ (who : Who) (s : State), Claims.Writable who .bond .yes s → s.bond.paired = true → s.bond.active = true → s.bond.synced = true →
    s.bond.relinquishing = false → swf (fun _ => RingLive.reset) s.dma.rings = true →
    ∃ z, exec (.relinquish who) s = .next z
      ∧ z.bond = { s.bond with relinquishing := true }
      ∧ (∀ n, (s.dma.live n).state = 1 ∨ (s.dma.live n).state = 2 → (z.dma.live n).state = 4) ∧ z.tiles = s.tiles)
  ∧ (∀ (s : State), s.bond.relinquishing = true → (s.dma.ch.all fun c => c.work.isNone && c.recs.isEmpty) = true →
    s.bond.stateWait = [] → s.bond.quiet = true → s.bond.mirrors = [] → copyPends s = false → swf (fun _ => RingLive.reset) s.dma.rings = true →
    ∃ l, exec .relinquishComplete s = .next { s with
        bond := { s.bond with
          txq := s.bond.txq ++ [⟨6, 0, s.bond.txSeq, BitVec.ofNat 64 (1 + 256 * s.bond.roleEpoch.toNat), []⟩]
          txSeq := s.bond.txSeq + 1, active := false, synced := false, relinquishing := false, resync := none }
        dma := { s.dma with rings := l } }
      ∧ ∀ n, (sget (fun _ => RingLive.reset) l n).state = if (s.dma.live n).state = 3 then 3 else 0)
  ∧ (∀ (who : Who) (s : State), Claims.Writable who .bond .yes s →
    (s.bond.paired = true → s.bond.active = true → s.bond.linkUp = true → s.bond.partnerLost = false → s.bond.partnerActive = false →
      exec (.resync who) s = .next
        (let z := copyState (s.bond.win.foldl (fun z e => copyWindow e z) { Claims.came who s with
          bond := { s.bond with suspended := false, resync := some (s.bond.txSeq - 1) } })
         resyncCheck { z with bond := { z.bond with resync := some (z.bond.txSeq - 1) } }))
    ∧ (s.bond.partnerActive = true ∨ s.bond.active = false → exec (.resync who) s = .next (Claims.came who s)))
  ∧ (∀ (n : Nat) (w : MirrorWindow) (s : State), w.space = 1 → w.len ≠ 0 → s.fencedTile w.tile = false →
    ∃ m, copyWindow (n, w) s = { s with bond := { s.bond with mirrors := s.bond.mirrors ++ [m] } }
      ∧ m.copy = true ∧ m.tile = w.tile ∧ m.past = true ∧ m.entered = false
      ∧ m.left = (List.range (min w.len (32768 - w.start))).map fun i => (w.start + i, n))
  ∧ (∀ (n : Nat) (c : BitVec 512) (s : State), s.dma.ctx n = some c → opWaits s n = false → mirrorOn s = true → s.bond.resync.isSome = true →
    ringOp (.copy n true) none s = { s with
      bond := { s.bond with
        txq := s.bond.txq ++ [⟨5, 0, s.bond.txSeq, BitVec.ofNat 64 n, unpackBytes 64 (ctxOut s n c).toNat⟩]
        txSeq := s.bond.txSeq + 1, resync := some s.bond.txSeq } })
  ∧ (∀ (c held : Nat) (s : State) (r : CqRecord) (rest : List CqRecord), (s.dma.chan c).recs = r :: rest → s.gated .dma = false →
    s.flt.devFault = false → standby s = false → (s.bond.stateWait.find? fun x => x.ch = c) = none → (s.dma.cqOf r.cq).en = true →
    (s.dma.cqOf r.cq).room = true → cqReach s (s.dma.cqOf r.cq) = true → s.bond.tkoWait.contains r.cq = false → cqMirrored s = true →
    ∃ z h p, exec (.cqRecordWrite c held) s = .next z
      ∧ h = ⟨r.cq, (s.dma.cqOf r.cq).tail, recordBits r (s.dma.cqOf r.cq).phase (s.dma.dseq + 1)⟩
      ∧ z.bond.txq = s.bond.txq ++ [⟨4, 0, s.bond.txSeq, BitVec.ofNat 64 r.cq, p⟩] ∧ p.take 32 = unpackBytes 32 h.bits.toNat
      ∧ z.bond.stateWait = s.bond.stateWait ++ [⟨c, s.bond.txSeq, false, h⟩]
      ∧ z.dma.dseq = s.dma.dseq + 1 ∧ z.dma.cqOf r.cq = (s.dma.cqOf r.cq).advance ∧ z.host.out = s.host.out ∧ z.ddr = s.ddr)
  ∧ (∀ (c held : Nat) (s : State) (r : CqRecord) (rest : List CqRecord) (w : StateWait), (s.dma.chan c).recs = r :: rest →
    s.gated .dma = false → s.flt.devFault = false → standby s = false → (s.bond.stateWait.find? fun x => x.ch = c) = some w →
    (recordTurn s w = true → w.acked = true →
      exec (.cqRecordWrite c held) s = .next (landRecord c r w.item { s with
        dma := { s.dma with cqFullCnt := satAdd32 s.dma.cqFullCnt held }
        bond := { s.bond with stateWait := s.bond.stateWait.filter fun x => x.ch ≠ c } }))
    ∧ (w.acked = false → cqMirrored s = true → (s.dma.cqOf r.cq).en = true → exec (.cqRecordWrite c held) s = .next s))
  ∧ (∀ (q : Nat) (p : BitVec 512) (s : State), standby s = true →
    ∃ z x, stateKeep q p s = z ∧ kget z.bond.cqs q = some x
      ∧ x = { (kget s.bond.cqs q).getD .reset with tail := p.extractLsb' 272 16, phase := p.getLsbD 288 }
      ∧ z.bond.held = (⟨q, p.extractLsb' 256 16, p.extractLsb' 0 256⟩ :: s.bond.held).take 64 ∧ z.tiles = s.tiles ∧ z.ddr = s.ddr)
  ∧ (∀ (who : Who) (n : Nat) (lo : BitVec 32) (w : MirrorWindow) (s : State), n < 64 → Claims.Writable who .bond .no s →
    kget s.bond.win n = some w → w.a.toNat ≠ lo.toNat % 2 ^ 10 → w.a.toNat < 2 ^ 10 →
    ∃ z, exec (.bondMwinWrite who n false (some lo) none) s = .next z
      ∧ z.bond.synced = false ∧ kget z.bond.win n = some { w with a := BitVec.ofNat 64 (lo.toNat % 2 ^ 10) }
      ∧ z.tiles = s.tiles)
/-! ### Start-up -/

/-- What the end of the clocks leaves of the machine: volatile state is that of reset, the DDR5 contents are gone. -/
def Sys2Proof.Claims.Dark (s t : State) : Prop :=
  t.alive = false ∧ t.pending = s.pending ∧ t.tiles = State.reset.tiles ∧ t.hod = State.reset.hod ∧ t.mor = State.reset.mor
    ∧ t.sc = State.reset.sc ∧ t.ddr.gen = s.ddr.gen + 1 ∧ t.ddr.bytes = [] ∧ t.dma = State.reset.dma ∧ t.te.time = 0
    ∧ t.te.running = false ∧ t.sec.flash = s.sec.flash ∧ t.sec.raw = []

/-- R554, R559: RESET_N low, or a thermal trip, ends every internal activity; a trip outlasts RESET_N unless every sensor has cooled.
R438, R486, R488, R557: at the release of RESET_N the device is in EGG with its straps sampled, in JTAG test mode where the pins say so
(log entry 50), unless it is still hot. -/
def Obligations.ResetAndTripComplete : Prop :=
  (∀ (cool power : Bool) (s : State), ∃ t, exec (.resetAssert cool power) s = .next t ∧ Claims.Dark s t
    ∧ t.sec.resetLow = true ∧ t.sec.tripped = (s.sec.tripped && !cool) ∧ t.clk.causeReset = true ∧ t.clk.causeSafe = false
    ∧ t.quoin.puf = (if power then [] else s.quoin.puf))
  ∧ (∀ (s : State), ∃ t, exec .thermalTrip s = .next t ∧ Claims.Dark s t ∧ t.sec.tripped = true ∧ t.sec.resetLow = s.sec.resetLow)
  ∧ (∀ (straps : BitVec 6) (hot jtag : Bool) (s : State), s.sec.resetLow = true → (s.sec.tripped = true → hot = false) →
    ∃ t, exec (.resetRelease ⟨straps, jtag⟩ hot) s = .next t ∧ t.sec.life = .egg ∧ t.clk.jtag = jtag ∧ t.sec.straps = straps ∧ t.sec.resetLow = false
      ∧ t.sec.tripped = false ∧ t.chain.head = straps.getLsbD 1 ∧ t.bond.active = straps.getLsbD 2
      ∧ t.tiles = State.reset.tiles ∧ t.pending = s.pending ∧ t.quoin.puf = s.quoin.puf)
  ∧ (∀ (straps : BitVec 6) (jtag : Bool) (s : State), s.sec.resetLow = true → s.sec.tripped = true →
    exec (.resetRelease ⟨straps, jtag⟩ true) s = .next { s with sec := { s.sec with resetLow := false } })

/-- A boot error stops LARVA: SEC_BOOT_ERR shows its code and image, and the console its line; of the rest only the destinations of the
sections written so far change, to contents that are free (R498): with none written everything else stays. -/
def Sys2Proof.Claims.Failed (code image : Nat) (s t : State) : Prop :=
  ∃ z : State, (s.sec.sects = [] → z = s)
    ∧ z = { s with
        tiles := z.tiles
        ddr := z.ddr
        cal := z.cal
        clk := z.clk
        freeCnt := z.freeCnt
        quoin := { s.quoin with ram := z.quoin.ram }
        sec := { s.sec with decodeSect := z.sec.decodeSect } }
    ∧ t = conLine (.bootError code) { z with
        sec := { z.sec with
          sects := []
          bootFail := true
          bootCode := BitVec.ofNat 8 code
          bootImage := BitVec.ofNat 3 image
          bootValid := true
          now := z.sec.now.note 31 true } }

/-- R489, R491 to R493, R496 to R498, R500 to R503, R515: the items of LARVA. LARVA_START takes the directory that the flash holds at 0
where the flash answers, its MAGIC stands, HELPER_OFF is a multiple of 4 KiB and, in a flash boot, it announces 1 to 8 images (the
alignment and the count are the model's reading, log entry 55), and else ends in boot error 2; PLL lock starts TIME, judges the helper
record against the raw PUF read in EGG and zeroes the PUF SRAM, and the head of the chain addresses itself; a PLL time-out is boot error
1; the certificate and each image, at their places in the flash, are accepted or stopped by the error of their first failed check;
training sets every channel trained, or times out with boot error 7; and entry into CHRYSALIS starts the watchdog and the tasks, the
sensors first due one period later (the model's choice, log entry 57) and the first TRIM begun unless XTAL is active or CAL_CTRL.EN is 0.
A line that the ROM says on the console joins those on UART_TX, each byte a start bit, eight bits and a stop bit; its text is open (log
entry 109). -/
def Obligations.LarvaItemsComplete : Prop :=
  (∀ (s : State), s.alive = true → s.sec.life = .egg → s.clk.chosen = true →
    (∃ t, exec (.larvaStart false) s = .next t ∧ Claims.Failed 2 0 { s with sec := { s.sec with life := .larva } } t)
    ∧ ∀ d : BitVec 512, d = BitVec.ofNat 512 (packBytes (flashBytes s 0 64)) →
      if fld d 0 32 = 0x5A564430 ∧ fld d 96 32 % 4096 = 0 ∧ (mailboxBoot s = true ∨ 1 ≤ fld d 32 8 ∧ fld d 32 8 ≤ 8) then
        exec (.larvaStart true) s = .next (conLine (.itemBegin 1) { s with
          sec := { s.sec with life := .larva, dir := d, dirImages := fld d 32 8 } })
      else ∃ t, exec (.larvaStart true) s = .next t ∧ Claims.Failed 2 0 { s with sec := { s.sec with life := .larva } } t)
  ∧ (∀ (s : State), larvaOn s = true → s.sec.item1 = false →
    (∃ t, exec .pllLockTimeout s = .next t ∧ Claims.Failed 1 0 s t)
    ∧ ∀ readOk, ∃ t, exec (.pllLockDone readOk) s = .next t ∧ t.sec.item1 = true ∧ t.sec.item2 = true ∧ t.te.running = true
      ∧ t.clk.pll = 0x1F ∧ t.sec.pufZeroed = true ∧ (s.chain.head = true → t.chain.assigned = true ∧ t.chain.addr = 0)
      ∧ t.tiles = s.tiles ∧ t.ddr = s.ddr
      ∧ ∀ h key, h = flashBytes s (fld s.sec.dir 96 32) 3200 → key = Config.reconstruct s.sec.raw ((h.drop 64).take 3072) →
          if readOk = false ∨ objNat h 0 4 ≠ 0x5A564833 then t.sec.idState = 1 ∧ t.sec.chal = Config.sha3 s.sec.raw
          else if Config.sha3 (unpackBytes 32 key.toNat) = BitVec.ofNat 256 (objNat h 3136 32) then
            t.sec.idState = 0 ∧ t.sec.pufKey = some key ∧ t.sec.pubKey = some (Config.devicePublic (Config.sha3 (1 :: unpackBytes 32 key.toNat)))
          else t.sec.idState = 2 ∧ t.sec.chal = Config.sha3 s.sec.raw)
  ∧ (∀ (s : State), objectReady s = true → mailboxBoot s = false → s.sec.objects = 0 →
    (∃ t, exec (.certVerify false) s = .next t ∧ Claims.Failed 2 0 s t)
    ∧ ∀ b, b = flashBytes s (fld s.sec.dir 64 32) 5076 → ∃ t, exec (.certVerify true) s = .next t
      ∧ if certForm b = true ∧ certSig b = true then
          t.sec.certOk = true ∧ t.sec.ownerKey = BitVec.ofNat 10496 (objNat b 0x20 1312)
            ∧ t.sec.ownerId = BitVec.ofNat 64 (objNat b 8 8) ∧ t.sec.minVersion = BitVec.ofNat 32 (objNat b 0x10 4)
            ∧ t.sec.objects = 1 ∧ t.sec.bootFail = s.sec.bootFail
        else Claims.Failed 3 0 s t)
  ∧ (∀ (s : State) (i : Nat), objectReady s = true → mailboxBoot s = false → s.sec.objects = i + 1 → i < s.sec.dirImages →
    (∃ t, exec (.imageVerify false) s = .next t ∧ Claims.Failed 2 0 s t)
    ∧ ∃ t, exec (.imageVerify true) s = .next t
      ∧ match imageFault s i (flashImage s i) with
        | some (.fail code _) =>
          Claims.Failed code (if code = 4 ∨ code = 5 then i else 0) (imageStreamed i (flashImage s i) s) t
        | none => t.sec.images = i + 1 ∧ t.sec.objects = i + 2 ∧ t.sec.bootFail = s.sec.bootFail)
  ∧ (∀ (x : ConsoleLine) (s : State), (conLine x s).sec.console = x :: s.sec.console
    ∧ (conLine x s).sec.uart = s.sec.uart ++ (Config.romLine x.number).flatMap fun b =>
        [false, b.getLsbD 0, b.getLsbD 1, b.getLsbD 2, b.getLsbD 3, b.getLsbD 4, b.getLsbD 5, b.getLsbD 6, b.getLsbD 7, true])
  ∧ (∀ (s : State), training s = true →
    (s.sec.trainFrom + 120000000 ≤ s.te.time → ∃ t, exec .ddrTrainTimeout s = .next t ∧ Claims.Failed 7 0 s t)
    ∧ ∃ t, exec .ddrTrainDone s = .next t ∧ t.sec.item5 = true ∧ t.sc.capGib = cfgGib (s.chan 0).cfg
      ∧ t.ddr.ch = s.ddr.ch.map (fun c => { c with trained := true, trainedCfg := c.cfg, emptySince := s.te.time })
      ∧ t.tiles = s.tiles)
  ∧ (∀ (s : State), larvaDone s = true →
    ∃ t, exec .chrysalisEnter s = .next t ∧ t.sec.life = .chrysalis ∧ t.flt.kickAt = s.te.time ∧ t.cal.started = true
      ∧ t.cal.dieDue = s.te.time + 1000000 ∧ t.cal.trimDue = s.te.time ∧ t.cal.trimming = (s.cal.en && !s.clk.activeXtal)
      ∧ (s.sec.decodeSect = none → t.sec.decodeBad = false ∧ t.sec.decodeDigest = Config.sha3 (List.replicate 2304 0))
      ∧ t.pending = s.pending)

/-! ### The mailbox -/

/-- A mailbox command has started: BUSY with its OP, and the result to come. -/
def Sys2Proof.Claims.busy (op code : Nat) (data : List (BitVec 8)) (s : State) : State :=
  { s with
    sec := { s.sec with
      mbState := 1
      mbOp := BitVec.ofNat 8 op
      mbDone := some (BitVec.ofNat 8 code, data) } }

/-- R493, R504 to R509, R511: the mailbox commands, written while no command is in progress; while one is, a command is rejected;
MAILBOX_COMPLETE shows the result, and a command written in the same cycle before it is then accepted after all. That a command has its
effect when it is written, the results BAD_FORMAT and BAD_SIG of an ENROL, and which failed checks of an object answer BAD_FORMAT and
which BAD_SIG are the model's readings (log entry 56). -/
def Obligations.MailboxComplete : Prop :=
  (∀ (who : Who) (s : State), Claims.Writable who .sec .larva s → s.sec.mbState ≠ 1 →
    (mbLoading s = true → objectReady s = true → 1 ≤ s.sec.mbLen.toNat → s.sec.mbLen.toNat ≤ 524288 →
      exec (.load who) s = .next (Claims.busy 0x01 0 [] { Claims.came who s with
        sec := { s.sec with loadBuf := s.sec.loadBuf ++ mbArg s } }))
    ∧ (mbLoading s = true → objectReady s = true → s.sec.objects = 0 →
      ∃ t, exec (.endObject who) s = .next t ∧ t.sec.mbState = 1 ∧ t.sec.mbOp = 0x02 ∧ t.sec.loadBuf = []
        ∧ if certForm s.sec.loadBuf = true ∧ certSig s.sec.loadBuf = true then
            t.sec.certOk = true ∧ t.sec.mbDone = some (0, []) ∧ t.sec.bootFail = s.sec.bootFail
          else t.sec.bootCode = 3 ∧ t.sec.bootFail = true
            ∧ t.sec.mbDone = some (if certForm s.sec.loadBuf = true then 3 else 4, []))
    ∧ (∀ i, mbLoading s = true → objectReady s = true → s.sec.objects = i + 1 →
      ∃ t, exec (.endObject who) s = .next t ∧ t.sec.mbState = 1 ∧ t.sec.mbOp = 0x02
        ∧ match imageFault s i s.sec.loadBuf with
          | some (.fail code sig) => t.sec.bootFail = true ∧ t.sec.bootCode = BitVec.ofNat 8 code
              ∧ t.sec.mbDone = some (if sig then 3 else 4, [])
          | none => t.sec.images = i + 1 ∧ t.sec.mbDone = some (0, []) ∧ t.sec.bootFail = s.sec.bootFail)
    ∧ (mbLoading s = true → s.sec.images ≠ 0 →
      ∀ z, z = { Claims.came who s with sec := { s.sec with loadEnded := true } } →
        exec (.endLoad who) s = .next (Claims.busy 0x03 0 [] (if s.sec.item5 then conLine (.itemEnd 7) z else z)))
    ∧ (s.sec.life.running = true →
      exec (.decodeStatus who) s = .next (Claims.busy 0x04 0 (unpackBytes 4 (if s.sec.decodeBad then 1 else 0)) (Claims.came who s)))
    ∧ (∀ k, s.sec.life.running = true → s.sec.pubKey = some k →
      exec (.getPubkey who) s = .next (Claims.busy 0x10 0 (unpackBytes 1312 k.toNat) (Claims.came who s)))
    ∧ (∀ pub key, s.sec.life.running = true → s.sec.mbLen = 32 → s.sec.pubKey = some pub → s.sec.pufKey = some key →
      exec (.attest who) s = .next (Claims.busy 0x11 0
        (attestBody (Claims.came who s) pub (mbArg s)
          ++ fixLen 2420 (Config.sign (deviceSeed key) (Config.sha3 (attestBody (Claims.came who s) pub (mbArg s))))) (Claims.came who s)))
    ∧ (s.sec.life = .chrysalis → s.sec.idState ≠ 0 → s.sec.mbLen = 2484 →
      ∀ written, ∃ t, exec (.enrol who written) s = .next t ∧ t.sec.mbState = 1 ∧ t.sec.mbOp = 0x12
        ∧ if tokenForm s (mbArg s) = false then t.sec.mbDone = some (4, []) ∧ t.sec.idState = s.sec.idState
          else if Config.sigOk s.sec.ownerKey (Config.sha3 ((mbArg s).take 64)) ((mbArg s).drop 64) = false then
            t.sec.mbDone = some (3, []) ∧ t.sec.idState = s.sec.idState
          else if written = false then t.sec.mbDone = some (6, []) ∧ t.sec.idState = s.sec.idState
          else t.sec.mbDone = some (0, []) ∧ t.sec.idState = 0 ∧ ∃ bits key, bits.length = 3072
            ∧ key = Config.reconstruct s.sec.raw bits ∧ t.sec.pufKey = some key
            ∧ t.sec.pubKey = some (Config.devicePublic (Config.sha3 (1 :: unpackBytes 32 key.toNat)))
            ∧ t.sec.flash = flashPut (fld s.sec.dir 96 32) (helperRecord bits key) s.sec.flash)
    ∧ (s.sec.life = .chrysalis → s.sec.idState = 0 →
      ∃ t, exec (.run who) s = .next t ∧ t.sec.life = .imago ∧ t.sec.mbDone = some (0, []) ∧ t.sec.mbState = 1
        ∧ (∀ n < 16, n < s.tiles.length → standby s = false → s.flt.devFault = false → s.fencedTile n = false →
            (s.core n).halted = true →
            (t.core n).halted = false ∧ (t.core n).pc = (s.core n).entry.setWidth 32 ∧ (t.core n).level = 0)))
  ∧ (∀ (who : Who) (i : Instr) (op : Nat) (w : Bool) (s : State), (i, op, w) ∈ [(.load who, 0x01, true), (.endObject who, 0x02, true),
      (.endLoad who, 0x03, true), (.decodeStatus who, 0x04, true), (.getPubkey who, 0x10, true), (.attest who, 0x11, true),
      (.enrol who true, 0x12, true), (.enrol who false, 0x12, false), (.run who, 0x20, true)] →
    Claims.Writable who .sec .larva s → s.sec.mbState = 1 →
    exec i s = .next { Claims.came who s with
      sec := { s.sec with
        mbRejected := true
        mbLate := some (op, w, s.sec.mbRejected)
        now := s.sec.now.note 16 true } })
  ∧ (∀ (code : BitVec 8) (data : List (BitVec 8)) (op : Nat) (w was : Bool) (s : State), s.sec.mbDone = some (code, data) →
    s.sec.mbLate = some (op, w, was) → ∃ t, exec .mailboxComplete s = .next t ∧ t.sec.mbState = 1 ∧ t.sec.mbOp = BitVec.ofNat 8 op
      ∧ t.sec.mbRejected = was ∧ t.sec.mbDone.isSome = true ∧ (∀ k < data.length, t.sec.mbByte k = data.getD k 0))
  ∧ (∀ (code : BitVec 8) (data : List (BitVec 8)) (s : State), s.sec.mbDone = some (code, data) → s.sec.mbLate = none →
    ∃ t, exec .mailboxComplete s = .next t ∧ t.sec.mbResult = code ∧ t.sec.mbState = (if code = 0 then 2 else 3)
      ∧ t.sec.mbLen = BitVec.ofNat 20 data.length ∧ t.sec.mbDone = none
      ∧ (∀ k < data.length, t.sec.mbByte k = data.getD k 0) ∧ (∀ k, data.length ≤ k → t.sec.mbByte k = s.sec.mbByte k))

/-! ### Calibration -/

/-- R512 to R522: tasks that fall due, gaps, steals, and the ends of each. Of the tasks due the first that fits starts (the model's
choice, log entry 57); a gap begins, whether or not CAL_CTRL.EN is 1, once the quoin's copy of TIME has reached its start, by however
much, unless a step of TIME passed over the start (log entries 6 and 57); THERM_WARN is set when the highest reading crosses 105 °C (log
entry 58); a RETRAIN that fails to re-centre its channel is a device fault (R358); the requests of a stolen channel wait for the steal; a
TRIM runs only while CAL_CTRL.EN is 1. -/
def Obligations.CalibrationComplete : Prop :=
  (∀ (ch : Nat) (s : State) (l : Nat) (k : CalTask), calOn s = true → calAble s ch = true → (s.calCh ch).running = none →
    calLimit s ch = some l → (((s.calCh ch).dueNow s.te.time).filter fun x => decide (x.len ≤ l)).head? = some k →
    exec (.calTaskDue (.gap ch)) s = .next (s.updCal ch fun x => { x with running := some (k, s.te.time + k.len) }))
  ∧ (∀ (hi lo : BitVec 8) (s : State), calOn s = true → s.cal.dieDue ≤ s.te.time →
    ∃ t, exec (.calTaskDue (.dieTemp hi lo)) s = .next t ∧ t.cal.dieMax = hi ∧ t.cal.dieMin = lo
      ∧ t.cal.dieDue = s.te.time + 1000000
      ∧ (s.cal.dieMax.toInt < 105 → 105 ≤ hi.toInt → t.ic.pend.getLsbD 303 = true))
  ∧ (∀ (s : State), calOn s = true → s.cal.trimDue ≤ s.te.time → s.cal.trimming = false → s.clk.activeXtal = false →
    exec (.calTaskDue .trim) s = .next { s with cal := { s.cal with trimming := true } })
  ∧ (∀ (ch : Nat) (s : State), (∀ e, s.cal.stealing = some e → s.cal.stealCh = BitVec.ofNat 3 ch → ch < 8 →
      calLimit s ch = some (e + 1200 - s.te.time))
    ∧ (∀ k e m, s.cal.stealing = none → s.cal.inGap = [(k, e, m)] → bit m ch = true → calLimit s ch = some (e - 100 - s.te.quoinCopy)))
  ∧ (∀ (k b : Nat) (s : State), s.te.running = true → k < 8 → gapSettle s = s → bit (s.cal.gapCur.getD k 0) 56 = true →
    bit (s.cal.gapCur.getD k 0) 57 = false → bit (s.cal.gapCur.getD k 0) 58 = false → gCh (s.cal.gapCur.getD k 0) = 0 →
    lastBoundary s.te.period.toNat (s.te.phase.toNat + gPhase (s.cal.gapCur.getD k 0)) s.te.quoinCopy = some b →
    s.te.quoinPrev < b → s.te.quoinCopy < b + gLen (s.cal.gapCur.getD k 0) → (k, b + gLen (s.cal.gapCur.getD k 0), 0) ∉ s.cal.inGap →
    exec (.calGapStart k) s = .next (if s.te.stepFrom < b ∧ b < s.te.stepTo then s else { s with
      cal := { s.cal with inGap := s.cal.inGap ++ [(k, b + gLen (s.cal.gapCur.getD k 0), 0)] } }))
  ∧ (∀ (k : Nat) (s : State), ∃ t, exec (.calGapEnd k) s = .next t ∧ t.cal.ch = s.cal.ch ∧ t.te = s.te
    ∧ ∀ e, e ∈ t.cal.inGap ↔ e ∈ s.cal.inGap ∧ (e.1 = k → s.te.quoinCopy < e.2.1))
  ∧ (∀ (ch : Nat) (drift hot fails : Bool) (s : State) (k : CalTask) (e : Nat), ch < 8 → ch < s.cal.ch.length → ch < s.ddr.ch.length →
    (s.calCh ch).running = some (k, e) → e ≤ s.te.time → calOn s = false →
    ∃ t, exec (.calTaskEnd (.gap ch drift hot fails)) s = .next t ∧ (t.calCh ch).running = none
      ∧ (k = .temp → (t.chan ch).hot = hot) ∧ (k = .dqs → drift = true → (t.calCh ch).retrainDue = some ((s.calCh ch).retrainDue.getD s.te.time))
      ∧ (k = .retrain → (t.calCh ch).retrainDue = none)
      ∧ (k = .retrain → fails = true → s.flt.devFault = false →
          t.flt.devFault = true ∧ t.flt.cause = 1 ∧ t.flt.channel = BitVec.ofNat 3 ch)
      ∧ (k ≠ .retrain ∨ fails = false → t.flt = s.flt))
  ∧ (∀ (s : State), calOn s = true → s.cal.trimming = true → s.clk.activeXtal = false →
    ∃ t, exec (.calTaskEnd .trim) s = .next t ∧ t.cal.trimming = false ∧ t.cal.trimDue = s.te.time + 100000000
      ∧ t.clk.monTrimmed = true ∧ (s.clk.monTrimmed = true → t.cal.trimReady = true))
  ∧ (∀ (ch : Nat) (s : State), calOn s = true → calAble s ch = true → (s.calCh ch).late s.te.time = true →
    exec (.calOverdue ch) s = .next { s with cal := { s.cal with overdue := setBit s.cal.overdue ch true } })
  ∧ (∀ (ch : Nat) (s : State), calOn s = true → s.cal.stealEn = true → s.cal.stealing = none →
    (∀ e, s.cal.lastSteal = some e → e + 50000 ≤ s.te.time) → stealNext s = some ch →
    ∃ t, exec (.calStealStart ch) s = .next t ∧ t.cal.stealing = some s.te.time ∧ t.cal.stealCh = BitVec.ofNat 3 ch
      ∧ t.ic.pend.getLsbD 84 = true ∧ (∀ r ∈ (t.chan ch).queue, r.stolen = true) ∧ (ch < s.cal.ch.length → (t.calCh ch).stealCnt = satAdd32 (s.calCh ch).stealCnt 1))
  ∧ (∀ (s : State), s.cal.stealing.isSome = true → (s.calCh s.cal.stealCh.toNat).running = none →
    ∃ t, exec .calStealEnd s = .next t ∧ t.cal.stealing = none ∧ t.cal.lastSteal = some s.te.time
      ∧ (s.cal.stealCh.toNat < s.cal.ch.length → (t.calCh s.cal.stealCh.toNat).stolenEnd = some s.te.time) ∧ t.tiles = s.tiles)
  ∧ (∀ (who : Who) (k : Nat) (v : BitVec 64) (s : State), k < 8 → k < s.cal.gap.length → Claims.Writable who .always .yes s →
    ∃ t, exec (.calGapWrite who k (some (v.extractLsb' 0 32)) (some (v.extractLsb' 32 32))) s = .next t
      ∧ (t.cal.gap.getD k 0).extractLsb' 0 56 = v.extractLsb' 0 56
      ∧ bit (t.cal.gap.getD k 0) 56 = (bit v 56 && decide (v.toNat % 2 ^ 32 < s.te.period.toNat)) ∧ t.cal.gapAt = s.te.quoinCopy)
  ∧ (∀ (v : BitVec 32) (s : State), Claims.Writable .quoin .always .no s →
    ∃ t, exec (.hostRegWrite .quoin 0x200800 (.write (unpackBytes 4 v.toNat)) ⟨false, false⟩) s = .next t
      ∧ t.cal.en = v.getLsbD 0 ∧ t.cal.stealEn = v.getLsbD 1 ∧ t.cal.loopMs = v.extractLsb' 16 16
      ∧ t.cal.trimming = (s.cal.trimming && v.getLsbD 0) ∧ t.cal.trimDue = s.cal.trimDue)

/-! ### Faults -/

/-- R530 to R536, R538: fencing and releasing tiles and slices, and what makes the device fault. A second tile to be fenced, earlier or in
the same cycle (log entry 99), makes the device fault instead. A tile taken back is as at reset (all of it: the model's reading, log entry
37) but for its decode RAM, which is restored from the kept table (R158), its interrupt controller (R426), the writes still on their way
to it (R65), and what it sees of parking (R448) and MIXED (R309); it applies the committed mode when it is released (R311). A release
clears HALTED in any start-up state that takes the command (log entry 81). -/
def Obligations.FaultHandlingComplete : Prop :=
  (∀ (cause : FenceCause) (n : Nat) (also : Option Nat) (s : State), n < 16 → (∀ who, cause = .command who → Claims.Writable who .always .no s) →
    (cause = .hardware → s.alive = true) →
    s.flt.devFault = false → s.fencedTile n = false →
    ∃ t, exec (.fenceTile cause ⟨n, also⟩) s = .next t
      ∧ (s.mor.fenced = 0 → (∀ k, also = some k → k = n ∨ 16 ≤ k) →
          t.fencedTile n = true ∧ t.flt.devFault = false ∧ (n < s.tiles.length → (t.core n).halted = true)
            ∧ (t.tile n).st.issueN = none ∧ (t.tile n).st.issueU = none ∧ t.clk.en.getLsbD n = false
            ∧ (∀ k < 16, k ≠ n → (t.core k).lram = (s.core k).lram ∧ (t.core k).halted = (s.core k).halted))
      ∧ (s.mor.fenced ≠ 0 ∨ (∃ k, also = some k ∧ k < 16 ∧ k ≠ n) →
          t.flt.devFault = true ∧ t.flt.cause = 5 ∧ t.mor.fenced = s.mor.fenced))
  ∧ (∀ (who : Who) (n : Nat) (s : State), n < 16 → n < s.tiles.length → Claims.Writable who .always .no s →
    s.flt.devFault = false →
    (s.fencedTile n = true → ∃ t, exec (.unfenceTile who n) s = .next t ∧ t.fencedTile n = false
      ∧ (t.core n).halted = true ∧ (t.core n).lram = [] ∧ (t.core n).decodeRam = keptTable s ∧ (t.core n).decodeBad = []
      ∧ (t.tile n).st = { Tile.reset.st with parked := s.clk.parking, seesMixed := s.mor.mixed }
      ∧ (t.tile n).ts = { Tile.reset.ts with inflight := (s.tile n).ts.inflight }
      ∧ (t.tile n).vec = Tile.reset.vec ∧ (t.tile n).ic = (s.tile n).ic ∧ t.clk.en.getLsbD n = true
      ∧ t.flt.tile = lput s.flt.tile n 0 ∧ (∀ k < 16, k ≠ n → t.tile k = s.tile k))
    ∧ (s.fencedTile n = false → (s.core n).halted = true →
      ∃ t, exec (.releaseTile who n) s = .next t ∧ (t.core n).halted = false ∧ (t.core n).pc = (s.core n).entry.setWidth 32
        ∧ (t.core n).level = 0 ∧ (t.core n).fetch = []
        ∧ (if bit s.mor.returning n = true then
            (t.tile n).st.epoch = s.mor.epoch ∧ (t.core n).lword 0x3FE = ⟨1, s.mor.latched.getD n 0⟩
              ∧ (t.core n).lword 0x3FF = ⟨1, s.mor.epoch.setWidth 32⟩ ∧ bit t.mor.returning n = false
              ∧ bit (t.tile n).ic.pend 3 = true
          else (t.tile n).st = (s.tile n).st ∧ (t.core n).lram = (s.core n).lram ∧ t.mor = s.mor)
        ∧ ∀ k < 16, k ≠ n → t.tile k = s.tile k))
  ∧ (∀ (who : Who) (n : Nat) (s : State), n < 16 → Claims.Writable who .always .no s → s.flt.devFault = false →
    (bit s.sc.fence n = false → ∃ t, exec (.fenceSlice who n) s = .next t ∧ bit t.sc.fence n = true
      ∧ t.ic.pend.getLsbD (272 + n) = true ∧ t.tiles = s.tiles)
    ∧ (bit s.sc.fence n = true → exec (.unfenceSlice who n) s = .next { Claims.came who s with
        sc := { s.sc with fence := setBit s.sc.fence n false } }))
  ∧ (∀ (who : Who) (s : State), Claims.Writable who .always .no s →
    exec (.kick who) s = .next { Claims.came who s with flt := { s.flt with kickAt := s.te.time } })
  ∧ (∀ (cause : Nat) (i : Instr) (s : State), s.flt.devFault = false →
    (∃ who, cause = 6 ∧ i = .devFault who ∧ Claims.Writable who .always .no s)
      ∨ (cause = 4 ∧ i = .quoinWdogExpire ∧ s.sec.life.running = true ∧ fld s.flt.cfgCur 24 8 ≠ 0
          ∧ fld s.flt.cfgCur 24 8 * 1000000 < s.te.time - s.flt.kickAt)
      ∨ (cause = 3 ∧ i = .pcieLinkTimeout ∧ fld s.flt.cfgCur 16 8 ≠ 0
          ∧ ∃ d, s.flt.linkDownAt = some d ∧ fld s.flt.cfgCur 16 8 * 1000000 ≤ s.te.time - d) →
    ∃ t, exec i s = .next t ∧ t.flt.devFault = true ∧ t.flt.cause = BitVec.ofNat 3 cause
      ∧ (∀ n < 16, n < s.tiles.length → (t.core n).halted = true ∧ (t.tile n).st.issueN = none ∧ (t.tile n).st.issueU = none)
      ∧ t.ic.pend.getLsbD 304 = true ∧ t.mor.fenced = s.mor.fenced)
  ∧ (∀ (s : State), s.te.time / 1000000000 ≠ s.flt.window →
    exec .ueWindowStart s = .next { s with
      flt := { s.flt with
        window := s.te.time / 1000000000
        scUe := List.replicate 16 0
        ddrUe := List.replicate 8 0
        cfgCur := s.flt.cfg } })

/-! ### Register writes -/

/-- The register that a command writes in the state `s`, where it writes one: who writes, the block, and what R398 and R507 allow the host.
HOST_REG_WRITE, which writes any register, has its own clauses below. -/
def Sys2Proof.Claims.regOf (s : State) : Instr → Option (Who × Blk × HostPerm)
  | .seqHaltReq w t _ => if t < 16 then some (w, .tile t, .no) else none
  | .stepCntClr w t _ => if t < 16 then some (w, .tile t, .yes) else none
  | .tsCntClr w t _ => if t < 16 then some (w, .tile t, .yes) else none
  | .vecCntClr w t _ => if t < 16 then some (w, .tile t, .yes) else none
  | .arrCntClr w t _ => if t < 16 then some (w, .tile t, .yes) else none
  | .drnCntClr w t _ => if t < 16 then some (w, .tile t, .yes) else none
  | .sceCntClr w t _ => if t < 16 then some (w, .tile t, .yes) else none
  | .bankPwrReqWrite w t _ => if t < 16 then some (w, .tile t, .no) else none
  | .tsPerrInjArm w t _ => if t < 16 then some (w, .tile t, .no) else none
  | .hodTgtDeclareWrite w n _ => if n < 64 then some (w, .hod, .yes) else none
  | .hodTgtFreeWrite w n _ => if n < 64 then some (w, .hod, .yes) else none
  | .hodCntClr w _ => some (w, .hod, .yes)
  | .morCommit w _ => some (w, .always, .yes)
  | .morCntClr w _ => some (w, .always, .yes)
  | .scInvalGo w v => if bit v 31 = true ∧ bit v 30 = false then some (w, .sc, .yes) else none
  | .scInvalAll w v => if bit v 31 = true ∧ bit v 30 = true then some (w, .sc, .yes) else none
  | .scSlicePwrReqWrite w _ => some (w, .sc, .no)
  | .scFenceWrite w _ => some (w, .sc, .no)
  | .scCntClr w _ => some (w, .sc, .yes)
  | .ddrSrReqWrite w c _ => if c < 8 then some (w, .ddr c, .no) else none
  | .ddrCntClr w c _ => if c < 8 then some (w, .ddr c, .yes) else none
  | .ringInit w _ => some (w, .dma, .yes)
  | .ringStop w _ => some (w, .dma, .yes)
  | .ringResume w _ => some (w, .dma, .yes)
  | .ringOff w _ => some (w, .dma, .yes)
  | .ringFlush w _ => some (w, .dma, .yes)
  | .cqEnable w q v => if q < 1024 ∧ bit v 12 = true ∧ (s.dma.cqOf q).en = false then some (w, .dma, .yes) else none
  | .cqHeadWrite w q _ => if q < 1024 then some (w, .dma, .yes) else none
  | .dmaFifoCfgWrite w k _ => if k < 136 then some (w, .dma, .yes) else none
  | .dmaFifoTakeWrite w k _ => if k < 136 then some (w, .dma, .yes) else none
  | .channelDisable w c => if c < 64 then some (w, .dma, .yes) else none
  | .dmaCntClr w _ => some (w, .dma, .yes)
  | .hbCtrlWrite w _ => some (w, .always, .yes)
  | .devCntClr w _ => some (w, .always, .yes)
  | .resAckWrite w m _ => if m < 256 then some (w, .always, .yes) else none
  | .resCntClr w _ => some (w, .always, .yes)
  | .timeCtrlWrite w _ => some (w, .always, .no)
  | .timeCntClr w _ => some (w, .always, .yes)
  | .evtOutCfgWrite w p _ => if p < 4 then some (w, .always, .yes) else none
  | .evtPulseWrite w _ => some (w, .always, .yes)
  | .icPendSet w k _ => if k < 16 then some (w, .always, .yes) else none
  | .icPendClr w k _ => if k < 16 then some (w, .always, .yes) else none
  | .icMaskSet w h k _ => if k < 16 then some (w, .always, (if h then .yes else .no)) else none
  | .icMaskClr w h k _ => if k < 16 then some (w, .always, (if h then .yes else .no)) else none
  | .icTpendSet w t _ => if t < 16 then some (w, icBlk w t, .yes) else none
  | .icTpendClr w t _ => if t < 16 then some (w, icBlk w t, .no) else none
  | .icTmaskSet w t _ => if t < 16 then some (w, icBlk w t, .no) else none
  | .icTmaskClr w t _ => if t < 16 then some (w, icBlk w t, .no) else none
  | .icLevelWrite w (.quoin k) _ => if k < 16 then some (w, .always, .no) else none
  | .icLevelWrite w (.tile t) _ => if t < 16 then some (w, icBlk w t, .no) else none
  | .icLevelWrite w (.tileLow t) _ => if t < 16 then some (w, icBlk w t, .no) else none
  | .icLevelWrite w (.tileHigh t) _ => if t < 16 then some (w, icBlk w t, .no) else none
  | .icRouteWrite w k _ => if k < 512 then some (w, .always, .yes) else none
  | .clkRevert w _ => some (w, .always, .no)
  | .xtalEnWrite w _ => some (w, .always, .no)
  | .dvfsRequest w _ => some (w, .always, .yes)
  | .clkEnSet w _ => some (w, .always, .no)
  | .clkEnClr w _ => some (w, .always, .no)
  | .clkOutCfgWrite w _ => some (w, .always, .yes)
  | .clkCntClr w _ => some (w, .always, .yes)
  | .chainLoopStart w _ => some (w, .always, .no)
  | .chainMsgTxWrite w _ _ => some (w, .always, .yes)
  | .chainMsgPopWrite w _ => some (w, .always, .yes)
  | .chainCntClr w _ => some (w, .always, .yes)
  | .promote w => some (w, .bond, .yes)
  | .relinquish w => some (w, .bond, .yes)
  | .resync w => some (w, .bond, .yes)
  | .bondMwinWrite w n _ _ _ => if n < 64 then some (w, .bond, .no) else none
  | .bondCntClr w _ => some (w, .bond, .yes)
  | .load w => some (w, .sec, .larva)
  | .endObject w => some (w, .sec, .larva)
  | .endLoad w => some (w, .sec, .larva)
  | .decodeStatus w => some (w, .sec, .larva)
  | .getPubkey w => some (w, .sec, .larva)
  | .attest w => some (w, .sec, .larva)
  | .enrol w _ => some (w, .sec, .larva)
  | .run w => some (w, .sec, .larva)
  | .calGapWrite w k _ _ => if k < 8 then some (w, .always, .yes) else none
  | .calCntClr w _ => some (w, .always, .yes)
  | .fenceTile (.command w) _ => some (w, .always, .no)
  | .unfenceTile w _ => some (w, .always, .no)
  | .releaseTile w _ => some (w, .always, .no)
  | .fenceSlice w _ => some (w, .always, .no)
  | .unfenceSlice w _ => some (w, .always, .no)
  | .devFault w => some (w, .always, .no)
  | .kick w => some (w, .always, .no)
  | .devFltCntClr w _ => some (w, .always, .yes)
  | _ => none

/-- R9, R197, R284, R394, R397, R398, R453, R507, R527, R531: a register write that the start-up state, the register's host-writable
column, a fence or a gated clock turns away changes nothing but the count of it; with Memory Space Enable at 0 a write request of the host
is an Unsupported Request that is reported and no more (the model's choice, log entry 46); a tile's sequencer reaches its own tile's
registers alone (the model's reading, log entry 61). A write request of the host that reaches MOR_MODE_STAGE[n] has that register's
effect, and a poisoned one has none and reports the error; a course of one to a running tile's registers that shows a parity error is
discarded and counted; a tile's sequencer reaches its VEC_STATUS so (R197), where a flag that an event of the same cycle sets stays set
(R9). A read of DEV_ID returns the part and its grade, but zeros in EGG (R415, R507), and a read of BAR4 zeros (R372). -/
def Obligations.RegisterWritesReachOrAreTurnedAway : Prop :=
  (∀ (i : Instr) (b : Blk) (p : HostPerm) (s : State), Claims.regOf s i = some (.host, b, p) →
    (s.barOpen = false → exec i s = .next (if s.host.width = 0 then s else s.toHost (.aer 2)))
    ∧ (s.barOpen = true → hostMayWrite s.sec.life b p = false ∨ s.fencedBlk b = true →
        exec i s = .next { s with
          host := { s.host with l1 := false, trafficAt := s.te.time, hostRejCnt := satAdd32 s.host.hostRejCnt 1 } })
    ∧ (s.barOpen = true → hostMayWrite s.sec.life b p = true → s.fencedBlk b = false → s.gated b = true →
        exec i s = .next { s with
          host := { s.host with l1 := false, trafficAt := s.te.time }
          clk := { s.clk with gatedAccess := satAdd32 s.clk.gatedAccess 1 } }))
  ∧ (∀ (i : Instr) (b : Blk) (p : HostPerm) (n : Nat) (s : State), Claims.regOf s i = some (.tile n, b, p) → b ≠ .tile n →
    exec i s = .next s)
  ∧ (∀ (n : Nat) (v : BitVec 32) (bad : Bool) (s : State), n < 16 → n < s.mor.stage.length → s.barOpen = true →
    hostMayWrite s.sec.life .always .yes = true →
    exec (.hostRegWrite .host (0x500100 + 4 * n) (.write (unpackBytes 4 v.toNat)) ⟨false, bad⟩) s = .next { s.linkUse with
      mor := { s.mor with stage := lput s.mor.stage n v } })
  ∧ (∀ (bs : List (BitVec 8)) (bad : Bool) (s : State), s.barOpen = true → bs.length = 4 →
    exec (.hostRegWrite .host 0x500100 (.write bs) ⟨true, bad⟩) s = .next (s.toHost (.aer 1)))
  ∧ (∀ (n : Nat) (v : BitVec 32) (s : State), n < 16 → s.barOpen = true → s.fencedTile n = false → s.gatedTile n = false →
    exec (.hostRegWrite .host (0x1401000 + 0x800000 * n) (.write (unpackBytes 4 v.toNat)) ⟨false, true⟩) s = .next ({ s.linkUse with
      flt := { s.flt with morPerr := satAdd32 s.flt.morPerr 1 } }.devSource 297))
  ∧ (∀ (n : Nat) (v : BitVec 32) (mark : AccessMark) (s : State), s.tileLive n = true → n < s.tiles.length →
    exec (.hostRegWrite (.tile n) (0x1401000 + 0x800000 * n) (.write (unpackBytes 4 v.toNat)) mark) s
      = .next (s.updVec n fun e => { e with
          sat := e.sat && (!v.getLsbD 8 || e.now.set.getLsbD 8)
          accSat := e.accSat && (!v.getLsbD 9 || e.now.set.getLsbD 9)
          wcoll := e.wcoll && (!v.getLsbD 10 || e.now.set.getLsbD 10)
          illegal := e.illegal && (!v.getLsbD 11 || e.now.set.getLsbD 11) }))
  ∧ (∀ (mark : AccessMark) (s : State), s.barOpen = true →
    exec (.hostRegWrite .host 0 (.read 4) mark) s = .next (s.toHost (.completion
      (if s.sec.life = .egg then List.replicate 4 0 else unpackBytes 4 (0x00B00048 + 2 ^ 24 * s.sec.grade.toNat)) false false)))
  ∧ (∀ (o n : Nat) (mark : AccessMark) (s : State), s.barOpen = true → s.gated .dma = false → o + n ≤ 0x40000 →
    exec (.hostRegWrite .host o (.bellRead n) mark) s = .next (s.toHost (.completion (List.replicate n 0) false false)))

/-! ### The machine as a whole -/

/-- A step runs the command at the front of the queue on the state with the rest of the queue. With no command waiting a cycle of the tile
clock passes while the device runs (the model's choice, log entry 60): the cycle number and the hod's pointer advance (R300), the EVT_OUT
pins hear the lines that reach the hub in that cycle (R424), the courses on the mesh move (R285; log entry 93), the console's bits go out
in their time (R502; log entry 109), what CLR writes and events of the cycle left of one another is settled and forgotten (R9; log entry
94), and a scan of a command list whose cycle has come takes effect (R315). Where none has, everything else outside the tiles stays, and
in the tiles every sequencer, store, vector engine and host port; and where nothing has happened in the cycle there is nothing to settle.
-/
def Obligations.StepTakesTheFront : Prop :=
  (∀ (c : Instr) (rest : List Instr) (s : State), s.pending = c :: rest → step s = exec c { s with pending := rest })
  ∧ (∀ (s : State), s.pending = [] → s.alive = true → ∃ t, step s = .next t ∧ t.cycle = s.cycle + 1
    ∧ t.hod.q = (s.cycle + 1) % 4 ∧ t.tiles.length = s.tiles.length
    ∧ ((∀ n < 16, ∀ u r k due, s.run n u = some r → r.scan = some (k, due) → s.cycle + 1 < due) →
      t = { s.newCycle with
          tiles := t.tiles
          hod := { s.newCycle.hod with q := t.hod.q }
          te := { (s.te.heard (pulsesAt (s.cycle + 1) s.te.pulses)).settle with now := .none }
          mor := { s.newCycle.mor with flight := t.mor.flight, turns := t.mor.turns }
          dma := { s.newCycle.dma with flight := t.dma.flight }
          sc := { s.newCycle.sc with trk := t.sc.trk }
          sec := { s.newCycle.sec with uart := t.sec.uart, uartAt := t.sec.uartAt }
          cycle := t.cycle }
      ∧ (meshPositions s = [] → t.mor = s.newCycle.mor ∧ t.dma = s.newCycle.dma ∧ t.sc = s.newCycle.sc)
      ∧ (∀ m : MeshPos, (t.mor.flight.map fun x => { x with mesh := m }) = s.newCycle.mor.flight.map fun x => { x with mesh := m })
      ∧ (t.sec.uart = s.sec.uart ∧ t.sec.uartAt = s.sec.uartAt
          ∨ s.sec.uartAt + Config.uartBit ≤ t.cycle ∧ t.sec.uart = s.sec.uart.drop 1 ∧ t.sec.uartAt = t.cycle)
      ∧ (∀ n, (t.core n) = (s.core n) ∧ (t.tile n).hp = (s.tile n).hp
          ∧ (t.tile n).ts = { (s.tile n).ts.settle with now := .none } ∧ (t.tile n).vec = { (s.tile n).vec.settle with now := .none })))
  ∧ (∀ (n : Nat) (s : State), ((s.tile n).ts.now = .none → { (s.tile n).ts.settle with now := .none } = (s.tile n).ts)
    ∧ ((s.tile n).vec.now = .none → { (s.tile n).vec.settle with now := .none } = (s.tile n).vec))
  ∧ (∀ (s : State), s.dma.now = .none → s.newCycle.dma = s.dma)
  ∧ (∀ (s : State), s.pending = [] → s.alive = false → step s = .next s)

/-- No command touches the queue: whatever waits behind it waits as it did. -/
def Obligations.CommandsKeepTheQueue : Prop :=
  ∀ (i : Instr) (s t : State), exec i s = .next t → t.pending = s.pending

/-- Every command is answered by a next state: nothing faults and nothing is refused, whatever the state. The spec names no stop of the
block; that operands a rule calls reserved or open run with free values, and that a command which its state does not admit leaves it, is the
model's choice (log entries 12, 13, 84 and 86). -/
def Obligations.EveryCommandAnswers : Prop :=
  ∀ (i : Instr) (s : State), ∃ t, exec i s = .next t

/-- The state after reset is sound. -/
def Obligations.ResetIsSound : Prop := Safety.Sound State.reset

/-- Every step keeps a sound state sound: its memories canonical, its shape, the hod's pointer, and the waiting commands
well formed. -/
def Obligations.StepKeepsSound : Prop :=
  ∀ (s t : State), Safety.Sound s → step s = .next t → Safety.Sound t

/-- R73: after reset every local RAM word holds UNINIT and 0, g1 to g15 of every bank hold UNINIT, the f and q registers
hold 0 and the return stack is empty, on every sequencer. -/
def Obligations.SequencersAtReset : Prop :=
  ∀ (n : Nat), n ≤ 16 →
    (∀ w, (State.reset.core n).lword w = ⟨tagUninit, 0⟩)
    ∧ (∀ (l : BitVec 2) (i : Nat), 1 ≤ i → i ≤ 15 →
        (SeqCore.g { State.reset.core n with level := l } i).tag = tagUninit)
    ∧ (∀ i, (State.reset.core n).fReg i = 0) ∧ (∀ i, (State.reset.core n).qReg i = 0)
    ∧ (State.reset.core n).rstack = []

/-- What the field tables give for reset, in every kind of state: EGG, no work anywhere, tile stores of zeros with every bank ON (R68),
counters and errors 0, the fault limits of DEV_FLT_CFG. That the quoin's sequencer is not halted is no field table's value but the model's
choice (log entries 2 and 9). -/
def Obligations.RegistersAtReset : Prop :=
  State.reset.sec.life = .egg ∧ State.reset.te.time = 0 ∧ State.reset.te.running = false
    ∧ (∀ n < 16, (∀ a, (State.reset.tile n).ts.byte a = 0) ∧ (∀ c < 32768, (State.reset.tile n).ts.live c = true)
        ∧ (State.reset.tile n).st.issueN = none ∧ (State.reset.tile n).st.issueU = none
        ∧ (State.reset.tile n).arr.queue = [] ∧ (State.reset.tile n).drn.queue = [] ∧ (State.reset.tile n).sce.queue = []
        ∧ (State.reset.core n).halted = true)
    ∧ (State.reset.core 16).halted = false
    ∧ (∀ t < 64, (State.reset.hod.tgts.getD t .reset).state = 0)
    ∧ State.reset.mor.epoch = 0 ∧ State.reset.mor.mixed = false ∧ State.reset.mor.fenced = 0
    ∧ State.reset.sc.fence = 0 ∧ State.reset.sc.ceCnt = 0 ∧ State.reset.sc.ueCnt = 0
    ∧ (∀ n, (State.reset.dma.live n).state = 0) ∧ State.reset.dma.dseq = 0
    ∧ State.reset.host.hostRejCnt = 0 ∧ State.reset.ic.pend = 0 ∧ State.reset.chain.assigned = false
    ∧ State.reset.bond.linkUp = false ∧ State.reset.cal.started = false
    ∧ State.reset.flt.cfg = 0x0A0A1003#32 ∧ State.reset.flt.devFault = false

/-- The order of the states of R486. -/
def Sys2Proof.Claims.after : Life → Life → Prop
  | .egg, .larva => True
  | .larva, .chrysalis => True
  | .chrysalis, .imago => True
  | _, _ => False

/-- R486, R501, R535, R536: LIFE stays, or goes to the next state of R486, or falls back to EGG; until it does, a device
fault stands with its first cause, and a boot error stands. -/
def Obligations.LifeAndFaultsLast : Prop :=
  ∀ (i : Instr) (s t : State), exec i s = .next t →
    t.sec.life = .egg
    ∨ ((t.sec.life = s.sec.life ∨ Claims.after s.sec.life t.sec.life)
        ∧ (s.flt.devFault = true → t.flt.devFault = true ∧ t.flt.cause = s.flt.cause ∧ t.flt.channel = s.flt.channel)
        ∧ (s.sec.bootFail = true → t.sec.bootFail = true ∧ t.sec.bootCode = s.sec.bootCode))

/-- The frame of the integer instructions on a tile whose store buffer is empty, whether they complete or trap. With a
register destination no memory changes, and with a near operand of local RAM as the destination no word outside the
operand's changes; the f and q registers, the vector engine's memory, the decode RAM and the other tiles stay; and every g
register but the destination stays, unless the bank changes. -/
def Obligations.IntegerFrames : Prop :=
  ∀ p ∈ Claims.intRows, ∀ (o : SeqOps) (s0 s t : State) (x : Args), o.core < 16 → Claims.Ready p.opc o s0 s →
    Claims.Placed kDst kSrc kSrc o s x → (s.core o.core).stbuf = [] →
    (∀ sp w addr, x.a = .mem sp w addr → sp = .lram ∧ addr + 2 ^ w ≤ nearTop) → (∀ i, x.a ≠ .f i) →
    exec (p.ins o) s0 = .next t →
    (∀ k, (∀ sp w addr, x.a = .mem sp w addr → k ∉ wordsOf addr (2 ^ w)) → (t.core o.core).lword k = (s.core o.core).lword k)
    ∧ (∀ a, (t.tile o.core).ts.byte a = (s.tile o.core).ts.byte a)
    ∧ (t.core o.core).f = (s.core o.core).f
    ∧ (t.core o.core).decodeRam = (s.core o.core).decodeRam ∧ (t.tile o.core).vec = (s.tile o.core).vec
    ∧ ((t.core o.core).bankLevel = (s.core o.core).bankLevel → ∀ i < 16, x.a ≠ .g i → (t.core o.core).g i = (s.core o.core).g i)
    ∧ (∀ n, n ≠ o.core → t.tile n = s.tile n) ∧ t.hod = s.hod ∧ t.ddr = s.ddr ∧ t.dma = s.dma ∧ t.sc = s.sc
end

