-- ==== Sys2Proof/Laws/Sparse.lean ====
section
/-! SUPPORT. Sparse memories and lists of units: read after write, and that every operation keeps the canonical form. -/

namespace Sys2Proof.Machine

/-! ### Lists of units -/

@[simp] theorem upd_length {α : Type} (l : List α) (i : Nat) (f : α → α) : (upd l i f).length = l.length := by
  induction l generalizing i with
  | nil => rfl
  | cons x r ih => cases i <;> simp [upd, ih]

theorem upd_getD_same {α : Type} (l : List α) (i : Nat) (f : α → α) (d : α) (h : i < l.length) :
    (upd l i f).getD i d = f (l.getD i d) := by
  induction l generalizing i with
  | nil => cases h
  | cons x r ih =>
    cases i with
    | zero => rfl
    | succ i => simpa [upd] using ih i (by simpa using h)

theorem upd_getD_ne {α : Type} (l : List α) (i j : Nat) (f : α → α) (d : α) (h : j ≠ i) :
    (upd l i f).getD j d = l.getD j d := by
  induction l generalizing i j with
  | nil => rfl
  | cons x r ih =>
    cases i <;> cases j
    · exact absurd rfl h
    · rfl
    · rfl
    · simpa [upd] using ih _ _ (by omega)

/-- An update that keeps a property of every element keeps it of the list. -/
theorem upd_all {α : Type} (l : List α) (i : Nat) (f : α → α) (p : α → Bool) (hl : l.all p = true)
    (hf : ∀ x, p x = true → p (f x) = true) : (upd l i f).all p = true := by
  induction l generalizing i with
  | nil => rfl
  | cons x r ih =>
    simp only [List.all_cons, Bool.and_eq_true] at hl
    cases i with
    | zero => simp [upd, hf x hl.1, hl.2]
    | succ i => simp [upd, hl.1, ih i hl.2]

/-! ### The canonical form -/

section
variable {β : Type} [DecidableEq β] (d : Nat → β)

/-- A lower bound of the indices may be lowered. -/
theorem swfFrom_mono {lo lo' : Nat} (h : lo' ≤ lo) : ∀ m : List (Nat × β), swfFrom d lo m = true → swfFrom d lo' m = true
  | [], _ => rfl
  | (k, v) :: r, hm => by
    simp only [swfFrom, Bool.and_eq_true, decide_eq_true_eq] at hm ⊢
    exact ⟨⟨by omega, hm.1.2⟩, hm.2⟩

/-- An index below every listed one reads as the default. -/
theorem sget_below {lo a : Nat} (h : a < lo) : ∀ m : List (Nat × β), swfFrom d lo m = true → sget d m a = d a
  | [], _ => rfl
  | (k, v) :: r, hm => by
    simp only [swfFrom, Bool.and_eq_true, decide_eq_true_eq] at hm
    have hk : k ≠ a := by omega
    simp only [sget, hk, if_false]
    exact sget_below (by omega) r hm.2

theorem sset_wfFrom {lo a : Nat} (v : β) (h : lo ≤ a) :
    ∀ m : List (Nat × β), swfFrom d lo m = true → swfFrom d lo (sset d m a v) = true
  | [], _ => by
    unfold sset
    split <;> simp_all [swfFrom]
  | (k, w) :: r, hm => by
    have hm' := hm
    simp only [swfFrom, Bool.and_eq_true, decide_eq_true_eq] at hm
    unfold sset
    split
    · split
      · exact hm'
      · simp_all [swfFrom]
    · split
      · rename_i hlt heq
        subst heq
        split
        · exact swfFrom_mono d (by omega) r hm.2
        · simp_all [swfFrom]
      · simp only [swfFrom, Bool.and_eq_true, decide_eq_true_eq]
        exact ⟨hm.1, sset_wfFrom v (by omega) r hm.2⟩
termination_by m => m.length

/-- A write keeps the canonical form. -/
theorem sset_wf (m : List (Nat × β)) (a : Nat) (v : β) (h : swf d m = true) : swf d (sset d m a v) = true :=
  sset_wfFrom d v (Nat.zero_le a) m h

theorem sget_sset_same_from {lo a : Nat} (v : β) :
    ∀ m : List (Nat × β), swfFrom d lo m = true → sget d (sset d m a v) a = v
  | [], _ => by
    unfold sset
    split <;> simp_all [sget]
  | (k, w) :: r, hm => by
    have hm' := hm
    simp only [swfFrom, Bool.and_eq_true, decide_eq_true_eq] at hm
    unfold sset
    split
    · rename_i hlt
      split
      · rename_i hv
        have hk : k ≠ a := by omega
        simp only [sget, hk, if_false]
        rw [sget_below d (by omega) r hm.2, hv]
      · simp [sget]
    · split
      · rename_i hlt heq
        subst heq
        split
        · rename_i hv
          rw [sget_below d (by omega) r hm.2, hv]
        · simp [sget]
      · rename_i hlt hne
        have hk : k ≠ a := fun e => hne e.symm
        simp only [sget, hk, if_false]
        exact sget_sset_same_from v r hm.2
termination_by m => m.length

/-- A read of the index written gives the value written. -/
theorem sget_sset_same (m : List (Nat × β)) (a : Nat) (v : β) (h : swf d m = true) : sget d (sset d m a v) a = v :=
  sget_sset_same_from d (lo := 0) v m h

/-- A write leaves every other index alone. -/
theorem sget_sset_ne {a b : Nat} (v : β) (h : b ≠ a) : ∀ m : List (Nat × β), sget d (sset d m a v) b = sget d m b
  | [] => by
    unfold sset
    split
    · rfl
    · simp [sget, h.symm]
  | (k, w) :: r => by
    unfold sset
    split
    · split
      · rfl
      · simp [sget, h.symm]
    · split
      · rename_i heq
        subst heq
        split <;> simp [sget, h.symm]
      · simp only [sget]
        rw [sget_sset_ne v h r]

theorem sdrop_wfFrom (p : Nat → Bool) : ∀ {lo : Nat} (m : List (Nat × β)), swfFrom d lo m = true → swfFrom d lo (sdrop p m) = true
  | _, [], _ => rfl
  | lo, (k, v) :: r, hm => by
    simp only [swfFrom, Bool.and_eq_true, decide_eq_true_eq] at hm
    have ih := sdrop_wfFrom p r hm.2
    unfold sdrop at ih ⊢
    rw [List.filter_cons]
    split
    · simp only [swfFrom, Bool.and_eq_true, decide_eq_true_eq]
      exact ⟨hm.1, ih⟩
    · exact swfFrom_mono d (by omega) _ ih

/-- Dropping entries keeps the canonical form. -/
theorem sdrop_wf (p : Nat → Bool) (m : List (Nat × β)) (h : swf d m = true) : swf d (sdrop p m) = true :=
  sdrop_wfFrom d p m h

theorem smap_wfFrom (f : Nat → β → β) : ∀ {lo : Nat} (m : List (Nat × β)), swfFrom d lo m = true → swfFrom d lo (smap d f m) = true
  | _, [], _ => rfl
  | lo, (k, v) :: r, hm => by
    simp only [swfFrom, Bool.and_eq_true, decide_eq_true_eq] at hm
    have ih := smap_wfFrom f r hm.2
    unfold smap at ih ⊢
    rw [List.map_cons, List.filter_cons]
    split
    · rename_i hv
      simp only [swfFrom, Bool.and_eq_true, decide_eq_true_eq]
      exact ⟨⟨hm.1.1, hv⟩, ih⟩
    · exact swfFrom_mono d (by omega) _ ih

/-- Changing every entry keeps the canonical form. -/
theorem smap_wf (f : Nat → β → β) (m : List (Nat × β)) (h : swf d m = true) : swf d (smap d f m) = true :=
  smap_wfFrom d f m h

/-- Writes one after another keep the canonical form. -/
theorem foldl_wf {γ : Type} (g : List (Nat × β) → γ → List (Nat × β)) (hg : ∀ m c, swf d m = true → swf d (g m c) = true) :
    ∀ (l : List γ) (m : List (Nat × β)), swf d m = true → swf d (l.foldl g m) = true
  | [], _, h => h
  | c :: r, m, h => foldl_wf g hg r (g m c) (hg m c h)

end

/-! ### Keyed lists -/

theorem kget_kset_same {β : Type} (a : Nat) (v : β) : ∀ l : List (Nat × β), kget (kset l a v) a = some v
  | [] => by simp [kset, kget]
  | (k, w) :: r => by
    unfold kset
    split
    · simp [kget]
    · split
      · simp [kget]
      · rename_i hne
        have hk : k ≠ a := fun e => hne e.symm
        simp only [kget, hk, if_false]
        exact kget_kset_same a v r

theorem kget_kset_ne {β : Type} {a b : Nat} (v : β) (h : b ≠ a) : ∀ l : List (Nat × β), kget (kset l a v) b = kget l b
  | [] => by simp [kset, kget, h.symm]
  | (k, w) :: r => by
    unfold kset
    split
    · simp [kget, h.symm]
    · split
      · rename_i heq
        subst heq
        simp [kget, h.symm]
      · simp only [kget]
        rw [kget_kset_ne v h r]

end Sys2Proof.Machine
end

