-- ==== Sys2Proof/Laws/State.lean ====
section
/-! SUPPORT. Each field of the state after each of the named updates: one lemma per field and update, so that no proof
unfolds a record update. -/

namespace Sys2Proof.Machine

/-! ### State.updTile -/

section
variable (s : State) (t : Nat) (f : Tile → Tile)
@[simp] theorem State.updTile_tiles : (s.updTile t f).tiles = upd s.tiles t f := rfl
@[simp] theorem State.updTile_mor : (s.updTile t f).mor = s.mor := rfl
@[simp] theorem State.updTile_hod : (s.updTile t f).hod = s.hod := rfl
@[simp] theorem State.updTile_sc : (s.updTile t f).sc = s.sc := rfl
@[simp] theorem State.updTile_ddr : (s.updTile t f).ddr = s.ddr := rfl
@[simp] theorem State.updTile_dma : (s.updTile t f).dma = s.dma := rfl
@[simp] theorem State.updTile_host : (s.updTile t f).host = s.host := rfl
@[simp] theorem State.updTile_te : (s.updTile t f).te = s.te := rfl
@[simp] theorem State.updTile_ic : (s.updTile t f).ic = s.ic := rfl
@[simp] theorem State.updTile_clk : (s.updTile t f).clk = s.clk := rfl
@[simp] theorem State.updTile_chain : (s.updTile t f).chain = s.chain := rfl
@[simp] theorem State.updTile_bond : (s.updTile t f).bond = s.bond := rfl
@[simp] theorem State.updTile_sec : (s.updTile t f).sec = s.sec := rfl
@[simp] theorem State.updTile_quoin : (s.updTile t f).quoin = s.quoin := rfl
@[simp] theorem State.updTile_cal : (s.updTile t f).cal = s.cal := rfl
@[simp] theorem State.updTile_flt : (s.updTile t f).flt = s.flt := rfl
@[simp] theorem State.updTile_cycle : (s.updTile t f).cycle = s.cycle := rfl
@[simp] theorem State.updTile_freeCnt : (s.updTile t f).freeCnt = s.freeCnt := rfl
@[simp] theorem State.updTile_pending : (s.updTile t f).pending = s.pending := rfl
end

/-! ### State.updSt -/

section
variable (s : State) (t : Nat) (f : StepUnit → StepUnit)
@[simp] theorem State.updSt_tiles : (s.updSt t f).tiles = upd s.tiles t fun x => { x with st := f x.st } := rfl
@[simp] theorem State.updSt_mor : (s.updSt t f).mor = s.mor := rfl
@[simp] theorem State.updSt_hod : (s.updSt t f).hod = s.hod := rfl
@[simp] theorem State.updSt_sc : (s.updSt t f).sc = s.sc := rfl
@[simp] theorem State.updSt_ddr : (s.updSt t f).ddr = s.ddr := rfl
@[simp] theorem State.updSt_dma : (s.updSt t f).dma = s.dma := rfl
@[simp] theorem State.updSt_host : (s.updSt t f).host = s.host := rfl
@[simp] theorem State.updSt_te : (s.updSt t f).te = s.te := rfl
@[simp] theorem State.updSt_ic : (s.updSt t f).ic = s.ic := rfl
@[simp] theorem State.updSt_clk : (s.updSt t f).clk = s.clk := rfl
@[simp] theorem State.updSt_chain : (s.updSt t f).chain = s.chain := rfl
@[simp] theorem State.updSt_bond : (s.updSt t f).bond = s.bond := rfl
@[simp] theorem State.updSt_sec : (s.updSt t f).sec = s.sec := rfl
@[simp] theorem State.updSt_quoin : (s.updSt t f).quoin = s.quoin := rfl
@[simp] theorem State.updSt_cal : (s.updSt t f).cal = s.cal := rfl
@[simp] theorem State.updSt_flt : (s.updSt t f).flt = s.flt := rfl
@[simp] theorem State.updSt_cycle : (s.updSt t f).cycle = s.cycle := rfl
@[simp] theorem State.updSt_freeCnt : (s.updSt t f).freeCnt = s.freeCnt := rfl
@[simp] theorem State.updSt_pending : (s.updSt t f).pending = s.pending := rfl
end

/-! ### State.updTs -/

section
variable (s : State) (t : Nat) (f : TileStore → TileStore)
@[simp] theorem State.updTs_tiles : (s.updTs t f).tiles = upd s.tiles t fun x => { x with ts := f x.ts } := rfl
@[simp] theorem State.updTs_mor : (s.updTs t f).mor = s.mor := rfl
@[simp] theorem State.updTs_hod : (s.updTs t f).hod = s.hod := rfl
@[simp] theorem State.updTs_sc : (s.updTs t f).sc = s.sc := rfl
@[simp] theorem State.updTs_ddr : (s.updTs t f).ddr = s.ddr := rfl
@[simp] theorem State.updTs_dma : (s.updTs t f).dma = s.dma := rfl
@[simp] theorem State.updTs_host : (s.updTs t f).host = s.host := rfl
@[simp] theorem State.updTs_te : (s.updTs t f).te = s.te := rfl
@[simp] theorem State.updTs_ic : (s.updTs t f).ic = s.ic := rfl
@[simp] theorem State.updTs_clk : (s.updTs t f).clk = s.clk := rfl
@[simp] theorem State.updTs_chain : (s.updTs t f).chain = s.chain := rfl
@[simp] theorem State.updTs_bond : (s.updTs t f).bond = s.bond := rfl
@[simp] theorem State.updTs_sec : (s.updTs t f).sec = s.sec := rfl
@[simp] theorem State.updTs_quoin : (s.updTs t f).quoin = s.quoin := rfl
@[simp] theorem State.updTs_cal : (s.updTs t f).cal = s.cal := rfl
@[simp] theorem State.updTs_flt : (s.updTs t f).flt = s.flt := rfl
@[simp] theorem State.updTs_cycle : (s.updTs t f).cycle = s.cycle := rfl
@[simp] theorem State.updTs_freeCnt : (s.updTs t f).freeCnt = s.freeCnt := rfl
@[simp] theorem State.updTs_pending : (s.updTs t f).pending = s.pending := rfl
end

/-! ### State.updVec -/

section
variable (s : State) (t : Nat) (f : VecEngine → VecEngine)
@[simp] theorem State.updVec_tiles : (s.updVec t f).tiles = upd s.tiles t fun x => { x with vec := f x.vec } := rfl
@[simp] theorem State.updVec_mor : (s.updVec t f).mor = s.mor := rfl
@[simp] theorem State.updVec_hod : (s.updVec t f).hod = s.hod := rfl
@[simp] theorem State.updVec_sc : (s.updVec t f).sc = s.sc := rfl
@[simp] theorem State.updVec_ddr : (s.updVec t f).ddr = s.ddr := rfl
@[simp] theorem State.updVec_dma : (s.updVec t f).dma = s.dma := rfl
@[simp] theorem State.updVec_host : (s.updVec t f).host = s.host := rfl
@[simp] theorem State.updVec_te : (s.updVec t f).te = s.te := rfl
@[simp] theorem State.updVec_ic : (s.updVec t f).ic = s.ic := rfl
@[simp] theorem State.updVec_clk : (s.updVec t f).clk = s.clk := rfl
@[simp] theorem State.updVec_chain : (s.updVec t f).chain = s.chain := rfl
@[simp] theorem State.updVec_bond : (s.updVec t f).bond = s.bond := rfl
@[simp] theorem State.updVec_sec : (s.updVec t f).sec = s.sec := rfl
@[simp] theorem State.updVec_quoin : (s.updVec t f).quoin = s.quoin := rfl
@[simp] theorem State.updVec_cal : (s.updVec t f).cal = s.cal := rfl
@[simp] theorem State.updVec_flt : (s.updVec t f).flt = s.flt := rfl
@[simp] theorem State.updVec_cycle : (s.updVec t f).cycle = s.cycle := rfl
@[simp] theorem State.updVec_freeCnt : (s.updVec t f).freeCnt = s.freeCnt := rfl
@[simp] theorem State.updVec_pending : (s.updVec t f).pending = s.pending := rfl
end

/-! ### State.updArr -/

section
variable (s : State) (t : Nat) (f : ArrayEng → ArrayEng)
@[simp] theorem State.updArr_tiles : (s.updArr t f).tiles = upd s.tiles t fun x => { x with arr := f x.arr } := rfl
@[simp] theorem State.updArr_mor : (s.updArr t f).mor = s.mor := rfl
@[simp] theorem State.updArr_hod : (s.updArr t f).hod = s.hod := rfl
@[simp] theorem State.updArr_sc : (s.updArr t f).sc = s.sc := rfl
@[simp] theorem State.updArr_ddr : (s.updArr t f).ddr = s.ddr := rfl
@[simp] theorem State.updArr_dma : (s.updArr t f).dma = s.dma := rfl
@[simp] theorem State.updArr_host : (s.updArr t f).host = s.host := rfl
@[simp] theorem State.updArr_te : (s.updArr t f).te = s.te := rfl
@[simp] theorem State.updArr_ic : (s.updArr t f).ic = s.ic := rfl
@[simp] theorem State.updArr_clk : (s.updArr t f).clk = s.clk := rfl
@[simp] theorem State.updArr_chain : (s.updArr t f).chain = s.chain := rfl
@[simp] theorem State.updArr_bond : (s.updArr t f).bond = s.bond := rfl
@[simp] theorem State.updArr_sec : (s.updArr t f).sec = s.sec := rfl
@[simp] theorem State.updArr_quoin : (s.updArr t f).quoin = s.quoin := rfl
@[simp] theorem State.updArr_cal : (s.updArr t f).cal = s.cal := rfl
@[simp] theorem State.updArr_flt : (s.updArr t f).flt = s.flt := rfl
@[simp] theorem State.updArr_cycle : (s.updArr t f).cycle = s.cycle := rfl
@[simp] theorem State.updArr_freeCnt : (s.updArr t f).freeCnt = s.freeCnt := rfl
@[simp] theorem State.updArr_pending : (s.updArr t f).pending = s.pending := rfl
end

/-! ### State.updDrn -/

section
variable (s : State) (t : Nat) (f : DrainEng → DrainEng)
@[simp] theorem State.updDrn_tiles : (s.updDrn t f).tiles = upd s.tiles t fun x => { x with drn := f x.drn } := rfl
@[simp] theorem State.updDrn_mor : (s.updDrn t f).mor = s.mor := rfl
@[simp] theorem State.updDrn_hod : (s.updDrn t f).hod = s.hod := rfl
@[simp] theorem State.updDrn_sc : (s.updDrn t f).sc = s.sc := rfl
@[simp] theorem State.updDrn_ddr : (s.updDrn t f).ddr = s.ddr := rfl
@[simp] theorem State.updDrn_dma : (s.updDrn t f).dma = s.dma := rfl
@[simp] theorem State.updDrn_host : (s.updDrn t f).host = s.host := rfl
@[simp] theorem State.updDrn_te : (s.updDrn t f).te = s.te := rfl
@[simp] theorem State.updDrn_ic : (s.updDrn t f).ic = s.ic := rfl
@[simp] theorem State.updDrn_clk : (s.updDrn t f).clk = s.clk := rfl
@[simp] theorem State.updDrn_chain : (s.updDrn t f).chain = s.chain := rfl
@[simp] theorem State.updDrn_bond : (s.updDrn t f).bond = s.bond := rfl
@[simp] theorem State.updDrn_sec : (s.updDrn t f).sec = s.sec := rfl
@[simp] theorem State.updDrn_quoin : (s.updDrn t f).quoin = s.quoin := rfl
@[simp] theorem State.updDrn_cal : (s.updDrn t f).cal = s.cal := rfl
@[simp] theorem State.updDrn_flt : (s.updDrn t f).flt = s.flt := rfl
@[simp] theorem State.updDrn_cycle : (s.updDrn t f).cycle = s.cycle := rfl
@[simp] theorem State.updDrn_freeCnt : (s.updDrn t f).freeCnt = s.freeCnt := rfl
@[simp] theorem State.updDrn_pending : (s.updDrn t f).pending = s.pending := rfl
end

/-! ### State.updSce -/

section
variable (s : State) (t : Nat) (f : SceEng → SceEng)
@[simp] theorem State.updSce_tiles : (s.updSce t f).tiles = upd s.tiles t fun x => { x with sce := f x.sce } := rfl
@[simp] theorem State.updSce_mor : (s.updSce t f).mor = s.mor := rfl
@[simp] theorem State.updSce_hod : (s.updSce t f).hod = s.hod := rfl
@[simp] theorem State.updSce_sc : (s.updSce t f).sc = s.sc := rfl
@[simp] theorem State.updSce_ddr : (s.updSce t f).ddr = s.ddr := rfl
@[simp] theorem State.updSce_dma : (s.updSce t f).dma = s.dma := rfl
@[simp] theorem State.updSce_host : (s.updSce t f).host = s.host := rfl
@[simp] theorem State.updSce_te : (s.updSce t f).te = s.te := rfl
@[simp] theorem State.updSce_ic : (s.updSce t f).ic = s.ic := rfl
@[simp] theorem State.updSce_clk : (s.updSce t f).clk = s.clk := rfl
@[simp] theorem State.updSce_chain : (s.updSce t f).chain = s.chain := rfl
@[simp] theorem State.updSce_bond : (s.updSce t f).bond = s.bond := rfl
@[simp] theorem State.updSce_sec : (s.updSce t f).sec = s.sec := rfl
@[simp] theorem State.updSce_quoin : (s.updSce t f).quoin = s.quoin := rfl
@[simp] theorem State.updSce_cal : (s.updSce t f).cal = s.cal := rfl
@[simp] theorem State.updSce_flt : (s.updSce t f).flt = s.flt := rfl
@[simp] theorem State.updSce_cycle : (s.updSce t f).cycle = s.cycle := rfl
@[simp] theorem State.updSce_freeCnt : (s.updSce t f).freeCnt = s.freeCnt := rfl
@[simp] theorem State.updSce_pending : (s.updSce t f).pending = s.pending := rfl
end

/-! ### State.updTic -/

section
variable (s : State) (t : Nat) (f : TileIc → TileIc)
@[simp] theorem State.updTic_tiles : (s.updTic t f).tiles = upd s.tiles t fun x => { x with ic := f x.ic } := rfl
@[simp] theorem State.updTic_mor : (s.updTic t f).mor = s.mor := rfl
@[simp] theorem State.updTic_hod : (s.updTic t f).hod = s.hod := rfl
@[simp] theorem State.updTic_sc : (s.updTic t f).sc = s.sc := rfl
@[simp] theorem State.updTic_ddr : (s.updTic t f).ddr = s.ddr := rfl
@[simp] theorem State.updTic_dma : (s.updTic t f).dma = s.dma := rfl
@[simp] theorem State.updTic_host : (s.updTic t f).host = s.host := rfl
@[simp] theorem State.updTic_te : (s.updTic t f).te = s.te := rfl
@[simp] theorem State.updTic_ic : (s.updTic t f).ic = s.ic := rfl
@[simp] theorem State.updTic_clk : (s.updTic t f).clk = s.clk := rfl
@[simp] theorem State.updTic_chain : (s.updTic t f).chain = s.chain := rfl
@[simp] theorem State.updTic_bond : (s.updTic t f).bond = s.bond := rfl
@[simp] theorem State.updTic_sec : (s.updTic t f).sec = s.sec := rfl
@[simp] theorem State.updTic_quoin : (s.updTic t f).quoin = s.quoin := rfl
@[simp] theorem State.updTic_cal : (s.updTic t f).cal = s.cal := rfl
@[simp] theorem State.updTic_flt : (s.updTic t f).flt = s.flt := rfl
@[simp] theorem State.updTic_cycle : (s.updTic t f).cycle = s.cycle := rfl
@[simp] theorem State.updTic_freeCnt : (s.updTic t f).freeCnt = s.freeCnt := rfl
@[simp] theorem State.updTic_pending : (s.updTic t f).pending = s.pending := rfl
end

/-! ### State.updTgt -/

section
variable (s : State) (n : Nat) (f : HodTarget → HodTarget)
@[simp] theorem State.updTgt_tiles : (s.updTgt n f).tiles = s.tiles := rfl
@[simp] theorem State.updTgt_mor : (s.updTgt n f).mor = s.mor := rfl
@[simp] theorem State.updTgt_hod : (s.updTgt n f).hod = { s.hod with tgts := upd s.hod.tgts n f } := rfl
@[simp] theorem State.updTgt_sc : (s.updTgt n f).sc = s.sc := rfl
@[simp] theorem State.updTgt_ddr : (s.updTgt n f).ddr = s.ddr := rfl
@[simp] theorem State.updTgt_dma : (s.updTgt n f).dma = s.dma := rfl
@[simp] theorem State.updTgt_host : (s.updTgt n f).host = s.host := rfl
@[simp] theorem State.updTgt_te : (s.updTgt n f).te = s.te := rfl
@[simp] theorem State.updTgt_ic : (s.updTgt n f).ic = s.ic := rfl
@[simp] theorem State.updTgt_clk : (s.updTgt n f).clk = s.clk := rfl
@[simp] theorem State.updTgt_chain : (s.updTgt n f).chain = s.chain := rfl
@[simp] theorem State.updTgt_bond : (s.updTgt n f).bond = s.bond := rfl
@[simp] theorem State.updTgt_sec : (s.updTgt n f).sec = s.sec := rfl
@[simp] theorem State.updTgt_quoin : (s.updTgt n f).quoin = s.quoin := rfl
@[simp] theorem State.updTgt_cal : (s.updTgt n f).cal = s.cal := rfl
@[simp] theorem State.updTgt_flt : (s.updTgt n f).flt = s.flt := rfl
@[simp] theorem State.updTgt_cycle : (s.updTgt n f).cycle = s.cycle := rfl
@[simp] theorem State.updTgt_freeCnt : (s.updTgt n f).freeCnt = s.freeCnt := rfl
@[simp] theorem State.updTgt_pending : (s.updTgt n f).pending = s.pending := rfl
end

/-! ### State.updTrk -/

section
variable (s : State) (n : Nat) (f : Tracker → Tracker)
@[simp] theorem State.updTrk_tiles : (s.updTrk n f).tiles = s.tiles := rfl
@[simp] theorem State.updTrk_mor : (s.updTrk n f).mor = s.mor := rfl
@[simp] theorem State.updTrk_hod : (s.updTrk n f).hod = s.hod := rfl
@[simp] theorem State.updTrk_sc : (s.updTrk n f).sc = { s.sc with trk := upd s.sc.trk n f } := rfl
@[simp] theorem State.updTrk_ddr : (s.updTrk n f).ddr = s.ddr := rfl
@[simp] theorem State.updTrk_dma : (s.updTrk n f).dma = s.dma := rfl
@[simp] theorem State.updTrk_host : (s.updTrk n f).host = s.host := rfl
@[simp] theorem State.updTrk_te : (s.updTrk n f).te = s.te := rfl
@[simp] theorem State.updTrk_ic : (s.updTrk n f).ic = s.ic := rfl
@[simp] theorem State.updTrk_clk : (s.updTrk n f).clk = s.clk := rfl
@[simp] theorem State.updTrk_chain : (s.updTrk n f).chain = s.chain := rfl
@[simp] theorem State.updTrk_bond : (s.updTrk n f).bond = s.bond := rfl
@[simp] theorem State.updTrk_sec : (s.updTrk n f).sec = s.sec := rfl
@[simp] theorem State.updTrk_quoin : (s.updTrk n f).quoin = s.quoin := rfl
@[simp] theorem State.updTrk_cal : (s.updTrk n f).cal = s.cal := rfl
@[simp] theorem State.updTrk_flt : (s.updTrk n f).flt = s.flt := rfl
@[simp] theorem State.updTrk_cycle : (s.updTrk n f).cycle = s.cycle := rfl
@[simp] theorem State.updTrk_freeCnt : (s.updTrk n f).freeCnt = s.freeCnt := rfl
@[simp] theorem State.updTrk_pending : (s.updTrk n f).pending = s.pending := rfl
end

/-! ### State.updChan -/

section
variable (s : State) (c : Nat) (f : DdrChan → DdrChan)
@[simp] theorem State.updChan_tiles : (s.updChan c f).tiles = s.tiles := rfl
@[simp] theorem State.updChan_mor : (s.updChan c f).mor = s.mor := rfl
@[simp] theorem State.updChan_hod : (s.updChan c f).hod = s.hod := rfl
@[simp] theorem State.updChan_sc : (s.updChan c f).sc = s.sc := rfl
@[simp] theorem State.updChan_ddr : (s.updChan c f).ddr = { s.ddr with ch := upd s.ddr.ch c f } := rfl
@[simp] theorem State.updChan_dma : (s.updChan c f).dma = s.dma := rfl
@[simp] theorem State.updChan_host : (s.updChan c f).host = s.host := rfl
@[simp] theorem State.updChan_te : (s.updChan c f).te = s.te := rfl
@[simp] theorem State.updChan_ic : (s.updChan c f).ic = s.ic := rfl
@[simp] theorem State.updChan_clk : (s.updChan c f).clk = s.clk := rfl
@[simp] theorem State.updChan_chain : (s.updChan c f).chain = s.chain := rfl
@[simp] theorem State.updChan_bond : (s.updChan c f).bond = s.bond := rfl
@[simp] theorem State.updChan_sec : (s.updChan c f).sec = s.sec := rfl
@[simp] theorem State.updChan_quoin : (s.updChan c f).quoin = s.quoin := rfl
@[simp] theorem State.updChan_cal : (s.updChan c f).cal = s.cal := rfl
@[simp] theorem State.updChan_flt : (s.updChan c f).flt = s.flt := rfl
@[simp] theorem State.updChan_cycle : (s.updChan c f).cycle = s.cycle := rfl
@[simp] theorem State.updChan_freeCnt : (s.updChan c f).freeCnt = s.freeCnt := rfl
@[simp] theorem State.updChan_pending : (s.updChan c f).pending = s.pending := rfl
end

/-! ### State.updDch -/

section
variable (s : State) (c : Nat) (f : DmaChan → DmaChan)
@[simp] theorem State.updDch_tiles : (s.updDch c f).tiles = s.tiles := rfl
@[simp] theorem State.updDch_mor : (s.updDch c f).mor = s.mor := rfl
@[simp] theorem State.updDch_hod : (s.updDch c f).hod = s.hod := rfl
@[simp] theorem State.updDch_sc : (s.updDch c f).sc = s.sc := rfl
@[simp] theorem State.updDch_ddr : (s.updDch c f).ddr = s.ddr := rfl
@[simp] theorem State.updDch_dma : (s.updDch c f).dma = { s.dma with ch := upd s.dma.ch c f } := rfl
@[simp] theorem State.updDch_host : (s.updDch c f).host = s.host := rfl
@[simp] theorem State.updDch_te : (s.updDch c f).te = s.te := rfl
@[simp] theorem State.updDch_ic : (s.updDch c f).ic = s.ic := rfl
@[simp] theorem State.updDch_clk : (s.updDch c f).clk = s.clk := rfl
@[simp] theorem State.updDch_chain : (s.updDch c f).chain = s.chain := rfl
@[simp] theorem State.updDch_bond : (s.updDch c f).bond = s.bond := rfl
@[simp] theorem State.updDch_sec : (s.updDch c f).sec = s.sec := rfl
@[simp] theorem State.updDch_quoin : (s.updDch c f).quoin = s.quoin := rfl
@[simp] theorem State.updDch_cal : (s.updDch c f).cal = s.cal := rfl
@[simp] theorem State.updDch_flt : (s.updDch c f).flt = s.flt := rfl
@[simp] theorem State.updDch_cycle : (s.updDch c f).cycle = s.cycle := rfl
@[simp] theorem State.updDch_freeCnt : (s.updDch c f).freeCnt = s.freeCnt := rfl
@[simp] theorem State.updDch_pending : (s.updDch c f).pending = s.pending := rfl
end

/-! ### State.updLive -/

section
variable (s : State) (n : Nat) (f : RingLive → RingLive)
@[simp] theorem State.updLive_tiles : (s.updLive n f).tiles = s.tiles := rfl
@[simp] theorem State.updLive_mor : (s.updLive n f).mor = s.mor := rfl
@[simp] theorem State.updLive_hod : (s.updLive n f).hod = s.hod := rfl
@[simp] theorem State.updLive_sc : (s.updLive n f).sc = s.sc := rfl
@[simp] theorem State.updLive_ddr : (s.updLive n f).ddr = s.ddr := rfl
@[simp] theorem State.updLive_dma : (s.updLive n f).dma = { s.dma with rings := sset (fun _ => RingLive.reset) s.dma.rings n (f (s.dma.live n)) } := rfl
@[simp] theorem State.updLive_host : (s.updLive n f).host = s.host := rfl
@[simp] theorem State.updLive_te : (s.updLive n f).te = s.te := rfl
@[simp] theorem State.updLive_ic : (s.updLive n f).ic = s.ic := rfl
@[simp] theorem State.updLive_clk : (s.updLive n f).clk = s.clk := rfl
@[simp] theorem State.updLive_chain : (s.updLive n f).chain = s.chain := rfl
@[simp] theorem State.updLive_bond : (s.updLive n f).bond = s.bond := rfl
@[simp] theorem State.updLive_sec : (s.updLive n f).sec = s.sec := rfl
@[simp] theorem State.updLive_quoin : (s.updLive n f).quoin = s.quoin := rfl
@[simp] theorem State.updLive_cal : (s.updLive n f).cal = s.cal := rfl
@[simp] theorem State.updLive_flt : (s.updLive n f).flt = s.flt := rfl
@[simp] theorem State.updLive_cycle : (s.updLive n f).cycle = s.cycle := rfl
@[simp] theorem State.updLive_freeCnt : (s.updLive n f).freeCnt = s.freeCnt := rfl
@[simp] theorem State.updLive_pending : (s.updLive n f).pending = s.pending := rfl
end

/-! ### State.updFifo -/

section
variable (s : State) (k : Nat) (f : DmaFifo → DmaFifo)
@[simp] theorem State.updFifo_tiles : (s.updFifo k f).tiles = s.tiles := rfl
@[simp] theorem State.updFifo_mor : (s.updFifo k f).mor = s.mor := rfl
@[simp] theorem State.updFifo_hod : (s.updFifo k f).hod = s.hod := rfl
@[simp] theorem State.updFifo_sc : (s.updFifo k f).sc = s.sc := rfl
@[simp] theorem State.updFifo_ddr : (s.updFifo k f).ddr = s.ddr := rfl
@[simp] theorem State.updFifo_dma : (s.updFifo k f).dma = { s.dma with fifo := sset (fun _ => DmaFifo.reset) s.dma.fifo k (f (s.dma.fifoOf k)) } := rfl
@[simp] theorem State.updFifo_host : (s.updFifo k f).host = s.host := rfl
@[simp] theorem State.updFifo_te : (s.updFifo k f).te = s.te := rfl
@[simp] theorem State.updFifo_ic : (s.updFifo k f).ic = s.ic := rfl
@[simp] theorem State.updFifo_clk : (s.updFifo k f).clk = s.clk := rfl
@[simp] theorem State.updFifo_chain : (s.updFifo k f).chain = s.chain := rfl
@[simp] theorem State.updFifo_bond : (s.updFifo k f).bond = s.bond := rfl
@[simp] theorem State.updFifo_sec : (s.updFifo k f).sec = s.sec := rfl
@[simp] theorem State.updFifo_quoin : (s.updFifo k f).quoin = s.quoin := rfl
@[simp] theorem State.updFifo_cal : (s.updFifo k f).cal = s.cal := rfl
@[simp] theorem State.updFifo_flt : (s.updFifo k f).flt = s.flt := rfl
@[simp] theorem State.updFifo_cycle : (s.updFifo k f).cycle = s.cycle := rfl
@[simp] theorem State.updFifo_freeCnt : (s.updFifo k f).freeCnt = s.freeCnt := rfl
@[simp] theorem State.updFifo_pending : (s.updFifo k f).pending = s.pending := rfl
end

/-! ### State.updCq -/

section
variable (s : State) (q : Nat) (f : DmaCq → DmaCq)
@[simp] theorem State.updCq_tiles : (s.updCq q f).tiles = s.tiles := rfl
@[simp] theorem State.updCq_mor : (s.updCq q f).mor = s.mor := rfl
@[simp] theorem State.updCq_hod : (s.updCq q f).hod = s.hod := rfl
@[simp] theorem State.updCq_sc : (s.updCq q f).sc = s.sc := rfl
@[simp] theorem State.updCq_ddr : (s.updCq q f).ddr = s.ddr := rfl
@[simp] theorem State.updCq_dma : (s.updCq q f).dma = { s.dma with cq := sset (fun _ => DmaCq.reset) s.dma.cq q (f (s.dma.cqOf q)) } := rfl
@[simp] theorem State.updCq_host : (s.updCq q f).host = s.host := rfl
@[simp] theorem State.updCq_te : (s.updCq q f).te = s.te := rfl
@[simp] theorem State.updCq_ic : (s.updCq q f).ic = s.ic := rfl
@[simp] theorem State.updCq_clk : (s.updCq q f).clk = s.clk := rfl
@[simp] theorem State.updCq_chain : (s.updCq q f).chain = s.chain := rfl
@[simp] theorem State.updCq_bond : (s.updCq q f).bond = s.bond := rfl
@[simp] theorem State.updCq_sec : (s.updCq q f).sec = s.sec := rfl
@[simp] theorem State.updCq_quoin : (s.updCq q f).quoin = s.quoin := rfl
@[simp] theorem State.updCq_cal : (s.updCq q f).cal = s.cal := rfl
@[simp] theorem State.updCq_flt : (s.updCq q f).flt = s.flt := rfl
@[simp] theorem State.updCq_cycle : (s.updCq q f).cycle = s.cycle := rfl
@[simp] theorem State.updCq_freeCnt : (s.updCq q f).freeCnt = s.freeCnt := rfl
@[simp] theorem State.updCq_pending : (s.updCq q f).pending = s.pending := rfl
end

/-! ### State.updMb -/

section
variable (s : State) (n : Nat) (f : ResMb → ResMb)
@[simp] theorem State.updMb_tiles : (s.updMb n f).tiles = s.tiles := rfl
@[simp] theorem State.updMb_mor : (s.updMb n f).mor = s.mor := rfl
@[simp] theorem State.updMb_hod : (s.updMb n f).hod = s.hod := rfl
@[simp] theorem State.updMb_sc : (s.updMb n f).sc = s.sc := rfl
@[simp] theorem State.updMb_ddr : (s.updMb n f).ddr = s.ddr := rfl
@[simp] theorem State.updMb_dma : (s.updMb n f).dma = s.dma := rfl
@[simp] theorem State.updMb_host : (s.updMb n f).host = { s.host with mb := sset (fun _ => ResMb.reset) s.host.mb n (f (s.host.mbOf n)) } := rfl
@[simp] theorem State.updMb_te : (s.updMb n f).te = s.te := rfl
@[simp] theorem State.updMb_ic : (s.updMb n f).ic = s.ic := rfl
@[simp] theorem State.updMb_clk : (s.updMb n f).clk = s.clk := rfl
@[simp] theorem State.updMb_chain : (s.updMb n f).chain = s.chain := rfl
@[simp] theorem State.updMb_bond : (s.updMb n f).bond = s.bond := rfl
@[simp] theorem State.updMb_sec : (s.updMb n f).sec = s.sec := rfl
@[simp] theorem State.updMb_quoin : (s.updMb n f).quoin = s.quoin := rfl
@[simp] theorem State.updMb_cal : (s.updMb n f).cal = s.cal := rfl
@[simp] theorem State.updMb_flt : (s.updMb n f).flt = s.flt := rfl
@[simp] theorem State.updMb_cycle : (s.updMb n f).cycle = s.cycle := rfl
@[simp] theorem State.updMb_freeCnt : (s.updMb n f).freeCnt = s.freeCnt := rfl
@[simp] theorem State.updMb_pending : (s.updMb n f).pending = s.pending := rfl
end

/-! ### State.updCal -/

section
variable (s : State) (c : Nat) (f : CalChan → CalChan)
@[simp] theorem State.updCal_tiles : (s.updCal c f).tiles = s.tiles := rfl
@[simp] theorem State.updCal_mor : (s.updCal c f).mor = s.mor := rfl
@[simp] theorem State.updCal_hod : (s.updCal c f).hod = s.hod := rfl
@[simp] theorem State.updCal_sc : (s.updCal c f).sc = s.sc := rfl
@[simp] theorem State.updCal_ddr : (s.updCal c f).ddr = s.ddr := rfl
@[simp] theorem State.updCal_dma : (s.updCal c f).dma = s.dma := rfl
@[simp] theorem State.updCal_host : (s.updCal c f).host = s.host := rfl
@[simp] theorem State.updCal_te : (s.updCal c f).te = s.te := rfl
@[simp] theorem State.updCal_ic : (s.updCal c f).ic = s.ic := rfl
@[simp] theorem State.updCal_clk : (s.updCal c f).clk = s.clk := rfl
@[simp] theorem State.updCal_chain : (s.updCal c f).chain = s.chain := rfl
@[simp] theorem State.updCal_bond : (s.updCal c f).bond = s.bond := rfl
@[simp] theorem State.updCal_sec : (s.updCal c f).sec = s.sec := rfl
@[simp] theorem State.updCal_quoin : (s.updCal c f).quoin = s.quoin := rfl
@[simp] theorem State.updCal_cal : (s.updCal c f).cal = { s.cal with ch := upd s.cal.ch c f } := rfl
@[simp] theorem State.updCal_flt : (s.updCal c f).flt = s.flt := rfl
@[simp] theorem State.updCal_cycle : (s.updCal c f).cycle = s.cycle := rfl
@[simp] theorem State.updCal_freeCnt : (s.updCal c f).freeCnt = s.freeCnt := rfl
@[simp] theorem State.updCal_pending : (s.updCal c f).pending = s.pending := rfl
end

/-! ### State.updClk -/

section
variable (s : State) (f : Clock → Clock)
@[simp] theorem State.updClk_tiles : (s.updClk f).tiles = s.tiles := rfl
@[simp] theorem State.updClk_mor : (s.updClk f).mor = s.mor := rfl
@[simp] theorem State.updClk_hod : (s.updClk f).hod = s.hod := rfl
@[simp] theorem State.updClk_sc : (s.updClk f).sc = s.sc := rfl
@[simp] theorem State.updClk_ddr : (s.updClk f).ddr = s.ddr := rfl
@[simp] theorem State.updClk_dma : (s.updClk f).dma = s.dma := rfl
@[simp] theorem State.updClk_host : (s.updClk f).host = s.host := rfl
@[simp] theorem State.updClk_te : (s.updClk f).te = s.te := rfl
@[simp] theorem State.updClk_ic : (s.updClk f).ic = s.ic := rfl
@[simp] theorem State.updClk_clk : (s.updClk f).clk = f s.clk := rfl
@[simp] theorem State.updClk_chain : (s.updClk f).chain = s.chain := rfl
@[simp] theorem State.updClk_bond : (s.updClk f).bond = s.bond := rfl
@[simp] theorem State.updClk_sec : (s.updClk f).sec = s.sec := rfl
@[simp] theorem State.updClk_quoin : (s.updClk f).quoin = s.quoin := rfl
@[simp] theorem State.updClk_cal : (s.updClk f).cal = s.cal := rfl
@[simp] theorem State.updClk_flt : (s.updClk f).flt = s.flt := rfl
@[simp] theorem State.updClk_cycle : (s.updClk f).cycle = s.cycle := rfl
@[simp] theorem State.updClk_freeCnt : (s.updClk f).freeCnt = s.freeCnt := rfl
@[simp] theorem State.updClk_pending : (s.updClk f).pending = s.pending := rfl
end

/-! ### State.updChain -/

section
variable (s : State) (f : Chain → Chain)
@[simp] theorem State.updChain_tiles : (s.updChain f).tiles = s.tiles := rfl
@[simp] theorem State.updChain_mor : (s.updChain f).mor = s.mor := rfl
@[simp] theorem State.updChain_hod : (s.updChain f).hod = s.hod := rfl
@[simp] theorem State.updChain_sc : (s.updChain f).sc = s.sc := rfl
@[simp] theorem State.updChain_ddr : (s.updChain f).ddr = s.ddr := rfl
@[simp] theorem State.updChain_dma : (s.updChain f).dma = s.dma := rfl
@[simp] theorem State.updChain_host : (s.updChain f).host = s.host := rfl
@[simp] theorem State.updChain_te : (s.updChain f).te = s.te := rfl
@[simp] theorem State.updChain_ic : (s.updChain f).ic = s.ic := rfl
@[simp] theorem State.updChain_clk : (s.updChain f).clk = s.clk := rfl
@[simp] theorem State.updChain_chain : (s.updChain f).chain = f s.chain := rfl
@[simp] theorem State.updChain_bond : (s.updChain f).bond = s.bond := rfl
@[simp] theorem State.updChain_sec : (s.updChain f).sec = s.sec := rfl
@[simp] theorem State.updChain_quoin : (s.updChain f).quoin = s.quoin := rfl
@[simp] theorem State.updChain_cal : (s.updChain f).cal = s.cal := rfl
@[simp] theorem State.updChain_flt : (s.updChain f).flt = s.flt := rfl
@[simp] theorem State.updChain_cycle : (s.updChain f).cycle = s.cycle := rfl
@[simp] theorem State.updChain_freeCnt : (s.updChain f).freeCnt = s.freeCnt := rfl
@[simp] theorem State.updChain_pending : (s.updChain f).pending = s.pending := rfl
end

/-! ### State.updBond -/

section
variable (s : State) (f : Bond → Bond)
@[simp] theorem State.updBond_tiles : (s.updBond f).tiles = s.tiles := rfl
@[simp] theorem State.updBond_mor : (s.updBond f).mor = s.mor := rfl
@[simp] theorem State.updBond_hod : (s.updBond f).hod = s.hod := rfl
@[simp] theorem State.updBond_sc : (s.updBond f).sc = s.sc := rfl
@[simp] theorem State.updBond_ddr : (s.updBond f).ddr = s.ddr := rfl
@[simp] theorem State.updBond_dma : (s.updBond f).dma = s.dma := rfl
@[simp] theorem State.updBond_host : (s.updBond f).host = s.host := rfl
@[simp] theorem State.updBond_te : (s.updBond f).te = s.te := rfl
@[simp] theorem State.updBond_ic : (s.updBond f).ic = s.ic := rfl
@[simp] theorem State.updBond_clk : (s.updBond f).clk = s.clk := rfl
@[simp] theorem State.updBond_chain : (s.updBond f).chain = s.chain := rfl
@[simp] theorem State.updBond_bond : (s.updBond f).bond = f s.bond := rfl
@[simp] theorem State.updBond_sec : (s.updBond f).sec = s.sec := rfl
@[simp] theorem State.updBond_quoin : (s.updBond f).quoin = s.quoin := rfl
@[simp] theorem State.updBond_cal : (s.updBond f).cal = s.cal := rfl
@[simp] theorem State.updBond_flt : (s.updBond f).flt = s.flt := rfl
@[simp] theorem State.updBond_cycle : (s.updBond f).cycle = s.cycle := rfl
@[simp] theorem State.updBond_freeCnt : (s.updBond f).freeCnt = s.freeCnt := rfl
@[simp] theorem State.updBond_pending : (s.updBond f).pending = s.pending := rfl
end

/-! ### State.linkUse -/

section
variable (s : State)
@[simp] theorem State.linkUse_tiles : s.linkUse.tiles = s.tiles := rfl
@[simp] theorem State.linkUse_mor : s.linkUse.mor = s.mor := rfl
@[simp] theorem State.linkUse_hod : s.linkUse.hod = s.hod := rfl
@[simp] theorem State.linkUse_sc : s.linkUse.sc = s.sc := rfl
@[simp] theorem State.linkUse_ddr : s.linkUse.ddr = s.ddr := rfl
@[simp] theorem State.linkUse_dma : s.linkUse.dma = s.dma := rfl
@[simp] theorem State.linkUse_host : s.linkUse.host = { s.host with l1 := false, trafficAt := s.te.time } := rfl
@[simp] theorem State.linkUse_te : s.linkUse.te = s.te := rfl
@[simp] theorem State.linkUse_ic : s.linkUse.ic = s.ic := rfl
@[simp] theorem State.linkUse_clk : s.linkUse.clk = s.clk := rfl
@[simp] theorem State.linkUse_chain : s.linkUse.chain = s.chain := rfl
@[simp] theorem State.linkUse_bond : s.linkUse.bond = s.bond := rfl
@[simp] theorem State.linkUse_sec : s.linkUse.sec = s.sec := rfl
@[simp] theorem State.linkUse_quoin : s.linkUse.quoin = s.quoin := rfl
@[simp] theorem State.linkUse_cal : s.linkUse.cal = s.cal := rfl
@[simp] theorem State.linkUse_flt : s.linkUse.flt = s.flt := rfl
@[simp] theorem State.linkUse_cycle : s.linkUse.cycle = s.cycle := rfl
@[simp] theorem State.linkUse_freeCnt : s.linkUse.freeCnt = s.freeCnt := rfl
@[simp] theorem State.linkUse_pending : s.linkUse.pending = s.pending := rfl
end

/-! ### State.hostReject -/

section
variable (s : State)
@[simp] theorem State.hostReject_tiles : s.hostReject.tiles = s.tiles := rfl
@[simp] theorem State.hostReject_mor : s.hostReject.mor = s.mor := rfl
@[simp] theorem State.hostReject_hod : s.hostReject.hod = s.hod := rfl
@[simp] theorem State.hostReject_sc : s.hostReject.sc = s.sc := rfl
@[simp] theorem State.hostReject_ddr : s.hostReject.ddr = s.ddr := rfl
@[simp] theorem State.hostReject_dma : s.hostReject.dma = s.dma := rfl
@[simp] theorem State.hostReject_host : s.hostReject.host = { s.host with hostRejCnt := satAdd32 s.host.hostRejCnt 1 } := rfl
@[simp] theorem State.hostReject_te : s.hostReject.te = s.te := rfl
@[simp] theorem State.hostReject_ic : s.hostReject.ic = s.ic := rfl
@[simp] theorem State.hostReject_clk : s.hostReject.clk = s.clk := rfl
@[simp] theorem State.hostReject_chain : s.hostReject.chain = s.chain := rfl
@[simp] theorem State.hostReject_bond : s.hostReject.bond = s.bond := rfl
@[simp] theorem State.hostReject_sec : s.hostReject.sec = s.sec := rfl
@[simp] theorem State.hostReject_quoin : s.hostReject.quoin = s.quoin := rfl
@[simp] theorem State.hostReject_cal : s.hostReject.cal = s.cal := rfl
@[simp] theorem State.hostReject_flt : s.hostReject.flt = s.flt := rfl
@[simp] theorem State.hostReject_cycle : s.hostReject.cycle = s.cycle := rfl
@[simp] theorem State.hostReject_freeCnt : s.hostReject.freeCnt = s.freeCnt := rfl
@[simp] theorem State.hostReject_pending : s.hostReject.pending = s.pending := rfl
end

/-! ### State.countGated -/

section
variable (s : State)
@[simp] theorem State.countGated_tiles : s.countGated.tiles = s.tiles := rfl
@[simp] theorem State.countGated_mor : s.countGated.mor = s.mor := rfl
@[simp] theorem State.countGated_hod : s.countGated.hod = s.hod := rfl
@[simp] theorem State.countGated_sc : s.countGated.sc = s.sc := rfl
@[simp] theorem State.countGated_ddr : s.countGated.ddr = s.ddr := rfl
@[simp] theorem State.countGated_dma : s.countGated.dma = s.dma := rfl
@[simp] theorem State.countGated_host : s.countGated.host = s.host := rfl
@[simp] theorem State.countGated_te : s.countGated.te = s.te := rfl
@[simp] theorem State.countGated_ic : s.countGated.ic = s.ic := rfl
@[simp] theorem State.countGated_clk : s.countGated.clk = { s.clk with gatedAccess := satAdd32 s.clk.gatedAccess 1 } := rfl
@[simp] theorem State.countGated_chain : s.countGated.chain = s.chain := rfl
@[simp] theorem State.countGated_bond : s.countGated.bond = s.bond := rfl
@[simp] theorem State.countGated_sec : s.countGated.sec = s.sec := rfl
@[simp] theorem State.countGated_quoin : s.countGated.quoin = s.quoin := rfl
@[simp] theorem State.countGated_cal : s.countGated.cal = s.cal := rfl
@[simp] theorem State.countGated_flt : s.countGated.flt = s.flt := rfl
@[simp] theorem State.countGated_cycle : s.countGated.cycle = s.cycle := rfl
@[simp] theorem State.countGated_freeCnt : s.countGated.freeCnt = s.freeCnt := rfl
@[simp] theorem State.countGated_pending : s.countGated.pending = s.pending := rfl
end

/-! ### State.updCore: a tile's core is part of its tile, core 16 of the quoin -/

section
variable (s : State) (c : Nat) (f : SeqCore → SeqCore)
@[simp] theorem State.updCore_mor : (s.updCore c f).mor = s.mor := by unfold State.updCore; split <;> rfl
@[simp] theorem State.updCore_hod : (s.updCore c f).hod = s.hod := by unfold State.updCore; split <;> rfl
@[simp] theorem State.updCore_sc : (s.updCore c f).sc = s.sc := by unfold State.updCore; split <;> rfl
@[simp] theorem State.updCore_ddr : (s.updCore c f).ddr = s.ddr := by unfold State.updCore; split <;> rfl
@[simp] theorem State.updCore_dma : (s.updCore c f).dma = s.dma := by unfold State.updCore; split <;> rfl
@[simp] theorem State.updCore_host : (s.updCore c f).host = s.host := by unfold State.updCore; split <;> rfl
@[simp] theorem State.updCore_te : (s.updCore c f).te = s.te := by unfold State.updCore; split <;> rfl
@[simp] theorem State.updCore_ic : (s.updCore c f).ic = s.ic := by unfold State.updCore; split <;> rfl
@[simp] theorem State.updCore_clk : (s.updCore c f).clk = s.clk := by unfold State.updCore; split <;> rfl
@[simp] theorem State.updCore_chain : (s.updCore c f).chain = s.chain := by unfold State.updCore; split <;> rfl
@[simp] theorem State.updCore_bond : (s.updCore c f).bond = s.bond := by unfold State.updCore; split <;> rfl
@[simp] theorem State.updCore_sec : (s.updCore c f).sec = s.sec := by unfold State.updCore; split <;> rfl
@[simp] theorem State.updCore_cal : (s.updCore c f).cal = s.cal := by unfold State.updCore; split <;> rfl
@[simp] theorem State.updCore_flt : (s.updCore c f).flt = s.flt := by unfold State.updCore; split <;> rfl
@[simp] theorem State.updCore_cycle : (s.updCore c f).cycle = s.cycle := by unfold State.updCore; split <;> rfl
@[simp] theorem State.updCore_freeCnt : (s.updCore c f).freeCnt = s.freeCnt := by unfold State.updCore; split <;> rfl
@[simp] theorem State.updCore_pending : (s.updCore c f).pending = s.pending := by unfold State.updCore; split <;> rfl

theorem State.updCore_tiles_length : (s.updCore c f).tiles.length = s.tiles.length := by
  unfold State.updCore
  split
  · rfl
  · exact upd_length _ _ _
end

/-! ### Free values -/

section
variable (s : State) (w : Nat)
@[simp] theorem State.draw_fst : (s.draw w).1 = Config.freeValue w s.freeCnt := rfl
@[simp] theorem State.draw_snd : (s.draw w).2 = { s with freeCnt := s.freeCnt + 1 } := rfl
end

/-! ### A tile after an update of itself, and of another -/

/-- A tile that exists holds what its update makes of it. -/
theorem State.tile_updTile_same (s : State) (t : Nat) (f : Tile → Tile) (h : t < s.tiles.length) :
    (s.updTile t f).tile t = f (s.tile t) := upd_getD_same _ _ _ _ h

/-- Every other tile is as it was. -/
theorem State.tile_updTile_ne (s : State) (t u : Nat) (f : Tile → Tile) (h : u ≠ t) :
    (s.updTile t f).tile u = s.tile u := upd_getD_ne _ _ _ _ _ h

/-- A core that exists holds what its update makes of it. -/
theorem State.core_updCore_same (s : State) (c : Nat) (f : SeqCore → SeqCore) (h : c < s.tiles.length ∨ c = quoinCore) :
    (s.updCore c f).core c = f (s.core c) := by
  unfold State.updCore State.core
  by_cases hq : c = quoinCore
  · simp [hq]
  · simp only [hq, if_false]
    rw [State.tile_updTile_same _ _ _ (h.resolve_right hq)]

/-- Every other core is as it was. -/
theorem State.core_updCore_ne (s : State) (c d : Nat) (f : SeqCore → SeqCore) (h : d ≠ c) :
    (s.updCore c f).core d = s.core d := by
  unfold State.updCore State.core
  by_cases hc : c = quoinCore
  · have hd : d ≠ quoinCore := fun e => h (e.trans hc.symm)
    simp only [hc, if_true, hd, if_false]
    rfl
  · simp only [hc, if_false, State.updTile_quoin]
    split
    · rfl
    · rw [State.tile_updTile_ne _ _ _ _ h]

end Sys2Proof.Machine
end

