-- ==== Sys2Proof/Laws/Memory.lean ====
section
/-! SUPPORT. Every operation that writes a memory of the device keeps the canonical form of it (Memory.wf): the tile
store, local RAM, program RAM, the hod, DDR5 and the RAW space. -/

namespace Sys2Proof.Machine

/-! ### The tile store -/

theorem storeBytes_wf : ∀ (bs : List (BitVec 8)) (m : List Host.Cell) (a : Nat), swf (fun _ => 0) m = true →
    swf (fun _ => 0) (storeBytes m a bs) = true
  | [], _, _, h => h
  | _ :: r, m, a, h => storeBytes_wf r _ _ (sset_wf _ m a _ h)

/-- A byte outside those stored is as it was. -/
theorem storeBytes_outside (b : Nat) : ∀ (bs : List (BitVec 8)) (m : List Host.Cell) (a : Nat), b < a ∨ a + bs.length ≤ b →
    sget (fun _ => 0) (storeBytes m a bs) b = sget (fun _ => 0) m b
  | [], _, _, _ => rfl
  | x :: r, m, a, h => by
    simp only [List.length_cons] at h
    have ih := storeBytes_outside b r (sset (fun _ => 0) m a x) (a + 1) (by omega)
    rw [storeBytes, ih, sget_sset_ne _ x (by omega) m]

/-- A byte stored reads as the one given. -/
theorem storeBytes_inside (i : Nat) : ∀ (bs : List (BitVec 8)) (m : List Host.Cell) (a : Nat), swf (fun _ => 0) m = true →
    i < bs.length → sget (fun _ => 0) (storeBytes m a bs) (a + i) = bs.getD i 0
  | [], _, _, _, h => by simp at h
  | x :: r, m, a, hm, h => by
    cases i with
    | zero =>
      rw [storeBytes, storeBytes_outside (a + 0) r _ (a + 1) (by omega)]
      exact sget_sset_same _ m a x hm
    | succ j =>
      have hj : j < r.length := by simpa using h
      have ih := storeBytes_inside j r (sset (fun _ => 0) m a x) (a + 1) (sset_wf _ m a x hm) hj
      have e : a + (j + 1) = a + 1 + j := by omega
      rw [storeBytes, e, ih]
      rfl

/-- A tile store whose bytes and parity bits are canonical. -/
def TileStore.memWf (ts : TileStore) : Prop := swf (fun _ => 0) ts.bytes = true ∧ swf (fun _ => false) ts.badParity = true

theorem TileStore.genParity_wf {ts : TileStore} (ws : List Nat) (h : ts.memWf) : (ts.genParity ws).memWf :=
  ⟨h.1, foldl_wf _ _ (fun m _ hm => sset_wf _ m _ _ hm) ws _ h.2⟩

theorem TileStore.put_wf {ts : TileStore} (a : Nat) (bs : List (BitVec 8)) (h : ts.memWf) : (ts.put a bs).memWf :=
  TileStore.genParity_wf (ts := { ts with bytes := storeBytes ts.bytes a bs }) _ ⟨storeBytes_wf bs _ a h.1, h.2⟩

theorem dropBank_wf {ts : TileStore} (b : Nat) (h : ts.memWf) : (dropBank b ts).memWf :=
  ⟨(sdrop_wf _ (fun a => decide (courseBank (a / 128) = b)) _ h.1 :), (sdrop_wf _ (fun w => decide (courseBank (w / 32) = b)) _ h.2 :)⟩

/-! ### Local RAM -/

/-- A core whose local RAM, and its parity bits, are canonical. -/
def SeqCore.memWf (c : SeqCore) : Prop := swf (fun _ => .uninit) c.lram = true ∧ swf (fun _ => false) c.lramBad = true

theorem SeqCore.setLword_wf {c : SeqCore} (w : Nat) (v : TWord) (h : c.memWf) : (c.setLword w v).memWf :=
  ⟨sset_wf _ _ _ _ h.1, sset_wf _ _ _ _ h.2⟩

/-- The word written reads as the one given, with correct parity; every other word is as it was. -/
theorem SeqCore.lword_setLword_same {c : SeqCore} (w : Nat) (v : TWord) (h : c.memWf) :
    (c.setLword w v).lword w = v ∧ (c.setLword w v).lbad w = false :=
  ⟨sget_sset_same _ _ _ _ h.1, sget_sset_same _ _ _ _ h.2⟩

theorem SeqCore.lword_setLword_ne (c : SeqCore) {w u : Nat} (v : TWord) (h : u ≠ w) :
    (c.setLword w v).lword u = c.lword u ∧ (c.setLword w v).lbad u = c.lbad u :=
  ⟨sget_sset_ne _ _ h _, sget_sset_ne _ _ h _⟩

/-- A property that each step of a fold keeps is kept by the fold. -/
theorem foldl_keeps {γ δ : Type} (p : γ → Prop) (g : γ → δ → γ) (hg : ∀ c x, p c → p (g c x)) :
    ∀ (l : List δ) (c : γ), p c → p (l.foldl g c)
  | [], _, h => h
  | x :: r, c, h => foldl_keeps p g hg r (g c x) (hg c x h)

theorem lramWrite_wf {c : SeqCore} (a : Nat) (bs : List (BitVec 8)) (h : c.memWf) : (lramWrite a bs c).memWf := by
  unfold lramWrite
  have h1 := foldl_keeps SeqCore.memWf (fun (c : SeqCore) (p : BitVec 8 × Nat) =>
    if icByte (a + p.2) then c
    else
      { c with
        lram := sset (fun _ => TWord.uninit) c.lram ((a + p.2) / 4)
          ⟨(sget (fun _ => TWord.uninit) c.lram ((a + p.2) / 4)).tag,
            setFld (sget (fun _ => TWord.uninit) c.lram ((a + p.2) / 4)).val (8 * ((a + p.2) % 4)) 8 p.1.toNat⟩ })
    (fun c x hc => by
      split
      · exact hc
      · exact ⟨sset_wf _ _ _ _ hc.1, hc.2⟩) bs.zipIdx c h
  exact ⟨h1.1, foldl_wf _ _ (fun m _ hm => sset_wf _ m _ _ hm) _ _ h1.2⟩

theorem lramTagWrite_wf {c : SeqCore} (a : Nat) (bs : List (BitVec 8)) (host : Bool) (h : c.memWf) :
    (lramTagWrite a bs host c).memWf := by
  unfold lramTagWrite
  refine foldl_keeps SeqCore.memWf _ (fun c x hc => ?_) _ c h
  dsimp only
  split
  · exact hc
  · exact ⟨sset_wf _ _ _ _ hc.1, hc.2⟩

/-! ### Program RAM -/

theorem vpramPut_wf {v : VecEngine} (a : Nat) (bs : List (BitVec 8)) (h : swf (fun _ => 0) v.vpram = true)
    (hb : swf (fun _ => false) v.vpramBad = true) :
    swf (fun _ => 0) (vpramPut a bs v).vpram = true ∧ swf (fun _ => false) (vpramPut a bs v).vpramBad = true :=
  ⟨foldl_wf _ _ (fun m _ hm => sset_wf _ m _ _ hm) _ _ h, foldl_wf _ _ (fun m _ hm => sset_wf _ m _ _ hm) _ _ hb⟩

/-! ### DDR5 -/

theorem ddrPut_wf (gen : Nat) : ∀ (bs : List (BitVec 8)) (m : List Host.Cell) (a : Nat), swf (ddrDefault gen) m = true →
    swf (ddrDefault gen) (ddrPut gen m a bs) = true
  | [], _, _, h => h
  | _ :: r, m, a, h => ddrPut_wf gen r _ _ (sset_wf _ m a _ h)

/-- A byte outside those stored is as it was. -/
theorem ddrPut_outside (gen b : Nat) : ∀ (bs : List (BitVec 8)) (m : List Host.Cell) (a : Nat), b < a ∨ a + bs.length ≤ b →
    sget (ddrDefault gen) (ddrPut gen m a bs) b = sget (ddrDefault gen) m b
  | [], _, _, _ => rfl
  | x :: r, m, a, h => by
    simp only [List.length_cons] at h
    have ih := ddrPut_outside gen b r (sset (ddrDefault gen) m a x) (a + 1) (by omega)
    rw [ddrPut, ih, sget_sset_ne _ x (by omega) m]

/-! ### The whole device -/

/-- What the canonical form of every memory asks of a tile. -/
theorem Tile.memWf_iff (x : Tile) : Tile.memWf x = true ↔
    x.ts.memWf ∧ x.seq.memWf ∧ swf (fun _ => 0) x.seq.decodeRam = true ∧ swf (fun _ => 0) x.vec.vpram = true
      ∧ swf (fun _ => false) x.vec.vpramBad = true := by
  simp only [Tile.memWf, TileStore.memWf, SeqCore.memWf, Bool.and_eq_true]
  tauto

/-- A change of the state that leaves every memory alone. -/
theorem Memory.wf_of_same {s t : State} (h1 : t.tiles = s.tiles) (h2 : t.hod.mem = s.hod.mem) (h3 : t.ddr.bytes = s.ddr.bytes)
    (h4 : t.ddr.gen = s.ddr.gen) (h5 : t.quoin.ram = s.quoin.ram) (h6 : t.quoin.puf = s.quoin.puf)
    (h7 : t.quoin.seq.lram = s.quoin.seq.lram) (h8 : t.quoin.seq.lramBad = s.quoin.seq.lramBad) (h9 : t.sec.flash = s.sec.flash) :
    Memory.wf t = Memory.wf s := by
  simp only [Memory.wf, h1, h2, h3, h4, h5, h6, h7, h8, h9]

/-- A change of a tile that keeps its memories canonical keeps the device's. -/
theorem Memory.wf_updTile {s : State} (t : Nat) (f : Tile → Tile) (h : Memory.wf s = true)
    (hf : ∀ x, Tile.memWf x = true → Tile.memWf (f x) = true) : Memory.wf (s.updTile t f) = true := by
  simp only [Memory.wf, Bool.and_eq_true, State.updTile_tiles, State.updTile_hod, State.updTile_ddr, State.updTile_quoin,
    State.updTile_sec] at h ⊢
  obtain ⟨⟨⟨⟨⟨⟨⟨ht, hm⟩, hd⟩, hr⟩, hp⟩, hz⟩, hl⟩, hb⟩ := h
  exact ⟨⟨⟨⟨⟨⟨⟨upd_all _ t f _ ht hf, hm⟩, hd⟩, hr⟩, hp⟩, hz⟩, hl⟩, hb⟩

/-- A change of a tile store likewise. -/
theorem Memory.wf_updTs {s : State} (t : Nat) (f : TileStore → TileStore) (h : Memory.wf s = true)
    (hf : ∀ x, x.memWf → (f x).memWf) : Memory.wf (s.updTs t f) = true :=
  Memory.wf_updTile t _ h fun x hx => by
    rw [Tile.memWf_iff] at hx ⊢
    exact ⟨hf _ hx.1, hx.2⟩

/-- A change of a core that keeps its local RAM canonical and its decode RAM as it is. -/
theorem Memory.wf_updCore {s : State} (c : Nat) (f : SeqCore → SeqCore) (h : Memory.wf s = true)
    (hf : ∀ x, x.memWf → (f x).memWf) (hd : ∀ x, (f x).decodeRam = x.decodeRam) : Memory.wf (s.updCore c f) = true := by
  unfold State.updCore
  split
  · simp only [Memory.wf, Bool.and_eq_true] at h ⊢
    have hk := hf s.quoin.seq ⟨h.1.2, h.2⟩
    exact ⟨⟨h.1.1, hk.1⟩, hk.2⟩
  · refine Memory.wf_updTile c _ h fun x hx => ?_
    rw [Tile.memWf_iff] at hx ⊢
    exact ⟨hx.1, hf _ hx.2.1, by simpa only [hd] using hx.2.2.1, hx.2.2.2⟩

/-- A store to DDR5 keeps every memory canonical. -/
theorem Memory.wf_ddrStore {s : State} (a : Nat) (bs : List (BitVec 8)) (h : Memory.wf s = true) :
    Memory.wf (s.ddrStore a bs) = true := by
  simp only [Memory.wf, Bool.and_eq_true, State.ddrStore] at h ⊢
  obtain ⟨⟨⟨⟨⟨⟨⟨ht, hm⟩, hd⟩, hr⟩, hp⟩, hz⟩, hl⟩, hb⟩ := h
  exact ⟨⟨⟨⟨⟨⟨⟨ht, hm⟩, ddrPut_wf _ bs _ a hd⟩, hr⟩, hp⟩, hz⟩, hl⟩, hb⟩

/-- A course written to hod memory keeps every memory canonical. -/
theorem Memory.wf_hodCourse {s : State} (c : Nat) (v : BitVec 1024) (h : Memory.wf s = true) :
    Memory.wf { s with hod := { s.hod with mem := sset (fun _ => 0) s.hod.mem c v } } = true := by
  simp only [Memory.wf, Bool.and_eq_true] at h ⊢
  obtain ⟨⟨⟨⟨⟨⟨⟨ht, hm⟩, hd⟩, hr⟩, hp⟩, hz⟩, hl⟩, hb⟩ := h
  exact ⟨⟨⟨⟨⟨⟨⟨ht, sset_wf _ _ _ _ hm⟩, hd⟩, hr⟩, hp⟩, hz⟩, hl⟩, hb⟩

theorem Memory.wf_dmaHodWrite {s : State} (c : Nat) (bs : List (BitVec 8)) (h : Memory.wf s = true) :
    Memory.wf (dmaHodWrite c bs s) = true := by
  unfold dmaHodWrite
  split
  · rw [Memory.wf_of_same (s := s)] <;> first | exact h | rfl
  · exact Memory.wf_hodCourse _ _ h

/-- Writes to the RAW space keep every memory canonical. -/
theorem Memory.wf_rawWrite : ∀ (bs : List (BitVec 8)) (a : Nat) (s : State), Memory.wf s = true → Memory.wf (rawWrite a bs s) = true
  | [], _, _, h => h
  | b :: r, a, s, h => by
    unfold rawWrite
    refine Memory.wf_rawWrite r (a + 1) _ ?_
    simp only [Memory.wf, Bool.and_eq_true] at h
    obtain ⟨⟨⟨⟨⟨⟨⟨ht, hm⟩, hd⟩, hr⟩, hp⟩, hz⟩, hl⟩, hb⟩ := h
    split
    · simp only [Memory.wf, Bool.and_eq_true]
      exact ⟨⟨⟨⟨⟨⟨⟨ht, hm⟩, hd⟩, sset_wf _ _ _ _ hr⟩, hp⟩, hz⟩, hl⟩, hb⟩
    · split
      · simp only [Memory.wf, Bool.and_eq_true]
        exact ⟨⟨⟨⟨⟨⟨⟨ht, hm⟩, hd⟩, hr⟩, sset_wf _ _ _ _ hp⟩, hz⟩, hl⟩, hb⟩
      · simp only [Memory.wf, Bool.and_eq_true]
        exact ⟨⟨⟨⟨⟨⟨⟨ht, hm⟩, hd⟩, hr⟩, hp⟩, hz⟩, hl⟩, hb⟩

/-- The state after losing every state has canonical memories: only PUF SRAM and the flash are kept. -/
theorem Memory.wf_lost {s : State} (h : swf Config.pufByte s.quoin.puf = true) (hf : swf Config.flashByte s.sec.flash = true) :
    Memory.wf s.lost = true := by
  simp only [Memory.wf, Bool.and_eq_true]
  exact ⟨⟨⟨⟨⟨⟨⟨(by decide : State.reset.tiles.all Tile.memWf = true), rfl⟩, rfl⟩, rfl⟩, h⟩, hf⟩, rfl⟩, rfl⟩

end Sys2Proof.Machine
end

