-- ==== Sys2Proof/Laws/PerInstr.lean ====
section
/-! SUPPORT. Statements made of every command, one lemma a constructor: the sender of a well-formed register write exists. -/

namespace Sys2Proof.Laws.Sender

/-- Who sends a command that is a register write or read; none for every other command. -/
def writer (i : Instr) : Option Who :=
  match i with
  | .nop _ => none
  | .mov _ => none
  | .ldf _ => none
  | .retag _ => none
  | .tagof _ => none
  | .push _ => none
  | .pop _ => none
  | .fst _ => none
  | .add _ => none
  | .sub _ => none
  | .adds _ => none
  | .subs _ => none
  | .mul _ => none
  | .mulh _ => none
  | .divs _ => none
  | .rems _ => none
  | .and _ => none
  | .or _ => none
  | .xor _ => none
  | .andn _ => none
  | .shl _ => none
  | .shr _ => none
  | .sar _ => none
  | .min _ => none
  | .max _ => none
  | .not _ => none
  | .neg _ => none
  | .clz _ => none
  | .popc _ => none
  | .ceq _ => none
  | .cne _ => none
  | .clt _ => none
  | .cle _ => none
  | .cltu _ => none
  | .cleu _ => none
  | .fadd _ => none
  | .fsub _ => none
  | .fmul _ => none
  | .fma _ => none
  | .fmin _ => none
  | .fmax _ => none
  | .fceq _ => none
  | .fclt _ => none
  | .fcle _ => none
  | .cvtif _ => none
  | .cvtfi _ => none
  | .fabs _ => none
  | .fneg _ => none
  | .br _ => none
  | .bt _ => none
  | .bf _ => none
  | .call _ => none
  | .ret _ => none
  | .reti _ => none
  | .dbnz _ => none
  | .iflush _ => none
  | .bmove _ _ => none
  | .bfill _ _ => none
  | .bcmp _ _ => none
  | .bseek _ _ => none
  | .waite _ => none
  | .waiteWake _ => none
  | .waitet _ => none
  | .waitetWake _ => none
  | .pulse _ => none
  | .waitt _ => none
  | .waittWake _ => none
  | .rdtime _ => none
  | .step _ => none
  | .stepStallRelease _ => none
  | .ststat _ => none
  | .fence _ => none
  | .mfsr _ => none
  | .mtsr _ => none
  | .trap _ => none
  | .qld _ => none
  | .qst _ => none
  | .qldff _ => none
  | .qmov _ => none
  | .qsplatH _ => none
  | .qsplatW _ => none
  | .qaddsH _ => none
  | .qsubsH _ => none
  | .qmulrH _ => none
  | .qmacrH _ => none
  | .qshrrH _ => none
  | .qminH _ => none
  | .qmaxH _ => none
  | .qaddsW _ => none
  | .qsubsW _ => none
  | .qmulrW _ => none
  | .qshrrW _ => none
  | .qfadd _ => none
  | .qfmul _ => none
  | .qfma _ => none
  | .qextH _ => none
  | .uop _ _ => none
  | .seqFetch _ _ => none
  | .storeBufferDrain _ _ => none
  | .interruptEntry _ => none
  | .seqHaltReq w _ _ => some w
  | .stepStart _ _ => none
  | .stepRetire _ _ => none
  | .stepComplete _ _ => none
  | .deadlinePass _ _ _ => none
  | .listEntryPass _ _ => none
  | .engineCmdIssue _ _ => none
  | .bankPwrReqWrite w _ _ => some w
  | .bankWakeDone _ _ => none
  | .bankDrainDone _ _ => none
  | .tsPerrInjArm w _ _ => some w
  | .tsCntClr w _ _ => some w
  | .hostTsWrite _ _ _ _ => none
  | .hostTsRead _ _ _ _ => none
  | .hostLramWrite _ _ _ _ => none
  | .hostLramRead _ _ _ _ => none
  | .hostVpramWrite _ _ _ => none
  | .vecBundleIssue _ _ => none
  | .vecResultLand _ => none
  | .vecSwitchIn _ => none
  | .vecSwitchOut _ => none
  | .matmulCmd _ => none
  | .sumwCmd _ => none
  | .weightRowLoad _ _ => none
  | .arrayVectorStream _ _ _ => none
  | .accLand _ => none
  | .scaleBlockArrive _ => none
  | .drainCmd _ => none
  | .drainRowRead _ _ => none
  | .drainCourseWrite _ _ => none
  | .windowCmd _ => none
  | .diag8LoadPhase _ _ => none
  | .sceCmd _ => none
  | .sceLoadPhase _ _ => none
  | .sceStreamTap _ _ _ => none
  | .sceResultLand _ => none
  | .msend _ _ => none
  | .mortarCourseArrive _ _ _ => none
  | .msendAck _ _ => none
  | .evtLatch => none
  | .hodDeclare _ => none
  | .hodSend _ _ => none
  | .hodBroadcast _ => none
  | .broadcastRead _ _ _ => none
  | .broadcastCourseWrite _ _ _ => none
  | .broadcastRetire _ => none
  | .hodTgtDeclareWrite w _ _ => some w
  | .hodTgtFreeWrite w _ _ => some w
  | .hodGrant _ _ => none
  | .hodRejectNotice => none
  | .hodApply _ _ _ => none
  | .hodFold _ _ _ _ => none
  | .morCommit w _ => some w
  | .modeCommitDeliver => none
  | .modeApply _ => none
  | .modeReport _ => none
  | .mixedClearSeen => none
  | .streamDeclare _ _ => none
  | .streamRelease _ _ => none
  | .streamInval _ _ => none
  | .streamRequest _ => none
  | .streamLineDeliver _ _ _ => none
  | .scInvalGo w _ => some w
  | .scInvalAll w _ => some w
  | .scInvalDone => none
  | .scSlicePwrReqWrite w _ => some w
  | .sliceWakeDone _ => none
  | .sliceDrainDone _ => none
  | .scFenceWrite w _ => some w
  | .scCntClr w _ => some w
  | .ddrRequestServe _ _ _ => none
  | .ddrClassPromote _ _ => none
  | .ddrRefresh _ _ => none
  | .ddrSrEnter _ => none
  | .ddrSrExitDone _ => none
  | .ddrSrReqWrite w _ _ => some w
  | .ddrCntClr w _ _ => some w
  | .ringInit w _ => some w
  | .ringStop w _ => some w
  | .ringResume w _ => some w
  | .ringOff w _ => some w
  | .ringFlush w _ => some w
  | .doorbellWrite _ _ _ _ => none
  | .take _ _ => none
  | .doorbell _ _ => none
  | .descFetch _ _ _ _ => none
  | .dmaUnitTransfer _ _ _ _ _ _ _ => none
  | .dmaPaceResume _ => none
  | .descComplete _ => none
  | .cqRecordWrite _ _ => none
  | .cqEnable w _ _ => some w
  | .cqHeadWrite w _ _ => some w
  | .dmaFifoCfgWrite w _ _ => some w
  | .dmaFifoTakeWrite w _ _ => some w
  | .channelDisable w _ => some w
  | .dmaCntClr w _ => some w
  | .hostBar2Write _ _ _ => none
  | .hostBar2Read _ _ _ => none
  | .hostRegWrite w _ _ _ => some w
  | .flr => none
  | .linkDown => none
  | .perstAssert => none
  | .perstRelease => none
  | .pcieL1Enter => none
  | .heartbeatDue _ => none
  | .hbCtrlWrite w _ => some w
  | .devCntClr w _ => some w
  | .post _ _ _ => none
  | .resAckWrite w _ _ => some w
  | .resCntClr w _ => some w
  | .msixSend _ => none
  | .timeTick => none
  | .timeHoldEnd => none
  | .slotSyncEdge _ => none
  | .timeCtrlWrite w _ => some w
  | .timeCntClr w _ => some w
  | .slotTick => none
  | .alarmFire _ => none
  | .evtInEdge _ _ _ => none
  | .evtOutEdge _ => none
  | .evtOutWidthEnd _ => none
  | .evtOutCfgWrite w _ _ => some w
  | .evtPulseWrite w _ => some w
  | .icPendSet w _ _ => some w
  | .icPendClr w _ _ => some w
  | .icMaskSet w _ _ _ => some w
  | .icMaskClr w _ _ _ => some w
  | .icTpendSet w _ _ => some w
  | .icTpendClr w _ _ => some w
  | .icTmaskSet w _ _ => some w
  | .icTmaskClr w _ _ => some w
  | .icLevelWrite w _ _ => some w
  | .icRouteWrite w _ _ => some w
  | .clkWindowEnd _ _ => none
  | .clkStopDetect _ => none
  | .xtalAmplitudeDone => none
  | .xtalAmplitudeLoss => none
  | .pllReacquireDone => none
  | .safeHoldRestart _ => none
  | .clkRevert w _ => some w
  | .xtalEnWrite w _ => some w
  | .dvfsRequest w _ => some w
  | .avsAck => none
  | .avsSettleDone => none
  | .avsTimeout => none
  | .tilePark _ => none
  | .dividerStep => none
  | .clkEnSet w _ => some w
  | .clkEnClr w _ => some w
  | .gateApply _ => none
  | .clkOutCfgWrite w _ => some w
  | .clkCntClr w _ => some w
  | .chainAssignRx _ _ => none
  | .chainLoopRx _ => none
  | .chainSlotRx _ => none
  | .chainWingbeatRx _ => none
  | .chainMsgFrameRx _ => none
  | .chainFrameTx => none
  | .chainAssignRepeat => none
  | .chainAssignTimeout => none
  | .chainSlotSend => none
  | .chainSlotIdle => none
  | .chainSlotTimeout => none
  | .chainLoopStart w _ => some w
  | .chainMsgTxWrite w _ _ => some w
  | .chainMsgPopWrite w _ => some w
  | .chainCntClr w _ => some w
  | .bondFrameTx _ => none
  | .bondMwrRx _ _ _ _ _ _ => none
  | .bondAckRx _ _ => none
  | .bondNakRx _ _ => none
  | .bondLinkTrained _ => none
  | .bondWingbeatRx _ _ _ => none
  | .bondStateRx _ _ _ _ => none
  | .bondCtxRx _ _ _ _ => none
  | .bondRelinquishRx _ _ => none
  | .bondTakeoverRx _ _ _ => none
  | .wingbeatSend => none
  | .wingbeatPeriodEnd => none
  | .promote w => some w
  | .relinquish w => some w
  | .relinquishComplete => none
  | .resync w => some w
  | .bondMwinWrite w _ _ _ _ => some w
  | .bondCntClr w _ => some w
  | .resetAssert _ _ => none
  | .resetRelease _ _ => none
  | .larvaStart _ => none
  | .pllLockDone _ => none
  | .pllLockTimeout => none
  | .certVerify _ => none
  | .imageVerify _ => none
  | .ddrTrainDone => none
  | .ddrTrainTimeout => none
  | .chrysalisEnter => none
  | .load w => some w
  | .endObject w => some w
  | .endLoad w => some w
  | .decodeStatus w => some w
  | .getPubkey w => some w
  | .attest w => some w
  | .enrol w _ => some w
  | .run w => some w
  | .mailboxComplete => none
  | .calTaskDue _ => none
  | .calGapStart _ => none
  | .calGapEnd _ => none
  | .calTaskEnd _ => none
  | .calOverdue _ => none
  | .calStealStart _ => none
  | .calStealEnd => none
  | .calGapWrite w _ _ _ => some w
  | .calCntClr w _ => some w
  | .fenceTile _ _ => none
  | .unfenceTile w _ => some w
  | .releaseTile w _ => some w
  | .fenceSlice w _ => some w
  | .unfenceSlice w _ => some w
  | .devFault w => some w
  | .kick w => some w
  | .quoinWdogExpire => none
  | .pcieLinkTimeout => none
  | .ueWindowStart => none
  | .devFltCntClr w _ => some w
  | .vecCntClr w _ _ => some w
  | .arrCntClr w _ _ => some w
  | .drnCntClr w _ _ => some w
  | .sceCntClr w _ _ => some w
  | .morCntClr w _ => some w
  | .hodCntClr w _ => some w
  | .stepCntClr w _ _ => some w
  | .thermalTrip => none
  | .pcieLinkUp _ _ _ => none
  | .bondLinkDown => none
  | .completionTimeout _ => none
  | .pcieConfigWrite _ _ => none
  | .clkSourceEdgesReturn _ => none
  | .chainBadFrameRx _ => none

/-- The tile of the sender of a well-formed command exists. -/
def Statement (i : Instr) : Prop := i.wf = true → ∀ n, writer i = some (.tile n) → n < tiles

/-- A sender that exists is no tile beyond the last. -/
theorem tile_lt {w : Who} {n : Nat} (h : w.wf = true) (e : some w = some (Who.tile n)) : n < tiles := by
  cases e; simpa [Who.wf] using h

theorem nop (o : SeqOps) : Statement (.nop o) := by
  intro _ _ e; cases e
theorem mov (o : SeqOps) : Statement (.mov o) := by
  intro _ _ e; cases e
theorem ldf (o : SeqOps) : Statement (.ldf o) := by
  intro _ _ e; cases e
theorem retag (o : SeqOps) : Statement (.retag o) := by
  intro _ _ e; cases e
theorem tagof (o : SeqOps) : Statement (.tagof o) := by
  intro _ _ e; cases e
theorem push (o : SeqOps) : Statement (.push o) := by
  intro _ _ e; cases e
theorem pop (o : SeqOps) : Statement (.pop o) := by
  intro _ _ e; cases e
theorem fst (o : SeqOps) : Statement (.fst o) := by
  intro _ _ e; cases e
theorem add (o : SeqOps) : Statement (.add o) := by
  intro _ _ e; cases e
theorem sub (o : SeqOps) : Statement (.sub o) := by
  intro _ _ e; cases e
theorem adds (o : SeqOps) : Statement (.adds o) := by
  intro _ _ e; cases e
theorem subs (o : SeqOps) : Statement (.subs o) := by
  intro _ _ e; cases e
theorem mul (o : SeqOps) : Statement (.mul o) := by
  intro _ _ e; cases e
theorem mulh (o : SeqOps) : Statement (.mulh o) := by
  intro _ _ e; cases e
theorem divs (o : SeqOps) : Statement (.divs o) := by
  intro _ _ e; cases e
theorem rems (o : SeqOps) : Statement (.rems o) := by
  intro _ _ e; cases e
theorem and (o : SeqOps) : Statement (.and o) := by
  intro _ _ e; cases e
theorem or (o : SeqOps) : Statement (.or o) := by
  intro _ _ e; cases e
theorem xor (o : SeqOps) : Statement (.xor o) := by
  intro _ _ e; cases e
theorem andn (o : SeqOps) : Statement (.andn o) := by
  intro _ _ e; cases e
theorem shl (o : SeqOps) : Statement (.shl o) := by
  intro _ _ e; cases e
theorem shr (o : SeqOps) : Statement (.shr o) := by
  intro _ _ e; cases e
theorem sar (o : SeqOps) : Statement (.sar o) := by
  intro _ _ e; cases e
theorem min (o : SeqOps) : Statement (.min o) := by
  intro _ _ e; cases e
theorem max (o : SeqOps) : Statement (.max o) := by
  intro _ _ e; cases e
theorem not (o : SeqOps) : Statement (.not o) := by
  intro _ _ e; cases e
theorem neg (o : SeqOps) : Statement (.neg o) := by
  intro _ _ e; cases e
theorem clz (o : SeqOps) : Statement (.clz o) := by
  intro _ _ e; cases e
theorem popc (o : SeqOps) : Statement (.popc o) := by
  intro _ _ e; cases e
theorem ceq (o : SeqOps) : Statement (.ceq o) := by
  intro _ _ e; cases e
theorem cne (o : SeqOps) : Statement (.cne o) := by
  intro _ _ e; cases e
theorem clt (o : SeqOps) : Statement (.clt o) := by
  intro _ _ e; cases e
theorem cle (o : SeqOps) : Statement (.cle o) := by
  intro _ _ e; cases e
theorem cltu (o : SeqOps) : Statement (.cltu o) := by
  intro _ _ e; cases e
theorem cleu (o : SeqOps) : Statement (.cleu o) := by
  intro _ _ e; cases e
theorem fadd (o : SeqOps) : Statement (.fadd o) := by
  intro _ _ e; cases e
theorem fsub (o : SeqOps) : Statement (.fsub o) := by
  intro _ _ e; cases e
theorem fmul (o : SeqOps) : Statement (.fmul o) := by
  intro _ _ e; cases e
theorem fma (o : SeqOps) : Statement (.fma o) := by
  intro _ _ e; cases e
theorem fmin (o : SeqOps) : Statement (.fmin o) := by
  intro _ _ e; cases e
theorem fmax (o : SeqOps) : Statement (.fmax o) := by
  intro _ _ e; cases e
theorem fceq (o : SeqOps) : Statement (.fceq o) := by
  intro _ _ e; cases e
theorem fclt (o : SeqOps) : Statement (.fclt o) := by
  intro _ _ e; cases e
theorem fcle (o : SeqOps) : Statement (.fcle o) := by
  intro _ _ e; cases e
theorem cvtif (o : SeqOps) : Statement (.cvtif o) := by
  intro _ _ e; cases e
theorem cvtfi (o : SeqOps) : Statement (.cvtfi o) := by
  intro _ _ e; cases e
theorem fabs (o : SeqOps) : Statement (.fabs o) := by
  intro _ _ e; cases e
theorem fneg (o : SeqOps) : Statement (.fneg o) := by
  intro _ _ e; cases e
theorem br (o : SeqOps) : Statement (.br o) := by
  intro _ _ e; cases e
theorem bt (o : SeqOps) : Statement (.bt o) := by
  intro _ _ e; cases e
theorem bf (o : SeqOps) : Statement (.bf o) := by
  intro _ _ e; cases e
theorem call (o : SeqOps) : Statement (.call o) := by
  intro _ _ e; cases e
theorem ret (o : SeqOps) : Statement (.ret o) := by
  intro _ _ e; cases e
theorem reti (o : SeqOps) : Statement (.reti o) := by
  intro _ _ e; cases e
theorem dbnz (o : SeqOps) : Statement (.dbnz o) := by
  intro _ _ e; cases e
theorem iflush (o : SeqOps) : Statement (.iflush o) := by
  intro _ _ e; cases e
theorem bmove (upto : Nat) (o : SeqOps) : Statement (.bmove upto o) := by
  intro _ _ e; cases e
theorem bfill (upto : Nat) (o : SeqOps) : Statement (.bfill upto o) := by
  intro _ _ e; cases e
theorem bcmp (upto : Nat) (o : SeqOps) : Statement (.bcmp upto o) := by
  intro _ _ e; cases e
theorem bseek (upto : Nat) (o : SeqOps) : Statement (.bseek upto o) := by
  intro _ _ e; cases e
theorem waite (o : SeqOps) : Statement (.waite o) := by
  intro _ _ e; cases e
theorem waiteWake (core : Nat) : Statement (.waiteWake core) := by
  intro _ _ e; cases e
theorem waitet (o : SeqOps) : Statement (.waitet o) := by
  intro _ _ e; cases e
theorem waitetWake (core : Nat) : Statement (.waitetWake core) := by
  intro _ _ e; cases e
theorem pulse (o : SeqOps) : Statement (.pulse o) := by
  intro _ _ e; cases e
theorem waitt (o : SeqOps) : Statement (.waitt o) := by
  intro _ _ e; cases e
theorem waittWake (core : Nat) : Statement (.waittWake core) := by
  intro _ _ e; cases e
theorem rdtime (o : SeqOps) : Statement (.rdtime o) := by
  intro _ _ e; cases e
theorem step (o : SeqOps) : Statement (.step o) := by
  intro _ _ e; cases e
theorem stepStallRelease (core : Nat) : Statement (.stepStallRelease core) := by
  intro _ _ e; cases e
theorem ststat (o : SeqOps) : Statement (.ststat o) := by
  intro _ _ e; cases e
theorem fence (o : SeqOps) : Statement (.fence o) := by
  intro _ _ e; cases e
theorem mfsr (o : SeqOps) : Statement (.mfsr o) := by
  intro _ _ e; cases e
theorem mtsr (o : SeqOps) : Statement (.mtsr o) := by
  intro _ _ e; cases e
theorem trap (o : SeqOps) : Statement (.trap o) := by
  intro _ _ e; cases e
theorem qld (o : SeqOps) : Statement (.qld o) := by
  intro _ _ e; cases e
theorem qst (o : SeqOps) : Statement (.qst o) := by
  intro _ _ e; cases e
theorem qldff (o : SeqOps) : Statement (.qldff o) := by
  intro _ _ e; cases e
theorem qmov (o : SeqOps) : Statement (.qmov o) := by
  intro _ _ e; cases e
theorem qsplatH (o : SeqOps) : Statement (.qsplatH o) := by
  intro _ _ e; cases e
theorem qsplatW (o : SeqOps) : Statement (.qsplatW o) := by
  intro _ _ e; cases e
theorem qaddsH (o : SeqOps) : Statement (.qaddsH o) := by
  intro _ _ e; cases e
theorem qsubsH (o : SeqOps) : Statement (.qsubsH o) := by
  intro _ _ e; cases e
theorem qmulrH (o : SeqOps) : Statement (.qmulrH o) := by
  intro _ _ e; cases e
theorem qmacrH (o : SeqOps) : Statement (.qmacrH o) := by
  intro _ _ e; cases e
theorem qshrrH (o : SeqOps) : Statement (.qshrrH o) := by
  intro _ _ e; cases e
theorem qminH (o : SeqOps) : Statement (.qminH o) := by
  intro _ _ e; cases e
theorem qmaxH (o : SeqOps) : Statement (.qmaxH o) := by
  intro _ _ e; cases e
theorem qaddsW (o : SeqOps) : Statement (.qaddsW o) := by
  intro _ _ e; cases e
theorem qsubsW (o : SeqOps) : Statement (.qsubsW o) := by
  intro _ _ e; cases e
theorem qmulrW (o : SeqOps) : Statement (.qmulrW o) := by
  intro _ _ e; cases e
theorem qshrrW (o : SeqOps) : Statement (.qshrrW o) := by
  intro _ _ e; cases e
theorem qfadd (o : SeqOps) : Statement (.qfadd o) := by
  intro _ _ e; cases e
theorem qfmul (o : SeqOps) : Statement (.qfmul o) := by
  intro _ _ e; cases e
theorem qfma (o : SeqOps) : Statement (.qfma o) := by
  intro _ _ e; cases e
theorem qextH (o : SeqOps) : Statement (.qextH o) := by
  intro _ _ e; cases e
theorem uop (slot : Nat) (o : SeqOps) : Statement (.uop slot o) := by
  intro _ _ e; cases e
theorem seqFetch (core : Nat) (starved : Nat) : Statement (.seqFetch core starved) := by
  intro _ _ e; cases e
theorem storeBufferDrain (core : Nat) (held : Nat) : Statement (.storeBufferDrain core held) := by
  intro _ _ e; cases e
theorem interruptEntry (core : Nat) : Statement (.interruptEntry core) := by
  intro _ _ e; cases e
theorem seqHaltReq (who : Who) (tile : Nat) (value : BitVec 32) : Statement (.seqHaltReq who tile value) := by
  intro h _ e; exact tile_lt (Bool.and_eq_true_iff.mp h).1 e
theorem stepStart (tile : Nat) (urgent : Bool) : Statement (.stepStart tile urgent) := by
  intro _ _ e; cases e
theorem stepRetire (tile : Nat) (urgent : Bool) : Statement (.stepRetire tile urgent) := by
  intro _ _ e; cases e
theorem stepComplete (tile : Nat) (urgent : Bool) : Statement (.stepComplete tile urgent) := by
  intro _ _ e; cases e
theorem deadlinePass (tile : Nat) (urgent : Bool) (waiting : Bool) : Statement (.deadlinePass tile urgent waiting) := by
  intro _ _ e; cases e
theorem listEntryPass (tile : Nat) (urgent : Bool) : Statement (.listEntryPass tile urgent) := by
  intro _ _ e; cases e
theorem engineCmdIssue (tile : Nat) (engine : Nat) : Statement (.engineCmdIssue tile engine) := by
  intro _ _ e; cases e
theorem bankPwrReqWrite (who : Who) (tile : Nat) (value : BitVec 32) : Statement (.bankPwrReqWrite who tile value) := by
  intro h _ e; exact tile_lt (Bool.and_eq_true_iff.mp h).1 e
theorem bankWakeDone (tile : Nat) (bank : Nat) : Statement (.bankWakeDone tile bank) := by
  intro _ _ e; cases e
theorem bankDrainDone (tile : Nat) (bank : Nat) : Statement (.bankDrainDone tile bank) := by
  intro _ _ e; cases e
theorem tsPerrInjArm (who : Who) (tile : Nat) (value : BitVec 32) : Statement (.tsPerrInjArm who tile value) := by
  intro h _ e; exact tile_lt (Bool.and_eq_true_iff.mp h).1 e
theorem tsCntClr (who : Who) (tile : Nat) (value : BitVec 32) : Statement (.tsCntClr who tile value) := by
  intro h _ e; exact tile_lt (Bool.and_eq_true_iff.mp h).1 e
theorem hostTsWrite (tile : Nat) (addr : Nat) (data : HostBytes) (lost : Nat) : Statement (.hostTsWrite tile addr data lost) := by
  intro _ _ e; cases e
theorem hostTsRead (tile : Nat) (addr : Nat) (len : Nat) (met : EdgeMet) : Statement (.hostTsRead tile addr len met) := by
  intro _ _ e; cases e
theorem hostLramWrite (tile : Nat) (tagView : Bool) (addr : Nat) (data : HostBytes) : Statement (.hostLramWrite tile tagView addr data) := by
  intro _ _ e; cases e
theorem hostLramRead (tile : Nat) (tagView : Bool) (addr : Nat) (ask : LramAsk) : Statement (.hostLramRead tile tagView addr ask) := by
  intro _ _ e; cases e
theorem hostVpramWrite (tile : Nat) (addr : Nat) (data : HostBytes) : Statement (.hostVpramWrite tile addr data) := by
  intro _ _ e; cases e
theorem vecBundleIssue (tile : Nat) (held : Held) : Statement (.vecBundleIssue tile held) := by
  intro _ _ e; cases e
theorem vecResultLand (tile : Nat) : Statement (.vecResultLand tile) := by
  intro _ _ e; cases e
theorem vecSwitchIn (tile : Nat) : Statement (.vecSwitchIn tile) := by
  intro _ _ e; cases e
theorem vecSwitchOut (tile : Nat) : Statement (.vecSwitchOut tile) := by
  intro _ _ e; cases e
theorem matmulCmd (tile : Nat) : Statement (.matmulCmd tile) := by
  intro _ _ e; cases e
theorem sumwCmd (tile : Nat) : Statement (.sumwCmd tile) := by
  intro _ _ e; cases e
theorem weightRowLoad (tile : Nat) (held : Held) : Statement (.weightRowLoad tile held) := by
  intro _ _ e; cases e
theorem arrayVectorStream (tile : Nat) (held : Held) (bufBad : Bool) : Statement (.arrayVectorStream tile held bufBad) := by
  intro _ _ e; cases e
theorem accLand (tile : Nat) : Statement (.accLand tile) := by
  intro _ _ e; cases e
theorem scaleBlockArrive (tile : Nat) : Statement (.scaleBlockArrive tile) := by
  intro _ _ e; cases e
theorem drainCmd (tile : Nat) : Statement (.drainCmd tile) := by
  intro _ _ e; cases e
theorem drainRowRead (tile : Nat) (held : Held) : Statement (.drainRowRead tile held) := by
  intro _ _ e; cases e
theorem drainCourseWrite (tile : Nat) (held : Held) : Statement (.drainCourseWrite tile held) := by
  intro _ _ e; cases e
theorem windowCmd (tile : Nat) : Statement (.windowCmd tile) := by
  intro _ _ e; cases e
theorem diag8LoadPhase (tile : Nat) (held : Held) : Statement (.diag8LoadPhase tile held) := by
  intro _ _ e; cases e
theorem sceCmd (tile : Nat) : Statement (.sceCmd tile) := by
  intro _ _ e; cases e
theorem sceLoadPhase (tile : Nat) (held : Held) : Statement (.sceLoadPhase tile held) := by
  intro _ _ e; cases e
theorem sceStreamTap (tile : Nat) (held : Held) (bufBad : Bool) : Statement (.sceStreamTap tile held bufBad) := by
  intro _ _ e; cases e
theorem sceResultLand (tile : Nat) : Statement (.sceResultLand tile) := by
  intro _ _ e; cases e
theorem msend (tile : Nat) (held : Held) : Statement (.msend tile held) := by
  intro _ _ e; cases e
theorem mortarCourseArrive (course : MorCourse) (met : Transit) (bad : Bool) : Statement (.mortarCourseArrive course met bad) := by
  intro _ _ e; cases e
theorem msendAck (i : Nat) (jitter : Nat) : Statement (.msendAck i jitter) := by
  intro _ _ e; cases e
theorem evtLatch : Statement (.evtLatch) := by
  intro _ _ e; cases e
theorem hodDeclare (tile : Nat) : Statement (.hodDeclare tile) := by
  intro _ _ e; cases e
theorem hodSend (tile : Nat) (held : Held) : Statement (.hodSend tile held) := by
  intro _ _ e; cases e
theorem hodBroadcast (tile : Nat) : Statement (.hodBroadcast tile) := by
  intro _ _ e; cases e
theorem broadcastRead (tile : Nat) (ce : Nat) (ue : Bool) : Statement (.broadcastRead tile ce ue) := by
  intro _ _ e; cases e
theorem broadcastCourseWrite (i : Nat) (met : Crossing) (bad : Bool) : Statement (.broadcastCourseWrite i met bad) := by
  intro _ _ e; cases e
theorem broadcastRetire (tile : Nat) : Statement (.broadcastRetire tile) := by
  intro _ _ e; cases e
theorem hodTgtDeclareWrite (who : Who) (tgt : Nat) (value : BitVec 64) : Statement (.hodTgtDeclareWrite who tgt value) := by
  intro h _ e; exact tile_lt (Bool.and_eq_true_iff.mp h).1 e
theorem hodTgtFreeWrite (who : Who) (tgt : Nat) (value : BitVec 64) : Statement (.hodTgtFreeWrite who tgt value) := by
  intro h _ e; exact tile_lt (Bool.and_eq_true_iff.mp h).1 e
theorem hodGrant (lane : Nat) (bad : Bool) : Statement (.hodGrant lane bad) := by
  intro _ _ e; cases e
theorem hodRejectNotice : Statement (.hodRejectNotice) := by
  intro _ _ e; cases e
theorem hodApply (i : Nat) (jitter : Bool) (ecc : CourseEcc) : Statement (.hodApply i jitter ecc) := by
  intro _ _ e; cases e
theorem hodFold (tgt : Nat) (off : Nat) (ce : Nat) (ue : Bool) : Statement (.hodFold tgt off ce ue) := by
  intro _ _ e; cases e
theorem morCommit (who : Who) (value : BitVec 32) : Statement (.morCommit who value) := by
  intro h _ e; exact tile_lt h e
theorem modeCommitDeliver : Statement (.modeCommitDeliver) := by
  intro _ _ e; cases e
theorem modeApply (tile : Nat) : Statement (.modeApply tile) := by
  intro _ _ e; cases e
theorem modeReport (tile : Nat) : Statement (.modeReport tile) := by
  intro _ _ e; cases e
theorem mixedClearSeen : Statement (.mixedClearSeen) := by
  intro _ _ e; cases e
theorem streamDeclare (tile : Nat) (urgent : Bool) : Statement (.streamDeclare tile urgent) := by
  intro _ _ e; cases e
theorem streamRelease (tile : Nat) (urgent : Bool) : Statement (.streamRelease tile urgent) := by
  intro _ _ e; cases e
theorem streamInval (tile : Nat) (urgent : Bool) : Statement (.streamInval tile urgent) := by
  intro _ _ e; cases e
theorem streamRequest (look : StreamLook) : Statement (.streamRequest look) := by
  intro _ _ e; cases e
theorem streamLineDeliver (tracker : Nat) (jitter : Nat) (held : LineWait) : Statement (.streamLineDeliver tracker jitter held) := by
  intro _ _ e; cases e
theorem scInvalGo (who : Who) (value : BitVec 32) : Statement (.scInvalGo who value) := by
  intro h _ e; exact tile_lt h e
theorem scInvalAll (who : Who) (value : BitVec 32) : Statement (.scInvalAll who value) := by
  intro h _ e; exact tile_lt h e
theorem scInvalDone : Statement (.scInvalDone) := by
  intro _ _ e; cases e
theorem scSlicePwrReqWrite (who : Who) (value : BitVec 32) : Statement (.scSlicePwrReqWrite who value) := by
  intro h _ e; exact tile_lt h e
theorem sliceWakeDone (slice : Nat) : Statement (.sliceWakeDone slice) := by
  intro _ _ e; cases e
theorem sliceDrainDone (slice : Nat) : Statement (.sliceDrainDone slice) := by
  intro _ _ e; cases e
theorem scFenceWrite (who : Who) (value : BitVec 32) : Statement (.scFenceWrite who value) := by
  intro h _ e; exact tile_lt h e
theorem scCntClr (who : Who) (value : BitVec 32) : Statement (.scCntClr who value) := by
  intro h _ e; exact tile_lt h e
theorem ddrRequestServe (ch : Nat) (i : Nat) (err : BeatErr) : Statement (.ddrRequestServe ch i err) := by
  intro _ _ e; cases e
theorem ddrClassPromote (ch : Nat) (i : Nat) : Statement (.ddrClassPromote ch i) := by
  intro _ _ e; cases e
theorem ddrRefresh (ch : Nat) (bank : Nat) : Statement (.ddrRefresh ch bank) := by
  intro _ _ e; cases e
theorem ddrSrEnter (ch : Nat) : Statement (.ddrSrEnter ch) := by
  intro _ _ e; cases e
theorem ddrSrExitDone (ch : Nat) : Statement (.ddrSrExitDone ch) := by
  intro _ _ e; cases e
theorem ddrSrReqWrite (who : Who) (ch : Nat) (value : BitVec 32) : Statement (.ddrSrReqWrite who ch value) := by
  intro h _ e; exact tile_lt (Bool.and_eq_true_iff.mp h).1 e
theorem ddrCntClr (who : Who) (ch : Nat) (value : BitVec 32) : Statement (.ddrCntClr who ch value) := by
  intro h _ e; exact tile_lt (Bool.and_eq_true_iff.mp h).1 e
theorem ringInit (who : Who) (look : RingLook) : Statement (.ringInit who look) := by
  intro h _ e; exact tile_lt (Bool.and_eq_true_iff.mp h).1 e
theorem ringStop (who : Who) (ring : Nat) : Statement (.ringStop who ring) := by
  intro h _ e; exact tile_lt (Bool.and_eq_true_iff.mp h).1 e
theorem ringResume (who : Who) (look : RingLook) : Statement (.ringResume who look) := by
  intro h _ e; exact tile_lt (Bool.and_eq_true_iff.mp h).1 e
theorem ringOff (who : Who) (ring : Nat) : Statement (.ringOff who ring) := by
  intro h _ e; exact tile_lt (Bool.and_eq_true_iff.mp h).1 e
theorem ringFlush (who : Who) (ring : Nat) : Statement (.ringFlush who ring) := by
  intro h _ e; exact tile_lt (Bool.and_eq_true_iff.mp h).1 e
theorem doorbellWrite (look : RingLook) (lo : Option (BitVec 32)) (hi : Option (BitVec 32)) (ep : Bool) : Statement (.doorbellWrite look lo hi ep) := by
  intro _ _ e; cases e
theorem take (tile : Nat) (urgent : Bool) : Statement (.take tile urgent) := by
  intro _ _ e; cases e
theorem doorbell (list : StepRef) (err : BeatErr) : Statement (.doorbell list err) := by
  intro _ _ e; cases e
theorem descFetch (ch : Nat) (host : HostAns) (ecc : LineEcc) (err : BeatErr) : Statement (.descFetch ch host ecc err) := by
  intro _ _ e; cases e
theorem dmaUnitTransfer (ch : Nat) (host : HostAns) (ecc : LineEcc) (err : BeatErr) (hodCe : Nat) (hodUe : Bool) (met : UnitMet) : Statement (.dmaUnitTransfer ch host ecc err hodCe hodUe met) := by
  intro _ _ e; cases e
theorem dmaPaceResume (ch : Nat) : Statement (.dmaPaceResume ch) := by
  intro _ _ e; cases e
theorem descComplete (ch : Nat) : Statement (.descComplete ch) := by
  intro _ _ e; cases e
theorem cqRecordWrite (ch : Nat) (held : Nat) : Statement (.cqRecordWrite ch held) := by
  intro _ _ e; cases e
theorem cqEnable (who : Who) (cq : Nat) (value : BitVec 32) : Statement (.cqEnable who cq value) := by
  intro h _ e; exact tile_lt (Bool.and_eq_true_iff.mp h).1 e
theorem cqHeadWrite (who : Who) (cq : Nat) (value : BitVec 32) : Statement (.cqHeadWrite who cq value) := by
  intro h _ e; exact tile_lt (Bool.and_eq_true_iff.mp h).1 e
theorem dmaFifoCfgWrite (who : Who) (fifo : Nat) (value : BitVec 64) : Statement (.dmaFifoCfgWrite who fifo value) := by
  intro h _ e; exact tile_lt (Bool.and_eq_true_iff.mp h).1 e
theorem dmaFifoTakeWrite (who : Who) (fifo : Nat) (value : BitVec 32) : Statement (.dmaFifoTakeWrite who fifo value) := by
  intro h _ e; exact tile_lt (Bool.and_eq_true_iff.mp h).1 e
theorem channelDisable (who : Who) (ch : Nat) : Statement (.channelDisable who ch) := by
  intro h _ e; exact tile_lt (Bool.and_eq_true_iff.mp h).1 e
theorem dmaCntClr (who : Who) (value : BitVec 32) : Statement (.dmaCntClr who value) := by
  intro h _ e; exact tile_lt h e
theorem hostBar2Write (off : Nat) (bytes : List (BitVec 8)) (ep : Bool) : Statement (.hostBar2Write off bytes ep) := by
  intro _ _ e; cases e
theorem hostBar2Read (off : Nat) (len : Nat) (errs : List BeatErr) : Statement (.hostBar2Read off len errs) := by
  intro _ _ e; cases e
theorem hostRegWrite (who : Who) (offset : Nat) (access : RegAccess) (mark : AccessMark) : Statement (.hostRegWrite who offset access mark) := by
  intro h _ e; exact tile_lt (Bool.and_eq_true_iff.mp h).1 e
theorem flr : Statement (.flr) := by
  intro _ _ e; cases e
theorem linkDown : Statement (.linkDown) := by
  intro _ _ e; cases e
theorem perstAssert : Statement (.perstAssert) := by
  intro _ _ e; cases e
theorem perstRelease : Statement (.perstRelease) := by
  intro _ _ e; cases e
theorem pcieL1Enter : Statement (.pcieL1Enter) := by
  intro _ _ e; cases e
theorem heartbeatDue (busy : Bool) : Statement (.heartbeatDue busy) := by
  intro _ _ e; cases e
theorem hbCtrlWrite (who : Who) (value : BitVec 32) : Statement (.hbCtrlWrite who value) := by
  intro h _ e; exact tile_lt h e
theorem devCntClr (who : Who) (value : BitVec 32) : Statement (.devCntClr who value) := by
  intro h _ e; exact tile_lt h e
theorem post (tile : Nat) (urgent : Bool) (lost : Nat) : Statement (.post tile urgent lost) := by
  intro _ _ e; cases e
theorem resAckWrite (who : Who) (mb : Nat) (value : BitVec 32) : Statement (.resAckWrite who mb value) := by
  intro h _ e; exact tile_lt (Bool.and_eq_true_iff.mp h).1 e
theorem resCntClr (who : Who) (value : BitVec 32) : Statement (.resCntClr who value) := by
  intro h _ e; exact tile_lt h e
theorem msixSend (vector : Nat) : Statement (.msixSend vector) := by
  intro _ _ e; cases e
theorem timeTick : Statement (.timeTick) := by
  intro _ _ e; cases e
theorem timeHoldEnd : Statement (.timeHoldEnd) := by
  intro _ _ e; cases e
theorem slotSyncEdge (off : Nat) : Statement (.slotSyncEdge off) := by
  intro _ _ e; cases e
theorem timeCtrlWrite (who : Who) (value : BitVec 32) : Statement (.timeCtrlWrite who value) := by
  intro h _ e; exact tile_lt h e
theorem timeCntClr (who : Who) (value : BitVec 32) : Statement (.timeCntClr who value) := by
  intro h _ e; exact tile_lt h e
theorem slotTick : Statement (.slotTick) := by
  intro _ _ e; cases e
theorem alarmFire (k : Nat) : Statement (.alarmFire k) := by
  intro _ _ e; cases e
theorem evtInEdge (pin : Nat) (level : Bool) (merged : Bool) : Statement (.evtInEdge pin level merged) := by
  intro _ _ e; cases e
theorem evtOutEdge (pin : Nat) : Statement (.evtOutEdge pin) := by
  intro _ _ e; cases e
theorem evtOutWidthEnd (pin : Nat) : Statement (.evtOutWidthEnd pin) := by
  intro _ _ e; cases e
theorem evtOutCfgWrite (who : Who) (pin : Nat) (value : BitVec 32) : Statement (.evtOutCfgWrite who pin value) := by
  intro h _ e; exact tile_lt (Bool.and_eq_true_iff.mp h).1 e
theorem evtPulseWrite (who : Who) (lines : BitVec 64) : Statement (.evtPulseWrite who lines) := by
  intro h _ e; exact tile_lt h e
theorem icPendSet (who : Who) (w : Nat) (bits : BitVec 32) : Statement (.icPendSet who w bits) := by
  intro h _ e; exact tile_lt (Bool.and_eq_true_iff.mp h).1 e
theorem icPendClr (who : Who) (w : Nat) (bits : BitVec 32) : Statement (.icPendClr who w bits) := by
  intro h _ e; exact tile_lt (Bool.and_eq_true_iff.mp h).1 e
theorem icMaskSet (who : Who) (host : Bool) (w : Nat) (bits : BitVec 32) : Statement (.icMaskSet who host w bits) := by
  intro h _ e; exact tile_lt (Bool.and_eq_true_iff.mp h).1 e
theorem icMaskClr (who : Who) (host : Bool) (w : Nat) (bits : BitVec 32) : Statement (.icMaskClr who host w bits) := by
  intro h _ e; exact tile_lt (Bool.and_eq_true_iff.mp h).1 e
theorem icTpendSet (who : Who) (tile : Nat) (bits : BitVec 64) : Statement (.icTpendSet who tile bits) := by
  intro h _ e; exact tile_lt (Bool.and_eq_true_iff.mp h).1 e
theorem icTpendClr (who : Who) (tile : Nat) (bits : BitVec 64) : Statement (.icTpendClr who tile bits) := by
  intro h _ e; exact tile_lt (Bool.and_eq_true_iff.mp h).1 e
theorem icTmaskSet (who : Who) (tile : Nat) (bits : BitVec 64) : Statement (.icTmaskSet who tile bits) := by
  intro h _ e; exact tile_lt (Bool.and_eq_true_iff.mp h).1 e
theorem icTmaskClr (who : Who) (tile : Nat) (bits : BitVec 64) : Statement (.icTmaskClr who tile bits) := by
  intro h _ e; exact tile_lt (Bool.and_eq_true_iff.mp h).1 e
theorem icLevelWrite (who : Who) (reg : IcLevel) (value : BitVec 64) : Statement (.icLevelWrite who reg value) := by
  intro h _ e; exact tile_lt (Bool.and_eq_true_iff.mp h).1 e
theorem icRouteWrite (who : Who) (src : Nat) (value : BitVec 32) : Statement (.icRouteWrite who src value) := by
  intro h _ e; exact tile_lt (Bool.and_eq_true_iff.mp h).1 e
theorem clkWindowEnd (xtal : Bool) (count : Nat) : Statement (.clkWindowEnd xtal count) := by
  intro _ _ e; cases e
theorem clkStopDetect (xtal : Bool) : Statement (.clkStopDetect xtal) := by
  intro _ _ e; cases e
theorem xtalAmplitudeDone : Statement (.xtalAmplitudeDone) := by
  intro _ _ e; cases e
theorem xtalAmplitudeLoss : Statement (.xtalAmplitudeLoss) := by
  intro _ _ e; cases e
theorem pllReacquireDone : Statement (.pllReacquireDone) := by
  intro _ _ e; cases e
theorem safeHoldRestart (straps : BitVec 6) : Statement (.safeHoldRestart straps) := by
  intro _ _ e; cases e
theorem clkRevert (who : Who) (value : BitVec 32) : Statement (.clkRevert who value) := by
  intro h _ e; exact tile_lt h e
theorem xtalEnWrite (who : Who) (value : BitVec 32) : Statement (.xtalEnWrite who value) := by
  intro h _ e; exact tile_lt h e
theorem dvfsRequest (who : Who) (value : BitVec 32) : Statement (.dvfsRequest who value) := by
  intro h _ e; exact tile_lt h e
theorem avsAck : Statement (.avsAck) := by
  intro _ _ e; cases e
theorem avsSettleDone : Statement (.avsSettleDone) := by
  intro _ _ e; cases e
theorem avsTimeout : Statement (.avsTimeout) := by
  intro _ _ e; cases e
theorem tilePark (tile : Nat) : Statement (.tilePark tile) := by
  intro _ _ e; cases e
theorem dividerStep : Statement (.dividerStep) := by
  intro _ _ e; cases e
theorem clkEnSet (who : Who) (value : BitVec 32) : Statement (.clkEnSet who value) := by
  intro h _ e; exact tile_lt h e
theorem clkEnClr (who : Who) (value : BitVec 32) : Statement (.clkEnClr who value) := by
  intro h _ e; exact tile_lt h e
theorem gateApply (bit_ : Nat) : Statement (.gateApply bit_) := by
  intro _ _ e; cases e
theorem clkOutCfgWrite (who : Who) (value : BitVec 32) : Statement (.clkOutCfgWrite who value) := by
  intro h _ e; exact tile_lt h e
theorem clkCntClr (who : Who) (value : BitVec 32) : Statement (.clkCntClr who value) := by
  intro h _ e; exact tile_lt h e
theorem chainAssignRx (f : BitVec 64) (mine : AssignMark) : Statement (.chainAssignRx f mine) := by
  intro _ _ e; cases e
theorem chainLoopRx (f : LoopFrame) : Statement (.chainLoopRx f) := by
  intro _ _ e; cases e
theorem chainSlotRx (f : BitVec 64) : Statement (.chainSlotRx f) := by
  intro _ _ e; cases e
theorem chainWingbeatRx (f : BitVec 64) : Statement (.chainWingbeatRx f) := by
  intro _ _ e; cases e
theorem chainMsgFrameRx (f : BitVec 64) : Statement (.chainMsgFrameRx f) := by
  intro _ _ e; cases e
theorem chainFrameTx : Statement (.chainFrameTx) := by
  intro _ _ e; cases e
theorem chainAssignRepeat : Statement (.chainAssignRepeat) := by
  intro _ _ e; cases e
theorem chainAssignTimeout : Statement (.chainAssignTimeout) := by
  intro _ _ e; cases e
theorem chainSlotSend : Statement (.chainSlotSend) := by
  intro _ _ e; cases e
theorem chainSlotIdle : Statement (.chainSlotIdle) := by
  intro _ _ e; cases e
theorem chainSlotTimeout : Statement (.chainSlotTimeout) := by
  intro _ _ e; cases e
theorem chainLoopStart (who : Who) (value : BitVec 32) : Statement (.chainLoopStart who value) := by
  intro h _ e; exact tile_lt h e
theorem chainMsgTxWrite (who : Who) (lo : Option (BitVec 32)) (hi : Option (BitVec 32)) : Statement (.chainMsgTxWrite who lo hi) := by
  intro h _ e; exact tile_lt h e
theorem chainMsgPopWrite (who : Who) (value : BitVec 32) : Statement (.chainMsgPopWrite who value) := by
  intro h _ e; exact tile_lt h e
theorem chainCntClr (who : Who) (value : BitVec 32) : Statement (.chainCntClr who value) := by
  intro h _ e; exact tile_lt h e
theorem bondFrameTx (pick : Option MirrorRead) : Statement (.bondFrameTx pick) := by
  intro _ _ e; cases e
theorem bondMwrRx (win : Nat) (fseq : BitVec 32) (addr : BitVec 64) (payload : BitVec 1024) (crcOk : Bool) (met : EdgeMet) : Statement (.bondMwrRx win fseq addr payload crcOk met) := by
  intro _ _ e; cases e
theorem bondAckRx (fseq : BitVec 32) (crcOk : Bool) : Statement (.bondAckRx fseq crcOk) := by
  intro _ _ e; cases e
theorem bondNakRx (fseq : BitVec 32) (crcOk : Bool) : Statement (.bondNakRx fseq crcOk) := by
  intro _ _ e; cases e
theorem bondLinkTrained (partnerStrap : Bool) : Statement (.bondLinkTrained partnerStrap) := by
  intro _ _ e; cases e
theorem bondWingbeatRx (fseq : BitVec 32) (word : BitVec 32) (crcOk : Bool) : Statement (.bondWingbeatRx fseq word crcOk) := by
  intro _ _ e; cases e
theorem bondStateRx (fseq : BitVec 32) (queue : Nat) (payload : BitVec 512) (crcOk : Bool) : Statement (.bondStateRx fseq queue payload crcOk) := by
  intro _ _ e; cases e
theorem bondCtxRx (fseq : BitVec 32) (addr : BitVec 64) (payload : BitVec 512) (crcOk : Bool) : Statement (.bondCtxRx fseq addr payload crcOk) := by
  intro _ _ e; cases e
theorem bondRelinquishRx (fseq : BitVec 32) (crcOk : Bool) : Statement (.bondRelinquishRx fseq crcOk) := by
  intro _ _ e; cases e
theorem bondTakeoverRx (fseq : BitVec 32) (epoch : BitVec 8) (crcOk : Bool) : Statement (.bondTakeoverRx fseq epoch crcOk) := by
  intro _ _ e; cases e
theorem wingbeatSend : Statement (.wingbeatSend) := by
  intro _ _ e; cases e
theorem wingbeatPeriodEnd : Statement (.wingbeatPeriodEnd) := by
  intro _ _ e; cases e
theorem promote (who : Who) : Statement (.promote who) := by
  intro h _ e; exact tile_lt h e
theorem relinquish (who : Who) : Statement (.relinquish who) := by
  intro h _ e; exact tile_lt h e
theorem relinquishComplete : Statement (.relinquishComplete) := by
  intro _ _ e; cases e
theorem resync (who : Who) : Statement (.resync who) := by
  intro h _ e; exact tile_lt h e
theorem bondMwinWrite (who : Who) (win : Nat) (b : Bool) (lo : Option (BitVec 32)) (hi : Option (BitVec 32)) : Statement (.bondMwinWrite who win b lo hi) := by
  intro h _ e; exact tile_lt (Bool.and_eq_true_iff.mp h).1 e
theorem bondCntClr (who : Who) (value : BitVec 32) : Statement (.bondCntClr who value) := by
  intro h _ e; exact tile_lt h e
theorem resetAssert (cool : Bool) (power : Bool) : Statement (.resetAssert cool power) := by
  intro _ _ e; cases e
theorem resetRelease (start : ResetPins) (hot : Bool) : Statement (.resetRelease start hot) := by
  intro _ _ e; cases e
theorem larvaStart (readOk : Bool) : Statement (.larvaStart readOk) := by
  intro _ _ e; cases e
theorem pllLockDone (readOk : Bool) : Statement (.pllLockDone readOk) := by
  intro _ _ e; cases e
theorem pllLockTimeout : Statement (.pllLockTimeout) := by
  intro _ _ e; cases e
theorem certVerify (readOk : Bool) : Statement (.certVerify readOk) := by
  intro _ _ e; cases e
theorem imageVerify (readOk : Bool) : Statement (.imageVerify readOk) := by
  intro _ _ e; cases e
theorem ddrTrainDone : Statement (.ddrTrainDone) := by
  intro _ _ e; cases e
theorem ddrTrainTimeout : Statement (.ddrTrainTimeout) := by
  intro _ _ e; cases e
theorem chrysalisEnter : Statement (.chrysalisEnter) := by
  intro _ _ e; cases e
theorem load (who : Who) : Statement (.load who) := by
  intro h _ e; exact tile_lt h e
theorem endObject (who : Who) : Statement (.endObject who) := by
  intro h _ e; exact tile_lt h e
theorem endLoad (who : Who) : Statement (.endLoad who) := by
  intro h _ e; exact tile_lt h e
theorem decodeStatus (who : Who) : Statement (.decodeStatus who) := by
  intro h _ e; exact tile_lt h e
theorem getPubkey (who : Who) : Statement (.getPubkey who) := by
  intro h _ e; exact tile_lt h e
theorem attest (who : Who) : Statement (.attest who) := by
  intro h _ e; exact tile_lt h e
theorem enrol (who : Who) (written : Bool) : Statement (.enrol who written) := by
  intro h _ e; exact tile_lt h e
theorem run (who : Who) : Statement (.run who) := by
  intro h _ e; exact tile_lt h e
theorem mailboxComplete : Statement (.mailboxComplete) := by
  intro _ _ e; cases e
theorem calTaskDue (due : CalDue) : Statement (.calTaskDue due) := by
  intro _ _ e; cases e
theorem calGapStart (k : Nat) : Statement (.calGapStart k) := by
  intro _ _ e; cases e
theorem calGapEnd (k : Nat) : Statement (.calGapEnd k) := by
  intro _ _ e; cases e
theorem calTaskEnd (done : CalEnd) : Statement (.calTaskEnd done) := by
  intro _ _ e; cases e
theorem calOverdue (ch : Nat) : Statement (.calOverdue ch) := by
  intro _ _ e; cases e
theorem calStealStart (ch : Nat) : Statement (.calStealStart ch) := by
  intro _ _ e; cases e
theorem calStealEnd : Statement (.calStealEnd) := by
  intro _ _ e; cases e
theorem calGapWrite (who : Who) (k : Nat) (lo : Option (BitVec 32)) (hi : Option (BitVec 32)) : Statement (.calGapWrite who k lo hi) := by
  intro h _ e; exact tile_lt (Bool.and_eq_true_iff.mp h).1 e
theorem calCntClr (who : Who) (value : BitVec 32) : Statement (.calCntClr who value) := by
  intro h _ e; exact tile_lt h e
theorem fenceTile (cause : FenceCause) (which : FencedTiles) : Statement (.fenceTile cause which) := by
  intro _ _ e; cases e
theorem unfenceTile (who : Who) (tile : Nat) : Statement (.unfenceTile who tile) := by
  intro h _ e; exact tile_lt (Bool.and_eq_true_iff.mp h).1 e
theorem releaseTile (who : Who) (tile : Nat) : Statement (.releaseTile who tile) := by
  intro h _ e; exact tile_lt (Bool.and_eq_true_iff.mp h).1 e
theorem fenceSlice (who : Who) (slice : Nat) : Statement (.fenceSlice who slice) := by
  intro h _ e; exact tile_lt (Bool.and_eq_true_iff.mp h).1 e
theorem unfenceSlice (who : Who) (slice : Nat) : Statement (.unfenceSlice who slice) := by
  intro h _ e; exact tile_lt (Bool.and_eq_true_iff.mp h).1 e
theorem devFault (who : Who) : Statement (.devFault who) := by
  intro h _ e; exact tile_lt h e
theorem kick (who : Who) : Statement (.kick who) := by
  intro h _ e; exact tile_lt h e
theorem quoinWdogExpire : Statement (.quoinWdogExpire) := by
  intro _ _ e; cases e
theorem pcieLinkTimeout : Statement (.pcieLinkTimeout) := by
  intro _ _ e; cases e
theorem ueWindowStart : Statement (.ueWindowStart) := by
  intro _ _ e; cases e
theorem devFltCntClr (who : Who) (value : BitVec 32) : Statement (.devFltCntClr who value) := by
  intro h _ e; exact tile_lt h e
theorem vecCntClr (who : Who) (tile : Nat) (value : BitVec 32) : Statement (.vecCntClr who tile value) := by
  intro h _ e; exact tile_lt (Bool.and_eq_true_iff.mp h).1 e
theorem arrCntClr (who : Who) (tile : Nat) (value : BitVec 32) : Statement (.arrCntClr who tile value) := by
  intro h _ e; exact tile_lt (Bool.and_eq_true_iff.mp h).1 e
theorem drnCntClr (who : Who) (tile : Nat) (value : BitVec 32) : Statement (.drnCntClr who tile value) := by
  intro h _ e; exact tile_lt (Bool.and_eq_true_iff.mp h).1 e
theorem sceCntClr (who : Who) (tile : Nat) (value : BitVec 32) : Statement (.sceCntClr who tile value) := by
  intro h _ e; exact tile_lt (Bool.and_eq_true_iff.mp h).1 e
theorem morCntClr (who : Who) (value : BitVec 32) : Statement (.morCntClr who value) := by
  intro h _ e; exact tile_lt h e
theorem hodCntClr (who : Who) (value : BitVec 32) : Statement (.hodCntClr who value) := by
  intro h _ e; exact tile_lt h e
theorem stepCntClr (who : Who) (tile : Nat) (value : BitVec 32) : Statement (.stepCntClr who tile value) := by
  intro h _ e; exact tile_lt (Bool.and_eq_true_iff.mp h).1 e
theorem thermalTrip : Statement (.thermalTrip) := by
  intro _ _ e; cases e
theorem pcieLinkUp (width : BitVec 3) (speed : BitVec 3) (flit : Bool) : Statement (.pcieLinkUp width speed flit) := by
  intro _ _ e; cases e
theorem bondLinkDown : Statement (.bondLinkDown) := by
  intro _ _ e; cases e
theorem completionTimeout (ch : Nat) : Statement (.completionTimeout ch) := by
  intro _ _ e; cases e
theorem pcieConfigWrite (field : PcieCfg) (ep : Bool) : Statement (.pcieConfigWrite field ep) := by
  intro _ _ e; cases e
theorem clkSourceEdgesReturn (xtal : Bool) : Statement (.clkSourceEdgesReturn xtal) := by
  intro _ _ e; cases e
theorem chainBadFrameRx (f : BitVec 64) : Statement (.chainBadFrameRx f) := by
  intro _ _ e; cases e

end Sys2Proof.Laws.Sender
end

