-- ==== Sys2Proof/Laws/Registers.lean ====
section
/-! SUPPORT. Everything a register write can do: it reaches the register, or is turned away in one of the ways the
rules name. -/

namespace Sys2Proof.Machine

/-- A write that reaches its register has its effect, on the state that its passage has made. -/
theorem regWrite_of_writable {who : Who} {b : Blk} {p : HostPerm} {s : State} (h : Claims.Writable who b p s) (f : State → State) :
    regWrite who b p f s = f (Claims.came who s) := by
  cases who with
  | host =>
    obtain ⟨h1, h2, h3, h4⟩ := h
    simp [regWrite, Claims.came, h1, h2, h3, h4]
  | quoin =>
    obtain ⟨h1, h2, h3⟩ := h
    simp [regWrite, Claims.came, h1, h2, h3]
  | tile n =>
    obtain ⟨h1, h2⟩ := h
    simp [regWrite, Claims.came, h1, h2]

/-- A write does one of six things: its effect, nothing, an Unsupported Request, or it is turned away and counted. -/
theorem regWrite_cases (who : Who) (b : Blk) (p : HostPerm) (f : State → State) (s : State) :
    (Claims.Writable who b p s ∧ regWrite who b p f s = f (Claims.came who s))
      ∨ (¬ Claims.Writable who b p s
          ∧ (regWrite who b p f s = s ∨ regWrite who b p f s = s.toHost (.aer 2) ∨ regWrite who b p f s = (Claims.came who s).hostReject
              ∨ regWrite who b p f s = (Claims.came who s).countGated)) := by
  by_cases h : Claims.Writable who b p s
  · exact .inl ⟨h, regWrite_of_writable h f⟩
  · refine .inr ⟨h, ?_⟩
    cases who with
    | host =>
      simp only [Claims.Writable] at h
      simp only [regWrite, Claims.came]
      by_cases h1 : s.barOpen = true
      · by_cases h2 : hostMayWrite s.sec.life b p = true
        · by_cases h3 : s.fencedBlk b = true
          · simp [h1, h2, h3]
          · by_cases h4 : s.gated b = true
            · simp [h1, h2, h3, h4]
            · simp [h1, h2, h3, h4] at h
        · simp [h1, h2]
      · by_cases h5 : s.host.width = 0#3
        · simp [h1, hostWrite, h5]
        · by_cases h6 : s.host.memSpace = true
          · exact absurd (by simp [State.barOpen, h5, h6]) h1
          · simp [h1, hostWrite, h5, h6]
    | quoin =>
      simp only [Claims.Writable] at h
      simp only [regWrite, Claims.came]
      by_cases h1 : s.alive = true
      · by_cases h3 : s.fencedBlk b = true
        · simp [h1, h3]
        · by_cases h4 : s.gated b = true
          · simp [h1, h3, h4]
          · simp [h1, h3, h4] at h
      · simp [h1]
    | tile n =>
      simp only [Claims.Writable] at h
      simp only [regWrite]
      by_cases h1 : b = .tile n
      · by_cases h2 : s.tileLive n = true
        · exact absurd ⟨h1, h2⟩ h
        · simp [h2]
      · simp [h1]

/-- Whatever a register write's effect keeps, the write keeps, if turning it away keeps it too. -/
theorem regWrite_keeps {who : Who} {b : Blk} {p : HostPerm} {f : State → State} {s : State} (P : State → Prop) (hs : P s)
    (hf : ∀ z, P z → P (f z)) (hl : ∀ z : State, P z → P z.linkUse) (hu : P (s.toHost (.aer 2))) (hr : ∀ z : State, P z → P z.hostReject)
    (hg : ∀ z : State, P z → P z.countGated) : P (regWrite who b p f s) := by
  have hc : P (Claims.came who s) := by cases who <;> simp only [Claims.came] <;> first | exact hl s hs | exact hs
  rcases regWrite_cases who b p f s with ⟨_, e⟩ | ⟨_, e | e | e | e⟩ <;> rw [e]
  · exact hf _ hc
  · exact hs
  · exact hu
  · exact hr _ hc
  · exact hg _ hc

end Sys2Proof.Machine
end

