-- ==== Sys2Proof/Laws/Sequencer.lean ====
section
/-! SUPPORT. What issuing a sequencer instruction, placing its operands and a data operation do, said once each. -/

namespace Sys2Proof.Machine

/-- Issuing a ready instruction is its body, run where its group stands and finished from the state before. -/
theorem issueSeq_of_ready {opc : Nat} {o : SeqOps} {s0 s : State} (h : Claims.Ready opc o s0 s) (body : State → SeqRes Flow) :
    issueSeq opc o body s0 = .next (finishSeq o.core o.held o.lost s0 (body s)) := by
  obtain ⟨hr, rfl, hd, r, hf, ha, ht, hw⟩ := h
  simp [issueSeq, hr, hf, ha, ht, hw]

/-- Operands that decode and pass their addressing checks reach the body at their places. -/
theorem withArgs_of_placed {ka kb kc : Kinds} {o : SeqOps} {s : State} {x : Args} (h : Claims.Placed ka kb kc o s x)
    (body : Args → State → SeqRes Flow) : withArgs ka kb kc noOwn o body s = body x s := by
  obtain ⟨hx, a, b, c, ha, hb, hc, pb, pc, pa⟩ := h
  cases x
  simp_all [withArgs, noOwn]

/-- A data operation whose sources are read, accepted and free of parity errors writes A with the value computed. -/
theorem dataOp_ok {rule : Args → TagRule} {dflt : BitVec 4} {two : Bool} {div0 : Args → SVal → Bool}
    {f : Args → BitVec 4 → SVal → SVal → RVal} {x : Args} {s s1 s2 s3 : State} {vb vc : SVal} {tg : Option (BitVec 4)}
    (h1 : loadOpd x.core 1 x.b s = .ok s1 vb) (h2 : loadOpd x.core 2 x.c s1 = .ok s2 vc)
    (h3 : dataTag (rule x) dflt two x vb vc = .ok tg) (hs : storeTagOk x.a tg = .ok ()) (h4 : div0 x vc = false) (hb : vb.perr = none) (hc : vc.perr = none)
    (h5 : storeOpd x.core x.a tg (f x (tg.getD dflt) vb vc).val (f x (tg.getD dflt) vb vc).bits
      (f x (tg.getD dflt) vb vc).wd s2 = .ok s3 ()) :
    dataOp rule dflt two div0 f x s = .ok s3 .seq := by
  simp [dataOp, h1, h2, h3, hs, h4, hb, hc, SeqRes.bind, checkParity, guardAll, firstTrap, h5]

end Sys2Proof.Machine
end

