-- ==== Sys2Proof/Tests/Slice0.lean ====
section
/-! SUPPORT. Tests: the refusals of WellFormed, examples from the spec, and a witness for the hypotheses of every
statement. -/

set_option exponentiation.threshold 4000
set_option maxRecDepth 4000
set_option Elab.async false
set_option linter.unusedVariables false
set_option linter.unnecessarySeqFocus false

namespace Sys2Proof.Tests

open Sys2Proof.Machine

/-! ### States to test on -/

/-- A device at work. -/
def up : State :=
  { State.reset with
    cycle := 100
    sec := { State.reset.sec with life := .imago }
    te := { State.reset.te with
      running := true
      time := 5000
      tileCopy := List.replicate 16 5000
      hubCopy := 5000
      dmaCopy := 5000 }
    host := { State.reset.host with busMaster := true, memSpace := true, perst := false, width := 4 } }

/-- Operand specifiers of R80: a g, f or q register, an immediate, memory of 2^w bytes. -/
def opG (i : Nat) : BitVec 19 := BitVec.ofNat 19 (5 * 2 ^ 16 + i)
def opF (i : Nat) : BitVec 19 := BitVec.ofNat 19 (5 * 2 ^ 16 + 1024 + i)
def opQ (i : Nat) : BitVec 19 := BitVec.ofNat 19 (5 * 2 ^ 16 + 2048 + i)
def opI (v : Nat) : BitVec 19 := BitVec.ofNat 19 (6 * 2 ^ 16 + v)
def opM (w base disp : Nat) : BitVec 19 := BitVec.ofNat 19 (w * 2 ^ 16 + base * 2 ^ 12 + disp)

/-- Operands on tile 0. -/
def ops (a b c : BitVec 19) : SeqOps := ⟨0, a, b, c, 0, 0⟩

/-- A device whose tile 0 is about to issue one instruction. -/
def seqUp (opc : Nat) (a b c : BitVec 19) (f : SeqCore → SeqCore) : State :=
  up.updCore 0 fun k => f { k with
    halted := false
    pc := 0x1000
    fetch := [⟨0x1000, encodeSeq opc a b c, false, false, false⟩] }

/-- g1 to g7 all hold one word. -/
def gAll (t : BitVec 4) (v : BitVec 32) (k : SeqCore) : SeqCore := { k with gShared := List.replicate 7 ⟨t, v⟩ }

/-- Words of local RAM from byte 0x40 up. -/
def ram (l : List TWord) (k : SeqCore) : SeqCore := { k with lram := l.zipIdx.map fun p => (16 + p.2, p.1) }

/-- A word of `n` bits from its fields: first bit and value. -/
def word (n : Nat) (l : List (Nat × Nat)) : BitVec n := BitVec.ofNat n (l.foldl (fun a p => a + p.2 <<< p.1) 0)

/-- A descriptor that declares the whole store for reading and for writing. -/
def descAll : BitVec 1024 := word 1024 [(40, 0x3F), (48, 2), (224, 64), (528, 32768), (592, 32768), (608, 1)]

/-- An issue register, and a step in progress. -/
def issued (d : BitVec 1024) : IssueReg := ⟨d, false, [], 0⟩
def running (d : BitVec 1024) : StepRun := startRun (issued d) 0

/-- A device whose tile 0 runs a normal step. -/
def tileUp (f : Tile → Tile) : State :=
  up.updTile 0 fun x => f { x with st := { x.st with runN := some (running descAll) } }

/-- A command in an engine's queue: checked, issued, begun. -/
def cmd (raw : BitVec 512) (checked issued begun : Bool) : EngCmd :=
  ⟨raw, none, none, none, 0, 0, false, checked, issued, begun, false⟩

/-- Nothing held. -/
def free : Held := ⟨0, 0, 0, 0, 0, 0, 0⟩


/-! ### Ill-formed commands, one for each check of WellFormed, and well-formed ones at the limits -/

/-- No core 17; no slot 16 (R149); no block of 65,537 bytes (R143). -/
theorem test_refuses_core : ([
    .nop ⟨17, 0, 0, 0, 0, 0⟩, .mov ⟨17, 0, 0, 0, 0, 0⟩, .ldf ⟨17, 0, 0, 0, 0, 0⟩, .retag ⟨17, 0, 0, 0, 0, 0⟩,
    .tagof ⟨17, 0, 0, 0, 0, 0⟩, .push ⟨17, 0, 0, 0, 0, 0⟩, .pop ⟨17, 0, 0, 0, 0, 0⟩, .fst ⟨17, 0, 0, 0, 0, 0⟩,
    .add ⟨17, 0, 0, 0, 0, 0⟩, .sub ⟨17, 0, 0, 0, 0, 0⟩, .adds ⟨17, 0, 0, 0, 0, 0⟩, .subs ⟨17, 0, 0, 0, 0, 0⟩,
    .mul ⟨17, 0, 0, 0, 0, 0⟩, .mulh ⟨17, 0, 0, 0, 0, 0⟩, .divs ⟨17, 0, 0, 0, 0, 0⟩, .rems ⟨17, 0, 0, 0, 0, 0⟩,
    .and ⟨17, 0, 0, 0, 0, 0⟩, .or ⟨17, 0, 0, 0, 0, 0⟩, .xor ⟨17, 0, 0, 0, 0, 0⟩, .andn ⟨17, 0, 0, 0, 0, 0⟩,
    .shl ⟨17, 0, 0, 0, 0, 0⟩, .shr ⟨17, 0, 0, 0, 0, 0⟩, .sar ⟨17, 0, 0, 0, 0, 0⟩, .min ⟨17, 0, 0, 0, 0, 0⟩,
    .max ⟨17, 0, 0, 0, 0, 0⟩, .not ⟨17, 0, 0, 0, 0, 0⟩, .neg ⟨17, 0, 0, 0, 0, 0⟩, .clz ⟨17, 0, 0, 0, 0, 0⟩,
    .popc ⟨17, 0, 0, 0, 0, 0⟩, .ceq ⟨17, 0, 0, 0, 0, 0⟩, .cne ⟨17, 0, 0, 0, 0, 0⟩, .clt ⟨17, 0, 0, 0, 0, 0⟩,
    .cle ⟨17, 0, 0, 0, 0, 0⟩, .cltu ⟨17, 0, 0, 0, 0, 0⟩, .cleu ⟨17, 0, 0, 0, 0, 0⟩, .fadd ⟨17, 0, 0, 0, 0, 0⟩,
    .fsub ⟨17, 0, 0, 0, 0, 0⟩, .fmul ⟨17, 0, 0, 0, 0, 0⟩, .fma ⟨17, 0, 0, 0, 0, 0⟩, .fmin ⟨17, 0, 0, 0, 0, 0⟩,
    .fmax ⟨17, 0, 0, 0, 0, 0⟩, .fceq ⟨17, 0, 0, 0, 0, 0⟩, .fclt ⟨17, 0, 0, 0, 0, 0⟩, .fcle ⟨17, 0, 0, 0, 0, 0⟩,
    .cvtif ⟨17, 0, 0, 0, 0, 0⟩, .cvtfi ⟨17, 0, 0, 0, 0, 0⟩, .fabs ⟨17, 0, 0, 0, 0, 0⟩, .fneg ⟨17, 0, 0, 0, 0, 0⟩,
    .br ⟨17, 0, 0, 0, 0, 0⟩, .bt ⟨17, 0, 0, 0, 0, 0⟩, .bf ⟨17, 0, 0, 0, 0, 0⟩, .call ⟨17, 0, 0, 0, 0, 0⟩,
    .ret ⟨17, 0, 0, 0, 0, 0⟩, .reti ⟨17, 0, 0, 0, 0, 0⟩, .dbnz ⟨17, 0, 0, 0, 0, 0⟩, .iflush ⟨17, 0, 0, 0, 0, 0⟩,
    .bmove 0 ⟨17, 0, 0, 0, 0, 0⟩, .bmove 65537 ⟨0, 0, 0, 0, 0, 0⟩, .bfill 0 ⟨17, 0, 0, 0, 0, 0⟩,
    .bfill 65537 ⟨0, 0, 0, 0, 0, 0⟩, .bcmp 0 ⟨17, 0, 0, 0, 0, 0⟩, .bcmp 65537 ⟨0, 0, 0, 0, 0, 0⟩, .bseek 0 ⟨17, 0, 0, 0, 0, 0⟩,
    .bseek 65537 ⟨0, 0, 0, 0, 0, 0⟩, .waite ⟨17, 0, 0, 0, 0, 0⟩, .waitet ⟨17, 0, 0, 0, 0, 0⟩, .pulse ⟨17, 0, 0, 0, 0, 0⟩,
    .waitt ⟨17, 0, 0, 0, 0, 0⟩, .rdtime ⟨17, 0, 0, 0, 0, 0⟩, .step ⟨17, 0, 0, 0, 0, 0⟩, .ststat ⟨17, 0, 0, 0, 0, 0⟩,
    .fence ⟨17, 0, 0, 0, 0, 0⟩, .mfsr ⟨17, 0, 0, 0, 0, 0⟩, .mtsr ⟨17, 0, 0, 0, 0, 0⟩, .trap ⟨17, 0, 0, 0, 0, 0⟩,
    .qld ⟨17, 0, 0, 0, 0, 0⟩, .qst ⟨17, 0, 0, 0, 0, 0⟩, .qldff ⟨17, 0, 0, 0, 0, 0⟩, .qmov ⟨17, 0, 0, 0, 0, 0⟩,
    .qsplatH ⟨17, 0, 0, 0, 0, 0⟩, .qsplatW ⟨17, 0, 0, 0, 0, 0⟩, .qaddsH ⟨17, 0, 0, 0, 0, 0⟩, .qsubsH ⟨17, 0, 0, 0, 0, 0⟩,
    .qmulrH ⟨17, 0, 0, 0, 0, 0⟩, .qmacrH ⟨17, 0, 0, 0, 0, 0⟩, .qshrrH ⟨17, 0, 0, 0, 0, 0⟩, .qminH ⟨17, 0, 0, 0, 0, 0⟩,
    .qmaxH ⟨17, 0, 0, 0, 0, 0⟩, .qaddsW ⟨17, 0, 0, 0, 0, 0⟩, .qsubsW ⟨17, 0, 0, 0, 0, 0⟩, .qmulrW ⟨17, 0, 0, 0, 0, 0⟩,
    .qshrrW ⟨17, 0, 0, 0, 0, 0⟩, .qfadd ⟨17, 0, 0, 0, 0, 0⟩, .qfmul ⟨17, 0, 0, 0, 0, 0⟩, .qfma ⟨17, 0, 0, 0, 0, 0⟩,
    .qextH ⟨17, 0, 0, 0, 0, 0⟩, .uop 0 ⟨17, 0, 0, 0, 0, 0⟩, .uop 16 ⟨0, 0, 0, 0, 0, 0⟩] : List Instr).all (!·.wf) = true := by decide +kernel

/-- Core 16 is the quoin's (R72). -/
theorem test_accepts_core : ([
    .nop ⟨16, 0, 0, 0, 0, 0⟩, .mov ⟨16, 0, 0, 0, 0, 0⟩, .ldf ⟨16, 0, 0, 0, 0, 0⟩, .retag ⟨16, 0, 0, 0, 0, 0⟩,
    .tagof ⟨16, 0, 0, 0, 0, 0⟩, .push ⟨16, 0, 0, 0, 0, 0⟩, .pop ⟨16, 0, 0, 0, 0, 0⟩, .fst ⟨16, 0, 0, 0, 0, 0⟩,
    .add ⟨16, 0, 0, 0, 0, 0⟩, .sub ⟨16, 0, 0, 0, 0, 0⟩, .adds ⟨16, 0, 0, 0, 0, 0⟩, .subs ⟨16, 0, 0, 0, 0, 0⟩,
    .mul ⟨16, 0, 0, 0, 0, 0⟩, .mulh ⟨16, 0, 0, 0, 0, 0⟩, .divs ⟨16, 0, 0, 0, 0, 0⟩, .rems ⟨16, 0, 0, 0, 0, 0⟩,
    .and ⟨16, 0, 0, 0, 0, 0⟩, .or ⟨16, 0, 0, 0, 0, 0⟩, .xor ⟨16, 0, 0, 0, 0, 0⟩, .andn ⟨16, 0, 0, 0, 0, 0⟩,
    .shl ⟨16, 0, 0, 0, 0, 0⟩, .shr ⟨16, 0, 0, 0, 0, 0⟩, .sar ⟨16, 0, 0, 0, 0, 0⟩, .min ⟨16, 0, 0, 0, 0, 0⟩,
    .max ⟨16, 0, 0, 0, 0, 0⟩, .not ⟨16, 0, 0, 0, 0, 0⟩, .neg ⟨16, 0, 0, 0, 0, 0⟩, .clz ⟨16, 0, 0, 0, 0, 0⟩,
    .popc ⟨16, 0, 0, 0, 0, 0⟩, .ceq ⟨16, 0, 0, 0, 0, 0⟩, .cne ⟨16, 0, 0, 0, 0, 0⟩, .clt ⟨16, 0, 0, 0, 0, 0⟩,
    .cle ⟨16, 0, 0, 0, 0, 0⟩, .cltu ⟨16, 0, 0, 0, 0, 0⟩, .cleu ⟨16, 0, 0, 0, 0, 0⟩, .fadd ⟨16, 0, 0, 0, 0, 0⟩,
    .fsub ⟨16, 0, 0, 0, 0, 0⟩, .fmul ⟨16, 0, 0, 0, 0, 0⟩, .fma ⟨16, 0, 0, 0, 0, 0⟩, .fmin ⟨16, 0, 0, 0, 0, 0⟩,
    .fmax ⟨16, 0, 0, 0, 0, 0⟩, .fceq ⟨16, 0, 0, 0, 0, 0⟩, .fclt ⟨16, 0, 0, 0, 0, 0⟩, .fcle ⟨16, 0, 0, 0, 0, 0⟩,
    .cvtif ⟨16, 0, 0, 0, 0, 0⟩, .cvtfi ⟨16, 0, 0, 0, 0, 0⟩, .fabs ⟨16, 0, 0, 0, 0, 0⟩, .fneg ⟨16, 0, 0, 0, 0, 0⟩,
    .br ⟨16, 0, 0, 0, 0, 0⟩, .bt ⟨16, 0, 0, 0, 0, 0⟩, .bf ⟨16, 0, 0, 0, 0, 0⟩, .call ⟨16, 0, 0, 0, 0, 0⟩,
    .ret ⟨16, 0, 0, 0, 0, 0⟩, .reti ⟨16, 0, 0, 0, 0, 0⟩, .dbnz ⟨16, 0, 0, 0, 0, 0⟩, .iflush ⟨16, 0, 0, 0, 0, 0⟩,
    .bmove 65536 ⟨16, 0, 0, 0, 0, 0⟩, .bfill 65536 ⟨16, 0, 0, 0, 0, 0⟩, .bcmp 65536 ⟨16, 0, 0, 0, 0, 0⟩,
    .bseek 65536 ⟨16, 0, 0, 0, 0, 0⟩, .waite ⟨16, 0, 0, 0, 0, 0⟩, .waitet ⟨16, 0, 0, 0, 0, 0⟩, .pulse ⟨16, 0, 0, 0, 0, 0⟩,
    .waitt ⟨16, 0, 0, 0, 0, 0⟩, .rdtime ⟨16, 0, 0, 0, 0, 0⟩, .step ⟨16, 0, 0, 0, 0, 0⟩, .ststat ⟨16, 0, 0, 0, 0, 0⟩,
    .fence ⟨16, 0, 0, 0, 0, 0⟩, .mfsr ⟨16, 0, 0, 0, 0, 0⟩, .mtsr ⟨16, 0, 0, 0, 0, 0⟩, .trap ⟨16, 0, 0, 0, 0, 0⟩,
    .qld ⟨16, 0, 0, 0, 0, 0⟩, .qst ⟨16, 0, 0, 0, 0, 0⟩, .qldff ⟨16, 0, 0, 0, 0, 0⟩, .qmov ⟨16, 0, 0, 0, 0, 0⟩,
    .qsplatH ⟨16, 0, 0, 0, 0, 0⟩, .qsplatW ⟨16, 0, 0, 0, 0, 0⟩, .qaddsH ⟨16, 0, 0, 0, 0, 0⟩, .qsubsH ⟨16, 0, 0, 0, 0, 0⟩,
    .qmulrH ⟨16, 0, 0, 0, 0, 0⟩, .qmacrH ⟨16, 0, 0, 0, 0, 0⟩, .qshrrH ⟨16, 0, 0, 0, 0, 0⟩, .qminH ⟨16, 0, 0, 0, 0, 0⟩,
    .qmaxH ⟨16, 0, 0, 0, 0, 0⟩, .qaddsW ⟨16, 0, 0, 0, 0, 0⟩, .qsubsW ⟨16, 0, 0, 0, 0, 0⟩, .qmulrW ⟨16, 0, 0, 0, 0, 0⟩,
    .qshrrW ⟨16, 0, 0, 0, 0, 0⟩, .qfadd ⟨16, 0, 0, 0, 0, 0⟩, .qfmul ⟨16, 0, 0, 0, 0, 0⟩, .qfma ⟨16, 0, 0, 0, 0, 0⟩,
    .qextH ⟨16, 0, 0, 0, 0, 0⟩, .uop 15 ⟨16, 0, 0, 0, 0, 0⟩] : List Instr).all (·.wf) = true := by decide +kernel

/-- Ill-formed commands, from waiteWake to modeApply. -/
theorem test_refuses_from_waiteWake : ([
    .waiteWake 17, .waitetWake 17, .waittWake 17, .stepStallRelease 17, .seqFetch 17 0, .storeBufferDrain 17 0,
    .interruptEntry 17, .seqHaltReq (.tile 16) 0 0, .seqHaltReq .host 16 0, .stepStart 16 false, .stepRetire 16 false,
    .stepComplete 16 false, .deadlinePass 16 false false, .listEntryPass 16 false, .engineCmdIssue 16 1, .engineCmdIssue 0 6,
    .engineCmdIssue 0 0, .bankPwrReqWrite (.tile 16) 0 0, .bankPwrReqWrite .host 16 0, .bankWakeDone 16 0, .bankWakeDone 0 16,
    .bankDrainDone 16 0, .bankDrainDone 0 16, .tsPerrInjArm (.tile 16) 0 0, .tsPerrInjArm .host 16 0, .tsCntClr (.tile 16) 0 0,
    .tsCntClr .host 16 0, .hostTsWrite 16 0 ⟨[], false, false⟩ 0, .hostTsWrite 0 0x400000 ⟨[0], false, false⟩ 0,
    .hostTsRead 16 0 0 ⟨0, false⟩, .hostTsRead 0 0x400000 1 ⟨0, false⟩, .hostLramWrite 16 false 0 ⟨[], false, false⟩,
    .hostLramWrite 0 true 0x8000 ⟨[0], false, false⟩, .hostLramWrite 0 false 0x20000 ⟨[0], false, false⟩,
    .hostLramRead 16 false 0 ⟨0, false⟩, .hostLramRead 0 true 0x8000 ⟨1, false⟩, .hostLramRead 0 false 0x20000 ⟨1, false⟩,
    .hostVpramWrite 16 0 ⟨[], false, false⟩, .hostVpramWrite 0 0x10000 ⟨[0], false, false⟩, .vecBundleIssue 16 free,
    .vecResultLand 16, .vecSwitchIn 16, .vecSwitchOut 16, .matmulCmd 16, .sumwCmd 16, .weightRowLoad 16 free,
    .arrayVectorStream 16 free false, .accLand 16, .scaleBlockArrive 16, .drainCmd 16, .drainRowRead 16 free,
    .drainCourseWrite 16 free, .windowCmd 16, .diag8LoadPhase 16 free, .sceCmd 16, .sceLoadPhase 16 free,
    .sceStreamTap 16 free false, .sceResultLand 16, .msend 16 free, .hodDeclare 16, .hodSend 16 free, .hodBroadcast 16,
    .broadcastRead 16 0 false, .broadcastRetire 16, .hodTgtDeclareWrite (.tile 16) 0 0, .hodTgtDeclareWrite .host 64 0,
    .hodTgtFreeWrite (.tile 16) 0 0, .hodTgtFreeWrite .host 64 0, .hodGrant 4 false, .hodFold 64 0 0 false,
    .hodFold 0 16384 0 false, .morCommit (.tile 16) 0, .modeApply 16] : List Instr).all (!·.wf) = true := by decide +kernel

/-- Well-formed commands at their limits, from waiteWake to modeApply. -/
theorem test_accepts_from_waiteWake : ([
    .waiteWake 16, .waitetWake 16, .waittWake 16, .stepStallRelease 16, .seqFetch 16 0, .storeBufferDrain 16 0,
    .interruptEntry 16, .seqHaltReq (.tile 15) 15 0, .stepStart 15 false, .stepRetire 15 false, .stepComplete 15 false,
    .deadlinePass 15 false false, .listEntryPass 15 false, .engineCmdIssue 15 5, .bankPwrReqWrite (.tile 15) 15 0,
    .bankWakeDone 15 15, .bankDrainDone 15 15, .tsPerrInjArm (.tile 15) 15 0, .tsCntClr (.tile 15) 15 0,
    .hostTsWrite 15 0x3ffffc ⟨[0, 0, 0, 0], false, false⟩ 0, .hostTsRead 15 0x3ffffc 4 ⟨0, false⟩,
    .hostLramWrite 15 false 0x1fffc ⟨[0, 0, 0, 0], false, false⟩, .hostLramRead 15 false 0x1fffc ⟨4, false⟩,
    .hostVpramWrite 15 0xfffc ⟨[0, 0, 0, 0], false, false⟩, .vecBundleIssue 15 free, .vecResultLand 15, .vecSwitchIn 15,
    .vecSwitchOut 15, .matmulCmd 15, .sumwCmd 15, .weightRowLoad 15 free, .arrayVectorStream 15 free false, .accLand 15,
    .scaleBlockArrive 15, .drainCmd 15, .drainRowRead 15 free, .drainCourseWrite 15 free, .windowCmd 15,
    .diag8LoadPhase 15 free, .sceCmd 15, .sceLoadPhase 15 free, .sceStreamTap 15 free false, .sceResultLand 15, .msend 15 free,
    .mortarCourseArrive (.msend 0) ⟨0, 0⟩ false, .msendAck 0 0, .evtLatch, .hodDeclare 15, .hodSend 15 free, .hodBroadcast 15,
    .broadcastRead 15 0 false, .broadcastCourseWrite 0 ⟨false, 0⟩ false, .broadcastRetire 15,
    .hodTgtDeclareWrite (.tile 15) 63 0, .hodTgtFreeWrite (.tile 15) 63 0, .hodGrant 3 false, .hodRejectNotice,
    .hodApply 0 false ⟨0, false⟩, .hodFold 63 16383 0 false, .morCommit (.tile 15) 0, .modeCommitDeliver, .modeApply 15] : List Instr).all (·.wf) = true := by decide +kernel

/-- Ill-formed commands, from modeReport to slotTick. -/
theorem test_refuses_from_modeReport : ([
    .modeReport 16, .streamDeclare 16 false, .streamRelease 16 false, .streamInval 16 false, .streamRequest ⟨64, .clean⟩,
    .streamRequest ⟨0, .tagUe 16⟩, .streamLineDeliver 64 0 ⟨0, 0, 0, false⟩, .scInvalGo (.tile 16) 0, .scInvalAll (.tile 16) 0,
    .scSlicePwrReqWrite (.tile 16) 0, .sliceWakeDone 16, .sliceDrainDone 16, .scFenceWrite (.tile 16) 0, .scCntClr (.tile 16) 0,
    .ddrRequestServe 8 0 ⟨0, 0, false, false, 0⟩, .ddrClassPromote 8 0, .ddrRefresh 8 0, .ddrRefresh 0 64, .ddrSrEnter 8,
    .ddrSrExitDone 8, .ddrSrReqWrite (.tile 16) 0 0, .ddrSrReqWrite .host 8 0, .ddrCntClr (.tile 16) 0 0, .ddrCntClr .host 8 0,
    .ringInit (.tile 16) ⟨0, ⟨0, 0, false, false, 0⟩⟩, .ringInit .host ⟨32768, ⟨0, 0, false, false, 0⟩⟩, .ringStop (.tile 16) 0,
    .ringStop .host 32768, .ringResume (.tile 16) ⟨0, ⟨0, 0, false, false, 0⟩⟩,
    .ringResume .host ⟨32768, ⟨0, 0, false, false, 0⟩⟩, .ringOff (.tile 16) 0, .ringOff .host 32768, .ringFlush (.tile 16) 0,
    .ringFlush .host 32768, .doorbellWrite ⟨32768, ⟨0, 0, false, false, 0⟩⟩ none none false, .take 16 false,
    .doorbell ⟨16, false⟩ ⟨0, 0, false, false, 0⟩, .descFetch 0 .error (.tagCe 16) ⟨0, 0, false, false, 0⟩,
    .descFetch 0 .error (.tagUe 16) ⟨0, 0, false, false, 0⟩, .descFetch 64 .error .clean ⟨0, 0, false, false, 0⟩,
    .dmaUnitTransfer 0 .error (.tagCe 16) ⟨0, 0, false, false, 0⟩ 0 false ⟨0, 0, 0, false⟩,
    .dmaUnitTransfer 0 .error (.tagUe 16) ⟨0, 0, false, false, 0⟩ 0 false ⟨0, 0, 0, false⟩,
    .dmaUnitTransfer 64 .error .clean ⟨0, 0, false, false, 0⟩ 0 false ⟨0, 0, 0, false⟩, .dmaPaceResume 64, .descComplete 64,
    .cqRecordWrite 64 0, .cqEnable (.tile 16) 0 0, .cqEnable .host 1024 0, .cqHeadWrite (.tile 16) 0 0,
    .cqHeadWrite .host 1024 0, .dmaFifoCfgWrite (.tile 16) 0 0, .dmaFifoCfgWrite .host 136 0, .dmaFifoTakeWrite (.tile 16) 0 0,
    .dmaFifoTakeWrite .host 136 0, .channelDisable (.tile 16) 0, .channelDisable .host 64, .dmaCntClr (.tile 16) 0,
    .hostRegWrite (.tile 16) 0 (.read 4) ⟨false, false⟩, .hostRegWrite .host 0 (.write []) ⟨false, false⟩,
    .hostRegWrite .host 0xFFFFFFD (.write [0, 0, 0, 0]) ⟨false, false⟩, .hostRegWrite .host 0xFFFFFFD (.read 4) ⟨false, false⟩,
    .hostRegWrite .host 0x3FFFD (.bellRead 4) ⟨false, false⟩, .hbCtrlWrite (.tile 16) 0, .devCntClr (.tile 16) 0,
    .post 16 false 0, .resAckWrite (.tile 16) 0 0, .resAckWrite .host 256 0, .resCntClr (.tile 16) 0, .msixSend 64,
    .slotSyncEdge 3, .timeCtrlWrite (.tile 16) 0, .timeCntClr (.tile 16) 0] : List Instr).all (!·.wf) = true := by decide +kernel

/-- Well-formed commands at their limits, from modeReport to slotTick. -/
theorem test_accepts_from_modeReport : ([
    .modeReport 15, .mixedClearSeen, .streamDeclare 15 false, .streamRelease 15 false, .streamInval 15 false,
    .streamRequest ⟨63, .tagUe 15⟩, .streamLineDeliver 63 0 ⟨0, 0, 0, false⟩, .scInvalGo (.tile 15) 0, .scInvalAll (.tile 15) 0,
    .scInvalDone, .scSlicePwrReqWrite (.tile 15) 0, .sliceWakeDone 15, .sliceDrainDone 15, .scFenceWrite (.tile 15) 0,
    .scCntClr (.tile 15) 0, .ddrRequestServe 7 0 ⟨0, 0, false, false, 0⟩, .ddrClassPromote 7 0, .ddrRefresh 7 63, .ddrSrEnter 7,
    .ddrSrExitDone 7, .ddrSrReqWrite (.tile 15) 7 0, .ddrCntClr (.tile 15) 7 0,
    .ringInit (.tile 15) ⟨32767, ⟨0, 0, false, false, 0⟩⟩, .ringStop (.tile 15) 32767,
    .ringResume (.tile 15) ⟨32767, ⟨0, 0, false, false, 0⟩⟩, .ringOff (.tile 15) 32767, .ringFlush (.tile 15) 32767,
    .doorbellWrite ⟨32767, ⟨0, 0, false, false, 0⟩⟩ none none false, .take 15 false,
    .doorbell ⟨15, false⟩ ⟨0, 0, false, false, 0⟩, .descFetch 63 .error (.tagUe 15) ⟨0, 0, false, false, 0⟩,
    .dmaUnitTransfer 63 .error (.tagUe 15) ⟨0, 0, false, false, 0⟩ 0 false ⟨0, 0, 0, false⟩, .dmaPaceResume 63,
    .descComplete 63, .cqRecordWrite 63 0, .cqEnable (.tile 15) 1023 0, .cqHeadWrite (.tile 15) 1023 0,
    .dmaFifoCfgWrite (.tile 15) 135 0, .dmaFifoTakeWrite (.tile 15) 135 0, .channelDisable (.tile 15) 63,
    .dmaCntClr (.tile 15) 0, .hostBar2Write 0 [] false, .hostBar2Read 0 0 [],
    .hostRegWrite (.tile 15) 0x3FFFC (.bellRead 4) ⟨false, false⟩, .flr, .linkDown, .perstAssert, .perstRelease, .pcieL1Enter,
    .heartbeatDue false, .hbCtrlWrite (.tile 15) 0, .devCntClr (.tile 15) 0, .post 15 false 0, .resAckWrite (.tile 15) 255 0,
    .resCntClr (.tile 15) 0, .msixSend 63, .timeTick, .timeHoldEnd, .slotSyncEdge 2, .timeCtrlWrite (.tile 15) 0,
    .timeCntClr (.tile 15) 0, .slotTick] : List Instr).all (·.wf) = true := by decide +kernel

/-- Ill-formed commands, from alarmFire to wingbeatPeriodEnd. -/
theorem test_refuses_from_alarmFire : ([
    .alarmFire 4, .evtInEdge 4 false false, .evtOutEdge 4, .evtOutWidthEnd 4, .evtOutCfgWrite (.tile 16) 0 0,
    .evtOutCfgWrite .host 4 0, .evtPulseWrite (.tile 16) 0, .icPendSet (.tile 16) 0 0, .icPendSet .host 16 0,
    .icPendClr (.tile 16) 0 0, .icPendClr .host 16 0, .icMaskSet (.tile 16) false 0 0, .icMaskSet .host false 16 0,
    .icMaskClr (.tile 16) false 0 0, .icMaskClr .host false 16 0, .icTpendSet (.tile 16) 0 0, .icTpendSet .host 16 0,
    .icTpendClr (.tile 16) 0 0, .icTpendClr .host 16 0, .icTmaskSet (.tile 16) 0 0, .icTmaskSet .host 16 0,
    .icTmaskClr (.tile 16) 0 0, .icTmaskClr .host 16 0, .icLevelWrite (.tile 16) (.quoin 0) 0,
    .icLevelWrite .host (.quoin 16) 0, .icLevelWrite .host (.tile 16) 0, .icLevelWrite .host (.tileLow 16) 0,
    .icLevelWrite .host (.tileHigh 16) 0, .icRouteWrite (.tile 16) 0 0, .icRouteWrite .host 512 0, .clkRevert (.tile 16) 0,
    .xtalEnWrite (.tile 16) 0, .dvfsRequest (.tile 16) 0, .tilePark 16, .clkEnSet (.tile 16) 0, .clkEnClr (.tile 16) 0,
    .gateApply 29, .clkOutCfgWrite (.tile 16) 0, .clkCntClr (.tile 16) 0, .chainLoopStart (.tile 16) 0,
    .chainMsgTxWrite (.tile 16) none none, .chainMsgPopWrite (.tile 16) 0, .chainCntClr (.tile 16) 0,
    .bondMwrRx 64 0 0 0 false ⟨0, false⟩, .bondStateRx 0 1024 0 false] : List Instr).all (!·.wf) = true := by decide +kernel

/-- Well-formed commands at their limits, from alarmFire to wingbeatPeriodEnd. -/
theorem test_accepts_from_alarmFire : ([
    .alarmFire 3, .evtInEdge 3 false false, .evtOutEdge 3, .evtOutWidthEnd 3, .evtOutCfgWrite (.tile 15) 3 0,
    .evtPulseWrite (.tile 15) 0, .icPendSet (.tile 15) 15 0, .icPendClr (.tile 15) 15 0, .icMaskSet (.tile 15) false 15 0,
    .icMaskClr (.tile 15) false 15 0, .icTpendSet (.tile 15) 15 0, .icTpendClr (.tile 15) 15 0, .icTmaskSet (.tile 15) 15 0,
    .icTmaskClr (.tile 15) 15 0, .icLevelWrite (.tile 15) (.tileLow 15) 0, .icRouteWrite (.tile 15) 511 0,
    .clkWindowEnd false 0, .clkStopDetect false, .xtalAmplitudeDone, .xtalAmplitudeLoss, .pllReacquireDone, .safeHoldRestart 0,
    .clkRevert (.tile 15) 0, .xtalEnWrite (.tile 15) 0, .dvfsRequest (.tile 15) 0, .avsAck, .avsSettleDone, .avsTimeout,
    .tilePark 15, .dividerStep, .clkEnSet (.tile 15) 0, .clkEnClr (.tile 15) 0, .gateApply 28, .clkOutCfgWrite (.tile 15) 0,
    .clkCntClr (.tile 15) 0, .chainAssignRx 0 ⟨false, false, false⟩, .chainLoopRx ⟨0, 0⟩, .chainSlotRx 0, .chainWingbeatRx 0,
    .chainMsgFrameRx 0, .chainFrameTx, .chainAssignRepeat, .chainAssignTimeout, .chainSlotSend, .chainSlotIdle,
    .chainSlotTimeout, .chainLoopStart (.tile 15) 0, .chainMsgTxWrite (.tile 15) none none, .chainMsgPopWrite (.tile 15) 0,
    .chainCntClr (.tile 15) 0, .bondFrameTx none, .bondMwrRx 63 0 0 0 false ⟨0, false⟩, .bondAckRx 0 false, .bondNakRx 0 false,
    .bondLinkTrained false, .bondWingbeatRx 0 0 false, .bondStateRx 0 1023 0 false, .bondCtxRx 0 0 0 false,
    .bondRelinquishRx 0 false, .bondTakeoverRx 0 0 false, .wingbeatSend, .wingbeatPeriodEnd] : List Instr).all (·.wf) = true := by decide +kernel

/-- Ill-formed commands, from promote to chainBadFrameRx. -/
theorem test_refuses_from_promote : ([
    .promote (.tile 16), .relinquish (.tile 16), .resync (.tile 16), .bondMwinWrite (.tile 16) 0 false none none,
    .bondMwinWrite .host 64 false none none, .bondCntClr (.tile 16) 0, .load (.tile 16), .endObject (.tile 16),
    .endLoad (.tile 16), .decodeStatus (.tile 16), .getPubkey (.tile 16), .attest (.tile 16), .enrol (.tile 16) false,
    .run (.tile 16), .calTaskDue (.gap 8), .calGapStart 8, .calGapEnd 8, .calTaskEnd (.gap 8 false false false), .calOverdue 8,
    .calStealStart 8, .calGapWrite (.tile 16) 0 none none, .calGapWrite .host 8 none none, .calCntClr (.tile 16) 0,
    .fenceTile (.command (.tile 16)) ⟨0, none⟩, .fenceTile .hardware ⟨16, none⟩, .fenceTile .hardware ⟨0, some 16⟩,
    .unfenceTile (.tile 16) 0, .unfenceTile .host 16, .releaseTile (.tile 16) 0, .releaseTile .host 16,
    .fenceSlice (.tile 16) 0, .fenceSlice .host 16, .unfenceSlice (.tile 16) 0, .unfenceSlice .host 16, .devFault (.tile 16),
    .kick (.tile 16), .devFltCntClr (.tile 16) 0, .vecCntClr (.tile 16) 0 0, .vecCntClr .host 16 0, .arrCntClr (.tile 16) 0 0,
    .arrCntClr .host 16 0, .drnCntClr (.tile 16) 0 0, .drnCntClr .host 16 0, .sceCntClr (.tile 16) 0 0, .sceCntClr .host 16 0,
    .morCntClr (.tile 16) 0, .hodCntClr (.tile 16) 0, .stepCntClr (.tile 16) 0 0, .stepCntClr .host 16 0, .completionTimeout 64] : List Instr).all (!·.wf) = true := by decide +kernel

/-- Well-formed commands at their limits, from promote to chainBadFrameRx. -/
theorem test_accepts_from_promote : ([
    .promote (.tile 15), .relinquish (.tile 15), .relinquishComplete, .resync (.tile 15),
    .bondMwinWrite (.tile 15) 63 false none none, .bondCntClr (.tile 15) 0, .resetAssert false false,
    .resetRelease ⟨0, false⟩ false, .larvaStart false, .pllLockDone false, .pllLockTimeout, .certVerify false,
    .imageVerify false, .ddrTrainDone, .ddrTrainTimeout, .chrysalisEnter, .load (.tile 15), .endObject (.tile 15),
    .endLoad (.tile 15), .decodeStatus (.tile 15), .getPubkey (.tile 15), .attest (.tile 15), .enrol (.tile 15) false,
    .run (.tile 15), .mailboxComplete, .calTaskDue (.gap 7), .calGapStart 7, .calGapEnd 7,
    .calTaskEnd (.gap 7 false false false), .calOverdue 7, .calStealStart 7, .calStealEnd, .calGapWrite (.tile 15) 7 none none,
    .calCntClr (.tile 15) 0, .fenceTile (.command (.tile 15)) ⟨15, some 14⟩, .unfenceTile (.tile 15) 15,
    .releaseTile (.tile 15) 15, .fenceSlice (.tile 15) 15, .unfenceSlice (.tile 15) 15, .devFault (.tile 15), .kick (.tile 15),
    .quoinWdogExpire, .pcieLinkTimeout, .ueWindowStart, .devFltCntClr (.tile 15) 0, .vecCntClr (.tile 15) 15 0,
    .arrCntClr (.tile 15) 15 0, .drnCntClr (.tile 15) 15 0, .sceCntClr (.tile 15) 15 0, .morCntClr (.tile 15) 0,
    .hodCntClr (.tile 15) 0, .stepCntClr (.tile 15) 15 0, .thermalTrip, .pcieLinkUp 0 0 false, .bondLinkDown,
    .completionTimeout 63, .pcieConfigWrite (.aspm false) false, .clkSourceEdgesReturn false, .chainBadFrameRx 0] : List Instr).all (·.wf) = true := by decide +kernel

/-! ### A witness for the hypotheses of every statement -/
/-- Two integer sources: each row runs on INT 7. -/
theorem witness_RowCompletes_int : ∀ p ∈ Claims.intRows, ∃ (o : SeqOps) (s0 s s1 s2 s3 : State) (x : Args) (vb vc : SVal) (tg :
    Option (BitVec 4)),
    Claims.Ready p.opc o s0 s ∧ Claims.Placed p.ka p.kb p.kc o s x ∧ loadOpd o.core 1 x.b s = .ok s1 vb
      ∧ loadOpd o.core 2 x.c s1 = .ok s2 vc ∧ dataTag (p.rule x) p.dflt p.two x vb vc = .ok tg
      ∧ storeTagOk x.a tg = .ok ()
      ∧ (p.div = true → vc.nat x.width ≠ 0) ∧ vb.perr = none ∧ vc.perr = none
      ∧ storeOpd o.core x.a tg (p.val x (tg.getD p.dflt) vb vc) (p.bits x vb) (p.wd x vb) s2 = .ok s3 () := by
  intro p hp
  refine ⟨ops (opG 1) (opG 2) (opG 3), seqUp p.opc (opG 1) (opG 2) (opG 3) (gAll tagInt 7), ?_⟩
  fin_cases hp <;> exact ⟨_, _, _, _, ⟨0, .g 1, .g 2, .g 3⟩, _, _, _, ⟨by decide, rfl, _, _, rfl, by decide, by decide, by
    decide⟩, ⟨rfl, _, _, _, rfl, rfl, rfl, rfl, rfl, rfl⟩, rfl, rfl, rfl, rfl, by decide, rfl, rfl, rfl⟩

/-- The comparisons likewise. -/
theorem witness_RowCompletes_cmp : ∀ p ∈ Claims.cmpRows, ∃ (o : SeqOps) (s0 s s1 s2 s3 : State) (x : Args) (vb vc : SVal) (tg :
    Option (BitVec 4)),
    Claims.Ready p.opc o s0 s ∧ Claims.Placed p.ka p.kb p.kc o s x ∧ loadOpd o.core 1 x.b s = .ok s1 vb
      ∧ loadOpd o.core 2 x.c s1 = .ok s2 vc ∧ dataTag (p.rule x) p.dflt p.two x vb vc = .ok tg
      ∧ storeTagOk x.a tg = .ok ()
      ∧ (p.div = true → vc.nat x.width ≠ 0) ∧ vb.perr = none ∧ vc.perr = none
      ∧ storeOpd o.core x.a tg (p.val x (tg.getD p.dflt) vb vc) (p.bits x vb) (p.wd x vb) s2 = .ok s3 () := by
  intro p hp
  refine ⟨ops (opG 1) (opG 2) (opG 3), seqUp p.opc (opG 1) (opG 2) (opG 3) (gAll tagInt 7), ?_⟩
  fin_cases hp <;> exact ⟨_, _, _, _, ⟨0, .g 1, .g 2, .g 3⟩, _, _, _, ⟨by decide, rfl, _, _, rfl, by decide, by decide, by
    decide⟩, ⟨rfl, _, _, _, rfl, rfl, rfl, rfl, rfl, rfl⟩, rfl, rfl, rfl, rfl, by decide, rfl, rfl, rfl⟩

/-- One source. -/
theorem witness_RowCompletes_one : ∀ p ∈ Claims.oneRows, ∃ (o : SeqOps) (s0 s s1 s2 s3 : State) (x : Args) (vb vc : SVal) (tg :
    Option (BitVec 4)),
    Claims.Ready p.opc o s0 s ∧ Claims.Placed p.ka p.kb p.kc o s x ∧ loadOpd o.core 1 x.b s = .ok s1 vb
      ∧ loadOpd o.core 2 x.c s1 = .ok s2 vc ∧ dataTag (p.rule x) p.dflt p.two x vb vc = .ok tg
      ∧ storeTagOk x.a tg = .ok ()
      ∧ (p.div = true → vc.nat x.width ≠ 0) ∧ vb.perr = none ∧ vc.perr = none
      ∧ storeOpd o.core x.a tg (p.val x (tg.getD p.dflt) vb vc) (p.bits x vb) (p.wd x vb) s2 = .ok s3 () := by
  intro p hp
  refine ⟨ops (opG 1) (opG 2) 0, seqUp p.opc (opG 1) (opG 2) 0 (gAll tagInt 7), ?_⟩
  fin_cases hp <;> exact ⟨_, _, _, _, ⟨0, .g 1, .g 2, .none⟩, _, _, _, ⟨by decide, rfl, _, _, rfl, by decide, by decide, by
    decide⟩, ⟨rfl, _, _, _, rfl, rfl, rfl, rfl, rfl, rfl⟩, rfl, rfl, rfl, rfl, by decide, rfl, rfl, rfl⟩

/-- Two binary32 sources: each row runs on 1.0. -/
theorem witness_RowCompletes_f32 : ∀ p ∈ Claims.f32Rows.take 8, ∃ (o : SeqOps) (s0 s s1 s2 s3 : State) (x : Args) (vb vc : SVal)
    (tg : Option (BitVec 4)),
    Claims.Ready p.opc o s0 s ∧ Claims.Placed p.ka p.kb p.kc o s x ∧ loadOpd o.core 1 x.b s = .ok s1 vb
      ∧ loadOpd o.core 2 x.c s1 = .ok s2 vc ∧ dataTag (p.rule x) p.dflt p.two x vb vc = .ok tg
      ∧ storeTagOk x.a tg = .ok ()
      ∧ (p.div = true → vc.nat x.width ≠ 0) ∧ vb.perr = none ∧ vc.perr = none
      ∧ storeOpd o.core x.a tg (p.val x (tg.getD p.dflt) vb vc) (p.bits x vb) (p.wd x vb) s2 = .ok s3 () := by
  intro p hp
  refine ⟨ops (opG 1) (opG 2) (opG 3), seqUp p.opc (opG 1) (opG 2) (opG 3) (gAll tagF32 0x3F800000), ?_⟩
  fin_cases hp <;> exact ⟨_, _, _, _, ⟨0, .g 1, .g 2, .g 3⟩, _, _, _, ⟨by decide, rfl, _, _, rfl, by decide, by decide, by
    decide⟩, ⟨rfl, _, _, _, rfl, rfl, rfl, rfl, rfl, rfl⟩, rfl, rfl, rfl, rfl, by decide, rfl, rfl, rfl⟩

/-- One binary32 source. -/
theorem witness_RowCompletes_f32one : ∀ p ∈ Claims.f32Rows.drop 9, ∃ (o : SeqOps) (s0 s s1 s2 s3 : State) (x : Args) (vb vc :
    SVal) (tg : Option (BitVec 4)),
    Claims.Ready p.opc o s0 s ∧ Claims.Placed p.ka p.kb p.kc o s x ∧ loadOpd o.core 1 x.b s = .ok s1 vb
      ∧ loadOpd o.core 2 x.c s1 = .ok s2 vc ∧ dataTag (p.rule x) p.dflt p.two x vb vc = .ok tg
      ∧ storeTagOk x.a tg = .ok ()
      ∧ (p.div = true → vc.nat x.width ≠ 0) ∧ vb.perr = none ∧ vc.perr = none
      ∧ storeOpd o.core x.a tg (p.val x (tg.getD p.dflt) vb vc) (p.bits x vb) (p.wd x vb) s2 = .ok s3 () := by
  intro p hp
  refine ⟨ops (opG 1) (opG 2) 0, seqUp p.opc (opG 1) (opG 2) 0 (gAll tagF32 0x3F800000), ?_⟩
  fin_cases hp <;> exact ⟨_, _, _, _, ⟨0, .g 1, .g 2, .none⟩, _, _, _, ⟨by decide, rfl, _, _, rfl, by decide, by decide, by
    decide⟩, ⟨rfl, _, _, _, rfl, rfl, rfl, rfl, rfl, rfl⟩, rfl, rfl, rfl, rfl, by decide, rfl, rfl, rfl⟩

/-- CVTIF of INT 7. -/
theorem witness_RowCompletes_cvtif : ∀ p ∈ (Claims.f32Rows.drop 8).take 1, ∃ (o : SeqOps) (s0 s s1 s2 s3 : State) (x : Args) (vb
    vc : SVal) (tg : Option (BitVec 4)),
    Claims.Ready p.opc o s0 s ∧ Claims.Placed p.ka p.kb p.kc o s x ∧ loadOpd o.core 1 x.b s = .ok s1 vb
      ∧ loadOpd o.core 2 x.c s1 = .ok s2 vc ∧ dataTag (p.rule x) p.dflt p.two x vb vc = .ok tg
      ∧ storeTagOk x.a tg = .ok ()
      ∧ (p.div = true → vc.nat x.width ≠ 0) ∧ vb.perr = none ∧ vc.perr = none
      ∧ storeOpd o.core x.a tg (p.val x (tg.getD p.dflt) vb vc) (p.bits x vb) (p.wd x vb) s2 = .ok s3 () := by
  intro p hp
  refine ⟨ops (opG 1) (opG 2) 0, seqUp p.opc (opG 1) (opG 2) 0 (gAll tagInt 7), ?_⟩
  fin_cases hp <;> exact ⟨_, _, _, _, ⟨0, .g 1, .g 2, .none⟩, _, _, _, ⟨by decide, rfl, _, _, rfl, by decide, by decide, by
    decide⟩, ⟨rfl, _, _, _, rfl, rfl, rfl, rfl, rfl, rfl⟩, rfl, rfl, rfl, rfl, by decide, rfl, rfl, rfl⟩

/-- A zero divisor. -/
theorem witness_ZeroDivisorTraps : ∀ p ∈ Claims.intRows, p.div = true →
    ∃ (o : SeqOps) (s0 s s1 s2 : State) (x : Args) (vb vc : SVal) (tg : Option (BitVec 4)),
    Claims.Ready p.opc o s0 s ∧ Claims.Placed p.ka p.kb p.kc o s x ∧ loadOpd o.core 1 x.b s = .ok s1 vb
      ∧ loadOpd o.core 2 x.c s1 = .ok s2 vc ∧ dataTag (p.rule x) p.dflt p.two x vb vc = .ok tg
      ∧ storeTagOk x.a tg = .ok ()
      ∧ vc.nat x.width = 0 := by
  intro p hp _
  refine ⟨ops (opG 1) (opG 2) (opG 3), seqUp p.opc (opG 1) (opG 2) (opG 3) (gAll tagInt 0), ?_⟩
  fin_cases hp <;> exact ⟨_, _, _, ⟨0, .g 1, .g 2, .g 3⟩, _, _, _, ⟨by decide, rfl, _, _, rfl, by decide, by decide, by decide⟩,
    ⟨rfl, _, _, _, rfl, rfl, rfl, rfl, rfl, rfl⟩, rfl, rfl, rfl, rfl, rfl⟩

/-- Register operands. -/
theorem witness_IntegerRegisterForms : ∀ p ∈ Claims.intRows, ∃ (o : SeqOps) (s0 s : State) (x : Args) (a b c : Nat)
    (vb vc : BitVec 32), Claims.Ready p.opc o s0 s ∧ Claims.Placed kDst kSrc kSrc o s x ∧ x.a = .g a ∧ x.b = .g b ∧ x.c = .g c
      ∧ (s.core o.core).g b = ⟨tagInt, vb⟩ ∧ (s.core o.core).g c = ⟨tagInt, vc⟩ ∧ (p.div = true → vc ≠ 0) := by
  intro p hp
  refine ⟨ops (opG 1) (opG 2) (opG 3), seqUp p.opc (opG 1) (opG 2) (opG 3) (gAll tagInt 7), ?_⟩
  fin_cases hp <;> exact ⟨_, ⟨0, .g 1, .g 2, .g 3⟩, 1, 2, 3, 7, 7, ⟨by decide, rfl, _, _, rfl, by decide, by decide, by decide⟩,
    ⟨rfl, _, _, _, rfl, rfl, rfl, rfl, rfl, rfl⟩,
    rfl, rfl, rfl, rfl, rfl, fun _ => by decide⟩

/-- The frames of the integer instructions, on register operands. -/
theorem witness_IntegerFrames : ∀ p ∈ Claims.intRows, ∃ (o : SeqOps) (s0 s t : State) (x : Args), o.core < 16
      ∧ Claims.Ready p.opc o s0 s ∧ Claims.Placed kDst kSrc kSrc o s x ∧ (s.core o.core).stbuf = []
      ∧ (∀ sp w addr, x.a = .mem sp w addr → sp = .lram ∧ addr + 2 ^ w ≤ nearTop) ∧ (∀ i, x.a ≠ .f i)
      ∧ exec (p.ins o) s0 = .next t := by
  intro p hp
  refine ⟨ops (opG 1) (opG 2) (opG 3), seqUp p.opc (opG 1) (opG 2) (opG 3) (gAll tagInt 7), ?_⟩
  fin_cases hp <;> exact ⟨_, _, ⟨0, .g 1, .g 2, .g 3⟩, by decide, ⟨by decide, rfl, _, _, rfl, by decide, by decide, by decide⟩,
    ⟨rfl, _, _, _, rfl, rfl, rfl, rfl, rfl, rfl⟩,
    rfl, nofun, nofun, rfl⟩


theorem witness_NopOnlyAdvances_1 : ∃ (o : SeqOps) (s0 : State) (s : State) (x : Args), Claims.Ready 0x00 o s0 s ∧ Claims.Placed
    kNone kNone kNone o s x := ⟨ops 0 0 0, seqUp 0x00 0 0 0 id, _, ⟨0, .none, .none, .none⟩, ⟨by decide, rfl, _, _, rfl, by
    decide, by decide, by decide⟩, ⟨rfl, _, _, _, rfl, rfl, rfl, rfl, rfl, rfl⟩⟩

theorem witness_TaggedMovesComplete_1 : ∃ (o : SeqOps) (s0 : State) (s : State) (s1 : State) (s2 : State) (s3 : State) (s4 :
    State) (x : Args) (va : SVal) (vb : SVal) (vc : SVal) (tg : BitVec 4), Claims.Ready 0x2B o s0 s ∧ Claims.Placed kDstF kSrcF
    kSrcF o s x ∧ x.a.untagged = false ∧ loadOpd o.core 1 x.b s = .ok s1 vb ∧ loadOpd o.core 2 x.c s1 = .ok s2 vc ∧ loadOpd o.core
    0 x.a s2 = .ok s3 va ∧ Claims.F32Source o.core 1 vb ∧ Claims.F32Source o.core 2 vc ∧ Claims.F32Source o.core 0 va ∧ (tg = (if
    o.core = quoinCore ∧ tagRaw ∈ va.tags ++ vb.tags ++ vc.tags then tagRaw else tagF32)) ∧ storeTagOk x.a (some tg) = .ok () ∧
    Claims.Clean va ∧ Claims.Clean vb ∧ Claims.Clean vc ∧ storeOpd o.core x.a (some tg) (f32Out ((f32In va.val).add ((f32In
    vb.val).mul (f32In vc.val)))) 32 .free s3 = .ok s4 () := ⟨ops (opG 1) (opG 2) (opG 3), seqUp 0x2B (opG 1) (opG 2) (opG 3)
    (gAll tagF32 0x3F800000), _, _, _, _, _, ⟨0, .g 1, .g 2, .g 3⟩, _, _, _, tagF32, ⟨by decide, rfl, _, _, rfl, by decide, by
    decide, by decide⟩, ⟨rfl, _, _, _, rfl, rfl, rfl, rfl, rfl, rfl⟩, rfl, rfl, rfl, rfl, .inl rfl, .inl rfl, .inl rfl, by decide,
    rfl, rfl, rfl, rfl, rfl⟩

theorem witness_TaggedMovesComplete_2 : ∃ (o : SeqOps) (s0 : State) (s : State) (s1 : State) (s2 : State) (s3 : State) (s4 :
    State) (x : Args) (va : SVal) (vb : SVal) (vc : SVal), Claims.Ready 0x2B o s0 s ∧ Claims.Placed kDstF kSrcF kSrcF o s x ∧
    x.a.untagged = true ∧ loadOpd o.core 1 x.b s = .ok s1 vb ∧ loadOpd o.core 2 x.c s1 = .ok s2 vc ∧ loadOpd o.core 0 x.a s2 = .ok
    s3 va ∧ srcUntagged o.core 1 vb = .ok () ∧ srcUntagged o.core 2 vc = .ok () ∧ srcUntagged o.core 0 va = .ok () ∧ Claims.Clean
    va ∧ Claims.Clean vb ∧ Claims.Clean vc ∧ storeOpd o.core x.a none (f32Out ((f32In va.val).add ((f32In vb.val).mul (f32In
    vc.val)))) 32 .free s3 = .ok s4 () := ⟨ops (opF 1) (opF 2) (opF 3), seqUp 0x2B (opF 1) (opF 2) (opF 3) id, _, _, _, _, _, ⟨0,
    .f 1, .f 2, .f 3⟩, _, _, _, ⟨by decide, rfl, _, _, rfl, by decide, by decide, by decide⟩, ⟨rfl, _, _, _, rfl, rfl, rfl, rfl,
    rfl, rfl⟩, rfl, rfl, rfl, rfl, rfl, rfl, rfl, rfl, rfl, rfl, rfl⟩

theorem witness_TaggedMovesComplete_3 : ∃ (o : SeqOps) (s0 : State) (s : State) (s1 : State) (s2 : State) (x : Args) (v : SVal)
    (frm : BitVec 4) (dest : Nat), Claims.Ready 0x03 o s0 s ∧ Claims.Placed kDst kSrc kImm o s x ∧ x.c = .imm dest ∧ dest < 16 ∧
    loadOpd o.core 1 x.b s = .ok s1 v ∧ looseTag o.core 1 v = .ok frm ∧ Claims.Clean v ∧ ((v.part = true → tagBad frm = false)) ∧
    ((dest = 15 → o.core = quoinCore)) ∧ retagOk o.core (bit (s1.core o.core).ctrl 2) frm (BitVec.ofNat 4 dest) v.val = true ∧
    storeTagOk x.a (some (BitVec.ofNat 4 dest)) = .ok () ∧ storeOpd o.core x.a (some (BitVec.ofNat 4 dest)) v.val v.bits .sign s1
    = .ok s2 () := ⟨ops (opG 1) (opG 2) (opI 2), seqUp 0x03 (opG 1) (opG 2) (opI 2) (gAll tagInt 7), _, _, _, ⟨0, .g 1, .g 2, .imm
    2⟩, _, _, 2, ⟨by decide, rfl, _, _, rfl, by decide, by decide, by decide⟩, ⟨rfl, _, _, _, rfl, rfl, rfl, rfl, rfl, rfl⟩, rfl,
    by decide, rfl, rfl, rfl, by decide, by decide, rfl, rfl, rfl⟩

theorem witness_TaggedMovesComplete_4 : ∃ (o : SeqOps) (s0 : State) (s : State) (s1 : State) (s2 : State) (x : Args) (v : SVal) (t
    : BitVec 4), Claims.Ready 0x04 o s0 s ∧ Claims.Placed kDst kSrc kNone o s x ∧ loadOpd o.core 1 x.b s = .ok s1 v ∧ looseTag
    o.core 1 v = .ok t ∧ Claims.Clean v ∧ storeOpd o.core x.a (some tagInt) t.toNat 32 .sign s1 = .ok s2 () := ⟨ops (opG 1) (opG
    2) 0, seqUp 0x04 (opG 1) (opG 2) 0 (gAll tagInt 7), _, _, _, ⟨0, .g 1, .g 2, .none⟩, _, _, ⟨by decide, rfl, _, _, rfl, by
    decide, by decide, by decide⟩, ⟨rfl, _, _, _, rfl, rfl, rfl, rfl, rfl, rfl⟩, rfl, rfl, rfl, rfl⟩

theorem witness_TaggedMovesComplete_5 : ∃ (o : SeqOps) (s0 : State) (s : State) (s1 : State) (s2 : State) (x : Args) (v : SVal),
    Claims.Ready 0x07 o s0 s ∧ Claims.Placed ⟨[0, 1, 2, 3, 4], false, false, false, false⟩ ⟨[], false, true, false, false⟩ kNone o
    s x ∧ loadOpd o.core 1 x.b s = .ok s1 v ∧ storeOpd o.core x.a (some tagF32) (v.val % 2 ^ 32) 32 .free s1 = .ok s2 () := ⟨ops
    (opM 2 0 16) (opF 2) 0, seqUp 0x07 (opM 2 0 16) (opF 2) 0 id, _, _, _, ⟨0, .mem .lram 2 0x40, .f 2, .none⟩, _, ⟨by decide,
    rfl, _, _, rfl, by decide, by decide, by decide⟩, ⟨rfl, _, _, _, rfl, rfl, rfl, rfl, rfl, rfl⟩, rfl, rfl⟩

theorem witness_PushAndPopComplete_1 : ∃ (o : SeqOps) (s0 : State) (s : State) (s1 : State) (s2 : State) (x : Args) (v : SVal) (sp
    : Nat) (tb : BitVec 4) (tg : BitVec 4), Claims.Ready 0x05 o s0 s ∧ Claims.Placed kNone kSrc kNone o s x ∧ stackSlot o.core
    (s.core o.core) true = .ok sp ∧ loadOpd o.core 1 x.b s = .ok s1 v ∧ srcTag o.core 1 tagInt v = .ok tb ∧ checkPair o.core
    ruleMov v v tb tagInt = .ok tg ∧ Claims.Clean v ∧ storeMem o.core .lram 2 sp (v.val % 2 ^ 32) [tg] s1 = .ok s2 () := ⟨ops 0
    (opG 2) 0, seqUp 0x05 0 (opG 2) 0 (fun k => (gAll tagInt 7 k).setG 15 ⟨tagLaddr, 0x80⟩), _, _, _, ⟨0, .none, .g 2, .none⟩, _,
    _, _, _, ⟨by decide, rfl, _, _, rfl, by decide, by decide, by decide⟩, ⟨rfl, _, _, _, rfl, rfl, rfl, rfl, rfl, rfl⟩, rfl, rfl,
    rfl, rfl, rfl, rfl⟩

theorem witness_PushAndPopComplete_2 : ∃ (o : SeqOps) (s0 : State) (s : State) (s1 : State) (s2 : State) (x : Args) (v : SVal) (sp
    : Nat) (tb : BitVec 4), Claims.Ready 0x06 o s0 s ∧ Claims.Placed kDst kNone kNone o s x ∧ stackSlot o.core (s.core o.core)
    false = .ok sp ∧ loadMem o.core .lram 2 sp 3 s = .ok s1 v ∧ srcTag o.core 3 tagInt v = .ok tb ∧ tagBad tb = false ∧ storeTagOk
    x.a (some tb) = .ok () ∧ Claims.Clean v ∧ storeOpd o.core x.a (some tb) v.val 32 .sign s1 = .ok s2 () := ⟨ops (opG 1) 0 0,
    seqUp 0x06 (opG 1) 0 0 (fun k => (ram [⟨tagInt, 7⟩] k).setG 15 ⟨tagLaddr, 0x40⟩), _, _, _, ⟨0, .g 1, .none, .none⟩, _, _, _,
    ⟨by decide, rfl, _, _, rfl, by decide, by decide, by decide⟩, ⟨rfl, _, _, _, rfl, rfl, rfl, rfl, rfl, rfl⟩, rfl, rfl, rfl,
    rfl, rfl, rfl, rfl⟩

theorem witness_BranchesComplete_1 : ∃ (o : SeqOps) (s0 : State) (s : State) (s1 : State) (x : Args) (v : SVal), Claims.Ready 0x38
    o s0 s ∧ Claims.Placed kNone kSrc kNone o s x ∧ loadOpd o.core 1 x.b s = .ok s1 v ∧ Claims.GoodTarget o x v := ⟨ops 0 (opG 1)
    0, seqUp 0x38 0 (opG 1) 0 (gAll tagLaddr 0x2000), _, _, ⟨0, .none, .g 1, .none⟩, _, ⟨by decide, rfl, _, _, rfl, by decide, by
    decide, by decide⟩, ⟨rfl, _, _, _, rfl, rfl, rfl, rfl, rfl, rfl⟩, rfl, ⟨rfl, rfl, rfl⟩⟩

theorem witness_BranchesComplete_2 : ∃ (want : Nat) (i : Instr) (o : SeqOps) (s0 : State) (s : State) (s1 : State) (s2 : State) (x
    : Args) (v : SVal) (cv : SVal), ((want = 1 ∧ i = .bt o ∧ Claims.Ready 0x39 o s0 s) ∨ (want = 0 ∧ i = .bf o ∧ Claims.Ready 0x3A
    o s0 s)) ∧ Claims.Placed kNone kSrc kSrc o s x ∧ loadOpd o.core 1 x.b s = .ok s1 v ∧ loadOpd o.core 2 x.c s1 = .ok s2 cv ∧
    Claims.GoodTarget o x v ∧ needTag o.core 2 tagBool cv = .ok () ∧ Claims.Clean cv := ⟨1, .bt (ops 0 (opI 5) (opG 1)), ops 0
    (opI 5) (opG 1), seqUp 0x39 0 (opI 5) (opG 1) (gAll tagBool 1), _, _, _, ⟨0, .none, .imm 5, .g 1⟩, _, _, .inl ⟨rfl, rfl, ⟨by
    decide, rfl, _, _, rfl, by decide, by decide, by decide⟩⟩, ⟨rfl, _, _, _, rfl, rfl, rfl, rfl, rfl, rfl⟩, rfl, rfl, ⟨rfl, rfl,
    rfl⟩, rfl, rfl⟩

theorem witness_BranchesComplete_3 : ∃ (o : SeqOps) (s0 : State) (s : State) (s1 : State) (x : Args) (v : SVal), Claims.Ready 0x3B
    o s0 s ∧ Claims.Placed kNone kSrc kNone o s x ∧ loadOpd o.core 1 x.b s = .ok s1 v ∧ Claims.GoodTarget o x v ∧ (s1.core
    o.core).rstack.length < 32 := ⟨ops 0 (opI 5) 0, seqUp 0x3B 0 (opI 5) 0 id, _, _, ⟨0, .none, .imm 5, .none⟩, _, ⟨by decide,
    rfl, _, _, rfl, by decide, by decide, by decide⟩, ⟨rfl, _, _, _, rfl, rfl, rfl, rfl, rfl, rfl⟩, rfl, ⟨rfl, rfl, rfl⟩, by
    decide⟩

theorem witness_BranchesComplete_4 : ∃ (o : SeqOps) (s0 : State) (s : State) (s1 : State) (s2 : State) (x : Args) (v : SVal) (a :
    Nat), Claims.Ready 0x3B o s0 s ∧ Claims.Placed kNone kSrc kNone o s x ∧ loadOpd o.core 1 x.b s = .ok s1 v ∧ Claims.GoodTarget
    o x v ∧ 32 ≤ (s1.core o.core).rstack.length ∧ a = (s1.core o.core).rspBase.toNat + 4 * (s1.core o.core).spilled ∧ a < (s1.core
    o.core).rspLimit.toNat ∧ a + 4 ≤ lramTop ∧ storeMem o.core .lram 2 a ((s1.core o.core).rstack.getLastD 0).toNat [tagLaddr] s1
    = .ok s2 () := ⟨ops 0 (opI 5) 0, seqUp 0x3B 0 (opI 5) 0 (fun k =>
    { k with rstack := List.replicate 32 0x2000, rspBase := 0x1000, rspLimit := 0x2000 }), _, _, _, ⟨0, .none, .imm 5, .none⟩, _,
    _, ⟨by decide, rfl, _, _, rfl, by decide, by decide, by decide⟩, ⟨rfl, _, _, _, rfl, rfl, rfl, rfl, rfl, rfl⟩, rfl, ⟨rfl, rfl,
    rfl⟩, by decide, rfl, by decide, by decide, rfl⟩

theorem witness_BranchesComplete_5 : ∃ (o : SeqOps) (s0 : State) (s : State) (s1 : State) (x : Args) (v : SVal), Claims.Ready 0x3C
    o s0 s ∧ Claims.Placed kNone kNone kNone o s x ∧ (s.core o.core).rstack = [] ∧ (s.core o.core).spilled ≠ 0 ∧ loadMem o.core
    .lram 2 ((s.core o.core).rspBase.toNat + 4 * ((s.core o.core).spilled - 1)) 3 s = .ok s1 v ∧ v.tags = [tagLaddr] ∧ v.val % 8 =
    0 ∧ Claims.Clean v := ⟨ops 0 0 0, seqUp 0x3C 0 0 0 (fun k => (ram [⟨tagLaddr, 0x2000⟩]
    { k with rspBase := 0x40, rspLimit := 0x80, spilled := 1 })), _, _, ⟨0, .none, .none, .none⟩, _, ⟨by decide, rfl, _, _, rfl,
    by decide, by decide, by decide⟩, ⟨rfl, _, _, _, rfl, rfl, rfl, rfl, rfl, rfl⟩, rfl, by decide, rfl, rfl, rfl, rfl⟩

theorem witness_BranchesComplete_6 : ∃ (o : SeqOps) (s0 : State) (s : State) (x : Args) (r : BitVec 32) (rest : List (BitVec 32)),
    Claims.Ready 0x3C o s0 s ∧ Claims.Placed kNone kNone kNone o s x ∧ (s.core o.core).rstack = r :: rest := ⟨ops 0 0 0, seqUp
    0x3C 0 0 0 (fun k => { k with rstack := [0x2000] }), _, ⟨0, .none, .none, .none⟩, _, _, ⟨by decide, rfl, _, _, rfl, by decide,
    by decide, by decide⟩, ⟨rfl, _, _, _, rfl, rfl, rfl, rfl, rfl, rfl⟩, rfl⟩

theorem witness_BranchesComplete_7 : ∃ (o : SeqOps) (s0 : State) (s : State) (s1 : State) (s2 : State) (s3 : State) (x : Args) (v
    : SVal) (cv : SVal), Claims.Ready 0x3E o s0 s ∧ Claims.Placed kDst kSrc kNone o s x ∧ loadOpd o.core 1 x.b s = .ok s1 v ∧
    loadOpd o.core 0 x.a s1 = .ok s2 cv ∧ Claims.GoodTarget o x v ∧ needTag o.core 0 tagCount cv = .ok () ∧ Claims.Clean cv ∧
    storeOpd o.core x.a (some (cv.tags.headD tagCount)) (wrap cv.bits ((cv.val : Int) - 1)) cv.bits .sign s2 = .ok s3 () := ⟨ops
    (opG 1) (opI 5) 0, seqUp 0x3E (opG 1) (opI 5) 0 (gAll tagCount 3), _, _, _, _, ⟨0, .g 1, .imm 5, .none⟩, _, _, ⟨by decide,
    rfl, _, _, rfl, by decide, by decide, by decide⟩, ⟨rfl, _, _, _, rfl, rfl, rfl, rfl, rfl, rfl⟩, rfl, rfl, ⟨rfl, rfl, rfl⟩,
    rfl, rfl, rfl⟩

theorem witness_FlushAndFenceDrain_1 : ∃ (o : SeqOps) (s0 : State) (s : State) (s1 : State) (x : Args), Claims.Placed kNone kNone
    kNone o s x ∧ drainN o.core (s.core o.core).stbuf.length s = some s1 ∧ Claims.Ready 0x3F o s0 s := ⟨ops 0 0 0, seqUp 0x3F 0 0
    0 (fun k => { k with stbuf := [⟨false, 0x40, 4, 7, [tagInt], 7⟩] }), (seqUp 0x3F 0 0 0 (fun k =>
    { k with stbuf := [⟨false, 0x40, 4, 7, [tagInt], 7⟩] })).beginSeq 0, _, ⟨0, .none, .none, .none⟩, ⟨rfl, _, _, _, rfl, rfl,
    rfl, rfl, rfl, rfl⟩, rfl, ⟨by decide, rfl, _, _, rfl, by decide, by decide, by decide⟩⟩

theorem witness_FlushAndFenceDrain_2 : ∃ (o : SeqOps) (s0 : State) (s : State) (s1 : State) (x : Args), Claims.Placed kNone kNone
    kNone o s x ∧ drainN o.core (s.core o.core).stbuf.length s = some s1 ∧ Claims.Ready 0x4F o s0 s := ⟨ops 0 0 0, seqUp 0x4F 0 0
    0 (fun k => { k with stbuf := [⟨false, 0x40, 4, 7, [tagInt], 7⟩] }), (seqUp 0x4F 0 0 0 (fun k =>
    { k with stbuf := [⟨false, 0x40, 4, 7, [tagInt], 7⟩] })).beginSeq 0, _, ⟨0, .none, .none, .none⟩, ⟨rfl, _, _, _, rfl, rfl,
    rfl, rfl, rfl, rfl⟩, rfl, ⟨by decide, rfl, _, _, rfl, by decide, by decide, by decide⟩⟩

theorem witness_RetiReturns_1 : ∃ (o : SeqOps) (s0 : State) (s : State) (x : Args), Claims.Ready 0x3D o s0 s ∧ Claims.Placed kNone
    kNone kNone o s x ∧ o.core < 16 ∧ o.core < s.tiles.length ∧ (s.core o.core).bankLevel ≠ 0 := ⟨ops 0 0 0, seqUp 0x3D 0 0 0 (fun
    k => { k with level := 1, epcIrq := 0x20 }), _, ⟨0, .none, .none, .none⟩, ⟨by decide, rfl, _, _, rfl, by decide, by decide, by
    decide⟩, ⟨rfl, _, _, _, rfl, rfl, rfl, rfl, rfl, rfl⟩, by decide, by decide, by decide⟩

theorem witness_TrapEntersUrg_1 : ∃ (o : SeqOps) (s0 : State) (s : State) (x : Args) (b : Int), Claims.Ready 0x52 o s0 s ∧
    Claims.Placed kNone kImm kNone o s x ∧ x.b = .imm b ∧ o.core < 16 ∧ o.core < s.tiles.length := ⟨ops 0 (opI 9) 0, seqUp 0x52 0
    (opI 9) 0 id, _, ⟨0, .none, .imm 9, .none⟩, _, ⟨by decide, rfl, _, _, rfl, by decide, by decide, by decide⟩, ⟨rfl, _, _, _,
    rfl, rfl, rfl, rfl, rfl, rfl⟩, rfl, by decide, by decide⟩

theorem witness_EventsAndTimeComplete_1 : ∃ (o : SeqOps) (s0 : State) (s : State) (s1 : State) (s2 : State) (x : Args) (m : SVal)
    (n : Nat), Claims.Ready 0x48 o s0 s ∧ Claims.Placed kDst (kMem 4) kNone o s x ∧ loadOpd o.core 1 x.b s = .ok s1 m ∧ needTag
    o.core 1 tagEvent m = .ok () ∧ Claims.Clean m ∧ lowestSet 128 ((s1.core o.core).evtLatch &&& BitVec.ofNat 128 m.val).toNat =
    some n ∧ storeOpd o.core x.a (some tagInt) n 32 .sign s1 = .ok s2 () := ⟨ops (opG 1) (opM 4 0 4) 0, seqUp 0x48 (opG 1) (opM 4
    0 4) 0 (fun k => ram [⟨tagEvent, 0x20⟩, ⟨tagEvent, 0⟩, ⟨tagEvent, 0⟩, ⟨tagEvent, 0⟩, ⟨tagTime, 100⟩, ⟨tagTime, 0⟩]
    { k with evtLatch := 0x20 }), _, _, _, ⟨0, .g 1, .mem .lram 4 0x40, .none⟩, _, _, ⟨by decide, rfl, _, _, rfl, by decide, by
    decide, by decide⟩, ⟨rfl, _, _, _, rfl, rfl, rfl, rfl, rfl, rfl⟩, rfl, rfl, rfl, rfl, rfl⟩

theorem witness_EventsAndTimeComplete_2 : ∃ (o : SeqOps) (s0 : State) (s : State) (s1 : State) (s2 : State) (s3 : State) (x :
    Args) (m : SVal) (t : SVal) (n : Nat), Claims.Ready 0x49 o s0 s ∧ Claims.Placed kDst (kMem 4) ⟨[3], true, false, false, false⟩
    o s x ∧ loadOpd o.core 1 x.b s = .ok s1 m ∧ loadOpd o.core 2 x.c s1 = .ok s2 t ∧ needTag o.core 1 tagEvent m = .ok () ∧
    needTag o.core 2 tagTime t = .ok () ∧ Claims.Clean m ∧ Claims.Clean t ∧ lowestSet 128 ((s2.core o.core).evtLatch &&&
    BitVec.ofNat 128 m.val).toNat = some n ∧ storeOpd o.core x.a (some tagInt) n 32 .sign s2 = .ok s3 () := ⟨ops (opG 1) (opM 4 0
    4) (opM 3 0 10), seqUp 0x49 (opG 1) (opM 4 0 4) (opM 3 0 10) (fun k => ram [⟨tagEvent, 0x20⟩, ⟨tagEvent, 0⟩, ⟨tagEvent, 0⟩,
    ⟨tagEvent, 0⟩, ⟨tagTime, 100⟩, ⟨tagTime, 0⟩] { k with evtLatch := 0x20 }), _, _, _, _, ⟨0, .g 1, .mem .lram 4 0x40, .mem .lram
    3 0x50⟩, _, _, _, ⟨by decide, rfl, _, _, rfl, by decide, by decide, by decide⟩, ⟨rfl, _, _, _, rfl, rfl, rfl, rfl, rfl, rfl⟩,
    rfl, rfl, rfl, rfl, rfl, rfl, rfl, rfl⟩

theorem witness_EventsAndTimeComplete_3 : ∃ (o : SeqOps) (s0 : State) (s : State) (s1 : State) (s2 : State) (s3 : State) (x :
    Args) (m : SVal) (t : SVal), Claims.Ready 0x49 o s0 s ∧ Claims.Placed kDst (kMem 4) ⟨[3], true, false, false, false⟩ o s x ∧
    loadOpd o.core 1 x.b s = .ok s1 m ∧ loadOpd o.core 2 x.c s1 = .ok s2 t ∧ needTag o.core 1 tagEvent m = .ok () ∧ needTag o.core
    2 tagTime t = .ok () ∧ Claims.Clean m ∧ Claims.Clean t ∧ (s2.core o.core).evtLatch &&& BitVec.ofNat 128 m.val = 0 ∧ (timeVal
    t).toNat ≤ s2.seqTime o.core ∧ storeOpd o.core x.a (some tagInt) 255 32 .sign s2 = .ok s3 () := ⟨ops (opG 1) (opM 4 0 4) (opM
    3 0 10), seqUp 0x49 (opG 1) (opM 4 0 4) (opM 3 0 10) (fun k => ram [⟨tagEvent, 0x20⟩, ⟨tagEvent, 0⟩, ⟨tagEvent, 0⟩, ⟨tagEvent,
    0⟩, ⟨tagTime, 100⟩, ⟨tagTime, 0⟩] k), _, _, _, _, ⟨0, .g 1, .mem .lram 4 0x40, .mem .lram 3 0x50⟩, _, _, ⟨by decide, rfl, _,
    _, rfl, by decide, by decide, by decide⟩, ⟨rfl, _, _, _, rfl, rfl, rfl, rfl, rfl, rfl⟩, rfl, rfl, rfl, rfl, rfl, rfl, rfl, by
    decide, rfl⟩

theorem witness_EventsAndTimeComplete_4 : ∃ (o : SeqOps) (s0 : State) (s : State) (s1 : State) (x : Args) (m : SVal), Claims.Ready
    0x4A o s0 s ∧ Claims.Placed kNone (kMem 4) kNone o s x ∧ loadOpd o.core 1 x.b s = .ok s1 m ∧ needTag o.core 1 tagEvent m = .ok
    () ∧ Claims.Clean m := ⟨ops 0 (opM 4 0 4) 0, seqUp 0x4A 0 (opM 4 0 4) 0 (fun k => ram [⟨tagEvent, 0x20⟩, ⟨tagEvent, 0⟩,
    ⟨tagEvent, 0⟩, ⟨tagEvent, 0⟩, ⟨tagTime, 100⟩, ⟨tagTime, 0⟩] { k with evtLatch := 0x20 }), _, _, ⟨0, .none, .mem .lram 4 0x40,
    .none⟩, _, ⟨by decide, rfl, _, _, rfl, by decide, by decide, by decide⟩, ⟨rfl, _, _, _, rfl, rfl, rfl, rfl, rfl, rfl⟩, rfl,
    rfl, rfl⟩

theorem witness_EventsAndTimeComplete_5 : ∃ (core : Nat) (s : State) (l : GroupLate), (s.core core).group = some l ∧ l.pulse ≠ 0 ∧
    l.raw = none := ⟨0, up.updCore 0 fun k => { k with group := some ⟨0x1000, [], [], none, [], 1, none, none, 0, false⟩ }, _,
    rfl, by decide, rfl⟩

theorem witness_EventsAndTimeComplete_6 : ∃ (o : SeqOps) (s0 : State) (s : State) (s1 : State) (x : Args) (t : SVal), Claims.Ready
    0x4B o s0 s ∧ Claims.Placed kNone (kMem 3) kNone o s x ∧ loadOpd o.core 1 x.b s = .ok s1 t ∧ needTag o.core 1 tagTime t = .ok
    () ∧ Claims.Clean t ∧ (timeVal t).toNat ≤ s1.seqTime o.core := ⟨ops 0 (opM 3 0 10) 0, seqUp 0x4B 0 (opM 3 0 10) 0 (fun k =>
    ram [⟨tagEvent, 0x20⟩, ⟨tagEvent, 0⟩, ⟨tagEvent, 0⟩, ⟨tagEvent, 0⟩, ⟨tagTime, 100⟩, ⟨tagTime, 0⟩]
    { k with evtLatch := 0x20 }), _, _, ⟨0, .none, .mem .lram 3 0x50, .none⟩, _, ⟨by decide, rfl, _, _, rfl, by decide, by decide,
    by decide⟩, ⟨rfl, _, _, _, rfl, rfl, rfl, rfl, rfl, rfl⟩, rfl, rfl, rfl, by decide⟩

theorem witness_EventsAndTimeComplete_7 : ∃ (o : SeqOps) (s0 : State) (s : State) (s1 : State) (x : Args), Claims.Ready 0x4C o s0
    s ∧ Claims.Placed (kMem 3) kNone kNone o s x ∧ storeOpd o.core x.a (some tagTime) (s.seqTime o.core) 64 .sign s = .ok s1 () :=
    ⟨ops (opM 3 0 10) 0 0, seqUp 0x4C (opM 3 0 10) 0 0 id, _, _, ⟨0, .mem .lram 3 0x50, .none, .none⟩, ⟨by decide, rfl, _, _, rfl,
    by decide, by decide, by decide⟩, ⟨rfl, _, _, _, rfl, rfl, rfl, rfl, rfl, rfl⟩, rfl⟩

theorem witness_WaitsAndWakes_1 : ∃ (o : SeqOps) (s0 : State) (s : State) (s1 : State) (x : Args) (m : SVal), Claims.Ready 0x48 o
    s0 s ∧ Claims.Placed kDst (kMem 4) kNone o s x ∧ loadOpd o.core 1 x.b s = .ok s1 m ∧ needTag o.core 1 tagEvent m = .ok () ∧
    Claims.Clean m ∧ (s1.core o.core).evtLatch &&& BitVec.ofNat 128 m.val = 0 := ⟨ops (opG 1) (opM 4 0 4) 0, seqUp 0x48 (opG 1)
    (opM 4 0 4) 0 (fun k => ram [⟨tagEvent, 0x20⟩, ⟨tagEvent, 0⟩, ⟨tagEvent, 0⟩, ⟨tagEvent, 0⟩, ⟨tagTime, 100⟩, ⟨tagTime, 0⟩] k),
    _, _, ⟨0, .g 1, .mem .lram 4 0x40, .none⟩, _, ⟨by decide, rfl, _, _, rfl, by decide, by decide, by decide⟩, ⟨rfl, _, _, _,
    rfl, rfl, rfl, rfl, rfl, rfl⟩, rfl, rfl, rfl, rfl⟩

theorem witness_WaitsAndWakes_2 : ∃ (o : SeqOps) (s0 : State) (s : State) (s1 : State) (s2 : State) (x : Args) (m : SVal) (t :
    SVal), Claims.Ready 0x49 o s0 s ∧ Claims.Placed kDst (kMem 4) ⟨[3], true, false, false, false⟩ o s x ∧ loadOpd o.core 1 x.b s
    = .ok s1 m ∧ loadOpd o.core 2 x.c s1 = .ok s2 t ∧ needTag o.core 1 tagEvent m = .ok () ∧ needTag o.core 2 tagTime t = .ok () ∧
    Claims.Clean m ∧ Claims.Clean t ∧ (s2.core o.core).evtLatch &&& BitVec.ofNat 128 m.val = 0 ∧ s2.seqTime o.core < (timeVal
    t).toNat := ⟨ops (opG 1) (opM 4 0 4) (opM 3 0 10), seqUp 0x49 (opG 1) (opM 4 0 4) (opM 3 0 10) (fun k => ram [⟨tagEvent,
    0x20⟩, ⟨tagEvent, 0⟩, ⟨tagEvent, 0⟩, ⟨tagEvent, 0⟩, ⟨tagTime, 9000⟩, ⟨tagTime, 0⟩] k), _, _, _, ⟨0, .g 1, .mem .lram 4 0x40,
    .mem .lram 3 0x50⟩, _, _, ⟨by decide, rfl, _, _, rfl, by decide, by decide, by decide⟩, ⟨rfl, _, _, _, rfl, rfl, rfl, rfl,
    rfl, rfl⟩, rfl, rfl, rfl, rfl, rfl, rfl, rfl, by decide⟩

theorem witness_WaitsAndWakes_3 : ∃ (o : SeqOps) (s0 : State) (s : State) (s1 : State) (x : Args) (t : SVal), Claims.Ready 0x4B o
    s0 s ∧ Claims.Placed kNone (kMem 3) kNone o s x ∧ loadOpd o.core 1 x.b s = .ok s1 t ∧ needTag o.core 1 tagTime t = .ok () ∧
    Claims.Clean t ∧ s1.seqTime o.core < (timeVal t).toNat := ⟨ops 0 (opM 3 0 10) 0, seqUp 0x4B 0 (opM 3 0 10) 0 (fun k => ram
    [⟨tagEvent, 0x20⟩, ⟨tagEvent, 0⟩, ⟨tagEvent, 0⟩, ⟨tagEvent, 0⟩, ⟨tagTime, 9000⟩, ⟨tagTime, 0⟩] k), _, _, ⟨0, .none, .mem .lram
    3 0x50, .none⟩, _, ⟨by decide, rfl, _, _, rfl, by decide, by decide, by decide⟩, ⟨rfl, _, _, _, rfl, rfl, rfl, rfl, rfl, rfl⟩,
    rfl, rfl, rfl, by decide⟩

theorem witness_WaitsAndWakes_4 : ∃ (core : Nat) (s : State) (s1 : State) (s2 : State) (a : BitVec 19) (mask : BitVec 128) (d :
    Opd) (p : Place) (n : Nat), waitingFor s core = some (.event a mask) ∧ lowestSet 128 ((s.core core).evtLatch &&& mask).toNat =
    some n ∧ s1 = s.updCore core (fun c => { c with wait := none }) ∧ Opd.ofBits a = some d ∧ placeOpd core (s1.core core) 0 (some
    d) = .ok p ∧ storeOpd core p (some tagInt) n 32 .sign s1 = .ok s2 () := ⟨0, up.updCore 0 fun k =>
    { k with halted := false, wait := some (.event (opG 1) 0x20), evtLatch := 0x20 }, _, _, _, _, _, _, _, rfl, rfl, rfl, rfl,
    rfl, rfl⟩

theorem witness_WaitsAndWakes_5 : ∃ (core : Nat) (s : State) (s1 : State) (s2 : State) (a : BitVec 19) (mask : BitVec 128) (t :
    BitVec 64) (d : Opd) (p : Place) (n : Nat), waitingFor s core = some (.eventTime a mask t) ∧ lowestSet 128 ((s.core
    core).evtLatch &&& mask).toNat = some n ∧ s1 = s.updCore core (fun c => { c with wait := none }) ∧ Opd.ofBits a = some d ∧
    placeOpd core (s1.core core) 0 (some d) = .ok p ∧ storeOpd core p (some tagInt) n 32 .sign s1 = .ok s2 () := ⟨0, up.updCore 0
    fun k => { k with halted := false, wait := some (.eventTime (opG 1) 0x20 0), evtLatch := 0x20 }, _, _, _, _, _, _, _, _, rfl,
    rfl, rfl, rfl, rfl, rfl⟩

theorem witness_WaitsAndWakes_6 : ∃ (core : Nat) (s : State) (s1 : State) (s2 : State) (a : BitVec 19) (mask : BitVec 128) (t :
    BitVec 64) (d : Opd) (p : Place), waitingFor s core = some (.eventTime a mask t) ∧ (s.core core).evtLatch &&& mask = 0 ∧
    t.toNat ≤ s.seqTime core ∧ s1 = s.updCore core (fun c => { c with wait := none }) ∧ Opd.ofBits a = some d ∧ placeOpd core
    (s1.core core) 0 (some d) = .ok p ∧ storeOpd core p (some tagInt) 255 32 .sign s1 = .ok s2 () := ⟨0, up.updCore 0 fun k =>
    { k with halted := false, wait := some (.eventTime (opG 1) 0x20 0) }, _, _, _, _, _, _, _, rfl, rfl, by decide, rfl, rfl, rfl,
    rfl⟩

theorem witness_WaitsAndWakes_7 : ∃ (core : Nat) (s : State) (t : BitVec 64), waitingFor s core = some (.time t) ∧ t.toNat ≤
    s.seqTime core := ⟨0, up.updCore 0 fun k => { k with halted := false, wait := some (.time 0) }, _, rfl, by decide⟩

set_option maxRecDepth 8000 in
theorem witness_StepAndSpecialRegisters_2 : ∃ (o : SeqOps) (s0 : State) (s : State) (s1 : State) (s2 : State) (x : Args) (v :
    SVal) (d : BitVec 1024), Claims.Ready 0x4D o s0 s ∧ Claims.Placed kNone kSrc kNone o s x ∧ loadOpd o.core 1 x.b s = .ok s1 v ∧
    needTag o.core 1 tagDesc v = .ok () ∧ Claims.Clean v ∧ v.val % 2 ^ 32 % 128 = 0 ∧ v.val % 2 ^ 32 + 128 ≤ lramTop ∧ drainN
    o.core (s1.core o.core).stbuf.length s1 = some s2 ∧ (readLram s2 o.core (wordsOf (v.val % 2 ^ 32) 128)).lrBad = false ∧ d =
    BitVec.ofNat 1024 (readLram s2 o.core (wordsOf (v.val % 2 ^ 32) 128)).data := ⟨ops 0 (opG 1) 0, seqUp 0x4D 0 (opG 1) 0 (gAll
    tagDesc 0x80), _, _, _, ⟨0, .none, .g 1, .none⟩, _, _, ⟨by decide, rfl, _, _, rfl, by decide, by decide, by decide⟩, ⟨rfl, _,
    _, _, rfl, rfl, rfl, rfl, rfl, rfl⟩, rfl, rfl, rfl, rfl, by decide, rfl, rfl, rfl⟩

theorem witness_StepAndSpecialRegisters_3 : ∃ (core : Nat) (s : State) (u : Bool) (d : BitVec 1024), waitingFor s core = some
    (.step u d) ∧ (s.tile core).st.issueFree s.cycle u = true := ⟨0, up.updCore 0 fun k =>
    { k with halted := false, wait := some (.step false 0) }, false, _, rfl, rfl⟩

theorem witness_StepAndSpecialRegisters_4 : ∃ (o : SeqOps) (s0 : State) (s : State) (s1 : State) (x : Args) (u : Bool),
    Claims.Ready 0x4E o s0 s ∧ Claims.Placed kDst kImm kNone o s x ∧ x.b = .imm (if u then 1 else 0) ∧ storeOpd o.core x.a (some
    tagInt) (if u then (s.core o.core).stepStatU else (s.core o.core).stepStatN).toNat 32 .sign s = .ok s1 () := ⟨ops (opG 1) (opI
    1) 0, seqUp 0x4E (opG 1) (opI 1) 0 id, _, _, ⟨0, .g 1, .imm 1, .none⟩, true, ⟨by decide, rfl, _, _, rfl, by decide, by decide,
    by decide⟩, ⟨rfl, _, _, _, rfl, rfl, rfl, rfl, rfl, rfl⟩, rfl, rfl⟩

theorem witness_StepAndSpecialRegisters_5 : ∃ (o : SeqOps) (s0 : State) (s : State) (s1 : State) (x : Args) (off : Nat) (v :
    BitVec 64) (tg : BitVec 4), Claims.Ready 0x50 o s0 s ∧ Claims.Placed kDst kImm kNone o s x ∧ x.b = .imm off ∧
    (SeqCore.reset.readReg off).isSome = true ∧ (s.core o.core).readReg off = some (v, tg) ∧ storeOpd o.core x.a (some tg)
    (v.toNat % 2 ^ 32) 32 .sign s = .ok s1 () := ⟨ops (opG 1) (opI 8) 0, seqUp 0x50 (opG 1) (opI 8) 0 id, _, _, ⟨0, .g 1, .imm 8,
    .none⟩, 8, _, _, ⟨by decide, rfl, _, _, rfl, by decide, by decide, by decide⟩, ⟨rfl, _, _, _, rfl, rfl, rfl, rfl, rfl, rfl⟩,
    rfl, rfl, rfl, rfl⟩

theorem witness_StepAndSpecialRegisters_6 : ∃ (o : SeqOps) (s0 : State) (s : State) (s1 : State) (x : Args) (off : Nat) (v : SVal)
    (tg : BitVec 4), Claims.Ready 0x51 o s0 s ∧ Claims.Placed kNone kImm kSrc o s x ∧ x.b = .imm off ∧ (SeqCore.reset.readReg
    off).isSome = true ∧ loadOpd o.core 2 x.c s = .ok s1 v ∧ srcTag o.core 2 tagInt v = .ok tg ∧ tagBad tg = false ∧ Claims.Clean
    v := ⟨ops 0 (opI 8) (opG 1), seqUp 0x51 0 (opI 8) (opG 1) (gAll tagInt 7), _, _, ⟨0, .none, .imm 8, .g 1⟩, 8, _, _, ⟨by
    decide, rfl, _, _, rfl, by decide, by decide, by decide⟩, ⟨rfl, _, _, _, rfl, rfl, rfl, rfl, rfl, rfl⟩, rfl, rfl, rfl, rfl,
    rfl, rfl⟩

/-- The counter and the pointers of a block instruction, over three words of local RAM. -/
def blkUp (k : SeqCore) : SeqCore :=
  (((ram [⟨tagInt, 7⟩, ⟨tagInt, 8⟩, ⟨tagInt, 9⟩] k).setG 11 ⟨tagCount, 2⟩).setG 12 ⟨tagLaddr, 0x40⟩).setG 13 ⟨tagLaddr, 0x44⟩


theorem witness_BlockElementsComplete_1 : ∃ (upto : Nat) (ctl : Nat) (o : SeqOps) (s0 : State) (s : State) (s1 : State) (s2 :
    State) (x : Args) (ssp : Space) (dsp : Space) (sa : Nat) (da : Nat) (v : SVal), Claims.Ready 0x40 o s0 s ∧ Claims.Placed kImm
    kNone kNone o s x ∧ x.a = .imm ctl ∧ ctl < 16 ∧ ((ctl.testBit 2 = true → upto = 1)) ∧ ((Claims.blkStart o.core s).core o.core
    |>.g 11).tag = tagCount ∧ ((Claims.blkStart o.core s).core o.core |>.g 11).val ≠ 0 ∧ blkPtr o.core ((Claims.blkStart o.core
    s).core o.core) 12 (ctl % 4) = .ok (ssp, sa) ∧ blkPtr o.core ((Claims.blkStart o.core s).core o.core) 13 (ctl % 4) = .ok (dsp,
    da) ∧ loadMem o.core ssp (ctl % 4) sa 3 (Claims.blkStart o.core s) = .ok s1 v ∧ elemOk o.core v = .ok () ∧ Claims.Clean v ∧
    (storeMem o.core dsp (ctl % 4) da (v.val % 2 ^ (8 * 2 ^ (ctl % 4))) (if ssp = .lram ∧ dsp = .lram ∧ 2 ≤ ctl % 4 then v.tags
    else [tagInt, tagInt]) s1 = .ok s2 ()) := ⟨1, 2, ops (opI 2) 0 0, seqUp 0x40 (opI 2) 0 0 (blkUp), _, _, _, ⟨0, .imm 2, .none,
    .none⟩, _, _, _, _, _, ⟨by decide, rfl, _, _, rfl, by decide, by decide, by decide⟩, ⟨rfl, _, _, _, rfl, rfl, rfl, rfl, rfl,
    rfl⟩, rfl, by decide, by decide, rfl, by decide, rfl, rfl, rfl, rfl, rfl, rfl⟩

theorem witness_BlockElementsComplete_2 : ∃ (upto : Nat) (ctl : Nat) (o : SeqOps) (s0 : State) (s : State) (s1 : State) (s2 :
    State) (x : Args) (dsp : Space) (da : Nat) (v : SVal) (t : BitVec 4), Claims.Ready 0x41 o s0 s ∧ Claims.Placed kImm kSrc kNone
    o s x ∧ x.a = .imm ctl ∧ ctl < 16 ∧ ((ctl.testBit 2 = true → upto = 1)) ∧ ((Claims.blkStart o.core s).core o.core |>.g 11).tag
    = tagCount ∧ loadOpd o.core 1 x.b (Claims.blkStart o.core s) = .ok s1 v ∧ srcTag o.core 1 tagInt v = .ok t ∧ tagBad t = false
    ∧ Claims.Clean v ∧ (s1.core o.core |>.g 11).val ≠ 0 ∧ blkPtr o.core (s1.core o.core) 13 (ctl % 4) = .ok (dsp, da) ∧ storeOpd
    o.core (.mem dsp (ctl % 4) da) (some (if v.part then tagInt else v.tags.headD tagInt)) v.val v.bits .sign s1 = .ok s2 () :=
    ⟨1, 2, ops (opI 2) (opI 7) 0, seqUp 0x41 (opI 2) (opI 7) 0 (blkUp), _, _, _, ⟨0, .imm 2, .imm 7, .none⟩, _, _, _, _, ⟨by
    decide, rfl, _, _, rfl, by decide, by decide, by decide⟩, ⟨rfl, _, _, _, rfl, rfl, rfl, rfl, rfl, rfl⟩, rfl, by decide, by
    decide, rfl, rfl, rfl, rfl, rfl, by decide, rfl, rfl⟩

theorem witness_BlockElementsComplete_3 : ∃ (upto : Nat) (ctl : Nat) (o : SeqOps) (s0 : State) (s : State) (s1 : State) (s2 :
    State) (x : Args) (ssp : Space) (dsp : Space) (sa : Nat) (da : Nat) (v : SVal) (w : SVal), Claims.Ready 0x42 o s0 s ∧
    Claims.Placed kImm kNone kNone o s x ∧ x.a = .imm ctl ∧ ctl < 16 ∧ ((ctl.testBit 2 = true → upto = 1)) ∧ ((Claims.blkStart
    o.core s).core o.core |>.g 11).tag = tagCount ∧ ((Claims.blkStart o.core s).core o.core |>.g 11).val ≠ 0 ∧ blkPtr o.core
    ((Claims.blkStart o.core s).core o.core) 12 (ctl % 4) = .ok (ssp, sa) ∧ blkPtr o.core ((Claims.blkStart o.core s).core o.core)
    13 (ctl % 4) = .ok (dsp, da) ∧ loadMem o.core ssp (ctl % 4) sa 3 (Claims.blkStart o.core s) = .ok s1 v ∧ loadMem o.core dsp
    (ctl % 4) da 3 s1 = .ok s2 w ∧ elemOk o.core v = .ok () ∧ elemOk o.core w = .ok () ∧ Claims.Clean v ∧ Claims.Clean w := ⟨1, 2,
    ops (opI 2) 0 0, seqUp 0x42 (opI 2) 0 0 (blkUp), _, _, _, ⟨0, .imm 2, .none, .none⟩, _, _, _, _, _, _, ⟨by decide, rfl, _, _,
    rfl, by decide, by decide, by decide⟩, ⟨rfl, _, _, _, rfl, rfl, rfl, rfl, rfl, rfl⟩, rfl, by decide, by decide, rfl, by
    decide, rfl, rfl, rfl, rfl, rfl, rfl, rfl, rfl⟩

theorem witness_BlockElementsComplete_4 : ∃ (upto : Nat) (ctl : Nat) (o : SeqOps) (s0 : State) (s : State) (s1 : State) (s2 :
    State) (x : Args) (ssp : Space) (sa : Nat) (v : SVal) (w : SVal) (t : BitVec 4), Claims.Ready 0x43 o s0 s ∧ Claims.Placed kImm
    kSrc kNone o s x ∧ x.a = .imm ctl ∧ ctl < 16 ∧ ((ctl.testBit 2 = true → upto = 1)) ∧ ((Claims.blkStart o.core s).core o.core
    |>.g 11).tag = tagCount ∧ loadOpd o.core 1 x.b (Claims.blkStart o.core s) = .ok s1 v ∧ srcTag o.core 1 tagInt v = .ok t ∧
    tagBad t = false ∧ Claims.Clean v ∧ (s1.core o.core |>.g 11).val ≠ 0 ∧ blkPtr o.core (s1.core o.core) 12 (ctl % 4) = .ok (ssp,
    sa) ∧ loadMem o.core ssp (ctl % 4) sa 3 s1 = .ok s2 w ∧ elemOk o.core w = .ok () ∧ Claims.Clean w := ⟨1, 2, ops (opI 2) (opI
    7) 0, seqUp 0x43 (opI 2) (opI 7) 0 (blkUp), _, _, _, ⟨0, .imm 2, .imm 7, .none⟩, _, _, _, _, _, ⟨by decide, rfl, _, _, rfl, by
    decide, by decide, by decide⟩, ⟨rfl, _, _, _, rfl, rfl, rfl, rfl, rfl, rfl⟩, rfl, by decide, by decide, rfl, rfl, rfl, rfl,
    rfl, by decide, rfl, rfl, rfl, rfl⟩

theorem witness_BlockElementsComplete_5 : ∃ (ctl : Nat) (o : SeqOps) (s0 : State) (s : State) (x : Args), Claims.Placed kImm kNone
    kNone o s x ∧ x.a = .imm ctl ∧ ctl < 16 ∧ ((Claims.blkStart o.core s).core o.core |>.g 11).tag = tagCount ∧ ((Claims.blkStart
    o.core s).core o.core |>.g 11).val = 0 ∧ Claims.Ready 0x40 o s0 s := ⟨2, ops (opI 2) 0 0, seqUp 0x40 (opI 2) 0 0 (fun k =>
    (gAll tagInt 7 k).setG 11 ⟨tagCount, 0⟩), (seqUp 0x40 (opI 2) 0 0 (fun k => (gAll tagInt 7 k).setG 11 ⟨tagCount, 0⟩)).beginSeq
    0, ⟨0, .imm 2, .none, .none⟩, ⟨rfl, _, _, _, rfl, rfl, rfl, rfl, rfl, rfl⟩, rfl, by decide, rfl, rfl, ⟨by decide, rfl, _, _,
    rfl, by decide, by decide, by decide⟩⟩

theorem witness_BlockElementsComplete_6 : ∃ (ctl : Nat) (o : SeqOps) (s0 : State) (s : State) (x : Args), Claims.Placed kImm kNone
    kNone o s x ∧ x.a = .imm ctl ∧ ctl < 16 ∧ ((Claims.blkStart o.core s).core o.core |>.g 11).tag = tagCount ∧ ((Claims.blkStart
    o.core s).core o.core |>.g 11).val = 0 ∧ Claims.Ready 0x42 o s0 s := ⟨2, ops (opI 2) 0 0, seqUp 0x42 (opI 2) 0 0 (fun k =>
    (gAll tagInt 7 k).setG 11 ⟨tagCount, 0⟩), (seqUp 0x42 (opI 2) 0 0 (fun k => (gAll tagInt 7 k).setG 11 ⟨tagCount, 0⟩)).beginSeq
    0, ⟨0, .imm 2, .none, .none⟩, ⟨rfl, _, _, _, rfl, rfl, rfl, rfl, rfl, rfl⟩, rfl, by decide, rfl, rfl, ⟨by decide, rfl, _, _,
    rfl, by decide, by decide, by decide⟩⟩

theorem witness_LaneInstructionsComplete_1 : ∀ p ∈ Claims.qRows, ∃ (o : SeqOps) (s0 s : State) (x : Args) (a b c : Nat),
    Claims.Ready p.opc o s0 s ∧ Claims.Placed kQ kQ kQ o s x ∧ x.a = .q a ∧ x.b = .q b ∧ x.c = .q c := fun p hp => ⟨ops (opQ 1)
    (opQ 2) (opQ 3), seqUp p.opc (opQ 1) (opQ 2) (opQ 3) id, (seqUp p.opc (opQ 1) (opQ 2) (opQ 3) id).beginSeq 0, ⟨0, .q 1, .q 2,
    .q 3⟩, 1, 2, 3, (by fin_cases hp <;> exact ⟨by decide, rfl, _, _, rfl, by decide, by decide, by decide⟩), ⟨rfl, _, _, _, rfl,
    rfl, rfl, rfl, rfl, rfl⟩, rfl, rfl, rfl⟩

theorem witness_LaneInstructionsComplete_2 : ∃ (w : Nat) (k : Nat) (i : Instr) (o : SeqOps) (s0 : State) (s : State) (x : Args) (a
    : Nat) (b : Nat), ((w = 16 ∧ k ≤ 15 ∧ i = .qshrrH o ∧ Claims.Ready 0x62 o s0 s) ∨ (w = 32 ∧ k ≤ 31 ∧ i = .qshrrW o ∧
    Claims.Ready 0x68 o s0 s)) ∧ 1 ≤ k ∧ Claims.Placed kQ kQ kImm o s x ∧ x.a = .q a ∧ x.b = .q b ∧ x.c = .imm k := ⟨16, 3,
    .qshrrH (ops (opQ 1) (opQ 2) (opI 3)), ops (opQ 1) (opQ 2) (opI 3), seqUp 0x62 (opQ 1) (opQ 2) (opI 3) id, _, ⟨0, .q 1, .q 2,
    .imm 3⟩, 1, 2, .inl ⟨rfl, by decide, rfl, ⟨by decide, rfl, _, _, rfl, by decide, by decide, by decide⟩⟩, by decide, ⟨rfl, _,
    _, _, rfl, rfl, rfl, rfl, rfl, rfl⟩, rfl, rfl, rfl⟩

theorem witness_VectorMovesComplete_1 : ∃ (o : SeqOps) (s0 : State) (s : State) (s1 : State) (s2 : State) (x : Args) (v : SVal),
    Claims.Ready 0x58 o s0 s ∧ Claims.Placed kQ (kMem 4) kNone o s x ∧ loadOpd o.core 1 x.b s = .ok s1 v ∧ srcUntagged o.core 1 v
    = .ok () ∧ Claims.Clean v ∧ storeOpd o.core x.a none v.val 128 .free s1 = .ok s2 () := ⟨ops (opQ 1) (opM 4 0 4) 0, seqUp 0x58
    (opQ 1) (opM 4 0 4) 0 (fun k => ram [⟨tagInt, 7⟩, ⟨tagInt, 8⟩, ⟨tagInt, 9⟩, ⟨tagInt, 10⟩] k), _, _, _, ⟨0, .q 1, .mem .lram 4
    0x40, .none⟩, _, ⟨by decide, rfl, _, _, rfl, by decide, by decide, by decide⟩, ⟨rfl, _, _, _, rfl, rfl, rfl, rfl, rfl, rfl⟩,
    rfl, rfl, rfl, rfl⟩

theorem witness_VectorMovesComplete_2 : ∃ (o : SeqOps) (s0 : State) (s : State) (s1 : State) (s2 : State) (x : Args) (v : SVal),
    Claims.Ready 0x59 o s0 s ∧ Claims.Placed (kMem 4) kQ kNone o s x ∧ loadOpd o.core 1 x.b s = .ok s1 v ∧ storeOpd o.core x.a
    none v.val 128 .free s1 = .ok s2 () := ⟨ops (opM 4 0 4) (opQ 1) 0, seqUp 0x59 (opM 4 0 4) (opQ 1) 0 (fun k => ram [⟨tagInt,
    7⟩, ⟨tagInt, 8⟩, ⟨tagInt, 9⟩, ⟨tagInt, 10⟩] k), _, _, _, ⟨0, .mem .lram 4 0x40, .q 1, .none⟩, _, ⟨by decide, rfl, _, _, rfl,
    by decide, by decide, by decide⟩, ⟨rfl, _, _, _, rfl, rfl, rfl, rfl, rfl, rfl⟩, rfl, rfl⟩

theorem witness_VectorMovesComplete_3 : ∃ (o : SeqOps) (s0 : State) (s : State) (s1 : State) (s2 : State) (x : Args) (v : SVal),
    Claims.Ready 0x5B o s0 s ∧ Claims.Placed ⟨[], false, true, true, false⟩ ⟨[0, 1, 2, 3, 4], false, true, true, false⟩ kNone o s
    x ∧ loadOpd o.core 1 x.b s = .ok s1 v ∧ srcUntagged o.core 1 v = .ok () ∧ Claims.Clean v ∧ storeOpd o.core x.a none v.val
    v.bits .free s1 = .ok s2 () := ⟨ops (opQ 1) (opF 2) 0, seqUp 0x5B (opQ 1) (opF 2) 0 (fun k => ram [⟨tagInt, 7⟩, ⟨tagInt, 8⟩,
    ⟨tagInt, 9⟩, ⟨tagInt, 10⟩] k), _, _, _, ⟨0, .q 1, .f 2, .none⟩, _, ⟨by decide, rfl, _, _, rfl, by decide, by decide, by
    decide⟩, ⟨rfl, _, _, _, rfl, rfl, rfl, rfl, rfl, rfl⟩, rfl, rfl, rfl, rfl⟩

theorem witness_VectorMovesComplete_4 : ∃ (w : Nat) (i : Instr) (o : SeqOps) (s0 : State) (s : State) (s1 : State) (s2 : State) (x
    : Args) (v : SVal), ((w = 16 ∧ i = .qsplatH o ∧ Claims.Ready 0x5C o s0 s) ∨ (w = 32 ∧ i = .qsplatW o ∧ Claims.Ready 0x5D o s0
    s)) ∧ Claims.Placed kQ kSrc kNone o s x ∧ loadOpd o.core 1 x.b s = .ok s1 v ∧ srcUntagged o.core 1 v = .ok () ∧ Claims.Clean v
    ∧ storeOpd o.core x.a none (packLanes w (List.replicate (128 / w) v.val)) 128 .free s1 = .ok s2 () := ⟨16, .qsplatH (ops (opQ
    1) (opG 2) 0), ops (opQ 1) (opG 2) 0, seqUp 0x5C (opQ 1) (opG 2) 0 (gAll tagInt 7), _, _, _, ⟨0, .q 1, .g 2, .none⟩, _, .inl
    ⟨rfl, rfl, ⟨by decide, rfl, _, _, rfl, by decide, by decide, by decide⟩⟩, ⟨rfl, _, _, _, rfl, rfl, rfl, rfl, rfl, rfl⟩, rfl,
    rfl, rfl, rfl⟩

theorem witness_VectorMovesComplete_5 : ∃ (o : SeqOps) (s0 : State) (s : State) (s1 : State) (x : Args) (b : Nat) (k : Nat),
    Claims.Ready 0x6C o s0 s ∧ Claims.Placed kDst kQ kImm o s x ∧ x.b = .q b ∧ x.c = .imm k ∧ k ≤ 7 ∧ storeOpd o.core x.a (some
    tagInt) (wrap 32 (sgn 16 (((s.core o.core).qReg b).toNat / 2 ^ (16 * k)))) 32 .sign s = .ok s1 () := ⟨ops (opG 1) (opQ 2) (opI
    3), seqUp 0x6C (opG 1) (opQ 2) (opI 3) id, _, _, ⟨0, .g 1, .q 2, .imm 3⟩, 2, 3, ⟨by decide, rfl, _, _, rfl, by decide, by
    decide, by decide⟩, ⟨rfl, _, _, _, rfl, rfl, rfl, rfl, rfl, rfl⟩, rfl, rfl, by decide, rfl⟩

theorem witness_VectorMovesComplete_6 : ∃ (o : SeqOps) (s0 : State) (s : State) (s1 : State) (q : Nat) (base : Nat) (c : Nat)
    (addr : Nat) (v : Nat) (j : Nat) (sp : Space) (disp : Int) (tags : List (BitVec 4)), Claims.Ready 0x5A o s0 s ∧ decodeOpd kQ 0
    o.a = .ok (some (.q q)) ∧ decodeOpd (kMem 4) 1 o.b = .ok (some (.mem 4 base disp)) ∧ decodeOpd kImm 2 o.c = .ok (some (.imm
    c)) ∧ c ∈ [1, 2, 4, 8] ∧ effAddr o.core (s.core o.core) 4 base disp 1 = .ok (sp, addr) ∧ ((sp = .lram → addr % 4 = 0)) ∧
    ffRead o.core sp addr (min 16 (Claims.ffTop o.core sp addr - addr)) s = .ok s1 (v, tags, none) ∧ 0 < j ∧ j ≤ 16 / c ∧ ((∀ e <
    j, Claims.FfBad o.core sp addr c tags e = false)) ∧ ((j < 16 / c → Claims.FfBad o.core sp addr c tags j = true)) ∧ ((o.core <
    16 → tagRaw ∉ tags.take (wordsOf addr (j * c)).length)) := ⟨ops (opQ 1) (opM 4 0 4) (opI 4), seqUp 0x5A (opQ 1) (opM 4 0 4)
    (opI 4) (fun k => ram [⟨tagInt, 7⟩, ⟨tagInt, 8⟩, ⟨tagInt, 9⟩, ⟨tagInt, 10⟩] k), _, _, 1, 0, 4, 0x40, _, 4, .lram, 4, _, ⟨by
    decide, rfl, _, _, rfl, by decide, by decide, by decide⟩, rfl, rfl, rfl, by decide, rfl, (fun _ => rfl), rfl, by decide, by
    decide, by decide, by decide, by decide⟩

theorem witness_CustomerInstructionsComplete_1 : ∃ (slot : Nat) (o : SeqOps) (s0 : State) (s : State) (s1 : State) (s2 : State) (a
    : Option Opd) (b : Option Opd) (c : Option Opd) (h0 : BitVec 32) (h1 : BitVec 32) (n : Nat) (u : UState), slot < 16 ∧ o.core <
    16 ∧ Claims.Ready (0x70 + slot) o s0 s ∧ h0 = (s.core o.core).dword (36 * slot) ∧ h1 = (s.core o.core).dword (36 * slot + 1) ∧
    n = min 32 (slotLen h0) ∧ 0 < n ∧ (s.core o.core).dbad (36 * slot) = false ∧ (s.core o.core).dbad (36 * slot + 1) = false ∧
    ((∀ k < n, (s.core o.core).dbad (36 * slot + 4 + k) = false)) ∧ slotOpd h0 h1 0 o.a = .ok a ∧ slotOpd h0 h1 1 o.b = .ok b ∧
    slotOpd h0 h1 2 o.c = .ok c ∧ uRun ⟨o.core, a, b, c⟩ ((List.range n).map fun k => (s.core o.core).dword (36 * slot + 4 + k)) 0
    .start s = .ok s1 u ∧ uPlace o.core (afterEarlier [] (uPieces u.out)) s1 = .ok s2 () := ⟨0, ops (opG 1) (opG 2) 0, seqUp 0x70
    (opG 1) (opG 2) 0 (fun k =>
    { gAll tagInt 7 k with decodeRam := [(0, BitVec.ofNat 32 (1 + 32 * 2 ^ 6 + 32 * 2 ^ 13)), (1, BitVec.ofNat 32 (1 + 8)), (4, BitVec.ofNat 32 (0x01 * 2 ^ 26 + 8 * 2 ^ 22 + 9 * 2 ^ 18))] }),
    _, _, _, _, _, _, _, _, _, _, by decide, by decide, ⟨by decide, rfl, _, _, rfl, by decide, by decide, by decide⟩, rfl, rfl,
    rfl, by decide, rfl, rfl, by decide, rfl, rfl, rfl, rfl, rfl⟩

theorem witness_SequencerEventsComplete_1 : ∃ (core : Nat) (s : State), s.coreRuns core = true ∧ (s.core core).halted = false ∧
    (s.core core).fetch.length ≤ 2 := ⟨0, seqUp 0 0 0 0 id, rfl, rfl, by decide⟩

theorem witness_SequencerEventsComplete_2 : ∃ (core : Nat) (s : State), s.coreRuns core = true ∧ (match (s.core core).group with
    | some g => g.placed | none => 0) < (s.core core).stbuf.length := ⟨0, seqUp 0 0 0 0 (fun k =>
    { k with stbuf := [⟨false, 0x40, 4, 7, [tagInt], 7⟩] }), rfl, by decide⟩

theorem witness_SequencerEventsComplete_3 : ∃ (core : Nat) (l : Nat) (s : State), s.coreRuns core = true ∧ ((l = 2 ∧ s.recognised
    core 2 = true) ∨ (l = 1 ∧ s.recognised core 2 = false ∧ s.recognised core 1 = true)) := ⟨0, 1, (seqUp 0 0 0 0 (fun k =>
    { k with ctrl := 1 })).updTic 0 fun c => { c with pend := 1, mask := 0 }, rfl, .inr ⟨rfl, rfl, rfl⟩⟩

theorem witness_SequencerEventsComplete_4 : ∃ (tile : Nat) (s : State), tile < 16 ∧ s.alive = true ∧ s.tileLive tile = true := ⟨0,
    up, by decide, rfl, rfl⟩

/-- The active device of a pair, with one mirror window over tile 0's store. -/
def bonded (b : List Mirror) : State :=
  { up with bond := { up.bond with
      paired := true
      active := true
      linkUp := true
      mirrors := b } }

/-- That window. -/
def win0 : MirrorWindow := ⟨word 64 [(0, 1)], word 64 [(32, 8)]⟩

/-- A mirror of tile 0's normal step. -/
def mirror0 : Mirror := ⟨0, false, [(5, 0)], [], 1, 0, true, none, 0, false, false, false⟩


theorem witness_CounterClearsComplete_2 : ∃ (who : _) (t : _) (s : _), t < 16 ∧ Claims.Writable who (.tile t) .yes s := ⟨.host, 0,
    up, by decide, ⟨rfl, rfl, rfl, rfl⟩⟩

theorem witness_CounterClearsComplete_3 : ∃ (who : _) (s : _), Claims.Writable who .hod .yes s := ⟨.host, up, ⟨rfl, rfl, rfl,
    rfl⟩⟩

theorem witness_CounterClearsComplete_4 : ∃ (who : _) (s : _), Claims.Writable who .sc .yes s := ⟨.host, up, ⟨rfl, rfl, rfl, rfl⟩⟩

theorem witness_CounterClearsComplete_5 : ∃ (who : _) (c : _) (s : _), c < 8 ∧ Claims.Writable who (.ddr c) .yes s := ⟨.host, 3,
    up, by decide, ⟨rfl, rfl, rfl, rfl⟩⟩

theorem witness_CounterClearsComplete_6 : ∃ (who : _) (s : _), Claims.Writable who .dma .yes s := ⟨.host, up, ⟨rfl, rfl, rfl,
    rfl⟩⟩

theorem witness_CounterClearsComplete_7 : ∃ (who : _) (s : _), Claims.Writable who .bond .yes s := ⟨.host, up, ⟨rfl, rfl, rfl,
    rfl⟩⟩

theorem witness_CounterClearsComplete_8 : ∃ (who : _) (s : _), Claims.Writable who .always .yes s := ⟨.host, up, ⟨rfl, rfl, rfl,
    rfl⟩⟩

theorem witness_StepStartCompletes_1 : ∃ (t : Nat) (u : Bool) (s : State) (i : IssueReg), Claims.MayStart t u s i ∧ checkDesc
    i.desc (s.tile t).st.epoch = none ∧ dList i.desc = 0 := ⟨0, false, up.updSt 0 fun x =>
    { x with issueN := some (issued (word 1024 [(48, 1), (528, 4)])) }, _, ⟨rfl, rfl, by decide, rfl, rfl, rfl, rfl⟩, rfl, rfl⟩

theorem witness_StepStartCompletes_2 : ∃ (t : Nat) (u : Bool) (s : State) (i : IssueReg) (n : _), Claims.MayStart t u s i ∧
    checkDesc i.desc (s.tile t).st.epoch = none ∧ dList i.desc ≠ 0 ∧ 0 < n ∧ scanList s t listFuel (dList i.desc) false 0 =
    (.pass, n) := ⟨0, false, (up.updCore 0 (ram [⟨tagInt, 0⟩])).updSt 0 fun x =>
    { x with issueN := some (issued (word 1024 [(48, 1), (528, 4), (224, 0x40)])) }, _, 1, ⟨rfl, rfl, by decide, rfl, rfl, rfl,
    rfl⟩, rfl, by decide, by decide, by decide +kernel⟩

theorem witness_StepRejection_1 : ∃ (t : Nat) (u : Bool) (s : State) (i : IssueReg) (code : Nat), s.tiles.length = 16 ∧
    Claims.MayStart t u s i ∧ (((checkFields i.desc = false ∨ checkBounds i.desc = false) ∧ code = 1 ∨ (checkFields i.desc = true
    ∧ checkBounds i.desc = true ∧ checkAlias i.desc = false) ∧ code = 2 ∨ (checkFields i.desc = true ∧ checkBounds i.desc = true ∧
    checkAlias i.desc = true ∧ 128 ≤ (i.desc.extractLsb' 32 8 - (s.tile t).st.epoch).toNat) ∧ code = 3)) := ⟨0, false, up.updSt 0
    fun x => { x with issueN := some (issued (word 1024 [(46, 1)])) }, _, 1, rfl, ⟨rfl, rfl, by decide, rfl, rfl, rfl, rfl⟩, .inl
    ⟨.inl (by decide), rfl⟩⟩

theorem witness_ScanEnds_1 : ∃ (t : Nat) (u : Bool) (s : State) (r : StepRun) (due : Nat), s.tileLive t = true ∧ s.run t u = some
    r ∧ due ≤ s.cycle ∧ r.scan = some (.pass, due) := ⟨0, false, up.updSt 0 fun x =>
    { x with runN := some { running descAll with listDone := true, scan := some (.pass, 5) } }, _, 5, rfl, rfl, by decide, rfl⟩

theorem witness_ScanEnds_2 : ∃ (t : Nat) (u : Bool) (s : State) (r : StepRun) (due : Nat) (code : _), s.tileLive t = true ∧ s.run
    t u = some r ∧ due ≤ s.cycle ∧ r.scan = some (.reject code, due) ∧ (code = 4 ∨ code = 5) := ⟨0, false, up.updSt 0 fun x =>
    { x with runN := some { running descAll with listDone := true, scan := some (.reject 4, 5) } }, _, 5, 4, rfl, rfl, by decide,
    rfl, by decide⟩

theorem witness_StepRetireAndComplete_1 : ∃ (t : Nat) (u : Bool) (s : State) (r : StepRun), s.tileLive t = true ∧ s.run t u = some
    r ∧ r.final = none ∧ engDone s t u r = true ∧ newMirror s t u r = none := ⟨0, false, up.updSt 0 fun x =>
    { x with runN := some { running descAll with listDone := true } }, _, rfl, rfl, rfl, rfl, rfl⟩

theorem witness_StepRetireAndComplete_2 : ∃ (t : Nat) (u : Bool) (s : State) (r : StepRun) (m : Mirror), s.tileLive t = true ∧
    s.run t u = some r ∧ r.final = none ∧ engDone s t u r = true ∧ newMirror s t u r = some m := ⟨0, false, (bonded []).updSt 0
    fun x => { x with runN := some { running descAll with listDone := true, wins := [(0, win0)] } }, _, _, rfl, rfl, rfl, rfl,
    rfl⟩

theorem witness_StepRetireAndComplete_3 : ∃ (t : Nat) (u : Bool) (s : State) (r : StepRun) (code : BitVec 8), s.tileLive t = true
    ∧ s.run t u = some r ∧ r.final = some code ∧ mirrorOf s t u = none := ⟨0, false, up.updSt 0 fun x =>
    { x with runN := some { running descAll with listDone := true, final := some 0 } }, _, _, rfl, rfl, rfl, rfl⟩

theorem witness_StepRetireAndComplete_4 : ∃ (t : Nat) (u : Bool) (s : State) (r : StepRun) (code : BitVec 8) (m : Mirror),
    s.tileLive t = true ∧ s.run t u = some r ∧ r.final = some code ∧ mirrorOf s t u = some m ∧ mirrorOn s = true ∧
    (s.bond.mirrors.filter fun l => l.tile = m.tile && !l.acked && !l.copy).length > m.lag := ⟨0, false, (bonded [mirror0]).updSt
    0 fun x => { x with runN := some { running descAll with listDone := true, final := some 0 } }, _, _, _, rfl, rfl, rfl, rfl,
    rfl, by decide⟩

theorem witness_DeadlineCompletes_1 : ∃ (t : Nat) (u : Bool) (s : State) (r : StepRun), s.tileLive t = true ∧ s.run t u = some r ∧
    r.dlSet = false ∧ s.copyOf t > dDeadline r.desc := ⟨0, false, up.updSt 0 fun x =>
    { x with runN := some { running descAll with listDone := true } }, _, rfl, rfl, rfl, by decide⟩

theorem witness_DeadlineCompletes_2 : ∃ (t : Nat) (u : Bool) (s : State) (i : IssueReg), s.tileLive t = true ∧ Claims.issueOf
    (s.tile t).st u = some i ∧ i.dlSet = false ∧ s.copyOf t > dDeadline i.desc := ⟨0, false, up.updSt 0 fun x =>
    { x with issueN := some (issued descAll) }, _, rfl, rfl, rfl, by decide⟩

theorem witness_DeadlineCompletes_3 : ∃ (t : Nat) (u : Bool) (s : State) (r : StepRun), s.run t u = some r ∧ r.dlSet = true := ⟨0,
    false, up.updSt 0 fun x => { x with runN := some { running descAll with listDone := true, dlSet := true } }, _, rfl, rfl⟩

theorem witness_ListAndIssueComplete_1 : ∃ (t : Nat) (u : Bool) (s : State) (r : StepRun) (e : ListEntry), nextEntry s t u = some
    (r, e) ∧ e.bad = false ∧ e.raw.toNat % 256 = 0 := ⟨0, false, (up.updSt 0 fun x =>
    { x with runN := some { running descAll with listAt := 0x40, listDone := false } }).updCore 0 (ram []),
    { running descAll with listAt := 0x40, listDone := false }, ⟨0, false⟩, by decide +kernel, by decide, by decide⟩

theorem witness_ListAndIssueComplete_2 : ∃ (t : Nat) (u : Bool) (s : State) (r : StepRun) (e : ListEntry), nextEntry s t u = some
    (r, e) ∧ e.bad = false ∧ 1 ≤ e.raw.toNat % 256 ∧ e.raw.toNat % 256 ≤ 6 ∧ r.desc.getLsbD (40 + engOf e.raw) = true := ⟨0,
    false, (up.updSt 0 fun x => { x with runN := some { running descAll with listAt := 0x40, listDone := false } }).updCore 0 (ram
    [⟨tagInt, 1⟩]), { running descAll with listAt := 0x40, listDone := false }, ⟨1, false⟩, by decide +kernel, by decide, by
    decide, by decide, by decide⟩

theorem witness_ListAndIssueComplete_3 : ∃ (t : Nat) (e : Nat) (s : State) (c : EngCmd), s.tileLive t = true ∧ atIssue s t e =
    some c ∧ (s.tile t).ts.mayIssue e c.urgent (issueRanges c) = true ∧ (lowerIssued s t e).mayIssue e c.urgent (issueRanges c) =
    true := ⟨0, 1, tileUp fun x =>
    { x with arr := { x.arr with queue := [cmd (word 512 [(0, 1), (38, 3), (54, 3), (64, 1), (80, 64), (320, 0), (336, 4)]) true false false] } },
    _, rfl, rfl, by decide, by decide⟩

theorem witness_ListAndIssueComplete_4 : ∃ (t : Nat) (e : Nat) (s : State) (c : EngCmd), s.tileLive t = true ∧ atIssue s t e =
    some c ∧ (s.tile t).ts.mayIssue e c.urgent (issueRanges c) = false := ⟨0, 1, tileUp fun x =>
    { x with arr := { x.arr with queue := [cmd (word 512 [(0, 1), (38, 3), (54, 3), (64, 1), (80, 64), (320, 0), (336, 4)]) true false false] }, ts := { x.ts with sb := List.replicate 16 (some ⟨0, 8, true, 3, false, [(⟨0, 8, true, false⟩, 1)]⟩) } },
    _, rfl, rfl, by decide⟩

theorem witness_HostTileAccessComplete_1 : ∃ (t : Nat) (a : Nat) (bs : List (BitVec 8)) (s : State), t < 16 ∧ a + bs.length ≤
    0x400000 ∧ Claims.Writable .host (.tile t) .tileStore s := ⟨0, 8, [1, 2, 3], up, by decide, by decide, ⟨rfl, rfl, rfl, rfl⟩⟩

theorem witness_HostTileAccessComplete_2 : ∃ (t : Nat) (a : Nat) (n : Nat) (s : State), t < 16 ∧ a + n ≤ 0x400000 ∧ s.barOpen =
    true ∧ ((s.sec.life = .chrysalis ∨ s.sec.life = .imago)) ∧ s.fencedBlk (.tile t) = false ∧ s.gated (.tile t) = false := ⟨0, 8,
    3, up, by decide, by decide, rfl, .inr rfl, rfl, rfl⟩

theorem witness_HostTileAccessComplete_3 : ∃ (t : Nat) (a : Nat) (bs : List (BitVec 8)) (s : State), t < 16 ∧ Claims.Writable
    .host (.tile t) .yes s ∧ a + bs.length ≤ 0x20000 := ⟨0, 8, [1, 2, 3], up, by decide, ⟨rfl, rfl, rfl, rfl⟩, by decide⟩

theorem witness_HostTileAccessComplete_4 : ∃ (t : Nat) (a : Nat) (bs : List (BitVec 8)) (s : State), t < 16 ∧ Claims.Writable
    .host (.tile t) .yes s ∧ a + bs.length ≤ 0x8000 := ⟨0, 8, [1, 2, 3], up, by decide, ⟨rfl, rfl, rfl, rfl⟩, by decide⟩

theorem witness_HostTileAccessComplete_5 : ∃ (t : Nat) (a : Nat) (bs : List (BitVec 8)) (s : State), t < 16 ∧ Claims.Writable
    .host (.tile t) .yes s ∧ a + bs.length ≤ 0x8000 := ⟨0, 8, [1, 2, 3], up, by decide, ⟨rfl, rfl, rfl, rfl⟩, by decide⟩

theorem witness_HostTileAccessComplete_6 : ∃ (t : Nat) (a : Nat) (n : Nat) (tags : Bool) (s : State), t < 16 ∧ a + n ≤ (if tags
    then 0x8000 else 0x20000) ∧ s.barOpen = true ∧ ((s.sec.life = .chrysalis ∨ s.sec.life = .imago)) ∧ s.fencedBlk (.tile t) =
    false ∧ s.gated (.tile t) = false := ⟨0, 8, 3, false, up, by decide, by decide, rfl, .inr rfl, rfl, rfl⟩

theorem witness_BankPowerComplete_1 : ∃ (who : Who) (t : Nat) (s : State), t < 16 ∧ Claims.Writable who (.tile t) .no s :=
    ⟨.quoin, 0, up, by decide, ⟨rfl, rfl, rfl⟩⟩

theorem witness_BankPowerComplete_2 : ∃ (t : Nat) (b : Nat) (s : State), t < 16 ∧ s.gatedTile t = false ∧ (s.tile
    t).ts.bankState.getD b .on = .waking ∧ (s.tile t).ts.wakeFrom.getD b 0 + 2000 ≤ s.te.time := ⟨0, 0, up.updTs 0 fun x =>
    { x with bankState := .waking :: List.replicate 15 .on, wakeFrom := List.replicate 16 0 }, by decide, rfl, by decide, by
    decide⟩

theorem witness_BankPowerComplete_3 : ∃ (t : Nat) (b : Nat) (s : State), s.tileLive t = true ∧ (s.tile t).ts.bankState.getD b .on
    = .draining ∧ bankBusy (s.tile t) b = false := ⟨0, 0, up.updTs 0 fun x =>
    { x with bankState := .draining :: List.replicate 15 .on }, rfl, by decide, by decide⟩

theorem witness_BankPowerComplete_4 : ∃ (who : Who) (t : Nat) (s : State), t < 16 ∧ Claims.Writable who (.tile t) .no s :=
    ⟨.quoin, 0, up, by decide, ⟨rfl, rfl, rfl⟩⟩

/-- List entries of tile 0 from byte 0x80 up. -/
def next0 (l : List (Nat × BitVec 32)) (s : State) : State :=
  s.updCore 0 fun k => { k with lram := l.map fun p => (32 + p.1, ⟨tagInt, p.2⟩) }

/-- Commands: a MATMUL of one row and one slice, a SUMW, a drain of FP32 rows, a WINDOW, a small-channel command. -/
def mm0 : BitVec 512 := word 512 [(0, 1), (38, 3), (54, 3), (64, 1), (80, 64), (336, 4)]
def sumw0 : BitVec 512 := word 512 [(0, 1), (8, 1), (38, 3), (54, 3), (64, 1), (80, 64)]
def drain0 : BitVec 512 := word 512 [(0, 2), (48, 256)]
def window0 (map : Nat) : BitVec 512 :=
  word 512 [(0, 3), (8, map), (15, 1), (32, 1), (48, 1), (64, 1), (68, 1), (72, 1), (76, 1), (80, 1), (84, 1), (336, 4)]
def small0 (ws kw w : Nat) : BitVec 512 :=
  word 512 [(0, 4), (21, 3), (23, ws), (32, 1), (48, w), (64, 1), (68, kw), (72, 1), (76, 1), (80, 1), (84, 1), (112, 1), (120,
    1)]

/-- The same MATMUL with one column. -/
def mm1 : BitVec 512 := word 512 [(0, 1), (38, 3), (54, 3), (64, 1), (80, 1), (336, 4)]

/-- A bundle of NOPs. -/
theorem witness_VectorBundleCompletes : ∃ (t : Nat) (s : State) (r : StepRun) (z : VSlot0) (rs : List Range),
    Claims.MayIssueBundle t s r z ∧ Claims.BundleRanges t s z rs ∧ Claims.PortsClean t s z
      ∧ accessOk r rs z ((s.tile t).vec.bk (s.tile t).vec.bank) = true :=
  ⟨0, tileUp fun x => { x with vec := { x.vec with bankN := { x.vec.bankN with run := true } } }, _, _, _,
    ⟨rfl, rfl, rfl, rfl, rfl, .inr rfl, by decide +kernel, rfl, by decide +kernel, by decide +kernel⟩, rfl,
    ⟨fun _ => by decide +kernel, fun _ => by decide +kernel⟩, by decide +kernel⟩

/-- A SEG whose range the drain holds. -/
def segUp : State := tileUp fun x =>
  { x with
    vec := { x.vec with
      bankN := { x.vec.bankN with run := true }
      vpram := [(6, 0xE00001), (8, 0x80000), (9, 1)] }
    ts := { x.ts with sb := some ⟨0, 8, true, 3, false, [(⟨0, 8, true, false⟩, 1)]⟩ :: List.replicate 15 none } }


theorem witness_VectorBundleCompletes_2 : ∃ (t : Nat) (s : State) (r : StepRun) (z : VSlot0) (rs : List Range),
    Claims.MayIssueBundle t s r z ∧ z.ctl = 7 ∧ (s.tile t).vec.bundleBad z.cimm = false ∧ rangeRecord ((s.tile t).vec.bundle
    z.cimm) = some rs ∧ (s.tile t).ts.mayIssue 0 (s.tile t).vec.bank rs = false := ⟨0, segUp, _, _, _, ⟨rfl, rfl, rfl, rfl, rfl,
    .inr rfl, by decide +kernel, rfl, by decide +kernel, by decide +kernel⟩, by decide +kernel, by decide +kernel, rfl, by
    decide +kernel⟩

theorem witness_VectorCyclesAndSwitch_1 : ∃ (t : Nat) (s : State), s.tileLive t = true ∧ ((s.tile t).vec.bk (s.tile
    t).vec.bank).run = true ∧ ((((s.tile t).vec.bk (s.tile t).vec.bank).ended = true ∨ ((s.tile t).ts.heldOf (s.tile
    t).vec.bank).getLsbD 0 = true)) ∧ (((s.tile t).vec.bank = true ∨ (s.tile t).vec.bankU.run = false)) ∧ s.tiles.length = 16 :=
    ⟨0, tileUp fun x => { x with vec := { x.vec with bankN := { x.vec.bankN with run := true } }, ts := { x.ts with held := 1 } },
    rfl, rfl, .inr rfl, by decide, rfl⟩

theorem witness_VectorCyclesAndSwitch_2 : ∃ (t : Nat) (s : State) (r : VecResult), s.tileLive t = true ∧ s.tiles.length = 16 ∧
    ((s.tile t).vec.bk (s.tile t).vec.bank).run = true ∧ ((s.tile t).ts.heldOf (s.tile t).vec.bank).getLsbD 0 = true ∧ (((s.tile
    t).vec.bank = true ∨ (s.tile t).vec.bankU.run = false)) ∧ r ∈ (s.tile t).vec.flight ∧ r.due ≤ (s.tile t).vec.cycle ∧ r.acc =
    false ∧ r.dst < 24 ∧ (s.tile t).vec.v.length = 24 ∧ ((∀ x ∈ (s.tile t).vec.flight, x.acc = false → x.dst = r.dst → x.due ≤
    (s.tile t).vec.cycle → x = r)) ∧ ((s.tile t).vec.flight.filter (· = r)).length = 1 := ⟨0, tileUp fun x =>
    { x with vec := { x.vec with bankN := { x.vec.bankN with run := true }, flight := [⟨0, 0, 1, 0, false, false, 3, 0xFF, 7⟩] }, ts := { x.ts with held := 1 } },
    ⟨0, 0, 1, 0, false, false, 3, 0xFF, 7⟩, rfl, rfl, rfl, rfl, by decide +kernel, by decide +kernel, by decide, rfl, by decide,
    by decide +kernel, by decide +kernel, rfl⟩

theorem witness_VectorCyclesAndSwitch_3 : ∃ (t : Nat) (s : State), s.tileLive t = true ∧ (s.tile t).vec.bank = false ∧ (s.tile
    t).vec.bankU.run = true ∧ (s.tile t).vec.bankN.run = true := ⟨0, tileUp fun x =>
    { x with vec := { x.vec with bankN := { x.vec.bankN with run := true }, bankU := { x.vec.bankU with run := true } }, ts := { x.ts with held := 1 } },
    rfl, rfl, rfl, rfl⟩

theorem witness_VectorCyclesAndSwitch_4 : ∃ (t : Nat) (s : State), (s.tile t).vec.bank = false ∧ (s.tile t).vec.bankU.run = true
    := ⟨0, tileUp fun x =>
    { x with vec := { x.vec with bankU := { x.vec.bankU with run := true } }, ts := { x.ts with held := 1 } }, rfl, rfl⟩

theorem witness_VectorCyclesAndSwitch_5 : ∃ (t : Nat) (s : State), s.tileLive t = true ∧ (s.tile t).vec.bank = true ∧ (s.tile
    t).vec.preempted = true ∧ (s.tile t).vec.bankU.run = false := ⟨0, tileUp fun x =>
    { x with vec := { x.vec with bank := true, preempted := true }, ts := { x.ts with held := 1 } }, rfl, rfl, rfl, rfl⟩

theorem witness_VectorCyclesAndSwitch_6 : ∃ (t : Nat) (a : Nat) (bs : List (BitVec 8)) (s : State), t < 16 ∧ a + bs.length ≤
    0x10000 ∧ Claims.Writable .host (.tile t) .yes s := ⟨0, 8, [1, 2], up, by decide, by decide, ⟨rfl, rfl, rfl, rfl⟩⟩

theorem witness_EngineCommandsComplete_1 : ∃ (t : Nat) (s : State) (c : EngCmd) (d : BitVec 512), s.tileLive t = true ∧ toCheck s
    t 1 = some c ∧ c.raw.toNat % 256 = 1 ∧ aOp c.raw ≠ 1 ∧ followingDrain s t c = some d ∧ arrCause c.raw (d.getLsbD 17) = none :=
    ⟨0, next0 [(0, 2)] (tileUp fun x => { x with arr := { x.arr with queue := [cmd mm0 false false false] } }), _, 2, rfl, rfl, by
    decide +kernel, by decide +kernel, by decide +kernel, by decide +kernel⟩

theorem witness_EngineCommandsComplete_2 : ∃ (t : Nat) (s : State) (c : EngCmd), s.tileLive t = true ∧ toCheck s t 1 = some c ∧
    c.raw.toNat % 256 = 1 ∧ aOp c.raw = 1 ∧ arrCause c.raw false = none := ⟨0, tileUp fun x =>
    { x with arr := { x.arr with queue := [cmd sumw0 false false false] } }, _, rfl, rfl, by decide +kernel, by decide +kernel, by
    decide +kernel⟩

theorem witness_EngineCommandsComplete_3 : ∃ (t : Nat) (s : State) (c : EngCmd), s.tileLive t = true ∧ toCheck s t 1 = some c ∧
    c.raw.toNat % 256 = 3 ∧ winCause c.raw (entryAt s t c.urgent (c.index + 1)) = none := ⟨0, next0 [(0, 1), (1, 0xC000C0), (2,
    0x400001)] (tileUp fun x => { x with arr := { x.arr with queue := [cmd (window0 0) false false false] } }), _, rfl, rfl, by
    decide +kernel, by decide +kernel⟩

theorem witness_EngineCommandsComplete_4 : ∃ (t : Nat) (s : State) (c : EngCmd) (r : StepRun), s.tileLive t = true ∧ toCheck s t 3
    = some c ∧ s.run t c.urgent = some r ∧ drnCause c (r.desc.getLsbD 44) = none ∧ ((dnHod c.raw = true → hodOpOk (dnFmt c.raw)
    (s.tgt (dnTgt c.raw)).op = true)) := ⟨0, tileUp fun x =>
    { x with drn := { x.drn with queue := [{ cmd drain0 false false false with pair := some mm0 }] } }, _, _, rfl, rfl, rfl, by
    decide +kernel, by decide +kernel⟩

theorem witness_EngineCommandsComplete_5 : ∃ (t : Nat) (s : State) (c : EngCmd), s.tileLive t = true ∧ toCheck s t 2 = some c ∧
    sceCause c.raw (entryAt s t c.urgent (c.index + 1)) = none := ⟨0, next0 [(0, 2)] (tileUp fun x =>
    { x with sce := { x.sce with queue := [cmd (small0 3 1 1) false false false] } }), _, rfl, rfl, by decide +kernel⟩

theorem witness_EngineCommandsComplete_6 : ∃ (t : Nat) (s : State) (c : EngCmd) (k : Nat), s.tileLive t = true ∧ toCheck s t 1 =
    some c ∧ c.raw.toNat % 256 = 1 ∧ aOp c.raw = 1 ∧ arrCause c.raw false = some k := ⟨0, tileUp fun x =>
    { x with arr := { x.arr with queue := [cmd (sumw0 - word 512 [(64, 1)]) false false false] } }, _, 4, rfl, rfl, by
    decide +kernel, by decide +kernel, by decide +kernel⟩

theorem witness_EngineCommandsComplete_7 : ∃ (t : Nat) (s : State) (c : EngCmd) (d : BitVec 512) (k : Nat), s.tileLive t = true ∧
    toCheck s t 1 = some c ∧ c.raw.toNat % 256 = 1 ∧ aOp c.raw ≠ 1 ∧ followingDrain s t c = some d ∧ arrCause c.raw (d.getLsbD 17)
    = some k := ⟨0, next0 [(0, 2)] (tileUp fun x =>
    { x with arr := { x.arr with queue := [cmd (mm0 - word 512 [(64, 1)]) false false false] } }), _, _, 4, rfl, rfl, by
    decide +kernel, by decide +kernel, rfl, by decide +kernel⟩

theorem witness_EngineCommandsComplete_8 : ∃ (t : Nat) (s : State) (c : EngCmd), s.tileLive t = true ∧ toCheck s t 1 = some c ∧
    c.raw.toNat % 256 = 1 ∧ aOp c.raw ≠ 1 ∧ followingDrain s t c = none := ⟨0, tileUp fun x =>
    { x with arr := { x.arr with queue := [cmd mm0 false false false] } }, _, rfl, rfl, by decide +kernel, by decide +kernel, by
    decide +kernel⟩

theorem witness_EngineCommandsComplete_9 : ∃ (t : Nat) (s : State) (c : EngCmd) (k : Nat), s.tileLive t = true ∧ toCheck s t 1 =
    some c ∧ c.raw.toNat % 256 = 3 ∧ winCause c.raw (entryAt s t c.urgent (c.index + 1)) = some k := ⟨0, tileUp fun x =>
    { x with arr := { x.arr with queue := [cmd (window0 0) false false false] } }, _, 4, rfl, rfl, by decide +kernel, by
    decide +kernel⟩

theorem witness_EngineCommandsComplete_10 : ∃ (t : Nat) (s : State) (c : EngCmd) (r : StepRun) (k : Nat), s.tileLive t = true ∧
    toCheck s t 3 = some c ∧ s.run t c.urgent = some r ∧ drnCause c (r.desc.getLsbD 44) = some k := ⟨0, tileUp fun x =>
    { x with drn := { x.drn with queue := [cmd drain0 false false false] } }, _, _, 6, rfl, rfl, rfl, by decide +kernel⟩

theorem witness_EngineCommandsComplete_11 : ∃ (t : Nat) (s : State) (c : EngCmd) (r : StepRun), s.tileLive t = true ∧ toCheck s t
    3 = some c ∧ s.run t c.urgent = some r ∧ drnCause c (r.desc.getLsbD 44) = none ∧ dnHod c.raw = true ∧ hodOpOk (dnFmt c.raw)
    (s.tgt (dnTgt c.raw)).op = false := ⟨0, (fun z : State =>
    { z with hod := { z.hod with tgts := lput z.hod.tgts 0 { HodTarget.reset with curA := word 64 [(32, 1)] } } }) (tileUp fun x
    => { x with drn := { x.drn with queue := [{ cmd (drain0 + word 512 [(16, 1)]) false false false with pair := some mm0 }] } }),
    _, _, rfl, rfl, rfl, by decide +kernel, by decide +kernel, by decide +kernel⟩

theorem witness_EngineCommandsComplete_12 : ∃ (t : Nat) (s : State) (c : EngCmd) (k : Nat), s.tileLive t = true ∧ toCheck s t 2 =
    some c ∧ sceCause c.raw (entryAt s t c.urgent (c.index + 1)) = some k := ⟨0, tileUp fun x =>
    { x with sce := { x.sce with queue := [cmd (small0 3 1 1) false false false] } }, _, 6, rfl, rfl, by decide +kernel⟩

theorem witness_ArrayWorkCompletes_1 : ∃ (t : Nat) (s : State) (c : EngCmd) (x : StreamCourse) (d : BitVec 1024) (b : ArrayEng),
    arrTurn s t = some c ∧ c.begun = true ∧ (s.tile t).arr.shadowFull = false ∧ (s.tile t).arr.loadBlock < (if aOp c.raw = 1 then
    1 else aBlocks c.raw) ∧ scalesReady c (s.tile t).arr = true ∧ aStat c.raw = false ∧ takeRow c.raw (isDiag c.win) ((s.tile
    t).arr.loadRow + 1 = blockRows c) (s.tile t).arr = some (x, d, b) ∧ x.poison = false := ⟨0, tileUp fun x =>
    { x with arr := { x.arr with queue := [cmd mm0 true true true], wbuf := [⟨0, 7, false, false⟩] } }, _, _, _, _, rfl, rfl, rfl,
    by decide +kernel, by decide +kernel, by decide +kernel, rfl, rfl⟩

theorem witness_ArrayWorkCompletes_2 : ∃ (t : Nat) (held : Held) (s : State) (s2 : State) (c : EngCmd) (d : BitVec 1024), arrTurn
    s t = some c ∧ c.begun = true ∧ (s.tile t).arr.shadowFull = false ∧ (s.tile t).arr.loadBlock < (if aOp c.raw = 1 then 1 else
    aBlocks c.raw) ∧ aStat c.raw = true ∧ aSKind c.raw ≠ 0 ∧ s.tiles.length = 16 ∧ rowK c.raw (s.tile t).arr.loadSlice (s.tile
    t).arr.loadRow < aK c.raw ∧ engRead t c.urgent 1 ((fld c.raw 192 15 + rowK c.raw (s.tile t).arr.loadSlice (s.tile
    t).arr.loadRow * fld c.raw 208 16) % 32768) (charge t c.urgent false held s) = .ok (d, s2) := ⟨0, free, tileUp fun x =>
    { x with arr := { x.arr with queue := [cmd (mm0 + word 512 [(18, 1)]) true true true] } }, _, _, _, rfl, rfl, rfl, by
    decide +kernel, by decide +kernel, by decide +kernel, rfl, by decide +kernel, rfl⟩

theorem witness_ArrayWorkCompletes_3 : ∃ (t : Nat) (s : State) (c : EngCmd) (h : StreamCourse) (data : List StreamCourse), arrTurn
    s t = some c ∧ c.begun = true ∧ aOp c.raw ≠ 1 ∧ aStat c.raw = false ∧ (s.tile t).arr.loadBlock < aBlocks c.raw ∧ streamHead
    (s.tile t).arr.sbuf 1 (aSs c.raw) = [h] ∧ h.poison = false ∧ h.data.toNat / 2 ^ 16 % 2 ^ 8 = 0 ∧ 1 ≤ data.length ∧ data.length
    ≤ 7 ∧ h.data.toNat / 2 ^ 24 % 2 ^ 8 = data.length ∧ (streamHead (s.tile t).arr.sbuf (data.length + 1) (aSs c.raw)).drop 1 =
    data ∧ data.any (·.poison) = false ∧ blockDue c.raw (s.tile t).arr 0 = true ∧ h.data.extractLsb' 0 16 = (s.tile
    t).arr.groupCnt ∧ ((List.range data.length).any fun i => groupPending c (s.tile t).arr ((h.data.extractLsb' 0 16 - aTag0
    c.raw).toNat + i)) = false := ⟨0, tileUp fun x =>
    { x with arr := { x.arr with queue := [cmd (word 512 [(0, 1), (54, 3), (64, 1), (80, 64), (104, 1)]) true true true], sbuf := [⟨1, word 1024 [(24, 1)], false, false⟩, ⟨1, 5, false, false⟩] } },
    _, ⟨1, word 1024 [(24, 1)], false, false⟩, [⟨1, 5, false, false⟩], rfl, rfl, by decide +kernel, by decide +kernel, by
    decide +kernel, rfl, by decide +kernel, rfl, by decide, by decide +kernel, by decide +kernel, rfl, by decide +kernel, by
    decide +kernel, by decide +kernel, rfl⟩

theorem witness_ArrayWorkCompletes_4 : ∃ (t : Nat) (held : Held) (s : State) (s2 : State) (c : EngCmd) (w : BitVec 512) (p : Nat ×
    Nat) (d : BitVec 1024) (lastPixel : Bool), ((lastPixel = true ↔ (footprint c.raw (Geom.ofEntry w) (s.tile t).arr.block).length
    ≤ (s.tile t).arr.footAt + 1 ∧ ∀ k, (s.tile t).arr.block < k → k < aBlocks c.raw → footprint c.raw (Geom.ofEntry w) k = [])) ∧
    arrTurn s t = some c ∧ c.begun = true ∧ c.win = some w ∧ wMap w = 2 ∧ (s.tile t).arr.footDone = false ∧ (s.tile t).arr.block <
    aBlocks c.raw ∧ (footprint c.raw (Geom.ofEntry w) (s.tile t).arr.block)[(s.tile t).arr.footAt]? = some p ∧ inRanges
    ((cmdRanges w).take 1) ((Geom.ofEntry w).course p) false = true ∧ engRead t c.urgent 1 ((Geom.ofEntry w).course p) (charge t
    c.urgent false held s) = .ok (d, s2) := ⟨0, free, tileUp fun x =>
    { x with arr := { x.arr with queue := [{ cmd mm0 true true true with win := some (window0 2) }] } }, _,
    { cmd mm0 true true true with win := some (window0 2) }, window0 2, (0, 0), _, true, ⟨fun _ => ⟨by decide +kernel, fun k h1 h2
    => absurd (lt_of_le_of_lt (show 1 ≤ k from h1) (show k < 1 from h2)) (Nat.lt_irrefl _)⟩, fun _ => rfl⟩, rfl, rfl, rfl, by
    decide +kernel, rfl, by decide +kernel, by decide +kernel, by decide +kernel, rfl⟩

theorem witness_ArrayWorkCompletes_5 : ∃ (t : Nat) (held : Held) (s : State) (s1 : State) (s2 : State) (c : EngCmd) (codes : List
    Nat) (ops : List (Nat × BitVec 16 × Bool)), arrTurn s t = some c ∧ aOp c.raw ≠ 1 ∧ c.begun = true ∧ (s.tile t).arr.block <
    aBlocks c.raw ∧ c.win = none ∧ (((s.tile t).arr.active = true ∨ (s.tile t).arr.shadowFull = true)) ∧ ((firstOfBank c (s.tile
    t).arr = true → bankFree (s.tile t).arr (bankOf c (s.tile t).arr) = true)) ∧ s1 = (charge t c.urgent false held s).updArr t
    (swapIn c) ∧ aXKind c.raw ≠ 0 ∧ readVector t c s1 = .ok (codes, s2) ∧ ops = ((codes.zipIdx.filter fun p => decide (kOf c.raw
    (s1.tile t).arr.slice p.2 < aK c.raw)).map fun p => (p.2, operand c.raw (aXCode c.raw) (aXFmt c.raw) (xScale c.raw (s2.tile
    t).arr p.2) p.1)) := ⟨0, free, tileUp fun x =>
    { x with arr := { x.arr with queue := [cmd mm1 true true true], active := true } }, _, _, _, List.replicate 64 0, [(0, 0,
    false)], rfl, by decide +kernel, rfl, by decide +kernel, rfl, .inl rfl, by decide +kernel, rfl, by decide +kernel, rfl, by
    decide +kernel⟩

theorem witness_ArrayWorkCompletes_6 : ∃ (t : Nat) (s : State) (l : Landing) (rest : List Landing), s.tileLive t = true ∧
    s.tiles.length = 16 ∧ (s.tile t).arr.landing = l :: rest := ⟨0, tileUp fun x =>
    { x with arr := { x.arr with queue := [cmd mm0 true true true], landing := [⟨0, 0, true, true, [.fin 3 0]⟩] } }, _, _, rfl,
    rfl, rfl⟩

theorem witness_DrainAndSmallChannelComplete_1 : ∃ (t : Nat) (held : Held) (s : State) (s1 : State) (s2 : State) (c : EngCmd) (p :
    BitVec 512) (q : Nat × Nat × Nat) (corr : Option (List Nat)), s.tileLive t = true ∧ engHead s t 3 = some c ∧ c.pair = some p ∧
    q = drainPlace p c.pairWin (s.tile t).drn.row ∧ (s.tile t).drn.row + 1 < drainRows p c.pairWin ∧ (if p.toNat % 256 = 4 then
    (s.tile t).sce.bankDone else (s.tile t).arr.bankDone).getD (placeBank c.pairWin q) false = true ∧ withParams t c (beginCmd t 3
    (charge t c.urgent (decide (p.toNat % 256 = 4)) held s)) = .ok s1 ∧ corrOf t c p q.2.2 (64 * placeBank c.pairWin q + q.2.2 %
    64) s1 = .ok (corr, s2) := ⟨0, free, (tileUp fun x =>
    { x with drn := { x.drn with queue := [{ cmd drain0 true true true with pair := some (mm0 + word 512 [(64, 1)]) }] }, arr := { x.arr with bankDone := [true, false] } }),
    _, _, _, _, _, _, rfl, rfl, rfl, rfl, by decide +kernel, by decide +kernel, rfl, rfl⟩

theorem witness_DrainAndSmallChannelComplete_2 : ∃ (t : Nat) (held : Held) (s : State) (s1 : State) (c : EngCmd) (p : BitVec 512)
    (w : DrainWrite) (rest : List DrainWrite) (r : StepRun), s.tileLive t = true ∧ engHead s t 3 = some c ∧ c.pair = some p ∧
    (s.tile t).drn.out = w :: rest ∧ s.run t c.urgent = some r ∧ dnHod c.raw = false ∧ (if w.size = 128 then engWrite t c.urgent
    w.course w.data (charge t c.urgent false held s) else engPiece t c.urgent w (charge t c.urgent false held s)) = .ok s1 := ⟨0,
    free, tileUp fun x =>
    { x with drn := { x.drn with queue := [{ cmd drain0 true true true with pair := some (mm0 + word 512 [(64, 1)]) }], out := [⟨5, 0, 128, 7⟩] } },
    _, _, _, _, _, _, rfl, rfl, rfl, rfl, rfl, by decide +kernel, rfl⟩

theorem witness_DrainAndSmallChannelComplete_3 : ∃ (t : Nat) (s : State) (c : EngCmd) (p : BitVec 512) (w : DrainWrite) (rest :
    List DrainWrite) (r : StepRun), s.tileLive t = true ∧ engHead s t 3 = some c ∧ c.pair = some p ∧ (s.tile t).drn.out = w ::
    rest ∧ s.run t c.urgent = some r ∧ dnHod c.raw = true ∧ (s.tile t).hp.buf.length < 8 := ⟨0, tileUp fun x =>
    { x with drn := { x.drn with queue := [{ cmd (drain0 + word 512 [(16, 1)]) true true true with pair := some (mm0 + word 512 [(64, 1)]) }], out := [⟨5, 0, 128, 7⟩] } },
    _, _, _, _, _, rfl, rfl, rfl, rfl, rfl, by decide +kernel, by decide⟩

theorem witness_DrainAndSmallChannelComplete_4 : ∃ (t : Nat) (held : Held) (s : State) (s1 : State) (c : EngCmd) (d : BitVec
    1024), sceTurn s t = some c ∧ c.begun = true ∧ (s.tile t).sce.loadAt < scCourses c.raw ∧ engRead t c.urgent 2 ((scWStart c.raw
    + (s.tile t).sce.loadAt) % 32768) (charge t c.urgent true held s) = .ok (d, s1) ∧ (s.tile t).sce.loadAt + 1 < scLoads c.raw :=
    ⟨0, free, tileUp fun x => { x with sce := { x.sce with queue := [cmd (small0 0 1 1) true true true] } }, _, _, _, rfl, rfl, by
    decide +kernel, rfl, by decide +kernel⟩

theorem witness_DrainAndSmallChannelComplete_5 : ∃ (t : Nat) (held : Held) (s : State) (s1 : State) (c : EngCmd) (p : Nat × Nat)
    (d : BitVec 1024), sceTurn s t = some c ∧ c.begun = true ∧ scLoads c.raw ≤ (s.tile t).sce.loadAt ∧ (s.tile t).sce.pixel <
    scPixels c.raw ∧ 0 < (s.tile t).sce.tap ∧ (s.tile t).sce.tap + 1 < (Geom.ofEntry c.raw).taps ∧ (Geom.ofEntry c.raw).pixel
    ((s.tile t).sce.pixel / (Geom.ofEntry c.raw).ow.toNat) ((s.tile t).sce.pixel % (Geom.ofEntry c.raw).ow.toNat) (s.tile
    t).sce.tap = some p ∧ engRead t c.urgent 2 ((Geom.ofEntry c.raw).course p) (charge t c.urgent true held s) = .ok (d, s1) :=
    ⟨0, free, tileUp fun x =>
    { x with sce := { x.sce with queue := [cmd (small0 3 3 3) true true true], loadAt := 1, tap := 1 } }, _, _, (0, 1), _, rfl,
    rfl, by decide +kernel, by decide +kernel, by decide +kernel, by decide +kernel, by decide +kernel, rfl⟩

theorem witness_DrainAndSmallChannelComplete_6 : ∃ (t : Nat) (s : State) (c : EngCmd) (p : Nat) (row : BitVec 2048) (rest : List
    (Nat × BitVec 2048)), (s.tile t).sce.landing = (p, row) :: rest ∧ sceTurn s t = some c ∧ p + 1 ≠ scPixels c.raw := ⟨0, tileUp
    fun x => { x with sce := { x.sce with queue := [cmd (small0 3 1 2) true true true], landing := [(0, 5)] } }, _, _, _, _, rfl,
    rfl, by decide +kernel⟩

/-- An MSEND, and HOD commands: DECLARE, SEND, BROADCAST. -/
def msend0 : BitVec 512 := word 512 [(0, 5), (8, 3), (12, 9), (18, 1), (32, 7), (336, 4)]
def decl0 : BitVec 512 := word 512 [(0, 6), (10, 2), (32, 8), (48, 4), (64, 1), (67, 1), (80, 7), (96, 20), (112, 5), (118, 1)]
def send0 : BitVec 512 := word 512 [(0, 6), (8, 1), (10, 2), (32, 1), (336, 3)]
def bcast0 : BitVec 512 := word 512 [(0, 6), (8, 2), (10, 2), (32, 8), (48, 2), (69, 1), (80, 50), (112, 5), (118, 1)]

/-- A course of the mortar, of the hod, and of a broadcast. -/
def mcourse (last : Bool) : MortarCourse := ⟨0, false, 0, 3, 5, 7, 0, 0, last, if last then some 9 else none, false, ⟨[], 5, 0,
    0⟩⟩
def hcourse (t : Nat) (ep : BitVec 8) : HodCourse := ⟨t, false, 0, 2, 1, 0, ep, 0, 7⟩
def bcourse : BcastCourse := ⟨0, false, 0, 0, 3, 5, 7⟩
def dcourse : DmaPut := ⟨0, true, 3, 640, List.replicate 128 7, 128, 0, ⟨[], 5, 0, 0⟩⟩

/-- Target 2 is open for tiles 0 to 2, in order. -/
def tgtUp (f : HodTarget → HodTarget) (s : State) : State :=
  s.updTgt 2 fun g => f { g with state := 1, curA := declA decl0 0, curB := declB decl0 }

/-- Change the hod, or the mortar. -/
def hodOf (f : Hod → Hod) (s : State) : State := { s with hod := f s.hod }
def morOf (f : Mortar → Mortar) (s : State) : State := { s with mor := f s.mor }


theorem witness_MortarSendComplete_1 : ∃ (t : Nat) (held : Held) (s : State) (s1 : State) (c : EngCmd) (r : StepRun) (d : BitVec
    1024), s.tileLive t = true ∧ s.tiles.length = 16 ∧ msendTurn s t = some c ∧ s.run t c.urgent = some r ∧ engRead t c.urgent 5
    (((cmdRange c.raw 0x28).start + (s.tile t).ms.at_) % 32768) (charge t c.urgent false held s) = .ok (d, s1) := ⟨0, free, tileUp
    fun x => { x with ms := { x.ms with queue := [cmd msend0 true true true] } }, _, _, _, _, rfl, rfl, rfl, rfl, rfl⟩

theorem witness_MortarSendComplete_2 : ∃ (i : Nat) (met : Transit) (s : State) (m : MortarCourse), msendHere s i met.jitter = some
    m ∧ s.tiles.length = 16 ∧ m.dst < 16 ∧ s.tileLive m.dst = true := ⟨0, ⟨1, 2⟩, morOf (fun m =>
    { m with flight := [mcourse true] }) up, _, rfl, rfl, by decide, rfl⟩

theorem witness_MortarSendComplete_3 : ∃ (i : Nat) (met : Transit) (s : State) (m : MortarCourse), msendHere s i met.jitter = some
    m ∧ m.dst < 16 ∧ s.tileLive m.dst = true := ⟨0, ⟨1, 2⟩, morOf (fun m => { m with flight := [mcourse true] }) up, _, rfl, by
    decide, rfl⟩

theorem witness_MortarSendComplete_4 : ∃ (i : Nat) (met : Transit) (s : State) (m : MortarCourse), msendHere s i met.jitter = some
    m ∧ s.fencedTile m.dst = true := ⟨0, ⟨1, 2⟩, morOf (fun m => { m with flight := [mcourse true], fenced := 8 }) up, _, rfl,
    rfl⟩

theorem witness_MortarSendComplete_5 : ∃ (i : Nat) (met : Transit) (s : State) (m : DmaPut) (w : DmaWork), putHere s i met.jitter
    = some m ∧ s.tileLive m.tile = true ∧ (s.dma.chan m.ch).work = some w := ⟨0, ⟨1, 2⟩,
    { up with dma := { up.dma with flight := [dcourse], ch := lput up.dma.ch 0 { DmaChan.reset with work := some ⟨0, 0, 0x1000, false, 0, 0, 0, 0, [], 0, false, 0, 0⟩ } } },
    dcourse, _, rfl, rfl, rfl⟩

theorem witness_MortarSendComplete_6 : ∃ (i : Nat) (met : Transit) (s : State) (m : DmaPut), putHere s i met.jitter = some m ∧
    s.tiles.length = 16 ∧ m.tile < 16 ∧ s.tileLive m.tile = true ∧ m.data.length = 128 := ⟨0, ⟨1, 2⟩,
    { up with dma := { up.dma with flight := [dcourse] } }, dcourse, rfl, rfl, by decide, rfl, by decide⟩

theorem witness_MortarSendComplete_7 : ∃ (i : Nat) (s : State) (m : MortarCourse) (c : EngCmd), mayPass s.mor.acks i samePath =
    some m ∧ ownRun s m.src m.urgent m.start m.rerun = true ∧ m.failed = false ∧ m.last = true ∧ (s.tile m.src).ms.queue.find?
    (fun c => c.read && c.urgent == m.urgent && decide (c.index = m.index)) = some c := ⟨0, morOf (fun m =>
    { m with acks := [mcourse true] }) (tileUp fun x =>
    { x with ms := { x.ms with queue := [{ cmd msend0 true true true with read := true }] } }), mcourse true,
    { cmd msend0 true true true with read := true }, rfl, rfl, rfl, rfl, rfl⟩

theorem witness_MortarSendComplete_8 : ∃ (i : Nat) (s : State) (m : MortarCourse), mayPass s.mor.acks i samePath = some m ∧
    ((ownRun s m.src m.urgent m.start m.rerun = false ∨ m.failed = false ∧ m.last = false)) := ⟨0, morOf (fun m =>
    { m with acks := [mcourse false] }) (tileUp fun x => { x with ms := { x.ms with queue := [cmd msend0 true true true] } }),
    mcourse false, rfl, .inr ⟨rfl, rfl⟩⟩

theorem witness_MortarSendComplete_9 : ∃ (i : Nat) (s : State) (m : MortarCourse), mayPass s.mor.acks i samePath = some m ∧ ownRun
    s m.src m.urgent m.start m.rerun = true ∧ m.failed = true := ⟨0, morOf (fun m =>
    { m with acks := [{ mcourse false with failed := true }] }) (tileUp fun x =>
    { x with ms := { x.ms with queue := [cmd msend0 true true true] } }), { mcourse false with failed := true }, rfl, rfl, rfl⟩

theorem witness_EventLatchCompletes_1 : ∃ (s : State) (k : Nat) (lines : BitVec 64) (rest : List (Nat × BitVec 64)), s.te.pulses =
    (k, lines) :: rest ∧ s.tiles.length = 16 ∧ s.alive = true := ⟨{ up with te := { up.te with pulses := [(100, 5)] } }, 100, 5,
    [], rfl, by decide, rfl⟩

theorem witness_EventLatchCompletes_2 : ∃ (s : State), s.alive = false := ⟨{ up with clk := { up.clk with safeHold := true } },
    rfl⟩

theorem witness_ModeEpochsComplete_1 : ∃ (who : Who) (v : BitVec 32) (s : State), Claims.Writable who .always .yes s ∧ s.mor.mixed
    = false ∧ 1 ≤ (v.setWidth 8 - s.mor.epoch).toNat ∧ (v.setWidth 8 - s.mor.epoch).toNat ≤ 127 := ⟨.host, 3, up, ⟨rfl, rfl, rfl,
    rfl⟩, rfl, by decide, by decide⟩

theorem witness_ModeEpochsComplete_2 : ∃ (who : Who) (v : BitVec 32) (s : State), Claims.Writable who .always .yes s ∧
    ((s.mor.mixed = true ∨ (v.setWidth 8 - s.mor.epoch).toNat = 0 ∨ 127 < (v.setWidth 8 - s.mor.epoch).toNat)) := ⟨.host, 0, up,
    ⟨rfl, rfl, rfl, rfl⟩, .inr (.inl rfl)⟩

theorem witness_ModeEpochsComplete_3 : ∃ (s : State), s.tiles.length = 16 ∧ s.mor.clearing = 0 := ⟨morOf (fun m =>
    { m with deliver := 5, fenced := 4 }) up, rfl, rfl⟩

theorem witness_ModeEpochsComplete_4 : ∃ (s : State), s.mor.clearing ≠ 0 := ⟨morOf (fun m => { m with clearing := 5 }) up, by
    decide⟩

theorem witness_ModeEpochsComplete_5 : ∃ (t : Nat) (s : State), s.tiles.length = 16 ∧ s.tileLive t = true ∧
    s.mor.delivered.getLsbD t = true ∧ (s.tile t).st.free s.cycle = true := ⟨3, morOf (fun m =>
    { m with delivered := 8, epoch := 2 }) up, rfl, rfl, by decide +kernel, rfl⟩

theorem witness_ModeEpochsComplete_6 : ∃ (t : Nat) (s : State), t < 16 ∧ s.mor.reports.getLsbD t = true ∧ s.mor.mixed = true :=
    ⟨3, morOf (fun m => { m with reports := 8, pending := 12, mixed := true }) up, by decide, rfl, rfl⟩

theorem witness_ModeEpochsComplete_7 : ∃ (s : State), s.tiles.length = 16 := ⟨morOf (fun m => { m with clearing := 5 }) (up.updSt
    0 fun x => { x with seesMixed := true }), rfl⟩

theorem witness_HodTargetsComplete_1 : ∃ (t : Nat) (s : State) (c : EngCmd) (r : StepRun), hodHead s t = some c ∧ c.raw.toNat / 2
    ^ 8 % 2 ^ 2 = 0 ∧ hodCause s c.raw = none ∧ s.run t c.urgent = some r ∧ s.gated .hod = false ∧ s.hod.flight = [] ∧
    s.hod.tgts.length = 64 := ⟨0, (tileUp fun x => { x with hp := { x.hp with queue := [cmd decl0 false false false] } }), _, _,
    rfl, rfl, rfl, rfl, rfl, rfl, rfl⟩

theorem witness_HodTargetsComplete_2 : ∃ (t : Nat) (s : State) (c : EngCmd) (r : StepRun), hodHead s t = some c ∧ c.raw.toNat / 2
    ^ 8 % 2 ^ 2 = 0 ∧ hodCause s c.raw = none ∧ s.run t c.urgent = some r ∧ s.gated .hod = false ∧ s.hod.flight ≠ [] := ⟨0, hodOf
    (fun h => { h with flight := [hcourse 0 0] }) (tileUp fun x =>
    { x with hp := { x.hp with queue := [cmd decl0 false false false] } }), _, _, rfl, rfl, rfl, rfl, rfl, by decide +kernel⟩

theorem witness_HodTargetsComplete_3 : ∃ (who : Who) (n : Nat) (v : BitVec 64) (s : State), n < 64 ∧ Claims.Writable who .hod .yes
    s ∧ s.hod.flight = [] ∧ s.hod.tgts.length = 64 ∧ tgOp (s.tgt n).regA ≤ 4 ∧ declBad (s.tgt n).regA (((s.tgt n).regB &&&
    ~~~0x7F3FFF#64) ||| (v &&& 0x7F3FFF#64)) = false := ⟨.host, 2, 20, up.updTgt 2 fun g => { g with regA := declA decl0 0 }, by
    decide, ⟨rfl, rfl, rfl, rfl⟩, rfl, rfl, by decide +kernel, by decide +kernel⟩

theorem witness_HodTargetsComplete_4 : ∃ (who : Who) (n : Nat) (v : BitVec 64) (s : State), n < 64 ∧ Claims.Writable who .hod .yes
    s ∧ s.hod.flight ≠ [] ∧ s.hod.tgts.length = 64 ∧ tgOp (s.tgt n).regA ≤ 4 ∧ declBad (s.tgt n).regA (((s.tgt n).regB &&&
    ~~~0x7F3FFF#64) ||| (v &&& 0x7F3FFF#64)) = false := ⟨.host, 2, 20, (up.updTgt 2 fun g => { g with regA := declA decl0 0 }) |>
    hodOf (fun h => { h with flight := [hcourse 0 0] }), by decide, ⟨rfl, rfl, rfl, rfl⟩, by decide +kernel, rfl, by
    decide +kernel, by decide +kernel⟩

theorem witness_HodTargetsComplete_5 : ∃ (who : Who) (n : Nat) (s : State), n < 64 ∧ Claims.Writable who .hod .yes s ∧
    s.hod.tgts.length = 64 := ⟨.host, 63, up, by decide, ⟨rfl, rfl, rfl, rfl⟩, rfl⟩

theorem witness_HodSendAndBroadcastComplete_1 : ∃ (t : Nat) (held : Held) (s : State) (s1 : State) (c : EngCmd) (r : StepRun) (d :
    BitVec 1024), hodHead s t = some c ∧ c.raw.toNat / 2 ^ 8 % 2 ^ 2 = 1 ∧ c.checked = true ∧ c.issued = true ∧ s.run t c.urgent =
    some r ∧ (s.tile t).hp.buf.length < 8 ∧ engRead t c.urgent 4 (((cmdRange c.raw 0x28).start + (s.tile t).hp.sendAt) % 32768)
    (beginCmd t 4 (charge t c.urgent false held s)) = .ok (d, s1) := ⟨0, free, tgtUp id (tileUp fun x =>
    { x with hp := { x.hp with queue := [cmd send0 true true true] } }), _, _, _, _, rfl, rfl, rfl, rfl, rfl, by decide, rfl⟩

theorem witness_HodSendAndBroadcastComplete_2 : ∃ (t : Nat) (s : State) (c : EngCmd), hodHead s t = some c ∧ c.raw.toNat / 2 ^ 8 %
    2 ^ 2 = 2 ∧ c.begun = false ∧ hodCause s c.raw = none ∧ s.tiles.length = 16 := ⟨0, tgtUp id (tileUp fun x =>
    { x with hp := { x.hp with queue := [cmd bcast0 false false false] } }), _, rfl, rfl, rfl, rfl, rfl⟩

theorem witness_HodSendAndBroadcastComplete_3 : ∃ (t : Nat) (s : State) (c : EngCmd) (r : StepRun), hodHead s t = some c ∧
    c.raw.toNat / 2 ^ 8 % 2 ^ 2 = 2 ∧ c.begun = true ∧ c.read = false ∧ ((hWait c.raw = true → (s.tile t).hp.bcastAt = 0 → (s.tgt
    (hTgt c.raw)).state = 2)) ∧ s.run t c.urgent = some r := ⟨0, tgtUp (fun g => { g with state := 2 }) (tileUp fun x =>
    { x with hp := { x.hp with queue := [cmd bcast0 true true true], bcastAt := 1 } }), _, _, rfl, rfl, rfl, rfl, fun _ _ => rfl,
    rfl⟩

theorem witness_HodSendAndBroadcastComplete_4 : ∃ (t : Nat) (s : State) (c : EngCmd), hodHead s t = some c ∧ hWait c.raw = true ∧
    (s.tile t).hp.bcastAt = 0 ∧ (s.tgt (hTgt c.raw)).state ≠ 2 := ⟨0, tgtUp id (tileUp fun x =>
    { x with hp := { x.hp with queue := [cmd bcast0 true true true] } }), _, rfl, rfl, rfl, by decide +kernel⟩

theorem witness_HodSendAndBroadcastComplete_5 : ∃ (i : Nat) (s : State) (m : BcastCourse), mayPass s.hod.bcast i sameDest = some m
    ∧ s.tiles.length = 16 ∧ s.tileLive m.tile = true := ⟨0, hodOf (fun h => { h with bcast := [bcourse] }) up, _, rfl, rfl, rfl⟩

theorem witness_HodSendAndBroadcastComplete_6 : ∃ (t : Nat) (s : State) (c : EngCmd), hodHead s t = some c ∧ c.raw.toNat / 2 ^ 8 %
    2 ^ 2 = 2 ∧ c.read = true ∧ (s.hod.bcast.any fun m => decide (m.src = t) && m.urgent == c.urgent) = false := ⟨0, tgtUp id
    (tileUp fun x => { x with hp := { x.hp with queue := [{ cmd bcast0 true true true with read := true }] } }), _, rfl, rfl, rfl,
    rfl⟩

theorem witness_HodIntakeCompletes_1 : ∃ (lane : Nat) (t : Nat) (s : State) (h : HodCourse) (rest : List HodCourse), lane < 4 ∧
    laneFree s lane = true ∧ grantTile s lane = some t ∧ (s.tile t).hp.buf = h :: rest ∧ s.gated .hod = false ∧ judge (s.tgt
    h.tgt) h = .ok ∧ s.hod.tgts.length = 64 ∧ h.tgt < 64 := ⟨0, 1, tgtUp id (up.updTile 1 fun x =>
    { x with hp := { x.hp with buf := [hcourse 1 0] } }), hcourse 1 0, [], by decide, rfl, rfl, rfl, rfl, by decide +kernel, rfl,
    by decide⟩

theorem witness_HodIntakeCompletes_2 : ∃ (lane : Nat) (t : Nat) (s : State) (h : HodCourse) (rest : List HodCourse), lane < 4 ∧
    laneFree s lane = true ∧ grantTile s lane = some t ∧ (s.tile t).hp.buf = h :: rest ∧ s.gated .hod = false ∧ judge (s.tgt
    h.tgt) h = .epoch := ⟨3, 12, (tgtUp id (up.updTile 12 fun x => { x with hp := { x.hp with buf := [hcourse 12 9] } })).updTgt 2
    fun g => { g with curA := g.curA ||| word 64 [(60, 1)] }, hcourse 12 9, [], by decide, rfl, rfl, rfl, rfl, by decide +kernel⟩

theorem witness_HodIntakeCompletes_3 : ∃ (lane : Nat) (t : Nat) (s : State) (h : HodCourse) (rest : List HodCourse), lane < 4 ∧
    laneFree s lane = true ∧ grantTile s lane = some t ∧ (s.tile t).hp.buf = h :: rest ∧ s.gated .hod = false ∧ judge (s.tgt
    h.tgt) h = .other := ⟨3, 12, (up.updTile 12 fun x => { x with hp := { x.hp with buf := [hcourse 12 0] } }), hcourse 12 0, [],
    by decide, rfl, rfl, rfl, rfl, by decide +kernel⟩

theorem witness_HodIntakeCompletes_4 : ∃ (s : State) (n : HodNotice) (rest : List HodNotice), s.hod.notices = n :: rest ∧ ownRun s
    n.tile n.urgent n.start n.rerun = true := ⟨hodOf (fun h => { h with notices := [⟨0, false, 0, 0, true, false⟩] }) (tileUp id),
    ⟨0, false, 0, 0, true, false⟩, [], rfl, rfl⟩

theorem witness_HodIntakeCompletes_5 : ∃ (i : Nat) (jitter : Bool) (s : State) (h : HodCourse), applicable s i jitter = some h ∧
    s.gated .hod = false ∧ ((tgOrd (s.tgt h.tgt).curA = false ∨ tgContrib (s.tgt h.tgt).curA &&& lowerMask h.tile &&& maskAt
    (s.tgt h.tgt).combined h.off = tgContrib (s.tgt h.tgt).curA &&& lowerMask h.tile)) := ⟨0, true, tgtUp id (hodOf (fun h =>
    { h with flight := [hcourse 0 0] }) up), _, rfl, rfl, .inr (by decide +kernel)⟩

theorem witness_HodIntakeCompletes_6 : ∃ (i : Nat) (jitter : Bool) (s : State) (h : HodCourse), applicable s i jitter = some h ∧
    s.gated .hod = false ∧ s.hod.decls = [] ∧ tgOrd (s.tgt h.tgt).curA = true ∧ s.hod.tgts.length = 64 ∧ h.tgt < 64 ∧ h.tile < 16
    ∧ tgContrib (s.tgt h.tgt).curA &&& lowerMask h.tile &&& maskAt (s.tgt h.tgt).combined h.off ≠ tgContrib (s.tgt h.tgt).curA &&&
    lowerMask h.tile := ⟨0, true, tgtUp id (hodOf (fun h => { h with flight := [hcourse 2 0] }) up), _, rfl, rfl, rfl, rfl, rfl,
    by decide, by decide, by decide +kernel⟩

theorem witness_HodIntakeCompletes_7 : ∃ (n : Nat) (off : Nat) (t : Nat) (s : State), lowestSet 16 (tgContrib (s.tgt n).curA &&&
    ~~~maskAt (s.tgt n).combined off).toNat = some t ∧ (maskAt (s.tgt n).staged off).getLsbD t = true ∧ s.gated .hod = false :=
    ⟨2, 1, 1, tgtUp (fun g => { g with combined := [(1, 1)], staged := [(1, 2)] }) up, by decide +kernel, by decide +kernel, rfl⟩

/-- A device whose tile 0 has entry `e` at the head of its command list. -/
def listStep : StepRun :=
  { running descAll with
    listAt := 0x40
    listDone := false }
def listUp (e : BitVec 512) : State :=
  (up.updSt 0 fun x => { x with runN := some listStep }).updCore 0
    (ram ((List.range 16).map fun i => ⟨tagInt, e.extractLsb' (32 * i) 32⟩))

/-- STREAM entries: DECLARE, RELEASE, INVAL. -/
def sdecl0 : BitVec 512 := word 512 [(0, 7), (10, 3), (32, 5), (64, 8), (96, 0xFFFF), (112, 1), (128, 4)]
def srel0 : BitVec 512 := word 512 [(0, 7), (8, 1), (10, 3)]
def sinv0 : BitVec 512 := word 512 [(0, 7), (8, 2), (32, 5), (64, 8)]

/-- Tracker 3 is declared by tile 0, with `x` on its way; line 10 is present in its slice. -/
def trkUp (x : List ReadyLine) (s : State) : State :=
  ({ s with sc := { s.sc with capGib := 1, lines := [(wayKey 10 2, ⟨0, 7, false⟩)] } } : State).updTrk 3 fun k =>
    { k with
      state := 3
      base := 5
      stride := 1
      count := 4
      rep := 2
      depth := 4
      ready := x }

/-- Tile 0 waits for weights from stream 3. -/
def needs3 : State := tileUp fun x => { x with arr := { x.arr with queue := [cmd (mm0 + word 512 [(96, 3)]) true true true] } }

/-- Channel 1 is at work. -/
def chanUp (f : DdrChan → DdrChan) : State := up.updChan 1 fun x => f { x with trained := true }

/-- Change the stream cache. -/
def scOf (f : StreamCache → StreamCache) : State := { up with sc := f up.sc }


theorem witness_StreamRequestCompletes_1 : ∃ (n : Nat) (s : State), Claims.MayAsk n s ∧ s.capLines ≤ (s.sc.tracker n).lineOfReq
    (s.sc.tracker n).asked := ⟨3, (fun s : State => { s with sc := { s.sc with capGib := 0 } }) (trkUp [] up), ⟨by decide, rfl,
    rfl, by decide +kernel, by decide +kernel, by decide +kernel⟩, by decide +kernel⟩

theorem witness_StreamRequestCompletes_2 : ∃ (n : Nat) (s : State), Claims.MayAsk n s ∧ (s.sc.tracker n).lineOfReq (s.sc.tracker
    n).asked < s.capLines ∧ s.bypassed (lineSlice ((s.sc.tracker n).lineOfReq (s.sc.tracker n).asked)) = true := ⟨3, (fun s :
    State => { s with sc := { s.sc with fence := 0xFFFF } }) (trkUp [] up), ⟨by decide, rfl, rfl, by decide +kernel, by
    decide +kernel, by decide +kernel⟩, by decide +kernel, by decide +kernel⟩

theorem witness_StreamRequestCompletes_3 : ∃ (n : Nat) (s : State), Claims.MayAsk n s ∧ (s.sc.tracker n).lineOfReq (s.sc.tracker
    n).asked < s.capLines ∧ s.bypassed (lineSlice ((s.sc.tracker n).lineOfReq (s.sc.tracker n).asked)) = false ∧ s.sc.wayOf
    ((s.sc.tracker n).lineOfReq (s.sc.tracker n).asked) = none := ⟨3, (fun s : State =>
    { s with sc := { s.sc with lines := [] } }) (trkUp [] up), ⟨by decide, rfl, rfl, by decide +kernel, by decide +kernel, by
    decide +kernel⟩, by decide +kernel, by decide +kernel, by decide +kernel⟩

set_option maxRecDepth 16000 in
theorem witness_StreamRequestCompletes_4 : ∃ (n : Nat) (s : State) (w : Nat) (y : CacheLine), Claims.MayAsk n s ∧ (s.sc.tracker
    n).lineOfReq (s.sc.tracker n).asked < s.capLines ∧ s.bypassed (lineSlice ((s.sc.tracker n).lineOfReq (s.sc.tracker n).asked))
    = false ∧ s.sc.wayOf ((s.sc.tracker n).lineOfReq (s.sc.tracker n).asked) = some w ∧ kget s.sc.lines (wayKey ((s.sc.tracker
    n).lineOfReq (s.sc.tracker n).asked) w) = some y := ⟨3, trkUp [] up, 2, ⟨0, 7, false⟩, ⟨by decide, rfl, rfl, by
    decide +kernel, by decide +kernel, by decide +kernel⟩, by decide +kernel, by decide +kernel, by decide +kernel, by
    decide +kernel⟩

theorem witness_StreamsComplete_2 : ∃ (t : Nat) (u : Bool) (s : State) (r : StepRun) (e : BitVec 512), outerEntry s t u 7 = some
    (r, e) ∧ streamCause s t e = none ∧ s.gated .sc = false ∧ e.toNat / 2 ^ 8 % 2 ^ 2 = 0 := ⟨0, false, listUp sdecl0, listStep,
    sdecl0, by decide +kernel, by decide +kernel, rfl, by decide +kernel⟩

theorem witness_StreamsComplete_3 : ∃ (t : Nat) (u : Bool) (s : State) (r : StepRun) (e : BitVec 512), outerEntry s t u 7 = some
    (r, e) ∧ streamCause s t e = none ∧ s.gated .sc = false ∧ e.toNat / 2 ^ 8 % 2 ^ 2 = 1 := ⟨0, false, listUp srel0, listStep,
    srel0, by decide +kernel, by decide +kernel, rfl, by decide +kernel⟩

theorem witness_StreamsComplete_4 : ∃ (t : Nat) (u : Bool) (s : State) (r : StepRun) (e : BitVec 512), outerEntry s t u 7 = some
    (r, e) ∧ streamCause s t e = none ∧ s.gated .sc = false ∧ e.toNat / 2 ^ 8 % 2 ^ 2 = 2 ∧ s.sc.inval = none := ⟨0, false, listUp
    sinv0, listStep, sinv0, by decide +kernel, by decide +kernel, rfl, by decide +kernel, rfl⟩

theorem witness_StreamsComplete_5 : ∃ (t : Nat) (u : Bool) (s : State) (r : StepRun) (e : BitVec 512), outerEntry s t u 7 = some
    (r, e) ∧ streamCause s t e = none ∧ s.gated .sc = true ∧ e.toNat / 2 ^ 8 % 2 ^ 2 = 0 := ⟨0, false, (fun s : State =>
    { s with clk := { s.clk with gate := setBit s.clk.gate 17 false } }) (listUp sdecl0), listStep, sdecl0, by decide +kernel, by
    decide +kernel, rfl, by decide +kernel⟩

theorem witness_StreamsComplete_6 : ∃ (t : Nat) (u : Bool) (s : State) (r : StepRun) (e : BitVec 512), outerEntry s t u 7 = some
    (r, e) ∧ streamCause s t e = none ∧ s.gated .sc = true ∧ e.toNat / 2 ^ 8 % 2 ^ 2 = 1 := ⟨0, false, (fun s : State =>
    { s with clk := { s.clk with gate := setBit s.clk.gate 17 false } }) (listUp srel0), listStep, srel0, by decide +kernel, by
    decide +kernel, rfl, by decide +kernel⟩

theorem witness_StreamsComplete_7 : ∃ (t : Nat) (u : Bool) (s : State) (r : StepRun) (e : BitVec 512), outerEntry s t u 7 = some
    (r, e) ∧ streamCause s t e = none ∧ s.gated .sc = true ∧ e.toNat / 2 ^ 8 % 2 ^ 2 = 2 := ⟨0, false, (fun s : State =>
    { s with clk := { s.clk with gate := setBit s.clk.gate 17 false } }) (listUp sinv0), listStep, sinv0, by decide +kernel, by
    decide +kernel, rfl, by decide +kernel⟩

theorem witness_StreamsComplete_8 : ∃ (n : Nat) (held : LineWait) (s : State) (x : ReadyLine) (w : Bool) (u : Bool), n < 64 ∧
    (s.sc.tracker n).state = 3 ∧ ((s.sc.tracker n).ready.find? fun x => x.seq = (s.sc.tracker n).used) = some x ∧ consumerOf s n =
    some (w, u) ∧ s.tileLive (s.sc.tracker n).owner = true ∧ 0 < consumerRoom s n ∧ x.mesh.through = true ∧ x.mesh.since + 1 ≤
    s.cycle ∧ held.bad = true := ⟨3, ⟨0, 0, 0, true⟩, trkUp [⟨0, true, false, 10, 7, false, ⟨[], 5, 0, 0⟩⟩] needs3, _, _, _, by
    decide, rfl, rfl, rfl, rfl, by decide +kernel, rfl, by decide +kernel, rfl⟩

theorem witness_StreamsComplete_9 : ∃ (n : Nat) (held : LineWait) (s : State) (x : ReadyLine) (w : Bool) (u : Bool), n < 64 ∧
    (s.sc.tracker n).state = 3 ∧ ((s.sc.tracker n).ready.find? fun x => x.seq = (s.sc.tracker n).used) = some x ∧ consumerOf s n =
    some (w, u) ∧ s.tileLive (s.sc.tracker n).owner = true ∧ 0 < consumerRoom s n ∧ x.mesh.through = true ∧ x.mesh.since + 1 ≤
    s.cycle ∧ held.bad = false := ⟨3, ⟨0, 0, 0, false⟩, trkUp [⟨0, true, false, 10, 7, false, ⟨[], 5, 0, 0⟩⟩] needs3, _, _, _, by
    decide, rfl, rfl, rfl, rfl, by decide +kernel, rfl, by decide +kernel, rfl⟩

theorem witness_SliceControlComplete_2 : ∃ (who : Who) (v : BitVec 32) (s : State), Claims.Writable who .sc .yes s ∧ v.getLsbD 31
    = true ∧ s.sc.inval = none ∧ v.getLsbD 30 = false := ⟨.host, 0x80000005, up, ⟨rfl, rfl, rfl, rfl⟩, rfl, rfl, rfl⟩

theorem witness_SliceControlComplete_3 : ∃ (who : Who) (v : BitVec 32) (s : State), Claims.Writable who .sc .yes s ∧ v.getLsbD 31
    = true ∧ s.sc.inval = none ∧ v.getLsbD 30 = true := ⟨.host, 0xC0000005, up, ⟨rfl, rfl, rfl, rfl⟩, rfl, rfl, rfl⟩

theorem witness_SliceControlComplete_4 : ∃ (who : Who) (s : State), Claims.Writable who .sc .no s := ⟨.quoin, up, ⟨rfl, rfl, rfl⟩⟩

theorem witness_SliceControlComplete_5 : ∃ (n : Nat) (s : State), n < 16 ∧ s.gated .sc = false ∧ s.sc.sliceState.getD n .on =
    .waking ∧ s.sc.wakeFrom.getD n 0 + 2000 ≤ s.te.time := ⟨15, scOf fun c => { c with sliceState := List.replicate 16 .waking },
    by decide, rfl, rfl, by decide +kernel⟩

theorem witness_SliceControlComplete_6 : ∃ (n : Nat) (s : State), n < 16 ∧ s.gated .sc = false ∧ s.sc.sliceState.getD n .on =
    .draining ∧ fillOutstanding s n = false := ⟨15, scOf fun c => { c with sliceState := List.replicate 16 .draining }, by decide,
    rfl, rfl, by decide +kernel⟩

theorem witness_SliceControlComplete_7 : ∃ (who : Who) (s : State), Claims.Writable who .sc .no s := ⟨.quoin, up, ⟨rfl, rfl, rfl⟩⟩

theorem witness_DdrChannelsComplete_2 : ∃ (c : Nat) (i : Nat) (s : State) (r : DdrReq), (s.chan c).queue[i]? = some r ∧ chanServes
    s c = true ∧ stolenNow s c = false ∧ gapTaskOn s c = false ∧ mayServe (s.chan c) i r = true := ⟨1, 0, chanUp fun x =>
    { x with queue := [⟨1, .write 0 (List.replicate 128 7) none, 2, 0, 0, false, false⟩] }, _, rfl, rfl, rfl, rfl, by
    decide +kernel⟩

theorem witness_DdrChannelsComplete_3 : ∃ (c : Nat) (i : Nat) (off : Nat) (err : BeatErr) (s : State) (r : DdrReq) (bs : List
    (BitVec 8)) (ch : Option Nat), (s.chan c).queue[i]? = some r ∧ chanServes s c = true ∧ stolenNow s c = false ∧ gapTaskOn s c =
    false ∧ mayServe (s.chan c) i r = true ∧ r.kind = .write off bs ch ∧ ((off = 0 ∧ bs.length = 128 ∨ err.bad = false)) := ⟨1, 0,
    0, ⟨0, 0, false, false, 0⟩, chanUp fun x =>
    { x with queue := [⟨1, .write 0 (List.replicate 128 7) none, 2, 0, 0, false, false⟩] }, _, _, _, rfl, rfl, rfl, rfl, by
    decide +kernel, rfl, .inr rfl⟩

theorem witness_DdrChannelsComplete_4 : ∃ (c : Nat) (s : State), (stolenNow s c = true ∨ gapTaskOn s c = true) := ⟨1, (fun s :
    State => { s with cal := { s.cal with ch := upd s.cal.ch 1 fun k => { k with running := some (.dqs, 0) } } }) (chanUp fun x =>
    { x with queue := [⟨1, .write 0 (List.replicate 128 7) none, 2, 0, 0, false, false⟩] }), .inr (by decide +kernel)⟩

theorem witness_DdrChannelsComplete_5 : ∃ (l : Nat) (s : State), lineChan l < 8 ∧ s.ddr.ch.length = 8 := ⟨1, up, by
    decide +kernel, rfl⟩

theorem witness_DdrChannelsComplete_6 : ∃ (c : Nat) (b : Nat) (s : State), chanServes s c = true ∧ b < (if (s.chan
    c).trainedCfg.getLsbD 2 then 64 else 32) ∧ sget (fun _ => 0) (s.chan c).refreshed b + (if (s.chan c).hot then 1950 else 3900)
    ≤ s.te.time := ⟨1, 31, chanUp id, by decide +kernel, by decide +kernel, by decide +kernel⟩

theorem witness_DdrChannelsComplete_7 : ∃ (c : Nat) (s : State), chanServes s c = true ∧ (s.chan c).srReq = true ∧ (s.chan
    c).queue = [] ∧ (s.cal.ch.getD c .reset).running = none ∧ (s.chan c).emptySince + 100000 ≤ s.te.time := ⟨1, (fun s : State =>
    { s with te := { s.te with time := 200000 } }) (chanUp fun x => { x with srReq := true }), rfl, rfl, rfl, rfl, by
    decide +kernel⟩

theorem witness_DdrChannelsComplete_8 : ∃ (c : Nat) (t : Nat) (s : State), (s.chan c).exiting = some t ∧ t + 2000 ≤ s.te.time ∧
    s.gated (.ddr c) = false := ⟨1, 0, chanUp fun x => { x with sr := true, exiting := some 0 }, rfl, by decide +kernel, rfl⟩

theorem witness_DdrChannelsComplete_9 : ∃ (who : Who) (c : Nat) (s : State), c < 8 ∧ Claims.Writable who (.ddr c) .no s :=
    ⟨.quoin, 7, up, by decide, ⟨rfl, rfl, rfl⟩⟩

/-- A ring context: 16 slots in host memory at 0x1000, LIMIT 5, doorbells of tile 0 or of the host. -/
def ctx0 (tile : Nat) : BitVec 512 := word 512 [(0, 0x1000), (64, 4), (86, tile), (160, 5)]

/-- Descriptors: a COPY of 4 bytes of host memory to host memory, and to FIFO 3, with and without a record. -/
def copy0 (rec : Nat) : BitVec 512 := word 512 [(0, 1), (4, rec), (64, 0x100), (128, 0x200), (192, 4)]
/-- A COPY of 4 bytes of host memory to tile 0's store. -/
def copyT : BitVec 512 := word 512 [(0, 1), (64, 0x100), (188, 2), (192, 4)]
/-- A COPY of 4 bytes of DDR5. -/
def copyD : BitVec 512 := word 512 [(0, 1), (64, 0x100), (124, 1), (128, 0x200), (192, 4)]
def copyF : BitVec 512 := word 512 [(0, 1), (64, 0x100), (128, 3), (188, 4), (192, 4)]

/-- Work on a descriptor: bytes read, bytes in the funnel. -/
def work0 (d : BitVec 512) (got : Nat) (f : List (BitVec 8)) : DmaWork := ⟨0, d, 0x1000, false, 0, got, 4 - f.length, 0, f, 0,
    false, 0, 0⟩

/-- A completion record for queue 2. -/
def rec0 : CqRecord := ⟨2, 0, 0, 0, 0, 0, 0, 4, false⟩

/-- Change the DMA engine, or channel 1. -/
def dmaOf (f : Dma → Dma) (s : State) : State := { s with dma := f s.dma }
def chUp (f : DmaChan → DmaChan) : State := up.updDch 1 f

/-- Ring 0 on chip, in state `st`. -/
def ringUp (st : BitVec 3) (tile : Nat) (s : State) : State :=
  dmaOf (fun d => { d with cache := [⟨0, ctx0 tile⟩], rings := [(0, ⟨st, 0, 0, 0⟩)] }) s

/-- The device with the context of ring 0 in DDR5. -/
def ctxUp : State := { up with ddr := { up.ddr with
    bytes := [(1, 0x10), (8, 4), (10, 0x40), (20, 5)]
    ch := up.ddr.ch.map fun c => { c with trained := true } } }

/-- Every context on chip is pinned. -/
def fullUp (s : State) : State := dmaOf (fun d => { d with
  cache := (List.range 256).map fun i => ⟨i + 1, ctx0 0⟩
  rings := (List.range 256).map fun i => (i + 1, ⟨3, 0, 0, 0⟩) }) s

/-- A READY ring in DDR5, with every channel in self-refresh. -/
def asleepUp : State :=
  dmaOf (fun d => { d with cache := [⟨0, ctx0 0 ||| word 512 [(60, 1)]⟩], rings := [(0, ⟨2, 0, 0, 0⟩)] })
    { up with
      sc := { up.sc with capGib := 1 }
      ddr := { up.ddr with ch := up.ddr.ch.map fun x => { x with sr := true } } }

/-- Queue 2 is enabled, with 16 slots in host memory. -/
def cqUp (s : State) : State := s.updCq 2 fun q => { q with cfg := 0x1004, base := 0x4000 }


theorem witness_RingCommandsComplete_1 : ∃ (who : Who) (n : Nat) (err : BeatErr) (s : State), n < 2 ^ 15 ∧ Claims.Writable who
    .dma .yes s ∧ s.flt.devFault = false ∧ (((s.dma.live n).state = 0 ∨ (s.dma.live n).state = 4)) ∧ Claims.AtOnce s n ∧ ctxOk
    (Claims.image s n) = true ∧ err.bad = false ∧ (s.dma.cache.filter fun x => x.ring ≠ n).length < 256 := ⟨.host, 0, .none,
    ctxUp, by decide, ⟨rfl, rfl, rfl, rfl⟩, rfl, .inl rfl, ⟨rfl, by decide +kernel, by decide +kernel⟩, by decide +kernel, rfl, by
    decide +kernel⟩

theorem witness_RingCommandsComplete_2 : ∃ (who : Who) (n : Nat) (err : BeatErr) (s : State), n < 2 ^ 15 ∧ Claims.Writable who
    .dma .yes s ∧ s.flt.devFault = false ∧ (((s.dma.live n).state = 0 ∨ (s.dma.live n).state = 4)) ∧ Claims.AtOnce s n ∧ ctxOk
    (Claims.image s n) = true ∧ err.bad = false ∧ 256 ≤ (s.dma.cache.filter fun x => x.ring ≠ n).length ∧ ((∀ x ∈ s.dma.cache,
    x.ring ≠ n → ctxPinned s x.ring = true)) := ⟨.host, 0, .none, fullUp ctxUp, by decide, ⟨rfl, rfl, rfl, rfl⟩, rfl, .inl rfl,
    ⟨rfl, by decide +kernel, by decide +kernel⟩, by decide +kernel, rfl, by decide +kernel, by decide +kernel⟩

theorem witness_RingCommandsComplete_3 : ∃ (who : Who) (n : Nat) (s : State), n < 2 ^ 15 ∧ Claims.Writable who .dma .yes s ∧
    s.flt.devFault = false ∧ (((s.dma.live n).state = 0 ∨ (s.dma.live n).state = 4)) ∧ s.chanGated (ctxAt s n / 128) = false ∧
    opWaits s n = false ∧ s.ddrFast (ctxAt s n / 128) = false := ⟨.host, 0, up, by decide, ⟨rfl, rfl, rfl, rfl⟩, rfl, .inl rfl,
    rfl, rfl, by decide +kernel⟩

theorem witness_RingCommandsComplete_4 : ∃ (who : Who) (n : Nat) (s : State), n < 2 ^ 15 ∧ Claims.Writable who .dma .yes s ∧
    s.flt.devFault = false ∧ (((s.dma.live n).state = 0 ∨ (s.dma.live n).state = 4)) ∧ s.chanGated (ctxAt s n / 128) = false ∧
    opWaits s n = true := ⟨.host, 0, dmaOf (fun d => { d with after := [.init 0] }) up, by decide, ⟨rfl, rfl, rfl, rfl⟩, rfl, .inl
    rfl, rfl, rfl⟩

theorem witness_RingCommandsComplete_5 : ∃ (who : Who) (n : Nat) (s : State), n < 2 ^ 15 ∧ Claims.Writable who .dma .yes s ∧
    s.flt.devFault = false ∧ opWaits s n = false ∧ (((s.dma.live n).state = 1 ∨ (s.dma.live n).state = 2)) := ⟨.host, 0, ringUp 1
    0 up, by decide, ⟨rfl, rfl, rfl, rfl⟩, rfl, rfl, .inl rfl⟩

theorem witness_RingCommandsComplete_6 : ∃ (who : Who) (n : Nat) (s : State), n < 2 ^ 15 ∧ Claims.Writable who .dma .yes s ∧
    s.flt.devFault = false ∧ opWaits s n = false ∧ (s.dma.live n).state = 3 := ⟨.host, 0, ringUp 3 0 up, by decide, ⟨rfl, rfl,
    rfl, rfl⟩, rfl, rfl, rfl⟩

theorem witness_RingCommandsComplete_7 : ∃ (who : Who) (n : Nat) (err : BeatErr) (s : State), n < 2 ^ 15 ∧ Claims.Writable who
    .dma .yes s ∧ s.flt.devFault = false ∧ (s.dma.live n).state = 4 ∧ s.dma.ctx n = none ∧ Claims.AtOnce s n ∧ err.bad = false ∧
    s.dma.cache.length < 256 := ⟨.host, 0, .none, dmaOf (fun d => { d with rings := [(0, ⟨4, 0, 0, 0⟩)] }) ctxUp, by decide, ⟨rfl,
    rfl, rfl, rfl⟩, rfl, rfl, rfl, ⟨rfl, by decide +kernel, by decide +kernel⟩, rfl, by decide +kernel⟩

theorem witness_RingCommandsComplete_8 : ∃ (who : Who) (n : Nat) (s : State) (c : BitVec 512), n < 2 ^ 15 ∧ Claims.Writable who
    .dma .yes s ∧ s.flt.devFault = false ∧ opWaits s n = false ∧ (s.dma.live n).state = 4 ∧ s.dma.ctx n = some c := ⟨.host, 0,
    ringUp 4 0 up, _, by decide, ⟨rfl, rfl, rfl, rfl⟩, rfl, rfl, rfl, rfl⟩

theorem witness_RingCommandsComplete_9 : ∃ (who : Who) (n : Nat) (s : State), n < 2 ^ 15 ∧ Claims.Writable who .dma .yes s ∧
    s.flt.devFault = false ∧ opWaits s n = false ∧ (((s.dma.live n).state = 1 ∨ (s.dma.live n).state = 4)) ∧ s.ddr.ch.length = 8 ∧
    swf (fun _ => RingLive.reset) s.dma.rings = true := ⟨.host, 0, ringUp 1 0 up, by decide, ⟨rfl, rfl, rfl, rfl⟩, rfl, rfl, .inl
    rfl, rfl, by decide +kernel⟩

theorem witness_RingCommandsComplete_10 : ∃ (who : Who) (s : State), Claims.Writable who .dma .yes s ∧ s.flt.devFault = false :=
    ⟨.host, ringUp 1 0 up, ⟨rfl, rfl, rfl, rfl⟩, rfl⟩

theorem witness_DoorbellsAndFifosComplete_1 : ∃ (n : Nat) (s : State) (c : BitVec 512), n < 2 ^ 15 ∧ s.barOpen = true ∧
    ((s.sec.life = .chrysalis ∨ s.sec.life = .imago)) ∧ s.flt.devFault = false ∧ s.gated .dma = false ∧ standby s = false ∧
    c.getLsbD 86 = false ∧ s.dma.ctx n = some c ∧ opWaits s n = false := ⟨0, ringUp 1 0 up, ctx0 0, by decide, rfl, .inr rfl, rfl,
    rfl, rfl, by decide +kernel, rfl, rfl⟩

theorem witness_DoorbellsAndFifosComplete_2 : ∃ (t : Nat) (u : Bool) (s : State) (r : StepRun) (e : BitVec 512) (c : BitVec 512),
    ownEntry s t u 9 = some (r, e) ∧ strayBits e [(0, 8), (32, 15), (64, 32)] = false ∧ s.gated .dma = false ∧ opWaits s (e.toNat
    / 2 ^ 32 % 2 ^ 15) = false ∧ s.dma.ctx (e.toNat / 2 ^ 32 % 2 ^ 15) = some c ∧ c.getLsbD 86 = true ∧ cTile c = t := ⟨0, false,
    ringUp 1 1 (listUp (word 512 [(0, 9), (64, 2)])), listStep, (word 512 [(0, 9), (64, 2)]), _, by decide +kernel, by
    decide +kernel, rfl, rfl, rfl, rfl, rfl⟩

theorem witness_DoorbellsAndFifosComplete_3 : ∃ (t : Nat) (n : Nat) (u : Bool) (s : State) (r : StepRun) (e : BitVec 512),
    ownEntry s t u 9 = some (r, e) ∧ n = e.toNat / 2 ^ 32 % 2 ^ 15 ∧ strayBits e [(0, 8), (32, 15), (64, 32)] = false ∧ s.gated
    .dma = false ∧ s.dma.ctx n = none ∧ Claims.AtOnce s n ∧ (Claims.image s n).getLsbD 86 = true ∧ cTile (Claims.image s n) = t :=
    ⟨0, 0, false, { listUp (word 512 [(0, 9), (64, 2)]) with ddr := ctxUp.ddr }, listStep, (word 512 [(0, 9), (64, 2)]), by
    decide +kernel, by decide +kernel, by decide +kernel, rfl, rfl, ⟨rfl, by decide +kernel, by decide +kernel⟩, by
    decide +kernel, by decide +kernel⟩

theorem witness_DoorbellsAndFifosComplete_4 : ∃ (t : Nat) (n : Nat) (u : Bool) (s : State) (r : StepRun) (e : BitVec 512),
    ownEntry s t u 9 = some (r, e) ∧ n = e.toNat / 2 ^ 32 % 2 ^ 15 ∧ strayBits e [(0, 8), (32, 15), (64, 32)] = false ∧ s.gated
    .dma = false ∧ s.dma.ctx n = none ∧ opWaits s n = false ∧ s.chanGated (ctxAt s n / 128) = false ∧ s.ddrFast (ctxAt s n / 128)
    = false := ⟨0, 0, false, listUp (word 512 [(0, 9), (64, 2)]), listStep, (word 512 [(0, 9), (64, 2)]), by decide +kernel, by
    decide +kernel, by decide +kernel, rfl, rfl, rfl, rfl, by decide +kernel⟩

theorem witness_DoorbellsAndFifosComplete_5 : ∃ (t : Nat) (u : Bool) (s : State) (r : StepRun) (e : BitVec 512) (k : Nat) (n :
    Nat), ownEntry s t u 8 = some (r, e) ∧ k = e.toNat / 2 ^ 32 % 2 ^ 8 ∧ n = e.toNat / 2 ^ 64 % 2 ^ 16 ∧ strayBits e [(0, 8),
    (32, 8), (64, 16)] = false ∧ s.gated .dma = false ∧ 1 ≤ n ∧ n ≤ 32768 ∧ ((k / 8 = t ∨ (128 ≤ k ∧ k ≤ 135))) ∧ n ≤
    ((s.dma.fifoOf k).put - (s.dma.fifoOf k).take).toNat := ⟨0, false, (listUp (word 512 [(0, 8), (32, 3), (64, 2)])).updFifo 3
    fun f => { f with put := 2 }, listStep, (word 512 [(0, 8), (32, 3), (64, 2)]), 3, 2, by decide +kernel, by decide +kernel, by
    decide +kernel, by decide +kernel, rfl, by decide, by decide, .inl rfl, by decide +kernel⟩

theorem witness_DoorbellsAndFifosComplete_6 : ∃ (who : Who) (k : Nat) (s : State), k < 136 ∧ Claims.Writable who .dma .yes s :=
    ⟨.host, 135, up, by decide, ⟨rfl, rfl, rfl, rfl⟩⟩

theorem witness_DoorbellsAndFifosComplete_7 : ∃ (who : Who) (k : Nat) (v : BitVec 32) (s : State), k < 136 ∧ Claims.Writable who
    .dma .yes s ∧ v.toNat % 2 ^ 16 ≤ ((s.dma.fifoOf k).put - (s.dma.fifoOf k).take).toNat := ⟨.host, 135, 2, up.updFifo 135 fun f
    => { f with put := 2 }, by decide, ⟨rfl, rfl, rfl, rfl⟩, by decide +kernel⟩

theorem witness_DescriptorsComplete_1 : ∃ (c : Nat) (n : Nat) (host : HostAns) (ecc : LineEcc) (err : BeatErr) (s : State) (s1 :
    State) (d : BitVec 512) (slot : BitVec 64), chanFree s c = true ∧ ringWaiting s = none ∧ nextRing s c = some n ∧ consumable
    (ctxPeek s n) = true ∧ slot = aAt (cBase (ctxPeek s n)) (aByte (cBase (ctxPeek s n)) + 64 * cHead (ctxPeek s n)) ∧ sourceWaits
    c slot (aByte slot) 64 ecc s = false ∧ readSlot c slot host ecc err s = (some d, s1) := ⟨0, 0, .data [1], .clean, .none,
    ringUp 2 0 up, _, _, _, rfl, rfl, rfl, by decide +kernel, rfl, rfl, rfl⟩

theorem witness_DescriptorsComplete_2 : ∃ (c : Nat) (n : Nat) (ecc : LineEcc) (s : State) (slot : BitVec 64), chanFree s c = true
    ∧ ringWaiting s = none ∧ nextRing s c = some n ∧ consumable (ctxPeek s n) = true ∧ slot = aAt (cBase (ctxPeek s n)) (aByte
    (cBase (ctxPeek s n)) + 64 * cHead (ctxPeek s n)) ∧ sourceWaits c slot (aByte slot) 64 ecc s = true := ⟨0, 0, .clean,
    asleepUp, _, rfl, by decide +kernel, by decide +kernel, by decide +kernel, rfl, by decide +kernel⟩

theorem witness_DescriptorsComplete_3 : ∃ (c : Nat) (s : State) (s1 : State) (w : DmaWork) (cause : Nat) (got : Nat),
    Claims.MayMove c s w ∧ 0 < w.nextWrite ∧ xFifo w.desc = none ∧ ((aSpace (xDst w.desc) = 2 → unitInSpace s (xDst w.desc) (xTo
    w.desc w.elem + w.put) w.nextWrite = false)) ∧ writeUnit c (xDst w.desc) (xTo w.desc w.elem + w.put) (w.funnel.take
    w.nextWrite) s = ((cause, got), s1) ∧ s1.flt.devFault = false := ⟨1, chUp fun c =>
    { c with work := some { work0 (copy0 0) 4 [1, 2, 3, 4] with put := 0 } }, _, { work0 (copy0 0) 4 [1, 2, 3, 4] with put := 0 },
    _, _, ⟨by decide, rfl, rfl, rfl, rfl, rfl⟩, by decide +kernel, rfl, by decide +kernel, rfl, rfl⟩

theorem witness_DescriptorsComplete_4 : ∃ (c : Nat) (s : State) (w : DmaWork), Claims.MayMove c s w ∧ 0 < w.nextWrite ∧ xFifo
    w.desc = none ∧ aSpace (xDst w.desc) = 2 ∧ s.dma.ch.length = 64 ∧ unitInSpace s (xDst w.desc) (xTo w.desc w.elem + w.put)
    w.nextWrite = true := ⟨1, chUp fun c => { c with work := some { work0 copyT 4 [1, 2, 3, 4] with put := 0 } },
    { work0 copyT 4 [1, 2, 3, 4] with put := 0 }, ⟨by decide, rfl, rfl, rfl, rfl, rfl⟩, by decide +kernel, rfl, by decide +kernel,
    rfl, by decide +kernel⟩

theorem witness_DescriptorsComplete_5 : ∃ (c : Nat) (k : Nat) (s : State) (w : DmaWork), Claims.MayMove c s w ∧ 0 < w.nextWrite ∧
    xFifo w.desc = some k ∧ putWaits c w s = false ∧ fifoHigh k s = false ∧ fifoOpen k s = true ∧ s.dma.ch.length = 64 := ⟨1, 3,
    (chUp fun c => { c with work := some { work0 copyF 4 [1, 2, 3, 4] with put := 0 } }).updFifo 3 fun f =>
    { f with cfg := 0x200010000 }, { work0 copyF 4 [1, 2, 3, 4] with put := 0 }, ⟨by decide, rfl, rfl, rfl, rfl, rfl⟩, by
    decide +kernel, rfl, by decide +kernel, by decide +kernel, by decide +kernel, rfl⟩

theorem witness_DescriptorsComplete_6 : ∃ (c : Nat) (host : HostAns) (ecc : LineEcc) (err : BeatErr) (ce : Nat) (ue : Bool) (met :
    UnitMet) (s : State) (s1 : State) (w : DmaWork) (cause : Nat) (bs : List (BitVec 8)), Claims.MayMove c s w ∧ w.nextWrite = 0 ∧
    w.reading = true ∧ sourceWaits c (xSrc w.desc) (xFrom w.desc w.elem + w.read) (min (128 - (xFrom w.desc w.elem + w.read) %
    128) (xElen w.desc - w.read)) ecc s = false ∧ readUnit c (xSrc w.desc) (xFrom w.desc w.elem + w.read) (min (128 - (xFrom
    w.desc w.elem + w.read) % 128) (xElen w.desc - w.read)) host ecc err ce ue met s = ((cause, bs), s1) ∧ s1.flt.devFault = false
    := ⟨1, .data [1, 2, 3, 4], .clean, .none, 0, false, ⟨0, 0, 0, false⟩, chUp fun c =>
    { c with work := some { work0 (copy0 0) 0 [] with put := 0 } }, _, { work0 (copy0 0) 0 [] with put := 0 }, _, _, ⟨by decide,
    rfl, rfl, rfl, rfl, rfl⟩, by decide +kernel, by decide +kernel, rfl, rfl, rfl⟩

theorem witness_DescriptorsComplete_7 : ∃ (c : Nat) (ecc : LineEcc) (s : State) (w : DmaWork), Claims.MayMove c s w ∧ w.nextWrite
    = 0 ∧ w.reading = true ∧ sourceWaits c (xSrc w.desc) (xFrom w.desc w.elem + w.read) (min (128 - (xFrom w.desc w.elem + w.read)
    % 128) (xElen w.desc - w.read)) ecc s = true := ⟨1, .clean, (fun s : State => { s with sc := { s.sc with capGib := 1 } })
    (chUp fun c => { c with work := some { work0 copyD 0 [] with put := 0 } }), { work0 copyD 0 [] with put := 0 }, ⟨by decide,
    rfl, rfl, rfl, rfl, rfl⟩, by decide +kernel, by decide +kernel, by decide +kernel⟩

theorem witness_DescriptorsComplete_8 : ∃ (c : Nat) (k : Nat) (s : State) (w : DmaWork), Claims.MayMove c s w ∧ 0 < w.nextWrite ∧
    xFifo w.desc = some k ∧ putWaits c w s = false ∧ fifoHigh k s = true := ⟨1, 3, (chUp fun c =>
    { c with work := some { work0 copyF 4 [1, 2, 3, 4] with put := 0 } }).updFifo 3 fun f =>
    { f with cfg := 0x200010000, put := 2 }, { work0 copyF 4 [1, 2, 3, 4] with put := 0 }, ⟨by decide, rfl, rfl, rfl, rfl, rfl⟩,
    by decide +kernel, rfl, by decide +kernel, by decide +kernel⟩

theorem witness_DescriptorsComplete_9 : ∃ (c : Nat) (k : Nat) (s : State), (s.dma.chan c).pacedOn = some k ∧ s.gated .dma = false
    ∧ (s.dma.fifoOf k).level ≤ fld (s.dma.fifoOf k).cfg 48 16 := ⟨1, 3, chUp fun c => { c with paced := true, pacedOn := some 3 },
    rfl, rfl, by decide +kernel⟩

theorem witness_DescriptorsComplete_10 : ∃ (c : Nat) (s : State) (w : DmaWork), (s.dma.chan c).work = some w ∧ w.reading = true ∧
    w.nextWrite = 0 ∧ aSpace (xSrc w.desc) = 0 ∧ s.hostReach = true ∧ s.gated .dma = false ∧ (s.dma.chan c).paced = false ∧
    s.flt.devFault = false := ⟨1, chUp fun c => { c with work := some { work0 (copy0 0) 0 [] with put := 0 } }, _, rfl, rfl, rfl,
    rfl, rfl, rfl, rfl, rfl⟩

theorem witness_DescriptorsComplete_11 : ∃ (c : Nat) (s : State) (w : DmaWork), (s.dma.chan c).work = some w ∧ w.done = true ∧
    s.dma.quiet c = true ∧ (s.dma.chan c).recs = [] ∧ s.gated .dma = false ∧ w.bad = false ∧ ((w.desc.getLsbD 4 = true ∨ w.status
    ≠ 0)) := ⟨1, ringUp 3 0 (chUp fun c => { c with work := some (work0 (copy0 1) 4 []) }), _, rfl, rfl, rfl, rfl, rfl, rfl, .inl
    rfl⟩

theorem witness_DescriptorsComplete_12 : ∃ (c : Nat) (s : State) (w : DmaWork), (s.dma.chan c).work = some w ∧ w.done = true ∧
    s.dma.quiet c = true ∧ (s.dma.chan c).recs = [] ∧ s.gated .dma = false ∧ w.bad = true := ⟨1, ringUp 3 0 (chUp fun c =>
    { c with work := some { work0 (copy0 1) 4 [] with bad := true } }), _, rfl, rfl, rfl, rfl, rfl, rfl⟩

theorem witness_DescriptorsComplete_13 : ∃ (c : Nat) (s : State) (w : DmaWork), (s.dma.chan c).work = some w ∧ w.done = true ∧
    s.dma.quiet c = true ∧ (s.dma.chan c).recs = [] ∧ s.gated .dma = false ∧ w.bad = false ∧ w.desc.getLsbD 4 = false ∧ w.status =
    0 := ⟨1, ringUp 3 0 (chUp fun c => { c with work := some (work0 (copy0 0) 4 []) }), _, rfl, rfl, rfl, rfl, rfl, rfl, rfl, rfl⟩

theorem witness_CompletionQueuesComplete_1 : ∃ (c : Nat) (s : State) (r : CqRecord) (rest : List CqRecord) (w : DmaWork),
    (s.dma.chan c).recs = r :: rest ∧ s.gated .dma = false ∧ s.flt.devFault = false ∧ standby s = false ∧ cqMirrored s = false ∧
    (s.bond.stateWait.find? fun x => x.ch = c) = none ∧ s.bond.tkoWait.contains r.cq = false ∧ (s.dma.cqOf r.cq).en = true ∧
    (s.dma.cqOf r.cq).room = true ∧ aSpace (s.dma.cqOf r.cq).base = 0 ∧ s.hostReach = true ∧ (s.dma.chan c).work = some w ∧
    w.desc.getLsbD 5 = false := ⟨1, cqUp (chUp fun c => { c with recs := [rec0], work := some (work0 (copy0 1) 4 []) }), _, _, _,
    rfl, rfl, rfl, rfl, rfl, rfl, rfl, rfl, rfl, rfl, rfl, rfl, rfl⟩

theorem witness_CompletionQueuesComplete_2 : ∃ (c : Nat) (s : State) (r : CqRecord) (rest : List CqRecord), (s.dma.chan c).recs =
    r :: rest ∧ s.gated .dma = false ∧ s.flt.devFault = false ∧ standby s = false ∧ (s.bond.stateWait.find? fun x => x.ch = c) =
    none ∧ (((s.dma.cqOf r.cq).en = false ∨ (s.dma.cqOf r.cq).room = false)) := ⟨1, chUp fun c => { c with recs := [rec0] }, _, _,
    rfl, rfl, rfl, rfl, rfl, .inl rfl⟩

theorem witness_CompletionQueuesComplete_3 : ∃ (who : Who) (q : Nat) (v : BitVec 32) (s : State), q < 1024 ∧ v.getLsbD 12 = true ∧
    (s.dma.cqOf q).cfg.getLsbD 12 = false ∧ Claims.Writable who .dma .yes s ∧ cqMirrored s = false := ⟨.host, 1023, 0x1004, up, by
    decide, rfl, rfl, ⟨rfl, rfl, rfl, rfl⟩, rfl⟩

theorem witness_CompletionQueuesComplete_4 : ∃ (who : Who) (q : Nat) (s : State), q < 1024 ∧ Claims.Writable who .dma .yes s ∧
    cqMirrored s = false := ⟨.host, 1023, up, by decide, ⟨rfl, rfl, rfl, rfl⟩, rfl⟩

theorem witness_CompletionQueuesComplete_5 : ∃ (who : Who) (c : Nat) (s : State), c < 64 ∧ Claims.Writable who .dma .yes s ∧
    (s.dma.chan c).work = none ∧ s.dma.ch.length = 64 ∧ swf (fun _ => RingLive.reset) s.dma.rings = true := ⟨.host, 63, ringUp 1 0
    up, by decide, ⟨rfl, rfl, rfl, rfl⟩, rfl, rfl, rfl⟩

/-- Change the host attachment, the time base. -/
def hostOf (f : HostIf → HostIf) : State := { up with host := f up.host }
def teOf (f : TimeEvt → TimeEvt) : State := { up with te := f up.te }

/-- 1 GiB of DDR5 whose channels sleep. -/
def updSR : State :=
  { up with
    sc := { up.sc with capGib := 1 }
    ddr := { up.ddr with ch := up.ddr.ch.map fun c => { c with sr := true } } }


set_option maxRecDepth 16000 in
theorem witness_Bar2Complete_1 : ∃ (off : Nat) (a : Nat) (bs : List (BitVec 8)) (s : State), Claims.Bar2Open off bs.length a s :=
    ⟨0, 0, [1, 2, 3], (scOf fun c => { c with capGib := 1 }), ⟨by decide +kernel, by decide +kernel, rfl, .inr rfl, by
    decide +kernel, rfl⟩⟩

set_option maxRecDepth 16000 in
theorem witness_Bar2Complete_2 : ∃ (off : Nat) (a : Nat) (s : State), Claims.Bar2Open off 1 a s ∧ s.chanGated (a / 128) = false ∧
    mirrorOn s = false := ⟨5, 5, (scOf fun c => { c with capGib := 1 }), ⟨by decide +kernel, by decide +kernel, rfl, .inr rfl, by
    decide +kernel, rfl⟩, rfl, rfl⟩

set_option maxRecDepth 16000 in
theorem witness_Bar2Complete_3 : ∃ (off : Nat) (n : Nat) (a : Nat) (errs : List BeatErr) (s : State) (s1 : State) (ls : List (Nat
    × Option (BitVec 1024 × Bool))), Claims.Bar2Open off n a s ∧ bar2Get s.host.readTag errs (linesOf a n) (Claims.tagged s) =
    (ls, s1) := ⟨5, 3, 5, [], (scOf fun c => { c with capGib := 1 }), (bar2Get (scOf fun c => { c with capGib := 1 }).host.readTag
    [] (linesOf 5 3) (Claims.tagged (scOf fun c => { c with capGib := 1 }))).2, (bar2Get (scOf fun c =>
    { c with capGib := 1 }).host.readTag [] (linesOf 5 3) (Claims.tagged (scOf fun c => { c with capGib := 1 }))).1, ⟨by
    decide +kernel, by decide +kernel, rfl, .inr rfl, by decide +kernel, rfl⟩, rfl⟩

set_option maxRecDepth 16000 in
theorem witness_Bar2Complete_4 : ∃ (off : Nat) (n : Nat) (a : Nat) (s : State), Claims.Bar2Open off n a s ∧ 0 < n ∧ a % 128 + n ≤
    128 ∧ s.chanGated (a / 128) = false ∧ s.ddrFast (a / 128) = true := ⟨5, 3, 5,
    { (scOf fun c => { c with capGib := 1 }) with ddr := ctxUp.ddr }, ⟨by decide +kernel, by decide +kernel, rfl, .inr rfl, by
    decide +kernel, rfl⟩, by decide, by decide, rfl, by decide +kernel⟩

set_option maxRecDepth 16000 in
theorem witness_Bar2Complete_5 : ∃ (off : Nat) (n : Nat) (a : Nat) (s : State), Claims.Bar2Open off n a s ∧ 0 < n ∧ a % 128 + n ≤
    128 ∧ s.chanGated (a / 128) = false ∧ s.ddrFast (a / 128) = false := ⟨5, 3, 5, updSR, ⟨by decide +kernel, by decide +kernel,
    rfl, .inr rfl, by decide +kernel, rfl⟩, by decide, by decide, rfl, by decide +kernel⟩

set_option maxRecDepth 16000 in
theorem witness_Bar2Complete_6 : ∃ (c : Nat) (i : Nat) (err : BeatErr) (s : State) (r : DdrReq) (x : BarRead), (s.chan
    c).queue[i]? = some r ∧ r.kind = .bar2 x.tag ∧ chanServes s c = true ∧ stolenNow s c = false ∧ gapTaskOn s c = false ∧
    mayServe (s.chan c) i r = true ∧ err.bad = false ∧ s.host.reads = [x] ∧ x.lines = [(r.line, none)] := ⟨0, 0, .none, (fun s :
    State => { s with host := { s.host with reads := [⟨3, 5, 3, [(0, none)]⟩] } }) (State.updChan { up with ddr := ctxUp.ddr } 0
    fun c => { c with queue := [⟨0, .bar2 3, 2, 5000, 0, false, false⟩] }), _, _, rfl, rfl, rfl, rfl, rfl, by decide +kernel, rfl,
    rfl, rfl⟩

set_option maxRecDepth 16000 in
theorem witness_Bar2Complete_7 : ∃ (off : Nat) (bs : List (BitVec 8)) (s : State), off + bs.length ≤ bar2Gib (fld s.sec.straps 3
    3) * 2 ^ 30 ∧ s.barOpen = true := ⟨5, [1, 2], up, by decide +kernel, rfl⟩

set_option maxRecDepth 16000 in
theorem witness_Bar2Complete_8 : ∃ (off : Nat) (bs : List (BitVec 8)) (s : State), off + bs.length ≤ bar2Gib (fld s.sec.straps 3
    3) * 2 ^ 30 ∧ s.host.width ≠ 0 ∧ s.host.memSpace = false := ⟨5, [1, 2], hostOf fun h => { h with memSpace := false }, by
    decide +kernel, by decide, rfl⟩

set_option maxRecDepth 16000 in
theorem witness_Bar2Complete_9 : ∃ (off : Nat) (n : Nat) (s : State), off + n ≤ bar2Gib (fld s.sec.straps 3 3) * 2 ^ 30 ∧
    s.barOpen = true ∧ ((s.sec.life = .chrysalis ∨ s.sec.life = .imago)) ∧ 128 * s.capLines < s.host.bar2Off.toNat * 2 ^ 30 + off
    + n := ⟨5, 3, scOf fun c => { c with capGib := 0 }, by decide +kernel, rfl, .inr rfl, by decide +kernel⟩

theorem witness_PcieFunctionComplete_2 : ∃ (s : State), s.host.width ≠ 0 := ⟨up, by decide⟩

theorem witness_PcieFunctionComplete_3 : ∃ (s : State), s.host.width ≠ 0 := ⟨up, by decide⟩

theorem witness_PcieFunctionComplete_4 : ∃ (w : BitVec 3) (sp : BitVec 3) (flit : Bool) (s : State), s.host.width = 0 ∧
    s.host.perst = false ∧ s.sec.life ≠ .egg ∧ ((w = 1 ∨ w = 2 ∨ w = 4)) ∧ 1 ≤ sp.toNat ∧ sp.toNat ≤ 6 ∧ ((sp = 6 → flit = true))
    := ⟨4, 6, true, hostOf fun h => { h with width := 0 }, rfl, rfl, by decide, .inr (.inr rfl), by decide, by decide, fun _ =>
    rfl⟩

theorem witness_PcieFunctionComplete_5 : ∃ (s : State), s.host.width ≠ 0 ∧ s.host.aspm = true ∧ s.host.trafficAt + 10000 ≤
    s.te.time := ⟨{ hostOf (fun h => { h with aspm := true }) with te := { up.te with time := 20000 } }, by decide, rfl, by
    decide +kernel⟩

theorem witness_PcieFunctionComplete_6 : ∃ (s : State), s.host.width ≠ 0 ∧ s.host.aspm = true ∧ s.te.time < s.host.trafficAt +
    10000 := ⟨hostOf fun h => { h with aspm := true }, by decide, rfl, by decide +kernel⟩

theorem witness_PcieFunctionComplete_7 : ∃ (s : State), s.host.width ≠ 0 := ⟨hostOf fun h => { h with l1 := true }, by decide⟩

theorem witness_PcieFunctionComplete_8 : ∃ (n : Nat) (s : State), s.host.width ≠ 0 ∧ n ∈ [128, 256, 512] := ⟨512, up, by decide,
    by decide⟩

theorem witness_PcieFunctionComplete_9 : ∃ (n : Nat) (s : State), s.host.width ≠ 0 ∧ n ∈ [128, 256, 512, 1024, 2048, 4096] :=
    ⟨4096, up, by decide, by decide⟩

theorem witness_PcieFunctionComplete_10 : ∃ (v : BitVec 4) (s : State), s.host.width ≠ 0 ∧ (timeoutNs v.toNat).isSome = true :=
    ⟨14, up, by decide, by decide⟩

theorem witness_PcieFunctionComplete_11 : ∃ (s : State), s.host.width ≠ 0 := ⟨up, by decide⟩

theorem witness_PcieFunctionComplete_12 : ∃ (s : State), s.host.width ≠ 0 := ⟨up, by decide⟩

theorem witness_PcieFunctionComplete_13 : ∃ (s : State), s.host.width ≠ 0 ∧ s.host.bars = List.replicate 6 0 := ⟨up, by decide,
    rfl⟩

theorem witness_PcieFunctionComplete_14 : ∃ (s : State), s.host.width ≠ 0 ∧ s.host.bars = List.replicate 6 0xFFFFFFFF := ⟨hostOf
    fun h => { h with bars := List.replicate 6 0xFFFFFFFF }, by decide, rfl⟩

theorem witness_PcieFunctionComplete_15 : ∃ (k : Nat) (s : State) (e : MsixEntry), k < 64 ∧ s.host.msix[k]? = some e ∧
    s.host.pba.getLsbD k = true ∧ s.host.msixEnable = true ∧ s.host.msixMask = false ∧ e.masked = false ∧ s.hostReach = true :=
    ⟨63, hostOf fun h => { h with msixEnable := true, pba := BitVec.allOnes 64, msix := List.replicate 64 ⟨8, 9, false⟩ }, ⟨8, 9,
    false⟩, by decide, rfl, rfl, rfl, rfl, rfl, rfl⟩

theorem witness_HeartbeatAndMailboxesComplete_1 : ∃ (s : State), s.host.hbEn = true ∧ s.host.hbAt < s.te.dmaCopy / 100000 ∧
    s.gated .dma = false ∧ s.hostReach = true := ⟨(fun s : State => { s with te := { s.te with dmaCopy := 200000 } }) (hostOf fun
    h => { h with hbEn := true, hbAddr := 1 }), rfl, by decide +kernel, rfl, rfl⟩

theorem witness_HeartbeatAndMailboxesComplete_2 : ∃ (s : State), s.host.hbEn = true ∧ s.host.hbAt < s.te.dmaCopy / 100000 ∧
    s.gated .dma = false := ⟨(fun s : State => { s with te := { s.te with dmaCopy := 200000 } }) (hostOf fun h =>
    { h with hbEn := true, hbAddr := 1 }), rfl, by decide +kernel, rfl⟩

theorem witness_HeartbeatAndMailboxesComplete_3 : ∃ (who : Who) (s : State), Claims.Writable who .always .yes s ∧ s.host.hbEn =
    false := ⟨.host, up, ⟨rfl, rfl, rfl, rfl⟩, rfl⟩

theorem witness_HeartbeatAndMailboxesComplete_4 : ∃ (t : Nat) (u : Bool) (c : Nat) (s : State) (r : StepRun) (e : BitVec 512),
    ownEntry s t u 0x0A = some (r, e) ∧ postCause e = none ∧ c = e.toNat / 2 ^ 64 % 2 ^ 15 ∧ inStep r c false = true ∧ ((s.tile
    t).ts.read (128 * c + 64 * (if e.getLsbD 79 then 1 else 0)) 64).bad = [] := ⟨0, false, 2, listUp (word 512 [(0, 0x0A), (32,
    7), (64, 2)]), listStep, (word 512 [(0, 0x0A), (32, 7), (64, 2)]), by decide +kernel, by decide +kernel, rfl, by
    decide +kernel, by decide +kernel⟩

theorem witness_HeartbeatAndMailboxesComplete_5 : ∃ (who : Who) (n : Nat) (v : BitVec 32) (s : State), n < 256 ∧ Claims.Writable
    who .always .yes s ∧ (s.host.mbOf n).valid = true ∧ (s.host.mbOf n).seq = v := ⟨.host, 255, 5, up.updMb 255 fun m =>
    { m with seq := 5, valid := true }, by decide, ⟨rfl, rfl, rfl, rfl⟩, rfl, rfl⟩

theorem witness_HeartbeatAndMailboxesComplete_6 : ∃ (who : Who) (n : Nat) (v : BitVec 32) (s : State), n < 256 ∧ Claims.Writable
    who .always .yes s ∧ (((s.host.mbOf n).valid = false ∨ (s.host.mbOf n).seq ≠ v)) := ⟨.host, 255, 6, up.updMb 255 fun m =>
    { m with seq := 5, valid := true }, by decide, ⟨rfl, rfl, rfl, rfl⟩, .inr (by decide +kernel)⟩

/-- Change the clocks. -/
def clkOf (f : Clock → Clock) : State := { up with clk := f up.clk }

/-- A request waits at DDR5 channel 0. -/
def ddrBusy : State := up.updChan 0 fun c => { c with queue := [⟨0, .chan 0, 2, 5000, 0, false, false⟩] }


theorem witness_TimeCompletes_1 : ∃ (s : State), s.te.running = true ∧ s.te.hold = 0 ∧ s.te.slew = none ∧ s.te.time + 1 < 2 ^ 64
    := ⟨up, rfl, rfl, rfl, by decide +kernel⟩

theorem witness_TimeCompletes_2 : ∃ (s : State) (n : Nat) (phase : Nat) (gain : Bool), s.te.running = true ∧ s.te.hold = 0 ∧
    s.te.slew = some ⟨n, gain, phase⟩ ∧ 1024 ≤ phase + 1 ∧ s.te.time + 2 < 2 ^ 64 := ⟨teOf fun e =>
    { e with slew := some ⟨2, true, 1023⟩ }, 2, 1023, true, rfl, rfl, rfl, by decide, by decide +kernel⟩

theorem witness_TimeCompletes_3 : ∃ (s : State), s.te.running = true ∧ 1 < s.te.hold := ⟨teOf fun e => { e with hold := 2 }, rfl,
    by decide +kernel⟩

theorem witness_TimeCompletes_4 : ∃ (s : State), s.te.running = true ∧ s.te.hold = 1 := ⟨teOf fun e => { e with hold := 1 }, rfl,
    rfl⟩

theorem witness_TimeCompletes_5 : ∃ (s : State) (off : Nat), s.te.running = true ∧ off ≤ 2 ∧ s.te.src ≠ 1 := ⟨up, 2, rfl, by
    decide, by decide +kernel⟩

theorem witness_TimeCompletes_6 : ∃ (s : State) (off : Nat) (c : Nat) (e : Int), s.te.running = true ∧ off ≤ 2 ∧ s.te.src = 1 ∧ c
    = s.te.time + off - 1 ∧ e = (nearestBoundary s.te.period.toNat s.te.phase.toNat c : Int) - (c : Int) ∧ e ≠ 0 := ⟨teOf fun e =>
    { e with src := 1 }, 2, _, _, rfl, by decide, rfl, rfl, rfl, by decide +kernel⟩

theorem witness_TimeCompletes_7 : ∃ (s : State) (off : Nat), s.te.running = true ∧ off ≤ 2 ∧ s.te.src = 1 ∧ nearestBoundary
    s.te.period.toNat s.te.phase.toNat (s.te.time + off - 1) = s.te.time + off - 1 := ⟨teOf fun e =>
    { e with src := 1, phase := 5000 }, 1, rfl, by decide, rfl, by decide +kernel⟩

theorem witness_TimeCompletes_8 : ∃ (who : Who) (s : State), Claims.Writable who .always .no s := ⟨.quoin, up, ⟨rfl, rfl, rfl⟩⟩

set_option maxRecDepth 16000 in
theorem witness_EventSourcesComplete_1 : ∃ (s : State) (b : Nat), lastBoundary s.te.period.toNat s.te.phase.toNat s.te.hubCopy =
    some b ∧ s.te.tickCfg.getLsbD 6 = true ∧ s.te.tickDone ≤ b := ⟨teOf fun e => { e with tickCfg := 0x43, hubCopy := 1000000 },
    1000000, by decide +kernel, rfl, by decide +kernel⟩

theorem witness_EventSourcesComplete_2 : ∃ (k : Nat) (s : State), k < 4 ∧ (s.te.alarmCfg.getD k 0).getLsbD 6 = true ∧
    (s.te.alarm.getD k 0).toNat ≤ s.te.hubCopy := ⟨3, teOf fun e =>
    { e with alarmCfg := List.replicate 4 0x45, alarm := List.replicate 4 9 }, by decide, rfl, by decide +kernel⟩

theorem witness_EventSourcesComplete_3 : ∃ (k : Nat) (level : Bool) (s : State) (c : BitVec 32), k < 4 ∧ s.alive = true ∧
    s.te.inLevel.getD k false ≠ level ∧ c = s.te.inCfg.getD k 0 ∧ c.getLsbD 6 = true ∧ ((c.toNat / 256 % 4 = 2 ∨ (c.toNat / 256 %
    4 = 0 ∧ level = true) ∨ (c.toNat / 256 % 4 = 1 ∧ level = false))) := ⟨3, true, teOf fun e =>
    { e with inCfg := List.replicate 4 0x45 }, _, by decide, rfl, by decide +kernel, rfl, rfl, .inr (.inl (by decide +kernel))⟩

theorem witness_EventSourcesComplete_4 : ∃ (k : Nat) (s : State) (p : EvtOut) (r : List PinEdge) (w : _), k < 4 ∧ s.te.out[k]? =
    some p ∧ p.edges = .pulse true w :: r := ⟨3, teOf fun e =>
    { e with out := List.replicate 4 ⟨0x43, false, [.pulse true 3], none⟩ }, _, _, _, by decide, rfl, rfl⟩

theorem witness_EventSourcesComplete_5 : ∃ (k : Nat) (s : State) (p : EvtOut) (r : List PinEdge) (w : _), k < 4 ∧ s.te.out[k]? =
    some p ∧ p.edges = .pulse false w :: r := ⟨3, teOf fun e =>
    { e with out := List.replicate 4 ⟨0x43, false, [.pulse false 3], none⟩ }, _, _, _, by decide, rfl, rfl⟩

theorem witness_EventSourcesComplete_6 : ∃ (k : Nat) (s : State) (p : EvtOut) (c : _), k < 4 ∧ s.te.out[k]? = some p ∧ p.until_ =
    some c ∧ c ≤ s.cycle := ⟨3, teOf fun e => { e with out := List.replicate 4 ⟨0x43, true, [.off], some 0⟩ }, _, _, by decide,
    rfl, rfl, by decide +kernel⟩

theorem witness_EventSourcesComplete_7 : ∃ (who : Who) (k : Nat) (s : State), k < 4 ∧ Claims.Writable who .always .yes s :=
    ⟨.host, 3, teOf fun e => { e with out := List.replicate 4 ⟨0x43, true, [.off], some 0⟩ }, by decide, ⟨rfl, rfl, rfl, rfl⟩⟩

theorem witness_EventSourcesComplete_8 : ∃ (who : Who) (lines : BitVec 64) (s : State), lines ≠ 0 ∧ Claims.Writable who .always
    .yes s := ⟨.host, 5, up, by decide +kernel, ⟨rfl, rfl, rfl, rfl⟩⟩

theorem witness_InterruptRegistersComplete_1 : ∃ (who : Who) (w : Nat) (s : State), w < 16 ∧ Claims.Writable who .always .yes s :=
    ⟨.host, 15, up, by decide, ⟨rfl, rfl, rfl, rfl⟩⟩

theorem witness_InterruptRegistersComplete_2 : ∃ (who : Who) (w : Nat) (s : State), w < 16 ∧ Claims.Writable who .always .no s :=
    ⟨.quoin, 15, up, by decide, ⟨rfl, rfl, rfl⟩⟩

theorem witness_InterruptRegistersComplete_3 : ∃ (who : Who) (t : Nat) (s : State), t < 16 ∧ s.tiles.length = 16 ∧ Claims.Writable
    who (icBlk who t) .yes s := ⟨.host, 15, up, by decide, rfl, ⟨rfl, rfl, rfl, rfl⟩⟩

theorem witness_InterruptRegistersComplete_4 : ∃ (who : Who) (t : Nat) (s : State), t < 16 ∧ s.tiles.length = 16 ∧ Claims.Writable
    who (icBlk who t) .no s := ⟨.quoin, 15, up, by decide, rfl, ⟨rfl, rfl, rfl⟩⟩

theorem witness_InterruptRegistersComplete_5 : ∃ (who : Who) (k : Nat) (s : State), k < 512 ∧ Claims.Writable who .always .yes s
    := ⟨.host, 511, up, by decide, ⟨rfl, rfl, rfl, rfl⟩⟩

theorem witness_ClockSourcesComplete_2 : ∃ (xtal : Bool) (n : Nat) (s : State), s.sec.resetLow = false ∧ s.sec.tripped = false ∧
    s.clk.srcState xtal = 1 ∧ s.cal.windowSpoilt.getD (if xtal then 1 else 0) false = false ∧ s.clk.normal = true ∧ s.clk.chosen =
    true ∧ s.clk.chosenAt ≠ some s.cycle ∧ 100 * n ≤ 102 * windowCount xtal ∧ 98 * windowCount xtal ≤ 100 * n := ⟨true, (98 *
    windowCount true + 99) / 100, clkOf fun c => { c with xtalState := 1, monTrimmed := true, chosen := true }, rfl, rfl, rfl,
    rfl, rfl, rfl, by decide +kernel, by decide +kernel, by decide +kernel⟩

theorem witness_ClockSourcesComplete_3 : ∃ (n : Nat) (s : State), s.sec.resetLow = false ∧ s.sec.tripped = false ∧ s.clk.refState
    = 1 ∧ s.clk.refGood = 1 ∧ s.cal.windowSpoilt.getD 0 false = false ∧ s.clk.normal = false ∧ s.clk.safeHold = false ∧ 100 * n ≤
    115 * 327680 ∧ 85 * 327680 ≤ 100 * n := ⟨327680, clkOf fun c => { c with refState := 1, refGood := 1, monTrimmed := false },
    rfl, rfl, rfl, rfl, rfl, rfl, rfl, by decide +kernel, by decide +kernel⟩

theorem witness_ClockSourcesComplete_4 : ∃ (s : State), s.clk.xtalState = 1 ∧ s.clk.normal = false ∧ s.sec.resetLow = false ∧
    s.sec.tripped = false ∧ s.clk.chosen = false ∧ s.clk.safeHold = false := ⟨clkOf fun c =>
    { c with xtalState := 1, monTrimmed := false, chosen := false }, rfl, rfl, rfl, rfl, rfl, rfl⟩

theorem witness_ClockSourcesComplete_5 : ∃ (xtal : Bool) (s : State), s.clk.srcState xtal = 2 ∧ s.sec.resetLow = false ∧
    s.sec.tripped = false ∧ s.clk.chosen = true ∧ s.clk.activeXtal = xtal ∧ s.clk.srcState (!xtal) = 2 := ⟨false, clkOf fun c =>
    { c with refState := 2, xtalState := 2, chosen := true, activeXtal := false }, rfl, rfl, rfl, rfl, rfl, rfl⟩

theorem witness_ClockSourcesComplete_6 : ∃ (xtal : Bool) (s : State), s.clk.srcState xtal = 2 ∧ s.sec.resetLow = false ∧
    s.sec.tripped = false ∧ s.clk.chosen = true ∧ s.clk.activeXtal = xtal ∧ s.clk.srcState (!xtal) ≠ 2 := ⟨false, clkOf fun c =>
    { c with refState := 2, xtalState := 1, chosen := true, activeXtal := false }, rfl, rfl, rfl, rfl, rfl, by decide +kernel⟩

theorem witness_ClockSourcesComplete_7 : ∃ (s : State), s.clk.xtalState = 1 ∧ s.clk.normal = false ∧ s.sec.resetLow = false ∧
    s.sec.tripped = false ∧ s.clk.chosen = true := ⟨clkOf fun c => { c with xtalState := 1, chosen := true, safeHold := true },
    rfl, rfl, rfl, rfl, rfl⟩

theorem witness_ClockSourcesComplete_8 : ∃ (s : State), s.clk.xtalState = 2 ∧ s.clk.normal = false ∧ s.sec.resetLow = false ∧
    s.sec.tripped = false ∧ s.clk.activeXtal = false := ⟨clkOf fun c => { c with xtalState := 2, safeHold := true }, rfl, rfl,
    rfl, rfl, rfl⟩

theorem witness_ClockSourcesComplete_9 : ∃ (xtal : Bool) (s : State), ((s.clk.srcState xtal = 0 ∨ s.clk.srcState xtal = 3)) ∧
    ((xtal = true → s.clk.xtalEn = true)) ∧ s.sec.resetLow = false ∧ s.sec.tripped = false := ⟨true, up, .inl rfl, fun _ => rfl,
    rfl, rfl⟩

theorem witness_ClockSourcesComplete_10 : ∃ (s : State), s.clk.safeHold = true ∧ s.sec.resetLow = false ∧ s.sec.tripped = false ∧
    ((s.clk.refState = 2 ∨ s.clk.xtalState = 2)) := ⟨clkOf fun c => { c with safeHold := true, xtalState := 2 }, rfl, rfl, rfl,
    .inr rfl⟩

theorem witness_ClockSourcesComplete_11 : ∃ (who : Who) (v : BitVec 32) (s : State), Claims.Writable who .always .no s ∧ v.getLsbD
    0 = true ∧ v.getLsbD 1 = true ∧ s.clk.activeXtal = true ∧ s.clk.chosen = true ∧ s.clk.refState = 2 := ⟨.quoin, 3, clkOf fun c
    => { c with activeXtal := true, chosen := true, refState := 2 }, ⟨rfl, rfl, rfl⟩, rfl, rfl, rfl, rfl, rfl⟩

theorem witness_ClockSourcesComplete_12 : ∃ (who : Who) (v : BitVec 32) (s : State), Claims.Writable who .always .no s ∧ v.getLsbD
    0 = false ∧ v.getLsbD 1 = true := ⟨.quoin, 2, up, ⟨rfl, rfl, rfl⟩, rfl, rfl⟩

theorem witness_OperatingPointComplete_1 : ∃ (who : Who) (v : BitVec 32) (s : State), Claims.Writable who .always .yes s ∧
    s.flt.devFault = false ∧ s.mor.mixed = false ∧ s.clk.avsErr = false ∧ s.clk.dvfs = .idle ∧ v.toNat % 4 < s.clk.point.toNat ∧
    (¬ (v.toNat % 4 = 0 ∧ s.sec.grade = 1)) := ⟨.host, 0x102, up, ⟨rfl, rfl, rfl, rfl⟩, rfl, rfl, rfl, rfl, by decide, by
    decide +kernel⟩

theorem witness_OperatingPointComplete_2 : ∃ (who : Who) (v : BitVec 32) (s : State), Claims.Writable who .always .yes s ∧
    s.flt.devFault = false ∧ s.mor.mixed = false ∧ s.clk.avsErr = false ∧ s.clk.dvfs = .idle ∧ s.clk.point.toNat < v.toNat % 4 ∧
    s.mor.fenced ≠ BitVec.allOnes 16 := ⟨.host, 0x103, clkOf fun c => { c with point := 2 }, ⟨rfl, rfl, rfl, rfl⟩, rfl, rfl, rfl,
    rfl, by decide, by decide⟩

theorem witness_OperatingPointComplete_3 : ∃ (s : State), s.clk.dvfs = .avs := ⟨clkOf fun c => { c with dvfs := .avs }, rfl⟩

theorem witness_OperatingPointComplete_4 : ∃ (s : State), s.clk.dvfs = .settle ∧ s.clk.dvfsFrom + 1000 * s.clk.avsSettle.toNat ≤
    s.te.time ∧ s.clk.point.toNat ≤ s.clk.target.toNat ∧ s.clk.nextTarget = none ∧ s.clk.dvfsReq.getLsbD 8 = false := ⟨clkOf fun c
    => { c with dvfs := .settle, avsSettle := 3, target := 3 }, rfl, by decide +kernel, by decide, rfl, rfl⟩

theorem witness_OperatingPointComplete_5 : ∃ (s : State), s.clk.dvfs = .avs ∧ s.clk.dvfsFrom + 1000000 ≤ s.te.time := ⟨(fun s :
    State => { s with te := { s.te with time := 2000000 } }) (clkOf fun c => { c with dvfs := .avs }), rfl, by decide +kernel⟩

theorem witness_OperatingPointComplete_6 : ∃ (t : Nat) (j : Nat) (s : State), s.clk.dvfs = .park ∧ t < 16 ∧
    s.clk.parkPending.getLsbD t = true ∧ (s.tile t).st.free s.cycle = true ∧ j < 16 ∧ j ≠ t ∧ s.clk.parkPending.getLsbD j = true ∧
    s.tiles.length = 16 := ⟨15, 3, clkOf fun c => { c with dvfs := .park, parkPending := 0x8008 }, rfl, by decide, rfl, rfl, by
    decide, by decide, rfl, rfl⟩

theorem witness_OperatingPointComplete_7 : ∃ (s : State), s.clk.dvfs = .ramp ∧ (divStep s.clk).divider ≠ pointDiv s.clk.target :=
    ⟨clkOf fun c => { c with dvfs := .ramp, divider := 8, target := 0 }, rfl, by decide +kernel⟩

theorem witness_OperatingPointComplete_8 : ∃ (who : Who) (s : State), Claims.Writable who .always .no s := ⟨.quoin, up, ⟨rfl, rfl,
    rfl⟩⟩

theorem witness_OperatingPointComplete_9 : ∃ (k : Nat) (s : State), k < 29 ∧ s.clk.en.getLsbD k = false ∧ s.clk.gate.getLsbD k =
    true ∧ gateBusy k s = false := ⟨28, clkOf fun c => { c with en := 0 }, by decide, by decide +kernel, by decide +kernel, by
    decide +kernel⟩

theorem witness_OperatingPointComplete_10 : ∃ (k : Nat) (s : State), gateBusy k s = true := ⟨18, ddrBusy, by decide +kernel⟩

theorem witness_OperatingPointComplete_11 : ∃ (who : Who) (s : State), Claims.Writable who .always .yes s := ⟨.host, up, ⟨rfl,
    rfl, rfl, rfl⟩⟩

/-- Change the chain, the bond. -/
def chainOf (f : Chain → Chain) : State := { up with chain := f up.chain }
def bondOf (f : Bond → Bond) : State := { up with bond := f up.bond }

/-- Device 2 of a chain of 4. -/
def second (f : Chain → Chain) : State :=
  chainOf fun c => f { c with
    addr := 2
    size := 4
    assigned := true }


theorem witness_ChainAddressingCompletes_1 : ∃ (f : BitVec 64) (s : State), chainGood 1 f s = true ∧ s.sec.bootFail = false ∧
    s.chain.head = false ∧ s.chain.assigned = false ∧ fPay f < 16 := ⟨(mkFrame 1 0 0 true 0 2 3), up, by decide +kernel, rfl, rfl,
    rfl, by decide +kernel⟩

theorem witness_ChainAddressingCompletes_2 : ∃ (f : BitVec 64) (s : State), chainGood 1 f s = true ∧ s.sec.bootFail = false ∧
    s.chain.head = false ∧ s.chain.assigned = false ∧ 16 ≤ fPay f := ⟨(mkFrame 1 0 0 true 0 2 16), up, by decide +kernel, rfl,
    rfl, rfl, by decide +kernel⟩

theorem witness_ChainAddressingCompletes_3 : ∃ (f : BitVec 64) (s : State), chainGood 1 f s = true ∧ s.sec.bootFail = true :=
    ⟨(mkFrame 1 0 0 true 0 2 7), { up with sec := { up.sec with bootFail := true } }, by decide +kernel, rfl⟩

theorem witness_ChainAddressingCompletes_4 : ∃ (f : BitVec 64) (mark : AssignMark) (s : State), chainGood 1 f s = true ∧
    s.sec.bootFail = false ∧ s.chain.head = true ∧ mark.mine = true ∧ 0 < s.chain.assignOut ∧ s.chain.size = 0 ∧ s.chain.dupHead =
    false ∧ s.chain.oversize = false ∧ 1 ≤ fPay f ∧ fPay f ≤ 16 := ⟨(mkFrame 1 0 0 true 0 2 16), ⟨true, false, false⟩, chainOf fun
    c => { c with head := true, assigned := true, assignOut := 1 }, by decide +kernel, rfl, rfl, rfl, by decide +kernel, rfl, rfl,
    rfl, by decide +kernel, by decide +kernel⟩

theorem witness_ChainAddressingCompletes_5 : ∃ (f : BitVec 64) (mark : AssignMark) (s : State), chainGood 1 f s = true ∧
    s.sec.bootFail = false ∧ s.chain.head = true ∧ mark.mine = true ∧ 0 < s.chain.assignOut ∧ s.chain.size = 0 ∧ s.chain.dupHead =
    false ∧ s.chain.oversize = false ∧ 16 < fPay f := ⟨(mkFrame 1 0 0 true 0 2 17), ⟨true, false, false⟩, chainOf fun c =>
    { c with head := true, assigned := true, assignOut := 1 }, by decide +kernel, rfl, rfl, rfl, by decide +kernel, rfl, rfl, rfl,
    by decide +kernel⟩

theorem witness_ChainAddressingCompletes_6 : ∃ (f : BitVec 64) (mark : AssignMark) (s : State), chainGood 1 f s = true ∧
    s.sec.bootFail = false ∧ s.chain.head = true ∧ ((mark.mine = false ∨ s.chain.assignOut = 0)) ∧ fSrc f = 0 := ⟨(mkFrame 1 0 0
    true 0 2 4), ⟨false, false, false⟩, chainOf fun c => { c with head := true, assigned := true }, by decide +kernel, rfl, rfl,
    .inl rfl, by decide +kernel⟩

theorem witness_ChainAddressingCompletes_7 : ∃ (s : State), linking s = true ∧ s.chain.head = true ∧ s.chain.size = 0 ∧
    s.chain.oversize = false ∧ s.chain.dupHead = false ∧ s.chain.assignLast + 1000000 ≤ s.te.time := ⟨(fun s : State =>
    { s with te := { s.te with time := 20000000 } }) (chainOf fun c => { c with head := true, assigned := true }), rfl, rfl, rfl,
    rfl, rfl, by decide +kernel⟩

theorem witness_ChainAddressingCompletes_8 : ∃ (s : State), linking s = true ∧ s.chain.head = true ∧ s.chain.size = 0 ∧
    s.chain.oversize = false ∧ s.chain.assignFrom + 10000000 ≤ s.te.time := ⟨(fun s : State =>
    { s with te := { s.te with time := 20000000 } }) (chainOf fun c => { c with head := true, assigned := true }), rfl, rfl, rfl,
    rfl, by decide +kernel⟩

theorem witness_ChainFramesComplete_1 : ∃ (f : BitVec 64) (s : State) (n : Nat), chainGood 2 f s = true ∧ s.chain.head = true ∧
    s.chain.assigned = true ∧ fSrc f = s.chain.addr.toNat ∧ fSub f = 0 ∧ n = s.chain.size.toNat ∧ n ≠ 0 := ⟨(mkFrame 2 0 0 true 0
    2 7), chainOf fun c => { c with head := true, assigned := true, size := 4 }, _, by decide +kernel, rfl, rfl, by
    decide +kernel, by decide +kernel, rfl, by decide +kernel⟩

theorem witness_ChainFramesComplete_2 : ∃ (f : BitVec 64) (s : State), chainGood 2 f s = true ∧ s.chain.head = false ∧
    s.chain.assigned = true ∧ fSrc f ≠ s.chain.addr.toNat ∧ fBcast f = true ∧ fSub f = 1 ∧ fHop f ≠ 15 := ⟨(mkFrame 2 0 0 true 1
    14 7), second id, by decide +kernel, rfl, rfl, by decide +kernel, by decide +kernel, by decide +kernel, by decide +kernel⟩

theorem witness_ChainFramesComplete_3 : ∃ (f : BitVec 64) (s : State), chainGood 2 f s = true ∧ s.chain.head = true ∧
    s.chain.assigned = true ∧ fSrc f = s.chain.addr.toNat ∧ fSub f = 1 := ⟨(mkFrame 2 0 0 true 1 2 7), chainOf fun c =>
    { c with head := true, assigned := true, size := 4 }, by decide +kernel, rfl, rfl, by decide +kernel, by decide +kernel⟩

theorem witness_ChainFramesComplete_4 : ∃ (f : BitVec 64) (s : State), chainGood 3 f s = true ∧ s.chain.assigned = true ∧ fSrc f ≠
    s.chain.addr.toNat ∧ fBcast f = true ∧ fHop f ≠ 15 := ⟨(mkFrame 3 0 0 true 0 14 7), second id, by decide +kernel, rfl, by
    decide +kernel, by decide +kernel, by decide +kernel⟩

theorem witness_ChainFramesComplete_5 : ∃ (f : BitVec 64) (s : State), chainGood 4 f s = true ∧ s.chain.assigned = true ∧ fSrc f ≠
    s.chain.addr.toNat ∧ fBcast f = false ∧ fDst f = s.chain.addr.toNat ∧ fSrc f = s.chain.addr.toNat ^^^ 1 := ⟨(mkFrame 4 3 2
    false 0 1 7), second id, by decide +kernel, rfl, by decide +kernel, by decide +kernel, by decide +kernel, by decide +kernel⟩

theorem witness_ChainFramesComplete_6 : ∃ (f : BitVec 64) (s : State), chainGood 5 f s = true ∧ s.chain.assigned = true ∧ fSrc f ≠
    s.chain.addr.toNat ∧ fBcast f = false ∧ fDst f = s.chain.addr.toNat ∧ s.chain.rx.length < 16 ∧ s.chain.msgEvtEn = false :=
    ⟨(mkFrame 5 0 2 false 0 1 7), second id, by decide +kernel, rfl, by decide +kernel, by decide +kernel, by decide +kernel, by
    decide +kernel, rfl⟩

theorem witness_ChainFramesComplete_7 : ∃ (f : BitVec 64) (s : State), chainGood 5 f s = true ∧ s.chain.assigned = true ∧ fSrc f ≠
    s.chain.addr.toNat ∧ fBcast f = false ∧ fDst f = s.chain.addr.toNat ∧ 16 ≤ s.chain.rx.length := ⟨(mkFrame 5 0 2 false 0 1 7),
    second fun c => { c with rx := List.replicate 16 0 }, by decide +kernel, rfl, by decide +kernel, by decide +kernel, by
    decide +kernel, by decide +kernel⟩

theorem witness_ChainFramesComplete_8 : ∃ (f : BitVec 64) (s : State), chainGood 5 f s = true ∧ s.chain.assigned = true ∧ fSrc f ≠
    s.chain.addr.toNat ∧ fBcast f = false ∧ fDst f ≠ s.chain.addr.toNat := ⟨(mkFrame 5 0 3 false 0 15 7), second id, by
    decide +kernel, rfl, by decide +kernel, by decide +kernel, by decide +kernel⟩

theorem witness_ChainFramesComplete_9 : ∃ (f : BitVec 64) (s : State), chainOn s = true ∧ fOk f = false := ⟨0xFF, up, rfl, by
    decide +kernel⟩

theorem witness_ChainFramesComplete_10 : ∃ (f : BitVec 64) (s : State), chainOn s = true ∧ fOk f = true ∧ ((fType f = 0 ∨ 6 ≤
    fType f)) := ⟨(mkFrame 6 0 3 false 0 15 7), up, rfl, by decide +kernel, .inr (by decide +kernel)⟩

theorem witness_ChainSendingCompletes_1 : ∃ (s : State) (f : BitVec 64) (r : List (BitVec 64)), chainOn s = true ∧ s.chain.txq = f
    :: r ∧ ((s.chain.idleFrom = none ∨ fType f = 3)) := ⟨chainOf fun c =>
    { c with head := true, assigned := true, txq := [mkFrame 2 0 0 true 0 0 0] }, _, _, rfl, rfl, .inl rfl⟩

theorem witness_ChainSendingCompletes_2 : ∃ (s : State) (f : BitVec 64) (r : List (BitVec 64)) (t : Nat), chainOn s = true ∧
    s.chain.txq = f :: r ∧ s.chain.idleFrom = some t ∧ fType f ≠ 3 ∧ s.te.time < t + 1000 := ⟨chainOf fun c =>
    { c with head := true, assigned := true, txq := [mkFrame 2 0 0 true 0 0 0], idleFrom := some 4500 }, _, _, _, rfl, rfl, rfl,
    by decide +kernel, by decide +kernel⟩

theorem witness_ChainSendingCompletes_3 : ∃ (s : State) (b : Nat), lastBoundary s.te.period.toNat s.te.phase.toNat s.te.time =
    some b ∧ chainOn s = true ∧ s.chain.head = true ∧ s.chain.assigned = true ∧ s.chain.size ≠ 0 ∧ s.chain.slotSent ≤ b := ⟨(fun s
    : State => { s with te := { s.te with time := 1000400 } }) (chainOf fun c =>
    { c with head := true, assigned := true, size := 4 }), 1000000, by decide +kernel, rfl, rfl, rfl, by decide +kernel, by
    decide +kernel⟩

theorem witness_ChainSendingCompletes_4 : ∃ (s : State) (b : Nat), lastBoundary s.te.period.toNat s.te.phase.toNat (s.te.time +
    400 - pathDelay s.chain) = some b ∧ chainOn s = true ∧ s.chain.head = false ∧ s.chain.assigned = true ∧ pathDelay s.chain ≤
    s.te.time + 400 ∧ s.chain.idleDone ≤ b ∧ s.te.time ≤ b + pathDelay s.chain := ⟨(fun s : State =>
    { s with te := { s.te with time := 1000100 } }) (second id), 1000000, by decide +kernel, rfl, rfl, rfl, by decide +kernel, by
    decide +kernel, by decide +kernel⟩

theorem witness_ChainSendingCompletes_5 : ∃ (s : State), chainOn s = true ∧ s.chain.slotSeen + 3 * s.te.period.toNat ≤ s.te.time
    := ⟨(fun s : State => { s with te := { s.te with time := 20000000 } }) (second id), rfl, by decide⟩

theorem witness_ChainSendingCompletes_6 : ∃ (who : Who) (v : BitVec 32) (s : State), Claims.Writable who .always .no s ∧ v.getLsbD
    7 = true ∧ s.chain.head = true ∧ s.chain.assigned = true ∧ s.chain.size ≠ 0 := ⟨.quoin, 0x80, chainOf fun c =>
    { c with head := true, assigned := true, size := 4 }, ⟨rfl, rfl, rfl⟩, rfl, rfl, rfl, by decide +kernel⟩

theorem witness_ChainSendingCompletes_7 : ∃ (who : Who) (s : State), Claims.Writable who .always .yes s ∧ msgQueued s.chain < 4 :=
    ⟨.host, up, ⟨rfl, rfl, rfl, rfl⟩, by decide +kernel⟩

theorem witness_ChainSendingCompletes_8 : ∃ (who : Who) (s : State), Claims.Writable who .always .yes s := ⟨.host, second fun c =>
    { c with rx := [1, 2] }, ⟨rfl, rfl, rfl, rfl⟩⟩

theorem witness_BondReceptionInOrder_1 : ∃ (f : State → State) (i : Instr) (q : BitVec 32) (ok : Bool) (s : State), bondOn s =
    true ∧ (((∃ w a p l, i = .bondMwrRx w q a p ok l ∧ f = mwrApply w a p l) ∨ (∃ w, i = .bondWingbeatRx q w ok ∧ f = hearWing
    false w) ∨ (∃ n p, i = .bondStateRx q n p ok ∧ f = stateKeep (n % 1024) p) ∨ (∃ a p, i = .bondCtxRx q a p ok ∧ f = ctxKeep a
    p) ∨ (i = .bondRelinquishRx q ok ∧ f = fun z => let y := { z with bond := { z.bond with partnerActive := false } }; if standby
    z && !z.flt.devFault then promote y else y) ∨ (∃ e, i = .bondTakeoverRx q e ok ∧ f = fun z => if z.bond.paired then hearActive
    e z else z))) ∧ ok = true ∧ q = s.bond.rxSeq := ⟨_, .bondWingbeatRx 0 5 true, 0, true, bondOf fun b =>
    { b with paired := true, active := true, linkUp := true }, rfl, .inr (.inl ⟨5, rfl, rfl⟩), rfl, rfl⟩

theorem witness_BondReceptionInOrder_2 : ∃ (f : State → State) (i : Instr) (q : BitVec 32) (ok : Bool) (s : State), bondOn s =
    true ∧ (((∃ w a p l, i = .bondMwrRx w q a p ok l ∧ f = mwrApply w a p l) ∨ (∃ w, i = .bondWingbeatRx q w ok ∧ f = hearWing
    false w) ∨ (∃ n p, i = .bondStateRx q n p ok ∧ f = stateKeep (n % 1024) p) ∨ (∃ a p, i = .bondCtxRx q a p ok ∧ f = ctxKeep a
    p) ∨ (i = .bondRelinquishRx q ok ∧ f = fun z => let y := { z with bond := { z.bond with partnerActive := false } }; if standby
    z && !z.flt.devFault then promote y else y) ∨ (∃ e, i = .bondTakeoverRx q e ok ∧ f = fun z => if z.bond.paired then hearActive
    e z else z))) ∧ ok = false := ⟨_, .bondStateRx 7 5 0 false, 7, false, bondOf fun b =>
    { b with paired := true, linkUp := true }, rfl, .inr (.inr (.inl ⟨5, 0, rfl, rfl⟩)), rfl⟩

theorem witness_BondReceptionInOrder_3 : ∃ (f : State → State) (i : Instr) (q : BitVec 32) (ok : Bool) (s : State), bondOn s =
    true ∧ (((∃ w a p l, i = .bondMwrRx w q a p ok l ∧ f = mwrApply w a p l) ∨ (∃ w, i = .bondWingbeatRx q w ok ∧ f = hearWing
    false w) ∨ (∃ n p, i = .bondStateRx q n p ok ∧ f = stateKeep (n % 1024) p) ∨ (∃ a p, i = .bondCtxRx q a p ok ∧ f = ctxKeep a
    p) ∨ (i = .bondRelinquishRx q ok ∧ f = fun z => let y := { z with bond := { z.bond with partnerActive := false } }; if standby
    z && !z.flt.devFault then promote y else y) ∨ (∃ e, i = .bondTakeoverRx q e ok ∧ f = fun z => if z.bond.paired then hearActive
    e z else z))) ∧ ok = true ∧ q ≠ s.bond.rxSeq ∧ (s.bond.rxSeq - q).toNat < 2 ^ 31 := ⟨_, .bondMwrRx 0 0 0 0 true ⟨0, false⟩, 0,
    true, bondOf fun b => { b with paired := true, linkUp := true, rxSeq := 1 }, rfl, .inl ⟨0, 0, 0, _, rfl, rfl⟩, rfl, by decide,
    by decide⟩

theorem witness_BondReceptionInOrder_4 : ∃ (f : State → State) (i : Instr) (q : BitVec 32) (ok : Bool) (s : State), bondOn s =
    true ∧ (((∃ w a p l, i = .bondMwrRx w q a p ok l ∧ f = mwrApply w a p l) ∨ (∃ w, i = .bondWingbeatRx q w ok ∧ f = hearWing
    false w) ∨ (∃ n p, i = .bondStateRx q n p ok ∧ f = stateKeep (n % 1024) p) ∨ (∃ a p, i = .bondCtxRx q a p ok ∧ f = ctxKeep a
    p) ∨ (i = .bondRelinquishRx q ok ∧ f = fun z => let y := { z with bond := { z.bond with partnerActive := false } }; if standby
    z && !z.flt.devFault then promote y else y) ∨ (∃ e, i = .bondTakeoverRx q e ok ∧ f = fun z => if z.bond.paired then hearActive
    e z else z))) ∧ ok = true ∧ q ≠ s.bond.rxSeq ∧ 2 ^ 31 ≤ (s.bond.rxSeq - q).toNat := ⟨_, .bondRelinquishRx 2 true, 2, true,
    bondOf fun b => { b with paired := true, linkUp := true, rxSeq := 1 }, rfl, .inr (.inr (.inr (.inr (.inl ⟨rfl, rfl⟩)))), rfl,
    by decide, by decide⟩

theorem witness_BondLinkCompletes_2 : ∃ (s : State) (f : BondFrame) (r : List BondFrame), bondOn s = true ∧ s.bond.txq = f :: r ∧
    ((f.type = 1 ∨ f.type = 2 ∨ (s.bond.unacked.length < 256 ∧ mirrorReads s f = false))) := ⟨bondOf fun b =>
    { b with paired := true, active := true, linkUp := true, txq := [⟨3, 0, 5, 0, []⟩] }, _, _, rfl, rfl, .inr (.inr ⟨by
    decide +kernel, by decide +kernel⟩)⟩

theorem witness_BondLinkCompletes_3 : ∃ (s : State) (f : BondFrame), bondOn s = true ∧ s.bond.txq = [f] ∧ f.type ≠ 1 ∧ f.type ≠ 2
    ∧ ((256 ≤ s.bond.unacked.length ∨ mirrorReads s f = true)) := ⟨bondOf fun b =>
    { b with paired := true, active := true, linkUp := true, txq := [⟨3, 0, 5, 0, []⟩], unacked := List.replicate 256 ⟨3, 0, 5, 0, []⟩ },
    _, rfl, rfl, by decide, by decide, .inl (by decide +kernel)⟩

theorem witness_BondLinkCompletes_4 : ∃ (s : State) (k : Nat) (m : Mirror) (c : Nat) (w : Nat) (rest : List (Nat × Nat)), mirrorOn
    s = true ∧ s.bond.mirrors[k]? = some m ∧ s.tileLive m.tile = true ∧ m.entered = true ∧ m.left = (c, w) :: rest ∧ ((s.tile
    m.tile).ts.readCourse c).bad = [] := ⟨bonded [⟨0, false, [(5, 0), (6, 0)], [⟨5, 2, false, false⟩], 2, 0, true, none, 0, false,
    false, false⟩], 0, _, _, _, _, rfl, rfl, rfl, rfl, rfl, by decide +kernel⟩

theorem witness_BondLinkCompletes_5 : ∃ (s : State), bondOn s = true ∧ s.bond.resync = none := ⟨bondOf fun b =>
    { b with paired := true, active := true, linkUp := true, unacked := [⟨3, 0, 5, 0, []⟩, ⟨3, 0, 6, 0, []⟩] }, rfl, rfl⟩

theorem witness_BondLinkCompletes_6 : ∃ (s : State), bondOn s = true ∧ s.bond.resync = none := ⟨bondOf fun b =>
    { b with paired := true, active := true, linkUp := true, unacked := [⟨3, 0, 4, 0, []⟩, ⟨3, 0, 5, 0, []⟩] }, rfl, rfl⟩

theorem witness_BondLinkCompletes_7 : ∃ (s : State), s.bond.linkUp = false ∧ linking s = true ∧ s.bond.paired = true := ⟨bondOf
    fun b => { b with paired := true }, rfl, rfl, rfl⟩

theorem witness_BondRolesComplete_1 : ∃ (s : State), winging s = true ∧ 10000 * s.bond.wbAt ≤ s.te.time ∧ s.bond.linkUp = true :=
    ⟨bondOf fun b => { b with paired := true, active := true, linkUp := true }, rfl, by decide +kernel, rfl⟩

theorem witness_BondRolesComplete_2 : ∃ (s : State), winging s = true ∧ 10000 * s.bond.wbEnd ≤ s.te.time ∧ s.bond.wbChain = true ∧
    s.bond.linkUp = true := ⟨bondOf fun b => { b with paired := true, active := true, linkUp := true, wbChain := true }, rfl, by
    decide +kernel, rfl, rfl⟩

theorem witness_BondRolesComplete_3 : ∃ (s : State), winging s = true ∧ 10000 * s.bond.wbEnd ≤ s.te.time ∧ s.bond.wbChain = false
    ∧ s.bond.wbBond = false ∧ 2 ≤ s.bond.missed ∧ s.bond.active = true := ⟨bondOf fun b =>
    { b with paired := true, active := true, linkUp := true, missed := 2 }, rfl, by decide +kernel, rfl, rfl, by decide +kernel,
    rfl⟩

set_option maxRecDepth 16000 in
theorem witness_BondRolesComplete_4 : ∃ (who : Who) (s : State), Claims.Writable who .bond .yes s ∧ s.bond.paired = true ∧
    s.bond.active = false ∧ s.bond.synced = true ∧ s.flt.devFault = false := ⟨.host, bondOf fun b =>
    { b with paired := true, linkUp := true, synced := true }, ⟨rfl, rfl, rfl, rfl⟩, rfl, rfl, rfl, rfl⟩

theorem witness_BondRolesComplete_5 : ∃ (who : Who) (s : State), Claims.Writable who .bond .yes s ∧ s.bond.paired = true ∧
    s.bond.active = true ∧ s.bond.synced = true ∧ s.bond.relinquishing = false ∧ swf (fun _ => RingLive.reset) s.dma.rings = true
    := ⟨.host, dmaOf (fun d => { d with rings := [(0, ⟨2, 0, 0, 0⟩)] }) (bondOf fun b =>
    { b with paired := true, active := true, linkUp := true, synced := true }), ⟨rfl, rfl, rfl, rfl⟩, rfl, rfl, rfl, rfl, rfl⟩

theorem witness_BondRolesComplete_6 : ∃ (s : State), s.bond.relinquishing = true ∧ (s.dma.ch.all fun c => c.work.isNone &&
    c.recs.isEmpty) = true ∧ s.bond.stateWait = [] ∧ s.bond.quiet = true ∧ s.bond.mirrors = [] ∧ copyPends s = false ∧ swf (fun _
    => RingLive.reset) s.dma.rings = true := ⟨bondOf fun b =>
    { b with paired := true, active := true, linkUp := true, relinquishing := true }, rfl, by decide +kernel, rfl, rfl, rfl, rfl,
    rfl⟩

theorem witness_BondRolesComplete_7 : ∃ (who : Who) (s : State), Claims.Writable who .bond .yes s ∧ s.bond.paired = true ∧
    s.bond.active = true ∧ s.bond.linkUp = true ∧ s.bond.partnerLost = false ∧ s.bond.partnerActive = false := ⟨.host, bondOf fun
    b => { b with paired := true, active := true, linkUp := true }, ⟨rfl, rfl, rfl, rfl⟩, rfl, rfl, rfl, rfl, rfl⟩

theorem witness_BondRolesComplete_8 : ∃ (who : Who) (s : State), Claims.Writable who .bond .yes s ∧ (s.bond.partnerActive = true ∨
    s.bond.active = false) := ⟨.host, bondOf fun b => { b with paired := true, linkUp := true, partnerActive := true }, ⟨rfl, rfl,
    rfl, rfl⟩, .inl rfl⟩

theorem witness_BondRolesComplete_9 : ∃ (w : MirrorWindow) (s : State), w.space = 1 ∧ w.len ≠ 0 ∧ s.fencedTile w.tile = false :=
    ⟨⟨1, 0x200000003#64⟩, up, by decide +kernel, by decide +kernel, rfl⟩

theorem witness_BondRolesComplete_10 : ∃ (n : Nat) (c : BitVec 512) (s : State), s.dma.ctx n = some c ∧ opWaits s n = false ∧
    mirrorOn s = true ∧ s.bond.resync.isSome = true := ⟨0, ctx0 0, ringUp 1 0 (bondOf fun b =>
    { b with paired := true, active := true, linkUp := true, resync := some 5 }), by decide +kernel, rfl, rfl, rfl⟩

theorem witness_BondRolesComplete_11 : ∃ (c : Nat) (s : State) (r : CqRecord) (rest : List CqRecord), (s.dma.chan c).recs = r ::
    rest ∧ s.gated .dma = false ∧ s.flt.devFault = false ∧ standby s = false ∧ (s.bond.stateWait.find? fun x => x.ch = c) = none ∧
    (s.dma.cqOf r.cq).en = true ∧ (s.dma.cqOf r.cq).room = true ∧ cqReach s (s.dma.cqOf r.cq) = true ∧ s.bond.tkoWait.contains
    r.cq = false ∧ cqMirrored s = true := ⟨1, cqUp (bondOf fun b =>
    { b with paired := true, active := true, linkUp := true, mirrorCq := true }) |>.updDch 1 fun c => { c with recs := [rec0] },
    rec0, [], by decide +kernel, rfl, rfl, rfl, rfl, by decide +kernel, by decide +kernel, by decide +kernel, rfl, by
    decide +kernel⟩

theorem witness_BondRolesComplete_12 : ∃ (c : Nat) (s : State) (r : CqRecord) (rest : List CqRecord) (w : StateWait), (s.dma.chan
    c).recs = r :: rest ∧ s.gated .dma = false ∧ s.flt.devFault = false ∧ standby s = false ∧ (s.bond.stateWait.find? fun x =>
    x.ch = c) = some w ∧ recordTurn s w = true ∧ w.acked = true := ⟨1, cqUp (bondOf fun b =>
    { b with paired := true, active := true, linkUp := true, mirrorCq := true, stateWait := [⟨1, 3, true, ⟨2, 0, 7⟩⟩] }) |>.updDch
    1 fun c => { c with recs := [rec0] }, rec0, [], ⟨1, 3, true, ⟨2, 0, 7⟩⟩, by decide +kernel, rfl, rfl, rfl, by decide +kernel,
    by decide +kernel, rfl⟩

theorem witness_BondRolesComplete_13 : ∃ (c : Nat) (s : State) (r : CqRecord) (rest : List CqRecord) (w : StateWait), (s.dma.chan
    c).recs = r :: rest ∧ s.gated .dma = false ∧ s.flt.devFault = false ∧ standby s = false ∧ (s.bond.stateWait.find? fun x =>
    x.ch = c) = some w ∧ w.acked = false ∧ cqMirrored s = true ∧ (s.dma.cqOf r.cq).en = true := ⟨1, cqUp (bondOf fun b =>
    { b with paired := true, active := true, linkUp := true, mirrorCq := true, stateWait := [⟨1, 3, false, ⟨2, 0, 7⟩⟩] })
    |>.updDch 1 fun c => { c with recs := [rec0] }, rec0, [], ⟨1, 3, false, ⟨2, 0, 7⟩⟩, by decide +kernel, rfl, rfl, rfl, by
    decide +kernel, rfl, by decide +kernel, by decide +kernel⟩

theorem witness_BondRolesComplete_14 : ∃ (s : State), standby s = true := ⟨bondOf fun b =>
    { b with paired := true, linkUp := true }, by decide +kernel⟩

theorem witness_BondRolesComplete_15 : ∃ (who : Who) (n : Nat) (lo : BitVec 32) (w : MirrorWindow) (s : State), n < 64 ∧
    Claims.Writable who .bond .no s ∧ kget s.bond.win n = some w ∧ w.a.toNat ≠ lo.toNat % 2 ^ 10 ∧ w.a.toNat < 2 ^ 10 := ⟨.quoin,
    63, 5, ⟨1, 0⟩, bondOf fun b => { b with paired := true, active := true, linkUp := true, win := [(63, ⟨1, 0⟩)] }, by decide,
    ⟨rfl, rfl, rfl⟩, by decide +kernel, by decide +kernel, by decide +kernel⟩

/-- Change the security state, the fault state. -/
def secOf (f : Sec → Sec) : State := { up with sec := f up.sec }
def fltOf (f : Flt → Flt) : State := { up with flt := f up.flt }

/-- In LARVA, item 1 done; objects come through the mailbox when the strap says so. -/
def larva (straps : BitVec 6) (f : Sec → Sec) : State :=
  secOf fun c => f { c with
    life := .larva
    straps := straps
    item1 := true
    item2 := true }

/-- Calibration has started. -/
def calUp (f : Cal → Cal) : State := { up with cal := f { up.cal with started := true } }


theorem witness_ResetAndTripComplete_2 : ∃ (hot : Bool) (s : State), s.sec.resetLow = true ∧ ((s.sec.tripped = true → hot =
    false)) := ⟨true, secOf fun c => { c with resetLow := true }, rfl, nofun⟩

theorem witness_ResetAndTripComplete_3 : ∃ (s : State), s.sec.resetLow = true ∧ s.sec.tripped = true := ⟨secOf fun c =>
    { c with resetLow := true, tripped := true }, rfl, rfl⟩

theorem witness_LarvaItemsComplete_2 : ∃ (s : State), s.alive = true ∧ s.sec.life = .egg ∧ s.clk.chosen = true :=
    ⟨{ up with sec := { up.sec with life := .egg }, clk := { up.clk with chosen := true } }, rfl, rfl, rfl⟩

theorem witness_LarvaItemsComplete_3 : ∃ (s : State), larvaOn s = true ∧ s.sec.item1 = false := ⟨secOf fun c =>
    { c with life := .larva }, rfl, rfl⟩

theorem witness_LarvaItemsComplete_4 : ∃ (s : State), objectReady s = true ∧ mailboxBoot s = false ∧ s.sec.objects = 0 := ⟨larva 0
    id, rfl, rfl, rfl⟩

theorem witness_LarvaItemsComplete_5 : ∃ (s : State) (i : Nat), objectReady s = true ∧ mailboxBoot s = false ∧ s.sec.objects = i +
    1 ∧ i < s.sec.dirImages := ⟨larva 0 fun c => { c with objects := 1, dirImages := 2 }, 0, rfl, rfl, rfl, by decide⟩

theorem witness_LarvaItemsComplete_6 : ∃ (s : State), training s = true := ⟨larva 0 fun c => { c with objects := 2 }, rfl⟩

theorem witness_LarvaItemsComplete_7 : ∃ (s : State), training s = true ∧ s.sec.trainFrom + 120000000 ≤ s.te.time := ⟨(fun s :
    State => { s with te := { s.te with time := 200000000 } }) (larva 0 fun c => { c with objects := 2 }), rfl, by decide +kernel⟩

theorem witness_LarvaItemsComplete_8 : ∃ (s : State), larvaDone s = true := ⟨larva 0 fun c =>
    { c with objects := 2, item5 := true }, rfl⟩

theorem witness_MailboxComplete_1 : ∃ (who : Who) (s : State), Claims.Writable who .sec .larva s ∧ s.sec.mbState ≠ 1 ∧ mbLoading s
    = true ∧ objectReady s = true ∧ 1 ≤ s.sec.mbLen.toNat ∧ s.sec.mbLen.toNat ≤ 524288 := ⟨.host, larva 1 fun c =>
    { c with mbLen := 5 }, ⟨rfl, rfl, rfl, rfl⟩, by decide +kernel, rfl, rfl, by decide +kernel, by decide +kernel⟩

theorem witness_MailboxComplete_2 : ∃ (who : Who) (s : State), Claims.Writable who .sec .larva s ∧ s.sec.mbState ≠ 1 ∧ mbLoading s
    = true ∧ objectReady s = true ∧ s.sec.objects = 0 := ⟨.host, larva 1 id, ⟨rfl, rfl, rfl, rfl⟩, by decide +kernel, rfl, rfl,
    rfl⟩

theorem witness_MailboxComplete_3 : ∃ (who : Who) (s : State) (i : _), Claims.Writable who .sec .larva s ∧ s.sec.mbState ≠ 1 ∧
    mbLoading s = true ∧ objectReady s = true ∧ s.sec.objects = i + 1 := ⟨.host, larva 1 fun c => { c with objects := 1 }, 0,
    ⟨rfl, rfl, rfl, rfl⟩, by decide +kernel, rfl, rfl, rfl⟩

theorem witness_MailboxComplete_4 : ∃ (who : Who) (s : State), Claims.Writable who .sec .larva s ∧ s.sec.mbState ≠ 1 ∧ mbLoading s
    = true ∧ s.sec.images ≠ 0 := ⟨.host, larva 1 fun c => { c with images := 1, objects := 2, item5 := true }, ⟨rfl, rfl, rfl,
    rfl⟩, by decide +kernel, rfl, by decide +kernel⟩

theorem witness_MailboxComplete_5 : ∃ (who : Who) (s : State), Claims.Writable who .sec .larva s ∧ s.sec.mbState ≠ 1 ∧
    s.sec.life.running = true := ⟨.host, up, ⟨rfl, rfl, rfl, rfl⟩, by decide +kernel, rfl⟩

theorem witness_MailboxComplete_6 : ∃ (who : Who) (s : State) (k : _), Claims.Writable who .sec .larva s ∧ s.sec.mbState ≠ 1 ∧
    s.sec.life.running = true ∧ s.sec.pubKey = some k := ⟨.host, secOf fun c => { c with pubKey := some 5 }, _, ⟨rfl, rfl, rfl,
    rfl⟩, by decide +kernel, rfl, rfl⟩

theorem witness_MailboxComplete_7 : ∃ (who : Who) (s : State) (pub : _) (key : _), Claims.Writable who .sec .larva s ∧
    s.sec.mbState ≠ 1 ∧ s.sec.life.running = true ∧ s.sec.mbLen = 32 ∧ s.sec.pubKey = some pub ∧ s.sec.pufKey = some key :=
    ⟨.host, secOf fun c => { c with mbLen := 32, pubKey := some 5, pufKey := some 6 }, _, _, ⟨rfl, rfl, rfl, rfl⟩, by
    decide +kernel, rfl, rfl, rfl, rfl⟩

theorem witness_MailboxComplete_8 : ∃ (who : Who) (s : State), Claims.Writable who .sec .larva s ∧ s.sec.mbState ≠ 1 ∧ s.sec.life
    = .chrysalis ∧ s.sec.idState ≠ 0 ∧ s.sec.mbLen = 2484 := ⟨.host, secOf fun c =>
    { c with life := .chrysalis, idState := 1, mbLen := 2484 }, ⟨rfl, rfl, rfl, rfl⟩, by decide +kernel, rfl, by decide +kernel,
    rfl⟩

theorem witness_MailboxComplete_9 : ∃ (who : Who) (s : State), Claims.Writable who .sec .larva s ∧ s.sec.mbState ≠ 1 ∧ s.sec.life
    = .chrysalis ∧ s.sec.idState = 0 := ⟨.host, secOf fun c => { c with life := .chrysalis, idState := 0 }, ⟨rfl, rfl, rfl, rfl⟩,
    by decide +kernel, rfl, rfl⟩

theorem witness_MailboxComplete_10 : ∃ (who : Who) (i : Instr) (op : Nat) (w : Bool) (s : State), (i, op, w) ∈ [(.load who, 0x01,
    true), (.endObject who, 0x02, true), (.endLoad who, 0x03, true), (.decodeStatus who, 0x04, true), (.getPubkey who, 0x10,
    true), (.attest who, 0x11, true), (.enrol who true, 0x12, true), (.enrol who false, 0x12, false), (.run who, 0x20, true)] ∧
    Claims.Writable who .sec .larva s ∧ s.sec.mbState = 1 := ⟨.host, .run .host, 0x20, true, secOf fun c =>
    { c with mbState := 1 }, by simp, ⟨rfl, rfl, rfl, rfl⟩, rfl⟩

theorem witness_MailboxComplete_11 : ∃ (code : BitVec 8) (data : List (BitVec 8)) (op : Nat) (w : Bool) (was : Bool) (s : State),
    s.sec.mbDone = some (code, data) ∧ s.sec.mbLate = some (op, w, was) := ⟨3, [1, 2, 3], 0x20, true, false, secOf fun c =>
    { c with mbState := 1, mbDone := some (3, [1, 2, 3]), mbLate := some (0x20, true, false) }, rfl, rfl⟩

theorem witness_MailboxComplete_12 : ∃ (code : BitVec 8) (data : List (BitVec 8)) (s : State), s.sec.mbDone = some (code, data) ∧
    s.sec.mbLate = none := ⟨3, [1, 2, 3], secOf fun c => { c with mbState := 1, mbDone := some (3, [1, 2, 3]) }, rfl, rfl⟩

theorem witness_CalibrationComplete_2 : ∃ (ch : Nat) (s : State) (l : Nat) (k : CalTask), calOn s = true ∧ calAble s ch = true ∧
    (s.calCh ch).running = none ∧ calLimit s ch = some l ∧ (((s.calCh ch).dueNow s.te.time).filter fun x => decide (x.len ≤
    l)).head? = some k := ⟨7, calUp fun c => { c with inGap := [(0, 9000, 0xFF)] }, 8900, _, rfl, rfl, rfl, by decide +kernel,
    rfl⟩

theorem witness_CalibrationComplete_3 : ∃ (s : State), calOn s = true ∧ s.cal.dieDue ≤ s.te.time := ⟨calUp id, rfl, by
    decide +kernel⟩

theorem witness_CalibrationComplete_4 : ∃ (s : State), calOn s = true ∧ s.cal.trimDue ≤ s.te.time ∧ s.cal.trimming = false ∧
    s.clk.activeXtal = false := ⟨calUp id, rfl, by decide +kernel, rfl, rfl⟩

theorem witness_CalibrationComplete_5 : ∃ (ch : Nat) (s : State) (e : _), s.cal.stealing = some e ∧ s.cal.stealCh = BitVec.ofNat 3
    ch ∧ ch < 8 := ⟨7, calUp fun c => { c with stealing := some 5000, stealCh := 7 }, 5000, rfl, rfl, by decide⟩

theorem witness_CalibrationComplete_6 : ∃ (ch : Nat) (s : State) (k : _) (e : _) (m : _), s.cal.stealing = none ∧ s.cal.inGap =
    [(k, e, m)] ∧ bit m ch = true := ⟨7, calUp fun c => { c with inGap := [(2, 9000, 0x80)] }, 2, 9000, 0x80, rfl, rfl, by
    decide +kernel⟩

theorem witness_CalibrationComplete_7 : ∃ (k : Nat) (b : Nat) (s : State), s.te.running = true ∧ k < 8 ∧ gapSettle s = s ∧ bit
    (s.cal.gapCur.getD k 0) 56 = true ∧ bit (s.cal.gapCur.getD k 0) 57 = false ∧ bit (s.cal.gapCur.getD k 0) 58 = false ∧ gCh
    (s.cal.gapCur.getD k 0) = 0 ∧ lastBoundary s.te.period.toNat (s.te.phase.toNat + gPhase (s.cal.gapCur.getD k 0))
    s.te.quoinCopy = some b ∧ s.te.quoinPrev < b ∧ s.te.quoinCopy < b + gLen (s.cal.gapCur.getD k 0) ∧ (k, b + gLen
    (s.cal.gapCur.getD k 0), 0) ∉ s.cal.inGap := ⟨7, 500, (fun s : State =>
    { s with te := { s.te with quoinPrev := 499, quoinCopy := 500 } }) (calUp fun c =>
    { c with gapCur := List.replicate 8 (word 64 [(0, 500), (32, 1000), (56, 1)]) }), rfl, by decide, rfl, by decide +kernel, by
    decide +kernel, by decide +kernel, by decide +kernel, by decide +kernel, by decide +kernel, by decide +kernel, by decide⟩

theorem witness_CalibrationComplete_8 : ∃ (ch : Nat) (s : State) (k : CalTask) (e : Nat), ch < 8 ∧ ch < s.cal.ch.length ∧ ch <
    s.ddr.ch.length ∧ (s.calCh ch).running = some (k, e) ∧ e ≤ s.te.time ∧ calOn s = false := ⟨7, (fun s : State =>
    { s with cal := { s.cal with started := false } }) (calUp fun c =>
    { c with ch := List.replicate 8 { CalChan.reset with running := some (.dqs, 3) } }), _, _, by decide, by decide +kernel, by
    decide +kernel, rfl, by decide +kernel, rfl⟩

theorem witness_CalibrationComplete_9 : ∃ (s : State), calOn s = true ∧ s.cal.trimming = true ∧ s.clk.activeXtal = false := ⟨calUp
    fun c => { c with trimming := true }, rfl, rfl, rfl⟩

theorem witness_CalibrationComplete_10 : ∃ (ch : Nat) (s : State), calOn s = true ∧ calAble s ch = true ∧ (s.calCh ch).late
    s.te.time = true := ⟨7, (fun s : State => { s with te := { s.te with time := 2000000 } }) (calUp id), rfl, rfl, by
    decide +kernel⟩

theorem witness_CalibrationComplete_11 : ∃ (ch : Nat) (s : State), calOn s = true ∧ s.cal.stealEn = true ∧ s.cal.stealing = none ∧
    ((∀ e, s.cal.lastSteal = some e → e + 50000 ≤ s.te.time)) ∧ stealNext s = some ch := ⟨0, (fun s : State =>
    { s with te := { s.te with time := 3000000 } }) (calUp fun c => { c with overdue := 1 }), rfl, rfl, rfl, nofun, by
    decide +kernel⟩

theorem witness_CalibrationComplete_12 : ∃ (s : State), s.cal.stealing.isSome = true ∧ (s.calCh s.cal.stealCh.toNat).running =
    none := ⟨calUp fun c => { c with stealing := some 5 }, rfl, rfl⟩

theorem witness_CalibrationComplete_13 : ∃ (who : Who) (k : Nat) (s : State), k < 8 ∧ k < s.cal.gap.length ∧ Claims.Writable who
    .always .yes s := ⟨.host, 7, up, by decide, by decide, ⟨rfl, rfl, rfl, rfl⟩⟩

theorem witness_CalibrationComplete_14 : ∃ (s : State), Claims.Writable .quoin .always .no s := ⟨up, ⟨rfl, rfl, rfl⟩⟩

theorem witness_FaultHandlingComplete_1 : ∃ (cause : FenceCause) (n : Nat) (s : State), n < 16 ∧ ((∀ who, cause = .command who →
    Claims.Writable who .always .no s)) ∧ ((cause = .hardware → s.alive = true)) ∧ s.flt.devFault = false ∧ s.fencedTile n = false
    := ⟨.command .quoin, 15, up, by decide, fun _ h => by cases h; exact ⟨rfl, rfl, rfl⟩, by decide, rfl, rfl⟩

theorem witness_FaultHandlingComplete_2 : ∃ (who : Who) (n : Nat) (s : State), n < 16 ∧ n < s.tiles.length ∧ Claims.Writable who
    .always .no s ∧ s.flt.devFault = false ∧ s.fencedTile n = true := ⟨.quoin, 15, morOf (fun m => { m with fenced := 0x8000 })
    up, by decide, by decide, ⟨rfl, rfl, rfl⟩, rfl, rfl⟩

theorem witness_FaultHandlingComplete_3 : ∃ (who : Who) (n : Nat) (s : State), n < 16 ∧ n < s.tiles.length ∧ Claims.Writable who
    .always .no s ∧ s.flt.devFault = false ∧ s.fencedTile n = false ∧ (s.core n).halted = true := ⟨.quoin, 15, up, by decide, by
    decide, ⟨rfl, rfl, rfl⟩, rfl, rfl, rfl⟩

theorem witness_FaultHandlingComplete_4 : ∃ (who : Who) (n : Nat) (s : State), n < 16 ∧ Claims.Writable who .always .no s ∧
    s.flt.devFault = false ∧ bit s.sc.fence n = false := ⟨.quoin, 15, up, by decide, ⟨rfl, rfl, rfl⟩, rfl, rfl⟩

theorem witness_FaultHandlingComplete_5 : ∃ (who : Who) (n : Nat) (s : State), n < 16 ∧ Claims.Writable who .always .no s ∧
    s.flt.devFault = false ∧ bit s.sc.fence n = true := ⟨.quoin, 15, scOf fun c => { c with fence := 0x8000 }, by decide, ⟨rfl,
    rfl, rfl⟩, rfl, rfl⟩

theorem witness_FaultHandlingComplete_6 : ∃ (who : Who) (s : State), Claims.Writable who .always .no s := ⟨.quoin, up, ⟨rfl, rfl,
    rfl⟩⟩

theorem witness_FaultHandlingComplete_7 : ∃ (cause : Nat) (i : Instr) (s : State), s.flt.devFault = false ∧ ((∃ who, cause = 6 ∧ i
    = .devFault who ∧ Claims.Writable who .always .no s) ∨ (cause = 4 ∧ i = .quoinWdogExpire ∧ s.sec.life.running = true ∧ fld
    s.flt.cfgCur 24 8 ≠ 0 ∧ fld s.flt.cfgCur 24 8 * 1000000 < s.te.time - s.flt.kickAt) ∨ (cause = 3 ∧ i = .pcieLinkTimeout ∧ fld
    s.flt.cfgCur 16 8 ≠ 0 ∧ ∃ d, s.flt.linkDownAt = some d ∧ fld s.flt.cfgCur 16 8 * 1000000 ≤ s.te.time - d)) := ⟨6, .devFault
    .quoin, up, rfl, .inl ⟨.quoin, rfl, rfl, rfl, rfl, rfl⟩⟩

theorem witness_FaultHandlingComplete_8 : ∃ (s : State), s.te.time / 1000000000 ≠ s.flt.window := ⟨(fun s : State =>
    { s with te := { s.te with time := 2000000000 } }) up, by decide +kernel⟩

theorem witness_RegisterWritesReachOrAreTurnedAway_1 : ∃ (i : Instr) (b : Blk) (p : HostPerm) (s : State), Claims.regOf s i = some
    (.host, b, p) ∧ s.barOpen = false := ⟨.vecCntClr .host 0 1, .tile 0, .yes, hostOf fun h => { h with memSpace := false }, rfl,
    rfl⟩

theorem witness_RegisterWritesReachOrAreTurnedAway_2 : ∃ (i : Instr) (b : Blk) (p : HostPerm) (s : State), Claims.regOf s i = some
    (.host, b, p) ∧ s.barOpen = true ∧ (hostMayWrite s.sec.life b p = false ∨ s.fencedBlk b = true) := ⟨.scFenceWrite .host 1,
    .sc, .no, up, rfl, rfl, .inl rfl⟩

theorem witness_RegisterWritesReachOrAreTurnedAway_3 : ∃ (i : Instr) (b : Blk) (p : HostPerm) (s : State), Claims.regOf s i = some
    (.host, b, p) ∧ s.barOpen = true ∧ hostMayWrite s.sec.life b p = true ∧ s.fencedBlk b = false ∧ s.gated b = true :=
    ⟨.hodCntClr .host 1, .hod, .yes, clkOf fun c => { c with gate := 0 }, rfl, rfl, rfl, rfl, rfl⟩

theorem witness_RegisterWritesReachOrAreTurnedAway_4 : ∃ (i : Instr) (b : Blk) (p : HostPerm) (n : Nat) (s : State), Claims.regOf
    s i = some (.tile n, b, p) ∧ b ≠ .tile n := ⟨.vecCntClr (.tile 3) 0 1, .tile 0, .yes, 3, up, rfl, by decide +kernel⟩

theorem witness_RegisterWritesReachOrAreTurnedAway_5 : ∃ (n : Nat) (s : State), n < 16 ∧ n < s.mor.stage.length ∧ s.barOpen = true
    ∧ hostMayWrite s.sec.life .always .yes = true := ⟨15, up, by decide, by decide, rfl, rfl⟩

theorem witness_RegisterWritesReachOrAreTurnedAway_6 : ∃ (bs : List (BitVec 8)) (s : State), s.barOpen = true ∧ bs.length = 4 :=
    ⟨[1, 2, 3, 4], up, rfl, rfl⟩

theorem witness_RegisterWritesReachOrAreTurnedAway_7 : ∃ (n : Nat) (s : State), n < 16 ∧ s.barOpen = true ∧ s.fencedTile n = false
    ∧ s.gatedTile n = false := ⟨15, up, by decide, rfl, rfl, rfl⟩

theorem witness_RegisterWritesReachOrAreTurnedAway_8 : ∃ (n : Nat) (s : State), s.tileLive n = true ∧ n < s.tiles.length := ⟨15,
    up, rfl, by decide⟩

theorem witness_RegisterWritesReachOrAreTurnedAway_9 : ∃ (s : State), s.barOpen = true := ⟨up, rfl⟩

theorem witness_RegisterWritesReachOrAreTurnedAway_10 : ∃ (o : Nat) (n : Nat) (s : State), s.barOpen = true ∧ s.gated .dma = false
    ∧ o + n ≤ 0x40000 := ⟨0x3FFF8, 8, up, rfl, rfl, by decide⟩

theorem witness_StepTakesTheFront_1 : ∃ (c : Instr) (rest : List Instr) (s : State), s.pending = c :: rest := ⟨_, _,
    { up with pending := [.timeTick] }, rfl⟩

theorem witness_StepTakesTheFront_2 : ∃ (s : State), s.pending = [] ∧ s.alive = true := ⟨up, rfl, rfl⟩

theorem witness_StepTakesTheFront_3 : ∃ (n : Nat) (s : State), (s.tile n).ts.now = .none := ⟨0, up, rfl⟩

theorem witness_StepTakesTheFront_4 : ∃ (n : Nat) (s : State), (s.tile n).vec.now = .none := ⟨0, up, rfl⟩

theorem witness_StepTakesTheFront_5 : ∃ (s : State), s.dma.now = .none := ⟨up, rfl⟩

theorem witness_StepTakesTheFront_6 : ∃ (s : State), s.pending = [] ∧ s.alive = false := ⟨secOf fun c =>
    { c with resetLow := true }, rfl, rfl⟩

theorem witness_CommandsKeepTheQueue_1 : ∃ (i : Instr) (s : State) (t : State), exec i s = .next t := ⟨.timeTick,
    { up with pending := [.timeTick] }, _, rfl⟩

theorem witness_StepKeepsSound_1 : ∃ (s : State) (t : State), Safety.Sound s ∧ step s = .next t := ⟨up, _, ⟨by decide +kernel, by
    decide +kernel, rfl, nofun⟩, rfl⟩

theorem witness_SequencersAtReset_1 : ∃ (n : Nat), n ≤ 16 := ⟨16, by decide⟩

theorem witness_LifeAndFaultsLast_1 : ∃ (i : Instr) (s : State) (t : State), exec i s = .next t := ⟨.flr, up, _, rfl⟩

/-! ### Examples worked in the spec -/

/-- The state that an answer leads to. -/
def after (o : Out) : State := match o with
  | .next z => z
  | _ => State.reset

/-- Chapter 02, R39: byte 0x21_2A9C lies in course 0x4255, in bank 13. -/
theorem test_course_bank : courseBank (0x212A9C / 128) = 13 ∧ 0x212A9C / 128 = 0x4255 := by decide

/-- Chapter 03, R89: the word of `ADD [g3+2].w, [g0+5].w, #7`. -/
theorem test_add_word : encodeSeq 0x08 (opM 2 3 2) (opM 2 0 5) (opI 7) = 0x108C0090002E0007#64 := by decide +kernel

/-- The state of that example: g3 holds LADDR 0x0_2000, word 5 of local RAM `w`. -/
def addUp (w : TWord) : State :=
  seqUp 0x08 (opM 2 3 2) (opM 2 0 5) (opI 7) fun k => ({ k with lram := [(5, w)] } : SeqCore).setG 3 ⟨tagLaddr, 0x2000⟩

/-- INT 107 leaves for 0x0_2008, a far operand. -/
theorem test_add_far : ((after (exec (.add (ops (opM 2 3 2) (opM 2 0 5) (opI 7))) (addUp ⟨tagInt, 100⟩))).core 0).stbuf.map
    (fun e => (e.tile, e.addr, e.size, e.tags, e.data)) = [(false, 0x2008, 4, [tagInt], 107)] := by decide +kernel

/-- An address as the source makes the sum an address. -/
theorem test_add_taddr : ((after (exec (.add (ops (opM 2 3 2) (opM 2 0 5) (opI 7))) (addUp ⟨tagTaddr, 0x100000⟩))).core 0).stbuf.map
    (fun e => (e.tags, e.data)) = [([tagTaddr], 0x100007)] := by decide +kernel

/-- Chapter 04, R137: QLDFF at the end of the tile store loads four of eight elements. -/
def ldffUp : State :=
  (seqUp 0x5A (opQ 3) (opM 4 6 0) (opI 2) fun k => k.setG 6 ⟨tagTaddr, 0x3FFFF8⟩).updTs 0 fun x =>
    { x with bytes := (List.range 8).map fun i => (0x3FFFF8 + i, BitVec.ofNat 8 (i + 1)) }
theorem test_qldff : ((after (exec (.qldff (ops (opQ 3) (opM 4 6 0) (opI 2))) ldffUp)).core 0).qReg 3 = 0x0807060504030201#128
    ∧ ((after (exec (.qldff (ops (opQ 3) (opM 4 6 0) (opI 2))) ldffUp)).core 0).ffcount = 4 := by decide +kernel

/-- Chapter 05: UOP2 of the proportional-fair average makes 1,020 of 1,000 and 1,320.  Its SAR names C, 0xA, as R152 codes it
(the word printed in the example has 2 there; log entry 67). -/
def uopUp : State :=
  seqUp 0x72 (opM 2 4 3) (opG 7) (opI 4) fun k =>
    (({ k with
      decodeRam := [(72, 0x040C0105), (73, 8), (76, 0xC0200000), (77, 0x24640000), (78, 0x58468000), (79, 0x20004000), (80, 0xC6000000)]
      lram := [(19, ⟨tagInt, 1000⟩)] } : SeqCore).setG 4 ⟨tagLaddr, 0x40⟩).setG 7 ⟨tagInt, 1320⟩
theorem test_uop : ((after (exec (.uop 2 (ops (opM 2 4 3) (opG 7) (opI 4))) uopUp)).core 0).stbuf.map
    (fun e => (e.tile, e.addr, e.data)) = [(false, 0x4C, 1020)] := by decide +kernel

/-- Chapter 06, R186: the VBFLY2 of the example. -/
def bflyOut : VOut :=
  vbfly2 (VSlot.ofBits (word 64 [(37, 1), (32, 2), (47, 4)]))
    { v := fun n => match n with
        | 0 => word 1024 [(0, 16386), (16, 65534)]
        | 1 => word 1024 [(0, 8192), (16, 8192)]
        | _ => word 1024 [(16, 32768)]
      accVis := fun _ => 0
      accNew := fun _ => 0
      shift := 2
      lfsr := 0
      raw := 0 }
theorem test_vbfly2 : bflyOut.res.map (fun r => (r.dst, r.val % 2 ^ 16, r.val / 2 ^ 16 % 2 ^ 16))
    = [(4, 6145, 65536 - 2048), (5, 2049, 2048)] := by decide +kernel

/-- Chapter 06, R190: nine taps of 100 average to 100. -/
theorem test_vaccx : sarRound (900 * 7282) 16 = 100 := by decide +kernel

/-- Chapter 07, R205: expansion of INT8 codes with a UE4M3 scale. -/
theorem test_expand : expandCode .int8 0x5B (ScaleFmt.ue4m3.value 0x3F) = (0x4CAB, false)
    ∧ expandCode .int8 0xA5 (ScaleFmt.ue4m3.value 0x3F) = (0xCCAA, false) := by decide +kernel

/-- Chapter 07, R210: the scale words of amax 1,000. -/
theorem test_scalegen : (ScaleFmt.e8m0.ceil 1000 127).1 = 0x82 ∧ (ScaleFmt.ue4m3.ceil 1000 127).1 = 0x50
    ∧ (ScaleFmt.fp16.ceil 1000 127).1 = 0x47E0 := by decide +kernel

/-- Chapter 07, R211: elements quantised with those scales. -/
theorem test_quant : (([1000, -1000, 20, -36] : List Int).map fun x =>
    sgn 8 (quantCode .int8 (ScaleFmt.e8m0.value 0x82) 0 none (FV.ofInt x)).1) = [125, -125, 3, -4]
    ∧ (([1000, -36] : List Int).map fun x => sgn 8 (quantCode .int8 (ScaleFmt.fp16.value 0x47E0) 0 none (FV.ofInt x)).1)
      = [127, -5] := by decide +kernel

/-- Chapter 07, R216: stochastic rounding of 2.5 and −2.5. -/
theorem test_quant_sr : ([0x7FFFFF, 0x800000].map fun u =>
    (sgn 8 (quantCode .int8 (FV.ofInt 8) 0 (some u) (FV.ofInt 20)).1, sgn 8 (quantCode .int8 (FV.ofInt 8) 0 (some u) (FV.ofInt (-20))).1))
    = [(2, -3), (3, -2)] := by decide +kernel

/-- Chapter 10, R296 and R302: partials in the order 3, 0, 1, 2, and in the order of the tiles. -/
def sumOf (l : List Nat) : Nat := l.foldl (fun y p => f32Out ((f32In y).add (f32In p))) 0
theorem test_hod_orders : sumOf [0xCB800000, 0x4B800000, 0x3F800000, 0x3F800000] = 0x40000000
    ∧ sumOf [0x4B800000, 0x3F800000, 0x3F800000, 0xCB800000] = 0x40800000 := by decide +kernel

/-- Chapter 12, R351: three misses with equal deltas train a tracker, which then prefetches 1,009 to 1,030. -/
def miss3 : State := trainMiss 5 1006 (trainMiss 5 1003 (trainMiss 5 1000 (scOf fun c => { c with capGib := 1 })))
theorem test_learn : (miss3.sc.tracker 0).state = 2 ∧ (miss3.sc.tracker 0).stride = 3
    ∧ (miss3.ddr.ch.map fun c => c.queue.map (·.line)).flatten.length = 10
    ∧ ([1001, 1004, 1009, 1030].all fun l => (miss3.ddr.ch.map fun c => c.queue.map (·.line)).flatten.contains l) = true := by
  decide +kernel

/-- Chapter 12, R337 and R354: where line 0x2468_ACF1 lies. -/
theorem test_line : lineSlice 0x2468ACF1 = 8 ∧ lineSet 0x2468ACF1 = 719 ∧ lineTag 0x2468ACF1 = 0x91A2 ∧ lineChan 0x2468ACF1 = 5 := by
  decide

/-- Chapter 12, R354: the place of device address 0x12_3456_7880 with two ranks of 32 Gb. -/
theorem test_ddr_place : ddrPlace 5 (0x1234567880 / 128) = ⟨6, 3, 704, 0, 18641⟩ := by decide

/-- Chapter 13, R361: the fault address of the GATHER. -/
theorem test_fault_addr : aAt (word 64 [(0, 0x1000000), (60, 1)]) 0x100040100 = 0x1000000001000401#64 := by decide +kernel

/-- Chapter 15, R420: the boundary nearest 7,000,000,013. -/
theorem test_boundary : nearestBoundary 500000 0 7000000013 = 7000000000 := by decide +kernel

/-- Chapter 17, R467 and R468: H of six devices, and the path delay of device 4. -/
theorem test_chain : wrap 16 ((2 * ((2346 : Int) - 272 * 5) + 6) / 12) = 164
    ∧ pathDelay { Chain.reset with addr := 4, hopH := 164 } = 1472 := by decide +kernel

end Sys2Proof.Tests
end

section
/-! The sequencer instruction set, chapter 03: the comparisons (R97), and what reset leaves in a sequencer (R73). -/

namespace Sys2Proof.Machine

/-! ### Rows of data instructions -/

/-- An instruction that runs a row's data operation completes as the row says: the layer between `exec` and every
table of data instructions. -/
theorem rowCompletes_of_dataInstr {p : Claims.DataRow} {div0 : Args → SVal → Bool} {f : Args → BitVec 4 → SVal → SVal → RVal}
    (hexec : ∀ o s, exec (p.ins o) s = dataInstr p.opc p.ka p.kb p.kc (dataOp p.rule p.dflt p.two div0 f) o s)
    (hdiv : ∀ x vc, (p.div = true → vc.nat x.width ≠ 0) → div0 x vc = false)
    (hf : ∀ x t b c, f x t b c = ⟨p.val x t b c, p.bits x b, p.wd x b⟩) : Claims.RowCompletes p := by
  intro o s0 s s1 s2 s3 x vb vc tg hready hplaced hb hc htag hstore hzero hpb hpc hwrite
  have hcore : x.core = o.core := hplaced.1
  rw [← hcore] at hb hc hwrite
  have hop : dataOp p.rule p.dflt p.two div0 f x s = .ok s3 .seq :=
    dataOp_ok hb hc htag hstore (hdiv x vc hzero) hpb hpc (by simpa only [hf] using hwrite)
  rw [hexec, dataInstr, issueSeq_of_ready hready, withArgs_of_placed hplaced, hop]
  rfl

/-! ### The tag of a result -/

/-- The rule that a core checks sources under: on the quoin a RAW source passes too (R93). -/
def coreRule (core : Nat) (r : TagRule) : TagRule := if core = quoinCore then rawRule r else r

/-- A pair of sources that passes the check has the tag that the core's rule gives. -/
theorem checkPair_ok {core : Nat} {r : TagRule} {vb vc : SVal} {tb tc t : BitVec 4}
    (h : checkPair core r vb vc tb tc = .ok t) : coreRule core r tb tc = some t := by
  unfold checkPair at h
  unfold coreRule
  dsimp only at h
  generalize (if core = quoinCore then rawRule r else r) = r' at h ⊢
  split at h
  · next hr => rw [hr, Except.ok.inj h]
  · split at h <;> cases h

/-- Two sources admitted together have a result tag that the core's rule gives for some tags of theirs. -/
theorem pairTags_ok {core : Nat} {r : TagRule} {dflt t : BitVec 4} {two : Bool} {vb vc : SVal}
    (h : pairTags core r dflt two vb vc = .ok t) : ∃ tb tc, coreRule core r tb tc = some t := by
  unfold pairTags at h
  split at h
  · cases h
  · dsimp only at h
    generalize (if core = quoinCore then rawRule r else r) = r' at h
    split at h <;> cases h
  · next tb tc _ _ => exact ⟨tb, tc, checkPair_ok h⟩

/-- The tag of a tagged result is one that the core's rule gives. -/
theorem dataTag_ok_of_tagged {r : TagRule} {dflt : BitVec 4} {two : Bool} {x : Args} {vb vc : SVal} {tg : Option (BitVec 4)}
    (hx : x.a.untagged = false) (h : dataTag r dflt two x vb vc = .ok tg) :
    ∃ t tb tc, tg = some t ∧ coreRule x.core r tb tc = some t := by
  simp only [dataTag, hx, Bool.false_eq_true, if_false] at h
  cases hp : pairTags x.core r dflt two vb vc with
  | error e => simp [hp, Except.map] at h
  | ok t =>
    obtain ⟨tb, tc, hr⟩ := pairTags_ok hp
    exact ⟨t, tb, tc, by simpa [hp, Except.map] using h.symm, hr⟩

/-! ### The tag rules of the comparisons -/

/-- A rule whose every result is BOOL, as INT and INT show. -/
structure TagRule.IsComparison (r : TagRule) : Prop where
  ofInt : r tagInt tagInt = some tagBool
  onlyBool : ∀ b c t, r b c = some t → t = tagBool

/-- A rule that only tests its tags and gives BOOL, INT and INT among those that pass. -/
theorem isComparison_of_test (p : BitVec 4 → BitVec 4 → Bool) (hint : p tagInt tagInt = true) :
    TagRule.IsComparison fun b c => if p b c then some tagBool else none where
  ofInt := if_pos hint
  onlyBool b c t h := by
    split at h
    · exact (Option.some.inj h).symm
    · cases h

theorem ruleCeq_isComparison : TagRule.IsComparison ruleCeq := isComparison_of_test _ (by decide)

theorem ruleClt_isComparison : TagRule.IsComparison ruleClt := isComparison_of_test _ (by decide)

/-- R93: a comparison of a RAW source gives BOOL too, the exception from RAW. -/
theorem rawRule_onlyBool {r : TagRule} (hr : r.IsComparison) {b c t : BitVec 4} (h : rawRule r b c = some t) : t = tagBool := by
  have hcmp : (allTags.any fun x => allTags.any fun y => r x y = some tagBool && x ≠ tagBool) = true := by
    have hint : tagInt ∈ allTags := by decide
    simp only [List.any_eq_true]
    exact ⟨tagInt, hint, tagInt, hint, by simp [hr.ofInt, show tagInt ≠ tagBool by decide]⟩
  unfold rawRule at h
  split at h
  · simp only [hcmp, if_true] at h
    split at h
    · exact (Option.some.inj h).symm
    · cases h
  · exact hr.onlyBool b c t h

theorem coreRule_onlyBool {r : TagRule} (hr : r.IsComparison) {core : Nat} {b c t : BitVec 4}
    (h : coreRule core r b c = some t) : t = tagBool := by
  unfold coreRule at h
  split at h
  · exact rawRule_onlyBool hr h
  · exact hr.onlyBool b c t h

/-! ### R97: the comparisons -/

/-- What R97 says of one comparison: it completes, with 1 or 0 in 32 bits, and with BOOL wherever A holds a tag. -/
def Comparison (p : Claims.DataRow) : Prop :=
  Claims.RowCompletes p
    ∧ (∀ (x : Args) (t : BitVec 4) (b c : SVal), (p.val x t b c = 0 ∨ p.val x t b c = 1) ∧ p.bits x b = 32)
    ∧ (∀ (x : Args) (b c : SVal) (tg : Option (BitVec 4)), x.a.untagged = false → dataTag (p.rule x) p.dflt p.two x b c = .ok tg →
        tg = some tagBool)

/-- An instruction that compares its sources with `g` under a comparison's tag rule is a comparison by `f`, where the two
agree. -/
theorem comparison_of_cmpOp {mk : SeqOps → Instr} {opc : Nat} {rule : TagRule} {f g : Nat → SVal → SVal → Bool}
    (hexec : ∀ o s, exec (mk o) s = dataInstr opc kDst kSrc kSrc (cmpOp rule g) o s)
    (hrule : rule.IsComparison) (hfg : ∀ w b c, g w b c = f w b c) : Comparison (Claims.cmpRow mk opc rule f) := by
  refine ⟨rowCompletes_of_dataInstr hexec (fun _ _ _ => rfl) fun x t b c => ?_, fun x t b c => ⟨?_, rfl⟩, ?_⟩
  · simp only [hfg, b2n, Claims.cmpRow]
  · by_cases h : f x.width b c = true
    · exact .inr (if_pos h)
    · exact .inl (if_neg h)
  · intro x b c tg hx htag
    obtain ⟨t, tb, tc, rfl, hr⟩ := dataTag_ok_of_tagged hx htag
    rw [coreRule_onlyBool hrule hr]

/-- Settles O2, row by row: each row of R97's table runs a comparison under a rule that gives nothing but BOOL. -/
theorem comparisonsComplete : Obligations.ComparisonsComplete := by
  change ∀ p ∈ Claims.cmpRows, Comparison p
  simp only [Claims.cmpRows, List.forall_mem_cons]
  refine ⟨?ceq, ?cne, ?clt, ?cle, ?cltu, ?cleu, fun _ h => by cases h⟩
  case ceq => exact comparison_of_cmpOp (fun _ _ => rfl) ruleCeq_isComparison fun _ _ _ => rfl
  case cne => exact comparison_of_cmpOp (fun _ _ => rfl) ruleCeq_isComparison fun _ _ _ => by simp [bne, beq_eq_decide]
  case clt => exact comparison_of_cmpOp (fun _ _ => rfl) ruleClt_isComparison fun _ _ _ => rfl
  case cle => exact comparison_of_cmpOp (fun _ _ => rfl) ruleClt_isComparison fun _ _ _ => rfl
  case cltu => exact comparison_of_cmpOp (fun _ _ => rfl) ruleClt_isComparison fun _ _ _ => rfl
  case cleu => exact comparison_of_cmpOp (fun _ _ => rfl) ruleClt_isComparison fun _ _ _ => rfl

/-! ### R73: the sequencers at reset -/

/-- Every core's sequencer is SeqCore.reset, but for HALTED, which is off on the quoin. -/
theorem core_reset {n : Nat} (h : n ≤ 16) :
    State.reset.core n = { SeqCore.reset with halted := decide (n ≠ quoinCore) } := by
  unfold State.core
  split
  · next hq => simp [hq, State.reset, Quoin.reset]
  · next hq =>
    have htile : State.reset.tile n = .reset := List.getD_replicate _ (by unfold quoinCore at hq; omega)
    simp [htile, Tile.reset, hq, SeqCore.reset]

/-- R73: at reset g1 and the registers above it hold UNINIT, whichever level's bank is read. -/
theorem SeqCore.g_reset (halted : Bool) (l : BitVec 2) {i : Nat} (hi : 1 ≤ i) :
    SeqCore.g { SeqCore.reset with halted := halted, level := l } i = .uninit := by
  have hbank (m : Nat) : SeqCore.gBank { SeqCore.reset with halted := halted, level := l } m = List.replicate 8 .uninit := by
    unfold SeqCore.gBank
    split
    · rfl
    · split <;> rfl
  simp only [SeqCore.g, hbank, show i ≠ 0 by omega, if_false]
  split <;> exact List.getElem?_getD_replicate_default_eq ..

/-- R73: at reset the f registers hold 0. -/
theorem SeqCore.fReg_reset (halted : Bool) (i : Nat) : SeqCore.fReg { SeqCore.reset with halted := halted } i = 0 :=
  List.getElem?_getD_replicate_default_eq ..

/-- R73: the q registers, pairs of f registers, therefore hold 0 too. -/
theorem SeqCore.qReg_reset (halted : Bool) (i : Nat) : SeqCore.qReg { SeqCore.reset with halted := halted } i = 0 := by
  rw [SeqCore.qReg, SeqCore.fReg_reset, SeqCore.fReg_reset]
  rfl

/-- Settles O57: every core's sequencer is SeqCore.reset up to HALTED, which none of these registers depends on. -/
theorem sequencersAtReset : Obligations.SequencersAtReset := by
  intro n hn
  rw [core_reset hn]
  exact ⟨fun _ => rfl, fun l _ hi _ => congrArg TWord.tag (SeqCore.g_reset _ l hi), SeqCore.fReg_reset _, SeqCore.qReg_reset _, rfl⟩

end Sys2Proof.Machine
end

section
/-! LIFE and the boot error: a counterexample. -/

namespace Sys2Proof.Machine

/-- A device in EGG whose clock is chosen, in which a boot error of code 5 stands. -/
def stoppedInEgg : State :=
  { State.reset with
    clk := { State.reset.clk with chosen := true }
    sec := { State.reset.sec with bootFail := true, bootCode := 5 } }

/-- The start of LARVA, its flash not answering, puts boot error 2 in the place of the one that stood. -/
theorem execLarvaStart_stoppedInEgg :
    ∃ t, exec (.larvaStart false) stoppedInEgg = .next t ∧ t.sec.life = .larva ∧ t.sec.bootCode = 2 :=
  ⟨_, rfl, rfl, rfl⟩

/-- Refutes O59: a boot error that stands in EGG does not stand through LARVA_START, which asks for EGG and a chosen clock only
and records boot error 2 when the directory fails. -/
theorem not_lifeAndFaultsLast : ¬ Obligations.LifeAndFaultsLast := by
  intro h
  obtain ⟨t, ht, hlife, hcode⟩ := execLarvaStart_stoppedInEgg
  obtain hegg | ⟨_, _, hboot⟩ := h _ _ _ ht
  · exact absurd (hlife.symm.trans hegg) (by decide)
  · exact absurd (hcode.symm.trans (hboot rfl).2) (by decide)

end Sys2Proof.Machine
end

section
/-! What no command disturbs: the queue of waiting commands, the device's shape, the canonical form of its memories and the
hod's pointer, and that each operation over the state keeps them. -/

namespace Sys2Proof.Machine

/-- The part of soundness that speaks of the device itself: its shape, its memories, and the hod's pointer (R300). -/
def Fit (z : State) : Prop := z.shaped = true ∧ Memory.wf z = true ∧ z.hod.q = z.cycle % 4

theorem State.shaped_iff (z : State) : z.shaped = true ↔
    z.tiles.length = 16 ∧ z.hod.tgts.length = 64 ∧ z.ddr.ch.length = 8 ∧ z.dma.ch.length = 64 := by
  simp [State.shaped, and_assoc]

/-- What is reached as `z` from `s` has the queue of `s`, and is fit if `s` is. -/
def Keeps (s z : State) : Prop := z.pending = s.pending ∧ (Fit s → Fit z)

/-- A sequencer core reached as `d` from `c` keeps its memories canonical. -/
def CoreKeeps (c d : SeqCore) : Prop :=
  (c.memWf → d.memWf) ∧ (swf (fun _ => 0) c.decodeRam = true → swf (fun _ => 0) d.decodeRam = true)

/-- A tile store likewise. -/
def TsKeeps (a b : TileStore) : Prop := a.memWf → b.memWf

/-- A vector engine likewise. -/
def VecKeeps (v w : VecEngine) : Prop :=
  (swf (fun _ => 0) v.vpram = true → swf (fun _ => 0) w.vpram = true)
    ∧ (swf (fun _ => false) v.vpramBad = true → swf (fun _ => false) w.vpramBad = true)

/-- A tile likewise. -/
def TileKeeps (x y : Tile) : Prop := Tile.memWf x = true → Tile.memWf y = true

theorem CoreKeeps.refl (c : SeqCore) : CoreKeeps c c := ⟨id, id⟩
theorem TsKeeps.refl (a : TileStore) : TsKeeps a a := id
theorem VecKeeps.refl (v : VecEngine) : VecKeeps v v := ⟨id, id⟩
theorem TileKeeps.refl (x : Tile) : TileKeeps x x := id

theorem Keeps.refl (s : State) : Keeps s s := ⟨rfl, id⟩

theorem Keeps.trans {s z t : State} (h : Keeps s z) (h' : Keeps z t) : Keeps s t :=
  ⟨h'.1.trans h.1, fun f => h'.2 (h.2 f)⟩

theorem Keeps.ite {s a b : State} {c : Prop} [Decidable c] (ha : Keeps s a) (hb : Keeps s b) : Keeps s (if c then a else b) := by
  split
  · exact ha
  · exact hb

theorem CoreKeeps.ite {s a b : SeqCore} {c : Prop} [Decidable c] (ha : CoreKeeps s a) (hb : CoreKeeps s b) :
    CoreKeeps s (if c then a else b) := by
  split
  · exact ha
  · exact hb

theorem TsKeeps.ite {s a b : TileStore} {c : Prop} [Decidable c] (ha : TsKeeps s a) (hb : TsKeeps s b) :
    TsKeeps s (if c then a else b) := by
  split
  · exact ha
  · exact hb

theorem VecKeeps.ite {s a b : VecEngine} {c : Prop} [Decidable c] (ha : VecKeeps s a) (hb : VecKeeps s b) :
    VecKeeps s (if c then a else b) := by
  split
  · exact ha
  · exact hb

/-- Steps over a list each of which keeps what is kept. -/
theorem Keeps.foldl {α : Type} {s z : State} {f : State → α → State} {l : List α} (h : Keeps s z)
    (hf : ∀ z x, Keeps s z → Keeps s (f z x)) : Keeps s (l.foldl f z) :=
  foldl_keeps (Keeps s) f hf l z h

theorem CoreKeeps.foldl {α : Type} {s z : SeqCore} {f : SeqCore → α → SeqCore} {l : List α} (h : CoreKeeps s z)
    (hf : ∀ z x, CoreKeeps s z → CoreKeeps s (f z x)) : CoreKeeps s (l.foldl f z) :=
  foldl_keeps (CoreKeeps s) f hf l z h

/-! ### Answers -/

/-- A command answers a next state that keeps what `s` has. -/
def Answers (s : State) (o : Out) : Prop := ∃ t, o = .next t ∧ Keeps s t

theorem Answers.next {s z : State} (h : Keeps s z) : Answers s (.next z) := ⟨z, rfl, h⟩

theorem Answers.ite {s : State} {a b : Out} {c : Prop} [Decidable c] (ha : Answers s a) (hb : Answers s b) :
    Answers s (if c then a else b) := by
  split
  · exact ha
  · exact hb

/-! ### Results -/

/-- Every state of a sequencer body's result keeps what `s` has. -/
def ResKeeps {α : Type} (s : State) : SeqRes α → Prop
  | .ok z _ => Keeps s z
  | .trap z _ => Keeps s z
  | .wait => True

/-- The state of an answer or of an error. -/
def ExKeeps (s : State) : Except State State → Prop
  | .ok z => Keeps s z
  | .error z => Keeps s z

/-- The same, of an answer with a value. -/
def ValKeeps {α : Type} (s : State) : Except State (α × State) → Prop
  | .ok (_, z) => Keeps s z
  | .error z => Keeps s z

/-- The state of an answer, if there is one. -/
def OptKeeps (s : State) (o : Option State) : Prop := ∀ z, o = some z → Keeps s z

theorem ExKeeps.ok {s z : State} {r : Except State State} (h : ExKeeps s r) (e : r = .ok z) : Keeps s z := by
  subst e
  exact h

theorem ExKeeps.error {s z : State} {r : Except State State} (h : ExKeeps s r) (e : r = .error z) : Keeps s z := by
  subst e
  exact h

theorem ValKeeps.ok {α : Type} {s z : State} {a : α} {r : Except State (α × State)} (h : ValKeeps s r) (e : r = .ok (a, z)) :
    Keeps s z := by
  subst e
  exact h

theorem ValKeeps.error {α : Type} {s z : State} {r : Except State (α × State)} (h : ValKeeps s r) (e : r = .error z) :
    Keeps s z := by
  subst e
  exact h

theorem ExKeeps.mk_ok {s z : State} (h : Keeps s z) : ExKeeps s (.ok z) := h
theorem ExKeeps.mk_error {s z : State} (h : Keeps s z) : ExKeeps s (.error z) := h
theorem ValKeeps.mk_ok {α : Type} {s z : State} {a : α} (h : Keeps s z) : ValKeeps s (.ok (a, z)) := h
theorem ValKeeps.mk_error {α : Type} {s z : State} (h : Keeps s z) : ValKeeps (α := α) s (.error z) := h
theorem OptKeeps.mk_some {s z : State} (h : Keeps s z) : OptKeeps s (some z) := fun _ e => Option.some.inj e ▸ h
theorem OptKeeps.get {s z : State} {o : Option State} (h : OptKeeps s o) (e : o = some z) : Keeps s z := h z e

theorem OptKeeps.map {s : State} {o : Option State} {f : State → State} (h : OptKeeps s o) (hf : ∀ z, Keeps s z → Keeps s (f z)) :
    OptKeeps s (o.map f) := by
  cases o with
  | none => exact fun _ e => by cases e
  | some z => exact fun _ e => Option.some.inj e ▸ hf z (h z rfl)

theorem OptKeeps.ite {s : State} {a b : Option State} {c : Prop} [Decidable c] (ha : OptKeeps s a) (hb : OptKeeps s b) :
    OptKeeps s (if c then a else b) := by
  split
  · exact ha
  · exact hb

theorem OptKeeps.mk_none (s : State) : OptKeeps s none := fun _ e => by cases e

theorem ResKeeps.mk_ok {α : Type} {s z : State} {a : α} (h : Keeps s z) : ResKeeps s (.ok z a) := h
theorem ResKeeps.mk_trap {α : Type} {s z : State} {t : Trap} (h : Keeps s z) : ResKeeps (α := α) s (.trap z t) := h
theorem ResKeeps.mk_wait {α : Type} (s : State) : ResKeeps (α := α) s .wait := trivial

theorem ResKeeps.ite {α : Type} {s : State} {a b : SeqRes α} {c : Prop} [Decidable c] (ha : ResKeeps s a) (hb : ResKeeps s b) :
    ResKeeps s (if c then a else b) := by
  split
  · exact ha
  · exact hb

theorem ExKeeps.ite {s : State} {a b : Except State State} {c : Prop} [Decidable c] (ha : ExKeeps s a) (hb : ExKeeps s b) :
    ExKeeps s (if c then a else b) := by
  split
  · exact ha
  · exact hb

theorem ValKeeps.ite {α : Type} {s : State} {a b : Except State (α × State)} {c : Prop} [Decidable c] (ha : ValKeeps s a)
    (hb : ValKeeps s b) : ValKeeps s (if c then a else b) := by
  split
  · exact ha
  · exact hb

theorem ResKeeps.bind {α β : Type} {s : State} {r : SeqRes α} {f : State → α → SeqRes β} (h : ResKeeps s r)
    (hf : ∀ z a, Keeps s z → ResKeeps s (f z a)) : ResKeeps s (r.bind f) := by
  cases r with
  | ok z a => exact hf z a h
  | trap z t => exact h
  | wait => trivial

theorem ResKeeps.ofExcept {α : Type} {s z : State} {r : Except Trap α} (h : Keeps s z) : ResKeeps s (SeqRes.ofExcept z r) := by
  cases r <;> exact h

theorem ResKeeps.ok {α : Type} {s z : State} {a : α} {r : SeqRes α} (h : ResKeeps s r) (e : r = .ok z a) : Keeps s z := by
  subst e
  exact h

theorem ResKeeps.trap {α : Type} {s z : State} {t : Trap} {r : SeqRes α} (h : ResKeeps s r) (e : r = .trap z t) : Keeps s z := by
  subst e
  exact h

/-- The state of a pair that a value comes with. -/
theorem Keeps.pair {α : Type} {s z : State} {a : α} {p : α × State} (h : Keeps s p.2) (e : p = (a, z)) : Keeps s z := by
  subst e
  exact h

theorem Keeps.pair1 {α : Type} {s z : State} {a : α} {p : State × α} (h : Keeps s p.1) (e : p = (z, a)) : Keeps s z := by
  subst e
  exact h

theorem Keeps.ite_snd {α : Type} {s : State} {p q : α × State} {c : Prop} [Decidable c] (ha : Keeps s p.2) (hb : Keeps s q.2) :
    Keeps s (if c then p else q).2 := by
  split
  · exact ha
  · exact hb

theorem Keeps.ite_fst {α : Type} {s : State} {p q : State × α} {c : Prop} [Decidable c] (ha : Keeps s p.1) (hb : Keeps s q.1) :
    Keeps s (if c then p else q).1 := by
  split
  · exact ha
  · exact hb

theorem Keeps.ite_snd_snd {α β : Type} {s : State} {p q : α × β × State} {c : Prop} [Decidable c] (ha : Keeps s p.2.2)
    (hb : Keeps s q.2.2) : Keeps s (if c then p else q).2.2 := by
  split
  · exact ha
  · exact hb

theorem TileKeeps.of_units {x y : Tile} (hc : CoreKeeps x.seq y.seq) (ht : TsKeeps x.ts y.ts) (hv : VecKeeps x.vec y.vec) :
    TileKeeps x y := by
  intro hx
  rw [Tile.memWf_iff] at hx ⊢
  obtain ⟨h1, h2, h3, h4, h5⟩ := hx
  exact ⟨ht h1, hc.1 h2, hc.2 h3, hv.1 h4, hv.2 h5⟩

/-! ### Changes beside what is kept -/

/-- What Fit and the queue are made of. -/
def State.kept (z : State) :=
  ((z.tiles, z.hod.tgts, z.hod.mem, z.hod.q), (z.ddr.ch, (⟨z.ddr.gen, z.ddr.bytes⟩ : Nat × List Host.Cell), z.dma.ch),
    (z.quoin.ram, z.quoin.puf, z.quoin.seq.lram, z.quoin.seq.lramBad, z.sec.flash), z.cycle, z.pending)

theorem Keeps.same {s z t : State} (h : Keeps s z) (e : t.kept = z.kept) : Keeps s t := by
  simp only [State.kept, Prod.mk.injEq] at e
  simpa only [Keeps, Fit, State.shaped, Memory.wf, e] using h

theorem CoreKeeps.same {c d e : SeqCore} (h : CoreKeeps c d) (he : (e.lram, e.lramBad, e.decodeRam) = (d.lram, d.lramBad, d.decodeRam)) :
    CoreKeeps c e := by
  simp only [Prod.mk.injEq] at he
  simpa only [CoreKeeps, SeqCore.memWf, he] using h

theorem TsKeeps.same {a b c : TileStore} (h : TsKeeps a b) (e : (c.bytes, c.badParity) = (b.bytes, b.badParity)) : TsKeeps a c := by
  simp only [Prod.mk.injEq] at e
  simpa only [TsKeeps, TileStore.memWf, e] using h

theorem VecKeeps.same {u v w : VecEngine} (h : VecKeeps u v) (e : (w.vpram, w.vpramBad) = (v.vpram, v.vpramBad)) : VecKeeps u w := by
  simp only [Prod.mk.injEq] at e
  simpa only [VecKeeps, e] using h

/-! ### Memories of a unit -/

theorem TsKeeps.put {a b : TileStore} {n : Nat} {bs : List (BitVec 8)} (h : TsKeeps a b) : TsKeeps a (b.put n bs) := fun ha =>
  TileStore.put_wf n bs (h ha)

theorem TsKeeps.dropBank {a b : TileStore} {n : Nat} (h : TsKeeps a b) : TsKeeps a (dropBank n b) := fun ha => dropBank_wf n (h ha)

theorem CoreKeeps.setLword {c d : SeqCore} {w : Nat} {v : TWord} (h : CoreKeeps c d) : CoreKeeps c (d.setLword w v) :=
  ⟨fun hc => SeqCore.setLword_wf w v (h.1 hc), h.2⟩

theorem CoreKeeps.lramWrite {c d : SeqCore} {a : Nat} {bs : List (BitVec 8)} (h : CoreKeeps c d) : CoreKeeps c (lramWrite a bs d) := by
  refine ⟨fun hc => lramWrite_wf a bs (h.1 hc), fun hc => ?_⟩
  exact foldl_keeps (fun e : SeqCore => swf (fun _ => 0) e.decodeRam = true) _ (fun e x he => by
    dsimp only
    split <;> exact he) _ d (h.2 hc)

theorem CoreKeeps.lramTagWrite {c d : SeqCore} {a : Nat} {bs : List (BitVec 8)} {host : Bool} (h : CoreKeeps c d) :
    CoreKeeps c (lramTagWrite a bs host d) := by
  refine ⟨fun hc => lramTagWrite_wf a bs host (h.1 hc), fun hc => ?_⟩
  exact foldl_keeps (fun e : SeqCore => swf (fun _ => 0) e.decodeRam = true) _ (fun e x he => by
    dsimp only
    split <;> exact he) _ d (h.2 hc)

theorem VecKeeps.vpramPut {v w : VecEngine} {a : Nat} {bs : List (BitVec 8)} (h : VecKeeps v w) : VecKeeps v (vpramPut a bs w) :=
  ⟨fun hv => foldl_wf _ _ (fun m _ hm => sset_wf _ m _ _ hm) _ _ (h.1 hv),
    fun hv => foldl_wf _ _ (fun m _ hm => sset_wf _ m _ _ hm) _ _ (h.2 hv)⟩

/-! ### Updates of a unit -/

section
variable {s z : State}

/-- A change that leaves alone what is kept. -/
theorem Keeps.of_fit {t : State} (h : Keeps s z) (hp : t.pending = z.pending) (hf : Fit z → Fit t) : Keeps s t :=
  h.trans ⟨hp, hf⟩

theorem Keeps.updTile {t : Nat} {f : Tile → Tile} (h : Keeps s z) (hf : ∀ x, TileKeeps x (f x)) : Keeps s (z.updTile t f) :=
  h.of_fit rfl fun hz =>
    ⟨by simpa [State.shaped_iff] using hz.1, Memory.wf_updTile t f hz.2.1 hf, hz.2.2⟩

/-- A change of a tile's units that have no memory. -/
theorem Keeps.updTile_same {t : Nat} {f : Tile → Tile} (h : Keeps s z)
    (hf : ∀ x, (f x).seq = x.seq ∧ (f x).ts = x.ts ∧ (f x).vec = x.vec) :
    Keeps s (z.updTile t f) :=
  h.updTile fun x hx => by
    obtain ⟨h1, h2, h3⟩ := hf x
    rw [Tile.memWf_iff] at hx ⊢
    rwa [h1, h2, h3]

theorem Keeps.updSt {t : Nat} {f : StepUnit → StepUnit} (h : Keeps s z) : Keeps s (z.updSt t f) :=
  h.updTile_same fun _ => ⟨rfl, rfl, rfl⟩

theorem Keeps.updArr {t : Nat} {f : ArrayEng → ArrayEng} (h : Keeps s z) : Keeps s (z.updArr t f) :=
  h.updTile_same fun _ => ⟨rfl, rfl, rfl⟩

theorem Keeps.updDrn {t : Nat} {f : DrainEng → DrainEng} (h : Keeps s z) : Keeps s (z.updDrn t f) :=
  h.updTile_same fun _ => ⟨rfl, rfl, rfl⟩

theorem Keeps.updSce {t : Nat} {f : SceEng → SceEng} (h : Keeps s z) : Keeps s (z.updSce t f) :=
  h.updTile_same fun _ => ⟨rfl, rfl, rfl⟩

theorem Keeps.updTic {t : Nat} {f : TileIc → TileIc} (h : Keeps s z) : Keeps s (z.updTic t f) :=
  h.updTile_same fun _ => ⟨rfl, rfl, rfl⟩

theorem Keeps.updTs {t : Nat} {f : TileStore → TileStore} (h : Keeps s z) (hf : ∀ x, TsKeeps x (f x)) : Keeps s (z.updTs t f) :=
  h.updTile fun x hx => by
    rw [Tile.memWf_iff] at hx ⊢
    exact ⟨hf _ hx.1, hx.2⟩

theorem Tile.memWf_of_wf {t : Nat} (h : Memory.wf z = true) : Tile.memWf (z.tile t) = true := by
  simp only [Memory.wf, Bool.and_eq_true] at h
  obtain ⟨⟨⟨⟨⟨⟨⟨ht, -⟩, -⟩, -⟩, -⟩, -⟩, -⟩, -⟩ := h
  unfold State.tile
  rw [List.getD_eq_getElem?_getD]
  cases hx : z.tiles[t]? with
  | none => decide
  | some x => exact List.all_eq_true.mp ht x (List.mem_of_getElem? hx)

/-- A tile store made of the one that the tile has. -/
theorem Keeps.putTs {t : Nat} {a : TileStore} (h : Keeps s z) (ha : TsKeeps (z.tile t).ts a) : Keeps s (z.updTs t fun _ => a) :=
  h.of_fit rfl fun hz => by
    have hw := Tile.memWf_of_wf (t := t) hz.2.1
    rw [Tile.memWf_iff] at hw
    exact ((Keeps.refl z).updTile (t := t) (f := fun x => { x with ts := a }) fun x hx => by
      rw [Tile.memWf_iff] at hx ⊢
      exact ⟨ha hw.1, hx.2⟩).2 hz

theorem Keeps.updVec {t : Nat} {f : VecEngine → VecEngine} (h : Keeps s z) (hf : ∀ x, VecKeeps x (f x)) : Keeps s (z.updVec t f) :=
  h.updTile fun x hx => by
    rw [Tile.memWf_iff] at hx ⊢
    obtain ⟨h1, h2, h3, h4, h5⟩ := hx
    exact ⟨h1, h2, h3, (hf _).1 h4, (hf _).2 h5⟩

theorem Keeps.updCore {c : Nat} {f : SeqCore → SeqCore} (h : Keeps s z) (hf : ∀ x, CoreKeeps x (f x)) : Keeps s (z.updCore c f) := by
  unfold State.updCore
  split
  · refine h.of_fit rfl fun hz => ⟨hz.1, ?_, hz.2.2⟩
    have hm := hz.2.1
    simp only [Memory.wf, Bool.and_eq_true] at hm ⊢
    obtain ⟨⟨hm, hl⟩, hb⟩ := hm
    have hk := (hf z.quoin.seq).1 ⟨hl, hb⟩
    exact ⟨⟨hm, hk.1⟩, hk.2⟩
  · refine h.updTile fun x hx => ?_
    rw [Tile.memWf_iff] at hx ⊢
    obtain ⟨h1, h2, h3, h4⟩ := hx
    exact ⟨h1, (hf _).1 h2, (hf _).2 h3, h4⟩

theorem Keeps.updTgt {n : Nat} {f : HodTarget → HodTarget} (h : Keeps s z) : Keeps s (z.updTgt n f) :=
  h.of_fit rfl fun hz => ⟨by simpa [State.shaped_iff] using hz.1, hz.2.1, hz.2.2⟩

theorem Keeps.updChan {c : Nat} {f : DdrChan → DdrChan} (h : Keeps s z) : Keeps s (z.updChan c f) :=
  h.of_fit rfl fun hz => ⟨by simpa [State.shaped_iff] using hz.1, hz.2.1, hz.2.2⟩

theorem Keeps.updDch {c : Nat} {f : DmaChan → DmaChan} (h : Keeps s z) : Keeps s (z.updDch c f) :=
  h.of_fit rfl fun hz => ⟨by simpa [State.shaped_iff] using hz.1, hz.2.1, hz.2.2⟩

theorem Keeps.ddrStore {a : Nat} {bs : List (BitVec 8)} (h : Keeps s z) : Keeps s (z.ddrStore a bs) :=
  h.of_fit rfl fun hz => ⟨hz.1, Memory.wf_ddrStore a bs hz.2.1, hz.2.2⟩

/-- A change of the security state that leaves the flash alone. -/
theorem Keeps.sec {c : Sec} (h : Keeps s z) (hf : c.flash = z.sec.flash) : Keeps s { z with sec := c } :=
  .same h (by simp only [State.kept, hf])

/-- A change of the hod beside its memory, targets and pointer. -/
theorem Keeps.hod {d : Hod} (h : Keeps s z) (e : (d.tgts, d.mem, d.q) = (z.hod.tgts, z.hod.mem, z.hod.q)) :
    Keeps s { z with hod := d } := by
  simp only [Prod.mk.injEq] at e
  exact .same h (by simp only [State.kept, e])

/-- As many channels of DDR5 as before. -/
theorem Keeps.ddrCh {l : List DdrChan} (h : Keeps s z) (hl : l.length = z.ddr.ch.length) :
    Keeps s { z with ddr := { z.ddr with ch := l } } :=
  h.of_fit rfl fun hz => ⟨by simpa [State.shaped_iff, hl] using hz.1, hz.2.1, hz.2.2⟩

/-- As many channels of the DMA engine as before. -/
theorem Keeps.dma {d : Dma} (h : Keeps s z) (hl : d.ch.length = z.dma.ch.length) : Keeps s { z with dma := d } :=
  h.of_fit rfl fun hz => ⟨by simpa [State.shaped_iff, hl] using hz.1, hz.2.1, hz.2.2⟩

end

/-! ### Operations of Machine/Ops -/

theorem Keeps.draw {s z : State} {w : Nat} (h : Keeps s z) : Keeps s (z.draw w).2 := h

theorem TsKeeps.countOff {a b : TileStore} {off : Bool} (h : TsKeeps a b) : TsKeeps a (b.countOff off) := .ite h h

theorem TsKeeps.notePerr {a b : TileStore} {c : Nat} {bad : List Nat} {source : Nat} (h : TsKeeps a b) :
    TsKeeps a (b.notePerr c bad source) := by
  unfold TileStore.notePerr
  split
  · exact h
  · exact h

theorem TsKeeps.writeCourse {a b : TileStore} {c : Nat} {data : BitVec 1024} {dma : Bool} (h : TsKeeps a b) :
    TsKeeps a (b.writeCourse c data dma) :=
  .ite (.put h) (.countOff h)

theorem TsKeeps.issue {a b : TileStore} {e : Nat} {urgent : Bool} {rs : List Range} (h : TsKeeps a b) :
    TsKeeps a (b.issue e urgent rs) :=
  h

theorem TsKeeps.retire {a b : TileStore} {e : Nat} {urgent : Bool} {rs : List Range} (h : TsKeeps a b) :
    TsKeeps a (b.retire e urgent rs) :=
  h

theorem TsKeeps.releaseStep {a b : TileStore} {urgent : Bool} (h : TsKeeps a b) : TsKeeps a (b.releaseStep urgent) := h

theorem CoreKeeps.setG {c d : SeqCore} {i : Nat} {w : TWord} (h : CoreKeeps c d) : CoreKeeps c (d.setG i w) :=
  .ite h (.ite h (.ite h (.ite h h)))

theorem CoreKeeps.setF {c d : SeqCore} {i : Nat} {v : BitVec 64} (h : CoreKeeps c d) : CoreKeeps c (d.setF i v) := h

theorem CoreKeeps.setQ {c d : SeqCore} {i : Nat} {v : BitVec 128} (h : CoreKeeps c d) : CoreKeeps c (d.setQ i v) :=
  .setF (.setF h)

theorem CoreKeeps.enter {c d : SeqCore} {l : Nat} {ret : BitVec 32} {vec : BitVec 17} (h : CoreKeeps c d) :
    CoreKeeps c (d.enter l ret vec) :=
  h

theorem CoreKeeps.takeTrap {c d : SeqCore} {t : Trap} (h : CoreKeeps c d) : CoreKeeps c (d.takeTrap t) := by
  unfold SeqCore.takeTrap
  extract_lets c1 s0
  have hc1 : CoreKeeps c c1 := h
  have hs0 : CoreKeeps c s0 := .enter hc1
  exact .ite hc1 hs0

theorem CoreKeeps.leave {c d : SeqCore} (h : CoreKeeps c d) : CoreKeeps c (d.leave) := h

/-! ### Operations of Machine/Gate -/

theorem Keeps.hostReject {s z : State} (h : Keeps s z) : Keeps s (z.hostReject) := h

theorem Keeps.countGated {s z : State} (h : Keeps s z) : Keeps s (z.countGated) := h

theorem Keeps.toHost {s z : State} {o : HostOut} (h : Keeps s z) : Keeps s (z.toHost o) := h

theorem Keeps.hostWrite {s z : State} {ep : Bool} {f : State → State} (h : Keeps s z) (hf : ∀ z, Keeps s z → Keeps s (f z)) :
    Keeps s (hostWrite ep f z) :=
  .ite h (.ite (.toHost h) (.ite (.toHost h) (hf _ h)))

theorem Keeps.linkUse {s z : State} (h : Keeps s z) : Keeps s (z.linkUse) := h

theorem Keeps.calDueNow {s z : State} {ch : Nat} (h : Keeps s z) : Keeps s (calDueNow ch z) := h

theorem Keeps.regWrite {s z : State} {who : Who} {b : Blk} {p : HostPerm} {f : State → State} (h : Keeps s z)
    (hf : ∀ z, Keeps s z → Keeps s (f z)) :
    Keeps s (regWrite who b p f z) := by
  unfold Machine.regWrite
  split
  · exact .ite (.hostWrite h fun _ hz => hz) (.ite (.hostReject (.linkUse h)) (.ite (.hostReject (.linkUse h)) (.ite (.countGated
        (.linkUse h)) (hf _ (.linkUse h)))))
  · exact .ite h (.ite (.hostReject h) (.ite (.countGated h) (hf _ h)))
  · exact .ite (hf _ h) h

/-! ### Operations of Machine/IntCtl -/

theorem Keeps.icTo {s z : State} {d : DevIc} (h : Keeps s z) : Keeps s (z.icTo d) := h

theorem Keeps.devSource {s z : State} {k : Nat} (h : Keeps s z) : Keeps s (z.devSource k) := .icTo h

theorem Keeps.tileSource {s z : State} {t k : Nat} (h : Keeps s z) : Keeps s (z.tileSource t k) := .updTic h

theorem Keeps.latchEvent {s z : State} {t k : Nat} (h : Keeps s z) : Keeps s (z.latchEvent t k) :=
  .ite (.tileSource (.updCore h fun _ => .refl _)) (.ite (.tileSource (.updCore h fun _ => .refl _)) (.updCore h
      fun _ => .refl _))

theorem Keeps.tsPerr {s z : State} {t c : Nat} {bad : List Nat} {source : Nat} (h : Keeps s z) :
    Keeps s (z.tsPerr t c bad source) :=
  .ite (.tileSource (.updTs h fun _ => .notePerr (.refl _))) (.updTs h fun _ => .notePerr (.refl _))

theorem Keeps.pulseAt {s z : State} {at_ : Nat} {lines : BitVec 64} (h : Keeps s z) : Keeps s (z.pulseAt at_ lines) := by
  unfold State.pulseAt
  refine .ite h ?_
  extract_lets s1
  have hs1 : Keeps s s1 := .icTo h
  exact hs1

theorem Keeps.pulse {s z : State} {lines : BitVec 64} (h : Keeps s z) : Keeps s (z.pulse lines) := .pulseAt h

theorem Keeps.coreTrap {s z : State} {c : Nat} {t : Trap} (h : Keeps s z) : Keeps s (z.coreTrap c t) :=
  .ite (.devSource (.updCore h fun _ => .takeTrap (.refl _))) (.updCore h fun _ => .takeTrap (.refl _))

theorem Keeps.icPendSet {s z : State} {w : Nat} {bits : BitVec 32} (h : Keeps s z) : Keeps s (icPendSet w bits z) := .icTo h

theorem Keeps.icPendClr {s z : State} {w : Nat} {bits : BitVec 32} (h : Keeps s z) : Keeps s (icPendClr w bits z) := .icTo h

theorem Keeps.icMaskSet {s z : State} {host : Bool} {w : Nat} {bits : BitVec 32} (h : Keeps s z) :
    Keeps s (icMaskSet host w bits z) :=
  .icTo h

theorem Keeps.icMaskClr {s z : State} {host : Bool} {w : Nat} {bits : BitVec 32} (h : Keeps s z) :
    Keeps s (icMaskClr host w bits z) :=
  .icTo h

theorem Keeps.icTile {s z : State} {n : Nat} {f : Nat → TileIc → TileIc} (h : Keeps s z) : Keeps s (icTile n f z) := .updTic h

theorem Keeps.icTPendSet {s z : State} {n : Nat} {bits : BitVec 64} (h : Keeps s z) : Keeps s (icTPendSet n bits z) := .icTile h

theorem Keeps.icTPendClr {s z : State} {n : Nat} {bits : BitVec 64} (h : Keeps s z) : Keeps s (icTPendClr n bits z) := .icTile h

theorem Keeps.icTMaskSet {s z : State} {n : Nat} {bits : BitVec 64} (h : Keeps s z) : Keeps s (icTMaskSet n bits z) := .icTile h

theorem Keeps.icTMaskClr {s z : State} {n : Nat} {bits : BitVec 64} (h : Keeps s z) : Keeps s (icTMaskClr n bits z) := .icTile h

theorem Keeps.icTLevel {s z : State} {n : Nat} {half : Option Nat} {v : BitVec 64} (h : Keeps s z) :
    Keeps s (icTLevel n half v z) :=
  .updTic h

theorem Keeps.icQLevel {s z : State} {w v : Nat} (h : Keeps s z) : Keeps s (icQLevel w v z) := h

theorem Keeps.icRoute {s z : State} {src : Nat} {v : BitVec 32} (h : Keeps s z) : Keeps s (icRoute src v z) := h

theorem Answers.execIcPendSet {s z : State} {who : Who} {w : Nat} {bits : BitVec 32} (h : Keeps s z) :
    Answers s (execIcPendSet who w bits z) :=
  .next (.ite (.regWrite h fun _ hz => .icPendSet hz) h)

theorem Answers.execIcPendClr {s z : State} {who : Who} {w : Nat} {bits : BitVec 32} (h : Keeps s z) :
    Answers s (execIcPendClr who w bits z) :=
  .next (.ite (.regWrite h fun _ hz => .icPendClr hz) h)

theorem Answers.execIcMaskSet {s z : State} {who : Who} {host : Bool} {w : Nat} {bits : BitVec 32} (h : Keeps s z) :
    Answers s (execIcMaskSet who host w bits z) :=
  .next (.ite (.regWrite h fun _ hz => .icMaskSet hz) h)

theorem Answers.execIcMaskClr {s z : State} {who : Who} {host : Bool} {w : Nat} {bits : BitVec 32} (h : Keeps s z) :
    Answers s (execIcMaskClr who host w bits z) :=
  .next (.ite (.regWrite h fun _ hz => .icMaskClr hz) h)

theorem Answers.execIcTpendSet {s z : State} {who : Who} {tile : Nat} {bits : BitVec 64} (h : Keeps s z) :
    Answers s (execIcTpendSet who tile bits z) :=
  .next (.ite (.regWrite h fun _ hz => .icTPendSet hz) h)

theorem Answers.execIcTpendClr {s z : State} {who : Who} {tile : Nat} {bits : BitVec 64} (h : Keeps s z) :
    Answers s (execIcTpendClr who tile bits z) :=
  .next (.ite (.regWrite h fun _ hz => .icTPendClr hz) h)

theorem Answers.execIcTmaskSet {s z : State} {who : Who} {tile : Nat} {bits : BitVec 64} (h : Keeps s z) :
    Answers s (execIcTmaskSet who tile bits z) :=
  .next (.ite (.regWrite h fun _ hz => .icTMaskSet hz) h)

theorem Answers.execIcTmaskClr {s z : State} {who : Who} {tile : Nat} {bits : BitVec 64} (h : Keeps s z) :
    Answers s (execIcTmaskClr who tile bits z) :=
  .next (.ite (.regWrite h fun _ hz => .icTMaskClr hz) h)

theorem Answers.execIcLevelWrite {s z : State} {who : Who} {reg : IcLevel} {value : BitVec 64} (h : Keeps s z) :
    Answers s (execIcLevelWrite who reg value z) := by
  unfold Machine.execIcLevelWrite
  split
  · exact .next (.ite (.regWrite h fun _ hz => .icQLevel hz) h)
  · exact .next (.ite (.regWrite h fun _ hz => .icTLevel hz) h)
  · exact .next (.ite (.regWrite h fun _ hz => .icTLevel hz) h)
  · exact .next (.ite (.regWrite h fun _ hz => .icTLevel hz) h)

theorem Answers.execIcRouteWrite {s z : State} {who : Who} {src : Nat} {value : BitVec 32} (h : Keeps s z) :
    Answers s (execIcRouteWrite who src value z) :=
  .next (.ite (.regWrite h fun _ hz => .icRoute hz) h)

/-! ### Operations of Machine/LocalRam -/

theorem Keeps.icWordWrite {s z : State} {t o : Nat} {v : BitVec 32} (h : Keeps s z) : Keeps s (icWordWrite t o v z) := by
  unfold Machine.icWordWrite
  split
  · exact .icTPendSet h
  · exact .icTPendClr h
  · exact .icTMaskSet h
  · exact .icTMaskClr h
  · exact .icTLevel h
  · exact h

/-! ### Operations of Machine/TileStoreOps -/

theorem Keeps.hostRead {s z : State} {b : Blk} {larva : Bool} {len : Nat} {f : State → List (BitVec 8) × Bool × State}
    (h : Keeps s z) (hf : ∀ z, Keeps s z → Keeps s (f z).2.2) :
    Keeps s (hostRead b larva len f z) :=
  .ite h (.ite (.toHost h) (.ite (.toHost h) (.ite (.toHost h) (.ite (.toHost (.countGated h)) (.toHost (hf _ h))))))

theorem TsKeeps.writeNarrow {a b : TileStore} {n : Nat} {bs : List (BitVec 8)} {source : Nat} {dma : Bool} (h : TsKeeps a b) :
    TsKeeps a (b.writeNarrow n bs source dma).1 := by
  unfold TileStore.writeNarrow
  dsimp only
  split
  · split
    · exact .put h
    · exact .notePerr h
  · exact .countOff h

theorem Keeps.tsUnitWrite {s z : State} {t : Nat} {host : Bool} {u : Nat × List (BitVec 8)} (h : Keeps s z) :
    Keeps s (tsUnitWrite t host z u) := by
  unfold Machine.tsUnitWrite
  exact .ite (.ite (.toHost (.tsPerr h)) (.tsPerr h)) (.putTs h (.writeNarrow (.refl _)))

theorem Keeps.tsNarrowWrite {s z : State} {t a : Nat} {bs : List (BitVec 8)} {host : Bool} (h : Keeps s z) :
    Keeps s (tsNarrowWrite t a bs host z) :=
  .foldl h fun _ _ hz => .tsUnitWrite hz

theorem Keeps.tsNarrowRead {s : State} {t : Nat} : ∀ {l : List (Nat × List (BitVec 8))} {z : State}, Keeps s z →
    Keeps s (tsNarrowRead t l z).2.2
  | [], _, h => h
  | _ :: _, _, h => by
    unfold Machine.tsNarrowRead
    exact tsNarrowRead (.tsPerr (.updTs h fun _ => .countOff (.refl _)))

theorem Keeps.lostCycles {s z : State} {t n : Nat} (h : Keeps s z) : Keeps s (lostCycles t n z) := .updTs h fun _ => .refl _

theorem Keeps.countTransit {s z : State} {jitter link : Nat} (h : Keeps s z) : Keeps s (countTransit jitter link z) := h

theorem Keeps.inflightAdd {s z : State} {t c : Nat} (h : Keeps s z) : Keeps s (inflightAdd t c z) := .updTs h fun _ => .refl _

theorem Keeps.inflightSub {s z : State} {t c : Nat} (h : Keeps s z) : Keeps s (inflightSub t c z) := .updTs h fun _ => .refl _

theorem Keeps.crossing {s z : State} (h : Keeps s z) : Keeps s (z.crossing).2 := h

theorem Keeps.countMorPerr {s z : State} (h : Keeps s z) : Keeps s (countMorPerr z) := .devSource h

theorem Answers.execHostTsWrite {s z : State} {tile addr : Nat} {data : HostBytes} {lost : Nat} (h : Keeps s z) :
    Answers s (execHostTsWrite tile addr data lost z) :=
  .next (.ite (.hostWrite h fun _ hz => .regWrite hz fun _ hz => .ite (.countMorPerr hz) (.tsNarrowWrite (.lostCycles hz))) h)

theorem Answers.execHostTsRead {s z : State} {tile addr len : Nat} {met : EdgeMet} (h : Keeps s z) :
    Answers s (execHostTsRead tile addr len met z) :=
  .next (.ite (.hostRead h fun _ hz => .ite_snd_snd (.countMorPerr hz) (.tsNarrowRead (.lostCycles hz))) h)

theorem Answers.execHostLramWrite {s z : State} {tile : Nat} {tagView : Bool} {addr : Nat} {data : HostBytes} (h : Keeps s z) :
    Answers s (execHostLramWrite tile tagView addr data z) := by
  unfold Machine.execHostLramWrite
  refine .next (.ite (.hostWrite h fun _ hz => .regWrite hz fun _ hz => .ite (.countMorPerr hz) (.updCore hz fun _ => ?_)) h)
  split
  · exact .lramTagWrite (.refl _)
  · exact .lramWrite (.refl _)

theorem Answers.execHostLramRead {s z : State} {tile : Nat} {tagView : Bool} {addr : Nat} {ask : LramAsk} (h : Keeps s z) :
    Answers s (execHostLramRead tile tagView addr ask z) :=
  .next (.ite (.hostRead h fun _ hz => .ite_snd_snd (.countMorPerr hz) hz) h)

theorem Keeps.bankReqWrite {s z : State} {t : Nat} {v : BitVec 32} (h : Keeps s z) : Keeps s (bankReqWrite t v z) :=
  .updTs h fun _ => .refl _

theorem Answers.execBankPwrReqWrite {s z : State} {who : Who} {tile : Nat} {value : BitVec 32} (h : Keeps s z) :
    Answers s (execBankPwrReqWrite who tile value z) :=
  .next (.ite (.regWrite h fun _ hz => .bankReqWrite hz) h)

theorem Answers.execBankWakeDone {s z : State} {tile bank : Nat} (h : Keeps s z) : Answers s (execBankWakeDone tile bank z) :=
  .ite (.next (.updTs h fun _ => .refl _)) (.next h)

theorem Answers.execBankDrainDone {s z : State} {tile bank : Nat} (h : Keeps s z) : Answers s (execBankDrainDone tile bank z) :=
  .ite (.next (.updTile h fun _ => .of_units (.refl _) (.dropBank (.refl _)) (.refl _))) (.next h)

theorem Answers.execTsPerrInjArm {s z : State} {who : Who} {tile : Nat} {value : BitVec 32} (h : Keeps s z) :
    Answers s (execTsPerrInjArm who tile value z) :=
  .next (.ite (.regWrite h fun _ hz => .updTs hz fun _ => .refl _) h)

theorem TsKeeps.tsCntClr {a b : TileStore} {v : BitVec 32} (h : TsKeeps a b) : TsKeeps a (tsCntClr v b) := h

theorem TsKeeps.settle {a b : TileStore} (h : TsKeeps a b) : TsKeeps a (b.settle) := .tsCntClr h

theorem Answers.execTsCntClr {s z : State} {who : Who} {tile : Nat} {value : BitVec 32} (h : Keeps s z) :
    Answers s (execTsCntClr who tile value z) :=
  .next (.ite (.regWrite h fun _ hz => .updTs hz fun _ => .tsCntClr (.refl _)) h)

theorem TsKeeps.tsPerrStatusWrite {a b : TileStore} {v : BitVec 32} (h : TsKeeps a b) : TsKeeps a (tsPerrStatusWrite v b) := by
  simp only [TsKeeps, TileStore.memWf, Machine.tsPerrStatusWrite]
  exact h

/-! ### Operations of Machine/StepOps -/

theorem Keeps.setRun {s z : State} {t : Nat} {u : Bool} {r : Option StepRun} (h : Keeps s z) : Keeps s (z.setRun t u r) :=
  .updSt h

theorem Keeps.updRun {s z : State} {t : Nat} {u : Bool} {f : StepRun → StepRun} (h : Keeps s z) : Keeps s (z.updRun t u f) :=
  .updSt h

theorem Keeps.markSent {s z : State} {t : Nat} {u : Bool} (h : Keeps s z) : Keeps s (z.markSent t u) := .updRun h

theorem Keeps.markScaleSat {s z : State} {t : Nat} {u b : Bool} (h : Keeps s z) : Keeps s (z.markScaleSat t u b) :=
  .ite (.updRun h) h

theorem TsKeeps.conflicts {a b : TileStore} {n now : Nat} (h : TsKeeps a b) : TsKeeps a (b.conflicts n now) := .ite h h

theorem Keeps.chargeAll {s z : State} {t : Nat} {u sce refetch : Bool} {h' : Held} (h : Keeps s z) :
    Keeps s (chargeAll t u sce refetch h' z) :=
  .ite (.updSce (.updTs (.updRun h) fun _ => .conflicts (.refl _))) (.updArr (.updTs (.updRun h) fun _ => .conflicts (.refl _)))

theorem Keeps.charge {s z : State} {t : Nat} {u sce : Bool} {h' : Held} (h : Keeps s z) : Keeps s (charge t u sce h' z) :=
  .chargeAll h

theorem Keeps.chargeLine {s z : State} {t : Nat} {u : Bool} {h' : Held} (h : Keeps s z) : Keeps s (chargeLine t u h' z) :=
  .chargeAll h

theorem VecKeeps.drop {v w : VecEngine} {u : Bool} (h : VecKeeps v w) : VecKeeps v (w.drop u) := .ite (.ite h h) h

theorem Keeps.dropMirror {s z : State} {t : Nat} {u : Bool} (h : Keeps s z) : Keeps s (dropMirror t u z) := by
  unfold Machine.dropMirror
  split
  · exact h
  · exact .ite (.updTs h fun _ => .retire (.refl _)) h

theorem TsKeeps.dropHeld {a b : TileStore} {u : Bool} (h : TsKeeps a b) : TsKeeps a (b.dropHeld u) := .ite h h

theorem Keeps.dropStep {s z : State} {t : Nat} {u : Bool} (h : Keeps s z) : Keeps s (dropStep t u z) :=
  .updTile (.dropMirror h) fun _ => .of_units (.refl _) (.dropHeld (.releaseStep (.refl _))) (.drop (.refl _))

theorem Keeps.vecStart {s z : State} {t : Nat} {u first : Bool} {entry : BitVec 11} (h : Keeps s z) :
    Keeps s (vecStart t u first entry z) :=
  .updVec h fun _ => .ite (.refl _) (.refl _)

theorem CoreKeeps.putStatus {c d : SeqCore} {u : Bool} {code : Nat} {r : StepRun} {dl : Bool} (h : CoreKeeps c d) :
    CoreKeeps c (d.putStatus u code r dl) :=
  .ite (.same h rfl) (.same h rfl)

theorem Keeps.completeStep {s z : State} {t : Nat} {u : Bool} {code : Nat} {rejected : Bool} (h : Keeps s z) :
    Keeps s (completeStep t u code rejected z) := by
  unfold Machine.completeStep
  split
  · exact h
  · exact .latchEvent (.updTile h fun _ => .of_units (.putStatus (.refl _)) (.refl _) (.refl _))

theorem Keeps.endStep {s z : State} {t : Nat} {u : Bool} {code : Nat} (h : Keeps s z) : Keeps s (endStep t u code z) := by
  unfold Machine.endStep
  split
  · exact h
  · exact .completeStep (.dropStep h)

theorem Keeps.rerunStep {s z : State} {t : Nat} {u : Bool} {r : StepRun} (h : Keeps s z) : Keeps s (rerunStep t u r z) :=
  .ite (.updVec (.ite (.vecStart (.setRun (.dropStep h))) (.setRun (.dropStep h))) fun _ => .refl _) (.ite (.vecStart (.setRun
      (.dropStep h))) (.setRun (.dropStep h)))

theorem Keeps.stepFault {s z : State} {t : Nat} {u : Bool} {code : Nat} (h : Keeps s z) : Keeps s (stepFault t u code z) := by
  unfold Machine.stepFault
  split
  · exact h
  · exact .ite (.endStep h) (.ite (.endStep (.updRun h)) (.ite (.rerunStep h) (.endStep h)))

theorem Keeps.arrErr {s z : State} {t cause : Nat} {engine index : Nat} (h : Keeps s z) :
    Keeps s (arrErr t cause engine index z) :=
  .ite (.updArr h) (.tileSource (.updArr h))

theorem Keeps.sceErr {s z : State} {t cause index : Nat} (h : Keeps s z) : Keeps s (sceErr t cause index z) :=
  .ite (.updSce h) (.tileSource (.updSce h))

theorem Keeps.hodErr {s z : State} {t cause index : Nat} (h : Keeps s z) : Keeps s (hodErr t cause index z) := h

theorem ValKeeps.engRead {s z : State} {t : Nat} {u : Bool} {engine c : Nat} (h : Keeps s z) :
    ValKeeps s (engRead t u engine c z) := by
  unfold Machine.engRead
  split
  · exact .mk_error h
  · exact .ite (.mk_error (.stepFault h)) (.ite (.mk_ok (.tsPerr (.updTs h fun _ => .countOff (.refl _)))) (.mk_error (.stepFault
        (.tsPerr (.updTs h fun _ => .countOff (.refl _))))))

theorem ExKeeps.engWrite {s z : State} {t : Nat} {u : Bool} {c : Nat} {data : BitVec 1024} (h : Keeps s z) :
    ExKeeps s (engWrite t u c data z) := by
  unfold Machine.engWrite
  split
  · exact .mk_error h
  · exact .ite (.mk_error (.stepFault h)) (.mk_ok (.updTs h fun _ => .writeCourse (.refl _)))

theorem Keeps.setHeld {s z : State} {t e : Nat} {u b : Bool} (h : Keeps s z) : Keeps s (setHeld t e u b z) :=
  .updTs h fun _ => .ite (.refl _) (.refl _)

/-! ### Operations of Machine/VecEngine -/

theorem VecKeeps.updBk {v w : VecEngine} {u : Bool} {f : VecBank → VecBank} (h : VecKeeps v w) : VecKeeps v (w.updBk u f) :=
  .ite h h

theorem VecKeeps.setV {v w : VecEngine} {u : Bool} {i : Nat} {x : BitVec 1024} (h : VecKeeps v w) : VecKeeps v (w.setV u i x) :=
  .ite h (.updBk h)

theorem VecKeeps.setA {v w : VecEngine} {u : Bool} {i : Nat} {x : BitVec 2304} (h : VecKeeps v w) : VecKeeps v (w.setA u i x) :=
  .ite h (.updBk h)

theorem Keeps.vecErr {s z : State} {t bundle : Nat} {slot cause : Nat} (h : Keeps s z) : Keeps s (vecErr t bundle slot cause z) :=
  .ite (.updVec h fun _ => .refl _) (.tileSource (.updVec h fun _ => .refl _))

theorem Keeps.vecIllegal {s z : State} {t bundle slot : Nat} (h : Keeps s z) : Keeps s (vecIllegal t bundle slot z) :=
  .vecErr (.updVec h fun _ => .refl _)

theorem VecKeeps.land {v w : VecEngine} {r : VecResult} (h : VecKeeps v w) : VecKeeps v (w.land r) :=
  .ite (.updBk (.setA h)) (.setV h)

theorem Keeps.landOne {s z : State} {t : Nat} {due : List VecResult} {r : VecResult} (h : Keeps s z) :
    Keeps s (landOne t due z r) :=
  .ite (.updVec h fun _ => .land (.refl _)) (.ite (.updVec (.ite h (.vecErr (.updVec h fun _ => .refl _))) fun _ => .land
      (.refl _)) (.updVec (.ite h (.vecErr (.updVec h fun _ => .refl _))) fun _ => .land (.refl _)))

theorem Keeps.landDue {s z : State} {t : Nat} (h : Keeps s z) : Keeps s (landDue t z) :=
  .foldl (.updVec h fun _ => .refl _) fun _ _ hz => .landOne hz

theorem VecKeeps.finish {v w : VecEngine} {u : Bool} (h : VecKeeps v w) : VecKeeps v (w.finish u) :=
  .ite (.ite (.updBk h) (.updBk h)) h

theorem Keeps.endCycle {s z : State} {t : Nat} {u : Bool} {be : List Nat} {ctl : VecBank → VecBank} (h : Keeps s z) :
    Keeps s (endCycle t u be ctl z) :=
  .updVec (.landDue h) fun _ => .finish (.updBk (.refl _))

theorem Keeps.pushRes {s z : State} {t : Nat} {u : Bool} {bundle lat n : Nat} {r : VRes} (h : Keeps s z) :
    Keeps s (pushRes t u bundle lat n z r) :=
  .updVec (.ite_snd h h) fun _ => .refl _

theorem Keeps.pushOut {s z : State} {t : Nat} {u : Bool} {bundle : Nat} {o : Nat × VOut} (h : Keeps s z) :
    Keeps s (pushOut t u bundle z o) :=
  .foldl (.updVec h fun _ => .refl _) fun _ _ hz => .pushRes hz

theorem Keeps.portRead {s z : State} {t : Nat} {u : Bool} {bundle c dst : Nat} (h : Keeps s z) :
    Keeps s (portRead t u bundle c dst z).1 :=
  .pushRes (.tsPerr (.updTs h fun _ => .countOff (.refl _)))

theorem Answers.issueBundle {s z : State} {t : Nat} {u : Bool} {x : BitVec 256} {b : VSlot0} {ok0 : Bool} {rs : List Range}
    {r : StepRun} (h : Keeps s z) :
    Answers s (issueBundle t u x b ok0 rs r z) := by
  unfold Machine.issueBundle
  extract_lets v bk pc run wdata
  refine .ite (.next (.stepFault h)) ?_
  have hx : Keeps s (if ok0 && b.xen then portRead t u pc (bk.p.getD b.xp 0).toNat b.xdst z else (z, false)).1 :=
    .ite_fst (.portRead h) h
  generalize (if ok0 && b.xen then portRead t u pc (bk.p.getD b.xp 0).toNat b.xdst z else (z, false)) = px at hx ⊢
  obtain ⟨s1, bx⟩ := px
  dsimp -zeta only
  have hy : Keeps s (if ok0 && b.yen then portRead t u pc (bk.p.getD b.yp 0).toNat b.ydst s1 else (s1, false)).1 :=
    .ite_fst (.portRead hx) hx
  generalize (if ok0 && b.yen then portRead t u pc (bk.p.getD b.yp 0).toNat b.ydst s1 else (s1, false)) = py at hy ⊢
  obtain ⟨s2, bY⟩ := py
  dsimp -zeta only
  extract_lets s3 s4 s5 s6 s7 s8
  have h4 : Keeps s s4 := .foldl (.ite (.updTs hy fun _ => .writeCourse (.refl _)) hy) fun _ _ hz => .pushOut hz
  have h5 : Keeps s s5 := .ite h4 (.vecIllegal h4)
  have h7 : Keeps s s7 := .updVec (.foldl h5 fun _ _ hz => .vecIllegal hz) fun _ => .updBk (.refl _)
  have h8 : Keeps s s8 := .ite (.updTs h7 fun _ => .retire (.refl _)) h7
  exact .ite (.next (.stepFault hy)) (.next (.endCycle h8))

theorem Answers.execVecBundleIssue {s z : State} {tile : Nat} {held : Held} (h : Keeps s z) :
    Answers s (execVecBundleIssue tile held z) := by
  unfold Machine.execVecBundleIssue
  dsimp only
  split
  · exact .next h
  · exact .ite (.next h) (.ite (.next (.stepFault (.charge h))) (.ite (.next (.setHeld h)) (.issueBundle (.ite (.updTs (.charge
        (.setHeld h)) fun _ => .retire (.issue (.refl _))) (.charge (.setHeld h))))))

theorem Answers.execVecResultLand {s z : State} {tile : Nat} (h : Keeps s z) : Answers s (execVecResultLand tile z) :=
  .ite (.next (.endCycle h)) (.next h)

theorem Answers.execVecSwitchIn {s z : State} {tile : Nat} (h : Keeps s z) : Answers s (execVecSwitchIn tile z) :=
  .ite (.next (.setHeld (.updVec h fun _ => .refl _))) (.next h)

theorem Answers.execVecSwitchOut {s z : State} {tile : Nat} (h : Keeps s z) : Answers s (execVecSwitchOut tile z) :=
  .ite (.next (.updVec h fun _ => .refl _)) (.next h)

theorem Answers.execHostVpramWrite {s z : State} {tile addr : Nat} {data : HostBytes} (h : Keeps s z) :
    Answers s (execHostVpramWrite tile addr data z) :=
  .next (.ite (.hostWrite h fun _ hz => .regWrite hz fun _ hz => .ite (.countMorPerr hz) (.updVec hz fun _ => .vpramPut
      (.refl _))) h)

theorem VecKeeps.vecCntClr {v w : VecEngine} {v' : BitVec 32} (h : VecKeeps v w) : VecKeeps v (vecCntClr v' w) := h

theorem VecKeeps.settle {v w : VecEngine} (h : VecKeeps v w) : VecKeeps v (w.settle) := .vecCntClr h

theorem Answers.execVecCntClr {s z : State} {who : Who} {tile : Nat} {value : BitVec 32} (h : Keeps s z) :
    Answers s (execVecCntClr who tile value z) :=
  .next (.ite (.regWrite h fun _ hz => .updVec hz fun _ => .vecCntClr (.refl _)) h)

theorem VecKeeps.vecStatusWrite {v w : VecEngine} {w' : BitVec 32} (h : VecKeeps v w) : VecKeeps v (vecStatusWrite w' w) := h

theorem VecKeeps.vecErrWrite {v w : VecEngine} {w' : BitVec 32} (h : VecKeeps v w) : VecKeeps v (vecErrWrite w' w) := h

theorem VecKeeps.vecLfsrWrite {v w : VecEngine} {u : Bool} {w' : BitVec 32} (h : VecKeeps v w) :
    VecKeeps v (vecLfsrWrite u w' w) :=
  .updBk h

/-! ### Operations of Machine/StepQueue -/

theorem TileKeeps.setEngQ {x y : Tile} {e : Nat} {q : List EngCmd} (h : TileKeeps x y) : TileKeeps x (setEngQ e q y) := by
  unfold Machine.setEngQ
  split
  · exact h
  · exact h
  · exact h
  · exact h
  · exact h
  · exact h

theorem Keeps.updQ {s z : State} {t e : Nat} {f : List EngCmd → List EngCmd} (h : Keeps s z) : Keeps s (z.updQ t e f) :=
  .updTile h fun _ => .setEngQ (.refl _)

theorem Keeps.tryIssue {s z : State} {t e : Nat} (h : Keeps s z) : Keeps s (tryIssue t e z) := by
  unfold Machine.tryIssue
  split
  · exact h
  · exact .ite (.setHeld (.updQ (.updTs h fun _ => .issue (.refl _)))) (.setHeld h)

theorem Keeps.beginCmd {s z : State} {t e : Nat} (h : Keeps s z) : Keeps s (beginCmd t e z) := .updQ h

theorem Keeps.popCmd {s z : State} {t e : Nat} (h : Keeps s z) : Keeps s (popCmd t e z) := .updQ h

theorem Keeps.retireRanges {s z : State} {t e : Nat} {u : Bool} {rs : List Range} (h : Keeps s z) :
    Keeps s (retireRanges t e u rs z) :=
  .updTs h fun _ => .retire (.refl _)

theorem Keeps.malformed {s z : State} {t : Nat} {u : Bool} (h : Keeps s z) : Keeps s (malformed t u z) := .endStep h

theorem Keeps.markChecked {s z : State} {t e : Nat} (h : Keeps s z) : Keeps s (markChecked t e z) := .updQ h

theorem Keeps.engBitErr {s z : State} {t e index : Nat} (h : Keeps s z) : Keeps s (engBitErr t e index z) := by
  unfold Machine.engBitErr
  split
  · exact .arrErr h
  · exact .sceErr h
  · exact .arrErr h
  · exact .hodErr h
  · exact .arrErr h

theorem Keeps.advanceList {s z : State} {t : Nat} {u : Bool} (h : Keeps s z) : Keeps s (advanceList t u z) := .updRun h

/-! ### Operations of Machine/ArrayRun -/

theorem Keeps.arrReject {s z : State} {t : Nat} {c : EngCmd} {cause : Nat} (h : Keeps s z) : Keeps s (arrReject t c cause z) :=
  .malformed (.arrErr h)

theorem Keeps.passCheck {s z : State} {t e : Nat} (h : Keeps s z) : Keeps s (passCheck t e z) := .tryIssue (.markChecked h)

theorem Answers.execWindowCmd {s z : State} {tile : Nat} (h : Keeps s z) : Answers s (execWindowCmd tile z) := by
  unfold Machine.execWindowCmd
  split
  · exact .next h
  · refine .ite (.next h) ?_
    split
    · exact .next (.arrReject h)
    · exact .next (.updQ h)

theorem Answers.execMatmulCmd {s z : State} {tile : Nat} (h : Keeps s z) : Answers s (execMatmulCmd tile z) := by
  unfold Machine.execMatmulCmd
  split
  · exact .next h
  · refine .ite (.next h) ?_
    dsimp only
    split
    · exact .next (.arrReject h)
    · exact .next (.ite (.arrReject h) (.passCheck h))

theorem Answers.execSumwCmd {s z : State} {tile : Nat} (h : Keeps s z) : Answers s (execSumwCmd tile z) := by
  unfold Machine.execSumwCmd
  split
  · exact .next h
  · refine .ite (.next h) ?_
    split
    · exact .next (.arrReject h)
    · exact .next (.passCheck h)

theorem Keeps.scCmdErr {s z : State} {t cause index : Nat} (h : Keeps s z) : Keeps s (scCmdErr t cause index z) := h

theorem Keeps.updTrk {s z : State} {n : Nat} {f : Tracker → Tracker} (h : Keeps s z) : Keeps s (z.updTrk n f) := h

theorem Keeps.rewindOne {s z : State} {c : StreamCourse} (h : Keeps s z) : Keeps s (rewindOne z c) := .updTrk h

theorem Keeps.beginArr {s z : State} {t : Nat} {c : EngCmd} (h : Keeps s z) : Keeps s (beginArr t c z) :=
  .ite h (.foldl (.updArr (.beginCmd h)) fun _ _ hz => .rewindOne hz)

theorem ExKeeps.startArr {s z : State} {t : Nat} {c : EngCmd} (h : Keeps s z) : ExKeeps s (startArr t c z) :=
  .ite (.mk_error (.malformed (.scCmdErr (.beginArr h)))) (.mk_ok (.beginArr h))

theorem Keeps.setSumw {s z : State} {t : Nat} {u : Bool} {l : List (BitVec 32)} (h : Keeps s z) : Keeps s (setSumw t u l z) :=
  .updArr h

theorem Keeps.drawSumw {s z : State} (h : Keeps s z) : Keeps s (drawSumw z).2 := h

theorem Keeps.afterRow {s z : State} {t : Nat} {c : EngCmd} {cs : List Nat} (h : Keeps s z) : Keeps s (afterRow t c cs z) :=
  .ite (.ite (.popCmd (.setSumw (.ite_snd (.updArr h) (.drawSumw (.updArr h))))) (.updArr h)) (.markScaleSat (.updArr h))

theorem ExKeeps.readStatScales {s : State} {t : Nat} {c : EngCmd} : ∀ {l : List Nat} {z : State}, Keeps s z →
    ExKeeps s (readStatScales t c l z)
  | [], _, h => .mk_ok h
  | _ :: _, _, h => by
    unfold Machine.readStatScales
    dsimp only
    split
    · exact .mk_error (ValKeeps.error (.engRead h) ‹_›)
    · exact readStatScales (.updArr (ValKeeps.ok (.engRead h) ‹_›))

theorem Keeps.loadFromStore {s z : State} {t : Nat} {c : EngCmd} (h : Keeps s z) : Keeps s (loadFromStore t c z) := by
  unfold Machine.loadFromStore
  dsimp only
  split
  · exact ExKeeps.error (.ite (.readStatScales (.updArr h)) (.mk_ok h)) ‹_›
  · refine .ite (.afterRow (ExKeeps.ok (.ite (.readStatScales (.updArr h)) (.mk_ok h)) ‹_›)) ?_
    split
    · exact ValKeeps.error (.engRead (ExKeeps.ok (.ite (.readStatScales (.updArr h)) (.mk_ok h)) ‹_›)) ‹_›
    · exact .afterRow (.ite (.retireRanges (ValKeeps.ok (.engRead (ExKeeps.ok (.ite (.readStatScales (.updArr h))
          (.mk_ok h)) ‹_›)) ‹_›)) (ValKeeps.ok (.engRead (ExKeeps.ok (.ite (.readStatScales (.updArr h)) (.mk_ok h)) ‹_›)) ‹_›))

theorem Answers.execWeightRowLoad {s z : State} {tile : Nat} {held : Held} (h : Keeps s z) :
    Answers s (execWeightRowLoad tile held z) := by
  unfold Machine.execWeightRowLoad
  split
  · exact .next h
  · split
    · exact .next (ExKeeps.error (.startArr h) ‹_›)
    · refine .ite (.next (ExKeeps.ok (.startArr h) ‹_›)) (.ite (.next (ExKeeps.ok (.startArr h) ‹_›)) (.ite (.next (.loadFromStore
          (.charge (ExKeeps.ok (.startArr h) ‹_›)))) ?_))
      split
      · exact .next (ExKeeps.ok (.startArr h) ‹_›)
      · exact .ite (.next (.endStep (.charge (ExKeeps.ok (.startArr h) ‹_›)))) (.next (.afterRow (.updArr (.charge (ExKeeps.ok
            (.startArr h) ‹_›)))))

theorem Keeps.writeBlock {s z : State} {t : Nat} {c : EngCmd} {kind g : Nat} {data : List StreamCourse} (h : Keeps s z) :
    Keeps s (writeBlock t c kind g data z) := by
  unfold Machine.writeBlock
  split
  · exact .updArr h
  · exact .updArr h
  · exact .updArr (.setSumw h)

theorem Keeps.blockShape {s z : State} {h' : BitVec 1024} (h : Keeps s z) : Keeps s (blockShape h' z).2 := .ite_snd h h

theorem Answers.execScaleBlockArrive {s z : State} {tile : Nat} (h : Keeps s z) : Answers s (execScaleBlockArrive tile z) := by
  unfold Machine.execScaleBlockArrive
  split
  · exact .next h
  · refine .ite (.next h) ?_
    split
    · exact .next (ExKeeps.error (.startArr h) ‹_›)
    · have h0 := ExKeeps.ok (.startArr h) ‹_›
      dsimp only
      split
      · exact .next h0
      · refine .ite (.next h0) (.ite (.next (.endStep h0)) ?_)
        have hb := Keeps.blockShape (h' := ‹StreamCourse›.data) h0
        exact .ite (.next (.endStep hb)) (.ite (.next hb) (.ite (.next (.stepFault (.updArr hb)))
          (.ite (.next hb) (.next (.writeBlock (.updArr hb))))))

theorem ExKeeps.readXScales {s : State} {t : Nat} {c : EngCmd} : ∀ {l : List Nat} {z : State}, Keeps s z →
    ExKeeps s (readXScales t c l z)
  | [], _, h => .mk_ok h
  | _ :: _, _, h => by
    unfold Machine.readXScales
    dsimp only
    split
    · exact .mk_error (ValKeeps.error (.engRead h) ‹_›)
    · exact readXScales (.updArr (ValKeeps.ok (.engRead h) ‹_›))

theorem ValKeeps.readVector {s z : State} {t : Nat} {c : EngCmd} (h : Keeps s z) : ValKeeps s (readVector t c z) := by
  unfold Machine.readVector
  split
  · dsimp only
    split
    · exact .mk_error (ValKeeps.error (.engRead h) ‹_›)
    · exact .mk_ok (ValKeeps.ok (.engRead h) ‹_›)
  · dsimp only
    split
    · exact .mk_ok h
    · refine .ite ?_ (.mk_error (.stepFault h))
      split
      · exact .mk_error (ValKeeps.error (.engRead h) ‹_›)
      · exact .mk_ok (ValKeeps.ok (.engRead h) ‹_›)

theorem Keeps.pushVector {s z : State} {t : Nat} {c : EngCmd} {sums : List XReal} (h : Keeps s z) :
    Keeps s (pushVector t c sums z) :=
  .retireRanges (.updArr h)

theorem Keeps.streamVector {s z : State} {t : Nat} {c : EngCmd} (h : Keeps s z) : Keeps s (streamVector t c z) := by
  unfold Machine.streamVector
  extract_lets e a g ws sums sx
  have hx : ExKeeps s sx := .ite (.readXScales h) (.mk_ok h)
  refine .ite (.markScaleSat (.pushVector h)) ?_
  clear_value sx
  cases sx with
  | error y => exact hx
  | ok s1 =>
    dsimp only
    split
    · exact ValKeeps.error (.readVector hx) ‹_›
    · have h2 := ValKeeps.ok (.readVector hx) ‹_›
      exact .markScaleSat (.pushVector (.ite (.updArr h2) h2))

theorem Answers.execArrayVectorStream {s z : State} {tile : Nat} {held : Held} {bufBad : Bool} (h : Keeps s z) :
    Answers s (execArrayVectorStream tile held bufBad z) := by
  unfold Machine.execArrayVectorStream
  split
  · exact .next h
  · exact .ite (.next h) (.ite (.next (.stepFault (.charge h))) (.next (.streamVector (.updArr (.charge h)))))

theorem Answers.execDiag8LoadPhase {s z : State} {tile : Nat} {held : Held} (h : Keeps s z) :
    Answers s (execDiag8LoadPhase tile held z) := by
  unfold Machine.execDiag8LoadPhase
  split
  · exact .next h
  · split
    · exact .next h
    · split
      · exact .next (ExKeeps.error (.startArr h) ‹_›)
      · have h0 := ExKeeps.ok (.startArr h) ‹_›
        refine .ite (.next h) ?_
        split
        · exact .next (.updArr h0)
        · refine .ite (.next (.stepFault (.charge h0))) ?_
          split
          · exact .next (ValKeeps.error (.engRead (.charge h0)) ‹_›)
          · have h2 := ValKeeps.ok (.engRead (.charge h0)) ‹_›
            exact .next (.updArr (.ite h2 (.retireRanges h2)))

theorem Answers.execAccLand {s z : State} {tile : Nat} (h : Keeps s z) : Answers s (execAccLand tile z) := by
  unfold Machine.execAccLand
  split
  · dsimp only
    split
    · exact .next h
    · exact .next h
  · dsimp only
    split
    · exact .next h
    · split
      · exact .next (.ite (.popCmd (.updArr h)) (.updArr h))
      · exact .next (.updArr h)

theorem Answers.execArrCntClr {s z : State} {who : Who} {tile : Nat} {value : BitVec 32} (h : Keeps s z) :
    Answers s (execArrCntClr who tile value z) :=
  .next (.ite (.regWrite h fun _ hz => .updArr hz) h)

/-! ### Operations of Machine/CacheOps -/

theorem Keeps.countIntrude {s z : State} (h : Keeps s z) : Keeps s (countIntrude z) := h

theorem Keeps.ddrRequest {s z : State} {line : Nat} {kind : DdrKind} {cls : Nat} (h : Keeps s z) :
    Keeps s (z.ddrRequest line kind cls) :=
  .updChan (.ite (.countIntrude h) h)

theorem Keeps.ddrOpen {s z : State} {l : Nat} (h : Keeps s z) : Keeps s (z.ddrOpen l) := .updChan h

theorem Keeps.countPosted {s z : State} {ch : Option Nat} {f : Nat → Nat} (h : Keeps s z) : Keeps s (z.countPosted ch f) := by
  unfold State.countPosted
  split
  · exact .updDch h
  · exact h

theorem Keeps.ddrWrite {s z : State} {a : Nat} {bs : List (BitVec 8)} {ch : Option Nat} (h : Keeps s z) :
    Keeps s (z.ddrWrite a bs ch) :=
  .ite (.countGated h) (.ite h (.countPosted (.ddrRequest h)))

theorem Keeps.ddrWriteLines {s : State} {ch : Option Nat} : ∀ {fuel a : Nat} {bs : List (BitVec 8)} {z : State}, Keeps s z →
    Keeps s (State.ddrWriteLines ch fuel a bs z)
  | 0, _, _, _, h => h
  | _ + 1, _, _, _, h => .ite h (ddrWriteLines (.ddrWrite h))

theorem Keeps.dropLines {s z : State} {p : Nat → Bool} (h : Keeps s z) : Keeps s (z.dropLines p) :=
  .ddrCh h (List.length_map _)

/-! ### Operations of Machine/StepCmds -/

theorem Keeps.scanEffect {s z : State} {t : Nat} {u : Bool} {k : Scan} (h : Keeps s z) : Keeps s (scanEffect t u k z) := by
  unfold Machine.scanEffect
  split
  · exact h
  · extract_lets s1 started noCold
    have hs1 : Keeps s s1 := .updRun h
    have hstarted : Keeps s started := .ite (.vecStart hs1) hs1
    have hnoCold : Keeps s noCold := .updRun hs1
    split
    · exact hstarted
    · exact .completeStep hnoCold
    · exact .completeStep hnoCold
    · exact .stepFault hstarted

theorem Keeps.scanEnd {s z : State} {t : Nat} {u : Bool} (h : Keeps s z) : Keeps s (scanEnd t u z) := by
  unfold Machine.scanEnd
  split
  · split
    · exact .ite (.scanEffect h) h
    · exact h
  · exact h

theorem Answers.execStepStart {s z : State} {tile : Nat} {urgent : Bool} (h : Keeps s z) :
    Answers s (execStepStart tile urgent z) := by
  unfold Machine.execStepStart
  split
  · dsimp only
    split
    · exact .next h
    · refine .ite (.next h) ?_
      split
      · exact .next (.completeStep (.updSt h))
      · exact .next (.scanEnd (.updRun (.updSt h)))
  · dsimp only
    split
    · exact .next h
    · refine .ite (.next h) ?_
      split
      · exact .next (.completeStep (.updSt h))
      · exact .next (.scanEnd (.updRun (.updSt h)))

theorem Answers.execListEntryPass {s z : State} {tile : Nat} {urgent : Bool} (h : Keeps s z) :
    Answers s (execListEntryPass tile urgent z) := by
  unfold Machine.execListEntryPass
  split
  · exact .next h
  · refine .ite (.next h) ?_
    split
    · exact .next (.endStep h)
    · refine .ite (.next (.stepFault h)) ?_
      exact .ite (.next (.updRun h)) (.ite (.next (.malformed (.arrErr h))) (.ite (.next h) (.ite (.next (.malformed
          (.engBitErr h))) (.next (.advanceList (.updTile h fun _ => .setEngQ (.refl _)))))))

theorem Answers.execEngineCmdIssue {s z : State} {tile engine : Nat} (h : Keeps s z) :
    Answers s (execEngineCmdIssue tile engine z) :=
  .next (.ite (.tryIssue h) h)

theorem Keeps.enterMirror {s z : State} {t : Nat} {u : Bool} (h : Keeps s z) : Keeps s (enterMirror t u z) := by
  unfold Machine.enterMirror
  split
  · exact h
  · exact .ite h (.updTs h fun _ => .issue (.refl _))

theorem Answers.execStepRetire {s z : State} {tile : Nat} {urgent : Bool} (h : Keeps s z) :
    Answers s (execStepRetire tile urgent z) := by
  unfold Machine.execStepRetire
  split
  · exact .next h
  · refine .ite (.next h) (.ite (.next (.enterMirror h)) (.ite (.next h) ?_))
    split
    · exact .next (.updRun h)
    · exact .next (.enterMirror (.updRun h))

theorem Keeps.leaveMirror {s z : State} {t : Nat} {u : Bool} (h : Keeps s z) : Keeps s (leaveMirror t u z) :=
  .ite h (.dropMirror h)

theorem Answers.execStepComplete {s z : State} {tile : Nat} {urgent : Bool} (h : Keeps s z) :
    Answers s (execStepComplete tile urgent z) := by
  unfold Machine.execStepComplete
  split
  · exact .next h
  · split
    · exact .next h
    · refine .ite (.next h) ?_
      split
      · exact .next (.completeStep h)
      · exact .ite (.next (.completeStep (.leaveMirror h))) (.next h)

theorem Keeps.deadlineEvent {s z : State} {t : Nat} (h : Keeps s z) : Keeps s (deadlineEvent t z) := .latchEvent h

theorem Answers.execDeadlinePass {s z : State} {tile : Nat} {urgent waiting : Bool} (h : Keeps s z) :
    Answers s (execDeadlinePass tile urgent waiting z) := by
  unfold Machine.execDeadlinePass
  refine .ite (.next h) (.ite ?_ ?_)
  · split
    · exact .ite (.next (.deadlineEvent (.updSt h))) (.next h)
    · exact .next h
  · split
    · exact .ite (.next (.deadlineEvent (.updRun h))) (.next h)
    · exact .next h

theorem Answers.execStepCntClr {s z : State} {who : Who} {tile : Nat} {value : BitVec 32} (h : Keeps s z) :
    Answers s (execStepCntClr who tile value z) :=
  .next (.ite (.regWrite h fun _ hz => .updSt hz) h)

/-! ### Operations of Machine/BondOps -/

theorem Keeps.bondSend {s z : State} {type win : Nat} {addr : BitVec 64} {payload : List (BitVec 8)} (h : Keeps s z) :
    Keeps s (z.bondSend type win addr payload) :=
  h

theorem Keeps.bondReply {s z : State} {type : Nat} {fseq : BitVec 32} (h : Keeps s z) : Keeps s (z.bondReply type fseq) := h

theorem Keeps.mirrorSend {s z : State} {w l : Nat} (h : Keeps s z) : Keeps s (mirrorSend w l z) :=
  .ite (.bondSend (.countGated h)) (.bondSend (.ddrRequest h))

theorem Keeps.mirrorLine {s z : State} {l : Nat} (h : Keeps s z) : Keeps s (mirrorLine l z) := by
  unfold Machine.mirrorLine
  refine .ite h ?_
  split
  · exact .mirrorSend h
  · exact h

theorem Keeps.mirrorLines {s z : State} {a n : Nat} (h : Keeps s z) : Keeps s (mirrorLines a n z) :=
  .ite h (.foldl h fun _ _ hz => .mirrorLine hz)

theorem Keeps.dmaDdrWrite {s z : State} {a : Nat} {bs : List (BitVec 8)} {ch : Option Nat} (h : Keeps s z) :
    Keeps s (dmaDdrWrite a bs ch z) :=
  .mirrorLines (.ddrWriteLines h)

theorem Keeps.sendRing {s z : State} {n : Nat} {raw : BitVec 512} {live : RingLive} (h : Keeps s z) :
    Keeps s (sendRing n raw live z) :=
  .bondSend h

theorem Keeps.mirrorRing {s z : State} {n : Nat} {raw : BitVec 512} {live : RingLive} (h : Keeps s z) :
    Keeps s (mirrorRing n raw live z) :=
  .ite (.sendRing h) h

theorem Keeps.sendCq {s z : State} {n : Nat} {q : DmaCq} (h : Keeps s z) : Keeps s (sendCq n q z) := .bondSend h

theorem Keeps.mirrorCqRegs {s z : State} {n : Nat} {q : DmaCq} (h : Keeps s z) : Keeps s (mirrorCqRegs n q z) :=
  .ite (.sendCq h) h

/-! ### Operations of Machine/ClkOps -/

theorem Keeps.lost {s z : State} (h : Keeps s z) : Keeps s z.lost := by
  refine h.of_fit rfl fun ⟨_, hm, _⟩ => ⟨rfl, Memory.wf_lost ?_ ?_, rfl⟩
  all_goals
    simp only [Memory.wf, Bool.and_eq_true] at hm
    obtain ⟨⟨⟨⟨-, hp⟩, hf⟩, -⟩, -⟩ := hm
    assumption

theorem Keeps.hatch {s z : State} {straps : BitVec 6} (h : Keeps s z) : Keeps s (z.hatch straps) :=
  .same (.lost h) rfl

theorem Keeps.updClk {s z : State} {f : Clock → Clock} (h : Keeps s z) : Keeps s (z.updClk f) := h

theorem Keeps.romStart {s z : State} (h : Keeps s z) : Keeps s (romStart z) := .sec h rfl

theorem Keeps.srcQualified {s z : State} {xtal : Bool} (h : Keeps s z) : Keeps s (srcQualified xtal z) :=
  .updClk (.ite h (.romStart h))

theorem Keeps.srcSwitch {s z : State} (h : Keeps s z) : Keeps s (srcSwitch z) := .devSource (.updClk h)

theorem Keeps.safeHoldEnter {s z : State} (h : Keeps s z) : Keeps s (safeHoldEnter z) := .updClk (.lost h)

theorem Keeps.srcLost {s z : State} {xtal : Bool} {v : BitVec 2} (h : Keeps s z) : Keeps s (srcLost xtal v z) :=
  .ite (.ite (.srcSwitch (.updClk h)) (.safeHoldEnter (.updClk h))) (.updClk h)

theorem Answers.execClkWindowEnd {s z : State} {xtal : Bool} {count : Nat} (h : Keeps s z) :
    Answers s (execClkWindowEnd xtal count z) :=
  .ite (.next h) (.ite (.next h) (.ite (.ite (.next (.ite (.srcQualified h) h)) (.next (.ite h (.srcLost h)))) (.ite (.next h)
      (.ite (.ite (.next (.updClk h)) (.ite (.next (.updClk h)) (.next (.srcQualified (.updClk h))))) (.next (.ite h
      (.srcLost h)))))))

theorem Answers.execClkStopDetect {s z : State} {xtal : Bool} (h : Keeps s z) : Answers s (execClkStopDetect xtal z) :=
  .next (.ite (.srcLost h) h)

theorem Answers.execXtalAmplitudeDone {s z : State} (h : Keeps s z) : Answers s (execXtalAmplitudeDone z) :=
  .next (.ite (.srcQualified h) h)

theorem Answers.execXtalAmplitudeLoss {s z : State} (h : Keeps s z) : Answers s (execXtalAmplitudeLoss z) :=
  .next (.ite (.srcLost h) h)

theorem Answers.execClkSourceEdgesReturn {s z : State} {xtal : Bool} (h : Keeps s z) : Answers s (execClkSourceEdgesReturn xtal z) := by
  unfold Machine.execClkSourceEdgesReturn
  extract_lets st s1
  have h1 : Keeps s s1 := .updClk h
  exact .next (.ite (.same h1 rfl) h)

theorem Answers.execPllReacquireDone {s z : State} (h : Keeps s z) : Answers s (execPllReacquireDone z) := .next (.updClk h)

theorem Answers.execSafeHoldRestart {s z : State} {straps : BitVec 6} (h : Keeps s z) :
    Answers s (execSafeHoldRestart straps z) :=
  .ite (.next (.updClk (.romStart (.hatch h)))) (.next h)

theorem Keeps.srcCtrlWrite {s z : State} {v : BitVec 32} (h : Keeps s z) : Keeps s (srcCtrlWrite v z) :=
  .ite (.srcSwitch (.ite (.srcLost (.updClk h)) (.updClk h))) (.ite (.srcLost (.updClk h)) (.updClk h))

theorem Answers.execClkRevert {s z : State} {who : Who} {value : BitVec 32} (h : Keeps s z) :
    Answers s (execClkRevert who value z) :=
  .next (.regWrite h fun _ hz => .srcCtrlWrite hz)

theorem Answers.execXtalEnWrite {s z : State} {who : Who} {value : BitVec 32} (h : Keeps s z) :
    Answers s (execXtalEnWrite who value z) :=
  .next (.regWrite h fun _ hz => .srcCtrlWrite hz)

theorem Keeps.avsStart {s z : State} (h : Keeps s z) : Keeps s (avsStart z) := .updClk h

theorem Keeps.mapTiles {s z : State} {f : Tile → Tile} (h : Keeps s z) (hf : ∀ x, TileKeeps x (f x)) :
    Keeps s { z with tiles := z.tiles.map f } := by
  refine h.of_fit rfl fun ⟨hs, hm, hp⟩ => ⟨by simpa [State.shaped_iff] using hs, ?_, hp⟩
  simp only [Memory.wf, Bool.and_eq_true, List.all_map, List.all_eq_true] at hm ⊢
  obtain ⟨⟨⟨⟨⟨⟨⟨ht, h1⟩, h2⟩, h3⟩, h4⟩, h5⟩, h6⟩, h7⟩ := hm
  exact ⟨⟨⟨⟨⟨⟨⟨fun x hx => hf x (ht x hx), h1⟩, h2⟩, h3⟩, h4⟩, h5⟩, h6⟩, h7⟩

theorem Keeps.unpark {s z : State} (h : Keeps s z) : Keeps s (unpark z) :=
  .same (.mapTiles (f := fun x => { x with st := { x.st with parked := false } }) h fun _ => .of_units (.refl _) (.refl _) (.refl _)) rfl

theorem Keeps.dvfsBegin {s z : State} {p : BitVec 2} {park : State → State} (h : Keeps s z) (hpark : ∀ z, Keeps s z → Keeps s
    (park z)) :
    Keeps s (dvfsBegin p park z) :=
  .ite (.avsStart (.updClk h)) (hpark _ (.updClk h))

theorem Keeps.dvfsEnd {s z : State} (h : Keeps s z) : Keeps s (dvfsEnd z) := .ite (.pulse (.updClk h)) (.updClk h)

theorem Keeps.rampEnd {s z : State} (h : Keeps s z) : Keeps s (rampEnd z) := .ite (.dvfsEnd (.unpark h)) (.avsStart (.unpark h))

theorem Keeps.parkCheck {s z : State} (h : Keeps s z) : Keeps s (parkCheck z) := .ite (.ite (.rampEnd (.updClk h)) (.updClk h)) h

theorem Keeps.parkStart {s z : State} (h : Keeps s z) : Keeps s (parkStart z) := .parkCheck (.updClk h)

theorem Keeps.dvfsNext {s z : State} (h : Keeps s z) : Keeps s (dvfsNext z) := by
  unfold Machine.dvfsNext
  split
  · exact .ite (.updClk h) (.dvfsBegin h fun _ hz => .parkStart hz)
  · exact h

theorem Keeps.dvfsAsk {s z : State} {p : BitVec 2} (h : Keeps s z) : Keeps s (dvfsAsk p z) := by
  unfold Machine.dvfsAsk
  refine .ite (.updClk h) ?_
  split
  · exact .ite h (.dvfsNext (.dvfsBegin h fun _ hz => .parkStart hz))
  · exact .updClk h

theorem Keeps.dvfsReqWrite {s z : State} {v : BitVec 32} (h : Keeps s z) : Keeps s (dvfsReqWrite v z) :=
  .ite (.hostReject h) (.dvfsAsk (.updClk h))

theorem Answers.execDvfsRequest {s z : State} {who : Who} {value : BitVec 32} (h : Keeps s z) :
    Answers s (execDvfsRequest who value z) :=
  .next (.regWrite h fun _ hz => .dvfsReqWrite hz)

theorem Answers.execAvsAck {s z : State} (h : Keeps s z) : Answers s (execAvsAck z) := .next (.ite (.updClk h) h)

theorem Answers.execAvsSettleDone {s z : State} (h : Keeps s z) : Answers s (execAvsSettleDone z) :=
  .ite (.next (.dvfsNext (.ite (.parkStart h) (.dvfsEnd h)))) (.next h)

theorem Answers.execAvsTimeout {s z : State} (h : Keeps s z) : Answers s (execAvsTimeout z) :=
  .ite (.next (.devSource (.updClk h))) (.next h)

theorem Answers.execTilePark {s z : State} {tile : Nat} (h : Keeps s z) : Answers s (execTilePark tile z) :=
  .ite (.next (.dvfsNext (.parkCheck (.updClk (.updSt h))))) (.next h)

theorem Answers.execDividerStep {s z : State} (h : Keeps s z) : Answers s (execDividerStep z) :=
  .ite (.next (.ite (.dvfsNext (.rampEnd (.updClk h))) (.updClk h))) (.next h)

theorem Keeps.clkEnSetWrite {s z : State} {v : BitVec 32} (h : Keeps s z) : Keeps s (clkEnSetWrite v z) :=
  .foldl (.updClk h) fun _ _ hz => .ite (.calDueNow hz) hz

theorem Answers.execClkEnSet {s z : State} {who : Who} {value : BitVec 32} (h : Keeps s z) :
    Answers s (execClkEnSet who value z) :=
  .next (.regWrite h fun _ hz => .clkEnSetWrite hz)

theorem Answers.execClkEnClr {s z : State} {who : Who} {value : BitVec 32} (h : Keeps s z) :
    Answers s (execClkEnClr who value z) :=
  .next (.regWrite h fun _ hz => .updClk hz)

theorem Answers.execGateApply {s z : State} {n : Nat} (h : Keeps s z) : Answers s (execGateApply n z) :=
  .ite (.next (.ite (.updChan (.updClk h)) (.updClk h))) (.next h)

theorem Answers.execClkOutCfgWrite {s z : State} {who : Who} {value : BitVec 32} (h : Keeps s z) :
    Answers s (execClkOutCfgWrite who value z) :=
  .next (.regWrite h fun _ hz => .updClk hz)

theorem Answers.execClkCntClr {s z : State} {who : Who} {value : BitVec 32} (h : Keeps s z) :
    Answers s (execClkCntClr who value z) :=
  .next (.regWrite h fun _ hz => .updClk hz)

/-! ### Operations of Machine/Console -/

theorem Keeps.conLine {s z : State} {x : ConsoleLine} (h : Keeps s z) : Keeps s (conLine x z) := h

theorem Keeps.itemEnd {s z : State} {n : Nat} (h : Keeps s z) : Keeps s (itemEnd n z) := .conLine h

theorem Keeps.itemBegin {s z : State} {n : Nat} (h : Keeps s z) : Keeps s (itemBegin n z) := .conLine h

theorem Keeps.uartTick {s z : State} (h : Keeps s z) : Keeps s (uartTick z) := by
  unfold Machine.uartTick
  split
  · exact h
  · exact .ite h h

/-! ### Operations of Machine/Fence -/

theorem Keeps.fenceSteps {s z : State} {t : Nat} (h : Keeps s z) : Keeps s (fenceSteps t z) := .endStep (.endStep h)

theorem Keeps.fenceHalt {s z : State} {t : Nat} (h : Keeps s z) : Keeps s (fenceHalt t z) :=
  .updTile h fun _ => .of_units (.refl _) (.refl _) (.refl _)

theorem Keeps.mixedCheck {s z : State} (h : Keeps s z) : Keeps s (mixedCheck z) := .ite h h

theorem Keeps.morLeave {s z : State} {n : Nat} (h : Keeps s z) : Keeps s (morLeave n z) := .mixedCheck h

theorem Keeps.deviceFault {s z : State} {cause : Nat} {channel : Nat} (h : Keeps s z) : Keeps s (deviceFault cause channel z) := by
  unfold Machine.deviceFault
  extract_lets s1 _ _ s2
  have h1 : Keeps s s1 := .foldl h fun _ _ hz => .fenceHalt (.fenceSteps hz)
  clear_value s1
  have h2 : Keeps s s2 := .same (z := { s1 with dma := s1.dma.halt }) (.dma h1 (List.length_map _)) rfl
  exact .ite h (.devSource h2)

theorem Keeps.fenceRecord {s z : State} {t cause : Nat} (h : Keeps s z) : Keeps s (fenceRecord t cause z) := h

theorem Keeps.applyFence {s z : State} {t cause : Nat} (h : Keeps s z) : Keeps s (applyFence t cause z) :=
  .dvfsNext (.parkCheck (.devSource (.morLeave (.fenceHalt (.fenceSteps (.fenceRecord h))))))

theorem Keeps.fenceTile {s z : State} {t cause : Nat} (h : Keeps s z) : Keeps s (fenceTile t cause z) :=
  .ite h (.ite (.deviceFault h) (.applyFence h))

theorem decodeWords_wf (bs : List (BitVec 8)) : swf (fun _ => 0) (decodeWords bs) = true :=
  foldl_wf _ _ (fun m _ hm => sset_wf _ m _ _ hm) _ _ rfl

theorem keptTable_wf (s : State) : swf (fun _ => 0) (keptTable s) = true := by
  unfold keptTable
  split
  · split
    · exact decodeWords_wf _
    · rfl
  · rfl

theorem TileKeeps.renew {x : Tile} {dec : List (Nat × BitVec 32)} {parked mixed : Bool} (hd : swf (fun _ => 0) dec = true) :
    TileKeeps x (x.renew dec parked mixed) :=
  .of_units ⟨fun _ => ⟨rfl, rfl⟩, fun _ => hd⟩ (fun _ => ⟨rfl, rfl⟩) ⟨fun _ => rfl, fun _ => rfl⟩

theorem Keeps.unfenceTile {s z : State} {t : Nat} (h : Keeps s z) : Keeps s (unfenceTile t z) :=
  .ite h (.same (.updTile h fun _ => .renew (keptTable_wf z)) rfl)

theorem CoreKeeps.modeWords {c : SeqCore} {v w : TWord} :
    CoreKeeps c { c with
      lram := sset (fun _ => .uninit) (sset (fun _ => .uninit) c.lram 0x3FE v) 0x3FF w
      lramBad := sset (fun _ => false) (sset (fun _ => false) c.lramBad 0x3FE false) 0x3FF false } :=
  .setLword (w := 0x3FF) (v := w) (.setLword (w := 0x3FE) (v := v) (.refl c))

theorem Keeps.applyMode {s z : State} {t : Nat} (h : Keeps s z) : Keeps s (applyMode t z) := by
  unfold Machine.applyMode
  extract_lets e w s1
  have h1 : Keeps s s1 := .updTile h fun _ => .of_units .modeWords (.refl _) (.refl _)
  exact .same (z := s1.tileSource t 3) (.tileSource h1) rfl

theorem Keeps.releaseTile {s z : State} {t : Nat} (h : Keeps s z) : Keeps s (releaseTile t z) :=
  .ite h (.updCore (.ite (.applyMode h) h) fun _ => .refl _)

theorem Keeps.releaseAll {s z : State} (h : Keeps s z) : Keeps s (releaseAll z) := .foldl h fun _ _ hz => .releaseTile hz

theorem Keeps.fenceSlice {s z : State} {n : Nat} (h : Keeps s z) : Keeps s (fenceSlice n z) := .ite h (.devSource (.dropLines h))

theorem Keeps.unfenceSlice {s z : State} {n : Nat} (h : Keeps s z) : Keeps s (unfenceSlice n z) := .ite h h

theorem Keeps.countScUe {s z : State} {n : Nat} (h : Keeps s z) : Keeps s (countScUe n z) := .ite (.fenceSlice h) h

theorem Keeps.countDdrUe {s z : State} {c : Nat} (h : Keeps s z) : Keeps s (countDdrUe c z) := .ite (.deviceFault h) h

theorem Keeps.hodEcc {s z : State} {n ce : Nat} {ue : Bool} (h : Keeps s z) : Keeps s (hodEcc n ce ue z) :=
  .ite (.deviceFault h) h

theorem Keeps.kick {s z : State} (h : Keeps s z) : Keeps s (kick z) := h

theorem Keeps.devFltCmd {s z : State} {v : BitVec 32} (h : Keeps s z) : Keeps s (devFltCmd v z) := by
  unfold Machine.devFltCmd
  split
  · exact .fenceTile h
  · exact .unfenceTile h
  · exact .releaseTile h
  · exact .fenceSlice h
  · exact .unfenceSlice h
  · exact .deviceFault h
  · exact .kick h
  · exact h

theorem Keeps.fenceBoth {s z : State} {t cause : Nat} {also : Option Nat} (h : Keeps s z) :
    Keeps s (fenceBoth t cause also z) := by
  unfold Machine.fenceBoth
  split
  · exact .fenceTile h
  · exact .ite (.deviceFault h) (.fenceTile (.fenceTile h))

theorem Answers.execFenceTile {s z : State} {cause : FenceCause} {which : FencedTiles} (h : Keeps s z) :
    Answers s (execFenceTile cause which z) := by
  unfold Machine.execFenceTile
  split
  · exact .next (.regWrite h fun _ hz => .fenceBoth hz)
  · exact .next (.ite (.fenceBoth h) h)

theorem Answers.execUnfenceTile {s z : State} {who : Who} {tile : Nat} (h : Keeps s z) : Answers s (execUnfenceTile who tile z) :=
  .next (.regWrite h fun _ hz => .unfenceTile hz)

theorem Answers.execReleaseTile {s z : State} {who : Who} {tile : Nat} (h : Keeps s z) : Answers s (execReleaseTile who tile z) :=
  .next (.regWrite h fun _ hz => .releaseTile hz)

theorem Answers.execFenceSlice {s z : State} {who : Who} {slice : Nat} (h : Keeps s z) : Answers s (execFenceSlice who slice z) :=
  .next (.regWrite h fun _ hz => .fenceSlice hz)

theorem Answers.execUnfenceSlice {s z : State} {who : Who} {slice : Nat} (h : Keeps s z) :
    Answers s (execUnfenceSlice who slice z) :=
  .next (.regWrite h fun _ hz => .unfenceSlice hz)

theorem Answers.execDevFault {s z : State} {who : Who} (h : Keeps s z) : Answers s (execDevFault who z) :=
  .next (.regWrite h fun _ hz => .deviceFault hz)

theorem Answers.execKick {s z : State} {who : Who} (h : Keeps s z) : Answers s (execKick who z) :=
  .next (.regWrite h fun _ hz => .kick hz)

theorem Answers.execQuoinWdogExpire {s z : State} (h : Keeps s z) : Answers s (execQuoinWdogExpire z) :=
  .next (.ite (.deviceFault h) h)

theorem Answers.execPcieLinkTimeout {s z : State} (h : Keeps s z) : Answers s (execPcieLinkTimeout z) := by
  unfold Machine.execPcieLinkTimeout
  split
  · exact .next (.ite (.deviceFault h) h)
  · exact .next h

theorem Answers.execUeWindowStart {s z : State} (h : Keeps s z) : Answers s (execUeWindowStart z) := .next (.ite h h)

theorem Answers.execDevFltCntClr {s z : State} {who : Who} {value : BitVec 32} (h : Keeps s z) :
    Answers s (execDevFltCntClr who value z) :=
  .next (.regWrite h fun _ hz => hz)

/-! ### Operations of Machine/Stream -/

theorem Keeps.scErr {s z : State} {l way kind : Nat} (h : Keeps s z) : Keeps s (scErr l way kind z) := h

theorem Keeps.scCorrected {s z : State} {l way kind : Nat} (h : Keeps s z) : Keeps s (scCorrected l way kind z) :=  .scErr h

theorem Keeps.scUncorrected {s z : State} {l way kind : Nat} (h : Keeps s z) : Keeps s (scUncorrected l way kind z) :=
  .countScUe (.devSource (.scErr h))

theorem Keeps.ddrErr {s z : State} {l : Nat} {be : BeatErr} (h : Keeps s z) : Keeps s (ddrErr l be z) :=
  .ite h (.ite (.countDdrUe (.devSource (.updChan h))) (.updChan h))

theorem Keeps.cacheLook {s z : State} {l : Nat} {ecc : LineEcc} (h : Keeps s z) : Keeps s (cacheLook l ecc z).2 := by
  unfold Machine.cacheLook
  split
  · exact .ite (.scCorrected h) h
  · exact .ite_snd (.scUncorrected h) h
  · exact h

theorem Keeps.cacheRead {s z : State} {l : Nat} {ecc : LineEcc} (h : Keeps s z) : Keeps s (cacheRead l ecc z).2 := by
  unfold Machine.cacheRead
  split
  next way s0 e =>
  have h0 : Keeps s s0 := .pair (.cacheLook h) e
  split
  · exact h0
  · split
    · exact h0
    · extract_lets s1
      have h1 : Keeps s s1 := .same h0 rfl
      split
      · exact .scCorrected h1
      · exact .scUncorrected (.dropLines (.same h1 rfl))
      · exact h1
      · exact h1

theorem Keeps.streamCmd {s z : State} {t : Nat} {u : Bool} {r : StepRun} {e : BitVec 512} {f : State → State} (h : Keeps s z)
    (hf : ∀ z, Keeps s z → Keeps s (f z)) :
    Keeps s (streamCmd t u r e f z) := by
  unfold Machine.streamCmd
  split
  · exact .malformed (.scCmdErr h)
  · exact .advanceList (.ite (.countGated h) (hf _ h))

theorem Answers.execStreamDeclare {s z : State} {tile : Nat} {urgent : Bool} (h : Keeps s z) :
    Answers s (execStreamDeclare tile urgent z) := by
  unfold Machine.execStreamDeclare
  split
  · exact .next h
  · exact .next (.ite h (.streamCmd h fun _ hz => .updTrk hz))

theorem Answers.execStreamRelease {s z : State} {tile : Nat} {urgent : Bool} (h : Keeps s z) :
    Answers s (execStreamRelease tile urgent z) := by
  unfold Machine.execStreamRelease
  split
  · exact .next h
  · exact .next (.ite h (.streamCmd h fun _ hz => .updTrk hz))

theorem Keeps.invalBegin {s z : State} {line : Nat} {count tile : Option Nat} {urgent : Bool} (h : Keeps s z) :
    Keeps s (invalBegin line count tile urgent z) := by
  unfold Machine.invalBegin
  extract_lets _ s1
  have hs1 : Keeps s s1 := .dropLines h
  exact hs1

theorem Answers.execStreamInval {s z : State} {tile : Nat} {urgent : Bool} (h : Keeps s z) :
    Answers s (execStreamInval tile urgent z) := by
  unfold Machine.execStreamInval
  split
  · exact .next h
  · exact .next (.ite h (.streamCmd h fun _ hz => .invalBegin hz))

theorem Answers.execStreamRequest {s z : State} {look : StreamLook} (h : Keeps s z) : Answers s (execStreamRequest look z) := by
  unfold Machine.execStreamRequest
  refine .ite (.ite (.next (.scErr (.updTrk (.crossing (.updTrk h))))) (.ite (.next (.ite (.updTrk (.crossing (.countGated (.ite
      (.countGated (.updTrk h)) (.updTrk h))))) (.ddrRequest (.ite (.countGated (.updTrk h)) (.updTrk h))))) ?_)) (.next h)
  split
  · exact .next (.updTrk (.crossing (.pair (.cacheRead (.updTrk h)) ‹_›)))
  · exact .next (.ite (.updTrk (.crossing (.countGated (.pair (.cacheRead (.updTrk h)) ‹_›)))) (.ddrRequest (.pair (.cacheRead
        (.updTrk h)) ‹_›)))

theorem Keeps.handOver {s z : State} {n : Nat} {weight urgent : Bool} {data : BitVec 1024} {poison : Bool} (h : Keeps s z) :
    Keeps s (handOver n weight urgent data poison z) :=
  .updTrk (.updArr h)

theorem Keeps.lineBad {s z : State} {n : Nat} {urgent : Bool} (h : Keeps s z) : Keeps s (lineBad n urgent z) :=
  .stepFault (.updTrk (.countMorPerr h))

theorem Answers.execStreamLineDeliver {s z : State} {tracker jitter : Nat} {held : LineWait} (h : Keeps s z) :
    Answers s (execStreamLineDeliver tracker jitter held z) := by
  unfold Machine.execStreamLineDeliver
  split
  · dsimp only
    split
    · exact .ite (.next h) (.next (.lineBad (.countTransit (.chargeLine h))))
    · exact .next h
  · dsimp only
    split
    · exact .ite (.next h) (.next (.handOver (.countTransit (.chargeLine h))))
    · exact .next h

theorem Keeps.scInvalCtrl {s z : State} {v : BitVec 32} (h : Keeps s z) : Keeps s (scInvalCtrl v z) :=
  .ite h (.ite h (.ite (.invalBegin h) (.invalBegin h)))

theorem Answers.execScInvalGo {s z : State} {who : Who} {value : BitVec 32} (h : Keeps s z) :
    Answers s (execScInvalGo who value z) :=
  .next (.ite (.regWrite h fun _ hz => .scInvalCtrl hz) h)

theorem Answers.execScInvalAll {s z : State} {who : Who} {value : BitVec 32} (h : Keeps s z) :
    Answers s (execScInvalAll who value z) :=
  .next (.ite (.regWrite h fun _ hz => .scInvalCtrl hz) h)

theorem Answers.execScInvalDone {s z : State} (h : Keeps s z) : Answers s (execScInvalDone z) := .next (.ite h h)

theorem Keeps.sliceReqWrite {s z : State} {v : BitVec 32} (h : Keeps s z) : Keeps s (sliceReqWrite v z) := h

theorem Answers.execScSlicePwrReqWrite {s z : State} {who : Who} {value : BitVec 32} (h : Keeps s z) :
    Answers s (execScSlicePwrReqWrite who value z) :=
  .next (.regWrite h fun _ hz => .sliceReqWrite hz)

theorem Answers.execSliceWakeDone {s z : State} {slice : Nat} (h : Keeps s z) : Answers s (execSliceWakeDone slice z) :=
  .next (.ite h h)

theorem Answers.execSliceDrainDone {s z : State} {slice : Nat} (h : Keeps s z) : Answers s (execSliceDrainDone slice z) :=
  .next (.ite (.dropLines h) h)

theorem Keeps.scFenceWrite {s z : State} {v : BitVec 32} (h : Keeps s z) : Keeps s (scFenceWrite v z) :=
  .foldl (.dropLines h) fun _ _ hz => .ite (.devSource hz) hz

theorem Answers.execScFenceWrite {s z : State} {who : Who} {value : BitVec 32} (h : Keeps s z) :
    Answers s (execScFenceWrite who value z) :=
  .next (.regWrite h fun _ hz => .scFenceWrite hz)

theorem Answers.execScCntClr {s z : State} {who : Who} {value : BitVec 32} (h : Keeps s z) :
    Answers s (execScCntClr who value z) :=
  .next (.regWrite h fun _ hz => hz)

theorem Keeps.prefetch {s z : State} {n l : Nat} (h : Keeps s z) : Keeps s (prefetch n l z) := .ite h (.ddrRequest h)

theorem Keeps.prefetchAhead {s z : State} {n : Nat} (h : Keeps s z) : Keeps s (prefetchAhead n z) :=
  .foldl h fun _ _ hz => .prefetch hz

theorem Keeps.trainMiss {s z : State} {d l : Nat} (h : Keeps s z) : Keeps s (trainMiss d l z) := by
  unfold Machine.trainMiss
  refine .ite h ?_
  split
  · exact .ite (.prefetchAhead (.updTrk h)) (.prefetch (.updTrk h))
  · split
    · exact .ite (.prefetchAhead (.updTrk h)) (.prefetch (.updTrk h))
    · exact h

theorem Keeps.trainHit {s z : State} {d l : Nat} (h : Keeps s z) : Keeps s (trainHit d l z) := by
  unfold Machine.trainHit
  split
  · exact .ite (.prefetchAhead (.updTrk h)) h
  · exact h

theorem Keeps.setDmaLine {s z : State} {d : Nat} {x : Option DmaLine} (h : Keeps s z) : Keeps s (z.setDmaLine d x) := .updDch h

theorem Keeps.dmaLook {s z : State} {l : Nat} {ecc : LineEcc} (h : Keeps s z) : Keeps s (dmaLook l ecc z).2 :=
  .ite_snd (.countGated h) (.ite_snd h (.cacheRead h))

theorem Keeps.dmaAsk {s z : State} {d l : Nat} {ecc : LineEcc} (h : Keeps s z) : Keeps s (dmaAsk d l ecc z) := by
  unfold Machine.dmaAsk
  split
  · exact h
  · exact .setDmaLine (.trainMiss (.ddrRequest (.dmaLook h)))

theorem Keeps.dmaReadLine {s z : State} {d l : Nat} {ecc : LineEcc} {be : BeatErr} (h : Keeps s z) :
    Keeps s (dmaReadLine d l ecc be z).2 := by
  unfold Machine.dmaReadLine
  split
  · exact .setDmaLine h
  · split
    · exact .trainHit (.pair (.dmaLook h) ‹_›)
    · exact .ite_snd (.countGated (.pair (.dmaLook h) ‹_›)) (.trainMiss (.ddrErr (.ddrOpen (.pair (.dmaLook h) ‹_›))))

theorem Answers.execDdrClassPromote {s z : State} {ch i : Nat} (h : Keeps s z) : Answers s (execDdrClassPromote ch i z) :=
  .next (.updChan h)

theorem Answers.execDdrRefresh {s z : State} {ch bank : Nat} (h : Keeps s z) : Answers s (execDdrRefresh ch bank z) :=
  .next (.ite (.updChan h) h)

theorem Answers.execDdrSrEnter {s z : State} {ch : Nat} (h : Keeps s z) : Answers s (execDdrSrEnter ch z) :=
  .next (.ite (.updChan h) h)

theorem Answers.execDdrSrExitDone {s z : State} {ch : Nat} (h : Keeps s z) : Answers s (execDdrSrExitDone ch z) := by
  unfold Machine.execDdrSrExitDone
  split
  · exact .next (.ite (.calDueNow (.updChan h)) h)
  · exact .next h

theorem Answers.execDdrSrReqWrite {s z : State} {who : Who} {ch : Nat} {value : BitVec 32} (h : Keeps s z) :
    Answers s (execDdrSrReqWrite who ch value z) :=
  .next (.ite (.regWrite h fun _ hz => .updChan hz) h)

theorem Answers.execDdrCntClr {s z : State} {who : Who} {ch : Nat} {value : BitVec 32} (h : Keeps s z) :
    Answers s (execDdrCntClr who ch value z) :=
  .next (.ite (.regWrite h fun _ hz => .updChan hz) h)

/-! ### Operations of Machine/DmaOps -/

theorem Keeps.updLive {s z : State} {n : Nat} {f : RingLive → RingLive} (h : Keeps s z) : Keeps s (z.updLive n f) := h

theorem Keeps.updCtx {s z : State} {n : Nat} {f : BitVec 512 → BitVec 512} (h : Keeps s z) : Keeps s (z.updCtx n f) := by
  unfold State.updCtx
  split
  · exact .dma h rfl
  · exact h

theorem Keeps.writeBack {s z : State} {c : RingCtx} (h : Keeps s z) : Keeps s (writeBack z c) := .ddrWriteLines h

theorem OptKeeps.makeRoom {s z : State} (h : Keeps s z) : OptKeeps s (makeRoom z) := by
  unfold Machine.makeRoom
  refine .ite (.mk_some h) ?_
  split
  · exact .mk_some (.writeBack h)
  · exact .mk_none _

theorem Keeps.notWaiting {s z : State} {n : Nat} (h : Keeps s z) : Keeps s (notWaiting n z) := h

theorem OptKeeps.keepCtx {s z : State} {n : Nat} {c : BitVec 512} (h : Keeps s z) : OptKeeps s (keepCtx n c z) :=
  .ite (.mk_some (.notWaiting (.dma h rfl))) (.map (.makeRoom h) fun _ hz => .notWaiting (.dma hz rfl))

theorem Keeps.dmaErr {s z : State} {cause ring : Nat} {tile cmd : Nat} (h : Keeps s z) : Keeps s (dmaErr cause ring tile cmd z) :=
  h

theorem Keeps.ringReady {s z : State} {n : Nat} {c : BitVec 512} (h : Keeps s z) : Keeps s (ringReady n c z) := .updLive h

theorem Keeps.ringParked {s z : State} {n : Nat} {c : BitVec 512} (h : Keeps s z) : Keeps s (ringParked n c z) := by
  unfold Machine.ringParked
  extract_lets s1
  have hs1 : Keeps s s1 := .updLive h
  exact .ite hs1 hs1

theorem Keeps.ringStart {s z : State} {n : Nat} {c : BitVec 512} (h : Keeps s z) : Keeps s (ringStart n c z) := by
  unfold Machine.ringStart
  refine .mirrorRing ?_
  split
  · exact .ringReady (OptKeeps.get (.keepCtx h) ‹_›)
  · exact .ringParked h

theorem Keeps.ringInit {s z : State} {n : Nat} {c : BitVec 512} (h : Keeps s z) : Keeps s (ringInit n c z) :=
  .ite (.dmaErr h) (.ite (.dmaErr h) (.ringStart h))

theorem Keeps.ringHalt {s z : State} {n : Nat} (h : Keeps s z) : Keeps s (ringHalt n z) := .ite h (.ite (.updLive h) h)

theorem Keeps.ringStop {s z : State} {n : Nat} (h : Keeps s z) : Keeps s (ringStop n z) := .ite (.ringHalt h) (.dmaErr h)

theorem Keeps.ringResume {s z : State} {n : Nat} {c : BitVec 512} (h : Keeps s z) : Keeps s (ringResume n c z) :=
  .ite (.dmaErr h) (.ringStart h)

theorem Keeps.ringOff {s z : State} {n : Nat} (h : Keeps s z) : Keeps s (ringOff n z) := by
  unfold Machine.ringOff
  extract_lets st s1 s2
  have h1 : Keeps s s1 := .updLive h
  have h2 : Keeps s s2 := by
    dsimp only [s2]
    split
    · exact .writeBack h1
    · exact h1
  exact .ite (.dmaErr h) (.notWaiting (.dma h2 rfl))

theorem Keeps.ringFlush {s z : State} (h : Keeps s z) : Keeps s (ringFlush z) := .foldl h fun _ _ hz => .writeBack hz

theorem Keeps.ringBell {s z : State} {n : Nat} {v : BitVec 32} {add : Bool} {c : BitVec 512} (h : Keeps s z) :
    Keeps s (ringBell n v add c z) := by
  unfold Machine.ringBell
  refine .ite (.ddrWriteLines h) ?_
  split
  · exact .ite (.updLive (OptKeeps.get (.keepCtx h) ‹_›)) (OptKeeps.get (.keepCtx h) ‹_›)
  · exact .ite (.same (.ddrWriteLines h) rfl) (.ddrWriteLines h)

theorem Keeps.countBell {s z : State} (h : Keeps s z) : Keeps s (countBell z) := h

theorem Keeps.ringArrive {s z : State} {n : Nat} {c : BitVec 512} (h : Keeps s z) : Keeps s (ringArrive n c z) := by
  unfold Machine.ringArrive
  split
  · exact .ite (.updLive (OptKeeps.get (.keepCtx h) ‹_›)) (OptKeeps.get (.keepCtx h) ‹_›)
  · exact h

theorem Keeps.tileBell {s z : State} {n tile : Nat} {urgent : Bool} {start runs : Nat} {c : BitVec 512} (h : Keeps s z) :
    Keeps s (tileBell n tile urgent start runs c z) := by
  unfold Machine.tileBell
  split
  · exact h
  · exact .ite (.malformed (.dmaErr h)) (.advanceList (.markSent (.ringBell h)))

theorem Keeps.copySend {s z : State} {n : Nat} {resync : Bool} {c : BitVec 512} (h : Keeps s z) :
    Keeps s (copySend n resync c z) := by
  unfold Machine.copySend
  refine .ite h ?_
  extract_lets s1
  have hs1 : Keeps s s1 := .sendRing h
  exact .ite hs1 hs1

theorem Keeps.runOp {s z : State} {op : CtxOp} {c : BitVec 512} (h : Keeps s z) : Keeps s (runOp op c z) := by
  unfold Machine.runOp
  split
  · exact .ringInit h
  · exact .ringStop h
  · exact .ringResume h
  · exact .ringOff h
  · exact .ite (.countBell h) (.ringBell h)
  · exact .tileBell h
  · exact .ringArrive h
  · exact .copySend h

theorem Keeps.poisonedOp {s z : State} {op : CtxOp} (h : Keeps s z) : Keeps s (poisonedOp op z) := by
  unfold Machine.poisonedOp
  split
  · exact .dmaErr h
  · exact .dmaErr h
  · exact .ite (.stepFault h) h
  · exact .notWaiting h
  · exact h

theorem Keeps.gotImage {s z : State} {op : CtxOp} {err : BeatErr} (h : Keeps s z) : Keeps s (gotImage op err z) :=
  .ite (.poisonedOp (.ddrErr h)) (.runOp (.ddrErr h))

theorem Keeps.startOp {s z : State} {op : CtxOp} {err : Option BeatErr} (h : Keeps s z) : Keeps s (startOp op err z) := by
  unfold Machine.startOp
  refine .ite (.runOp h) (.ite (.runOp (.countGated h)) ?_)
  split
  · exact .gotImage (.ddrOpen h)
  · exact .ddrRequest h

theorem Keeps.ringOp {s z : State} {op : CtxOp} {err : Option BeatErr} (h : Keeps s z) : Keeps s (ringOp op err z) :=
  .ite h (.startOp h)

theorem Keeps.opsAfter {s : State} {n : Nat} : ∀ {fuel : Nat} {z : State}, Keeps s z → Keeps s (opsAfter n fuel z)
  | 0, _, h => h
  | _ + 1, _, h => by
    unfold Machine.opsAfter
    refine .ite h ?_
    split
    · exact h
    · exact opsAfter (.startOp (.dma h rfl))

theorem Keeps.serveOp {s z : State} {op : CtxOp} {err : BeatErr} (h : Keeps s z) : Keeps s (serveOp op err z) :=
  .opsAfter (.ite (.gotImage h) (.runOp (.ddrErr h)))

theorem Keeps.copyRing {s z : State} {n : Nat} (h : Keeps s z) : Keeps s (copyRing n z) := .ite (.startOp h) h

theorem Keeps.haltCopied {s z : State} {n : Nat} (h : Keeps s z) : Keeps s (haltCopied n z) :=
  .ite (.copyRing (.ringHalt h)) (.ringHalt h)

theorem Keeps.stopCopied {s z : State} {n : Nat} (h : Keeps s z) : Keeps s (stopCopied n z) :=
  .ite (.copyRing (.ringOp h)) (.ringOp h)

theorem Keeps.offCopied {s z : State} {n : Nat} (h : Keeps s z) : Keeps s (offCopied n z) :=
  .ite (.copyRing (.ringOp h)) (.ringOp h)

theorem Keeps.dmaRingCmd {s z : State} {v : BitVec 32} {err : BeatErr} (h : Keeps s z) : Keeps s (dmaRingCmd v err z) := by
  unfold Machine.dmaRingCmd
  refine .ite (.hostReject h) ?_
  split
  · exact .ringOp h
  · exact .stopCopied h
  · exact .ringOp h
  · exact .offCopied h
  · exact .ringFlush h
  · exact .dmaErr h

theorem Answers.execRingInit {s z : State} {who : Who} {look : RingLook} (h : Keeps s z) : Answers s (execRingInit who look z) :=
  .next (.regWrite h fun _ hz => .dmaRingCmd hz)

theorem Answers.execRingStop {s z : State} {who : Who} {ring : Nat} (h : Keeps s z) : Answers s (execRingStop who ring z) :=
  .next (.regWrite h fun _ hz => .dmaRingCmd hz)

theorem Answers.execRingResume {s z : State} {who : Who} {look : RingLook} (h : Keeps s z) :
    Answers s (execRingResume who look z) :=
  .next (.regWrite h fun _ hz => .dmaRingCmd hz)

theorem Answers.execRingOff {s z : State} {who : Who} {ring : Nat} (h : Keeps s z) : Answers s (execRingOff who ring z) :=
  .next (.regWrite h fun _ hz => .dmaRingCmd hz)

theorem Answers.execRingFlush {s z : State} {who : Who} {ring : Nat} (h : Keeps s z) : Answers s (execRingFlush who ring z) :=
  .next (.regWrite h fun _ hz => .dmaRingCmd hz)

theorem Answers.execDoorbellWrite {s z : State} {look : RingLook} {lo hi : Option (BitVec 32)} {ep : Bool} (h : Keeps s z) :
    Answers s (execDoorbellWrite look lo hi ep z) := by
  unfold Machine.execDoorbellWrite
  refine .ite (.next h) (.ite (.next (.hostWrite h fun _ hz => hz)) (.ite (.next (.hostReject (.linkUse h))) (.ite (.next
      (.countGated (.linkUse h))) ?_)))
  split
  · exact .next (.linkUse h)
  · exact .ite (.next (.countBell (.linkUse h))) (.next (.ringOp (.linkUse h)))

theorem Keeps.updFifo {s z : State} {k : Nat} {f : DmaFifo → DmaFifo} (h : Keeps s z) : Keeps s (z.updFifo k f) := h

theorem Keeps.fifoTake {s z : State} {k n : Nat} (h : Keeps s z) : Keeps s (fifoTake k n z) := .updFifo h

theorem Keeps.fifoCfgWrite {s z : State} {k : Nat} {v : BitVec 64} (h : Keeps s z) : Keeps s (fifoCfgWrite k v z) := .updFifo h

theorem Answers.execDmaFifoCfgWrite {s z : State} {who : Who} {fifo : Nat} {value : BitVec 64} (h : Keeps s z) :
    Answers s (execDmaFifoCfgWrite who fifo value z) :=
  .next (.ite (.regWrite h fun _ hz => .fifoCfgWrite hz) h)

theorem Keeps.fifoTakeWrite {s z : State} {k : Nat} {v : BitVec 32} (h : Keeps s z) : Keeps s (fifoTakeWrite k v z) :=
  .ite (.dmaErr h) (.fifoTake h)

theorem Answers.execDmaFifoTakeWrite {s z : State} {who : Who} {fifo : Nat} {value : BitVec 32} (h : Keeps s z) :
    Answers s (execDmaFifoTakeWrite who fifo value z) :=
  .next (.ite (.regWrite h fun _ hz => .fifoTakeWrite hz) h)

theorem Answers.execTake {s z : State} {tile : Nat} {urgent : Bool} (h : Keeps s z) : Answers s (execTake tile urgent z) := by
  unfold Machine.execTake
  split
  · exact .next h
  · exact .ite (.next (.malformed (.dmaErr h))) (.next (.advanceList (.ite (.countGated h) (.markSent (.fifoTake h)))))

theorem Answers.execDoorbell {s z : State} {list : StepRef} {err : BeatErr} (h : Keeps s z) :
    Answers s (execDoorbell list err z) := by
  unfold Machine.execDoorbell
  split
  · dsimp only
    split
    · exact .next h
    · exact .ite (.next (.malformed (.dmaErr h))) (.next (.advanceList (.countGated h)))
  · dsimp only
    split
    · exact .next h
    · exact .ite (.next (.malformed (.dmaErr h))) (.ite (.next h) (.next (.ringOp h)))

theorem Keeps.updCq {s z : State} {q : Nat} {f : DmaCq → DmaCq} (h : Keeps s z) : Keeps s (z.updCq q f) := h

theorem Keeps.cqCfgWrite {s z : State} {who : Who} {n : Nat} {v : BitVec 32} (h : Keeps s z) : Keeps s (cqCfgWrite who n v z) :=
  .ite (.mirrorCqRegs (.updCq h)) (.updCq h)

theorem Answers.execCqEnable {s z : State} {who : Who} {cq : Nat} {value : BitVec 32} (h : Keeps s z) :
    Answers s (execCqEnable who cq value z) :=
  .next (.ite (.regWrite h fun _ hz => .cqCfgWrite hz) h)

theorem Keeps.cqHeadWrite {s z : State} {who : Who} {n : Nat} {v : BitVec 32} (h : Keeps s z) : Keeps s (cqHeadWrite who n v z) :=
  .ite (.mirrorCqRegs (.updCq h)) (.updCq h)

theorem Answers.execCqHeadWrite {s z : State} {who : Who} {cq : Nat} {value : BitVec 32} (h : Keeps s z) :
    Answers s (execCqHeadWrite who cq value z) :=
  .next (.ite (.regWrite h fun _ hz => .cqHeadWrite hz) h)

theorem Keeps.cqBaseWrite {s z : State} {who : Who} {n : Nat} {v : BitVec 64} (h : Keeps s z) : Keeps s (cqBaseWrite who n v z) :=
  .ite h (.ite (.mirrorCqRegs (.updCq h)) (.updCq h))

theorem Keeps.dropWork {s z : State} {w : DmaWork} (h : Keeps s z) : Keeps s (dropWork w z) :=
  .ite (.updFifo (.copyRing (.updLive (.updCtx h)))) (.copyRing (.updLive (.updCtx h)))

theorem Keeps.ringCut {s z : State} {c n : Nat} (h : Keeps s z) : Keeps s (ringCut c z n) :=
  .ite (.copyRing (.updLive (.notWaiting h))) h

theorem Keeps.dropReads {s z : State} {c : Nat} (h : Keeps s z) : Keeps s (dropReads c z) :=
  .setDmaLine (.ddrCh h (List.length_map _))

theorem Keeps.chanDisable {s z : State} {c : Nat} (h : Keeps s z) : Keeps s (chanDisable c z) := by
  unfold Machine.chanDisable
  extract_lets x s1 s2 s3
  have h1 : Keeps s s1 := .dropReads (.foldl h fun _ _ hz => .ringCut hz)
  have h2 : Keeps s s2 := by
    dsimp only [s2]
    split
    · exact .dropWork h1
    · exact h1
  have h3 : Keeps s s3 := .updDch h2
  exact .dma h3 rfl

theorem Keeps.chCtrlWrite {s z : State} {c : Nat} {v : BitVec 32} (h : Keeps s z) : Keeps s (chCtrlWrite c v z) :=
  .ite (.chanDisable h) (.updDch h)

theorem Answers.execChannelDisable {s z : State} {who : Who} {ch : Nat} (h : Keeps s z) :
    Answers s (execChannelDisable who ch z) :=
  .next (.ite (.regWrite h fun _ hz => .chCtrlWrite hz) h)

theorem Answers.execDmaCntClr {s z : State} {who : Who} {value : BitVec 32} (h : Keeps s z) : Answers s (execDmaCntClr who value z) :=
  .next (.regWrite h fun _ hz => .dma hz rfl)

/-! ### Operations of Machine/DmaRun -/

theorem Keeps.readSlot {s z : State} {c : Nat} {slot : BitVec 64} {host : HostAns} {ecc : LineEcc} {err : BeatErr} (h : Keeps s z) :
    Keeps s (readSlot c slot host ecc err z).2 := by
  have hl : Keeps s z.linkUse := .linkUse h
  have hd := Keeps.dmaReadLine (d := c) (l := aByte slot / 128) (ecc := ecc) (be := err) h
  simp only [Machine.readSlot, apply_ite Prod.snd]
  refine .ite ?_ (.ite h hd)
  split <;> assumption

theorem Keeps.consume {s z : State} {c n : Nat} {slot : BitVec 64} {d : BitVec 512} (h : Keeps s z) :
    Keeps s (consume c n slot d z) :=
  .updDch (.updLive (.updCtx h))

theorem Keeps.seqGap {s z : State} {c n : Nat} {d : BitVec 512} (h : Keeps s z) : Keeps s (seqGap c n d z) := .updDch (.updLive h)

theorem Answers.execDescFetch {s z : State} {ch : Nat} {host : HostAns} {ecc : LineEcc} {err : BeatErr} (h : Keeps s z) :
    Answers s (execDescFetch ch host ecc err z) := by
  unfold Machine.execDescFetch
  refine .ite (.next h) ?_
  split
  · exact .next (.ringOp h)
  · split
    · exact .next h
    · refine .ite (.next (.updLive h)) (.ite (.next (.dmaAsk h)) ?_)
      split
      next got s1 e =>
      have h1 : Keeps s s1 := .pair (.readSlot h) e
      split
      · exact .next h1
      · extract_lets s2
        have h2 : Keeps s s2 := .updCtx (.updDch h1)
        exact .ite (.next (.updLive (.same h2 rfl))) (.ite (.next (.seqGap h2)) (.next (.consume h2)))

theorem Keeps.dmaNarrowRead {s : State} {t : Nat} : ∀ {l : List (Nat × List (BitVec 8))} {z : State}, Keeps s z →
    Keeps s (dmaNarrowRead t l z).2
  | [], _, h => h
  | _ :: _, _, h => by
    unfold Machine.dmaNarrowRead
    exact dmaNarrowRead (.tsPerr h)

theorem Keeps.dmaTileRead {s z : State} {t b n : Nat} (h : Keeps s z) : Keeps s (dmaTileRead t b n z).2 :=
  .ite_snd (.countGated h) (.ite_snd h (.ite_snd (.tsPerr h) (.dmaNarrowRead h)))

theorem Keeps.readUnit {s z : State} {c : Nat} {a : BitVec 64} {b n : Nat} {host : HostAns} {ecc : LineEcc} {err : BeatErr}
    {ce : Nat} {ue : Bool} {met : UnitMet} (h : Keeps s z) :
    Keeps s (readUnit c a b n host ecc err ce ue met z).2 := by
  unfold Machine.readUnit
  refine .ite_snd h ?_
  split
  · refine .ite_snd h ?_
    split
    · exact .linkUse h
    · exact .linkUse h
    · exact .linkUse h
  · exact .dmaReadLine h
  · exact .ite_snd (.countMorPerr (.countTransit (.lostCycles h))) (.dmaTileRead (.countTransit (.lostCycles h)))
  · exact .ite_snd (.countGated h) (.hodEcc h)

theorem Keeps.dmaNarrowWrite {s : State} {t : Nat} : ∀ {l : List (Nat × List (BitVec 8))} {z : State}, Keeps s z →
    Keeps s (dmaNarrowWrite t l z).2
  | [], _, h => h
  | _ :: _, _, h => by
    unfold Machine.dmaNarrowWrite
    exact dmaNarrowWrite (.ite (.tsPerr h) (.putTs h (.writeNarrow (.refl _))))

theorem Keeps.dmaTileWrite {s z : State} {t b : Nat} {bs : List (BitVec 8)} (h : Keeps s z) : Keeps s (dmaTileWrite t b bs z).2 :=
  .ite_snd (.countGated h) (.ite_snd h (.ite_snd (.updTs h fun _ => .writeCourse (.refl _)) (.dmaNarrowWrite h)))

theorem Keeps.dmaHodWrite {s z : State} {course : Nat} {bs : List (BitVec 8)} (h : Keeps s z) : Keeps s (dmaHodWrite course bs z) :=
  .ite (.countGated h) (h.of_fit rfl fun ⟨hs, hm, hp⟩ => ⟨hs, Memory.wf_hodCourse _ _ hm, hp⟩)

theorem Keeps.writeUnit {s z : State} {ch : Nat} {a : BitVec 64} {b : Nat} {bs : List (BitVec 8)} (h : Keeps s z) :
    Keeps s (writeUnit ch a b bs z).2 := by
  unfold Machine.writeUnit
  refine .ite_snd h ?_
  split
  · exact .ite_snd (.toHost h) h
  · exact .dmaDdrWrite h
  · exact .dmaTileWrite h
  · exact .dmaHodWrite h

theorem Keeps.fifoCount {s z : State} {k : Nat} (h : Keeps s z) : Keeps s (fifoCount k z) := .updFifo h

theorem Keeps.keepWork {s z : State} {c : Nat} {w : DmaWork} (h : Keeps s z) : Keeps s (keepWork c w z) := .ite h (.updDch h)

theorem Keeps.sendUnit {s z : State} {ch tile : Nat} {byte n : Nat} {w : DmaWork} {data : List (BitVec 8)} (h : Keeps s z) :
    Keeps s (sendUnit ch tile byte n w data z) :=
  .keepWork (.inflightAdd (.crossing h))

theorem Keeps.fifoUnit {s z : State} {ch k n : Nat} {w : DmaWork} (h : Keeps s z) : Keeps s (fifoUnit ch k n w z) :=
  .ite (.updDch h) (.ite (.keepWork h) (.ite (.sendUnit (.fifoCount h)) (.keepWork (.dmaHodWrite (.fifoCount h)))))

theorem Keeps.putUnit {s z : State} {ch n : Nat} {w : DmaWork} (h : Keeps s z) : Keeps s (putUnit ch n w z) := by
  unfold Machine.putUnit
  split
  · exact .fifoUnit h
  · exact .ite (.sendUnit h) (.keepWork (.writeUnit h))

theorem Answers.execDmaUnitTransfer {s z : State} {ch : Nat} {host : HostAns} {ecc : LineEcc} {err : BeatErr} {hodCe : Nat}
    {hodUe : Bool} {met : UnitMet} (h : Keeps s z) :
    Answers s (execDmaUnitTransfer ch host ecc err hodCe hodUe met z) := by
  unfold Machine.execDmaUnitTransfer
  refine .ite (.next h) ?_
  split
  · exact .next h
  · exact .ite (.next (.ite h (.putUnit h))) (.ite (.next h) (.ite (.next (.dmaAsk h)) (.next (.keepWork (.readUnit h)))))

theorem Keeps.putDone {s z : State} {m : DmaPut} {cause got : Nat} (h : Keeps s z) : Keeps s (putDone m cause got z) := by
  unfold Machine.putDone
  split
  · exact .ite h (.keepWork h)
  · exact h

theorem Keeps.putArrive {s z : State} {i jitter lost : Nat} {bad : Bool} (h : Keeps s z) :
    Keeps s (putArrive i jitter lost bad z) := by
  unfold Machine.putArrive
  split
  · exact h
  · extract_lets _ s1
    have hs1 : Keeps s s1 := .countTransit (.inflightSub h)
    exact .ite (.putDone hs1) (.ite (.putDone (.countMorPerr hs1)) (.putDone (.dmaTileWrite (.lostCycles hs1))))

theorem Answers.execCompletionTimeout {s z : State} {ch : Nat} (h : Keeps s z) : Answers s (execCompletionTimeout ch z) := by
  unfold Machine.execCompletionTimeout
  split
  · exact .ite (.next (.keepWork (.toHost h))) (.next h)
  · exact .next h

theorem Answers.execDmaPaceResume {s z : State} {ch : Nat} (h : Keeps s z) : Answers s (execDmaPaceResume ch z) := by
  unfold Machine.execDmaPaceResume
  split
  · exact .ite (.next (.updDch h)) (.next h)
  · exact .next h

theorem Keeps.finishDesc {s z : State} {c : Nat} {w : DmaWork} (h : Keeps s z) : Keeps s (finishDesc c w z) := by
  unfold Machine.finishDesc
  extract_lets _ s1 _ s2 s2' s3
  have hs1 : Keeps s s1 := .updLive h
  have hs2 : Keeps s s2 := hs1
  have hs2' : Keeps s s2' := .ite (.copyRing hs2) hs2
  have hs3 : Keeps s s3 := .updDch hs2'
  exact .ite (.pulse hs3) hs3

theorem Keeps.ownBack {s z : State} {w : DmaWork} (h : Keeps s z) : Keeps s (ownBack w z) :=
  .ite (.ite (.toHost h) h) (.dmaDdrWrite h)

theorem Answers.execDescComplete {s z : State} {ch : Nat} (h : Keeps s z) : Answers s (execDescComplete ch z) := by
  unfold Machine.execDescComplete
  dsimp only
  split
  · exact .ite (.next h) (.ite (.next (.updDch (.ite_snd (.updCtx (.ownBack h)) (.updCtx (.ownBack h))))) (.next (.finishDesc
        (.updCtx (.ownBack h)))))
  · exact .next h

theorem Keeps.putRecord {s z : State} {q : DmaCq} {slot : Nat} {bits : BitVec 256} (h : Keeps s z) :
    Keeps s (putRecord q slot bits z) :=
  .ite (.toHost h) (.ite (.dmaDdrWrite h) h)

theorem Keeps.reserve {s z : State} {r : CqRecord} (h : Keeps s z) : Keeps s (reserve r z).2 :=
  .same (z := z.updCq r.cq DmaCq.advance) (.updCq h) rfl

theorem Keeps.landRecord {s z : State} {c : Nat} {r : CqRecord} {h' : HeldRecord} (h : Keeps s z) :
    Keeps s (landRecord c r h' z) := by
  unfold Machine.landRecord
  split
  · exact .finishDesc (.updDch (.ite (.devSource (.putRecord h)) (.putRecord h)))
  · exact .updDch (.ite (.devSource (.putRecord h)) (.putRecord h))

theorem Keeps.sendState {s z : State} {c : Nat} {r : CqRecord} (h : Keeps s z) : Keeps s (sendState c r z) := by
  unfold Machine.sendState
  split
  next x s1 e =>
  have h1 : Keeps s s1 := .pair (.reserve h) e
  extract_lets q s2 w
  have h2 : Keeps s s2 := .bondSend h1
  exact .updDch (.same h2 rfl)

theorem Keeps.countHeld {s z : State} {n : Nat} (h : Keeps s z) : Keeps s (countHeld n z) := h

theorem Keeps.dropRecord {s z : State} {c : Nat} (h : Keeps s z) : Keeps s (dropRecord c z) := by
  unfold Machine.dropRecord
  split
  · exact .finishDesc (.updDch h)
  · exact .updDch h

theorem Keeps.rewriteHeld {s z : State} (h : Keeps s z) : Keeps s (rewriteHeld z) :=
  .foldl h fun _ _ hz => .ite (.putRecord hz) hz

theorem Keeps.takeoverRecord {s z : State} {q : Nat} (h : Keeps s z) : Keeps s (takeoverRecord q z) := .landRecord (.reserve h)

theorem Keeps.takeoverRecords {s z : State} (h : Keeps s z) : Keeps s (takeoverRecords z) :=
  .foldl h fun _ _ hz => .ite (.takeoverRecord hz) hz

theorem Answers.execCqRecordWrite {s z : State} {ch held : Nat} (h : Keeps s z) : Answers s (execCqRecordWrite ch held z) := by
  unfold Machine.execCqRecordWrite
  split
  · exact .next (.ite h (.takeoverRecords (.rewriteHeld h)))
  · refine .ite (.next h) (.ite (.next (.dropRecord h)) ?_)
    split
    · exact .ite (.next (.landRecord (.countHeld h))) (.next (.ite h (.countHeld h)))
    · exact .ite (.next (.countHeld h)) (.ite (.next h) (.ite (.next (.sendState (.countHeld h))) (.next (.landRecord (.reserve
          (.countHeld h))))))

/-! ### Operations of Machine/Drain -/

theorem Answers.execDrainCmd {s z : State} {tile : Nat} (h : Keeps s z) : Answers s (execDrainCmd tile z) := by
  unfold Machine.execDrainCmd
  split
  · exact .next h
  · refine .ite (.next h) ?_
    split
    · split
      · dsimp only
        split
        · exact .next (.malformed (.arrErr h))
        · exact .next (.malformed (.hodErr (.arrErr h)))
      · dsimp only
        split
        · exact .next (.malformed (.arrErr h))
        · exact .next (.passCheck h)
    · split
      · dsimp only
        split
        · exact .next (.malformed (.arrErr h))
        · exact .next (.malformed (.hodErr (.arrErr h)))
      · dsimp only
        split
        · exact .next (.malformed (.arrErr h))
        · exact .next (.passCheck h)

theorem ExKeeps.readParams {s : State} {t : Nat} {c : EngCmd} : ∀ {l : List Nat} {z : State}, Keeps s z →
    ExKeeps s (readParams t c l z)
  | [], _, h => .mk_ok (.ite (.retireRanges h) h)
  | _ :: _, _, h => by
    unfold Machine.readParams
    split
    · exact .mk_error (ValKeeps.error (.engRead h) ‹_›)
    · exact readParams (.updDrn (ValKeeps.ok (.engRead h) ‹_›))

theorem ExKeeps.withParams {s z : State} {t : Nat} {c : EngCmd} (h : Keeps s z) : ExKeeps s (withParams t c z) :=
  .ite (.readParams (.updDrn h)) (.mk_ok h)

theorem ValKeeps.sumaOf {s z : State} {t : Nat} {c : EngCmd} {m k : Nat} (h : Keeps s z) : ValKeeps s (sumaOf t c m k z) := by
  unfold Machine.sumaOf
  refine .ite (.mk_ok h) ?_
  dsimp only
  split
  · refine .mk_error (ExKeeps.error (.ite ?_ (.mk_ok h)) ‹_›)
    split
    · exact .mk_error (ValKeeps.error (.engRead h) ‹_›)
    · exact .mk_ok (.updDrn (ValKeeps.ok (.engRead h) ‹_›))
  · refine .mk_ok (ExKeeps.ok (.ite ?_ (.mk_ok h)) ‹_›)
    split
    · exact .mk_error (ValKeeps.error (.engRead h) ‹_›)
    · exact .mk_ok (.updDrn (ValKeeps.ok (.engRead h) ‹_›))

theorem ValKeeps.corrOf {s z : State} {t : Nat} {c : EngCmd} {p : BitVec 512} {m : Nat} {k : Nat} (h : Keeps s z) : 
    ValKeeps s (corrOf t c p m k z) := by
  unfold Machine.corrOf
  refine .ite (.mk_ok h) ?_
  split
  · exact .mk_error (ValKeeps.error (.sumaOf h) ‹_›)
  · have h1 := ValKeeps.ok (.sumaOf h) ‹_›
    exact .ite (.mk_ok (.draw (w := 2048) h1)) (.mk_ok h1)

theorem Keeps.bankRead {s z : State} {t b : Nat} {sce : Bool} (h : Keeps s z) : Keeps s (bankRead t b sce z) :=
  .ite (.updSce h) (.updArr h)

theorem Keeps.drainOut {s z : State} {t : Nat} {c : EngCmd} {o m : Nat} {ys : List Nat} {last : Bool} (h : Keeps s z) :
    Keeps s (drainOut t c o m ys last z) :=
  .ite (.updDrn h) (.updDrn h)

theorem Keeps.rowsDone {s z : State} {t : Nat} {c : EngCmd} {i n : Nat} (h : Keeps s z) : Keeps s (rowsDone t c i n z) :=
  .retireRanges h

theorem Keeps.drainEnd {s z : State} {t : Nat} {c : EngCmd} {p : BitVec 512} (h : Keeps s z) : Keeps s (drainEnd t c p z) :=
  .ite (.popCmd (.updDrn (.ite (.retireRanges h) h))) h

theorem Answers.execDrainRowRead {s z : State} {tile : Nat} {held : Held} (h : Keeps s z) :
    Answers s (execDrainRowRead tile held z) := by
  unfold Machine.execDrainRowRead
  split
  · exact .next h
  · split
    · exact .next h
    · extract_lets d q b sce ready s0 k last
      have h0 : Keeps s s0 := .beginCmd (.charge h)
      clear_value s0
      refine .ite (.next h) ?_
      split
      · exact .next (ExKeeps.error (.withParams h0) ‹_›)
      · have h1 := ExKeeps.ok (.withParams h0) ‹_›
        split
        · exact .next (ValKeeps.error (.corrOf h1) ‹_›)
        · have h2 := ValKeeps.ok (.corrOf h1) ‹_›
          extract_lets x row ys s3 s4 s5
          have h5 : Keeps s s5 := .rowsDone (.updDrn (.bankRead (.drainOut h2)))
          exact .next (.ite (.drainEnd h5) h5)

theorem Keeps.pushHod {s z : State} {t : Nat} {h' : HodCourse} (h : Keeps s z) : Keeps s (pushHod t h' z) :=
  .updTile h fun _ => .refl _

theorem ExKeeps.engPiece {s z : State} {t : Nat} {u : Bool} {w : DrainWrite} (h : Keeps s z) : ExKeeps s (engPiece t u w z) := by
  unfold Machine.engPiece
  split
  · exact .mk_error h
  · exact .ite (.mk_error (.stepFault h)) (.mk_ok (.updTs h fun _ => .writeNarrow (.refl _)))

theorem Answers.execDrainCourseWrite {s z : State} {tile : Nat} {held : Held} (h : Keeps s z) :
    Answers s (execDrainCourseWrite tile held z) := by
  unfold Machine.execDrainCourseWrite
  split
  · exact .next h
  · split
    · refine .ite (.next h) (.ite (.ite (.next h) (.next (.drainEnd (.updDrn (.pushHod (.charge h)))))) ?_)
      split
      · dsimp only
        split
        · exact .next (ExKeeps.error (.engWrite (.charge h)) ‹_›)
        · exact .next (.drainEnd (.updDrn (ExKeeps.ok (.engWrite (.charge h)) ‹_›)))
      · dsimp only
        split
        · exact .next (ExKeeps.error (.engPiece (.charge h)) ‹_›)
        · exact .next (.drainEnd (.updDrn (ExKeeps.ok (.engPiece (.charge h)) ‹_›)))
    · exact .next h

theorem Answers.execDrnCntClr {s z : State} {who : Who} {tile : Nat} {value : BitVec 32} (h : Keeps s z) :
    Answers s (execDrnCntClr who tile value z) :=
  .next (.ite (.regWrite h fun _ hz => .updDrn hz) h)

/-! ### Operations of Machine/MortarOps -/

theorem Keeps.chargeSender {s z : State} {t : Nat} {u : Bool} {start jitter link : Nat} (h : Keeps s z) :
    Keeps s (chargeSender t u start jitter link z) :=
  .countTransit (.ite (.updRun h) h)

theorem Keeps.updMsend {s z : State} {t : Nat} {f : EngCmd → EngCmd} (h : Keeps s z) : Keeps s (updMsend t f z) := .updQ h

theorem Answers.execMsend {s z : State} {tile : Nat} {held : Held} (h : Keeps s z) : Answers s (execMsend tile held z) := by
  unfold Machine.execMsend
  refine .ite (.next h) ?_
  split
  · dsimp only
    split
    · exact .next h
    · split
      · exact .next (ValKeeps.error (.engRead (.charge h)) ‹_›)
      · have h1 := ValKeeps.ok (.engRead (.charge h)) ‹_›
        exact .next (.updMsend (.updTile (.inflightAdd (.same (.crossing h1) rfl)) fun _ => .of_units (.refl _) (.refl _) (.refl _)))
  · split
    · exact .next h
    · split
      · exact .next (.malformed (.arrErr h))
      · exact .next (.passCheck h)

theorem Keeps.msendArrive {s z : State} {i jitter lost : Nat} {bad : Bool} (h : Keeps s z) :
    Keeps s (msendArrive i jitter lost bad z) := by
  unfold Machine.msendArrive
  split
  · exact h
  · exact .ite (.chargeSender (.inflightSub h)) (.ite (.countGated (.chargeSender (.inflightSub h))) (.ite (.countMorPerr
        (.chargeSender (.inflightSub h))) (.ite (.markSent (.updTs (.lostCycles (.chargeSender (.inflightSub h)))
        fun _ => .writeCourse (.refl _))) (.updTs (.lostCycles (.chargeSender (.inflightSub h))) fun _ => .writeCourse
        (.refl _)))))

theorem Answers.execMortarCourseArrive {s z : State} {course : MorCourse} {met : Transit} {bad : Bool} (h : Keeps s z) :
    Answers s (execMortarCourseArrive course met bad z) := by
  unfold Machine.execMortarCourseArrive
  split
  · exact .next (.msendArrive h)
  · exact .next (.putArrive h)

theorem Answers.execMsendAck {s z : State} {i jitter : Nat} (h : Keeps s z) : Answers s (execMsendAck i jitter z) := by
  unfold Machine.execMsendAck
  split
  · exact .next h
  · refine .ite (.next (.chargeSender h)) (.ite (.next (.stepFault (.chargeSender h))) (.ite (.next (.chargeSender h)) ?_))
    split
    · exact .next (.chargeSender h)
    · split
      · exact .next (.pulse (.retireRanges (.updQ (.chargeSender h))))
      · exact .next (.retireRanges (.updQ (.chargeSender h)))

theorem TileKeeps.latchLines {x : Tile} {n : Nat} {lines : BitVec 64} : TileKeeps x (latchLines n lines x) :=
  .of_units (.refl _) (.refl _) (.refl _)

theorem Keeps.latchAt {s z : State} {lines : BitVec 64} {t : Nat} (h : Keeps s z) : Keeps s (latchAt lines z t) :=
  .ite h (.ite (.countGated h) (.updTile h fun _ => .latchLines))

theorem Keeps.latchPulses {s z : State} (h : Keeps s z) : Keeps s (latchPulses z) := by
  unfold Machine.latchPulses
  split
  · exact h
  · exact .foldl h fun _ _ hz => .latchAt hz

theorem Answers.execEvtLatch {s z : State} (h : Keeps s z) : Answers s (execEvtLatch z) := .next (.ite (.latchPulses h) h)

theorem Keeps.morRefuse {s z : State} (h : Keeps s z) : Keeps s (morRefuse z) := .ite h (.devSource h)

theorem Keeps.morCommit {s z : State} {e : BitVec 8} (h : Keeps s z) : Keeps s (morCommit e z) :=
  .ite (.morRefuse h) (.mixedCheck h)

theorem Answers.execMorCommit {s z : State} {who : Who} {value : BitVec 32} (h : Keeps s z) :
    Answers s (execMorCommit who value z) :=
  .next (.regWrite h fun _ hz => .morCommit hz)

theorem Answers.execModeCommitDeliver {s z : State} (h : Keeps s z) : Answers s (execModeCommitDeliver z) :=
  .next (.ite h (.foldl h fun _ _ hz => .ite (.updSt hz) hz))

theorem Answers.execModeApply {s z : State} {tile : Nat} (h : Keeps s z) : Answers s (execModeApply tile z) := by
  unfold Machine.execModeApply
  extract_lets x s1
  have h1 : Keeps s s1 := .updSt (.applyMode h)
  exact .ite (.next (.same h1 rfl)) (.next h)

theorem Answers.execModeReport {s z : State} {tile : Nat} (h : Keeps s z) : Answers s (execModeReport tile z) :=
  .ite (.next (.morLeave h)) (.next h)

theorem Answers.execMixedClearSeen {s z : State} (h : Keeps s z) : Answers s (execMixedClearSeen z) :=
  .next (.foldl h fun _ _ hz => .ite (.updSt hz) hz)

theorem Answers.execMorCntClr {s z : State} {who : Who} {value : BitVec 32} (h : Keeps s z) :
    Answers s (execMorCntClr who value z) :=
  .next (.regWrite h fun _ hz => hz)

/-! ### Operations of Machine/HostOps -/

theorem Keeps.countOor {s z : State} (h : Keeps s z) : Keeps s (countOor z) := h

theorem Keeps.bar2Put {s : State} : ∀ {fuel a : Nat} {bs : List (BitVec 8)} {z : State}, Keeps s z → Keeps s (bar2Put fuel a bs z)
  | 0, _, _, _, h => h
  | _ + 1, _, _, _, h => .ite h (bar2Put (.dmaDdrWrite h))

theorem Answers.execHostBar2Write {s z : State} {off : Nat} {bytes : List (BitVec 8)} {ep : Bool} (h : Keeps s z) :
    Answers s (execHostBar2Write off bytes ep z) :=
  .ite (.next h) (.ite (.next (.hostWrite h fun _ hz => hz)) (.ite (.next (.hostReject (.linkUse h))) (.ite (.next (.countOor
      (.linkUse h))) (.ite (.next (.toHost h)) (.next (.bar2Put (.linkUse h)))))))

theorem Keeps.bar2Line {s z : State} {tag : Nat} {be : BeatErr} {l : Nat} (h : Keeps s z) : Keeps s (bar2Line tag be l z).2 :=
  .ite_snd (.countGated h) (.ite_snd (.ddrErr (.ddrOpen h)) (.ddrRequest h))

theorem Keeps.bar2Get {s : State} {tag : Nat} : ∀ {ls : List Nat} {errs : List BeatErr} {z : State}, Keeps s z →
    Keeps s (bar2Get tag errs ls z).2
  | [], _, _, h => h
  | _ :: _, _, _, h => by
    unfold Machine.bar2Get
    exact bar2Get (.bar2Line h)

theorem Keeps.bar2Answer {s z : State} {r : BarRead} (h : Keeps s z) : Keeps s (bar2Answer r z) := .toHost h

theorem Keeps.bar2Keep {s z : State} {r : BarRead} (h : Keeps s z) : Keeps s (bar2Keep r z) := .ite (.bar2Answer h) h

theorem Keeps.bar2Got {s z : State} {tag l : Nat} {d : BitVec 1024 × Bool} (h : Keeps s z) : Keeps s (bar2Got tag l d z) := by
  unfold Machine.bar2Got
  split
  · exact h
  · exact .ite (.bar2Answer h) h

theorem Answers.execHostBar2Read {s z : State} {off len : Nat} {errs : List BeatErr} (h : Keeps s z) :
    Answers s (execHostBar2Read off len errs z) :=
  .ite (.next h) (.ite (.next (.toHost h)) (.ite (.next (.toHost h)) (.ite (.next (.toHost (.countOor h))) (.ite (.next
      (.toHost h)) (.next (.bar2Keep (.bar2Get (.linkUse h))))))))

theorem Keeps.stopHostRings {s z : State} (h : Keeps s z) : Keeps s (stopHostRings z) :=
  .foldl h fun _ _ hz => .ite (.haltCopied hz) hz

theorem Keeps.functionReset {s z : State} (h : Keeps s z) : Keeps s (functionReset z) :=
  .same (.dma (.stopHostRings h) (List.length_map _)) rfl

theorem Answers.execFlr {s z : State} (h : Keeps s z) : Answers s (execFlr z) := .next (.ite (.functionReset h) h)

theorem Keeps.linkDown {s z : State} (h : Keeps s z) : Keeps s (linkDown z) := .functionReset h

theorem Answers.execLinkDown {s z : State} (h : Keeps s z) : Answers s (execLinkDown z) := .next (.ite (.linkDown h) h)

theorem Answers.execPerstAssert {s z : State} (h : Keeps s z) : Answers s (execPerstAssert z) := .next (.ite (.linkDown h) h)

theorem Answers.execPerstRelease {s z : State} (h : Keeps s z) : Answers s (execPerstRelease z) := .next h

theorem Answers.execPcieLinkUp {s z : State} {width speed : BitVec 3} {flit : Bool} (h : Keeps s z) :
    Answers s (execPcieLinkUp width speed flit z) :=
  .ite (.next (.linkUse h)) (.next h)

theorem Answers.execPcieL1Enter {s z : State} (h : Keeps s z) : Answers s (execPcieL1Enter z) := .next (.ite h h)

theorem Answers.execPcieConfigWrite {s z : State} {field : PcieCfg} {ep : Bool} (h : Keeps s z) :
    Answers s (execPcieConfigWrite field ep z) := by
  unfold Machine.execPcieConfigWrite
  refine .ite (.next h) ?_
  split
  · exact .next (.toHost h)
  · exact .next (.ite (.toHost h) h)

theorem Answers.execMsixSend {s z : State} {vector : Nat} (h : Keeps s z) : Answers s (execMsixSend vector z) :=
  .ite (.next (.toHost h)) (.next h)

theorem Keeps.postBytes {s : State} : ∀ {fuel a : Nat} {bs : List (BitVec 8)} {z : State}, Keeps s z → Keeps s (postBytes fuel a bs z)
  | 0, _, _, _, h => h
  | _ + 1, _, _, _, h => .ite h (postBytes (.toHost h))

theorem Keeps.hbWrite {s z : State} (h : Keeps s z) : Keeps s (hbWrite z) := .toHost (.postBytes (.postBytes (.toHost h)))

theorem Answers.execHeartbeatDue {s z : State} {busy : Bool} (h : Keeps s z) : Answers s (execHeartbeatDue busy z) :=
  .ite (.next h) (.ite (.next (.devSource h)) (.ite (.next (.hbWrite h)) (.next h)))

theorem Keeps.hbCtrlWrite {s z : State} {v : BitVec 32} (h : Keeps s z) : Keeps s (hbCtrlWrite v z) := h

theorem Answers.execHbCtrlWrite {s z : State} {who : Who} {value : BitVec 32} (h : Keeps s z) :
    Answers s (execHbCtrlWrite who value z) :=
  .next (.regWrite h fun _ hz => .hbCtrlWrite hz)

theorem Answers.execDevCntClr {s z : State} {who : Who} {value : BitVec 32} (h : Keeps s z) :
    Answers s (execDevCntClr who value z) :=
  .next (.regWrite h fun _ hz => hz)

theorem Keeps.updMb {s z : State} {n : Nat} {f : ResMb → ResMb} (h : Keeps s z) : Keeps s (z.updMb n f) := h

theorem Keeps.resErr {s z : State} {cause tile cmd : Nat} (h : Keeps s z) : Keeps s (resErr cause tile cmd z) := h

theorem Answers.execPost {s z : State} {tile : Nat} {urgent : Bool} {lost : Nat} (h : Keeps s z) :
    Answers s (execPost tile urgent lost z) := by
  unfold Machine.execPost
  split
  · exact .next h
  · split
    · exact .next (.malformed (.resErr h))
    · exact .ite (.next (.stepFault h)) (.ite (.next (.stepFault (.tsPerr (.updTs (.lostCycles h) fun _ => .countOff (.refl _)))))
          (.next (.advanceList (.markSent (.ite (.devSource (.updMb (.tsPerr (.updTs (.lostCycles h) fun _ => .countOff
          (.refl _))))) (.updMb (.tsPerr (.updTs (.lostCycles h) fun _ => .countOff (.refl _)))))))))

theorem Keeps.resAck {s z : State} {n : Nat} {v : BitVec 32} (h : Keeps s z) : Keeps s (resAck n v z) := .ite (.updMb h) h

theorem Answers.execResAckWrite {s z : State} {who : Who} {mb : Nat} {value : BitVec 32} (h : Keeps s z) :
    Answers s (execResAckWrite who mb value z) :=
  .next (.ite (.regWrite h fun _ hz => .resAck hz) h)

theorem Answers.execResCntClr {s z : State} {who : Who} {value : BitVec 32} (h : Keeps s z) :
    Answers s (execResCntClr who value z) :=
  .next (.regWrite h fun _ hz => hz)

/-! ### Operations of Machine/TimeOps -/

theorem Keeps.timeCycle {s z : State} (h : Keeps s z) : Keeps s (timeCycle z) := h

theorem Answers.execTimeTick {s z : State} (h : Keeps s z) : Answers s (execTimeTick z) :=
  .ite (.next h) (.ite (.next (.timeCycle h)) (.next (.timeCycle h)))

theorem Answers.execTimeHoldEnd {s z : State} (h : Keeps s z) : Answers s (execTimeHoldEnd z) :=
  .ite (.next (.timeCycle h)) (.next h)

theorem Keeps.timeStepped {s z : State} (h : Keeps s z) : Keeps s (timeStepped z) := .devSource h

theorem Keeps.timeMeasure {s z : State} {e : Int} (h : Keeps s z) : Keeps s (timeMeasure e z) :=
  .ite h (.ite (.ite (.timeStepped h) (.timeStepped h)) h)

theorem Answers.execSlotSyncEdge {s z : State} {off : Nat} (h : Keeps s z) : Answers s (execSlotSyncEdge off z) :=
  .ite (.next h) (.ite (.next (.timeMeasure h)) (.next h))

theorem Answers.execTimeCtrlWrite {s z : State} {who : Who} {value : BitVec 32} (h : Keeps s z) :
    Answers s (execTimeCtrlWrite who value z) :=
  .next (.regWrite h fun _ hz => hz)

theorem Answers.execTimeCntClr {s z : State} {who : Who} {value : BitVec 32} (h : Keeps s z) :
    Answers s (execTimeCntClr who value z) :=
  .next (.regWrite h fun _ hz => hz)

theorem Answers.execSlotTick {s z : State} (h : Keeps s z) : Answers s (execSlotTick z) := by
  unfold Machine.execSlotTick
  split
  · exact .ite (.next (.pulse h)) (.next h)
  · exact .next h

theorem Answers.execAlarmFire {s z : State} {k : Nat} (h : Keeps s z) : Answers s (execAlarmFire k z) :=
  .ite (.next (.pulse h)) (.next h)

theorem Answers.execEvtInEdge {s z : State} {pin : Nat} {level merged : Bool} (h : Keeps s z) :
    Answers s (execEvtInEdge pin level merged z) :=
  .ite (.next h) (.ite (.ite (.next h) (.next (.pulse h))) (.next h))

theorem Keeps.updOut {s z : State} {j : Nat} {f : EvtOut → EvtOut} (h : Keeps s z) : Keeps s (z.updOut j f) := h

theorem Answers.execEvtOutEdge {s z : State} {pin : Nat} (h : Keeps s z) : Answers s (execEvtOutEdge pin z) :=
  .next (.ite (.updOut h) h)

theorem Answers.execEvtOutWidthEnd {s z : State} {pin : Nat} (h : Keeps s z) : Answers s (execEvtOutWidthEnd pin z) :=
  .next (.updOut h)

theorem Answers.execEvtOutCfgWrite {s z : State} {who : Who} {pin : Nat} {value : BitVec 32} (h : Keeps s z) :
    Answers s (execEvtOutCfgWrite who pin value z) :=
  .next (.ite (.regWrite h fun _ hz => .updOut hz) h)

theorem Answers.execEvtPulseWrite {s z : State} {who : Who} {lines : BitVec 64} (h : Keeps s z) :
    Answers s (execEvtPulseWrite who lines z) :=
  .next (.regWrite h fun _ hz => .pulse hz)

/-! ### Operations of Machine/BondRole -/

theorem Keeps.updChain {s z : State} {f : Chain → Chain} (h : Keeps s z) : Keeps s (z.updChain f) := h

theorem Keeps.chainPush {s z : State} {f : BitVec 64} (h : Keeps s z) : Keeps s (chainPush f z) := .updChain h

theorem Keeps.updBond {s z : State} {f : Bond → Bond} (h : Keeps s z) : Keeps s (z.updBond f) := h

theorem Keeps.firstRole {s z : State} {partnerStrap : Bool} (h : Keeps s z) : Keeps s (firstRole partnerStrap z) :=
  .ite h (.updBond h)

theorem Keeps.partnerFound {s z : State} {strap : Bool} (h : Keeps s z) : Keeps s (partnerFound strap z) :=
  .ite h (.updBond (.firstRole h))

theorem Keeps.chainWing {s z : State} (h : Keeps s z) : Keeps s (chainWing z) := .ite (.chainPush h) h

theorem Keeps.stopAllRings {s z : State} (h : Keeps s z) : Keeps s (stopAllRings z) := .foldl h fun _ _ hz => .ringHalt hz

theorem Keeps.ringsOff {s z : State} (h : Keeps s z) : Keeps s (z.ringsOff) := h

theorem Keeps.endMirrorsIf {s z : State} {p : Mirror → Bool} (h : Keeps s z) : Keeps s (endMirrorsIf p z) :=
  .updBond (.foldl h fun _ _ hz => .ite (.updTs hz fun _ => .retire (.refl _)) hz)

theorem Keeps.endMirrors {s z : State} (h : Keeps s z) : Keeps s (endMirrors z) := .endMirrorsIf h

theorem Keeps.demote {s z : State} {epoch : BitVec 8} (h : Keeps s z) : Keeps s (demote epoch z) :=
  .devSource (.updBond (.endMirrors (.ringsOff (.stopAllRings h))))

theorem Keeps.hearActive {s z : State} {e : BitVec 8} (h : Keeps s z) : Keeps s (hearActive e z) :=
  .ite (.updBond h) (.ite (.demote (.updBond h)) (.updBond (.updBond h)))

theorem Keeps.hearWing {s z : State} {chain : Bool} {w : BitVec 32} (h : Keeps s z) : Keeps s (hearWing chain w z) :=
  .ite h (.updBond (.ite (.hearActive (.updBond h)) (.updBond h)))

theorem Keeps.adoptQueues {s z : State} (h : Keeps s z) : Keeps s (adoptQueues z) := .foldl h fun _ _ hz => .updCq hz

theorem Keeps.rewriteDue {s z : State} (h : Keeps s z) : Keeps s (rewriteDue z) := .updBond h

theorem Keeps.adoptRings {s z : State} (h : Keeps s z) : Keeps s (adoptRings z) :=
  .foldl h fun _ _ hz => .ite (.ringOp (.ddrWriteLines hz)) hz

theorem Keeps.promote {s z : State} (h : Keeps s z) : Keeps s (promote z) := by
  unfold Machine.promote
  extract_lets _ s1 s2 s3 _ _ s4 s5 s6
  have hs1 : Keeps s s1 := .devSource (.updBond h)
  have hs2 : Keeps s s2 := .chainWing (.bondSend hs1)
  have hs3 : Keeps s s3 := .rewriteHeld (.rewriteDue (.adoptQueues hs2))
  have hs4 : Keeps s s4 := .takeoverRecords hs3
  have hs5 : Keeps s s5 := .adoptRings (.ringsOff hs4)
  have hs6 : Keeps s s6 := .ite (.releaseAll hs5) hs5
  exact .ite (.pulse hs6) hs6

theorem Keeps.suspend {s z : State} (h : Keeps s z) : Keeps s (suspend z) := .updBond (.endMirrorsIf h)

theorem Keeps.bondPromote {s z : State} (h : Keeps s z) : Keeps s (bondPromote z) := .ite (.promote h) h

theorem Answers.execWingbeatSend {s z : State} (h : Keeps s z) : Answers s (execWingbeatSend z) :=
  .ite (.next (.ite (.bondSend (.chainWing (.updBond h))) (.chainWing (.updBond h)))) (.next h)

theorem Keeps.partnerGone {s z : State} (h : Keeps s z) : Keeps s (partnerGone z) :=
  .ite (.suspend (.ite h (.devSource (.updBond h)))) (.ite (.promote (.ite h (.devSource (.updBond h)))) (.ite h (.devSource
      (.updBond h))))

theorem Answers.execWingbeatPeriodEnd {s z : State} (h : Keeps s z) : Answers s (execWingbeatPeriodEnd z) :=
  .ite (.ite (.next (.partnerGone (.updBond h))) (.ite (.next (.ite (.suspend (.updBond h)) (.updBond (.updBond h)))) (.next
      (.updBond h)))) (.next h)

theorem Answers.execPromote {s z : State} {who : Who} (h : Keeps s z) : Answers s (execPromote who z) :=
  .next (.regWrite h fun _ hz => .bondPromote hz)

/-! ### Operations of Machine/ChainOps -/

theorem Keeps.chainDrop {s z : State} (h : Keeps s z) : Keeps s (chainDrop z) := .updChain h

theorem Keeps.chainForward {s z : State} {f : BitVec 64} (h : Keeps s z) : Keeps s (chainForward f z) :=
  .ite (.chainDrop h) (.ite (.updChain (.chainPush h)) (.chainPush h))

theorem Keeps.chainHandle {s z : State} {f : BitVec 64} {own take : State → State} (h : Keeps s z)
    (hown : ∀ z, Keeps s z → Keeps s (own z)) (htake : ∀ z, Keeps s z → Keeps s (take z)) :
    Keeps s (chainHandle f own take z) :=
  .ite (hown _ h) (.ite (htake _ h) (.ite (.chainForward (htake _ h)) (.chainForward h)))

theorem Keeps.badFrame {s z : State} {f : BitVec 64} (h : Keeps s z) : Keeps s (badFrame f z) :=
  .ite h (.ite (.updChain h) (.ite (.chainDrop h) h))

theorem Keeps.loopRound {s z : State} (h : Keeps s z) : Keeps s (loopRound z) := .ite (.chainPush h) h

theorem Keeps.addressed {s z : State} (h : Keeps s z) : Keeps s (addressed z) := .ite (.itemEnd h) h

theorem Keeps.sendAssign {s z : State} (h : Keeps s z) : Keeps s (sendAssign z) := .updChain (.chainPush h)

theorem Keeps.noAddress {s z : State} (h : Keeps s z) : Keeps s (noAddress z) := .addressed (.updBond (.updChain h))

theorem Keeps.headPaired {s z : State} {n : Nat} {strap : Bool} (h : Keeps s z) : Keeps s (headPaired n strap z) :=
  .ite (.partnerFound h) (.updBond h)

theorem Keeps.assignBack {s z : State} {n : Nat} {strap : Bool} (h : Keeps s z) : Keeps s (assignBack n strap z) :=
  .ite (.updChain h) (.ite (.noAddress (.updChain (.updChain h))) (.loopRound (.addressed (.headPaired (.updChain
      (.updChain h))))))

theorem Keeps.takeAddress {s z : State} {p : Nat} {mark : AssignMark} (h : Keeps s z) : Keeps s (takeAddress p mark z) :=
  .ite (.addressed (.partnerFound (.updChain h))) (.addressed (.updChain h))

theorem Answers.execChainAssignRx {s z : State} {f : BitVec 64} {mine : AssignMark} (h : Keeps s z) :
    Answers s (execChainAssignRx f mine z) := by
  unfold Machine.execChainAssignRx
  exact .ite (.next (.badFrame h)) (.ite (.next (.chainHandle h (fun _ hz => hz) fun _ hz => hz)) (.ite (.ite (.next
      (.assignBack h)) (.ite (.next (.chainHandle h (fun _ hz => hz) fun _ hz => hz)) (.next (.ite (.updChain h) (.noAddress
      (.updChain h)))))) (.ite (.next (.chainHandle h (fun _ hz => hz) fun _ hz => hz)) (.ite (.next (.chainPush (.addressed
      (.updChain h)))) (.next (.chainForward (.takeAddress h)))))))

theorem Answers.execChainAssignRepeat {s z : State} (h : Keeps s z) : Answers s (execChainAssignRepeat z) :=
  .next (.ite (.sendAssign h) h)

theorem Answers.execChainAssignTimeout {s z : State} (h : Keeps s z) : Answers s (execChainAssignTimeout z) :=
  .next (.ite (.noAddress (.updChain h)) h)

theorem Keeps.loopBack {s z : State} {f : BitVec 64} (h : Keeps s z) : Keeps s (loopBack f z) := .ite h (.chainPush (.updChain h))

theorem Keeps.hopSet {s z : State} {f : LoopFrame} (h : Keeps s z) : Keeps s (hopSet f z) := .updChain h

theorem Answers.execChainLoopRx {s z : State} {x : LoopFrame} (h : Keeps s z) : Answers s (execChainLoopRx x z) :=
  .ite (.next (.badFrame h)) (.next (.chainHandle h (fun _ hz => .ite hz (.ite (.loopBack hz) (.ite (.hopSet hz) hz)))
      fun _ hz => .ite (.hopSet hz) hz))

theorem Keeps.slotBack {s z : State} (h : Keeps s z) : Keeps s (slotBack z) := .updChain h

theorem Keeps.slotTake {s z : State} {f : BitVec 64} (h : Keeps s z) : Keeps s (slotTake f z) :=
  .ite (.timeMeasure (.slotBack h)) (.slotBack h)

theorem Answers.execChainSlotRx {s z : State} {f : BitVec 64} (h : Keeps s z) : Answers s (execChainSlotRx f z) :=
  .ite (.next (.chainHandle h (fun _ hz => .slotBack hz) fun _ hz => .slotTake hz)) (.next (.badFrame h))

theorem Answers.execChainWingbeatRx {s z : State} {f : BitVec 64} (h : Keeps s z) : Answers s (execChainWingbeatRx f z) :=
  .ite (.next (.chainHandle h (fun _ hz => hz) fun _ hz => .ite (.hearWing hz) hz)) (.next (.badFrame h))

theorem Keeps.msgTake {s z : State} {f : BitVec 64} (h : Keeps s z) : Keeps s (msgTake f z) :=
  .ite (.chainDrop h) (.ite (.pulse (.updChain h)) (.updChain h))

theorem Answers.execChainMsgFrameRx {s z : State} {f : BitVec 64} (h : Keeps s z) : Answers s (execChainMsgFrameRx f z) :=
  .ite (.next (.chainHandle h (fun _ hz => hz) fun _ hz => .msgTake hz)) (.next (.badFrame h))

theorem Answers.execChainBadFrameRx {s z : State} {f : BitVec 64} (h : Keeps s z) : Answers s (execChainBadFrameRx f z) :=
  .next (.badFrame h)

theorem Answers.execChainFrameTx {s z : State} (h : Keeps s z) : Answers s (execChainFrameTx z) := by
  unfold Machine.execChainFrameTx
  refine .ite (.next h) ?_
  split
  · exact .next h
  · exact .ite (.next h) (.next (.updChain h))

theorem Answers.execChainSlotSend {s z : State} (h : Keeps s z) : Answers s (execChainSlotSend z) := by
  unfold Machine.execChainSlotSend
  split
  · exact .ite (.next (.chainPush (.updChain h))) (.next h)
  · exact .next h

theorem Answers.execChainSlotIdle {s z : State} (h : Keeps s z) : Answers s (execChainSlotIdle z) := by
  unfold Machine.execChainSlotIdle
  dsimp only
  split
  · exact .ite (.next (.updChain h)) (.next h)
  · exact .next h

theorem Answers.execChainSlotTimeout {s z : State} (h : Keeps s z) : Answers s (execChainSlotTimeout z) :=
  .next (.ite (.updChain h) h)

theorem Keeps.chainCtrlWrite {s z : State} {v : BitVec 32} (h : Keeps s z) : Keeps s (chainCtrlWrite v z) :=
  .ite (.loopRound (.updChain h)) (.updChain h)

theorem Answers.execChainLoopStart {s z : State} {who : Who} {value : BitVec 32} (h : Keeps s z) :
    Answers s (execChainLoopStart who value z) :=
  .next (.regWrite h fun _ hz => .chainCtrlWrite hz)

theorem Keeps.msgTxWrite {s z : State} {lo hi : Option (BitVec 32)} (h : Keeps s z) : Keeps s (msgTxWrite lo hi z) := by
  unfold Machine.msgTxWrite
  split
  · split
    · exact .updChain h
    · exact .ite (.chainDrop (.updChain h)) (.chainPush (.updChain h))
  · split
    · exact h
    · exact .ite (.chainDrop h) (.chainPush h)

theorem Answers.execChainMsgTxWrite {s z : State} {who : Who} {lo hi : Option (BitVec 32)} (h : Keeps s z) :
    Answers s (execChainMsgTxWrite who lo hi z) :=
  .next (.regWrite h fun _ hz => .msgTxWrite hz)

theorem Answers.execChainMsgPopWrite {s z : State} {who : Who} {value : BitVec 32} (h : Keeps s z) :
    Answers s (execChainMsgPopWrite who value z) :=
  .next (.regWrite h fun _ hz => .updChain hz)

theorem Answers.execChainCntClr {s z : State} {who : Who} {value : BitVec 32} (h : Keeps s z) :
    Answers s (execChainCntClr who value z) :=
  .next (.regWrite h fun _ hz => .updChain hz)

/-! ### Operations of Machine/BondLink -/

theorem Keeps.mirrorPop {s z : State} {k : Nat} {m : Mirror} (h : Keeps s z) : Keeps s (mirrorPop k m z) :=
  .updBond (.ite (.updTs h fun _ => .retire (.refl _)) h)

theorem Keeps.mirrorLost {s z : State} {m : Mirror} {lost : Nat} (h : Keeps s z) : Keeps s (mirrorLost m lost z) :=
  .ite (.lostCycles h) (.charge h)

theorem Keeps.mirrorRead {s z : State} {k : Nat} {m : Mirror} {lost : Nat} (h : Keeps s z) : Keeps s (mirrorRead k m lost z) := by
  unfold Machine.mirrorRead
  split
  · exact h
  · exact .ite (.mirrorPop (.bondSend (.tsPerr (.updTs (.mirrorLost h) fun _ => .countOff (.refl _))))) (.ite (.mirrorPop (.tsPerr
        (.updTs (.mirrorLost h) fun _ => .countOff (.refl _)))) (.stepFault (.tsPerr (.updTs (.mirrorLost h) fun _ => .countOff
        (.refl _)))))

theorem Keeps.mirrorTurn {s z : State} {k lost : Nat} (h : Keeps s z) : Keeps s (mirrorTurn k lost z) := by
  unfold Machine.mirrorTurn
  split
  · exact h
  · exact .ite h (.ite (.mirrorRead h) (.ite h (.mirrorRead (.updBond (.updTs h fun _ => .issue (.refl _))))))

theorem Keeps.bondTx {s z : State} (h : Keeps s z) : Keeps s (bondTx z) := by
  unfold Machine.bondTx
  split
  · dsimp only
    split
    · exact h
    · split
      · exact h
      · exact .updBond h
  · dsimp only
    split
    · exact h
    · split
      · exact h
      · exact .updBond h

theorem Answers.execBondFrameTx {s z : State} {pick : Option MirrorRead} (h : Keeps s z) :
    Answers s (execBondFrameTx pick z) := by
  unfold Machine.execBondFrameTx
  split
  · exact .next (.mirrorTurn h)
  · exact .next (.ite (.bondTx h) h)

theorem Keeps.bondTake {s z : State} {fseq : BitVec 32} {crcOk : Bool} {f : State → State} (h : Keeps s z)
    (hf : ∀ z, Keeps s z → Keeps s (f z)) :
    Keeps s (bondTake fseq crcOk f z) :=
  .ite h (.ite (.bondReply h) (.ite (hf _ (.bondReply (.updBond h))) (.ite (.bondReply h) h)))

theorem Keeps.mwrApply {s z : State} {win : Nat} {addr : BitVec 64} {payload : BitVec 1024} {met : EdgeMet} (h : Keeps s z) :
    Keeps s (mwrApply win addr payload met z) :=
  .ite h (.ite (.ite h (.ite (.countGated h) (.ite (.countMorPerr h) (.updTs h fun _ => .writeCourse (.refl _))))) (.ite
      (.ddrWriteLines h) h))

theorem Answers.execBondMwrRx {s z : State} {win : Nat} {fseq : BitVec 32} {addr : BitVec 64} {payload : BitVec 1024}
    {crcOk : Bool} {met : EdgeMet} (h : Keeps s z) :
    Answers s (execBondMwrRx win fseq addr payload crcOk met z) :=
  .next (.bondTake h fun _ hz => .mwrApply hz)

theorem Keeps.resyncCheck {s z : State} (h : Keeps s z) : Keeps s (resyncCheck z) := by
  unfold Machine.resyncCheck
  split
  · exact .ite (.updBond h) h
  · exact h

theorem Keeps.ackUpTo {s z : State} {n : BitVec 32} (h : Keeps s z) : Keeps s (ackUpTo n z) :=
  .resyncCheck (.updBond (.updBond h))

theorem Answers.execBondAckRx {s z : State} {fseq : BitVec 32} {crcOk : Bool} (h : Keeps s z) :
    Answers s (execBondAckRx fseq crcOk z) :=
  .ite (.next h) (.ite (.next (.bondReply h)) (.next (.ackUpTo h)))

theorem Keeps.nakTake {s z : State} {n : BitVec 32} (h : Keeps s z) : Keeps s (nakTake n z) := .updBond (.ackUpTo h)

theorem Answers.execBondNakRx {s z : State} {fseq : BitVec 32} {crcOk : Bool} (h : Keeps s z) :
    Answers s (execBondNakRx fseq crcOk z) :=
  .ite (.next h) (.ite (.next (.bondReply h)) (.next (.nakTake h)))

theorem Answers.execBondLinkTrained {s z : State} {partnerStrap : Bool} (h : Keeps s z) :
    Answers s (execBondLinkTrained partnerStrap z) :=
  .ite (.next h) (.next (.addressed (.updBond (.firstRole h))))

theorem Answers.execBondLinkDown {s z : State} (h : Keeps s z) : Answers s (execBondLinkDown z) := .next (.updBond h)

theorem Answers.execBondWingbeatRx {s z : State} {fseq word : BitVec 32} {crcOk : Bool} (h : Keeps s z) :
    Answers s (execBondWingbeatRx fseq word crcOk z) :=
  .next (.bondTake h fun _ hz => .hearWing hz)

theorem Keeps.stateKeep {s z : State} {q : Nat} {p : BitVec 512} (h : Keeps s z) : Keeps s (stateKeep q p z) := .ite h h

theorem Answers.execBondStateRx {s z : State} {fseq : BitVec 32} {queue : Nat} {payload : BitVec 512} {crcOk : Bool}
    (h : Keeps s z) :
    Answers s (execBondStateRx fseq queue payload crcOk z) :=
  .next (.bondTake h fun _ hz => .stateKeep hz)

theorem Keeps.ctxKeep {s z : State} {addr : BitVec 64} {p : BitVec 512} (h : Keeps s z) : Keeps s (ctxKeep addr p z) :=
  .ite h (.ite (.updBond h) (.updBond h))

theorem Answers.execBondCtxRx {s z : State} {fseq : BitVec 32} {addr : BitVec 64} {payload : BitVec 512} {crcOk : Bool}
    (h : Keeps s z) :
    Answers s (execBondCtxRx fseq addr payload crcOk z) :=
  .next (.bondTake h fun _ hz => .ctxKeep hz)

theorem Answers.execBondRelinquishRx {s z : State} {fseq : BitVec 32} {crcOk : Bool} (h : Keeps s z) :
    Answers s (execBondRelinquishRx fseq crcOk z) :=
  .next (.bondTake h fun _ hz => .ite (.promote (.updBond hz)) (.updBond hz))

theorem Answers.execBondTakeoverRx {s z : State} {fseq : BitVec 32} {epoch : BitVec 8} {crcOk : Bool} (h : Keeps s z) :
    Answers s (execBondTakeoverRx fseq epoch crcOk z) :=
  .next (.bondTake h fun _ hz => .ite (.hearActive hz) hz)

theorem Keeps.bondRelinquish {s z : State} (h : Keeps s z) : Keeps s (bondRelinquish z) := .ite (.updBond (.stopAllRings h)) h

theorem Answers.execRelinquish {s z : State} {who : Who} (h : Keeps s z) : Answers s (execRelinquish who z) :=
  .next (.regWrite h fun _ hz => .bondRelinquish hz)

theorem Answers.execRelinquishComplete {s z : State} (h : Keeps s z) : Answers s (execRelinquishComplete z) :=
  .ite (.next (.ringsOff (.updBond (.bondSend (.endMirrors h))))) (.next h)

theorem Keeps.copyWindow {s z : State} {e : Nat × MirrorWindow} (h : Keeps s z) : Keeps s (copyWindow e z) :=
  .ite h (.ite (.ite h (.updBond h)) (.ite (.foldl h fun _ _ hz => .ite (.mirrorSend hz) hz) h))

theorem Keeps.copyState {s z : State} (h : Keeps s z) : Keeps s (copyState z) :=
  .foldl (.foldl h fun _ _ hz => .ringOp hz) fun _ _ hz => .sendCq hz

theorem Keeps.bondResync {s z : State} (h : Keeps s z) : Keeps s (bondResync z) :=
  .ite (.resyncCheck (.updBond (.copyState (.foldl (.updBond h) fun _ _ hz => .copyWindow hz)))) h

theorem Answers.execResync {s z : State} {who : Who} (h : Keeps s z) : Answers s (execResync who z) :=
  .next (.regWrite h fun _ hz => .bondResync hz)

theorem Keeps.mwinWrite {s z : State} {n : Nat} {b : Bool} {lo hi : Option (BitVec 32)} (h : Keeps s z) :
    Keeps s (mwinWrite n b lo hi z) :=
  .ite h (.updBond h)

theorem Answers.execBondMwinWrite {s z : State} {who : Who} {win : Nat} {b : Bool} {lo hi : Option (BitVec 32)} (h : Keeps s z) :
    Answers s (execBondMwinWrite who win b lo hi z) :=
  .next (.ite (.regWrite h fun _ hz => .mwinWrite hz) h)

theorem Keeps.bondCmdWrite {s z : State} {v : BitVec 32} (h : Keeps s z) : Keeps s (bondCmdWrite v z) := by
  unfold Machine.bondCmdWrite
  split
  · exact .bondPromote h
  · exact .bondRelinquish h
  · exact .bondResync h
  · exact h

theorem Answers.execBondCntClr {s z : State} {who : Who} {value : BitVec 32} (h : Keeps s z) :
    Answers s (execBondCntClr who value z) :=
  .next (.regWrite h fun _ hz => .updBond hz)

/-! ### Operations of Machine/Calib -/

theorem Keeps.updCal {s z : State} {c : Nat} {f : CalChan → CalChan} (h : Keeps s z) : Keeps s (z.updCal c f) := h

theorem Keeps.calStart {s z : State} {c : Nat} (h : Keeps s z) : Keeps s (calStart c z) := by
  unfold Machine.calStart
  refine .ite h ?_
  split
  · exact h
  · split
    · exact .updCal h
    · exact h

theorem Keeps.calFree {s z : State} {c : Nat} (h : Keeps s z) : Keeps s (calFree c z) := by
  unfold Machine.calFree
  extract_lets _ _ s1
  have hs1 : Keeps s s1 := .updCal h
  exact hs1

theorem Keeps.dieTemp {s z : State} {hi lo : BitVec 8} (h : Keeps s z) : Keeps s (dieTemp hi lo z) := .ite (.devSource h) h

theorem Answers.execCalTaskDue {s z : State} {due : CalDue} (h : Keeps s z) : Answers s (execCalTaskDue due z) := by
  unfold Machine.execCalTaskDue
  split
  · exact .next (.calStart h)
  · exact .next (.ite (.dieTemp h) h)
  · exact .next (.ite h h)

theorem Keeps.gapSettle {s z : State} (h : Keeps s z) : Keeps s (gapSettle z) := by
  unfold Machine.gapSettle
  split
  · exact .ite h h
  · exact h

theorem Keeps.trimApply {s z : State} (h : Keeps s z) : Keeps s (trimApply z) := h

theorem Keeps.gapLoop {s z : State} (h : Keeps s z) : Keeps s (gapLoop z) := .ite (.loopRound h) h

theorem Answers.execCalGapStart {s z : State} {k : Nat} (h : Keeps s z) : Answers s (execCalGapStart k z) := by
  unfold Machine.execCalGapStart
  dsimp only
  split
  · exact .ite (.next (.gapSettle h)) (.next (.foldl (.ite (.gapLoop (.ite (.trimApply (.gapSettle h)) (.gapSettle h))) (.ite
        (.trimApply (.gapSettle h)) (.gapSettle h))) fun _ _ hz => .ite (.calStart hz) hz))
  · exact .next (.gapSettle h)

theorem Answers.execCalGapEnd {s z : State} {k : Nat} (h : Keeps s z) : Answers s (execCalGapEnd k z) := .next h

theorem Keeps.taskEffect {s z : State} {c : Nat} {t : CalTask} {drift hot fails : Bool} (h : Keeps s z) :
    Keeps s (taskEffect c t drift hot fails z) := by
  unfold Machine.taskEffect
  split
  · exact .ite (.deviceFault (.updCal h)) (.updCal h)
  · exact .ite (.updCal h) h
  · exact .updChan h
  · exact h

theorem Keeps.taskRan {s z : State} {c : Nat} {t : CalTask} (h : Keeps s z) : Keeps s (taskRan c t z) := .updCal h

theorem Keeps.taskOver {s z : State} {c : Nat} (h : Keeps s z) : Keeps s (taskOver c z) :=
  .ite (.calStart h) (.calFree (.calStart h))

theorem Keeps.trimEnd {s z : State} (h : Keeps s z) : Keeps s (trimEnd z) := .ite h (.ite h (.trimApply (.updClk h)))

theorem Answers.execCalTaskEnd {s z : State} {done : CalEnd} (h : Keeps s z) : Answers s (execCalTaskEnd done z) := by
  unfold Machine.execCalTaskEnd
  split
  · exact .next (.ite (.trimEnd h) h)
  · split
    · exact .ite (.next (.taskOver (.taskEffect (.taskRan h)))) (.next h)
    · exact .next h

theorem Answers.execCalOverdue {s z : State} {ch : Nat} (h : Keeps s z) : Answers s (execCalOverdue ch z) := .next (.ite h h)

theorem Answers.execCalStealStart {s z : State} {ch : Nat} (h : Keeps s z) : Answers s (execCalStealStart ch z) :=
  .ite (.next (.calStart (.devSource (.updCal (.updChan h))))) (.next h)

theorem Answers.execCalStealEnd {s z : State} (h : Keeps s z) : Answers s (execCalStealEnd z) := by
  unfold Machine.execCalStealEnd
  extract_lets c s1
  have h1 : Keeps s s1 := .calFree h
  exact .ite (.next (.updCal (.same h1 rfl))) (.next h)

theorem Keeps.calGapWrite {s z : State} {k : Nat} {lo hi : Option (BitVec 32)} (h : Keeps s z) :
    Keeps s (calGapWrite k lo hi z) :=
  .gapSettle h

theorem Answers.execCalGapWrite {s z : State} {who : Who} {k : Nat} {lo hi : Option (BitVec 32)} (h : Keeps s z) :
    Answers s (execCalGapWrite who k lo hi z) :=
  .next (.ite (.regWrite h fun _ hz => .calGapWrite hz) h)

theorem Answers.execCalCntClr {s z : State} {who : Who} {value : BitVec 32} (h : Keeps s z) :
    Answers s (execCalCntClr who value z) :=
  .next (.regWrite h fun _ hz => hz)

/-! ### Operations of Machine/DdrServe -/

theorem Keeps.mirrorFill {s z : State} {q : BitVec 32} {d : BitVec 1024} {bad : Bool} (h : Keeps s z) :
    Keeps s (mirrorFill q d bad z) :=
  .updBond h

theorem Keeps.writeServed {s z : State} {r : DdrReq} {off : Nat} {bs : List (BitVec 8)} {ch : Option Nat} {err : BeatErr}
    (h : Keeps s z) :
    Keeps s (writeServed r off bs ch err z) :=
  .ite (.ddrStore (.countPosted h)) (.ite (.ddrErr (.countPosted h)) (.ddrStore (.ddrErr (.countPosted h))))

theorem Keeps.fillEnters {s z : State} {r : DdrReq} {stale declared : Bool} {err : BeatErr} (h : Keeps s z) :
    Keeps s (fillEnters r stale declared err z) :=
  .ite h h

theorem Keeps.fillReady {s z : State} {r : DdrReq} {n gen seq : Nat} {err : BeatErr} (h : Keeps s z) :
    Keeps s (fillReady r n gen seq err z) :=
  .updTrk (.crossing h)

theorem Keeps.served {s z : State} {r : DdrReq} {err : BeatErr} (h : Keeps s z) : Keeps s (served r err z) := by
  unfold Machine.served
  split
  · exact .fillReady (.fillEnters (.ddrErr h))
  · exact .fillEnters (.ddrErr h)
  · exact .mirrorFill (.ddrErr h)
  · exact .writeServed h
  · split
    · exact .setDmaLine (.ddrErr h)
    · exact .ddrErr h
  · exact .serveOp h
  · exact .bar2Got (.ddrErr h)

theorem Answers.execDdrRequestServe {s z : State} {ch i : Nat} {err : BeatErr} (h : Keeps s z) :
    Answers s (execDdrRequestServe ch i err z) := by
  unfold Machine.execDdrRequestServe
  dsimp only
  split
  · exact .next h
  · exact .ite (.next h) (.next (.served (.updChan h)))

/-! ### Operations of Machine/HodOps -/

theorem Keeps.declare {s z : State} {n : Nat} {a b : BitVec 64} (h : Keeps s z) : Keeps s (declare n a b z) :=
  .ite (.updTgt (.updTgt h)) (.updTgt h)

theorem Keeps.freeTgt {s z : State} {n : Nat} (h : Keeps s z) : Keeps s (freeTgt n z) := .updTgt h

theorem Keeps.tgtAWrite {s z : State} {n : Nat} {mask v : BitVec 64} (h : Keeps s z) : Keeps s (tgtAWrite n mask v z) :=
  .updTgt h

theorem Keeps.tgtBWrite {s z : State} {n : Nat} {mask v : BitVec 64} (h : Keeps s z) : Keeps s (tgtBWrite n mask v z) := by
  unfold Machine.tgtBWrite
  refine .ite (.updTgt h) ?_
  split
  · exact .freeTgt (.updTgt h)
  · exact .ite (.hodErr (.updTgt h)) (.ite (.hodErr (.updTgt h)) (.declare (.updTgt h)))
  · exact .updTgt h

theorem Answers.execHodTgtDeclareWrite {s z : State} {who : Who} {tgt : Nat} {value : BitVec 64} (h : Keeps s z) :
    Answers s (execHodTgtDeclareWrite who tgt value z) :=
  .next (.ite (.regWrite h fun _ hz => .tgtBWrite hz) h)

theorem Answers.execHodTgtFreeWrite {s z : State} {who : Who} {tgt : Nat} {value : BitVec 64} (h : Keeps s z) :
    Answers s (execHodTgtFreeWrite who tgt value z) :=
  .next (.ite (.regWrite h fun _ hz => .tgtBWrite hz) h)

theorem Keeps.hodCheck {s z : State} {t : Nat} {c : EngCmd} (h : Keeps s z) : Keeps s (hodCheck t c z) := by
  unfold Machine.hodCheck
  split
  · exact .malformed (.hodErr h)
  · exact .passCheck h

theorem Answers.execHodDeclare {s z : State} {tile : Nat} (h : Keeps s z) : Answers s (execHodDeclare tile z) := by
  unfold Machine.execHodDeclare
  split
  · exact .next h
  · refine .ite (.next h) ?_
    split
    · exact .next (.malformed (.hodErr h))
    · exact .next (.popCmd (.ite (.countGated h) (.declare h)))
    · exact .next h

theorem Answers.execHodSend {s z : State} {tile : Nat} {held : Held} (h : Keeps s z) : Answers s (execHodSend tile held z) := by
  unfold Machine.execHodSend
  split
  · exact .next h
  · refine .ite (.next h) (.ite (.next (.hodCheck h)) (.ite (.next (.tryIssue h)) ?_))
    split
    · exact .next h
    · refine .ite (.next h) ?_
      dsimp only
      split
      · exact .next (ValKeeps.error (.engRead (.beginCmd (.charge h))) ‹_›)
      · exact .ite (.next (.popCmd (.retireRanges (.updTile (.pushHod (ValKeeps.ok (.engRead (.beginCmd (.charge h))) ‹_›))
            fun _ => .refl _)))) (.next (.updTile (.pushHod (ValKeeps.ok (.engRead (.beginCmd (.charge h))) ‹_›))
            fun _ => .refl _))

theorem Answers.execHodBroadcast {s z : State} {tile : Nat} (h : Keeps s z) : Answers s (execHodBroadcast tile z) := by
  unfold Machine.execHodBroadcast
  split
  · exact .next h
  · refine .ite (.next h) ?_
    split
    · exact .next (.malformed (.hodErr h))
    · exact .next (.updTile (.updQ h) fun _ => .refl _)

theorem Keeps.sendBroadcast {s z : State} {tile : Nat} {c : EngCmd} {r : StepRun} (h : Keeps s z) :
    Keeps s (sendBroadcast tile c r z) :=
  .ite (.updQ (.updTile (.foldl h fun _ _ hz => .inflightAdd hz) fun _ => .refl _)) (.updTile (.foldl h
      fun _ _ hz => .inflightAdd hz) fun _ => .refl _)

theorem Answers.execBroadcastRead {s z : State} {tile ce : Nat} {ue : Bool} (h : Keeps s z) :
    Answers s (execBroadcastRead tile ce ue z) := by
  unfold Machine.execBroadcastRead
  split
  · exact .next h
  · refine .ite (.next h) ?_
    split
    · exact .next h
    · exact .ite (.next (.sendBroadcast (.countGated h))) (.ite (.next (.hodEcc h)) (.next (.sendBroadcast (.hodEcc h))))

theorem Answers.execBroadcastCourseWrite {s z : State} {i : Nat} {met : Crossing} {bad : Bool} (h : Keeps s z) :
    Answers s (execBroadcastCourseWrite i met bad z) := by
  unfold Machine.execBroadcastCourseWrite
  split
  · exact .next h
  · exact .ite (.next (.chargeSender (.inflightSub h))) (.ite (.next (.countGated (.chargeSender (.inflightSub h)))) (.ite (.next
        (.ite (.stepFault (.countMorPerr (.chargeSender (.inflightSub h)))) (.countMorPerr (.chargeSender (.inflightSub h)))))
        (.next (.ite (.markSent (.updTs (.lostCycles (.chargeSender (.inflightSub h))) fun _ => .writeCourse (.refl _))) (.updTs
        (.lostCycles (.chargeSender (.inflightSub h))) fun _ => .writeCourse (.refl _))))))

theorem Answers.execBroadcastRetire {s z : State} {tile : Nat} (h : Keeps s z) : Answers s (execBroadcastRetire tile z) := by
  unfold Machine.execBroadcastRetire
  split
  · exact .next h
  · refine .ite (.next h) ?_
    split
    · exact .next (.pulse (.popCmd h))
    · exact .next (.popCmd h)

theorem Keeps.notify {s z : State} {h' : HodCourse} {epoch parity : Bool} (h : Keeps s z) : Keeps s (notify h' epoch parity z) :=
  h

theorem Answers.execHodGrant {s z : State} {lane : Nat} {bad : Bool} (h : Keeps s z) : Answers s (execHodGrant lane bad z) := by
  unfold Machine.execHodGrant
  refine .ite (.next h) ?_
  split
  · exact .next h
  · split
    · exact .next h
    · extract_lets _ s0 s1 _ s2 _ s3
      have h0 : Keeps s s0 := .hod h rfl
      have h1 : Keeps s s1 := .updTile h0 fun _ => .of_units (.refl _) (.refl _) (.refl _)
      have h2 : Keeps s s2 := .updTgt h1
      have h3 : Keeps s s3 := .hod h2 rfl
      refine .ite (.next (.countGated h1)) (.ite (.next (.notify (.countMorPerr h1))) ?_)
      split
      · exact .next (.notify (.hod h1 rfl))
      · exact .next (.notify (.hod h1 rfl))
      · exact .next (.ite (.markSent h3) h3)

theorem Answers.execHodRejectNotice {s z : State} (h : Keeps s z) : Answers s (execHodRejectNotice z) := by
  unfold Machine.execHodRejectNotice
  split
  · exact .next h
  · exact .ite (.next (.chargeSender h)) (.ite (.next (.stepFault (.chargeSender h))) (.ite (.next (.stepFault (.chargeSender h)))
        (.next (.chargeSender h))))

theorem Keeps.completeCheck {s z : State} {n : Nat} (h : Keeps s z) : Keeps s (completeCheck n z) :=
  .ite (.ite (.pulse (.updTgt h)) (.updTgt h)) h

theorem Keeps.hodCourse {s z : State} {c : Nat} {v : BitVec 1024} (h : Keeps s z) :
    Keeps s { z with hod := { z.hod with mem := sset (fun _ => 0) z.hod.mem c v } } :=
  h.of_fit rfl fun ⟨hs, hm, hp⟩ => ⟨hs, Memory.wf_hodCourse c v hm, hp⟩

theorem Keeps.applyPartial {s z : State} {n t off : Nat} {p : BitVec 1024} (h : Keeps s z) : Keeps s (applyPartial n t off p z) :=
  .completeCheck (.hodCourse (.updTgt h))

theorem Keeps.declsAfter {s z : State} {i : Nat} (h : Keeps s z) : Keeps s (declsAfter i z) := .foldl h fun _ _ hz => .updTgt hz

theorem Keeps.applyCourse {s z : State} {c : HodCourse} (h : Keeps s z) : Keeps s (applyCourse c z) :=
  .ite (.hodCourse (.updTgt h)) (.applyPartial h)

theorem Answers.execHodApply {s z : State} {i : Nat} {jitter : Bool} {ecc : CourseEcc} (h : Keeps s z) :
    Answers s (execHodApply i jitter ecc z) := by
  unfold Machine.execHodApply
  split
  · exact .next h
  · exact .ite (.next h) (.ite (.next (.hodEcc h)) (.next (.declsAfter (.applyCourse (.hodEcc (.chargeSender h))))))

theorem Answers.execHodFold {s z : State} {tgt off ce : Nat} {ue : Bool} (h : Keeps s z) :
    Answers s (execHodFold tgt off ce ue z) := by
  unfold Machine.execHodFold
  split
  · dsimp only
    split
    · exact .next h
    · exact .ite (.next h) (.next (.hodEcc h))
  · dsimp only
    split
    · exact .next h
    · exact .ite (.next h) (.next (.applyPartial (.updTgt (.hodEcc h))))

theorem Answers.execHodCntClr {s z : State} {who : Who} {value : BitVec 32} (h : Keeps s z) : Answers s (execHodCntClr who value z) :=
  .next (.regWrite h fun _ hz => .hod hz rfl)

/-! ### Operations of Machine/Image -/

theorem Keeps.certAccept {s z : State} {b : List (BitVec 8)} (h : Keeps s z) : Keeps s (certAccept b z) := h

theorem Keeps.devcfgApply {s z : State} {r : List (BitVec 8)} (h : Keeps s z) : Keeps s (devcfgApply r z) := by
  unfold Machine.devcfgApply
  extract_lets w s1
  have h1 : Keeps s s1 := .srcCtrlWrite h
  clear_value s1
  exact .same (z := { s1 with ddr := { s1.ddr with ch := s1.ddr.ch.map fun c => { c with cfg := w 0 } } })
    (.ddrCh h1 (List.length_map _)) rfl

theorem CoreKeeps.putTileSeq {c d : SeqCore} {a : Nat} {bs : List (BitVec 8)} (h : CoreKeeps c d) :
    CoreKeeps c (putTileSeq a bs d) :=
  .foldl h fun _ _ hz => .setLword hz

theorem Keeps.quoinRam {s z : State} {m : List (Nat × BitVec 8)} (h : Keeps s z)
    (hm : swf (fun _ => (0 : BitVec 8)) z.quoin.ram = true → swf (fun _ => (0 : BitVec 8)) m = true) :
    Keeps s { z with quoin := { z.quoin with ram := m } } := by
  refine h.of_fit rfl fun ⟨hs, hw, hp⟩ => ⟨hs, ?_, hp⟩
  simp only [Memory.wf, Bool.and_eq_true] at hw ⊢
  obtain ⟨⟨⟨⟨⟨ht, hr⟩, h1⟩, h2⟩, h3⟩, h4⟩ := hw
  exact ⟨⟨⟨⟨⟨ht, hm hr⟩, h1⟩, h2⟩, h3⟩, h4⟩

theorem Keeps.putBytes {s z : State} {e : BitVec 256} {bs : List (BitVec 8)} (h : Keeps s z) : Keeps s (putBytes e bs z) := by
  unfold Machine.putBytes
  split
  · exact .quoinRam h fun hm => foldl_wf _ _ (fun m _ hm => sset_wf _ m _ _ hm) _ _ hm
  · exact .sec h rfl
  · exact .foldl h fun _ _ hz => .updCore hz fun _ => .putTileSeq (.refl _)
  · exact .foldl h fun _ _ hz => .updVec hz fun _ => .vpramPut (.refl _)
  · exact .foldl h fun _ _ hz => .updTs hz fun _ => .put (.refl _)
  · exact .ddrWriteLines h
  · exact h

theorem Keeps.putSection {s z : State} {b : List (BitVec 8)} {e : BitVec 256} (h : Keeps s z) : Keeps s (putSection b z e) :=
  .ite (.devcfgApply h) (.putBytes h)

theorem Keeps.spoilSection {s z : State} {e : BitVec 256} (h : Keeps s z) : Keeps s (spoilSection z e) := .putBytes h

theorem Keeps.bootError {s z : State} {code image : Nat} (h : Keeps s z) : Keeps s (bootError code image z) :=
  .conLine (.foldl h fun _ _ hz => .spoilSection hz)

theorem Keeps.imageStreamed {s z : State} {i : Nat} {b : List (BitVec 8)} (h : Keeps s z) : Keeps s (imageStreamed i b z) := h

theorem Keeps.imageAccept {s z : State} {i : Nat} {b : List (BitVec 8)} (h : Keeps s z) : Keeps s (imageAccept i b z) :=
  .foldl h fun _ _ hz => .putSection hz

/-! ### Operations of Machine/Startup -/

theorem Keeps.quoinPuf {s z : State} {m : List (Nat × BitVec 8)} (h : Keeps s z)
    (hm : swf Config.pufByte z.quoin.puf = true → swf Config.pufByte m = true) :
    Keeps s { z with quoin := { z.quoin with puf := m } } := by
  refine h.of_fit rfl fun ⟨hs, hw, hp⟩ => ⟨hs, ?_, hp⟩
  simp only [Memory.wf, Bool.and_eq_true] at hw ⊢
  obtain ⟨⟨⟨⟨ht, hr⟩, h1⟩, h2⟩, h3⟩ := hw
  exact ⟨⟨⟨⟨ht, hm hr⟩, h1⟩, h2⟩, h3⟩

theorem Answers.execResetAssert {s z : State} {cool power : Bool} (h : Keeps s z) : Answers s (execResetAssert cool power z) := by
  unfold Machine.execResetAssert
  extract_lets l
  have hl : Keeps s l := .lost h
  clear_value l
  exact .next (.same (z := { l with quoin := { l.quoin with puf := if power then [] else l.quoin.puf } })
    (.quoinPuf hl fun hm => by split; exacts [rfl, hm]) rfl)

theorem Answers.execResetRelease {s z : State} {start : ResetPins} {hot : Bool} (h : Keeps s z) :
    Answers s (execResetRelease start hot z) := by
  unfold Machine.execResetRelease
  have hc : Keeps s (z.hatch start.straps) := .hatch h
  generalize z.hatch start.straps = c at hc ⊢
  exact .ite (.next h) (.ite (.next (.sec h rfl)) (.next (.same hc rfl)))

theorem Answers.execThermalTrip {s z : State} (h : Keeps s z) : Answers s (execThermalTrip z) := .next (.same (.lost h) rfl)

theorem Answers.execLarvaStart {s z : State} {readOk : Bool} (h : Keeps s z) : Answers s (execLarvaStart readOk z) :=
  .ite (.next h) (.ite (.next (.bootError h)) (.next (.itemBegin h)))

theorem Keeps.enrolled {s z : State} {key : BitVec 256} (h : Keeps s z) : Keeps s (enrolled key z) := h

theorem Keeps.identify {s z : State} {readOk : Bool} (h : Keeps s z) : Keeps s (identify readOk z) :=
  .ite h (.ite (.enrolled h) h)

theorem Keeps.chainBegin {s z : State} (h : Keeps s z) : Keeps s (chainBegin z) := .ite (.sendAssign (.updChain h)) h

theorem Answers.execPllLockDone {s z : State} {readOk : Bool} (h : Keeps s z) : Answers s (execPllLockDone readOk z) :=
  .ite (.next h) (.next (.itemEnd (.identify (.chainBegin (.itemBegin (.itemBegin (.itemBegin (.itemEnd h))))))))

theorem Answers.execPllLockTimeout {s z : State} (h : Keeps s z) : Answers s (execPllLockTimeout z) :=
  .next (.ite (.bootError h) h)

theorem Keeps.judgeCert {s z : State} {b : List (BitVec 8)} (h : Keeps s z) : Keeps s (judgeCert b z).2 := by
  unfold Machine.judgeCert
  split
  · exact .bootError h
  · exact .itemBegin (.itemEnd (.certAccept h))

theorem Keeps.loadDone {s z : State} (h : Keeps s z) : Keeps s (loadDone z) := .ite (.itemEnd h) h

theorem Keeps.judgeImage {s z : State} {i : Nat} {b : List (BitVec 8)} (h : Keeps s z) : Keeps s (judgeImage i b z).2 := by
  unfold Machine.judgeImage
  split
  · exact .bootError (.imageStreamed h)
  · exact .ite (.itemBegin (.itemEnd (.imageAccept h))) (.loadDone (.imageAccept h))

theorem Answers.execCertVerify {s z : State} {readOk : Bool} (h : Keeps s z) : Answers s (execCertVerify readOk z) :=
  .ite (.next h) (.ite (.next (.bootError h)) (.next (.judgeCert h)))

theorem Answers.execImageVerify {s z : State} {readOk : Bool} (h : Keeps s z) : Answers s (execImageVerify readOk z) :=
  .ite (.next h) (.ite (.next (.bootError h)) (.next (.judgeImage h)))

theorem Answers.execDdrTrainDone {s z : State} (h : Keeps s z) : Answers s (execDdrTrainDone z) := by
  unfold Machine.execDdrTrainDone
  extract_lets _ _ _ s1
  have h1 : Keeps s s1 :=
    .same (z := { z with ddr := { z.ddr with ch := z.ddr.ch.map fun c =>
      { c with trained := true, trainedCfg := c.cfg, emptySince := z.te.time } } }) (.ddrCh h (List.length_map _)) rfl
  exact .ite (.next h) (.next (.loadDone (.itemBegin (.itemEnd h1))))

theorem Answers.execDdrTrainTimeout {s z : State} (h : Keeps s z) : Answers s (execDdrTrainTimeout z) :=
  .next (.ite (.bootError h) h)

theorem TileKeeps.decodeRam {x : Tile} {ws : List (Nat × BitVec 32)} (hw : swf (fun _ => 0) ws = true) :
    TileKeeps x { x with seq := { x.seq with decodeRam := ws, decodeBad := [] } } :=
  .of_units ⟨id, fun _ => hw⟩ (.refl _) (.refl _)

theorem Keeps.loadTable {s z : State} (h : Keeps s z) : Keeps s (loadTable z) := by
  unfold Machine.loadTable
  extract_lets good table words
  have hw : swf (fun _ => 0) words = true := by
    dsimp only [words]
    clear_value table
    cases table with
    | some b => exact decodeWords_wf b
    | none => rfl
  clear_value words
  exact .sec (.mapTiles h fun _ => .decodeRam hw) rfl

theorem Keeps.calBegin {s z : State} (h : Keeps s z) : Keeps s (calBegin z) := h

theorem Answers.execChrysalisEnter {s z : State} (h : Keeps s z) : Answers s (execChrysalisEnter z) :=
  .ite (.next h) (.next (.dvfsAsk (.updClk (.calBegin (.loadTable h)))))

/-! ### Operations of Machine/Mailbox -/

theorem Keeps.mbLoad {s z : State} (h : Keeps s z) : Keeps s (mbLoad z).2.2 := .ite_snd_snd h (.ite_snd_snd h h)

theorem Keeps.mbEndObject {s z : State} (h : Keeps s z) : Keeps s (mbEndObject z).2.2 :=
  .ite_snd_snd h (.ite_snd (.judgeCert h) (.judgeImage h))

theorem Keeps.mbEndLoad {s z : State} (h : Keeps s z) : Keeps s (mbEndLoad z).2.2 := .ite_snd_snd h (.loadDone h)

theorem Keeps.mbDecodeStatus {s z : State} (h : Keeps s z) : Keeps s (mbDecodeStatus z).2.2 := .ite_snd_snd h h

theorem Keeps.mbGetPubkey {s z : State} (h : Keeps s z) : Keeps s (mbGetPubkey z).2.2 := by
  unfold Machine.mbGetPubkey
  refine .ite_snd_snd h ?_
  split
  · exact h
  · exact h

theorem Keeps.mbAttest {s z : State} (h : Keeps s z) : Keeps s (mbAttest z).2.2 := by
  unfold Machine.mbAttest
  refine .ite_snd_snd h (.ite_snd_snd h ?_)
  split
  · exact h
  · exact h

theorem Keeps.flash {s z : State} {m : List (Nat × BitVec 8)} (h : Keeps s z)
    (hm : swf Config.flashByte z.sec.flash = true → swf Config.flashByte m = true) :
    Keeps s { z with sec := { z.sec with flash := m } } := by
  refine h.of_fit rfl fun ⟨hs, hw, hp⟩ => ⟨hs, ?_, hp⟩
  simp only [Memory.wf, Bool.and_eq_true] at hw ⊢
  obtain ⟨⟨⟨ht, hr⟩, h1⟩, h2⟩ := hw
  exact ⟨⟨⟨ht, hm hr⟩, h1⟩, h2⟩

theorem Keeps.mbEnrol {s z : State} {written : Bool} (h : Keeps s z) : Keeps s (mbEnrol written z).2.2 :=
  .ite_snd_snd h (.ite_snd_snd h (.ite_snd_snd h (.ite_snd_snd h (.ite_snd_snd h
    (.enrolled (.flash (.draw (w := 64) h) fun hm => foldl_wf _ _ (fun m _ hm => sset_wf _ m _ _ hm) _ _ hm))))))

theorem Keeps.mbRun {s z : State} (h : Keeps s z) : Keeps s (mbRun z).2.2 :=
  .ite_snd_snd h (.ite_snd_snd h (.ite h (.releaseAll h)))

theorem Keeps.mbCommand {s z : State} {op : Nat} {written : Bool} (h : Keeps s z) : Keeps s (mbCommand op written z).2.2 := by
  unfold Machine.mbCommand
  split
  · exact .mbLoad h
  · exact .mbEndObject h
  · exact .mbEndLoad h
  · exact .mbDecodeStatus h
  · exact .mbGetPubkey h
  · exact .mbAttest h
  · exact .mbEnrol h
  · exact .mbRun h
  · exact h

theorem Keeps.mbStart {s z : State} {op : Nat} {written : Bool} (h : Keeps s z) : Keeps s (mbStart op written z) :=
  .ite h (.mbCommand h)

theorem Keeps.mbAfter {s z : State} (h : Keeps s z) : Keeps s (mbAfter z) := by
  unfold Machine.mbAfter
  split
  · exact h
  · exact .mbStart h

theorem Answers.execMailboxComplete {s z : State} (h : Keeps s z) : Answers s (execMailboxComplete z) := by
  unfold Machine.execMailboxComplete
  split
  · exact .next (.mbAfter h)
  · exact .next h

theorem Keeps.mbWrite {s z : State} {who : Who} {op : Nat} {written : Bool} (h : Keeps s z) :
    Keeps s (mbWrite who op written z) :=
  .regWrite h fun _ hz => .mbStart hz

theorem Answers.execLoad {s z : State} {who : Who} (h : Keeps s z) : Answers s (execLoad who z) := .next (.mbWrite h)

theorem Answers.execEndObject {s z : State} {who : Who} (h : Keeps s z) : Answers s (execEndObject who z) := .next (.mbWrite h)

theorem Answers.execEndLoad {s z : State} {who : Who} (h : Keeps s z) : Answers s (execEndLoad who z) := .next (.mbWrite h)

theorem Answers.execDecodeStatus {s z : State} {who : Who} (h : Keeps s z) : Answers s (execDecodeStatus who z) :=
  .next (.mbWrite h)

theorem Answers.execGetPubkey {s z : State} {who : Who} (h : Keeps s z) : Answers s (execGetPubkey who z) := .next (.mbWrite h)

theorem Answers.execAttest {s z : State} {who : Who} (h : Keeps s z) : Answers s (execAttest who z) := .next (.mbWrite h)

theorem Answers.execEnrol {s z : State} {who : Who} {written : Bool} (h : Keeps s z) : Answers s (execEnrol who written z) :=
  .next (.mbWrite h)

theorem Answers.execRun {s z : State} {who : Who} (h : Keeps s z) : Answers s (execRun who z) := .next (.mbWrite h)

theorem Keeps.mbCmdWrite {s z : State} {v : Nat} (h : Keeps s z) : Keeps s (mbCmdWrite v z) := .mbStart (.ite_snd h h)

theorem Keeps.mbBufWrite {s z : State} {host : Bool} {a : Nat} {bs : List (BitVec 8)} (h : Keeps s z) :
    Keeps s (mbBufWrite host a bs z) :=
  .ite h h

/-! ### Operations of Machine/SeqRegs -/

theorem CoreKeeps.writeReg {c d : SeqCore} {o : Nat} {v : BitVec 32} {tag : BitVec 4} {tile halt : Bool} (h : CoreKeeps c d) :
    CoreKeeps c (d.writeReg o v tag tile halt) :=
  .ite (.ite h h) (.ite h (.ite h (.ite h (.ite h (.ite h (.ite h (.ite h (.ite h (.ite h (.ite h h))))))))))

/-! ### Operations of Machine/SmallChan -/

theorem Keeps.sceReject {s z : State} {t : Nat} {c : EngCmd} {cause : Nat} (h : Keeps s z) : Keeps s (sceReject t c cause z) :=
  .malformed (.sceErr h)

theorem Answers.execSceCmd {s z : State} {tile : Nat} (h : Keeps s z) : Answers s (execSceCmd tile z) := by
  unfold Machine.execSceCmd
  split
  · exact .next h
  · refine .ite (.next h) ?_
    split
    · exact .next (.sceReject h)
    · exact .next (.passCheck h)

theorem Keeps.beginSce {s z : State} {t : Nat} {c : EngCmd} (h : Keeps s z) : Keeps s (beginSce t c z) :=
  .ite h (.updSce (.beginCmd h))

theorem Answers.execSceLoadPhase {s z : State} {tile : Nat} {held : Held} (h : Keeps s z) :
    Answers s (execSceLoadPhase tile held z) := by
  unfold Machine.execSceLoadPhase
  split
  · exact .next h
  · refine .ite (.next h) ?_
    split
    · split
      · dsimp only
        split
        · exact .next (ValKeeps.error (.engRead (.charge (.beginSce h))) ‹_›)
        · exact .ite (.next (.sceReject (ValKeeps.ok (.engRead (.charge (.beginSce h))) ‹_›))) (.next (.retireRanges (.updSce
              (ValKeeps.ok (.engRead (.charge (.beginSce h))) ‹_›))))
      · dsimp only
        split
        · exact .next (ValKeeps.error (.engRead (.charge (.beginSce h))) ‹_›)
        · exact .ite (.next (.sceReject (ValKeeps.ok (.engRead (.charge (.beginSce h))) ‹_›))) (.next (.updSce (ValKeeps.ok
              (.engRead (.charge (.beginSce h))) ‹_›)))
    · split
      · dsimp only
        split
        · exact .next (ValKeeps.error (.engRead (.charge (.beginSce h))) ‹_›)
        · exact .ite (.next (.sceReject (ValKeeps.ok (.engRead (.charge (.beginSce h))) ‹_›))) (.next (.retireRanges (.updSce
              (ValKeeps.ok (.engRead (.charge (.beginSce h))) ‹_›))))
      · dsimp only
        split
        · exact .next (ValKeeps.error (.engRead (.charge (.beginSce h))) ‹_›)
        · exact .ite (.next (.sceReject (ValKeeps.ok (.engRead (.charge (.beginSce h))) ‹_›))) (.next (.updSce (ValKeeps.ok
              (.engRead (.charge (.beginSce h))) ‹_›)))

theorem Answers.execSceStreamTap {s z : State} {tile : Nat} {held : Held} {bufBad : Bool} (h : Keeps s z) :
    Answers s (execSceStreamTap tile held bufBad z) := by
  unfold Machine.execSceStreamTap
  split
  · exact .next h
  · refine .ite (.next h) (.ite (.next (.stepFault (.charge h))) ?_)
    split
    · split
      · dsimp only
        split
        · refine .next (ValKeeps.error ?_ ‹_›)
          split
          · exact .engRead (.charge h)
          · exact .mk_ok (.charge h)
        · refine .next (.updSce (ValKeeps.ok ?_ ‹_›))
          split
          · exact .engRead (.charge h)
          · exact .mk_ok (.charge h)
      · split
        · dsimp only
          split
          · refine .next (ValKeeps.error ?_ ‹_›)
            split
            · exact .engRead (.charge h)
            · exact .mk_ok (.charge h)
          · refine .next (.retireRanges (.updSce (ValKeeps.ok ?_ ‹_›)))
            split
            · exact .engRead (.charge h)
            · exact .mk_ok (.charge h)
        · dsimp only
          split
          · refine .next (ValKeeps.error ?_ ‹_›)
            split
            · exact .engRead (.charge h)
            · exact .mk_ok (.charge h)
          · refine .next (.updSce (ValKeeps.ok ?_ ‹_›))
            split
            · exact .engRead (.charge h)
            · exact .mk_ok (.charge h)
    · split
      · dsimp only
        split
        · refine .next (ValKeeps.error ?_ ‹_›)
          split
          · exact .engRead (.charge h)
          · exact .mk_ok (.charge h)
        · refine .next (.updSce (ValKeeps.ok ?_ ‹_›))
          split
          · exact .engRead (.charge h)
          · exact .mk_ok (.charge h)
      · split
        · dsimp only
          split
          · refine .next (ValKeeps.error ?_ ‹_›)
            split
            · exact .engRead (.charge h)
            · exact .mk_ok (.charge h)
          · refine .next (.retireRanges (.updSce (ValKeeps.ok ?_ ‹_›)))
            split
            · exact .engRead (.charge h)
            · exact .mk_ok (.charge h)
        · dsimp only
          split
          · refine .next (ValKeeps.error ?_ ‹_›)
            split
            · exact .engRead (.charge h)
            · exact .mk_ok (.charge h)
          · refine .next (.updSce (ValKeeps.ok ?_ ‹_›))
            split
            · exact .engRead (.charge h)
            · exact .mk_ok (.charge h)

theorem Answers.execSceResultLand {s z : State} {tile : Nat} (h : Keeps s z) : Answers s (execSceResultLand tile z) := by
  unfold Machine.execSceResultLand
  dsimp only
  split
  · exact .next (.ite (.popCmd (.updSce h)) (.updSce h))
  · exact .next h

theorem Answers.execSceCntClr {s z : State} {who : Who} {tile : Nat} {value : BitVec 32} (h : Keeps s z) :
    Answers s (execSceCntClr who tile value z) :=
  .next (.ite (.regWrite h fun _ hz => .updSce hz) h)

/-! ### Operations of Machine/Regs -/

theorem Keeps.wordBytes {s z : State} {o n u : Nat} (h : Keeps s z) : Keeps s (wordBytes o n u z).2 :=  .ite_snd h (.ite_snd h h)

theorem Keeps.read {s z : State} {w : MemWindow} {x n : Nat} (h : Keeps s z) : Keeps s (w.read x n z).2 := by
  cases w with
  | store t =>
    show Keeps s (Machine.tsNarrowRead t [(x, List.replicate n 0)] z).2.2
    exact .tsNarrowRead h
  | _ => exact h

theorem Keeps.unitRead {s z : State} {o n : Nat} (h : Keeps s z) : Keeps s (unitRead o n z).2 := by
  unfold Machine.unitRead
  split
  · exact h
  · refine .ite_snd h (.ite_snd (.countGated h) ?_)
    split
    · exact .read h
    · exact .wordBytes (.wordBytes h)

theorem Keeps.unitsRead {s : State} : ∀ {l : List (Nat × List (BitVec 8))} {z : State}, Keeps s z → Keeps s (unitsRead l z).2
  | [], _, h => h
  | _ :: _, _, h => by
    unfold Machine.unitsRead
    exact unitsRead (.unitRead h)

theorem Keeps.bar0Read {s z : State} {o n : Nat} (h : Keeps s z) : Keeps s (bar0Read o n z).2 := .unitsRead h

theorem Keeps.write32 {s z : State} {b : RegBlock} {who : Who} {o : Nat} {v : BitVec 32} (h : Keeps s z) : Keeps s (b.write32 who o v z)
    := by
  unfold RegBlock.write32
  split
  · exact .ite (.hbCtrlWrite h) (.ite h (.ite h h))
  · exact .ite h (.ite (.devFltCmd h) (.ite h h))
  · exact h
  · exact .ite (.icPendSet h) (.ite (.icPendClr h) (.ite (.icMaskSet h) (.ite (.icMaskClr h) (.ite (.icMaskSet h) (.ite (.icMaskClr h)
      (.ite (.icQLevel h) (.ite (.icRoute h) h)))))))
  · exact .ite (.srcCtrlWrite h) (.ite (.updClk h) (.ite (.clkEnSetWrite h) (.ite (.updClk h) (.ite (.updClk h) (.ite (.updClk h)
      (.ite (.dvfsReqWrite h) (.ite (.updClk h) (.ite (.updClk h) (.ite (.updClk h) h)))))))))
  · exact .ite h (.ite h h)
  · exact .ite (.dmaRingCmd h) (.ite (.dma h rfl) (.ite (.chCtrlWrite h) (.ite (.fifoTakeWrite h) (.ite (.cqHeadWrite h) h))))
  · exact .ite h (.ite h (.ite (.sliceReqWrite h) (.ite (.scFenceWrite h) (.ite h (.ite (.scInvalCtrl h) (.ite h (.ite h h)))))))
  · exact .ite (.updChan h) (.ite (.updChan h) (.ite (.updChan h) h))
  · exact .ite (.morCommit h) (.ite h (.ite h (.ite h h)))
  · exact .ite (.hod h rfl) (.ite (.hod h rfl) (.ite (.hod h rfl) h))
  · exact .ite (.updBond h) (.ite (.updBond h) (.ite (.bondCmdWrite h) (.ite (.updBond h) h)))
  · exact .ite (.chainCtrlWrite h) (.ite (.updChain h) (.ite (.updChain h) (.ite (.updChain h) h)))
  · exact .ite h (.ite (.mbCmdWrite h) (.ite h (.ite h h)))
  · exact .ite h (.ite (.updChain h) (.ite (.updChain h) (.ite h (.ite h (.ite h (.ite (.updOut h) (.ite h h)))))))
  · exact .ite (.resAck h) (.ite h (.ite h h))
  · exact .updCore h fun _ => .writeReg (.refl _)
  · exact .ite (.updVec h fun _ => .vecStatusWrite (.refl _)) (.ite (.updVec h fun _ => .vecErrWrite (.refl _))
      (.ite (.updVec h fun _ => .vecLfsrWrite (.refl _)) (.ite (.updVec h fun _ => .vecLfsrWrite (.refl _))
      (.ite (.updVec h fun _ => .vecCntClr (.refl _)) h))))
  · exact .ite (.updArr h) (.ite (.updArr h) (.ite (.updArr h) h))
  · exact .ite (.bankReqWrite h) (.ite (.updTs h fun _ => .tsPerrStatusWrite (.refl _)) (.ite (.updTs h fun _ => .tsCntClr (.refl _))
      (.ite (.updTs h fun _ => .refl _) h)))
  · exact .ite (.updSce h) (.ite (.updSce h) (.ite (.updSce h) h))
  · exact .ite (.updDrn h) (.ite (.updDrn h) h)
  · exact .ite (.updSt h) h

theorem Keeps.write64 {s z : State} {b : RegBlock} {who : Who} {o old : Nat} {lo hi : Option (BitVec 32)} (h : Keeps s z) :
    Keeps s (b.write64 who o old lo hi z) := by
  unfold RegBlock.write64
  split
  · exact .ite h (.ite h h)
  · split
    · exact .icTPendSet h
    · exact .icTPendClr h
    · exact .icTMaskSet h
    · exact .icTMaskClr h
    · exact .icTLevel h
    · exact h
  · exact .ite (.calGapWrite h) h
  · refine .ite h (.ite h (.ite (.fifoCfgWrite h) (.ite (.cqBaseWrite h) (.ite ?_ h))))
    split
    · exact .cqCfgWrite h
    · exact h
  · exact .ite h h
  · exact .ite (.updChan h) h
  · exact .ite (.tgtAWrite h) (.ite (.tgtBWrite h) h)
  · exact .ite (.mwinWrite h) (.ite (.mwinWrite h) h)
  · exact .ite (.msgTxWrite h) h
  · exact .ite h (.ite (.pulse h) h)
  · exact .updCore h fun _ => .writeReg (.refl _)
  · exact h

theorem Keeps.write {s z : State} {w : MemWindow} {who : Who} {x : Nat} {bs : List (BitVec 8)} (h : Keeps s z) :
    Keeps s (w.write who x bs z) := by
  unfold MemWindow.write
  split
  · exact .regWrite h fun _ hz => .tsNarrowWrite hz
  · exact .regWrite h fun _ hz => .updCore hz fun _ => .lramWrite (.refl _)
  · exact .regWrite h fun _ hz => .updCore hz fun _ => .lramTagWrite (.refl _)
  · exact .regWrite h fun _ hz => .updVec hz fun _ => .vpramPut (.refl _)
  · exact .regWrite h fun _ hz => .mbBufWrite hz

theorem Keeps.wordPiece {s z : State} {o : Nat} {bs : List (BitVec 8)} {u : Nat} (h : Keeps s z) :
    Keeps s (wordPiece o bs u z).2 :=
  .ite_snd h (.ite_snd h h)

theorem Keeps.reservedWrite {s z : State} {who : Who} (h : Keeps s z) : Keeps s (reservedWrite who z) := .ite (.hostReject h) h

theorem Keeps.wordWrite {s z : State} {who : Who} {u : Nat} {v : Option (BitVec 32)} (h : Keeps s z) :
    Keeps s (wordWrite who u v z) := by
  unfold Machine.wordWrite
  split
  · exact h
  · split
    · exact .regWrite h fun _ hz => .write32 hz
    · exact .reservedWrite h

theorem Keeps.unitWrite {s z : State} {who : Who} {start o : Nat} {bs : List (BitVec 8)} (h : Keeps s z) :
    Keeps s (unitWrite who start o bs z) := by
  unfold Machine.unitWrite
  split
  · exact .write h
  · extract_lets u
    split
    next lo s1 e1 =>
    have h1 : Keeps s s1 := .pair (.wordPiece h) e1
    split
    next hi s2 e2 =>
    have h2 : Keeps s s2 := .pair (.wordPiece h1) e2
    split
    · exact .ite h2 (.regWrite h2 fun _ hz => .write64 hz)
    · exact .wordWrite (.wordWrite h2)

theorem Keeps.bar0Bytes {s z : State} {who : Who} {o : Nat} {bs : List (BitVec 8)} (h : Keeps s z) :
    Keeps s (bar0Bytes who o bs z) :=
  .foldl h fun _ _ hz => .unitWrite hz

theorem Keeps.bar0Write {s z : State} {who : Who} {o n v : Nat} (h : Keeps s z) : Keeps s (bar0Write who o n v z) :=  .bar0Bytes h

theorem Keeps.hostUnits {s : State} : ∀ {l : List (Nat × List (BitVec 8))} {z : State}, Keeps s z → Keeps s (hostUnits l z).2
  | [], _, h => h
  | _ :: _, _, h => by
    unfold Machine.hostUnits
    exact hostUnits (.ite_snd (.unitRead h) h)

theorem Keeps.hostRegRead {s z : State} {o n : Nat} (h : Keeps s z) : Keeps s (hostRegRead o n z) :=
  .ite h (.ite (.toHost h) (.toHost (.hostUnits h)))

theorem Keeps.hostBellRead {s z : State} {n : Nat} (h : Keeps s z) : Keeps s (hostBellRead n z) :=
  .ite h (.ite (.toHost h) (.toHost (.ite (.countGated h) h)))

theorem Answers.execHostRegWrite {s z : State} {who : Who} {offset : Nat} {access : RegAccess} {mark : AccessMark}
    (h : Keeps s z) :
    Answers s (execHostRegWrite who offset access mark z) := by
  unfold Machine.execHostRegWrite
  split
  · exact .next (.ite (.hostWrite h fun _ hz => .ite (.countMorPerr (.linkUse hz)) (.bar0Bytes (.linkUse hz))) h)
  · exact .next (.ite h (.ite (.countMorPerr h) (.bar0Bytes h)))
  · exact .next (.ite (.bar0Bytes h) h)
  · exact .next (.ite h (.ite (.toHost (.countMorPerr h)) (.hostRegRead h)))
  · exact .next (.ite (.hostBellRead h) h)
  · exact .next h

/-! ### Operations of Machine/Operands -/

theorem OptKeeps.drainOne {s z : State} {core : Nat} (h : Keeps s z) : OptKeeps s (drainOne core z) := by
  unfold Machine.drainOne
  split
  · exact .mk_some h
  · exact .ite (.ite (.mk_none _) (.mk_some (.updTs (.updCore h fun _ => .refl _) fun _ => .ite (.put (.refl _)) (.countOff
        (.refl _))))) (.mk_some (.foldl (.updCore h fun _ => .refl _) fun _ _ hz => .ite (.icWordWrite hz) (.updCore hz
        fun _ => .setLword (.refl _))))

theorem OptKeeps.drainN {s : State} {core : Nat} : ∀ {n : Nat} {z : State}, Keeps s z → OptKeeps s (drainN core n z)
  | 0, _, h => .mk_some h
  | _ + 1, _, h => by
    unfold Machine.drainN
    split
    · exact drainN (OptKeeps.get (.drainOne h) ‹_›)
    · exact .mk_none _

theorem Keeps.chargeSeq {s z : State} {core n : Nat} (h : Keeps s z) : Keeps s (chargeSeq core n z) := .ite (.updSt h) h

theorem ResKeeps.readPiece {s z : State} {core : Nat} {sp : Space} {a n : Nat} {lo len : Nat} (h : Keeps s z) :
    ResKeeps s (readPiece core sp a n lo len z) := by
  unfold Machine.readPiece
  dsimp only
  split
  · exact .ite (.ite (.mk_wait _) (.mk_ok (.tsPerr (.updTs h fun _ => .countOff (.refl _))))) (.mk_ok h)
  · refine .ite (.mk_ok h) ?_
    split
    · exact .ite (.ite (.mk_wait _) (.mk_ok (.tsPerr (.updTs (.chargeSeq (OptKeeps.get (.drainN h) ‹_›)) fun _ => .countOff
          (.refl _))))) (.mk_ok (.chargeSeq (OptKeeps.get (.drainN h) ‹_›)))
    · exact .mk_wait _

theorem Keeps.rawByte {s z : State} {a : Nat} (h : Keeps s z) : Keeps s (rawByte a z).2 :=
  .ite_snd h (.ite_snd h (.ite_snd h (.ite_snd h h)))

theorem Keeps.rawRead {s : State} : ∀ {n a : Nat} {z : State}, Keeps s z → Keeps s (rawRead a n z).2
  | 0, _, _, h => h
  | _ + 1, _, _, h => by
    unfold Machine.rawRead
    exact rawRead (.rawByte h)

theorem Keeps.rawWrite {s : State} : ∀ {bs : List (BitVec 8)} {a : Nat} {z : State}, Keeps s z → Keeps s (rawWrite a bs z)
  | [], _, _, h => h
  | _ :: _, _, _, h => by
    unfold Machine.rawWrite
    exact rawWrite (.ite (.quoinRam h fun hm => sset_wf _ _ _ _ hm) (.ite (.quoinPuf h fun hm => sset_wf _ _ _ _ hm) h))

theorem Keeps.readRaw {s z : State} {a n : Nat} (h : Keeps s z) : Keeps s (readRaw a n z).2 := .ite_snd (.bar0Read h) (.rawRead h)

theorem Keeps.writeRaw {s z : State} {a n v : Nat} (h : Keeps s z) : Keeps s (writeRaw a n v z) :=
  .ite (.bar0Write h) (.rawWrite h)

theorem ResKeeps.readPieces {s : State} {core : Nat} {sp : Space} {n : Nat} : ∀ {l : List (Nat × Nat)} {z : State}, Keeps s z →
    ResKeeps s (readPieces core sp n l z)
  | [], _, h => .mk_ok h
  | _ :: _, _, h => .bind (.readPiece h) fun _ _ hz => .bind (readPieces hz) fun _ _ hz => .mk_ok hz

theorem ResKeeps.loadMem {s z : State} {core : Nat} {sp : Space} {w addr n : Nat} (h : Keeps s z) :
    ResKeeps s (loadMem core sp w addr n z) := by
  unfold Machine.loadMem
  split
  · split
    · exact .mk_ok (.readRaw h)
    · exact .bind (.readPieces h) fun _ _ hz => .mk_ok hz
    · exact .ite (.mk_ok h) (.bind (.readPieces h) fun _ _ hz => .mk_ok hz)
  · split
    · exact .mk_ok (.readRaw h)
    · exact .bind (.readPieces h) fun _ _ hz => .mk_ok hz
    · exact .ite (.mk_ok h) (.bind (.readPieces h) fun _ _ hz => .mk_ok hz)

theorem ResKeeps.loadOpd {s z : State} {core n : Nat} {p : Place} (h : Keeps s z) : ResKeeps s (loadOpd core n p z) := by
  unfold Machine.loadOpd
  split
  · exact .mk_ok h
  · exact .mk_ok h
  · exact .mk_ok h
  · exact .mk_ok h
  · exact .mk_ok h
  · exact .loadMem h

theorem ResKeeps.checkParity {s z : State} {vs : List SVal} (h : Keeps s z) : ResKeeps s (checkParity vs z) := by
  unfold Machine.checkParity
  split
  · exact .mk_ok h
  · exact .mk_trap h

theorem Keeps.fitBits {s z : State} {v frm wid : Nat} {wd : Widen} (h : Keeps s z) : Keeps s (fitBits v frm wid wd z).2 := by
  unfold Machine.fitBits
  refine .ite_snd h ?_
  split
  · exact h
  · exact h

theorem ResKeeps.makeEntry {s z : State} {core : Nat} {sp : Space} {a n data : Nat} {tags : List (BitVec 4)} (h : Keeps s z) :
    ResKeeps s (makeEntry core sp a n data tags z) :=
  .ite (.mk_ok h) (.bind (.readPiece h) fun _ _ hz => .mk_ok hz)

theorem ResKeeps.makeEntries {s : State} {core : Nat} {sp : Space} : ∀ {l : List (Nat × Nat)} {tags : List (BitVec 4)} {data : Nat}
    {z : State}, Keeps s z → ResKeeps s (makeEntries core sp tags l data z)
  | [], _, _, _, h => .mk_ok h
  | _ :: _, _, _, _, h => .bind (.makeEntry h) fun _ _ hz => by
    dsimp only
    split
    · exact .mk_wait _
    · exact .bind (makeEntries (OptKeeps.get (.drainOne hz) ‹_›)) fun _ _ hz => .mk_ok hz

theorem ResKeeps.storeMem {s z : State} {core : Nat} {sp : Space} {w addr data : Nat} {tags : List (BitVec 4)} (h : Keeps s z) :
    ResKeeps s (storeMem core sp w addr data tags z) := by
  unfold Machine.storeMem
  extract_lets size
  split
  · refine .mk_ok ?_
    split
    · exact .updCore h fun _ => .same (.refl _) rfl
    · exact .writeRaw h
  · refine .ite (.ite (.mk_trap h) (.mk_ok (.foldl h fun _ _ hz => .updCore hz fun _ => .setLword (.refl _))))
      (.bind (.makeEntries h) fun _ x hz => ?_)
    obtain ⟨es, pe⟩ := x
    cases pe with
    | some p => exact .mk_trap hz
    | none => exact .mk_ok (.updCore hz fun _ => .same (.refl _) rfl)

theorem ResKeeps.storeOpd {s z : State} {core : Nat} {p : Place} {tag : Option (BitVec 4)} {v bits : Nat} {wd : Widen}
    (h : Keeps s z) :
    ResKeeps s (storeOpd core p tag v bits wd z) := by
  unfold Machine.storeOpd
  split
  · exact .mk_ok h
  · exact .mk_ok h
  · exact .mk_ok (.updCore (.fitBits h) fun _ => .setG (.refl _))
  · exact .mk_ok (.updCore (.fitBits h) fun _ => .setF (.refl _))
  · exact .mk_ok (.updCore (.fitBits h) fun _ => .setQ (.refl _))
  · split
    · exact .mk_trap h
    · exact .storeMem (.fitBits h)

/-! ### Operations of Machine/SeqPair -/

theorem CoreKeeps.beginPair {c d : SeqCore} (h : CoreKeeps c d) : CoreKeeps c (d.beginPair) := h

theorem CoreKeeps.firstDone {b c d : SeqCore} {core : Nat} {l : GroupLate} (h : CoreKeeps b d) : CoreKeeps b (c.firstDone core d l) := by
  unfold SeqCore.firstDone
  split
  · exact h
  · exact ⟨fun hb => ⟨foldl_wf _ _ (fun m _ hm => sset_wf _ m _ _ hm) _ _ (h.1 hb).1,
      foldl_wf _ _ (fun m _ hm => sset_wf _ m _ _ hm) _ _ (h.1 hb).2⟩, h.2⟩

theorem CoreKeeps.writeBackFirst {c d : SeqCore} {l : GroupLate} (h : CoreKeeps c d) : CoreKeeps c (d.writeBackFirst l) :=
  .foldl (.foldl (.foldl h fun _ _ hz => .setG hz) fun _ _ hz => .setF hz) fun _ _ hz => .setLword hz

theorem Keeps.pulseNow {s z : State} {core : Nat} {mask : BitVec 128} (h : Keeps s z) : Keeps s (State.pulseNow core mask z) :=
  .ite (.updCore (.pulseAt h) fun _ => .same (.refl _) rfl) (.pulseAt h)

theorem Keeps.writeback {s z : State} {core : Nat} (h : Keeps s z) : Keeps s (State.writeback core z) := by
  unfold State.writeback
  split
  · exact h
  · extract_lets s1 s2
    have hs1 : Keeps s s1 := .updCore h fun _ => .writeBackFirst (.refl _)
    have hs2 : Keeps s s2 := .ite hs1 (.pulseNow hs1)
    split
    · exact .writeRaw hs2
    · exact hs2

theorem CoreKeeps.abandon {c d : SeqCore} (h : CoreKeeps c d) : CoreKeeps c (d.abandon) := by
  unfold SeqCore.abandon
  split
  · exact h
  · exact h

/-! ### Operations of Machine/SeqIrq -/

theorem Keeps.spendLate {s z : State} {core l : Nat} (h : Keeps s z) : Keeps s (z.spendLate core l) := .ite (.ite h h) (.updTic h)

theorem CoreKeeps.interrupt {c d : SeqCore} {l : Nat} (h : CoreKeeps c d) : CoreKeeps c (d.interrupt l) := by
  unfold SeqCore.interrupt
  extract_lets c0 c1
  have h0 : CoreKeeps c c0 := .abandon h
  have h1 : CoreKeeps c c1 := .ite (.same h0 rfl) h0
  exact .same (CoreKeeps.enter h1 (l := l) (ret := c0.pc) (vec := if l = 1 then c0.vecIrq else c0.vecUrg)) rfl

/-! ### Operations of Machine/SeqIssue -/

theorem CoreKeeps.endGroup {c d : SeqCore} (h : CoreKeeps c d) : CoreKeeps c (d.endGroup) := h

theorem CoreKeeps.advance {c d : SeqCore} (h : CoreKeeps c d) : CoreKeeps c (d.advance) := .endGroup h

theorem CoreKeeps.jumpTo {c d : SeqCore} {target : BitVec 32} (h : CoreKeeps c d) : CoreKeeps c (d.jumpTo target) := .endGroup h

theorem Keeps.holdBit {s z : State} {core : Nat} {b : Bool} (h : Keeps s z) : Keeps s (holdBit core b z) :=
  .ite (.updTs h fun _ => .refl _) h

theorem Keeps.chargeBank {s z : State} {core n : Nat} (h : Keeps s z) : Keeps s (chargeBank core n z) :=
  .ite (.updTs h fun _ => .refl _) h

theorem Keeps.settleEntry {s z : State} {core : Nat} (h : Keeps s z) : Keeps s (settleEntry core z) :=
  .ite h (.updCore h fun _ => .refl _)

theorem CoreKeeps.markHeld {c d : SeqCore} (h : CoreKeeps c d) : CoreKeeps c (d.markHeld) := h

theorem Keeps.settleSeq {s z : State} {core held lost : Nat} {b : Bool} (h : Keeps s z) :
    Keeps s (Machine.holdBit core b (Machine.chargeBank core lost (Machine.chargeSeq core held z))) := .holdBit (.chargeBank (.chargeSeq h))

theorem Keeps.finishSeq {s z : State} {core held lost : Nat} {r : SeqRes Flow} (h : Keeps s z) (hr : ResKeeps s r) :
    Keeps s (finishSeq core held lost z r) := by
  cases r with
  | ok s1 f =>
    have h1 : Keeps s s1 := hr
    cases f with
    | seq =>
      refine .updCore (.settleSeq h1) fun c => ?_
      split
      · exact .firstDone (.refl _)
      · exact .advance (.refl _)
    | jump t => exact .updCore (.settleSeq h1) fun _ => .jumpTo (.refl _)
    | stay => exact .settleEntry (.settleSeq h1)
    | hold => exact .settleEntry (.holdBit (.settleSeq h1))
    | done => exact .settleSeq h1
  | trap s1 t =>
    have h1 : Keeps s s1 := hr
    exact .coreTrap (.settleSeq h1)
  | wait => exact .settleEntry (.settleSeq (.updCore h fun _ => .markHeld (.refl _)))

theorem Keeps.beginSeq {s z : State} {core : Nat} (h : Keeps s z) : Keeps s (State.beginSeq core z) :=
  .ite (.updCore h fun _ => .beginPair (.refl _)) (.writeback h)

theorem Answers.issueSeq {s z : State} {opc : Nat} {o : SeqOps} {body : State → SeqRes Flow} (h : Keeps s z)
    (hbody : ∀ z, Keeps s z → ResKeeps s (body z)) :
    Answers s (issueSeq opc o body z) := by
  unfold Machine.issueSeq
  refine .ite (.next h) ?_
  split
  · exact .next h
  · refine .ite (.next h) ?_
    split
    · exact .next (.coreTrap (.writeback h))
    · exact .ite (.next h) (.next (.finishSeq h (hbody _ (.beginSeq h))))

theorem ResKeeps.withArgs {s z : State} {ka kb kc : Kinds} {own : Option Opd → Option Opd → Option Opd → Option Nat} {o : SeqOps}
    {body : Args → State → SeqRes Flow} (h : Keeps s z) (hbody : ∀ y0 z, Keeps s z → ResKeeps s (body y0 z)) :
    ResKeeps s (withArgs ka kb kc own o body z) := by
  unfold Machine.withArgs
  split
  · exact .mk_trap h
  · exact .mk_trap h
  · exact .mk_trap h
  · split
    · exact .mk_trap h
    · dsimp only
      split
      · exact .mk_trap h
      · exact .mk_trap h
      · exact .mk_trap h
      · exact hbody _ _ h

theorem ResKeeps.guardAll {s z : State} {cs : List (Except Trap Unit)} {k : SeqRes Flow} (h : Keeps s z) (hk : ResKeeps s k) :
    ResKeeps s (guardAll z cs k) := by
  unfold Machine.guardAll
  split
  · exact .mk_trap h
  · exact hk

/-! ### Operations of Machine/SeqAlu -/

theorem ResKeeps.dataOp {s z : State} {rule : Args → TagRule} {dflt : BitVec 4} {two : Bool} {div0 : Args → SVal → Bool}
    {f : Args → BitVec 4 → SVal → SVal → RVal} {x : Args} (h : Keeps s z) :
    ResKeeps s (dataOp rule dflt two div0 f x z) := by
  unfold Machine.dataOp
  refine .bind (.loadOpd h) fun _ _ hz => .bind (.loadOpd hz) fun _ _ hz => ?_
  split
  · exact .mk_trap hz
  · exact .guardAll hz (.bind (.checkParity hz) fun _ _ hz => .bind (.storeOpd hz) fun _ _ hz => .mk_ok hz)

theorem ResKeeps.intOp2 {s z : State} {rule : Args → TagRule} {f : Nat → Int → Int → Int} {a : Args} (h : Keeps s z) :
    ResKeeps s (intOp2 rule f a z) :=
  .dataOp h

theorem ResKeeps.bitOp2 {s z : State} {rule : TagRule} {f : Nat → Nat → Nat → Nat} {a : Args} (h : Keeps s z) :
    ResKeeps s (bitOp2 rule f a z) :=
  .dataOp h

theorem ResKeeps.cmpOp {s z : State} {rule : TagRule} {f : Nat → SVal → SVal → Bool} {a : Args} (h : Keeps s z) :
    ResKeeps s (cmpOp rule f a z) :=
  .dataOp h

theorem ResKeeps.divOp {s z : State} {f : Nat → Int → Int → Int} {a : Args} (h : Keeps s z) : ResKeeps s (divOp f a z) :=
  .dataOp h

theorem ResKeeps.fOp2 {s z : State} {rule : TagRule} {f : FV → FV → Nat} {a : Args} (h : Keeps s z) :
    ResKeeps s (fOp2 rule f a z) :=
  .dataOp h

theorem ResKeeps.fOp1 {s z : State} {f : FV → Nat} {a : Args} (h : Keeps s z) : ResKeeps s (fOp1 f a z) := .dataOp h

theorem ResKeeps.fCmp {s z : State} {f : Int → Bool} {a : Args} (h : Keeps s z) : ResKeeps s (fCmp f a z) := .dataOp h

theorem Answers.dataInstr {s z : State} {opc : Nat} {ka kb kc : Kinds} {op : Args → State → SeqRes Flow} {o : SeqOps}
    (h : Keeps s z) (hop : ∀ y0 z, Keeps s z → ResKeeps s (op y0 z)) :
    Answers s (dataInstr opc ka kb kc op o z) :=
  .issueSeq h fun _ hz => .withArgs hz fun _ _ hz => hop _ _ hz

theorem Answers.execNop {s z : State} {o : SeqOps} (h : Keeps s z) : Answers s (execNop o z) :=
  .dataInstr h fun _ _ hz => .mk_ok hz

theorem Answers.execMov {s z : State} {o : SeqOps} (h : Keeps s z) : Answers s (execMov o z) :=
  .dataInstr h fun _ _ hz => .dataOp hz

theorem Answers.execLdf {s z : State} {o : SeqOps} (h : Keeps s z) : Answers s (execLdf o z) :=
  .dataInstr h fun _ _ hz => .dataOp hz

theorem Answers.execRetag {s z : State} {o : SeqOps} (h : Keeps s z) : Answers s (execRetag o z) := by
  unfold Machine.execRetag
  refine .issueSeq h fun _ hz => .withArgs hz fun _ _ hz => .bind (.loadOpd hz) fun _ _ hz => ?_
  split
  · split
    · exact .mk_trap hz
    · exact .ite (.mk_trap hz) (.ite (.mk_trap hz) (.ite (.mk_trap hz) (.ite (.mk_trap hz) (.guardAll hz (.bind (.checkParity hz)
          fun _ _ hz => .bind (.storeOpd hz) fun _ _ hz => .mk_ok hz)))))
  · split
    · exact .mk_trap hz
    · exact .ite (.mk_trap hz) (.ite (.mk_trap hz) (.ite (.mk_trap hz) (.ite (.mk_trap hz) (.guardAll hz (.bind (.checkParity hz)
          fun _ _ hz => .bind (.storeOpd hz) fun _ _ hz => .mk_ok hz)))))

theorem Answers.execTagof {s z : State} {o : SeqOps} (h : Keeps s z) : Answers s (execTagof o z) := by
  unfold Machine.execTagof
  refine .issueSeq h fun _ hz => .withArgs hz fun _ _ hz => .bind (.loadOpd hz) fun _ _ hz => ?_
  split
  · exact .mk_trap hz
  · exact .bind (.checkParity hz) fun _ _ hz => .bind (.storeOpd hz) fun _ _ hz => .mk_ok hz

theorem Answers.execPush {s z : State} {o : SeqOps} (h : Keeps s z) : Answers s (execPush o z) := by
  unfold Machine.execPush
  refine .issueSeq h fun _ hz => .withArgs hz fun _ _ hz => ?_
  split
  · exact .mk_trap hz
  · refine .bind (.loadOpd hz) fun _ _ hz => ?_
    split
    · exact .mk_trap hz
    · split
      · exact .mk_trap hz
      · exact .bind (.checkParity hz) fun _ _ hz => .bind (.storeMem hz) fun _ _ hz => .mk_ok (.updCore hz fun _ => .setG
            (.refl _))

theorem ResKeeps.stackFirst {s z : State} {o : SeqOps} {body : State → SeqRes Flow} (h : Keeps s z)
    (hbody : ∀ z, Keeps s z → ResKeeps s (body z)) :
    ResKeeps s (stackFirst o body z) := by
  unfold Machine.stackFirst
  split
  · exact .mk_trap h
  · exact hbody _ h

theorem Answers.execPop {s z : State} {o : SeqOps} (h : Keeps s z) : Answers s (execPop o z) := by
  unfold Machine.execPop
  refine .issueSeq h fun _ hz => .stackFirst hz fun _ hz => .withArgs hz fun _ _ hz => ?_
  split
  · exact .mk_trap hz
  · refine .bind (.loadMem hz) fun _ _ hz => ?_
    split
    · exact .mk_trap hz
    · exact .ite (.mk_trap hz) (.guardAll hz (.bind (.checkParity hz) fun _ _ hz => .bind (.storeOpd hz) fun _ _ hz => .mk_ok
          (.updCore hz fun _ => .setG (.refl _))))

theorem Answers.execFst {s z : State} {o : SeqOps} (h : Keeps s z) : Answers s (execFst o z) :=
  .issueSeq h fun _ hz => .withArgs hz fun _ _ hz => .bind (.loadOpd hz) fun _ _ hz => .bind (.storeOpd hz)
      fun _ _ hz => .mk_ok hz

theorem Answers.execAdd {s z : State} {o : SeqOps} (h : Keeps s z) : Answers s (execAdd o z) :=
  .dataInstr h fun _ _ hz => .intOp2 hz

theorem Answers.execSub {s z : State} {o : SeqOps} (h : Keeps s z) : Answers s (execSub o z) :=
  .dataInstr h fun _ _ hz => .intOp2 hz

theorem Answers.execAdds {s z : State} {o : SeqOps} (h : Keeps s z) : Answers s (execAdds o z) :=
  .dataInstr h fun _ _ hz => .intOp2 hz

theorem Answers.execSubs {s z : State} {o : SeqOps} (h : Keeps s z) : Answers s (execSubs o z) :=
  .dataInstr h fun _ _ hz => .intOp2 hz

theorem Answers.execMul {s z : State} {o : SeqOps} (h : Keeps s z) : Answers s (execMul o z) :=
  .dataInstr h fun _ _ hz => .intOp2 hz

theorem Answers.execMulh {s z : State} {o : SeqOps} (h : Keeps s z) : Answers s (execMulh o z) :=
  .dataInstr h fun _ _ hz => .intOp2 hz

theorem Answers.execDivs {s z : State} {o : SeqOps} (h : Keeps s z) : Answers s (execDivs o z) :=
  .dataInstr h fun _ _ hz => .divOp hz

theorem Answers.execRems {s z : State} {o : SeqOps} (h : Keeps s z) : Answers s (execRems o z) :=
  .dataInstr h fun _ _ hz => .divOp hz

theorem Answers.execAnd {s z : State} {o : SeqOps} (h : Keeps s z) : Answers s (execAnd o z) :=
  .dataInstr h fun _ _ hz => .bitOp2 hz

theorem Answers.execOr {s z : State} {o : SeqOps} (h : Keeps s z) : Answers s (execOr o z) :=
  .dataInstr h fun _ _ hz => .bitOp2 hz

theorem Answers.execXor {s z : State} {o : SeqOps} (h : Keeps s z) : Answers s (execXor o z) :=
  .dataInstr h fun _ _ hz => .bitOp2 hz

theorem Answers.execAndn {s z : State} {o : SeqOps} (h : Keeps s z) : Answers s (execAndn o z) :=
  .dataInstr h fun _ _ hz => .bitOp2 hz

theorem Answers.execShl {s z : State} {o : SeqOps} (h : Keeps s z) : Answers s (execShl o z) :=
  .dataInstr h fun _ _ hz => .bitOp2 hz

theorem Answers.execShr {s z : State} {o : SeqOps} (h : Keeps s z) : Answers s (execShr o z) :=
  .dataInstr h fun _ _ hz => .bitOp2 hz

theorem Answers.execSar {s z : State} {o : SeqOps} (h : Keeps s z) : Answers s (execSar o z) :=
  .dataInstr h fun _ _ hz => .intOp2 hz

theorem Answers.execMin {s z : State} {o : SeqOps} (h : Keeps s z) : Answers s (execMin o z) :=
  .dataInstr h fun _ _ hz => .intOp2 hz

theorem Answers.execMax {s z : State} {o : SeqOps} (h : Keeps s z) : Answers s (execMax o z) :=
  .dataInstr h fun _ _ hz => .intOp2 hz

theorem Answers.execNot {s z : State} {o : SeqOps} (h : Keeps s z) : Answers s (execNot o z) :=
  .dataInstr h fun _ _ hz => .dataOp hz

theorem Answers.execNeg {s z : State} {o : SeqOps} (h : Keeps s z) : Answers s (execNeg o z) :=
  .dataInstr h fun _ _ hz => .dataOp hz

theorem Answers.execClz {s z : State} {o : SeqOps} (h : Keeps s z) : Answers s (execClz o z) :=
  .dataInstr h fun _ _ hz => .dataOp hz

theorem Answers.execPopc {s z : State} {o : SeqOps} (h : Keeps s z) : Answers s (execPopc o z) :=
  .dataInstr h fun _ _ hz => .dataOp hz

theorem Answers.execCeq {s z : State} {o : SeqOps} (h : Keeps s z) : Answers s (execCeq o z) :=
  .dataInstr h fun _ _ hz => .cmpOp hz

theorem Answers.execCne {s z : State} {o : SeqOps} (h : Keeps s z) : Answers s (execCne o z) :=
  .dataInstr h fun _ _ hz => .cmpOp hz

theorem Answers.execClt {s z : State} {o : SeqOps} (h : Keeps s z) : Answers s (execClt o z) :=
  .dataInstr h fun _ _ hz => .cmpOp hz

theorem Answers.execCle {s z : State} {o : SeqOps} (h : Keeps s z) : Answers s (execCle o z) :=
  .dataInstr h fun _ _ hz => .cmpOp hz

theorem Answers.execCltu {s z : State} {o : SeqOps} (h : Keeps s z) : Answers s (execCltu o z) :=
  .dataInstr h fun _ _ hz => .cmpOp hz

theorem Answers.execCleu {s z : State} {o : SeqOps} (h : Keeps s z) : Answers s (execCleu o z) :=
  .dataInstr h fun _ _ hz => .cmpOp hz

theorem Answers.execFadd {s z : State} {o : SeqOps} (h : Keeps s z) : Answers s (execFadd o z) :=
  .dataInstr h fun _ _ hz => .fOp2 hz

theorem Answers.execFsub {s z : State} {o : SeqOps} (h : Keeps s z) : Answers s (execFsub o z) :=
  .dataInstr h fun _ _ hz => .fOp2 hz

theorem Answers.execFmul {s z : State} {o : SeqOps} (h : Keeps s z) : Answers s (execFmul o z) :=
  .dataInstr h fun _ _ hz => .fOp2 hz

theorem Answers.execFma {s z : State} {o : SeqOps} (h : Keeps s z) : Answers s (execFma o z) :=
  .issueSeq h fun _ hz => .withArgs hz fun _ _ hz => .bind (.loadOpd hz) fun _ _ hz => .bind (.loadOpd hz) fun _ _ hz => .bind
      (.loadOpd hz) fun _ _ hz => .guardAll hz (.bind (.checkParity hz) fun _ _ hz => .bind (.storeOpd hz)
      fun _ _ hz => .mk_ok hz)

theorem Answers.execFmin {s z : State} {o : SeqOps} (h : Keeps s z) : Answers s (execFmin o z) :=
  .dataInstr h fun _ _ hz => .fOp2 hz

theorem Answers.execFmax {s z : State} {o : SeqOps} (h : Keeps s z) : Answers s (execFmax o z) :=
  .dataInstr h fun _ _ hz => .fOp2 hz

theorem Answers.execFceq {s z : State} {o : SeqOps} (h : Keeps s z) : Answers s (execFceq o z) :=
  .dataInstr h fun _ _ hz => .fCmp hz

theorem Answers.execFclt {s z : State} {o : SeqOps} (h : Keeps s z) : Answers s (execFclt o z) :=
  .dataInstr h fun _ _ hz => .fCmp hz

theorem Answers.execFcle {s z : State} {o : SeqOps} (h : Keeps s z) : Answers s (execFcle o z) :=
  .dataInstr h fun _ _ hz => .fCmp hz

theorem Answers.execCvtif {s z : State} {o : SeqOps} (h : Keeps s z) : Answers s (execCvtif o z) :=
  .dataInstr h fun _ _ hz => .dataOp hz

theorem Answers.execCvtfi {s z : State} {o : SeqOps} (h : Keeps s z) : Answers s (execCvtfi o z) :=
  .dataInstr h fun _ _ hz => .dataOp hz

theorem Answers.execFabs {s z : State} {o : SeqOps} (h : Keeps s z) : Answers s (execFabs o z) :=
  .dataInstr h fun _ _ hz => .fOp1 hz

theorem Answers.execFneg {s z : State} {o : SeqOps} (h : Keeps s z) : Answers s (execFneg o z) :=
  .dataInstr h fun _ _ hz => .fOp1 hz

/-! ### Operations of Machine/SeqCtl -/

theorem ResKeeps.withTarget {s z : State} {x : Args} {k : State → BitVec 32 → SeqRes Flow} (h : Keeps s z)
    (hk : ∀ z y1, Keeps s z → ResKeeps s (k z y1)) :
    ResKeeps s (withTarget x z k) :=
  .bind (.loadOpd h) fun _ _ hz => .guardAll hz (.bind (.checkParity hz) fun _ _ hz => hk _ _ hz)

theorem Answers.execBr {s z : State} {o : SeqOps} (h : Keeps s z) : Answers s (execBr o z) :=
  .issueSeq h fun _ hz => .withArgs hz fun _ _ hz => .withTarget hz fun _ _ hz => .mk_ok hz

theorem Answers.condBranch {s z : State} {opc want : Nat} {o : SeqOps} (h : Keeps s z) : Answers s (condBranch opc want o z) :=
  .issueSeq h fun _ hz => .withArgs hz fun _ _ hz => .bind (.loadOpd hz) fun _ _ hz => .bind (.loadOpd hz)
      fun _ _ hz => .guardAll hz (.bind (.checkParity hz) fun _ _ hz => .ite (.mk_ok hz) (.mk_ok hz))

theorem Answers.execBt {s z : State} {o : SeqOps} (h : Keeps s z) : Answers s (execBt o z) := .condBranch h

theorem Answers.execBf {s z : State} {o : SeqOps} (h : Keeps s z) : Answers s (execBf o z) := .condBranch h

theorem ResKeeps.pushReturn {s z : State} {core : Nat} {ret : BitVec 32} (h : Keeps s z) : ResKeeps s (pushReturn core ret z) :=
  .ite (.mk_ok (.updCore h fun _ => .refl _)) (.ite (.mk_trap h) (.bind (.storeMem h) fun _ _ hz => .mk_ok (.updCore hz
      fun _ => .refl _)))

theorem Answers.execCall {s z : State} {o : SeqOps} (h : Keeps s z) : Answers s (execCall o z) :=
  .issueSeq h fun _ hz => .withArgs hz fun _ _ hz => .withTarget hz fun _ _ hz => .bind (.pushReturn hz) fun _ _ hz => .mk_ok hz

theorem ResKeeps.retBody {s z : State} {x : Args} (h : Keeps s z) : ResKeeps s (retBody x z) := by
  unfold Machine.retBody
  dsimp only
  split
  · exact .mk_ok (.updCore h fun _ => .refl _)
  · exact .ite (.mk_trap h) (.bind (.loadMem h) fun _ _ hz => .guardAll hz (.bind (.checkParity hz) fun _ _ hz => .mk_ok
        (.updCore hz fun _ => .refl _)))

theorem Answers.execRet {s z : State} {o : SeqOps} (h : Keeps s z) : Answers s (execRet o z) :=
  .issueSeq h fun _ hz => .withArgs hz fun _ _ hz => .retBody hz

theorem CoreKeeps.abandonExit {c d : SeqCore} (h : CoreKeeps c d) : CoreKeeps c (d.abandonExit) := h

theorem Answers.execReti {s z : State} {o : SeqOps} (h : Keeps s z) : Answers s (execReti o z) :=
  .issueSeq h fun _ hz => .withArgs hz fun _ _ hz => .ite (.mk_trap hz) (.ite (.mk_ok (.updCore (.spendLate hz)
      fun _ => .abandonExit (.refl _))) (.mk_ok (.updCore hz fun _ => .leave (.refl _))))

theorem Answers.execDbnz {s z : State} {o : SeqOps} (h : Keeps s z) : Answers s (execDbnz o z) :=
  .issueSeq h fun _ hz => .withArgs hz fun _ _ hz => .bind (.loadOpd hz) fun _ _ hz => .bind (.loadOpd hz)
      fun _ _ hz => .guardAll hz (.bind (.checkParity hz) fun _ _ hz => .bind (.storeOpd hz) fun _ _ hz => .ite (.mk_ok hz)
      (.mk_ok hz))

theorem ResKeeps.drainAll {s z : State} {core : Nat} (h : Keeps s z) : ResKeeps s (drainAll core z) := by
  unfold Machine.drainAll
  split
  · exact .mk_ok (OptKeeps.get (.drainN h) ‹_›)
  · exact .mk_wait _

theorem Answers.execIflush {s z : State} {o : SeqOps} (h : Keeps s z) : Answers s (execIflush o z) :=
  .issueSeq h fun _ hz => .withArgs hz fun _ _ hz => .bind (.drainAll hz) fun _ _ hz => .mk_ok hz

theorem Answers.execFence {s z : State} {o : SeqOps} (h : Keeps s z) : Answers s (execFence o z) :=
  .issueSeq h fun _ hz => .withArgs hz fun _ _ hz => .bind (.drainAll hz) fun _ _ hz => .mk_ok hz

theorem ResKeeps.consumeEvent {s z : State} {x : Args} {n : Nat} (h : Keeps s z) : ResKeeps s (consumeEvent x n z) :=
  .bind (.storeOpd h) fun _ _ hz => .mk_ok (.updCore hz fun _ => .refl _)

theorem ResKeeps.beginWait {s z : State} {core : Nat} {w : WaitFor} (h : Keeps s z) : ResKeeps s (beginWait core w z) :=
  .mk_ok (.updCore h fun _ => .refl _)

theorem Answers.execWaite {s z : State} {o : SeqOps} (h : Keeps s z) : Answers s (execWaite o z) := by
  unfold Machine.execWaite
  refine .issueSeq h fun _ hz => .withArgs hz fun _ _ hz => .bind (.loadOpd hz) fun _ _ hz => .guardAll hz (.bind
      (.checkParity hz) fun _ _ hz => ?_)
  dsimp only
  split
  · exact .consumeEvent hz
  · exact .beginWait hz

theorem Answers.execWaitet {s z : State} {o : SeqOps} (h : Keeps s z) : Answers s (execWaitet o z) := by
  unfold Machine.execWaitet
  refine .issueSeq h fun _ hz => .withArgs hz fun _ _ hz => .bind (.loadOpd hz) fun _ _ hz => .bind (.loadOpd hz)
      fun _ _ hz => .guardAll hz (.bind (.checkParity hz) fun _ _ hz => ?_)
  split
  · dsimp only
    split
    · exact .consumeEvent hz
    · exact .bind (.storeOpd hz) fun _ _ hz => .mk_ok hz
  · dsimp only
    split
    · exact .consumeEvent hz
    · exact .beginWait hz

theorem Answers.execPulse {s z : State} {o : SeqOps} (h : Keeps s z) : Answers s (execPulse o z) := by
  unfold Machine.execPulse
  refine .issueSeq h fun _ hz => .withArgs hz fun _ _ hz => .bind (.loadOpd hz) fun _ _ hz => .guardAll hz (.bind
      (.checkParity hz) fun _ _ hz => .mk_ok ?_)
  split
  · exact .updCore hz fun _ => .refl _
  · exact .pulseNow hz

theorem Answers.execWaitt {s z : State} {o : SeqOps} (h : Keeps s z) : Answers s (execWaitt o z) :=
  .issueSeq h fun _ hz => .withArgs hz fun _ _ hz => .bind (.loadOpd hz) fun _ _ hz => .guardAll hz (.bind (.checkParity hz)
      fun _ _ hz => .ite (.mk_ok hz) (.beginWait hz))

theorem Answers.execRdtime {s z : State} {o : SeqOps} (h : Keeps s z) : Answers s (execRdtime o z) :=
  .issueSeq h fun _ hz => .withArgs hz fun _ _ hz => .bind (.storeOpd hz) fun _ _ hz => .mk_ok hz

theorem Keeps.wakeWith {s z : State} {core : Nat} {a : BitVec 19} {body : Args → State → SeqRes Flow} (h : Keeps s z)
    (hbody : ∀ y0 z, Keeps s z → ResKeeps s (body y0 z)) :
    Keeps s (wakeWith core a body z) := by
  unfold Machine.wakeWith
  split
  · exact h
  · dsimp only
    split
    · exact .coreTrap (.updCore h fun _ => .refl _)
    · split
      · exact .holdBit h
      · exact .finishSeq h (hbody _ _ (.updCore h fun _ => .refl _))

theorem Answers.execWaiteWake {s z : State} {core : Nat} (h : Keeps s z) : Answers s (execWaiteWake core z) := by
  unfold Machine.execWaiteWake
  split
  · split
    · exact .next (.wakeWith h fun _ _ hz => .consumeEvent hz)
    · exact .next h
  · exact .next h

theorem Answers.execWaitetWake {s z : State} {core : Nat} (h : Keeps s z) : Answers s (execWaitetWake core z) := by
  unfold Machine.execWaitetWake
  split
  · split
    · exact .next (.wakeWith h fun _ _ hz => .consumeEvent hz)
    · exact .ite (.next (.wakeWith h fun _ _ hz => .bind (.storeOpd hz) fun _ _ hz => .mk_ok hz)) (.next h)
  · exact .next h

theorem Answers.execWaittWake {s z : State} {core : Nat} (h : Keeps s z) : Answers s (execWaittWake core z) := by
  unfold Machine.execWaittWake
  split
  · exact .ite (.next (.finishSeq h (.mk_ok (.updCore h fun _ => .refl _)))) (.next h)
  · exact .next h

theorem Keeps.placeStep {s z : State} {t : Nat} {d : BitVec 1024} (h : Keeps s z) : Keeps s (placeStep t d z) := .updSt h

theorem Answers.execStep {s z : State} {o : SeqOps} (h : Keeps s z) : Answers s (execStep o z) :=
  .issueSeq h fun _ hz => .withArgs hz fun _ _ hz => .bind (.loadOpd hz) fun _ _ hz => .guardAll hz (.bind (.checkParity hz)
      fun _ _ hz => .bind (.drainAll hz) fun _ _ hz => .ite (.mk_trap hz) (.ite (.mk_ok hz) (.ite (.mk_ok (.placeStep hz))
      (.beginWait hz))))

theorem Answers.execStepStallRelease {s z : State} {core : Nat} (h : Keeps s z) : Answers s (execStepStallRelease core z) := by
  unfold Machine.execStepStallRelease
  split
  · exact .ite (.next (.finishSeq h (.mk_ok (.placeStep (.updCore h fun _ => .refl _))))) (.next h)
  · exact .next h

theorem Answers.execStstat {s z : State} {o : SeqOps} (h : Keeps s z) : Answers s (execStstat o z) := by
  unfold Machine.execStstat
  refine .issueSeq h fun _ hz => .withArgs hz fun _ _ hz => .bind (.storeOpd hz) fun _ _ hz => .mk_ok (.updCore hz fun _ => ?_)
  split
  · exact .refl _
  · exact .ite (.refl _) (.refl _)

theorem Answers.execMfsr {s z : State} {o : SeqOps} (h : Keeps s z) : Answers s (execMfsr o z) :=
  .issueSeq h fun _ hz => .withArgs hz fun _ _ hz => .bind (.storeOpd hz) fun _ _ hz => .mk_ok hz

theorem Answers.execMtsr {s z : State} {o : SeqOps} (h : Keeps s z) : Answers s (execMtsr o z) := by
  unfold Machine.execMtsr
  refine .issueSeq h fun _ hz => .withArgs hz fun _ _ hz => .bind (.loadOpd hz) fun _ _ hz => ?_
  split
  · exact .mk_trap hz
  · exact .ite (.mk_trap hz) (.bind (.checkParity hz) fun _ _ hz => .mk_ok (.updCore hz fun _ => .writeReg (.refl _)))

theorem Answers.execTrap {s z : State} {o : SeqOps} (h : Keeps s z) : Answers s (execTrap o z) :=
  .issueSeq h fun _ hz => .withArgs hz fun _ _ hz => .mk_trap hz

/-! ### Operations of Machine/SeqBlock -/

theorem Keeps.blkAdvance {s z : State} {core ctl : Nat} {src dst : Bool} (h : Keeps s z) :
    Keeps s (blkAdvance core ctl src dst z) :=
  .updCore h fun _ => .setG (.ite (.setG (.ite (.setG (.refl _)) (.refl _))) (.ite (.setG (.refl _)) (.refl _)))

theorem Keeps.setG14 {s z : State} {core : Nat} {b : Bool} (h : Keeps s z) : Keeps s (setG14 core b z) :=
  .updCore h fun _ => .setG (.refl _)

theorem ResKeeps.atPointer {s : State} {r : SeqRes Unit} (h : ResKeeps s r) : ResKeeps s (atPointer r) := by
  cases r <;> exact h

theorem Keeps.blkSuspend {s z : State} {core ctl : Nat} (h : Keeps s z) : Keeps s (blkSuspend core ctl z) :=
  .ite (.updCore h fun _ => .refl _) h

theorem ResKeeps.bmoveIter {s z : State} {ctl : Nat} {fill : SVal} {core : Nat} (h : Keeps s z) : ResKeeps s (bmoveIter ctl fill core z)
    := by
  unfold Machine.bmoveIter
  dsimp only
  split
  · exact .mk_trap h
  · exact .mk_trap h
  · refine .bind (.loadMem h) fun _ _ hz => ?_
    split
    · exact .mk_trap hz
    · exact .bind (.checkParity hz) fun _ _ hz => .bind (.atPointer (.storeMem hz)) fun _ _ hz => .mk_ok (.blkAdvance hz)

theorem ResKeeps.bfillIter {s z : State} {ctl : Nat} {fill : SVal} {core : Nat} (h : Keeps s z) : ResKeeps s (bfillIter ctl fill core z)
    := by
  unfold Machine.bfillIter
  extract_lets w
  split
  · exact .mk_trap h
  · exact .bind (.atPointer (.storeOpd h)) fun _ _ hz => .mk_ok (.blkAdvance hz)

theorem ResKeeps.bcmpIter {s z : State} {ctl : Nat} {_fill : SVal} {core : Nat} (h : Keeps s z) :
    ResKeeps s (bcmpIter ctl _fill core z) := by
  unfold Machine.bcmpIter
  extract_lets c
  split
  · exact .mk_trap h
  · exact .mk_trap h
  · refine .bind (.loadMem h) fun _ _ hz => .bind (.loadMem hz) fun _ _ hz => ?_
    split
    · exact .mk_trap hz
    · exact .mk_trap hz
    · exact .bind (.checkParity hz) fun _ _ hz => .ite (.mk_ok (.setG14 hz)) (.mk_ok (.blkAdvance hz))

theorem ResKeeps.bseekIter {s z : State} {ctl : Nat} {fill : SVal} {core : Nat} (h : Keeps s z) :
    ResKeeps s (bseekIter ctl fill core z) := by
  unfold Machine.bseekIter
  dsimp only
  split
  · exact .mk_trap h
  · refine .bind (.loadMem h) fun _ _ hz => ?_
    split
    · exact .mk_trap hz
    · exact .bind (.checkParity hz) fun _ _ hz => .ite (.mk_ok (.setG14 hz)) (.mk_ok (.blkAdvance hz))

theorem ResKeeps.blkRun {s : State} {core ctl : Nat} {seek : Bool} {iter : State → SeqRes BlkStep}
    (hi : ∀ z, Keeps s z → ResKeeps s (iter z)) : ∀ {n : Nat} {z : State}, Keeps s z → ResKeeps s (blkRun core ctl seek iter n z)
  | 0, _, h => .ite (.mk_ok (.ite (.setG14 h) h)) (.mk_ok (.updCore h fun _ => .same (.refl _) rfl))
  | _ + 1, z, h => by
    unfold Machine.blkRun
    refine .ite (.mk_ok (.ite (.setG14 h) h)) ?_
    split
    · have h1 := ResKeeps.ok (hi z h) ‹_›
      exact .ite (blkRun hi h1) (.mk_ok (.ite (.setG14 h1) h1))
    · exact .mk_ok (ResKeeps.ok (hi z h) ‹_›)
    · exact .mk_trap (.blkSuspend (ResKeeps.trap (hi z h) ‹_›))
    · exact .mk_ok (.ite (.updCore h fun _ => .same (.refl _) rfl) h)

theorem Answers.blkInstr {s z : State} {opc : Nat} {kb : Kinds} {ptrs : List Nat} {seek : Bool}
    {iter : Nat → SVal → Nat → State → SeqRes BlkStep} {upto : Nat} {o : SeqOps} (h : Keeps s z)
    (hiter : ∀ y0 y1 y2 z, Keeps s z → ResKeeps s (iter y0 y1 y2 z)) :
    Answers s (blkInstr opc kb ptrs seek iter upto o z) :=
  .issueSeq h fun _ hz => .withArgs hz fun _ _ hz => .ite (.mk_trap (.updCore hz fun _ => .refl _)) (.bind (.loadOpd (.updCore hz
      fun _ => .refl _)) fun _ _ hz => .guardAll (.ite (.blkSuspend hz) hz) (.bind (.checkParity hz) fun _ _ hz => .blkRun
      (fun _ hz => hiter _ _ _ _ hz) hz))

theorem Answers.execBmove {s z : State} {upto : Nat} {o : SeqOps} (h : Keeps s z) : Answers s (execBmove upto o z) :=
  .blkInstr h fun _ _ _ _ hz => .bmoveIter hz

theorem Answers.execBfill {s z : State} {upto : Nat} {o : SeqOps} (h : Keeps s z) : Answers s (execBfill upto o z) :=
  .blkInstr h fun _ _ _ _ hz => .bfillIter hz

theorem Answers.execBcmp {s z : State} {upto : Nat} {o : SeqOps} (h : Keeps s z) : Answers s (execBcmp upto o z) :=
  .blkInstr h fun _ _ _ _ hz => .bcmpIter hz

theorem Answers.execBseek {s z : State} {upto : Nat} {o : SeqOps} (h : Keeps s z) : Answers s (execBseek upto o z) :=
  .blkInstr h fun _ _ _ _ hz => .bseekIter hz

/-! ### Operations of Machine/SeqQ -/

theorem Answers.execQld {s z : State} {o : SeqOps} (h : Keeps s z) : Answers s (execQld o z) :=
  .issueSeq h fun _ hz => .withArgs hz fun _ _ hz => .bind (.loadOpd hz) fun _ _ hz => .guardAll hz (.bind (.checkParity hz)
      fun _ _ hz => .bind (.storeOpd hz) fun _ _ hz => .mk_ok hz)

theorem Answers.execQst {s z : State} {o : SeqOps} (h : Keeps s z) : Answers s (execQst o z) :=
  .issueSeq h fun _ hz => .withArgs hz fun _ _ hz => .bind (.loadOpd hz) fun _ _ hz => .bind (.storeOpd hz)
      fun _ _ hz => .mk_ok hz

theorem ResKeeps.ffRead {s z : State} {core : Nat} {sp : Space} {addr n : Nat} (h : Keeps s z) :
    ResKeeps s (ffRead core sp addr n z) := by
  unfold Machine.ffRead
  refine .ite (.mk_ok h) ?_
  split
  · exact .mk_ok (.readRaw h)
  · exact .ite (.mk_ok h) (.readPieces h)

theorem ResKeeps.qldffBody {s z : State} {core qi c : Nat} {sp : Space} {addr : Nat} (h : Keeps s z) :
    ResKeeps s (qldffBody core qi c sp addr z) := by
  unfold Machine.qldffBody
  refine .bind (.ffRead h) fun s1 x hz => ?_
  obtain ⟨v, tags, pe⟩ := x
  refine .guardAll hz (.bind (.checkParity hz) fun _ _ hz => .mk_ok (.updCore hz fun q => ?_))
  extract_lets d
  have hd : CoreKeeps q d := .setQ (.refl q)
  exact .same hd rfl

theorem Answers.execQldff {s z : State} {o : SeqOps} (h : Keeps s z) : Answers s (execQldff o z) := by
  unfold Machine.execQldff
  refine .issueSeq h fun _ hz => ?_
  split
  · refine .ite ?_ (.mk_trap hz)
    split
    · exact .mk_trap hz
    · exact .ite (.mk_trap hz) (.qldffBody hz)
  · exact .mk_trap hz
  · exact .mk_trap hz
  · exact .mk_trap hz
  · exact .mk_trap hz

theorem Answers.execQmov {s z : State} {o : SeqOps} (h : Keeps s z) : Answers s (execQmov o z) :=
  .issueSeq h fun _ hz => .withArgs hz fun _ _ hz => .bind (.loadOpd hz) fun _ _ hz => .guardAll hz (.bind (.checkParity hz)
      fun _ _ hz => .bind (.storeOpd hz) fun _ _ hz => .mk_ok hz)

theorem Answers.splatInstr {s z : State} {opc w : Nat} {o : SeqOps} (h : Keeps s z) : Answers s (splatInstr opc w o z) :=
  .issueSeq h fun _ hz => .withArgs hz fun _ _ hz => .bind (.loadOpd hz) fun _ _ hz => .guardAll hz (.bind (.checkParity hz)
      fun _ _ hz => .bind (.storeOpd hz) fun _ _ hz => .mk_ok hz)

theorem Answers.execQsplatH {s z : State} {o : SeqOps} (h : Keeps s z) : Answers s (execQsplatH o z) := .splatInstr h

theorem Answers.execQsplatW {s z : State} {o : SeqOps} (h : Keeps s z) : Answers s (execQsplatW o z) := .splatInstr h

theorem Answers.q3Instr {s z : State} {opc : Nat} {f : BitVec 128 → BitVec 128 → BitVec 128 → BitVec 128} {o : SeqOps}
    (h : Keeps s z) :
    Answers s (q3Instr opc f o z) := by
  unfold Machine.q3Instr
  refine .issueSeq h fun _ hz => .withArgs hz fun _ _ hz => ?_
  split
  · exact .mk_ok (.updCore hz fun _ => .setQ (.refl _))
  · exact .mk_ok hz

theorem Answers.execQaddsH {s z : State} {o : SeqOps} (h : Keeps s z) : Answers s (execQaddsH o z) := .q3Instr h

theorem Answers.execQsubsH {s z : State} {o : SeqOps} (h : Keeps s z) : Answers s (execQsubsH o z) := .q3Instr h

theorem Answers.execQmulrH {s z : State} {o : SeqOps} (h : Keeps s z) : Answers s (execQmulrH o z) := .q3Instr h

theorem Answers.execQmacrH {s z : State} {o : SeqOps} (h : Keeps s z) : Answers s (execQmacrH o z) := .q3Instr h

theorem Answers.execQminH {s z : State} {o : SeqOps} (h : Keeps s z) : Answers s (execQminH o z) := .q3Instr h

theorem Answers.execQmaxH {s z : State} {o : SeqOps} (h : Keeps s z) : Answers s (execQmaxH o z) := .q3Instr h

theorem Answers.execQaddsW {s z : State} {o : SeqOps} (h : Keeps s z) : Answers s (execQaddsW o z) := .q3Instr h

theorem Answers.execQsubsW {s z : State} {o : SeqOps} (h : Keeps s z) : Answers s (execQsubsW o z) := .q3Instr h

theorem Answers.execQmulrW {s z : State} {o : SeqOps} (h : Keeps s z) : Answers s (execQmulrW o z) := .q3Instr h

theorem Answers.execQfadd {s z : State} {o : SeqOps} (h : Keeps s z) : Answers s (execQfadd o z) := .q3Instr h

theorem Answers.execQfmul {s z : State} {o : SeqOps} (h : Keeps s z) : Answers s (execQfmul o z) := .q3Instr h

theorem Answers.execQfma {s z : State} {o : SeqOps} (h : Keeps s z) : Answers s (execQfma o z) := .q3Instr h

theorem Answers.shrrInstr {s z : State} {opc w : Nat} {hi : Int} {o : SeqOps} (h : Keeps s z) :
    Answers s (shrrInstr opc w hi o z) := by
  unfold Machine.shrrInstr
  refine .issueSeq h fun _ hz => .withArgs hz fun _ _ hz => ?_
  split
  · exact .mk_ok (.updCore hz fun _ => .setQ (.refl _))
  · exact .mk_ok hz

theorem Answers.execQshrrH {s z : State} {o : SeqOps} (h : Keeps s z) : Answers s (execQshrrH o z) := .shrrInstr h

theorem Answers.execQshrrW {s z : State} {o : SeqOps} (h : Keeps s z) : Answers s (execQshrrW o z) := .shrrInstr h

theorem Answers.execQextH {s z : State} {o : SeqOps} (h : Keeps s z) : Answers s (execQextH o z) :=
  .issueSeq h fun _ hz => .withArgs hz fun _ _ hz => .bind (.loadOpd hz) fun _ _ hz => .bind (.storeOpd hz)
      fun _ _ hz => .mk_ok hz

/-! ### Operations of Machine/SeqSys -/

theorem Answers.execSeqFetch {s z : State} {core starved : Nat} (h : Keeps s z) : Answers s (execSeqFetch core starved z) :=
  .ite (.next (.chargeSeq (.updCore h fun _ => .refl _))) (.next h)

theorem Answers.execStoreBufferDrain {s z : State} {core held : Nat} (h : Keeps s z) :
    Answers s (execStoreBufferDrain core held z) := by
  unfold Machine.execStoreBufferDrain
  refine .ite ?_ (.next h)
  split
  · exact .next h
  · refine .ite (.next h) ?_
    split
    · exact .next (.chargeBank (OptKeeps.get (.drainOne h) ‹_›))
    · exact .next (.ite (.updTs h fun _ => .refl _) h)

theorem Answers.execInterruptEntry {s z : State} {core : Nat} (h : Keeps s z) : Answers s (execInterruptEntry core z) :=
  .ite (.ite (.next (.holdBit (.updCore (.spendLate h) fun _ => .interrupt (.refl _)))) (.ite (.next (.holdBit (.updCore
      (.spendLate h) fun _ => .interrupt (.refl _)))) (.next h))) (.next h)

theorem Answers.execSeqHaltReq {s z : State} {who : Who} {tile : Nat} {value : BitVec 32} (h : Keeps s z) :
    Answers s (execSeqHaltReq who tile value z) := by
  unfold Machine.execSeqHaltReq
  split
  · exact .next h
  · exact .next (.ite (.regWrite h fun _ hz => .updCore hz fun _ => .writeReg (.refl _)) h)

/-! ### Operations of Machine/SeqUop -/

theorem ResKeeps.portLoad {s z : State} {core : Nat} {sp : Space} {w addr n : Nat} (h : Keeps s z) :
    ResKeeps s (portLoad core sp w addr n z) :=
  .ite (.loadMem h) (.bind (.readPieces h) fun _ _ hz => .mk_ok hz)

theorem ResKeeps.portStore {s z : State} {core : Nat} {sp : Space} {n a data : Nat} {tag : BitVec 4} (h : Keeps s z) :
    ResKeeps s (portStore core sp n a data tag z) := by
  unfold Machine.portStore
  refine .bind (.makeEntry h) fun _ _ hz => .bind (.checkParity hz) fun _ _ hz => .ite (.mk_ok hz) ?_
  split
  · exact .mk_ok (OptKeeps.get (.drainOne hz) ‹_›)
  · exact .mk_wait _

theorem ResKeeps.uStore {s z : State} {x : UArgs} {sp : Space} {n a : Nat} {t : BitVec 4} {v : Nat} {u : UState} (h : Keeps s z) :
    ResKeeps s (uStore x sp n a t v u z) :=
  .bind (.portStore h) fun _ _ hz => .mk_ok hz

theorem ResKeeps.uLdo {s z : State} {x : UArgs} {w : BitVec 32} {u : UState} (h : Keeps s z) : ResKeeps s (uLdo x w u z) := by
  unfold Machine.uLdo
  refine .bind (.ofExcept h) fun _ _ hz => .bind (.ofExcept hz) fun _ _ hz => .bind (.portLoad hz) fun _ _ hz => .bind
      (.ofExcept hz) fun _ _ hz => .ite (.mk_trap hz) ?_
  split
  · exact .bind (.ofExcept hz) fun _ _ hz => .bind (.checkParity hz) fun _ _ hz => .uStore hz
  · exact .bind (.checkParity hz) fun _ _ hz => .ofExcept hz

theorem ResKeeps.uSto {s z : State} {x : UArgs} {w : BitVec 32} {u : UState} (h : Keeps s z) : ResKeeps s (uSto x w u z) :=
  .bind (.ofExcept h) fun _ _ hz => .bind (.ofExcept hz) fun _ _ hz => .bind (.ofExcept hz) fun _ _ hz => .ite (.mk_trap hz)
      (.bind (.ofExcept hz) fun _ _ hz => .uStore hz)

theorem ResKeeps.uStep {s z : State} {x : UArgs} {w : BitVec 32} {u : UState} (h : Keeps s z) : ResKeeps s (uStep x w u z) := by
  unfold Machine.uStep
  refine .ite (.mk_ok h) (.ite (.bind (.ofExcept h) fun _ _ hz => .mk_ok hz) (.ite (.bind (.ofExcept h) fun _ _ hz => .mk_ok hz)
      (.ite (.bind (.uLdo h) fun _ _ hz => .mk_ok hz) (.ite (.bind (.uSto h) fun _ _ hz => .mk_ok hz) (.ite (.bind (.ofExcept h)
      fun _ _ hz => .mk_ok hz) (.ite (.bind (.ofExcept h) fun _ _ hz => .mk_ok hz) ?_))))))
  split
  · exact .bind (.ofExcept h) fun _ _ hz => .mk_ok hz
  · exact .mk_trap h

theorem ResKeeps.uRun {s : State} {x : UArgs} : ∀ {l : List (BitVec 32)} {n : Nat} {u : UState} {z : State}, Keeps s z →
    ResKeeps s (uRun x l n u z)
  | [], _, _, _, h => .mk_ok h
  | _ :: _, _ + 1, _, _, h => by
    unfold Machine.uRun
    exact uRun h
  | _ :: _, 0, _, _, h => .bind (.uStep h) fun _ _ hz => uRun hz

theorem ResKeeps.uPlace {s : State} {core : Nat} : ∀ {l : List StoreEntry} {z : State}, Keeps s z → ResKeeps s (uPlace core l z)
  | [], _, h => .mk_ok h
  | _ :: _, _, h => by
    unfold Machine.uPlace
    split
    · exact uPlace (.updCore (OptKeeps.get (.ite (.mk_some h) (.drainOne h)) ‹_›) fun _ => .same (.refl _) rfl)
    · exact .mk_wait _

theorem Keeps.uCommit {s : State} {x : UArgs} : ∀ {l : List AWrite} {z : State}, Keeps s z → Keeps s (uCommit x l z)
  | [], _, h => h
  | .ent _ :: _, _, h => by
    unfold Machine.uCommit
    exact uCommit h
  | .g _ :: _, _, h => by
    unfold Machine.uCommit
    refine uCommit ?_
    split
    · exact .updCore h fun _ => .setG (.refl _)
    · exact h
  | .q _ :: _, _, h => by
    unfold Machine.uCommit
    refine uCommit ?_
    split
    · exact .updCore h fun _ => .setQ (.refl _)
    · exact h

theorem ResKeeps.uopBody {s z : State} {slot : Nat} {o : SeqOps} (h : Keeps s z) : ResKeeps s (uopBody slot o z) := by
  unfold Machine.uopBody
  refine .ite (.mk_trap h) (.ite (.mk_ok (.fenceTile h)) (.ite (.mk_trap h) ?_))
  split
  · exact .mk_trap h
  · exact .mk_trap h
  · exact .mk_trap h
  · exact .bind (.uRun h) fun _ _ hz => .bind (.uPlace hz) fun _ _ hz => .mk_ok (.uCommit hz)

theorem Answers.execUop {s z : State} {slot : Nat} {o : SeqOps} (h : Keeps s z) : Answers s (execUop slot o z) :=
  .ite (.issueSeq h fun _ hz => .uopBody hz) (.next h)

/-! ### Operations of Machine/Tick -/

theorem TileKeeps.tileTick {x : Tile} {s : State} {t : Nat} : TileKeeps x (tileTick s t x) := by
  unfold Machine.tileTick
  split
  · exact .refl x
  · exact .of_units (.refl _) (.refl _) (.refl _)

theorem Keeps.meshCycle {s z : State} (h : Keeps s z) : Keeps s (meshCycle z) := .ite h h

theorem TileKeeps.newCycle {x : Tile} : TileKeeps x x.newCycle :=
  .of_units (.refl _) (.same (.settle (.refl _)) rfl) (.same (.settle (.refl _)) rfl)

theorem Keeps.newCycle {s z : State} (h : Keeps s z) : Keeps s z.newCycle := by
  have h1 : Keeps s { z with tiles := z.tiles.map Tile.newCycle } := .mapTiles h fun _ => .newCycle
  have h2 := h1.ddrCh (l := z.ddr.ch.map fun c => { c.settle with now := .none }) (List.length_map _)
  have h3 := h2.dma (d := { z.dma.settle with now := .none }) rfl
  exact .same h3 rfl

/-- A cycle of the tiles, with the cycle number and the hod's pointer moving on together (R300). -/
theorem Keeps.tick {s z : State} {f : Tile → Nat → Tile} (h : Keeps s z) (hf : ∀ x t, TileKeeps x (f x t)) :
    Keeps s { z with
      tiles := z.tiles.zipIdx.map fun (x, t) => f x t
      hod := { z.hod with q := (z.cycle + 1) % 4 }
      cycle := z.cycle + 1 } := by
  refine h.of_fit rfl fun ⟨hs, hm, _⟩ => ⟨by simpa [State.shaped_iff] using hs, ?_, rfl⟩
  simp only [Memory.wf, Bool.and_eq_true, List.all_map, List.all_eq_true] at hm ⊢
  obtain ⟨⟨⟨⟨⟨⟨⟨ht, h1⟩, h2⟩, h3⟩, h4⟩, h5⟩, h6⟩, h7⟩ := hm
  refine ⟨⟨⟨⟨⟨⟨⟨fun p hp => ?_, h1⟩, h2⟩, h3⟩, h4⟩, h5⟩, h6⟩, h7⟩
  exact hf p.1 p.2 (ht p.1 (List.fst_mem_of_mem_zipIdx hp))

theorem Keeps.cycleTick {s z : State} (h : Keeps s z) : Keeps s (cycleTick z) := by
  unfold Machine.cycleTick
  extract_lets y _ s1
  have hy : Keeps s y := .uartTick (.meshCycle h)
  clear_value y
  have h1 : Keeps s s1 := .same (.tick (f := fun x t => tileTick y t x) hy fun _ _ => .tileTick) rfl
  clear_value s1
  exact .ite h (.foldl (.newCycle h1) fun _ _ hz => .scanEnd (.scanEnd hz))

/-! ### Every command, and every step -/

/-- Every command answers, and keeps what is kept. -/
theorem Answers.exec {s z : State} (h : Keeps s z) : ∀ i, Answers s (exec i z)
  | .nop _ => .execNop h
  | .mov _ => .execMov h
  | .ldf _ => .execLdf h
  | .retag _ => .execRetag h
  | .tagof _ => .execTagof h
  | .push _ => .execPush h
  | .pop _ => .execPop h
  | .fst _ => .execFst h
  | .add _ => .execAdd h
  | .sub _ => .execSub h
  | .adds _ => .execAdds h
  | .subs _ => .execSubs h
  | .mul _ => .execMul h
  | .mulh _ => .execMulh h
  | .divs _ => .execDivs h
  | .rems _ => .execRems h
  | .and _ => .execAnd h
  | .or _ => .execOr h
  | .xor _ => .execXor h
  | .andn _ => .execAndn h
  | .shl _ => .execShl h
  | .shr _ => .execShr h
  | .sar _ => .execSar h
  | .min _ => .execMin h
  | .max _ => .execMax h
  | .not _ => .execNot h
  | .neg _ => .execNeg h
  | .clz _ => .execClz h
  | .popc _ => .execPopc h
  | .ceq _ => .execCeq h
  | .cne _ => .execCne h
  | .clt _ => .execClt h
  | .cle _ => .execCle h
  | .cltu _ => .execCltu h
  | .cleu _ => .execCleu h
  | .fadd _ => .execFadd h
  | .fsub _ => .execFsub h
  | .fmul _ => .execFmul h
  | .fma _ => .execFma h
  | .fmin _ => .execFmin h
  | .fmax _ => .execFmax h
  | .fceq _ => .execFceq h
  | .fclt _ => .execFclt h
  | .fcle _ => .execFcle h
  | .cvtif _ => .execCvtif h
  | .cvtfi _ => .execCvtfi h
  | .fabs _ => .execFabs h
  | .fneg _ => .execFneg h
  | .br _ => .execBr h
  | .bt _ => .execBt h
  | .bf _ => .execBf h
  | .call _ => .execCall h
  | .ret _ => .execRet h
  | .reti _ => .execReti h
  | .dbnz _ => .execDbnz h
  | .iflush _ => .execIflush h
  | .bmove _ _ => .execBmove h
  | .bfill _ _ => .execBfill h
  | .bcmp _ _ => .execBcmp h
  | .bseek _ _ => .execBseek h
  | .waite _ => .execWaite h
  | .waiteWake _ => .execWaiteWake h
  | .waitet _ => .execWaitet h
  | .waitetWake _ => .execWaitetWake h
  | .pulse _ => .execPulse h
  | .waitt _ => .execWaitt h
  | .waittWake _ => .execWaittWake h
  | .rdtime _ => .execRdtime h
  | .step _ => .execStep h
  | .stepStallRelease _ => .execStepStallRelease h
  | .ststat _ => .execStstat h
  | .fence _ => .execFence h
  | .mfsr _ => .execMfsr h
  | .mtsr _ => .execMtsr h
  | .trap _ => .execTrap h
  | .qld _ => .execQld h
  | .qst _ => .execQst h
  | .qldff _ => .execQldff h
  | .qmov _ => .execQmov h
  | .qsplatH _ => .execQsplatH h
  | .qsplatW _ => .execQsplatW h
  | .qaddsH _ => .execQaddsH h
  | .qsubsH _ => .execQsubsH h
  | .qmulrH _ => .execQmulrH h
  | .qmacrH _ => .execQmacrH h
  | .qshrrH _ => .execQshrrH h
  | .qminH _ => .execQminH h
  | .qmaxH _ => .execQmaxH h
  | .qaddsW _ => .execQaddsW h
  | .qsubsW _ => .execQsubsW h
  | .qmulrW _ => .execQmulrW h
  | .qshrrW _ => .execQshrrW h
  | .qfadd _ => .execQfadd h
  | .qfmul _ => .execQfmul h
  | .qfma _ => .execQfma h
  | .qextH _ => .execQextH h
  | .uop _ _ => .execUop h
  | .seqFetch _ _ => .execSeqFetch h
  | .storeBufferDrain _ _ => .execStoreBufferDrain h
  | .interruptEntry _ => .execInterruptEntry h
  | .seqHaltReq _ _ _ => .execSeqHaltReq h
  | .stepStart _ _ => .execStepStart h
  | .stepRetire _ _ => .execStepRetire h
  | .stepComplete _ _ => .execStepComplete h
  | .deadlinePass _ _ _ => .execDeadlinePass h
  | .listEntryPass _ _ => .execListEntryPass h
  | .engineCmdIssue _ _ => .execEngineCmdIssue h
  | .bankPwrReqWrite _ _ _ => .execBankPwrReqWrite h
  | .bankWakeDone _ _ => .execBankWakeDone h
  | .bankDrainDone _ _ => .execBankDrainDone h
  | .tsPerrInjArm _ _ _ => .execTsPerrInjArm h
  | .tsCntClr _ _ _ => .execTsCntClr h
  | .hostTsWrite _ _ _ _ => .execHostTsWrite h
  | .hostTsRead _ _ _ _ => .execHostTsRead h
  | .hostLramWrite _ _ _ _ => .execHostLramWrite h
  | .hostLramRead _ _ _ _ => .execHostLramRead h
  | .hostVpramWrite _ _ _ => .execHostVpramWrite h
  | .vecBundleIssue _ _ => .execVecBundleIssue h
  | .vecResultLand _ => .execVecResultLand h
  | .vecSwitchIn _ => .execVecSwitchIn h
  | .vecSwitchOut _ => .execVecSwitchOut h
  | .matmulCmd _ => .execMatmulCmd h
  | .sumwCmd _ => .execSumwCmd h
  | .weightRowLoad _ _ => .execWeightRowLoad h
  | .arrayVectorStream _ _ _ => .execArrayVectorStream h
  | .accLand _ => .execAccLand h
  | .scaleBlockArrive _ => .execScaleBlockArrive h
  | .drainCmd _ => .execDrainCmd h
  | .drainRowRead _ _ => .execDrainRowRead h
  | .drainCourseWrite _ _ => .execDrainCourseWrite h
  | .windowCmd _ => .execWindowCmd h
  | .diag8LoadPhase _ _ => .execDiag8LoadPhase h
  | .sceCmd _ => .execSceCmd h
  | .sceLoadPhase _ _ => .execSceLoadPhase h
  | .sceStreamTap _ _ _ => .execSceStreamTap h
  | .sceResultLand _ => .execSceResultLand h
  | .msend _ _ => .execMsend h
  | .mortarCourseArrive _ _ _ => .execMortarCourseArrive h
  | .msendAck _ _ => .execMsendAck h
  | .evtLatch => .execEvtLatch h
  | .hodDeclare _ => .execHodDeclare h
  | .hodSend _ _ => .execHodSend h
  | .hodBroadcast _ => .execHodBroadcast h
  | .broadcastRead _ _ _ => .execBroadcastRead h
  | .broadcastCourseWrite _ _ _ => .execBroadcastCourseWrite h
  | .broadcastRetire _ => .execBroadcastRetire h
  | .hodTgtDeclareWrite _ _ _ => .execHodTgtDeclareWrite h
  | .hodTgtFreeWrite _ _ _ => .execHodTgtFreeWrite h
  | .hodGrant _ _ => .execHodGrant h
  | .hodRejectNotice => .execHodRejectNotice h
  | .hodApply _ _ _ => .execHodApply h
  | .hodFold _ _ _ _ => .execHodFold h
  | .morCommit _ _ => .execMorCommit h
  | .modeCommitDeliver => .execModeCommitDeliver h
  | .modeApply _ => .execModeApply h
  | .modeReport _ => .execModeReport h
  | .mixedClearSeen => .execMixedClearSeen h
  | .streamDeclare _ _ => .execStreamDeclare h
  | .streamRelease _ _ => .execStreamRelease h
  | .streamInval _ _ => .execStreamInval h
  | .streamRequest _ => .execStreamRequest h
  | .streamLineDeliver _ _ _ => .execStreamLineDeliver h
  | .scInvalGo _ _ => .execScInvalGo h
  | .scInvalAll _ _ => .execScInvalAll h
  | .scInvalDone => .execScInvalDone h
  | .scSlicePwrReqWrite _ _ => .execScSlicePwrReqWrite h
  | .sliceWakeDone _ => .execSliceWakeDone h
  | .sliceDrainDone _ => .execSliceDrainDone h
  | .scFenceWrite _ _ => .execScFenceWrite h
  | .scCntClr _ _ => .execScCntClr h
  | .ddrRequestServe _ _ _ => .execDdrRequestServe h
  | .ddrClassPromote _ _ => .execDdrClassPromote h
  | .ddrRefresh _ _ => .execDdrRefresh h
  | .ddrSrEnter _ => .execDdrSrEnter h
  | .ddrSrExitDone _ => .execDdrSrExitDone h
  | .ddrSrReqWrite _ _ _ => .execDdrSrReqWrite h
  | .ddrCntClr _ _ _ => .execDdrCntClr h
  | .ringInit _ _ => .execRingInit h
  | .ringStop _ _ => .execRingStop h
  | .ringResume _ _ => .execRingResume h
  | .ringOff _ _ => .execRingOff h
  | .ringFlush _ _ => .execRingFlush h
  | .doorbellWrite _ _ _ _ => .execDoorbellWrite h
  | .take _ _ => .execTake h
  | .doorbell _ _ => .execDoorbell h
  | .descFetch _ _ _ _ => .execDescFetch h
  | .dmaUnitTransfer _ _ _ _ _ _ _ => .execDmaUnitTransfer h
  | .dmaPaceResume _ => .execDmaPaceResume h
  | .descComplete _ => .execDescComplete h
  | .cqRecordWrite _ _ => .execCqRecordWrite h
  | .cqEnable _ _ _ => .execCqEnable h
  | .cqHeadWrite _ _ _ => .execCqHeadWrite h
  | .dmaFifoCfgWrite _ _ _ => .execDmaFifoCfgWrite h
  | .dmaFifoTakeWrite _ _ _ => .execDmaFifoTakeWrite h
  | .channelDisable _ _ => .execChannelDisable h
  | .dmaCntClr _ _ => .execDmaCntClr h
  | .hostBar2Write _ _ _ => .execHostBar2Write h
  | .hostBar2Read _ _ _ => .execHostBar2Read h
  | .hostRegWrite _ _ _ _ => .execHostRegWrite h
  | .flr => .execFlr h
  | .linkDown => .execLinkDown h
  | .perstAssert => .execPerstAssert h
  | .perstRelease => .execPerstRelease h
  | .pcieL1Enter => .execPcieL1Enter h
  | .heartbeatDue _ => .execHeartbeatDue h
  | .hbCtrlWrite _ _ => .execHbCtrlWrite h
  | .devCntClr _ _ => .execDevCntClr h
  | .post _ _ _ => .execPost h
  | .resAckWrite _ _ _ => .execResAckWrite h
  | .resCntClr _ _ => .execResCntClr h
  | .msixSend _ => .execMsixSend h
  | .timeTick => .execTimeTick h
  | .timeHoldEnd => .execTimeHoldEnd h
  | .slotSyncEdge _ => .execSlotSyncEdge h
  | .timeCtrlWrite _ _ => .execTimeCtrlWrite h
  | .timeCntClr _ _ => .execTimeCntClr h
  | .slotTick => .execSlotTick h
  | .alarmFire _ => .execAlarmFire h
  | .evtInEdge _ _ _ => .execEvtInEdge h
  | .evtOutEdge _ => .execEvtOutEdge h
  | .evtOutWidthEnd _ => .execEvtOutWidthEnd h
  | .evtOutCfgWrite _ _ _ => .execEvtOutCfgWrite h
  | .evtPulseWrite _ _ => .execEvtPulseWrite h
  | .icPendSet _ _ _ => .execIcPendSet h
  | .icPendClr _ _ _ => .execIcPendClr h
  | .icMaskSet _ _ _ _ => .execIcMaskSet h
  | .icMaskClr _ _ _ _ => .execIcMaskClr h
  | .icTpendSet _ _ _ => .execIcTpendSet h
  | .icTpendClr _ _ _ => .execIcTpendClr h
  | .icTmaskSet _ _ _ => .execIcTmaskSet h
  | .icTmaskClr _ _ _ => .execIcTmaskClr h
  | .icLevelWrite _ _ _ => .execIcLevelWrite h
  | .icRouteWrite _ _ _ => .execIcRouteWrite h
  | .clkWindowEnd _ _ => .execClkWindowEnd h
  | .clkStopDetect _ => .execClkStopDetect h
  | .xtalAmplitudeDone => .execXtalAmplitudeDone h
  | .xtalAmplitudeLoss => .execXtalAmplitudeLoss h
  | .pllReacquireDone => .execPllReacquireDone h
  | .safeHoldRestart _ => .execSafeHoldRestart h
  | .clkRevert _ _ => .execClkRevert h
  | .xtalEnWrite _ _ => .execXtalEnWrite h
  | .dvfsRequest _ _ => .execDvfsRequest h
  | .avsAck => .execAvsAck h
  | .avsSettleDone => .execAvsSettleDone h
  | .avsTimeout => .execAvsTimeout h
  | .tilePark _ => .execTilePark h
  | .dividerStep => .execDividerStep h
  | .clkEnSet _ _ => .execClkEnSet h
  | .clkEnClr _ _ => .execClkEnClr h
  | .gateApply _ => .execGateApply h
  | .clkOutCfgWrite _ _ => .execClkOutCfgWrite h
  | .clkCntClr _ _ => .execClkCntClr h
  | .chainAssignRx _ _ => .execChainAssignRx h
  | .chainLoopRx _ => .execChainLoopRx h
  | .chainSlotRx _ => .execChainSlotRx h
  | .chainWingbeatRx _ => .execChainWingbeatRx h
  | .chainMsgFrameRx _ => .execChainMsgFrameRx h
  | .chainFrameTx => .execChainFrameTx h
  | .chainAssignRepeat => .execChainAssignRepeat h
  | .chainAssignTimeout => .execChainAssignTimeout h
  | .chainSlotSend => .execChainSlotSend h
  | .chainSlotIdle => .execChainSlotIdle h
  | .chainSlotTimeout => .execChainSlotTimeout h
  | .chainLoopStart _ _ => .execChainLoopStart h
  | .chainMsgTxWrite _ _ _ => .execChainMsgTxWrite h
  | .chainMsgPopWrite _ _ => .execChainMsgPopWrite h
  | .chainCntClr _ _ => .execChainCntClr h
  | .bondFrameTx _ => .execBondFrameTx h
  | .bondMwrRx _ _ _ _ _ _ => .execBondMwrRx h
  | .bondAckRx _ _ => .execBondAckRx h
  | .bondNakRx _ _ => .execBondNakRx h
  | .bondLinkTrained _ => .execBondLinkTrained h
  | .bondWingbeatRx _ _ _ => .execBondWingbeatRx h
  | .bondStateRx _ _ _ _ => .execBondStateRx h
  | .bondCtxRx _ _ _ _ => .execBondCtxRx h
  | .bondRelinquishRx _ _ => .execBondRelinquishRx h
  | .bondTakeoverRx _ _ _ => .execBondTakeoverRx h
  | .wingbeatSend => .execWingbeatSend h
  | .wingbeatPeriodEnd => .execWingbeatPeriodEnd h
  | .promote _ => .execPromote h
  | .relinquish _ => .execRelinquish h
  | .relinquishComplete => .execRelinquishComplete h
  | .resync _ => .execResync h
  | .bondMwinWrite _ _ _ _ _ => .execBondMwinWrite h
  | .bondCntClr _ _ => .execBondCntClr h
  | .resetAssert _ _ => .execResetAssert h
  | .resetRelease _ _ => .execResetRelease h
  | .larvaStart _ => .execLarvaStart h
  | .pllLockDone _ => .execPllLockDone h
  | .pllLockTimeout => .execPllLockTimeout h
  | .certVerify _ => .execCertVerify h
  | .imageVerify _ => .execImageVerify h
  | .ddrTrainDone => .execDdrTrainDone h
  | .ddrTrainTimeout => .execDdrTrainTimeout h
  | .chrysalisEnter => .execChrysalisEnter h
  | .load _ => .execLoad h
  | .endObject _ => .execEndObject h
  | .endLoad _ => .execEndLoad h
  | .decodeStatus _ => .execDecodeStatus h
  | .getPubkey _ => .execGetPubkey h
  | .attest _ => .execAttest h
  | .enrol _ _ => .execEnrol h
  | .run _ => .execRun h
  | .mailboxComplete => .execMailboxComplete h
  | .calTaskDue _ => .execCalTaskDue h
  | .calGapStart _ => .execCalGapStart h
  | .calGapEnd _ => .execCalGapEnd h
  | .calTaskEnd _ => .execCalTaskEnd h
  | .calOverdue _ => .execCalOverdue h
  | .calStealStart _ => .execCalStealStart h
  | .calStealEnd => .execCalStealEnd h
  | .calGapWrite _ _ _ _ => .execCalGapWrite h
  | .calCntClr _ _ => .execCalCntClr h
  | .fenceTile _ _ => .execFenceTile h
  | .unfenceTile _ _ => .execUnfenceTile h
  | .releaseTile _ _ => .execReleaseTile h
  | .fenceSlice _ _ => .execFenceSlice h
  | .unfenceSlice _ _ => .execUnfenceSlice h
  | .devFault _ => .execDevFault h
  | .kick _ => .execKick h
  | .quoinWdogExpire => .execQuoinWdogExpire h
  | .pcieLinkTimeout => .execPcieLinkTimeout h
  | .ueWindowStart => .execUeWindowStart h
  | .devFltCntClr _ _ => .execDevFltCntClr h
  | .vecCntClr _ _ _ => .execVecCntClr h
  | .arrCntClr _ _ _ => .execArrCntClr h
  | .drnCntClr _ _ _ => .execDrnCntClr h
  | .sceCntClr _ _ _ => .execSceCntClr h
  | .morCntClr _ _ => .execMorCntClr h
  | .hodCntClr _ _ => .execHodCntClr h
  | .stepCntClr _ _ _ => .execStepCntClr h
  | .thermalTrip => .execThermalTrip h
  | .pcieLinkUp _ _ _ => .execPcieLinkUp h
  | .bondLinkDown => .execBondLinkDown h
  | .completionTimeout _ => .execCompletionTimeout h
  | .pcieConfigWrite _ _ => .execPcieConfigWrite h
  | .clkSourceEdgesReturn _ => .execClkSourceEdgesReturn h
  | .chainBadFrameRx _ => .execChainBadFrameRx h

theorem exec_answers (i : Instr) (s : State) : Answers s (exec i s) := .exec (.refl s) i

theorem keeps_of_exec {i : Instr} {s t : State} (h : exec i s = .next t) : Keeps s t := by
  obtain ⟨u, hu, hk⟩ := exec_answers i s
  obtain rfl : u = t := Host.Outcome.next.inj (hu.symm.trans h)
  exact hk

/-- Settles O54: each command's own lemma gives the state that it answers. -/
theorem everyCommandAnswers : Obligations.EveryCommandAnswers := fun i s =>
  have ⟨t, ht, _⟩ := exec_answers i s
  ⟨t, ht⟩

/-- Settles O53: the queue is part of what every command keeps. -/
theorem commandsKeepTheQueue : Obligations.CommandsKeepTheQueue := fun _ _ _ h => (keeps_of_exec h).1

/-- Soundness is being fit, with a queue of well-formed commands. -/
theorem sound_iff (s : State) : Safety.Sound s ↔ Fit s ∧ ∀ c ∈ s.pending, c.wf = true :=
  ⟨fun h => ⟨⟨h.shaped, h.memory, h.pointer⟩, h.queue⟩, fun h => ⟨h.1.1, h.1.2.1, h.1.2.2, h.2⟩⟩

theorem Keeps.sound {s t : State} (h : Keeps s t) (hs : Safety.Sound s) : Safety.Sound t := by
  rw [sound_iff] at hs ⊢
  exact ⟨h.2 hs.1, h.1 ▸ hs.2⟩

/-- The command in front leaves the queue sound. -/
theorem sound_rest {s : State} {c : Instr} {rest : List Instr} (h : Safety.Sound s) (hp : s.pending = c :: rest) :
    Safety.Sound { s with pending := rest } where
  shaped := h.shaped
  memory := h.memory
  pointer := h.pointer
  queue := fun d hd => h.queue d (hp ▸ List.mem_cons_of_mem c hd)

/-- Settles O56: with a command waiting the step is that command's, on the state with the rest of the queue; with none it is a
cycle of the tiles, in which the cycle number and the hod's pointer move on together. -/
theorem stepKeepsSound : Obligations.StepKeepsSound := by
  intro s t hs ht
  unfold step at ht
  split at ht
  · obtain rfl := Host.Outcome.next.inj ht
    exact (Keeps.cycleTick (.refl s)).sound hs
  · exact (keeps_of_exec ht).sound (sound_rest hs ‹_›)

/-- Settles O55: the state after reset is closed, and each part of it evaluates. -/
theorem resetIsSound : Obligations.ResetIsSound where
  shaped := by decide
  memory := by decide
  pointer := rfl
  queue := fun _ hc => absurd hc List.not_mem_nil

end Sys2Proof.Machine
end

section
/-! The state after reset, unit by unit. -/

namespace Sys2Proof.Machine

theorem State.tile_reset {n : Nat} (h : n < 16) : State.reset.tile n = Tile.reset := List.getD_replicate _ h

theorem courseBank_lt (c : Nat) : courseBank c < 16 := by
  unfold courseBank
  omega

/-- Every bank is ON at reset (R68). -/
theorem TileStore.live_reset (c : Nat) : TileStore.reset.live c = true :=
  congrArg BankState.live (List.getD_replicate (x := BankState.on) (y := BankState.off) (courseBank_lt c))

/-- Settles O58: each unit's reset value is the one of its field table. -/
theorem registersAtReset : Obligations.RegistersAtReset := by
  refine ⟨rfl, rfl, rfl, fun n hn => ?_, rfl, fun t ht => ?_, rfl, rfl, rfl, rfl, rfl, rfl, fun _ => rfl, rfl, rfl, rfl, rfl, rfl,
    rfl, rfl, rfl⟩
  · have hq : n ≠ quoinCore := by
      unfold quoinCore
      omega
    rw [State.tile_reset hn, core_reset (Nat.le_of_lt hn)]
    exact ⟨fun _ => rfl, fun c _ => TileStore.live_reset c, rfl, rfl, rfl, rfl, rfl, decide_eq_true hq⟩
  · exact congrArg HodTarget.state (List.getD_replicate (x := HodTarget.reset) (y := HodTarget.reset) ht)

end Sys2Proof.Machine
end

section
/-! A step takes the command in front; with none waiting a cycle passes. -/

namespace Sys2Proof.Machine

/-! ### The end of a scan leaves the clock alone -/

/-- The cycle number, the hod's pointer and the number of tiles are as they were. -/
def ClockKeeps (s z : State) : Prop := z.cycle = s.cycle ∧ z.hod.q = s.hod.q ∧ z.tiles.length = s.tiles.length

theorem ClockKeeps.refl (s : State) : ClockKeeps s s := ⟨rfl, rfl, rfl⟩

theorem ClockKeeps.ite {s a b : State} {c : Prop} [Decidable c] (ha : ClockKeeps s a) (hb : ClockKeeps s b) :
    ClockKeeps s (if c then a else b) := by
  split
  · exact ha
  · exact hb

theorem ClockKeeps.updTile {s z : State} {t : Nat} {f : Tile → Tile} (h : ClockKeeps s z) : ClockKeeps s (z.updTile t f) :=
  ⟨h.1, h.2.1, (upd_length ..).trans h.2.2⟩

theorem ClockKeeps.updCore {s z : State} {n : Nat} {f : SeqCore → SeqCore} (h : ClockKeeps s z) : ClockKeeps s (z.updCore n f) := by
  obtain ⟨hc, hq, ht⟩ := h
  exact ⟨by simpa using hc, by simpa using hq, by simpa [State.updCore_tiles_length] using ht⟩

theorem ClockKeeps.latchEvent {s z : State} {t k : Nat} (h : ClockKeeps s z) : ClockKeeps s (z.latchEvent t k) :=
  .ite (.updTile (.updCore h)) (.ite (.updTile (.updCore h)) (.updCore h))

theorem ClockKeeps.dropMirror {s z : State} {t : Nat} {u : Bool} (h : ClockKeeps s z) : ClockKeeps s (dropMirror t u z) := by
  unfold Machine.dropMirror
  split
  · exact h
  · exact ClockKeeps.ite (.updTile h) h

theorem ClockKeeps.completeStep {s z : State} {t : Nat} {u : Bool} {code : Nat} {rejected : Bool} (h : ClockKeeps s z) :
    ClockKeeps s (completeStep t u code rejected z) := by
  unfold Machine.completeStep
  split
  · exact h
  · exact .latchEvent (.updTile h)

theorem ClockKeeps.endStep {s z : State} {t : Nat} {u : Bool} {code : Nat} (h : ClockKeeps s z) :
    ClockKeeps s (endStep t u code z) := by
  unfold Machine.endStep
  split
  · exact h
  · exact .completeStep (.updTile (.dropMirror h))

theorem ClockKeeps.rerunStep {s z : State} {t : Nat} {u : Bool} {r : StepRun} (h : ClockKeeps s z) :
    ClockKeeps s (rerunStep t u r z) := by
  unfold Machine.rerunStep
  extract_lets lost r1 out s1 s2
  have h1 : ClockKeeps s s1 := .updTile (.updTile (.dropMirror h))
  have h2 : ClockKeeps s s2 := .ite (.updTile h1) h1
  exact .ite (.updTile h2) h2

theorem ClockKeeps.stepFault {s z : State} {t : Nat} {u : Bool} {code : Nat} (h : ClockKeeps s z) :
    ClockKeeps s (stepFault t u code z) := by
  unfold Machine.stepFault
  split
  · exact h
  · exact .ite (.endStep h) (.ite (.endStep (.updTile h)) (.ite (.rerunStep h) (.endStep h)))

theorem ClockKeeps.scanEffect {s z : State} {t : Nat} {u : Bool} {k : Scan} (h : ClockKeeps s z) :
    ClockKeeps s (scanEffect t u k z) := by
  unfold Machine.scanEffect
  split
  · exact h
  · extract_lets s1 started noCold
    have h1 : ClockKeeps s s1 := .updTile h
    have hs : ClockKeeps s started := .ite (.updTile h1) h1
    have hc : ClockKeeps s noCold := .updTile h1
    cases k with
    | pass => exact hs
    | reject code => exact .completeStep hc
    | beyond => exact .completeStep hc
    | parity => exact .stepFault hs

theorem ClockKeeps.scanEnd {s z : State} {t : Nat} {u : Bool} (h : ClockKeeps s z) : ClockKeeps s (scanEnd t u z) := by
  unfold Machine.scanEnd
  split
  · split
    · exact .ite (.scanEffect h) h
    · exact h
  · exact h

/-! ### A cycle in which no scan takes effect -/

/-- The state of a cycle before the scans that are due take effect. -/
def ticked (s : State) : State :=
  { uartTick (meshCycle s) with
    tiles := (uartTick (meshCycle s)).tiles.zipIdx.map fun (x, t) => tileTick (uartTick (meshCycle s)) t x
    hod := { (uartTick (meshCycle s)).hod with q := ((uartTick (meshCycle s)).cycle + 1) % 4 }
    te := (uartTick (meshCycle s)).te.heard (pulsesAt ((uartTick (meshCycle s)).cycle + 1) (uartTick (meshCycle s)).te.pulses)
    cycle := (uartTick (meshCycle s)).cycle + 1 }

theorem cycleTick_of_alive {s : State} (h : s.alive = true) :
    cycleTick s = (List.range 16).foldl (fun z t => scanEnd t true (scanEnd t false z)) (ticked s).newCycle := by
  simp only [cycleTick, h, Bool.not_true, if_false, Bool.false_eq_true]
  rfl

theorem cycleTick_of_not_alive {s : State} (h : s.alive = false) : cycleTick s = s := by
  simp only [cycleTick, h, Bool.not_false, if_true]

theorem meshTick_length (c : Nat) (ps : List MeshPos) (turns : List (Nat × Nat)) : (meshTick c ps turns).1.length = ps.length := by
  simp [meshTick]

/-- What the mesh changes in a cycle: the courses on it, with the routers' turns. -/
theorem meshCycle_eq (s : State) : ∃ ff ft df st, meshCycle s = { s with
    mor := { s.mor with flight := ff, turns := ft }
    dma := { s.dma with flight := df }
    sc := { s.sc with trk := st } }
    ∧ (meshPositions s = [] → ff = s.mor.flight ∧ ft = s.mor.turns ∧ df = s.dma.flight ∧ st = s.sc.trk)
    ∧ (∀ m : MeshPos, (ff.map fun x => { x with mesh := m }) = s.mor.flight.map fun x => { x with mesh := m }) := by
  unfold meshCycle
  dsimp only
  split
  · exact ⟨_, _, _, _, rfl, fun _ => ⟨rfl, rfl, rfl, rfl⟩, fun _ => rfl⟩
  · refine ⟨_, _, _, _, rfl, fun h => absurd h (by simp_all), fun m => ?_⟩
    have hlen : s.mor.flight.length ≤ (meshTick s.cycle (meshPositions s) s.mor.turns).1.length := by
      simp [meshTick_length, meshPositions]
    calc _ = ((s.mor.flight.zip (meshTick s.cycle (meshPositions s) s.mor.turns).1).map Prod.fst).map
          fun x => { x with mesh := m } := by simp only [List.map_map]; rfl
      _ = _ := by rw [List.map_fst_zip hlen]

/-- What a cycle changes of the console: nothing, or its front bit is out and the next begins (R502). -/
theorem uartTick_eq (s : State) : ∃ u ua, uartTick s = { s with sec := { s.sec with uart := u, uartAt := ua } }
    ∧ (u = s.sec.uart ∧ ua = s.sec.uartAt
      ∨ s.sec.uartAt + Config.uartBit ≤ s.cycle + 1 ∧ u = s.sec.uart.drop 1 ∧ ua = s.cycle + 1) := by
  unfold uartTick
  split
  · exact ⟨_, _, rfl, .inl ⟨rfl, rfl⟩⟩
  · next hu =>
    split
    · exact ⟨_, _, rfl, .inl ⟨rfl, rfl⟩⟩
    · next hlt => exact ⟨_, _, rfl, .inr ⟨Nat.le_of_not_lt hlt, by rw [hu]; rfl, rfl⟩⟩

/-- What mesh and console make of a state in a cycle. -/
theorem uartTick_meshCycle_eq (s : State) : ∃ ff ft df st u ua, uartTick (meshCycle s) = { s with
    mor := { s.mor with flight := ff, turns := ft }
    dma := { s.dma with flight := df }
    sc := { s.sc with trk := st }
    sec := { s.sec with uart := u, uartAt := ua } }
    ∧ (meshPositions s = [] → ff = s.mor.flight ∧ ft = s.mor.turns ∧ df = s.dma.flight ∧ st = s.sc.trk)
    ∧ (∀ m : MeshPos, (ff.map fun x => { x with mesh := m }) = s.mor.flight.map fun x => { x with mesh := m })
    ∧ (u = s.sec.uart ∧ ua = s.sec.uartAt
      ∨ s.sec.uartAt + Config.uartBit ≤ s.cycle + 1 ∧ u = s.sec.uart.drop 1 ∧ ua = s.cycle + 1) := by
  obtain ⟨ff, ft, df, st, hm, hquiet, hflight⟩ := meshCycle_eq s
  obtain ⟨u, ua, hu, hbits⟩ := uartTick_eq (meshCycle s)
  rw [hm] at hu hbits ⊢
  exact ⟨ff, ft, df, st, u, ua, hu, hquiet, hflight, hbits⟩

/-- A scan that is not due takes no effect. -/
theorem scanEnd_of_not_due {n : Nat} {u : Bool} {s : State}
    (h : ∀ r k due, s.run n u = some r → r.scan = some (k, due) → s.cycle < due) : scanEnd n u s = s := by
  unfold scanEnd
  split
  · next r hr =>
    split
    · next k due hk =>
      have hlt := h r k due hr hk
      rw [if_neg]
      simp only [Bool.and_eq_true, decide_eq_true_eq, not_and]
      omega
    · rfl
  · rfl

theorem foldl_eq_self {α β : Type} {f : β → α → β} {b : β} : ∀ {l : List α}, (∀ a ∈ l, f b a = b) → l.foldl f b = b
  | [], _ => rfl
  | a :: r, h => by
    rw [List.foldl_cons, h a List.mem_cons_self]
    exact foldl_eq_self fun x hx => h x (List.mem_cons_of_mem a hx)

theorem addSrc_scan (k n now : Nat) (r : StepRun) : (addSrc k n now r).scan = r.scan := by
  unfold addSrc
  dsimp only
  split <;> rfl

/-- What a cycle without a scan leaves of a tile: its sequencer and its host port, its tile store and vector engine but for what
the cycle settles, and the scans of its steps. -/
def Aged (x y : Tile) : Prop :=
  y.seq = x.seq ∧ y.hp = x.hp ∧ y.ts = { x.ts.settle with now := .none } ∧ y.vec = { x.vec.settle with now := .none }
    ∧ y.st.runN.map StepRun.scan = x.st.runN.map StepRun.scan ∧ y.st.runU = x.st.runU

theorem aged_tileTick (s : State) (n : Nat) (x : Tile) : Aged x (tileTick s n x).newCycle := by
  unfold tileTick
  split
  · exact ⟨rfl, rfl, rfl, rfl, rfl, rfl⟩
  · refine ⟨rfl, rfl, rfl, rfl, ?_, rfl⟩
    change (if preempted s n then x.st.runN.map (addSrc 7 1 (s.cycle + 1)) else x.st.runN).map StepRun.scan = _
    split
    · rw [Option.map_map]
      exact congrArg (Option.map · x.st.runN) (funext fun r => addSrc_scan ..)
    · rfl

theorem aged_tile (s : State) (n : Nat) : Aged (s.tile n) ((ticked s).newCycle.tile n) := by
  obtain ⟨ff, ft, df, st, u, ua, hs, -⟩ := uartTick_meshCycle_eq s
  have ht : (uartTick (meshCycle s)).tiles = s.tiles := by rw [hs]
  simp only [State.tile, State.newCycle, ticked, ht, List.getD_eq_getElem?_getD, List.map_map, List.getElem?_map,
    List.getElem?_zipIdx]
  cases s.tiles[n]? with
  | none => exact ⟨rfl, rfl, rfl, rfl, rfl, rfl⟩
  | some x => exact aged_tileTick _ _ x

/-- The scans of the next cycle are those of this one. -/
theorem scan_of_newCycle_ticked {s : State} {n : Nat} {u : Bool} {r : StepRun} (h : (ticked s).newCycle.run n u = some r) :
    ∃ r0, s.run n u = some r0 ∧ r0.scan = r.scan := by
  obtain ⟨-, -, -, -, hN, hU⟩ := aged_tile s n
  cases u with
  | true => exact ⟨r, hU.symm.trans h, rfl⟩
  | false =>
    have hr : some r.scan = ((s.tile n).st.runN).map StepRun.scan := by
      rw [← hN]
      exact congrArg (Option.map StepRun.scan) h.symm
    obtain ⟨r0, h0, hs⟩ := Option.map_eq_some_iff.mp hr.symm
    exact ⟨r0, h0, hs⟩

theorem ticked_cycle (s : State) : (ticked s).cycle = s.cycle + 1 := by
  obtain ⟨ff, ft, df, st, u, ua, hs, -⟩ := uartTick_meshCycle_eq s
  simp only [ticked, hs]

theorem ticked_pointer (s : State) : (ticked s).newCycle.hod.q = (s.cycle + 1) % 4 := by
  obtain ⟨ff, ft, df, st, u, ua, hs, -⟩ := uartTick_meshCycle_eq s
  simp only [ticked, hs]
  rfl

theorem ticked_length (s : State) : (ticked s).newCycle.tiles.length = s.tiles.length := by
  obtain ⟨ff, ft, df, st, u, ua, hs, -⟩ := uartTick_meshCycle_eq s
  simp only [ticked, hs, State.newCycle, List.length_map, List.length_zipIdx]

/-- With no scan due a cycle is what the mesh, the console, the pins and the end of the cycle make of the state. -/
theorem cycleTick_of_no_scan {s : State} (ha : s.alive = true)
    (h : ∀ n < 16, ∀ u r k due, s.run n u = some r → r.scan = some (k, due) → s.cycle + 1 < due) :
    cycleTick s = (ticked s).newCycle := by
  have hscan : ∀ n < 16, ∀ u, scanEnd n u (ticked s).newCycle = (ticked s).newCycle := fun n hn u =>
    scanEnd_of_not_due fun r k due hr hk => by
      obtain ⟨r0, h0, hs⟩ := scan_of_newCycle_ticked hr
      have hlt := h n hn u r0 k due h0 (hs.trans hk)
      rwa [← ticked_cycle s] at hlt
  rw [cycleTick_of_alive ha]
  refine foldl_eq_self fun n hn => ?_
  rw [hscan n (List.mem_range.mp hn), hscan n (List.mem_range.mp hn)]

/-- A cycle moves the cycle number and the hod's pointer on, and keeps the number of tiles. -/
theorem clockKeeps_cycleTick {s : State} (ha : s.alive = true) : ClockKeeps (ticked s).newCycle (cycleTick s) := by
  rw [cycleTick_of_alive ha]
  exact foldl_keeps (ClockKeeps _) _ (fun _ _ h => .scanEnd (.scanEnd h)) _ _ (.refl _)

theorem TileStore.settle_of_quiet {a : TileStore} (h : a.now = .none) : { a.settle with now := .none } = a := by
  cases a
  subst h
  simp [TileStore.settle, tsCntClr, Happened.none, bit]

theorem VecEngine.settle_of_quiet {a : VecEngine} (h : a.now = .none) : { a.settle with now := .none } = a := by
  cases a
  subst h
  simp [VecEngine.settle, vecCntClr, Happened.none, bit]

theorem Dma.settle_of_quiet {a : Dma} (h : a.now = .none) : { a.settle with now := .none } = a := by
  cases a
  subst h
  simp [Dma.settle, dmaCntClr, Happened.none, bit]

/-- Settles O52: a cycle with no scan due is what mesh, console, pins and the end of the cycle make of the state. -/
theorem stepTakesTheFront : Obligations.StepTakesTheFront := by
  refine ⟨fun c rest s h => ?_, fun s hp ha => ?_, fun n s => ⟨TileStore.settle_of_quiet, VecEngine.settle_of_quiet⟩,
    fun s => Dma.settle_of_quiet, fun s hp ha => ?_⟩
  · rw [step, h]
  · obtain ⟨hc, hq, ht⟩ := clockKeeps_cycleTick ha
    refine ⟨cycleTick s, by rw [step, hp], hc.trans (ticked_cycle s), hq.trans ?_, ht.trans ?_, fun hscan => ?_⟩
    · exact ticked_pointer s
    · exact ticked_length s
    · rw [cycleTick_of_no_scan ha hscan]
      obtain ⟨ff, ft, df, st, u, ua, hs, hquiet, hflight, hbits⟩ := uartTick_meshCycle_eq s
      refine ⟨?_, fun hm => ?_, fun m => ?_, ?_, fun n => ?_⟩
      · simp only [ticked, hs]
        rfl
      · obtain ⟨rfl, rfl, rfl, rfl⟩ := hquiet hm
        simp only [ticked, hs]
        exact ⟨rfl, rfl, rfl⟩
      · simp only [ticked, hs]
        exact hflight m
      · simp only [ticked, hs]
        exact hbits
      · obtain ⟨hseq, hhp, hts, hvec, -⟩ := aged_tile s n
        refine ⟨?_, hhp, hts, hvec⟩
        unfold State.core
        split
        · simp only [ticked, hs]
          rfl
        · exact hseq
  · rw [step, hp]
    exact congrArg _ (cycleTick_of_not_alive ha)

end Sys2Proof.Machine
end

section
/-! What the counter-clear registers clear, and that an event of the same cycle does not outlast the clear. -/

namespace Sys2Proof.Machine

theorem Tile.newCycle_reset : Tile.reset.newCycle = Tile.reset := by
  simp [Tile.newCycle, Tile.reset, TileStore.settle, VecEngine.settle, ArrayEng.settle, DrainEng.settle, SceEng.settle,
    StepUnit.settle, tsCntClr, vecCntClr, arrCntClr, drnCntClr, sceCntClr, stepCntClr, TileStore.reset, VecEngine.reset,
    ArrayEng.reset, DrainEng.reset, SceEng.reset, StepUnit.reset, Happened.none, bit]

theorem State.tile_newCycle (s : State) (t : Nat) : s.newCycle.tile t = (s.tile t).newCycle := by
  simp only [State.tile, State.newCycle, List.getD_eq_getElem?_getD, List.getElem?_map]
  cases s.tiles[t]? with
  | none => exact Tile.newCycle_reset.symm
  | some x => rfl

theorem clearsOutlastEvents : Claims.ClearsOutlastEvents := by
  intro s t
  simp only [State.tile_newCycle]
  refine ⟨fun i hi h => ?_, fun h => if_pos h, fun i hi h => ?_, fun h => if_pos h, fun i hi h => ?_, rfl, rfl,
    fun h => ⟨ticked s, cycleTick_of_alive h⟩⟩
  · match i with
    | 0 | 1 | 2 => exact if_pos h
  · match i with
    | 0 | 1 => exact if_pos h
  · match i with
    | 0 | 1 => exact if_pos h

/-- A command whose effect is a register write that reaches its register. -/
theorem regWrite_next {who : Who} {b : Blk} {p : HostPerm} {s : State} (h : Claims.Writable who b p s) (f : State → State)
    {z : State} (hz : f (Claims.came who s) = z) : (.next (regWrite who b p f s) : Out) = .next z :=
  congrArg _ ((regWrite_of_writable h f).trans hz)

/-- The same of a register of one of several like blocks. -/
theorem regWrite_next_of {who : Who} {b : Blk} {p : HostPerm} {s : State} {c : Prop} [Decidable c] (hc : c)
    (h : Claims.Writable who b p s) (f : State → State) {z : State} (hz : f (Claims.came who s) = z) :
    (.next (if c then regWrite who b p f s else s) : Out) = .next z :=
  (congrArg _ (if_pos hc)).trans (regWrite_next h f hz)

theorem Clock.parking_iff (c : Clock) : c.parking = true ↔ c.dvfs = .park ∨ c.dvfs = .ramp := by
  cases h : c.dvfs <;> simp [Clock.parking, h]

theorem clkCntClr_eq (v : BitVec 32) (n : Nat) (c : Clock) : clkCntClr v n c = { c with
    dvfsFrom := if v.getLsbD 2 = true ∧ (c.dvfs = .park ∨ c.dvfs = .ramp) then n else c.dvfsFrom
    gatedAccess := if v.getLsbD 0 then 0 else c.gatedAccess
    switchCnt := if v.getLsbD 1 then 0 else c.switchCnt
    parkCnt := if v.getLsbD 2 then 0 else c.parkCnt
    dvfsCnt := if v.getLsbD 3 then 0 else c.dvfsCnt
    now := c.now.zeroed v } := by
  unfold clkCntClr
  congr 1
  exact if_congr (by rw [Bool.and_eq_true, Clock.parking_iff]; rfl) rfl rfl

/-- Settles O17: each clear register is one register write; a cycle settles what it cleared. -/
theorem counterClearsComplete : Obligations.CounterClearsComplete := by
  refine ⟨clearsOutlastEvents, fun who t v s ht h => ?_, fun who v s h => ?_, fun who v s h => ?_, fun who c v s hc h => ?_,
    fun who v s h => ?_, fun who v s h => ?_, fun who v s h => ?_⟩
  · exact ⟨regWrite_next_of ht h _ rfl, regWrite_next_of ht h _ rfl, regWrite_next_of ht h _ rfl,
      regWrite_next_of ht h _ rfl, regWrite_next_of ht h _ rfl, regWrite_next_of ht h _ rfl⟩
  · refine regWrite_next h _ ?_
    cases who <;> rfl
  · refine regWrite_next h _ ?_
    cases who <;> rfl
  · exact regWrite_next_of hc h _ rfl
  · refine regWrite_next h _ ?_
    cases who <;> rfl
  · refine regWrite_next h _ ?_
    cases who <;> rfl
  · refine ⟨regWrite_next h _ ?_, ⟨_, regWrite_next h _ ?_, rfl⟩, ⟨_, regWrite_next h _ ?_, rfl⟩, regWrite_next h _ ?_,
      regWrite_next h _ ?_, regWrite_next h _ ?_, regWrite_next h _ ?_, regWrite_next h _ ?_⟩
    case refine_5 =>
      simp only [clkCntClr_eq, State.updClk]
      cases who <;> rfl
    all_goals cases who <;> rfl

end Sys2Proof.Machine
end

section
/-! The data instructions of a sequencer: every row of the tables runs its data operation. -/

namespace Sys2Proof.Machine

/-! ### Rows and their data operations -/

/-- What a row of the tables runs: its rule, its value, and DIV0 for a zero divisor where it divides. -/
def rowOp (p : Claims.DataRow) : Args → State → SeqRes Flow :=
  dataOp p.rule p.dflt p.two (fun x c => p.div && decide (c.nat x.width = 0)) fun x t b c => ⟨p.val x t b c, p.bits x b, p.wd x b⟩

/-- The instruction of a row runs that row. -/
def RowRuns (p : Claims.DataRow) : Prop :=
  ∀ o s, exec (p.ins o) s = dataInstr p.opc p.ka p.kb p.kc (rowOp p) o s

theorem RowRuns.completes {p : Claims.DataRow} (h : RowRuns p) : Claims.RowCompletes p :=
  rowCompletes_of_dataInstr h (fun x vc hz => by cases hp : p.div <;> simp_all) fun _ _ _ _ => rfl

theorem intRow_runs {mk : SeqOps → Instr} {opc : Nat} {rule : TagRule} {f g : Nat → Int → Int → Int}
    (hexec : ∀ o s, exec (mk o) s = dataInstr opc kDst kSrc kSrc (intOp2 (fun _ => rule) g) o s)
    (hfg : ∀ w b c, g w b c = f w b c) : RowRuns (Claims.intRow mk opc rule f) := by
  obtain rfl : g = f := funext fun w => funext fun b => funext fun c => hfg w b c
  exact hexec

theorem divRow_runs {mk : SeqOps → Instr} {opc : Nat} {f g : Nat → Int → Int → Int}
    (hexec : ∀ o s, exec (mk o) s = dataInstr opc kDst kSrc kSrc (divOp g) o s)
    (hfg : ∀ w b c, g w b c = f w b c) : RowRuns { Claims.intRow mk opc ruleInt f with div := true } := by
  obtain rfl : g = f := funext fun w => funext fun b => funext fun c => hfg w b c
  exact hexec

theorem bitRow_runs {mk : SeqOps → Instr} {opc : Nat} {rule : TagRule} {f g : Nat → Nat → Nat → Nat}
    (hexec : ∀ o s, exec (mk o) s = dataInstr opc kDst kSrc kSrc (bitOp2 rule g) o s)
    (hfg : ∀ w b c, g w b c = f w b c) : RowRuns (Claims.bitRow mk opc rule f) := by
  obtain rfl : g = f := funext fun w => funext fun b => funext fun c => hfg w b c
  exact hexec

theorem fcmpRow_runs {mk : SeqOps → Instr} {opc : Nat} {f : Int → Bool}
    (hexec : ∀ o s, exec (mk o) s = dataInstr opc kDst kSrcF kSrcF (fCmp f) o s) : RowRuns (Claims.fcmpRow mk opc f) := by
  have hval (y z : FV) : b2n (y ≠ .nan && z ≠ .nan && f (y.cmp z))
      = if y = .nan ∨ z = .nan then 0 else if f (y.cmp z) then 1 else 0 := by
    by_cases hy : y = .nan <;> by_cases hz : z = .nan <;> simp [hy, hz, b2n]
  intro o s
  rw [show (Claims.fcmpRow mk opc f).ins o = mk o from rfl, hexec]
  simp only [fCmp, hval]
  rfl

/-- Every integer row of two sources runs its data operation. -/
theorem intRows_run : ∀ p ∈ Claims.intRows, RowRuns p := by
  simp only [Claims.intRows, List.forall_mem_cons]
  refine ⟨fun _ _ => rfl, ?sub, ?adds, ?subs, ?mul, ?mulh, ?divs, ?rems, ?sar, ?min, ?max, ?and, ?or, ?xor, ?andn, ?shl, ?shr,
    fun _ h => by cases h⟩
  case divs => exact divRow_runs (fun _ _ => rfl) fun _ _ _ => by simp [divsInt]
  case rems => exact divRow_runs (fun _ _ => rfl) fun _ _ _ => by simp [remsInt]
  case shl => exact bitRow_runs (fun _ _ => rfl) fun _ _ _ => Nat.shiftLeft_eq ..
  case shr => exact bitRow_runs (fun _ _ => rfl) fun _ _ _ => Nat.shiftRight_eq_div_pow ..
  case and | or | xor | andn => exact bitRow_runs (fun _ _ => rfl) fun _ _ _ => rfl
  all_goals exact intRow_runs (fun _ _ => rfl) fun _ _ _ => rfl

/-- Every row of one integer source, MOV and LDF run their data operations. -/
theorem oneRows_run : ∀ p ∈ Claims.oneRows, RowRuns p := by
  have hmov (x : Args) (v : SVal) : movVal x v = ⟨v.val, v.bits, if v.tags.isEmpty || x.a.untagged then .free else .sign⟩ := by
    unfold movVal
    split <;> rfl
  simp only [Claims.oneRows, List.forall_mem_cons]
  refine ⟨fun _ _ => rfl, fun _ _ => rfl, fun _ _ => rfl, fun _ _ => rfl, fun o s => ?mov, fun o s => ?ldf, fun _ h => by cases h⟩
  case mov =>
    change execMov o s = _
    simp only [execMov, hmov]
    rfl
  case ldf =>
    change execLdf o s = _
    simp only [execLdf, hmov]
    rfl

/-- Every binary32 row runs its data operation. -/
theorem f32Rows_run : ∀ p ∈ Claims.f32Rows, RowRuns p := by
  simp only [Claims.f32Rows, List.forall_mem_cons]
  refine ⟨?_, ?_, ?_, ?_, ?_, ?fceq, ?fclt, ?fcle, ?_, ?_, ?_, ?_, fun _ h => by cases h⟩
  case fceq | fclt | fcle => exact fcmpRow_runs fun _ _ => rfl
  all_goals exact fun _ _ => rfl

/-- Settles O1: each row runs its data operation. -/
theorem integerInstructionsComplete : Obligations.IntegerInstructionsComplete := fun p hp =>
  (List.mem_append.mp hp).elim (fun h => (intRows_run p h).completes) fun h => (oneRows_run p h).completes

/-- Settles O3: each row runs its data operation. -/
theorem binary32InstructionsComplete : Obligations.Binary32InstructionsComplete := fun p hp => (f32Rows_run p hp).completes

/-! ### A zero divisor -/

/-- A data operation whose sources are read and accepted takes DIV0 where its divisor is zero. -/
theorem rowOp_div0 {p : Claims.DataRow} {x : Args} {s s1 s2 : State} {vb vc : SVal} {tg : Option (BitVec 4)}
    (hp : p.div = true) (hb : loadOpd x.core 1 x.b s = .ok s1 vb) (hc : loadOpd x.core 2 x.c s1 = .ok s2 vc)
    (htag : dataTag (p.rule x) p.dflt p.two x vb vc = .ok tg) (hstore : storeTagOk x.a tg = .ok ()) (hz : vc.nat x.width = 0) :
    rowOp p x s = .trap s2 ⟨causeDiv0, 0, 2, BitVec.ofNat 32 vc.addr⟩ := by
  simp [rowOp, dataOp, hb, hc, htag, hstore, hp, hz, SeqRes.bind, guardAll, firstTrap]

/-- Settles O4. -/
theorem zeroDivisorTraps : Obligations.ZeroDivisorTraps := by
  intro p hp hdiv o s0 s s1 s2 x vb vc tg hready hplaced hb hc htag hstore hz
  have hcore : x.core = o.core := hplaced.1
  rw [← hcore] at hb hc
  rw [intRows_run p hp, dataInstr, issueSeq_of_ready hready, withArgs_of_placed hplaced, rowOp_div0 hdiv hb hc htag hstore hz]

/-! ### Register operands -/

/-- The tag rule of every integer row of two sources gives INT for two INT sources, and its value has the operation's width. -/
structure IsIntRow (p : Claims.DataRow) : Prop where
  kinds : p.ka = kDst ∧ p.kb = kSrc ∧ p.kc = kSrc
  two : p.two = true
  dflt : p.dflt = tagInt
  rule : ∀ x, p.rule x tagInt tagInt = some tagInt
  bits : ∀ x v, p.bits x v = x.width
  widen : ∀ x v, p.wd x v = .sign

theorem intRows_isIntRow : ∀ p ∈ Claims.intRows, IsIntRow p := by
  simp only [Claims.intRows, List.forall_mem_cons]
  refine ⟨?_, ?_, ?_, ?_, ?_, ?_, ?_, ?_, ?_, ?_, ?_, ?_, ?_, ?_, ?_, ?_, ?_, fun _ h => by cases h⟩
  all_goals exact ⟨⟨rfl, rfl, rfl⟩, rfl, rfl, fun _ => rfl, fun _ _ => rfl, fun _ _ => rfl⟩

/-- An INT word of a g register as a source. -/
def intSrc (v : BitVec 32) : SVal := ⟨[tagInt], v.toNat, 32, false, 0, none⟩

theorem loadOpd_int {core n i : Nat} {s : State} {v : BitVec 32} (h : (s.core core).g i = ⟨tagInt, v⟩) :
    loadOpd core n (.g i) s = .ok s (intSrc v) := by
  simp only [loadOpd, h, intSrc]

theorem checkPair_int {core : Nat} {r : TagRule} {vb vc : SVal} (h : r tagInt tagInt = some tagInt) :
    checkPair core r vb vc tagInt tagInt = .ok tagInt := by
  have hraw : rawRule r tagInt tagInt = some tagInt := h
  have hr : (if core = quoinCore then rawRule r else r) tagInt tagInt = some tagInt := by split <;> assumption
  simp only [checkPair, hr]

theorem srcTag_intSrc (core n : Nat) (dflt : BitVec 4) (v : BitVec 32) : srcTag core n dflt (intSrc v) = .ok tagInt := by
  simp [srcTag, intSrc, show ¬ tagRaw = tagInt by decide]

theorem dataTag_intSrc {r : TagRule} {x : Args} {b c : BitVec 32} (hx : x.a.untagged = false) (h : r tagInt tagInt = some tagInt) :
    dataTag r tagInt true x (intSrc b) (intSrc c) = .ok (some tagInt) := by
  simp only [dataTag, hx, pairTags, srcTag_intSrc, if_true, checkPair_int h]
  rfl

/-- An INT source of 32 bits is its word. -/
theorem nat_intSrc (v : BitVec 32) : (intSrc v).nat 32 = v.toNat := by
  have := v.isLt
  simp only [SVal.nat, intSrc, wrap, sgn, Nat.mod_eq_of_lt this]
  by_cases h : v.toNat < 2 ^ (32 - 1)
  · rw [if_pos h]
    omega
  · rw [if_neg h]
    omega

/-- Writing a g register with a 32-bit result writes its low 32 bits. -/
theorem storeOpd_g (core i v : Nat) (t : BitVec 4) (wd : Widen) (s : State) :
    storeOpd core (.g i) (some t) v 32 wd s = .ok (s.updCore core fun k => k.setG i ⟨t, BitVec.ofNat 32 v⟩) () := by
  have hv : BitVec.ofNat 32 (v % 2 ^ 32 % 2 ^ 32) = BitVec.ofNat 32 v :=
    BitVec.eq_of_toNat_eq (by simp only [BitVec.toNat_ofNat, Nat.mod_mod])
  simp only [storeOpd, fitBits, Nat.le_refl, if_true, Option.getD_some, hv]

/-- Settles O5: the row's operation reads its two g registers and writes a third. -/
theorem integerRegisterForms : Obligations.IntegerRegisterForms := by
  intro p hp o s0 s x a b c vb vc hready hplaced hxa hxb hxc hb hc hdiv
  obtain ⟨⟨hka, hkb, hkc⟩, htwo, hdflt, hrule, hbits, hwd⟩ := intRows_isIntRow p hp
  have hwidth : x.width = 32 := by simp [Args.width, Args.wide, hxa, hxb, hxc, Place.isD64]
  have htag : dataTag (p.rule x) p.dflt p.two x (intSrc vb) (intSrc vc) = .ok (some tagInt) := by
    rw [hdflt, htwo]
    exact dataTag_intSrc (by rw [hxa]; rfl) (hrule x)
  have hplaced : Claims.Placed p.ka p.kb p.kc o s x := by rwa [hka, hkb, hkc]
  refine (intRows_run p hp).completes o s0 s s s _ x (intSrc vb) (intSrc vc) (some tagInt) hready hplaced
    (by rw [hxb, loadOpd_int hb]) (by rw [hxc, loadOpd_int hc]) htag (by rw [hxa]; rfl) (fun hd hz => ?_) rfl rfl ?_
  · rw [hwidth, nat_intSrc] at hz
    exact hdiv hd (BitVec.eq_of_toNat_eq hz)
  · rw [hxa, hbits, hwidth, storeOpd_g]
    rfl

end Sys2Proof.Machine
end

section
/-! Sequencer instructions that complete: tagged moves, the stack, branches, flushes (R75, R78, R79, R92, R95, R96, R98, R99). -/

namespace Sys2Proof.Machine

/-! ### From an instruction's body to its completion -/

@[simp] theorem SeqRes.bind_ok {α β : Type} (s : State) (a : α) (f : State → α → SeqRes β) : (SeqRes.ok s a).bind f = f s a := rfl

/-- Operands that decode, pass their addressing checks and their instruction's own check reach the body at their places. -/
theorem withArgs_of_placed_own {ka kb kc : Kinds} {own : Option Opd → Option Opd → Option Opd → Option Nat} {o : SeqOps}
    {s : State} {x : Args} (h : Claims.Placed ka kb kc o s x)
    (hown : ∀ a b c, placeOpd o.core (s.core o.core) 0 a = .ok x.a → placeOpd o.core (s.core o.core) 1 b = .ok x.b →
      placeOpd o.core (s.core o.core) 2 c = .ok x.c → own a b c = none)
    (body : Args → State → SeqRes Flow) : withArgs ka kb kc own o body s = body x s := by
  obtain ⟨hx, a, b, c, ha, hb, hc, pb, pc, pa⟩ := h
  have := hown a b c pa pb pc
  cases x
  simp_all [withArgs]

/-- A ready instruction whose operands reach a body that ends with `f` completes by `f`. -/
theorem done_of_body {opc : Nat} {ka kb kc : Kinds} {o : SeqOps} {s0 s s1 : State} {x : Args} {f : Flow}
    {body : Args → State → SeqRes Flow} (hready : Claims.Ready opc o s0 s) (hplaced : Claims.Placed ka kb kc o s x)
    (hbody : body x s = .ok s1 f) :
    issueSeq opc o (withArgs ka kb kc noOwn o body) s0 = .next (Claims.seqDone o s0 s1 f) := by
  rw [issueSeq_of_ready hready, withArgs_of_placed hplaced, hbody]
  rfl

/-- The same of an instruction with a check of its own. -/
theorem done_of_body_own {opc : Nat} {ka kb kc : Kinds} {own : Option Opd → Option Opd → Option Opd → Option Nat} {o : SeqOps}
    {s0 s s1 : State} {x : Args} {f : Flow} {body : Args → State → SeqRes Flow}
    (hready : Claims.Ready opc o s0 s) (hplaced : Claims.Placed ka kb kc o s x)
    (hown : ∀ a b c, placeOpd o.core (s.core o.core) 0 a = .ok x.a → placeOpd o.core (s.core o.core) 1 b = .ok x.b →
      placeOpd o.core (s.core o.core) 2 c = .ok x.c → own a b c = none)
    (hbody : body x s = .ok s1 f) :
    issueSeq opc o (withArgs ka kb kc own o body) s0 = .next (Claims.seqDone o s0 s1 f) := by
  rw [issueSeq_of_ready hready, withArgs_of_placed_own hplaced hown, hbody]
  rfl

theorem checkParity_one {v : SVal} (s : State) (h : Claims.Clean v) : checkParity [v] s = .ok s () := by
  simp [checkParity, show v.perr = none from h]

theorem checkParity_two {v w : SVal} (s : State) (hv : Claims.Clean v) (hw : Claims.Clean w) : checkParity [v, w] s = .ok s () := by
  simp [checkParity, show v.perr = none from hv, show w.perr = none from hw]

theorem checkParity_three {u v w : SVal} (s : State) (hu : Claims.Clean u) (hv : Claims.Clean v) (hw : Claims.Clean w) :
    checkParity [u, v, w] s = .ok s () := by
  simp [checkParity, show u.perr = none from hu, show v.perr = none from hv, show w.perr = none from hw]

@[simp] theorem guardAll_nil (s : State) (k : SeqRes Flow) : guardAll s [] k = k := rfl

@[simp] theorem guardAll_ok (s : State) (r : List (Except Trap Unit)) (k : SeqRes Flow) :
    guardAll s (.ok () :: r) k = guardAll s r k := rfl

/-! ### Tagged moves -/

/-- The tag of an FMA's source is one that FMA takes. -/
theorem F32Source.tag {core n : Nat} {v : SVal} (h : Claims.F32Source core n v) :
    ∃ t, srcTag core n tagF32 v = .ok t ∧ (t = tagF32 || (t = tagRaw && core = quoinCore)) = true := by
  rcases h with h | ⟨hq, h⟩
  · exact ⟨_, h, rfl⟩
  · exact ⟨_, h, by simp [hq]⟩

/-- Settles O6: each body, its sources read and accepted, ends with A written. -/
theorem taggedMovesComplete : Obligations.TaggedMovesComplete := by
  refine ⟨?fma, ?fmaUntagged, ?retag, ?tagof, ?fst⟩
  case fma =>
    rintro o s0 s s1 s2 s3 s4 ⟨core, a, b, c⟩ va vb vc tg hready hplaced ha hb hc hva hsb hsc hsa htg hstore hpa hpb hpc hwrite
    obtain rfl : core = o.core := hplaced.1
    obtain ⟨tb, hb', okb⟩ := F32Source.tag hsb
    obtain ⟨tc, hc', okc⟩ := F32Source.tag hsc
    obtain ⟨ta, ha', oka⟩ := F32Source.tag hsa
    refine done_of_body hready hplaced ?_
    dsimp only at ha hb hc hva hstore hwrite ⊢
    have hraw : (decide (o.core = quoinCore) && [va, vb, vc].any fun v => v.tags.contains tagRaw)
        = decide (o.core = quoinCore ∧ tagRaw ∈ va.tags ++ vb.tags ++ vc.tags) := by
      simp
    simp only [hb, hc, hva, SeqRes.bind_ok, ha, Bool.false_eq_true, if_false, hb', hc', ha', okb, okc, oka, if_true, hraw,
      decide_eq_true_eq, ← htg, hstore, guardAll_ok, guardAll_nil, checkParity_three _ hpb hpc hpa, hwrite]
  case fmaUntagged =>
    rintro o s0 s s1 s2 s3 s4 ⟨core, a, b, c⟩ va vb vc hready hplaced ha hb hc hva hsb hsc hsa hpa hpb hpc hwrite
    obtain rfl : core = o.core := hplaced.1
    refine done_of_body hready hplaced ?_
    dsimp only at ha hb hc hva hwrite ⊢
    have hstore : storeTagOk a none = .ok () := by cases a <;> first | rfl | cases ha
    simp only [hb, hc, hva, SeqRes.bind_ok, ha, if_true, hsb, hsc, hsa, hstore, guardAll_ok, guardAll_nil,
      checkParity_three _ hpb hpc hpa, hwrite]
  case retag =>
    rintro o s0 s s1 s2 ⟨core, a, b, c⟩ v frm dest hready hplaced rfl hd hb hfrm hp hpart hraw hok hstore hwrite
    obtain rfl : core = o.core := hplaced.1
    refine done_of_body hready hplaced ?_
    have hneg : ¬ ((dest : Int) < 0 ∨ (dest : Int) > 15) := by omega
    have hpriv : ¬ (BitVec.ofNat 4 dest = tagRaw ∧ o.core < 16) := fun ⟨ht, hc⟩ => by
      have : dest = 15 := by simpa [tagRaw, Nat.mod_eq_of_lt hd] using congrArg BitVec.toNat ht
      have := hraw this
      unfold quoinCore at this
      omega
    have hbad : ¬ (v.part = true ∧ tagBad frm = true) := fun ⟨h1, h2⟩ => by simp [hpart h1] at h2
    dsimp only at hb hstore hwrite ⊢
    simp only [hb, SeqRes.bind_ok, hfrm, BitVec.ofInt_natCast, Bool.and_eq_true, Bool.or_eq_true, decide_eq_true_eq, hbad, hneg,
      hpriv, if_false, hok, Bool.not_true, Bool.false_eq_true, hstore, guardAll_ok, guardAll_nil, checkParity_one _ hp, hwrite]
  case tagof =>
    rintro o s0 s s1 s2 ⟨core, a, b, c⟩ v t hready hplaced hb ht hp hwrite
    obtain rfl : core = o.core := hplaced.1
    refine done_of_body hready hplaced ?_
    dsimp only at hb hwrite ⊢
    simp only [hb, SeqRes.bind_ok, ht, checkParity_one _ hp, hwrite]
  case fst =>
    rintro o s0 s s1 s2 ⟨core, a, b, c⟩ v hready hplaced hb hwrite
    obtain rfl : core = o.core := hplaced.1
    refine done_of_body hready hplaced ?_
    dsimp only at hb hwrite ⊢
    simp only [hb, SeqRes.bind_ok, hwrite]

/-! ### The stack -/

/-- POP's own first check is that of its stack slot. -/
theorem stackFirst_of_slot {o : SeqOps} {s : State} {sp : Nat} (h : stackSlot o.core (s.core o.core) false = .ok sp)
    (body : State → SeqRes Flow) : stackFirst o body s = body s := by
  unfold stackFirst
  split
  · next e => cases h.symm.trans e
  · rfl

/-- Settles O7: PUSH and POP touch the stack slot that g15 names and move g15 last. -/
theorem pushAndPopComplete : Obligations.PushAndPopComplete := by
  refine ⟨?push, ?pop⟩
  case push =>
    rintro o s0 s s1 s2 ⟨core, a, b, c⟩ v sp tb tg hready hplaced hsp hb htb htg hp hwrite
    obtain rfl : core = o.core := hplaced.1
    refine done_of_body hready hplaced ?_
    dsimp only at hb ⊢
    simp only [hsp, hb, SeqRes.bind_ok, htb, htg, checkParity_one _ hp, hwrite]
  case pop =>
    rintro o s0 s s1 s2 ⟨core, a, b, c⟩ v sp tb hready hplaced hsp hread htb hbad hstore hp hwrite
    obtain rfl : core = o.core := hplaced.1
    change issueSeq _ o _ s0 = _
    rw [issueSeq_of_ready hready, stackFirst_of_slot hsp, withArgs_of_placed hplaced]
    dsimp only at hstore hwrite ⊢
    simp only [hsp, hread, SeqRes.bind_ok, htb, hbad, Bool.false_eq_true, if_false, hstore, guardAll_ok, guardAll_nil,
      checkParity_one _ hp, hwrite]
    rfl

/-! ### What reading memory leaves of the sequencers -/

/-- What a tile's update leaves of every tile, whether or not the tile exists. -/
theorem State.tile_updTile_proj {α : Type} (P : Tile → α) {s : State} {t : Nat} {f : Tile → Tile} (hf : ∀ x, P (f x) = P x) (u : Nat) :
    P ((s.updTile t f).tile u) = P (s.tile u) := by
  by_cases hu : u = t
  · subst hu
    by_cases ht : u < s.tiles.length
    · rw [State.tile_updTile_same _ _ _ ht, hf]
    · simp [State.tile, State.updTile, ht]
  · rw [State.tile_updTile_ne _ _ _ _ hu]

theorem State.core_updTile {s : State} {t : Nat} {f : Tile → Tile} (hf : ∀ x, (f x).seq = x.seq) (n : Nat) :
    (s.updTile t f).core n = s.core n := by
  unfold State.core
  split
  · rfl
  · exact State.tile_updTile_proj Tile.seq hf n

/-- The core `d` is `c` up to its local RAM and its store buffer. -/
def SeqCore.MemOnly (c d : SeqCore) : Prop := d = { c with lram := d.lram, lramBad := d.lramBad, stbuf := d.stbuf }

theorem SeqCore.MemOnly.spilled {c d : SeqCore} (h : c.MemOnly d) : d.spilled = c.spilled := by
  unfold SeqCore.MemOnly at h
  rw [h]

/-- Every core of `z` is that of `s` up to its local RAM and its store buffer. -/
def RegsKept (s z : State) : Prop := ∀ n, (s.core n).MemOnly (z.core n)

theorem RegsKept.refl (s : State) : RegsKept s s := fun _ => rfl

theorem RegsKept.trans {a b c : State} (h1 : RegsKept a b) (h2 : RegsKept b c) : RegsKept a c := fun n => by
  have e1 := h1 n
  have e2 := h2 n
  unfold SeqCore.MemOnly at e1 e2 ⊢
  rw [e1] at e2
  exact e2

theorem RegsKept.updTile {s z : State} {t : Nat} {f : Tile → Tile} (h : RegsKept s z) (hf : ∀ x, (f x).seq = x.seq) :
    RegsKept s (z.updTile t f) := fun n => by
  rw [State.core_updTile hf]
  exact h n

theorem RegsKept.updCore {s z : State} {n : Nat} {f : SeqCore → SeqCore} (h : RegsKept s z) (hf : ∀ c : SeqCore, c.MemOnly (f c)) :
    RegsKept s (z.updCore n f) := h.trans fun k => by
  by_cases hk : k = n
  · subst hk
    by_cases hx : k < z.tiles.length ∨ k = quoinCore
    · rw [State.core_updCore_same _ _ _ hx]
      exact hf _
    · have hself : (z.updCore k f).core k = z.core k := by
        rw [not_or] at hx
        simp [State.core, State.updCore, hx.2, State.tile, State.updTile, hx.1]
      rw [hself]
      exact rfl
  · rw [State.core_updCore_ne _ _ _ _ hk]
    exact rfl

theorem RegsKept.chargeSeq {s z : State} {core n : Nat} (h : RegsKept s z) : RegsKept s (chargeSeq core n z) := by
  unfold Machine.chargeSeq
  split
  · exact h.updTile fun _ => rfl
  · exact h

theorem RegsKept.icWordWrite {s z : State} {t o : Nat} {v : BitVec 32} (h : RegsKept s z) : RegsKept s (icWordWrite t o v z) := by
  unfold Machine.icWordWrite
  dsimp only
  split
  case h_6 => exact h
  all_goals exact h.updTile fun _ => rfl

theorem RegsKept.drainOne {s z z1 : State} {core : Nat} (h : RegsKept s z) (hd : drainOne core z = some z1) : RegsKept s z1 := by
  unfold Machine.drainOne at hd
  split at hd
  · exact Option.some.inj hd ▸ h
  · dsimp only at hd
    split at hd
    · split at hd
      · cases hd
      · exact Option.some.inj hd ▸ RegsKept.updTile (h.updCore (f := fun c => { c with stbuf := _ }) fun _ => rfl) fun _ => rfl
    · refine Option.some.inj hd ▸ foldl_keeps (RegsKept s) _ (fun y i hy => ?_) _ _ (h.updCore fun _ => rfl)
      split
      · exact hy.icWordWrite
      · exact hy.updCore fun _ => rfl

theorem RegsKept.drainN {s : State} {core : Nat} : ∀ {k : Nat} {z z1 : State}, RegsKept s z → drainN core k z = some z1 → RegsKept s z1
  | 0, _, _, h, hd => Option.some.inj hd ▸ h
  | k + 1, z, z1, h, hd => by
    unfold Machine.drainN at hd
    split at hd
    · next z2 hz => exact drainN (h.drainOne hz) hd
    · cases hd

theorem RegsKept.tsPerr {s z : State} {t c : Nat} {bad : List Nat} {src : Nat} (h : RegsKept s z) : RegsKept s (z.tsPerr t c bad src) := by
  unfold State.tsPerr
  dsimp only
  split
  · exact RegsKept.updTile (f := fun x => { x with ic := _ }) (h.updTile fun _ => rfl) fun _ => rfl
  · exact h.updTile fun _ => rfl

/-- The state that a part of an instruction ends in, if it ends in one, keeps the registers. -/
def SeqRes.KeepsRegs {α : Type} (s : State) : SeqRes α → Prop
  | .ok z _ => RegsKept s z
  | .trap z _ => RegsKept s z
  | .wait => True

theorem SeqRes.KeepsRegs.bind {α β : Type} {s : State} {r : SeqRes α} {f : State → α → SeqRes β} (h : r.KeepsRegs s)
    (hf : ∀ z a, RegsKept s z → (f z a).KeepsRegs s) : (r.bind f).KeepsRegs s := by
  cases r with
  | ok z a => exact hf z a h
  | trap z t => exact h
  | wait => trivial

theorem SeqRes.KeepsRegs.readPiece {s z : State} {core : Nat} {sp : Space} {a n lo len : Nat} (h : RegsKept s z) :
    (readPiece core sp a n lo len z).KeepsRegs s := by
  have hread (y : State) (hy : RegsKept s y) : SeqRes.KeepsRegs s (if decide (sp = .tile) then
      if (y.tile core).ts.seqWaits (a / 128) false then .wait
      else .ok ((y.updTs core fun ts => ts.countOff ((y.tile core).ts.read (4 * (a / 4)) (4 * (wordsOf a n).length)).off).tsPerr core
          (a / 128) ((y.tile core).ts.read (4 * (a / 4)) (4 * (wordsOf a n).length)).bad 6)
        ⟨((y.tile core).ts.read (4 * (a / 4)) (4 * (wordsOf a n).length)).data, [], false,
          ((y.tile core).ts.read (4 * (a / 4)) (4 * (wordsOf a n).length)).bad⟩
    else .ok y (readLram y core (wordsOf a n))) := by
    split
    · split
      · trivial
      · exact RegsKept.tsPerr (hy.updTile fun _ => rfl)
    · exact hy
  unfold Machine.readPiece
  dsimp only
  split
  · exact hread z h
  · split
    · exact h
    · split
      · exact hread _ (.chargeSeq (h.drainN ‹_›))
      · trivial

theorem SeqRes.KeepsRegs.readPieces {s : State} {core : Nat} {sp : Space} {n : Nat} :
    ∀ {l : List (Nat × Nat)} {z : State}, RegsKept s z → (readPieces core sp n l z).KeepsRegs s
  | [], _, h => h
  | _ :: _, _, h => .bind (.readPiece h) fun _ _ hz => .bind (readPieces hz) fun _ _ hz => hz

/-- Reading local RAM or tile store may drain the store buffer, and changes no register. -/
theorem SeqRes.KeepsRegs.loadMem {s z : State} {core : Nat} {sp : Space} {w addr n : Nat} (h : RegsKept s z) (hsp : sp ≠ .raw) :
    (loadMem core sp w addr n z).KeepsRegs s := by
  cases sp with
  | raw => exact absurd rfl hsp
  | tile => exact .bind (.readPieces h) fun _ _ hz => hz
  | lram =>
    unfold Machine.loadMem
    dsimp only
    split
    · exact h
    · exact .bind (.readPieces h) fun _ _ hz => hz

theorem loadMem_keepsRegs {s z : State} {core : Nat} {sp : Space} {w addr n : Nat} {v : SVal}
    (h : loadMem core sp w addr n s = .ok z v) (hsp : sp ≠ .raw) : RegsKept s z := by
  have hk := SeqRes.KeepsRegs.loadMem (core := core) (w := w) (addr := addr) (n := n) (.refl s) hsp
  rwa [h] at hk

/-- An update is by what it makes of the element it updates. -/
theorem upd_congr {α : Type} (d : α) {f g : α → α} : ∀ {l : List α} {n : Nat}, f (l.getD n d) = g (l.getD n d) → upd l n f = upd l n g
  | [], _, _ => rfl
  | _ :: _, 0, h => congrArg (· :: _) h
  | _ :: _, _ + 1, h => congrArg (_ :: ·) (upd_congr d h)

theorem State.updCore_congr {s : State} {n : Nat} {f g : SeqCore → SeqCore} (h : f (s.core n) = g (s.core n)) :
    s.updCore n f = s.updCore n g := by
  by_cases hq : n = quoinCore
  · simp only [State.core, hq, if_true] at h
    simp only [State.updCore, hq, if_true, h]
  · simp only [State.core, hq, if_false] at h
    simp only [State.updCore, hq, if_false, State.updTile]
    congr 1
    exact upd_congr Tile.reset (congrArg (fun c => ({ s.tile n with seq := c } : Tile)) h)

/-! ### Branches -/

/-- A branch whose target is good goes on with it. -/
theorem withTarget_of_good {o : SeqOps} {x : Args} {s s1 : State} {v : SVal} (hx : x.core = o.core)
    (hb : loadOpd o.core 1 x.b s = .ok s1 v) (hv : Claims.GoodTarget o x v) (k : State → BitVec 32 → SeqRes Flow) :
    withTarget x s k = k s1 (targetOf (s1.core o.core).pc x.b v) := by
  obtain ⟨htag, halign, hp⟩ := hv
  simp only [withTarget, hx, hb, SeqRes.bind_ok, htag, halign, guardAll_ok, guardAll_nil, checkParity_one _ hp]

theorem condBranch_completes {opc want : Nat} {o : SeqOps} {s0 s s1 s2 : State} {x : Args} {v cv : SVal}
    (hready : Claims.Ready opc o s0 s) (hplaced : Claims.Placed kNone kSrc kSrc o s x)
    (hb : loadOpd o.core 1 x.b s = .ok s1 v) (hc : loadOpd o.core 2 x.c s1 = .ok s2 cv)
    (hv : Claims.GoodTarget o x v) (hcv : needTag o.core 2 tagBool cv = .ok ()) (hp : Claims.Clean cv) :
    condBranch opc want o s0 = .next (Claims.seqDone o s0 s2
      (if cv.val % 2 ^ 32 = want then .jump (targetOf (s2.core o.core).pc x.b v) else .seq)) := by
  obtain ⟨core, a, b, c⟩ := x
  obtain rfl : core = o.core := hplaced.1
  obtain ⟨htag, halign, hpv⟩ := hv
  refine done_of_body hready hplaced ?_
  dsimp only at hb hc htag halign ⊢
  simp only [hb, hc, SeqRes.bind_ok, htag, hcv, halign, guardAll_ok, guardAll_nil, checkParity_two _ hpv hp]
  split <;> rfl

/-- Settles O8: each branch, its target good, leaves by the flow that its condition names. -/
theorem branchesComplete : Obligations.BranchesComplete := by
  refine ⟨?br, ?cond, ?call, ?spill, ?reload, ?ret, ?dbnz⟩
  case br =>
    intro o s0 s s1 x v hready hplaced hb hv
    exact done_of_body hready hplaced (withTarget_of_good hplaced.1 hb hv _)
  case cond =>
    rintro want i o s0 s s1 s2 x v cv (⟨rfl, rfl, hready⟩ | ⟨rfl, rfl, hready⟩) hplaced hb hc hv hcv hp
    · exact condBranch_completes hready hplaced hb hc hv hcv hp
    · exact condBranch_completes hready hplaced hb hc hv hcv hp
  case call =>
    intro o s0 s s1 x v hready hplaced hb hv hroom
    refine done_of_body hready hplaced ((withTarget_of_good hplaced.1 hb hv _).trans ?_)
    simp only [hplaced.1, pushReturn, hroom, if_true, SeqRes.bind_ok]
  case spill =>
    rintro o s0 s s1 s2 x v a hready hplaced hb hv hfull rfl hlimit htop hwrite
    refine done_of_body hready hplaced ((withTarget_of_good hplaced.1 hb hv _).trans ?_)
    have hok : ¬ (_ ≥ _ ∨ _ + 4 > lramTop) := not_or.mpr ⟨Nat.not_le_of_lt hlimit, Nat.not_lt_of_le htop⟩
    simp only [hplaced.1, pushReturn, Nat.not_lt_of_le hfull, if_false, Bool.or_eq_true, decide_eq_true_eq, hok, hwrite,
      SeqRes.bind_ok]
  case reload =>
    intro o s0 s s1 x v hready hplaced hempty hspilled hread htag halign hp
    refine done_of_body hready hplaced ?_
    simp only [retBody, hplaced.1, hempty, hspilled, if_false, hread, SeqRes.bind_ok, htag, if_true, halign, guardAll_ok,
      guardAll_nil, checkParity_one _ hp]
    have hkept : RegsKept s s1 := loadMem_keepsRegs hread (by decide)
    have hsp : (s1.core o.core).spilled = (s.core o.core).spilled := (hkept o.core).spilled
    exact congrArg (SeqRes.ok · _) (State.updCore_congr (by rw [hsp]))
  case ret =>
    intro o s0 s x r rest hready hplaced hstack
    refine done_of_body hready hplaced ?_
    simp only [retBody, hplaced.1, hstack]
  case dbnz =>
    rintro o s0 s s1 s2 s3 ⟨core, a, b, c⟩ v cv hready hplaced hb hc ⟨htag, halign, hpv⟩ hcv hp hwrite
    obtain rfl : core = o.core := hplaced.1
    refine done_of_body hready hplaced ?_
    dsimp only at hb hc htag halign hwrite ⊢
    simp only [hb, hc, SeqRes.bind_ok, htag, hcv, halign, guardAll_ok, guardAll_nil, checkParity_two _ hpv hp, hwrite]
    split <;> rfl

/-! ### NOP, IFLUSH and FENCE -/

/-- Settles O9. -/
theorem nopFlushAndFenceComplete : Obligations.NopFlushAndFenceComplete := by
  refine ⟨fun o s0 s x hready hplaced => done_of_body hready hplaced rfl, fun o s0 s s1 x hplaced hdrain => ?_⟩
  have hall : drainAll o.core s = .ok s1 () := by simp only [drainAll, hdrain]
  refine ⟨fun hready => done_of_body hready hplaced ?_, fun hready => done_of_body hready hplaced ?_⟩
  · simp only [hplaced.1, hall, SeqRes.bind_ok]
  · simp only [hplaced.1, hall, SeqRes.bind_ok]

end Sys2Proof.Machine
end

section
/-! Sequencer instructions that trap, return, wait and tell the time, and the special registers (R100, R106 to R115, R119, R143, R146). -/

namespace Sys2Proof.Machine

/-! ### Updates of a tile's other units leave the cores -/

@[simp] theorem State.core_updTs (s : State) (t : Nat) (f : TileStore → TileStore) (n : Nat) : (s.updTs t f).core n = s.core n :=
  State.core_updTile (f := fun x => { x with ts := f x.ts }) (fun _ => rfl) n

@[simp] theorem State.core_updSt (s : State) (t : Nat) (f : StepUnit → StepUnit) (n : Nat) : (s.updSt t f).core n = s.core n :=
  State.core_updTile (f := fun x => { x with st := f x.st }) (fun _ => rfl) n

@[simp] theorem State.core_updTic (s : State) (t : Nat) (f : TileIc → TileIc) (n : Nat) : (s.updTic t f).core n = s.core n :=
  State.core_updTile (f := fun x => { x with ic := f x.ic }) (fun _ => rfl) n

/-! ### What the end of an instruction leaves of a core -/

theorem State.core_holdBit (core : Nat) (b : Bool) (s : State) (n : Nat) : (holdBit core b s).core n = s.core n := by
  unfold holdBit
  split
  · simp
  · rfl

theorem State.core_chargeBank (core k : Nat) (s : State) (n : Nat) : (chargeBank core k s).core n = s.core n := by
  unfold chargeBank
  split
  · simp
  · rfl

theorem State.core_chargeSeq (core k : Nat) (s : State) (n : Nat) : (chargeSeq core k s).core n = s.core n := by
  unfold chargeSeq
  split
  · simp
  · rfl

theorem holdBit_tiles_length (core : Nat) (b : Bool) (s : State) : (holdBit core b s).tiles.length = s.tiles.length := by
  unfold holdBit
  split
  · exact upd_length ..
  · rfl

theorem chargeBank_tiles_length (core k : Nat) (s : State) : (chargeBank core k s).tiles.length = s.tiles.length := by
  unfold chargeBank
  split
  · exact upd_length ..
  · rfl

theorem chargeSeq_tiles_length (core k : Nat) (s : State) : (chargeSeq core k s).tiles.length = s.tiles.length := by
  unfold chargeSeq
  split
  · exact upd_length ..
  · rfl

/-- The state of an instruction that is over, its cycles charged and its bank no longer held. -/
def charged (core held lost : Nat) (s : State) : State := holdBit core false (chargeBank core lost (chargeSeq core held s))

theorem core_charged (core held lost : Nat) (s : State) (n : Nat) : (charged core held lost s).core n = s.core n := by
  rw [charged, State.core_holdBit, State.core_chargeBank, State.core_chargeSeq]

theorem charged_tiles_length (core held lost : Nat) (s : State) : (charged core held lost s).tiles.length = s.tiles.length := by
  rw [charged, holdBit_tiles_length, chargeBank_tiles_length, chargeSeq_tiles_length]

/-! ### TRAP and RETI -/

theorem core_coreTrap {s : State} {c : Nat} {t : Trap} (h : c < s.tiles.length) : (s.coreTrap c t).core c = (s.core c).takeTrap t := by
  unfold State.coreTrap
  dsimp only
  split
  · exact State.core_updCore_same _ _ _ (.inl h)
  · exact State.core_updCore_same _ _ _ (.inl h)

theorem core_spendLate (s : State) (core l n : Nat) : (s.spendLate core l).core n = s.core n := by
  unfold State.spendLate
  split
  · split <;> rfl
  · simp

theorem spendLate_tiles_length (s : State) (core l : Nat) : (s.spendLate core l).tiles.length = s.tiles.length := by
  unfold State.spendLate
  split
  · split <;> rfl
  · exact upd_length ..

/-- The address that SEQ_EPC keeps, in units of 8 bytes. -/
theorem savedPc_eq (e : BitVec 19) : ((e.extractLsb' 3 14).setWidth 32 : BitVec 32) * 8 = BitVec.ofNat 32 (fld e 3 14 * 8) := by
  apply BitVec.eq_of_toNat_eq
  simp [fld, BitVec.toNat_mul]

theorem retiReturns : Claims.RetiReturns := by
  intro o s0 s x hready hplaced hcore hlen hlevel
  have hx : x.core = o.core := hplaced.1
  by_cases hurg : (s.core o.core).bankLevel = 1 ∧ s.presents o.core 2 = true ∧ bit (s.core o.core).ctrl 1 = true
      ∧ (s.core o.core).haltReq = false
  · obtain ⟨h1, h2, h3, h4⟩ := hurg
    refine ⟨_, done_of_body hready hplaced (s1 := (s.spendLate o.core 2).updCore o.core SeqCore.abandonExit) (f := .done) ?_, ?_⟩
    · simp [hx, h1, h2, h3, h4]
    · have hc : (Claims.seqDone o s0 ((s.spendLate o.core 2).updCore o.core SeqCore.abandonExit) .done).core o.core
          = (s.core o.core).abandonExit := by
        rw [Claims.seqDone, finishSeq]
        refine (core_charged ..).trans ((State.core_updCore_same _ _ _ (.inl ?_)).trans (by rw [core_spendLate]))
        rwa [spendLate_tiles_length]
      rw [hc, if_pos ⟨h1, h2, h3, h4⟩]
      exact ⟨rfl, rfl, rfl, rfl, rfl, rfl, rfl⟩
  · refine ⟨_, done_of_body hready hplaced
      (s1 := s.updCore o.core fun c => { c.leave with halted := c.halted || c.haltReq }) (f := .done) ?_, ?_⟩
    · have : ¬ ((((s.core o.core).bankLevel = 1 ∧ s.presents o.core 2 = true) ∧ bit (s.core o.core).ctrl 1 = true)
          ∧ (s.core o.core).haltReq = false) := fun ⟨⟨⟨h1, h2⟩, h3⟩, h4⟩ => hurg ⟨h1, h2, h3, h4⟩
      simp only [hx, hlevel, if_false, Bool.and_eq_true, decide_eq_true_eq, Bool.not_eq_true', this]
    · have hc : (Claims.seqDone o s0 (s.updCore o.core fun c => { c.leave with halted := c.halted || c.haltReq }) .done).core o.core
          = { (s.core o.core).leave with halted := (s.core o.core).halted || (s.core o.core).haltReq } := by
        rw [Claims.seqDone, finishSeq]
        exact (core_charged ..).trans (State.core_updCore_same _ _ _ (.inl hlen))
      rw [hc, if_neg hurg]
      exact ⟨rfl, rfl, rfl, rfl, _, rfl, savedPc_eq _, rfl⟩

theorem trapEntersUrg : Claims.TrapEntersUrg := by
  intro o s0 s x b hready hplaced hb hcore hlen
  refine ⟨_, (issueSeq_of_ready hready _).trans (congrArg _ (congrArg _ (withArgs_of_placed hplaced _))), ?_⟩
  rw [hb]
  have hc : (finishSeq o.core o.held o.lost s0 (.trap s ⟨causeSwTrap, 0, 3, BitVec.ofInt 32 b⟩)).core o.core
      = (s.core o.core).takeTrap ⟨causeSwTrap, 0, 3, BitVec.ofInt 32 b⟩ := by
    refine (core_coreTrap (s := charged o.core o.held o.lost s) ?_).trans (by rw [core_charged])
    rwa [charged_tiles_length]
  rw [hc]
  have hcause : BitVec.ofNat 32 (causeSwTrap % 256 + 0 % 16 * 256 + 3 % 4 * 4096) = BitVec.ofNat 32 (11 + 3 * 4096) := by
    simp only [causeSwTrap]
  by_cases h2 : (s.core o.core).bankLevel = 2
  · rw [if_pos h2, SeqCore.takeTrap, if_pos h2]
    exact ⟨hcause, rfl, rfl, rfl, rfl⟩
  · rw [if_neg h2, SeqCore.takeTrap, if_neg h2]
    exact ⟨hcause, rfl, rfl, rfl, rfl, rfl⟩

/-- Settles O10. -/
theorem trapAndReturn : Obligations.TrapAndReturn := ⟨retiReturns, trapEntersUrg⟩

/-! ### Waits, events and TIME -/

theorem lowestSet_zero : lowestSet 128 (0 : BitVec 128).toNat = none := by decide

theorem readyEvent_eq_none {c : SeqCore} {mask : BitVec 128} (h : c.evtLatch &&& mask = 0) : readyEvent c mask = none := by
  rw [readyEvent, h, lowestSet_zero]

theorem consumeEvent_ok {core : Nat} {a b c : Place} {n : Nat} {s s1 : State}
    (h : storeOpd core a (some tagInt) n 32 .sign s = .ok s1 ()) :
    consumeEvent ⟨core, a, b, c⟩ n s = .ok (s1.updCore core fun c => { c with evtLatch := setBit c.evtLatch n false }) .seq := by
  simp only [consumeEvent, h, SeqRes.bind_ok]

/-- A wake whose destination passes its checks and whose writing ends with `f` completes by `f`. -/
theorem wakeWith_of_ok {core : Nat} {a : BitVec 19} {d : Opd} {p : Place} {s s1 s2 : State} {f : Flow}
    {body : Args → State → SeqRes Flow} (hs : s1 = s.updCore core fun c => { c with wait := none }) (ha : Opd.ofBits a = some d)
    (hp : placeOpd core (s1.core core) 0 (some d) = .ok p) (hbody : body ⟨core, p, .none, .none⟩ s1 = .ok s2 f) :
    wakeWith core a body s = finishSeq core 0 0 s (.ok s2 f) := by
  subst hs
  simp only [wakeWith, ha, hp, hbody]

theorem eventsAndTimeComplete : Claims.EventsAndTimeComplete := by
  refine ⟨?waite, ?waitet, ?waitetTime, ?pulse, ?writeback, ?waitt, ?rdtime⟩
  case waite =>
    rintro o s0 s s1 s2 ⟨core, a, b, c⟩ m n hready hplaced hm htag hp hn hwrite
    obtain rfl : core = o.core := hplaced.1
    refine done_of_body hready hplaced ?_
    have hn : readyEvent (s1.core o.core) (BitVec.ofNat 128 m.val) = some n := hn
    dsimp only at hm hwrite ⊢
    simp only [hm, SeqRes.bind_ok, htag, guardAll_ok, guardAll_nil, checkParity_one _ hp, hn, consumeEvent_ok hwrite]
  case waitet =>
    rintro o s0 s s1 s2 s3 ⟨core, a, b, c⟩ m t n hready hplaced hm ht hmtag httag hpm hpt hn hwrite
    obtain rfl : core = o.core := hplaced.1
    refine done_of_body hready hplaced ?_
    have hn : readyEvent (s2.core o.core) (BitVec.ofNat 128 m.val) = some n := hn
    dsimp only at hm ht hwrite ⊢
    simp only [hm, ht, SeqRes.bind_ok, hmtag, httag, guardAll_ok, guardAll_nil, checkParity_two _ hpm hpt, hn, consumeEvent_ok hwrite]
  case waitetTime =>
    rintro o s0 s s1 s2 s3 ⟨core, a, b, c⟩ m t hready hplaced hm ht hmtag httag hpm hpt hn htime hwrite
    obtain rfl : core = o.core := hplaced.1
    refine done_of_body hready hplaced ?_
    dsimp only at hm ht hwrite ⊢
    simp only [hm, ht, SeqRes.bind_ok, hmtag, httag, guardAll_ok, guardAll_nil, checkParity_two _ hpm hpt, readyEvent_eq_none hn,
      ge_iff_le, htime, if_true, hwrite]
  case pulse =>
    rintro o s0 s s1 ⟨core, a, b, c⟩ m hready hplaced hm htag hp
    obtain rfl : core = o.core := hplaced.1
    refine done_of_body hready hplaced ?_
    dsimp only at hm ⊢
    simp only [hm, SeqRes.bind_ok, htag, guardAll_ok, guardAll_nil, checkParity_one _ hp]
    cases (s1.core o.core).group with
    | none => rfl
    | some l => rfl
  case writeback =>
    intro core s l hgroup hpulse hraw
    simp only [State.writeback, hgroup, hpulse, if_false, hraw]
    rfl
  case waitt =>
    rintro o s0 s s1 ⟨core, a, b, c⟩ t hready hplaced ht htag hp htime
    obtain rfl : core = o.core := hplaced.1
    refine done_of_body hready hplaced ?_
    dsimp only at ht ⊢
    simp only [ht, SeqRes.bind_ok, htag, guardAll_ok, guardAll_nil, checkParity_one _ hp, ge_iff_le, htime, if_true]
  case rdtime =>
    rintro o s0 s s1 ⟨core, a, b, c⟩ hready hplaced hwrite
    obtain rfl : core = o.core := hplaced.1
    refine done_of_body hready hplaced ?_
    dsimp only at hwrite ⊢
    simp only [hwrite, SeqRes.bind_ok]

theorem waitsAndWakes : Claims.WaitsAndWakes := by
  refine ⟨?waite, ?waitet, ?waitt, ?wake, ?wakeEvent, ?wakeTime, ?wakeWaitt⟩
  case waite =>
    rintro o s0 s s1 ⟨core, a, b, c⟩ m hready hplaced hm htag hp hn
    obtain rfl : core = o.core := hplaced.1
    refine done_of_body hready hplaced ?_
    dsimp only at hm ⊢
    simp only [hm, SeqRes.bind_ok, htag, guardAll_ok, guardAll_nil, checkParity_one _ hp, readyEvent_eq_none hn, beginWait]
  case waitet =>
    rintro o s0 s s1 s2 ⟨core, a, b, c⟩ m t hready hplaced hm ht hmtag httag hpm hpt hn htime
    obtain rfl : core = o.core := hplaced.1
    refine done_of_body hready hplaced ?_
    dsimp only at hm ht ⊢
    simp only [hm, ht, SeqRes.bind_ok, hmtag, httag, guardAll_ok, guardAll_nil, checkParity_two _ hpm hpt, readyEvent_eq_none hn,
      ge_iff_le, Nat.not_le_of_lt htime, if_false, beginWait]
  case waitt =>
    rintro o s0 s s1 ⟨core, a, b, c⟩ t hready hplaced ht htag hp htime
    obtain rfl : core = o.core := hplaced.1
    refine done_of_body hready hplaced ?_
    dsimp only at ht ⊢
    simp only [ht, SeqRes.bind_ok, htag, guardAll_ok, guardAll_nil, checkParity_one _ hp, ge_iff_le, Nat.not_le_of_lt htime, if_false,
      beginWait]
  case wake =>
    intro core s s1 s2 a mask d p n hwait hn hs ha hp hwrite
    have hn : readyEvent (s.core core) mask = some n := hn
    change execWaiteWake core s = _
    simp only [execWaiteWake, hwait, hn]
    exact congrArg _ (wakeWith_of_ok hs ha hp (consumeEvent_ok hwrite))
  case wakeEvent =>
    intro core s s1 s2 a mask t d p n hwait hn hs ha hp hwrite
    have hn : readyEvent (s.core core) mask = some n := hn
    change execWaitetWake core s = _
    simp only [execWaitetWake, hwait, hn]
    exact congrArg _ (wakeWith_of_ok hs ha hp (consumeEvent_ok hwrite))
  case wakeTime =>
    intro core s s1 s2 a mask t d p hwait hn htime hs ha hp hwrite
    change execWaitetWake core s = _
    simp only [execWaitetWake, hwait, readyEvent_eq_none hn, ge_iff_le, htime, if_true]
    exact congrArg _ (wakeWith_of_ok hs ha hp (by simp only [hwrite, SeqRes.bind_ok]))
  case wakeWaitt =>
    intro core s t hwait htime
    change execWaittWake core s = _
    simp only [execWaittWake, hwait, ge_iff_le, htime, if_true]

/-- Settles O11. -/
theorem eventAndTimeInstructions : Obligations.EventAndTimeInstructions := ⟨eventsAndTimeComplete, waitsAndWakes⟩

/-! ### STEP, STSTAT, MFSR and MTSR -/

/-- A place of an immediate is an immediate operand. -/
theorem immVal_of_placed {core n : Nat} {c : SeqCore} {d : Option Opd} {v : Int} (h : placeOpd core c n d = .ok (.imm v)) :
    Opd.immVal? d = some v := by
  unfold placeOpd at h
  split at h
  case h_5 => exact congrArg some (Place.imm.inj (Except.ok.inj h))
  case h_6 =>
    split at h
    · cases h
    · split at h <;> cases h
  all_goals cases h

/-- Settles O12. -/
theorem stepAndSpecialRegisters : Obligations.StepAndSpecialRegisters := by
  refine ⟨?step, ?release, ?ststat, ?clear, ?mfsr, ?mtsr⟩
  case step =>
    rintro o s0 s s1 s2 ⟨core, a, b, c⟩ v d hready hplaced hv htag hp halign htop hdrain hbad rfl
    obtain rfl : core = o.core := hplaced.1
    have hall : drainAll o.core s1 = .ok s2 () := by simp only [drainAll, hdrain]
    dsimp only at hv
    by_cases hq : o.core ≥ 16
    · rw [if_pos hq]
      refine done_of_body hready hplaced ?_
      simp only [hv, SeqRes.bind_ok, htag, halign, htop, if_true, guardAll_ok, guardAll_nil, checkParity_one _ hp, hall, hbad,
        Bool.false_eq_true, if_false, hq]
    · rw [if_neg hq]
      split
      · next hfree =>
        refine done_of_body hready hplaced ?_
        simp only [hv, SeqRes.bind_ok, htag, halign, htop, if_true, guardAll_ok, guardAll_nil, checkParity_one _ hp, hall, hbad,
          Bool.false_eq_true, if_false, hq, hfree]
      · next hfree =>
        refine done_of_body hready hplaced ?_
        simp only [hv, SeqRes.bind_ok, htag, halign, htop, if_true, guardAll_ok, guardAll_nil, checkParity_one _ hp, hall, hbad,
          Bool.false_eq_true, if_false, hq, hfree, beginWait]
  case release =>
    intro core s u d hwait hfree
    change execStepStallRelease core s = _
    simp only [execStepStallRelease, hwait, hfree, if_true]
  case ststat =>
    rintro o s0 s s1 ⟨core, a, b, c⟩ u hready hplaced rfl hwrite
    obtain rfl : core = o.core := hplaced.1
    refine done_of_body_own hready hplaced (fun da db dc _ hb _ => ?_) ?_
    · rw [immVal_of_placed hb]
      cases u <;> rfl
    · have hu : (Place.imm (if u then 1 else 0) == .imm 1) = u := by cases u <;> decide
      dsimp only at hwrite ⊢
      simp only [hu, hwrite, SeqRes.bind_ok]
      cases u <;> rfl
  case clear =>
    intro v
    simp only [clearStat, if_true]
  case mfsr =>
    rintro o s0 s s1 ⟨core, a, b, c⟩ off v tg hready hplaced rfl hoff hread hwrite
    obtain rfl : core = o.core := hplaced.1
    refine done_of_body_own hready hplaced (fun da db dc _ hb _ => ?_) ?_
    · simp [seqOffOk, immVal_of_placed hb, hoff]
    · dsimp only at hwrite ⊢
      simp only [Args.seqOff, Int.toNat_natCast, hread, Option.getD_some, hwrite, SeqRes.bind_ok]
  case mtsr =>
    rintro o s0 s s1 ⟨core, a, b, c⟩ off v tg hready hplaced rfl hoff hc htag hbad hp
    obtain rfl : core = o.core := hplaced.1
    refine done_of_body_own hready hplaced (fun da db dc _ hb _ => ?_) ?_
    · simp [seqOffOk, immVal_of_placed hb, hoff]
    · dsimp only at hc ⊢
      simp only [hc, SeqRes.bind_ok, htag, hbad, Bool.false_eq_true, if_false, checkParity_one _ hp, Args.seqOff, Int.toNat_natCast]

end Sys2Proof.Machine
end

section
/-! One element of the block instructions (R101 to R104). -/

namespace Sys2Proof.Machine

/-- An operand that is not used stands nowhere. -/
theorem placeOpd_unused {core n k : Nat} {c : SeqCore} {bits : BitVec 19} {d : Option Opd} {p : Place}
    (hd : decodeOpd kNone n bits = .ok d) (hp : placeOpd core c k d = .ok p) : p = .none := by
  unfold decodeOpd at hd
  rw [if_pos (by decide)] at hd
  split at hd
  · obtain rfl := Except.ok.inj hd
    exact (Except.ok.inj hp).symm
  · cases hd

theorem guardAll_of_firstTrap {s : State} {cs : List (Except Trap Unit)} {k : SeqRes Flow} (h : firstTrap cs = none) :
    guardAll s cs k = k := by
  simp only [guardAll, h]

/-- The pointers that an instruction checks first are good. -/
theorem firstTrap_ptrs {core w : Nat} {c : SeqCore} {ptrs : List Nat} (h : ∀ g ∈ ptrs, ∃ p, blkPtr core c g w = .ok p)
    (r : List (Except Trap Unit)) :
    firstTrap ((ptrs.map fun g => (blkPtr core c g w).map fun _ => ()) ++ r) = firstTrap r := by
  induction ptrs with
  | nil => rfl
  | cons g gs ih =>
    obtain ⟨p, hp⟩ := h g List.mem_cons_self
    simp only [List.map_cons, hp, List.cons_append]
    exact ih fun x hx => h x (List.mem_cons_of_mem g hx)

/-- A block instruction that passes its checks runs its elements. -/
theorem blkInstr_runs {opc upto ctl : Nat} {kb : Kinds} {ptrs : List Nat} {seek : Bool}
    {iter : Nat → SVal → Nat → State → SeqRes BlkStep} {o : SeqOps} {s0 s s1 : State} {x : Args} {v : SVal}
    (hready : Claims.Ready opc o s0 s) (hplaced : Claims.Placed kImm kb kNone o s x) (hctl : x.a = .imm ctl) (hlt : ctl < 16)
    (htag : ((Claims.blkStart o.core s).core o.core |>.g 11).tag = tagCount)
    (hv : loadOpd o.core 1 x.b (Claims.blkStart o.core s) = .ok s1 v)
    (hsrc : kb.unused = true ∨ ∃ t, srcTag o.core 1 tagInt v = .ok t ∧ tagBad t = false) (hp : Claims.Clean v)
    (hptrs : (s1.core o.core |>.g 11).val = 0 ∨ ∀ g ∈ ptrs, ∃ p, blkPtr o.core (s1.core o.core) g (ctl % 4) = .ok p)
    (hbyte : opc ≠ 0x41 ∨ (s1.core o.core |>.g 11).val = 0 ∨ ∃ sp a, blkPtr o.core (s1.core o.core) 13 (ctl % 4) = .ok (sp, a)
      ∧ storeTagOk (.mem sp (ctl % 4) a) (some (if v.part then tagInt else v.tags.headD tagInt)) = .ok ()) :
    blkInstr opc kb ptrs seek iter upto o s0 = .next (finishSeq o.core o.held o.lost s0
      (blkRun o.core ctl seek (iter ctl v o.core) (if ctl.testBit 2 then upto else 1) s1)) := by
  obtain ⟨core, a, b, c⟩ := x
  obtain rfl : core = o.core := hplaced.1
  dsimp only at hctl hv
  subst hctl
  have hown (da db dc : Option Opd) (ha : placeOpd o.core (s.core o.core) 0 da = .ok (.imm ctl))
      (_ : placeOpd o.core (s.core o.core) 1 db = .ok b) (_ : placeOpd o.core (s.core o.core) 2 dc = .ok c) :
      (fun a _ _ => blkCtlOk a : Option Opd → Option Opd → Option Opd → Option Nat) da db dc = none := by
    simp only [blkCtlOk, immVal_of_placed ha]
    simp [show (ctl : Int) < 16 by omega]
  unfold blkInstr
  rw [issueSeq_of_ready hready, withArgs_of_placed_own hplaced hown]
  have hs : (s.updCore o.core fun c =>
      { c with blk := if c.bankLevel < 2 then lput c.blk c.bankLevel false else c.blk, yielded := false })
        = Claims.blkStart o.core s := rfl
  simp only [hs, htag, ne_eq, not_true, if_false, hv, SeqRes.bind_ok, Args.blkCtl, Int.toNat_natCast, checkParity_one _ hp]
  refine congrArg (fun r => Host.Outcome.next (finishSeq o.core o.held o.lost s0 r)) (guardAll_of_firstTrap ?_)
  by_cases hz : ((s1.core o.core).g 11).val = 0
  · rcases hsrc with hu | ⟨t, ht, hbad⟩
    · simp [hz, hu, firstTrap]
    · simp [hz, ht, hbad, firstTrap]
  · rw [if_neg hz, firstTrap_ptrs (hptrs.resolve_left hz)]
    rcases hsrc with hu | ⟨t, ht, hbad⟩ <;> rcases hbyte.imp_right (·.resolve_left hz) with hopc | ⟨sp, a, hptr, hstore⟩
    · simp [hu, hopc, firstTrap]
    · simp only [hu, hptr, hstore]
      simp [firstTrap]
    · simp [ht, hbad, hopc, firstTrap]
    · simp only [ht, hbad, hptr, hstore]
      simp [firstTrap]

/-- With g11 = 0 no element is made. -/
theorem blkRun_of_zero {core ctl : Nat} {seek : Bool} {iter : State → SeqRes BlkStep} {s : State} (n : Nat)
    (h : (s.core core |>.g 11).val = 0) : blkRun core ctl seek iter n s = .ok (if seek then setG14 core false s else s) .seq := by
  cases n <;> simp only [blkRun, h, if_true]

/-- One element that stops its instruction. -/
theorem blkRun_of_stop {core ctl : Nat} {seek : Bool} {iter : State → SeqRes BlkStep} {s s1 : State}
    (h : (s.core core |>.g 11).val ≠ 0) (hi : iter s = .ok s1 .stop) : blkRun core ctl seek iter 1 s = .ok s1 .seq := by
  simp only [blkRun, h, if_false, hi]

/-- One element of an instruction that goes on: it is over with RPT = 0 or at g11 = 0, and else has yielded. -/
theorem blkRun_of_more {core ctl : Nat} {seek : Bool} {iter : State → SeqRes BlkStep} {s s1 : State}
    (h : (s.core core |>.g 11).val ≠ 0) (hi : iter s = .ok s1 .more) : blkRun core ctl seek iter 1 s =
      if (s1.core core |>.g 11).val = 0 then .ok (if seek then setG14 core false s1 else s1) .seq
      else if ctl.testBit 2 then .ok (s1.updCore core fun c => { c with yielded := true }) .stay else .ok s1 .seq := by
  rw [blkRun, if_neg h, hi]
  dsimp only
  by_cases hr : ctl.testBit 2 = true
  · rw [if_pos hr, blkRun, if_pos hr]
  · rw [if_neg hr, if_neg hr]
    by_cases hz : (s1.core core |>.g 11).val = 0
    · rw [if_pos hz, decide_eq_true hz, Bool.and_true]
    · rw [if_neg hz, decide_eq_false hz, Bool.and_false, if_neg Bool.false_ne_true]

theorem blkOver_eq {o : SeqOps} {s0 s s1 : State} {ctl : Nat} {iter : State → SeqRes BlkStep}
    (h : (s.core o.core |>.g 11).val ≠ 0) (hi : iter s = .ok s1 .more) :
    finishSeq o.core o.held o.lost s0 (blkRun o.core ctl false iter 1 s) = Claims.blkOver o s0 ctl s1 := by
  rw [blkRun_of_more h hi]
  by_cases hz : (s1.core o.core |>.g 11).val = 0
  · rw [if_pos hz, if_neg Bool.false_ne_true, Claims.blkOver, if_neg fun hc => hc.2 hz]
    rfl
  · by_cases hr : ctl.testBit 2 = true
    · rw [if_neg hz, if_pos hr, Claims.blkOver, if_pos ⟨hr, hz⟩]
      rfl
    · rw [if_neg hz, if_neg hr, Claims.blkOver, if_neg fun hc => hr hc.1]
      rfl

theorem blkCompared_eq {o : SeqOps} {s0 s s1 : State} {ctl : Nat} {iter : State → SeqRes BlkStep}
    (h : (s.core o.core |>.g 11).val ≠ 0) (hi : iter s = .ok s1 .more) :
    finishSeq o.core o.held o.lost s0 (blkRun o.core ctl true iter 1 s) = Claims.blkCompared o s0 ctl s1 := by
  rw [Claims.blkCompared]
  by_cases hz : (s1.core o.core |>.g 11).val = 0
  · rw [if_pos hz, blkRun_of_more h hi, if_pos hz]
    rfl
  · rw [if_neg hz, ← blkOver_eq h hi, blkRun_of_more h hi, blkRun_of_more h hi, if_neg hz, if_neg hz]

/-- The value of an operand that is not used. -/
def noVal : SVal := ⟨[], 0, 32, false, 0, none⟩

theorem loadOpd_unused {ka kc : Kinds} {o : SeqOps} {s : State} {x : Args} (h : Claims.Placed ka kNone kc o s x) (z : State) :
    loadOpd o.core 1 x.b z = .ok z noVal := by
  obtain ⟨-, a, b, c, -, hb, -, pb, -, -⟩ := h
  rw [placeOpd_unused hb pb]
  rfl

/-- The fuel of an instruction that makes one element. -/
theorem fuel_one {ctl upto : Nat} (h : ctl.testBit 2 = true → upto = 1) : (if ctl.testBit 2 then upto else 1) = 1 := by
  split
  · exact h ‹_›
  · rfl

/-- A word is written only under a tag that its place takes. -/
theorem storeTagOk_of_storeOpd {core w a v bits : Nat} {sp : Space} {t : Option (BitVec 4)} {wd : Widen} {s z : State}
    (h : storeOpd core (.mem sp w a) t v bits wd s = .ok z ()) : storeTagOk (.mem sp w a) t = .ok () := by
  unfold storeOpd at h
  dsimp only at h
  split at h
  · cases h
  · assumption

/-- Settles O13: each instruction, its checks passed, makes one element. -/
theorem blockElementsComplete : Obligations.BlockElementsComplete := by
  refine ⟨?bmove, ?bfill, ?bcmp, ?bseek, ?zero⟩
  case bmove =>
    intro upto ctl o s0 s s1 s2 x ssp dsp sa da v hready hplaced hctl hlt hupto htag hcnt hsp hdp hread hok hp hwrite
    refine (blkInstr_runs hready hplaced hctl hlt htag (loadOpd_unused hplaced _) (.inl rfl) rfl
      (.inr (by simp [hsp, hdp])) (.inl (by decide))).trans (congrArg _ ?_)
    rw [fuel_one hupto]
    refine blkOver_eq hcnt ?_
    have hkeep : (decide (ssp = .lram) && decide (dsp = .lram) && decide (ctl % 4 ≥ 2))
        = decide (ssp = .lram ∧ dsp = .lram ∧ 2 ≤ ctl % 4) := by simp [Bool.and_assoc]
    simp only [bmoveIter, hsp, hdp, hread, SeqRes.bind_ok, hok, checkParity_one _ hp, hkeep, decide_eq_true_eq, hwrite, atPointer]
  case bfill =>
    intro upto ctl o s0 s s1 s2 x dsp da v t hready hplaced hctl hlt hupto htag hv hsrc hbad hp hcnt hdp hwrite
    have hstore : storeTagOk (.mem dsp (ctl % 4) da) (some (if v.part then tagInt else v.tags.headD tagInt)) = .ok () :=
      storeTagOk_of_storeOpd hwrite
    refine (blkInstr_runs hready hplaced hctl hlt htag hv (.inr ⟨t, hsrc, hbad⟩) hp
      (.inr (by simp [hdp])) (.inr (.inr ⟨dsp, da, hdp, hstore⟩))).trans (congrArg _ ?_)
    rw [fuel_one hupto]
    refine blkOver_eq hcnt ?_
    simp only [bfillIter, hdp, hwrite, atPointer, SeqRes.bind_ok]
  case bcmp =>
    intro upto ctl o s0 s s1 s2 x ssp dsp sa da v w hready hplaced hctl hlt hupto htag hcnt hsp hdp hread hread2 hok hok2 hp hp2
    refine (blkInstr_runs hready hplaced hctl hlt htag (loadOpd_unused hplaced _) (.inl rfl) rfl
      (.inr (by simp [hsp, hdp])) (.inl (by decide))).trans (congrArg _ ?_)
    rw [fuel_one hupto]
    have hiter : bcmpIter ctl noVal o.core (Claims.blkStart o.core s) =
        if elemVal v ≠ elemVal w then .ok (setG14 o.core true s2) .stop else .ok (blkAdvance o.core ctl true true s2) .more := by
      simp only [bcmpIter, hsp, hdp, hread, hread2, SeqRes.bind_ok, hok, hok2, checkParity_two _ hp hp2]
    by_cases hne : elemVal v ≠ elemVal w
    · rw [blkRun_of_stop hcnt (hiter.trans (if_pos hne)), if_pos hne, Claims.seqDone]
    · rw [blkCompared_eq hcnt (hiter.trans (if_neg hne)), if_neg hne]
  case bseek =>
    intro upto ctl o s0 s s1 s2 x ssp sa v w t hready hplaced hctl hlt hupto htag hv hsrc hbad hp hcnt hsp hread hok hp2
    refine (blkInstr_runs hready hplaced hctl hlt htag hv (.inr ⟨t, hsrc, hbad⟩) hp
      (.inr (by simp [hsp])) (.inl (by decide))).trans (congrArg _ ?_)
    rw [fuel_one hupto]
    have hiter : bseekIter ctl v o.core s1 =
        if elemVal w = elemVal v then .ok (setG14 o.core true s2) .stop else .ok (blkAdvance o.core ctl true false s2) .more := by
      simp only [bseekIter, hsp, hread, SeqRes.bind_ok, hok, checkParity_one _ hp2]
    by_cases heq : elemVal w = elemVal v
    · rw [blkRun_of_stop hcnt (hiter.trans (if_pos heq)), if_pos heq, Claims.seqDone]
    · rw [blkCompared_eq hcnt (hiter.trans (if_neg heq)), if_neg heq]
  case zero =>
    intro upto ctl o s0 s x hplaced hctl hlt htag hz
    refine ⟨fun hready => (blkInstr_runs hready hplaced hctl hlt htag (loadOpd_unused hplaced _) (.inl rfl) rfl (.inl hz)
      (.inl (by decide))).trans ?_, fun hready => (blkInstr_runs hready hplaced hctl hlt htag (loadOpd_unused hplaced _) (.inl rfl) rfl
      (.inl hz) (.inl (by decide))).trans ?_⟩
    · rw [blkRun_of_zero _ hz]
      rfl
    · rw [blkRun_of_zero _ hz]
      rfl

end Sys2Proof.Machine
end

section
/-! The short-vector instructions (R75, R96, R137, R138). -/

namespace Sys2Proof.Machine

/-! ### Lanes -/

/-- The instruction of a row of three q registers computes the row's function. -/
def QRowRuns (p : Claims.QRow) : Prop := ∀ o s, exec (p.ins o) s = q3Instr p.opc p.f o s

theorem sarRound_eq (x : Int) (k : Nat) : sarRound x (k + 1) = (x + 2 ^ k) / 2 ^ (k + 1) := by
  simp only [sarRound, Nat.add_one_ne_zero, if_false, Nat.add_sub_cancel, Nat.cast_pow, Nat.cast_ofNat]

theorem qRows_run : ∀ p ∈ Claims.qRows, QRowRuns p := by
  simp only [Claims.qRows, List.forall_mem_cons]
  refine ⟨?_, ?_, ?_, ?_, ?_, ?_, ?_, ?_, ?_, ?_, ?_, ?_, fun _ h => by cases h⟩
  all_goals exact fun _ _ => rfl

theorem laneInstructionsComplete : Claims.LaneInstructionsComplete := by
  refine ⟨fun p hp o s0 s x a b c hready hplaced ha hb hc => ?_, ?_⟩
  · rw [qRows_run p hp]
    refine done_of_body hready hplaced ?_
    simp only [ha, hb, hc, hplaced.1]
  · have hshift (opc w k : Nat) (hi : Int) (o : SeqOps) (s0 s : State) (x : Args) (a b : Nat) (hready : Claims.Ready opc o s0 s)
        (hplaced : Claims.Placed kQ kQ kImm o s x) (hk : 1 ≤ k) (hle : (k : Int) ≤ hi) (ha : x.a = .q a) (hb : x.b = .q b)
        (hc : x.c = .imm k) : shrrInstr opc w hi o s0 = .next (Claims.seqDone o s0
          (s.updCore o.core fun z => z.setQ a (laneOp w (fun _ v _ => (v + 2 ^ (k - 1)) / 2 ^ k) 0 ((s.core o.core).qReg b) 0)) .seq) := by
      refine done_of_body_own hready hplaced (fun da db dc _ _ hdc => ?_) ?_
      · rw [hc] at hdc
        simp [immIn, immVal_of_placed hdc, hle, hk]
      · obtain ⟨k, rfl⟩ : ∃ n, k = n + 1 := ⟨k - 1, by omega⟩
        simp only [ha, hb, hc, hplaced.1, Int.toNat_natCast, sarRound_eq, Nat.add_sub_cancel]
    rintro w k i o s0 s x a b (⟨rfl, hk, rfl, hready⟩ | ⟨rfl, hk, rfl, hready⟩) h1 hplaced ha hb hc
    · exact hshift _ _ _ _ _ _ _ _ _ _ hready hplaced h1 (by omega) ha hb hc
    · exact hshift _ _ _ _ _ _ _ _ _ _ hready hplaced h1 (by omega) ha hb hc

/-! ### Moves of q registers -/

theorem splatInstr_completes {opc w : Nat} {o : SeqOps} {s0 s s1 s2 : State} {x : Args} {v : SVal}
    (hready : Claims.Ready opc o s0 s) (hplaced : Claims.Placed kQ kSrc kNone o s x) (hv : loadOpd o.core 1 x.b s = .ok s1 v)
    (htag : srcUntagged o.core 1 v = .ok ()) (hp : Claims.Clean v)
    (hwrite : storeOpd o.core x.a none (packLanes w (List.replicate (128 / w) v.val)) 128 .free s1 = .ok s2 ()) :
    splatInstr opc w o s0 = .next (Claims.seqDone o s0 s2 .seq) := by
  obtain ⟨core, a, b, c⟩ := x
  obtain rfl : core = o.core := hplaced.1
  refine done_of_body hready hplaced ?_
  dsimp only at hv hwrite ⊢
  simp only [hv, SeqRes.bind_ok, htag, guardAll_ok, guardAll_nil, checkParity_one _ hp, hwrite]

/-- The first element of `n` that is bad, or `n` where none is. -/
theorem firstBad_eq {p : Nat → Bool} {n j : Nat} (hle : j ≤ n) (hgood : ∀ e < j, p e = false) (hbad : j < n → p j = true) :
    ((List.range n).find? p).getD n = j := by
  by_cases hj : j < n
  · have hfind : (List.range n).find? p = some j :=
      List.find?_range_eq_some.mpr ⟨hbad hj, List.mem_range.mpr hj, fun i hi => by simp [hgood i hi]⟩
    rw [hfind, Option.getD_some]
  · obtain rfl : j = n := by omega
    have hfind : (List.range j).find? p = none :=
      List.find?_eq_none.mpr fun e he => by simp [hgood e (List.mem_range.mp he)]
    rw [hfind, Option.getD_none]

/-- QLDFF whose first faulting element is `j` loads the elements before it. -/
theorem qldffBody_ok {core q c addr v j : Nat} {sp : Space} {tags : List (BitVec 4)} {s s1 : State}
    (hread : ffRead core sp addr (min 16 (Claims.ffTop core sp addr - addr)) s = .ok s1 (v, tags, none))
    (hj : 0 < j) (hle : j ≤ 16 / c) (hgood : ∀ e < j, Claims.FfBad core sp addr c tags e = false)
    (hbad : j < 16 / c → Claims.FfBad core sp addr c tags j = true)
    (hraw : core < 16 → tagRaw ∉ tags.take (wordsOf addr (j * c)).length) :
    qldffBody core q c sp addr s = .ok (s1.updCore core fun z =>
      { z.setQ q (setFld (z.qReg q) 0 (8 * c * j) v) with ffcount := BitVec.ofNat 5 j }) .seq := by
  have htop : qldffBody core q c sp addr s = (ffRead core sp addr (min 16 (Claims.ffTop core sp addr - addr)) s).bind
      fun s1 (v, tags, pe) =>
        let j := ((List.range (16 / c)).find? (Claims.FfBad core sp addr c tags)).getD (16 / c)
        guardAll s1 [if j = 0 then
            if min 16 (Claims.ffTop core sp addr - addr) < 16 then .error ⟨causeAddr, 0, 1, BitVec.ofNat 32 addr⟩
            else srcUntagged core 1 ⟨tags, v, 128, false, addr, none⟩
          else if core < 16 && (tags.take (wordsOf addr (j * c)).length).contains tagRaw then
            .error ⟨causePriv, 15, 1, BitVec.ofNat 32 addr⟩
          else .ok ()]
        ((checkParity [⟨[], 0, 128, false, addr, pe⟩] s1).bind fun s2 () =>
          .ok (s2.updCore core fun z =>
            { z.setQ q (setFld (z.qReg q) 0 (8 * c * j) v) with ffcount := BitVec.ofNat 5 j }) .seq) := rfl
  have hused : (decide (core < 16) && (tags.take (wordsOf addr (j * c)).length).contains tagRaw) = false := by
    simpa using hraw
  rw [htop, hread, SeqRes.bind_ok]
  dsimp only
  rw [firstBad_eq hle hgood hbad, if_neg (by omega), hused]
  rfl

theorem vectorMovesComplete : Claims.VectorMovesComplete := by
  refine ⟨?qld, ?qst, ?qmov, ?qsplat, ?qext, ?qldff⟩
  case qld =>
    rintro o s0 s s1 s2 ⟨core, a, b, c⟩ v hready hplaced hv htag hp hwrite
    obtain rfl : core = o.core := hplaced.1
    refine done_of_body hready hplaced ?_
    dsimp only at hv hwrite ⊢
    simp only [hv, SeqRes.bind_ok, htag, guardAll_ok, guardAll_nil, checkParity_one _ hp, hwrite]
  case qst =>
    rintro o s0 s s1 s2 ⟨core, a, b, c⟩ v hready hplaced hv hwrite
    obtain rfl : core = o.core := hplaced.1
    refine done_of_body hready hplaced ?_
    dsimp only at hv hwrite ⊢
    simp only [hv, SeqRes.bind_ok, hwrite]
  case qmov =>
    rintro o s0 s s1 s2 ⟨core, a, b, c⟩ v hready hplaced hv htag hp hwrite
    obtain rfl : core = o.core := hplaced.1
    refine done_of_body hready hplaced ?_
    dsimp only at hv hwrite ⊢
    simp only [hv, SeqRes.bind_ok, htag, guardAll_ok, guardAll_nil, checkParity_one _ hp, hwrite]
  case qsplat =>
    rintro w i o s0 s s1 s2 x v (⟨rfl, rfl, hready⟩ | ⟨rfl, rfl, hready⟩) hplaced hv htag hp hwrite
    · exact splatInstr_completes hready hplaced hv htag hp hwrite
    · exact splatInstr_completes hready hplaced hv htag hp hwrite
  case qext =>
    rintro o s0 s s1 ⟨core, a, b, c⟩ q k hready hplaced rfl rfl hk hwrite
    obtain rfl : core = o.core := hplaced.1
    refine done_of_body_own hready hplaced (fun da db dc _ _ hdc => ?_) ?_
    · simp [immIn, immVal_of_placed hdc, hk]
    · dsimp only at hwrite ⊢
      simp only [loadOpd, SeqRes.bind_ok, Int.toNat_natCast, Nat.shiftRight_eq_div_pow, hwrite]
  case qldff =>
    intro o s0 s s1 q base c addr v j sp disp tags hready ha hb hc hcnt haddr halign hread hj hle hgood hbad hraw
    change execQldff o s0 = _
    rw [execQldff, issueSeq_of_ready hready]
    refine congrArg (fun r => Host.Outcome.next (finishSeq o.core o.held o.lost s0 r)) ?_
    have hc4 : ((c : Int) = 1 || (c : Int) = 2 || (c : Int) = 4 || (c : Int) = 8) = true := by
      simp only [List.mem_cons, List.not_mem_nil, or_false] at hcnt
      rcases hcnt with rfl | rfl | rfl | rfl <;> rfl
    have hal : (decide (sp = .lram) && decide (addr % 4 ≠ 0)) = false := by
      simpa using halign
    simp only [ha, hb, hc, hc4, if_true, haddr, hal, Bool.false_eq_true, if_false, Int.toNat_natCast]
    exact qldffBody_ok hread hj hle hgood hbad hraw

/-- Settles O14. -/
theorem shortVectorsComplete : Obligations.ShortVectorsComplete := ⟨laneInstructionsComplete, vectorMovesComplete⟩

end Sys2Proof.Machine
end

section
/-! Customer instructions (R149 to R157), and the store buffer's HELD (R70, R134). -/

namespace Sys2Proof.Machine

/-- Settles O15: the slot's words are good, so its operations run and its writes are made. -/
theorem customerInstructionsComplete : Obligations.CustomerInstructionsComplete := by
  rintro slot o s0 s s1 s2 a b c h0 h1 n u hslot hcore hready rfl rfl hn hpos hbad0 hbad1 hbad ha hb hc hrun hplace
  change execUop slot o s0 = _
  rw [execUop, if_pos hslot, issueSeq_of_ready hready]
  refine congrArg (fun r => Host.Outcome.next (finishSeq o.core o.held o.lost s0 r)) ?_
  have hwords : ([36 * slot, 36 * slot + 1] ++ (List.range n).map fun k => 36 * slot + 4 + k).any (s.core o.core).dbad = false := by
    simp only [List.any_append, List.any_cons, List.any_nil, List.any_map, hbad0, hbad1, Bool.or_false, Bool.false_or]
    exact List.any_eq_false.mpr fun k hk => by simp [hbad k (List.mem_range.mp hk)]
  simp only [uopBody, ← hn, hwords, Nat.not_le_of_lt hcore, if_false, Bool.false_eq_true, Nat.ne_of_gt hpos, ha, hb, hc,
    hrun, SeqRes.bind_ok, hplace]

/-- A running device whose tile 0 holds a store of one word and shows HELD for an access of its instruction. -/
def drainingState : State :=
  { State.reset with
    clk := { State.reset.clk with gate := 1, safeHold := false }
    sec := { State.reset.sec with resetLow := false, tripped := false }
    tiles := upd State.reset.tiles 0 fun x => { x with
      ts := { x.ts with held := 0x40#7 }
      seq := { x.seq with stbuf := [⟨false, 0, 4, 0, [tagInt], 0⟩] } } }

/-- Performing the store leaves what the instruction's own access shows. -/
theorem held_of_drain {z : State} (h : exec (.storeBufferDrain 0 0) drainingState = .next z) : (z.tile 0).ts.held = 0x40#7 := by
  obtain rfl := Host.Outcome.next.inj h
  decide

/-- Refutes O16: performing a store keeps bit 6 of `held`, which shows the instruction's own waiting access (the store buffer's
waiting has a flag of its own); the statement clears it. -/
theorem not_sequencerEventsComplete : ¬ Obligations.SequencerEventsComplete := by
  unfold Obligations.SequencerEventsComplete
  rintro ⟨-, hdrain, -⟩
  exact absurd (held_of_drain (hdrain 0 0 drainingState (by decide) (by decide))) (by decide)

end Sys2Proof.Machine
end

section
/-! Steps start, are rejected, are scanned, retire and complete (R28 to R37, R112, R113, R259, R315, R327, R328). -/

namespace Sys2Proof.Machine

/-! ### Two updates of one element -/

theorem upd_upd {α : Type} (f g : α → α) : ∀ (l : List α) (n : Nat), upd (upd l n f) n g = upd l n (g ∘ f)
  | [], _ => rfl
  | _ :: _, 0 => rfl
  | x :: r, n + 1 => congrArg (x :: ·) (upd_upd f g r n)

theorem State.updTile_updTile (s : State) (t : Nat) (f g : Tile → Tile) : (s.updTile t f).updTile t g = s.updTile t (g ∘ f) := by
  simp only [State.updTile, upd_upd]

/-- A tile that differs from the reset state exists. -/
theorem State.tile_exists {s : State} {t : Nat} (h : s.tile t ≠ .reset) : t < s.tiles.length := by
  by_contra hlen
  exact h (List.getD_eq_default _ _ (Nat.le_of_not_lt hlen))

theorem State.tile_exists_of_run {s : State} {t : Nat} {u : Bool} {r : StepRun} (h : s.run t u = some r) : t < s.tiles.length :=
  State.tile_exists fun hr => by
    rw [State.run, hr] at h
    cases u <;> cases h

theorem State.tile_exists_of_issue {s : State} {t : Nat} {u : Bool} {i : IssueReg} (h : Claims.issueOf (s.tile t).st u = some i) :
    t < s.tiles.length :=
  State.tile_exists fun hr => by
    rw [hr] at h
    cases u <;> cases h

/-! ### The completion event of a step -/

/-- What an event from 64 to 66 makes of its tile: its latch bit, and one source of its interrupt controller. -/
theorem tile_latchEvent {s : State} {t k : Nat} (ht : t < s.tiles.length) (hq : t ≠ quoinCore) (hk : 64 ≤ k ∧ k ≤ 66) :
    ∃ c, (s.latchEvent t k).tile t
      = { s.tile t with seq := { (s.tile t).seq with evtLatch := setBit (s.tile t).seq.evtLatch k true }, ic := c } := by
  unfold State.latchEvent
  rw [if_neg (by omega), if_pos (by simp [hk])]
  simp only [State.tileSource, State.updTic, State.updCore, if_neg hq, State.updTile_updTile]
  rw [State.tile_updTile_same _ _ _ ht]
  exact ⟨_, rfl⟩

theorem tile_latchEvent_ne {s : State} {t k j : Nat} (hj : j ≠ t) : (s.latchEvent t k).tile j = s.tile j := by
  have hcore : (s.updCore t fun c => { c with evtLatch := setBit c.evtLatch k true }).tile j = s.tile j := by
    unfold State.updCore
    split
    · rfl
    · exact State.tile_updTile_ne _ _ _ _ hj
  unfold State.latchEvent
  dsimp only
  split
  · exact (State.tile_updTile_ne _ _ _ _ hj).trans hcore
  · split
    · exact (State.tile_updTile_ne _ _ _ _ hj).trans hcore
    · exact hcore

/-! ### The report of a step -/

/-- A tile once a step of its has ended: status, slip registers and mirrors of the step, its carried-state bits. -/
def reportTile (u : Bool) (code : Nat) (r : StepRun) (dl : Bool) (e slip now : Nat) (x : Tile) : Tile :=
  { x with
    seq := x.seq.putStatus u code r dl
    st := { x.st.putSlip u e slip dl r.src with
      runN := if u then x.st.runN else none
      runU := if u then none else x.st.runU
      endedN := if u then x.st.endedN else some (now, r.desc)
      endedU := if u then some (now, r.desc) else x.st.endedU
      carried := if code = stOk then setCarried r.desc x.st.carried else x.st.carried } }

theorem completeStep_of_run {s : State} {t code : Nat} {u rejected : Bool} {r : StepRun} (h : s.run t u = some r) :
    completeStep t u code rejected s = (s.updTile t (reportTile u code r (decide (s.copyOf t > dDeadline r.desc))
      (s.cycle - r.start + 1) (if rejected then 0 else s.cycle - r.start + 1 - dBudget r.desc) s.cycle)).latchEvent t
        (if u then 65 else 64) := by
  simp only [completeStep, h]
  cases u <;> rfl

theorem statusWord_code (code : Nat) (r : StepRun) (dl overrun : Bool) : (statusWord code r dl overrun).toNat % 256 = code % 256 := by
  simp only [statusWord, BitVec.toNat_ofNat]
  omega

/-- What a rejected step leaves: no step in progress, its status and number, SLIP 0, its completion event; no more of its tile's
vector engine and tile store, and nothing of the other tiles. -/
structure Rejected (t : Nat) (u : Bool) (code : Nat) (r : StepRun) (s z : State) : Prop where
  run : z.run t u = none
  status : (if u then (z.core t).stepStatU else (z.core t).stepStatN).toNat % 256 = code
  id : (if u then (z.core t).stepIdU else (z.core t).stepIdN) = dId r.desc
  slip : (if u then (z.tile t).st.slipU else (z.tile t).st.slipN) = 0
  event : (z.core t).evtLatch = setBit (s.core t).evtLatch (if u then 65 else 64) true
  issue : Claims.issueOf (z.tile t).st u = Claims.issueOf (s.tile t).st u
  vec : (z.tile t).vec = (s.tile t).vec
  ts : (z.tile t).ts = (s.tile t).ts
  others : ∀ j, j ≠ t → z.tile j = s.tile j

theorem rejected_completeStep {s : State} {t code : Nat} {u : Bool} {r : StepRun} (h : s.run t u = some r) (ht : t < 16)
    (hcode : code < 256) : Rejected t u code r s (completeStep t u code true s) := by
  have hlen := State.tile_exists_of_run h
  have hq : t ≠ quoinCore := Nat.ne_of_lt ht
  rw [completeStep_of_run h, if_pos rfl]
  generalize decide (s.copyOf t > dDeadline r.desc) = dl
  generalize s.cycle - r.start + 1 = e
  have htile : (s.updTile t (reportTile u code r dl e 0 s.cycle)).tile t = reportTile u code r dl e 0 s.cycle (s.tile t) :=
    State.tile_updTile_same _ _ _ hlen
  obtain ⟨c, hz⟩ := tile_latchEvent (s := s.updTile t (reportTile u code r dl e 0 s.cycle)) (t := t) (k := if u then 65 else 64)
    (by rwa [State.updTile, upd_length]) hq (by cases u <;> decide)
  rw [htile] at hz
  have hcore (x : State) : x.core t = (x.tile t).seq := if_neg hq
  have hmod : code % 256 = code := Nat.mod_eq_of_lt hcode
  have hothers (j : Nat) (hj : j ≠ t) : ((s.updTile t (reportTile u code r dl e 0 s.cycle)).latchEvent t (if u then 65 else 64)).tile j
      = s.tile j := (tile_latchEvent_ne hj).trans (State.tile_updTile_ne _ _ _ _ hj)
  generalize (s.updTile t (reportTile u code r dl e 0 s.cycle)).latchEvent t (if u then 65 else 64) = z at hz hothers ⊢
  have hzero : sat32 0 = 0#32 := rfl
  constructor
  case others => exact hothers
  case status => cases u <;> simp [hcore, hz, reportTile, SeqCore.putStatus, statusWord_code, hmod]
  all_goals cases u <;> simp [hzero, State.run, Claims.issueOf, hcore, hz, reportTile, SeqCore.putStatus, StepUnit.putSlip]

/-! ### The start of a step -/

theorem updRun_stepTaken (t : Nat) (u : Bool) (r : StepRun) (g : StepRun → StepRun) (s : State) :
    (Claims.stepTaken t u r s).updRun t u g = Claims.stepTaken t u (g r) s := by
  simp only [Claims.stepTaken, State.updRun, State.updSt, State.updTile_updTile]
  congr 1
  cases u <;> rfl

theorem run_stepTaken {s : State} {t : Nat} {u : Bool} {r : StepRun} (ht : t < s.tiles.length) :
    (Claims.stepTaken t u r s).run t u = some r := by
  have htile : (Claims.stepTaken t u r s).tile t = _ := State.tile_updTile_same _ _ _ ht
  rw [State.run, htile]
  cases u <;> rfl

theorem stepTaken_tileLive (t : Nat) (u : Bool) (r : StepRun) (s : State) (n : Nat) :
    (Claims.stepTaken t u r s).tileLive n = s.tileLive n := rfl

/-- A scan that passes lets the vector program of its step begin. -/
theorem scanEnd_of_pass {s : State} {t due : Nat} {u : Bool} {r : StepRun} (hlive : s.tileLive t = true) (hr : s.run t u = some r)
    (hdue : due ≤ s.cycle) (hscan : r.scan = some (.pass, due)) :
    scanEnd t u s = if r.desc.getLsbD 40 then vecStart t u true (dVecEntry r.desc) (s.updRun t u fun r => { r with scan := none })
      else s.updRun t u fun r => { r with scan := none } := by
  simp only [scanEnd, hr, hscan, hlive, ge_iff_le, hdue, decide_true, Bool.and_self, if_true, scanEffect]
  rfl

/-- A scan that is rejected ends its step with the check's status. -/
theorem scanEnd_of_reject {s : State} {t due code : Nat} {u : Bool} {r : StepRun} (hlive : s.tileLive t = true)
    (hr : s.run t u = some r) (hdue : due ≤ s.cycle) (hscan : r.scan = some (.reject code, due)) :
    scanEnd t u s = completeStep t u code true ((s.updRun t u fun r => { r with scan := none }).updRun t u
      fun r => { r with cold := false }) := by
  simp only [scanEnd, hr, hscan, hlive, ge_iff_le, hdue, decide_true, Bool.and_self, if_true, scanEffect]

/-- A step that may start and fails one of its first four checks is rejected. -/
theorem execStepStart_of_failed {t code : Nat} {u : Bool} {s : State} {i : IssueReg} (h : Claims.MayStart t u s i)
    (hcheck : checkDesc i.desc (s.tile t).st.epoch = some code) :
    exec (.stepStart t u) s = .next (completeStep t u code true (Claims.stepTaken t u (startRun i s.cycle) s)) := by
  obtain ⟨hlive, hissue, hplaced, hheld, hparks, happlies, hchecks⟩ := h
  change execStepStart t u s = _
  have hissue : (if u then (s.tile t).st.issueU else (s.tile t).st.issueN) = some i := hissue
  simp only [execStepStart, hissue, hlive, Nat.not_le_of_lt hplaced, hheld, hparks, happlies, hchecks, Bool.not_true,
    decide_false, Bool.or_self, Bool.false_eq_true, if_false, hcheck]
  rfl

/-- A step that may start and passes them is scanned; one without a list passes at once. -/
theorem execStepStart_of_passed {t n : Nat} {u : Bool} {s : State} {i : IssueReg} {k : Scan} (h : Claims.MayStart t u s i)
    (hcheck : checkDesc i.desc (s.tile t).st.epoch = none)
    (hscan : (if dList i.desc = 0 then (Scan.pass, 0) else scanList s t listFuel (dList i.desc) false 0) = (k, n)) :
    exec (.stepStart t u) s = .next (scanEnd t u
      (Claims.stepTaken t u { Claims.newRun t i s with scan := some (k, scanDue k s.cycle n) } s)) := by
  obtain ⟨hlive, hissue, hplaced, hheld, hparks, happlies, hchecks⟩ := h
  change execStepStart t u s = _
  have hissue : (if u then (s.tile t).st.issueU else (s.tile t).st.issueN) = some i := hissue
  simp only [execStepStart, hissue, hlive, Nat.not_le_of_lt hplaced, hheld, hparks, happlies, hchecks, Bool.not_true,
    decide_false, Bool.or_self, Bool.false_eq_true, if_false, hcheck, hscan]
  exact congrArg (fun z => Host.Outcome.next (scanEnd t u z)) (updRun_stepTaken t u (startRun i s.cycle) _ s)

theorem stepStartCompletes : Claims.StepStartCompletes := by
  intro t u s i h hcheck
  have hlen : t < s.tiles.length := State.tile_exists_of_issue h.2.1
  refine ⟨fun hlist => ?_, fun n hlist hpos hscan => ?_⟩
  · rw [execStepStart_of_passed (k := .pass) (n := 0) h hcheck (if_pos hlist)]
    rw [scanEnd_of_pass (due := scanDue .pass s.cycle 0) ((stepTaken_tileLive ..).trans h.1) (run_stepTaken hlen) (Nat.le_refl _) rfl, updRun_stepTaken]
    rfl
  · rw [execStepStart_of_passed h hcheck ((if_neg hlist).trans hscan), scanEnd_of_not_due]
    · rfl
    · intro r k due hr hk
      rw [run_stepTaken hlen] at hr
      cases hr
      cases hk
      exact Nat.lt_add_of_pos_right hpos

/-- The first check that fails, by R33's order. -/
theorem checkDesc_eq_some {d : BitVec 1024} {e : BitVec 8} {code : Nat}
    (h : (checkFields d = false ∨ checkBounds d = false) ∧ code = 1
      ∨ (checkFields d = true ∧ checkBounds d = true ∧ checkAlias d = false) ∧ code = 2
      ∨ (checkFields d = true ∧ checkBounds d = true ∧ checkAlias d = true ∧ 128 ≤ (d.extractLsb' 32 8 - e).toNat) ∧ code = 3) :
    checkDesc d e = some code := by
  unfold checkDesc
  rcases h with ⟨hf | hb, rfl⟩ | ⟨⟨hf, hb, ha⟩, rfl⟩ | ⟨⟨hf, hb, ha, he⟩, rfl⟩
  · simp [hf, stRange]
  · simp [hb, stRange]
  · simp [hf, hb, ha, stAlias]
  · have he : epochAge d e ≥ 128 := he
    simp [hf, hb, ha, he, stStale]

theorem stepRejection : Claims.StepRejection := by
  intro t u s i code h16 h hcode
  have hlen : t < s.tiles.length := State.tile_exists_of_issue h.2.1
  refine ⟨_, execStepStart_of_failed h (checkDesc_eq_some hcode), ?_⟩
  have hr := rejected_completeStep (run_stepTaken (u := u) (r := startRun i s.cycle) hlen) (h16 ▸ hlen) (show code < 256 by omega)
  have htile : (Claims.stepTaken t u (startRun i s.cycle) s).tile t = _ := State.tile_updTile_same _ _ _ hlen
  have hcore : (Claims.stepTaken t u (startRun i s.cycle) s).core t = s.core t := State.core_updSt ..
  refine ⟨hr.issue.trans ?_, hr.run, hr.status, hr.id, hr.slip, hr.event.trans (by rw [hcore]), hr.vec.trans (by rw [htile]),
    hr.ts.trans (by rw [htile]), fun j hj => (hr.others j hj).trans (State.tile_updTile_ne _ _ _ _ hj)⟩
  rw [htile]
  cases u <;> rfl

theorem State.run_updRun {s : State} {t : Nat} {u : Bool} {r : StepRun} {g : StepRun → StepRun} (h : s.run t u = some r) :
    (s.updRun t u g).run t u = some (g r) := by
  have htile : (s.updRun t u g).tile t = _ := State.tile_updTile_same _ _ _ (State.tile_exists_of_run h)
  rw [State.run, htile]
  cases u
  · exact congrArg (Option.map g) h
  · exact congrArg (Option.map g) h

theorem State.lt_of_tileLive {s : State} {t : Nat} (h : s.tileLive t = true) : t < 16 := by
  simp only [State.tileLive, Bool.and_eq_true, decide_eq_true_eq] at h
  exact h.1.1.2

theorem scanEnds : Claims.ScanEnds := by
  intro t u s r due hlive hr hdue
  refine ⟨fun hscan => scanEnd_of_pass hlive hr hdue hscan, fun code hscan hcode => ?_⟩
  rw [scanEnd_of_reject hlive hr hdue hscan]
  have hz := rejected_completeStep (State.run_updRun (g := fun r => { r with cold := false })
    (State.run_updRun (g := fun r => { r with scan := none }) hr)) (State.lt_of_tileLive hlive) (show code < 256 by omega)
  exact ⟨hz.run, hz.status, hz.slip⟩

/-- Settles O18. -/
theorem stepsStartOrAreRejected : Obligations.StepsStartOrAreRejected := ⟨stepStartCompletes, stepRejection, scanEnds⟩

/-! ### The end of a step -/

theorem completeStep_eq_reported {s : State} {t code : Nat} {u : Bool} {r : StepRun} (h : s.run t u = some r) :
    completeStep t u code false s = Claims.reported t u r code s := by
  rw [completeStep_of_run h]
  rfl

theorem stepRetireAndComplete : Claims.StepRetireAndComplete := by
  refine ⟨fun t u s r hlive hr hfinal hdone hm => ?_, fun t u s r m hlive hr hfinal hdone hm => ⟨_, ?_, rfl⟩,
    fun t u s r code hlive hr hfinal hm => ?_, fun t u s r code m hlive hr hfinal hm hon hlag => ?_⟩
  · change execStepRetire t u s = _
    simp only [execStepRetire, hr, hlive, hfinal, hdone, hm, Bool.not_true, Bool.false_eq_true, if_false, Option.isSome_none]
    rfl
  · change execStepRetire t u s = _
    simp only [execStepRetire, hr, hlive, hfinal, hdone, hm, Bool.not_true, Bool.false_eq_true, if_false, Option.isSome_none]
    rfl
  · change execStepComplete t u s = _
    simp only [execStepComplete, hr, hfinal, hlive, hm, Bool.not_true, Bool.false_eq_true, if_false, completeStep_eq_reported hr]
  · change execStepComplete t u s = _
    have hwait : mirrorDone s m = false := by simp only [mirrorDone, hon, Nat.not_le_of_lt hlag, decide_false, Bool.and_false,
      Bool.not_true, Bool.or_self]
    simp only [execStepComplete, hr, hfinal, hlive, hm, hwait, Bool.not_true, Bool.false_eq_true, if_false]

theorem deadlineCompletes : Claims.DeadlineCompletes := by
  refine ⟨fun t u s r hlive hr hset hpast => ?_, fun t u s i hlive hi hset hpast => ?_, fun t u s r hr hset => ?_⟩
  · change execDeadlinePass t u false s = _
    simp only [execDeadlinePass, hlive, hr, hset, hpast, Bool.not_true, Bool.not_false, Bool.false_eq_true, if_false, decide_true,
      Bool.and_self, if_true, deadlineEvent]
  · change execDeadlinePass t u true s = _
    have hi : (if u then (s.tile t).st.issueU else (s.tile t).st.issueN) = some i := hi
    simp only [execDeadlinePass, hlive, hi, hset, hpast, Bool.not_true, Bool.not_false, Bool.false_eq_true, if_false, decide_true,
      Bool.and_self, if_true, deadlineEvent]
  · change execDeadlinePass t u false s = _
    simp only [execDeadlinePass, hr, hset, Bool.not_true, Bool.false_and, Bool.false_eq_true, if_false, ite_self]

/-- Settles O19. -/
theorem stepsEnd : Obligations.StepsEnd := ⟨stepRetireAndComplete, deadlineCompletes⟩

end Sys2Proof.Machine
end

section
/-! List entries and commands at issue (R31, R51, R53, R55, R237). -/

namespace Sys2Proof.Machine

theorem eType_eq (e : BitVec 512) : eType e = e.toNat % 256 := by simp [eType, fld]

/-- The list's next entry is there, and its step takes it. -/
theorem nextEntry_eq_some {s : State} {t : Nat} {u : Bool} {r : StepRun} {e : ListEntry} (h : nextEntry s t u = some (r, e)) :
    s.run t u = some r ∧ s.tileLive t = true ∧ r.listDone = false ∧ r.final = none ∧ r.scan = none ∧ invalWaits s t u = false
      ∧ listEntry s t r.listAt = some e := by
  unfold nextEntry at h
  split at h
  · next r' hr =>
    split at h
    · next hc =>
      simp only [Bool.and_eq_true, Bool.not_eq_true', Option.isNone_iff_eq_none] at hc
      obtain ⟨⟨⟨⟨hl, hd⟩, hf⟩, hs⟩, hi⟩ := hc
      obtain ⟨e', he, heq⟩ := Option.map_eq_some_iff.mp h
      cases heq
      exact ⟨hr, hl, hd, hf, hs, hi, he⟩
    · cases h
  · cases h

/-- Settles O20. -/
theorem listAndIssueComplete : Obligations.ListAndIssueComplete := by
  refine ⟨fun t u s r e h hbad hty => ?_, fun t u s r e h hbad hlo hhi heng => ?_, fun t e s c hlive hat hmay hlower => ?_,
    fun t e s c hlive hat hmay => ?_⟩
  · obtain ⟨hr, hl, hd, hf, hs, hi, he⟩ := nextEntry_eq_some h
    change execListEntryPass t u s = _
    simp only [execListEntryPass, hr, hl, hd, hf, hs, hi, he, hbad, eType_eq, hty, Option.isSome_none, Bool.not_true, Bool.or_self,
      Bool.false_eq_true, if_false, if_true]
  · obtain ⟨hr, hl, hd, hf, hs, hi, he⟩ := nextEntry_eq_some h
    have heng : dEng r.desc (engOf e.raw) = true := heng
    have h0 : ¬ e.raw.toNat % 256 = 0 := by omega
    have hB : ¬ e.raw.toNat % 256 ≥ 0x0B := by omega
    have h7 : ¬ e.raw.toNat % 256 ≥ 7 := by omega
    change execListEntryPass t u s = _
    simp only [execListEntryPass, hr, hl, hd, hf, hs, hi, he, hbad, eType_eq, h0, hB, h7, heng, Option.isSome_none, Bool.not_true,
      Bool.or_self, Bool.false_eq_true, if_false]
    rfl
  · change execEngineCmdIssue t e s = _
    simp only [execEngineCmdIssue, hlive, if_true, tryIssue, hat, hmay, hlower, Bool.and_self, setHeld]
  · change execEngineCmdIssue t e s = _
    simp only [execEngineCmdIssue, hlive, if_true, tryIssue, hat, hmay, Bool.false_and, Bool.false_eq_true, if_false, setHeld]

end Sys2Proof.Machine
end

section
/-! Host accesses of tile store and local RAM, bank power, parity injection (R46, R60, R64, R65, R68, R70, R116, R117). -/

namespace Sys2Proof.Machine

/-! ### Accesses of the host -/

theorem barOpen_iff (s : State) : s.barOpen = true ↔ s.host.memSpace = true ∧ s.host.width ≠ 0 := by
  simp [State.barOpen]

/-- A write of the host with open BARs, whose data is not poisoned, is let through. -/
theorem hostWrite_of_open {s : State} (h : s.barOpen = true) (f : State → State) : hostWrite false f s = f s := by
  obtain ⟨hm, hw⟩ := (barOpen_iff s).mp h
  simp only [hostWrite, if_neg hw, hm, Bool.not_true, Bool.false_eq_true, if_false]

/-- A poisoned write is discarded and reported. -/
theorem hostWrite_of_poisoned {s : State} (h : s.barOpen = true) (f : State → State) : hostWrite true f s = s.toHost (.aer 1) := by
  obtain ⟨hm, hw⟩ := (barOpen_iff s).mp h
  simp only [hostWrite, if_neg hw, hm, Bool.not_true, Bool.false_eq_true, if_false, if_true]

/-- A read of the host that is let through answers what it reads. -/
theorem hostRead_of_open {s : State} {b : Blk} (h : s.barOpen = true) (hlife : s.sec.life = .chrysalis ∨ s.sec.life = .imago)
    (hf : s.fencedBlk b = false) (hg : s.gated b = false) (larva : Bool) (n : Nat) (f : State → List (BitVec 8) × Bool × State) :
    hostRead b larva n f s = (f s).2.2.toHost (.completion (f s).1 (f s).2.1 false) := by
  obtain ⟨hm, hw⟩ := (barOpen_iff s).mp h
  have hup : (decide (s.sec.life = .egg) || decide (s.sec.life = .larva) && !larva) = false := by
    rcases hlife with hl | hl <;> simp [hl]
  simp only [hostRead, if_neg hw, hm, hup, hf, hg, Bool.not_true, Bool.false_eq_true, if_false]

/-- A write of the host that reaches its register. -/
theorem hostRegWrite_of_writable {b : Blk} {p : HostPerm} {s : State} (h : Claims.Writable .host b p s) (f : State → State) :
    hostWrite false (regWrite .host b p f) s = f s.linkUse :=
  (hostWrite_of_open h.1 _).trans (regWrite_of_writable h f)

theorem hostTileAccessComplete : Claims.HostTileAccessComplete := by
  refine ⟨fun t a lost bs s ht ha h => ?_, fun t a n lost s ht ha hopen hlife hf hg => ?_, fun t a bs s ht h => ?_,
    fun t a n tags s ht ha hopen hlife hf hg => ?_⟩
  · have hc : (decide (t < 16) && decide (a + bs.length ≤ 0x400000)) = true := by simp [ht, ha]
    refine ⟨?_, ?_, fun bad => ?_⟩
    · exact congrArg _ ((if_pos hc).trans (hostRegWrite_of_writable h _))
    · exact congrArg _ ((if_pos hc).trans (hostRegWrite_of_writable h _))
    · exact congrArg _ ((if_pos hc).trans (hostWrite_of_poisoned h.1 _))
  · have hc : (decide (t < 16) && decide (a + n ≤ 0x400000)) = true := by simp [ht, ha]
    refine ⟨⟨_, _, _, rfl, ?_⟩, ?_⟩
    · exact congrArg _ ((if_pos hc).trans (hostRead_of_open hopen hlife hf hg ..))
    · exact congrArg _ ((if_pos hc).trans (hostRead_of_open hopen hlife hf hg ..))
  · have hc (view : Bool) (hv : a + bs.length ≤ lramViewSize view) : (decide (t < 16) && decide (a + bs.length ≤ lramViewSize view)) = true := by
      simp [ht, hv]
    refine ⟨fun ha => ?_, fun ha => ?_, fun view ha => ⟨fun bad => ?_, ?_⟩⟩
    · exact congrArg _ ((if_pos (hc false ha)).trans (hostRegWrite_of_writable h _))
    · exact congrArg _ ((if_pos (hc true ha)).trans (hostRegWrite_of_writable h _))
    · have hv : a + bs.length ≤ lramViewSize view := by cases view <;> simp [lramViewSize] <;> omega
      exact congrArg _ ((if_pos (hc view hv)).trans (hostWrite_of_poisoned h.1 _))
    · have hv : a + bs.length ≤ lramViewSize view := by cases view <;> simp [lramViewSize] <;> omega
      exact congrArg _ ((if_pos (hc view hv)).trans (hostRegWrite_of_writable h _))
  · have hc : (decide (t < 16) && decide (a + n ≤ lramViewSize tags)) = true := by
      simp only [lramViewSize, ht, ha, decide_true, Bool.and_self]
    exact ⟨congrArg _ ((if_pos hc).trans (hostRead_of_open hopen hlife hf hg ..)),
      congrArg _ ((if_pos hc).trans (hostRead_of_open hopen hlife hf hg ..))⟩

/-- What a request bit makes of a bank (R64, R65). -/
theorem BankState.request_eq (x : BankState) (on : Bool) : x.request on =
    if x = .on ∧ on = false then .draining else if x = .draining ∧ on = true then .on else if x = .off ∧ on = true then .waking else x := by
  cases x <;> cases on <;> rfl

theorem came_time (who : Who) (s : State) : (Claims.came who s).te.time = s.te.time := by cases who <;> rfl

theorem bankPowerComplete : Claims.BankPowerComplete := by
  refine ⟨fun who t v s ht h => ?_, fun t b s ht hg hb htime => ?_, fun t b s hlive hb hbusy => ?_, fun who t v s ht h => ?_⟩
  · refine regWrite_next_of ht h _ ?_
    rw [bankReqWrite, came_time]
    refine congrArg (State.updTs _ t) (funext fun ts => ?_)
    simp only [BankState.request_eq, Bool.and_eq_true, decide_eq_true_eq, bit]
  · change execBankWakeDone t b s = _
    simp only [execBankWakeDone, ht, hg, hb, ge_iff_le, htime, decide_true, Bool.not_false, Bool.and_self, if_true]
    rfl
  · change execBankDrainDone t b s = _
    simp only [execBankDrainDone, hlive, hb, hbusy, decide_true, Bool.not_false, Bool.and_self, if_true]
  · refine regWrite_next_of ht h _ ?_
    exact congrArg (State.updTs _ t) (funext fun ts => by simp only [setFld, Nat.mod_mod])

/-- Settles O21. -/
theorem tileStoreCommandsComplete : Obligations.TileStoreCommandsComplete := ⟨hostTileAccessComplete, bankPowerComplete⟩

end Sys2Proof.Machine
end

section
/-! The vector engine: bundles, results that land, the bank switch, VPRAM (R164 to R195). -/

namespace Sys2Proof.Machine

/-! ### What an update of one unit leaves of a tile -/

section
variable {α : Type} (P : Tile → α) (s : State) (t n : Nat)

theorem State.proj_updTs (hP : ∀ x y, P { x with ts := y } = P x) (f : TileStore → TileStore) :
    P ((s.updTs t f).tile n) = P (s.tile n) :=
  State.tile_updTile_proj P (f := fun x => { x with ts := f x.ts }) (fun _ => hP ..) n

theorem State.proj_updVec (hP : ∀ x y, P { x with vec := y } = P x) (f : VecEngine → VecEngine) :
    P ((s.updVec t f).tile n) = P (s.tile n) :=
  State.tile_updTile_proj P (f := fun x => { x with vec := f x.vec }) (fun _ => hP ..) n

theorem State.proj_updArr (hP : ∀ x y, P { x with arr := y } = P x) (f : ArrayEng → ArrayEng) :
    P ((s.updArr t f).tile n) = P (s.tile n) :=
  State.tile_updTile_proj P (f := fun x => { x with arr := f x.arr }) (fun _ => hP ..) n

theorem State.proj_updSce (hP : ∀ x y, P { x with sce := y } = P x) (f : SceEng → SceEng) :
    P ((s.updSce t f).tile n) = P (s.tile n) :=
  State.tile_updTile_proj P (f := fun x => { x with sce := f x.sce }) (fun _ => hP ..) n

theorem State.proj_updDrn (hP : ∀ x y, P { x with drn := y } = P x) (f : DrainEng → DrainEng) :
    P ((s.updDrn t f).tile n) = P (s.tile n) :=
  State.tile_updTile_proj P (f := fun x => { x with drn := f x.drn }) (fun _ => hP ..) n

theorem State.proj_updSt (hP : ∀ x y, P { x with st := y } = P x) (f : StepUnit → StepUnit) :
    P ((s.updSt t f).tile n) = P (s.tile n) :=
  State.tile_updTile_proj P (f := fun x => { x with st := f x.st }) (fun _ => hP ..) n

theorem State.proj_updTic (hP : ∀ x y, P { x with ic := y } = P x) (f : TileIc → TileIc) :
    P ((s.updTic t f).tile n) = P (s.tile n) :=
  State.tile_updTile_proj P (f := fun x => { x with ic := f x.ic }) (fun _ => hP ..) n

theorem State.proj_updRun (hP : ∀ x y, P { x with st := y } = P x) (u : Bool) (g : StepRun → StepRun) :
    P ((s.updRun t u g).tile n) = P (s.tile n) := State.proj_updSt P s t n hP _

end

/-! ### What the parts of a bundle leave alone -/

/-- A bank keeps its pointers, its program and its ranges. -/
structure BankKept (b c : VecBank) : Prop where
  p : c.p = b.p
  k : c.k = b.k
  loops : c.loops = b.loops
  pc : c.pc = b.pc
  run : c.run = b.run
  ended : c.ended = b.ended
  ranges : c.ranges = b.ranges
  lfsr : c.lfsr = b.lfsr

/-- An engine keeps both banks, its count of cycles and bundles, and its program memory. -/
structure VecKept (v w : VecEngine) : Prop where
  bk : ∀ u, BankKept (v.bk u) (w.bk u)
  cycle : w.cycle = v.cycle
  seq : w.seq = v.seq
  vpram : w.vpram = v.vpram

/-- A tile keeps the contents and the scoreboard of its store, its accumulators, its carried-state bits and its engine's program;
its counters, results and interrupts may change. -/
structure Quiet (x y : Tile) : Prop where
  vec : VecKept x.vec y.vec
  bytes : y.ts.bytes = x.ts.bytes
  badParity : y.ts.badParity = x.ts.badParity
  bankState : y.ts.bankState = x.ts.bankState
  sb : y.ts.sb = x.ts.sb
  acc : y.arr.acc = x.arr.acc
  carried : y.st.carried = x.st.carried

/-- Nothing but tile `t` changes that a bundle's result is read from. -/
structure Elsewhere (t : Nat) (s z : State) : Prop where
  length : z.tiles.length = s.tiles.length
  others : ∀ j, j ≠ t → z.tile j = s.tile j
  ddr : z.ddr = s.ddr
  dma : z.dma = s.dma

theorem BankKept.refl (b : VecBank) : BankKept b b := ⟨rfl, rfl, rfl, rfl, rfl, rfl, rfl, rfl⟩

theorem BankKept.trans {a b c : VecBank} (h1 : BankKept a b) (h2 : BankKept b c) : BankKept a c :=
  ⟨h2.p.trans h1.p, h2.k.trans h1.k, h2.loops.trans h1.loops, h2.pc.trans h1.pc, h2.run.trans h1.run, h2.ended.trans h1.ended,
    h2.ranges.trans h1.ranges, h2.lfsr.trans h1.lfsr⟩

theorem VecKept.refl (v : VecEngine) : VecKept v v := ⟨fun _ => .refl _, rfl, rfl, rfl⟩

theorem VecKept.trans {a b c : VecEngine} (h1 : VecKept a b) (h2 : VecKept b c) : VecKept a c :=
  ⟨fun u => (h1.bk u).trans (h2.bk u), h2.cycle.trans h1.cycle, h2.seq.trans h1.seq, h2.vpram.trans h1.vpram⟩

theorem VecKept.updBk {v w : VecEngine} {u : Bool} {f : VecBank → VecBank} (h : VecKept v w) (hf : ∀ b, BankKept b (f b)) :
    VecKept v (w.updBk u f) :=
  h.trans ⟨fun u' => by cases u <;> cases u' <;> first | exact hf _ | exact .refl _, by cases u <;> rfl, by cases u <;> rfl,
    by cases u <;> rfl⟩

theorem Quiet.refl (x : Tile) : Quiet x x := ⟨.refl _, rfl, rfl, rfl, rfl, rfl, rfl⟩

theorem Quiet.trans {x y z : Tile} (h1 : Quiet x y) (h2 : Quiet y z) : Quiet x z :=
  ⟨h1.vec.trans h2.vec, h2.bytes.trans h1.bytes, h2.badParity.trans h1.badParity, h2.bankState.trans h1.bankState, h2.sb.trans h1.sb,
    h2.acc.trans h1.acc, h2.carried.trans h1.carried⟩

theorem Elsewhere.refl (t : Nat) (s : State) : Elsewhere t s s := ⟨rfl, fun _ _ => rfl, rfl, rfl⟩

theorem Elsewhere.trans {t : Nat} {a b c : State} (h1 : Elsewhere t a b) (h2 : Elsewhere t b c) : Elsewhere t a c :=
  ⟨h2.length.trans h1.length, fun j hj => (h2.others j hj).trans (h1.others j hj), h2.ddr.trans h1.ddr, h2.dma.trans h1.dma⟩

theorem Elsewhere.updTile (t : Nat) (f : Tile → Tile) (s : State) : Elsewhere t s (s.updTile t f) :=
  ⟨upd_length .., fun _ hj => State.tile_updTile_ne _ _ _ _ hj, rfl, rfl⟩

/-- A part of a bundle that changes its tile quietly, and nothing elsewhere. -/
structure QuietStep (t : Nat) (s z : State) : Prop where
  elsewhere : Elsewhere t s z
  quiet : Quiet (s.tile t) (z.tile t)

theorem QuietStep.refl (t : Nat) (s : State) : QuietStep t s s := ⟨.refl t s, .refl _⟩

theorem QuietStep.trans {t : Nat} {a b c : State} (h1 : QuietStep t a b) (h2 : QuietStep t b c) : QuietStep t a c :=
  ⟨h1.elsewhere.trans h2.elsewhere, h1.quiet.trans h2.quiet⟩

theorem QuietStep.updTile {t : Nat} {s z : State} {f : Tile → Tile} (h : QuietStep t s z) (hf : ∀ x, Quiet x (f x)) :
    QuietStep t s (z.updTile t f) := h.trans ⟨.updTile t f z, by
  by_cases ht : t < z.tiles.length
  · rw [State.tile_updTile_same _ _ _ ht]
    exact hf _
  · have hself : (z.updTile t f).tile t = z.tile t := by simp [State.tile, State.updTile, ht]
    rw [hself]
    exact .refl _⟩

theorem QuietStep.updVec {t : Nat} {s z : State} {f : VecEngine → VecEngine} (h : QuietStep t s z) (hf : ∀ v, VecKept v (f v)) :
    QuietStep t s (z.updVec t f) := h.updTile fun x => ⟨hf x.vec, rfl, rfl, rfl, rfl, rfl, rfl⟩

theorem QuietStep.tileSource {t k : Nat} {s z : State} (h : QuietStep t s z) : QuietStep t s (z.tileSource t k) :=
  h.updTile fun _ => ⟨.refl _, rfl, rfl, rfl, rfl, rfl, rfl⟩

/-- An update of flags, errors, results and data registers keeps an engine. -/
theorem VecKept.of_banks {v w : VecEngine} (hN : w.bankN = v.bankN) (hU : w.bankU = v.bankU) (hc : w.cycle = v.cycle)
    (hs : w.seq = v.seq) (hm : w.vpram = v.vpram) : VecKept v w :=
  ⟨fun u => by cases u <;> simp only [VecEngine.bk, hN, hU] <;> exact .refl _, hc, hs, hm⟩

theorem QuietStep.vecErr {t bundle slot cause : Nat} {s z : State} (h : QuietStep t s z) :
    QuietStep t s (vecErr t bundle slot cause z) := by
  unfold Machine.vecErr
  dsimp only
  split
  · exact .updVec h fun _ => .of_banks rfl rfl rfl rfl rfl
  · refine .tileSource (.updVec h fun _ => ?_)
    exact .of_banks rfl rfl rfl rfl rfl

theorem VecKept.land (v : VecEngine) (r : VecResult) : VecKept v (v.land r) := by
  have hA (u : Bool) (i : Nat) (x : BitVec 2304) : VecKept v (v.setA u i x) := by
    unfold VecEngine.setA
    split
    · exact .of_banks rfl rfl rfl rfl rfl
    · exact (VecKept.refl v).updBk fun _ => ⟨rfl, rfl, rfl, rfl, rfl, rfl, rfl, rfl⟩
  have hV (u : Bool) (i : Nat) (x : BitVec 1024) : VecKept v (v.setV u i x) := by
    unfold VecEngine.setV
    split
    · exact .of_banks rfl rfl rfl rfl rfl
    · exact (VecKept.refl v).updBk fun _ => ⟨rfl, rfl, rfl, rfl, rfl, rfl, rfl, rfl⟩
  unfold VecEngine.land
  split
  · exact (hA ..).updBk fun _ => ⟨rfl, rfl, rfl, rfl, rfl, rfl, rfl, rfl⟩
  · exact hV ..

theorem QuietStep.draw {t w : Nat} {s z : State} (h : QuietStep t s z) : QuietStep t s (z.draw w).2 :=
  h.trans ⟨⟨rfl, fun _ _ => rfl, rfl, rfl⟩, .refl _⟩

theorem QuietStep.landOne {t : Nat} {due : List VecResult} {s z : State} {r : VecResult} (h : QuietStep t s z) :
    QuietStep t s (landOne t due z r) := by
  unfold Machine.landOne
  extract_lets rivals s1
  have h1 : QuietStep t s s1 := by
    unfold s1
    split
    · exact h
    · exact .vecErr (h.updVec fun _ => .of_banks rfl rfl rfl rfl rfl)
  split
  · exact h.updVec fun v => .land v r
  · split
    · exact h1.updVec fun v => .land v r
    · exact .updVec (.draw (w := 2304) h1) fun v => .land v _

theorem QuietStep.landDue {t : Nat} {s z : State} (h : QuietStep t s z) : QuietStep t s (landDue t z) :=
  foldl_keeps (QuietStep t s) _ (fun _ _ hy => hy.landOne) _ _ (h.updVec fun _ => .of_banks rfl rfl rfl rfl rfl)

theorem QuietStep.pushRes {t bundle lat n : Nat} {u : Bool} {s z : State} {r : VRes} (h : QuietStep t s z) :
    QuietStep t s (pushRes t u bundle lat n z r) := by
  unfold Machine.pushRes
  generalize (if u && r.shared then r.mask else r.free) = free
  dsimp only
  have hfree : QuietStep t s (if free = 0 then ((0 : BitVec 2304), z) else z.draw 2304).2 := by
    split
    · exact h
    · exact .draw h
  exact .updVec hfree fun _ => .of_banks rfl rfl rfl rfl rfl

theorem QuietStep.pushOut {t bundle : Nat} {u : Bool} {s z : State} {o : Nat × VOut} (h : QuietStep t s z) :
    QuietStep t s (pushOut t u bundle z o) :=
  foldl_keeps (QuietStep t s) _ (fun _ _ hy => hy.pushRes) _ _ (h.updVec fun _ => .of_banks rfl rfl rfl rfl rfl)

theorem QuietStep.vecIllegal {t bundle slot : Nat} {s z : State} (h : QuietStep t s z) : QuietStep t s (vecIllegal t bundle slot z) :=
  .vecErr (h.updVec fun _ => .of_banks rfl rfl rfl rfl rfl)

/-- A read of a course without a parity error. -/
theorem QuietStep.portRead {t bundle c dst : Nat} {u : Bool} {s z : State} (h : QuietStep t s z)
    (hbad : ((z.tile t).ts.readCourse c).bad = []) :
    QuietStep t s (portRead t u bundle c dst z).1 ∧ (portRead t u bundle c dst z).2 = false := by
  refine ⟨.pushRes ?_, by simp [Machine.portRead, hbad]⟩
  have hcount (ts : TileStore) (b : Bool) : (ts.countOff b).bytes = ts.bytes ∧ (ts.countOff b).badParity = ts.badParity
      ∧ (ts.countOff b).bankState = ts.bankState ∧ (ts.countOff b).sb = ts.sb := by
    unfold TileStore.countOff
    split <;> exact ⟨rfl, rfl, rfl, rfl⟩
  have hts (f : TileStore → TileStore) (y : State) (hy : QuietStep t s y) (hf : ∀ ts, (f ts).bytes = ts.bytes
      ∧ (f ts).badParity = ts.badParity ∧ (f ts).bankState = ts.bankState ∧ (f ts).sb = ts.sb) : QuietStep t s (y.updTs t f) :=
    hy.updTile fun x => by
      obtain ⟨h1, h2, h3, h4⟩ := hf x.ts
      exact ⟨.refl _, h1, h2, h3, h4, rfl, rfl⟩
  unfold State.tsPerr
  rw [hbad]
  have h2 := hts (fun ts => ts.notePerr c [] 0) _ (hts _ z h fun ts => hcount ts ((z.tile t).ts.readCourse c).off)
    fun _ => ⟨rfl, rfl, rfl, rfl⟩
  dsimp only
  split
  · exact .tileSource h2
  · exact h2

theorem QuietStep.setHeld {t e : Nat} {u b : Bool} {s z : State} (h : QuietStep t s z) : QuietStep t s (setHeld t e u b z) :=
  h.updTile fun x => by cases u <;> exact ⟨.refl _, rfl, rfl, rfl, rfl, rfl, rfl⟩

theorem QuietStep.charge {t : Nat} {u sce : Bool} {held : Held} {s z : State} (h : QuietStep t s z) :
    QuietStep t s (charge t u sce held z) := by
  have hconf (ts : TileStore) (n now : Nat) : (ts.conflicts n now).bytes = ts.bytes ∧ (ts.conflicts n now).badParity = ts.badParity
      ∧ (ts.conflicts n now).bankState = ts.bankState ∧ (ts.conflicts n now).sb = ts.sb := by
    unfold TileStore.conflicts
    dsimp only
    split <;> exact ⟨rfl, rfl, rfl, rfl⟩
  unfold Machine.charge chargeAll
  dsimp only
  refine QuietStep.trans (b := if sce then _ else _) ?_ ⟨⟨rfl, fun _ _ => rfl, rfl, rfl⟩, .refl _⟩
  have h2 : QuietStep t s ((z.updRun t u (addHolds z.cycle (holdOrder { held with ecc := 0, cal := 0 } false))).updTs t
      fun ts => ts.conflicts held.bank z.cycle) := by
    refine .updTile (.updTile h fun x => ?_) fun x => ?_
    · cases u <;> exact ⟨.refl _, rfl, rfl, rfl, rfl, rfl, rfl⟩
    · obtain ⟨h1, h2, h3, h4⟩ := hconf x.ts held.bank z.cycle
      exact ⟨.refl _, h1, h2, h3, h4, rfl, rfl⟩
  split
  · exact .updTile h2 fun x => ⟨.refl _, rfl, rfl, rfl, rfl, rfl, rfl⟩
  · exact .updTile h2 fun x => ⟨.refl _, rfl, rfl, rfl, rfl, rfl, rfl⟩

theorem vec_setHeld (t e : Nat) (u b : Bool) (s : State) : ((setHeld t e u b s).tile t).vec = (s.tile t).vec :=
  State.tile_updTile_proj Tile.vec (fun _ => by cases u <;> rfl) t

theorem vec_charge (t : Nat) (u sce : Bool) (held : Held) (s : State) : ((charge t u sce held s).tile t).vec = (s.tile t).vec := by
  unfold charge chargeAll
  extract_lets s1 s2 s3
  have h1 : (s1.tile t).vec = (s.tile t).vec := State.proj_updRun Tile.vec s t t (fun _ _ => rfl) u _
  have h2 : (s2.tile t).vec = (s1.tile t).vec := State.proj_updTs Tile.vec s1 t t (fun _ _ => rfl) _
  have h3 : (s3.tile t).vec = (s2.tile t).vec := by
    unfold s3
    split
    · exact State.proj_updSce Tile.vec s2 t t (fun _ _ => rfl) _
    · exact State.proj_updArr Tile.vec s2 t t (fun _ _ => rfl) _
  exact h3.trans (h2.trans h1)

/-! ### A bundle's own effects -/

theorem VSlot0.pointers_congr {b c : VecBank} (z : VSlot0) (h : BankKept b c) : z.pointers c = z.pointers b := by
  have hinc (n code : Nat) : incOf c n code = incOf b n code := by simp only [incOf, h.k]
  simp only [VSlot0.pointers, hinc, h.p]

theorem VSlot0.next_congr {b c : VecBank} (z : VSlot0) (h : BankKept b c) : z.next c = z.next b := by
  obtain ⟨-, hk, hloops, hpc, -⟩ := h
  cases b
  cases c
  dsimp only at hk hloops hpc
  subst hk hloops hpc
  rfl

@[simp] theorem VecEngine.bk_updBk_same (v : VecEngine) (u : Bool) (f : VecBank → VecBank) : (v.updBk u f).bk u = f (v.bk u) := by
  cases u <;> rfl

@[simp] theorem VecEngine.bk_updBk_other (v : VecEngine) (u : Bool) (f : VecBank → VecBank) : (v.updBk u f).bk (!u) = v.bk (!u) := by
  cases u <;> rfl

/-- What the end of a cycle makes of an engine: one cycle more, and a program that has ended is over once its results have landed. -/
structure CycleEnded (u : Bool) (v w : VecEngine) : Prop where
  p : (w.bk u).p = (v.bk u).p
  k : (w.bk u).k = (v.bk u).k
  pc : (w.bk u).pc = (v.bk u).pc
  loops : (w.bk u).loops = (v.bk u).loops
  lfsr : (w.bk u).lfsr = (v.bk u).lfsr
  running : (v.bk u).ended = false → (w.bk u).run = (v.bk u).run ∧ (w.bk u).ended = false ∧ (w.bk u).ranges = (v.bk u).ranges
  ended : (v.bk u).ended = true → (w.bk u).run = false ∨ (w.bk u).ended = true
  other : BankKept (v.bk (!u)) (w.bk (!u))
  cycle : w.cycle = v.cycle + 1
  seq : w.seq = v.seq
  vpram : w.vpram = v.vpram
  flight : w.flight = v.flight
  regs : w.v = v.v

theorem VecEngine.finish_eq (v : VecEngine) (u : Bool) : v.finish u = v ∨ (v.bk u).ended = true ∧ ∃ k, v.finish u
    = { v.updBk u (fun b => { b with run := false, ended := false, ranges := [] }) with bank := k } := by
  unfold VecEngine.finish
  split
  · next h =>
    refine .inr ⟨(Bool.and_eq_true_iff.mp h).1, ?_⟩
    dsimp only
    split
    · exact ⟨_, rfl⟩
    · exact ⟨_, rfl⟩
  · exact .inl rfl

theorem cycleEnded (v : VecEngine) (u : Bool) {f : VecBank → VecBank} (hf : ∀ b, BankKept b (f b)) :
    CycleEnded u v (({ v.updBk u f with cycle := (v.updBk u f).cycle + 1 } : VecEngine).finish u) := by
  have hk := hf (v.bk u)
  rcases VecEngine.finish_eq { v.updBk u f with cycle := (v.updBk u f).cycle + 1 } u with h | ⟨he, k, h⟩
  · rw [h]
    cases u <;> exact ⟨hk.p, hk.k, hk.pc, hk.loops, hk.lfsr, fun hr => ⟨hk.run, hk.ended.trans hr, hk.ranges⟩,
      fun hr => .inr (hk.ended.trans hr), .refl _, rfl, rfl, rfl, rfl, rfl⟩
  · rw [h]
    cases u <;> exact ⟨hk.p, hk.k, hk.pc, hk.loops, hk.lfsr, fun hr => absurd (hk.ended.symm.trans he) (by simp [hr]),
      fun _ => .inl rfl, .refl _, rfl, rfl, rfl, rfl, rfl⟩

theorem blockExp_kept (z : VSlot0) (b : VecBank) : BankKept b (z.blockExp b) := by
  unfold VSlot0.blockExp
  split
  · exact ⟨rfl, rfl, rfl, rfl, rfl, rfl, rfl, rfl⟩
  · exact ⟨rfl, rfl, rfl, rfl, rfl, rfl, rfl, rfl⟩
  · exact .refl _

/-- The end of a cycle: the results that are due land, and then the engine's cycle ends. -/
theorem endCycle_spec {t : Nat} {u : Bool} {be : List Nat} {ctl : VecBank → VecBank} (hctl : ∀ b, BankKept b (ctl b)) {s : State}
    (ht : t < s.tiles.length) : Elsewhere t s (endCycle t u be ctl s)
      ∧ ∃ w, CycleEnded u ((landDue t s).tile t).vec w ∧ (endCycle t u be ctl s).tile t = { (landDue t s).tile t with vec := w } := by
  have hland : QuietStep t s (landDue t s) := .landDue (.refl t s)
  refine ⟨hland.elsewhere.trans (.updTile ..), _,
    cycleEnded _ u (f := fun b => ctl { b with beAcc := BitVec.ofNat 4 (be.foldl min b.beAcc.toNat) }) fun b => ?_, ?_⟩
  · obtain ⟨hp, hk, hloops, hpc, hrun, hended, hranges, hlfsr⟩ := hctl { b with beAcc := BitVec.ofNat 4 (be.foldl min b.beAcc.toNat) }
    exact ⟨hp, hk, hloops, hpc, hrun, hended, hranges, hlfsr⟩
  · exact State.tile_updTile_same _ _ _ (hland.elsewhere.length ▸ ht)

theorem TileStore.readCourse_bad (x : TileStore) (c : Nat) :
    (x.readCourse c).bad = if x.live (128 * c / 128) then x.badWords (wordsOf (128 * c) 128) else [] := by
  unfold TileStore.readCourse TileStore.read
  split <;> rfl

theorem TileStore.countOff_bytes (x : TileStore) (off : Bool) : (x.countOff off).bytes = x.bytes := by
  cases off <;> rfl

theorem TileStore.countOff_sb (x : TileStore) (off : Bool) : (x.countOff off).sb = x.sb := by
  cases off <;> rfl

theorem TileStore.put_bytes (x : TileStore) (a : Nat) (bs : List (BitVec 8)) : (x.put a bs).bytes = storeBytes x.bytes a bs := rfl

theorem TileStore.put_sb (x : TileStore) (a : Nat) (bs : List (BitVec 8)) : (x.put a bs).sb = x.sb := rfl

theorem TileStore.writeCourse_bytes (x : TileStore) (c : Nat) (d : BitVec 1024) (b : Bool) :
    (x.writeCourse c d b).bytes = if x.live c then storeBytes x.bytes (128 * c) (unpackBytes 128 d.toNat) else x.bytes := by
  rw [TileStore.writeCourse, apply_ite TileStore.bytes, TileStore.countOff_bytes, TileStore.put_bytes]

theorem TileStore.writeCourse_sb (x : TileStore) (c : Nat) (d : BitVec 1024) (b : Bool) : (x.writeCourse c d b).sb = x.sb := by
  rw [TileStore.writeCourse, apply_ite TileStore.sb, TileStore.countOff_sb, TileStore.put_sb, ite_self]

theorem TileStore.live_congr {x y : TileStore} (hs : y.bankState = x.bankState) (c : Nat) : y.live c = x.live c := by
  rw [TileStore.live, TileStore.live, hs]

theorem TileStore.readCourse_bad_congr {x y : TileStore} (hs : y.bankState = x.bankState) (hp : y.badParity = x.badParity) (c : Nat) :
    (y.readCourse c).bad = (x.readCourse c).bad := by
  rw [TileStore.readCourse_bad, TileStore.readCourse_bad, TileStore.live_congr hs, TileStore.badWords, TileStore.badWords, hp]

theorem TileStore.writeCourse_bytes_congr {x y : TileStore} (hs : y.bankState = x.bankState) (hb : y.bytes = x.bytes) (c : Nat)
    (d : BitVec 1024) (b : Bool) : (y.writeCourse c d b).bytes = (x.writeCourse c d b).bytes := by
  rw [TileStore.writeCourse_bytes, TileStore.writeCourse_bytes, TileStore.live_congr hs, hb]

/-- The reads of a bundle's port `on`, from a state that has changed quietly since the bundle was judged. -/
theorem QuietStep.port {t bundle c dst : Nat} {u on : Bool} {s z : State} (h : QuietStep t s z)
    (hbad : on = true → ((s.tile t).ts.readCourse c).bad = []) :
    QuietStep t s (if true && on then Machine.portRead t u bundle c dst z else (z, false)).1
      ∧ (if true && on then Machine.portRead t u bundle c dst z else (z, false)).2 = false := by
  cases on with
  | false => exact ⟨h, rfl⟩
  | true =>
    refine h.portRead ?_
    rw [← hbad rfl]
    exact TileStore.readCourse_bad_congr h.quiet.bankState h.quiet.badParity c

/-- What a bundle's own effect leaves of its tile, before the cycle ends: its stored course, the next bundle, and the entries that END
releases. -/
structure BundleDone (u : Bool) (z : VSlot0) (rs : List Range) (lfsr : BitVec 32) (x y : Tile) : Prop where
  bank : ∃ b, BankKept (x.vec.bk u) b ∧ y.vec.bk u = z.apply { b with lfsr := lfsr, ranges := rs }
  other : BankKept (x.vec.bk (!u)) (y.vec.bk (!u))
  cycle : y.vec.cycle = x.vec.cycle
  seq : y.vec.seq = x.vec.seq + 1
  vpram : y.vec.vpram = x.vec.vpram
  bytes : y.ts.bytes = if z.wen then
    (x.ts.writeCourse ((x.vec.bk u).p.getD z.wp 0).toNat (x.vec.vreg u z.wsrc) false).bytes else x.ts.bytes
  sb : y.ts.sb = if z.ctl = 4 then (x.ts.retire 0 u rs).sb else x.ts.sb
  acc : y.arr.acc = x.arr.acc
  carried : y.st.carried = x.st.carried

/-- The course that a bundle's W port writes. -/
theorem stored_course {t c : Nat} {on : Bool} {d : BitVec 1024} {s z : State} (h : QuietStep t s z) (ht : t < s.tiles.length) {y : State}
    (hy : y = if on then z.updTs t fun ts => ts.writeCourse c d false else z) :
    Elsewhere t s y ∧ VecKept (s.tile t).vec (y.tile t).vec
      ∧ (y.tile t).ts.bytes = (if on then ((s.tile t).ts.writeCourse c d false).bytes else (s.tile t).ts.bytes)
      ∧ (y.tile t).ts.sb = (s.tile t).ts.sb ∧ (y.tile t).arr.acc = (s.tile t).arr.acc
      ∧ (y.tile t).st.carried = (s.tile t).st.carried := by
  obtain ⟨he, hq⟩ := h
  obtain ⟨hvec, hbytes, -, hstate, hsb, hacc, hcarried⟩ := hq
  cases on with
  | false =>
    subst hy
    exact ⟨he, hvec, hbytes, hsb, hacc, hcarried⟩
  | true =>
    subst hy
    have htile := State.tile_updTile_same z t (fun x => { x with ts := x.ts.writeCourse c d false }) (he.length ▸ ht)
    simp only [if_true, State.updTs, htile]
    exact ⟨he.trans (.updTile ..), hvec, TileStore.writeCourse_bytes_congr hstate hbytes .., (TileStore.writeCourse_sb ..).trans hsb,
      hacc, hcarried⟩

/-- The engine that a bundle leaves: one bundle more, its bank changed. -/
def VecEngine.bundled (v : VecEngine) (u : Bool) (f : VecBank → VecBank) : VecEngine := { v with seq := v.seq + 1 }.updBk u f

theorem VecEngine.bundled_spec (v : VecEngine) (u : Bool) (f : VecBank → VecBank) :
    (v.bundled u f).bk u = f (v.bk u) ∧ (v.bundled u f).bk (!u) = v.bk (!u) ∧ (v.bundled u f).cycle = v.cycle
      ∧ (v.bundled u f).seq = v.seq + 1 ∧ (v.bundled u f).vpram = v.vpram := by
  cases u <;> exact ⟨rfl, rfl, rfl, rfl, rfl⟩

theorem issueBundle_next {t : Nat} {u : Bool} {x : BitVec 256} {z : VSlot0} {rs : List Range} {r : StepRun} {s : State} {run : VRun}
    (ht : t < s.tiles.length) (haccess : accessOk r rs z ((s.tile t).vec.bk u) = true)
    (hx : z.xen = true → ((s.tile t).ts.readCourse (((s.tile t).vec.bk u).p.getD z.xp 0).toNat).bad = [])
    (hy : z.yen = true → ((s.tile t).ts.readCourse (((s.tile t).vec.bk u).p.getD z.yp 0).toNat).bad = [])
    (hrun : run = runSlots (s.tile t).vec u x [(1, 128), (2, 64), (3, 0)] { lfsr := ((s.tile t).vec.bk u).lfsr, outs := [], bad := [] }) :
    ∃ m be, issueBundle t u x z true rs r s = .next (endCycle t u be z.blockExp m) ∧ Elsewhere t s m
      ∧ BundleDone u z rs run.lfsr (s.tile t) (m.tile t) := by
  unfold issueBundle
  simp only [haccess, Bool.not_true, Bool.and_false, Bool.false_eq_true, if_false]
  obtain ⟨h1, e1⟩ := QuietStep.port (u := u) (bundle := ((s.tile t).vec.bk u).pc.toNat) (dst := z.xdst) (.refl t s) hx
  generalize (if true && z.xen then portRead t u ((s.tile t).vec.bk u).pc.toNat (((s.tile t).vec.bk u).p.getD z.xp 0).toNat z.xdst s
    else (s, false)) = P1 at h1 e1 ⊢
  obtain ⟨s1, bx⟩ := P1
  dsimp only at h1 e1 ⊢
  obtain ⟨h2, e2⟩ := QuietStep.port (u := u) (bundle := ((s.tile t).vec.bk u).pc.toNat) (dst := z.ydst) h1 hy
  generalize (if true && z.yen then portRead t u ((s.tile t).vec.bk u).pc.toNat (((s.tile t).vec.bk u).p.getD z.yp 0).toNat z.ydst s1
    else (s1, false)) = P2 at h2 e2 ⊢
  obtain ⟨s2, bY⟩ := P2
  dsimp only at h2 e2 ⊢
  subst e1 e2 hrun
  simp only [Bool.or_self, Bool.false_eq_true, if_false, Bool.true_and, if_true]
  generalize hs3 : (if z.wen = true then _ else s2) = s3
  obtain ⟨e3, v3, bytes3, sb3, acc3, carried3⟩ := stored_course h2 ht hs3.symm
  generalize hs6 : List.foldl _ (List.foldl _ s3 _) _ = s6
  have h6 : QuietStep t s3 s6 := by
    subst hs6
    exact foldl_keeps (QuietStep t s3) _ (fun _ _ hy => hy.vecIllegal) _ _
      (foldl_keeps (QuietStep t s3) _ (fun _ _ hy => hy.pushOut) _ _ (.refl t s3))
  obtain ⟨e6, v6, bytes6, -, -, sb6, acc6, carried6⟩ := h6
  have ht6 : t < s6.tiles.length := by rw [e6.length, e3.length]; exact ht
  refine ⟨_, _, rfl, ?_, ?_⟩
  · refine (e3.trans e6).trans ?_
    split
    · exact (Elsewhere.updTile ..).trans (.updTile ..)
    · exact .updTile ..
  have hb := (v3.bk u).trans (v6.bk u)
  have ho := (v3.bk !u).trans (v6.bk !u)
  have hstep (f : VecEngine → VecEngine) (g : TileStore → TileStore) (c : Bool) :
      (if c = true then (s6.updVec t f).updTs t g else s6.updVec t f).tile t
        = { s6.tile t with vec := f (s6.tile t).vec, ts := if c = true then g (s6.tile t).ts else (s6.tile t).ts } := by
    cases c with
    | false => exact State.tile_updTile_same _ _ _ ht6
    | true =>
      refine (State.tile_updTile_same _ _ _ ((upd_length ..).symm ▸ ht6)).trans ?_
      rw [State.updVec, State.tile_updTile_same _ _ _ ht6]
      rfl
  rw [hstep]
  obtain ⟨wbank, wother, wcycle, wseq, wvpram⟩ := (s6.tile t).vec.bundled_spec u fun b => z.apply { b with
    lfsr := (runSlots (s.tile t).vec u x [(1, 128), (2, 64), (3, 0)] { lfsr := ((s.tile t).vec.bk u).lfsr, outs := [], bad := [] }).lfsr
    ranges := rs }
  refine ⟨⟨_, hb, wbank⟩, ?_, wcycle.trans (v6.cycle.trans v3.cycle), wseq.trans (congrArg (· + 1) (v6.seq.trans v3.seq)),
    wvpram.trans (v6.vpram.trans v3.vpram), ?_, ?_, acc6.trans acc3, carried6.trans carried3⟩
  · exact wother.symm ▸ ho
  · dsimp only
    rw [apply_ite TileStore.bytes, show ((s6.tile t).ts.retire 0 u rs).bytes = (s6.tile t).ts.bytes from rfl, ite_self]
    exact bytes6.trans bytes3
  · dsimp only
    by_cases hend : z.ctl = 4
    · simp only [hend, decide_true, if_true, TileStore.retire, sb6.trans sb3]
    · simp only [hend, decide_false, if_false, Bool.false_eq_true, sb6.trans sb3]

/-- The tile that a bundle leaves at the end of its cycle, from the one that its own effect began at. -/
theorem BundleDone.ended {u : Bool} {z : VSlot0} {rs : List Range} {lfsr : BitVec 32} {x y y' : Tile} {w : VecEngine} {b : VecBank}
    (h : BundleDone u z rs lfsr x y) (hq : Quiet y y') (hw : CycleEnded u y'.vec w) (hb : BankKept b (x.vec.bk u))
    (hrun : b.run = true) (hended : b.ended = false) :
    (w.bk u).p = z.pointers b ∧ (w.bk u).k = (if z.ctl = 6 then lput b.k (z.cimm / 2 ^ 18) (BitVec.ofNat 16 z.cimm) else b.k)
      ∧ (w.bk u).pc = BitVec.ofNat 11 (z.next b).1 ∧ (w.bk u).loops = (z.next b).2 ∧ (w.bk u).lfsr = lfsr
      ∧ (z.ctl ≠ 4 → (w.bk u).run = true ∧ (w.bk u).ended = false ∧ (w.bk u).ranges = rs)
      ∧ (z.ctl = 4 → (w.bk u).run = false ∨ (w.bk u).ended = true) := by
  obtain ⟨b1, hb1, hbank⟩ := h.bank
  have hb1 : BankKept b b1 := hb.trans hb1
  have hy' := hq.vec.bk u
  have hp : z.pointers { b1 with lfsr := lfsr, ranges := rs } = z.pointers b := (z.pointers_congr hb1 : _)
  have hn : z.next { b1 with lfsr := lfsr, ranges := rs } = z.next b := (z.next_congr hb1 : _)
  have he : (y'.vec.bk u).ended = decide (z.ctl = 4) := by
    rw [hy'.ended, hbank, VSlot0.apply, hn]
    simp only [hb1.ended, hended, Bool.false_or]
  refine ⟨?_, ?_, ?_, ?_, ?_, fun h4 => ?_, fun h4 => hw.ended (by simp [he, h4])⟩
  · rw [hw.p, hy'.p, hbank]
    exact hp
  · rw [hw.k, hy'.k, hbank, VSlot0.apply, hn]
    simp only [hb1.k]
  · rw [hw.pc, hy'.pc, hbank, VSlot0.apply, hn]
  · rw [hw.loops, hy'.loops, hbank, VSlot0.apply, hn]
  · rw [hw.lfsr, hy'.lfsr, hbank]
    rfl
  · obtain ⟨hr, hen, hra⟩ := hw.running (by simp [he, h4])
    refine ⟨?_, hen, ?_⟩
    · rw [hr, hy'.run, hbank]
      exact hb1.run.trans hrun
    · rw [hra, hy'.ranges, hbank]
      rfl

/-- A bundle that may issue is charged its holds, its SEG takes its entries, and it issues. -/
theorem execVecBundleIssue_of_may {t : Nat} {held : Held} {s : State} {r : StepRun} {z : VSlot0} {rs : List Range}
    (h : Claims.MayIssueBundle t s r z) (hrs : Claims.BundleRanges t s z rs) :
    ∃ s1, QuietStep t s s1 ∧ (s1.tile t).vec = (s.tile t).vec
      ∧ exec (.vecBundleIssue t held) s = issueBundle t (s.tile t).vec.bank
          ((s.tile t).vec.bundle ((s.tile t).vec.bk (s.tile t).vec.bank).pc.toNat) z true rs r
          (if z.ctl = 7 then s1.updTs t fun ts => (ts.issue 0 (s.tile t).vec.bank rs).retire 0 (s.tile t).vec.bank
            ((s.tile t).vec.bk (s.tile t).vec.bank).ranges else s1) := by
  obtain ⟨-, hlive, hrun, hb, hended, hu, hgood, hz, hports, hctl⟩ := h
  refine ⟨charge t (s.tile t).vec.bank false { held with bank := held.bank + crossGroup z ((s.tile t).vec.bk (s.tile t).vec.bank) }
    (setHeld t 0 (s.tile t).vec.bank false s), .charge (.setHeld (.refl t s)), (vec_charge ..).trans (vec_setHeld ..), ?_⟩
  have hguard : (!(s.tile t).vec.bank && (s.tile t).vec.bankU.run) = false := by
    rcases hu with hu | hu <;> simp [hu]
  change execVecBundleIssue t held s = _
  by_cases h7 : z.ctl = 7
  · simp only [Claims.BundleRanges, if_pos h7] at hrs
    obtain ⟨hseg, hrec, hmay⟩ := hrs
    simp only [execVecBundleIssue, ← hz, hrun, hlive, hb, hended, hguard, hgood, hports, hctl, h7, hseg, hrec, hmay, Bool.not_true,
      Bool.or_self, Bool.false_eq_true, if_false, decide_true, Bool.and_self, Bool.and_false, Option.getD_some, if_true,
      Option.isSome_some, Bool.or_true]
  · simp only [Claims.BundleRanges, if_neg h7] at hrs
    subst hrs
    simp only [execVecBundleIssue, ← hz, hrun, hlive, hb, hended, hguard, hgood, hports, hctl, h7, Bool.not_true,
      Bool.or_self, Bool.false_eq_true, if_false, decide_false, Bool.and_self, Bool.false_and, Bool.not_false, Bool.true_or]
    rfl

/-- The entries that a SEG takes, and those of the command before it that it releases. -/
def segTaken (t : Nat) (seg u : Bool) (rs old : List Range) (s : State) : State :=
  if seg then s.updTs t fun ts => (ts.issue 0 u rs).retire 0 u old else s

theorem segTaken_elsewhere (t : Nat) (seg u : Bool) (rs old : List Range) (s : State) : Elsewhere t s (segTaken t seg u rs old s) := by
  unfold segTaken
  split
  · exact .updTile ..
  · exact .refl ..

/-- A SEG changes the scoreboard of its tile and nothing else. -/
theorem tile_segTaken {t : Nat} (seg u : Bool) (rs old : List Range) {s : State} (ht : t < s.tiles.length) :
    (segTaken t seg u rs old s).tile t = { s.tile t with ts := { (s.tile t).ts with
      sb := if seg then (((s.tile t).ts.issue 0 u rs).retire 0 u old).sb else (s.tile t).ts.sb } } := by
  cases seg with
  | false => rfl
  | true => exact State.tile_updTile_same _ _ _ ht

theorem TileStore.retire_sb_congr {x y : TileStore} (h : y.sb = x.sb) (e : Nat) (u : Bool) (rs : List Range) :
    (y.retire e u rs).sb = (x.retire e u rs).sb := by
  rw [TileStore.retire, TileStore.retire, h]

theorem TileStore.issue_sb_congr {x y : TileStore} (h : y.sb = x.sb) (e : Nat) (u : Bool) (rs : List Range) :
    (y.issue e u rs).sb = (x.issue e u rs).sb := by
  rw [TileStore.issue, TileStore.issue, h]

theorem vectorBundleCompletes : Claims.VectorBundleCompletes := by
  refine ⟨fun t held s r z rs run hmay hrs hclean haccess hrun => ?_, fun t held s r z rs hmay h7 hseg hrec hno => ?_⟩
  · obtain ⟨s1, h1, hv1, hexec⟩ := execVecBundleIssue_of_may (held := held) hmay hrs
    obtain ⟨hlen, hlive, -, hb, hended, -⟩ := hmay
    have ht : t < s.tiles.length := hlen ▸ s.lt_of_tileLive hlive
    have ht1 : t < s1.tiles.length := h1.elsewhere.length ▸ ht
    have hs2 := tile_segTaken (decide (z.ctl = 7)) (s.tile t).vec.bank rs ((s.tile t).vec.bk (s.tile t).vec.bank).ranges ht1
    have he2 := h1.elsewhere.trans (segTaken_elsewhere t (decide (z.ctl = 7)) (s.tile t).vec.bank rs ((s.tile t).vec.bk (s.tile t).vec.bank).ranges s1)
    rw [show (if z.ctl = 7 then _ else s1) = segTaken t (decide (z.ctl = 7)) (s.tile t).vec.bank rs ((s.tile t).vec.bk (s.tile t).vec.bank).ranges s1 by simp [segTaken]] at hexec
    generalize segTaken t (decide (z.ctl = 7)) (s.tile t).vec.bank rs ((s.tile t).vec.bk (s.tile t).vec.bank).ranges s1 = s2 at hs2 he2 hexec
    have hv2 : (s2.tile t).vec = (s.tile t).vec := by rw [hs2]; exact hv1
    have hts2 : (s2.tile t).ts = _ := congrArg Tile.ts hs2
    have hbytes : (s2.tile t).ts.bytes = (s.tile t).ts.bytes := by rw [hts2]; exact h1.quiet.bytes
    have hstate : (s2.tile t).ts.bankState = (s.tile t).ts.bankState := by rw [hts2]; exact h1.quiet.bankState
    have hbad (c : Nat) : ((s2.tile t).ts.readCourse c).bad = ((s.tile t).ts.readCourse c).bad :=
      TileStore.readCourse_bad_congr hstate (by rw [hts2]; exact h1.quiet.badParity) c
    obtain ⟨m, be, hissue, hem, hdone⟩ := issueBundle_next (u := (s.tile t).vec.bank) (x := (s.tile t).vec.bundle ((s.tile t).vec.bk (s.tile t).vec.bank).pc.toNat) (z := z) (rs := rs) (r := r)
      (he2.length ▸ ht) (by rw [hv2]; exact haccess) (by rw [hv2]; exact fun hx => (hbad _).trans (hclean.1 hx))
      (by rw [hv2]; exact fun hy => (hbad _).trans (hclean.2 hy)) rfl
    obtain ⟨hen, w, hw, hn⟩ := endCycle_spec (u := (s.tile t).vec.bank) (be := be) (ctl := z.blockExp) (blockExp_kept z) (hem.length ▸ he2.length ▸ ht)
    have hland : Quiet (m.tile t) ((landDue t m).tile t) := (QuietStep.landDue (.refl t m)).quiet
    have hvn : ((endCycle t (s.tile t).vec.bank be z.blockExp m).tile t).vec = w := by rw [hn]
    have hvec := hdone.ended hland hw (b := ((s.tile t).vec.bk (s.tile t).vec.bank)) (by rw [hv2]; exact .refl _) hb hended
    subst hrun
    rw [hv2] at hvec
    obtain ⟨np, nk, npc, nloops, nlfsr, nrun, nended⟩ := hvec
    refine ⟨_, hexec.trans hissue, ?_⟩
    rw [hn]
    have hother := (hdone.other.trans (hland.vec.bk _)).trans hw.other
    rw [hv2] at hother
    refine ⟨np, nk, npc, nloops, nlfsr, nrun, nended, hother.p, hother.pc, hother.run, ?_, ?_, ?_, ?_, ?_, ?_, ?_, fun j hj => ?_, ?_, ?_⟩
    · rw [hw.cycle, hland.vec.cycle, hdone.cycle, hv2]
    · rw [hw.seq, hland.vec.seq, hdone.seq, hv2]
    · rw [hw.vpram, hland.vec.vpram, hdone.vpram, hv2]
    · change ((landDue t m).tile t).ts.bytes = _
      rw [hland.bytes, hdone.bytes, hv2, TileStore.writeCourse_bytes_congr hstate hbytes, hbytes]
    · change ((landDue t m).tile t).ts.sb = _
      rw [hland.sb, hdone.sb, hts2]
      by_cases h7 : z.ctl = 7
      · simp only [h7, decide_true, if_true, Nat.reduceEqDiff, if_false]
        exact TileStore.retire_sb_congr (TileStore.issue_sb_congr h1.quiet.sb 0 _ rs) ..
      · simp only [h7, decide_false, if_false, Bool.false_eq_true, h1.quiet.sb]
        rw [Claims.BundleRanges, if_neg h7] at hrs
        subst hrs
        exact congrArg (fun y => if z.ctl = 4 then y else _) (TileStore.retire_sb_congr rfl ..)
    · exact (hland.acc.trans hdone.acc).trans ((congrArg (fun x => x.arr.acc) hs2).trans h1.quiet.acc)
    · exact (hland.carried.trans hdone.carried).trans ((congrArg (fun x => x.st.carried) hs2).trans h1.quiet.carried)
    · exact ((he2.trans hem).trans hen).others j hj
    · exact ((he2.trans hem).trans hen).ddr
    · exact ((he2.trans hem).trans hen).dma
  · obtain ⟨-, hlive, hrun, hb, hended, hu, hgood, hz, hports, hctl⟩ := hmay
    have hguard : (!(s.tile t).vec.bank && (s.tile t).vec.bankU.run) = false := by
      rcases hu with hu | hu <;> simp [hu]
    change execVecBundleIssue t held s = _
    simp only [execVecBundleIssue, ← hz, hrun, hlive, hb, hended, hguard, hgood, hports, hctl, h7, hseg, hrec, hno, Bool.not_true,
      Bool.or_self, Bool.false_eq_true, if_false, decide_true, Bool.and_self, Bool.and_false, Option.getD_some, if_true,
      Option.isSome_some, Bool.or_true, Bool.not_false]
    rfl

/-! ### Results that land, the switch, and VPRAM -/

theorem VecEngine.land_flight (v : VecEngine) (r : VecResult) : (v.land r).flight = v.flight := by
  have hA (u : Bool) (i : Nat) (x : BitVec 2304) : (v.setA u i x).flight = v.flight := by
    unfold VecEngine.setA
    split
    · rfl
    · cases u <;> rfl
  have hV (u : Bool) (i : Nat) (x : BitVec 1024) : (v.setV u i x).flight = v.flight := by
    unfold VecEngine.setV
    split
    · rfl
    · cases u <;> rfl
  have hU (w : VecEngine) (u : Bool) (f : VecBank → VecBank) : (w.updBk u f).flight = w.flight := by cases u <;> rfl
  unfold VecEngine.land
  split
  · exact (hU ..).trans (hA ..)
  · exact hV ..

/-- A result lands in a shared register only where it names one. -/
theorem VecEngine.land_regs (v : VecEngine) (r : VecResult) : (v.land r).v = if r.acc = false ∧ r.dst < 24 then
    lput v.v r.dst (blend (r.mask.setWidth 1024) (r.val.setWidth 1024) (v.vreg r.urgent r.dst)) else v.v := by
  have hU (w : VecEngine) (u : Bool) (f : VecBank → VecBank) : (w.updBk u f).v = w.v := by cases u <;> rfl
  have hA (u : Bool) (i : Nat) (x : BitVec 2304) : (v.setA u i x).v = v.v := by
    unfold VecEngine.setA
    split
    · rfl
    · exact hU ..
  unfold VecEngine.land
  by_cases hacc : r.acc = true
  · rw [if_pos hacc, if_neg (by simp [hacc])]
    exact (hU ..).trans (hA ..)
  · have hacc : r.acc = false := Bool.eq_false_iff.mpr hacc
    rw [if_neg (by simp [hacc]), VecEngine.setV]
    by_cases hd : r.dst < 24
    · rw [if_pos hd, if_pos ⟨hacc, hd⟩]
    · rw [if_neg hd, if_neg fun h => hd h.2]
      exact hU ..

/-- A result lands with its own value or, among rivals, with another. -/
theorem landOne_spec {t : Nat} (due : List VecResult) {s : State} (r : VecResult) (ht : t < s.tiles.length) :
    (landOne t due s r).tiles.length = s.tiles.length ∧ ((landOne t due s r).tile t).ts = (s.tile t).ts
      ∧ ∃ (v : VecEngine) (val : BitVec 2304), v.flight = (s.tile t).vec.flight ∧ v.v = (s.tile t).vec.v
          ∧ ((landOne t due s r).tile t).vec = v.land { r with val := val } := by
  have hvec (z : State) (f : VecEngine → VecEngine) (hz : z.tiles.length = s.tiles.length) : (z.updVec t f).tiles.length = s.tiles.length
      ∧ ((z.updVec t f).tile t).ts = (z.tile t).ts ∧ ((z.updVec t f).tile t).vec = f (z.tile t).vec := by
    rw [State.updVec, State.tile_updTile_same z t (fun x => { x with vec := f x.vec }) (hz ▸ ht)]
    exact ⟨(upd_length ..).trans hz, rfl, rfl⟩
  unfold landOne
  extract_lets rivals s1
  have hs1 : s1.tiles.length = s.tiles.length ∧ (s1.tile t).ts = (s.tile t).ts ∧ (s1.tile t).vec.flight = (s.tile t).vec.flight
      ∧ (s1.tile t).vec.v = (s.tile t).vec.v := by
    unfold s1
    split
    · exact ⟨rfl, rfl, rfl, rfl⟩
    · obtain ⟨l1, ts1, v1⟩ := hvec s (fun v => { v with wcoll := true, now := v.now.note 10 true }) rfl
      unfold vecErr
      extract_lets x was s2
      obtain ⟨l2, ts2, v2⟩ := hvec _ (fun v => { v with err := if was then v.err else x, now := v.now.first x }) l1
      have h2 : s2.tiles.length = s.tiles.length ∧ (s2.tile t).ts = (s.tile t).ts ∧ (s2.tile t).vec.flight = (s.tile t).vec.flight
          ∧ (s2.tile t).vec.v = (s.tile t).vec.v :=
        ⟨l2, ts2.trans ts1, by rw [v2, v1], by rw [v2, v1]⟩
      split
      · exact h2
      · obtain ⟨h1, h3, h4, h5⟩ := h2
        refine ⟨(upd_length ..).trans h1, ?_⟩
        rw [State.tileSource, State.updTic, State.tile_updTile_same s2 t _ (h1 ▸ ht)]
        exact ⟨h3, h4, h5⟩
  obtain ⟨hl, hts, hfl, hv⟩ := hs1
  split
  · obtain ⟨h1, h2, h3⟩ := hvec s (fun v => v.land r) rfl
    exact ⟨h1, h2, _, r.val, rfl, rfl, h3⟩
  · split
    · obtain ⟨h1, h2, h3⟩ := hvec s1 (fun v => v.land r) hl
      exact ⟨h1, h2.trans hts, _, r.val, hfl, hv, h3⟩
    · obtain ⟨h1, h2, h3⟩ := hvec (s1.draw 2304).2 (fun v => v.land { r with val := (s1.draw 2304).1 }) hl
      exact ⟨h1, h2.trans hts, _, _, hfl, hv, h3⟩

/-- Landing keeps the tile store and the results still in flight. -/
theorem landAll_spec {t : Nat} (due : List VecResult) : ∀ (l : List VecResult) (s : State), t < s.tiles.length →
    (l.foldl (landOne t due) s).tiles.length = s.tiles.length ∧ ((l.foldl (landOne t due) s).tile t).ts = (s.tile t).ts
      ∧ ((l.foldl (landOne t due) s).tile t).vec.flight = (s.tile t).vec.flight
  | [], _, _ => ⟨rfl, rfl, rfl⟩
  | r :: l, s, ht => by
    obtain ⟨h1, h2, v, val, hf, -, h3⟩ := landOne_spec due r ht
    obtain ⟨i1, i2, i3⟩ := landAll_spec due l (landOne t due s r) (h1.symm ▸ ht)
    refine ⟨i1.trans h1, i2.trans h2, i3.trans ?_⟩
    rw [h3, VecEngine.land_flight, hf]

/-- Landing changes no register that no result names. -/
theorem landAll_other {t n : Nat} (due : List VecResult) : ∀ (l : List VecResult) (s : State), t < s.tiles.length →
    (∀ x ∈ l, x.acc = false → x.dst ≠ n) →
    ((l.foldl (landOne t due) s).tile t).vec.v.length = (s.tile t).vec.v.length
      ∧ ((l.foldl (landOne t due) s).tile t).vec.v.getD n 0 = (s.tile t).vec.v.getD n 0
  | [], _, _, _ => ⟨rfl, rfl⟩
  | r :: l, s, ht, hl => by
    obtain ⟨h1, -, v, val, -, hv, h3⟩ := landOne_spec due r ht
    obtain ⟨i1, i2⟩ := landAll_other due l (landOne t due s r) (h1.symm ▸ ht) fun x hx => hl x (.tail _ hx)
    have hr := hl r (.head _)
    rw [List.foldl_cons, i1, i2, h3, VecEngine.land_regs, hv]
    split
    · next h => exact ⟨upd_length .., upd_getD_ne _ _ _ _ _ (hr h.1).symm⟩
    · exact ⟨rfl, rfl⟩

/-- A cycle without an issue: results that are due land, and the cycle ends. -/
theorem execVecResultLand_of_idle {t : Nat} {s : State} (hlive : s.tileLive t = true)
    (hrun : ((s.tile t).vec.bk (s.tile t).vec.bank).run = true)
    (hidle : ((s.tile t).vec.bk (s.tile t).vec.bank).ended = true ∨ ((s.tile t).ts.heldOf (s.tile t).vec.bank).getLsbD 0 = true)
    (hu : (s.tile t).vec.bank = true ∨ (s.tile t).vec.bankU.run = false) (hlen : s.tiles.length = 16) :
    ∃ z, exec (.vecResultLand t) s = .next z ∧ ∃ w, CycleEnded (s.tile t).vec.bank ((landDue t s).tile t).vec w
      ∧ z.tile t = { (landDue t s).tile t with vec := w } := by
  obtain ⟨-, w, hw, hz⟩ := endCycle_spec (u := (s.tile t).vec.bank) (be := []) (ctl := id) (fun b => .refl b)
    (hlen.symm ▸ s.lt_of_tileLive hlive : t < s.tiles.length)
  refine ⟨_, ?_, w, hw, hz⟩
  change execVecResultLand t s = _
  have h1 : (((s.tile t).vec.bk (s.tile t).vec.bank).ended || bit ((s.tile t).ts.heldOf (s.tile t).vec.bank) 0) = true := by
    rcases hidle with h | h <;> simp [h, bit]
  have h2 : ((s.tile t).vec.bank || !(s.tile t).vec.bankU.run) = true := by
    rcases hu with h | h <;> simp [h]
  simp only [execVecResultLand, hlive, hrun, h1, h2, Bool.and_self, if_true]

/-- The tile that landing begins with: the results that are due have left the flight. -/
theorem tile_landDue_start {t : Nat} {s : State} (ht : t < s.tiles.length) :
    (s.updVec t fun v => { v with flight := v.flight.filter fun r => !decide (r.due ≤ v.cycle) }).tile t = { s.tile t with
      vec := { (s.tile t).vec with flight := (s.tile t).vec.flight.filter fun r => !decide (r.due ≤ (s.tile t).vec.cycle) } } :=
  State.tile_updTile_same _ _ _ ht

theorem vec_cycle {t : Nat} {s : State} (hlive : s.tileLive t = true)
    (hrun : ((s.tile t).vec.bk (s.tile t).vec.bank).run = true)
    (hidle : ((s.tile t).vec.bk (s.tile t).vec.bank).ended = true ∨ ((s.tile t).ts.heldOf (s.tile t).vec.bank).getLsbD 0 = true)
    (hu : (s.tile t).vec.bank = true ∨ (s.tile t).vec.bankU.run = false) (hlen : s.tiles.length = 16) :
    ∃ z, exec (.vecResultLand t) s = .next z
      ∧ (z.tile t).vec.cycle = (s.tile t).vec.cycle + 1
      ∧ (z.tile t).vec.flight = (s.tile t).vec.flight.filter (fun r => !decide (r.due ≤ (s.tile t).vec.cycle))
      ∧ (z.tile t).ts = (s.tile t).ts := by
  obtain ⟨z, hz, w, hw, htile⟩ := execVecResultLand_of_idle hlive hrun hidle hu hlen
  have ht : t < s.tiles.length := hlen ▸ s.lt_of_tileLive hlive
  have hstart := tile_landDue_start ht
  obtain ⟨-, hts, hflight⟩ := landAll_spec ((s.tile t).vec.flight.filter fun r => decide (r.due ≤ (s.tile t).vec.cycle))
    ((s.tile t).vec.flight.filter fun r => decide (r.due ≤ (s.tile t).vec.cycle))
    (s.updVec t fun v => { v with flight := v.flight.filter fun r => !decide (r.due ≤ v.cycle) }) ((upd_length ..).symm ▸ ht)
  refine ⟨z, hz, ?_, ?_, ?_⟩
  · rw [htile, hw.cycle, (QuietStep.landDue (.refl t s)).quiet.vec.cycle]
  · rw [htile, hw.flight, landDue, hflight, hstart]
  · rw [htile]
    exact hts.trans (by rw [hstart])

/-- A result that stands once among the due ones, and no other of which names its register, lands with its own value. -/
theorem landAll_alone {t : Nat} {due : List VecResult} {r : VecResult} {s : State} (ht : t < s.tiles.length) (hmem : r ∈ due)
    (hacc : r.acc = false) (hdst : r.dst < 24) (hv : (s.tile t).vec.v.length = 24)
    (hother : ∀ x ∈ due, x.acc = false → x.dst = r.dst → x = r) (hone : (due.filter (· = r)).length = 1) :
    ((due.foldl (landOne t due) s).tile t).vec.v.getD r.dst 0
      = blend (r.mask.setWidth 1024) (r.val.setWidth 1024) ((s.tile t).vec.v.getD r.dst 0) := by
  have hrivals : (due.filter r.same).length ≤ 1 := by
    rw [← hone, ← List.countP_eq_length_filter, ← List.countP_eq_length_filter]
    refine List.countP_mono_left fun x hx hsame => ?_
    simp only [VecResult.same, Bool.and_eq_true, beq_iff_eq] at hsame
    exact decide_eq_true (hother x hx (hsame.1.1 ▸ hacc) hsame.1.2.symm)
  have hland (z : State) : landOne t due z r = z.updVec t fun v => v.land r := if_pos hrivals
  obtain ⟨l1, l2, hsplit⟩ := List.append_of_mem hmem
  have hnone : (l1.filter (· = r)).length + (l2.filter (· = r)).length = 0 := by
    simp only [hsplit, List.filter_append, List.length_append, List.filter_cons_of_pos (p := (· = r)) (decide_eq_true rfl),
      List.length_cons] at hone
    omega
  have hne (l : List VecResult) (hl : (l.filter (· = r)).length = 0) (hsub : ∀ x ∈ l, x ∈ due) :
      ∀ x ∈ l, x.acc = false → x.dst ≠ r.dst := fun x hx hxa hxd => by
    have : x ∈ l.filter (· = r) := List.mem_filter.mpr ⟨hx, decide_eq_true (hother x (hsub x hx) hxa hxd)⟩
    rw [List.length_eq_zero_iff.mp hl] at this
    exact absurd this List.not_mem_nil
  have hfold : due.foldl (landOne t due) s = l2.foldl (landOne t due) (landOne t due (l1.foldl (landOne t due) s) r) := by
    conv_lhs => rw [hsplit]
    rw [List.foldl_append, List.foldl_cons, ← hsplit]
  obtain ⟨hl1, -, -⟩ := landAll_spec due l1 s ht
  obtain ⟨hlen, hsame⟩ := landAll_other due l1 s ht (hne l1 (by omega) fun x hx => hsplit ▸ List.mem_append_left _ hx)
  generalize l1.foldl (landOne t due) s = z at hfold hl1 hlen hsame
  have hz : t < z.tiles.length := hl1 ▸ ht
  rw [hfold, hland, (landAll_other due l2 _ ((upd_length ..).symm ▸ hz)
    (hne l2 (by omega) fun x hx => hsplit ▸ List.mem_append_right _ (.tail _ hx))).2, State.updVec, State.tile_updTile_same _ _ _ hz]
  change ((z.tile t).vec.land r).v.getD r.dst 0 = _
  rw [VecEngine.land_regs, if_pos ⟨hacc, hdst⟩, lput, upd_getD_same _ _ _ _ (hlen.symm ▸ hv.symm ▸ hdst), VecEngine.vreg, if_pos hdst, hsame]

theorem vec_lands {t : Nat} {s : State} {r : VecResult} (hlive : s.tileLive t = true) (hlen : s.tiles.length = 16)
    (hrun : ((s.tile t).vec.bk (s.tile t).vec.bank).run = true)
    (hheld : ((s.tile t).ts.heldOf (s.tile t).vec.bank).getLsbD 0 = true)
    (hu : (s.tile t).vec.bank = true ∨ (s.tile t).vec.bankU.run = false) (hmem : r ∈ (s.tile t).vec.flight)
    (hdue : r.due ≤ (s.tile t).vec.cycle) (hacc : r.acc = false) (hdst : r.dst < 24) (hv : (s.tile t).vec.v.length = 24)
    (hother : ∀ x ∈ (s.tile t).vec.flight, x.acc = false → x.dst = r.dst → x.due ≤ (s.tile t).vec.cycle → x = r)
    (hone : ((s.tile t).vec.flight.filter (· = r)).length = 1) :
    ∃ z, exec (.vecResultLand t) s = .next z
      ∧ (z.tile t).vec.v.getD r.dst 0 = blend (r.mask.setWidth 1024) (r.val.setWidth 1024) ((s.tile t).vec.v.getD r.dst 0) := by
  obtain ⟨z, hz, w, hw, htile⟩ := execVecResultLand_of_idle hlive hrun (.inr hheld) hu hlen
  have ht : t < s.tiles.length := hlen ▸ s.lt_of_tileLive hlive
  refine ⟨z, hz, ?_⟩
  rw [htile, hw.regs, landDue]
  have hstart := tile_landDue_start ht
  refine (landAll_alone (r := r) ((upd_length ..).symm ▸ ht) (List.mem_filter.mpr ⟨hmem, decide_eq_true hdue⟩) hacc hdst ?_ ?_ ?_).trans ?_
  · rw [hstart]
    exact hv
  · intro x hx hxa hxd
    obtain ⟨hxm, hxdue⟩ := List.mem_filter.mp hx
    exact hother x hxm hxa hxd (of_decide_eq_true hxdue)
  · rw [← hone, List.filter_filter]
    refine congrArg List.length (List.filter_congr fun x _ => ?_)
    by_cases hx : x = r
    · simp [hx, hdue]
    · simp [hx]
  · rw [hstart]

theorem vectorCyclesAndSwitch : Claims.VectorCyclesAndSwitch := by
  refine ⟨fun t s hlive hrun hidle hu hlen => vec_cycle hlive hrun hidle hu hlen,
    fun t s r hlive hlen hrun hheld hu hmem hdue hacc hdst hv hother hone =>
      vec_lands hlive hlen hrun hheld hu hmem hdue hacc hdst hv hother hone,
    fun t s hlive hb hu hn => ?_, fun t s hb hu => ?_, fun t s hlive hb hp hu => ?_, fun t a bs s ht ha h => ?_⟩
  · change execVecSwitchIn t s = _
    simp only [execVecSwitchIn, hlive, hb, hu, hn, Bool.not_false, Bool.and_self, if_true]
    rfl
  · change execVecResultLand t s = _
    simp only [execVecResultLand, hb, hu, Bool.not_true, Bool.or_self, Bool.and_false, Bool.false_eq_true, if_false]
  · change execVecSwitchOut t s = _
    simp only [execVecSwitchOut, hlive, hb, hp, hu, Bool.not_false, Bool.and_self, if_true]
  · have hc : (decide (t < 16) && decide (a + bs.length ≤ 0x10000)) = true := by simp [ht, ha]
    refine ⟨?_, ?_, fun bad => ?_⟩
    · exact congrArg _ ((if_pos hc).trans (hostRegWrite_of_writable h _))
    · exact congrArg _ ((if_pos hc).trans (hostRegWrite_of_writable h _))
    · exact congrArg _ ((if_pos hc).trans (hostWrite_of_poisoned h.1 _))

/-- Settles O22. -/
theorem vectorUnitCompletes : Obligations.VectorUnitCompletes := ⟨vectorBundleCompletes, vectorCyclesAndSwitch⟩

end Sys2Proof.Machine
end

section
/-! Engine commands checked at the head of their queues (R237 to R239, R249, R250, R263, R267, R276, R278). -/

namespace Sys2Proof.Machine

/-- Settles O23. -/
theorem engineCommandsComplete : Obligations.EngineCommandsComplete := by
  refine ⟨?_, ?_, ?_, ?_, ?_, ?_, ?_, ?_, ?_, ?_, ?_, ?_⟩
  · intro t s c d hlive hc h1 hop hd hcause
    change execMatmulCmd t s = _
    simp only [execMatmulCmd, hc, hlive, eType_eq, h1, hop, hd, bit, hcause, ne_eq, not_true, Bool.not_true, decide_false, Bool.or_self,
      Bool.false_eq_true, if_false, Option.isNone_some]
  · intro t s c hlive hc h1 hop hcause
    change execSumwCmd t s = _
    simp only [execSumwCmd, hc, hlive, eType_eq, h1, hop, hcause, ne_eq, not_true, Bool.not_true, decide_false, Bool.or_self,
      Bool.false_eq_true, if_false]
  · intro t s c hlive hc h1 hcause
    change execWindowCmd t s = _
    simp only [execWindowCmd, hc, hlive, eType_eq, h1, hcause, ne_eq, not_true, Bool.not_true, decide_false, Bool.or_self,
      Bool.false_eq_true, if_false]
    rfl
  · intro t s c r hlive hc hr hcause hhod
    have hok : (dnHod c.raw && !hodOpOk (dnFmt c.raw) (s.tgt (dnTgt c.raw)).op) = false := by
      cases hd : dnHod c.raw with
      | false => rfl
      | true => simp [hhod hd]
    change execDrainCmd t s = _
    simp only [execDrainCmd, hc, hlive, hr, dEng, bit, hcause, hok, Bool.not_true, Bool.false_eq_true, if_false]
  · intro t s c hlive hc hcause
    change execSceCmd t s = _
    simp only [execSceCmd, hc, hlive, hcause, Bool.not_true, Bool.false_eq_true, if_false]
  · intro t s c k hlive hc h1 hop hcause
    change execSumwCmd t s = _
    simp only [execSumwCmd, hc, hlive, eType_eq, h1, hop, hcause, ne_eq, not_true, Bool.not_true, decide_false, Bool.or_self,
      Bool.false_eq_true, if_false]
    rfl
  · intro t s c d k hlive hc h1 hop hd hcause
    change execMatmulCmd t s = _
    simp only [execMatmulCmd, hc, hlive, eType_eq, h1, hop, hd, bit, hcause, ne_eq, not_true, Bool.not_true, decide_false, Bool.or_self,
      Bool.false_eq_true, if_false]
    rfl
  · intro t s c hlive hc h1 hop hd
    change execMatmulCmd t s = _
    simp only [execMatmulCmd, hc, hlive, eType_eq, h1, hop, hd, ne_eq, not_true, Bool.not_true, decide_false, Bool.or_self,
      Bool.false_eq_true, if_false, Option.isNone_none, if_true]
    cases arrCause c.raw false with
    | none => rfl
    | some k => rfl
  · intro t s c k hlive hc h1 hcause
    change execWindowCmd t s = _
    simp only [execWindowCmd, hc, hlive, eType_eq, h1, hcause, ne_eq, not_true, Bool.not_true, decide_false, Bool.or_self,
      Bool.false_eq_true, if_false]
    rfl
  · intro t s c r k hlive hc hr hcause
    change execDrainCmd t s = _
    simp only [execDrainCmd, hc, hlive, hr, dEng, bit, hcause, Bool.not_true, Bool.false_eq_true, if_false]
    rfl
  · intro t s c r hlive hc hr hcause hhod hop
    change execDrainCmd t s = _
    simp only [execDrainCmd, hc, hlive, hr, dEng, bit, hcause, hhod, hop, Bool.not_true, Bool.not_false, Bool.and_self,
      Bool.false_eq_true, if_false, if_true]
    rfl
  · intro t s c k hlive hc hcause
    change execSceCmd t s = _
    simp only [execSceCmd, hc, hlive, hcause, Bool.not_true, Bool.false_eq_true, if_false]
    rfl

end Sys2Proof.Machine
end

section
/-! The matrix array at work: rows, scale blocks, pixels, vectors, landings (R54, R225 to R250, R265, R269, R272). -/

namespace Sys2Proof.Machine

theorem startArr_of_begun {t : Nat} {c : EngCmd} {s : State} (h : c.begun = true) : startArr t c s = .ok s := by
  simp only [startArr, beginArr, h, Bool.not_true, Bool.false_and, Bool.false_eq_true, if_false, if_true]

theorem weightRow_of_stream : ∀ (t : Nat) (held : Held) (s : State) (c : EngCmd) (x : StreamCourse) (d : BitVec 1024) (b : ArrayEng),
    arrTurn s t = some c → c.begun = true → (s.tile t).arr.shadowFull = false →
    (s.tile t).arr.loadBlock < (if aOp c.raw = 1 then 1 else aBlocks c.raw) → scalesReady c (s.tile t).arr = true →
    aStat c.raw = false → takeRow c.raw (isDiag c.win) ((s.tile t).arr.loadRow + 1 = blockRows c) (s.tile t).arr = some (x, d, b) →
    x.poison = false →
    exec (.weightRowLoad t held) s = .next (afterRow t c (sliceCodes (aMode c.raw) (codeBits c.raw (aSCode c.raw)) d)
      ((charge t c.urgent false held s).updArr t fun a => { a with wbuf := b.wbuf, wbufAt := b.wbufAt, wbufFreed := b.wbufFreed })) := by
  intro t held s c x d b hc hbegun hshadow hblock hready hstat htake hpoison
  change execWeightRowLoad t held s = _
  simp only [execWeightRowLoad, hc, startArr_of_begun hbegun, hshadow, ge_iff_le, Nat.not_le_of_lt hblock, hready, hstat, htake, hpoison,
    decide_false, Bool.or_self, Bool.not_true, Bool.false_eq_true, if_false]

/-- Holds charged to a step change nothing of its tile's array but the count of cycles waited. -/
theorem arr_charge {α : Type} (P : ArrayEng → α) (hP : ∀ a w, P { a with waitCnt := w } = P a) (t : Nat) (u sce : Bool) (held : Held)
    (s : State) : P ((charge t u sce held s).tile t).arr = P (s.tile t).arr := by
  unfold charge chargeAll
  extract_lets s1 s2 s3
  have h1 : (s1.tile t).arr = (s.tile t).arr := State.proj_updRun Tile.arr s t t (fun _ _ => rfl) u _
  have h2 : (s2.tile t).arr = (s1.tile t).arr := State.proj_updTs Tile.arr s1 t t (fun _ _ => rfl) _
  have h3 : P (s3.tile t).arr = P (s2.tile t).arr := by
    unfold s3
    split
    · exact congrArg P (State.proj_updSce Tile.arr s2 t t (fun _ _ => rfl) _)
    · exact State.tile_updTile_proj (fun x => P x.arr) (f := fun x => { x with arr := { x.arr with waitCnt := _ } }) (fun _ => hP ..) t
  exact h3.trans (congrArg P (h2.trans h1))

theorem weightRow_of_store : ∀ (t : Nat) (held : Held) (s s2 : State) (c : EngCmd) (d : BitVec 1024),
    arrTurn s t = some c → c.begun = true → (s.tile t).arr.shadowFull = false →
    (s.tile t).arr.loadBlock < (if aOp c.raw = 1 then 1 else aBlocks c.raw) → aStat c.raw = true → aSKind c.raw ≠ 0 →
    s.tiles.length = 16 →
    rowK c.raw (s.tile t).arr.loadSlice (s.tile t).arr.loadRow < aK c.raw →
    engRead t c.urgent 1
      ((fld c.raw 192 15 + rowK c.raw (s.tile t).arr.loadSlice (s.tile t).arr.loadRow * fld c.raw 208 16) % 32768)
      (charge t c.urgent false held s) = .ok (d, s2) →
    exec (.weightRowLoad t held) s = .next (afterRow t c (sliceCodes (aMode c.raw) (codeBits c.raw (aSCode c.raw))
      (if aMode c.raw = 3 then d else d >>> (512 * aBoff c.raw)))
      (if rowK c.raw (s.tile t).arr.loadSlice (s.tile t).arr.loadRow + 1 = aK c.raw ∧ (s.tile t).arr.loadBlock + 1 = aBlocks c.raw
          ∧ aXKind c.raw ≠ 0 then retireRanges t 1 c.urgent (sideRange c) s2 else s2)) := by
  intro t held s s2 c d hc hbegun hshadow hblock hstat hkind _ hk hread
  have hready : scalesReady c (s.tile t).arr = true := by
    simp only [scalesReady, hstat, Bool.or_true, Bool.true_or, if_true]
  have hslice := arr_charge ArrayEng.loadSlice (fun _ _ => rfl) t c.urgent false held s
  have hrow := arr_charge ArrayEng.loadRow (fun _ _ => rfl) t c.urgent false held s
  have hlb := arr_charge ArrayEng.loadBlock (fun _ _ => rfl) t c.urgent false held s
  change execWeightRowLoad t held s = _
  simp only [execWeightRowLoad, hc, startArr_of_begun hbegun, hshadow, ge_iff_le, Nat.not_le_of_lt hblock, hready, hstat,
    decide_false, Bool.or_self, Bool.not_true, Bool.false_eq_true, if_false, if_true, loadFromStore, hkind, Bool.false_and, hslice, hrow,
    hlb, Nat.not_le_of_lt hk, hread, Bool.and_eq_true, decide_eq_true_eq, and_assoc]
  rfl

theorem fld_eq {n : Nat} (x : BitVec n) (lo w : Nat) : fld x lo w = x.toNat / 2 ^ lo % 2 ^ w := by
  rw [fld, Nat.shiftRight_eq_div_pow]

/-- Two updates of a tile's array, the first of which replaces it, are one that does the same to the array as it is. -/
theorem State.updArr_const_updArr {s : State} {t : Nat} {x : ArrayEng} {f g : ArrayEng → ArrayEng} (h : f x = g (s.tile t).arr) :
    (s.updArr t fun _ => x).updArr t f = s.updArr t g := by
  rw [State.updArr, State.updArr, State.updTile_updTile]
  refine congrArg (fun l => { s with tiles := l }) (upd_congr .reset ?_)
  change ({ s.tile t with arr := f x } : Tile) = { s.tile t with arr := g (s.tile t).arr }
  rw [h]

theorem scaleBlock_arrives : ∀ (t : Nat) (s : State) (c : EngCmd) (h : StreamCourse) (data : List StreamCourse),
    arrTurn s t = some c → c.begun = true → aOp c.raw ≠ 1 → aStat c.raw = false → (s.tile t).arr.loadBlock < aBlocks c.raw →
    streamHead (s.tile t).arr.sbuf 1 (aSs c.raw) = [h] → h.poison = false →
    h.data.toNat / 2 ^ 16 % 2 ^ 8 = 0 → 1 ≤ data.length → data.length ≤ 7 → h.data.toNat / 2 ^ 24 % 2 ^ 8 = data.length →
    (streamHead (s.tile t).arr.sbuf (data.length + 1) (aSs c.raw)).drop 1 = data → data.any (·.poison) = false →
    blockDue c.raw (s.tile t).arr 0 = true → h.data.extractLsb' 0 16 = (s.tile t).arr.groupCnt →
    ((List.range data.length).any fun i =>
      groupPending c (s.tile t).arr ((h.data.extractLsb' 0 16 - aTag0 c.raw).toNat + i)) = false →
    exec (.scaleBlockArrive t) s = .next (s.updArr t fun a =>
      { a with
        sbuf := dropStream (aSs c.raw) (data.length + 1) a.sbuf
        scales := data.zipIdx.foldl (fun m (x, i) =>
          putScales (((h.data.extractLsb' 0 16 - aTag0 c.raw).toNat + i) % 128) x.data m) a.scales
        groups := a.groups ++ [((h.data.extractLsb' 0 16 - aTag0 c.raw).toNat, data.length)]
        groupCnt := a.groupCnt + BitVec.ofNat 16 data.length }) := by
  intro t s c h data hc hbegun hop hstat hlb hhead hpoison hk h1 h7 hn hdata hclean hdue htag hpending
  have hshape : blockShape h.data s = ((0, data.length), s) := by
    simp only [blockShape, fld_eq, hk, hn, h1, h7, decide_true, Bool.and_self, Bool.true_or, if_true]
  have hmine : blockMine c.raw (s.tile t).arr h = true := by
    simp only [blockMine, hlb, decide_true, Bool.true_or]
  change execScaleBlockArrive t s = _
  simp only [execScaleBlockArrive, hc, hop, hstat, startArr_of_begun hbegun, hhead, fld_eq, hk, hdue, hmine, hpoison, hshape, hdata,
    hclean, ← htag, hpending, decide_false, Bool.or_self, Bool.not_true, Bool.false_and, Bool.and_false, Bool.false_eq_true,
    if_false, lt_irrefl, ne_eq, not_true, if_true, writeBlock]
  refine congrArg _ (State.updArr_const_updArr ?_)
  simp only [htag]

theorem pixel_loads : ∀ (t : Nat) (held : Held) (s s2 : State) (c : EngCmd) (w : BitVec 512) (p : Nat × Nat) (d : BitVec 1024) (lastPixel : Bool),
    (lastPixel = true ↔ (footprint c.raw (Geom.ofEntry w) (s.tile t).arr.block).length ≤ (s.tile t).arr.footAt + 1
      ∧ ∀ k, (s.tile t).arr.block < k → k < aBlocks c.raw → footprint c.raw (Geom.ofEntry w) k = []) →
    arrTurn s t = some c → c.begun = true → c.win = some w → wMap w = 2 → (s.tile t).arr.footDone = false →
    (s.tile t).arr.block < aBlocks c.raw →
    (footprint c.raw (Geom.ofEntry w) (s.tile t).arr.block)[(s.tile t).arr.footAt]? = some p →
    inRanges ((cmdRanges w).take 1) ((Geom.ofEntry w).course p) false = true →
    engRead t c.urgent 1 ((Geom.ofEntry w).course p) (charge t c.urgent false held s) = .ok (d, s2) →
    exec (.diag8LoadPhase t held) s = .next ((if lastPixel then retireRanges t 1 c.urgent (streamRange c) s2 else s2).updArr t fun a =>
      { a with
        winBuf := sset (fun _ => 0) a.winBuf a.footAt (d.setWidth 512)
        footAt := a.footAt + 1
        footDone := decide (a.footAt + 1 = (footprint c.raw (Geom.ofEntry w) (s.tile t).arr.block).length) }) := by
  intro t held s s2 c w p d lastPixel hlast hc hbegun hwin hmap hfoot hblock hp hin hread
  have hmore : (decide ((s.tile t).arr.footAt + 1 < (footprint c.raw (Geom.ofEntry w) (s.tile t).arr.block).length)
      || (List.range' ((s.tile t).arr.block + 1) (aBlocks c.raw - ((s.tile t).arr.block + 1))).any
          fun k => !(footprint c.raw (Geom.ofEntry w) k).isEmpty) = !lastPixel := by
    cases lastPixel with
    | true =>
      obtain ⟨hle, hempty⟩ := hlast.mp rfl
      rw [decide_eq_false (Nat.not_lt.mpr hle), Bool.false_or, Bool.not_true, List.any_eq_false]
      intro k hk
      rw [List.mem_range'_1] at hk
      simp [hempty k (by omega) (by omega)]
    | false =>
      by_contra h
      rw [Bool.not_false, Bool.not_eq_true, Bool.or_eq_false_iff, decide_eq_false_iff_not, List.any_eq_false] at h
      refine absurd (hlast.mpr ⟨Nat.not_lt.mp h.1, fun k h1 h2 => ?_⟩) Bool.false_ne_true
      have hk := h.2 k (List.mem_range'_1.mpr ⟨h1, by omega⟩)
      simpa using hk
  change execDiag8LoadPhase t held s = _
  simp only [execDiag8LoadPhase, hc, hwin, startArr_of_begun hbegun, hmap, hfoot, ge_iff_le, Nat.not_le_of_lt hblock, hp, hin, hread, hmore,
    ne_eq, not_true, decide_false, Bool.or_self, Bool.not_true, Bool.false_eq_true, if_false]
  cases lastPixel <;> rfl

theorem vector_streams : ∀ (t : Nat) (held : Held) (bad : Bool) (s s1 s2 : State) (c : EngCmd) (codes : List Nat)
      (ops : List (Nat × BitVec 16 × Bool)),
    arrTurn s t = some c → aOp c.raw ≠ 1 → c.begun = true → (s.tile t).arr.block < aBlocks c.raw → c.win = none →
    ((s.tile t).arr.active = true ∨ (s.tile t).arr.shadowFull = true) →
    (firstOfBank c (s.tile t).arr = true → bankFree (s.tile t).arr (bankOf c (s.tile t).arr) = true) →
    s1 = (charge t c.urgent false held s).updArr t (swapIn c) → aXKind c.raw ≠ 0 →
    readVector t c s1 = .ok (codes, s2) →
    ops = ((codes.zipIdx.filter fun p => decide (kOf c.raw (s1.tile t).arr.slice p.2 < aK c.raw)).map fun p =>
      (p.2, operand c.raw (aXCode c.raw) (aXFmt c.raw) (xScale c.raw (s2.tile t).arr p.2) p.1)) →
    exec (.arrayVectorStream t held bad) s = .next ((pushVector t c
      ((List.range 64).map fun col => columnSum c.raw (s2.tile t).arr.cells (ops.map fun p => (p.1, p.2.1)) (takesPart none) col)
      s2).markScaleSat t c.urgent (ops.any fun p => p.2.2)) := by
  intro t held bad s s1 s2 c codes ops hc hop hbegun hblock hwin hactive hbank hs1 hkind hread hops
  have hact : (!((s.tile t).arr.active || (s.tile t).arr.shadowFull)) = false := by
    rcases hactive with h | h <;> simp [h]
  have hfree : (firstOfBank c (s.tile t).arr && !bankFree (s.tile t).arr (bankOf c (s.tile t).arr)) = false := by
    cases hf : firstOfBank c (s.tile t).arr with
    | false => rfl
    | true => simp [hbank hf]
  subst hs1 hops
  change execArrayVectorStream t held bad s = _
  simp only [execArrayVectorStream, hc, hwin, hop, hbegun, ge_iff_le, Nat.not_le_of_lt hblock, hact, hfree, isDiag, decide_false,
    Bool.or_self, Bool.not_true, Bool.and_false, Bool.false_eq_true, if_false, streamVector, hkind, Bool.false_and, hread,
    Option.isSome_none]

/-- A command leaves the array's queue, or stays there: nothing else of any tile changes. -/
theorem tile_popCmd {t : Nat} {y z : State} (ht : t < y.tiles.length) (h : z = y ∨ z = popCmd t 1 y) :
    ∃ q, z.tile t = { y.tile t with arr := { (y.tile t).arr with queue := q } } ∧ ∀ j, j ≠ t → z.tile j = y.tile j := by
  rcases h with rfl | rfl
  · exact ⟨(z.tile t).arr.queue, rfl, fun _ _ => rfl⟩
  · exact ⟨_, State.tile_updTile_same _ _ _ ht, fun j hj => State.tile_updTile_ne _ _ _ _ hj⟩

/-- The array once its first landing sums have been added to their row. -/
def landedArr (l : Landing) (rest : List Landing) (old a : ArrayEng) : ArrayEng :=
  let es := (List.range 64).map fun c => accEntry l.first
    (lane (sget (fun _ => (0 : BitVec 2048)) old.acc (64 * l.bank + l.row)) 32 c) (l.sums.getD c (.fin 0 0))
  { a with
    acc := sset (fun _ => 0) a.acc (64 * l.bank + l.row) (BitVec.ofNat 2048 (packLanes 32 (es.map (·.1))))
    ovf := a.ovf || es.any (·.2), now := a.now.note 9 (es.any (·.2)), landing := rest
    bankRows := upd a.bankRows l.bank (max (l.row + 1))
    bankDone := if l.last then lput a.bankDone l.bank true else a.bankDone }

theorem execAccLand_next {t : Nat} {s : State} {l : Landing} {rest : List Landing} (hlive : s.tileLive t = true)
    (hl : (s.tile t).arr.landing = l :: rest) : ∃ z, exec (.accLand t) s = .next z
      ∧ (z = s.updArr t (landedArr l rest (s.tile t).arr) ∨ z = popCmd t 1 (s.updArr t (landedArr l rest (s.tile t).arr))) := by
  change ∃ z, execAccLand t s = _ ∧ _
  simp only [execAccLand, hl, hlive, Bool.not_true, Bool.false_eq_true, if_false]
  generalize hs1 : s.updArr t _ = s1
  rw [show s.updArr t (landedArr l rest (s.tile t).arr) = s1 from hs1]
  split
  · exact ⟨_, rfl, (ite_eq_or_eq ..).symm⟩
  · exact ⟨_, rfl, .inl rfl⟩

theorem sums_land : ∀ (t : Nat) (s : State) (l : Landing) (rest : List Landing), s.tileLive t = true → s.tiles.length = 16 →
    (s.tile t).arr.landing = l :: rest →
    ∃ z, exec (.accLand t) s = .next z
      ∧ (z.tile t).arr.landing = rest
      ∧ (z.tile t).arr.acc = sset (fun _ => 0) (s.tile t).arr.acc (64 * l.bank + l.row)
          (BitVec.ofNat 2048 (packLanes 32 ((List.range 64).map fun c =>
            f32Out (if l.first then (l.sums.getD c (.fin 0 0)).toFV
              else (f32In (((sget (fun _ => (0 : BitVec 2048)) (s.tile t).arr.acc (64 * l.bank + l.row)).toNat >>> (32 * c)) % 2 ^ 32)).add
                (l.sums.getD c (.fin 0 0)).toFV))))
      ∧ (z.tile t).arr.bankRows = upd (s.tile t).arr.bankRows l.bank (max (l.row + 1))
      ∧ (z.tile t).arr.bankDone = (if l.last then lput (s.tile t).arr.bankDone l.bank true else (s.tile t).arr.bankDone)
      ∧ (z.tile t).ts = (s.tile t).ts ∧ (z.tile t).vec = (s.tile t).vec ∧ (∀ j, j ≠ t → z.tile j = s.tile j) := by
  intro t s l rest hlive hlen hl
  have ht : t < s.tiles.length := hlen ▸ s.lt_of_tileLive hlive
  obtain ⟨z, hz, hpop⟩ := execAccLand_next hlive hl
  obtain ⟨q, htile, hothers⟩ := tile_popCmd ((upd_length ..).symm ▸ ht) hpop
  have hacc : (z.tile t).arr = { landedArr l rest (s.tile t).arr (s.tile t).arr with queue := q } := by
    rw [htile, State.updArr, State.tile_updTile_same _ _ _ ht]
  refine ⟨z, hz, ?_, ?_, ?_, ?_, ?_, ?_, fun j hj => (hothers j hj).trans (State.tile_updTile_ne _ _ _ _ hj)⟩
  · rw [hacc]
    rfl
  · rw [hacc]
    simp only [landedArr, List.map_map]
    rfl
  · rw [hacc]
    rfl
  · rw [hacc]
    rfl
  · rw [htile, State.updArr, State.tile_updTile_same _ _ _ ht]
  · rw [htile, State.updArr, State.tile_updTile_same _ _ _ ht]

/-- Settles O24. -/
theorem arrayWorkCompletes : Obligations.ArrayWorkCompletes :=
  ⟨weightRow_of_stream, weightRow_of_store, scaleBlock_arrives, pixel_loads, vector_streams, sums_land⟩

end Sys2Proof.Machine
end

section
/-! The drain and the small-channel engine at work (R242, R245 to R248, R251, R273, R277 to R280, R299). -/

namespace Sys2Proof.Machine

theorem drainRow_read (t : Nat) (held : Held) (s s1 s2 : State) (c : EngCmd) (p : BitVec 512) (q : Nat × Nat × Nat)
    (corr : Option (List Nat)) (hlive : s.tileLive t = true) (hc : engHead s t 3 = some c) (hp : c.pair = some p)
    (hq : q = drainPlace p c.pairWin (s.tile t).drn.row) (hrow : (s.tile t).drn.row + 1 < drainRows p c.pairWin)
    (hbank : (if p.toNat % 256 = 4 then (s.tile t).sce.bankDone else (s.tile t).arr.bankDone).getD (placeBank c.pairWin q) false = true)
    (hparams : withParams t c (beginCmd t 3 (charge t c.urgent (decide (p.toNat % 256 = 4)) held s)) = .ok s1)
    (hcorr : corrOf t c p q.2.2 (64 * placeBank c.pairWin q + q.2.2 % 64) s1 = .ok (corr, s2)) :
    exec (.drainRowRead t held) s = .next (rowsDone t c (s.tile t).drn.row (drainRows p c.pairWin)
      ((bankRead t (placeBank c.pairWin q) (decide (p.toNat % 256 = 4))
        (drainOut t c q.2.1 q.2.2
          (rowStages c q.2.1 (s2.tile t).drn.params corr
            (sget (fun _ => 0) (if p.toNat % 256 = 4 then (s2.tile t).sce.res else (s2.tile t).arr.acc)
              (64 * placeBank c.pairWin q + q.2.2 % 64))) false s2)).updDrn t fun d =>
                { d with row := d.row + 1, rowCnt := satAdd32 d.rowCnt 1 })) := by
  subst hq
  have hready : (if p.toNat % 256 = 4 then (s.tile t).sce.bankDone.getD (placeBank c.pairWin (drainPlace p c.pairWin (s.tile t).drn.row)) false
      else (s.tile t).arr.bankDone.getD (placeBank c.pairWin (drainPlace p c.pairWin (s.tile t).drn.row)) false) = true := by
    rw [← hbank]
    split <;> rfl
  change execDrainRowRead t held s = _
  simp only [execDrainRowRead, hc, hp, hlive, eType_eq, decide_eq_true_eq, hready, ge_iff_le,
    Nat.not_le_of_lt (Nat.lt_of_succ_lt hrow), hparams, hcorr, decide_false, Bool.or_self, Bool.not_true, Bool.false_eq_true,
    if_false, Nat.ne_of_lt hrow]

/-- Settles O25. -/
theorem drainAndSmallChannelComplete : Obligations.DrainAndSmallChannelComplete := by
  refine ⟨drainRow_read, ?_, ?_, ?_, ?_, ?_⟩
  · intro t held s s1 c p w rest r hlive hc hp hout hr hhod hwrite
    change execDrainCourseWrite t held s = _
    simp only [execDrainCourseWrite, hc, hp, hout, hr, hlive, hhod, hwrite, Bool.not_true, Bool.false_eq_true, if_false]
  · intro t held s c p w rest r hlive hc hp hout hr hhod hbuf
    change execDrainCourseWrite t held s = _
    simp only [execDrainCourseWrite, hc, hp, hout, hr, hlive, hhod, drainBufCap, ge_iff_le, Nat.not_le_of_lt hbuf, Bool.not_true,
      Bool.false_eq_true, if_false, if_true]
  · intro t held s s1 c d hc hbegun hcourse hread hmore
    change execSceLoadPhase t held s = _
    simp only [execSceLoadPhase, hc, beginSce, hbegun, if_true, ge_iff_le, Nat.not_le_of_lt (Nat.lt_of_succ_lt hmore), hcourse, hread,
      Nat.ne_of_lt hcourse, Nat.ne_of_lt hmore, decide_false, Bool.false_and, Bool.false_eq_true, if_false]
  · intro t held s s1 c p d hc hbegun hload hpixel htap hmore hp hread
    change execSceStreamTap t held false s = _
    simp only [execSceStreamTap, hc, hbegun, Nat.not_lt_of_le hload, ge_iff_le, Nat.not_le_of_lt hpixel, (Nat.ne_of_lt htap).symm, hp,
      hread, hmore, decide_false, Bool.or_self, Bool.and_false, Bool.false_and, Bool.not_true, Bool.false_eq_true, if_false, if_true]
  · intro t s c p row rest hland hc hlast
    change execSceResultLand t s = _
    simp only [execSceResultLand, hland, hc, hlast, decide_false, Bool.or_false, decide_eq_true_eq, Bool.false_eq_true, if_false]

end Sys2Proof.Machine
end

section
/-! Pulses latched by the tiles (R293, R424, R427, R453). -/

namespace Sys2Proof.Machine

/-- A device whose tiles latch `lines` one after another changes nothing but its tiles and its count of gated accesses. -/
structure Latched (lines : BitVec 64) (l : List Nat) (s z : State) : Prop where
  rest : z = { s with tiles := z.tiles, clk := { s.clk with gatedAccess := z.clk.gatedAccess } }
  length : z.tiles.length = s.tiles.length
  count : z.clk.gatedAccess = (l.filter fun t => !s.fencedTile t && s.gatedTile t).foldl (fun n _ => satAdd32 n 1) s.clk.gatedAccess
  tile : ∀ t, t < s.tiles.length →
    z.tile t = if t ∈ l ∧ s.fencedTile t = false ∧ s.gatedTile t = false then latchLines s.cycle lines (s.tile t) else s.tile t

theorem latchAt_latched (lines : BitVec 64) (s : State) (t : Nat) (ht : t < s.tiles.length) : Latched lines [t] s (latchAt lines s t) := by
  have hnot (h : ¬ (s.fencedTile t = false ∧ s.gatedTile t = false)) (n : Nat) : ¬ (n ∈ [t] ∧ s.fencedTile n = false ∧ s.gatedTile n = false) :=
    fun hn => h (List.mem_singleton.mp hn.1 ▸ hn.2)
  cases hf : s.fencedTile t with
  | true =>
    rw [show latchAt lines s t = s by simp [latchAt, hf]]
    exact ⟨rfl, rfl, by simp [hf], fun n _ => (if_neg (hnot (by simp [hf]) n)).symm⟩
  | false =>
    cases hg : s.gatedTile t with
    | true =>
      rw [show latchAt lines s t = s.countGated by simp [latchAt, hf, hg]]
      exact ⟨rfl, rfl, by simp [hf, hg, State.countGated], fun n _ => (if_neg (hnot (by simp [hg]) n)).symm⟩
    | false =>
      rw [show latchAt lines s t = s.updTile t (latchLines s.cycle lines) by simp [latchAt, hf, hg]]
      refine ⟨rfl, upd_length .., by simp [hf, hg, State.updTile], fun n _ => ?_⟩
      by_cases hn : n = t
      · rw [hn, if_pos ⟨.head _, hf, hg⟩]
        exact State.tile_updTile_same _ _ _ ht
      · rw [if_neg fun h => hn (List.mem_singleton.mp h.1)]
        exact State.tile_updTile_ne _ _ _ _ hn

theorem latchAll (lines : BitVec 64) : ∀ (l : List Nat) (s : State), l.Nodup → (∀ t ∈ l, t < s.tiles.length) →
    Latched lines l s (l.foldl (latchAt lines) s)
  | [], s, _, _ => ⟨rfl, rfl, rfl, fun _ _ => (if_neg fun h => absurd h.1 List.not_mem_nil).symm⟩
  | a :: l, s, hnd, hl => by
    have h1 := latchAt_latched lines s a (hl a (.head _))
    rw [List.foldl_cons]
    generalize latchAt lines s a = s1 at h1
    have h2 := latchAll lines l s1 hnd.of_cons fun t ht => h1.length.symm ▸ hl t (.tail _ ht)
    generalize l.foldl (latchAt lines) s1 = z at h2
    have hf (t : Nat) : s1.fencedTile t = s.fencedTile t := by rw [h1.rest]; rfl
    have hg (t : Nat) : s1.gatedTile t = s.gatedTile t := by rw [h1.rest]; rfl
    have hc : s1.cycle = s.cycle := by rw [h1.rest]
    refine ⟨?_, h2.length.trans h1.length, ?_, fun t ht => ?_⟩
    · rw [h2.rest, h1.rest]
    · simp only [h2.count, h1.count, hf, hg, ← List.foldl_append, ← List.filter_append, List.singleton_append]
    · rw [h2.tile t (h1.length.symm ▸ ht), h1.tile t ht, hf, hg, hc]
      by_cases hta : t = a
      · have : t ∉ l := hta ▸ (List.nodup_cons.mp hnd).1
        simp [hta, (List.nodup_cons.mp hnd).1]
      · simp [hta]

theorem tileLive_iff {s : State} (h : s.alive = true) (t : Nat) :
    s.tileLive t = true ↔ t < 16 ∧ s.fencedTile t = false ∧ s.gatedTile t = false := by
  simp only [State.tileLive, h, Bool.true_and, Bool.and_eq_true, decide_eq_true_eq, Bool.not_eq_true', and_assoc]

theorem execEvtLatch_of_pulse {s : State} {k : Nat} {lines : BitVec 64} {rest : List (Nat × BitVec 64)}
    (hp : s.te.pulses = (k, lines) :: rest) (halive : s.alive = true) : exec .evtLatch s = .next ((List.range 16).foldl (latchAt lines)
      { s with te := if s.cycle < k then { s.te with pulses := rest, out := s.te.out.map fun p => p.hear lines }
                     else { s.te with pulses := rest } }) := by
  change execEvtLatch s = _
  simp only [execEvtLatch, halive, if_true, latchPulses, hp]
  rfl

/-- Settles O26. -/
theorem eventLatchCompletes : Obligations.EventLatchCompletes := by
  refine ⟨fun s k lines rest hp hlen halive => ?_, fun s halive => ?_⟩
  · rw [execEvtLatch_of_pulse hp halive]
    generalize hte : (if s.cycle < k then _ else _ : TimeEvt) = te
    have h := latchAll lines (List.range 16) { s with te := te } List.nodup_range fun t ht => hlen.symm ▸ List.mem_range.mp ht
    generalize (List.range 16).foldl (latchAt lines) { s with te := te } = z at h
    obtain ⟨hrest, hl, hcount, htile⟩ := h
    have hz : z.te = te ∧ z.hod = s.hod ∧ z.ddr = s.ddr ∧ z.quoin = s.quoin := by
      rw [hrest]
      exact ⟨rfl, rfl, rfl, rfl⟩
    obtain ⟨hte', hhod, hddr, hquoin⟩ := hz
    refine ⟨z, rfl, hte', fun t ht => ?_, fun t ht => ?_, hcount, hhod, hddr, hquoin⟩
    · have hlive := (tileLive_iff halive t).mp ht
      rw [htile t (hlen.symm ▸ hlive.1), if_pos ⟨List.mem_range.mpr hlive.1, hlive.2⟩]
      exact ⟨rfl, rfl, rfl, rfl, rfl⟩
    · by_cases h16 : t < 16
      · rw [htile t (hlen.symm ▸ h16), if_neg fun h => Bool.false_ne_true (ht.symm.trans ((tileLive_iff halive t).mpr ⟨h16, h.2⟩))]
        rfl
      · have hle : 16 ≤ t := Nat.le_of_not_lt h16
        exact (List.getD_eq_default _ _ ((hl.trans hlen).le.trans hle)).trans (List.getD_eq_default _ _ (hlen.le.trans hle)).symm
  · change execEvtLatch s = _
    simp only [execEvtLatch, halive, Bool.false_eq_true, if_false]

end Sys2Proof.Machine
end

section
/-! Courses of the DMA engine on the mesh (R285, R376, R389, R527). -/

namespace Sys2Proof.Machine

/-- Work of a channel that has not failed: its descriptor is all zeros. -/
def soundWork : DmaWork :=
  { ring := 0, desc := 0, slot := 0, bad := false, elem := 0, read := 0, put := 0, written := 0, funnel := [], cause := 0, srcFault := false
    faultAddr := 0, faultAt := 0 }

/-- A running device whose channel 0 has taken up work after an earlier descriptor of it was dropped, of which a course is still on its
way to tile 0. -/
def droppedPutState : State :=
  { State.reset with
    clk := { State.reset.clk with gate := 1, safeHold := false }
    sec := { State.reset.sec with resetLow := false, tripped := false }
    cycle := 1
    dma := { State.reset.dma with
      ch := upd State.reset.dma.ch 0 fun q => { q with work := some soundWork }
      flight := [⟨0, false, 0, 0, [], 0, 0, ⟨[], 0, 0, 0⟩⟩] } }

/-- The course of the dropped descriptor. -/
def droppedPut : DmaPut := ⟨0, false, 0, 0, [], 0, 0, ⟨[], 0, 0, 0⟩⟩

/-- The course arrives with a parity error: the channel's work is not its own and stays as it is. -/
theorem work_of_droppedPut {z : State} (h : exec (.mortarCourseArrive (.dma 0) ⟨0, 0⟩ true) droppedPutState = .next z) :
    z.flt.devFault = false ∧ 0 < z.dma.ch.length ∧ (z.dma.chan 0).work = some soundWork := by
  obtain rfl := Host.Outcome.next.inj h
  have hhere : putHere droppedPutState 0 0 = some droppedPut := by decide
  have hfence : droppedPutState.fencedTile 0 = false := by decide
  have hgate : droppedPutState.gatedTile 0 = false := by decide
  have hput : putArrive 0 0 0 true droppedPutState = countMorPerr (countTransit 0 0 (inflightSub 0 0
      { droppedPutState with dma := { droppedPutState.dma with flight := [] } })) := by
    simp only [putArrive, hhere]
    rw [if_neg (by simp [droppedPut, hfence]), if_pos (by simp [droppedPut, hgate])]
    rfl
  change (putArrive 0 0 0 true droppedPutState).flt.devFault = false ∧ 0 < (putArrive 0 0 0 true droppedPutState).dma.ch.length
    ∧ ((putArrive 0 0 0 true droppedPutState).dma.chan 0).work = some soundWork
  rw [hput]
  exact ⟨rfl, Nat.zero_lt_succ _, rfl⟩

/-- A channel that keeps its work in a device without a fault has that work. -/
theorem work_keepWork {c : Nat} {w : DmaWork} {s z : State} (h : z = keepWork c w s) (hf : z.flt.devFault = false)
    (hc : c < z.dma.ch.length) : (z.dma.chan c).work = some w := by
  subst h
  unfold keepWork at *
  cases hs : s.flt.devFault with
  | true =>
    rw [if_pos hs] at hf
    exact absurd (hs.symm.trans hf) (by decide)
  | false =>
    rw [if_neg (by simp [hs])] at *
    exact congrArg DmaChan.work (upd_getD_same _ _ _ _ (by simpa [State.updDch, upd_length] using hc))

theorem DmaWork.step_cause (w : DmaWork) : w.step.cause = w.cause := by
  unfold DmaWork.step
  extract_lets through
  split
  · split
    · rfl
    · rfl
  · rfl

theorem landed_soundWork : (soundWork.landed 5 0 0 0 0).cause = 5 := by
  have hfifo : xFifo soundWork.desc = none := by simp [xFifo, soundWork, xDst, aSpace, fld]
  have hfirst (p : Nat) : soundWork.faultsFirst p = true := rfl
  simp only [DmaWork.landed, hfifo, Option.isSome_none, Bool.and_false, Bool.false_eq_true, if_false, DmaWork.fault, hfirst, if_true,
    ne_eq, OfNat.ofNat_ne_zero, not_false_eq_true]

/-- Refutes O27: the work of a channel fails only for a course of its own, and the statement asks it of a dropped descriptor's as well. -/
theorem not_mortarCommandsComplete : ¬ Obligations.MortarCommandsComplete := by
  rintro ⟨⟨-, -, -, -, h, -⟩, -⟩
  obtain ⟨z, s1, hz, hkeep, -⟩ := h 0 ⟨0, 0⟩ droppedPutState droppedPut soundWork (by decide) (by decide) rfl
  obtain ⟨hf, hc, hwork⟩ := work_of_droppedPut hz
  rw [show droppedPut.byte = 0 from rfl, ite_self] at hkeep
  have hcause := congrArg DmaWork.cause (Option.some.inj ((work_keepWork hkeep hf hc).symm.trans hwork))
  rw [apply_ite DmaWork.cause, DmaWork.step_cause, ite_self] at hcause
  exact absurd (landed_soundWork.symm.trans hcause) (by decide)

end Sys2Proof.Machine
end

section
/-! Fields of words, and the targets of the hod (R294, R304, R305, R314). -/

namespace Sys2Proof.Machine

/-! ### Fields of words -/

theorem setFld_eq {n : Nat} (x : BitVec n) (lo w v : Nat) : setFld x lo w v
    = BitVec.ofNat n (2 ^ lo * (2 ^ w * (x.toNat / 2 ^ lo / 2 ^ w) + v % 2 ^ w) + x.toNat % 2 ^ lo) := by
  have hx := Nat.div_add_mod x.toNat (2 ^ lo)
  have hm := Nat.div_add_mod (x.toNat / 2 ^ lo) (2 ^ w)
  have hsplit : x.toNat = 2 ^ lo * (2 ^ w * (x.toNat / 2 ^ lo / 2 ^ w)) + 2 ^ lo * (x.toNat / 2 ^ lo % 2 ^ w) + x.toNat % 2 ^ lo := by
    rw [← Nat.mul_add, hm, hx]
  unfold setFld
  dsimp only
  rw [Nat.shiftRight_eq_div_pow, Nat.shiftLeft_eq, Nat.shiftLeft_eq, Nat.mul_comm (x.toNat / 2 ^ lo % 2 ^ w),
    Nat.mul_comm (v % 2 ^ w), Nat.mul_add]
  refine congrArg _ ?_
  generalize 2 ^ lo * (2 ^ w * (x.toNat / 2 ^ lo / 2 ^ w)) = a at *
  generalize 2 ^ lo * (x.toNat / 2 ^ lo % 2 ^ w) = b at *
  omega

theorem getLsbD_setFld {n : Nat} (x : BitVec n) (lo w v i : Nat) : (setFld x lo w v).getLsbD i
    = (decide (i < n) && if lo ≤ i ∧ i < lo + w then v.testBit (i - lo) else x.getLsbD i) := by
  rw [setFld_eq, BitVec.getLsbD_ofNat, Nat.testBit_two_pow_mul_add _ (Nat.mod_lt _ (Nat.two_pow_pos lo))]
  refine congrArg _ ?_
  by_cases hlo : i < lo
  · rw [if_pos hlo, if_neg (by omega), Nat.testBit_mod_two_pow, decide_eq_true hlo, Bool.true_and]
    rfl
  · rw [if_neg hlo, Nat.testBit_two_pow_mul_add _ (Nat.mod_lt _ (Nat.two_pow_pos w)), Nat.testBit_mod_two_pow]
    by_cases hw : i < lo + w
    · rw [if_pos (by omega), if_pos ⟨by omega, hw⟩, decide_eq_true (by omega), Bool.true_and]
    · rw [if_neg (by omega), if_neg (by omega), Nat.testBit_div_two_pow, Nat.testBit_div_two_pow]
      exact congrArg x.toNat.testBit (by omega)

theorem getLsbD_setBit {n : Nat} (x : BitVec n) (i j : Nat) (b : Bool) :
    (setBit x i b).getLsbD j = (decide (j < n) && if j = i then b else x.getLsbD j) := by
  rw [setBit, getLsbD_setFld]
  refine congrArg _ ?_
  by_cases hj : j = i
  · rw [if_pos hj, if_pos (by omega), hj, Nat.sub_self]
    cases b <;> rfl
  · rw [if_neg hj, if_neg (by omega)]

theorem testBit_fld {n : Nat} (x : BitVec n) (lo w i : Nat) : (fld x lo w).testBit i = (decide (i < w) && x.getLsbD (lo + i)) := by
  rw [fld, Nat.testBit_mod_two_pow, Nat.testBit_shiftRight]
  rfl

/-- A field that has been written reads what was written. -/
theorem fld_setFld {n : Nat} (x : BitVec n) {lo w v : Nat} (hn : lo + w ≤ n) (hv : v < 2 ^ w) : fld (setFld x lo w v) lo w = v := by
  refine Nat.eq_of_testBit_eq fun i => ?_
  rw [testBit_fld, getLsbD_setFld]
  by_cases hi : i < w
  · rw [decide_eq_true hi, decide_eq_true (show lo + i < n by omega), if_pos (by omega), Nat.add_sub_cancel_left, Bool.true_and, Bool.true_and]
  · rw [decide_eq_false hi, Bool.false_and, Nat.testBit_lt_two_pow (hv.trans_le (Nat.pow_le_pow_right (by omega) (by omega)))]

/-- Writing a field changes no bit that a mask without it selects. -/
theorem setFld_and {n : Nat} (x m : BitVec n) {lo w v : Nat} (hm : ∀ i, lo ≤ i → i < lo + w → m.getLsbD i = false) :
    setFld x lo w v &&& m = x &&& m := by
  refine BitVec.eq_of_getLsbD_eq fun i hi => ?_
  rw [BitVec.getLsbD_and, BitVec.getLsbD_and, getLsbD_setFld, decide_eq_true hi, Bool.true_and]
  by_cases h : lo ≤ i ∧ i < lo + w
  · rw [hm i h.1 h.2, Bool.and_false, Bool.and_false]
  · rw [if_neg h]

/-! ### Targets of the hod -/

theorem State.tgt_updTgt_same (s : State) {n : Nat} (f : HodTarget → HodTarget) (h : n < s.hod.tgts.length) :
    (s.updTgt n f).tgt n = f (s.tgt n) := upd_getD_same _ _ _ _ h

theorem State.tgt_updTgt_ne (s : State) {n j : Nat} (f : HodTarget → HodTarget) (h : j ≠ n) : (s.updTgt n f).tgt j = s.tgt j :=
  upd_getD_ne _ _ _ _ _ h

/-- What an update of a target leaves of every target. -/
theorem State.tgt_updTgt_proj {α : Type} (P : HodTarget → α) {s : State} {n : Nat} {f : HodTarget → HodTarget} (hf : ∀ g, P (f g) = P g)
    (j : Nat) : P ((s.updTgt n f).tgt j) = P (s.tgt j) := by
  by_cases hj : j = n
  · subst hj
    by_cases hn : j < s.hod.tgts.length
    · rw [State.tgt_updTgt_same s f hn, hf]
    · rw [State.tgt, State.tgt, List.getD_eq_default _ _ (by rw [State.updTgt, upd_length]; omega), List.getD_eq_default _ _ (by omega)]
  · rw [State.tgt_updTgt_ne s f hj]

theorem State.updTgt_updTgt (s : State) (n : Nat) (f g : HodTarget → HodTarget) :
    (s.updTgt n f).updTgt n g = s.updTgt n (g ∘ f) := by
  simp only [State.updTgt, upd_upd]

theorem hTgt_lt (e : BitVec 512) : hTgt e < 64 := Nat.mod_lt _ (by decide)

/-- With no granted course unapplied a declaration takes effect at once. -/
theorem declare_of_idle {s : State} (n : Nat) (a b : BitVec 64) (h : s.hod.flight = []) :
    declare n a b s = s.updTgt n fun g => { g with regA := a, regB := b }.open a b := by
  unfold declare
  dsimp only
  rw [if_pos (by rw [State.updTgt, h]; rfl), State.updTgt_updTgt]
  rfl

/-- With courses granted and unapplied it waits for them. -/
theorem declare_of_busy {s : State} (n : Nat) (a b : BitVec 64) (h : s.hod.flight ≠ []) :
    declare n a b s = { s.updTgt n (fun g => { g with regA := a, regB := b }) with
      hod := { (s.updTgt n fun g => { g with regA := a, regB := b }).hod with
        decls := s.hod.decls ++ [{ tgt := n, a := a, b := b, ahead := s.hod.flight.length }] } } := by
  unfold declare
  exact if_neg fun he => h (List.isEmpty_iff.mp he)

/-- A declaration that waits changes the registers of its target alone. -/
theorem tgt_declare_of_busy {α : Type} (P : HodTarget → α) (hP : ∀ g a b, P { g with regA := a, regB := b } = P g) {s : State} (n : Nat)
    (a b : BitVec 64) (h : s.hod.flight ≠ []) (j : Nat) : P ((declare n a b s).tgt j) = P (s.tgt j) := by
  rw [declare_of_busy n a b h]
  exact State.tgt_updTgt_proj P (f := fun g => { g with regA := a, regB := b }) (fun _ => hP ..) j

theorem execHodDeclare_of_passed {t : Nat} {s : State} {c : EngCmd} {r : StepRun} (hc : hodHead s t = some c)
    (hop : c.raw.toNat / 2 ^ 8 % 2 ^ 2 = 0) (hcause : hodCause s c.raw = none) (hr : s.run t c.urgent = some r) (hg : s.gated .hod = false) :
    exec (.hodDeclare t) s = .next (popCmd t 4 (declare (hTgt c.raw) (declA c.raw (dEpoch r.desc)) (declB c.raw) s)) := by
  have hop : hOp c.raw = 0 := by rw [hOp, fld_eq, hop]
  change execHodDeclare t s = _
  simp only [execHodDeclare, hc, hop, hcause, hr, hg, ne_eq, not_true, decide_false, Bool.false_and, Bool.false_eq_true, if_false]

/-- A command at the hod port's head stands in a tile that exists. -/
theorem tile_exists_of_hodHead {t : Nat} {s : State} {c : EngCmd} (hc : hodHead s t = some c) : t < s.tiles.length := by
  refine State.tile_exists fun h => ?_
  rw [hodHead, h] at hc
  cases hc

/-- What a write of HOD_TGT_B leaves in it, whatever its STATE field asks for. -/
def writtenB (s : State) (n : Nat) (v : BitVec 64) : BitVec 64 := ((s.tgt n).regB &&& ~~~0x7F3FFF#64) ||| (v &&& 0x7F3FFF#64)

theorem tgtBWrite_eq {n k : Nat} {v : BitVec 64} {s : State} (hn : n < s.hod.tgts.length) (hk : k < 2) :
    tgtBWrite n (BitVec.allOnes 64) (setFld v 24 2 k) s
      = (let s1 := s.updTgt n fun g => { g with regB := writtenB s n v }
         if k = 0 then freeTgt n s1
         else if tgOp (s.tgt n).regA > 4 then hodErr 0 2 0 s1
         else if declBad (s.tgt n).regA (writtenB s n v) then hodErr 0 3 0 s1
         else declare n (s.tgt n).regA (writtenB s n v) s1) := by
  have hmask : setFld v 24 2 k &&& BitVec.allOnes 64 &&& tgBMask = v &&& 0x7F3FFF#64 := by
    rw [BitVec.and_allOnes]
    refine setFld_and v tgBMask fun i h1 h2 => ?_
    obtain rfl | rfl : i = 24 ∨ i = 25 := by omega
    · decide
    · decide
  have hs1 : (s.updTgt n fun g => { g with regB := (g.regB &&& ~~~(BitVec.allOnes 64 &&& tgBMask)) |||
      (setFld v 24 2 k &&& BitVec.allOnes 64 &&& tgBMask) }) = s.updTgt n fun g => { g with regB := writtenB s n v } := by
    rw [hmask, BitVec.allOnes_and]
    refine congrArg (fun l => { s with hod := { s.hod with tgts := l } }) (upd_congr .reset ?_)
    rfl
  have hfld : fld (setFld v 24 2 k) 24 2 = k := fld_setFld v (by decide) (by omega)
  have hbit : (!bit (BitVec.allOnes 64) 24) = false := by decide
  unfold tgtBWrite
  rw [hs1, hfld, hbit]
  simp only [Bool.false_eq_true, if_false, State.tgt_updTgt_same s _ hn]
  obtain rfl | rfl : k = 0 ∨ k = 1 := by omega
  · rfl
  · rfl

theorem came_hod (who : Who) (s : State) : (Claims.came who s).hod = s.hod := by cases who <;> rfl

theorem came_tiles (who : Who) (s : State) : (Claims.came who s).tiles = s.tiles := by cases who <;> rfl

theorem came_tgt (who : Who) (s : State) (n : Nat) : (Claims.came who s).tgt n = s.tgt n := by cases who <;> rfl

/-- A write that declares target `n`, or frees it. -/
theorem tgtWrite_next {who : Who} {n k : Nat} {v : BitVec 64} {s z : State} (hn : n < 64) (hlen : s.hod.tgts.length = 64) (hk : k < 2)
    (h : Claims.Writable who .hod .yes s)
    (hz : (let s1 := (Claims.came who s).updTgt n fun g => { g with regB := writtenB s n v }
         if k = 0 then freeTgt n s1
         else if tgOp (s.tgt n).regA > 4 then hodErr 0 2 0 s1
         else if declBad (s.tgt n).regA (writtenB s n v) then hodErr 0 3 0 s1
         else declare n (s.tgt n).regA (writtenB s n v) s1) = z) :
    (.next (if n < 64 then regWrite who .hod .yes (tgtBWrite n (BitVec.allOnes 64) (setFld v 24 2 k)) s else s) : Out) = .next z := by
  refine regWrite_next_of hn h _ ?_
  rw [tgtBWrite_eq (by rw [came_hod, hlen]; exact hn) hk, writtenB, came_tgt]
  exact hz

/-- Settles O28. -/
theorem hodTargetsComplete : Obligations.HodTargetsComplete := by
  refine ⟨fun t s c r hc hop hcause hr hg hf hlen => ?_, fun t s c r hc hop hcause hr hg hf => ?_,
    fun who n v s hn hw hf hlen hop hbad => ?_, fun who n v s hn hw hf hlen hop hbad => ?_, fun who n v s hn hw hlen => ?_⟩
  · refine ⟨_, execHodDeclare_of_passed hc hop hcause hr hg, ?_⟩
    rw [declare_of_idle _ _ _ hf]
    refine ⟨State.tgt_updTgt_same s _ (hlen ▸ hTgt_lt _), fun n hn => State.tgt_updTgt_ne s _ hn, rfl, ?_⟩
    exact congrArg (fun x => x.hp.queue) (State.tile_updTile_same _ _ _ (tile_exists_of_hodHead hc))
  · refine ⟨_, execHodDeclare_of_passed hc hop hcause hr hg, ?_⟩
    refine ⟨congrArg (fun z => z.hod.decls) (declare_of_busy _ _ _ hf), fun n => ⟨?_, ?_, ?_⟩⟩
    · exact tgt_declare_of_busy HodTarget.state (fun _ _ _ => rfl) _ _ _ hf n
    · exact tgt_declare_of_busy HodTarget.curA (fun _ _ _ => rfl) _ _ _ hf n
    · exact tgt_declare_of_busy HodTarget.granted (fun _ _ _ => rfl) _ _ _ hf n
  · have hfl (f : HodTarget → HodTarget) : ((Claims.came who s).updTgt n f).hod.flight = [] := by cases who <;> exact hf
    refine ⟨_, tgtWrite_next hn hlen (by decide) hw rfl, ?_⟩
    simp only [Nat.one_ne_zero, if_false, Nat.not_lt_of_le hop, writtenB, hbad, Bool.false_eq_true]
    rw [declare_of_idle _ _ _ (hfl _), State.updTgt_updTgt]
    refine ⟨?_, fun j hj => (State.tgt_updTgt_ne _ _ hj).trans (came_tgt ..), came_tiles ..⟩
    rw [State.tgt_updTgt_same _ _ (by rw [came_hod, hlen]; exact hn), came_tgt]
    rfl
  · have hfl (f : HodTarget → HodTarget) : ((Claims.came who s).updTgt n f).hod.flight ≠ [] := by cases who <;> exact hf
    refine ⟨_, tgtWrite_next hn hlen (by decide) hw rfl, ?_⟩
    simp only [Nat.one_ne_zero, if_false, Nat.not_lt_of_le hop, writtenB, hbad, Bool.false_eq_true]
    rw [declare_of_busy _ _ _ (hfl _), State.updTgt_updTgt]
    refine ⟨?_, ?_, fun j hj => (State.tgt_updTgt_ne _ _ hj).trans (came_tgt ..), came_tiles ..⟩
    · refine (State.tgt_updTgt_same _ _ (by rw [came_hod, hlen]; exact hn)).trans ?_
      rw [came_tgt]
      rfl
    · cases who <;> rfl
  · have hn' : n < (Claims.came who s).hod.tgts.length := by rw [came_hod, hlen]; exact hn
    refine ⟨_, tgtWrite_next hn hlen (by decide) hw rfl, ?_⟩
    simp only [if_true, freeTgt, State.updTgt_updTgt]
    have hsame := State.tgt_updTgt_same _ ((fun g : HodTarget => { g with state := 0, done := 0, granted := [], combined := [], staged := [] })
      ∘ fun g => { g with regB := writtenB s n v }) hn'
    refine ⟨congrArg HodTarget.state hsame, congrArg HodTarget.done hsame, congrArg HodTarget.granted hsame,
      congrArg HodTarget.combined hsame, congrArg HodTarget.staged hsame, fun j hj => (State.tgt_updTgt_ne _ _ hj).trans (came_tgt ..), ?_,
      came_tiles ..⟩
    cases who <;> rfl

end Sys2Proof.Machine
end

section
/-! What the hod sends, takes in, applies and folds (R285, R296 to R306). -/

namespace Sys2Proof.Machine

/-! ### Shared facts -/

/-- What is stored and is not the value by default reads back, whatever the map. -/
theorem sget_sset_of_ne {β : Type} [DecidableEq β] {d : Nat → β} {a : Nat} {v : β} (hv : v ≠ d a) :
    ∀ m : List (Nat × β), sget d (sset d m a v) a = v
  | [] => by simp [sset, sget, hv]
  | (k, w) :: r => by
    unfold sset
    split
    · simp [sget]
    · split
      · simp [sget]
      · next hne => rw [sget, if_neg fun h => hne h.symm, sget_sset_of_ne hv r]

theorem setBit_ne_zero {n i : Nat} (x : BitVec n) (h : i < n) : setBit x i true ≠ 0 := fun hz => by
  have hi : (setBit x i true).getLsbD i = (0#n).getLsbD i := by rw [hz]; rfl
  rw [getLsbD_setBit, decide_eq_true h, if_pos rfl, BitVec.getLsbD_zero] at hi
  cases hi

theorem addHolds_kept (now : Nat) (l : List (Nat × Nat)) (r : StepRun) :
    (addHolds now l r).start = r.start ∧ (addHolds now l r).runs = r.runs := by
  refine foldl_keeps (fun x : StepRun × Nat => x.1.start = r.start ∧ x.1.runs = r.runs) _ (fun c p h => ?_) l (r, now) ⟨rfl, rfl⟩
  unfold addSrc
  extract_lets lo new
  split
  · exact h
  · exact h

/-- A charge of the crossing to its sender changes the sender's step and the mortar's counters. -/
theorem chargeSender_eq (t : Nat) (u : Bool) (start j l : Nat) (s : State) : ∃ tiles, chargeSender t u start j l s
    = { s with tiles := tiles, mor := { s.mor with linkWait := satAdd32 s.mor.linkWait l, jitterCnt := satAdd32 s.mor.jitterCnt j } } := by
  unfold chargeSender countTransit
  split
  · exact ⟨_, rfl⟩
  · exact ⟨_, rfl⟩

/-- It changes nothing of a tile but its step unit. -/
theorem tile_chargeSender {α : Type} (P : Tile → α) (hP : ∀ x y, P { x with st := y } = P x) (t : Nat) (u : Bool) (start j l : Nat)
    (s : State) (n : Nat) : P ((chargeSender t u start j l s).tile n) = P (s.tile n) := by
  unfold chargeSender countTransit
  split
  · exact State.proj_updRun P s t n hP u _
  · rfl

theorem chargeSender_length (t : Nat) (u : Bool) (start j l : Nat) (s : State) :
    (chargeSender t u start j l s).tiles.length = s.tiles.length := by
  unfold chargeSender countTransit
  split
  · exact upd_length ..
  · rfl

/-- A run is the same run after its holds have been charged. -/
theorem ownRun_chargeSender (t : Nat) (u : Bool) (start j l : Nat) (s : State) (t' : Nat) (u' : Bool) (a b : Nat) :
    ownRun (chargeSender t u start j l s) t' u' a b = ownRun s t' u' a b := by
  have hown (z : State) : ownRun z t' u' a b = match (z.run t' u').map fun r => (r.start, r.runs) with
      | some p => decide (p.1 = a) && decide (p.2 = b)
      | none => false := by
    unfold ownRun
    cases z.run t' u' <;> rfl
  have hrun : ((chargeSender t u start j l s).run t' u').map (fun r => (r.start, r.runs)) = (s.run t' u').map fun r => (r.start, r.runs) := by
    have hkept (now : Nat) (h : List (Nat × Nat)) (o : Option StepRun) :
        (o.map (addHolds now h)).map (fun r => (r.start, r.runs)) = o.map fun r => (r.start, r.runs) := by
      cases o with
      | none => rfl
      | some r => exact congrArg some (Prod.ext (addHolds_kept now h r).1 (addHolds_kept now h r).2)
    unfold chargeSender
    split
    · refine State.tile_updTile_proj (fun x => (if u' then x.st.runU else x.st.runN).map fun r => (r.start, r.runs)) (fun x => ?_) t'
      cases u with
      | false => cases u' with
        | false => exact hkept ..
        | true => rfl
      | true => cases u' with
        | false => rfl
        | true => exact hkept ..
    · rfl
  rw [hown, hown, hrun]

/-! ### Sends and broadcasts -/

theorem hodSend_completes (t : Nat) (held : Held) (s s1 : State) (c : EngCmd) (r : StepRun) (d : BitVec 1024) (hc : hodHead s t = some c)
    (hop : c.raw.toNat / 2 ^ 8 % 2 ^ 2 = 1) (hchecked : c.checked = true) (hissued : c.issued = true) (hr : s.run t c.urgent = some r)
    (hbuf : (s.tile t).hp.buf.length < 8)
    (hread : engRead t c.urgent 4 (((cmdRange c.raw 0x28).start + (s.tile t).hp.sendAt) % 32768)
      (beginCmd t 4 (charge t c.urgent false held s)) = .ok (d, s1)) :
    exec (.hodSend t held) s = .next
      (let z := pushHod t (hodCourseOf t c.urgent r (hTgt c.raw) (c.raw.toNat / 2 ^ 32 % 2 ^ 14 + (s.tile t).hp.sendAt) d) s1
       if (s.tile t).hp.sendAt + 1 = (cmdRange c.raw 0x28).length then
         popCmd t 4 (retireRanges t 4 c.urgent [cmdRange c.raw 0x28] (z.updTile t fun x => { x with hp := { x.hp with sendAt := 0 } }))
       else z.updTile t fun x => { x with hp := { x.hp with sendAt := x.hp.sendAt + 1 } }) := by
  have hop : hOp c.raw = 1 := by rw [hOp, fld_eq, hop]
  change execHodSend t held s = _
  simp only [execHodSend, hc, hop, hchecked, hissued, hr, drainBufCap, ge_iff_le, Nat.not_le_of_lt hbuf, hread, ne_eq, not_true,
    Bool.not_true, Bool.false_eq_true, if_false, hBase, fld_eq]
  split
  · rfl
  · rfl

theorem hodBroadcast_begins (t : Nat) (s : State) (c : EngCmd) (hc : hodHead s t = some c) (hop : c.raw.toNat / 2 ^ 8 % 2 ^ 2 = 2)
    (hbegun : c.begun = false) (hcause : hodCause s c.raw = none) :
    ∃ z, exec (.hodBroadcast t) s = .next z
      ∧ (z.tile t).hp = { (s.tile t).hp with
          queue := { c with checked := true, issued := true, begun := true } :: (s.tile t).hp.queue.drop 1, bcastAt := 0 }
      ∧ (∀ j, j ≠ t → z.tile j = s.tile j) ∧ z.hod = s.hod := by
  have hop : hOp c.raw = 2 := by rw [hOp, fld_eq, hop]
  have hq : ∃ q, (s.tile t).hp.queue = c :: q := by
    unfold hodHead at hc
    split at hc
    · next c' q hq =>
      split at hc
      · exact ⟨q, by rw [hq, Option.some.inj hc]⟩
      · cases hc
    · cases hc
  obtain ⟨q, hq⟩ := hq
  change ∃ z, execHodBroadcast t s = _ ∧ _
  simp only [execHodBroadcast, hc, hop, hbegun, hcause, ne_eq, not_true, decide_false, Bool.or_self, Bool.false_eq_true, if_false]
  refine ⟨_, rfl, ?_, fun j hj => ?_, rfl⟩
  · rw [State.updQ, State.updTile_updTile, State.tile_updTile_same _ _ _ (tile_exists_of_hodHead hc)]
    simp only [Function.comp_apply, setEngQ, engQ, hq, List.drop_succ_cons, List.drop_zero]
  · rw [State.updQ, State.updTile_updTile, State.tile_updTile_ne _ _ _ _ hj]

/-- An update that leaves a tile's stored bytes leaves every tile's. -/
theorem bytes_updTile (t : Nat) (s : State) {f : Tile → Tile} (hf : ∀ x, (f x).ts.bytes = x.ts.bytes) (j : Nat) :
    ((s.updTile t f).tile j).ts.bytes = (s.tile j).ts.bytes := State.tile_updTile_proj (fun x => x.ts.bytes) hf j

/-- Courses that set out to tiles change the counts of what is on its way there. -/
theorem inflightAdd_fold (c : Nat) (ts : List Nat) (s : State) :
    (ts.foldl (fun z t => inflightAdd t c z) s) = { s with tiles := (ts.foldl (fun z t => inflightAdd t c z) s).tiles }
      ∧ ∀ j, ((ts.foldl (fun z t => inflightAdd t c z) s).tile j).ts.bytes = (s.tile j).ts.bytes := by
  refine foldl_keeps (fun z : State => z = { s with tiles := z.tiles } ∧ ∀ j, (z.tile j).ts.bytes = (s.tile j).ts.bytes) _
    (fun z t h => ⟨?_, fun j => ?_⟩) ts s ⟨rfl, fun _ => rfl⟩
  · rw [h.1]
    rfl
  · refine Eq.trans ?_ (h.2 j)
    refine bytes_updTile t z (fun x => ?_) j
    rfl

theorem sendBroadcast_spec (t : Nat) (c : EngCmd) (r : StepRun) (s : State) :
    (sendBroadcast t c r s).hod = { s.hod with
          bcast := s.hod.bcast ++ ((List.range 16).filter fun j => !s.fencedTile j).map fun j =>
            { src := t, urgent := c.urgent, start := r.start, rerun := r.runs, tile := j
              course := (hDst c.raw + (s.tile t).hp.bcastAt) % 32768, data := hodCourse s (hBase c.raw + (s.tile t).hp.bcastAt) } }
      ∧ ∀ j, ((sendBroadcast t c r s).tile j).ts.bytes = (s.tile j).ts.bytes := by
  unfold sendBroadcast
  extract_lets i course ts sent s1 s2
  obtain ⟨hs1, hb1⟩ := inflightAdd_fold course ts { s with hod := { s.hod with bcast := s.hod.bcast ++ ts.map fun j =>
    { src := t, urgent := c.urgent, start := r.start, rerun := r.runs, tile := j, course := course
      data := hodCourse s (hBase c.raw + i) } } }
  have hhod : s1.hod = _ := congrArg State.hod hs1
  have hbytes (j : Nat) : (s2.tile j).ts.bytes = (s.tile j).ts.bytes :=
    (bytes_updTile t s1 (f := fun x => { x with hp := { x.hp with bcastAt := i + 1 } }) (fun _ => rfl) j).trans (hb1 j)
  split
  · refine ⟨hhod, fun j => Eq.trans ?_ (hbytes j)⟩
    refine bytes_updTile t s2 (fun x => ?_) j
    rfl
  · exact ⟨hhod, hbytes⟩

theorem broadcast_reads (t : Nat) (s : State) (c : EngCmd) (r : StepRun) (hc : hodHead s t = some c)
    (hop : c.raw.toNat / 2 ^ 8 % 2 ^ 2 = 2) (hbegun : c.begun = true) (hread : c.read = false)
    (hwait : hWait c.raw = true → (s.tile t).hp.bcastAt = 0 → (s.tgt (hTgt c.raw)).state = 2) (hr : s.run t c.urgent = some r) :
    ∃ z, exec (.broadcastRead t 0 false) s = .next z
      ∧ z.hod = { s.hod with
          bcast := s.hod.bcast ++ ((List.range 16).filter fun j => !s.fencedTile j).map fun j =>
            { src := t, urgent := c.urgent, start := r.start, rerun := r.runs, tile := j
              course := (hDst c.raw + (s.tile t).hp.bcastAt) % 32768
              data := if s.gated .hod then 0 else sget (fun _ => 0) s.hod.mem (hBase c.raw + (s.tile t).hp.bcastAt) } }
      ∧ (∀ j, (z.tile j).ts.bytes = (s.tile j).ts.bytes) := by
  have hop : hOp c.raw = 2 := by rw [hOp, fld_eq, hop]
  have hw : bcastWaits s t c = false := by
    unfold bcastWaits
    by_cases h1 : hWait c.raw = true
    · by_cases h2 : (s.tile t).hp.bcastAt = 0
      · simp [hwait h1 h2]
      · simp [h2]
    · simp [h1]
  change ∃ z, execBroadcastRead t 0 false s = _ ∧ _
  simp only [execBroadcastRead, hc, hop, hbegun, hread, hw, hr, ne_eq, not_true, decide_false, Bool.not_true, Bool.or_self,
    Bool.false_eq_true, if_false]
  cases hg : s.gated .hod with
  | true =>
    obtain ⟨h1, h2⟩ := sendBroadcast_spec t c r s.countGated
    have hdata (k : Nat) : hodCourse s.countGated k = 0 := if_pos hg
    refine ⟨_, rfl, h1.trans ?_, h2⟩
    simp only [hdata, if_true]
    rfl
  | false =>
    obtain ⟨h1, h2⟩ := sendBroadcast_spec t c r (hodEcc 1 0 false s)
    have hdata (k : Nat) : hodCourse (hodEcc 1 0 false s) k = sget (fun _ => 0) s.hod.mem k := if_neg (by rw [Bool.not_eq_true]; exact hg)
    refine ⟨_, rfl, h1.trans ?_, h2⟩
    simp only [hdata, Bool.false_eq_true, if_false]
    rfl

/-- A course written into tile `t`, cycles lost there first. -/
theorem bytes_written {s : State} {t lost c : Nat} {d : BitVec 1024} {b : Bool} (ht : t < s.tiles.length) :
    (((lostCycles t lost s).updTs t fun ts => ts.writeCourse c d b).tile t).ts.bytes = ((s.tile t).ts.writeCourse c d b).bytes
      ∧ ∀ j, j ≠ t → (((lostCycles t lost s).updTs t fun ts => ts.writeCourse c d b).tile j).ts.bytes = (s.tile j).ts.bytes := by
  refine ⟨?_, fun j hj => ?_⟩
  · rw [lostCycles, State.updTs, State.updTs, State.updTile_updTile, State.tile_updTile_same _ _ _ ht]
    refine TileStore.writeCourse_bytes_congr ?_ ?_ c d b
    · rfl
    · rfl
  · rw [lostCycles, State.updTs, State.updTs, State.updTile_updTile, State.tile_updTile_ne _ _ _ _ hj]

/-- A course that has crossed: its sender charged, and no longer counted on its way. -/
theorem crossed_spec (t c src : Nat) (u : Bool) (start j l : Nat) (s : State) :
    (chargeSender src u start j l (inflightSub t c s)).tiles.length = s.tiles.length
      ∧ (∀ n, ((chargeSender src u start j l (inflightSub t c s)).tile n).ts.bytes = (s.tile n).ts.bytes
          ∧ ((chargeSender src u start j l (inflightSub t c s)).tile n).ts.bankState = (s.tile n).ts.bankState)
      ∧ (chargeSender src u start j l (inflightSub t c s)).hod = s.hod
      ∧ (∀ n, (chargeSender src u start j l (inflightSub t c s)).fencedTile n = s.fencedTile n)
      ∧ (∀ n, (chargeSender src u start j l (inflightSub t c s)).gatedTile n = s.gatedTile n) := by
  have hproj (n : Nat) := (tile_chargeSender (fun x => (x.ts.bytes, x.ts.bankState)) (fun _ _ => rfl) src u start j l (inflightSub t c s) n).trans
    (State.tile_updTile_proj (fun x => (x.ts.bytes, x.ts.bankState)) (s := s) (t := t)
      (f := fun x => { x with ts := { x.ts with inflight := upd x.ts.inflight (courseBank c) (· - 1) } }) (fun _ => rfl) n)
  refine ⟨(chargeSender_length ..).trans (upd_length ..), fun n => Prod.mk.inj (hproj n), ?_⟩
  obtain ⟨tiles, h⟩ := chargeSender_eq src u start j l (inflightSub t c s)
  rw [h]
  exact ⟨rfl, fun _ => rfl, fun _ => rfl⟩

theorem broadcast_written (i : Nat) (met : Crossing) (s : State) (m : BcastCourse) (hm : mayPass s.hod.bcast i sameDest = some m)
    (hlen : s.tiles.length = 16) (hlive : s.tileLive m.tile = true) :
    ∃ z, exec (.broadcastCourseWrite i met false) s = .next z
      ∧ z.hod.bcast = s.hod.bcast.eraseIdx i
      ∧ (z.tile m.tile).ts.bytes = ((s.tile m.tile).ts.writeCourse m.course m.data false).bytes
      ∧ (∀ j, j ≠ m.tile → (z.tile j).ts.bytes = (s.tile j).ts.bytes) := by
  have ht : m.tile < s.tiles.length := hlen ▸ s.lt_of_tileLive hlive
  obtain ⟨-, -, hf, hg⟩ : s.alive = true ∧ m.tile < 16 ∧ s.fencedTile m.tile = false ∧ s.gatedTile m.tile = false := by
    simpa [State.tileLive, and_assoc] using hlive
  obtain ⟨hl, hts, hhod, -, -⟩ := crossed_spec m.tile m.course m.src m.urgent m.start (b2n met.jitter) 0
    { s with hod := { s.hod with bcast := s.hod.bcast.eraseIdx i } }
  change ∃ z, execBroadcastCourseWrite i met false s = _ ∧ _
  simp only [execBroadcastCourseWrite, hm]
  generalize chargeSender m.src m.urgent m.start (b2n met.jitter) 0
    (inflightSub m.tile m.course { s with hod := { s.hod with bcast := s.hod.bcast.eraseIdx i } }) = s1 at hl hts hhod ⊢
  simp only [hf, hg, Bool.false_eq_true, if_false]
  obtain ⟨hsame, hother⟩ := bytes_written (s := s1) (t := m.tile) (lost := met.lost) (c := m.course) (d := m.data) (b := false) (hl ▸ ht)
  have hhod2 : ((lostCycles m.tile met.lost s1).updTs m.tile fun ts => ts.writeCourse m.course m.data false).hod = s1.hod := rfl
  generalize (lostCycles m.tile met.lost s1).updTs m.tile _ = s2 at hsame hother hhod2 ⊢
  have hmark (b : Bool) : (if b then s2.markSent m.src m.urgent else s2).hod = s2.hod
      ∧ ∀ j, ((if b then s2.markSent m.src m.urgent else s2).tile j).ts.bytes = (s2.tile j).ts.bytes := by
    cases b with
    | false => exact ⟨rfl, fun _ => rfl⟩
    | true => exact ⟨rfl, fun j => State.proj_updRun (fun x => x.ts.bytes) s2 m.src j (fun _ _ => rfl) m.urgent _⟩
  obtain ⟨hmh, hmb⟩ := hmark ((s1.tile m.tile).ts.live m.course && ownStep s2 m.src m.urgent m.start)
  refine ⟨_, rfl, ?_, ?_, fun j hj => ?_⟩
  · rw [hmh, hhod2, hhod]
  · rw [hmb, hsame]
    exact TileStore.writeCourse_bytes_congr (hts m.tile).2 (hts m.tile).1 ..
  · rw [hmb, hother j hj]
    exact (hts j).1

theorem broadcast_waits (t ce : Nat) (ue : Bool) (s : State) (c : EngCmd) (hc : hodHead s t = some c) (hwait : hWait c.raw = true)
    (hat : (s.tile t).hp.bcastAt = 0) (hstate : (s.tgt (hTgt c.raw)).state ≠ 2) : exec (.broadcastRead t ce ue) s = .next s := by
  change execBroadcastRead t ce ue s = _
  simp only [execBroadcastRead, hc, bcastWaits, hwait, hat, hstate, ne_eq, not_false_eq_true, decide_true, Bool.and_self, Bool.or_true,
    if_true]

theorem broadcast_retires (t : Nat) (s : State) (c : EngCmd) (hc : hodHead s t = some c) (hop : c.raw.toNat / 2 ^ 8 % 2 ^ 2 = 2)
    (hread : c.read = true) (hnone : (s.hod.bcast.any fun m => decide (m.src = t) && m.urgent == c.urgent) = false) :
    exec (.broadcastRetire t) s = .next
      (match hEvt c.raw with
        | some k => (s.updQ t 4 (·.drop 1)).pulse (setBit 0 k true)
        | none => s.updQ t 4 (·.drop 1)) := by
  have hop : hOp c.raw = 2 := by rw [hOp, fld_eq, hop]
  change execBroadcastRetire t s = _
  simp only [execBroadcastRetire, hc, hop, hread, hnone, ne_eq, not_true, decide_false, Bool.not_true, Bool.or_self, Bool.false_eq_true,
    if_false, popCmd]
  cases hEvt c.raw with
  | none => rfl
  | some k => rfl

theorem hodSendAndBroadcastComplete : Claims.HodSendAndBroadcastComplete :=
  ⟨hodSend_completes, fun t s c hc hop hbegun hcause _ => hodBroadcast_begins t s c hc hop hbegun hcause, broadcast_reads, broadcast_waits,
    broadcast_written, broadcast_retires⟩

/-! ### Grants, notices, and the courses applied -/

/-- A sender marked as having sent: nothing of the hod changes. -/
theorem hod_markSent (b : Bool) (s : State) (t : Nat) (u : Bool) : (if b then s.markSent t u else s).hod = s.hod := by
  cases b <;> rfl

/-- What a granted course leads to, as it is judged: `s1` is the state in which its lane has taken it from its tile. -/
def grantResult (h : HodCourse) (s1 : State) : Judged → State
  | .epoch => notify h true false
      { s1 with hod := { s1.hod with epochRej := true, epochRejCnt := satAdd32 s1.hod.epochRejCnt 1, now := s1.hod.now.note 8 true } }
  | .other => notify h false false
      { s1 with hod := { s1.hod with rej := true, rejCnt := satAdd32 s1.hod.rejCnt 1, now := s1.hod.now.note 9 true } }
  | .ok =>
    let s2 := s1.updTgt h.tgt fun g =>
      { g with granted := sset (fun _ => 0) g.granted h.off (setBit (sget (fun _ => 0) g.granted h.off) h.tile true) }
    let s3 := { s2 with hod := { s2.hod with flight := s2.hod.flight ++ [{ h with at_ := s1.cycle }] } }
    if ownStep s3 h.tile h.urgent h.start then s3.markSent h.tile h.urgent else s3

theorem execHodGrant_of_granted {lane t : Nat} {s : State} {h : HodCourse} {rest : List HodCourse} (hl : lane < 4)
    (hfree : laneFree s lane = true) (ht : grantTile s lane = some t) (hb : (s.tile t).hp.buf = h :: rest) (hg : s.gated .hod = false) :
    ∃ s1 : State, s1.hod = { s.hod with laneAt := lput s.hod.laneAt lane (some s.cycle) } ∧ s1.cycle = s.cycle
      ∧ exec (.hodGrant lane false) s = .next (grantResult h s1 (judge (s.tgt h.tgt) h)) := by
  refine ⟨({ s with hod := { s.hod with laneAt := lput s.hod.laneAt lane (some s.cycle) } } : State).updTile t
    fun x => { x with hp := { x.hp with buf := rest } }, rfl, rfl, ?_⟩
  change execHodGrant lane false s = _
  simp only [execHodGrant, ge_iff_le, Nat.not_le_of_lt hl, hfree, ht, hb, hg, decide_false, Bool.not_true, Bool.or_self,
    Bool.false_eq_true, if_false]
  change (match judge (s.tgt h.tgt) h with | .epoch => _ | .other => _ | .ok => _ : Out) = _
  cases judge (s.tgt h.tgt) h with
  | ok => rfl
  | epoch => rfl
  | other => rfl

theorem grantResult_ok (h : HodCourse) (s1 : State) : (grantResult h s1 .ok).hod = { s1.hod with
    tgts := upd s1.hod.tgts h.tgt fun g =>
      { g with granted := sset (fun _ => 0) g.granted h.off (setBit (sget (fun _ => 0) g.granted h.off) h.tile true) }
    flight := s1.hod.flight ++ [{ h with at_ := s1.cycle }] } := hod_markSent ..

/-- A course judged OK comes from a contributor, so from one of the 16 tiles. -/
theorem judge_ok_tile {g : HodTarget} {h : HodCourse} (hj : judge g h = .ok) : h.tile < 16 := by
  unfold judge at hj
  split at hj
  · cases hj
  · next hn =>
    by_contra hlt
    exact hn (by simp [bit, BitVec.getLsbD_of_ge _ _ (Nat.le_of_not_lt hlt)])

/-- Corrected words counted and a sender charged: nothing of the hod changes. -/
theorem hod_charged (n ce : Nat) (h : HodCourse) (j : Nat) (s : State) :
    (hodEcc n ce false (chargeSender h.tile h.urgent h.start j 0 s)).hod = s.hod := by
  obtain ⟨tiles, hc⟩ := chargeSender_eq h.tile h.urgent h.start j 0 s
  rw [hc]
  rfl

theorem stages_congr {s z : State} (h : HodCourse) (hz : z.hod.tgts = s.hod.tgts) : stages z h = stages s h := by
  have htgt : z.tgt h.tgt = s.tgt h.tgt := by rw [State.tgt, hz, State.tgt]
  unfold stages
  rw [htgt]

/-- The course taken from those in flight, as it is applied. -/
def applying (i : Nat) (jitter : Bool) (h : HodCourse) (n ce : Nat) (s : State) : State :=
  hodEcc n ce false (chargeSender h.tile h.urgent h.start (b2n jitter) 0
    { s with hod := { s.hod with flight := s.hod.flight.eraseIdx i, applied := (h.at_ + 4 + b2n jitter, h.tile) } })

theorem hod_applying (i : Nat) (jitter : Bool) (h : HodCourse) (n ce : Nat) (s : State) : (applying i jitter h n ce s).hod
    = { s.hod with flight := s.hod.flight.eraseIdx i, applied := (h.at_ + 4 + b2n jitter, h.tile) } := hod_charged ..

theorem execHodApply_of_applicable {i ce : Nat} {jitter : Bool} {s : State} {h : HodCourse} (hh : applicable s i jitter = some h)
    (hg : s.gated .hod = false) : exec (.hodApply i jitter ⟨ce, false⟩) s
      = .next (declsAfter i (applyCourse h (applying i jitter h (b2n (!stages s h && readsStored (s.tgt h.tgt) h.off)) ce s))) := by
  change execHodApply i jitter ⟨ce, false⟩ s = _
  simp only [execHodApply, hh, hg, Bool.false_and, Bool.false_eq_true, if_false]
  rfl

/-- A course whose earlier contributors have all been combined is combined. -/
theorem hodApply_of_ready {i ce : Nat} {jitter : Bool} {s : State} {h : HodCourse} (hh : applicable s i jitter = some h)
    (hg : s.gated .hod = false) (hs : stages s h = false) : exec (.hodApply i jitter ⟨ce, false⟩) s
      = .next (declsAfter i (applyPartial h.tgt h.tile h.off h.data
          (applying i jitter h (if readsStored (s.tgt h.tgt) h.off then 1 else 0) ce s))) := by
  rw [execHodApply_of_applicable hh hg, applyCourse,
    if_neg (by rw [stages_congr (s := s) h (by rw [hod_applying]), hs]; exact Bool.false_ne_true), hs]
  rfl

/-- A course that waits for an earlier contributor is staged. -/
theorem hodApply_of_stages {i ce : Nat} {jitter : Bool} {s : State} {h : HodCourse} (hh : applicable s i jitter = some h)
    (hg : s.gated .hod = false) (hs : stages s h = true) : ∃ z, exec (.hodApply i jitter ⟨ce, false⟩) s = .next (declsAfter i z)
      ∧ z.hod = { s.hod with
          flight := s.hod.flight.eraseIdx i, applied := (h.at_ + 4 + b2n jitter, h.tile)
          tgts := upd s.hod.tgts h.tgt fun g =>
            { g with staged := sset (fun _ => 0) g.staged h.off (setBit (maskAt g.staged h.off) h.tile true) }
          mem := sset (fun _ => 0) s.hod.mem (stageCourse (s.tgt h.tgt) h.tile h.off) h.data } := by
  refine ⟨_, execHodApply_of_applicable hh hg, ?_⟩
  have hhod := hod_applying i jitter h (b2n (!stages s h && readsStored (s.tgt h.tgt) h.off)) ce s
  have hs' := (stages_congr (s := s) (z := applying i jitter h (b2n (!stages s h && readsStored (s.tgt h.tgt) h.off)) ce s) h
    (by rw [hhod])).trans hs
  generalize applying i jitter h _ ce s = s1 at hhod hs' ⊢
  have htgt : s1.tgt h.tgt = s.tgt h.tgt := by rw [State.tgt, hhod, State.tgt]
  simp only [applyCourse, hs', if_true, State.updTgt, htgt, hhod]

/-- With no declaration waiting none takes effect. -/
theorem declsAfter_of_none (i : Nat) {s : State} (h : s.hod.decls = []) : (declsAfter i s).hod = s.hod := by
  simp only [declsAfter, h, List.map_nil, List.filter_nil, List.foldl_nil]
  rw [← h]

theorem hodIntakeCompletes : Claims.HodIntakeCompletes := by
  refine ⟨?_, ?_, ?_, ?_, ?_, ?_, ?_⟩
  · intro lane t s h rest hl hfree ht hb hg hj hlen htgt
    obtain ⟨s1, hs1, hcycle, hexec⟩ := execHodGrant_of_granted hl hfree ht hb hg
    rw [hj] at hexec
    refine ⟨_, hexec, ?_⟩
    rw [State.tgt, grantResult_ok, hs1, hcycle]
    refine ⟨rfl, ?_, rfl, rfl, rfl⟩
    rw [upd_getD_same _ _ _ _ (hlen.symm ▸ htgt)]
    exact sget_sset_of_ne (setBit_ne_zero _ (judge_ok_tile hj)) _
  · intro lane t s h rest hl hfree ht hb hg hj
    obtain ⟨s1, hs1, -, hexec⟩ := execHodGrant_of_granted hl hfree ht hb hg
    rw [hj] at hexec
    refine ⟨_, hexec, ?_⟩
    simp only [grantResult, notify, hs1, and_self]
  · intro lane t s h rest hl hfree ht hb hg hj
    obtain ⟨s1, hs1, -, hexec⟩ := execHodGrant_of_granted hl hfree ht hb hg
    rw [hj] at hexec
    refine ⟨_, hexec, ?_⟩
    simp only [grantResult, notify, hs1, and_self]
  · intro s n rest hn hown
    have hown' : ownRun (({ s with hod := { s.hod with notices := rest } } : State).draw 1).2 n.tile n.urgent n.start n.rerun = true := hown
    change execHodRejectNotice s = _
    simp only [execHodRejectNotice, hn, ownRun_chargeSender, hown', Bool.not_true, Bool.false_eq_true, if_false]
    cases n.epoch with
    | true => rfl
    | false => cases n.parity with
      | true => rfl
      | false => rfl
  · intro i ce jitter s h hh hg hfirst
    have hstages : stages s h = false := by
      unfold stages
      rcases hfirst with hord | hlow
      · simp [hord]
      · simp [hlow]
    exact hodApply_of_ready hh hg hstages
  · intro i jitter s h hh hg hdecls hord hlen htgt htile hlow
    obtain ⟨z, hexec, hz⟩ := hodApply_of_stages (ce := 0) hh hg (by simp [stages, hord, hlow])
    have hnone := declsAfter_of_none i (s := z) (by rw [hz]; exact hdecls)
    refine ⟨_, hexec, ?_⟩
    refine ⟨by rw [hnone, hz], ?_, by rw [hnone, hz]⟩
    rw [State.tgt, hnone, hz, State.tgt, upd_getD_same _ _ _ _ (hlen.symm ▸ htgt)]
    exact sget_sset_of_ne (setBit_ne_zero _ htile) _
  · intro n off t ce s hlow hstaged hg
    change execHodFold n off ce false s = _
    simp only [execHodFold, hlow, bit, hstaged, hg, Bool.not_true, Bool.or_self, Bool.false_eq_true, if_false]
    rfl

/-- Settles O29. -/
theorem hodTransfersComplete : Obligations.HodTransfersComplete := ⟨hodSendAndBroadcastComplete, hodIntakeCompletes⟩

end Sys2Proof.Machine
end

section
/-! Streams: their entries, the requests of a tracker, the lines delivered (R320, R336, R342 to R352, R451, R453). -/

namespace Sys2Proof.Machine

/-! ### STREAM entries -/

theorem streamCmd_of_running {t : Nat} {u : Bool} {r : StepRun} {e : BitVec 512} {s : State} (hc : streamCause s t e = none)
    (hg : s.gated .sc = false) (f : State → State) : streamCmd t u r e f s = (f s).updRun t u fun r => { r with listAt := r.listAt + 64 } := by
  simp only [streamCmd, hc, hg, Bool.false_eq_true, if_false]
  rfl

theorem streamCmd_of_gated {t : Nat} {u : Bool} {r : StepRun} {e : BitVec 512} {s : State} (hc : streamCause s t e = none)
    (hg : s.gated .sc = true) (f : State → State) :
    streamCmd t u r e f s = s.countGated.updRun t u fun r => { r with listAt := r.listAt + 64 } := by
  simp only [streamCmd, hc, hg, if_true]
  rfl

theorem streamDeclare_next {t : Nat} {u : Bool} {s : State} {r : StepRun} {e : BitVec 512} (ho : outerEntry s t u 7 = some (r, e))
    (hop : e.toNat / 2 ^ 8 % 2 ^ 2 = 0) : exec (.streamDeclare t u) s
      = .next (streamCmd t u r e (fun z => z.updTrk (sTrk e) fun k => k.declare t e) s) := by
  have hop : sOp e = 0 := by rw [sOp, fld_eq, hop]
  change execStreamDeclare t u s = _
  simp only [execStreamDeclare, ho, hop]
  rfl

theorem streamRelease_next {t : Nat} {u : Bool} {s : State} {r : StepRun} {e : BitVec 512} (ho : outerEntry s t u 7 = some (r, e))
    (hop : e.toNat / 2 ^ 8 % 2 ^ 2 = 1) : exec (.streamRelease t u) s
      = .next (streamCmd t u r e (fun z => z.updTrk (sTrk e) Tracker.idle) s) := by
  have hop : sOp e = 1 := by rw [sOp, fld_eq, hop]
  change execStreamRelease t u s = _
  simp only [execStreamRelease, ho, hop]
  rfl

theorem streamInval_next {t : Nat} {u : Bool} {s : State} {r : StepRun} {e : BitVec 512} (ho : outerEntry s t u 7 = some (r, e))
    (hop : e.toNat / 2 ^ 8 % 2 ^ 2 = 2) (hfree : (s.sc.inval.isSome && !s.gated .sc) = false) : exec (.streamInval t u) s
      = .next (streamCmd t u r e (invalBegin (sLine e) (some (sCount e)) (some t) u) s) := by
  have hop : sOp e = 2 := by rw [sOp, fld_eq, hop]
  change execStreamInval t u s = _
  simp only [execStreamInval, ho, hop, hfree]
  rfl

/-! ### Requests and deliveries -/

theorem cacheRead_of_miss {l : Nat} {s : State} (h : s.sc.wayOf l = none) : cacheRead l .clean s = (none, s) := by
  simp only [cacheRead, cacheLook, h]

theorem cacheRead_of_hit {l w : Nat} {y : CacheLine} {s : State} (h : s.sc.wayOf l = some w) (hy : kget s.sc.lines (wayKey l w) = some y) :
    cacheRead l .clean s = (some ⟨y.data, y.poison, false⟩, { s with sc := s.sc.touch l w true }) := by
  simp only [cacheRead, cacheLook, h, hy]

theorem cacheRead_of_corrected {l w : Nat} {y : CacheLine} {s : State} (h : s.sc.wayOf l = some w)
    (hy : kget s.sc.lines (wayKey l w) = some y) :
    cacheRead l .dataCe s = (some ⟨y.data, y.poison, true⟩, scCorrected l w 0 { s with sc := s.sc.touch l w true }) := by
  simp only [cacheRead, cacheLook, h, hy]

/-- The guards of a request that `MayAsk` gives. -/
theorem mayAsk_guard {n : Nat} {s : State} (h : Claims.MayAsk n s) : (decide (n < 64) && decide ((s.sc.tracker n).state = 3)
    && s.tileLive (s.sc.tracker n).owner && decide ((s.sc.tracker n).asked < (s.sc.tracker n).used + (s.sc.tracker n).depth)
    && decide ((s.sc.tracker n).asked < (s.sc.tracker n).count * (s.sc.tracker n).rep)
    && decide ((s.sc.tracker n).asked - (s.sc.tracker n).used < consumerRoom s n)) = true := by
  obtain ⟨h1, h2, h3, h4, h5, h6⟩ := h
  simp only [h1, h2, h3, h4, h5, h6, decide_true, Bool.and_self]

theorem streamRequestCompletes : Claims.StreamRequestCompletes := by
  refine ⟨fun n ecc s h hcap => ?_, fun n ecc s h hcap hby => ?_, fun n s h hcap hby hway => ?_, fun n s w y h hcap hby hway hy => ?_⟩
  · change execStreamRequest ⟨n, ecc⟩ s = _
    simp only [execStreamRequest, mayAsk_guard h, if_true, ge_iff_le, hcap]
    rfl
  · change execStreamRequest ⟨n, ecc⟩ s = _
    simp only [execStreamRequest, mayAsk_guard h, if_true, ge_iff_le, Nat.not_le_of_lt hcap, if_false, hby]
    cases s.gated .sc with
    | true =>
      simp only [if_true]
      rw [show (s.updTrk n fun k => { k with asked := k.asked + 1 }).countGated.bypassed _ = true from hby]
      rfl
    | false =>
      simp only [Bool.false_eq_true, if_false]
      rw [show (s.updTrk n fun k => { k with asked := k.asked + 1 }).bypassed _ = true from hby]
      rfl
  · change execStreamRequest ⟨n, .clean⟩ s = _
    have hmiss := cacheRead_of_miss (s := s.updTrk n fun k => { k with asked := k.asked + 1 }) hway
    simp only [execStreamRequest, mayAsk_guard h, if_true, ge_iff_le, Nat.not_le_of_lt hcap, if_false, hby, Bool.false_eq_true, hmiss]
    rw [show (s.updTrk n fun k => { k with asked := k.asked + 1 }).bypassed _ = false from hby]
    rfl
  · have hhit := cacheRead_of_hit (s := s.updTrk n fun k => { k with asked := k.asked + 1 }) hway hy
    have hce := cacheRead_of_corrected (s := s.updTrk n fun k => { k with asked := k.asked + 1 }) hway hy
    constructor
    · change execStreamRequest ⟨n, .clean⟩ s = _
      simp only [execStreamRequest, mayAsk_guard h, if_true, ge_iff_le, Nat.not_le_of_lt hcap, if_false, hby, Bool.false_eq_true, hhit]
      rfl
    · change execStreamRequest ⟨n, .dataCe⟩ s = _
      simp only [execStreamRequest, mayAsk_guard h, if_true, ge_iff_le, Nat.not_le_of_lt hcap, if_false, hby, Bool.false_eq_true, hce]
      rfl

theorem line_delivers : ∀ (n jitter : Nat) (held : LineWait) (s : State) (x : ReadyLine) (w u : Bool), n < 64 → (s.sc.tracker n).state = 3 →
    ((s.sc.tracker n).ready.find? fun x => x.seq = (s.sc.tracker n).used) = some x → consumerOf s n = some (w, u) →
    s.tileLive (s.sc.tracker n).owner = true → 0 < consumerRoom s n → x.mesh.through = true → x.mesh.since + 1 ≤ s.cycle →
    exec (.streamLineDeliver n jitter held) s = .next
      (let s1 := countTransit 0 (x.mesh.waited - held.link) (chargeLine (s.sc.tracker n).owner u (lineHeld x jitter held) s)
       if held.bad then lineBad n u s1 else handOver n w u x.data x.poison s1) := by
  intro n jitter held s x w u hn hstate hx hcons hlive hroom hthrough hsince
  change execStreamLineDeliver n jitter held s = _
  simp only [execStreamLineDeliver, hx, hcons, ge_iff_le, Nat.not_le_of_lt hn, hstate, hlive, (Nat.ne_of_lt hroom).symm, hthrough,
    Nat.not_lt_of_le hsince, ne_eq, not_true, decide_false, Bool.not_true, Bool.or_self, Bool.false_eq_true, if_false]

/-- Settles O30. -/
theorem streamsComplete : Obligations.StreamsComplete := by
  refine ⟨fun t u s r e ho hc hg hop => ?_, fun t u s r e ho hc hg hop => ?_, fun t u s r e ho hc hg hop hi => ?_,
    fun t u s r e ho hc hg => ⟨fun hop => ?_, fun hop => ?_, fun hop => ?_⟩, streamRequestCompletes,
    fun n jitter held s x w u hn hstate hx hcons hlive hroom hthrough hsince => ⟨fun hbad => ?_, fun hbad => ?_⟩⟩
  · rw [streamDeclare_next ho hop, streamCmd_of_running hc hg]
    simp only [sTrk, Tracker.declare, sCount, fld_eq]
  · rw [streamRelease_next ho hop, streamCmd_of_running hc hg]
    simp only [sTrk, fld_eq]
    rfl
  · rw [streamInval_next ho hop (by rw [hi]; rfl), streamCmd_of_running hc hg]
    simp only [sLine, sCount, invalBegin, fld_eq]
  · rw [streamDeclare_next ho hop, streamCmd_of_gated hc hg]
  · rw [streamRelease_next ho hop, streamCmd_of_gated hc hg]
  · rw [streamInval_next ho hop (by rw [hg, Bool.not_true, Bool.and_false]), streamCmd_of_gated hc hg]
  · rw [line_delivers n jitter held s x w u hn hstate hx hcons hlive hroom hthrough hsince]
    simp only [hbad, if_true]
    rfl
  · rw [line_delivers n jitter held s x w u hn hstate hx hcons hlive hroom hthrough hsince]
    simp only [hbad, Bool.false_eq_true, if_false]
    rfl

end Sys2Proof.Machine
end

section
/-! Invalidation, slice power and slice fences of the stream cache (R338, R341, R344, R352, R534). -/

namespace Sys2Proof.Machine

theorem came_sc (who : Who) (s : State) : (Claims.came who s).sc = s.sc := by cases who <;> rfl

theorem came_ddr (who : Who) (s : State) : (Claims.came who s).ddr = s.ddr := by cases who <;> rfl

theorem scInvalCtrl_go {v : BitVec 32} {s : State} (h31 : v.getLsbD 31 = true) (h30 : v.getLsbD 30 = false) (hi : s.sc.inval = none) :
    scInvalCtrl v s = invalBegin (2 * s.sc.invalBase.toNat) (some (v.toNat % 2 ^ 24)) none false
      { s with sc := { s.sc with invalCount := v.setWidth 24 } } := by
  simp only [scInvalCtrl, bit, h31, h30, hi, Bool.not_true, Bool.false_eq_true, if_false, Option.isSome_none, fld, Nat.shiftRight_zero]

theorem scInvalCtrl_all {v : BitVec 32} {s : State} (h31 : v.getLsbD 31 = true) (h30 : v.getLsbD 30 = true) (hi : s.sc.inval = none) :
    scInvalCtrl v s = invalBegin 0 none none false { s with sc := { s.sc with invalCount := v.setWidth 24 } } := by
  simp only [scInvalCtrl, bit, h31, h30, hi, Bool.not_true, Bool.false_eq_true, if_false, if_true, Option.isSome_none]

/-- Device sources change the interrupt controller alone. -/
theorem devSources_sc (p : Nat → Bool) (k : Nat) (l : List Nat) (s : State) :
    (l.foldl (fun (z : State) n => if p n then z.devSource (k + n) else z) s).sc = s.sc := by
  refine foldl_keeps (fun z : State => z.sc = s.sc) _ (fun z n h => ?_) l s rfl
  split
  · exact h
  · exact h

/-- Settles O31. -/
theorem sliceControlComplete : Obligations.SliceControlComplete := by
  refine ⟨fun who v s h h31 hi => ⟨fun h30 => ?_, fun h30 => ?_⟩, fun s => rfl, fun who v s h => ?_, fun n s hn hg hs ht => ?_,
    fun n s hn hg hs hf => ?_, fun who v s h => ?_⟩
  · have hi' : (Claims.came who s).sc.inval = none := by rw [came_sc]; exact hi
    have hc : (bit v 31 && !bit v 30) = true := by
      rw [bit, bit, h31, h30]
      rfl
    refine ⟨_, regWrite_next_of hc h _ (scInvalCtrl_go h31 h30 hi'), ?_⟩
    simp only [invalBegin, State.dropLines, came_sc, came_ddr, came_tiles, and_true]
  · have hi' : (Claims.came who s).sc.inval = none := by rw [came_sc]; exact hi
    have hc : (bit v 31 && bit v 30) = true := by
      rw [bit, bit, h31, h30]
      rfl
    refine ⟨_, regWrite_next_of hc h _ (scInvalCtrl_all h31 h30 hi'), rfl, ?_, ?_, came_tiles ..⟩
    · exact List.filter_eq_nil_iff.mpr fun _ _ => Bool.false_ne_true
    · rw [← came_ddr who s]
      rfl
  · refine ⟨_, regWrite_next h _ rfl, rfl, ?_, by rw [← came_sc who s]; rfl⟩
    simp only [sliceReqWrite, came_sc, BankState.request_eq, bit]
  · change execSliceWakeDone n s = _
    simp only [execSliceWakeDone, hn, hg, hs, ge_iff_le, ht, bit, decide_true, Bool.not_false, Bool.and_self, if_true]
    rfl
  · have hc : (decide (n < 16) && !s.gated .sc && decide (s.sc.sliceState.getD n .on = .draining) && !fillOutstanding s n) = true := by
      simp only [hn, hg, hs, hf, decide_true, Bool.not_false, Bool.and_self]
    change ∃ z, execSliceDrainDone n s = _ ∧ _
    rw [execSliceDrainDone, if_pos hc]
    exact ⟨_, rfl, rfl, rfl⟩
  · refine ⟨_, regWrite_next h _ rfl, ?_, ?_⟩
    · rw [scFenceWrite]
      dsimp only
      rw [devSources_sc]
      rfl
    · rw [scFenceWrite]
      dsimp only
      rw [devSources_sc, came_sc]
      rfl

end Sys2Proof.Machine
end

section
/-! DDR5 channels: requests, promotion, refresh, self-refresh (R355 to R358, R514, R519 to R521). -/

namespace Sys2Proof.Machine

theorem State.chan_updChan_same (s : State) {c : Nat} (f : DdrChan → DdrChan) (h : c < s.ddr.ch.length) :
    (s.updChan c f).chan c = f (s.chan c) := upd_getD_same _ _ _ _ h

/-- Two updates of a channel that agree on it as it stands. -/
theorem State.updChan_congr {s : State} {c : Nat} {f g : DdrChan → DdrChan} (h : f (s.chan c) = g (s.chan c)) :
    s.updChan c f = s.updChan c g := congrArg (fun l => { s with ddr := { s.ddr with ch := l } }) (upd_congr .reset h)

/-- A request that its order lets go next, on a channel that serves. -/
theorem execDdrRequestServe_next {c i : Nat} {err : BeatErr} {s : State} {r : DdrReq} (hr : (s.chan c).queue[i]? = some r)
    (hs : chanServes s c = true) (hst : stolenNow s c = false) (hgap : gapTaskOn s c = false) (hmay : mayServe (s.chan c) i r = true) :
    exec (.ddrRequestServe c i err) s = .next (served r err (s.updChan c fun x => x.served i r s.te.time)) := by
  change execDdrRequestServe c i err s = _
  simp only [execDdrRequestServe, hr, hs, hst, hgap, hmay, Bool.not_true, Bool.or_self, Bool.false_eq_true, if_false]

theorem ddrErr_kept {l : Nat} {err : BeatErr} (h : err.bad = false) (s : State) :
    (ddrErr l err s).ddr.bytes = s.ddr.bytes ∧ (ddrErr l err s).ddr.gen = s.ddr.gen ∧ (ddrErr l err s).sc = s.sc
      ∧ (ddrErr l err s).tiles = s.tiles := by
  unfold ddrErr
  split
  · exact ⟨rfl, rfl, rfl, rfl⟩
  · simp only [h, Bool.false_eq_true, if_false]
    exact ⟨rfl, rfl, rfl, rfl⟩

theorem writeServed_stores {r : DdrReq} {off : Nat} {bs : List (BitVec 8)} {ch : Option Nat} {err : BeatErr} {s : State}
    (h : off = 0 ∧ bs.length = 128 ∨ err.bad = false) :
    (writeServed r off bs ch err s).ddr.bytes = ddrPut s.ddr.gen s.ddr.bytes (128 * r.line + off) bs
      ∧ (writeServed r off bs ch err s).sc = s.sc ∧ (writeServed r off bs ch err s).tiles = s.tiles := by
  have hp : (s.countPosted ch (· - 1)).ddr = s.ddr ∧ (s.countPosted ch (· - 1)).sc = s.sc ∧ (s.countPosted ch (· - 1)).tiles = s.tiles := by
    cases ch <;> exact ⟨rfl, rfl, rfl⟩
  unfold writeServed
  generalize s.countPosted ch (· - 1) = s1 at hp
  obtain ⟨hd, hsc, ht⟩ := hp
  by_cases hw : off = 0 ∧ bs.length = 128
  · simp only [hw.1, hw.2, decide_true, Bool.and_self, if_true, State.ddrStore, hd, Nat.add_zero]
    exact ⟨trivial, hsc, ht⟩
  · have hgood := h.resolve_left hw
    obtain ⟨e1, e2, e3, e4⟩ := ddrErr_kept (l := r.line) hgood s1
    rw [if_neg (by simpa using hw)]
    simp only [hgood, Bool.false_eq_true, if_false, State.ddrStore, e1, e2, hd]
    exact ⟨trivial, e3.trans hsc, e4.trans ht⟩

/-- Settles O32. -/
theorem ddrChannelsComplete : Obligations.DdrChannelsComplete := by
  refine ⟨fun c i err s r hr hs hst hgap hmay => ?_, fun c i off err s r bs ch hr hs hst hgap hmay hkind hw => ?_, fun c i err s h => ?_,
    fun l cls kind s hl hlen => ?_, fun c i s => ?_, fun c b s hs hb ht => ?_, fun c s hs hsr hq hrun ht => ?_,
    fun c t s ht htime hg => ?_, fun who c v s hc h => ?_⟩
  · rw [execDdrRequestServe_next hr hs hst hgap hmay]
    refine congrArg (fun f => Host.Outcome.next (served r err (s.updChan c f))) (funext fun x => ?_)
    simp only [DdrChan.served, List.isEmpty_iff]
  · rw [execDdrRequestServe_next hr hs hst hgap hmay]
    refine ⟨_, rfl, ?_⟩
    unfold served
    rw [hkind]
    exact writeServed_stores hw
  · change execDdrRequestServe c i err s = _
    unfold execDdrRequestServe
    dsimp only
    split
    · rfl
    · refine if_pos ?_
      rcases h with h | h <;> simp [h]
  · have hchan : (if gapTaskOn s (lineChan l) then countIntrude s else s).ddr = s.ddr := by split <;> rfl
    have hreq := State.chan_updChan_same (if gapTaskOn s (lineChan l) then countIntrude s else s) (fun x =>
      { x with
        queue := x.queue ++ [{ line := l, kind := kind, cls := cls, time := s.te.time, passed := 0
                               met := gapTaskOn s (lineChan l), stolen := stolenNow s (lineChan l) }]
        sr := false
        exiting := if x.sr then some s.te.time else x.exiting }) (c := lineChan l) (by rw [hchan, hlen]; exact hl)
    rw [show (if gapTaskOn s (lineChan l) then countIntrude s else s).chan (lineChan l) = s.chan (lineChan l) from
      congrArg (fun d : Ddr => d.ch.getD (lineChan l) .reset) hchan] at hreq
    refine ⟨congrArg DdrChan.queue hreq, congrArg DdrChan.sr hreq, congrArg DdrChan.exiting hreq, ?_⟩
    exact apply_ite (fun z : State => z.cal.intrudeCnt) ..
  · change execDdrClassPromote c i s = _
    simp only [execDdrClassPromote, Bool.and_eq_true, decide_eq_true_eq, ge_iff_le]
  · change execDdrRefresh c b s = _
    have hband : (decide (b < if bit (s.chan c).trainedCfg 2 then 64 else 32)) = true := decide_eq_true hb
    have hdue : (decide (sget (fun _ => 0) (s.chan c).refreshed b + (if (s.chan c).hot then 1950 else 3900) ≤ s.te.time)) = true :=
      decide_eq_true ht
    refine congrArg Host.Outcome.next ((if_pos ?_).trans (State.updChan_congr rfl))
    exact (Bool.and_eq_true _ _).mpr ⟨(Bool.and_eq_true _ _).mpr ⟨hs, hband⟩, hdue⟩
  · change execDdrSrEnter c s = _
    simp only [execDdrSrEnter, hs, hsr, hq, hrun, ge_iff_le, ht, List.isEmpty_nil, Option.isNone_none, decide_true, Bool.and_self, if_true]
  · change ∃ z, execDdrSrExitDone c s = _ ∧ _
    simp only [execDdrSrExitDone, ht, ge_iff_le, htime, hg, decide_true, Bool.not_false, Bool.and_self, if_true]
    exact ⟨_, rfl, rfl, rfl, rfl⟩
  · exact regWrite_next_of hc h _ rfl

end Sys2Proof.Machine
end

section
/-! The heartbeat page, the result mailboxes and the POST command, and TIME. -/

namespace Sys2Proof.Machine

theorem upd_self {α : Type} {f : α → α} (hf : ∀ x, f x = x) : ∀ (l : List α) (n : Nat), upd l n f = l
  | [], _ => rfl
  | x :: r, 0 => congrArg (· :: r) (hf x)
  | x :: r, n + 1 => congrArg (x :: ·) (upd_self hf r n)

/-- A read without a parity error records none. -/
theorem State.tsPerr_nil (s : State) (t c source : Nat) : s.tsPerr t c [] source = s := by
  have hid : (s.updTs t fun ts => ts.notePerr c [] source) = s := 
    congrArg (fun l => { s with tiles := l }) (upd_self (fun _ => rfl) s.tiles t)
  unfold State.tsPerr
  simp only [hid, Bool.not_and_self, Bool.false_eq_true, if_false]

/-! ### The heartbeat -/

/-- A page goes out front first; what was sent before stays behind it. -/
theorem postBytes_spec (n a : Nat) (bs : List (BitVec 8)) (s : State) : ∃ l, (postBytes n a bs s).host.out = l ++ s.host.out
    ∧ (postBytes n a bs s).host.hbGen = s.host.hbGen ∧ (postBytes n a bs s).host.hbAt = s.host.hbAt
    ∧ (postBytes n a bs s).dma = s.dma ∧ (postBytes n a bs s).ddr = s.ddr ∧ (postBytes n a bs s).tiles = s.tiles := by
  induction n generalizing a bs s with
  | zero => exact ⟨[], rfl, rfl, rfl, rfl, rfl, rfl⟩
  | succ n ih =>
    unfold postBytes
    split
    · exact ⟨[], rfl, rfl, rfl, rfl, rfl, rfl⟩
    · obtain ⟨l, hout, hrest⟩ := ih (a + (128 - a % 128)) (bs.drop (128 - a % 128))
        (s.toHost (.write (BitVec.ofNat 64 a) (bs.take (128 - a % 128))))
      exact ⟨l ++ [.write (BitVec.ofNat 64 a) (bs.take (128 - a % 128))], by rw [hout, List.append_assoc]; rfl, hrest⟩

theorem hbWrite_spec (s : State) : ∃ page, page = hbPage s (s.host.hbGen + 1)
    ∧ (hbWrite s).host.hbGen = s.host.hbGen + 1 ∧ (hbWrite s).host.hbAt = s.host.hbAt
    ∧ (hbWrite s).host.out.head? = some (.write (BitVec.ofNat 64 (4096 * s.host.hbAddr.toNat + 0x20)) ((page.drop 0x20).take 8))
    ∧ .write (BitVec.ofNat 64 (4096 * s.host.hbAddr.toNat)) (page.take 8) ∈ (hbWrite s).host.out
    ∧ (hbWrite s).dma = s.dma ∧ (hbWrite s).ddr = s.ddr ∧ (hbWrite s).tiles = s.tiles := by
  refine ⟨_, rfl, ?_⟩
  unfold hbWrite
  dsimp only
  generalize hbPage s (s.host.hbGen + 1) = page
  let a := 4096 * s.host.hbAddr.toNat
  let z : State := ({ s with host := { s.host with hbGen := s.host.hbGen + 1 } }).toHost (.write (BitVec.ofNat 64 a) (page.take 8))
  obtain ⟨l1, hout1, hgen1, hat1, hdma1, hddr1, htiles1⟩ := postBytes_spec 2 (a + 8) ((page.drop 8).take 24) z
  obtain ⟨l2, hout2, hgen2, hat2, hdma2, hddr2, htiles2⟩ := postBytes_spec (page.length + 1) (a + 0x28) (page.drop 0x28)
    (postBytes 2 (a + 8) ((page.drop 8).take 24) z)
  refine ⟨hgen2.trans hgen1, hat2.trans hat1, rfl, List.mem_cons_of_mem _ ?_, hdma2.trans hdma1, hddr2.trans hddr1, htiles2.trans htiles1⟩
  exact hout2 ▸ hout1 ▸ List.mem_append_right _ (List.mem_append_right _ (List.mem_cons_self ..))

theorem heartbeat_guard {s : State} (hen : s.host.hbEn = true) (hat : s.host.hbAt < s.te.dmaCopy / 100000) (hg : s.gated .dma = false) :
    ¬ (!s.host.hbEn || decide (s.te.dmaCopy / 100000 ≤ s.host.hbAt) || s.gated .dma) = true := by
  simp [hen, hg, hat]

/-! ### Mailboxes -/

/-- What a POST does to the state, its checks passed and its bytes read. -/
def posted (t : Nat) (u : Bool) (lost : Nat) (off : Bool) (e : BitVec 512) (d : BitVec 512) (s : State) : State :=
  let z := ((lostCycles t lost s).updTs t fun ts => ts.countOff off).updMb (fld e 32 8) fun m => m.post d
  advanceList t u ((if bit e 40 then z.devSource 80 else z).markSent t u)

theorem execPost_of_read {t : Nat} {u : Bool} {lost : Nat} {s : State} {r : StepRun} {e : BitVec 512}
    (ho : ownEntry s t u 0x0A = some (r, e)) (hc : postCause e = none) (hin : inStep r (fld e 64 15) false = true)
    (hbad : ((s.tile t).ts.read (128 * fld e 64 15 + 64 * b2n (bit e 79)) 64).bad = []) :
    execPost t u lost s = .next (posted t u lost ((s.tile t).ts.read (128 * fld e 64 15 + 64 * b2n (bit e 79)) 64).off e
      (BitVec.ofNat 512 ((s.tile t).ts.read (128 * fld e 64 15 + 64 * b2n (bit e 79)) 64).data) s) := by
  have hread : ((lostCycles t lost s).tile t).ts.read (128 * fld e 64 15 + 64 * b2n (bit e 79)) 64
      = (s.tile t).ts.read (128 * fld e 64 15 + 64 * b2n (bit e 79)) 64 :=
    State.tile_updTile_proj (fun x => x.ts.read (128 * fld e 64 15 + 64 * b2n (bit e 79)) 64)
      (f := fun x => { x with ts := { x.ts with conflictCnt := satAdd32 x.ts.conflictCnt lost } }) (fun _ => rfl) t
  simp only [execPost, ho, hc, hin, hread, hbad, State.tsPerr_nil, List.isEmpty_nil, Bool.not_true, Bool.false_eq_true, if_false, posted]

theorem posted_spec (t : Nat) (u : Bool) (lost : Nat) (off : Bool) (e d : BitVec 512) (s : State) :
    (posted t u lost off e d s).host.mb = sset (fun _ => ResMb.reset) s.host.mb (fld e 32 8) ((s.host.mbOf (fld e 32 8)).post d)
      ∧ (posted t u lost off e d s).ic = (if bit e 40 then
          (((lostCycles t lost s).updTs t fun ts => ts.countOff off).updMb (fld e 32 8) fun m => m.post d).devSource 80 else s).ic
      ∧ (∀ j, ((posted t u lost off e d s).tile j).ts.bytes = (s.tile j).ts.bytes)
      ∧ (posted t u lost off e d s).ddr = s.ddr := by
  have hbytes (z : State) (hz : z.tiles = (((lostCycles t lost s).updTs t fun ts => ts.countOff off)).tiles) (j : Nat) :
      ((advanceList t u (z.markSent t u)).tile j).ts.bytes = (s.tile j).ts.bytes := by
    refine (State.proj_updRun (fun x => x.ts.bytes) _ _ _ (fun _ _ => rfl) _ _).trans ?_
    refine (State.proj_updRun (fun x => x.ts.bytes) _ _ _ (fun _ _ => rfl) _ _).trans ?_
    refine (congrArg (fun l : List Tile => (l.getD j .reset).ts.bytes) hz).trans ?_
    refine (State.tile_updTile_proj (fun x => x.ts.bytes) (f := fun x => { x with ts := x.ts.countOff off }) (fun x => ?_) j).trans ?_
    · change (x.ts.countOff off).bytes = _
      unfold TileStore.countOff
      split <;> rfl
    · exact bytes_updTile t s (f := fun x => { x with ts := { x.ts with conflictCnt := satAdd32 x.ts.conflictCnt lost } }) (fun _ => rfl) j
  unfold posted
  dsimp only
  split
  · exact ⟨rfl, rfl, hbytes _ rfl, rfl⟩
  · exact ⟨rfl, rfl, hbytes _ rfl, rfl⟩

theorem ResMb.post_ne_reset (m : ResMb) (d : BitVec 512) : m.post d ≠ ResMb.reset := fun h => by
  cases congrArg ResMb.valid h

theorem came_mbOf (who : Who) (s : State) (n : Nat) : (Claims.came who s).host.mbOf n = s.host.mbOf n := by cases who <;> rfl

theorem post_completes (t : Nat) (u : Bool) (lost c : Nat) (s : State) (r : StepRun) (e : BitVec 512)
    (ho : ownEntry s t u 0x0A = some (r, e)) (hcause : postCause e = none) (hc : c = e.toNat / 2 ^ 64 % 2 ^ 15)
    (hin : inStep r c false = true)
    (hbad : ((s.tile t).ts.read (128 * c + 64 * (if e.getLsbD 79 then 1 else 0)) 64).bad = []) :
    ∃ z, exec (.post t u lost) s = .next z
      ∧ z.host.mbOf (e.toNat / 2 ^ 32 % 2 ^ 8) =
        ⟨(s.host.mbOf (e.toNat / 2 ^ 32 % 2 ^ 8)).seq + 1, true,
          (s.host.mbOf (e.toNat / 2 ^ 32 % 2 ^ 8)).overrun || (s.host.mbOf (e.toNat / 2 ^ 32 % 2 ^ 8)).valid,
          BitVec.ofNat 512 ((s.tile t).ts.read (128 * c + 64 * (if e.getLsbD 79 then 1 else 0)) 64).data⟩
      ∧ (∀ n, n ≠ e.toNat / 2 ^ 32 % 2 ^ 8 → z.host.mbOf n = s.host.mbOf n)
      ∧ (e.getLsbD 40 = true → z.ic.pend.getLsbD 80 = true) ∧ (e.getLsbD 40 = false → z.ic = s.ic)
      ∧ (∀ j, (z.tile j).ts.bytes = (s.tile j).ts.bytes) ∧ z.ddr = s.ddr := by
  have hb : (if e.getLsbD 79 then 1 else 0) = b2n (bit e 79) := rfl
  have hmb : e.toNat / 2 ^ 32 % 2 ^ 8 = fld e 32 8 := (fld_eq ..).symm
  rw [← fld_eq] at hc
  subst hc
  rw [hb] at hbad ⊢
  rw [hmb]
  refine ⟨_, execPost_of_read ho hcause hin hbad, ?_⟩
  obtain ⟨hmbs, hic, hbytes, hddr⟩ := posted_spec t u lost ((s.tile t).ts.read (128 * fld e 64 15 + 64 * b2n (bit e 79)) 64).off e
      (BitVec.ofNat 512 ((s.tile t).ts.read (128 * fld e 64 15 + 64 * b2n (bit e 79)) 64).data) s
  refine ⟨?_, fun n hn => ?_, fun h40 => ?_, fun h40 => ?_, hbytes, hddr⟩
  · rw [HostIf.mbOf, hmbs]
    exact sget_sset_of_ne (d := fun _ => ResMb.reset) (ResMb.post_ne_reset _ _) _
  · rw [HostIf.mbOf, hmbs]
    exact sget_sset_ne _ _ hn _
  · rw [hic, bit, h40, if_pos rfl]
    change (s.ic.pend ||| BitVec.ofNat 512 (2 ^ 80)).getLsbD 80 = true
    rw [BitVec.getLsbD_or, BitVec.getLsbD_ofNat, Nat.testBit_two_pow_self]
    simp
  · rw [hic, bit, h40, if_neg Bool.false_ne_true]

/-- Settles O37: each command from the state it begins in. -/
theorem heartbeatAndMailboxesComplete : Obligations.HeartbeatAndMailboxesComplete := by
  unfold Obligations.HeartbeatAndMailboxesComplete
  refine ⟨fun s hen hat hg hreach => ?_, fun s hen hat hg => ?_, fun who v s h hen => ?_,
    fun t u lost c s r e => post_completes t u lost c s r e, fun who n v s hn h hvalid hseq => ?_, fun who n v s hn h hmiss => ?_⟩
  · obtain ⟨page, hpage, hrest⟩ := hbWrite_spec { s with host := { s.host with hbAt := s.te.dmaCopy / 100000 } }
    refine ⟨_, page, ?_, hpage, hrest⟩
    change execHeartbeatDue false s = _
    rw [execHeartbeatDue, if_neg (heartbeat_guard hen hat hg)]
    exact if_pos hreach
  · refine ⟨({ s with host := { s.host with hbAt := s.te.dmaCopy / 100000, hbSkipCnt := satAdd32 s.host.hbSkipCnt 1 } }).devSource 81, ?_,
      rfl, rfl, rfl⟩
    change execHeartbeatDue true s = _
    rw [execHeartbeatDue, if_neg (heartbeat_guard hen hat hg)]
    rfl
  · have hen' : (Claims.came who s).host.hbEn = false := by cases who <;> exact hen
    have hgen : (Claims.came who s).host.hbGen = s.host.hbGen := by cases who <;> rfl
    have hdma : (Claims.came who s).dma = s.dma := by cases who <;> rfl
    refine ⟨_, regWrite_next h (hbCtrlWrite v) rfl, ?_⟩
    cases hv : v.getLsbD 0 with
    | true => simp only [hbCtrlWrite, bit, hv, hen', Bool.not_false, Bool.and_self, Bool.false_eq_true, if_true, if_false, hdma,
        came_tiles, and_self]
    | false => simp only [hbCtrlWrite, bit, hv, hen', Bool.false_and, Bool.false_eq_true, if_false, hdma, hgen, came_tiles, and_self]
  · refine regWrite_next_of hn h (resAck n v) ?_
    simp only [resAck, came_mbOf, hvalid, hseq, decide_true, Bool.and_self, if_true]
  · refine ⟨_, regWrite_next_of hn h (resAck n v) rfl, ?_⟩
    have hno : ((s.host.mbOf n).valid && decide ((s.host.mbOf n).seq = v)) = false := by
      rcases hmiss with hm | hm <;> simp [hm]
    simp only [resAck, came_mbOf, hno, Bool.false_eq_true, if_false]
    cases who <;> exact ⟨rfl, rfl⟩

end Sys2Proof.Machine
end

section
/-! TIME: its advance, holds and slews, and the measurements of SLOT_SYNC. -/

namespace Sys2Proof.Machine

/-- A unit's copy of TIME never goes back. -/
theorem TimeEvt.tileCopy_copies (x : TimeEvt) (k t : Nat) (ht : t < x.tileCopy.length) :
    x.tileCopy.getD t 0 ≤ (x.copies k).tileCopy.getD t 0 := by
  have hmap : (x.copies k).tileCopy = x.tileCopy.zipIdx.map fun (c, u) => copyAt ((x.time :: x.past).take 8) u k c := rfl
  rw [hmap, List.getD_eq_getElem _ _ ht, List.getD_eq_getElem _ _ (by simpa using ht), List.getElem_map, List.getElem_zipIdx]
  exact Nat.le_max_left ..

theorem execTimeTick_running {s : State} (hr : s.te.running = true) (hh : s.te.hold = 0) :
    execTimeTick s = .next (timeCycle { s with
      te := { s.te with time := (s.te.time + s.te.advance.1) % 2 ^ 64, slew := s.te.advance.2 } }) := by
  simp [execTimeTick, hr, hh]

theorem execSlotSyncEdge_measured {s : State} {off : Nat} (hr : s.te.running = true) (hoff : off ≤ 2) (hsrc : s.te.src = 1) :
    execSlotSyncEdge off s = .next (timeMeasure ((nearestBoundary s.te.period.toNat s.te.phase.toNat (s.te.time + off - 1) : Int)
      - ((s.te.time + off - 1 : Nat) : Int)) { s with te := { s.te with syncCap := s.te.time + off - 1 } }) := by
  simp only [execSlotSyncEdge, hr, hsrc, gt_iff_lt, Nat.not_lt_of_le hoff, decide_false, Bool.not_true, Bool.or_self,
    Bool.false_eq_true, if_false, if_true]

/-- What every measurement leaves: its error, and no correction in progress. -/
def TimeEvt.measured (x : TimeEvt) (e : Int) : TimeEvt :=
  { x with err := BitVec.ofNat 32 (wrap 32 (satS 32 e)), aligned := true, firstMeas := false, slew := none, hold := 0 }

theorem timeMeasure_eq (e : Int) (s : State) : timeMeasure e s =
    if e = 0 then { s with te := s.te.measured e }
    else if s.te.firstMeas = true ∨ 1000 < e.natAbs then
      if 0 < e then timeStepped { s with te := (s.te.measured e).forward e.natAbs }
      else timeStepped { s with te := { s.te.measured e with hold := e.natAbs } }
    else { s with te := { s.te.measured e with slew := some ⟨e.natAbs, decide (0 < e), 0⟩ } } := by
  unfold timeMeasure
  simp only [Bool.or_eq_true, decide_eq_true_eq, gt_iff_lt, TimeEvt.measured]

/-- A measurement that is not 0 is acted on: by a step or a hold, which count and set the source, or by a slew. -/
theorem timeMeasure_spec (e : Int) (s : State) (he : e ≠ 0) :
    (timeMeasure e s).te.syncCap = s.te.syncCap ∧ (timeMeasure e s).te.aligned = true ∧ (timeMeasure e s).te.firstMeas = false
      ∧ (timeMeasure e s).te.err = BitVec.ofNat 32 (wrap 32 (satS 32 e))
      ∧ (if s.te.firstMeas = true ∨ 1000 < e.natAbs then
          (timeMeasure e s).te.stepCnt = satAdd32 s.te.stepCnt 1 ∧ (timeMeasure e s).te.slew = none
            ∧ (timeMeasure e s).ic.pend = s.ic.pend ||| BitVec.ofNat 512 (2 ^ 83)
            ∧ (if 0 < e then (timeMeasure e s).te.time = (s.te.time + e.natAbs) % 2 ^ 64 ∧ (timeMeasure e s).te.hold = 0
              else (timeMeasure e s).te.time = s.te.time ∧ (timeMeasure e s).te.hold = e.natAbs)
        else (timeMeasure e s).te.time = s.te.time ∧ (timeMeasure e s).te.hold = 0
          ∧ (timeMeasure e s).te.slew = some ⟨e.natAbs, decide (0 < e), 0⟩ ∧ (timeMeasure e s).te.stepCnt = s.te.stepCnt
          ∧ (timeMeasure e s).ic = s.ic) := by
  rw [timeMeasure_eq, if_neg he]
  by_cases hbig : s.te.firstMeas = true ∨ 1000 < e.natAbs
  · rw [if_pos hbig, if_pos hbig]
    by_cases hpos : 0 < e
    · rw [if_pos hpos, if_pos hpos]
      exact ⟨rfl, rfl, rfl, rfl, rfl, rfl, rfl, rfl, rfl⟩
    · rw [if_neg hpos, if_neg hpos]
      exact ⟨rfl, rfl, rfl, rfl, rfl, rfl, rfl, rfl, rfl⟩
  · rw [if_neg hbig, if_neg hbig]
    exact ⟨rfl, rfl, rfl, rfl, rfl, rfl, rfl, rfl, rfl⟩

/-- Settles O38: the tick by what is left of a hold or a slew, the edge by the error it measures. -/
theorem timeCompletes : Obligations.TimeCompletes := by
  unfold Obligations.TimeCompletes
  refine ⟨fun s hr hh hslew ht => ?_, fun s n phase gain hr hh hslew hphase ht => ?_, fun s hr hh => ?_, fun s hr hh => ?_,
    fun s off hr hoff hsrc => ?_, fun s off c e hr hoff hsrc hc he hne => ?_, fun s off hr hoff hsrc hb => ?_, fun who v s h => ?_⟩
  · have hadv : s.te.advance = (1, none) := by rw [TimeEvt.advance, hslew]
    refine ⟨_, execTimeTick_running hr hh, ?_, ?_, hh, rfl, rfl, fun t hlt => TimeEvt.tileCopy_copies
      { s.te with time := (s.te.time + s.te.advance.1) % 2 ^ 64, slew := s.te.advance.2 } _ t hlt, rfl, rfl, rfl⟩
    · change (s.te.time + s.te.advance.1) % 2 ^ 64 = _
      rw [hadv, Nat.mod_eq_of_lt ht]
    · exact congrArg Prod.snd hadv
  · have hadv : s.te.advance = (if gain then 2 else 0, if n ≤ 1 then none else some ⟨n - 1, gain, 0⟩) := by
      simp only [TimeEvt.advance, hslew, if_neg (Nat.not_lt_of_le hphase)]
    refine ⟨_, execTimeTick_running hr hh, ?_, congrArg Prod.snd hadv⟩
    change (s.te.time + s.te.advance.1) % 2 ^ 64 = _
    rw [hadv]
    exact Nat.mod_eq_of_lt (by cases gain <;> simp <;> omega)
  · refine ⟨timeCycle { s with te := { s.te with hold := s.te.hold - 1 } }, ?_, rfl, rfl⟩
    change execTimeTick s = _
    simp [execTimeTick, hr, hh, Nat.ne_of_gt hh]
  · refine ⟨timeCycle { s with te := { s.te with hold := 0 } }, ?_, rfl, rfl, rfl⟩
    change execTimeHoldEnd s = _
    simp [execTimeHoldEnd, hr, hh]
  · change execSlotSyncEdge off s = _
    simp only [execSlotSyncEdge, hr, hsrc, gt_iff_lt, Nat.not_lt_of_le hoff, decide_false, Bool.not_true, Bool.or_self,
      Bool.false_eq_true, if_false]
  · refine ⟨_, execSlotSyncEdge_measured hr hoff hsrc, ?_⟩
    subst hc
    rw [← he]
    exact timeMeasure_spec e _ hne
  · change execSlotSyncEdge off s = _
    rw [execSlotSyncEdge_measured hr hoff hsrc, hb, Int.sub_self, timeMeasure, if_pos rfl]
    rfl
  · exact regWrite_next h _ rfl

end Sys2Proof.Machine
end

section
/-! The sources of events: slot ticks, alarms, pins and the pulse register. -/

namespace Sys2Proof.Machine

/-- One line as a mask, out of the low bits of a configuration. -/
theorem lineMask_fld {n : Nat} (x : BitVec n) : lineMask (fld x 0 6) = BitVec.ofNat 64 (2 ^ (x.toNat % 64)) := by
  rw [lineMask, fld_eq, Nat.pow_zero, Nat.div_one, show (2 : Nat) ^ 6 = 64 from rfl, Nat.mod_mod]

/-- What a pulse of some line does besides the pins' hearing of it. -/
theorem pulse_spec {s : State} {lines : BitVec 64} (h : lines ≠ 0) :
    (s.pulse lines).te.pulses = addPulse s.cycle lines s.te.pulses
      ∧ (s.pulse lines).ic.pend = s.ic.pend ||| (lines.setWidth 512 <<< 128) ∧ (s.pulse lines).tiles = s.tiles := by
  unfold State.pulse State.pulseAt
  simp only [if_neg h, Nat.le_refl, if_true]
  exact ⟨rfl, rfl, rfl⟩

theorem alarmNext_eq (skip : Bool) (a p time : Nat) : alarmNext skip a p time =
    if skip = false ∨ p = 0 ∨ time < a + p then a + p else a + ((time - a) / p + 1) * p := by
  simp only [alarmNext, Bool.or_eq_true, Bool.not_eq_true', decide_eq_true_eq, gt_iff_lt, or_assoc]

/-- A new state for pin `k`, whatever is known of the old one. -/
theorem State.updOut_of_getElem {s : State} {k : Nat} {p q : EvtOut} {f : EvtOut → EvtOut} (hp : s.te.out[k]? = some p) (hf : f p = q) :
    s.updOut k f = s.updOut k fun _ => q :=
  congrArg (fun l => { s with te := { s.te with out := l } }) (upd_congr p (by
    rw [List.getD_eq_getElem?_getD, hp]
    exact hf))

/-- Settles O39: each source at the moment it pulses; the pins' edges in order. -/
theorem eventSourcesComplete : Obligations.EventSourcesComplete := by
  unfold Obligations.EventSourcesComplete
  refine ⟨fun s b hb h6 hdone => ?_, fun k s hk h6 hdue => ?_, fun k level s c hk ha hne hc h6 hkind => ?_,
    fun k s p r hk hp => ⟨fun w he => ?_, fun w he => ?_, fun c hu hle => ?_⟩, fun who k v s hk h => ?_, fun who lines s hne h => ?_⟩
  · change execSlotTick s = _
    simp only [execSlotTick, hb, bit, h6, hdone, decide_true, Bool.and_self, if_true, lineMask_fld]
  · change execAlarmFire k s = _
    simp only [execAlarmFire, hk, bit, h6, ge_iff_le, hdue, decide_true, Bool.and_self, if_true, lineMask_fld, alarmNext_eq]
    rfl
  · subst hc
    have hfire : (decide (fld (s.te.inCfg.getD k 0) 8 2 = 2) || decide (fld (s.te.inCfg.getD k 0) 8 2 = 0) && level
        || decide (fld (s.te.inCfg.getD k 0) 8 2 = 1) && !level) = true := by
      rw [fld_eq, show (2 : Nat) ^ 8 = 256 from rfl, show (2 : Nat) ^ 2 = 4 from rfl]
      simp only [Bool.or_eq_true, Bool.and_eq_true, Bool.not_eq_true', decide_eq_true_eq, or_assoc]
      exact hkind
    change execEvtInEdge k level false s = _
    simp only [execEvtInEdge, ha, ge_iff_le, Nat.not_le_of_lt hk, hne, decide_false, Bool.not_true, Bool.or_self, Bool.false_eq_true,
      if_false, bit, h6, hfire, Bool.and_self, if_true, Bool.false_and, lineMask_fld]
  · exact congrArg _ ((if_pos hk).trans (State.updOut_of_getElem hp (by rw [EvtOut.edge, he])))
  · exact congrArg _ ((if_pos hk).trans (State.updOut_of_getElem hp (by rw [EvtOut.edge, he])))
  · exact congrArg _ (State.updOut_of_getElem hp (by simp only [hu, ge_iff_le, hle, if_true]))
  · refine regWrite_next_of hk h _ ?_
    refine congrArg (fun f => (Claims.came who s).updOut k f) (funext fun p => ?_)
    simp only [EvtOut.cfgWrite, bit, Bool.and_eq_true, Bool.not_eq_true']
  · have hcycle : (Claims.came who s).cycle = s.cycle ∧ (Claims.came who s).te = s.te ∧ (Claims.came who s).ic = s.ic := by
      cases who <;> exact ⟨rfl, rfl, rfl⟩
    obtain ⟨hcycle, hte, hic⟩ := hcycle
    obtain ⟨h1, h2, h3⟩ := pulse_spec (s := Claims.came who s) hne
    refine ⟨_, regWrite_next h _ rfl, ?_, ?_, ?_⟩
    · rw [h1, hcycle, hte]
    · rw [h2, hic]
    · rw [h3, came_tiles]

end Sys2Proof.Machine
end

section
/-! The registers of the interrupt controllers. -/

namespace Sys2Proof.Machine

theorem SameCycle.setBits_eq {w : Nat} (c : SameCycle w) (s : State) (v b : BitVec w) :
    c.setBits s.cycle v b = v ||| (b &&& ~~~Claims.clrNow c s) := by
  rw [SameCycle.setBits, SameCycle.now, apply_ite SameCycle.clr]
  rfl

theorem SameCycle.clrBits_eq {w : Nat} (c : SameCycle w) (s : State) (v b : BitVec w) :
    c.clrBits s.cycle v b = v &&& ~~~(b &&& ~~~Claims.occNow c s) := by
  rw [SameCycle.clrBits, SameCycle.now, apply_ite SameCycle.occ]
  rfl

theorem came_cycle (who : Who) (s : State) : (Claims.came who s).cycle = s.cycle := by cases who <;> rfl

theorem came_ic (who : Who) (s : State) : (Claims.came who s).ic = s.ic := by cases who <;> rfl

theorem came_pba (who : Who) (s : State) : (Claims.came who s).host.pba = s.host.pba := by cases who <;> rfl

theorem came_tile (who : Who) (s : State) (t : Nat) : (Claims.came who s).tile t = s.tile t := by cases who <;> rfl

/-- What the device controller's move leaves of the new state, and what it tells the host. -/
theorem icTo_spec (d : DevIc) (s : State) :
    (s.icTo d).ic.pend = d.pend ∧ (s.icTo d).ic.qmask = d.qmask ∧ (s.icTo d).ic.hmask = d.hmask ∧ (s.icTo d).ic.qlevel = d.qlevel
      ∧ (s.icTo d).ic.route = d.route ∧ (s.icTo d).tiles = s.tiles ∧ (s.icTo d).host.pba = s.host.pba ||| newVectors s.ic d :=
  ⟨rfl, rfl, rfl, rfl, rfl, rfl, rfl⟩

/-- New vectors depend on the pending bits, the host's mask and the routing alone. -/
theorem newVectors_congr {c d e : DevIc} (hp : d.pend = e.pend) (hm : d.hmask = e.hmask) (hr : d.route = e.route) :
    newVectors c d = newVectors c e := by
  have hvec (k : Nat) : d.vec k = e.vec k := by rw [DevIc.vec, DevIc.vec, hr]
  simp only [newVectors, hp, hm, hvec]

theorem icPendSet_spec (w : Nat) (v : BitVec 32) (s : State) :
    (icPendSet w v s).ic.pend = s.ic.pend ||| (v.setWidth 512 <<< (32 * w) &&& ~~~Claims.clrNow s.ic.pendC s)
      ∧ (icPendSet w v s).ic.qmask = s.ic.qmask ∧ (icPendSet w v s).ic.hmask = s.ic.hmask ∧ (icPendSet w v s).ic.qlevel = s.ic.qlevel
      ∧ (icPendSet w v s).ic.route = s.ic.route ∧ (icPendSet w v s).tiles = s.tiles
      ∧ (icPendSet w v s).host.pba = s.host.pba ||| newVectors s.ic
          { s.ic with pend := s.ic.pend ||| (v.setWidth 512 <<< (32 * w) &&& ~~~Claims.clrNow s.ic.pendC s) } := by
  rw [← SameCycle.setBits_eq]
  exact icTo_spec _ s

theorem icPendClr_spec (w : Nat) (v : BitVec 32) (s : State) :
    (icPendClr w v s).ic.pend = s.ic.pend &&& ~~~(v.setWidth 512 <<< (32 * w) &&& ~~~Claims.occNow s.ic.pendC s)
      ∧ (icPendClr w v s).ic.qmask = s.ic.qmask ∧ (icPendClr w v s).ic.hmask = s.ic.hmask ∧ (icPendClr w v s).tiles = s.tiles := by
  rw [← SameCycle.clrBits_eq]
  exact ⟨rfl, rfl, rfl, rfl⟩

theorem icMaskSet_spec (w : Nat) (v : BitVec 32) (s : State) :
    ((icMaskSet true w v s).ic.hmask = s.ic.hmask ||| (v.setWidth 512 <<< (32 * w) &&& ~~~Claims.clrNow s.ic.hmaskC s)
      ∧ (icMaskSet true w v s).ic.qmask = s.ic.qmask ∧ (icMaskSet true w v s).ic.pend = s.ic.pend)
    ∧ ((icMaskSet false w v s).ic.qmask = s.ic.qmask ||| (v.setWidth 512 <<< (32 * w) &&& ~~~Claims.clrNow s.ic.qmaskC s)
      ∧ (icMaskSet false w v s).ic.hmask = s.ic.hmask ∧ (icMaskSet false w v s).ic.pend = s.ic.pend) := by
  rw [← SameCycle.setBits_eq, ← SameCycle.setBits_eq]
  exact ⟨⟨rfl, rfl, rfl⟩, ⟨rfl, rfl, rfl⟩⟩

theorem icMaskClr_spec (w : Nat) (v : BitVec 32) (s : State) :
    ((icMaskClr true w v s).ic.hmask = s.ic.hmask &&& ~~~(v.setWidth 512 <<< (32 * w) &&& ~~~Claims.occNow s.ic.hmaskC s)
      ∧ (icMaskClr true w v s).ic.qmask = s.ic.qmask ∧ (icMaskClr true w v s).ic.pend = s.ic.pend
      ∧ (icMaskClr true w v s).host.pba = s.host.pba ||| newVectors s.ic
          { s.ic with hmask := s.ic.hmask &&& ~~~(v.setWidth 512 <<< (32 * w) &&& ~~~Claims.occNow s.ic.hmaskC s) })
    ∧ ((icMaskClr false w v s).ic.qmask = s.ic.qmask &&& ~~~(v.setWidth 512 <<< (32 * w) &&& ~~~Claims.occNow s.ic.qmaskC s)
      ∧ (icMaskClr false w v s).ic.hmask = s.ic.hmask ∧ (icMaskClr false w v s).ic.pend = s.ic.pend) := by
  rw [← SameCycle.clrBits_eq, ← SameCycle.clrBits_eq]
  exact ⟨⟨rfl, rfl, rfl, congrArg (s.host.pba ||| ·) (newVectors_congr rfl rfl rfl)⟩, ⟨rfl, rfl, rfl⟩⟩

theorem icQLevel_spec (w : Nat) (v : BitVec 32) (s : State) :
    (icQLevel w (v.setWidth 64).toNat s).ic.qlevel = setFld s.ic.qlevel (32 * w) 32 v.toNat
      ∧ (icQLevel w (v.setWidth 64).toNat s).ic.pend = s.ic.pend ∧ (icQLevel w (v.setWidth 64).toNat s).tiles = s.tiles := by
  have hv : (v.setWidth 64).toNat = v.toNat := by
    rw [BitVec.toNat_setWidth]
    exact Nat.mod_eq_of_lt (Nat.lt_trans v.isLt (by decide))
  rw [hv]
  exact ⟨rfl, rfl, rfl⟩

theorem clrNow_came {w : Nat} (c : SameCycle w) (who : Who) (s : State) : Claims.clrNow c (Claims.came who s) = Claims.clrNow c s := by
  cases who <;> rfl

theorem occNow_came {w : Nat} (c : SameCycle w) (who : Who) (s : State) : Claims.occNow c (Claims.came who s) = Claims.occNow c s := by
  cases who <;> rfl

/-- A write of a tile's controller changes that controller as `f` says, and no other tile. -/
theorem icTile_next {who : Who} {t : Nat} {p : HostPerm} {s : State} {f : State → State} {g : TileIc → TileIc} (ht : t < 16)
    (hlen : s.tiles.length = 16) (h : Claims.Writable who (icBlk who t) p s) (hf : f (Claims.came who s) = (Claims.came who s).updTic t g) :
    ∃ z, (.next (if t < 16 then regWrite who (icBlk who t) p f s else s) : Out) = .next z
      ∧ (z.tile t).ic = g (s.tile t).ic ∧ (z.tile t).seq = (s.tile t).seq ∧ ∀ j, j ≠ t → z.tile j = s.tile j := by
  have htile : ((Claims.came who s).updTic t g).tile t = { s.tile t with ic := g (s.tile t).ic } :=
    (State.tile_updTile_same _ _ _ (by rw [came_tiles, hlen]; exact ht)).trans (by rw [came_tile])
  refine ⟨_, regWrite_next_of ht h f hf, congrArg Tile.ic htile, ?_, fun j hj => ?_⟩
  · rw [htile]
  · exact (State.tile_updTile_ne _ _ _ _ hj).trans (came_tile ..)

theorem icTPendSet_eq (t : Nat) (v : BitVec 64) (s : State) : icTPendSet t v s = s.updTic t fun c =>
    c.moveTo { c with pend := c.pendC.setBits s.cycle c.pend v } := rfl

theorem icTPendClr_eq (t : Nat) (v : BitVec 64) (s : State) : icTPendClr t v s = s.updTic t fun c =>
    c.moveTo { c with pend := c.pendC.clrBits s.cycle c.pend v, pendC := c.pendC.cleared s.cycle v } := rfl

theorem icTMaskSet_eq (t : Nat) (v : BitVec 64) (s : State) : icTMaskSet t v s = s.updTic t fun c =>
    c.moveTo { c with mask := c.maskC.setBits s.cycle c.mask v } := rfl

theorem icTMaskClr_eq (t : Nat) (v : BitVec 64) (s : State) : icTMaskClr t v s = s.updTic t fun c =>
    c.moveTo { c with mask := c.maskC.clrBits s.cycle c.mask v, maskC := c.maskC.cleared s.cycle v } := rfl

/-- Settles O40: a write runs on the controller as it stands, and the move to its new state keeps what the write did not name. -/
theorem interruptRegistersComplete : Obligations.InterruptRegistersComplete := by
  unfold Obligations.InterruptRegistersComplete
  refine ⟨fun who w v s hw => ⟨fun h => ⟨⟨_, regWrite_next_of hw h (icPendSet w v) rfl, ?_⟩, ⟨_, regWrite_next_of hw h (icPendClr w v) rfl, ?_⟩,
        ⟨_, regWrite_next_of hw h (icMaskSet true w v) rfl, ?_⟩, ⟨_, regWrite_next_of hw h (icMaskClr true w v) rfl, ?_⟩⟩,
      fun h => ⟨⟨_, regWrite_next_of hw h (icMaskSet false w v) rfl, ?_⟩, ⟨_, regWrite_next_of hw h (icMaskClr false w v) rfl, ?_⟩,
        ⟨_, regWrite_next_of hw h (icQLevel w (v.setWidth 64).toNat) rfl, ?_⟩⟩⟩,
    fun who t v s ht hlen => ⟨fun h => ?_, fun h => ⟨?_, ?_, ?_, ?_, ?_, ?_⟩⟩,
    fun who k v s hk h => regWrite_next_of hk h _ (by cases who <;> rfl)⟩
  · simpa only [came_ic, came_tiles, came_pba, clrNow_came] using icPendSet_spec w v (Claims.came who s)
  · simpa only [came_ic, came_tiles, occNow_came] using icPendClr_spec w v (Claims.came who s)
  · simpa only [came_ic, clrNow_came] using (icMaskSet_spec w v (Claims.came who s)).1
  · simpa only [came_ic, came_pba, occNow_came] using (icMaskClr_spec w v (Claims.came who s)).1
  · simpa only [came_ic, clrNow_came] using (icMaskSet_spec w v (Claims.came who s)).2
  · simpa only [came_ic, occNow_came] using (icMaskClr_spec w v (Claims.came who s)).2
  · simpa only [came_ic, came_tiles] using icQLevel_spec w v (Claims.came who s)
  · obtain ⟨z, hz, hic, hseq, hne⟩ := icTile_next ht hlen h (f := icTPendSet t v) (icTPendSet_eq t v _)
    refine ⟨z, hz, ?_, (congrArg TileIc.mask hic).trans rfl, (congrArg TileIc.level hic).trans rfl, hseq, hne⟩
    rw [← SameCycle.setBits_eq, hic, came_cycle]
    rfl
  · obtain ⟨z, hz, hic, -, hne⟩ := icTile_next ht hlen h (f := icTPendClr t v) (icTPendClr_eq t v _)
    refine ⟨z, hz, ?_, (congrArg TileIc.mask hic).trans rfl, hne⟩
    rw [← SameCycle.clrBits_eq, hic, came_cycle]
    rfl
  · obtain ⟨z, hz, hic, -, hne⟩ := icTile_next ht hlen h (f := icTMaskSet t v) (icTMaskSet_eq t v _)
    refine ⟨z, hz, ?_, (congrArg TileIc.pend hic).trans rfl, hne⟩
    rw [← SameCycle.setBits_eq, hic, came_cycle]
    rfl
  · obtain ⟨z, hz, hic, -, hne⟩ := icTile_next ht hlen h (f := icTMaskClr t v) (icTMaskClr_eq t v _)
    refine ⟨z, hz, ?_, (congrArg TileIc.pend hic).trans rfl, hne⟩
    rw [← SameCycle.clrBits_eq, hic, came_cycle]
    rfl
  · obtain ⟨z, hz, hic, -, hne⟩ := icTile_next ht hlen h (f := icTLevel t none v) rfl
    exact ⟨z, hz, hic, hne⟩
  · obtain ⟨z, hz, hic, -, hne⟩ := icTile_next ht hlen h (f := icTLevel t (some 0) v) rfl
    exact ⟨z, hz, hic, hne⟩
  · obtain ⟨z, hz, hic, -, hne⟩ := icTile_next ht hlen h (f := icTLevel t (some 1) v) rfl
    exact ⟨z, hz, hic, hne⟩

end Sys2Proof.Machine
end

section
/-! RESET_N and the thermal trip. -/

namespace Sys2Proof.Machine

/-- A device held in reset, or tripped, is not alive. -/
theorem alive_eq_false {s : State} (h : s.sec.resetLow = true ∨ s.sec.tripped = true) : s.alive = false := by
  rcases h with h | h <;> simp [State.alive, h]

/-- Settles O46: every branch ends in `lost` or `hatch`, which take the volatile state from that of reset. -/
theorem resetAndTripComplete : Obligations.ResetAndTripComplete := by
  unfold Obligations.ResetAndTripComplete
  refine ⟨fun cool power s => ⟨_, rfl, ⟨alive_eq_false (Or.inl rfl), rfl, rfl, rfl, rfl, rfl, rfl, rfl, rfl, rfl, rfl, rfl, rfl⟩,
      rfl, rfl, rfl, rfl, rfl⟩,
    fun s => ⟨_, rfl, ⟨alive_eq_false (Or.inr rfl), rfl, rfl, rfl, rfl, rfl, rfl, rfl, rfl, rfl, rfl, rfl, rfl⟩, rfl, rfl⟩,
    fun straps hot jtag s hlow hcool => ?_, fun straps jtag s hlow htrip => ?_⟩
  · have hstill : (s.sec.tripped && hot) = false := by
      cases htrip : s.sec.tripped with
      | false => rfl
      | true => exact hcool htrip
    change ∃ t, execResetRelease ⟨straps, jtag⟩ hot s = _ ∧ _
    simp only [execResetRelease, hlow, hstill, Bool.not_true, Bool.false_eq_true, if_false]
    exact ⟨_, rfl, rfl, rfl, rfl, rfl, rfl, rfl, rfl, rfl, rfl, rfl⟩
  · change execResetRelease ⟨straps, jtag⟩ true s = _
    simp only [execResetRelease, hlow, htrip, Bool.not_true, Bool.false_eq_true, if_false, Bool.and_self, if_true]

end Sys2Proof.Machine
end

section
/-! Calibration tasks, gaps and steals. -/

namespace Sys2Proof.Machine

/-! ### A register written as a word -/

theorem packBytes_unpackBytes : ∀ n x : Nat, packBytes (unpackBytes n x) = x % 256 ^ n
  | 0, x => by simp [packBytes, unpackBytes, Nat.mod_one]
  | n + 1, x => by
    rw [unpackBytes, packBytes, packBytes_unpackBytes n, BitVec.toNat_ofNat, show 256 ^ (n + 1) = 256 * 256 ^ n by rw [Nat.pow_succ']]
    exact (Nat.mod_mul ..).symm

theorem unpackBytes_length : ∀ n x : Nat, (unpackBytes n x).length = n
  | 0, _ => rfl
  | n + 1, x => congrArg (· + 1) (unpackBytes_length n (x / 256))

/-- The four bytes of a word at the address of a 32-bit register are one write of it. -/
theorem bar0Bytes_word {who : Who} {o x old : Nat} {b : RegBlock} {v : BitVec 32} {s : State} (ho : o % 8 = 0) (hm : memWindow o = none)
    (hr : regAt o s = some (b, x, old, 4)) :
    bar0Bytes who o (unpackBytes 4 v.toNat) s = regWrite who b.blk (b.perm x) (b.write32 who x v) s := by
  have hunits : units8 5 o (unpackBytes 4 v.toNat) = [(o, unpackBytes 4 v.toNat)] := by
    simp [units8, unpackBytes, ho]
  have hlo : wordPiece o (unpackBytes 4 v.toNat) o s = (some v, s) := by
    have hin : ((List.range 4).filter fun i => decide (o ≤ o + i) && decide (o + i < o + 4)) = [0, 1, 2, 3] := by
      simp [List.range_succ]
    have hv : BitVec.ofNat 32 (packBytes (unpackBytes 4 v.toNat)) = v := by
      rw [packBytes_unpackBytes, show 256 ^ 4 = 2 ^ 32 from rfl, Nat.mod_eq_of_lt v.isLt, BitVec.ofNat_toNat, BitVec.setWidth_eq]
    rw [wordPiece, unpackBytes_length, hin]
    simp [hv, List.take_of_length_le, unpackBytes_length]
  have hhi : wordPiece o (unpackBytes 4 v.toNat) (o + 4) s = (none, s) := by
    have hin : ((List.range 4).filter fun i => decide (o ≤ o + 4 + i) && decide (o + 4 + i < o + 4)) = [] := by
      simp [List.range_succ]
    rw [wordPiece, unpackBytes_length, hin]
    rfl
  have hu : o / 8 * 8 = o := by omega
  unfold bar0Bytes
  rw [unpackBytes_length, hunits]
  simp only [List.foldl_cons, List.foldl_nil, unitWrite, hm, hu, hlo, hhi, hr, wordWrite]

/-- A device source that occurs is pending. -/
theorem State.pend_devSource (s : State) {k : Nat} (hk : k < 512) : (s.devSource k).ic.pend.getLsbD k = true := by
  change (s.ic.pend ||| BitVec.ofNat 512 (2 ^ k)).getLsbD k = true
  rw [BitVec.getLsbD_or, BitVec.getLsbD_ofNat, Nat.testBit_two_pow_self, decide_eq_true hk]
  simp

/-! ### Tasks -/

theorem State.calCh_updCal_same (s : State) {c : Nat} (f : CalChan → CalChan) (h : c < s.cal.ch.length) :
    (s.updCal c f).calCh c = f (s.calCh c) := upd_getD_same _ _ _ _ h

theorem calStart_of_off {s : State} (c : Nat) (h : calOn s = false) : calStart c s = s := by
  simp [calStart, h]

/-- What a start of the first task on a channel may change is that it runs. -/
theorem calStart_eq (c : Nat) (s : State) : ∃ r : Option (CalTask × Nat) → Option (CalTask × Nat), calStart c s = s.updCal c fun x => { x with running := r x.running } := by
  have hself : s = s.updCal c fun x => { x with running := id x.running } :=
    congrArg (fun l => { s with cal := { s.cal with ch := l } }) (upd_self (fun _ => rfl) s.cal.ch c).symm
  unfold calStart
  split
  · exact ⟨id, hself⟩
  · split
    · exact ⟨id, hself⟩
    · split
      · next t _ => exact ⟨fun _ => some (t, s.te.time + t.len), rfl⟩
      · exact ⟨id, hself⟩

theorem calStart_of_fits {ch l : Nat} {s : State} {k : CalTask} (hon : calOn s = true) (hable : calAble s ch = true)
    (hrun : (s.calCh ch).running = none) (hl : calLimit s ch = some l)
    (hk : (((s.calCh ch).dueNow s.te.time).filter fun x => decide (x.len ≤ l)).head? = some k) :
    calStart ch s = s.updCal ch fun x => { x with running := some (k, s.te.time + k.len) } := by
  rw [List.head?_filter] at hk
  simp only [calStart, hon, hable, hrun, hl, hk, Bool.not_true, Option.isSome_none, Bool.or_self, Bool.false_eq_true, if_false]

theorem lastBoundary_le {p f c b : Nat} (h : lastBoundary p f c = some b) : b ≤ c := by
  unfold lastBoundary at h
  split at h
  · cases h
  · cases h
    split
    · omega
    · have := Nat.div_mul_le_self (c - f) p
      omega

/-! ### The end of a task -/

/-- A step's end changes its tile and its mirrors alone. -/
theorem endStep_eq {t : Nat} (ht : t < 16) (u : Bool) (code : Nat) (s : State) : ∃ tiles mirrors,
    endStep t u code s = { s with tiles := tiles, bond := { s.bond with mirrors := mirrors } } := by
  have hlatch (k : Nat) (z : State) : ∃ tiles, z.latchEvent t k = { z with tiles := tiles } := by
    have hcore (f : SeqCore → SeqCore) : z.updCore t f = z.updTile t fun x => { x with seq := f x.seq } :=
      if_neg (Nat.ne_of_lt ht)
    unfold State.latchEvent
    rw [hcore]
    dsimp only
    split
    · exact ⟨_, rfl⟩
    · split
      · exact ⟨_, rfl⟩
      · exact ⟨_, rfl⟩
  have hcomplete (z : State) : ∃ tiles, completeStep t u code false z = { z with tiles := tiles } := by
    unfold completeStep
    split
    · exact ⟨_, rfl⟩
    · dsimp only
      exact hlatch ..
  have hdrop : ∃ tiles mirrors, dropStep t u s = { s with tiles := tiles, bond := { s.bond with mirrors := mirrors } } := by
    unfold dropStep dropMirror
    split
    · exact ⟨_, _, rfl⟩
    · dsimp only
      split
      · exact ⟨_, _, rfl⟩
      · exact ⟨_, _, rfl⟩
  unfold endStep
  split
  · exact ⟨_, _, rfl⟩
  · obtain ⟨l, m, h⟩ := hdrop
    obtain ⟨l', h'⟩ := hcomplete (dropStep t u s)
    exact ⟨l', m, h'.trans (by rw [h])⟩

/-- The halt of every tile's work changes the tiles and their mirrors alone. -/
theorem fenceHalt_fold {l : List Nat} (hl : ∀ t ∈ l, t < 16) (s : State) : ∃ tiles mirrors,
    l.foldl (fun z t => fenceHalt t (fenceSteps t z)) s = { s with tiles := tiles, bond := { s.bond with mirrors := mirrors } } := by
  induction l generalizing s with
  | nil => exact ⟨_, _, rfl⟩
  | cons t l ih =>
    have ht := hl t (List.mem_cons_self ..)
    obtain ⟨l1, m1, h1⟩ := endStep_eq ht false stFenced s
    obtain ⟨l2, m2, h2⟩ := endStep_eq ht true stFenced (endStep t false stFenced s)
    obtain ⟨l3, m3, h3⟩ := ih (fun j hj => hl j (List.mem_cons_of_mem _ hj)) (fenceHalt t (fenceSteps t s))
    refine ⟨l3, m3, h3.trans ?_⟩
    rw [fenceHalt, fenceSteps, h2, h1]
    rfl

/-- A device fault touches neither the calibration nor the channels nor TIME; it shows its cause. -/
theorem deviceFault_spec {s : State} (cause channel : Nat) (h : s.flt.devFault = false) :
    (deviceFault cause channel s).cal = s.cal ∧ (deviceFault cause channel s).ddr = s.ddr ∧ (deviceFault cause channel s).te = s.te
      ∧ (deviceFault cause channel s).mor = s.mor
      ∧ (deviceFault cause channel s).flt
        = { s.flt with devFault := true, cause := BitVec.ofNat 3 cause, channel := BitVec.ofNat 3 channel } := by
  obtain ⟨l, m, hfold⟩ := fenceHalt_fold (l := List.range 16) (fun _ ht => List.mem_range.1 ht) s
  unfold deviceFault
  rw [h, if_neg Bool.false_ne_true, hfold]
  exact ⟨rfl, rfl, rfl, rfl, rfl⟩

theorem deviceFault_of_fault {s : State} (cause channel : Nat) (h : s.flt.devFault = true) : deviceFault cause channel s = s := by
  rw [deviceFault, h, if_pos rfl]

/-- With the tasks off, a task's end starts no other: the channel is free of tasks, unless a steal holds it. -/
theorem taskOver_of_off {c : Nat} {s : State} (hoff : calOn s = false) (hc : c < s.cal.ch.length) :
    ((taskOver c s).calCh c).running = (s.calCh c).running ∧ ((taskOver c s).calCh c).retrainDue = (s.calCh c).retrainDue
      ∧ (taskOver c s).ddr = s.ddr ∧ (taskOver c s).flt = s.flt := by
  unfold taskOver
  simp only [calStart_of_off c hoff]
  split
  · exact ⟨rfl, rfl, rfl, rfl⟩
  · have h : (calFree c s).calCh c = _ := State.calCh_updCal_same s _ hc
    exact ⟨(congrArg CalChan.running h).trans rfl, (congrArg CalChan.retrainDue h).trans rfl, rfl, rfl⟩

/-- A retraining's effect, whether or not it fails. -/
theorem retrain_effect {c : Nat} {drift hot fails : Bool} {s : State} (hc : c < s.cal.ch.length) :
    ((taskEffect c .retrain drift hot fails s).calCh c) = { s.calCh c with retrainDue := none }
      ∧ (taskEffect c .retrain drift hot fails s).cal.ch.length = s.cal.ch.length
      ∧ calOn (taskEffect c .retrain drift hot fails s) = calOn s
      ∧ (fails = true → s.flt.devFault = false → (taskEffect c .retrain drift hot fails s).flt.devFault = true
        ∧ (taskEffect c .retrain drift hot fails s).flt.cause = 1 ∧ (taskEffect c .retrain drift hot fails s).flt.channel = BitVec.ofNat 3 c)
      ∧ (fails = false → (taskEffect c .retrain drift hot fails s).flt = s.flt) := by
  have hsame := State.calCh_updCal_same s (fun x => { x with retrainDue := none }) hc
  have hlen : (s.updCal c fun x => { x with retrainDue := none }).cal.ch.length = s.cal.ch.length := upd_length ..
  cases fails with
  | false => exact ⟨hsame, hlen, rfl, fun h => absurd h Bool.false_ne_true, fun _ => rfl⟩
  | true =>
    cases hd : s.flt.devFault with
    | true =>
      have h : taskEffect c .retrain drift hot true s = s.updCal c fun x => { x with retrainDue := none } := deviceFault_of_fault 1 c hd
      rw [h]
      exact ⟨hsame, hlen, rfl, fun _ h => absurd h.symm Bool.false_ne_true, fun h => absurd h.symm Bool.false_ne_true⟩
    | false =>
      obtain ⟨hcal, -, hte, -, hflt⟩ := deviceFault_spec (s := s.updCal c fun x => { x with retrainDue := none }) 1 c hd
      have h : taskEffect c .retrain drift hot true s = deviceFault 1 c (s.updCal c fun x => { x with retrainDue := none }) := rfl
      rw [h]
      refine ⟨?_, ?_, ?_, fun _ _ => ?_, fun h => absurd h.symm Bool.false_ne_true⟩
      · rw [State.calCh, hcal]
        exact hsame
      · rw [hcal]
        exact hlen
      · rw [calOn, hcal, hte]
        rfl
      · rw [hflt]
        exact ⟨rfl, rfl, rfl⟩

theorem gapTask_ends (ch : Nat) (drift hot fails : Bool) (s : State) (k : CalTask) (e : Nat) (hc : ch < s.cal.ch.length)
    (hd : ch < s.ddr.ch.length) (hrun : (s.calCh ch).running = some (k, e)) (he : e ≤ s.te.time) (hoff : calOn s = false) :
    ∃ t, exec (.calTaskEnd (.gap ch drift hot fails)) s = .next t ∧ (t.calCh ch).running = none
      ∧ (k = .temp → (t.chan ch).hot = hot) ∧ (k = .dqs → drift = true → (t.calCh ch).retrainDue = some ((s.calCh ch).retrainDue.getD s.te.time))
      ∧ (k = .retrain → (t.calCh ch).retrainDue = none)
      ∧ (k = .retrain → fails = true → s.flt.devFault = false →
          t.flt.devFault = true ∧ t.flt.cause = 1 ∧ t.flt.channel = BitVec.ofNat 3 ch)
      ∧ (k ≠ .retrain ∨ fails = false → t.flt = s.flt) := by
  have hran : (taskRan ch k s).calCh ch = { s.calCh ch with
      running := none, ran := if k = .retrain then (s.calCh ch).ran else k :: (s.calCh ch).ran } := State.calCh_updCal_same s _ hc
  have hlen : ch < (taskRan ch k s).cal.ch.length := by
    rw [taskRan, State.updCal, upd_length]
    exact hc
  have hoff' : calOn (taskRan ch k s) = false := hoff
  refine ⟨taskOver ch (taskEffect ch k drift hot fails (taskRan ch k s)), ?_, ?_⟩
  · change execCalTaskEnd (.gap ch drift hot fails) s = _
    simp only [execCalTaskEnd, hrun, ge_iff_le, he, if_true]
  cases k with
  | retrain =>
    obtain ⟨hz, hzlen, hzon, hfail, hkept⟩ := retrain_effect (drift := drift) (hot := hot) (fails := fails) hlen
    obtain ⟨h1, h2, h3, h4⟩ := taskOver_of_off (hzon.trans hoff') (by rw [hzlen]; exact hlen)
    refine ⟨?_, nofun, nofun, fun _ => ?_, fun _ hf hdev => ?_, fun h => ?_⟩
    · rw [h1, hz, hran]
    · rw [h2, hz]
    · rw [h4]
      exact hfail hf hdev
    · rw [h4]
      exact hkept (h.resolve_left fun hn => hn rfl)
  | dqs =>
    cases drift with
    | false =>
      obtain ⟨h1, h2, h3, h4⟩ := taskOver_of_off hoff' hlen
      exact ⟨h1.trans (by rw [hran]), nofun, fun _ h => absurd h Bool.false_ne_true, nofun, nofun, fun _ => h4⟩
    | true =>
      have hz := State.calCh_updCal_same (taskRan ch .dqs s)
        (fun x => { x with retrainDue := some (x.retrainDue.getD s.te.time) }) hlen
      obtain ⟨h1, h2, h3, h4⟩ := taskOver_of_off (c := ch) (s := (taskRan ch .dqs s).updCal ch
        fun x => { x with retrainDue := some (x.retrainDue.getD s.te.time) }) hoff' (by rw [State.updCal, upd_length]; exact hlen)
      refine ⟨h1.trans (by rw [hz, hran]), nofun, fun _ _ => h2.trans (by rw [hz, hran]), nofun, nofun, fun _ => h4⟩
  | temp =>
    have hz := State.chan_updChan_same (taskRan ch .temp s) (fun x => { x with hot := hot }) hd
    obtain ⟨h1, h2, h3, h4⟩ := taskOver_of_off (c := ch) (s := (taskRan ch .temp s).updChan ch fun x => { x with hot := hot }) hoff' hlen
    refine ⟨h1.trans (by rw [State.calCh]; exact congrArg CalChan.running hran), fun _ => ?_, nofun, nofun, nofun, fun _ => h4⟩
    exact (congrArg (fun d : Ddr => (d.ch.getD ch .reset).hot) h3).trans (congrArg DdrChan.hot hz)
  | zq =>
    obtain ⟨h1, h2, h3, h4⟩ := taskOver_of_off hoff' hlen
    exact ⟨h1.trans (by rw [hran]), nofun, nofun, nofun, nofun, fun _ => h4⟩

/-! ### Gaps, steals and registers -/

theorem gap_starts (k b : Nat) (s : State) (hrun : s.te.running = true) (hk : k < 8) (hset : gapSettle s = s)
    (h56 : bit (s.cal.gapCur.getD k 0) 56 = true) (h57 : bit (s.cal.gapCur.getD k 0) 57 = false)
    (h58 : bit (s.cal.gapCur.getD k 0) 58 = false) (hch : gCh (s.cal.gapCur.getD k 0) = 0)
    (hb : lastBoundary s.te.period.toNat (s.te.phase.toNat + gPhase (s.cal.gapCur.getD k 0)) s.te.quoinCopy = some b)
    (hprev : s.te.quoinPrev < b) (hend : s.te.quoinCopy < b + gLen (s.cal.gapCur.getD k 0))
    (hnot : (k, b + gLen (s.cal.gapCur.getD k 0), 0) ∉ s.cal.inGap) :
    exec (.calGapStart k) s = .next (if s.te.stepFrom < b ∧ b < s.te.stepTo then s else { s with
      cal := { s.cal with inGap := s.cal.inGap ++ [(k, b + gLen (s.cal.gapCur.getD k 0), 0)] } }) := by
  have hdue : gapDue b (gLen (s.cal.gapCur.getD k 0)) s.te = !(decide (s.te.stepFrom < b) && decide (b < s.te.stepTo)) := by
    rw [gapDue, decide_eq_true hprev, decide_eq_true (lastBoundary_le hb), decide_eq_true hend]
    rfl
  have hin : s.cal.inGap.contains (k, b + gLen (s.cal.gapCur.getD k 0), (0 : BitVec 8)) = false := by
    simpa using hnot
  have hnone (z : State) : (List.range 8).foldl (fun z c => if bit (0 : BitVec 8) c then calStart c z else z) z = z :=
    foldl_keeps (· = z) _ (fun y c hy => by simp [bit, hy]) _ z rfl
  change execCalGapStart k s = _
  simp only [execCalGapStart, hset, hb, hrun, ge_iff_le, Nat.not_le_of_lt hk, h56, h57, h58, hch, hdue, hin, decide_false, Bool.not_true,
    Bool.not_not, Bool.or_false, Bool.false_or, Bool.false_and, Bool.false_eq_true, if_false, hnone, Bool.and_eq_true, decide_eq_true_eq]
  split <;> rfl

/-- What a steal's start makes of the state before the first task on the channel starts. -/
def stolenBy (ch : Nat) (s : State) : State :=
  (((({ s with cal := { s.cal with stealing := some s.te.time, stealCh := BitVec.ofNat 3 ch, stolen := true } } : State).updChan ch
    fun c => { c with queue := c.queue.map fun r => { r with stolen := true } }).updCal ch
    fun c => { c with stealCnt := satAdd32 c.stealCnt 1 })).devSource 84

theorem chan_stolenBy (ch : Nat) (s : State) : ∀ r ∈ ((stolenBy ch s).chan ch).queue, r.stolen = true := by
  have hchan : (stolenBy ch s).chan ch = (s.updChan ch fun c => { c with queue := c.queue.map fun r => { r with stolen := true } }).chan ch := rfl
  rw [hchan]
  by_cases hc : ch < s.ddr.ch.length
  · rw [State.chan_updChan_same _ _ hc]
    intro r hr
    obtain ⟨r', -, rfl⟩ := List.mem_map.1 hr
    rfl
  · have hreset : (s.updChan ch fun c => { c with queue := c.queue.map fun r => { r with stolen := true } }).chan ch = .reset :=
      List.getD_eq_default _ _ (by rw [State.updChan, upd_length]; exact Nat.le_of_not_lt hc)
    rw [hreset]
    nofun

theorem steal_starts (ch : Nat) (s : State) (hon : calOn s = true) (hen : s.cal.stealEn = true) (hno : s.cal.stealing = none)
    (hrest : ∀ e, s.cal.lastSteal = some e → e + 50000 ≤ s.te.time) (hnext : stealNext s = some ch) :
    ∃ t, exec (.calStealStart ch) s = .next t ∧ t.cal.stealing = some s.te.time ∧ t.cal.stealCh = BitVec.ofNat 3 ch
      ∧ t.ic.pend.getLsbD 84 = true ∧ (∀ r ∈ (t.chan ch).queue, r.stolen = true)
      ∧ (ch < s.cal.ch.length → (t.calCh ch).stealCnt = satAdd32 (s.calCh ch).stealCnt 1) := by
  have hexec : exec (.calStealStart ch) s = .next (calStart ch (stolenBy ch s)) := by
    change execCalStealStart ch s = _
    cases hl : s.cal.lastSteal with
    | none => simp only [execCalStealStart, hon, hen, hno, hnext, hl, Option.isNone_none, decide_true, Bool.and_self, if_true, stolenBy]
    | some e =>
      simp only [execCalStealStart, hon, hen, hno, hnext, hl, ge_iff_le, hrest e hl, Option.isNone_none, decide_true, Bool.and_self,
        if_true, stolenBy]
  obtain ⟨r, hr⟩ := calStart_eq ch (stolenBy ch s)
  refine ⟨_, hexec, ?_⟩
  rw [hr]
  refine ⟨rfl, rfl, State.pend_devSource _ (by decide), chan_stolenBy ch s, fun hc => ?_⟩
  · have hlen : ch < (stolenBy ch s).cal.ch.length := by
      change ch < (upd s.cal.ch ch _).length
      rw [upd_length]
      exact hc
    refine (congrArg CalChan.stealCnt (State.calCh_updCal_same _ _ hlen)).trans ?_
    exact (congrArg CalChan.stealCnt (State.calCh_updCal_same s (fun c => { c with stealCnt := satAdd32 c.stealCnt 1 }) hc)).trans rfl

theorem steal_ends (s : State) (hst : s.cal.stealing.isSome = true) (hrun : (s.calCh s.cal.stealCh.toNat).running = none) :
    ∃ t, exec .calStealEnd s = .next t ∧ t.cal.stealing = none ∧ t.cal.lastSteal = some s.te.time
      ∧ (s.cal.stealCh.toNat < s.cal.ch.length → (t.calCh s.cal.stealCh.toNat).stolenEnd = some s.te.time) ∧ t.tiles = s.tiles := by
  refine ⟨({ calFree s.cal.stealCh.toNat s with
      cal := { (calFree s.cal.stealCh.toNat s).cal with stealing := none, lastSteal := some s.te.time } } : State).updCal s.cal.stealCh.toNat
        fun x => { x with stolenEnd := some s.te.time }, ?_, rfl, rfl, fun hc => ?_, rfl⟩
  · change execCalStealEnd s = _
    simp only [execCalStealEnd, hst, hrun, Option.isNone_none, Bool.and_self, if_true]
  · refine (congrArg CalChan.stolenEnd (State.calCh_updCal_same _ _ ?_)).trans rfl
    exact (upd_length ..).symm ▸ hc

theorem halves_whole (old v : BitVec 64) : halves old (some (v.extractLsb' 0 32)) (some (v.extractLsb' 32 32)) = v := by
  refine BitVec.eq_of_getLsbD_eq fun i hi => ?_
  change (((v.extractLsb' 32 32) ++ (v.extractLsb' 0 32)).setWidth 64).getLsbD i = _
  rw [BitVec.getLsbD_setWidth, BitVec.getLsbD_append, BitVec.getLsbD_extractLsb', BitVec.getLsbD_extractLsb']
  by_cases h : i < 32
  · simp [h, hi]
  · have h1 : i - 32 < 32 := by omega
    have h2 : 32 + (i - 32) = i := by omega
    simp [h, hi, h1, h2]

/-- CAL_GAP[k] as a write of `v` leaves it: EN stays 0 where PHASE is not below the slot period. -/
def gapValue (v : BitVec 64) (period : Nat) : BitVec 64 :=
  if gPhase (v &&& 0x07FFFFFFFFFFFFFF#64) < period then v &&& 0x07FFFFFFFFFFFFFF#64 else setBit (v &&& 0x07FFFFFFFFFFFFFF#64) 56 false

theorem gapMask {i : Nat} (h : i < 59) (v : BitVec 64) : (v &&& 0x07FFFFFFFFFFFFFF#64).getLsbD i = v.getLsbD i := by
  have hm : ∀ i < 59, (0x07FFFFFFFFFFFFFF#64).getLsbD i = true := by decide
  rw [BitVec.getLsbD_and, hm i h, Bool.and_true]

theorem gPhase_mask (v : BitVec 64) : gPhase (v &&& 0x07FFFFFFFFFFFFFF#64) = v.toNat % 2 ^ 32 := by
  refine Nat.eq_of_testBit_eq fun i => ?_
  rw [gPhase, testBit_fld, Nat.testBit_mod_two_pow, Nat.zero_add, BitVec.testBit_toNat]
  by_cases hi : i < 32
  · rw [gapMask (by omega)]
  · simp [hi]

theorem gapValue_spec (v : BitVec 64) (period : Nat) : (gapValue v period).extractLsb' 0 56 = v.extractLsb' 0 56
    ∧ bit (gapValue v period) 56 = (bit v 56 && decide (v.toNat % 2 ^ 32 < period)) := by
  rw [gapValue, gPhase_mask]
  by_cases hp : v.toNat % 2 ^ 32 < period
  · rw [if_pos hp, decide_eq_true hp, Bool.and_true]
    refine ⟨BitVec.eq_of_getLsbD_eq fun i hi => ?_, gapMask (by decide) v⟩
    rw [BitVec.getLsbD_extractLsb', BitVec.getLsbD_extractLsb', gapMask (by omega)]
  · rw [if_neg hp, decide_eq_false hp, Bool.and_false]
    refine ⟨BitVec.eq_of_getLsbD_eq fun i hi => ?_, ?_⟩
    · have hne : ¬ 0 + i = 56 := by omega
      rw [BitVec.getLsbD_extractLsb', BitVec.getLsbD_extractLsb', getLsbD_setBit]
      simp only [hne]
      rw [gapMask (by omega)]
      simp [show i < 64 by omega]
    · rw [bit, getLsbD_setBit]
      simp

theorem gapWrite_next (who : Who) (k : Nat) (v : BitVec 64) (s : State) (hk : k < 8) (hlen : k < s.cal.gap.length)
    (h : Claims.Writable who .always .yes s) :
    ∃ t, exec (.calGapWrite who k (some (v.extractLsb' 0 32)) (some (v.extractLsb' 32 32))) s = .next t
      ∧ (t.cal.gap.getD k 0).extractLsb' 0 56 = v.extractLsb' 0 56
      ∧ bit (t.cal.gap.getD k 0) 56 = (bit v 56 && decide (v.toNat % 2 ^ 32 < s.te.period.toNat)) ∧ t.cal.gapAt = s.te.quoinCopy := by
  have hsettle (z : State) : (gapSettle z).te = z.te ∧ (gapSettle z).cal.gap = z.cal.gap := by
    unfold gapSettle
    split
    · split <;> exact ⟨rfl, rfl⟩
    · exact ⟨rfl, rfl⟩
  obtain ⟨hte, hgap⟩ := hsettle (Claims.came who s)
  have hte' : (gapSettle (Claims.came who s)).te = s.te := hte.trans (by cases who <;> rfl)
  have hgap' : (gapSettle (Claims.came who s)).cal.gap = s.cal.gap := hgap.trans (by cases who <;> rfl)
  refine ⟨_, regWrite_next_of hk h _ rfl, ?_⟩
  have hval : (calGapWrite k (some (v.extractLsb' 0 32)) (some (v.extractLsb' 32 32)) (Claims.came who s)).cal.gap.getD k 0
      = gapValue v s.te.period.toNat := by
    simp only [calGapWrite, halves_whole, hte', hgap', gapValue]
    exact upd_getD_same _ _ _ _ hlen
  rw [hval]
  exact ⟨(gapValue_spec ..).1, (gapValue_spec ..).2, congrArg TimeEvt.quoinCopy hte'⟩

theorem calCtrl_written (v : BitVec 32) (s : State) (h : Claims.Writable .quoin .always .no s) :
    exec (.hostRegWrite .quoin 0x200800 (.write (unpackBytes 4 v.toNat)) ⟨false, false⟩) s
      = .next { s with cal := calCtrlWrite v s.cal } := by
  have hmem : memWindow 0x200800 = none := by decide
  have hreg : regAt 0x200800 s = some (.cal, 0, b2n s.cal.en + 2 * b2n s.cal.stealEn + 65536 * s.cal.loopMs.toNat, 4) := rfl
  have hregs : regsOnly false 0x200800 4 = true := by decide
  have hexec : exec (.hostRegWrite .quoin 0x200800 (.write (unpackBytes 4 v.toNat)) ⟨false, false⟩) s
      = .next (bar0Bytes .quoin 0x200800 (unpackBytes 4 v.toNat) s) := by
    change execHostRegWrite .quoin 0x200800 (.write (unpackBytes 4 v.toNat)) ⟨false, false⟩ s = _
    simp only [execHostRegWrite, unpackBytes_length, hregs, meshLost, Bool.not_true, Bool.false_and, Bool.false_eq_true, if_false]
  rw [hexec, bar0Bytes_word rfl hmem hreg]
  exact congrArg _ (regWrite_of_writable h _)

/-- Settles O49: the calibration's operations, each by its equation where its condition holds. -/
theorem calibrationComplete : Obligations.CalibrationComplete := by
  unfold Obligations.CalibrationComplete
  refine ⟨fun ch s l k hon hable hrun hl hk => congrArg _ (calStart_of_fits hon hable hrun hl hk), fun hi lo s hon hdue => ?_,
    fun s hon hdue htrim hx => ?_, fun ch s => ⟨fun e hst hch hlt => ?_, fun k e m hst hgap hm => ?_⟩,
    fun k b s hrun hk hset h56 h57 h58 hch hb hprev hend hnot => gap_starts k b s hrun hk hset h56 h57 h58 hch hb hprev hend hnot,
    fun k s => ⟨_, rfl, rfl, rfl, fun e => ?_⟩,
    fun ch drift hot fails s k e _ hc hd hrun he hoff => gapTask_ends ch drift hot fails s k e hc hd hrun he hoff,
    fun s hon htrim hx => ?_, fun ch s hon hable hlate => ?_, fun ch s hon hen hno hrest hnext => steal_starts ch s hon hen hno hrest hnext,
    fun s hst hrun => steal_ends s hst hrun, fun who k v s hk hlen h => gapWrite_next who k v s hk hlen h,
    fun v s h => ⟨_, calCtrl_written v s h, rfl, rfl, rfl, rfl, rfl⟩⟩
  · refine ⟨dieTemp hi lo s, congrArg _ (if_pos (by simp [hon, hdue])), ?_⟩
    unfold dieTemp
    by_cases hwarm : s.cal.dieMax.toInt < 105 ∧ 105 ≤ hi.toInt
    · rw [if_pos (by simpa using hwarm)]
      exact ⟨rfl, rfl, rfl, fun _ _ => State.pend_devSource _ (by decide)⟩
    · rw [if_neg (by simpa using hwarm)]
      exact ⟨rfl, rfl, rfl, fun h1 h2 => absurd ⟨h1, h2⟩ hwarm⟩
  · exact congrArg _ (if_pos (by simp [hon, hdue, htrim, hx]))
  · have hstolen : stolenNow s ch = true := by
      simp [stolenNow, hst, hch, Nat.mod_eq_of_lt hlt]
    rw [calLimit, if_pos hstolen, hst]
    rfl
  · have hstolen : stolenNow s ch = false := by simp [stolenNow, hst]
    simp only [calLimit, hstolen, Bool.false_eq_true, if_false, hgap, List.filter_cons, hm, if_true, List.filter_nil, List.map_cons,
      List.map_nil, List.foldl_nil]
  · simp only [List.mem_filter, Bool.not_eq_true', Bool.and_eq_false_iff, beq_eq_false_iff_ne, decide_eq_false_iff_not, Nat.not_le]
    exact and_congr_right fun _ => ⟨fun h hk => h.resolve_left (fun hn => hn hk), fun h => (em (e.1 = k)).symm.imp id h⟩
  · refine ⟨trimEnd s, congrArg _ (if_pos (by simp [hon, htrim])), ?_⟩
    unfold trimEnd
    rw [if_neg (by simp [hx])]
    cases hmon : s.clk.monTrimmed with
    | true => exact ⟨rfl, rfl, hmon, fun _ => rfl⟩
    | false => exact ⟨rfl, rfl, rfl, fun h => absurd h Bool.false_ne_true⟩
  · exact congrArg _ (if_pos (by simp [hon, hable, hlate]))

end Sys2Proof.Machine
end

section
/-! Fencing and releasing tiles and slices, and the device fault. -/

namespace Sys2Proof.Machine

theorem State.core_of_lt (s : State) {n : Nat} (h : n < 16) : s.core n = (s.tile n).seq := if_neg (Nat.ne_of_lt h)

/-! ### The work of one tile stops -/

/-- The end of a step on one tile leaves every other tile. -/
theorem endStep_tile_ne {t j : Nat} (hj : j ≠ t) (u : Bool) (code : Nat) (s : State) : (endStep t u code s).tile j = s.tile j := by
  have hmirror : (dropMirror t u s).tile j = s.tile j := by
    unfold dropMirror
    split
    · rfl
    · dsimp only
      split
      · exact State.tile_updTile_ne _ _ _ _ hj
      · rfl
  have hdrop : (dropStep t u s).tile j = s.tile j := (State.tile_updTile_ne _ _ _ _ hj).trans hmirror
  unfold endStep
  split
  · rfl
  · refine Eq.trans ?_ hdrop
    unfold completeStep
    split
    · rfl
    · exact (tile_latchEvent_ne hj).trans (State.tile_updTile_ne _ _ _ _ hj)

/-- The sequencer of tile `n` is halted, and nothing waits in its issue registers. -/
def Stopped (n : Nat) (s : State) : Prop :=
  (s.tile n).seq.halted = true ∧ (s.tile n).st.issueN = none ∧ (s.tile n).st.issueU = none

theorem Stopped.congr {n : Nat} {s z : State} (h : z.tile n = s.tile n) (hs : Stopped n s) : Stopped n z := by
  rw [Stopped, h]
  exact hs

theorem stopped_fenceHalt (n : Nat) (s : State) : Stopped n (fenceHalt n s) := by
  by_cases hn : n < s.tiles.length
  · have h : (fenceHalt n s).tile n = _ := State.tile_updTile_same s n _ hn
    rw [Stopped, h]
    exact ⟨rfl, rfl, rfl⟩
  · have h : (fenceHalt n s).tile n = .reset :=
      List.getD_eq_default _ _ (by rw [fenceHalt, State.updTile, upd_length]; exact Nat.le_of_not_lt hn)
    rw [Stopped, h]
    exact ⟨rfl, rfl, rfl⟩

/-- Stopping one tile's work leaves every other tile. -/
theorem fenceHalt_tile_ne {t j : Nat} (hj : j ≠ t) (s : State) : (fenceHalt t (fenceSteps t s)).tile j = s.tile j :=
  (State.tile_updTile_ne _ _ _ _ hj).trans ((endStep_tile_ne hj ..).trans (endStep_tile_ne hj ..))

/-- Of the tiles whose work stops, and those stopped before, each is stopped in the end. -/
theorem stopped_fold (n : Nat) : ∀ (l : List Nat) (s : State), n ∈ l ∨ Stopped n s →
    Stopped n (l.foldl (fun z t => fenceHalt t (fenceSteps t z)) s)
  | [], _, h => h.resolve_left (List.not_mem_nil)
  | t :: l, s, h => by
    refine stopped_fold n l _ ?_
    by_cases ht : n = t
    · subst ht
      exact Or.inr (stopped_fenceHalt n _)
    · refine h.imp (fun hm => (List.mem_cons.1 hm).resolve_left ht) fun hs => ?_
      exact hs.congr (fenceHalt_tile_ne ht s)

/-- A device fault stops every tile, and its source occurs. -/
theorem deviceFault_stops {s : State} (cause channel : Nat) (h : s.flt.devFault = false) :
    (∀ n < 16, Stopped n (deviceFault cause channel s)) ∧ (deviceFault cause channel s).ic.pend.getLsbD 304 = true := by
  have hall (n : Nat) (hn : n < 16) := stopped_fold n (List.range 16) s (Or.inl (List.mem_range.2 hn))
  unfold deviceFault
  rw [h, if_neg Bool.false_ne_true]
  generalize (List.range 16).foldl (fun z t => fenceHalt t (fenceSteps t z)) s = z at hall
  exact ⟨fun n hn => Stopped.congr rfl (hall n hn), State.pend_devSource _ (by decide)⟩

/-! ### A change of operating point -/

/-- What a change of operating point leaves: the fences, the faults, the clock enables, and of the tiles all but that they are parked. -/
structure PointKept (s z : State) : Prop where
  mor : z.mor = s.mor
  flt : z.flt = s.flt
  en : z.clk.en = s.clk.en
  tile : ∀ j, ∃ p, z.tile j = { s.tile j with st := { (s.tile j).st with parked := p } }

theorem PointKept.refl (s : State) : PointKept s s := ⟨rfl, rfl, rfl, fun _ => ⟨_, rfl⟩⟩

theorem PointKept.trans {s y z : State} (h1 : PointKept s y) (h2 : PointKept y z) : PointKept s z where
  mor := h2.mor.trans h1.mor
  flt := h2.flt.trans h1.flt
  en := h2.en.trans h1.en
  tile j := by
    obtain ⟨p, hp⟩ := h1.tile j
    obtain ⟨q, hq⟩ := h2.tile j
    exact ⟨q, by rw [hq, hp]⟩

theorem PointKept.updClk {s : State} {f : Clock → Clock} (hf : ∀ c, (f c).en = c.en) : PointKept s (s.updClk f) :=
  ⟨rfl, rfl, hf _, fun _ => ⟨_, rfl⟩⟩

theorem PointKept.pulse (s : State) (lines : BitVec 64) : PointKept s (s.pulse lines) := by
  unfold State.pulse State.pulseAt
  split
  · exact .refl s
  · exact ⟨rfl, rfl, rfl, fun _ => ⟨_, rfl⟩⟩

theorem PointKept.unpark (s : State) : PointKept s (Machine.unpark s) where
  mor := rfl
  flt := rfl
  en := rfl
  tile j := by
    refine ⟨false, ?_⟩
    change (s.tiles.map fun x => { x with st := { x.st with parked := false } }).getD j .reset = _
    rw [List.getD_eq_getElem?_getD, List.getElem?_map, State.tile, List.getD_eq_getElem?_getD]
    cases s.tiles[j]? with
    | none => rfl
    | some x => rfl

theorem PointKept.rampEnd (s : State) : PointKept s (Machine.rampEnd s) := by
  unfold Machine.rampEnd
  dsimp only
  split
  · refine (PointKept.unpark s).trans ?_
    unfold dvfsEnd
    dsimp only
    split
    · exact (PointKept.updClk (f := fun c => { c with point := c.target, dvfs := .idle, dvfsCnt := satAdd32 c.dvfsCnt 1 })
        fun _ => rfl).trans (.pulse ..)
    · exact PointKept.updClk (f := fun c => { c with point := c.target, dvfs := .idle, dvfsCnt := satAdd32 c.dvfsCnt 1 }) fun _ => rfl
  · exact (PointKept.unpark s).trans (PointKept.updClk (f := fun c => { c with
      dvfs := .avs, dvfsFrom := (Machine.unpark s).te.time, avsMv := c.opp.getD c.target.toNat 0 }) fun _ => rfl)

theorem PointKept.parkCheck (s : State) : PointKept s (Machine.parkCheck s) := by
  have hstep : PointKept s (s.updClk fun c => { divStep c with dvfs := .ramp }) := PointKept.updClk fun _ => rfl
  unfold Machine.parkCheck
  dsimp only
  split
  · split
    · exact hstep.trans (.rampEnd _)
    · exact hstep
  · exact .refl s

theorem PointKept.dvfsBegin (p : BitVec 2) (s : State) : PointKept s (Machine.dvfsBegin p parkStart s) := by
  have htarget : PointKept s (s.updClk fun c => { c with target := p, nextTarget := none }) := PointKept.updClk fun _ => rfl
  unfold Machine.dvfsBegin
  dsimp only
  split
  · exact htarget.trans (PointKept.updClk (f := fun c => { c with
      dvfs := .avs, dvfsFrom := s.te.time, avsMv := c.opp.getD c.target.toNat 0 }) fun _ => rfl)
  · refine htarget.trans (PointKept.trans ?_ (.parkCheck _))
    exact PointKept.updClk fun _ => rfl

theorem PointKept.dvfsNext (s : State) : PointKept s (Machine.dvfsNext s) := by
  unfold Machine.dvfsNext
  split
  · split
    · exact PointKept.updClk (f := fun c => { c with nextTarget := none }) fun _ => rfl
    · exact .dvfsBegin ..
  · exact .refl s

/-! ### The fence of a tile -/

theorem fenceRecord_eq (t cause : Nat) (s : State) : ∃ tile tileStep tileWait,
    fenceRecord t cause s = { s with flt := { s.flt with tile := tile, tileStep := tileStep, tileWait := tileWait } } := ⟨_, _, _, rfl⟩

theorem morLeave_spec (n : Nat) (s : State) : (morLeave n s).mor.fenced = s.mor.fenced ∧ (morLeave n s).flt = s.flt
    ∧ (morLeave n s).clk = s.clk ∧ (morLeave n s).tiles = s.tiles := by
  unfold morLeave mixedCheck
  split <;> exact ⟨rfl, rfl, rfl, rfl⟩

/-- What a tile fence leaves, before a change of operating point that waits for the tile goes on. -/
def fencing (n cause : Nat) (s : State) : State :=
  let s1 := fenceHalt n (fenceSteps n (fenceRecord n cause s))
  (morLeave n
    { s1 with
      mor := { s1.mor with fenced := setBit s1.mor.fenced n true }
      sc := { s1.sc with trk := idleTrackers n s1.sc.trk }
      dma := { s1.dma with fifo := dropFifos n s1.dma.fifo }
      bond := { s1.bond with mirrors := s1.bond.mirrors.filter fun m => decide (m.tile ≠ n) }
      clk := { s1.clk with en := setBit s1.clk.en n false, parkPending := setBit s1.clk.parkPending n false } }).devSource (srcTileFenced + n)

theorem fencing_spec {n : Nat} (cause : Nat) (s : State) (hn : n < 16) :
    (fencing n cause s).mor.fenced = setBit s.mor.fenced n true ∧ (fencing n cause s).flt.devFault = s.flt.devFault
      ∧ (fencing n cause s).clk.en = setBit s.clk.en n false ∧ Stopped n (fencing n cause s)
      ∧ ∀ k, k ≠ n → (fencing n cause s).tile k = s.tile k := by
  have hstop := stopped_fenceHalt n (fenceSteps n (fenceRecord n cause s))
  have hother (k : Nat) (hk : k ≠ n) : (fenceHalt n (fenceSteps n (fenceRecord n cause s))).tile k = s.tile k := fenceHalt_tile_ne hk _
  obtain ⟨l, m, hfold⟩ := fenceHalt_fold (l := [n]) (fun t ht => (List.mem_singleton.1 ht) ▸ hn) (fenceRecord n cause s)
  have hwork : fenceHalt n (fenceSteps n (fenceRecord n cause s))
      = { fenceRecord n cause s with tiles := l, bond := { s.bond with mirrors := m } } := hfold
  have hfault : (fenceRecord n cause s).flt.devFault = s.flt.devFault := rfl
  unfold fencing
  rw [hwork] at hstop hother ⊢
  dsimp only
  obtain ⟨h1, h2, h3, h4⟩ := morLeave_spec n
    { fenceRecord n cause s with
      tiles := l
      mor := { s.mor with fenced := setBit s.mor.fenced n true }
      sc := { s.sc with trk := idleTrackers n s.sc.trk }
      dma := { s.dma with fifo := dropFifos n s.dma.fifo }
      bond := { s.bond with mirrors := m.filter fun m => decide (m.tile ≠ n) }
      clk := { s.clk with en := setBit s.clk.en n false, parkPending := setBit s.clk.parkPending n false } }
  have htile (k : Nat) := congrArg (fun l : List Tile => l.getD k .reset) h4
  exact ⟨h1, (congrArg Flt.devFault h2).trans hfault, (congrArg Clock.en h3).trans rfl, hstop.congr (htile n), fun k hk => (htile k).trans (hother k hk)⟩

/-- A tile fence stops the tile and its clock, and no other tile. -/
theorem applyFence_spec {n : Nat} (cause : Nat) (s : State) (hn : n < 16) (h : s.flt.devFault = false) :
    (applyFence n cause s).fencedTile n = true ∧ (applyFence n cause s).flt.devFault = false ∧ Stopped n (applyFence n cause s)
      ∧ (applyFence n cause s).clk.en.getLsbD n = false
      ∧ ∀ k, k ≠ n → ((applyFence n cause s).tile k).seq = (s.tile k).seq := by
  obtain ⟨hfenced, hfault, hen, hstop, hother⟩ := fencing_spec cause s hn
  have hkept : PointKept (fencing n cause s) (applyFence n cause s) := (PointKept.parkCheck _).trans (.dvfsNext _)
  refine ⟨?_, ?_, ?_, ?_, fun k hk => ?_⟩
  · rw [State.fencedTile, hkept.mor, hfenced, bit, getLsbD_setBit, if_pos rfl, decide_eq_true hn]
    rfl
  · rw [hkept.flt, hfault, h]
  · obtain ⟨p, hp⟩ := hkept.tile n
    rw [Stopped, hp]
    exact hstop
  · rw [hkept.en, hen, getLsbD_setBit, if_pos rfl, Bool.and_false]
  · obtain ⟨p, hp⟩ := hkept.tile k
    rw [hp, hother k hk]

theorem fenceTile_of_fenced {n cause : Nat} {s : State} (h : 16 ≤ n ∨ s.flt.devFault = true ∨ s.fencedTile n = true) :
    fenceTile n cause s = s := if_pos (by simpa [or_assoc] using h)

theorem fenceTile_first {n cause : Nat} {s : State} (hn : n < 16) (hd : s.flt.devFault = false) (hf : s.fencedTile n = false)
    (h : s.mor.fenced = 0) : fenceTile n cause s = applyFence n cause s := by
  simp [fenceTile, hd, hf, h, Nat.not_le_of_lt hn]

theorem fenceTile_second {n cause : Nat} {s : State} (hn : n < 16) (hd : s.flt.devFault = false) (hf : s.fencedTile n = false)
    (h : s.mor.fenced ≠ 0) : fenceTile n cause s = deviceFault 5 0 s :=
  (if_neg (by simp [hd, hf, Nat.not_le_of_lt hn])).trans (if_pos h)

/-- A tile is fenced when no other is, or is to be. -/
theorem fenceBoth_of_alone {n cause : Nat} {also : Option Nat} {s : State} (hn : n < 16) (hd : s.flt.devFault = false)
    (hf : s.fencedTile n = false) (h : s.mor.fenced = 0) (ha : ∀ k, also = some k → k = n ∨ 16 ≤ k) :
    fenceBoth n cause also s = applyFence n cause s := by
  obtain ⟨hfenced, -⟩ := applyFence_spec cause s hn hd
  cases also with
  | none => exact fenceTile_first hn hd hf h
  | some k =>
    have hno : ¬ (decide (k < 16) && decide (n < 16) && decide (k ≠ n) && decide (s.mor.fenced = 0)) = true := by
      rcases ha k rfl with rfl | hk
      · simp
      · simp [Nat.not_lt_of_le hk]
    rw [fenceBoth, if_neg hno, fenceTile_first hn hd hf h]
    refine fenceTile_of_fenced ?_
    rcases ha k rfl with rfl | hk
    · exact Or.inr (Or.inr hfenced)
    · exact Or.inl hk

/-- With another tile fenced, earlier or in the same cycle, the device faults. -/
theorem fenceBoth_of_second {n cause : Nat} {also : Option Nat} {s : State} (hn : n < 16) (hd : s.flt.devFault = false)
    (hf : s.fencedTile n = false) (h : s.mor.fenced ≠ 0 ∨ ∃ k, also = some k ∧ k < 16 ∧ k ≠ n) :
    fenceBoth n cause also s = deviceFault 5 0 s := by
  obtain ⟨-, -, -, -, hflt⟩ := deviceFault_spec 5 0 hd
  cases also with
  | none => exact fenceTile_second hn hd hf (h.resolve_right (by rintro ⟨k, hk, -⟩; cases hk))
  | some k =>
    by_cases hz : s.mor.fenced = 0
    · obtain ⟨k', hk', hlt, hne⟩ := h.resolve_left (fun hn => hn hz)
      cases hk'
      rw [fenceBoth, if_pos (by simp [hlt, hn, hne, hz])]
    · have hno : ¬ (decide (k < 16) && decide (n < 16) && decide (k ≠ n) && decide (s.mor.fenced = 0)) = true := by
        rw [decide_eq_false hz, Bool.and_false]
        exact Bool.false_ne_true
      rw [fenceBoth, if_neg hno, fenceTile_second hn hd hf hz]
      exact fenceTile_of_fenced (Or.inr (Or.inl (by rw [hflt])))

/-! ### Unfencing and releasing -/

theorem came_flt (who : Who) (s : State) : (Claims.came who s).flt = s.flt := by cases who <;> rfl

theorem came_mor (who : Who) (s : State) : (Claims.came who s).mor = s.mor := by cases who <;> rfl

theorem came_core (who : Who) (s : State) (n : Nat) : (Claims.came who s).core n = s.core n := by cases who <;> rfl

theorem came_fencedTile (who : Who) (s : State) (n : Nat) : (Claims.came who s).fencedTile n = s.fencedTile n := by cases who <;> rfl

/-- Fencing runs on the state as it stands, whoever asks for it. -/
theorem execFenceTile_next {cause : FenceCause} {n : Nat} {also : Option Nat} {s : State}
    (hw : ∀ who, cause = .command who → Claims.Writable who .always .no s) (ha : cause = .hardware → s.alive = true) :
    ∃ z c, exec (.fenceTile cause ⟨n, also⟩) s = .next (fenceBoth n c also z) ∧ z.mor = s.mor ∧ z.flt = s.flt ∧ z.tiles = s.tiles := by
  cases cause with
  | command who => exact ⟨Claims.came who s, 3, regWrite_next (hw who rfl) _ rfl, came_mor .., came_flt .., came_tiles ..⟩
  | hardware => exact ⟨s, 2, congrArg _ (if_pos (ha rfl)), rfl, rfl, rfl⟩

theorem fenceTile_completes (cause : FenceCause) (n : Nat) (also : Option Nat) (s : State) (hn : n < 16)
    (hw : ∀ who, cause = .command who → Claims.Writable who .always .no s) (ha : cause = .hardware → s.alive = true)
    (hd : s.flt.devFault = false) (hf : s.fencedTile n = false) :
    ∃ t, exec (.fenceTile cause ⟨n, also⟩) s = .next t
      ∧ (s.mor.fenced = 0 → (∀ k, also = some k → k = n ∨ 16 ≤ k) →
          t.fencedTile n = true ∧ t.flt.devFault = false ∧ (n < s.tiles.length → (t.core n).halted = true)
            ∧ (t.tile n).st.issueN = none ∧ (t.tile n).st.issueU = none ∧ t.clk.en.getLsbD n = false
            ∧ (∀ k < 16, k ≠ n → (t.core k).lram = (s.core k).lram ∧ (t.core k).halted = (s.core k).halted))
      ∧ (s.mor.fenced ≠ 0 ∨ (∃ k, also = some k ∧ k < 16 ∧ k ≠ n) →
          t.flt.devFault = true ∧ t.flt.cause = 5 ∧ t.mor.fenced = s.mor.fenced) := by
  obtain ⟨z, c, hexec, hmor, hflt, htiles⟩ := execFenceTile_next hw ha
  have hdz : z.flt.devFault = false := by rw [hflt]; exact hd
  have hfz : z.fencedTile n = false := by rw [State.fencedTile, hmor]; exact hf
  refine ⟨_, hexec, fun h0 halone => ?_, fun hsecond => ?_⟩
  · obtain ⟨hfenced, hfault, hstop, hen, hother⟩ := applyFence_spec c z hn hdz
    obtain ⟨hhalt, hN, hU⟩ := hstop
    rw [fenceBoth_of_alone hn hdz hfz (by rw [hmor]; exact h0) halone]
    refine ⟨hfenced, hfault, fun _ => ?_, hN, hU, hen, fun k hk hne => ?_⟩
    · rw [State.core_of_lt _ hn]
      exact hhalt
    · rw [State.core_of_lt _ hk, State.core_of_lt _ hk, hother k hne, State.tile, htiles]
      exact ⟨rfl, rfl⟩
  · obtain ⟨-, -, -, hm, hf⟩ := deviceFault_spec 5 0 hdz
    rw [fenceBoth_of_second hn hdz hfz (by rw [hmor]; exact hsecond), hf, hm, hmor]
    exact ⟨rfl, rfl, rfl⟩

theorem unfenceTile_spec {n : Nat} {s : State} (hn : n < 16) (hlen : n < s.tiles.length) (hd : s.flt.devFault = false)
    (hf : s.fencedTile n = true) :
    (unfenceTile n s).fencedTile n = false
      ∧ ((unfenceTile n s).core n).halted = true ∧ ((unfenceTile n s).core n).lram = []
      ∧ ((unfenceTile n s).core n).decodeRam = keptTable s ∧ ((unfenceTile n s).core n).decodeBad = []
      ∧ ((unfenceTile n s).tile n).st = { Tile.reset.st with parked := s.clk.parking, seesMixed := s.mor.mixed }
      ∧ ((unfenceTile n s).tile n).ts = { Tile.reset.ts with inflight := (s.tile n).ts.inflight }
      ∧ ((unfenceTile n s).tile n).vec = Tile.reset.vec ∧ ((unfenceTile n s).tile n).ic = (s.tile n).ic
      ∧ (unfenceTile n s).clk.en.getLsbD n = true
      ∧ (unfenceTile n s).flt.tile = lput s.flt.tile n 0 ∧ (∀ k < 16, k ≠ n → (unfenceTile n s).tile k = s.tile k) := by
  have htile := State.tile_updTile_same s n (fun x => x.renew (keptTable s) s.clk.parking s.mor.mixed) hlen
  have hother (k : Nat) (hk : k ≠ n) := State.tile_updTile_ne s n k (fun x => x.renew (keptTable s) s.clk.parking s.mor.mixed) hk
  rw [State.core_of_lt _ hn, unfenceTile, if_neg (by simp [hd, hf, Nat.not_le_of_lt hn])]
  refine ⟨?_, ?_, ?_, ?_, ?_, ?_, ?_, ?_, ?_, ?_, rfl, fun k _ hk => hother k hk⟩
  · change bit (setBit s.mor.fenced n false) n = false
    rw [bit, getLsbD_setBit, if_pos rfl, Bool.and_false]
  · exact congrArg (fun x : Tile => x.seq.halted) htile
  · exact congrArg (fun x : Tile => x.seq.lram) htile
  · exact congrArg (fun x : Tile => x.seq.decodeRam) htile
  · exact congrArg (fun x : Tile => x.seq.decodeBad) htile
  · exact (congrArg Tile.st htile).trans rfl
  · exact (congrArg Tile.ts htile).trans rfl
  · exact (congrArg Tile.vec htile).trans rfl
  · exact (congrArg Tile.ic htile).trans rfl
  · change (setBit s.clk.en n true).getLsbD n = true
    rw [getLsbD_setBit, if_pos rfl, decide_eq_true (Nat.lt_trans hn (by decide))]
    rfl

/-- A tile as the committed mode `w` and epoch `e` leave it, its interrupt controller aside. -/
def Tile.applied (x : Tile) (w : BitVec 32) (e : BitVec 8) : Tile :=
  { x with
    st := { x.st with epoch := e }
    seq := { x.seq with
      lram := sset (fun _ => .uninit) (sset (fun _ => .uninit) x.seq.lram 0x3FE ⟨1, w⟩) 0x3FF ⟨1, e.setWidth 32⟩
      lramBad := sset (fun _ => false) (sset (fun _ => false) x.seq.lramBad 0x3FE false) 0x3FF false } }

/-- A tile applies the committed mode. -/
theorem applyMode_spec {n : Nat} {s : State} (hlen : n < s.tiles.length) :
    (∃ c, (applyMode n s).tile n = { (s.tile n).applied (s.mor.latched.getD n 0) s.mor.epoch with ic := c } ∧ bit c.pend 3 = true)
      ∧ (∀ k, k ≠ n → (applyMode n s).tile k = s.tile k) ∧ bit (applyMode n s).mor.returning n = false := by
  refine ⟨⟨(s.tile n).ic.moveTo ((s.tile n).ic.occur s.cycle (BitVec.ofNat 64 (2 ^ 3))), ?_, ?_⟩, fun k hk => ?_, ?_⟩
  · have happ : (applyMode n s).tile n = ((s.updTile n fun x => x.applied (s.mor.latched.getD n 0) s.mor.epoch).updTic n fun c =>
        c.moveTo (c.occur s.cycle (BitVec.ofNat 64 (2 ^ 3)))).tile n := rfl
    rw [happ, State.updTic, State.updTile_updTile, State.tile_updTile_same _ _ _ hlen]
    rfl
  · change bit ((s.tile n).ic.pend ||| BitVec.ofNat 64 (2 ^ 3)) 3 = true
    rw [bit, BitVec.getLsbD_or]
    simp
  · exact (State.tile_updTile_ne _ _ _ _ hk).trans (State.tile_updTile_ne _ _ _ _ hk)
  · change bit (setBit s.mor.returning n false) n = false
    rw [bit, getLsbD_setBit, if_pos rfl, Bool.and_false]

/-- What starting at SEQ_ENTRY makes of a sequencer. -/
def SeqCore.start (c : SeqCore) : SeqCore :=
  { c with halted := false, doubleTrap := false, level := 0, pc := c.entry.setWidth 32, fetch := [] }

theorem releaseTile_eq {n : Nat} {s : State} (hn : n < 16) (hd : s.flt.devFault = false)
    (hf : s.fencedTile n = false) (hhalt : (s.core n).halted = true) :
    releaseTile n s = (if bit s.mor.returning n then applyMode n s else s).updTile n fun x => { x with seq := x.seq.start } := by
  rw [releaseTile, if_neg (by simp [hd, hf, hhalt, Nat.not_le_of_lt hn])]
  exact if_neg (Nat.ne_of_lt hn)

theorem releaseTile_spec {n : Nat} {s : State} (hn : n < 16) (hlen : n < s.tiles.length) (hd : s.flt.devFault = false)
    (hf : s.fencedTile n = false) (hhalt : (s.core n).halted = true) :
    ((releaseTile n s).core n).halted = false ∧ ((releaseTile n s).core n).pc = (s.core n).entry.setWidth 32
      ∧ ((releaseTile n s).core n).level = 0 ∧ ((releaseTile n s).core n).fetch = []
      ∧ (if bit s.mor.returning n = true then
          ((releaseTile n s).tile n).st.epoch = s.mor.epoch ∧ ((releaseTile n s).core n).lword 0x3FE = ⟨1, s.mor.latched.getD n 0⟩
            ∧ ((releaseTile n s).core n).lword 0x3FF = ⟨1, s.mor.epoch.setWidth 32⟩ ∧ bit (releaseTile n s).mor.returning n = false
            ∧ bit ((releaseTile n s).tile n).ic.pend 3 = true
        else ((releaseTile n s).tile n).st = (s.tile n).st ∧ ((releaseTile n s).core n).lram = (s.core n).lram
          ∧ (releaseTile n s).mor = s.mor)
      ∧ ∀ k < 16, k ≠ n → (releaseTile n s).tile k = s.tile k := by
  rw [releaseTile_eq hn hd hf hhalt, State.core_of_lt _ hn, State.core_of_lt _ hn]
  by_cases hr : bit s.mor.returning n = true
  · obtain ⟨⟨c, happ, hpend⟩, hother, hret⟩ := applyMode_spec (s := s) hlen
    have hlen' : n < (applyMode n s).tiles.length := by
      change n < (upd (upd s.tiles n _) n _).length
      rw [upd_length, upd_length]
      exact hlen
    have h1 (w : BitVec 32) : (⟨1, w⟩ : TWord) ≠ .uninit := fun h => by cases congrArg TWord.tag h
    rw [if_pos hr, if_pos hr, State.tile_updTile_same _ _ _ hlen', happ]
    refine ⟨rfl, rfl, rfl, rfl, ⟨rfl, ?_, ?_, hret, hpend⟩, fun k _ hk => (State.tile_updTile_ne _ _ _ _ hk).trans (hother k hk)⟩
    · exact (sget_sset_ne _ _ (by decide) _).trans (sget_sset_of_ne (h1 _) _)
    · exact sget_sset_of_ne (h1 _) _
  · rw [if_neg hr, if_neg hr, State.tile_updTile_same _ _ _ hlen]
    exact ⟨rfl, rfl, rfl, rfl, ⟨rfl, rfl, rfl⟩, fun k _ hk => State.tile_updTile_ne _ _ _ _ hk⟩

/-- Each way in which a device fault arises. -/
theorem deviceFault_arises {cause : Nat} {i : Instr} {s : State}
    (hi : (∃ who, cause = 6 ∧ i = .devFault who ∧ Claims.Writable who .always .no s)
      ∨ (cause = 4 ∧ i = .quoinWdogExpire ∧ s.sec.life.running = true ∧ fld s.flt.cfgCur 24 8 ≠ 0
          ∧ fld s.flt.cfgCur 24 8 * 1000000 < s.te.time - s.flt.kickAt)
      ∨ (cause = 3 ∧ i = .pcieLinkTimeout ∧ fld s.flt.cfgCur 16 8 ≠ 0
          ∧ ∃ d, s.flt.linkDownAt = some d ∧ fld s.flt.cfgCur 16 8 * 1000000 ≤ s.te.time - d)) :
    ∃ z, exec i s = .next (deviceFault cause 0 z) ∧ z.flt = s.flt ∧ z.tiles = s.tiles ∧ z.mor = s.mor := by
  rcases hi with ⟨who, rfl, rfl, h⟩ | ⟨rfl, rfl, hlife, hms, hlate⟩ | ⟨rfl, rfl, hms, d, hdown, hlate⟩
  · exact ⟨Claims.came who s, regWrite_next h _ rfl, came_flt .., came_tiles .., came_mor ..⟩
  · refine ⟨s, ?_, rfl, rfl, rfl⟩
    exact congrArg _ (if_pos (by simp [hlife, hms, hlate]))
  · refine ⟨s, ?_, rfl, rfl, rfl⟩
    change execPcieLinkTimeout s = _
    simp only [execPcieLinkTimeout, hdown, hms, ne_eq, not_false_eq_true, ge_iff_le, hlate, decide_true, Bool.and_self, if_true]

/-- Settles O50: each command by what it makes of the state as it stands. -/
theorem faultHandlingComplete : Obligations.FaultHandlingComplete := by
  unfold Obligations.FaultHandlingComplete
  refine ⟨fun cause n also s hn hw ha hd hf => fenceTile_completes cause n also s hn hw ha hd hf,
    fun who n s hn hlen h hd => ⟨fun hf => ⟨_, regWrite_next h _ rfl, ?_⟩, fun hf hhalt => ⟨_, regWrite_next h _ rfl, ?_⟩⟩,
    fun who n s hn h hd => ⟨fun hf => ⟨_, regWrite_next h _ rfl, ?_⟩, fun hf => regWrite_next h _ ?_⟩,
    fun who s h => regWrite_next h _ (by cases who <;> rfl), fun cause i s hd hi => ?_, fun s hw => congrArg _ (if_neg hw)⟩
  · cases who <;> exact unfenceTile_spec hn hlen hd hf
  · cases who <;> exact releaseTile_spec hn hlen hd hf hhalt
  · rw [fenceSlice, came_flt, came_sc, if_neg (by simp [hd, hf, Nat.not_le_of_lt hn])]
    refine ⟨?_, State.pend_devSource _ (k := 272 + n) (by omega), came_tiles ..⟩
    change bit (setBit s.sc.fence n true) n = true
    rw [bit, getLsbD_setBit, if_pos rfl, decide_eq_true hn]
    rfl
  · rw [unfenceSlice, if_neg (by simp [came_flt, came_sc, hd, hf, Nat.not_le_of_lt hn])]
    cases who <;> rfl
  · obtain ⟨z, hexec, hflt, htiles, hmor⟩ := deviceFault_arises hi
    have hdz : z.flt.devFault = false := by rw [hflt]; exact hd
    obtain ⟨hstop, hpend⟩ := deviceFault_stops cause 0 hdz
    obtain ⟨-, -, -, hm, hf⟩ := deviceFault_spec cause 0 hdz
    refine ⟨_, hexec, by rw [hf], by rw [hf], fun n hn _ => ?_, hpend, by rw [hm, hmor]⟩
    rw [State.core_of_lt _ hn]
    exact hstop n hn

end Sys2Proof.Machine
end

section
/-! Register writes that reach their registers, and those that are turned away. -/

namespace Sys2Proof.Machine

theorem regWrite_of_some {s : State} {w who : Who} {b b' : Blk} {p p' : HostPerm} (h : some (w, b, p) = some (who, b', p')) (f : State → State) :
    ∃ g, (.next (regWrite w b p f s) : Out) = .next (regWrite who b' p' g s) := by
  cases h
  exact ⟨f, rfl⟩

theorem regWrite_of_if {s : State} {c : Prop} [Decidable c] {w who : Who} {b b' : Blk} {p p' : HostPerm}
    (h : (if c then some (w, b, p) else none) = some (who, b', p')) (f : State → State) :
    ∃ g, (.next (if c then regWrite w b p f s else s) : Out) = .next (regWrite who b' p' g s) := by
  by_cases hc : c
  · rw [if_pos hc] at h ⊢
    exact regWrite_of_some h f
  · rw [if_neg hc] at h
    cases h

theorem exec_of_regOf {i : Instr} {s : State} {who : Who} {b : Blk} {p : HostPerm} (h : Claims.regOf s i = some (who, b, p)) :
    ∃ f, exec i s = .next (regWrite who b p f s) := by
  cases i with
  | hodCntClr | morCommit | morCntClr | scSlicePwrReqWrite | scFenceWrite | scCntClr | ringInit | ringStop | ringResume | ringOff
  | ringFlush | dmaCntClr | hbCtrlWrite | devCntClr | resCntClr | timeCtrlWrite | timeCntClr | evtPulseWrite | clkRevert
  | xtalEnWrite | dvfsRequest | clkEnSet | clkEnClr | clkOutCfgWrite | clkCntClr | chainLoopStart | chainMsgTxWrite
  | chainMsgPopWrite | chainCntClr | promote | relinquish | resync | bondCntClr | load | endObject | endLoad | decodeStatus
  | getPubkey | attest | enrol | run | calCntClr | unfenceTile | releaseTile | fenceSlice | unfenceSlice | devFault | kick
  | devFltCntClr => exact regWrite_of_some h _
  | stepCntClr | tsCntClr | vecCntClr | arrCntClr | drnCntClr | sceCntClr | bankPwrReqWrite | tsPerrInjArm | hodTgtDeclareWrite
  | hodTgtFreeWrite | ddrSrReqWrite | ddrCntClr | cqHeadWrite | dmaFifoCfgWrite | dmaFifoTakeWrite | channelDisable | resAckWrite
  | evtOutCfgWrite | icPendSet | icPendClr | icMaskSet | icMaskClr | icTpendSet | icTpendClr | icTmaskSet | icTmaskClr
  | icRouteWrite | bondMwinWrite | calGapWrite => exact regWrite_of_if h _
  | seqHaltReq w t v =>
    cases w with
    | tile n =>
      obtain ⟨-, h⟩ := Option.ite_none_right_eq_some.1 h
      cases h
      exact ⟨id, congrArg _ (ite_self s).symm⟩
    | host | quoin => exact regWrite_of_if h _
  | scInvalGo w v | scInvalAll w v =>
    obtain ⟨hc, h⟩ := Option.ite_none_right_eq_some.1 h
    cases h
    exact ⟨_, congrArg _ (if_pos (by simpa using hc))⟩
  | cqEnable w q v =>
    obtain ⟨hc, h⟩ := Option.ite_none_right_eq_some.1 h
    cases h
    exact ⟨_, congrArg _ (if_pos (by simpa [and_assoc] using hc))⟩
  | icLevelWrite w r v =>
    cases r with
    | quoin | tile | tileLow | tileHigh => exact regWrite_of_if h _
  | fenceTile c n =>
    cases c with
    | command w => exact regWrite_of_some h _
    | hardware => cases h
  | _ => cases h

/-! ### Writes that are turned away -/

theorem regWrite_host_of_closed {b : Blk} {p : HostPerm} {f : State → State} {s : State} (h : s.barOpen = false) :
    regWrite .host b p f s = if s.host.width = 0 then s else s.toHost (.aer 2) := by
  simp only [regWrite, h, Bool.not_false, if_true, hostWrite]
  split
  · rfl
  · next hw =>
    have hmem : s.host.memSpace = false := Bool.eq_false_iff.2 fun hm =>
      absurd ((barOpen_iff s).2 ⟨hm, hw⟩) (by rw [h]; exact Bool.false_ne_true)
    rw [hmem]
    rfl

theorem regWrite_host_of_rejected {b : Blk} {p : HostPerm} {f : State → State} {s : State} (h : s.barOpen = true)
    (hr : hostMayWrite s.sec.life b p = false ∨ s.fencedBlk b = true) : regWrite .host b p f s = s.linkUse.hostReject := by
  rcases hr with hr | hr
  · simp only [regWrite, h, hr, Bool.not_true, Bool.not_false, Bool.false_eq_true, if_false, if_true]
  · simp only [regWrite, h, hr, Bool.not_true, Bool.false_eq_true, if_false, if_true, ite_self]

theorem regWrite_host_of_gated {b : Blk} {p : HostPerm} {f : State → State} {s : State} (h : s.barOpen = true)
    (hm : hostMayWrite s.sec.life b p = true) (hf : s.fencedBlk b = false) (hg : s.gated b = true) :
    regWrite .host b p f s = s.linkUse.countGated := by
  simp only [regWrite, h, hm, hf, hg, Bool.not_true, Bool.false_eq_true, if_false, if_true]

theorem regWrite_tile_of_other {n : Nat} {b : Blk} {p : HostPerm} {f : State → State} {s : State} (h : b ≠ .tile n) :
    regWrite (.tile n) b p f s = s := by
  simp [regWrite, h]

/-! ### Accesses that reach -/

/-- The four bytes of a word in the upper half of an 8-byte unit, at the address of a 32-bit register, are one write of it. -/
theorem bar0Bytes_upper {who : Who} {o x old : Nat} {b : RegBlock} {v : BitVec 32} {s : State} (ho : o % 8 = 4) (hm : memWindow o = none)
    (hlow : ∀ b x old, regAt (o / 8 * 8) s ≠ some (b, x, old, 8)) (hr : regAt o s = some (b, x, old, 4)) :
    bar0Bytes who o (unpackBytes 4 v.toNat) s = regWrite who b.blk (b.perm x) (b.write32 who x v) s := by
  have hunits : units8 5 o (unpackBytes 4 v.toNat) = [(o, unpackBytes 4 v.toNat)] := by
    simp [units8, unpackBytes, ho]
  have hu : o / 8 * 8 + 4 = o := by omega
  have hhi : wordPiece o (unpackBytes 4 v.toNat) o s = (some v, s) := by
    have hin : ((List.range 4).filter fun i => decide (o ≤ o + i) && decide (o + i < o + 4)) = [0, 1, 2, 3] := by
      simp [List.range_succ]
    have hv : BitVec.ofNat 32 (packBytes (unpackBytes 4 v.toNat)) = v := by
      rw [packBytes_unpackBytes, show 256 ^ 4 = 2 ^ 32 from rfl, Nat.mod_eq_of_lt v.isLt, BitVec.ofNat_toNat, BitVec.setWidth_eq]
    rw [wordPiece, unpackBytes_length, hin]
    simp [hv, List.take_of_length_le, unpackBytes_length]
  have hlo : wordPiece o (unpackBytes 4 v.toNat) (o / 8 * 8) s = (none, s) := by
    have hin : ((List.range 4).filter fun i => decide (o ≤ o / 8 * 8 + i) && decide (o / 8 * 8 + i < o + 4)) = [] := by
      refine List.filter_eq_nil_iff.2 fun i hi => ?_
      have := List.mem_range.1 hi
      simp
      omega
    rw [wordPiece, unpackBytes_length, hin]
    rfl
  unfold bar0Bytes
  rw [unpackBytes_length, hunits]
  simp only [List.foldl_cons, List.foldl_nil, unitWrite, hm, hlo, hu, hhi, wordWrite, hr]

theorem regAt_modeStage {n : Nat} (hn : n < 16) (s : State) : regAt (0x500100 + 4 * n) s
    = some (.mor, 0x100 + 4 * n, (s.mor.settle.stage.getD n 0).toNat, 4) := by
  interval_cases n <;> rfl

/-- MOR_MODE_STAGE[n] by its address. -/
theorem modeStage_written {n : Nat} (hn : n < 16) (v : BitVec 32) (s : State) :
    bar0Bytes .host (0x500100 + 4 * n) (unpackBytes 4 v.toNat) s
      = regWrite .host .always .yes (fun z => { z with mor := { z.mor with stage := lput z.mor.stage n v } }) s := by
  have hmem : ∀ n < 16, memWindow (0x500100 + 4 * n) = none := by decide
  have hperm : ∀ n < 16, RegBlock.perm .mor (0x100 + 4 * n) = .yes := by decide
  have hwrite (z : State) : RegBlock.write32 .mor .host (0x100 + 4 * n) v z
      = { z with mor := { z.mor with stage := lput z.mor.stage n v } } := by
    interval_cases n <;> rfl
  have hlow (b : RegBlock) (x old : Nat) : regAt ((0x500100 + 4 * n) / 8 * 8) s ≠ some (b, x, old, 8) := by
    rw [show (0x500100 + 4 * n) / 8 * 8 = 0x500100 + 4 * (n / 2 * 2) by omega, regAt_modeStage (by omega)]
    intro h
    cases h
  have hreg := regAt_modeStage hn s
  have hbytes : bar0Bytes .host (0x500100 + 4 * n) (unpackBytes 4 v.toNat) s
      = regWrite .host (RegBlock.blk .mor) (RegBlock.perm .mor (0x100 + 4 * n)) (RegBlock.write32 .mor .host (0x100 + 4 * n) v) s := by
    rcases Nat.mod_two_eq_zero_or_one n with hpar | hpar
    · exact bar0Bytes_word (by omega) (hmem n hn) hreg
    · exact bar0Bytes_upper (by omega) (hmem n hn) hlow hreg
  rw [hbytes, hperm n hn, funext hwrite]
  rfl

/-- The address of tile `n`'s VEC_STATUS. -/
theorem vecStatus_address : ∀ n < 16, tileWindow (0x1401000 + 0x800000 * n) = some (n, 0x401000)
    ∧ memWindow (0x1401000 + 0x800000 * n) = none ∧ regBlock (0x1401000 + 0x800000 * n) = some (.vec n, 0)
    ∧ regsOnly false (0x1401000 + 0x800000 * n) 4 = true ∧ ownRegs n (0x1401000 + 0x800000 * n) 4 = true
    ∧ (0x1401000 + 0x800000 * n) % 8 = 0 := by decide

/-- What a read of DEV_ID finds. -/
theorem hostUnits_devId (s : State) : hostUnits (units8 (4 + 1) 0 (List.replicate 4 0)) s
    = (if s.sec.life = .egg then List.replicate 4 0 else unpackBytes 4 (0x00B00048 + 2 ^ 24 * s.sec.grade.toNat), s) := by
  have hread : unitRead 0 4 s = (unpackBytes 4 (0x00B00048 + 2 ^ 24 * s.sec.grade.toNat), s) := by
    have hg := s.sec.grade.isLt
    have hv : (0x00B00048 + 2 ^ 24 * s.sec.grade.toNat) % 2 ^ 32 = 0x00B00048 + 2 ^ 24 * s.sec.grade.toNat := Nat.mod_eq_of_lt (by omega)
    change (unpackBytes 4 ((0x00B00048 + 2 ^ 24 * s.sec.grade.toNat) % 2 ^ 32) ++ [], s) = _
    rw [hv, List.append_nil]
  have hunits : hostUnits (units8 5 0 (List.replicate 4 0)) s
      = ((if hostMayRead s.sec.life 0 then unitRead 0 4 s else (List.replicate 4 0, s)).1 ++ [],
        (if hostMayRead s.sec.life 0 then unitRead 0 4 s else (List.replicate 4 0, s)).2) := rfl
  rw [hunits, hread, List.append_nil]
  cases s.sec.life <;> rfl

/-- Settles O51: a command's write by `exec_of_regOf`, an access of the host or a tile by the register at its address. -/
theorem registerWritesReachOrAreTurnedAway : Obligations.RegisterWritesReachOrAreTurnedAway := by
  unfold Obligations.RegisterWritesReachOrAreTurnedAway
  refine ⟨fun i b p s hreg => ?_, fun i b p n s hreg hb => ?_, fun n v bad s hn hlen hopen hmay => ?_, fun bs bad s hopen hlen => ?_,
    fun n v s hn hopen hf hg => ?_, fun n v mark s hlive hlen => ?_, fun mark s hopen => ?_, fun o n mark s hopen hg hle => ?_⟩
  · obtain ⟨f, hf⟩ := exec_of_regOf hreg
    rw [hf]
    exact ⟨fun h => congrArg _ (regWrite_host_of_closed h), fun h hr => congrArg _ (regWrite_host_of_rejected h hr),
      fun h hm hfence hg => congrArg _ (regWrite_host_of_gated h hm hfence hg)⟩
  · obtain ⟨f, hf⟩ := exec_of_regOf hreg
    rw [hf, regWrite_tile_of_other hb]
  · have hregs : ∀ n < 16, regsOnly false (0x500100 + 4 * n) 4 = true := by decide
    have hlost (z : State) : meshLost (0x500100 + 4 * n) ⟨false, bad⟩ z = false := by
      have hw : ∀ n < 16, tileWindow (0x500100 + 4 * n) = none := by decide
      rw [meshLost, hw n hn, Bool.and_false]
    have hw : Claims.Writable .host .always .yes s.linkUse := ⟨hopen, hmay, rfl, rfl⟩
    change execHostRegWrite .host (0x500100 + 4 * n) (.write (unpackBytes 4 v.toNat)) ⟨false, bad⟩ s = _
    simp only [execHostRegWrite, unpackBytes_length, hregs n hn, if_true, hostWrite_of_open hopen, hlost, Bool.false_eq_true, if_false,
      modeStage_written hn]
    exact congrArg _ (regWrite_of_writable hw _)
  · have hregs : regsOnly false 0x500100 4 = true := by decide
    change execHostRegWrite .host 0x500100 (.write bs) ⟨true, bad⟩ s = _
    simp only [execHostRegWrite, hlen, hregs, if_true, hostWrite_of_poisoned hopen]
  · obtain ⟨hwin, -, -, hregs, -⟩ := vecStatus_address n hn
    have hlost : meshLost (0x1401000 + 0x800000 * n) ⟨false, true⟩ s = true := by
      simp only [meshLost, hwin, hf, hg, Bool.not_false, Bool.and_self]
    change execHostRegWrite .host (0x1401000 + 0x800000 * n) (.write (unpackBytes 4 v.toNat)) ⟨false, true⟩ s = _
    simp only [execHostRegWrite, unpackBytes_length, hregs, if_true, hostWrite_of_open hopen, hlost]
    rfl
  · have hn := State.lt_of_tileLive hlive
    obtain ⟨-, hmem, hblk, hregs, hown, haddr⟩ := vecStatus_address n hn
    obtain ⟨old, hreg⟩ : ∃ old, regAt (0x1401000 + 0x800000 * n) s = some (.vec n, 0, old, 4) := by
      simp only [regAt, hblk]
      exact ⟨_, rfl⟩
    have hw : Claims.Writable (.tile n) (.tile n) (RegBlock.perm (.vec n) 0) s := ⟨rfl, hlive⟩
    change execHostRegWrite (.tile n) (0x1401000 + 0x800000 * n) (.write (unpackBytes 4 v.toNat)) mark s = _
    simp only [execHostRegWrite, unpackBytes_length, hregs, hown, Bool.and_self, if_true, bar0Bytes_word haddr hmem hreg]
    exact congrArg _ (regWrite_of_writable hw _)
  · change execHostRegWrite .host 0 (.read 4) mark s = _
    obtain ⟨hmem, hwidth⟩ := (barOpen_iff s).1 hopen
    have hregs : regsOnly true 0 4 = true := by decide
    have hlost : meshLost 0 mark s = false := by
      rw [meshLost, show tileWindow 0 = none from by decide, Bool.and_false]
    simp only [execHostRegWrite, hregs, hlost, Bool.not_true, Bool.false_and, Bool.false_eq_true, if_false, hostRegRead, hwidth, hmem]
    rw [hostUnits_devId]
  · change execHostRegWrite .host o (.bellRead n) mark s = _
    obtain ⟨hmem, hwidth⟩ := (barOpen_iff s).1 hopen
    simp only [execHostRegWrite, if_pos hle, hostBellRead, if_neg hwidth, hmem, hg, Bool.not_true, Bool.and_false, Bool.false_eq_true,
      if_false]

end Sys2Proof.Machine
end

section
/-! The host attachment: accesses of BAR2, the PCIe function, configuration space and the link (R392 to R403, R413, R415). -/

namespace Sys2Proof.Machine

/-! ### BAR2 -/

theorem linesOf_one {a n : Nat} (h0 : 0 < n) (h : a % 128 + n ≤ 128) : linesOf a n = [a / 128] := by
  unfold linesOf
  rw [if_neg (by omega), show (a + n - 1) / 128 + 1 - a / 128 = 1 by omega]
  rfl

theorem failedLine_eq_false {s : State} (h : s.flt.devFault = false) (ls : List Nat) : ls.any (failedLine s) = false :=
  List.any_eq_false.mpr fun l _ => by simp [failedLine, State.failedChan, h]

theorem Life.running_of {l : Life} (h : l = .chrysalis ∨ l = .imago) : l.running = true := by rcases h with rfl | rfl <;> rfl

theorem execHostBar2Write_of_open {off a : Nat} {bs : List (BitVec 8)} {s : State} (h : Claims.Bar2Open off bs.length a s) :
    exec (.hostBar2Write off bs false) s = .next (bar2Put (bs.length + 1) a bs s.linkUse) := by
  obtain ⟨rfl, hoff, hopen, hlife, hcap, hflt⟩ := h
  change execHostBar2Write off bs false s = _
  simp only [execHostBar2Write, gt_iff_lt, Nat.not_lt.mpr hoff, hopen, Life.running_of hlife, bar2At, Nat.not_lt.mpr hcap,
    failedLine_eq_false hflt, Bool.not_true, Bool.or_self, Bool.false_eq_true, if_false]

/-- One byte, which lies in one line that no mirror sends on. -/
theorem bar2Put_one (a : Nat) (b : BitVec 8) {s : State} (hf : s.flt.devFault = false) (hg : s.chanGated (a / 128) = false)
    (hm : mirrorOn s = false) :
    bar2Put 2 a [b] s = s.ddrRequest (a / 128) (.write (a % 128) [b] none) 2 := by
  have hn : 128 - a % 128 = (127 - a % 128) + 1 := by omega
  have hmirror : ∀ (l : Nat) (z : State), mirrorOn z = false → mirrorLine l z = z := fun l z h => if_pos (by rw [h]; rfl)
  have hreq : (s.ddrRequest (a / 128) (.write (a % 128) [b] none) 2).bond = s.bond := by
    simp only [State.ddrRequest]
    split <;> rfl
  have hlines : State.ddrWriteLines none 2 a [b] s = s.ddrRequest (a / 128) (.write (a % 128) [b] none) 2 := by
    simp only [State.ddrWriteLines, List.isEmpty_cons, List.isEmpty_nil, Bool.false_eq_true, if_false, if_true, hn, List.drop_succ_cons,
      List.drop_nil, List.take_succ_cons, List.take_nil, State.ddrWrite, hg, State.failedChan, hf, Bool.false_and]
    rfl
  simp only [bar2Put, List.isEmpty_cons, List.isEmpty_nil, Bool.false_eq_true, if_false, if_true, hn, List.drop_succ_cons,
    List.drop_nil, List.take_succ_cons, List.take_nil, dmaDdrWrite, List.length_cons, List.length_nil, Nat.zero_add, hlines, mirrorLines,
    Nat.add_one_ne_zero, Nat.add_sub_cancel]
  rw [show a / 128 + 1 - a / 128 = 1 by omega]
  exact hmirror _ _ ((congrArg (fun x : Bond => x.paired && x.active && !x.suspended) hreq).trans hm)

theorem execHostBar2Read_of_open {off n a : Nat} (errs : List BeatErr) {s : State} (h : Claims.Bar2Open off n a s) :
    exec (.hostBar2Read off n errs) s = .next (bar2Keep { tag := s.host.readTag, skip := a % 128, len := n
                                                          lines := (bar2Get s.host.readTag errs (linesOf a n) (Claims.tagged s)).1 }
      (bar2Get s.host.readTag errs (linesOf a n) (Claims.tagged s)).2) := by
  obtain ⟨rfl, hoff, hopen, hlife, hcap, hflt⟩ := h
  obtain ⟨-, hwidth⟩ := (barOpen_iff s).mp hopen
  change execHostBar2Read off n errs s = _
  simp only [execHostBar2Read, gt_iff_lt, Nat.not_lt.mpr hoff, hwidth, decide_false, hopen, Life.running_of hlife, bar2At,
    Nat.not_lt.mpr hcap, failedLine_eq_false hflt, Bool.not_true, Bool.or_self, Bool.false_eq_true, if_false]
  rfl

theorem bar2Get_one (tag l : Nat) (be : BeatErr) (s : State) :
    bar2Get tag [be] [l] s = ([(l, (bar2Line tag be l s).1)], (bar2Line tag be l s).2) := rfl

theorem bar2Keep_whole {r : BarRead} (h : r.lines.all (fun x => x.2.isSome) = true) (s : State) : bar2Keep r s = bar2Answer r s := if_pos h

theorem bar2Answer_one {r : BarRead} {l : Nat} {d : BitVec 1024 × Bool} (h : r.lines = [(l, some d)]) (s : State) :
    bar2Answer r s = s.toHost (.completion (((unpackBytes 128 d.1.toNat).drop r.skip).take r.len) d.2 false) := by
  simp only [bar2Answer, h, List.map_cons, List.map_nil, Option.getD_some, List.flatten_cons, List.flatten_nil, List.append_nil,
    List.any_cons, List.any_nil, Bool.or_false]

/-- The line of the one read that is waiting has come. -/
theorem bar2Got_only {s : State} {x : BarRead} {l : Nat} (d : BitVec 1024 × Bool) (hr : s.host.reads = [x]) (hl : x.lines = [(l, none)]) :
    bar2Got x.tag l d s = ({ s with host := { s.host with reads := [] } }).toHost
      (.completion (((unpackBytes 128 d.1.toNat).drop x.skip).take x.len) d.2 false) := by
  have hgot : (x.got l d).lines = [(l, some d)] := by
    simp only [BarRead.got, hl, List.map_cons, List.map_nil, if_true]
  have hwhole : (x.got l d).whole = true := by
    rw [BarRead.whole, hgot]
    rfl
  have hfind : [x].find? (fun r => decide (r.tag = x.tag)) = some x := by simp
  have hothers : [x].filter (fun y : BarRead => decide (y.tag ≠ x.tag)) = [] := by simp
  simp only [bar2Got, hr, hfind, hwhole, if_true, hothers]
  exact bar2Answer_one hgot _

theorem ddrErr_host {l : Nat} {err : BeatErr} (h : err.bad = false) (s : State) : (ddrErr l err s).host = s.host := by
  unfold ddrErr
  split
  · rfl
  · simp only [h, Bool.false_eq_true, if_false]
    rfl

/-- R339, R355, R394, R399 to R401. -/
theorem bar2Complete : Claims.Bar2Complete := by
  refine ⟨fun off a bs s h => execHostBar2Write_of_open h, fun off a b s h hg hm => ?_, fun off n a errs s s1 ls h hget => ?_,
    fun off n a be s h h0 hn hg => ?_, fun c i err s r x hr hk hs hst hgap hmay hgood hreads hlines => ?_, fun off bs s hoff => ?_,
    fun off n errs s hoff hopen hlife hcap => ?_⟩
  · have hput := execHostBar2Write_of_open (bs := [b]) h
    obtain ⟨-, -, -, -, -, hflt⟩ := h
    exact hput.trans (congrArg Host.Outcome.next (bar2Put_one a b (s := s.linkUse) hflt hg hm))
  · rw [execHostBar2Read_of_open errs h, hget]
    simp only [bar2Keep, bar2Answer, List.map_map]
    rfl
  · have hone := execHostBar2Read_of_open [be] h
    rw [linesOf_one h0 hn, bar2Get_one] at hone
    have hgate : (Claims.tagged s).chanGated (a / 128) = false := hg
    refine ⟨fun hf => ?_, fun hf => ?_⟩
    · have hfast : (Claims.tagged s).ddrFast (a / 128) = true := hf
      simp only [bar2Line, hgate, hfast, Bool.false_eq_true, if_false, if_true] at hone
      rw [bar2Keep_whole rfl, bar2Answer_one (l := a / 128) (d := ((Claims.tagged s).lineData (a / 128), be.bad)) rfl] at hone
      exact hone
    · have hfast : (Claims.tagged s).ddrFast (a / 128) = false := hf
      simp only [bar2Line, hgate, hfast, Bool.false_eq_true, if_false] at hone
      exact hone
  · rw [execDdrRequestServe_next hr hs hst hgap hmay]
    refine ⟨_, rfl, ?_⟩
    unfold served
    rw [hk]
    obtain ⟨hb, -, hsc, ht⟩ := ddrErr_kept (l := r.line) hgood (s.updChan c fun x => x.served i r s.te.time)
    have hh := ddrErr_host (l := r.line) hgood (s.updChan c fun x => x.served i r s.te.time)
    dsimp only
    rw [bar2Got_only _ ((congrArg HostIf.reads hh).trans hreads) hlines]
    refine ⟨?_, rfl, hb, hsc, ht⟩
    rw [hgood]
    exact congrArg (List.cons _) (congrArg HostIf.out hh :)
  · refine ⟨fun hopen => ?_, fun ep hwidth hmem => ?_⟩
    · change execHostBar2Write off bs true s = _
      simp only [execHostBar2Write, gt_iff_lt, Nat.not_lt.mpr hoff, Bool.or_true, if_true, if_false]
      exact congrArg _ (hostWrite_of_poisoned hopen id)
    · change execHostBar2Write off bs ep s = _
      simp only [execHostBar2Write, gt_iff_lt, Nat.not_lt.mpr hoff, State.barOpen, hmem, Bool.false_and, Bool.not_false, Bool.true_or,
        if_true, if_false, hostWrite, hwidth]
  · obtain ⟨-, hwidth⟩ := (barOpen_iff s).mp hopen
    have hbig : 128 * s.capLines < bar2At s off + n := hcap
    change ∃ z, execHostBar2Read off n errs s = _ ∧ _
    simp only [execHostBar2Read, gt_iff_lt, Nat.not_lt.mpr hoff, hwidth, decide_false, hopen, Life.running_of hlife, hbig, Bool.not_true,
      Bool.or_self, Bool.false_eq_true, if_false, if_true]
    exact ⟨_, rfl, rfl, rfl, rfl⟩

/-! ### The function and its link -/

/-- What stopping the rings of the host leaves as it was. -/
structure HostStopKept (s z : State) : Prop where
  bytes : z.ddr.bytes = s.ddr.bytes
  tiles : z.tiles = s.tiles
  sc : z.sc = s.sc
  host : z.host = s.host
  time : z.te = s.te
  mirror : cqMirrored z = cqMirrored s
  bond : cqMirrored s = false → z.bond = s.bond ∧ z.ddr = s.ddr

theorem HostStopKept.refl (s : State) : HostStopKept s s := ⟨rfl, rfl, rfl, rfl, rfl, rfl, fun _ => ⟨rfl, rfl⟩⟩

theorem HostStopKept.trans {s z w : State} (h : HostStopKept s z) (h' : HostStopKept z w) : HostStopKept s w where
  bytes := h'.bytes.trans h.bytes
  tiles := h'.tiles.trans h.tiles
  sc := h'.sc.trans h.sc
  host := h'.host.trans h.host
  time := h'.time.trans h.time
  mirror := h'.mirror.trans h.mirror
  bond := fun hm => ⟨(h'.bond (h.mirror.trans hm)).1.trans (h.bond hm).1, (h'.bond (h.mirror.trans hm)).2.trans (h.bond hm).2⟩

theorem HostStopKept.ringHalt (n : Nat) (s : State) : HostStopKept s (ringHalt n s) := by
  unfold Machine.ringHalt
  dsimp only
  split
  · exact ⟨rfl, rfl, rfl, rfl, rfl, rfl, fun _ => ⟨rfl, rfl⟩⟩
  · split
    · exact ⟨rfl, rfl, rfl, rfl, rfl, rfl, fun _ => ⟨rfl, rfl⟩⟩
    · exact .refl s

theorem HostStopKept.of_mirrored {s z : State} (hm : cqMirrored s = true) (bytes : z.ddr.bytes = s.ddr.bytes) (tiles : z.tiles = s.tiles)
    (sc : z.sc = s.sc) (host : z.host = s.host) (time : z.te = s.te) (mirror : cqMirrored z = cqMirrored s) : HostStopKept s z :=
  ⟨bytes, tiles, sc, host, time, mirror, fun h => absurd (h.symm.trans hm) Bool.false_ne_true⟩

theorem HostStopKept.copyRing (n : Nat) (s : State) : HostStopKept s (copyRing n s) := by
  unfold Machine.copyRing
  split
  next hm =>
    have hsend : ∀ (c : BitVec 512) (z : State), z.ddr.bytes = s.ddr.bytes → z.tiles = s.tiles → z.sc = s.sc → z.host = s.host →
        z.te = s.te → cqMirrored z = cqMirrored s → HostStopKept s (runOp (.copy n false) c z) := by
      intro c z hb ht hsc hh hte hmz
      unfold runOp copySend
      dsimp only
      split
      · exact .of_mirrored hm hb ht hsc hh hte hmz
      · simp only [Bool.false_and, Bool.false_eq_true, if_false]
        exact .of_mirrored hm hb ht hsc hh hte hmz
    unfold startOp
    dsimp only
    split
    · exact hsend _ _ rfl rfl rfl rfl rfl rfl
    · split
      · exact hsend _ _ rfl rfl rfl rfl rfl rfl
      · simp only [State.ddrRequest]
        split <;> exact .of_mirrored hm rfl rfl rfl rfl rfl rfl
  next => exact .refl s

theorem HostStopKept.haltCopied (n : Nat) (s : State) : HostStopKept s (haltCopied n s) := by
  unfold Machine.haltCopied
  dsimp only
  split
  · exact (HostStopKept.ringHalt n s).trans (.copyRing n _)
  · exact .ringHalt n s

theorem HostStopKept.stopHostRings (s : State) : HostStopKept s (stopHostRings s) := by
  refine foldl_keeps (HostStopKept s) _ (fun z n h => ?_) _ _ (.refl s)
  split
  · exact h.trans (.haltCopied n z)
  · exact h

theorem configWrite_next {field : PcieCfg} {s : State} (hw : s.host.width ≠ 0) (hf : ∀ o, field ≠ .read o) :
    exec (.pcieConfigWrite field false) s = .next { s with host := s.linkUse.host.config field } := by
  change execPcieConfigWrite field false s = _
  unfold execPcieConfigWrite
  rw [if_neg hw]
  cases field with
  | read o => exact absurd rfl (hf o)
  | _ => rfl

theorem configRead_next {o : Nat} {w : BitVec 32} {s : State} (h : configRead o s = w) (ep : Bool) (hw : s.host.width ≠ 0) :
    exec (.pcieConfigWrite (.read o) ep) s = .next (s.toHost (.completion (unpackBytes 4 w.toNat) false false)) := by
  subst h
  exact if_neg hw

theorem configRead_identity (s : State) : configRead 0 s = 0x00481F3C#32 ∧ configRead 8 s = 0x120000B0#32 := by
  constructor <;> simp only [configRead, configId] <;> rfl

/-- A BAR's lower word while every BAR register is 0: its type bits. -/
theorem barWord_zero {s : State} (h : s.host.bars = List.replicate 6 0) :
    barWord 0 s = 4#32 ∧ barWord 2 s = 12#32 ∧ barWord 4 s = 4#32 := by
  refine ⟨?_, ?_, ?_⟩ <;>
    simp [barWord, barInfo, h, b2n]

theorem barWord_ones {s : State} (h : s.host.bars = List.replicate 6 0xFFFFFFFF) :
    barWord 0 s = 0xF0000004#32 ∧ barWord 4 s = 0xFFFC0004#32 := by
  refine ⟨?_, ?_⟩ <;>
    simp [barWord, barInfo, h, b2n]

/-- R392 to R395, R403, R413, R415, R430. -/
theorem pcieFunctionComplete : Claims.PcieFunctionComplete := by
  have hdown : ∀ s : State, (linkDown s).host.width = 0 ∧ (linkDown s).ddr.bytes = s.ddr.bytes ∧ (linkDown s).tiles = s.tiles := fun s =>
    ⟨rfl, (HostStopKept.stopHostRings s).bytes, (HostStopKept.stopHostRings s).tiles⟩
  refine ⟨fun s hw => ?_, fun s hw => ?_, fun s => ?_, fun s => rfl, fun w sp flit s hw hp hl hws h1 h6 hflit => ?_, fun s hw ha => ?_,
    fun b s hw => ?_, fun n v s hw => ?_, fun ep s hw => ?_, fun i v s hw => ?_, fun ep s hw => ?_,
    fun k s e hk he hp hen hmask hem hreach => ?_⟩
  · have hk := HostStopKept.stopHostRings s
    refine ⟨functionReset s, congrArg Host.Outcome.next (if_pos hw), rfl, rfl, rfl, rfl, rfl, rfl, rfl, rfl, rfl, rfl, rfl, rfl,
      (congrArg HostIf.width hk.host :), hk.bytes, hk.tiles, hk.sc, hk.bond⟩
  · have hk := HostStopKept.stopHostRings s
    have hcnt : ∀ d : HostIf, d = s.host → (if d.downCnt = 0xFFFF then d.downCnt else d.downCnt + 1)
        = (if s.host.downCnt = 0xFFFF then s.host.downCnt else s.host.downCnt + 1) := by
      rintro _ rfl
      rfl
    exact ⟨linkDown s, congrArg Host.Outcome.next (if_pos hw), rfl, rfl, rfl, rfl, (hcnt _ hk.host :),
      (congrArg (fun t : TimeEvt => some t.time) hk.time :), hk.bytes, hk.tiles⟩
  · obtain ⟨hw, hb, ht⟩ := hdown s
    refine ⟨_, rfl, rfl, ?_⟩
    split
    next h => exact ⟨hw, hb, ht⟩
    next h => exact ⟨not_not.mp h, rfl, rfl⟩
  · refine (if_pos ?_).trans rfl
    have hwidth : (w = 1 || w = 2 || w = 4) = true := by simpa [or_assoc] using hws
    have hf : (decide (sp ≠ 6) || flit) = true := by
      by_cases h : sp = 6
      · rw [hflit h, Bool.or_true]
      · rw [decide_eq_true h, Bool.true_or]
    simp only [hw, hp, hl, h1, h6, hf, hwidth, ne_eq, decide_true, not_false_eq_true, Bool.not_false, Bool.and_self]
  · refine ⟨fun ht => congrArg Host.Outcome.next (if_pos (by simp only [hw, ha, ht, ne_eq, not_false_eq_true, decide_true, Bool.and_self])), fun ht => congrArg Host.Outcome.next (if_neg ?_)⟩
    simp only [ha, Nat.not_le_of_lt ht, decide_false, Bool.and_false, Bool.false_eq_true, not_false_eq_true]
  · refine ⟨?_, ?_, ?_, ?_, ?_⟩ <;> exact configWrite_next hw (fun _ h => PcieCfg.noConfusion h)
  · refine ⟨fun h => ?_, fun h => ?_, fun h => ?_⟩
    · refine (configWrite_next hw (fun _ h => PcieCfg.noConfusion h)).trans (congrArg (fun x => Host.Outcome.next { s with host := x }) (if_pos ?_))
      simpa using h
    · exact (configWrite_next hw (fun _ h => PcieCfg.noConfusion h)).trans
        (congrArg (fun x => Host.Outcome.next { s with host := x }) (if_pos h))
    · exact (configWrite_next hw (fun _ h => PcieCfg.noConfusion h)).trans
        (congrArg (fun x => Host.Outcome.next { s with host := x }) (if_pos h))
  · refine ⟨configRead_next (configRead_identity s).1 ep hw, configRead_next (configRead_identity s).2 ep hw, 0x3C, 0x1F, ?_⟩
    by_cases hg : s.sec.grade.toNat = 0
    · rw [if_pos hg]
      refine configRead_next (o := 0x2C) (w := 0x00121F3C#32) ?_ ep hw
      simp only [configRead, configId, hg, if_true]
      rfl
    · rw [if_neg hg]
      refine configRead_next (o := 0x2C) (w := 0x00101F3C#32) ?_ ep hw
      simp only [configRead, configId, hg, if_false]
      rfl
  · exact configWrite_next hw (fun _ h => PcieCfg.noConfusion h)
  · refine ⟨fun h => ?_, fun h => ?_⟩
    · obtain ⟨h0, h2, h4⟩ := barWord_zero h
      exact ⟨configRead_next (o := 0x10) h0 ep hw, configRead_next (o := 0x18) h2 ep hw, configRead_next (o := 0x20) h4 ep hw⟩
    · obtain ⟨h0, h4⟩ := barWord_ones h
      exact ⟨configRead_next (o := 0x10) h0 ep hw, configRead_next (o := 0x20) h4 ep hw⟩
  · have hget : s.host.msix.getD k ⟨0, 0, true⟩ = e := by
      rw [List.getD_eq_getElem?_getD, he]
      rfl
    change execMsixSend k s = _
    simp only [execMsixSend, hget, hk, bit, hp, hen, hmask, hem, hreach, decide_true, Bool.not_false, Bool.and_self, if_true]
    rfl

/-- Settles O36. -/
theorem pcieComplete : Obligations.PcieComplete := ⟨bar2Complete, pcieFunctionComplete⟩

end Sys2Proof.Machine
end

section
/-! The DMA engine: operations on rings and their contexts (R364 to R366, R371 to R374, R377, R378, R402). -/

namespace Sys2Proof.Machine

/-! ### Contexts on chip -/

theorem Dma.ctx_putCtx_same (d : Dma) (n : Nat) (c : BitVec 512) : (d.putCtx n c).ctx n = some c := by
  simp [Dma.ctx, Dma.putCtx]

/-- Contexts that are taken off the chip are those of ring `n` alone. -/
theorem find?_filter_ring_ne {n j : Nat} (h : j ≠ n) (l : List RingCtx) :
    (l.filter fun c => c.ring ≠ n).find? (fun c => c.ring = j) = l.find? fun c => c.ring = j := by
  rw [List.find?_filter]
  refine congrArg (fun p => l.find? p) (funext fun x => ?_)
  by_cases hx : x.ring = j
  · simp [hx, h]
  · simp [hx]

theorem find?_filter_ring_same (n : Nat) (l : List RingCtx) : (l.filter fun c => c.ring ≠ n).find? (fun c => c.ring = n) = none := by
  rw [List.find?_filter, List.find?_eq_none]
  simp

theorem Dma.ctx_putCtx_ne (d : Dma) {n j : Nat} (c : BitVec 512) (h : j ≠ n) : (d.putCtx n c).ctx j = d.ctx j := by
  simp only [Dma.ctx, Dma.putCtx]
  rw [List.find?_cons_of_neg (by simpa using h.symm), find?_filter_ring_ne h]

theorem Dma.live_updLive_same {s : State} {n : Nat} {f : RingLive → RingLive} (h : f (s.dma.live n) ≠ RingLive.reset) :
    (s.updLive n f).dma.live n = f (s.dma.live n) := sget_sset_of_ne h _

theorem Dma.live_updLive_ne {s : State} {n j : Nat} (f : RingLive → RingLive) (h : j ≠ n) :
    (s.updLive n f).dma.live j = s.dma.live j := sget_sset_ne _ _ h _

theorem RingLive.ne_reset {r : RingLive} (h : r.state ≠ 0) : r ≠ RingLive.reset := fun he => h (congrArg RingLive.state he)

/-! ### What a copy to the partner leaves alone -/

/-- Nothing of the DMA engine, of the bytes of DDR5 or of the tiles changes, and no queue of a channel loses a request. -/
structure Beside (s z : State) : Prop where
  dma : z.dma = s.dma
  bytes : z.ddr.bytes = s.ddr.bytes
  tiles : z.tiles = s.tiles

theorem Beside.refl (s : State) : Beside s s := ⟨rfl, rfl, rfl⟩

theorem Beside.trans {s z w : State} (h : Beside s z) (h' : Beside z w) : Beside s w :=
  ⟨h'.dma.trans h.dma, h'.bytes.trans h.bytes, h'.tiles.trans h.tiles⟩

theorem Beside.ddrRequest (l : Nat) (k : DdrKind) (cls : Nat) (s : State) : Beside s (s.ddrRequest l k cls) := by
  simp only [State.ddrRequest]
  split <;> exact ⟨rfl, rfl, rfl⟩

theorem Beside.copySend (n : Nat) (resync : Bool) (c : BitVec 512) (s : State) : Beside s (copySend n resync c s) := by
  unfold Machine.copySend
  dsimp only
  split
  · exact .refl s
  · split <;> exact ⟨rfl, rfl, rfl⟩

theorem Beside.copyRing (n : Nat) (s : State) : Beside s (copyRing n s) := by
  unfold Machine.copyRing
  split
  · unfold startOp
    dsimp only
    split
    · exact .copySend _ _ _ _
    · split
      · exact Beside.trans (z := s.countGated) ⟨rfl, rfl, rfl⟩ (Beside.copySend n false 0 s.countGated)
      · exact .ddrRequest _ _ _ _
  · exact .refl s

theorem Beside.ddrErr {l : Nat} {err : BeatErr} (h : err.bad = false) (s : State) : Beside s (ddrErr l err s) := by
  unfold Machine.ddrErr
  split
  · exact .refl s
  · simp only [h, Bool.false_eq_true, if_false]
    exact ⟨rfl, rfl, rfl⟩

/-- A request that waits in channel `c` still waits there. -/
def QueueKept (c : Nat) (s z : State) : Prop := ∀ r ∈ (s.chan c).queue, r ∈ (z.chan c).queue

theorem State.mem_queue_updChan {s : State} {c c' : Nat} {f : DdrChan → DdrChan} (hf : ∀ x r, r ∈ x.queue → r ∈ (f x).queue) :
    QueueKept c s (s.updChan c' f) := by
  intro r hr
  by_cases h : c = c'
  · subst h
    by_cases hl : c < s.ddr.ch.length
    · rw [State.chan_updChan_same s f hl]
      exact hf _ _ hr
    · have hout : s.ddr.ch.getD c .reset = DdrChan.reset := List.getD_eq_default _ _ (Nat.le_of_not_lt hl)
      exact absurd (show r ∈ (s.ddr.ch.getD c .reset).queue from hr) (by rw [hout]; exact List.not_mem_nil)
  · rwa [show (s.updChan c' f).chan c = s.chan c from upd_getD_ne _ _ _ _ _ h]

theorem QueueKept.ddrRequest (c l : Nat) (k : DdrKind) (cls : Nat) (s : State) : QueueKept c s (s.ddrRequest l k cls) := by
  have hi : ∀ z : State, z.ddr = s.ddr → ∀ f : DdrChan → DdrChan, (∀ x r, r ∈ x.queue → r ∈ (f x).queue) →
      QueueKept c s (z.updChan (lineChan l) f) := fun z hz f hf r hr =>
    State.mem_queue_updChan hf r (show r ∈ (z.ddr.ch.getD c .reset).queue by rw [hz]; exact hr)
  simp only [State.ddrRequest]
  split <;> exact hi _ rfl _ fun x r hr => List.mem_append_left _ hr

theorem QueueKept.copyRing (c n : Nat) (s : State) : QueueKept c s (copyRing n s) := by
  have hsend : ∀ (r : Bool) (raw : BitVec 512) (z : State), (copySend n r raw z).ddr = z.ddr := by
    intro r raw z
    unfold copySend
    dsimp only
    split
    · rfl
    · split <;> rfl
  have hof : ∀ z : State, z.ddr = s.ddr → QueueKept c s z := fun z hz r hr =>
    show r ∈ (z.ddr.ch.getD c .reset).queue by rw [hz]; exact hr
  unfold Machine.copyRing
  split
  · unfold startOp
    dsimp only
    split
    · exact hof _ (hsend _ _ _)
    · split
      · exact hof _ (hsend _ _ _)
      · exact .ddrRequest _ _ _ _ _
  · exact hof _ rfl

/-! ### When an operation runs -/

theorem ringOp_onChip {op : CtxOp} {s : State} (err : Option BeatErr) (hw : opWaits s op.ring = false) (hr : readsImage s op = false) :
    ringOp op err s = runOp op (ctxPeek s op.ring) s := by
  simp only [ringOp, hw, startOp, hr, Bool.not_false, Bool.false_eq_true, if_false, if_true]

theorem ringOp_waits {op : CtxOp} {s : State} (err : Option BeatErr) (hw : opWaits s op.ring = true) :
    ringOp op err s = { s with dma := { s.dma with after := s.dma.after ++ [op] } } := if_pos hw

theorem ringOp_asks {op : CtxOp} {s : State} (err : Option BeatErr) (hw : opWaits s op.ring = false) (hr : readsImage s op = true)
    (hg : s.chanGated (ctxAt s op.ring / 128) = false) (hf : s.ddrFast (ctxAt s op.ring / 128) = false) :
    ringOp op err s = s.ddrRequest (ctxAt s op.ring / 128) (.ctx op) 2 := by
  simp only [ringOp, hw, startOp, hr, hg, hf, Bool.not_true, Bool.false_eq_true, if_false]

theorem ringOp_atOnce {op : CtxOp} {s : State} {err : BeatErr} (h : Claims.AtOnce s op.ring) (hr : readsImage s op = true)
    (hgood : err.bad = false) :
    ringOp op (some err) s = runOp op (Claims.image s op.ring)
      (ddrErr (ctxAt s op.ring / 128) err (s.ddrOpen (ctxAt s op.ring / 128))) := by
  obtain ⟨hw, hg, hf⟩ := h
  simp only [ringOp, hw, startOp, hr, hg, hf, Bool.not_true, Bool.false_eq_true, if_false, gotImage, hgood]
  rfl

theorem Beside.read {op : CtxOp} {s : State} {err : BeatErr} (hgood : err.bad = false) :
    Beside s (Machine.ddrErr (ctxAt s op.ring / 128) err (s.ddrOpen (ctxAt s op.ring / 128))) :=
  .trans (z := s.ddrOpen (ctxAt s op.ring / 128)) ⟨rfl, rfl, rfl⟩ (.ddrErr hgood _)

/-! ### What the operations do -/

/-- A ring as it starts on its context. -/
def liveOf (c : BitVec 512) (state : BitVec 3) : RingLive := ⟨state, 0, BitVec.ofNat 16 (c.toNat / 2 ^ 96 % 2 ^ 16), c.extractLsb' 128 32 - 1⟩

theorem liveOf_eq (c : BitVec 512) (state : BitVec 3) :
    liveOf c state = { state := state, cause := 0, head := BitVec.ofNat 16 (cHead c), consumed := cExp c - 1 } := by
  rw [cHead, fld_eq]
  rfl

theorem Beside.mirrorRing (n : Nat) (c : BitVec 512) (l : RingLive) (s : State) : Beside s (mirrorRing n c l s) ∧ (mirrorRing n c l s).ddr = s.ddr := by
  unfold Machine.mirrorRing
  split <;> exact ⟨⟨rfl, rfl, rfl⟩, rfl⟩

/-- A ring starts on a context for which there is room on chip, or which is there. -/
theorem ringStart_room {n : Nat} {c : BitVec 512} {s : State} (h : (s.dma.ctx n).isSome = true ∨ s.dma.cache.length < 256) :
    (ringStart n c s).dma.live n = liveOf c (if consumable c then 2 else 1) ∧ (ringStart n c s).dma.ctx n = some c
      ∧ (∀ j, j ≠ n → (ringStart n c s).dma.live j = s.dma.live j ∧ (ringStart n c s).dma.ctx j = s.dma.ctx j)
      ∧ (ringStart n c s).ddr = s.ddr ∧ (ringStart n c s).tiles = s.tiles := by
  have hkeep : keepCtx n c s = some (notWaiting n { s with dma := s.dma.putCtx n c }) := by
    unfold keepCtx
    split
    · rfl
    next hno =>
      rw [makeRoom, if_pos (h.resolve_left hno)]
      rfl
  unfold ringStart
  rw [hkeep]
  dsimp only
  generalize hz : ringReady n c (notWaiting n { s with dma := s.dma.putCtx n c }) = z
  obtain ⟨⟨hd, -, ht⟩, hddr⟩ := Beside.mirrorRing n c (z.dma.live n) z
  rw [hd, ht, hddr, ← hz, ringReady, ← liveOf_eq]
  have hne : liveOf c (if consumable c then 2 else 1) ≠ RingLive.reset := RingLive.ne_reset (by unfold liveOf; dsimp only; split <;> decide)
  exact ⟨sget_sset_of_ne (d := fun _ => RingLive.reset) hne _, s.dma.ctx_putCtx_same n c,
    fun j hj => ⟨sget_sset_ne _ _ hj _, s.dma.ctx_putCtx_ne c hj⟩, rfl, rfl⟩

/-- A ring starts with every context on chip needed. -/
theorem ringStart_full {n : Nat} {c : BitVec 512} {s : State} (hctx : s.dma.ctx n = none) (h256 : 256 ≤ s.dma.cache.length)
    (hpin : ∀ x ∈ s.dma.cache, ctxPinned s x.ring = true) :
    (ringStart n c s).dma.live n = liveOf c 1 ∧ (ringStart n c s).dma.ctx n = none
      ∧ (ringStart n c s).dma.wait = (if consumable c then s.dma.wait.filter (· ≠ n) ++ [n] else s.dma.wait)
      ∧ (ringStart n c s).ddr = s.ddr ∧ (ringStart n c s).tiles = s.tiles := by
  have hfind : s.dma.cache.reverse.find? (fun x => !ctxPinned s x.ring) = none :=
    List.find?_eq_none.mpr fun x hx => by simp [hpin x (List.mem_reverse.mp hx)]
  have hkeep : keepCtx n c s = none := by
    simp only [keepCtx, hctx, Option.isSome_none, Bool.false_eq_true, if_false, makeRoom, Nat.not_lt.mpr h256, hfind, Option.map_none]
  unfold ringStart
  rw [hkeep]
  dsimp only
  generalize hz : ringParked n c s = z
  obtain ⟨⟨hd, -, ht⟩, hddr⟩ := Beside.mirrorRing n c (z.dma.live n) z
  rw [hd, ht, hddr, ← hz]
  have hlive := sget_sset_of_ne (d := fun _ => RingLive.reset) (RingLive.ne_reset (r := liveOf c 1) (show (1 : BitVec 3) ≠ 0 by decide)) (a := n) s.dma.rings
  unfold ringParked
  rw [← liveOf_eq]
  dsimp only
  split
  · exact ⟨hlive, hctx, rfl, rfl, rfl⟩
  · exact ⟨hlive, hctx, rfl, rfl, rfl⟩

theorem ringInit_ready {n : Nat} {c : BitVec 512} {s : State} (hst : (s.dma.live n).state = 0 ∨ (s.dma.live n).state = 4)
    (hok : ctxOk c = true) :
    ringInit n c s = ringStart n c { s with dma := { s.dma with cache := s.dma.cache.filter fun x => x.ring ≠ n } } := by
  unfold ringInit
  dsimp only
  rw [if_neg (by rcases hst with h | h <;> rw [h] <;> decide), if_neg (by simp [hok])]

theorem ringHalt_idle {n : Nat} {s : State} (hst : (s.dma.live n).state = 1 ∨ (s.dma.live n).state = 2) :
    ringHalt n s = { s with dma := { s.dma with wait := s.dma.wait.filter (· ≠ n) } }.updLive n fun r => { r with state := 4, cause := 0 } := by
  unfold ringHalt
  dsimp only
  rw [if_neg (by rcases hst with h | h <;> rw [h] <;> decide), if_pos (by rcases hst with h | h <;> rw [h] <;> decide)]

theorem ringHalt_running {n : Nat} {s : State} (hst : (s.dma.live n).state = 3) :
    ringHalt n s = { s with dma := { s.dma with stopAfter := n :: s.dma.stopAfter.filter (· ≠ n) } } := if_pos hst

/-! ### The commands -/

theorem ringWord_fld {op n : Nat} (ho : op < 8) : fld (ringWord op n) 0 15 = n % 2 ^ 15 ∧ fld (ringWord op n) 16 3 = op := by
  have hv : (ringWord op n).toNat = n % 2 ^ 15 + 2 ^ 16 * op := by
    rw [ringWord, BitVec.toNat_ofNat]
    omega
  simp only [fld, hv]
  omega

theorem dmaRingCmd_init {n : Nat} {err : BeatErr} {s : State} (hn : n < 2 ^ 15) (hf : s.flt.devFault = false) :
    dmaRingCmd (ringWord 0 n) err s = ringOp (.init n) (some err) s := by
  obtain ⟨h0, h16⟩ := ringWord_fld (op := 0) (n := n) (by decide)
  simp only [dmaRingCmd, h0, h16, hf, Nat.mod_eq_of_lt hn, Bool.false_eq_true, if_false]

theorem dmaRingCmd_stop {n : Nat} {err : BeatErr} {s : State} (hn : n < 2 ^ 15) (hf : s.flt.devFault = false) :
    dmaRingCmd (ringWord 1 n) err s = stopCopied n s := by
  obtain ⟨h0, h16⟩ := ringWord_fld (op := 1) (n := n) (by decide)
  simp only [dmaRingCmd, h0, h16, hf, Nat.mod_eq_of_lt hn, Bool.false_eq_true, if_false]

theorem dmaRingCmd_resume {n : Nat} {err : BeatErr} {s : State} (hn : n < 2 ^ 15) (hf : s.flt.devFault = false) :
    dmaRingCmd (ringWord 2 n) err s = ringOp (.resume n) (some err) s := by
  obtain ⟨h0, h16⟩ := ringWord_fld (op := 2) (n := n) (by decide)
  simp only [dmaRingCmd, h0, h16, hf, Nat.mod_eq_of_lt hn, Bool.false_eq_true, if_false]

theorem dmaRingCmd_off {n : Nat} {err : BeatErr} {s : State} (hn : n < 2 ^ 15) (hf : s.flt.devFault = false) :
    dmaRingCmd (ringWord 3 n) err s = offCopied n s := by
  obtain ⟨h0, h16⟩ := ringWord_fld (op := 3) (n := n) (by decide)
  simp only [dmaRingCmd, h0, h16, hf, Nat.mod_eq_of_lt hn, Bool.false_eq_true, if_false]

theorem dmaRingCmd_flush {n : Nat} {err : BeatErr} {s : State} (hf : s.flt.devFault = false) :
    dmaRingCmd (ringWord 4 n) err s = ringFlush s := by
  obtain ⟨-, h16⟩ := ringWord_fld (op := 4) (n := n) (by decide)
  simp only [dmaRingCmd, h16, hf, Bool.false_eq_true, if_false]

theorem readsImage_init {n : Nat} {s : State} (hst : (s.dma.live n).state = 0 ∨ (s.dma.live n).state = 4) :
    readsImage s (.init n) = true := by
  simp only [readsImage, CtxOp.ring, Bool.or_eq_true]
  exact hst.imp decide_eq_true decide_eq_true

/-- INIT whose context is read at once runs on it with the rest of the engine as it was. -/
theorem init_atOnce {n : Nat} {err : BeatErr} {s : State} (hst : (s.dma.live n).state = 0 ∨ (s.dma.live n).state = 4)
    {c : BitVec 512} (himg : Claims.image s n = c) (h : Claims.AtOnce s n) (hok : ctxOk c = true) (hgood : err.bad = false) :
    ∃ z, Beside s z ∧ ringOp (.init n) (some err) s
      = ringStart n c { z with dma := { z.dma with cache := z.dma.cache.filter fun x => x.ring ≠ n } } := by
  subst himg
  have hb := Beside.read (op := .init n) (s := s) hgood
  refine ⟨_, hb, (ringOp_atOnce (op := .init n) h (readsImage_init hst) hgood).trans (ringInit_ready ?_ hok)⟩
  rw [hb.dma]
  exact hst

theorem init_room {n : Nat} {err : BeatErr} {s : State} (hst : (s.dma.live n).state = 0 ∨ (s.dma.live n).state = 4)
    {c : BitVec 512} (himg : Claims.image s n = c) (h : Claims.AtOnce s n) (hok : ctxOk c = true) (hgood : err.bad = false)
    (hroom : (s.dma.cache.filter fun x => x.ring ≠ n).length < 256) {t : State} (ht : ringOp (.init n) (some err) s = t) :
    t.dma.live n = liveOf c (if consumable c then 2 else 1) ∧ t.dma.ctx n = some c
      ∧ (∀ j, j ≠ n → t.dma.live j = s.dma.live j ∧ t.dma.ctx j = s.dma.ctx j) ∧ t.ddr.bytes = s.ddr.bytes ∧ t.tiles = s.tiles := by
  obtain ⟨z, ⟨hd, hb, htl⟩, hz⟩ := init_atOnce hst himg h hok hgood
  obtain ⟨h1, h2, h3, h4, h5⟩ := ringStart_room (n := n) (c := c)
    (s := { z with dma := { z.dma with cache := z.dma.cache.filter fun x => x.ring ≠ n } }) (.inr (by rw [hd]; exact hroom))
  rw [← ht, hz]
  refine ⟨h1, h2, fun j hj => ?_, (congrArg Ddr.bytes h4).trans hb, h5.trans htl⟩
  obtain ⟨hl, hc⟩ := h3 j hj
  refine ⟨hl.trans (congrArg (fun d : Dma => d.live j) hd :), hc.trans ?_⟩
  rw [hd]
  exact congrArg (Option.map RingCtx.raw) (find?_filter_ring_ne hj _)

theorem init_full {n : Nat} {err : BeatErr} {s : State} (hst : (s.dma.live n).state = 0 ∨ (s.dma.live n).state = 4)
    {c : BitVec 512} (himg : Claims.image s n = c) (h : Claims.AtOnce s n) (hok : ctxOk c = true) (hgood : err.bad = false)
    (hfull : 256 ≤ (s.dma.cache.filter fun x => x.ring ≠ n).length)
    (hpin : ∀ x ∈ s.dma.cache, x.ring ≠ n → ctxPinned s x.ring = true) {t : State} (ht : ringOp (.init n) (some err) s = t) :
    t.dma.live n = liveOf c 1 ∧ t.dma.ctx n = none
      ∧ t.dma.wait = (if consumable c then s.dma.wait.filter (· ≠ n) ++ [n] else s.dma.wait)
      ∧ t.ddr.bytes = s.ddr.bytes ∧ t.tiles = s.tiles := by
  obtain ⟨z, ⟨hd, hb, htl⟩, hz⟩ := init_atOnce hst himg h hok hgood
  obtain ⟨h1, h2, h3, h4, h5⟩ := ringStart_full (n := n) (c := c)
    (s := { z with dma := { z.dma with cache := z.dma.cache.filter fun x => x.ring ≠ n } })
    (congrArg (Option.map RingCtx.raw) (find?_filter_ring_same n _)) (by rw [hd]; exact hfull) (fun x hx => by
      obtain ⟨hx, hne⟩ := List.mem_filter.mp hx
      rw [hd] at hx
      have := hpin x hx (by simpa using hne)
      unfold ctxPinned at this ⊢
      rw [← hd] at this
      exact this)
  rw [← ht, hz]
  refine ⟨h1, h2, h3.trans ?_, (congrArg Ddr.bytes h4).trans hb, h5.trans htl⟩
  rw [hd]

theorem resume_start {n : Nat} {c : BitVec 512} {s : State} (hst : (s.dma.live n).state = 4) : ringResume n c s = ringStart n c s :=
  if_neg (not_not.mpr hst)

theorem resume_read {n : Nat} {err : BeatErr} {s : State} (hst : (s.dma.live n).state = 4) (hctx : s.dma.ctx n = none)
    {c : BitVec 512} (himg : Claims.image s n = c) (h : Claims.AtOnce s n) (hgood : err.bad = false) (hroom : s.dma.cache.length < 256) {t : State}
    (ht : ringOp (.resume n) (some err) s = t) :
    t.dma.live n = liveOf c (if consumable c then 2 else 1) ∧ t.dma.ctx n = some c
      ∧ t.ddr.bytes = s.ddr.bytes ∧ t.tiles = s.tiles := by
  subst himg
  have hr : readsImage s (.resume n) = true := by
    simp only [readsImage, CtxOp.ring, hst, hctx]
    rfl
  obtain ⟨hd, hb, htl⟩ := Beside.read (op := .resume n) (s := s) hgood
  rw [← ht, ringOp_atOnce (op := .resume n) h hr hgood]
  obtain ⟨h1, h2, -, h4, h5⟩ := ringStart_room (n := n) (c := Claims.image s n)
    (s := ddrErr (ctxAt s n / 128) err (s.ddrOpen (ctxAt s n / 128))) (.inr ((congrArg (fun d : Dma => d.cache.length) hd).trans_lt hroom))
  have hstart := resume_start (n := n) (c := Claims.image s n) ((congrArg (fun d : Dma => (d.live n).state) hd).trans hst)
  refine ⟨(congrArg (fun z : State => z.dma.live n) hstart).trans h1, (congrArg (fun z : State => z.dma.ctx n) hstart).trans h2,
    (congrArg (fun z : State => z.ddr.bytes) hstart).trans ((congrArg Ddr.bytes h4).trans hb),
    (congrArg State.tiles hstart).trans (h5.trans htl)⟩

theorem resume_onChip {n : Nat} {err : BeatErr} {s : State} {c : BitVec 512} (hw : opWaits s n = false) (hst : (s.dma.live n).state = 4)
    (hctx : s.dma.ctx n = some c) {t : State} (ht : ringOp (.resume n) (some err) s = t) :
    t.dma.live n = liveOf c (if consumable c then 2 else 1) ∧ t.dma.ctx n = some c ∧ t.ddr = s.ddr ∧ t.tiles = s.tiles := by
  have hr : readsImage s (.resume n) = false := by
    simp only [readsImage, CtxOp.ring, hst, hctx]
    rfl
  have hpeek : ctxPeek s n = c := by
    rw [ctxPeek, hctx]
    rfl
  have hrun : ringOp (.resume n) (some err) s = ringStart n c s :=
    ((ringOp_onChip (op := .resume n) (some err) hw hr).trans (resume_start hst)).trans (congrArg (ringStart n · s) hpeek)
  obtain ⟨h1, h2, -, h4, h5⟩ := ringStart_room (n := n) (c := c) (s := s) (.inl (by rw [hctx]; rfl))
  rw [← ht, hrun]
  exact ⟨h1, h2, h4, h5⟩

theorem stop_idle {n : Nat} {s : State} (hw : opWaits s n = false) (hst : (s.dma.live n).state = 1 ∨ (s.dma.live n).state = 2) {t : State}
    (ht : stopCopied n s = t) :
    t.dma.live n = { s.dma.live n with state := 4, cause := 0 } ∧ (∀ j, j ≠ n → t.dma.live j = s.dma.live j)
      ∧ t.dma.cache = s.dma.cache ∧ t.ddr.bytes = s.ddr.bytes ∧ t.tiles = s.tiles := by
  have hrun : ringOp (.stop n) none s
      = { s with dma := { s.dma with wait := s.dma.wait.filter (· ≠ n) } }.updLive n fun r => { r with state := 4, cause := 0 } := by
    refine (ringOp_onChip (op := .stop n) none hw rfl).trans (Eq.trans ?_ (ringHalt_idle hst))
    exact if_pos (by rcases hst with h | h <;> rw [h] <;> decide)
  unfold stopCopied at ht
  dsimp only at ht
  rw [hrun, if_pos (by rcases hst with h | h <;> rw [h] <;> decide)] at ht
  obtain ⟨hd, hb, htl⟩ := Beside.copyRing n
    ({ s with dma := { s.dma with wait := s.dma.wait.filter (· ≠ n) } }.updLive n fun r => { r with state := 4, cause := 0 })
  rw [← ht, hd, hb, htl]
  exact ⟨sget_sset_of_ne (d := fun _ => RingLive.reset) (RingLive.ne_reset (r := { s.dma.live n with state := 4, cause := 0 }) (show (4 : BitVec 3) ≠ 0 by decide)) _,
    fun j hj => sget_sset_ne _ _ hj _, rfl, rfl, rfl⟩

theorem stop_running {n : Nat} {s : State} (hw : opWaits s n = false) (hst : (s.dma.live n).state = 3) {t : State} (ht : stopCopied n s = t) :
    n ∈ t.dma.stopAfter ∧ t.dma.rings = s.dma.rings ∧ t.ddr.bytes = s.ddr.bytes := by
  have hrun : ringOp (.stop n) none s = { s with dma := { s.dma with stopAfter := n :: s.dma.stopAfter.filter (· ≠ n) } } :=
    (ringOp_onChip (op := .stop n) none hw rfl).trans (Eq.trans (if_pos (by rw [hst]; decide)) (ringHalt_running hst))
  unfold stopCopied at ht
  dsimp only at ht
  rw [hrun, if_pos (by rw [hst]; decide)] at ht
  obtain ⟨hd, hb, -⟩ := Beside.copyRing n { s with dma := { s.dma with stopAfter := n :: s.dma.stopAfter.filter (· ≠ n) } }
  rw [← ht, hd, hb]
  exact ⟨List.mem_cons_self, rfl, rfl⟩

/-! ### OFF -/

/-- The write of a context, which lies within one line. -/
theorem ddrWriteLines_ctx {s : State} (n : Nat) {bs : List (BitVec 8)} (h : bs.length = 64) :
    State.ddrWriteLines none 65 (ctxAt s n) bs s = s.ddrWrite (ctxAt s n) bs none := by
  have hat : ctxAt s n % 128 ≤ 64 := by
    unfold ctxAt
    omega
  have hne : bs.isEmpty = false := by
    cases bs with
    | nil => exact absurd h (by decide)
    | cons b r => rfl
  simp only [State.ddrWriteLines, hne, Bool.false_eq_true, if_false, List.take_of_length_le (show bs.length ≤ 128 - ctxAt s n % 128 by omega),
    List.drop_of_length_le (show bs.length ≤ 128 - ctxAt s n % 128 by omega), List.isEmpty_nil, if_true]

theorem Beside.ddrWrite (a : Nat) (bs : List (BitVec 8)) (s : State) : Beside s (s.ddrWrite a bs none) := by
  unfold State.ddrWrite
  split
  · exact ⟨rfl, rfl, rfl⟩
  · split
    · exact .refl s
    · exact .ddrRequest _ _ _ _

theorem lineChan_lt (l : Nat) : lineChan l < 8 := by
  unfold lineChan
  exact Nat.xor_lt_two_pow (n := 3) (Nat.xor_lt_two_pow (n := 3) (by omega) (by omega)) (by omega)

/-- A write that no gate and no failed channel stops waits in its channel's queue. -/
theorem ddrWrite_queued {a : Nat} {bs : List (BitVec 8)} {s : State} (hg : s.chanGated (a / 128) = false)
    (hf : s.failedChan (lineChan (a / 128)) = false) (hlen : s.ddr.ch.length = 8) :
    ∃ r ∈ ((s.ddrWrite a bs none).chan (lineChan (a / 128))).queue, r.line = a / 128 ∧ r.kind = .write (a % 128) bs none := by
  have hreq : s.ddrWrite a bs none = s.ddrRequest (a / 128) (.write (a % 128) bs none) 2 := by
    simp only [State.ddrWrite, hg, hf, Bool.false_eq_true, if_false]
    rfl
  rw [hreq]
  obtain ⟨-, -, -, hchan, -⟩ := ddrChannelsComplete
  obtain ⟨hq, -⟩ := hchan (a / 128) 2 (.write (a % 128) bs none) s (lineChan_lt _) hlen
  rw [hq]
  exact ⟨_, List.mem_append_right _ List.mem_cons_self, rfl, rfl⟩

/-- What OFF does before the copy to the partner. -/
theorem ringOff_spec {n : Nat} {s : State} (hst : (s.dma.live n).state = 1 ∨ (s.dma.live n).state = 4) (hlen : s.ddr.ch.length = 8)
    (hwf : swf (fun _ => RingLive.reset) s.dma.rings = true) {t : State} (ht : ringOff n s = t) :
    t.dma.live n = { s.dma.live n with state := 0, cause := 0 } ∧ t.dma.ctx n = none ∧ (∀ j, j ≠ n → t.dma.ctx j = s.dma.ctx j)
      ∧ t.ddr.bytes = s.ddr.bytes ∧ t.tiles = s.tiles
      ∧ (∀ c, s.dma.ctx n = some c → s.chanGated (ctxAt s n / 128) = false → s.failedChan (lineChan (ctxAt s n / 128)) = false →
          ∃ r ∈ (t.chan (lineChan (ctxAt s n / 128))).queue, r.line = ctxAt s n / 128
            ∧ r.kind = .write (ctxAt s n % 128) (unpackBytes 64 (setFld (setFld c 288 3 0) 291 2 0).toNat) none) := by
  have hlive : (s.updLive n fun r => { r with state := 0, cause := 0 }).dma.live n = { s.dma.live n with state := 0, cause := 0 } :=
    sget_sset_same (d := fun _ => RingLive.reset) _ _ _ hwf
  unfold ringOff at ht
  dsimp only at ht
  rw [if_neg (by rcases hst with h | h <;> rw [h] <;> decide)] at ht
  cases hctx : s.dma.ctx n with
  | none =>
    rw [hctx] at ht
    subst ht
    exact ⟨hlive, congrArg (Option.map RingCtx.raw) (find?_filter_ring_same n _),
      fun j hj => congrArg (Option.map RingCtx.raw) (find?_filter_ring_ne hj _), rfl, rfl, fun c hc => by cases hc⟩
  | some c =>
    rw [hctx] at ht
    dsimp only at ht
    have hback : writeBack (s.updLive n fun r => { r with state := 0, cause := 0 }) ⟨n, c⟩
        = (s.updLive n fun r => { r with state := 0, cause := 0 }).ddrWrite (ctxAt s n)
            (unpackBytes 64 (setFld (setFld c 288 3 0) 291 2 0).toNat) none := by
      refine (ddrWriteLines_ctx n (unpackBytes_length _ _)).trans ?_
      unfold ctxOut
      dsimp only
      rw [hlive]
      rfl
    rw [hback] at ht
    have hq := fun hg hf => ddrWrite_queued (a := ctxAt s n) (bs := unpackBytes 64 (setFld (setFld c 288 3 0) 291 2 0).toNat)
      (s := s.updLive n fun r => { r with state := 0, cause := 0 }) hg hf hlen
    obtain ⟨hd, hb, htl⟩ := Beside.ddrWrite (ctxAt s n) (unpackBytes 64 (setFld (setFld c 288 3 0) 291 2 0).toNat)
      (s.updLive n fun r => { r with state := 0, cause := 0 })
    generalize (s.updLive n fun r => { r with state := 0, cause := 0 }).ddrWrite (ctxAt s n)
      (unpackBytes 64 (setFld (setFld c 288 3 0) 291 2 0).toNat) none = w at hd hb htl hq ht
    subst ht
    refine ⟨(congrArg (Dma.live · n) hd).trans hlive, congrArg (Option.map RingCtx.raw) (find?_filter_ring_same n _),
      fun j hj => (congrArg (Option.map RingCtx.raw) (find?_filter_ring_ne hj _)).trans (congrArg (fun d : Dma => d.ctx j) hd :), hb, htl,
      fun c' hc hg hf => ?_⟩
    cases hc
    exact hq hg hf

theorem off_spec {n : Nat} {s : State} (hw : opWaits s n = false) (hst : (s.dma.live n).state = 1 ∨ (s.dma.live n).state = 4)
    (hlen : s.ddr.ch.length = 8) (hwf : swf (fun _ => RingLive.reset) s.dma.rings = true) {t : State} (ht : offCopied n s = t) :
    t.dma.live n = { s.dma.live n with state := 0, cause := 0 } ∧ t.dma.ctx n = none ∧ (∀ j, j ≠ n → t.dma.ctx j = s.dma.ctx j)
      ∧ t.ddr.bytes = s.ddr.bytes ∧ t.tiles = s.tiles
      ∧ (∀ c, s.dma.ctx n = some c → s.chanGated (ctxAt s n / 128) = false → s.failedChan (lineChan (ctxAt s n / 128)) = false →
          ∃ r ∈ (t.chan (lineChan (ctxAt s n / 128))).queue, r.line = ctxAt s n / 128
            ∧ r.kind = .write (ctxAt s n % 128) (unpackBytes 64 (setFld (setFld c 288 3 0) 291 2 0).toNat) none) := by
  have hrun : ringOp (.off n) none s = ringOff n s := ringOp_onChip (op := .off n) none hw rfl
  obtain ⟨h1, h2, h3, h4, h5, h6⟩ := ringOff_spec hst hlen hwf hrun.symm
  unfold offCopied at ht
  dsimp only at ht
  rw [if_pos (by rcases hst with h | h <;> rw [h] <;> decide)] at ht
  generalize ringOp (.off n) none s = w at h1 h2 h3 h4 h5 h6 ht
  obtain ⟨hd, hb, htl⟩ := Beside.copyRing n w
  subst ht
  refine ⟨(congrArg (Dma.live · n) hd).trans h1, (congrArg (Dma.ctx · n) hd).trans h2,
    fun j hj => (congrArg (Dma.ctx · j) hd).trans (h3 j hj), hb.trans h4, htl.trans h5, fun c hc hg hf => ?_⟩
  obtain ⟨r, hr, hrl⟩ := h6 c hc hg hf
  exact ⟨r, QueueKept.copyRing _ n w r hr, hrl⟩

theorem came_cases (who : Who) (s : State) : Claims.came who s = s ∨ Claims.came who s = s.linkUse := by
  cases who with
  | host => exact .inr rfl
  | quoin => exact .inl rfl
  | tile n => exact .inl rfl

/-- Settles O33: each command is one operation on the ring's context, which runs at once, or waits for the context or for its turn. -/
theorem ringCommandsComplete : Obligations.RingCommandsComplete := by
  refine ⟨fun who n err s hn h hf hst hat hok hgood hroom => ?_, fun who n err s hn h hf hst hat hok hgood hfull hpin => ?_,
    fun who n err s hn h hf hst hg => ⟨fun hw hfast => ?_, fun hw => ?_⟩, fun who n s hn h hf hw hst => ?_, fun who n s hn h hf hw hst => ?_,
    fun who n err s hn h hf hst hctx hat hgood hroom => ?_, fun who n err s c hn h hf hw hst hctx => ?_,
    fun who n s hn h hf hw hst hlen hwf => ?_, fun who n s h hf => ?_⟩
  · refine ⟨_, regWrite_next h _ rfl, ?_⟩
    rcases came_cases who s with hc | hc <;> rw [hc]
    · exact init_room (c := Claims.image s n) (s := s) hst rfl hat hok hgood hroom (dmaRingCmd_init (s := s) hn hf).symm
    · exact init_room (c := Claims.image s n) (s := s.linkUse) hst rfl hat hok hgood hroom (dmaRingCmd_init (s := s.linkUse) hn hf).symm
  · refine ⟨_, regWrite_next h _ rfl, ?_⟩
    rcases came_cases who s with hc | hc <;> rw [hc]
    · exact init_full (c := Claims.image s n) (s := s) hst rfl hat hok hgood hfull hpin (dmaRingCmd_init (s := s) hn hf).symm
    · exact init_full (c := Claims.image s n) (s := s.linkUse) hst rfl hat hok hgood hfull hpin (dmaRingCmd_init (s := s.linkUse) hn hf).symm
  · refine regWrite_next h _ ?_
    rcases came_cases who s with hc | hc <;> rw [hc]
    · exact (dmaRingCmd_init (s := s) hn hf).trans (ringOp_asks (op := .init n) _ hw (readsImage_init (s := s) hst) hg hfast)
    · exact (dmaRingCmd_init (s := s.linkUse) hn hf).trans (ringOp_asks (op := .init n) _ hw (readsImage_init (s := s.linkUse) hst) hg hfast)
  · refine regWrite_next h _ ?_
    rcases came_cases who s with hc | hc <;> rw [hc]
    · exact (dmaRingCmd_init (s := s) hn hf).trans (ringOp_waits (op := .init n) _ hw)
    · exact (dmaRingCmd_init (s := s.linkUse) hn hf).trans (ringOp_waits (op := .init n) _ hw)
  · refine ⟨_, regWrite_next h _ rfl, ?_⟩
    rcases came_cases who s with hc | hc <;> rw [hc]
    · exact stop_idle (s := s) hw hst (dmaRingCmd_stop (s := s) hn hf).symm
    · exact stop_idle (s := s.linkUse) hw hst (dmaRingCmd_stop (s := s.linkUse) hn hf).symm
  · refine ⟨_, regWrite_next h _ rfl, ?_⟩
    rcases came_cases who s with hc | hc <;> rw [hc]
    · exact stop_running (s := s) hw hst (dmaRingCmd_stop (s := s) hn hf).symm
    · exact stop_running (s := s.linkUse) hw hst (dmaRingCmd_stop (s := s.linkUse) hn hf).symm
  · refine ⟨_, regWrite_next h _ rfl, ?_⟩
    rcases came_cases who s with hc | hc <;> rw [hc]
    · exact resume_read (c := Claims.image s n) (s := s) hst hctx rfl hat hgood hroom (dmaRingCmd_resume (s := s) hn hf).symm
    · exact resume_read (c := Claims.image s n) (s := s.linkUse) hst hctx rfl hat hgood hroom (dmaRingCmd_resume (s := s.linkUse) hn hf).symm
  · refine ⟨_, regWrite_next h _ rfl, ?_⟩
    rcases came_cases who s with hc | hc <;> rw [hc]
    · exact resume_onChip (s := s) hw hst hctx (dmaRingCmd_resume (s := s) hn hf).symm
    · exact resume_onChip (s := s.linkUse) hw hst hctx (dmaRingCmd_resume (s := s.linkUse) hn hf).symm
  · refine ⟨_, regWrite_next h _ rfl, ?_⟩
    rcases came_cases who s with hc | hc <;> rw [hc]
    · exact off_spec (s := s) hw hst hlen hwf (dmaRingCmd_off (s := s) hn hf).symm
    · exact off_spec (s := s.linkUse) hw hst hlen hwf (dmaRingCmd_off (s := s.linkUse) hn hf).symm
  · refine regWrite_next h _ ?_
    rcases came_cases who s with hc | hc <;> rw [hc]
    · exact dmaRingCmd_flush (s := s) hf
    · exact dmaRingCmd_flush (s := s.linkUse) hf

end Sys2Proof.Machine
end

section
/-! Doorbells of the host and of the tiles, and the FIFOs of the DMA engine (R372 to R374, R377, R378, R402). -/

namespace Sys2Proof.Machine

theorem ctxPeek_of_some {s : State} {n : Nat} {c : BitVec 512} (h : s.dma.ctx n = some c) : ctxPeek s n = c := by
  rw [ctxPeek, h]
  rfl

theorem getLsbD_setLimit (c : BitVec 512) (v k : Nat) {i : Nat} (hi : i < 32) (hk : k + 32 ≤ 512) :
    ((setFld c 160 32 v).extractLsb' k 32).getLsbD i = if 160 ≤ k + i ∧ k + i < 192 then v.testBit (k + i - 160) else c.getLsbD (k + i) := by
  rw [BitVec.getLsbD_extractLsb', decide_eq_true hi, Bool.true_and, getLsbD_setFld, decide_eq_true (show k + i < 512 by omega), Bool.true_and]

/-- A doorbell's LIMIT leaves EXP_HSEQ. -/
theorem cExp_setLimit (c : BitVec 512) (v : Nat) : cExp (setFld c 160 32 v) = c.extractLsb' 128 32 := by
  refine BitVec.eq_of_getLsbD_eq fun i hi => ?_
  rw [cExp, getLsbD_setLimit c v 128 hi (by decide), if_neg (by omega), BitVec.getLsbD_extractLsb', decide_eq_true hi, Bool.true_and]

theorem cLimit_setLimit (c : BitVec 512) (v : BitVec 32) : cLimit (setFld c 160 32 v.toNat) = v := by
  refine BitVec.eq_of_getLsbD_eq fun i hi => ?_
  rw [cLimit, getLsbD_setLimit c v.toNat 160 hi (by decide), if_pos (by omega), Nat.add_sub_cancel_left]
  rfl

theorem consumable_setLimit (c : BitVec 512) (v : BitVec 32) :
    consumable (setFld c 160 32 v.toNat) = decide ((v - c.extractLsb' 128 32).toNat < 2 ^ 31) := by
  rw [consumable, cExp_setLimit, cLimit_setLimit]

/-- The LIMIT that a doorbell gives. -/
def bellLimit (v : BitVec 32) (add : Bool) (c : BitVec 512) : BitVec 32 := if add then c.extractLsb' 160 32 + v else v

/-- A doorbell of a ring whose context is on chip. -/
theorem ringBell_onChip {n : Nat} {v : BitVec 32} {add : Bool} {c c0 : BitVec 512} {s : State} (hctx : s.dma.ctx n = some c0) {lim : BitVec 32}
    (hlim : lim = bellLimit v add c) {t : State} (ht : ringBell n v add c s = t) :
    t.dma.ctx n = some (setFld c 160 32 lim.toNat)
      ∧ t.dma.live n = (if (s.dma.live n).state = 1 ∧ (lim - c.extractLsb' 128 32).toNat < 2 ^ 31 then { s.dma.live n with state := 2 }
          else s.dma.live n)
      ∧ (∀ j, j ≠ n → t.dma.live j = s.dma.live j ∧ t.dma.ctx j = s.dma.ctx j) ∧ t.ddr = s.ddr ∧ t.tiles = s.tiles := by
  have hkeep : ∀ c1, keepCtx n c1 s = some (notWaiting n { s with dma := s.dma.putCtx n c1 }) := fun c1 =>
    if_pos (by rw [hctx]; rfl)
  have hl : (if add then cLimit c + v else v) = lim := hlim.symm
  subst ht
  unfold ringBell
  dsimp only
  rw [hl, hkeep, hctx, Option.isNone_some, Bool.and_false, if_neg Bool.false_ne_true, consumable_setLimit]
  dsimp only
  by_cases h : (s.dma.live n).state = 1 ∧ (lim - c.extractLsb' 128 32).toNat < 2 ^ 31
  · rw [if_pos h, if_pos (by rw [decide_eq_true h.1, decide_eq_true h.2]; rfl)]
    exact ⟨s.dma.ctx_putCtx_same n _, sget_sset_of_ne (d := fun _ => RingLive.reset)
        (RingLive.ne_reset (r := { s.dma.live n with state := 2 }) (show (2 : BitVec 3) ≠ 0 by decide)) _,
      fun j hj => ⟨sget_sset_ne _ _ hj _, s.dma.ctx_putCtx_ne _ hj⟩, rfl, rfl⟩
  · rw [if_neg h, if_neg (by simpa only [Bool.and_eq_true, decide_eq_true_eq] using h)]
    exact ⟨s.dma.ctx_putCtx_same n _, rfl, fun j hj => ⟨rfl, s.dma.ctx_putCtx_ne _ hj⟩, rfl, rfl⟩

/-- Nothing that waits for ring `n` waits for this doorbell of it. -/
theorem bell_not_waiting {op : CtxOp} {s : State} (h : opWaits s op.ring = false) :
    (s.dma.after.contains op || s.ddr.ch.any fun c => c.queue.any fun q => q.kind == .ctx op) = false := by
  rw [opWaits, Bool.or_eq_false_iff] at h
  obtain ⟨hi, ha⟩ := h
  rw [Bool.or_eq_false_iff]
  refine ⟨?_, List.any_eq_false.mpr fun c hc hq => ?_⟩
  · rw [← Bool.not_eq_true, List.contains_iff_mem]
    intro hm
    exact absurd (decide_eq_true rfl) (List.any_eq_false.mp ha op hm)
  · obtain ⟨q, hq, hk⟩ := List.any_eq_true.mp hq
    refine absurd (List.any_eq_true.mpr ⟨c, hc, List.any_eq_true.mpr ⟨q, hq, ?_⟩⟩) (ne_true_of_eq_false hi)
    rw [eq_of_beq hk]
    exact decide_eq_true rfl

/-- The doorbell of a list entry that is well formed. -/
theorem execDoorbell_runs {t n : Nat} {u : Bool} {err : BeatErr} {s : State} {r : StepRun} {e : BitVec 512}
    (ho : ownEntry s t u 9 = some (r, e)) (hn : fld e 32 15 = n) (hbits : strayBits e [(0, 8), (32, 15), (64, 32)] = false)
    (hg : s.gated .dma = false) (hw : opWaits s n = false) :
    exec (.doorbell ⟨t, u⟩ err) s = .next (ringOp (.tileBell n t u r.start r.runs) (some err) s) := by
  change execDoorbell ⟨t, u⟩ err s = _
  simp only [execDoorbell, ho, hn, hbits, hg, bell_not_waiting (op := .tileBell n t u r.start r.runs) hw, Bool.false_eq_true, if_false]

theorem tileBell_own {t n : Nat} {u : Bool} {s : State} {r : StepRun} {e c : BitVec 512} (ho : ownEntry s t u 9 = some (r, e))
    (hen : c.getLsbD 86 = true) (htile : cTile c = t) :
    tileBell n t u r.start r.runs c s
      = ((ringBell n (e.extractLsb' 64 32) true c s).updRun t u fun r => { r with sent := true }).updRun t u
          fun r => { r with listAt := r.listAt + 64 } := by
  have hentry : bellEntry s t u r.start r.runs = some (r, e) := by
    simp only [bellEntry, ho, decide_true, Bool.and_self, if_true]
  have hown : (!cTileEn c || decide (cTile c ≠ t)) = false := by
    rw [cTileEn, bit, hen, decide_eq_false (not_not.mpr htile)]
    rfl
  simp only [tileBell, hentry, hown, Bool.false_eq_true, if_false]
  rfl

/-! A row that is opened changes nothing that a list entry is read from. -/

theorem icWordRead_ddrOpen (s : State) (l t o : Nat) : icWordRead (s.ddrOpen l) t o = icWordRead s t o := by
  unfold icWordRead
  rfl

theorem readLram_ddrOpen (s : State) (l t : Nat) (ws : List Nat) : readLram (s.ddrOpen l) t ws = readLram s t ws := by
  unfold readLram
  simp only [icWordRead_ddrOpen]
  rfl

theorem listEntry_ddrOpen (s : State) (l t a : Nat) : listEntry (s.ddrOpen l) t a = listEntry s t a := by
  unfold listEntry
  rw [readLram_ddrOpen]

theorem ownEntry_ddrOpen (s : State) (l t : Nat) (u : Bool) (k : Nat) : ownEntry (s.ddrOpen l) t u k = ownEntry s t u k := by
  unfold ownEntry outerEntry nextEntry
  simp only [listEntry_ddrOpen]
  rfl

theorem ddrErr_none (l : Nat) (s : State) : ddrErr l .none s = s := if_pos rfl

/-- Settles O34. -/
theorem doorbellsAndFifosComplete : Obligations.DoorbellsAndFifosComplete := by
  refine ⟨fun n v hi err s c hn hopen hlife hf hg hsb hen hctx hw => ?_, fun t u err s r e c ho hbits hg hw hctx hen htile => ?_,
    fun t n u s r e ho hn hbits hg hctx => ⟨fun hat hen htile => ?_, fun hw hgate hfast => ?_⟩,
    fun t u s r e k n ho hk hn hbits hg h1 h2 hrange hlevel => ?_, fun who k v s hk h => ?_, fun who k v s hk h hlevel => ?_⟩
  · obtain ⟨-, hwidth⟩ := (barOpen_iff s).mp hopen
    obtain ⟨add, hadd, hexec⟩ : ∃ add, (add = true ↔ (hi.map fun h => h.getLsbD 0) = some true)
        ∧ exec (.doorbellWrite ⟨n, err⟩ (some v) hi false) s = .next (ringOp (.bell n v add) (some err) s.linkUse) := by
      change ∃ add, _ ∧ execDoorbellWrite ⟨n, err⟩ (some v) hi false s = _
      simp only [execDoorbellWrite, ge_iff_le, Nat.not_le_of_lt (show n < 32768 from hn), hwidth, decide_false, hopen, Life.running_of hlife,
        hf, hg, hsb, Bool.not_true, Bool.or_self, Bool.false_eq_true, if_false]
      cases hi with
      | none => exact ⟨false, by simp, rfl⟩
      | some h => exact ⟨bit h 0, by simp [bit], rfl⟩
    have hr : readsImage s.linkUse (.bell n v add) = false := (congrArg Option.isNone hctx).trans rfl
    have hrun : ringOp (.bell n v add) (some err) s.linkUse = ringBell n v add c s.linkUse := by
      rw [ringOp_onChip (op := .bell n v add) (s := s.linkUse) (some err) hw hr, show ctxPeek s.linkUse (CtxOp.bell n v add).ring = c from ctxPeek_of_some hctx]
      exact if_neg (by rw [cTileEn, bit, hen]; exact Bool.false_ne_true)
    have hlim : (if (hi.map fun h => h.getLsbD 0) = some true then c.extractLsb' 160 32 + v else v) = bellLimit v add c :=
      if_congr hadd.symm rfl rfl
    exact ⟨_, _, hexec, rfl, ringBell_onChip (s := s.linkUse) hctx hlim hrun.symm⟩
  · have hn : fld e 32 15 = e.toNat / 2 ^ 32 % 2 ^ 15 := fld_eq _ _ _
    generalize e.toNat / 2 ^ 32 % 2 ^ 15 = n at *
    have hr : readsImage s (.tileBell n t u r.start r.runs) = false := (congrArg Option.isNone hctx).trans rfl
    rw [execDoorbell_runs ho hn hbits hg hw, ringOp_onChip (op := .tileBell n t u r.start r.runs) _ hw hr,
      show ctxPeek s (CtxOp.tileBell n t u r.start r.runs).ring = c from ctxPeek_of_some hctx]
    exact congrArg Host.Outcome.next (tileBell_own ho hen htile)
  · have hr : readsImage s (.tileBell n t u r.start r.runs) = true := (congrArg Option.isNone hctx).trans rfl
    have hfirst := execDoorbell_runs (err := .none) ho ((fld_eq _ _ _).trans hn.symm) hbits hg hat.1
    rw [ringOp_atOnce (op := .tileBell n t u r.start r.runs) hat hr rfl, ddrErr_none] at hfirst
    exact hfirst.trans (congrArg Host.Outcome.next (tileBell_own ((ownEntry_ddrOpen s _ t u 9).trans ho) hen htile))
  · have hr : readsImage s (.tileBell n t u r.start r.runs) = true := (congrArg Option.isNone hctx).trans rfl
    rw [execDoorbell_runs ho ((fld_eq _ _ _).trans hn.symm) hbits hg hw]
    exact congrArg Host.Outcome.next (ringOp_asks (op := .tileBell n t u r.start r.runs) _ hw hr hgate hfast)
  · have hk' : fld e 32 8 = k := (fld_eq _ _ _).trans hk.symm
    have hn' : fld e 64 16 = n := (fld_eq _ _ _).trans hn.symm
    have hin : (!(decide (k / 8 = t) || decide (128 ≤ k) && decide (k ≤ 135))) = false := by
      simpa only [Bool.not_eq_false', Bool.or_eq_true, Bool.and_eq_true, decide_eq_true_eq] using hrange
    change execTake t u s = _
    simp only [execTake, ho, hk', hn', hbits, hin, gt_iff_lt, Nat.not_lt.mpr h2, DmaFifo.level, Nat.not_lt.mpr hlevel,
      show n ≠ 0 by omega, hg, decide_false, Bool.or_self, Bool.false_eq_true, if_false]
    rfl
  · refine regWrite_next_of hk h _ ?_
    cases who <;> rfl
  · refine regWrite_next_of hk h _ ?_
    have hv : fld v 0 16 = v.toNat % 2 ^ 16 := by rw [fld_eq, Nat.pow_zero, Nat.div_one]
    have hle : ¬ fld v 0 16 > (s.dma.fifoOf k).level := Nat.not_lt.mpr (by rw [hv]; exact hlevel)
    rw [← hv]
    cases who <;> exact if_neg hle

end Sys2Proof.Machine
end

section
/-! The Cucon chain: frames, addressing, and what is received and sent (R460 to R470). -/

namespace Sys2Proof.Machine

/-! ### The fields of a frame -/

/-- A field above the CRC does not see it. -/
theorem fld_setCrc (f : BitVec 64) (c : Nat) {lo w : Nat} (h : 8 ≤ lo) (hw : lo + w ≤ 64) : fld (setFld f 0 8 c) lo w = fld f lo w := by
  refine Nat.eq_of_testBit_eq fun i => ?_
  rw [testBit_fld, testBit_fld, getLsbD_setFld]
  by_cases hi : i < w
  · rw [if_neg (by omega), decide_eq_true (show lo + i < 64 by omega), Bool.true_and]
  · rw [decide_eq_false hi, Bool.false_and, Bool.false_and]

section
variable (type src dst sub hop pay : Nat) (bcast : Bool)

/-- The word of a frame before its CRC. -/
theorem fld_mkFrame {lo w : Nat} (h : 8 ≤ lo) (hw : lo + w ≤ 64) :
    fld (mkFrame type src dst bcast sub hop pay) lo w
      = (2 ^ 8 * (pay % 2 ^ 32) + 2 ^ 44 * (hop % 16) + 2 ^ 48 * (sub % 8) + 2 ^ 51 * b2n bcast + 2 ^ 52 * (dst % 16) + 2 ^ 56 * (src % 16)
          + 2 ^ 60 * (type % 16)) / 2 ^ lo % 2 ^ w := by
  have hb : b2n bcast ≤ 1 := by cases bcast <;> decide
  rw [mkFrame, fld_setCrc _ _ h hw, fld_eq, BitVec.toNat_ofNat]
  congr 2
  exact Nat.mod_eq_of_lt (by omega)

theorem fType_mkFrame : fType (mkFrame type src dst bcast sub hop pay) = type % 16 := by
  have hb : b2n bcast ≤ 1 := by cases bcast <;> decide
  rw [fType, fld_mkFrame _ _ _ _ _ _ _ (by decide) (by decide)]
  omega

theorem fSrc_mkFrame : fSrc (mkFrame type src dst bcast sub hop pay) = src % 16 := by
  have hb : b2n bcast ≤ 1 := by cases bcast <;> decide
  rw [fSrc, fld_mkFrame _ _ _ _ _ _ _ (by decide) (by decide)]
  omega

theorem fDst_mkFrame : fDst (mkFrame type src dst bcast sub hop pay) = dst % 16 := by
  have hb : b2n bcast ≤ 1 := by cases bcast <;> decide
  rw [fDst, fld_mkFrame _ _ _ _ _ _ _ (by decide) (by decide)]
  omega

theorem fSub_mkFrame : fSub (mkFrame type src dst bcast sub hop pay) = sub % 8 := by
  rw [fSub, fld_mkFrame _ _ _ _ _ _ _ (by decide) (by decide)]
  omega

theorem fHop_mkFrame : fHop (mkFrame type src dst bcast sub hop pay) = hop % 16 := by
  rw [fHop, fld_mkFrame _ _ _ _ _ _ _ (by decide) (by decide)]
  omega

theorem fPay_mkFrame : fPay (mkFrame type src dst bcast sub hop pay) = pay % 2 ^ 32 := by
  rw [fPay, fld_mkFrame _ _ _ _ _ _ _ (by decide) (by decide)]
  omega

theorem fBcast_mkFrame : fBcast (mkFrame type src dst bcast sub hop pay) = bcast := by
  have hbit : ∀ f : BitVec 64, fBcast f = decide (fld f 51 1 = 1) := fun f => by
    have := testBit_fld f 51 1 0
    have hlt : fld f 51 1 < 2 := Nat.mod_lt _ (by decide)
    rw [fBcast, bit, show f.getLsbD 51 = (fld f 51 1).testBit 0 by rw [this]; rfl, Nat.testBit_zero]
    congr 1
    rw [Nat.mod_eq_of_lt hlt]
  have hb : b2n bcast ≤ 1 := by cases bcast <;> decide
  have hfld : fld (mkFrame type src dst bcast sub hop pay) 51 1 = b2n bcast := by
    rw [fld_mkFrame _ _ _ _ _ _ _ (by decide) (by decide)]
    omega
  rw [hbit, hfld]
  cases bcast <;> rfl

end

/-- A frame that is not a SLOT goes behind the others. -/
theorem chainPush_behind {f : BitVec 64} (h : fType f ≠ 3) (s : State) :
    chainPush f s = s.updChain fun c => { c with txq := c.txq ++ [f] } := by
  simp only [chainPush, h, if_false]

theorem chainPush_slot {f : BitVec 64} (h : fType f = 3) (s : State) :
    chainPush f s = s.updChain fun c =>
      { c with txq := c.txq.takeWhile (fun g => fType g = 3) ++ f :: c.txq.dropWhile (fun g => fType g = 3) } := by
  simp only [chainPush, h, if_true]

theorem chainForward_drop {f : BitVec 64} (h : fHop f = 15) (s : State) : chainForward f s = chainDrop s := if_pos h

theorem chainForward_behind {f : BitVec 64} (h : fHop f ≠ 15) (ht : fType f ≠ 3) (s : State) :
    chainForward f s = s.updChain fun c =>
      { c with txq := c.txq ++ [mkFrame (fType f) (fSrc f) (fDst f) (fBcast f) (fSub f) (fHop f + 1) (fPay f)] } := by
  have ht' : fType (mkFrame (fType f) (fSrc f) (fDst f) (fBcast f) (fSub f) (fHop f + 1) (fPay f)) ≠ 3 := by
    rw [fType_mkFrame]
    have : fType f < 16 := Nat.mod_lt _ (by decide)
    omega
  simp only [chainForward, h, ht, if_false, chainPush_behind ht']

/-- A frame that has been built anew goes on with its fields, and HOP one more. -/
theorem chainForward_mkFrame {type src dst sub hop pay : Nat} (bcast : Bool) (s : State) (ht : type < 16) (h3 : type ≠ 3) (hs : src < 16)
    (hd : dst < 16) (hu : sub < 8) (hh : hop < 16) (hp : pay < 2 ^ 32) :
    chainForward (mkFrame type src dst bcast sub hop pay) s = if hop = 15 then chainDrop s else
      s.updChain fun c => { c with txq := c.txq ++ [mkFrame type src dst bcast sub (hop + 1) pay] } := by
  have hhop : fHop (mkFrame type src dst bcast sub hop pay) = hop := (fHop_mkFrame ..).trans (Nat.mod_eq_of_lt hh)
  have htype : fType (mkFrame type src dst bcast sub hop pay) = type := (fType_mkFrame ..).trans (Nat.mod_eq_of_lt ht)
  split
  next h => exact chainForward_drop (hhop.trans h) s
  next h =>
    rw [chainForward_behind (by rwa [hhop]) (by rwa [htype]), hhop, htype, fSrc_mkFrame, fDst_mkFrame, fBcast_mkFrame, fSub_mkFrame, fPay_mkFrame,
      Nat.mod_eq_of_lt hs, Nat.mod_eq_of_lt hd, Nat.mod_eq_of_lt hu, Nat.mod_eq_of_lt hp]

theorem fSrc_lt (f : BitVec 64) : fSrc f < 16 := Nat.mod_lt _ (by decide)

theorem fDst_lt (f : BitVec 64) : fDst f < 16 := Nat.mod_lt _ (by decide)

theorem fSub_lt (f : BitVec 64) : fSub f < 8 := Nat.mod_lt _ (by decide)

theorem fHop_lt (f : BitVec 64) : fHop f < 16 := Nat.mod_lt _ (by decide)

theorem chainGood_iff {k : Nat} {f : BitVec 64} {s : State} :
    chainGood k f s = true ↔ chainOn s = true ∧ fType f = k ∧ fOk f = true := by
  simp only [chainGood, Bool.and_eq_true, decide_eq_true_eq, and_assoc]

/-! ### Addressing -/

/-- Item 6 may end on the console; nothing else changes. -/
theorem addressed_kept (s : State) : (addressed s).chain = s.chain ∧ (addressed s).bond = s.bond ∧ (addressed s).tiles = s.tiles
    ∧ (addressed s).te = s.te := by
  unfold addressed
  split <;> exact ⟨rfl, rfl, rfl, rfl⟩

theorem partnerFound_paired {strap : Bool} {s : State} (h : s.bond.paired = true) : partnerFound strap s = s := if_pos h

theorem firstRole_kept (strap : Bool) (s : State) : (firstRole strap s).chain = s.chain ∧ (firstRole strap s).tiles = s.tiles
    ∧ (firstRole strap s).te = s.te ∧ (firstRole strap s).bond.roleSet = true := by
  unfold firstRole
  split
  next h => exact ⟨rfl, rfl, rfl, h⟩
  next => exact ⟨rfl, rfl, rfl, rfl⟩

theorem firstRole_new {strap : Bool} {s : State} (h : s.bond.roleSet = false) :
    (firstRole strap s).bond.active
        = (if s.sec.straps.getLsbD 2 = strap then decide (s.chain.addr.toNat % 2 = 0) else s.sec.straps.getLsbD 2)
      ∧ (firstRole strap s).bond.roleConflict = (s.bond.roleConflict || decide (s.sec.straps.getLsbD 2 = strap)) := by
  unfold firstRole
  rw [if_neg (by rw [h]; exact Bool.false_ne_true)]
  refine ⟨?_, ?_⟩
  · exact if_congr (by rw [beq_iff_eq]; rfl) rfl rfl
  · exact congrArg (s.bond.roleConflict || ·) (Bool.beq_eq_decide_eq _ _)

theorem partnerFound_new {strap : Bool} {s : State} (h : s.bond.paired = false) :
    (partnerFound strap s).bond.paired = true ∧ (partnerFound strap s).bond.wbAt = s.te.time / 10000 + 1
      ∧ (partnerFound strap s).bond.wbEnd = s.te.time / 10000 + 1 ∧ (partnerFound strap s).bond.roleSet = true
      ∧ (s.bond.roleSet = false → (partnerFound strap s).bond.active
            = (if s.sec.straps.getLsbD 2 = strap then decide (s.chain.addr.toNat % 2 = 0) else s.sec.straps.getLsbD 2)
          ∧ (partnerFound strap s).bond.roleConflict = (s.bond.roleConflict || decide (s.sec.straps.getLsbD 2 = strap))) := by
  obtain ⟨-, -, -, hset⟩ := firstRole_kept strap s
  unfold partnerFound
  rw [if_neg (by rw [h]; exact Bool.false_ne_true)]
  exact ⟨rfl, rfl, rfl, hset, firstRole_new⟩

theorem partnerFound_kept (strap : Bool) (s : State) : (partnerFound strap s).chain = s.chain ∧ (partnerFound strap s).tiles = s.tiles
    ∧ (partnerFound strap s).te = s.te ∧ (partnerFound strap s).bond.paired = true := by
  obtain ⟨hc, ht, hte, -⟩ := firstRole_kept strap s
  unfold partnerFound
  split
  next h => exact ⟨rfl, rfl, rfl, h⟩
  next => exact ⟨hc, ht, hte, rfl⟩

/-- A device without an address takes the one offered. -/
theorem takeAddress_spec {p : Nat} (hp : p < 16) (mark : AssignMark) (s : State) :
    (takeAddress p mark s).chain = { s.chain with addr := BitVec.ofNat 4 p, assigned := true, slotSeen := s.te.time }
      ∧ (takeAddress p mark s).tiles = s.tiles ∧ (takeAddress p mark s).te = s.te
      ∧ (s.bond.paired = true ∨ (p % 2 = 0 ∧ mark.partner = false) → (takeAddress p mark s).bond = s.bond)
      ∧ (s.bond.paired = false → p % 2 = 1 ∨ mark.partner = true →
          (takeAddress p mark s).bond.paired = true ∧ (takeAddress p mark s).bond.wbAt = s.te.time / 10000 + 1
          ∧ (takeAddress p mark s).bond.wbEnd = s.te.time / 10000 + 1 ∧ (takeAddress p mark s).bond.roleSet = true
          ∧ (s.bond.roleSet = false →
              (takeAddress p mark s).bond.active = (if s.sec.straps.getLsbD 2 = mark.strap then decide (p % 2 = 0) else s.sec.straps.getLsbD 2)
              ∧ (takeAddress p mark s).bond.roleConflict = (s.bond.roleConflict || decide (s.sec.straps.getLsbD 2 = mark.strap)))) := by
  have haddr : (BitVec.ofNat 4 p).toNat = p := by rw [BitVec.toNat_ofNat, Nat.mod_eq_of_lt hp]
  unfold takeAddress
  dsimp only
  generalize hs1 : s.updChain (fun c => { c with addr := BitVec.ofNat 4 p, assigned := true, slotSeen := s.te.time }) = s1
  have hnew : s1.bond.paired = false → _ := partnerFound_new (strap := mark.strap)
  obtain ⟨hpc, hpt, hpte, -⟩ := partnerFound_kept mark.strap s1
  obtain ⟨hac, hab, hat, hate⟩ := addressed_kept s1
  obtain ⟨hqc, hqb, hqt, hqte⟩ := addressed_kept (partnerFound mark.strap s1)
  have hpaired : s1.bond.paired = true → (partnerFound mark.strap s1) = s1 := partnerFound_paired
  have hs : s1.chain = { s.chain with addr := BitVec.ofNat 4 p, assigned := true, slotSeen := s.te.time } ∧ s1.bond = s.bond
      ∧ s1.tiles = s.tiles ∧ s1.te = s.te ∧ s1.sec = s.sec := by
    subst hs1
    exact ⟨rfl, rfl, rfl, rfl, rfl⟩
  obtain ⟨hc, hb, ht, hte, hsec⟩ := hs
  by_cases hpart : p % 2 = 1 ∨ mark.partner = true
  · rw [if_pos (by simpa using hpart)]
    refine ⟨hqc.trans (hpc.trans hc), hqt.trans (hpt.trans ht), hqte.trans (hpte.trans hte), fun h => ?_, fun h _ => ?_⟩
    · rcases h with h | ⟨h0, h1⟩
      · rw [hqb, hpaired (by rw [hb]; exact h), hb]
      · rcases hpart with hpart | hpart
        · omega
        · exact absurd (h1.symm.trans hpart) Bool.false_ne_true
    · rw [hqb, ← hte, ← hsec, ← hb]
      obtain ⟨e1, e2, e3, e4, e5⟩ := hnew (by rw [hb]; exact h)
      refine ⟨e1, e2, e3, e4, fun hr => ?_⟩
      obtain ⟨e6, e7⟩ := e5 hr
      rw [hc, haddr] at e6
      exact ⟨e6, e7⟩
  · rw [if_neg (by simpa using hpart)]
    exact ⟨hac.trans hc, hat.trans ht, hate.trans hte, fun _ => hab.trans hb, fun _ h => absurd h hpart⟩

/-- What a device without an address does with an ASSIGN. -/
theorem assign_offered {f : BitVec 64} {mark : AssignMark} {s : State} (hg : chainGood 1 f s = true) (hboot : s.sec.bootFail = false)
    (hhead : s.chain.head = false) (hno : s.chain.assigned = false) (hp : fPay f < 16) :
    exec (.chainAssignRx f mark) s = .next (if fHop f = 15 then chainDrop (takeAddress (fPay f) mark s) else
      (takeAddress (fPay f) mark s).updChain fun c =>
        { c with txq := c.txq ++ [mkFrame 1 (fSrc f) (fDst f) (fBcast f) (fSub f) (fHop f + 1) (fPay f + 1)] }) := by
  change execChainAssignRx f mark s = _
  simp only [execChainAssignRx, hg, hboot, hhead, hno, ge_iff_le, Nat.not_le_of_lt hp, Bool.not_true, Bool.false_eq_true, if_false]
  rw [chainForward_mkFrame _ _ (by decide) (by decide) (fSrc_lt f) (fDst_lt f) (fSub_lt f) (fHop_lt f) (by omega)]

/-- What the head does with an ASSIGN of its own that comes back. -/
theorem assign_back {f : BitVec 64} {mark : AssignMark} {s : State} (hg : chainGood 1 f s = true) (hboot : s.sec.bootFail = false)
    (hhead : s.chain.head = true) (hmine : mark.mine = true) (hout : 0 < s.chain.assignOut) :
    exec (.chainAssignRx f mark) s = .next (assignBack (fPay f) mark.strap s) := by
  change execChainAssignRx f mark s = _
  simp only [execChainAssignRx, hg, hboot, hhead, hmine, gt_iff_lt, hout, decide_true, Bool.and_self, Bool.not_true, Bool.false_eq_true, if_false,
    if_true]

theorem assign_beyond {f : BitVec 64} {mark : AssignMark} {s : State} (hg : chainGood 1 f s = true) (hboot : s.sec.bootFail = false)
    (hhead : s.chain.head = false) (hno : s.chain.assigned = false) (hp : 16 ≤ fPay f) :
    exec (.chainAssignRx f mark) s = .next (chainPush (mkFrame 1 (fSrc f) (fDst f) (fBcast f) (fSub f) (min 15 (fHop f + 1)) 0xFFFFFFFF)
      (addressed { s with chain := { s.chain with oversize := true } })) := by
  change execChainAssignRx f mark s = _
  unfold execChainAssignRx
  rw [if_neg (by simp [hg]), if_neg (by simp [hboot]), if_neg (by simp [hhead]), if_neg (by simp [hno]), if_pos hp]
  rfl

/-- What the head does with an ASSIGN that is not its own and has come from address 0: there is a second head. -/
theorem assign_second {f : BitVec 64} {mark : AssignMark} {s : State} (hg : chainGood 1 f s = true) (hboot : s.sec.bootFail = false)
    (hhead : s.chain.head = true) (hother : mark.mine = false ∨ s.chain.assignOut = 0) (hsrc : fSrc f = 0) :
    exec (.chainAssignRx f mark) s = .next (if s.chain.size ≠ 0 then s.updChain fun c => { c with dupHead := true }
      else noAddress (s.updChain fun c => { c with dupHead := true })) := by
  have hnot : (mark.mine && decide (s.chain.assignOut > 0)) = false := by
    rcases hother with h | h
    · rw [h, Bool.false_and]
    · rw [h]
      exact Bool.and_false _
  change execChainAssignRx f mark s = _
  unfold execChainAssignRx
  rw [if_neg (by simp [hg]), if_neg (by simp [hboot]), if_pos hhead, if_neg (by simp [hnot]), if_neg (not_not.mpr hsrc)]

theorem noAddress_kept (s : State) : (noAddress s).chain = { s.chain with assigned := false } ∧ (noAddress s).bond.paired = false
    ∧ (noAddress s).bond.linkUp = false := by
  unfold noAddress
  obtain ⟨hc, hb, -, -⟩ := addressed_kept ((s.updChain fun c => { c with assigned := false }).updBond fun b =>
    { b with paired := false, linkUp := false })
  rw [hc, hb]
  exact ⟨rfl, rfl, rfl⟩

theorem headPaired_spec (n : Nat) (strap : Bool) (s : State) : (headPaired n strap s).chain = s.chain
    ∧ (headPaired n strap s).bond.paired = decide (1 < n) ∧ (n = 1 → (headPaired n strap s).bond.linkUp = false) := by
  obtain ⟨hc, -, -, hp⟩ := partnerFound_kept strap s
  unfold headPaired
  split
  next h => exact ⟨hc, hp.trans (decide_eq_true h).symm, fun h1 => absurd h (by omega)⟩
  next h => exact ⟨rfl, (decide_eq_false h).symm, fun _ => rfl⟩

/-- The head numbers the chain and begins a LOOP round. -/
theorem assignBack_spec {n : Nat} (strap : Bool) {s : State} (hhead : s.chain.head = true) (hsize : s.chain.size = 0)
    (hdup : s.chain.dupHead = false) (hover : s.chain.oversize = false) (h1 : 1 ≤ n) (h16 : n ≤ 16) :
    (assignBack n strap s).chain.size = BitVec.ofNat 5 n ∧ (assignBack n strap s).chain.assigned = true
      ∧ (assignBack n strap s).chain.broken = false ∧ (assignBack n strap s).chain.assignOut = s.chain.assignOut - 1
      ∧ (assignBack n strap s).chain.txq = s.chain.txq ++ [mkFrame 2 0 0 true 0 0 0]
      ∧ (assignBack n strap s).bond.paired = decide (1 < n) ∧ (n = 1 → (assignBack n strap s).bond.linkUp = false) := by
  have hn : BitVec.ofNat 5 n ≠ 0 := fun h => by
    have := congrArg BitVec.toNat h
    rw [BitVec.toNat_ofNat, Nat.mod_eq_of_lt (by omega)] at this
    exact absurd this (by simp; omega)
  unfold assignBack
  dsimp only
  rw [if_neg (by rw [hsize, hdup, hover]; decide), if_neg (by omega)]
  generalize hw : (s.updChain fun c => { c with assignOut := c.assignOut - 1, broken := false }).updChain (fun c =>
    { c with assigned := true, size := BitVec.ofNat 5 n, slotSent := s.te.time + 1, slotSeen := s.te.time }) = w
  obtain ⟨hpc, hpp, hpl⟩ := headPaired_spec n strap w
  obtain ⟨hac, hab, -, -⟩ := addressed_kept (headPaired n strap w)
  have hchain : (addressed (headPaired n strap w)).chain = w.chain := hac.trans hpc
  have hround : loopRound (addressed (headPaired n strap w)) = chainPush (mkFrame 2 0 0 true 0 0 0)
      { addressed (headPaired n strap w) with
        cal := { (addressed (headPaired n strap w)).cal with loopLast := (addressed (headPaired n strap w)).te.time } } := by
    refine if_pos ?_
    rw [hchain, ← hw]
    simp only [State.updChain, hhead, decide_eq_true hn, Bool.and_self]
  rw [hround, chainPush_behind (by rw [fType_mkFrame]; decide)]
  dsimp only [State.updChain]
  rw [hchain, hab, hpp]
  subst hw
  exact ⟨rfl, rfl, rfl, rfl, rfl, rfl, hpl⟩

/-- Settles O42. -/
theorem chainAddressingCompletes : Obligations.ChainAddressingCompletes := by
  refine ⟨fun f mark s hg hboot hhead hno hp => ?_, fun f mark s hg hboot hhead hno hp => ?_, fun f mark s hg hboot => ?_,
    fun f mark s hg hboot hhead hmine hout hsize hdup hover h1 h16 => ?_, fun f mark s hg hboot hhead hmine hout hsize hdup hover h16 => ?_,
    fun f mark s hg hboot hhead hother hsrc => ?_, fun s hl hhead hsize hover => ⟨fun hdup ht => ?_, fun ht => ?_⟩⟩
  · obtain ⟨hc, ht, hte, hkept, hnew⟩ := takeAddress_spec hp mark s
    refine ⟨_, assign_offered hg hboot hhead hno hp, ?_⟩
    split
    · dsimp only [chainDrop, State.updChain]
      rw [hc]
      exact ⟨rfl, rfl, rfl, rfl, rfl, ht, hte, hkept, hnew⟩
    · dsimp only [State.updChain]
      rw [hc]
      exact ⟨rfl, rfl, rfl, rfl, rfl, ht, hte, hkept, hnew⟩
  · exact (assign_beyond hg hboot hhead hno hp).trans (congrArg Host.Outcome.next (chainPush_behind (by rw [fType_mkFrame]; decide) _))
  · change execChainAssignRx f mark s = _
    simp only [execChainAssignRx, hg, hboot, Bool.not_true, Bool.false_eq_true, if_false, if_true]
  · exact ⟨_, assign_back hg hboot hhead hmine hout, assignBack_spec mark.strap hhead hsize hdup hover h1 h16⟩
  · refine ⟨_, assign_back hg hboot hhead hmine hout, ?_⟩
    unfold assignBack
    dsimp only
    rw [if_neg (by rw [hsize, hdup, hover]; decide), if_pos h16]
    obtain ⟨hc, hp, hl⟩ := noAddress_kept ((s.updChain fun c => { c with assignOut := c.assignOut - 1, broken := false }).updChain fun c =>
      { c with oversize := true })
    rw [hc, hp, hl]
    exact ⟨rfl, rfl, hsize, rfl, rfl⟩
  · rw [assign_second hg hboot hhead hother hsrc]
    by_cases hz : s.chain.size = 0
    · rw [if_neg (not_not.mpr hz), if_pos hz]
      rfl
    · rw [if_pos hz, if_neg hz]
      rfl
  · refine congrArg Host.Outcome.next ((if_pos ?_).trans (by
      rw [sendAssign, chainPush_behind (by rw [fType_mkFrame]; decide)]
      rfl))
    simp only [hl, hhead, hsize, hover, hdup, ge_iff_le, ht, decide_true, Bool.not_false, Bool.and_self]
  · refine congrArg Host.Outcome.next ((if_pos ?_).trans rfl)
    simp only [hl, hhead, hsize, hover, ge_iff_le, ht, decide_true, Bool.not_false, Bool.and_self]

end Sys2Proof.Machine
end

section
/-! Frames of the Cucon chain received and sent (R461, R462, R466 to R470). -/

namespace Sys2Proof.Machine

theorem chainHandle_own {f : BitVec 64} {own take : State → State} {s : State} (ha : s.chain.assigned = true)
    (h : fSrc f = s.chain.addr.toNat) : chainHandle f own take s = own s := by
  simp only [chainHandle, ha, h, decide_true, Bool.and_self, if_true]

theorem chainHandle_broadcast {f : BitVec 64} {own take : State → State} {s : State} (h : fSrc f ≠ s.chain.addr.toNat)
    (hb : fBcast f = true) : chainHandle f own take s = chainForward f (take s) := by
  simp only [chainHandle, h, hb, decide_false, Bool.and_false, Bool.not_true, Bool.false_and, Bool.false_eq_true, if_false, if_true]

theorem chainHandle_mine {f : BitVec 64} {own take : State → State} {s : State} (ha : s.chain.assigned = true)
    (h : fSrc f ≠ s.chain.addr.toNat) (hb : fBcast f = false) (hd : fDst f = s.chain.addr.toNat) : chainHandle f own take s = take s := by
  simp only [chainHandle, ha, hb, hd, decide_eq_false h, decide_true, Bool.and_false, Bool.not_false, Bool.and_self, Bool.false_eq_true,
    if_false, if_true]

theorem chainHandle_other {f : BitVec 64} {own take : State → State} {s : State} (h : fSrc f ≠ s.chain.addr.toNat) (hb : fBcast f = false)
    (hd : fDst f ≠ s.chain.addr.toNat) : chainHandle f own take s = chainForward f s := by
  simp only [chainHandle, hb, decide_eq_false h, decide_eq_false hd, Bool.and_false, Bool.false_eq_true, if_false]

/-- A measurement of TIME leaves the chain. -/
theorem timeMeasure_chain (e : Int) (s : State) : (timeMeasure e s).chain = s.chain := by
  rw [timeMeasure_eq]
  split
  · rfl
  · split
    · split <;> rfl
    · rfl

theorem slotTake_spec (f : BitVec 64) (s : State) :
    (slotTake f s).chain = { s.chain with slotSeen := s.te.time, broken := false } ∧ (s.te.src ≠ 2 → (slotTake f s).te = s.te) := by
  unfold slotTake
  dsimp only
  split
  next h =>
    refine ⟨timeMeasure_chain _ _, fun h2 => ?_⟩
    rw [decide_eq_false h2, Bool.false_and] at h
    exact absurd h Bool.false_ne_true
  next => exact ⟨rfl, fun _ => rfl⟩

/-- A SLOT that goes on goes before the frames of other types, and CHAIN_OUT is no longer held for it. -/
theorem chainForward_slot {f : BitVec 64} (h : fHop f ≠ 15) (ht : fType f = 3) (s : State) :
    chainForward f s = s.updChain fun c =>
      { c with
        txq := c.txq.takeWhile (fun g => fType g = 3) ++ mkFrame 3 (fSrc f) (fDst f) (fBcast f) (fSub f) (fHop f + 1) (fPay f)
          :: c.txq.dropWhile (fun g => fType g = 3)
        idleFrom := none } := by
  have hslot : fType (mkFrame 3 (fSrc f) (fDst f) (fBcast f) (fSub f) (fHop f + 1) (fPay f)) = 3 := fType_mkFrame ..
  simp only [chainForward, h, ht, if_false, if_true, chainPush_slot hslot]
  rfl

/-- A LOOP frame of the first round is back at the head, which sends the second. -/
theorem loopBack_spec {f : BitVec 64} {s : State} {n r : Nat} (hn : s.chain.size.toNat = n) (h : n ≠ 0)
    (hr : (s.te.time + 2 ^ 32 - fPay f) % 2 ^ 32 = r) :
    loopBack f s = { s with
      chain := { s.chain with
        roundR := BitVec.ofNat 16 r
        txq := s.chain.txq ++ [mkFrame 2 0 0 true 1 0 (wrap 16 ((2 * ((r : Int) - 272 * ((n : Int) - 1)) + n) / (2 * (n : Int))))] } } := by
  simp only [-Nat.reducePow, loopBack, hn, if_neg h, hr]
  rw [chainPush_behind (by rw [fType_mkFrame]; decide)]
  rfl

/-- R461, R462, R466, R467, R469. -/
theorem chainFramesComplete : Claims.ChainFramesComplete := by
  refine ⟨fun f r0 s n hg hhead ha hsrc hsub hn h0 => ?_, fun f r0 s hg hhead ha hsrc hb hsub hhop => ?_, fun f r0 s hg hhead ha hsrc hsub => ?_,
    fun f s hg ha hsrc hb hhop => ?_, fun f s hg ha hsrc hb hd hpair => ?_, fun f s hg ha hsrc hb hd hroom hen => ?_,
    fun f s hg ha hsrc hb hd hfull => ?_, fun f s hg ha hsrc hb hd => ?_, fun f s hon => ⟨fun hbad => ?_, fun hok ht => ?_⟩⟩
  · subst hn
    change ∃ z r, execChainLoopRx ⟨f, r0⟩ s = .next z ∧ _
    unfold execChainLoopRx
    rw [if_neg (by simp [hg]), chainHandle_own ha hsrc, if_neg (by simp [hhead]), if_pos hsub]
    obtain ⟨r, hr⟩ : ∃ r, (s.te.time + 2 ^ 32 - fPay f) % 2 ^ 32 = r := ⟨_, rfl⟩
    rw [loopBack_spec rfl h0 hr]
    exact ⟨_, r, rfl, hr.symm, rfl, rfl⟩
  · obtain ⟨-, ht, -⟩ := chainGood_iff.mp hg
    change ∃ z, execChainLoopRx ⟨f, r0⟩ s = .next z ∧ _
    simp only [execChainLoopRx, hg, chainHandle_broadcast hsrc hb, hsub, Bool.not_true, Bool.false_eq_true, if_false, if_true]
    rw [chainForward_behind hhop (by rw [ht]; decide), ht, hb, hsub]
    refine ⟨_, rfl, rfl, ?_, rfl⟩
    exact if_neg (by rw [hhead]; exact Bool.false_ne_true)
  · change execChainLoopRx ⟨f, r0⟩ s = _
    unfold execChainLoopRx
    rw [if_neg (by simp [hg]), chainHandle_own ha hsrc, if_neg (by simp [hhead]), if_neg (by rw [hsub]; decide), if_pos hsub]
    refine congrArg (fun h => Host.Outcome.next { s with chain := { s.chain with hopH := BitVec.ofNat 16 (fPay f), hopR := h } }) ?_
    exact if_pos hhead
  · obtain ⟨-, ht, -⟩ := chainGood_iff.mp hg
    obtain ⟨hc, hte⟩ := slotTake_spec f s
    refine ⟨_, (if_pos hg).trans (congrArg Host.Outcome.next ((chainHandle_broadcast hsrc hb).trans (chainForward_slot hhop ht _))), ?_⟩
    dsimp only [State.updChain]
    rw [hc, hb]
    exact ⟨rfl, rfl, rfl, rfl, hte⟩
  · refine (if_pos hg).trans (congrArg Host.Outcome.next ((chainHandle_mine ha hsrc hb hd).trans (if_pos hpair)))
  · refine (if_pos hg).trans (congrArg Host.Outcome.next ((chainHandle_mine ha hsrc hb hd).trans ?_))
    unfold msgTake
    rw [if_neg (Nat.not_le_of_lt hroom), if_neg (by rw [hen]; exact Bool.false_ne_true)]
    rfl
  · exact (if_pos hg).trans (congrArg Host.Outcome.next ((chainHandle_mine ha hsrc hb hd).trans (if_pos hfull)))
  · obtain ⟨-, ht, -⟩ := chainGood_iff.mp hg
    refine (if_pos hg).trans (congrArg Host.Outcome.next ((chainHandle_other hsrc hb hd).trans ?_))
    by_cases hhop : fHop f = 15
    · rw [chainForward_drop hhop, if_pos hhop]
      rfl
    · rw [chainForward_behind hhop (by rw [ht]; decide), if_neg hhop, ht, hb]
      rfl
  · refine congrArg Host.Outcome.next ((if_neg (by simp [hon])).trans (if_pos (by simp [hbad])))
  · refine congrArg Host.Outcome.next ((if_neg (by simp [hon])).trans ((if_neg (by simp [hok])).trans (if_pos ?_)))
    simpa only [Bool.or_eq_true, decide_eq_true_eq] using ht

theorem loopRound_head {s : State} (hhead : s.chain.head = true) (ha : s.chain.assigned = true) (hsize : s.chain.size ≠ 0) :
    loopRound s = { s with
      chain := { s.chain with txq := s.chain.txq ++ [mkFrame 2 0 0 true 0 0 0] }, cal := { s.cal with loopLast := s.te.time } } := by
  unfold loopRound
  rw [if_pos (by rw [hhead, ha, decide_eq_true hsize]; rfl), chainPush_behind (by rw [fType_mkFrame]; decide)]
  rfl

/-- CHAIN_CTRL written with its LOOP bit at the head. -/
theorem chainCtrlWrite_round {v : BitVec 32} {s : State} (h7 : v.getLsbD 7 = true) (hhead : s.chain.head = true)
    (ha : s.chain.assigned = true) (hsize : s.chain.size ≠ 0) :
    (chainCtrlWrite v s).chain = { s.chain with
        msgEvt := v.extractLsb' 0 6, msgEvtEn := v.getLsbD 6, txq := s.chain.txq ++ [mkFrame 2 0 0 true 0 0 0] }
      ∧ (chainCtrlWrite v s).cal = { s.cal with loopLast := s.te.time } := by
  have hround : chainCtrlWrite v s = loopRound (s.updChain fun c => { c with msgEvt := v.extractLsb' 0 6, msgEvtEn := bit v 6 }) := if_pos h7
  rw [hround, loopRound_head (s := s.updChain fun c => { c with msgEvt := v.extractLsb' 0 6, msgEvtEn := bit v 6 }) hhead ha hsize]
  exact ⟨rfl, rfl⟩

/-- CHAIN_MSG_TX written whole, with fewer than four of its frames waiting. -/
theorem msgTxWrite_whole {lo hi : BitVec 32} {s : State} (h : msgQueued s.chain < 4) :
    msgTxWrite (some lo) (some hi) s = { s with
      chain := { s.chain with
        msgTxLow := lo &&& 0xFF#32
        txq := s.chain.txq ++ [mkFrame 5 s.chain.addr.toNat (lo.toNat % 16) (lo.getLsbD 4) (lo.toNat / 32 % 8) 0 hi.toNat] } } := by
  have hand : (lo &&& 0xFF#32).toNat = lo.toNat % 256 := by
    rw [BitVec.toNat_and]
    exact Nat.and_two_pow_sub_one_eq_mod _ 8
  have hdst : fld (lo &&& 0xFF#32) 0 4 = lo.toNat % 16 := by rw [fld_eq, hand]; omega
  have hsub : fld (lo &&& 0xFF#32) 5 3 = lo.toNat / 32 % 8 := by rw [fld_eq, hand]; omega
  have hbit : bit (lo &&& 0xFF#32) 4 = lo.getLsbD 4 := by
    rw [bit, BitVec.getLsbD_and]
    exact Bool.and_true _
  unfold msgTxWrite
  dsimp only
  rw [if_neg (show ¬ msgQueued (s.updChain fun c => { c with msgTxLow := lo &&& 0xFF#32 }).chain ≥ 4 from Nat.not_le_of_lt h), chainPush_behind (by rw [fType_mkFrame]; decide)]
  dsimp only [State.updChain]
  rw [hdst, hsub, hbit]

theorem msgPop_eq (v : BitVec 32) (c : Chain) : msgPop v c = { c with rx := if v.getLsbD 0 then c.rx.drop 1 else c.rx } := by
  unfold msgPop bit
  cases v.getLsbD 0 <;> rfl

/-- R461, R462, R466, R469, R470. -/
theorem chainSendingCompletes : Claims.ChainSendingCompletes := by
  refine ⟨fun s f r hon hq hfree => ?_, fun s f r t hon hq ht h3 hlt => ?_, fun s b hb hon hhead ha hsize hs => ?_,
    fun s b hb hon hhead ha hp hd ht => ?_, fun s hon ht => ?_, fun who v s h h7 hhead ha hsize => ?_, fun who lo hi s h hlt => ?_,
    fun who v s h => ?_⟩
  · have hexec : exec .chainFrameTx s = .next (s.updChain fun c => { c with txq := r, sent := stampFrame s f :: c.sent, idleFrom := none }) := by
      change execChainFrameTx s = _
      simp only [execChainFrameTx, hon, hq, Bool.not_true, Bool.false_eq_true, if_false]
      rcases hfree with hfree | hfree
      · rw [hfree]
        rfl
      · cases s.chain.idleFrom with
        | none => rfl
        | some t => simp only [hfree, ne_eq, not_true_eq_false, decide_false, Bool.false_and, Bool.false_eq_true, if_false]
    refine ⟨_, hexec, rfl, congrArg (· :: s.chain.sent) ?_⟩
    simp only [stampFrame, Bool.and_eq_true, decide_eq_true_eq, and_assoc]
  · change execChainFrameTx s = _
    simp only [execChainFrameTx, hon, hq, ht, h3, hlt, ne_eq, not_false_eq_true, decide_true, Bool.and_self, Bool.not_true, Bool.false_eq_true,
      if_false, if_true]
  · change execChainSlotSend s = _
    unfold execChainSlotSend
    rw [hb]
    dsimp only
    rw [if_pos (by simp only [hon, hhead, ha, hs, decide_eq_true hsize, decide_true, Bool.and_self]), chainPush_slot (fType_mkFrame ..)]
    rfl
  · change execChainSlotIdle s = _
    unfold execChainSlotIdle
    dsimp only
    rw [hb]
    dsimp only
    rw [if_pos (by simp only [hon, hhead, ha, hp, hd, ht, decide_true, Bool.not_false, Bool.and_self])]
    rfl
  · exact congrArg Host.Outcome.next (if_pos (by simp only [hon, ge_iff_le, ht, decide_true, Bool.and_self]))
  · refine ⟨_, regWrite_next h _ rfl, ?_⟩
    rcases came_cases who s with hc | hc <;> rw [hc]
    · exact chainCtrlWrite_round h7 hhead ha hsize
    · exact chainCtrlWrite_round (s := s.linkUse) h7 hhead ha hsize
  · refine regWrite_next h _ ?_
    rcases came_cases who s with hc | hc <;> rw [hc]
    · exact msgTxWrite_whole hlt
    · exact msgTxWrite_whole (s := s.linkUse) hlt
  · refine regWrite_next h _ ?_
    rcases came_cases who s with hc | hc <;> rw [hc]
    · exact congrArg (fun c => { s with chain := c }) (msgPop_eq v s.chain)
    · exact congrArg (fun c => { s.linkUse with chain := c }) (msgPop_eq v s.chain)

/-- Settles O43. -/
theorem chainFramesAndSendingComplete : Obligations.ChainFramesAndSendingComplete := ⟨chainFramesComplete, chainSendingCompletes⟩

end Sys2Proof.Machine
end

section
/-! The bond link: frames in order, acknowledged and replayed, and the link itself (R356, R464, R471 to R474). -/

namespace Sys2Proof.Machine

/-! ### Reception -/

theorem bondTake_expected {q : BitVec 32} {f : State → State} {s : State} (hon : bondOn s = true) (h : q = s.bond.rxSeq) :
    bondTake q true f s = f { s with
      bond := { s.bond with rxSeq := s.bond.rxSeq + 1, txq := s.bond.txq ++ [⟨1, 0, s.bond.rxSeq, 0, []⟩] } } := by
  unfold bondTake
  dsimp only
  rw [if_neg (by simp [hon]), if_neg (by decide), if_pos h]
  rfl

theorem bondTake_bad {q : BitVec 32} {f : State → State} {s : State} (hon : bondOn s = true) :
    bondTake q false f s = { s with bond := { s.bond with txq := s.bond.txq ++ [⟨2, 0, s.bond.rxSeq, 0, []⟩] } } := by
  unfold bondTake
  dsimp only
  rw [if_neg (by simp [hon]), if_pos (by decide)]
  rfl

theorem bondTake_again {q : BitVec 32} {f : State → State} {s : State} (hon : bondOn s = true) (h : q ≠ s.bond.rxSeq)
    (hle : (s.bond.rxSeq - q).toNat < 2 ^ 31) :
    bondTake q true f s = { s with bond := { s.bond with txq := s.bond.txq ++ [⟨1, 0, s.bond.rxSeq - 1, 0, []⟩] } } := by
  unfold bondTake
  dsimp only
  rw [if_neg (by simp [hon]), if_neg (by decide), if_neg h, if_pos (show seqLe q s.bond.rxSeq = true from decide_eq_true hle)]
  rfl

theorem bondTake_gap {q : BitVec 32} {f : State → State} {s : State} (hon : bondOn s = true) (h : q ≠ s.bond.rxSeq)
    (hgt : 2 ^ 31 ≤ (s.bond.rxSeq - q).toNat) : bondTake q true f s = s := by
  unfold bondTake
  dsimp only
  rw [if_neg (by simp [hon]), if_neg (by decide), if_neg h, if_neg (by rw [seqLe, decide_eq_false (Nat.not_lt.mpr hgt)]; exact Bool.false_ne_true)]

theorem bondReceptionInOrder : Claims.BondReceptionInOrder := by
  intro f i q ok s hon h
  have hexec : exec i s = .next (bondTake q ok f s) := by
    rcases h with ⟨w, a, p, l, rfl, rfl⟩ | ⟨w, rfl, rfl⟩ | ⟨n, p, rfl, rfl⟩ | ⟨a, p, rfl, rfl⟩ | ⟨rfl, rfl⟩ | ⟨e, rfl, rfl⟩ <;> rfl
  refine ⟨fun hok hq => ?_, fun hok => ?_, fun hok hq hle => ?_, fun hok hq hgt => ?_⟩ <;> subst hok <;> rw [hexec]
  · exact congrArg Host.Outcome.next (bondTake_expected hon hq)
  · exact congrArg Host.Outcome.next (bondTake_bad hon)
  · exact congrArg Host.Outcome.next (bondTake_again hon hq hle)
  · exact congrArg Host.Outcome.next (bondTake_gap hon hq hgt)

/-! ### Sending -/

theorem BondFrame.numbered_iff (f : BondFrame) : f.numbered = true ↔ f.type ≠ 1 ∧ f.type ≠ 2 := by
  by_cases h1 : f.type = 1 <;> by_cases h2 : f.type = 2 <;> simp [BondFrame.numbered, bAck, bNak, h1, h2]

/-- The bond may send no numbered frame now. -/
def bondFull (s : State) : Bool :=
  decide (s.bond.unacked.length ≥ 256)
    || match s.bond.txq.find? fun f => f.numbered with
      | some f => mirrorReads s f
      | none => false

theorem bondTx_first {s : State} {f : BondFrame} {r : List BondFrame} (hq : s.bond.txq = f :: r)
    (h : f.numbered = false ∨ bondFull s = false) :
    bondTx s = { s with
      bond := { s.bond with txq := r, unacked := if f.numbered then s.bond.unacked ++ [f] else s.bond.unacked, sent := f :: s.bond.sent } } := by
  have hgo : (!bondFull s || !f.numbered) = true := by rcases h with h | h <;> simp [h]
  have hidx : s.bond.txq.findIdx? (fun f => !bondFull s || !f.numbered) = some 0 := by
    rw [hq, List.findIdx?_cons, hgo]
    rfl
  change (match s.bond.txq.findIdx? (fun f => !bondFull s || !f.numbered) with | none => s | some i => _) = _
  rw [hidx]
  simp only [State.updBond, hq, List.getElem?_cons_zero, List.eraseIdx_zero, List.tail_cons]

theorem bondTx_held {s : State} {f : BondFrame} (hq : s.bond.txq = [f]) (hn : f.numbered = true) (h : bondFull s = true) : bondTx s = s := by
  have hidx : s.bond.txq.findIdx? (fun f => !bondFull s || !f.numbered) = none := by
    rw [hq, List.findIdx?_cons, h, hn]
    rfl
  change (match s.bond.txq.findIdx? (fun f => !bondFull s || !f.numbered) with | none => s | some i => _) = _
  rw [hidx]

theorem bondFull_numbered {s : State} {f : BondFrame} {r : List BondFrame} (hq : s.bond.txq = f :: r) (hn : f.numbered = true) :
    bondFull s = (decide (s.bond.unacked.length ≥ 256) || mirrorReads s f) := by
  unfold bondFull
  rw [hq, List.find?_cons_of_pos hn]

/-! ### A mirror's turn -/

/-- What of a tile its stored courses are read from. -/
def storeOf (x : Tile) : List (Nat × BitVec 8) × List BankState × List (Nat × Bool) := (x.ts.bytes, x.ts.bankState, x.ts.badParity)

theorem readCourse_congr {x y : Tile} (h : storeOf y = storeOf x) (c : Nat) : y.ts.readCourse c = x.ts.readCourse c := by
  obtain ⟨hb, h⟩ := Prod.mk.injEq .. ▸ h
  obtain ⟨hs, hp⟩ := Prod.mk.injEq .. ▸ h
  rw [TileStore.readCourse, TileStore.readCourse, TileStore.read, TileStore.read, TileStore.live_congr hs]
  simp only [TileStore.byte, TileStore.badWords, hb, hp]

theorem storeOf_updTs {f : TileStore → TileStore} (hf : ∀ ts, (f ts).bytes = ts.bytes ∧ (f ts).bankState = ts.bankState
    ∧ (f ts).badParity = ts.badParity) (s : State) (t j : Nat) : storeOf ((s.updTs t f).tile j) = storeOf (s.tile j) := by
  refine State.tile_updTile_proj storeOf (f := fun x => { x with ts := f x.ts }) (fun x => ?_) j
  obtain ⟨hb, hs, hp⟩ := hf x.ts
  exact Prod.ext hb (Prod.ext hs hp)

/-- What the cycles that a mirror's read has lost are charged to: counters of the tile and of its step. -/
theorem mirrorLost_kept (m : Mirror) (lost : Nat) (s : State) :
    (mirrorLost m lost s).bond = s.bond ∧ ∀ j, storeOf ((mirrorLost m lost s).tile j) = storeOf (s.tile j) := by
  unfold mirrorLost
  split
  · exact ⟨rfl, storeOf_updTs (f := fun ts => { ts with conflictCnt := satAdd32 ts.conflictCnt lost }) (fun _ => ⟨rfl, rfl, rfl⟩) s m.tile⟩
  · refine ⟨rfl, fun j => ?_⟩
    have hconf (n now : Nat) (ts : TileStore) : (ts.conflicts n now).bytes = ts.bytes ∧ (ts.conflicts n now).bankState = ts.bankState
        ∧ (ts.conflicts n now).badParity = ts.badParity := by
      unfold TileStore.conflicts
      dsimp only
      split <;> exact ⟨rfl, rfl, rfl⟩
    unfold charge chargeAll
    extract_lets s1 s2 s3
    have h1 : storeOf (s1.tile j) = storeOf (s.tile j) := State.proj_updRun storeOf s m.tile j (fun _ _ => rfl) m.urgent _
    have h2 : storeOf (s2.tile j) = storeOf (s1.tile j) := storeOf_updTs (hconf _ _) s1 m.tile j
    have h3 : storeOf (s3.tile j) = storeOf (s2.tile j) := by
      unfold s3
      rw [if_neg Bool.false_ne_true]
      exact State.proj_updArr storeOf s2 m.tile j (fun _ _ => rfl) _
    exact h3.trans (h2.trans h1)

theorem upd_getElem?_same {α : Type} (f : α → α) : ∀ (l : List α) (i : Nat), (upd l i f)[i]? = l[i]?.map f
  | [], _ => rfl
  | _ :: _, 0 => rfl
  | _ :: r, i + 1 => upd_getElem?_same f r i

/-- A read course leaves the mirror's queue: its range may be released, and nothing of the stored bytes changes. -/
theorem mirrorPop_spec (k : Nat) (m : Mirror) (s : State) :
    (mirrorPop k m s).bond.txq = s.bond.txq ∧ (mirrorPop k m s).bond.txSeq = s.bond.txSeq
      ∧ (k < s.bond.mirrors.length → ((mirrorPop k m s).bond.mirrors[k]?.map (·.left)) = some (m.left.drop 1))
      ∧ ∀ j, ((mirrorPop k m s).tile j).ts.bytes = (s.tile j).ts.bytes := by
  unfold mirrorPop
  extract_lets left rest done s1
  have h1 : s1.bond = s.bond ∧ ∀ j, storeOf (s1.tile j) = storeOf (s.tile j) := by
    unfold s1
    split
    · exact ⟨rfl, storeOf_updTs (f := fun ts => ts.retire 6 m.urgent (m.ranges.take 1)) (fun _ => ⟨rfl, rfl, rfl⟩) s m.tile⟩
    · exact ⟨rfl, fun _ => rfl⟩
  obtain ⟨hbond, hstore⟩ := h1
  refine ⟨(congrArg Bond.txq hbond :), (congrArg Bond.txSeq hbond :), fun hk => ?_, fun j => congrArg Prod.fst (hstore j)⟩
  dsimp only [State.updBond]
  rw [hbond, upd_getElem?_same, List.getElem?_eq_getElem hk]
  rfl

/-- The turn of a mirror whose next course has no parity error. -/
theorem mirrorTurn_sends {k lost : Nat} {s : State} {m : Mirror} {c w : Nat} {rest : List (Nat × Nat)} (hon : mirrorOn s = true)
    (hm : s.bond.mirrors[k]? = some m) (hl : s.tileLive m.tile = true) (he : m.entered = true) (hleft : m.left = (c, w) :: rest)
    (hbad : ((s.tile m.tile).ts.readCourse c).bad = []) :
    ∃ y : State, mirrorTurn k lost s = mirrorPop k m (y.bondSend bMwr w (BitVec.ofNat 64 c) (unpackBytes 128 ((s.tile m.tile).ts.readCourse c).data))
      ∧ y.bond = s.bond ∧ ∀ j, (y.tile j).ts.bytes = (s.tile j).ts.bytes := by
  obtain ⟨hb, hs⟩ := mirrorLost_kept m lost s
  have hread := readCourse_congr (hs m.tile) c
  have hcount (off : Bool) (ts : TileStore) : (ts.countOff off).bytes = ts.bytes ∧ (ts.countOff off).bankState = ts.bankState
      ∧ (ts.countOff off).badParity = ts.badParity := by cases off <;> exact ⟨rfl, rfl, rfl⟩
  refine ⟨(mirrorLost m lost s).updTs m.tile fun ts => ts.countOff ((s.tile m.tile).ts.readCourse c).off, ?_, hb, fun j =>
    congrArg Prod.fst ((storeOf_updTs (hcount _) _ m.tile j).trans (hs j))⟩
  unfold mirrorTurn
  rw [hm]
  dsimp only
  rw [if_neg (by simp [hon, hl]), if_pos he, mirrorRead, hleft]
  dsimp only
  rw [hread, hbad, State.tsPerr_nil]
  exact if_pos rfl

/-! ### Acknowledgements -/

theorem resyncCheck_none {s : State} (h : s.bond.resync = none) : resyncCheck s = s := by
  unfold resyncCheck
  rw [h]

theorem ackUpTo_spec (q : BitVec 32) {s : State} (h : s.bond.resync = none) :
    (ackUpTo q s).bond.unacked = s.bond.unacked.filter (fun f => !decide ((q - f.fseq).toNat < 2 ^ 31))
      ∧ (ackUpTo q s).bond.txq = s.bond.txq ∧ (ackUpTo q s).bond.replayCnt = s.bond.replayCnt ∧ (ackUpTo q s).tiles = s.tiles
      ∧ (ackUpTo q s).dma = s.dma := by
  unfold ackUpTo
  dsimp only
  rw [resyncCheck_none (by exact h)]
  exact ⟨rfl, rfl, rfl, rfl, rfl⟩

theorem bondLinkCompletes : Claims.BondLinkCompletes := by
  refine ⟨fun s f r hon hq h => ?_, fun s f hon hq h1 h2 h => ?_, fun lost s k m c w rest hon hm hl he hleft hbad => ?_,
    fun q s hon hr => ?_, fun q s hon hr => ?_, fun strap s hl hlink hp => ?_, fun s => rfl⟩
  · refine congrArg Host.Outcome.next ((if_pos hon).trans ((bondTx_first hq ?_).trans ?_))
    · by_cases hn : f.numbered = true
      · obtain ⟨h1, h2⟩ := (BondFrame.numbered_iff f).mp hn
        obtain ⟨hroom, hread⟩ := (h.resolve_left h1).resolve_left h2
        rw [bondFull_numbered hq hn, hread, decide_eq_false (Nat.not_le_of_lt hroom)]
        exact .inr rfl
      · exact .inl (eq_false_of_ne_true hn)
    · simp only [BondFrame.numbered_iff]
  · have hn := (BondFrame.numbered_iff f).mpr ⟨h1, h2⟩
    refine congrArg Host.Outcome.next ((if_pos hon).trans (bondTx_held hq hn ?_))
    rw [bondFull_numbered hq hn, Bool.or_eq_true]
    exact h.imp decide_eq_true id
  · obtain ⟨y, hy, hb, hs⟩ := mirrorTurn_sends (lost := lost) hon hm hl he hleft hbad
    refine ⟨_, congrArg Host.Outcome.next hy, ?_⟩
    obtain ⟨h1, h2, h3, h4⟩ := mirrorPop_spec k m
      (y.bondSend bMwr w (BitVec.ofNat 64 c) (unpackBytes 128 ((s.tile m.tile).ts.readCourse c).data))
    refine ⟨h1.trans ?_, h2.trans (congrArg (fun b : Bond => b.txSeq + 1) hb), (h3 ?_).trans (by rw [hleft]; rfl), fun j => (h4 j).trans (hs j)⟩
    · dsimp only [State.bondSend]
      rw [hb]
      rfl
    · dsimp only [State.bondSend]
      rw [hb]
      exact (List.getElem?_eq_some_iff.mp hm).1
  · obtain ⟨h1, h2, -, h4, h5⟩ := ackUpTo_spec q hr
    refine ⟨ackUpTo q s, ?_, h1, h2, h4, h5⟩
    exact (if_neg (by simp [hon])).trans (if_neg (by decide))
  · obtain ⟨h1, h2, h3, h4, -⟩ := ackUpTo_spec (q - 1) hr
    refine ⟨nakTake q s, (if_neg (by simp [hon])).trans (if_neg (by decide)), rfl, ?_, congrArg (satAdd32 · 1) h3, h4⟩
    exact congr (congrArg (· ++ ·) h1) h2
  · have hexec : exec (.bondLinkTrained strap) s = .next (addressed ((firstRole strap s).updBond fun b =>
        { b with linkUp := true, txq := b.unacked ++ b.txq, unacked := [], downFor := 0 })) := if_neg (by simp [hl, hlink, hp])
    obtain ⟨-, hb, ht, -⟩ := addressed_kept ((firstRole strap s).updBond fun b =>
        { b with linkUp := true, txq := b.unacked ++ b.txq, unacked := [], downFor := 0 })
    refine ⟨_, hexec, ?_⟩
    rw [hb, ht]
    obtain ⟨-, hft, -, -⟩ := firstRole_kept strap s
    by_cases hset : s.bond.roleSet = true
    · rw [firstRole, if_pos hset, if_pos hset]
      exact ⟨rfl, hp, rfl, rfl, rfl, rfl⟩
    · obtain ⟨ha, -⟩ := firstRole_new (strap := strap) (eq_false_of_ne_true hset)
      have hkept : (firstRole strap s).bond.paired = s.bond.paired ∧ (firstRole strap s).bond.txq = s.bond.txq
          ∧ (firstRole strap s).bond.unacked = s.bond.unacked := by
        rw [firstRole, if_neg hset]
        exact ⟨rfl, rfl, rfl⟩
      obtain ⟨hpaired, htxq, hun⟩ := hkept
      rw [if_neg hset]
      exact ⟨rfl, hpaired.trans hp, congr (congrArg (· ++ ·) hun) htxq, rfl, ha, hft⟩

/-- Settles O44. -/
theorem bondLinkComplete : Obligations.BondLinkComplete := ⟨bondReceptionInOrder, bondLinkCompletes⟩

end Sys2Proof.Machine
end

section
/-! The twin pair: wingbeats, takeover, relinquishing, RESYNC, windows and state frames (R477 to R483). -/

namespace Sys2Proof.Machine

/-! ### A map's entries changed -/

theorem sget_smap {β : Type} [DecidableEq β] {d : Nat → β} {f : Nat → β → β} {n : Nat} (hd : f n (d n) = d n) :
    ∀ {m : List (Nat × β)} {lo : Nat}, swfFrom d lo m = true → sget d (smap d f m) n = f n (sget d m n)
  | [], _, _ => hd.symm
  | (k, v) :: r, lo, h => by
    simp only [swfFrom, Bool.and_eq_true, decide_eq_true_eq] at h
    obtain ⟨-, hr⟩ := h
    have ih := sget_smap (n := n) hd hr
    unfold smap at ih ⊢
    rw [List.map_cons, List.filter_cons]
    by_cases hk : k = n
    · subst hk
      have hbelow : sget d r k = d k := sget_below d (Nat.lt_succ_self k) r hr
      rw [hbelow, hd] at ih
      split
      next => simp only [sget, if_true]
      next hv =>
        simp only [Bool.not_eq_true', decide_eq_false_iff_not, not_not] at hv
        simp only [sget, if_true, ih, hv]
    · split
      next => simpa only [sget, if_neg hk] using ih
      next => simpa only [sget, if_neg hk] using ih

/-! ### What leaves the roles alone -/

/-- The role epoch, and whether the device is active, SYNCED and has taken over. -/
def roleState (s : State) : BitVec 8 × Bool × Bool × Bool := (s.bond.roleEpoch, s.bond.active, s.bond.synced, s.bond.takeover)

/-- The roles are as they were. -/
def RoleKept (s z : State) : Prop := roleState z = roleState s

theorem RoleKept.refl (s : State) : RoleKept s s := rfl

theorem RoleKept.of_bond {s z w : State} (h : RoleKept s z) (hb : w.bond = z.bond) : RoleKept s w :=
  (congrArg (fun b : Bond => (b.roleEpoch, b.active, b.synced, b.takeover)) hb).trans h

theorem RoleKept.updBond {s z : State} {f : Bond → Bond} (h : RoleKept s z)
    (hf : ∀ b, ((f b).roleEpoch, (f b).active, (f b).synced, (f b).takeover) = (b.roleEpoch, b.active, b.synced, b.takeover)) :
    RoleKept s (z.updBond f) := (hf z.bond).trans h

theorem RoleKept.ite {c : Prop} [Decidable c] {s a b : State} (ha : RoleKept s a) (hb : RoleKept s b) : RoleKept s (if c then a else b) := by
  split
  · exact ha
  · exact hb

theorem RoleKept.foldl {α : Type} {g : State → α → State} {s z : State} {l : List α} (h : RoleKept s z)
    (hg : ∀ y x, RoleKept s y → RoleKept s (g y x)) : RoleKept s (l.foldl g z) := foldl_keeps (RoleKept s) g hg l z h

section
variable {s z : State} (h : RoleKept s z)
include h

theorem RoleKept.chainPush (f : BitVec 64) : RoleKept s (chainPush f z) := h.of_bond rfl

theorem RoleKept.chainWing : RoleKept s (chainWing z) := .ite (h.chainPush _) h

theorem RoleKept.bondSend (type win : Nat) (addr : BitVec 64) (p : List (BitVec 8)) : RoleKept s (z.bondSend type win addr p) :=
  h.updBond (f := fun b => { b with txq := b.txq ++ [⟨type, win, b.txSeq, addr, p⟩], txSeq := b.txSeq + 1 }) fun _ => rfl

theorem RoleKept.devSource (k : Nat) : RoleKept s (z.devSource k) := h.of_bond rfl

theorem RoleKept.pulse (lines : BitVec 64) : RoleKept s (z.pulse lines) := .ite h (h.of_bond rfl)

theorem RoleKept.toHost (o : HostOut) : RoleKept s (z.toHost o) := h.of_bond rfl

theorem RoleKept.ddrRequest (l : Nat) (k : DdrKind) (cls : Nat) : RoleKept s (z.ddrRequest l k cls) := by
  simp only [State.ddrRequest]
  split
  · exact h.of_bond rfl
  · exact h.of_bond rfl

theorem RoleKept.ddrWrite (a : Nat) (bs : List (BitVec 8)) : RoleKept s (z.ddrWrite a bs none) :=
  .ite (h.of_bond rfl) (.ite h (h.ddrRequest _ _ _))

omit h in
theorem RoleKept.ddrWriteLines : ∀ {fuel a : Nat} {bs : List (BitVec 8)} {z : State}, RoleKept s z →
    RoleKept s (State.ddrWriteLines none fuel a bs z)
  | 0, _, _, _, h => h
  | _ + 1, _, _, _, h => .ite h (ddrWriteLines (h.ddrWrite _ _))

theorem RoleKept.mirrorSend (w l : Nat) : RoleKept s (mirrorSend w l z) :=
  .ite (RoleKept.bondSend (h.of_bond rfl) _ _ _ _) ((h.ddrRequest _ _ _).bondSend _ _ _ _)

theorem RoleKept.mirrorLine (l : Nat) : RoleKept s (mirrorLine l z) := by
  refine .ite h ?_
  split
  · exact h.mirrorSend _ _
  · exact h

theorem RoleKept.dmaDdrWrite (a : Nat) (bs : List (BitVec 8)) : RoleKept s (dmaDdrWrite a bs none z) :=
  .ite h.ddrWriteLines (.foldl h.ddrWriteLines fun _ _ hy => hy.mirrorLine _)

theorem RoleKept.putRecord (q : DmaCq) (slot : Nat) (bits : BitVec 256) : RoleKept s (putRecord q slot bits z) :=
  .ite (h.toHost _) (.ite (h.dmaDdrWrite _ _) h)

theorem RoleKept.copySend (n : Nat) (c : BitVec 512) : RoleKept s (copySend n false c z) := by
  refine .ite h ?_
  simp only [Bool.false_and, Bool.false_eq_true, if_false]
  exact h.bondSend _ _ _ _

theorem RoleKept.copyRing (n : Nat) : RoleKept s (copyRing n z) := by
  refine .ite (.ite (h.copySend _ _) (.ite ?_ (h.ddrRequest _ _ _))) h
  exact RoleKept.copySend (z := z.countGated) (h.of_bond rfl) n 0

theorem RoleKept.finishDesc (c : Nat) (w : DmaWork) : RoleKept s (finishDesc c w z) := by
  unfold Machine.finishDesc
  extract_lets x s1 d s2 s2' s3
  have h2 : RoleKept s s2 := h.of_bond rfl
  have h2' : RoleKept s s2' := .ite (h2.copyRing _) h2
  have h3 : RoleKept s s3 := h2'.of_bond rfl
  exact .ite (h3.pulse _) h3

theorem RoleKept.landRecord (c : Nat) (r : CqRecord) (x : HeldRecord) : RoleKept s (landRecord c r x z) := by
  unfold Machine.landRecord
  extract_lets q s1 d s2 s3 s4
  have h1 : RoleKept s s1 := h.putRecord _ _ _
  have h2 : RoleKept s s2 := h1.of_bond rfl
  have h3 : RoleKept s s3 := .ite (h2.devSource _) h2
  have h4 : RoleKept s s4 := h3.of_bond rfl
  split
  · exact h4.finishDesc _ _
  · exact h4

theorem RoleKept.adoptQueues : RoleKept s (adoptQueues z) := .foldl h fun _ _ hy => hy.of_bond rfl

theorem RoleKept.rewriteDue : RoleKept s (rewriteDue z) :=
  h.updBond (f := fun b => { b with rewrite := b.held.reverse.filter fun x => heldRecent z x }) fun _ => rfl

theorem RoleKept.rewriteHeld : RoleKept s (rewriteHeld z) :=
  RoleKept.updBond (f := fun b => { b with rewrite := z.bond.rewrite.filter fun x => !cqReach z (z.dma.cqOf x.cq) })
    (.foldl h fun _ _ hy => .ite (hy.putRecord _ _ _) hy) fun _ => rfl

theorem RoleKept.reserve (r : CqRecord) : RoleKept s (reserve r z).2 := h.of_bond rfl

theorem RoleKept.takeoverRecord (q : Nat) : RoleKept s (takeoverRecord q z) := by
  have hw : RoleKept s { z with bond := { z.bond with tkoWait := z.bond.tkoWait.filter (· ≠ q) } } := h
  exact RoleKept.landRecord (RoleKept.reserve hw _) _ _ _

theorem RoleKept.takeoverRecords : RoleKept s (takeoverRecords z) := .foldl h fun _ _ hy => .ite (hy.takeoverRecord _) hy

theorem RoleKept.tkoBegin (d : Dma) (l : BitVec 64) (qs : List Nat) :
    RoleKept s { z with dma := d, bond := { z.bond with tkoLast := l, tkoWait := qs } } := h

theorem RoleKept.ringsOff : RoleKept s z.ringsOff := h.of_bond rfl

theorem RoleKept.makeRoom {y : State} (hy : makeRoom z = some y) : RoleKept s y := by
  unfold Machine.makeRoom at hy
  split at hy
  · cases hy
    exact h
  · split at hy
    · cases hy
      exact RoleKept.of_bond (z := writeBack z _) h.ddrWriteLines rfl
    · cases hy

theorem RoleKept.keepCtx {n : Nat} {c : BitVec 512} {y : State} (hy : keepCtx n c z = some y) : RoleKept s y := by
  unfold Machine.keepCtx at hy
  split at hy
  · cases hy
    exact h.of_bond rfl
  · obtain ⟨w, hw, rfl⟩ := Option.map_eq_some_iff.mp hy
    exact RoleKept.of_bond (z := w) (h.makeRoom hw) rfl

theorem RoleKept.mirrorRing (n : Nat) (c : BitVec 512) (l : RingLive) : RoleKept s (mirrorRing n c l z) := .ite (h.bondSend _ _ _ _) h

theorem RoleKept.updLive (n : Nat) (f : RingLive → RingLive) : RoleKept s (z.updLive n f) := h.of_bond rfl

theorem RoleKept.ringParked (n : Nat) (c : BitVec 512) : RoleKept s (ringParked n c z) := by
  unfold Machine.ringParked
  extract_lets s1
  have h1 : RoleKept s s1 := h.updLive _ _
  exact .ite (h1.of_bond rfl) h1

theorem RoleKept.ringStart (n : Nat) (c : BitVec 512) : RoleKept s (ringStart n c z) := by
  unfold Machine.ringStart
  refine RoleKept.mirrorRing ?_ _ _ _
  split
  next y hy => exact (h.keepCtx hy).updLive _ _
  next => exact h.ringParked _ _

theorem RoleKept.ringInit (n : Nat) (c : BitVec 512) : RoleKept s (ringInit n c z) := by
  refine .ite (h.of_bond rfl) (.ite (h.of_bond rfl) (RoleKept.ringStart ?_ n c))
  exact h

/-- INIT of a ring whose image is not read at once. -/
theorem RoleKept.initAsked (n : Nat) : RoleKept s (ringOp (.init n) none z) := by
  refine .ite (h.of_bond rfl) (.ite (h.ringInit _ _) (.ite ?_ (h.ddrRequest _ _ _)))
  exact RoleKept.ringInit (z := z.countGated) (h.of_bond rfl) n 0

theorem RoleKept.adoptRings : RoleKept s (adoptRings z) :=
  .foldl h fun _ _ hy => .ite (RoleKept.initAsked hy.ddrWriteLines _) hy

theorem RoleKept.releaseTile (t : Nat) : RoleKept s (releaseTile t z) := by
  refine .ite h ?_
  have ha : RoleKept s (if bit z.mor.returning t then applyMode t z else z) := .ite (h.of_bond rfl) h
  unfold State.updCore
  exact .ite (ha.of_bond rfl) (ha.of_bond rfl)

theorem RoleKept.releaseAll : RoleKept s (releaseAll z) := .foldl h fun _ _ hy => hy.releaseTile _

end

/-- A standby that promotes is active in the next epoch, has taken over and is not SYNCED. -/
theorem roleState_promote (s : State) : roleState (promote s) = (s.bond.roleEpoch + 1, true, false, true) := by
  unfold promote
  extract_lets last s1 s2 s3 s4a s4b s4 s5 s6
  have h1 : roleState s1 = (s.bond.roleEpoch + 1, true, false, true) :=
    (RoleKept.refl (s.updBond _)).devSource _
  have h2 : RoleKept s1 s2 := RoleKept.chainWing ((RoleKept.refl s1).bondSend _ _ _ _)
  have h3 : RoleKept s1 s3 := RoleKept.rewriteHeld (RoleKept.rewriteDue h2.adoptQueues)
  have h4 : RoleKept s1 s4 := RoleKept.takeoverRecords (RoleKept.tkoBegin h3 _ _ _)
  have h5 : RoleKept s1 s5 := h4.ringsOff.adoptRings
  have h6 : RoleKept s1 s6 := .ite h5.releaseAll h5
  exact (RoleKept.ite (h6.pulse _) h6).trans h1

/-! ### Wingbeats -/

theorem chainWing_bond (s : State) : (chainWing s).bond = s.bond := by
  have hpush : ∀ f : BitVec 64, (chainPush f s).bond = s.bond := fun _ => rfl
  unfold chainWing
  split
  · exact hpush _
  · rfl

theorem wingbeatSend_linked {s : State} (hw : winging s = true) (ht : 10000 * s.bond.wbAt ≤ s.te.time) (hl : s.bond.linkUp = true) :
    ∃ y : State, exec .wingbeatSend s = .next (y.bondSend bWing 0 (BitVec.ofNat 64 (wingWord y.bond)) [])
      ∧ y.bond = { s.bond with wbSent := s.bond.wbSent + 1, wbAt := s.te.time / 10000 + 1 } := by
  have hb := chainWing_bond (s.updBond fun b => { b with wbSent := b.wbSent + 1, wbAt := s.te.time / 10000 + 1 })
  refine ⟨_, ?_, hb⟩
  change execWingbeatSend s = _
  unfold execWingbeatSend
  rw [if_pos (by rw [hw, decide_eq_true (show s.te.time ≥ 10000 * s.bond.wbAt from ht)]; rfl)]
  exact congrArg Host.Outcome.next (if_pos ((congrArg Bond.linkUp hb).trans hl))

/-- Nothing of the bond's own state but its mirrors changes when mirrors end. -/
theorem suspend_bond (s : State) : (suspend s).bond.suspended = true ∧ (suspend s).bond.synced = false
    ∧ (suspend s).bond.partnerLost = s.bond.partnerLost ∧ (suspend s).bond.wbMissCnt = s.bond.wbMissCnt := by
  have hfold : ∀ (l : List Mirror) (z : State), z.bond = s.bond → (l.foldl (fun (z : State) (m : Mirror) =>
      if m.entered && !m.left.isEmpty then z.updTs m.tile fun ts => ts.retire 6 m.urgent m.ranges else z) z).bond = s.bond := fun l z hz =>
    foldl_keeps (fun y : State => y.bond = s.bond) _ (fun y m hy => by
      split
      · exact hy
      · exact hy) l z hz
  have hb := hfold (s.bond.mirrors.filter fun m => m.past) s rfl
  exact ⟨rfl, rfl, (congrArg Bond.partnerLost hb :), (congrArg Bond.wbMissCnt hb :)⟩

theorem partnerGone_active {s : State} (ha : s.bond.active = true) :
    (partnerGone s).bond.partnerLost = true ∧ (partnerGone s).bond.suspended = true ∧ (partnerGone s).bond.synced = false
      ∧ (partnerGone s).bond.wbMissCnt = s.bond.wbMissCnt := by
  unfold partnerGone
  extract_lets s1
  have h1 : s1.bond.partnerLost = true ∧ s1.bond.active = true ∧ s1.bond.wbMissCnt = s.bond.wbMissCnt := by
    unfold s1
    split
    next h => exact ⟨h, ha, rfl⟩
    next => exact ⟨rfl, ha, rfl⟩
  obtain ⟨hl, hact, hc⟩ := h1
  obtain ⟨hs, hsync, hlost, hmiss⟩ := suspend_bond s1
  rw [if_pos hact]
  exact ⟨hlost.trans hl, hs, hsync, hmiss.trans hc⟩

/-! ### Relinquishing -/

theorem ringHalt_live (n : Nat) (s : State) : (ringHalt n s).bond = s.bond ∧ (ringHalt n s).tiles = s.tiles
    ∧ (∀ j, j ≠ n → (ringHalt n s).dma.live j = s.dma.live j)
    ∧ ((s.dma.live n).state = 1 ∨ (s.dma.live n).state = 2 → ((ringHalt n s).dma.live n).state = 4)
    ∧ ((s.dma.live n).state = 4 → ((ringHalt n s).dma.live n).state = 4) := by
  by_cases hidle : (s.dma.live n).state = 1 ∨ (s.dma.live n).state = 2
  · rw [ringHalt_idle hidle]
    have hl := sget_sset_of_ne (d := fun _ => RingLive.reset) (RingLive.ne_reset (r := { s.dma.live n with state := 4, cause := 0 })
      (show (4 : BitVec 3) ≠ 0 by decide)) (a := n) s.dma.rings
    exact ⟨rfl, rfl, fun j hj => sget_sset_ne _ _ hj _, fun _ => congrArg RingLive.state hl, fun _ => congrArg RingLive.state hl⟩
  · by_cases hrun : (s.dma.live n).state = 3
    · rw [ringHalt_running hrun]
      exact ⟨rfl, rfl, fun _ _ => rfl, fun h => absurd h hidle, id⟩
    · have hsame : ringHalt n s = s := by
        unfold ringHalt
        dsimp only
        rw [if_neg hrun, if_neg (by simpa only [Bool.or_eq_true, decide_eq_true_eq] using hidle)]
      rw [hsame]
      exact ⟨rfl, rfl, fun _ _ => rfl, fun h => absurd h hidle, id⟩

/-- Halting rings one after another stops those of them that are IDLE or READY. -/
theorem ringHalt_foldl : ∀ (l : List Nat) (s : State), (l.foldl (fun z n => ringHalt n z) s).bond = s.bond
    ∧ (l.foldl (fun z n => ringHalt n z) s).tiles = s.tiles
    ∧ ∀ n, ((s.dma.live n).state = 4 ∨ n ∈ l ∧ ((s.dma.live n).state = 1 ∨ (s.dma.live n).state = 2)) →
        ((l.foldl (fun z n => ringHalt n z) s).dma.live n).state = 4
  | [], s => ⟨rfl, rfl, fun n h => h.elim id fun ⟨hm, _⟩ => absurd hm List.not_mem_nil⟩
  | k :: r, s => by
    obtain ⟨hb, ht, hne, hstop, hstay⟩ := ringHalt_live k s
    obtain ⟨ihb, iht, ih⟩ := ringHalt_foldl r (ringHalt k s)
    refine ⟨ihb.trans hb, iht.trans ht, fun n h => ih n ?_⟩
    by_cases hk : n = k
    · subst hk
      exact .inl (h.elim hstay fun ⟨_, hs⟩ => hstop hs)
    · rw [hne n hk]
      exact h.imp id fun ⟨hm, hs⟩ => ⟨(List.mem_cons.mp hm).resolve_left hk, hs⟩

/-- An index with a value other than the one by default is in the map. -/
theorem mem_of_sget_ne {β : Type} {d : Nat → β} {n : Nat} : ∀ {m : List (Nat × β)}, sget d m n ≠ d n → n ∈ m.map (·.1)
  | [], h => absurd rfl h
  | (k, v) :: r, h => by
    by_cases hk : k = n
    · exact List.mem_cons.mpr (.inl hk.symm)
    · rw [sget, if_neg hk] at h
      exact List.mem_cons.mpr (.inr (mem_of_sget_ne h))

theorem bondRelinquish_stops {s : State} (hp : s.bond.paired = true) (ha : s.bond.active = true) (hs : s.bond.synced = true)
    (hr : s.bond.relinquishing = false) :
    (bondRelinquish s).bond = { s.bond with relinquishing := true }
      ∧ (∀ n, (s.dma.live n).state = 1 ∨ (s.dma.live n).state = 2 → ((bondRelinquish s).dma.live n).state = 4)
      ∧ (bondRelinquish s).tiles = s.tiles := by
  have hrel : bondRelinquish s = (stopAllRings s).updBond fun b => { b with relinquishing := true } :=
    if_pos (by rw [hp, ha, hs, hr]; rfl)
  obtain ⟨hb, ht, hl⟩ := ringHalt_foldl (s.dma.rings.map (·.1)) s
  rw [hrel]
  refine ⟨congrArg (fun b : Bond => { b with relinquishing := true }) hb, fun n hn => hl n (.inr ⟨mem_of_sget_ne (d := fun _ => RingLive.reset)
    (RingLive.ne_reset ?_), hn⟩), ht⟩
  rcases hn with hn | hn <;> rw [show (sget (fun _ => RingLive.reset) s.dma.rings n).state = _ from hn] <;> decide

/-! ### Records of a mirrored queue -/

theorem cqOf_updCq_same {s : State} {q : Nat} {f : DmaCq → DmaCq} (h : f (s.dma.cqOf q) ≠ DmaCq.reset) :
    (s.updCq q f).dma.cqOf q = f (s.dma.cqOf q) := sget_sset_of_ne (d := fun _ => DmaCq.reset) h _

theorem DmaCq.advance_ne_reset {q : DmaCq} (h : q.en = true) : q.advance ≠ DmaCq.reset := fun he => by
  have : q.advance.en = DmaCq.reset.en := congrArg DmaCq.en he
  exact absurd ((show q.advance.en = true from h).symm.trans this) (by decide)

/-- A record of a mirrored queue sends its state first. -/
theorem sendState_spec (c : Nat) (r : CqRecord) {s : State} (hen : (s.dma.cqOf r.cq).en = true) :
    ∃ h p, h = ⟨r.cq, (s.dma.cqOf r.cq).tail, recordBits r (s.dma.cqOf r.cq).phase (s.dma.dseq + 1)⟩
      ∧ (sendState c r s).bond.txq = s.bond.txq ++ [⟨4, 0, s.bond.txSeq, BitVec.ofNat 64 r.cq, p⟩] ∧ p.take 32 = unpackBytes 32 h.bits.toNat
      ∧ (sendState c r s).bond.stateWait = s.bond.stateWait ++ [⟨c, s.bond.txSeq, false, h⟩]
      ∧ (sendState c r s).dma.dseq = s.dma.dseq + 1 ∧ (sendState c r s).dma.cqOf r.cq = (s.dma.cqOf r.cq).advance
      ∧ (sendState c r s).host.out = s.host.out ∧ (sendState c r s).ddr = s.ddr := by
  refine ⟨_, _, rfl, rfl, ?_, rfl, rfl, cqOf_updCq_same (DmaCq.advance_ne_reset hen), rfl, rfl⟩
  simp only [statePayload, List.append_assoc]
  rw [List.take_left' (unpackBytes_length _ _)]

/-! ### Windows -/

theorem halves_low (a : BitVec 64) (lo : BitVec 32) : halves a (some lo) none &&& 0x3FF#64 = BitVec.ofNat 64 (lo.toNat % 2 ^ 10) := by
  refine BitVec.eq_of_getLsbD_eq fun i hi => ?_
  change (((a.extractLsb' 32 32 ++ lo).setWidth 64) &&& 0x3FF#64).getLsbD i = _
  rw [BitVec.getLsbD_and, show 0x3FF#64 = BitVec.ofNat 64 (2 ^ 10 - 1) from rfl, BitVec.getLsbD_ofNat, BitVec.getLsbD_ofNat, Nat.testBit_two_pow_sub_one,
    Nat.testBit_mod_two_pow, BitVec.getLsbD_setWidth, BitVec.getLsbD_append]
  by_cases h : i < 10
  · rw [decide_eq_true hi, decide_eq_true h, if_pos (show i < 32 by omega)]
    simp only [Bool.true_and, Bool.and_true]
    rfl
  · rw [decide_eq_false h, Bool.false_and, Bool.and_false, Bool.and_false]

/-- The lower half of a window's register written with another value. -/
theorem mwinWrite_low {n : Nat} {lo : BitVec 32} {w : MirrorWindow} {s : State} (hw : kget s.bond.win n = some w)
    (hne : w.a.toNat ≠ lo.toNat % 2 ^ 10) :
    mwinWrite n false (some lo) none s = s.updBond fun x =>
      { x with win := kset x.win n { w with a := BitVec.ofNat 64 (lo.toNat % 2 ^ 10) }, synced := false } := by
  have hget : (kget s.bond.win n).getD ⟨0, 0⟩ = w := by rw [hw]; rfl
  have hdiff : { w with a := BitVec.ofNat 64 (lo.toNat % 2 ^ 10) } ≠ w := fun he => by
    have := congrArg (fun x : MirrorWindow => x.a.toNat) he
    rw [BitVec.toNat_ofNat, Nat.mod_eq_of_lt (by omega)] at this
    exact hne this.symm
  simp only [mwinWrite, hget, halves_low, Bool.false_eq_true, if_false]
  exact if_neg hdiff

/-- Settles O45. -/
theorem bondRolesComplete : Obligations.BondRolesComplete := by
  refine ⟨fun s hw ht hl => ?_, fun s hw ht hc hl => ?_, fun s hw ht hc hb hm ha => ?_, fun who s h hp ha hs hf => ?_,
    fun who s h hp ha hs hr _ => ?_, fun s hr hch hsw hq hm hcp hwf => ?_, fun who s h => ⟨fun hp ha hl hlost hpa => ?_, fun hno => ?_⟩,
    fun n w s hsp hlen hf => ?_, fun n c s hctx hw hon hres => ?_, fun c held s r rest hr hg hf hsb hnone hen hroom hreach htk hcm => ?_,
    fun c held s r rest w hr hg hf hsb hsome => ⟨fun hturn hack => ?_, fun hack hcm hen => ?_⟩, fun q p s hsb => ?_,
    fun who n lo w s hn h hw hne _ => ?_⟩
  · obtain ⟨y, hy, hb⟩ := wingbeatSend_linked hw ht hl
    refine ⟨_, hy, congrArg Bond.wbSent hb, congrArg Bond.wbAt hb, ?_⟩
    dsimp only [State.bondSend]
    rw [hb]
    rfl
  · change execWingbeatPeriodEnd s = _
    unfold execWingbeatPeriodEnd
    rw [if_pos (by rw [hw, decide_eq_true (show s.te.time ≥ 10000 * s.bond.wbEnd from ht)]; rfl)]
    extract_lets miss s1
    have hmiss : miss = false := by
      unfold miss
      rw [hc]
      rfl
    have hs1 : s1 = { s with bond := { s.bond with missed := 0, downFor := 0, wbChain := false, wbBond := false
                                                   wbEnd := s.te.time / 10000 + 1 } } := by
      unfold s1
      rw [hmiss]
      dsimp only [State.updBond]
      rw [if_pos hl]
      rfl
    rw [hs1, if_neg (show ¬ (0 : Nat) ≥ 3 by decide), if_neg (show ¬ (decide ((0 : Nat) ≥ 3) && s.bond.wbChain) = true by simp)]
  · change ∃ z, execWingbeatPeriodEnd s = _ ∧ _
    unfold execWingbeatPeriodEnd
    rw [if_pos (by rw [hw, decide_eq_true (show s.te.time ≥ 10000 * s.bond.wbEnd from ht)]; rfl)]
    extract_lets miss s1
    have hmiss : miss = true := by
      unfold miss
      rw [hc, hb]
      rfl
    have hmissed : s1.bond.missed = s.bond.missed + 1 := if_pos hmiss
    have hcnt : s1.bond.wbMissCnt = satAdd32 s.bond.wbMissCnt 1 := if_pos hmiss
    obtain ⟨h1, h2, h3, h4⟩ := partnerGone_active (s := s1) ha
    rw [if_pos (show s1.bond.missed ≥ 3 by rw [hmissed]; omega)]
    exact ⟨_, rfl, h1, h2, h3, h4.trans hcnt⟩
  · have hgo : ∀ z : State, z.bond = s.bond → z.flt = s.flt → bondPromote z = promote z := fun z hb hflt =>
      if_pos (by rw [standby, hb, hp, ha, hs, hflt, hf]; rfl)
    refine ⟨_, regWrite_next h _ rfl, ?_⟩
    have hrole : roleState (bondPromote (Claims.came who s)) = (s.bond.roleEpoch + 1, true, false, true) := by
      rcases came_cases who s with hc | hc <;> rw [hc]
      · rw [hgo s rfl rfl, roleState_promote]
      · rw [hgo s.linkUse rfl rfl, roleState_promote]
        rfl
    simp only [roleState, Prod.mk.injEq] at hrole
    exact hrole
  · refine ⟨_, regWrite_next h _ rfl, ?_⟩
    rcases came_cases who s with hc | hc <;> rw [hc]
    · exact bondRelinquish_stops hp ha hs hr
    · exact bondRelinquish_stops (s := s.linkUse) hp ha hs hr
  · have hend : endMirrors s = s := by
      unfold endMirrors endMirrorsIf
      rw [hm]
      dsimp only [List.filter_nil, List.foldl_nil, State.updBond]
      rw [hm]
      exact congrArg (fun l => { s with bond := { s.bond with mirrors := l } }) hm.symm
    have hpend : mirrorPends s = false := by rw [mirrorPends, hm]; rfl
    refine ⟨s.ringsOff.dma.rings, ?_, fun n => ?_⟩
    · refine (if_pos ?_).trans ?_
      · rw [hr, hch, hsw, hq, hpend, hcp]
        rfl
      · rw [hend]
        rfl
    · refine (congrArg RingLive.state (sget_smap (lo := 0) (f := fun _ (r : RingLive) => if r.state = 3 then r else { r with state := 0, cause := 0 })
        (n := n) rfl hwf)).trans ?_
      change (if (s.dma.live n).state = 3 then s.dma.live n else { s.dma.live n with state := 0, cause := 0 }).state = _
      split
      next h => exact h
      next => rfl
  · refine regWrite_next h _ ?_
    rcases came_cases who s with hc | hc <;> rw [hc]
    · exact if_pos (by rw [hp, ha, hl, hlost, hpa]; rfl)
    · exact if_pos (by simp only [State.linkUse_bond, hp, ha, hl, hlost, hpa, Bool.not_false, Bool.and_self])
  · refine regWrite_next h _ ?_
    have hno' : (s.bond.paired && s.bond.active && s.bond.linkUp && !s.bond.partnerLost && !s.bond.partnerActive) = false := by
      rcases hno with hno | hno <;> rw [hno] <;> simp
    rcases came_cases who s with hc | hc <;> rw [hc]
    · exact if_neg (by rw [hno']; exact Bool.false_ne_true)
    · exact if_neg (by simp only [State.linkUse_bond, hno', Bool.false_eq_true, not_false_eq_true])
  · refine ⟨copyMirror s n w, ?_, rfl, rfl, rfl, rfl, rfl⟩
    unfold copyWindow
    dsimp only
    rw [if_neg hlen, if_pos hsp, if_neg (by rw [hf]; exact Bool.false_ne_true)]
    rfl
  · have hr : readsImage s (.copy n true) = false := (congrArg Option.isNone hctx).trans rfl
    rw [ringOp_onChip (op := .copy n true) none hw hr, show ctxPeek s (CtxOp.copy n true).ring = c from ctxPeek_of_some hctx]
    change copySend n true c s = _
    unfold copySend
    rw [if_neg (by rw [hon]; decide)]
    exact if_pos hres
  · obtain ⟨x, p, hx, hspec⟩ := sendState_spec c r (s := countHeld held s) hen
    refine ⟨sendState c r (countHeld held s), x, p, ?_, hx, hspec⟩
    change execCqRecordWrite c held s = _
    simp only [execCqRecordWrite, hr, hg, hf, hsb, hnone, hen, hroom, hreach, htk, hcm, Bool.not_true, Bool.or_self, Bool.false_eq_true, if_false,
      if_true]
  · change execCqRecordWrite c held s = _
    simp only [execCqRecordWrite, hr, hg, hf, hsb, hsome, hturn, hack, Bool.true_or, Bool.and_self, Bool.or_self, Bool.false_eq_true, if_false,
      if_true]
    rfl
  · change execCqRecordWrite c held s = _
    simp only [execCqRecordWrite, hr, hg, hf, hsb, hsome, hack, hcm, hen, Bool.not_true, Bool.or_self, Bool.and_false, Bool.false_eq_true, if_false,
      if_true]
  · unfold stateKeep
    rw [if_neg (by rw [hsb]; decide)]
    exact ⟨_, _, rfl, kget_kset_same _ _ _, rfl, rfl, rfl, rfl⟩
  · refine ⟨_, regWrite_next_of hn h _ rfl, ?_⟩
    rcases came_cases who s with hc | hc <;> rw [hc]
    · rw [mwinWrite_low hw hne]
      exact ⟨rfl, kget_kset_same _ _ _, rfl⟩
    · rw [mwinWrite_low (s := s.linkUse) hw hne]
      exact ⟨rfl, kget_kset_same _ _ _, rfl⟩

end Sys2Proof.Machine
end

section
/-! ### The descriptors and records of the DMA engine (R375 to R389) -/
namespace Sys2Proof.Machine

/-! #### A unit of a descriptor -/

theorem keepWork_running {c : Nat} {w : DmaWork} {s : State} (h : s.flt.devFault = false) :
    keepWork c w s = s.updDch c fun q => { q with work := some w } := if_neg (by rw [h]; exact Bool.false_ne_true)

theorem chan_updDch_same {c : Nat} {f : DmaChan → DmaChan} {s : State} (hc : c < 64) (hlen : s.dma.ch.length = 64) :
    (s.updDch c f).dma.chan c = f (s.dma.chan c) := upd_getD_same _ _ _ _ (by rw [hlen]; exact hc)

/-- A channel that may move presents its next unit, which it writes when it holds one and else reads. -/
theorem dmaUnitTransfer_of_mayMove {c : Nat} {s : State} {w : DmaWork} (h : Claims.MayMove c s w) (host : HostAns) (ecc : LineEcc)
    (err : BeatErr) (ce : Nat) (ue : Bool) (met : UnitMet) :
    execDmaUnitTransfer c host ecc err ce ue met s =
      if w.nextWrite > 0 then .next (if putWaits c w s then s else putUnit c w.nextWrite w s)
      else if !w.reading then .next s
      else
        let b := xFrom w.desc w.elem + w.read
        let m := min (128 - b % 128) (xElen w.desc - w.read)
        if sourceWaits c (xSrc w.desc) b m ecc s then .next (dmaAsk c (b / 128) ecc s)
        else
          let ((cause, bs), s1) := readUnit c (xSrc w.desc) b m host ecc err ce ue met s
          .next (keepWork c (if cause = 0 then w.take bs else w.srcFail cause b) s1) := by
  obtain ⟨hc, hg, hf, hp, hrec, hw⟩ := h
  unfold execDmaUnitTransfer
  dsimp only
  rw [if_neg (by rw [hg, hf, hp, hrec]; simp [hc]), hw]

theorem putWaits_of_noFifo {c : Nat} {w : DmaWork} {s : State} (h : xFifo w.desc = none) : putWaits c w s = false := by
  simp [putWaits, h]

theorem DmaWork.faultsFirst_iff {w : DmaWork} {pos : Nat} : w.faultsFirst pos = true ↔ w.cause = 0 ∨ pos < w.faultAt := by
  rw [DmaWork.faultsFirst, Bool.or_eq_true, decide_eq_true_iff, decide_eq_true_iff]

theorem DmaWork.fault_first {w : DmaWork} {pos : Nat} (cause : Nat) (a : BitVec 64) (h : w.cause = 0 ∨ pos < w.faultAt) :
    w.fault cause pos a = { w with cause := cause, faultAddr := a, faultAt := pos } := if_pos (faultsFirst_iff.mpr h)

theorem DmaWork.fault_later {w : DmaWork} {pos : Nat} (cause : Nat) (a : BitVec 64) (h : ¬ (w.cause = 0 ∨ pos < w.faultAt)) :
    w.fault cause pos a = w := if_neg fun hf => h (faultsFirst_iff.mp hf)

/-- A unit of no FIFO, presented at its destination: the work after it. -/
theorem DmaWork.gave_eq {w : DmaWork} (h : xFifo w.desc = none) (cause b n got : Nat) :
    w.gave cause b n got = ({ w with
        cause := if cause ≠ 0 ∧ (w.cause = 0 ∨ w.elem * xElen w.desc + w.put < w.faultAt) then cause else w.cause
        faultAddr := if cause ≠ 0 ∧ (w.cause = 0 ∨ w.elem * xElen w.desc + w.put < w.faultAt) then aAt (xDst w.desc) b else w.faultAddr
        faultAt := if cause ≠ 0 ∧ (w.cause = 0 ∨ w.elem * xElen w.desc + w.put < w.faultAt) then w.elem * xElen w.desc + w.put
          else w.faultAt
        funnel := w.funnel.drop n, put := w.put + n, written := w.written + got } : DmaWork).step := by
  have hno : (xFifo (w.leave n).desc).isSome = false := congrArg Option.isSome h
  unfold DmaWork.gave DmaWork.landed
  dsimp only
  rw [hno, Bool.and_false, if_neg Bool.false_ne_true, if_neg Bool.false_ne_true]
  by_cases hcause : cause = 0
  · simp only [hcause, ne_eq, not_true_eq_false, false_and, if_false]
    rfl
  · rw [if_pos hcause]
    by_cases hpos : w.cause = 0 ∨ w.elem * xElen w.desc + w.put < w.faultAt
    · rw [DmaWork.fault_first (w := w.leave n) (pos := (w.leave n).elem * xElen (w.leave n).desc + w.put) _ _ hpos]
      simp only [ne_eq, hcause, not_false_eq_true, true_and, if_pos hpos]
      rfl
    · rw [DmaWork.fault_later (w := w.leave n) (pos := (w.leave n).elem * xElen (w.leave n).desc + w.put) _ _ hpos]
      simp only [ne_eq, hcause, not_false_eq_true, true_and, if_neg hpos]
      rfl

theorem sendUnit_running {c tile byte n : Nat} {w : DmaWork} {data : List (BitVec 8)} {s : State} (hf : s.flt.devFault = false) :
    sendUnit c tile byte n w data s = (inflightAdd tile (byte / 128) { s with
      freeCnt := s.freeCnt + 1
      dma := { s.dma with
        flight := s.dma.flight ++ [{
          ch := c, live := true, tile := tile, byte := byte, data := data, n := n, pos := w.put
          mesh := .enter portWest (4 * (tile / 4)) tile s.cycle (Config.freeValue 1 s.freeCnt).toNat }] } }).updDch c
      fun q => { q with work := some (w.leave n) } :=
  if_neg fun h => absurd (hf.symm.trans h) (by decide)

/-- A unit on its way to a tile's store changes the work of its channel and what is in flight, and no byte of a store. -/
theorem sendUnit_spec {c tile byte n : Nat} {w : DmaWork} {data : List (BitVec 8)} {s : State} (hf : s.flt.devFault = false) (hc : c < 64)
    (hlen : s.dma.ch.length = 64) :
    (sendUnit c tile byte n w data s).dma.flight = s.dma.flight ++ [{
        ch := c, live := true, tile := tile, byte := byte, data := data, n := n, pos := w.put
        mesh := .enter portWest (4 * (tile / 4)) tile s.cycle (Config.freeValue 1 s.freeCnt).toNat }]
      ∧ ((sendUnit c tile byte n w data s).dma.chan c).work = some (w.leave n)
      ∧ (∀ j, ((sendUnit c tile byte n w data s).tile j).ts.bytes = (s.tile j).ts.bytes)
      ∧ (sendUnit c tile byte n w data s).ddr = s.ddr ∧ (sendUnit c tile byte n w data s).hod = s.hod
      ∧ (sendUnit c tile byte n w data s).dma.fifo = s.dma.fifo := by
  rw [sendUnit_running hf]
  refine ⟨rfl, ?_, fun j => ?_, rfl, rfl, rfl⟩
  · exact congrArg DmaChan.work (chan_updDch_same hc hlen)
  · exact State.tile_updTile_proj (fun x : Tile => x.ts.bytes)
      (f := fun x => { x with ts := { x.ts with inflight := upd x.ts.inflight (courseBank (byte / 128)) (· + 1) } }) (fun _ => rfl) j

/-- A course that a FIFO takes: PUT counts it, and it goes to its tile's store or to hod memory. -/
theorem fifoUnit_takes {c k n : Nat} {w : DmaWork} {s : State} (hh : fifoHigh k s = false) (ho : fifoOpen k s = true) :
    fifoUnit c k n w s =
      if k < 128 then sendUnit c (k / 8) (128 * fifoAt k s) n w (padTo 128 (w.funnel.take n)) (fifoCount k s)
      else keepWork c (w.gave 0 0 n n) (dmaHodWrite (fifoAt k s) (padTo 128 (w.funnel.take n)) (fifoCount k s)) := by
  unfold fifoUnit
  dsimp only
  rw [if_neg (by rw [hh]; exact Bool.false_ne_true), if_neg (by rw [ho]; exact Bool.false_ne_true)]

theorem fifoOf_fifoCount {k : Nat} {s : State} (h : fifoOpen k s = true) :
    (fifoCount k s).dma.fifoOf k = { s.dma.fifoOf k with put := (s.dma.fifoOf k).put + 1 } := by
  have hsize : fld (s.dma.fifoOf k).cfg 16 16 ≠ 0 := by
    simp only [fifoOpen, Bool.and_eq_true, decide_eq_true_eq] at h
    exact h.1.2
  refine sget_sset_of_ne (d := fun _ => DmaFifo.reset) (fun he => hsize ?_) _
  have hcfg : (s.dma.fifoOf k).cfg = 0 := congrArg DmaFifo.cfg he
  rw [hcfg]
  rfl

theorem dmaHodWrite_frame (course : Nat) (bs : List (BitVec 8)) (s : State) :
    (dmaHodWrite course bs s).dma = s.dma ∧ (dmaHodWrite course bs s).tiles = s.tiles ∧ (dmaHodWrite course bs s).ddr = s.ddr
      ∧ (dmaHodWrite course bs s).flt = s.flt
      ∧ (s.gated .hod = false → (dmaHodWrite course bs s).hod.mem = sset (fun _ => 0) s.hod.mem course (BitVec.ofNat 1024 (packBytes bs))) := by
  unfold dmaHodWrite
  split
  next h => exact ⟨rfl, rfl, rfl, rfl, fun h' => absurd (h.symm.trans h') (by decide)⟩
  next => exact ⟨rfl, rfl, rfl, rfl, fun _ => rfl⟩

/-! #### The end of a descriptor -/

/-- A descriptor whose last write has arrived has its OWN bit given back and its bytes counted, and then reports or is over. -/
theorem descComplete_of_done {c : Nat} {s : State} {w : DmaWork} (hw : (s.dma.chan c).work = some w) (hd : w.done = true)
    (hq : s.dma.quiet c = true) (hrec : (s.dma.chan c).recs = []) (hg : s.gated .dma = false) :
    execDescComplete c s =
      let s1 := (ownBack w s).updCtx w.ring fun x => setFld x 192 64 (fld x 192 64 + w.written)
      if bit w.desc 4 || w.status ≠ 0 then
        let (v, s2) := if w.bad then s1.draw 64 else (0, s1)
        .next (s2.updDch c fun q => { q with recs := [workRecord w (cCq (ctxPeek s1 w.ring)) v] })
      else .next (finishDesc c w s1) := by
  unfold execDescComplete
  dsimp only
  rw [hw]
  dsimp only
  rw [if_neg (by rw [hd, hq, hrec, hg]; exact Bool.false_ne_true)]

/-- A descriptor that reaches nothing outside the engine when it is over: no mirrored queue and no pulse. -/
theorem finishDesc_quiet {c : Nat} {w : DmaWork} {s : State} (hcm : cqMirrored s = false) (hp : w.desc.getLsbD 5 = false) :
    (finishDesc c w s).dma.dseq = s.dma.dseq ∧ (finishDesc c w s).dma.cq = s.dma.cq
      ∧ (finishDesc c w s).dma.cqFullCnt = s.dma.cqFullCnt ∧ (finishDesc c w s).host = s.host ∧ (finishDesc c w s).tiles = s.tiles
      ∧ (finishDesc c w s).ddr = s.ddr := by
  unfold finishDesc
  extract_lets x s1 d s2 s2' s3
  have hcopy : s2' = s2 := by
    unfold s2' copyRing
    split
    · exact if_neg (by rw [show cqMirrored s2 = false from hcm]; exact Bool.false_ne_true)
    · rfl
  rw [if_neg (show ¬ bit w.desc 5 = true by rw [bit, hp]; exact Bool.false_ne_true)]
  unfold s3
  rw [hcopy]
  exact ⟨rfl, rfl, rfl, rfl, rfl, rfl⟩

/-- A record of a queue in the host's memory goes out at once. -/
theorem landRecord_host {c : Nat} {r : CqRecord} {h : HeldRecord} {s : State} {w : DmaWork} (hcm : cqMirrored s = false)
    (hw : (s.dma.chan c).work = some w) (hp : w.desc.getLsbD 5 = false) (hsp : aSpace (s.dma.cqOf h.cq).base = 0) :
    (landRecord c r h s).dma.dseq = s.dma.dseq ∧ (landRecord c r h s).dma.cq = s.dma.cq
      ∧ (landRecord c r h s).dma.cqFullCnt = s.dma.cqFullCnt
      ∧ (landRecord c r h s).host.out
        = .write (BitVec.ofNat 64 (aByte (s.dma.cqOf h.cq).base + 32 * h.slot.toNat)) (unpackBytes 32 h.bits.toNat) :: s.host.out
      ∧ (landRecord c r h s).tiles = s.tiles ∧ (landRecord c r h s).ddr = s.ddr := by
  unfold landRecord
  extract_lets q s1 d s2 s3 s4
  have h1 : s1 = s.toHost (.write (BitVec.ofNat 64 (aByte (s.dma.cqOf h.cq).base + 32 * h.slot.toNat)) (unpackBytes 32 h.bits.toNat)) :=
    if_pos hsp
  have h3 : s3.dma = s2.dma ∧ s3.host.out = s2.host.out ∧ s3.tiles = s2.tiles ∧ s3.ddr = s2.ddr ∧ s3.bond = s2.bond := by
    unfold s3
    split <;> exact ⟨rfl, rfl, rfl, rfl, rfl⟩
  obtain ⟨hd3, ho3, ht3, hr3, hb3⟩ := h3
  have hb4 : s4.bond = s.bond := hb3.trans (by unfold s2 d; rw [h1]; rfl)
  obtain ⟨e1, e2, e3, e4, e5, e6⟩ := finishDesc_quiet (c := c) (w := w) (s := s4) (by rw [cqMirrored, mirrorOn, hb4]; exact hcm) hp
  rw [hw]
  dsimp only
  refine ⟨e1.trans ?_, e2.trans ?_, e3.trans ?_, (congrArg HostIf.out e4).trans ?_, e5.trans ?_, e6.trans ?_⟩
  · refine (congrArg Dma.dseq hd3).trans ?_
    unfold s2 d; rw [h1]; rfl
  · refine (congrArg Dma.cq hd3).trans ?_
    unfold s2 d; rw [h1]; rfl
  · refine (congrArg Dma.cqFullCnt hd3).trans ?_
    unfold s2 d; rw [h1]; rfl
  · refine ho3.trans ?_
    unfold s2 d; rw [h1]; rfl
  · refine ht3.trans ?_
    unfold s2 d; rw [h1]; rfl
  · refine hr3.trans ?_
    unfold s2 d; rw [h1]; rfl

/-! #### Cutting off the rings of a channel -/

theorem upd_getD_proj {α β : Type} (P : α → β) {f : α → α} (hf : ∀ x, P (f x) = P x) (d : α) :
    ∀ (l : List α) (i j : Nat), P ((upd l i f).getD j d) = P (l.getD j d)
  | [], _, _ => rfl
  | x :: _, 0, 0 => hf x
  | _ :: _, 0, _ + 1 => rfl
  | _ :: _, _ + 1, 0 => rfl
  | _ :: r, i + 1, j + 1 => upd_getD_proj P hf d r i j

/-- A request for a ring's image makes no store. -/
theorem ddrRequest_ctx_stores (l : Nat) (op : CtxOp) (cls c gen : Nat) (m : List Host.Cell) (s : State) :
    ((s.ddrRequest l (.ctx op) cls).chan c).queue.foldl (DdrReq.store gen) m = (s.chan c).queue.foldl (DdrReq.store gen) m := by
  unfold State.ddrRequest
  extract_lets k s1
  have h1 : s1.ddr = s.ddr := by
    unfold s1
    split <;> rfl
  refine (upd_getD_proj (fun x : DdrChan => x.queue.foldl (DdrReq.store gen) m) (fun x => ?_) _ _ _ _).trans ?_
  · exact List.foldl_append
  · rw [h1]
    rfl

/-- Every ring's context is what it was, on chip or in its image. -/
def CtxsKept (s z : State) : Prop := ∀ n, ctxPeek z n = ctxPeek s n

theorem CtxsKept.ddrRequest (l : Nat) (op : CtxOp) (cls : Nat) (s : State) : CtxsKept s (s.ddrRequest l (.ctx op) cls) := by
  intro n
  obtain ⟨hd, hb, -⟩ := Beside.ddrRequest l (.ctx op) cls s
  have hrest : (s.ddrRequest l (.ctx op) cls).clk = s.clk ∧ (s.ddrRequest l (.ctx op) cls).ddr.gen = s.ddr.gen := by
    simp only [State.ddrRequest]
    split <;> exact ⟨rfl, rfl⟩
  obtain ⟨hk, hg⟩ := hrest
  have hgate : ∀ i, (s.ddrRequest l (.ctx op) cls).chanGated i = s.chanGated i := fun i => by
    simp only [State.chanGated, State.gated, hk]
  have hst := fun c => ddrRequest_ctx_stores l op cls c s.ddr.gen s.ddr.bytes s
  unfold ctxPeek ctxImage ctxAt State.ddrSoon
  rw [hd, hgate, hb, hg, hst]

theorem CtxsKept.copySend (n : Nat) (c : BitVec 512) (s : State) : CtxsKept s (copySend n false c s) := by
  unfold Machine.copySend
  split
  · exact fun _ => rfl
  · exact fun _ => rfl

theorem CtxsKept.copyRing (n : Nat) (s : State) : CtxsKept s (copyRing n s) := by
  unfold Machine.copyRing startOp
  split
  · split
    · exact .copySend n _ s
    · dsimp only
      split
      · exact CtxsKept.copySend n 0 s.countGated
      · exact .ddrRequest _ _ _ s
  · exact fun _ => rfl

/-- The ring is one of channel `c` that the channel's end cuts off. -/
def cutBy (c : Nat) (s : State) (n : Nat) : Prop :=
  ((s.dma.live n).state = 1 ∨ (s.dma.live n).state = 2 ∨ (s.dma.live n).state = 4) ∧ cCh (ctxPeek s n) = c

/-- One ring is cut off. -/
theorem ringCut_spec (c n : Nat) (s : State) :
    CtxsKept s (ringCut c s n) ∧ (ringCut c s n).ddr.bytes = s.ddr.bytes ∧ (ringCut c s n).tiles = s.tiles
      ∧ (ringCut c s n).dma.ch = s.dma.ch
      ∧ (∀ j, j ≠ n → (ringCut c s n).dma.live j = s.dma.live j)
      ∧ (cutBy c s n → (ringCut c s n).dma.live n = { s.dma.live n with state := 4, cause := 3 })
      ∧ (¬ cutBy c s n → (ringCut c s n).dma.live n = s.dma.live n) := by
  have hiff : ((s.dma.live n).state = 1 || (s.dma.live n).state = 2 || (s.dma.live n).state = 4) && cCh (ctxPeek s n) = c ↔ cutBy c s n := by
    simp [cutBy, or_assoc]
  unfold ringCut
  dsimp only
  split
  next h =>
    obtain ⟨hd, hb, ht⟩ := Beside.copyRing n ((notWaiting n s).updLive n fun r => { r with state := 4, cause := 3 })
    rw [hd, hb, ht]
    refine ⟨CtxsKept.copyRing n ((notWaiting n s).updLive n fun r => { r with state := 4, cause := 3 }), rfl, rfl, rfl,
      fun j hj => Dma.live_updLive_ne _ hj, fun _ => ?_, fun hno => absurd (hiff.mp h) hno⟩
    exact Dma.live_updLive_same (s := notWaiting n s) (f := fun r => { r with state := 4, cause := 3 }) (RingLive.ne_reset (show (4 : BitVec 3) ≠ 0 by decide))
  next h =>
    exact ⟨fun _ => rfl, rfl, rfl, rfl, fun _ _ => rfl, fun hc => absurd (hiff.mpr hc) h, fun _ => rfl⟩

/-- The rings of a list are cut off: those of the channel that stand stop, and nothing else does. -/
theorem ringCut_foldl (c : Nat) : ∀ (l : List Nat) (s : State),
    (l.foldl (ringCut c) s).ddr.bytes = s.ddr.bytes ∧ (l.foldl (ringCut c) s).tiles = s.tiles
      ∧ (l.foldl (ringCut c) s).dma.ch = s.dma.ch
      ∧ (∀ n, n ∈ l → cutBy c s n → (l.foldl (ringCut c) s).dma.live n = { s.dma.live n with state := 4, cause := 3 })
      ∧ (∀ n, ¬ (n ∈ l ∧ cutBy c s n) → (l.foldl (ringCut c) s).dma.live n = s.dma.live n)
  | [], s => ⟨rfl, rfl, rfl, fun _ h => absurd h List.not_mem_nil, fun _ _ => rfl⟩
  | k :: r, s => by
    obtain ⟨hctx, hb, ht, hch, hne, hcut, hkeep⟩ := ringCut_spec c k s
    obtain ⟨ihb, iht, ihch, ihcut, ihkeep⟩ := ringCut_foldl c r (ringCut c s k)
    have hother : ∀ {n}, n ≠ k → (cutBy c (ringCut c s k) n ↔ cutBy c s n) := fun {n} hn => by
      simp only [cutBy, hne n hn, hctx n]
    refine ⟨ihb.trans hb, iht.trans ht, ihch.trans hch, fun n hm hc => ?_, fun n hno => ?_⟩
    · by_cases hk : n = k
      · subst hk
        have hnow : cutBy c (ringCut c s n) n := ⟨by rw [hcut hc]; exact .inr (.inr rfl), (congrArg cCh (hctx n)).trans hc.2⟩
        by_cases hr : n ∈ r
        · rw [List.foldl_cons, ihcut n hr hnow, hcut hc]
        · rw [List.foldl_cons, ihkeep n (fun h => hr h.1), hcut hc]
      · rw [List.foldl_cons, ihcut n ((List.mem_cons.mp hm).resolve_left hk) ((hother hk).mpr hc), hne n hk]
    · by_cases hk : n = k
      · subst hk
        have hnc : ¬ cutBy c s n := fun hc => hno ⟨List.mem_cons_self, hc⟩
        have hnow : ¬ cutBy c (ringCut c s n) n := fun hc => hnc ⟨by rw [← hkeep hnc]; exact hc.1, (congrArg cCh (hctx n)).symm.trans hc.2⟩
        rw [List.foldl_cons, ihkeep n (fun h => hnow h.2), hkeep hnc]
      · rw [List.foldl_cons, ihkeep n (fun h => hno ⟨List.mem_cons_of_mem _ h.1, (hother hk).mp h.2⟩), hne n hk]

/-- A channel at no work is disabled. -/
theorem chanDisable_idle {c : Nat} {s : State} (hc : c < 64) (hw : (s.dma.chan c).work = none) (hlen : s.dma.ch.length = 64) :
    ((chanDisable c s).dma.chan c).disable = true ∧ ((chanDisable c s).dma.chan c).recs = []
      ∧ ((chanDisable c s).dma.chan c).paced = false
      ∧ (∀ n, (chanDisable c s).dma.live n
          = if ((s.dma.live n).state = 1 ∨ (s.dma.live n).state = 2 ∨ (s.dma.live n).state = 4) ∧ cCh (ctxPeek s n) = c
            then { s.dma.live n with state := 4, cause := 3 } else s.dma.live n)
      ∧ (chanDisable c s).ddr.bytes = s.ddr.bytes ∧ (chanDisable c s).tiles = s.tiles := by
  obtain ⟨hb, ht, hch, hcut, hkeep⟩ := ringCut_foldl c (s.dma.rings.map (·.1)) s
  unfold chanDisable
  extract_lets x s1 s2 s3
  have h2 : s2 = s1 := by
    unfold s2 x
    rw [hw]
  have hchan : s3.dma.chan c = { s2.dma.chan c with
      disable := true, paced := false, pacedOn := none, work := none, recs := [], placed := false } := by
    refine chan_updDch_same hc ?_
    rw [h2]
    exact (upd_length _ _ _).trans ((congrArg List.length hch).trans hlen)
  refine ⟨congrArg DmaChan.disable hchan, congrArg DmaChan.recs hchan, congrArg DmaChan.paced hchan, fun n => ?_, ?_, ?_⟩
  · have hlive : s3.dma.live n = ((s.dma.rings.map (·.1)).foldl (ringCut c) s).dma.live n := by
      unfold s3
      rw [h2]
      rfl
    refine Eq.trans hlive ?_
    by_cases hcond : cutBy c s n
    · refine (hcut n (mem_of_sget_ne (d := fun _ => RingLive.reset) (RingLive.ne_reset ?_)) hcond).trans (if_pos hcond).symm
      exact fun h0 => by rcases hcond.1 with h | h | h <;> exact absurd (h0.symm.trans h) (by decide)
    · exact (hkeep n fun h => hcond h.2).trans (if_neg hcond).symm
  · unfold s3
    rw [h2]
    exact hb
  · unfold s3
    rw [h2]
    exact ht

/-! #### The registers of a queue -/

/-- What a host writes of an unmirrored queue is sent to no partner. -/
theorem mirrorCqRegs_unmirrored {s : State} (who : Who) (q : Nat) (h : cqMirrored s = false) :
    (if who = .host then mirrorCqRegs q (s.dma.cqOf q) s else s) = s := by
  split
  · exact if_neg (by rw [h]; exact Bool.false_ne_true)
  · rfl

theorem cqCfgWrite_enable {s : State} (who : Who) {q : Nat} {v : BitVec 32} (hv : v.getLsbD 12 = true) (hoff : (s.dma.cqOf q).en = false)
    (h : cqMirrored s = false) :
    cqCfgWrite who q v s = s.updCq q fun x =>
      if v.getLsbD 13 then { x with cfg := v.setWidth 14 } else { x with cfg := v.setWidth 14, tail := 0, phase := true } := by
  refine (mirrorCqRegs_unmirrored (s := s.updCq q fun x => x.cfgWrite v) who q h).trans ?_
  unfold State.updCq DmaCq.cfgWrite
  dsimp only
  rw [hoff, if_neg Bool.false_ne_true, bit, bit, hv]
  cases v.getLsbD 13 <;> rfl

/-! #### The obligation -/

theorem descriptorsComplete : Claims.DescriptorsComplete := by
  refine ⟨fun c n host ecc err s s1 d slot hfree hwait hnext hcons hslot hsrc hread => ?_,
    fun c n host ecc err s slot hfree hwait hnext hcons hslot hsrc => ?_,
    fun c host ecc err ce ue met s s1 w cause got hm hn hx hsp hwr hf => ?_,
    fun c host ecc err ce ue met s w hm hn hx hsp hlen hin => ?_,
    fun c k host ecc err ce ue met s w hm hn hx hp hh ho hlen => ?_,
    fun c host ecc err ce ue met s s1 w cause bs hm hn hr hsrc hread hf => ?_,
    fun c host ecc err ce ue met s w hm hn hr hsrc => ?_,
    fun c k host ecc err ce ue met s w hm hn hx hp hh => ?_,
    fun c k s hp hg hl => ?_, fun c s w hw hr hn hsp hreach hg hp hf => ?_,
    fun c s w hw hd hq hrec hg hb hrep => ?_, fun c s w hw hd hq hrec hg hb => ?_, fun c s w hw hd hq hrec hg hb h4 hst => ?_⟩
  · change execDescFetch c host ecc err s = _
    subst hslot
    unfold execDescFetch
    rw [if_neg (by rw [hfree]; decide), hwait]
    dsimp only
    rw [hnext]
    dsimp only
    rw [if_neg (by rw [hcons]; decide), if_neg (by rw [hsrc]; decide), hread]
    dsimp only
    by_cases h0 : d.getLsbD 0 = false
    · rw [if_pos (by rw [bit, h0]; rfl), if_pos h0]
    · rw [if_neg (by rw [bit, (Bool.not_eq_false _).mp h0]; decide), if_neg h0]
      by_cases hseq : d.extractLsb' 32 32 = (ctxPeek s n).extractLsb' 128 32
      · rw [if_neg (show ¬ xHseq d ≠ cExp (ctxPeek s n) from not_not.mpr hseq), if_pos hseq]
      · rw [if_pos (show xHseq d ≠ cExp (ctxPeek s n) from hseq), if_neg hseq]
  · change execDescFetch c host ecc err s = _
    subst hslot
    unfold execDescFetch
    rw [if_neg (by rw [hfree]; decide), hwait]
    dsimp only
    rw [hnext]
    dsimp only
    rw [if_neg (by rw [hcons]; decide), if_pos hsrc]
  · refine (dmaUnitTransfer_of_mayMove hm host ecc err ce ue met).trans ?_
    rw [if_pos hn, putWaits_of_noFifo hx, if_neg Bool.false_ne_true]
    unfold putUnit
    rw [hx]
    dsimp only
    rw [if_neg (fun h => ?_), hwr]
    · dsimp only
      rw [keepWork_running hf, DmaWork.gave_eq hx]
    · simp only [Bool.and_eq_true, decide_eq_true_eq] at h
      exact absurd (h.2.symm.trans (hsp h.1)) (by decide)
  · have hrun : exec (.dmaUnitTransfer c host ecc err ce ue met) s
        = .next (sendUnit c (fld (xDst w.desc) 24 4) (xTo w.desc w.elem + w.put) w.nextWrite w (w.funnel.take w.nextWrite) s) := by
      refine (dmaUnitTransfer_of_mayMove hm host ecc err ce ue met).trans ?_
      rw [if_pos hn, putWaits_of_noFifo hx, if_neg Bool.false_ne_true]
      unfold putUnit
      rw [hx]
      dsimp only
      rw [if_pos (by rw [hsp, hin]; rfl)]
    obtain ⟨hc, -, hf, -⟩ := hm
    obtain ⟨hfl, hw, ht, hd, hh, -⟩ := sendUnit_spec (tile := fld (xDst w.desc) 24 4) (byte := xTo w.desc w.elem + w.put)
      (n := w.nextWrite) (w := w) (data := w.funnel.take w.nextWrite) hf hc hlen
    exact ⟨_, hrun, hfl.trans (by rw [fld_eq]), hw, ht, hd, hh⟩
  · have hrun : exec (.dmaUnitTransfer c host ecc err ce ue met) s = .next (fifoUnit c k w.nextWrite w s) := by
      refine (dmaUnitTransfer_of_mayMove hm host ecc err ce ue met).trans ?_
      rw [if_pos hn, hp, if_neg Bool.false_ne_true]
      unfold putUnit
      rw [hx]
    obtain ⟨hc, -, hf, -⟩ := hm
    refine ⟨_, hrun, ?_⟩
    rw [fifoUnit_takes hh ho]
    by_cases hk : k < 128
    · rw [if_pos hk]
      obtain ⟨hfl, hw, ht, hd, -, hfifo⟩ := sendUnit_spec (s := fifoCount k s) (tile := k / 8) (byte := 128 * fifoAt k s)
        (n := w.nextWrite) (w := w) (data := padTo 128 (w.funnel.take w.nextWrite)) hf hc hlen
      exact ⟨(congrArg (fun l => sget (fun _ => DmaFifo.reset) l k) hfifo).trans (fifoOf_fifoCount ho), fun _ => ⟨hfl, hw⟩,
        fun h => absurd hk (Nat.not_lt_of_le h), ht, hd⟩
    · rw [if_neg hk]
      obtain ⟨hdma, ht, hd, hflt, hmem⟩ := dmaHodWrite_frame (fifoAt k s) (padTo 128 (w.funnel.take w.nextWrite)) (fifoCount k s)
      rw [keepWork_running ((congrArg Flt.devFault hflt).trans hf)]
      refine ⟨?_, fun h => absurd h hk, fun _ => ⟨(congrArg Dma.flight hdma :), hmem⟩, fun j => ?_, hd⟩
      · exact (congrArg (fun d => Dma.fifoOf d k) hdma).trans (fifoOf_fifoCount ho)
      · exact congrArg (fun l : List Tile => (l.getD j Tile.reset).ts.bytes) ht
  · refine (dmaUnitTransfer_of_mayMove hm host ecc err ce ue met).trans ?_
    dsimp only
    rw [if_neg (by rw [hn]; decide), if_neg (by rw [hr]; decide), if_neg (by rw [hsrc]; decide), hread]
    dsimp only
    rw [keepWork_running hf]
    rfl
  · refine (dmaUnitTransfer_of_mayMove hm host ecc err ce ue met).trans ?_
    dsimp only
    rw [if_neg (by rw [hn]; decide), if_neg (by rw [hr]; decide), if_pos hsrc]
  · refine (dmaUnitTransfer_of_mayMove hm host ecc err ce ue met).trans ?_
    rw [if_pos hn, hp, if_neg Bool.false_ne_true]
    unfold putUnit
    rw [hx]
    exact congrArg _ (if_pos hh)
  · change execDmaPaceResume c s = _
    unfold execDmaPaceResume
    rw [hp]
    exact if_pos (by rw [decide_eq_true hl, hg]; rfl)
  · change execCompletionTimeout c s = _
    unfold execCompletionTimeout
    rw [hw]
    dsimp only
    rw [if_pos (by rw [hr, hn, hsp, hreach, hg, hp]; rfl), keepWork_running (s := s.toHost (.aer 3)) hf]
  · refine (descComplete_of_done hw hd hq hrec hg).trans ?_
    dsimp only
    rw [if_pos, hb]
    · rfl
    · rcases hrep with h | h <;> simp [bit, h]
  · refine (descComplete_of_done hw hd hq hrec hg).trans ?_
    dsimp only
    have hst : w.status = 2 := if_pos hb
    rw [if_pos (by rw [hst]; simp), hb]
    rfl
  · refine (descComplete_of_done hw hd hq hrec hg).trans ?_
    dsimp only
    exact if_neg (by rw [bit, h4, hst]; decide)

theorem completionQueuesComplete : Claims.CompletionQueuesComplete := by
  refine ⟨fun c held s r rest w hr hg hf hsb hcm hnone htk hen hroom hsp hreach hw h5 => ?_,
    fun c held s r rest hr hg hf hsb hnone hno => ?_, fun who q v s hq hv hen h hcm => ?_, fun who q v s hq h hcm => ?_,
    fun who c s hc h hw hlen hwf => ?_⟩
  · have hrun : exec (.cqRecordWrite c held) s
        = .next (landRecord c r (reserve r (countHeld held s)).1 (reserve r (countHeld held s)).2) := by
      change execCqRecordWrite c held s = _
      unfold execCqRecordWrite
      rw [hr]
      dsimp only
      rw [if_neg (by rw [hg, hf]; decide), if_neg (by rw [hsb]; decide), hnone]
      dsimp only
      rw [if_neg (by rw [hen, hroom]; decide), if_neg (by rw [cqReach, hreach, htk]; simp), if_neg (by rw [hcm]; decide)]
    have hadv : (reserve r (countHeld held s)).2.dma.cqOf r.cq = (s.dma.cqOf r.cq).advance :=
      cqOf_updCq_same (DmaCq.advance_ne_reset hen)
    obtain ⟨h1, h2, h3, h4, h6, h7⟩ := landRecord_host (c := c) (r := r) (h := (reserve r (countHeld held s)).1)
      (s := (reserve r (countHeld held s)).2) (w := w) hcm hw h5 ((congrArg (fun x => aSpace (DmaCq.base x)) hadv).trans hsp)
    refine ⟨_, hrun, h1, h3, ?_, h4.trans ?_, h6, h7⟩
    · exact (congrArg (fun l => sget (fun _ => DmaCq.reset) l r.cq) h2).trans hadv
    · rw [show (reserve r (countHeld held s)).1.cq = r.cq from rfl, hadv]
      rfl
  · change execCqRecordWrite c held s = _
    unfold execCqRecordWrite
    rw [hr]
    dsimp only
    rw [if_neg (by rw [hg, hf]; decide), if_neg (by rw [hsb]; decide), hnone]
    exact if_pos (by rcases hno with h | h <;> rw [h] <;> simp)
  · change execCqEnable who q v s = _
    unfold execCqEnable
    rw [if_pos (by rw [bit, hv, DmaCq.en, bit, hen]; simp [hq])]
    refine regWrite_next h _ ?_
    have hoff : (s.dma.cqOf q).en = false := hen
    rcases came_cases who s with hc | hc <;> rw [hc]
    · exact cqCfgWrite_enable (s := s) who hv hoff hcm
    · exact cqCfgWrite_enable (s := s.linkUse) who hv hoff hcm
  · change execCqHeadWrite who q v s = _
    unfold execCqHeadWrite
    refine regWrite_next_of hq h _ ?_
    rcases came_cases who s with hc | hc <;> rw [hc]
    · exact mirrorCqRegs_unmirrored (s := s.updCq q fun x => { x with head := v.setWidth 16 }) who q hcm
    · exact mirrorCqRegs_unmirrored (s := s.linkUse.updCq q fun x => { x with head := v.setWidth 16 }) who q hcm
  · refine ⟨_, regWrite_next_of hc h _ rfl, ?_⟩
    rw [chCtrlWrite, if_pos (show bit (1 : BitVec 32) 0 = true by decide)]
    rcases came_cases who s with hcame | hcame <;> rw [hcame]
    · exact chanDisable_idle hc hw hlen
    · exact chanDisable_idle (s := s.linkUse) hc hw hlen

/-- Settles O35. -/
theorem descriptorsAndRecordsComplete : Obligations.DescriptorsAndRecordsComplete := ⟨descriptorsComplete, completionQueuesComplete⟩
end Sys2Proof.Machine
end

section
/-! ### Clock sources, the operating point and the gates (R437 to R458) -/
namespace Sys2Proof.Machine

/-! #### Sources -/

theorem Clock.srcState_setSrc (c : Clock) (xtal : Bool) (v : BitVec 2) :
    (c.setSrc xtal v).srcState xtal = v ∧ (c.setSrc xtal v).srcState (!xtal) = c.srcState (!xtal) := by
  cases xtal <;> exact ⟨rfl, rfl⟩

theorem Clock.setSrc_kept (c : Clock) (xtal : Bool) (v : BitVec 2) :
    (c.setSrc xtal v).safeHold = c.safeHold ∧ (c.setSrc xtal v).chosen = c.chosen ∧ (c.setSrc xtal v).activeXtal = c.activeXtal
      ∧ (c.setSrc xtal v).switchCnt = c.switchCnt := by
  cases xtal <;> exact ⟨rfl, rfl, rfl, rfl⟩

/-- A window that its source must be judged by is judged, in normal service or before it. -/
theorem clkWindowEnd_judged {xtal : Bool} {n : Nat} {s : State} (hr : s.sec.resetLow = false) (ht : s.sec.tripped = false)
    (hst : s.clk.srcState xtal = 1) (hsp : s.cal.windowSpoilt.getD (if xtal then 1 else 0) false = false) :
    execClkWindowEnd xtal n s =
      if s.clk.normal then .next (if within 2 n (windowCount xtal) then srcQualified xtal s else s)
      else if xtal then .next s
      else if !within 15 n (windowCount false) then .next (s.updClk fun c => { c with refGood := 0 })
      else if s.clk.refGood = 0 then .next (s.updClk fun c => { c with refGood := 1 })
      else .next (srcQualified false (s.updClk fun c => { c with refGood := 0 })) := by
  unfold execClkWindowEnd
  dsimp only
  rw [if_neg (by rw [hr, ht, hst]; decide), if_neg (by rw [hsp]; exact Bool.false_ne_true), if_pos hst, if_pos hst]

theorem pufRaw_congr {s z : State} (hz : z.sec.pufZeroed = s.sec.pufZeroed) (hq : z.quoin = s.quoin) : pufRaw z = pufRaw s := by
  unfold pufRaw
  rw [hz, hq]

theorem pufRaw_updClk (s : State) (f : Clock → Clock) : pufRaw (s.updClk f) = pufRaw s := pufRaw_congr rfl rfl

/-- A second source that becomes QUALIFIED, no tie, leaves the choice as it is. -/
theorem srcQualified_chosen {xtal : Bool} {s : State} (hc : s.clk.chosen = true)
    (hno : (decide (s.sec.life = .egg) && decide (s.clk.chosenAt = some s.cycle) && !xtal) = false) :
    srcQualified xtal s = { s with clk := s.clk.setSrc xtal 2 } := by
  obtain ⟨hsh, hch, -, -⟩ := s.clk.setSrc_kept xtal 2
  unfold srcQualified State.updClk
  dsimp only
  rw [if_pos (by rw [hc]; rfl), hno, hsh, hch, hc]
  split <;> rfl

/-- The first source that becomes QUALIFIED is taken, and the boot ROM reads the raw PUF. -/
theorem srcQualified_first {xtal : Bool} {s : State} (hc : s.clk.chosen = false) (hs : s.clk.safeHold = false) :
    srcQualified xtal s = { s with
      clk := { s.clk.setSrc xtal 2 with chosen := true, activeXtal := xtal, chosenAt := some s.cycle }
      sec := { s.sec with raw := pufRaw s } } := by
  obtain ⟨hsh, hch, -, -⟩ := s.clk.setSrc_kept xtal 2
  unfold srcQualified State.updClk romStart
  dsimp only
  rw [if_neg (by rw [hc, hs]; exact Bool.false_ne_true), hsh, hch, hc, hs]
  rfl

/-- REFCLK that becomes QUALIFIED in the cycle of EGG in which XTAL was taken is taken instead. -/
theorem srcQualified_tie {s : State} (hc : s.clk.chosen = true) (hs : s.clk.safeHold = false)
    (ht : (decide (s.sec.life = .egg) && decide (s.clk.chosenAt = some s.cycle) && !false) = true) :
    srcQualified false s = { s with clk := { s.clk.setSrc false 2 with activeXtal := false } } := by
  unfold srcQualified State.updClk Clock.setSrc
  dsimp only
  rw [if_pos (by rw [hc]; rfl), ht, hs, hc]
  rfl

/-- The active source is lost with the other one QUALIFIED: the multiplexer changes. -/
theorem srcLost_switches {xtal : Bool} {v : BitVec 2} {s : State} (hc : s.clk.chosen = true) (ha : s.clk.activeXtal = xtal)
    (ho : s.clk.srcState (!xtal) = 2) : srcLost xtal v s = srcSwitch (s.updClk fun c => c.setSrc xtal v) := by
  unfold srcLost
  dsimp only
  rw [if_pos (by rw [hc, ha]; cases xtal <;> rfl)]
  exact if_pos ((s.clk.srcState_setSrc xtal v).2.trans ho)

/-- The active source is lost with no other: SAFE_HOLD. -/
theorem srcLost_holds {xtal : Bool} {v : BitVec 2} {s : State} (hc : s.clk.chosen = true) (ha : s.clk.activeXtal = xtal)
    (ho : s.clk.srcState (!xtal) ≠ 2) : srcLost xtal v s = safeHoldEnter (s.updClk fun c => c.setSrc xtal v) := by
  unfold srcLost
  dsimp only
  rw [if_pos (by rw [hc, ha]; cases xtal <;> rfl)]
  exact if_neg fun h => ho ((s.clk.srcState_setSrc xtal v).2.symm.trans h)

theorem safeHoldEnter_spec (s : State) :
    (safeHoldEnter s).clk.safeHold = true ∧ (safeHoldEnter s).sec.life = .egg ∧ (safeHoldEnter s).tiles = State.reset.tiles
      ∧ (safeHoldEnter s).ddr.bytes = [] ∧ (safeHoldEnter s).ddr.gen = s.ddr.gen + 1 ∧ (safeHoldEnter s).quoin.puf = s.quoin.puf
      ∧ (safeHoldEnter s).pending = s.pending := ⟨rfl, rfl, rfl, rfl, rfl, rfl, rfl⟩

theorem srcSwitch_spec (s : State) :
    (srcSwitch s).clk = { s.clk with activeXtal := !s.clk.activeXtal, holdover := true, switchCnt := satAdd32 s.clk.switchCnt 1 }
      ∧ (srcSwitch s).ic.pend.getLsbD 298 = true ∧ (srcSwitch s).tiles = s.tiles ∧ (srcSwitch s).ddr = s.ddr ∧ (srcSwitch s).te = s.te :=
  ⟨rfl, State.pend_devSource _ (by decide), rfl, rfl, rfl⟩

/-- A write of CLK_SRC_CTRL that keeps XTAL enabled. -/
theorem srcCtrlWrite_on {v : BitVec 32} {s : State} (h1 : v.getLsbD 1 = true) :
    srcCtrlWrite v s =
      if bit v 0 && s.clk.activeXtal && s.clk.chosen && s.clk.refState = 2 then srcSwitch (s.updClk fun c => { c with xtalEn := true })
      else s.updClk fun c => { c with xtalEn := true } := by
  unfold srcCtrlWrite
  simp only [show bit v 1 = true from h1, Bool.not_true, Bool.false_and, Bool.false_eq_true, if_false]
  rfl

theorem clockSourcesComplete : Claims.ClockSourcesComplete := by
  refine ⟨fun xtal n s hr ht hst hsp hn hc hat hhi hlo => ?_, fun n s hr ht hst hg hsp hn hs hhi hlo => ?_,
    fun s hx hn hr ht hc hs => ?_, fun xtal s hst hr ht hc ha => ⟨fun ho => ?_, fun ho => ?_⟩, fun s hx hn hr ht hc => ?_,
    fun s hx hn hr ht ha => ?_, fun xtal s hst hen hr ht => ?_, fun s => rfl, fun st s hs hr ht hq => ?_,
    fun who v s h h0 h1 ha hc hq => ?_, fun who v s h h0 h1 => ?_⟩
  · refine (clkWindowEnd_judged hr ht hst hsp).trans ?_
    rw [if_pos hn, if_pos (by rw [within, decide_eq_true hhi, decide_eq_true hlo]; rfl),
      srcQualified_chosen hc (by rw [decide_eq_false hat, Bool.and_false, Bool.false_and])]
  · refine ⟨srcQualified false (s.updClk fun c => { c with refGood := 0 }), ?_, ?_⟩
    · refine (clkWindowEnd_judged (xtal := false) hr ht hst hsp).trans ?_
      rw [hn, if_neg Bool.false_ne_true, if_neg Bool.false_ne_true, if_neg, if_neg (by rw [hg]; decide)]
      rw [within, decide_eq_true (show 100 * n ≤ (100 + 15) * windowCount false from hhi),
        decide_eq_true (show (100 - 15) * windowCount false ≤ 100 * n from hlo)]
      decide
    · by_cases hc : s.clk.chosen = true
      · by_cases htie : s.sec.life = .egg ∧ s.clk.chosenAt = some s.cycle
        · rw [srcQualified_tie (s := s.updClk fun c => { c with refGood := 0 }) hc hs
            (show (decide (s.sec.life = .egg) && decide (s.clk.chosenAt = some s.cycle) && !false) = true by
              rw [decide_eq_true htie.1, decide_eq_true htie.2]; rfl),
            if_neg (fun h => h.2 htie), if_pos hc]
          exact ⟨rfl, hc, rfl, rfl, rfl, rfl⟩
        · rw [srcQualified_chosen (xtal := false) (s := s.updClk fun c => { c with refGood := 0 }) hc
            (show (decide (s.sec.life = .egg) && decide (s.clk.chosenAt = some s.cycle) && !false) = false by
              simpa using htie),
            if_pos ⟨hc, htie⟩, if_pos hc]
          exact ⟨rfl, hc, rfl, rfl, rfl, rfl⟩
      · rw [srcQualified_first (xtal := false) (s := s.updClk fun c => { c with refGood := 0 }) ((Bool.not_eq_true _).mp hc) hs,
          if_neg (fun h => hc h.1), if_neg hc, pufRaw_updClk]
        generalize pufRaw s = raw
        exact ⟨rfl, rfl, rfl, rfl, rfl, rfl⟩
  · refine ⟨srcQualified true s, congrArg Host.Outcome.next (if_pos (by rw [hx, hn, hr, ht]; rfl)), ?_⟩
    rw [srcQualified_first (xtal := true) hc hs]
    generalize pufRaw s = raw
    exact ⟨rfl, rfl, rfl, rfl, rfl⟩
  · refine ⟨srcLost xtal 3 s, congrArg Host.Outcome.next (if_pos (by rw [hst, hr, ht]; rfl)), ?_⟩
    rw [srcLost_switches hc ha ho]
    obtain ⟨hk, hp, htl, hd, hte⟩ := srcSwitch_spec (s.updClk fun c => c.setSrc xtal 3)
    obtain ⟨-, -, hact, hcnt⟩ := s.clk.setSrc_kept xtal 3
    refine ⟨?_, ?_, ?_, ?_, hp, htl, hd, hte⟩
    · exact (congrArg (Clock.srcState · xtal) hk).trans (s.clk.srcState_setSrc xtal 3).1
    · exact (congrArg Clock.activeXtal hk).trans (congrArg (!·) (hact.trans ha))
    · exact congrArg Clock.holdover hk
    · exact (congrArg Clock.switchCnt hk).trans (congrArg (satAdd32 · 1) hcnt)
  · refine ⟨srcLost xtal 3 s, congrArg Host.Outcome.next (if_pos (by rw [hst, hr, ht]; rfl)), ?_⟩
    rw [srcLost_holds hc ha ho]
    exact safeHoldEnter_spec (s.updClk fun c => c.setSrc xtal 3)
  · exact congrArg Host.Outcome.next ((if_pos (by rw [hx, hn, hr, ht]; rfl)).trans (srcQualified_chosen hc (by rw [Bool.not_true, Bool.and_false])))
  · refine congrArg Host.Outcome.next ((if_pos (by rw [hx, hn, hr, ht]; rfl)).trans ?_)
    exact if_neg (by rw [ha]; simp)
  · refine ⟨_, congrArg Host.Outcome.next (if_pos ?_), (s.clk.srcState_setSrc xtal 1).1, (s.clk.srcState_setSrc xtal 1).2, rfl, ?_⟩
    · rw [hr, ht]
      cases xtal
      · rcases hst with h | h <;> rw [h] <;> rfl
      · rw [hen rfl]
        rcases hst with h | h <;> rw [h] <;> rfl
    · cases xtal <;> rfl
  · refine ⟨_, if_pos ?_, rfl, rfl, rfl, rfl, rfl, rfl, rfl, rfl, rfl⟩
    rw [hs, hr, ht]
    rcases hq with h | h <;> rw [h] <;> simp
  · refine ⟨_, regWrite_next h _ rfl, ?_⟩
    rw [srcCtrlWrite_on h1]
    rcases came_cases who s with hcame | hcame <;> rw [hcame]
    · rw [if_pos (by rw [bit, h0, ha, hc, hq]; rfl)]
      exact ⟨congrArg (!·) ha, rfl, rfl, rfl⟩
    · rw [if_pos (by rw [bit, h0, State.linkUse_clk, ha, hc, hq]; rfl)]
      exact ⟨congrArg (!·) ha, rfl, rfl, rfl⟩
  · refine regWrite_next h _ ?_
    rw [srcCtrlWrite_on h1, if_neg (by rw [bit, h0]; simp)]
    rfl

/-! #### The operating point -/

theorem dvfsNext_busy {s : State} (h : s.clk.dvfs ≠ .idle ∨ s.clk.nextTarget = none) : dvfsNext s = s := by
  unfold dvfsNext
  split
  next hi hn =>
    rcases h with h | h
    · exact absurd hi h
    · rw [h] at hn
      cases hn
  next => rfl

/-- A request that nothing refuses, at a point that stands, for another one. -/
theorem dvfsReqWrite_idle {v : BitVec 32} {s : State} (hf : s.flt.devFault = false) (hm : s.mor.mixed = false)
    (ha : s.clk.avsErr = false) (hi : s.clk.dvfs = .idle) (hne : v.setWidth 2 ≠ s.clk.point)
    (hg : ¬ (v.setWidth 2 = (0 : BitVec 2) ∧ s.sec.grade = 1)) :
    dvfsReqWrite v s = dvfsNext (dvfsBegin (v.setWidth 2) parkStart (s.updClk fun c => { c with dvfsReq := v &&& 0x1FF#32 })) := by
  have hno : ((v.setWidth 2 = (0 : BitVec 2) && s.sec.grade = 1) || s.mor.mixed || s.clk.avsErr) = false := by
    rw [hm, ha, Bool.or_false, Bool.or_false]
    simpa using hg
  unfold dvfsReqWrite dvfsAsk
  rw [if_neg (by rw [hf]; exact Bool.false_ne_true)]
  refine (if_neg (by rw [Bool.not_eq_true]; exact hno)).trans ?_
  rw [show (s.updClk fun c => { c with dvfsReq := v &&& 0x1FF#32 }).clk.dvfs = .idle from hi]
  exact if_neg hne

theorem dvfsBegin_raise {p : BitVec 2} {park : State → State} {s : State} (h : p.toNat < s.clk.point.toNat) :
    dvfsBegin p park s = avsStart (s.updClk fun c => { c with target := p, nextTarget := none }) := if_pos h

theorem dvfsBegin_lower {p : BitVec 2} {park : State → State} {s : State} (h : ¬ p.toNat < s.clk.point.toNat) :
    dvfsBegin p park s = park (s.updClk fun c => { c with target := p, nextTarget := none }) := if_neg h

theorem toNat_setWidth_two (v : BitVec 32) : (v.setWidth 2).toNat = v.toNat % 4 := BitVec.toNat_setWidth ..

/-- A raise begins with its voltage. -/
theorem dvfsReqWrite_raise {v : BitVec 32} {s : State} (hf : s.flt.devFault = false) (hm : s.mor.mixed = false)
    (ha : s.clk.avsErr = false) (hi : s.clk.dvfs = .idle) (hlt : v.toNat % 4 < s.clk.point.toNat)
    (hg : ¬ (v.toNat % 4 = 0 ∧ s.sec.grade = 1)) :
    dvfsReqWrite v s = { s with
      clk := { s.clk with
        dvfsReq := v &&& 0x1FF#32, target := v.setWidth 2, nextTarget := none, dvfs := .avs, dvfsFrom := s.te.time
        avsMv := s.clk.opp.getD (v.toNat % 4) 0 } } := by
  have hw := toNat_setWidth_two v
  rw [dvfsReqWrite_idle hf hm ha hi (fun he => by rw [← he, hw] at hlt; exact absurd hlt (Nat.lt_irrefl _))
    (fun h => hg ⟨hw.symm.trans (congrArg BitVec.toNat h.1), h.2⟩), dvfsBegin_raise (by rw [hw]; exact hlt), ← hw]
  exact dvfsNext_busy (.inr rfl)

/-- A lower begins with the parking of the tiles, some of which are not fenced. -/
theorem dvfsReqWrite_lower {v : BitVec 32} {s : State} (hf : s.flt.devFault = false) (hm : s.mor.mixed = false)
    (ha : s.clk.avsErr = false) (hi : s.clk.dvfs = .idle) (hlt : s.clk.point.toNat < v.toNat % 4)
    (hfe : s.mor.fenced ≠ BitVec.allOnes 16) :
    dvfsReqWrite v s = { s with
      clk := { s.clk with
        dvfsReq := v &&& 0x1FF#32, target := v.setWidth 2, nextTarget := none, dvfs := .park, dvfsFrom := s.te.time
        parkPending := ~~~s.mor.fenced } } := by
  have hw := toNat_setWidth_two v
  have hpend : ~~~s.mor.fenced ≠ 0 := fun h => hfe (by rw [← BitVec.not_not (b := s.mor.fenced), h]; rfl)
  rw [dvfsReqWrite_idle hf hm ha hi (fun he => by rw [← he, hw] at hlt; exact absurd hlt (Nat.lt_irrefl _))
    (fun h => by rw [← hw, h.1] at hlt; exact absurd hlt (Nat.not_lt_zero _)),
    dvfsBegin_lower (by rw [hw]; exact Nat.not_lt_of_lt hlt)]
  unfold parkStart parkCheck
  rw [if_neg (fun h => ?_)]
  · exact dvfsNext_busy (.inr rfl)
  · rw [Bool.and_eq_true, decide_eq_true_iff, decide_eq_true_iff] at h
    exact hpend h.2

/-- A block asked for runs at once, and an ungated channel's tasks are due. -/
theorem clkEnSetWrite_eq (v : BitVec 32) (s : State) :
    clkEnSetWrite v s =
      (List.range 8).foldl (fun z c => if (s.clk.gate ||| (v.setWidth 29 &&& ~~~Claims.clrNow s.clk.enC s)).getLsbD (18 + c)
          && !s.clk.gate.getLsbD (18 + c) then calDueNow c z else z)
        { s with
          clk := { s.clk with
            en := s.clk.en ||| (v.setWidth 29 &&& ~~~Claims.clrNow s.clk.enC s)
            gate := s.clk.gate ||| (v.setWidth 29 &&& ~~~Claims.clrNow s.clk.enC s) } } := by
  rw [← SameCycle.setBits_eq, ← SameCycle.setBits_eq]
  rfl

theorem clkEnClr_eq (v : BitVec 32) (s : State) :
    s.updClk (clkEnClr s.cycle v) = { s with
      clk := { s.clk with
        en := s.clk.en &&& ~~~(v.setWidth 29 &&& ~~~Claims.occNow s.clk.enC s)
        enC := ⟨s.cycle, Claims.clrNow s.clk.enC s ||| v.setWidth 29, Claims.occNow s.clk.enC s⟩ } } := by
  rw [← SameCycle.clrBits_eq]
  unfold State.updClk clkEnClr SameCycle.cleared SameCycle.now Claims.clrNow Claims.occNow
  by_cases hc : s.clk.enC.at_ = s.cycle
  · simp only [if_pos hc]
    rw [hc]
  · simp only [if_neg hc]

theorem operatingPointComplete : Claims.OperatingPointComplete := by
  refine ⟨fun who v s h hf hm ha hi hlt hg => ?_, fun who v s h hf hm ha hi hlt hfe => ?_, fun s hd => ?_,
    fun s hd ht hp hn hb => ?_, fun s hd ht => ?_, fun t j s hd ht hp hfree hj hjt hpj hlen => ?_, fun s hd hne => ?_,
    fun who v s h => ⟨?_, ?_⟩, fun k s hk hen hg hb => ?_, fun k s hb => ?_, fun who v s h => ?_⟩
  · refine regWrite_next h _ ?_
    rcases came_cases who s with hc | hc <;> rw [hc]
    · exact dvfsReqWrite_raise hf hm ha hi hlt hg
    · exact dvfsReqWrite_raise (s := s.linkUse) hf hm ha hi hlt hg
  · refine regWrite_next h _ ?_
    rcases came_cases who s with hc | hc <;> rw [hc]
    · exact dvfsReqWrite_lower hf hm ha hi hlt hfe
    · exact dvfsReqWrite_lower (s := s.linkUse) hf hm ha hi hlt hfe
  · exact congrArg Host.Outcome.next (if_pos hd)
  · refine (if_pos (by rw [hd, decide_eq_true (show s.te.time ≥ s.clk.dvfsFrom + 1000 * s.clk.avsSettle.toNat from ht)]; rfl)).trans ?_
    rw [if_neg (Nat.not_lt_of_le hp), dvfsEnd]
    dsimp only
    rw [if_neg (by rw [bit, hb]; exact Bool.false_ne_true)]
    exact congrArg Host.Outcome.next (dvfsNext_busy (.inr hn))
  · refine ⟨_, if_pos ?_, rfl, rfl, rfl, rfl, State.pend_devSource _ (by decide), rfl⟩
    rw [hd, decide_eq_true (show s.te.time ≥ s.clk.dvfsFrom + 1000000 from ht)]
    rfl
  · have hrun : exec (.tilePark t) s = .next ((s.updSt t fun x => { x with parked := true }).updClk fun c =>
        { c with parkPending := setBit c.parkPending t false }) := by
      refine (if_pos (by rw [hd, decide_eq_true ht, bit, hp, hfree]; rfl)).trans ?_
      unfold parkCheck
      rw [if_neg (fun h => ?_), dvfsNext_busy (.inl (by rw [show (State.updClk _ _).clk.dvfs = s.clk.dvfs from rfl, hd]; decide))]
      rw [Bool.and_eq_true, decide_eq_true_iff, decide_eq_true_iff] at h
      have hbit : (setBit s.clk.parkPending t false).getLsbD j = true := by
        rw [getLsbD_setBit, if_neg hjt, hpj, decide_eq_true hj]
        rfl
      rw [show setBit s.clk.parkPending t false = 0 from h.2] at hbit
      simp at hbit
    refine ⟨_, hrun, ?_, rfl, fun k hk => State.tile_updTile_ne _ _ _ _ hk⟩
    exact congrArg (fun x : Tile => x.st.parked) (State.tile_updTile_same s t _ (by rw [hlen]; exact ht))
  · refine (if_pos hd).trans ?_
    exact congrArg Host.Outcome.next (if_neg hne)
  · refine regWrite_next h _ ?_
    rcases came_cases who s with hc | hc <;> rw [hc]
    · exact clkEnSetWrite_eq v s
    · exact clkEnSetWrite_eq v s.linkUse
  · refine regWrite_next h _ ?_
    rcases came_cases who s with hc | hc <;> rw [hc]
    · exact clkEnClr_eq v s
    · exact clkEnClr_eq v s.linkUse
  · refine (if_pos (by rw [decide_eq_true hk, bit, hen, bit, hg, hb]; rfl)).trans ?_
    by_cases hr : 18 ≤ k ∧ k ≤ 25
    · rw [if_pos (by rw [decide_eq_true hr.1, decide_eq_true hr.2]; rfl)]
      exact congrArg Host.Outcome.next (if_pos hr).symm
    · rw [if_neg (by rw [Bool.and_eq_true, decide_eq_true_iff, decide_eq_true_iff]; exact hr)]
      exact congrArg Host.Outcome.next (if_neg hr).symm
  · exact if_neg (by rw [hb]; simp)
  · exact regWrite_next h _ rfl

/-- Settles O41. -/
theorem clocksAndPowerComplete : Obligations.ClocksAndPowerComplete := ⟨clockSourcesComplete, operatingPointComplete⟩
end Sys2Proof.Machine
end

section
/-! ### An integer instruction that waits as the second of a pair (R56, R120, R140) -/
namespace Sys2Proof.Machine

/-- ADD of the word of tile store at g2 and of g3 into g1, on tile 0. -/
def tileAdd : SeqOps := ⟨0, 5#3 ++ 1#16, 2#3 ++ 2#4 ++ 0#12, 5#3 ++ 3#16, 0, 0⟩

/-- A running device whose tile 0 stands at `tileAdd`, the second of a pair of which the first writes f0; a command holds the course that
it reads. -/
def waitingPairState : State :=
  { State.reset with
    clk := { State.reset.clk with gate := 1, safeHold := false }
    sec := { State.reset.sec with resetLow := false, tripped := false }
    tiles := upd State.reset.tiles 0 fun x => { x with
      ts := { x.ts with sb := [some { start := 0, length := 1, write := true, engine := 0, urgent := false, users := [] }] }
      seq := { x.seq with
        halted := false
        pc := 0x1008
        fetch := [⟨0x1008, encodeSeq 0x08 tileAdd.a tileAdd.b tileAdd.c, false, false, false⟩]
        gShared := List.replicate 7 ⟨tagTaddr, 0⟩
        group := some ⟨0x1000, [], [(0, 1)], none, [], 0, none, none, 0, false⟩ } } }

theorem waitingPairState_ready : Claims.Ready 0x08 tileAdd waitingPairState (waitingPairState.beginSeq 0) :=
  ⟨by decide, rfl, _, _, rfl, by decide, by decide, by decide⟩

theorem waitingPairState_placed :
    Claims.Placed kDst kSrc kSrc tileAdd (waitingPairState.beginSeq 0) ⟨0, .g 1, .mem .tile 2 0, .g 3⟩ :=
  ⟨rfl, some (.g 1), some (.mem 2 2 0), some (.g 3), by decide, by decide, by decide, by decide, by decide, by decide⟩

theorem loadOpd_waitingPairState : loadOpd 0 1 (.mem .tile 2 0) (waitingPairState.beginSeq 0) = .wait := rfl

/-- The instruction waits and nothing of its pair is performed. -/
theorem exec_waitingPairState : exec (.add tileAdd) waitingPairState = .next (finishSeq 0 0 0 waitingPairState .wait) := by
  refine (issueSeq_of_ready waitingPairState_ready _).trans ?_
  refine congrArg (fun r => Host.Outcome.next (finishSeq 0 0 0 waitingPairState r)) ?_
  refine (withArgs_of_placed waitingPairState_placed _).trans ?_
  rw [intOp2, dataOp, loadOpd_waitingPairState]
  rfl

/-- Refutes O60: an instruction that waits as the second of a pair leaves the first's writes unmade, f0 here, and the statement compares
with the state in which they are made. -/
theorem not_integerFrames : ¬ Obligations.IntegerFrames := by
  unfold Obligations.IntegerFrames
  intro h
  obtain ⟨-, -, hf, -⟩ := h _ (List.mem_cons_self ..) tileAdd waitingPairState _ _ _ (by decide) waitingPairState_ready waitingPairState_placed
    (by decide) (fun _ _ _ he => by cases he) (fun _ he => by cases he) exec_waitingPairState
  exact absurd hf (by decide)

end Sys2Proof.Machine
end

section
/-! The boot objects' sections on their way to their destinations, and the boot errors that stop LARVA (R497 to R501). -/

namespace Sys2Proof.Machine

/-! ### What writing a section may change -/

/-- The state without what the writing of sections to their destinations changes (R498). -/
def State.unwritten (s : State) : State :=
  { s with
    tiles := []
    ddr := Ddr.reset
    cal := { s.cal with intrudeCnt := 0 }
    clk := { s.clk with gatedAccess := 0 }
    freeCnt := 0
    quoin := { s.quoin with ram := [] }
    sec := { s.sec with decodeSect := none } }

/-- `z` is `s` with sections written to their destinations. -/
def Written (s z : State) : Prop := z.unwritten = s.unwritten

theorem Written.refl (s : State) : Written s s := rfl

theorem Written.ite {s a b : State} {c : Prop} [Decidable c] (ha : Written s a) (hb : Written s b) : Written s (if c then a else b) := by
  split
  · exact ha
  · exact hb

theorem Written.foldl {α : Type} {g : State → α → State} {s z : State} {l : List α} (h : Written s z)
    (hg : ∀ y x, x ∈ l → Written s y → Written s (g y x)) : Written s (l.foldl g z) := by
  induction l generalizing z with
  | nil => exact h
  | cons x l ih => exact ih (hg z x (List.mem_cons_self ..) h) fun y e he => hg y e (List.mem_cons_of_mem _ he)

/-- The fields that sections reach, and that every other stays. -/
theorem Written.eq {s z : State} (h : Written s z) : z = { s with
    tiles := z.tiles
    ddr := z.ddr
    cal := z.cal
    clk := z.clk
    freeCnt := z.freeCnt
    quoin := { s.quoin with ram := z.quoin.ram }
    sec := { s.sec with decodeSect := z.sec.decodeSect } } :=
  congrArg (fun y : State => { y with
    tiles := z.tiles
    ddr := z.ddr
    cal := z.cal
    clk := z.clk
    freeCnt := z.freeCnt
    quoin := { y.quoin with ram := z.quoin.ram }
    sec := { y.sec with decodeSect := z.sec.decodeSect } }) h

theorem Written.ddrRequest {s z : State} (h : Written s z) (l : Nat) (k : DdrKind) (cls : Nat) : Written s (z.ddrRequest l k cls) := by
  refine Eq.trans ?_ h
  simp only [State.ddrRequest]
  split
  · rfl
  · rfl

theorem Written.ddrWriteLines {s : State} : ∀ {fuel a : Nat} {bs : List (BitVec 8)} {z : State}, Written s z →
    Written s (State.ddrWriteLines none fuel a bs z)
  | 0, _, _, _, h => h
  | _ + 1, _, _, _, h => .ite h (Written.ddrWriteLines (.ite h (.ite h (h.ddrRequest ..))))

theorem maskTiles_lt {d : BitVec 64} {t : Nat} (ht : t ∈ maskTiles d) : t < 16 :=
  List.mem_range.1 (List.mem_filter.1 ht).1

theorem Written.putBytes {s z : State} (h : Written s z) (e : BitVec 256) (bs : List (BitVec 8)) : Written s (putBytes e bs z) := by
  unfold Machine.putBytes
  split
  · exact h
  · exact h
  · refine h.foldl fun y t ht hy => ?_
    have hne : t ≠ quoinCore := Nat.ne_of_lt (maskTiles_lt ht)
    rw [State.updCore, if_neg hne]
    exact hy
  · exact h.foldl fun y t _ hy => hy
  · exact h.foldl fun y t _ hy => hy
  · exact h.ddrWriteLines
  · exact h

theorem Written.spoil {s z : State} (h : Written s z) (l : List (BitVec 256)) : Written s (l.foldl spoilSection z) :=
  h.foldl fun y e _ hy => by
    have hdraw : Written s (y.draw (8 * sectSize e)).2 := hy
    exact hdraw.putBytes ..

/-! ### Boot errors -/

/-- A boot error is the failure that the statements name. -/
theorem bootError_failed (code image : Nat) (s : State) : Claims.Failed code image s (bootError code image s) :=
  ⟨s.sec.sects.foldl spoilSection s, fun h => by rw [h]; rfl, (Written.refl s).spoil _ |>.eq, rfl⟩

/-- Of the security state a boot error changes what shows it, the sections and the console. -/
theorem bootError_sec (code image : Nat) (s : State) : ∃ d e lines bits since,
    (bootError code image s).sec = { s.sec with
      decodeSect := d
      sects := []
      bootFail := true
      bootCode := BitVec.ofNat 8 code
      bootImage := BitVec.ofNat 3 image
      bootValid := true
      now := e
      console := lines
      uart := bits
      uartAt := since } := by
  have h := ((Written.refl s).spoil s.sec.sects).eq
  unfold bootError
  generalize s.sec.sects.foldl spoilSection s = z at h
  rw [h]
  exact ⟨_, _, _, _, _, rfl⟩

end Sys2Proof.Machine
end

section
/-! What an accepted image leaves (R497 to R499), and the DEVCFG record that turns the crystal off. -/

namespace Sys2Proof.Machine

/-! ### The crystal in DEVCFG -/

/-- XTAL_EN of a DEVCFG record (R499). -/
def xtalEnOf (r : List (BitVec 8)) : Bool := bit (2 * BitVec.ofNat 32 (objNat r 0x24 4)) 1

/-- Every DEVCFG record of the object keeps the crystal on. -/
def KeepsCrystal (b : List (BitVec 8)) : Prop := ∀ e ∈ imgEntries b, sectType e = 1 → xtalEnOf (sectBytes b e) = true

/-- No image that passes every check turns the crystal off. -/
def SignedKeepCrystal : Prop := ∀ (s : State) (b : List (BitVec 8)), imageFault s 0 b = none → KeepsCrystal b

/-- An image without a fault has passed its own checks. -/
theorem imageForm_of_noFault {s : State} {i : Nat} {b : List (BitVec 8)} (h : imageFault s i b = none) : imageForm s i b = true := by
  unfold imageFault at h
  by_contra hf
  rw [if_pos (by simpa using hf)] at h
  cases h

/-- Only image 0 may hold a DEVCFG section (R498). -/
theorem keepsCrystal_later {s : State} {i : Nat} {b : List (BitVec 8)} (h : imageFault s i b = none) (hi : i ≠ 0) : KeepsCrystal b := by
  intro e he ht
  have hform := imageForm_of_noFault h
  simp only [imageForm, Bool.and_eq_true] at hform
  obtain ⟨⟨-, hfits⟩, -⟩ := hform
  have hfit := List.all_eq_true.1 hfits e he
  simp [sectFits, ht, hi] at hfit

theorem SignedKeepCrystal.image (h : SignedKeepCrystal) {s : State} {i : Nat} {b : List (BitVec 8)} (hf : imageFault s i b = none) :
    KeepsCrystal b := by
  by_cases hi : i = 0
  · subst hi
    exact h s b hf
  · exact keepsCrystal_later hf hi

/-! ### The security state after the sections -/

/-- The security state without what the sections of an image set. -/
def Sec.unset (c : Sec) : Sec :=
  { c with
    decodeSect := none
    runPoint := 0
    trainFrom := 0 }

theorem Written.unset {s z : State} (h : Written s z) : z.sec.unset = s.sec.unset := by
  have hsec := congrArg (fun y : State => y.sec.unset) (show z.unwritten = s.unwritten from h)
  exact hsec

/-- A record that keeps the crystal on sets RUN_POINT and the start of training. -/
theorem devcfgApply_unset {r : List (BitVec 8)} (s : State) (h : xtalEnOf r = true) : (devcfgApply r s).sec.unset = s.sec.unset := by
  have hsrc : (srcCtrlWrite (2 * BitVec.ofNat 32 (objNat r 0x24 4)) s).sec = s.sec := by
    rw [srcCtrlWrite_on h]
    split
    · rfl
    · rfl
  have hset : (devcfgApply r s).sec.unset = (srcCtrlWrite (2 * BitVec.ofNat 32 (objNat r 0x24 4)) s).sec.unset := rfl
  rw [hset, hsrc]

theorem putSection_unset {b : List (BitVec 8)} {e : BitVec 256} (s : State) (h : sectType e = 1 → xtalEnOf (sectBytes b e) = true) :
    (putSection b s e).sec.unset = s.sec.unset := by
  unfold putSection
  split
  next ht => exact devcfgApply_unset s (h ht)
  next => exact ((Written.refl s).putBytes ..).unset

theorem putSections_unset {b : List (BitVec 8)} {l : List (BitVec 256)} (s : State)
    (h : ∀ e ∈ l, sectType e = 1 → xtalEnOf (sectBytes b e) = true) : (l.foldl (putSection b) s).sec.unset = s.sec.unset := by
  induction l generalizing s with
  | nil => rfl
  | cons e l ih =>
    exact (ih _ fun x hx => h x (List.mem_cons_of_mem _ hx)).trans (putSection_unset s (h e (List.mem_cons_self ..)))

/-- The security state without the console. -/
def Sec.silent (c : Sec) : Sec :=
  { c with
    console := []
    uart := []
    uartAt := 0 }

theorem loadDone_silent (s : State) : (loadDone s).sec.silent = s.sec.silent := by
  unfold loadDone
  split
  · rfl
  · rfl

/-- What follows an image that is accepted: the console's line, and the end of item 7 with the last image. -/
theorem judgeImage_accepted {s : State} {i : Nat} {b : List (BitVec 8)} (h : imageFault s i b = none) :
    (judgeImage i b s).1 = none ∧ (judgeImage i b s).2.sec.silent = (imageAccept i b s).sec.silent := by
  unfold judgeImage
  rw [h]
  refine ⟨rfl, ?_⟩
  dsimp only
  split
  · rfl
  · exact loadDone_silent _

theorem judgeImage_failed {s : State} {i : Nat} {b : List (BitVec 8)} {code : Nat} {sig : Bool}
    (h : imageFault s i b = some (.fail code sig)) :
    judgeImage i b s = (some (.fail code sig), bootError code (if code = 4 ∨ code = 5 then i else 0) (imageStreamed i b s)) := by
  unfold judgeImage
  rw [h]
  simp only [Bool.or_eq_true, decide_eq_true_eq]

/-- What an image that keeps the crystal on leaves of the security state, once accepted. -/
theorem judgeImage_kept {s : State} {i : Nat} {b : List (BitVec 8)} (h : imageFault s i b = none) (hk : KeepsCrystal b) :
    (judgeImage i b s).2.sec.images = i + 1 ∧ (judgeImage i b s).2.sec.objects = s.sec.objects + 1
      ∧ (judgeImage i b s).2.sec.bootFail = s.sec.bootFail ∧ (judgeImage i b s).2.sec.mbBuf = s.sec.mbBuf
      ∧ (judgeImage i b s).2.sec.mbRejected = s.sec.mbRejected := by
  obtain ⟨-, hsilent⟩ := judgeImage_accepted h
  have hput := putSections_unset s hk
  refine ⟨?_, ?_, ?_, ?_, ?_⟩
  · exact congrArg Sec.images hsilent
  · exact (congrArg Sec.objects hsilent).trans (congrArg (fun c : Sec => c.objects + 1) hput :)
  · exact (congrArg Sec.bootFail hsilent).trans (congrArg (fun c : Sec => c.bootFail) hput :)
  · exact (congrArg Sec.mbBuf hsilent).trans (congrArg (fun c : Sec => c.mbBuf) hput :)
  · exact (congrArg Sec.mbRejected hsilent).trans (congrArg (fun c : Sec => c.mbRejected) hput :)

theorem judgeCert_eq (b : List (BitVec 8)) (s : State) :
    judgeCert b s = if certForm b then if certSig b then (none, itemBegin 4 (itemEnd 3 (certAccept b s)))
      else (some (.fail 3 true), bootError 3 0 s) else (some (.fail 3 false), bootError 3 0 s) := by
  unfold judgeCert certFault
  cases certForm b with
  | false => rfl
  | true =>
    cases certSig b with
    | false => rfl
    | true => rfl

end Sys2Proof.Machine
end

section
/-! The items of LARVA (R489, R491 to R493, R496 to R503, R515). -/

namespace Sys2Proof.Machine

/-! ### LARVA_START -/

theorem dirForm_iff (d : BitVec 512) (mailbox : Bool) : dirForm d mailbox = true ↔
    fld d 0 32 = 0x5A564430 ∧ fld d 96 32 % 4096 = 0 ∧ (mailbox = true ∨ 1 ≤ fld d 32 8 ∧ fld d 32 8 ≤ 8) := by
  simp [dirForm, Nat.one_le_iff_ne_zero, and_assoc]

theorem larvaStart_completes (s : State) (ha : s.alive = true) (hl : s.sec.life = .egg) (hc : s.clk.chosen = true) :
    (∃ t, exec (.larvaStart false) s = .next t ∧ Claims.Failed 2 0 { s with sec := { s.sec with life := .larva } } t)
    ∧ ∀ d : BitVec 512, d = BitVec.ofNat 512 (packBytes (flashBytes s 0 64)) →
      if fld d 0 32 = 0x5A564430 ∧ fld d 96 32 % 4096 = 0 ∧ (mailboxBoot s = true ∨ 1 ≤ fld d 32 8 ∧ fld d 32 8 ≤ 8) then
        exec (.larvaStart true) s = .next (conLine (.itemBegin 1) { s with
          sec := { s.sec with life := .larva, dir := d, dirImages := fld d 32 8 } })
      else ∃ t, exec (.larvaStart true) s = .next t ∧ Claims.Failed 2 0 { s with sec := { s.sec with life := .larva } } t := by
  have hstart (readOk : Bool) (d : BitVec 512) (hd : d = BitVec.ofNat 512 (packBytes (flashBytes s 0 64))) :
      exec (.larvaStart readOk) s =
        if !readOk || !dirForm d (mailboxBoot s) then .next (bootError 2 0 { s with sec := { s.sec with life := .larva } })
        else .next (itemBegin 1 { s with sec := { s.sec with life := .larva, dir := d, dirImages := fld d 32 8 } }) := by
    rw [hd]
    exact if_neg (by simp [ha, hl, hc])
  refine ⟨⟨_, hstart false _ rfl, bootError_failed ..⟩, fun d hd => ?_⟩
  have hrun := hstart true d hd
  by_cases hform : dirForm d (mailboxBoot s) = true
  · rw [if_pos ((dirForm_iff _ _).1 hform)]
    exact hrun.trans (if_neg (by rw [hform]; decide))
  · rw [if_neg fun h => hform ((dirForm_iff _ _).2 h)]
    exact ⟨_, hrun.trans (if_pos (by rw [Bool.eq_false_iff.2 hform]; rfl)), bootError_failed ..⟩

/-! ### Lock of the PLLs and the identity -/

/-- The head of the chain takes address 0; only the chain changes. -/
theorem chainBegin_spec (s : State) : (∃ c, chainBegin s = { s with chain := c })
    ∧ (s.chain.head = true → (chainBegin s).chain.assigned = true ∧ (chainBegin s).chain.addr = 0) := by
  unfold chainBegin sendAssign chainPush
  generalize mkFrame 1 0 0 true 0 0 1 = f
  split
  · exact ⟨⟨_, rfl⟩, fun _ => ⟨rfl, rfl⟩⟩
  next h => exact ⟨⟨_, rfl⟩, fun hh => absurd hh h⟩

/-- Items 1, 3 and 6 as the lock of the PLLs leaves them, before the identity (R492). -/
def pllsLocked (s : State) : State :=
  chainBegin (itemBegin 6 (itemBegin 3 (itemBegin 2 (itemEnd 1 { s with
    sec := { s.sec with item1 := true }
    te := { s.te with running := true }
    clk := { s.clk with pll := 0x1F } }))))

theorem pllsLocked_spec (s : State) : ∃ c lines bits since, pllsLocked s = { s with
    chain := c
    sec := { s.sec with item1 := true, console := lines, uart := bits, uartAt := since }
    te := { s.te with running := true }
    clk := { s.clk with pll := 0x1F } } ∧ (s.chain.head = true → c.assigned = true ∧ c.addr = 0) := by
  obtain ⟨⟨c, hc⟩, hhead⟩ := chainBegin_spec (itemBegin 6 (itemBegin 3 (itemBegin 2 (itemEnd 1 { s with
    sec := { s.sec with item1 := true }
    te := { s.te with running := true }
    clk := { s.clk with pll := 0x1F } }))))
  rw [hc] at hhead
  exact ⟨c, _, _, _, hc, hhead⟩

theorem helperMissing_iff (readOk : Bool) (n : Nat) :
    (!readOk || decide (n ≠ helperMagic)) = true ↔ readOk = false ∨ n ≠ 0x5A564833 := by
  rw [Bool.or_eq_true, Bool.not_eq_true', decide_eq_true_iff]
  rfl

/-- The identity where the flash gives no helper record (R503). -/
theorem identify_unread {readOk : Bool} {s : State} (h : readOk = false ∨ objNat (flashHelper s) 0 4 ≠ 0x5A564833) :
    identify readOk s = { s with
      sec := { s.sec with pufZeroed := true, item2 := true, idState := 1, chal := Config.sha3 s.sec.raw } } :=
  if_pos ((helperMissing_iff ..).2 h)

/-- The identity where the helper record stands, the key judged by its digest (R503, R504). -/
theorem identify_read {readOk : Bool} {s : State} (h : ¬ (readOk = false ∨ objNat (flashHelper s) 0 4 ≠ 0x5A564833)) {key : BitVec 256}
    (hk : key = Config.reconstruct s.sec.raw (((flashHelper s).drop 64).take 3072)) :
    identify readOk s =
      if Config.sha3 (unpackBytes 32 key.toNat) = BitVec.ofNat 256 (objNat (flashHelper s) 3136 32) then
        enrolled key { s with sec := { s.sec with pufZeroed := true, item2 := true } }
      else { s with sec := { s.sec with pufZeroed := true, item2 := true, idState := 2, chal := Config.sha3 s.sec.raw } } := by
  unfold identify
  dsimp only
  rw [← hk]
  exact if_neg fun hm => h ((helperMissing_iff ..).1 hm)

/-- Of the security state, the identity, and of the rest nothing. -/
theorem identify_eq (readOk : Bool) (s : State) : ∃ id key pub chal, identify readOk s = { s with
    sec := { s.sec with pufZeroed := true, item2 := true, idState := id, pufKey := key, pubKey := pub, chal := chal } } := by
  by_cases h : readOk = false ∨ objNat (flashHelper s) 0 4 ≠ 0x5A564833
  · exact ⟨_, _, _, _, identify_unread h⟩
  · rw [identify_read h rfl]
    split
    · exact ⟨_, _, _, _, rfl⟩
    · exact ⟨_, _, _, _, rfl⟩

/-- The identity by the helper record and the raw PUF (R503, R504). -/
theorem identify_judges (readOk : Bool) (s : State) {h : List (BitVec 8)} {key : BitVec 256} (hh : h = flashHelper s)
    (hk : key = Config.reconstruct s.sec.raw ((h.drop 64).take 3072)) :
    if readOk = false ∨ objNat h 0 4 ≠ 0x5A564833 then
      (identify readOk s).sec.idState = 1 ∧ (identify readOk s).sec.chal = Config.sha3 s.sec.raw
    else if Config.sha3 (unpackBytes 32 key.toNat) = BitVec.ofNat 256 (objNat h 3136 32) then
      (identify readOk s).sec.idState = 0 ∧ (identify readOk s).sec.pufKey = some key
        ∧ (identify readOk s).sec.pubKey = some (Config.devicePublic (Config.sha3 (1 :: unpackBytes 32 key.toNat)))
    else (identify readOk s).sec.idState = 2 ∧ (identify readOk s).sec.chal = Config.sha3 s.sec.raw := by
  rw [hh] at hk
  rw [hh]
  by_cases hmiss : readOk = false ∨ objNat (flashHelper s) 0 4 ≠ 0x5A564833
  · rw [if_pos hmiss, identify_unread hmiss]
    exact ⟨rfl, rfl⟩
  · rw [if_neg hmiss, identify_read hmiss hk]
    by_cases hkey : Config.sha3 (unpackBytes 32 key.toNat) = BitVec.ofNat 256 (objNat (flashHelper s) 3136 32)
    · rw [if_pos hkey, if_pos hkey]
      exact ⟨rfl, rfl, rfl⟩
    · rw [if_neg hkey, if_neg hkey]
      exact ⟨rfl, rfl⟩

theorem pllLock_completes (s : State) (hon : larvaOn s = true) (h1 : s.sec.item1 = false) :
    (∃ t, exec .pllLockTimeout s = .next t ∧ Claims.Failed 1 0 s t)
    ∧ ∀ readOk, ∃ t, exec (.pllLockDone readOk) s = .next t ∧ t.sec.item1 = true ∧ t.sec.item2 = true ∧ t.te.running = true
      ∧ t.clk.pll = 0x1F ∧ t.sec.pufZeroed = true ∧ (s.chain.head = true → t.chain.assigned = true ∧ t.chain.addr = 0)
      ∧ t.tiles = s.tiles ∧ t.ddr = s.ddr
      ∧ ∀ h key, h = flashBytes s (fld s.sec.dir 96 32) 3200 → key = Config.reconstruct s.sec.raw ((h.drop 64).take 3072) →
          if readOk = false ∨ objNat h 0 4 ≠ 0x5A564833 then t.sec.idState = 1 ∧ t.sec.chal = Config.sha3 s.sec.raw
          else if Config.sha3 (unpackBytes 32 key.toNat) = BitVec.ofNat 256 (objNat h 3136 32) then
            t.sec.idState = 0 ∧ t.sec.pufKey = some key ∧ t.sec.pubKey = some (Config.devicePublic (Config.sha3 (1 :: unpackBytes 32 key.toNat)))
          else t.sec.idState = 2 ∧ t.sec.chal = Config.sha3 s.sec.raw := by
  refine ⟨⟨bootError 1 0 s, congrArg _ (if_pos (by simp [hon, h1])), bootError_failed ..⟩, fun readOk => ?_⟩
  have hdone : exec (.pllLockDone readOk) s = .next (itemEnd 2 (identify readOk (pllsLocked s))) := if_neg (by simp [hon, h1])
  obtain ⟨c, lines, bits, since, hlock, hhead⟩ := pllsLocked_spec s
  have hhelper : flashHelper (pllsLocked s) = flashBytes s (fld s.sec.dir 96 32) 3200 := by
    rw [hlock]
    rfl
  have hraw : (pllsLocked s).sec.raw = s.sec.raw := by rw [hlock]
  refine ⟨_, hdone, ?_, ?_, ?_, ?_, ?_, ?_, ?_, ?_, fun h key hh hk => ?_⟩
  case refine_9 =>
    have hjudge := identify_judges readOk (pllsLocked s) (key := key) (hh.trans hhelper.symm) (by rw [hraw]; exact hk)
    rw [hraw] at hjudge
    exact hjudge
  all_goals
    obtain ⟨id, key, pub, chal, hid⟩ := identify_eq readOk (pllsLocked s)
    rw [hid, hlock]
  case refine_6 => exact hhead
  all_goals rfl

/-! ### The certificate and the images -/

theorem certVerify_completes (s : State) (hr : objectReady s = true) (hm : mailboxBoot s = false) (h0 : s.sec.objects = 0) :
    (∃ t, exec (.certVerify false) s = .next t ∧ Claims.Failed 2 0 s t)
    ∧ ∀ b, b = flashBytes s (fld s.sec.dir 64 32) 5076 → ∃ t, exec (.certVerify true) s = .next t
      ∧ if certForm b = true ∧ certSig b = true then
          t.sec.certOk = true ∧ t.sec.ownerKey = BitVec.ofNat 10496 (objNat b 0x20 1312)
            ∧ t.sec.ownerId = BitVec.ofNat 64 (objNat b 8 8) ∧ t.sec.minVersion = BitVec.ofNat 32 (objNat b 0x10 4)
            ∧ t.sec.objects = 1 ∧ t.sec.bootFail = s.sec.bootFail
        else Claims.Failed 3 0 s t := by
  have hrun (readOk : Bool) : exec (.certVerify readOk) s
      = if !readOk then .next (bootError 2 0 s) else .next (judgeCert (flashCert s) s).2 := if_neg (by simp [hr, hm, h0])
  refine ⟨⟨_, hrun false, bootError_failed ..⟩, fun b hb => ?_⟩
  have hcert : flashCert s = b := hb.symm
  rw [hcert] at hrun
  refine ⟨_, hrun true, ?_⟩
  rw [judgeCert_eq]
  by_cases hform : certForm b = true
  · by_cases hsig : certSig b = true
    · rw [if_pos hform, if_pos hsig]
      exact (if_pos ⟨hform, hsig⟩).mpr ⟨rfl, rfl, rfl, rfl, rfl, rfl⟩
    · rw [if_pos hform, if_neg hsig]
      exact (if_neg fun h => hsig h.2).mpr (bootError_failed ..)
  · rw [if_neg hform]
    exact (if_neg fun h => hform h.1).mpr (bootError_failed ..)

section
variable {s : State} {i : Nat} (hr : objectReady s = true) (hm : mailboxBoot s = false) (hi : s.sec.objects = i + 1)
  (hd : i < s.sec.dirImages)
include hr hm hi hd

theorem execImageVerify_next (readOk : Bool) : exec (.imageVerify readOk) s
    = if !readOk then .next (bootError 2 0 s) else .next (judgeImage i (flashImage s i) s).2 := by
  have h : exec (.imageVerify readOk) s = if !readOk then .next (bootError 2 0 s)
      else .next (judgeImage (s.sec.objects - 1) (flashImage s (s.sec.objects - 1)) s).2 :=
    if_neg (by simp [hr, hm, hi, hd])
  rw [h, hi, Nat.add_sub_cancel]

theorem imageVerify_unread : ∃ t, exec (.imageVerify false) s = .next t ∧ Claims.Failed 2 0 s t :=
  ⟨_, execImageVerify_next hr hm hi hd false, bootError_failed ..⟩

theorem imageVerify_failed {code : Nat} {sig : Bool} (hf : imageFault s i (flashImage s i) = some (.fail code sig)) :
    ∃ t, exec (.imageVerify true) s = .next t
      ∧ Claims.Failed code (if code = 4 ∨ code = 5 then i else 0) (imageStreamed i (flashImage s i) s) t := by
  refine ⟨_, execImageVerify_next hr hm hi hd true, ?_⟩
  rw [judgeImage_failed hf]
  exact bootError_failed ..

theorem imageVerify_accepted (hf : imageFault s i (flashImage s i) = none) (hk : KeepsCrystal (flashImage s i)) :
    ∃ t, exec (.imageVerify true) s = .next t
      ∧ t.sec.images = i + 1 ∧ t.sec.objects = i + 2 ∧ t.sec.bootFail = s.sec.bootFail := by
  obtain ⟨himages, hobjects, hfail, -, -⟩ := judgeImage_kept hf hk
  exact ⟨_, execImageVerify_next hr hm hi hd true, himages, hobjects.trans (by rw [hi]), hfail⟩

end

/-! ### The console, training and CHRYSALIS -/

/-- Each byte of a line has its frame (R502). -/
theorem conLine_uart (x : ConsoleLine) (s : State) :
    (conLine x s).sec.uart = s.sec.uart ++ (Config.romLine x.number).flatMap fun b =>
      [false, b.getLsbD 0, b.getLsbD 1, b.getLsbD 2, b.getLsbD 3, b.getLsbD 4, b.getLsbD 5, b.getLsbD 6, b.getLsbD 7, true] := by
  have hframe : uartFrame = fun b : BitVec 8 =>
      [false, b.getLsbD 0, b.getLsbD 1, b.getLsbD 2, b.getLsbD 3, b.getLsbD 4, b.getLsbD 5, b.getLsbD 6, b.getLsbD 7, true] := rfl
  rw [← hframe]
  rfl

theorem training_completes (s : State) (h : training s = true) :
    (s.sec.trainFrom + 120000000 ≤ s.te.time → ∃ t, exec .ddrTrainTimeout s = .next t ∧ Claims.Failed 7 0 s t)
    ∧ ∃ t, exec .ddrTrainDone s = .next t ∧ t.sec.item5 = true ∧ t.sc.capGib = cfgGib (s.chan 0).cfg
      ∧ t.ddr.ch = s.ddr.ch.map (fun c => { c with trained := true, trainedCfg := c.cfg, emptySince := s.te.time })
      ∧ t.tiles = s.tiles := by
  have hload (z : State) : ∃ lines bits since, loadDone z = { z with
      sec := { z.sec with console := lines, uart := bits, uartAt := since } } := by
    unfold loadDone
    split
    · exact ⟨_, _, _, rfl⟩
    · exact ⟨_, _, _, rfl⟩
  refine ⟨fun ht => ⟨bootError 7 0 s, congrArg _ (if_pos (by simp [h, ht])), bootError_failed ..⟩, ?_⟩
  refine ⟨_, if_neg (by simp [h]), ?_⟩
  obtain ⟨lines, bits, since, hl⟩ := hload (itemBegin 7 (itemEnd 5 { s with
    ddr := { s.ddr with ch := s.ddr.ch.map fun c => { c with trained := true, trainedCfg := c.cfg, emptySince := s.te.time } }
    sc := { s.sc with capGib := cfgGib (s.chan 0).cfg }
    sec := { s.sec with item5 := true } }))
  rw [hl]
  exact ⟨rfl, rfl, rfl, rfl⟩

/-- What a change of operating point leaves beside the tiles, the clocks, TIME and the interrupts. -/
def PointApart (s z : State) : Prop := (z.sec, z.flt, z.cal, z.pending) = (s.sec, s.flt, s.cal, s.pending)

theorem PointApart.ite {s a b : State} {c : Prop} [Decidable c] (ha : PointApart s a) (hb : PointApart s b) :
    PointApart s (if c then a else b) := by
  split
  · exact ha
  · exact hb

theorem PointApart.rampEnd {s z : State} (h : PointApart s z) : PointApart s (rampEnd z) :=
  .ite (.ite (.ite h h) h) h

theorem PointApart.parkCheck {s z : State} (h : PointApart s z) : PointApart s (parkCheck z) :=
  .ite (.ite (.rampEnd h) h) h

theorem PointApart.dvfsBegin {s z : State} (h : PointApart s z) (p : BitVec 2) : PointApart s (dvfsBegin p parkStart z) :=
  .ite h (.parkCheck h)

theorem PointApart.dvfsNext {s z : State} (h : PointApart s z) : PointApart s (dvfsNext z) := by
  unfold Machine.dvfsNext
  split
  · exact .ite h (h.dvfsBegin _)
  · exact h

theorem PointApart.dvfsAsk {s z : State} (h : PointApart s z) (p : BitVec 2) : PointApart s (dvfsAsk p z) := by
  unfold Machine.dvfsAsk
  refine .ite h ?_
  split
  · exact .ite h (.dvfsNext (h.dvfsBegin p))
  · exact h

theorem chrysalisEnter_completes (s : State) (h : larvaDone s = true) :
    ∃ t, exec .chrysalisEnter s = .next t ∧ t.sec.life = .chrysalis ∧ t.flt.kickAt = s.te.time ∧ t.cal.started = true
      ∧ t.cal.dieDue = s.te.time + 1000000 ∧ t.cal.trimDue = s.te.time ∧ t.cal.trimming = (s.cal.en && !s.clk.activeXtal)
      ∧ (s.sec.decodeSect = none → t.sec.decodeBad = false ∧ t.sec.decodeDigest = Config.sha3 (List.replicate 2304 0))
      ∧ t.pending = s.pending := by
  let y : State := calBegin (loadTable { s with
    sec := { s.sec with life := .chrysalis }
    flt := { s.flt with kickAt := s.te.time, window := s.te.time / 1000000000 } })
  let z : State := y.updClk fun c => { c with dvfsReq := setFld c.dvfsReq 0 2 s.sec.runPoint.toNat }
  have hrun : exec .chrysalisEnter s = .next (dvfsAsk s.sec.runPoint z) := if_neg (by simp [h])
  have hapart : PointApart z (dvfsAsk s.sec.runPoint z) := PointApart.dvfsAsk (s := z) rfl _
  obtain ⟨hsec, hflt, hcal, hpending⟩ : _ ∧ _ ∧ _ ∧ _ := by simpa only [PointApart, Prod.mk.injEq] using hapart
  refine ⟨_, hrun, ?_⟩
  rw [hsec, hflt, hcal, hpending]
  refine ⟨rfl, rfl, rfl, rfl, rfl, rfl, fun hd => ?_, rfl⟩
  have htable : z.sec = (loadTable { s with
    sec := { s.sec with life := .chrysalis }
    flt := { s.flt with kickAt := s.te.time, window := s.te.time / 1000000000 } }).sec := rfl
  rw [htable]
  simp only [loadTable, hd]
  exact ⟨rfl, rfl⟩

end Sys2Proof.Machine
end

section
/-! The mailbox: its commands, their results and the command written as one completes (R493, R504 to R511). -/

namespace Sys2Proof.Machine

/-! ### Tiles released by RUN -/

theorem releaseTile_apart (t : Nat) (s : State) :
    (releaseTile t s).sec = s.sec ∧ (releaseTile t s).flt = s.flt ∧ (releaseTile t s).mor.fenced = s.mor.fenced
      ∧ (releaseTile t s).tiles.length = s.tiles.length ∧ ∀ n, n ≠ t → (releaseTile t s).tile n = s.tile n := by
  by_cases hno : t ≥ 16 || s.flt.devFault || s.fencedTile t || !(s.core t).halted
  · rw [releaseTile, if_pos hno]
    exact ⟨rfl, rfl, rfl, rfl, fun _ _ => rfl⟩
  · obtain ⟨ht, hd, hf, hhalt⟩ : t < 16 ∧ s.flt.devFault = false ∧ s.fencedTile t = false ∧ (s.core t).halted = true := by
      simpa [and_assoc] using hno
    rw [releaseTile_eq ht hd hf hhalt]
    by_cases hr : bit s.mor.returning t = true
    · rw [if_pos hr]
      refine ⟨rfl, rfl, rfl, ?_, fun n hn => ?_⟩
      · change (upd (upd (upd s.tiles t _) t _) t _).length = _
        rw [upd_length, upd_length, upd_length]
      · refine (State.tile_updTile_ne _ _ _ _ hn).trans ?_
        exact (State.tile_updTile_ne _ _ _ _ hn).trans (State.tile_updTile_ne _ _ _ _ hn)
    · rw [if_neg hr]
      exact ⟨rfl, rfl, rfl, upd_length .., fun n hn => State.tile_updTile_ne _ _ _ _ hn⟩

/-- Tile `n` waits to be released, at the entry `e` (R509). -/
def Releasable (n : Nat) (e : BitVec 32) (s : State) : Prop :=
  n < s.tiles.length ∧ s.flt.devFault = false ∧ s.fencedTile n = false ∧ (s.core n).halted = true ∧ (s.core n).entry.setWidth 32 = e

/-- Tile `n` runs from its entry `e`. -/
def Released (n : Nat) (e : BitVec 32) (s : State) : Prop :=
  (s.core n).halted = false ∧ (s.core n).pc = e ∧ (s.core n).level = 0

theorem releaseTile_releases {n : Nat} {e : BitVec 32} {s : State} (hn : n < 16) (h : Releasable n e s) : Released n e (releaseTile n s) := by
  obtain ⟨hlen, hd, hf, hhalt, he⟩ := h
  obtain ⟨hrun, hpc, hlevel, -⟩ := releaseTile_spec hn hlen hd hf hhalt
  exact ⟨hrun, hpc.trans he, hlevel⟩

theorem releaseTile_of_released {n : Nat} {e : BitVec 32} {s : State} (h : Released n e s) : releaseTile n s = s :=
  if_pos (by rw [h.1]; simp)

theorem Releasable.other {n t : Nat} {e : BitVec 32} {s : State} (hn : n < 16) (ht : n ≠ t) (h : Releasable n e s) :
    Releasable n e (releaseTile t s) := by
  obtain ⟨-, hflt, hmor, hlen, htile⟩ := releaseTile_apart t s
  rw [Releasable, State.core_of_lt _ hn] at h ⊢
  rw [State.fencedTile, hflt, hmor, hlen, htile n ht]
  exact h

theorem Released.other {n t : Nat} {e : BitVec 32} {s : State} (hn : n < 16) (ht : n ≠ t) (h : Released n e s) :
    Released n e (releaseTile t s) := by
  obtain ⟨-, -, -, -, htile⟩ := releaseTile_apart t s
  rw [Released, State.core_of_lt _ hn] at h ⊢
  rw [htile n ht]
  exact h

/-- Of the tiles released one after another, each that waits among them runs in the end. -/
theorem releaseTiles_releases {n : Nat} {e : BitVec 32} (hn : n < 16) (l : List Nat) (s : State)
    (h : n ∈ l ∧ Releasable n e s ∨ Released n e s) : Released n e (l.foldl (fun z t => releaseTile t z) s) := by
  induction l generalizing s with
  | nil => exact h.resolve_left fun h => List.not_mem_nil h.1
  | cons t l ih =>
    rw [List.foldl_cons]
    refine ih (releaseTile t s) ?_
    by_cases ht : n = t
    · subst ht
      right
      rcases h with ⟨-, hwait⟩ | hrun
      · exact releaseTile_releases hn hwait
      · exact (releaseTile_of_released hrun).symm ▸ hrun
    · exact h.imp (fun h => ⟨(List.mem_cons.1 h.1).resolve_left ht, h.2.other hn ht⟩) fun h => h.other hn ht

theorem releaseAll_sec (s : State) : (releaseAll s).sec = s.sec :=
  foldl_keeps (fun z : State => z.sec = s.sec) _ (fun z t hz => (releaseTile_apart t z).1.trans hz) _ _ rfl

/-! ### A command begins -/

/-- What the state shows of a command begun: the answer's state, BUSY with the command's OP and its result to come. -/
theorem mbStart_begins {s : State} (h : s.sec.mbState ≠ 1) (op : Nat) (written : Bool) :
    mbStart op written s = { (mbCommand op written s).2.2 with
      sec := { (mbCommand op written s).2.2.sec with
        mbState := 1
        mbOp := BitVec.ofNat 8 op
        mbDone := some (BitVec.ofNat 8 (mbCommand op written s).1, (mbCommand op written s).2.1) } } := if_neg h

theorem came_sec (who : Who) (s : State) : (Claims.came who s).sec = s.sec := by cases who <;> rfl

/-- A command of the mailbox runs on the state as the write finds it. -/
theorem mbWrite_begins {who : Who} {s : State} (hw : Claims.Writable who .sec .larva s) (hb : s.sec.mbState ≠ 1) (op : Nat) (written : Bool)
    {code : Nat} {data : List (BitVec 8)} {z : State} (hz : mbCommand op written (Claims.came who s) = (code, data, z)) :
    (.next (mbWrite who op written s) : Out) = .next (Claims.busy op code data z) := by
  refine regWrite_next hw _ ?_
  rw [mbStart_begins (by rw [came_sec]; exact hb), hz]
  rfl

/-! ### Objects -/

theorem came_mbLoading (who : Who) (s : State) : mbLoading (Claims.came who s) = mbLoading s := by cases who <;> rfl

theorem came_objectReady (who : Who) (s : State) : objectReady (Claims.came who s) = objectReady s := by cases who <;> rfl

/-- The state with the object taken to be judged. -/
def objectTaken (who : Who) (s : State) : State := { Claims.came who s with sec := { s.sec with loadBuf := [] } }

/-- The checks of an image read neither the host's traffic nor the bytes being loaded. -/
theorem imageFault_came (who : Who) (s : State) (i : Nat) (b : List (BitVec 8)) :
    imageFault (objectTaken who s) i b = imageFault s i b := by
  cases who <;> rfl

theorem mbEndObject_came {who : Who} {s : State} (hl : mbLoading s = true) (hr : objectReady s = true) {f : Option BootFail} {z : State}
    (h : (if s.sec.objects = 0 then judgeCert s.sec.loadBuf (objectTaken who s)
      else judgeImage (s.sec.objects - 1) s.sec.loadBuf (objectTaken who s)) = (f, z)) :
    mbCommand 0x02 true (Claims.came who s) = ((f.map BootFail.result).getD 0, [], z) := by
  change mbEndObject (Claims.came who s) = _
  unfold mbEndObject
  rw [if_neg (by simp [came_mbLoading, came_objectReady, hl, hr]), came_sec]
  dsimp only
  rw [objectTaken] at h
  rw [h]

theorem load_completes (who : Who) (s : State) (hw : Claims.Writable who .sec .larva s) (hb : s.sec.mbState ≠ 1)
    (hl : mbLoading s = true) (hr : objectReady s = true) (h1 : 1 ≤ s.sec.mbLen.toNat) (h2 : s.sec.mbLen.toNat ≤ 524288) :
    exec (.load who) s = .next (Claims.busy 0x01 0 [] { Claims.came who s with
      sec := { s.sec with loadBuf := s.sec.loadBuf ++ mbArg s } }) := by
  refine mbWrite_begins hw hb 0x01 true ?_
  have hlen : s.sec.mbLen ≠ 0#20 := fun h => by rw [h] at h1; exact absurd h1 (by decide)
  change mbLoad (Claims.came who s) = _
  rw [mbLoad, if_neg (by simp [came_mbLoading, came_objectReady, hl, hr]), came_sec, if_neg (by simp [hlen, h2])]
  cases who <;> rfl

theorem endObject_certificate (who : Who) (s : State) (hw : Claims.Writable who .sec .larva s) (hb : s.sec.mbState ≠ 1)
    (hl : mbLoading s = true) (hr : objectReady s = true) (h0 : s.sec.objects = 0) :
    ∃ t, exec (.endObject who) s = .next t ∧ t.sec.mbState = 1 ∧ t.sec.mbOp = 0x02 ∧ t.sec.loadBuf = []
      ∧ if certForm s.sec.loadBuf = true ∧ certSig s.sec.loadBuf = true then
          t.sec.certOk = true ∧ t.sec.mbDone = some (0, []) ∧ t.sec.bootFail = s.sec.bootFail
        else t.sec.bootCode = 3 ∧ t.sec.bootFail = true
          ∧ t.sec.mbDone = some (if certForm s.sec.loadBuf = true then 3 else 4, []) := by
  have hjudge := judgeCert_eq s.sec.loadBuf (objectTaken who s)
  obtain ⟨d, e, lines, bits, since, hsec⟩ := bootError_sec 3 0 (objectTaken who s)
  have hrun {f : Option BootFail} {z : State} (h : judgeCert s.sec.loadBuf (objectTaken who s) = (f, z)) :=
    mbWrite_begins hw hb 0x02 true (mbEndObject_came hl hr ((if_pos h0).trans h))
  by_cases hform : certForm s.sec.loadBuf = true
  · by_cases hsig : certSig s.sec.loadBuf = true
    · rw [if_pos hform, if_pos hsig] at hjudge
      refine ⟨_, hrun hjudge, rfl, rfl, rfl, ?_⟩
      rw [if_pos ⟨hform, hsig⟩]
      exact ⟨rfl, rfl, rfl⟩
    · rw [if_pos hform, if_neg hsig] at hjudge
      refine ⟨_, hrun hjudge, rfl, rfl, congrArg Sec.loadBuf hsec, ?_⟩
      rw [if_neg fun h => hsig h.2, if_pos hform]
      exact ⟨congrArg Sec.bootCode hsec, congrArg Sec.bootFail hsec, rfl⟩
  · rw [if_neg hform] at hjudge
    refine ⟨_, hrun hjudge, rfl, rfl, congrArg Sec.loadBuf hsec, ?_⟩
    rw [if_neg fun h => hform h.1, if_neg hform]
    exact ⟨congrArg Sec.bootCode hsec, congrArg Sec.bootFail hsec, rfl⟩

theorem BootFail.result_fail (code : Nat) (sig : Bool) : BitVec.ofNat 8 (BootFail.fail code sig).result = if sig then 3 else 4 := by
  cases sig <;> rfl

section
variable {who : Who} {s : State} {i : Nat} (hw : Claims.Writable who .sec .larva s) (hb : s.sec.mbState ≠ 1) (hl : mbLoading s = true)
  (hr : objectReady s = true) (hi : s.sec.objects = i + 1)
include hw hb hl hr hi

/-- END_OBJECT of an image. -/
theorem endObject_next {f : Option BootFail} {z : State} (h : judgeImage i s.sec.loadBuf (objectTaken who s) = (f, z)) :
    exec (.endObject who) s = .next (Claims.busy 0x02 ((f.map BootFail.result).getD 0) [] z) := by
  refine mbWrite_begins hw hb 0x02 true (mbEndObject_came hl hr ?_)
  rw [if_neg (by rw [hi]; exact Nat.succ_ne_zero i), hi, Nat.add_sub_cancel, h]

theorem endObject_failed {code : Nat} {sig : Bool} (hf : imageFault s i s.sec.loadBuf = some (.fail code sig)) :
    ∃ t, exec (.endObject who) s = .next t ∧ t.sec.mbState = 1 ∧ t.sec.mbOp = 0x02
      ∧ t.sec.bootFail = true ∧ t.sec.bootCode = BitVec.ofNat 8 code ∧ t.sec.mbDone = some (if sig then 3 else 4, []) := by
  have hjudge := judgeImage_failed ((imageFault_came who s i s.sec.loadBuf).trans hf)
  obtain ⟨d, e, lines, bits, since, hsec⟩ := bootError_sec code (if code = 4 ∨ code = 5 then i else 0)
    (imageStreamed i s.sec.loadBuf (objectTaken who s))
  refine ⟨_, endObject_next hw hb hl hr hi hjudge, rfl, rfl, congrArg Sec.bootFail hsec, congrArg Sec.bootCode hsec, ?_⟩
  exact congrArg (fun c => some (c, [])) (BootFail.result_fail code sig)

theorem endObject_accepted (hf : imageFault s i s.sec.loadBuf = none) (hk : KeepsCrystal s.sec.loadBuf) :
    ∃ t, exec (.endObject who) s = .next t ∧ t.sec.mbState = 1 ∧ t.sec.mbOp = 0x02
      ∧ t.sec.images = i + 1 ∧ t.sec.mbDone = some (0, []) ∧ t.sec.bootFail = s.sec.bootFail := by
  have hgood : imageFault (objectTaken who s) i s.sec.loadBuf = none := (imageFault_came ..).trans hf
  obtain ⟨himages, -, hfail, -, -⟩ := judgeImage_kept hgood hk
  exact ⟨_, endObject_next hw hb hl hr hi (Prod.ext (judgeImage_accepted hgood).1 rfl), rfl, rfl, himages, rfl, hfail⟩

end

theorem endLoad_completes (who : Who) (s : State) (hw : Claims.Writable who .sec .larva s) (hb : s.sec.mbState ≠ 1)
    (hl : mbLoading s = true) (h0 : s.sec.images ≠ 0) (z : State) (hz : z = { Claims.came who s with sec := { s.sec with loadEnded := true } }) :
    exec (.endLoad who) s = .next (Claims.busy 0x03 0 [] (if s.sec.item5 then conLine (.itemEnd 7) z else z)) := by
  refine mbWrite_begins hw hb 0x03 true ?_
  have hmail : mailboxBoot s = true := by
    simp only [mbLoading, Bool.and_eq_true] at hl
    exact hl.1.2
  have hdone : imagesDone z = true := by
    rw [hz, imagesDone]
    exact if_pos hmail
  have hitem : z.sec.item5 = s.sec.item5 := by rw [hz]
  change mbEndLoad (Claims.came who s) = _
  rw [mbEndLoad, if_neg (by simp [came_mbLoading, came_sec, hl, h0]), came_sec, ← hz, loadDone, hdone, hitem, Bool.and_true]
  rfl

/-! ### Status, identity and attestation -/

theorem decodeStatus_completes (who : Who) (s : State) (hw : Claims.Writable who .sec .larva s) (hb : s.sec.mbState ≠ 1)
    (hr : s.sec.life.running = true) :
    exec (.decodeStatus who) s = .next (Claims.busy 0x04 0 (unpackBytes 4 (if s.sec.decodeBad then 1 else 0)) (Claims.came who s)) := by
  refine mbWrite_begins hw hb 0x04 true ?_
  change mbDecodeStatus (Claims.came who s) = _
  rw [mbDecodeStatus, came_sec, if_neg (by simp [hr])]
  rfl

theorem getPubkey_completes (who : Who) (s : State) (hw : Claims.Writable who .sec .larva s) (hb : s.sec.mbState ≠ 1)
    (k : BitVec 10496) (hr : s.sec.life.running = true) (hk : s.sec.pubKey = some k) :
    exec (.getPubkey who) s = .next (Claims.busy 0x10 0 (unpackBytes 1312 k.toNat) (Claims.came who s)) := by
  refine mbWrite_begins hw hb 0x10 true ?_
  change mbGetPubkey (Claims.came who s) = _
  rw [mbGetPubkey, came_sec, if_neg (by simp [hr]), hk]

theorem came_mbArg (who : Who) (s : State) : mbArg (Claims.came who s) = mbArg s := by rw [mbArg, came_sec, mbArg]

theorem attest_completes (who : Who) (s : State) (hw : Claims.Writable who .sec .larva s) (hb : s.sec.mbState ≠ 1)
    (pub : BitVec 10496) (key : BitVec 256) (hr : s.sec.life.running = true) (hlen : s.sec.mbLen = 32) (hpub : s.sec.pubKey = some pub)
    (hkey : s.sec.pufKey = some key) :
    exec (.attest who) s = .next (Claims.busy 0x11 0
      (attestBody (Claims.came who s) pub (mbArg s)
        ++ fixLen 2420 (Config.sign (deviceSeed key) (Config.sha3 (attestBody (Claims.came who s) pub (mbArg s))))) (Claims.came who s)) := by
  refine mbWrite_begins hw hb 0x11 true ?_
  change mbAttest (Claims.came who s) = _
  rw [mbAttest, came_mbArg, came_sec, if_neg (by simp [hr]), if_neg (by simp [hlen]), hpub, hkey]

theorem came_tokenForm (who : Who) (s : State) (b : List (BitVec 8)) : tokenForm (Claims.came who s) b = tokenForm s b := by
  rw [tokenForm, came_sec, tokenForm]

/-- The helper bits that an enrolment makes (R505). -/
def enrolBits (s : State) : List (BitVec 8) := (List.range 3072).map (Config.helperByte s.sec.raw (s.draw 64).1.toNat)

/-- An enrolment written to the flash: the key pair of the fresh helper bits. -/
def enrolDone (s : State) : State :=
  enrolled (Config.reconstruct s.sec.raw (enrolBits s)) { (s.draw 64).2 with
    sec := { s.sec with
      flash := flashPut (helperOff s) (helperRecord (enrolBits s) (Config.reconstruct s.sec.raw (enrolBits s))) s.sec.flash } }

theorem enrolled_sec (key : BitVec 256) (flash : List Host.Cell) (z : State) (c : Sec) :
    (enrolled key { z with sec := { c with flash := flash } }).sec = { c with
      flash := flash
      idState := 0
      pufKey := some key
      pubKey := some (Config.devicePublic (deviceSeed key)) } := rfl

theorem enrolBits_came (who : Who) (s : State) : enrolBits (Claims.came who s) = enrolBits s := by
  unfold enrolBits State.draw
  cases who <;> rfl

theorem enrolDone_came (who : Who) (s : State) : (enrolDone (Claims.came who s)).sec = { s.sec with
    flash := flashPut (fld s.sec.dir 96 32) (helperRecord (enrolBits s) (Config.reconstruct s.sec.raw (enrolBits s))) s.sec.flash
    idState := 0
    pufKey := some (Config.reconstruct s.sec.raw (enrolBits s))
    pubKey := some (Config.devicePublic (deviceSeed (Config.reconstruct s.sec.raw (enrolBits s)))) } := by
  rw [enrolDone, enrolled_sec, enrolBits_came, helperOff, came_sec]

/-- ENROL, its length right and no key pair there: what it answers, by the checks in their order (R505). -/
theorem mbEnrol_eq {s : State} (written : Bool) (hlife : s.sec.life = .chrysalis) (hid : s.sec.idState ≠ 0) (hlen : s.sec.mbLen = 2484) :
    mbEnrol written s =
      if !tokenForm s (mbArg s) then (4, [], s)
      else if !Config.sigOk s.sec.ownerKey (Config.sha3 ((mbArg s).take 64)) ((mbArg s).drop 64) then (3, [], s)
      else if !written then (6, [], s) else (0, [], enrolDone s) := by
  unfold mbEnrol
  rw [if_neg (by rw [hlife, decide_eq_false hid]; decide), if_neg (not_not.2 hlen)]
  rfl

theorem enrol_completes (who : Who) (s : State) (hw : Claims.Writable who .sec .larva s) (hb : s.sec.mbState ≠ 1)
    (hlife : s.sec.life = .chrysalis) (hid : s.sec.idState ≠ 0) (hlen : s.sec.mbLen = 2484) (written : Bool) :
    ∃ t, exec (.enrol who written) s = .next t ∧ t.sec.mbState = 1 ∧ t.sec.mbOp = 0x12
      ∧ if tokenForm s (mbArg s) = false then t.sec.mbDone = some (4, []) ∧ t.sec.idState = s.sec.idState
        else if Config.sigOk s.sec.ownerKey (Config.sha3 ((mbArg s).take 64)) ((mbArg s).drop 64) = false then
          t.sec.mbDone = some (3, []) ∧ t.sec.idState = s.sec.idState
        else if written = false then t.sec.mbDone = some (6, []) ∧ t.sec.idState = s.sec.idState
        else t.sec.mbDone = some (0, []) ∧ t.sec.idState = 0 ∧ ∃ bits key, bits.length = 3072
          ∧ key = Config.reconstruct s.sec.raw bits ∧ t.sec.pufKey = some key
          ∧ t.sec.pubKey = some (Config.devicePublic (Config.sha3 (1 :: unpackBytes 32 key.toNat)))
          ∧ t.sec.flash = flashPut (fld s.sec.dir 96 32) (helperRecord bits key) s.sec.flash := by
  have hanswer := mbEnrol_eq (s := Claims.came who s) written (by rw [came_sec]; exact hlife) (by rw [came_sec]; exact hid)
    (by rw [came_sec]; exact hlen)
  rw [came_tokenForm, came_mbArg, came_sec] at hanswer
  have hrun {code : Nat} {data : List (BitVec 8)} {z : State} (h : mbEnrol written (Claims.came who s) = (code, data, z)) :=
    mbWrite_begins hw hb 0x12 written h
  have hsame : (Claims.came who s).sec.idState = s.sec.idState := congrArg Sec.idState (came_sec who s)
  cases hform : tokenForm s (mbArg s) with
  | false =>
    rw [hform] at hanswer
    refine ⟨_, hrun (hanswer.trans (if_pos rfl)), rfl, rfl, ?_⟩
    rw [if_pos rfl]
    exact ⟨rfl, hsame⟩
  | true =>
    rw [hform, if_neg (show ¬ (!true) = true by decide)] at hanswer
    cases hsig : Config.sigOk s.sec.ownerKey (Config.sha3 ((mbArg s).take 64)) ((mbArg s).drop 64) with
    | false =>
      rw [hsig] at hanswer
      refine ⟨_, hrun (hanswer.trans (if_pos rfl)), rfl, rfl, ?_⟩
      rw [if_neg (by decide), if_pos rfl]
      exact ⟨rfl, hsame⟩
    | true =>
      rw [hsig, if_neg (show ¬ (!true) = true by decide)] at hanswer
      cases written with
      | false =>
        refine ⟨_, hrun (hanswer.trans (if_pos rfl)), rfl, rfl, ?_⟩
        rw [if_neg (by decide), if_neg (by decide), if_pos rfl]
        exact ⟨rfl, hsame⟩
      | true =>
        refine ⟨_, hrun (hanswer.trans (if_neg (by decide))), rfl, rfl, ?_⟩
        rw [if_neg (by decide), if_neg (by decide), if_neg (by decide)]
        have hsec := enrolDone_came who s
        generalize hbits : enrolBits s = bits at hsec
        generalize hkey : Config.reconstruct s.sec.raw bits = key at hsec
        have hlength : bits.length = 3072 := by rw [← hbits, enrolBits, List.length_map, List.length_range]
        refine ⟨rfl, ?_, bits, key, hlength, hkey.symm, ?_, ?_, ?_⟩
        all_goals
          unfold Claims.busy
          rw [hsec]
        rfl

/-! ### RUN -/

theorem run_completes (who : Who) (s : State) (hw : Claims.Writable who .sec .larva s) (hb : s.sec.mbState ≠ 1)
    (hlife : s.sec.life = .chrysalis) (hid : s.sec.idState = 0) :
    ∃ t, exec (.run who) s = .next t ∧ t.sec.life = .imago ∧ t.sec.mbDone = some (0, []) ∧ t.sec.mbState = 1
      ∧ (∀ n < 16, n < s.tiles.length → standby s = false → s.flt.devFault = false → s.fencedTile n = false →
          (s.core n).halted = true →
          (t.core n).halted = false ∧ (t.core n).pc = (s.core n).entry.setWidth 32 ∧ (t.core n).level = 0) := by
  let y : State := { Claims.came who s with sec := { s.sec with life := .imago } }
  have hstandby : standby y = standby s := by cases who <;> rfl
  have hanswer : mbRun (Claims.came who s) = (0, [], if standby y then y else releaseAll y) := by
    rw [mbRun, came_sec, if_neg (by simp [hlife]), if_neg (by simp [hid])]
  refine ⟨_, mbWrite_begins hw hb 0x20 true hanswer, ?_, rfl, rfl, fun n hn hlen hst hd hf hhalt => ?_⟩
  · have hsec : (if standby y then y else releaseAll y).sec = y.sec := by
      split
      · rfl
      · exact releaseAll_sec y
    exact congrArg Sec.life hsec
  · have hwait : Releasable n ((s.core n).entry.setWidth 32) y := by
      have hcore : y.core n = s.core n := came_core who s n
      rw [Releasable, hcore]
      refine ⟨?_, ?_, ?_, hhalt, rfl⟩
      · exact (congrArg List.length (came_tiles who s)).symm ▸ hlen
      · exact (congrArg Flt.devFault (came_flt who s)).trans hd
      · exact (came_fencedTile who s n).trans hf
    have hrun := releaseTiles_releases hn (List.range 16) y (.inl ⟨List.mem_range.2 hn, hwait⟩)
    rw [hstandby, hst, if_neg Bool.false_ne_true]
    exact hrun

/-! ### A command that is rejected -/

theorem mbWrite_rejected {who : Who} {s : State} (hw : Claims.Writable who .sec .larva s) (hb : s.sec.mbState = 1) (op : Nat) (written : Bool) :
    (.next (mbWrite who op written s) : Out) = .next { Claims.came who s with
      sec := { s.sec with
        mbRejected := true
        mbLate := some (op, written, s.sec.mbRejected)
        now := s.sec.now.note 16 true } } := by
  refine regWrite_next hw _ ?_
  rw [mbStart, came_sec, if_pos hb]

/-- Each command of the mailbox is a write of its OP. -/
theorem exec_mailboxCommand {who : Who} {i : Instr} {op : Nat} {w : Bool} (s : State)
    (h : (i, op, w) ∈ [(.load who, 0x01, true), (.endObject who, 0x02, true),
      (.endLoad who, 0x03, true), (.decodeStatus who, 0x04, true), (.getPubkey who, 0x10, true), (.attest who, 0x11, true),
      (.enrol who true, 0x12, true), (.enrol who false, 0x12, false), (.run who, 0x20, true)]) :
    exec i s = .next (mbWrite who op w s) := by
  simp only [List.mem_cons, Prod.mk.injEq, List.not_mem_nil, or_false] at h
  rcases h with ⟨rfl, rfl, rfl⟩ | ⟨rfl, rfl, rfl⟩ | ⟨rfl, rfl, rfl⟩ | ⟨rfl, rfl, rfl⟩ | ⟨rfl, rfl, rfl⟩ | ⟨rfl, rfl, rfl⟩
    | ⟨rfl, rfl, rfl⟩ | ⟨rfl, rfl, rfl⟩ | ⟨rfl, rfl, rfl⟩
  all_goals rfl

/-! ### Completion -/

/-- Bytes put at the front of the buffer, and what lies behind them. -/
theorem kget_mbPut (bs : List (BitVec 8)) (a : Nat) (m : List (Nat × BitVec 8)) (k : Nat) :
    kget (mbPut a bs m) k = if a ≤ k ∧ k < a + bs.length then bs[k - a]? else kget m k := by
  have hput : ∀ (bs : List (BitVec 8)) (j : Nat) (m : List (Nat × BitVec 8)),
      kget ((bs.zipIdx j).foldl (fun z (b, i) => kset z (a + i) b) m) k
        = if a + j ≤ k ∧ k < a + j + bs.length then bs[k - (a + j)]? else kget m k := by
    intro bs
    induction bs with
    | nil =>
      intro j m
      rw [if_neg (by rw [List.length_nil]; omega)]
      rfl
    | cons b bs ih =>
      intro j m
      rw [List.zipIdx_cons, List.foldl_cons, ih, List.length_cons]
      by_cases hk : k = a + j
      · rw [if_neg (by omega), if_pos (by omega), hk, kget_kset_same, Nat.sub_self]
        rfl
      · by_cases hin : a + j ≤ k ∧ k < a + j + (bs.length + 1)
        · rw [if_pos (by omega), if_pos hin, show k - (a + j) = (k - (a + (j + 1))) + 1 by omega]
          rfl
        · rw [if_neg (by omega), if_neg hin, kget_kset_ne _ hk]
  have h := hput bs 0 m
  rwa [Nat.add_zero] at h

/-- What a command leaves of the buffer and of REJECTED. -/
def mbShown (s : State) : List (Nat × BitVec 8) × Bool := (s.sec.mbBuf, s.sec.mbRejected)

theorem bootError_shown (code image : Nat) (s : State) : mbShown (bootError code image s) = mbShown s := by
  obtain ⟨d, e, lines, bits, since, hsec⟩ := bootError_sec code image s
  rw [mbShown, hsec, mbShown]

theorem judgeImage_shown (hsigned : SignedKeepCrystal) (i : Nat) (b : List (BitVec 8)) (s : State) :
    mbShown (judgeImage i b s).2 = mbShown s := by
  rcases hf : imageFault s i b with _ | ⟨code, sig⟩
  · obtain ⟨-, -, -, hbuf, hrej⟩ := judgeImage_kept hf (hsigned.image hf)
    rw [mbShown, hbuf, hrej, mbShown]
  · rw [judgeImage_failed hf]
    exact bootError_shown ..

theorem judgeCert_shown (b : List (BitVec 8)) (s : State) : mbShown (judgeCert b s).2 = mbShown s := by
  rw [judgeCert_eq]
  split
  · split
    · rfl
    · exact bootError_shown ..
  · exact bootError_shown ..

theorem mbEndObject_shown (hsigned : SignedKeepCrystal) (s : State) : mbShown (mbEndObject s).2.2 = mbShown s := by
  unfold mbEndObject
  split
  · rfl
  · dsimp only
    split
    · exact judgeCert_shown ..
    · exact judgeImage_shown hsigned ..

theorem mbEndLoad_shown (s : State) : mbShown (mbEndLoad s).2.2 = mbShown s := by
  unfold mbEndLoad loadDone
  split
  · rfl
  · dsimp only
    split
    · rfl
    · rfl

theorem mbEnrol_shown (written : Bool) (s : State) : mbShown (mbEnrol written s).2.2 = mbShown s := by
  unfold mbEnrol
  dsimp only
  repeat' split
  case isFalse.isFalse.isFalse.isFalse.isFalse => rw [mbShown, enrolled_sec]; rfl
  all_goals rfl

theorem mbRun_shown (s : State) : mbShown (mbRun s).2.2 = mbShown s := by
  unfold mbRun
  split
  · rfl
  · split
    · rfl
    · dsimp only
      split
      · rfl
      · rw [mbShown, releaseAll_sec]
        rfl

theorem mbCommand_shown (hsigned : SignedKeepCrystal) (op : Nat) (written : Bool) (s : State) :
    mbShown (mbCommand op written s).2.2 = mbShown s := by
  unfold mbCommand
  split
  · unfold mbLoad
    repeat' split
    all_goals rfl
  · exact mbEndObject_shown hsigned s
  · exact mbEndLoad_shown s
  · unfold mbDecodeStatus
    repeat' split
    all_goals rfl
  · unfold mbGetPubkey
    repeat' split
    all_goals rfl
  · unfold mbAttest
    repeat' split
    all_goals rfl
  · exact mbEnrol_shown written s
  · exact mbRun_shown s
  · rfl

/-- The result shown, before a command that waits for it begins. -/
def mbResultShown (code : BitVec 8) (data : List (BitVec 8)) (s : State) : State :=
  { s with
    sec := { s.sec with
      mbBuf := mbPut 0 data s.sec.mbBuf
      mbLen := BitVec.ofNat 20 data.length
      mbResult := code
      mbState := if code = 0 then 2 else 3
      mbDone := none } }

theorem execMailboxComplete_next {s : State} {code : BitVec 8} {data : List (BitVec 8)} (h : s.sec.mbDone = some (code, data)) :
    exec .mailboxComplete s = .next (mbAfter (mbResultShown code data s)) := by
  change execMailboxComplete s = _
  simp only [execMailboxComplete, h]
  rfl

theorem mbByte_result {c : Sec} {data : List (BitVec 8)} {m : List (Nat × BitVec 8)} (h : c.mbBuf = mbPut 0 data m) :
    ∀ k < data.length, c.mbByte k = data.getD k 0 := by
  intro k hk
  rw [Sec.mbByte, h, kget_mbPut, if_pos (by omega), Nat.sub_zero, List.getElem?_eq_getElem hk, List.getD_eq_getElem?_getD,
    List.getElem?_eq_getElem hk]
  rfl

theorem mailboxComplete_late (hsigned : SignedKeepCrystal) (code : BitVec 8) (data : List (BitVec 8)) (op : Nat) (w was : Bool) (s : State)
    (hd : s.sec.mbDone = some (code, data)) (hl : s.sec.mbLate = some (op, w, was)) :
    ∃ t, exec .mailboxComplete s = .next t ∧ t.sec.mbState = 1 ∧ t.sec.mbOp = BitVec.ofNat 8 op
      ∧ t.sec.mbRejected = was ∧ t.sec.mbDone.isSome = true ∧ (∀ k < data.length, t.sec.mbByte k = data.getD k 0) := by
  let y : State := { mbResultShown code data s with
    sec := { (mbResultShown code data s).sec with
      mbRejected := was
      mbLate := none
      now := { s.sec.now with set := setBit s.sec.now.set 16 false } } }
  have hafter : mbAfter (mbResultShown code data s) = mbStart op w y := by
    rw [mbAfter, show (mbResultShown code data s).sec.mbLate = some (op, w, was) from hl]
    rfl
  have hidle : y.sec.mbState ≠ 1 := by
    change (if code = 0 then 2 else 3 : BitVec 2) ≠ 1
    split <;> decide
  have hshown : mbShown (mbCommand op w y).2.2 = (mbPut 0 data s.sec.mbBuf, was) := mbCommand_shown hsigned op w y
  obtain ⟨hbuf, hrej⟩ := Prod.mk.inj hshown
  rw [execMailboxComplete_next hd, hafter, mbStart_begins hidle]
  exact ⟨_, rfl, rfl, rfl, hrej, rfl, mbByte_result hbuf⟩

theorem mailboxComplete_alone (code : BitVec 8) (data : List (BitVec 8)) (s : State) (hd : s.sec.mbDone = some (code, data))
    (hl : s.sec.mbLate = none) :
    ∃ t, exec .mailboxComplete s = .next t ∧ t.sec.mbResult = code ∧ t.sec.mbState = (if code = 0 then 2 else 3)
      ∧ t.sec.mbLen = BitVec.ofNat 20 data.length ∧ t.sec.mbDone = none
      ∧ (∀ k < data.length, t.sec.mbByte k = data.getD k 0) ∧ (∀ k, data.length ≤ k → t.sec.mbByte k = s.sec.mbByte k) := by
  have hafter : mbAfter (mbResultShown code data s) = mbResultShown code data s := by
    rw [mbAfter, show (mbResultShown code data s).sec.mbLate = none from hl]
  rw [execMailboxComplete_next hd, hafter]
  refine ⟨_, rfl, rfl, rfl, rfl, rfl, mbByte_result rfl, fun k hk => ?_⟩
  have hbuf : (mbResultShown code data s).sec.mbBuf = mbPut 0 data s.sec.mbBuf := rfl
  rw [Sec.mbByte, hbuf, kget_mbPut, if_neg (by omega), Sec.mbByte]

end Sys2Proof.Machine
end

section
/-! An image that turns the crystal off while the device runs on it, and what hangs on there being none (R437, R441, R499). -/

namespace Sys2Proof.Machine

/-! ### The loss of the clock by DEVCFG -/

/-- The device runs on the crystal and has no other source. -/
def CrystalAlone (s : State) : Prop :=
  s.clk.chosen = true ∧ s.clk.activeXtal = true ∧ s.clk.xtalState ≠ 0 ∧ s.clk.refState ≠ 2

/-- The clock was lost: no source is taken, and the security state is that of reset (R441, R442). -/
def ClockLost (s : State) : Prop := s.sec.objects = 0 ∧ s.sec.mbRejected = false ∧ s.clk.chosen = false

theorem Written.clk {s z : State} (h : Written s z) :
    z.clk = { s.clk with gatedAccess := z.clk.gatedAccess } :=
  congrArg (fun c : Clock => { c with gatedAccess := z.clk.gatedAccess }) (congrArg State.clk (h : z.unwritten = s.unwritten) :)

theorem Written.crystalAlone {s z : State} (h : Written s z) (hs : CrystalAlone s) : CrystalAlone z := by
  rw [CrystalAlone, h.clk]
  exact hs

theorem Written.clockLost {s z : State} (h : Written s z) (hs : ClockLost s) : ClockLost z := by
  have hsec : z.sec = { s.sec with decodeSect := z.sec.decodeSect } := congrArg State.sec h.eq
  rw [ClockLost, h.clk, hsec]
  exact hs

theorem srcCtrlWrite_loses {v : BitVec 32} {s : State} (hv : bit v 1 = false) (h : CrystalAlone s) : ClockLost (srcCtrlWrite v s) := by
  obtain ⟨hc, ha, hx, hr⟩ := h
  have hlost : srcLost true 0 (s.updClk fun c => { c with xtalEn := false })
      = safeHoldEnter ((s.updClk fun c => { c with xtalEn := false }).updClk fun c => c.setSrc true 0) := by
    unfold srcLost
    exact (if_pos (by simp [hc, ha])).trans (if_neg hr)
  unfold srcCtrlWrite
  simp only [hv, Bool.not_false, Bool.true_and, hx, ne_eq, not_false_eq_true, decide_true, if_true, hlost]
  rw [if_neg (by rw [show (safeHoldEnter _).clk.activeXtal = false from rfl]; simp)]
  exact ⟨rfl, rfl, rfl⟩

theorem srcCtrlWrite_keeps {v : BitVec 32} {s : State} (hv : bit v 1 = true) (h : CrystalAlone s) : CrystalAlone (srcCtrlWrite v s) := by
  obtain ⟨hc, ha, hx, hr⟩ := h
  rw [srcCtrlWrite_on hv, if_neg (by rw [decide_eq_false hr, Bool.and_false]; exact Bool.false_ne_true)]
  exact ⟨hc, ha, hx, hr⟩

theorem ClockLost.srcCtrlWrite {v : BitVec 32} {s : State} (h : ClockLost s) : ClockLost (srcCtrlWrite v s) := by
  have hsrc : ClockLost (if !bit v 1 && s.clk.xtalState ≠ 0 then srcLost true 0 (s.updClk fun c => { c with xtalEn := bit v 1 })
      else s.updClk fun c => { c with xtalEn := bit v 1 }) := by
    split
    · unfold srcLost
      dsimp only
      rw [if_neg (by simp [h.2.2])]
      exact h
    · exact h
  unfold Machine.srcCtrlWrite
  dsimp only
  rw [if_neg (by rw [hsrc.2.2]; simp)]
  exact hsrc

/-- A section on a device that runs on the crystal alone: the clock is lost if the section turns the crystal off. -/
theorem putSection_crystal {b : List (BitVec 8)} {e : BitVec 256} {s : State} (h : CrystalAlone s) :
    if sectType e = 1 ∧ xtalEnOf (sectBytes b e) = false then ClockLost (putSection b s e) else CrystalAlone (putSection b s e) := by
  unfold putSection
  by_cases ht : sectType e = 1
  · rw [if_pos ht]
    cases hx : xtalEnOf (sectBytes b e) with
    | false =>
      rw [if_pos ⟨ht, rfl⟩]
      exact srcCtrlWrite_loses hx h
    | true =>
      rw [if_neg fun hn => by cases hn.2]
      exact srcCtrlWrite_keeps hx h
  · rw [if_neg ht, if_neg fun hn => ht hn.1]
    exact ((Written.refl s).putBytes ..).crystalAlone h

theorem ClockLost.putSection {b : List (BitVec 8)} {e : BitVec 256} {s : State} (h : ClockLost s) : ClockLost (putSection b s e) := by
  unfold Machine.putSection
  split
  · exact h.srcCtrlWrite
  · exact ((Written.refl s).putBytes ..).clockLost h

/-- The sections of an image one of which turns the crystal off. -/
theorem putSections_lose {b : List (BitVec 8)} (l : List (BitVec 256)) (s : State)
    (h : (CrystalAlone s ∧ ∃ e ∈ l, sectType e = 1 ∧ xtalEnOf (sectBytes b e) = false) ∨ ClockLost s) :
    ClockLost (l.foldl (putSection b) s) := by
  induction l generalizing s with
  | nil => exact h.resolve_left fun ⟨_, e, he, _⟩ => List.not_mem_nil he
  | cons e l ih =>
    refine ih _ ?_
    rcases h with ⟨hs, x, hx, hoff⟩ | hs
    · have hstep := putSection_crystal (b := b) (e := e) hs
      by_cases he : sectType e = 1 ∧ xtalEnOf (sectBytes b e) = false
      · rw [if_pos he] at hstep
        exact .inr hstep
      · rw [if_neg he] at hstep
        refine .inl ⟨hstep, x, (List.mem_cons.1 hx).resolve_left fun hn => he (hn ▸ hoff), hoff⟩
    · exact .inr hs.putSection

/-! ### The statements, and signed images that turn the crystal off -/

/-- A LARVA on the crystal alone that has its certificate, and the image `b` both in its flash and in its mailbox's load buffer, an
END_OBJECT having come while an earlier command is in progress; `src` is BOOT_SRC. -/
def onCrystal (src : BitVec 6) (b : List (BitVec 8)) (s : State) : State :=
  { s with
    clk := { s.clk with chosen := true, activeXtal := true, xtalState := 2, refState := 0, safeHold := false }
    sec := { s.sec with
      life := .larva
      bootFail := false
      resetLow := false
      tripped := false
      item1 := true
      objects := 1
      straps := src
      dir := 0
      dirImages := 1
      flash := (List.range b.length).map fun k => (k, b.getD k 0)
      loadBuf := b
      loadEnded := false
      mbState := 1
      mbDone := some (0, [])
      mbLate := some (0x02, true, true) } }

theorem imageFault_onCrystal (src : BitVec 6) (b : List (BitVec 8)) (s : State) :
    imageFault (onCrystal src b s) 0 b = imageFault s 0 b := rfl

theorem sget_map_range {β : Type} (d : Nat → β) (f : Nat → β) {n a : Nat} (h : a < n) (k : Nat) :
    sget d ((List.range' k n).map fun i => (i, f i)) (k + a) = f (k + a) := by
  induction n generalizing k a with
  | zero => omega
  | succ n ih =>
    rw [List.range'_succ, List.map_cons, sget]
    cases a with
    | zero => exact if_pos rfl
    | succ a =>
      rw [if_neg (by omega), show k + (a + 1) = k + 1 + a by omega]
      exact ih (by omega) (k + 1)

theorem flashBytes_onCrystal (src : BitVec 6) {b : List (BitVec 8)} (s : State) {off n : Nat} (h : off + n ≤ b.length) :
    flashBytes (onCrystal src b s) off n = (b.drop off).take n := by
  refine List.ext_getElem ?_ fun i h1 h2 => ?_
  · rw [flashBytes, List.length_map, List.length_range, List.length_take, List.length_drop]
    omega
  · have hi : i < n := by
      rw [flashBytes, List.length_map, List.length_range] at h1
      exact h1
    have hget := sget_map_range Config.flashByte (fun k => b.getD k 0) (show off + i < b.length by omega) 0
    rw [← List.range_eq_range', Nat.zero_add] at hget
    simp only [flashBytes, List.getElem_map, List.getElem_range, List.getElem_take, List.getElem_drop]
    refine hget.trans ?_
    rw [List.getD_eq_getElem?_getD, List.getElem?_eq_getElem (by omega)]
    rfl

theorem flashImage_onCrystal (src : BitVec 6) {b : List (BitVec 8)} {s : State} (h : imageFault s 0 b = none) :
    flashImage (onCrystal src b s) 0 = b := by
  have hform := imageForm_of_noFault h
  simp only [imageForm, headerForm, Bool.and_eq_true, decide_eq_true_eq] at hform
  obtain ⟨⟨⟨⟨⟨⟨⟨⟨-, hmax⟩, hmin⟩, hlen⟩, -⟩, -⟩, -⟩, -⟩, -⟩ := hform
  have hoff : imgOff (onCrystal src b s) 0 = 0 := by
    rw [imgOff, show (onCrystal src b s).sec.dir = 0#512 from rfl, fld, BitVec.toNat_zero, Nat.zero_shiftRight, Nat.zero_mod]
  have hlength : packBytes (flashBytes (onCrystal src b s) (0 + 0x10) 8) = imgLen b := by
    rw [flashBytes_onCrystal src s (by omega)]
    rfl
  unfold flashImage
  rw [hoff, hlength]
  dsimp only
  rw [if_pos (by rw [decide_eq_true hmin, decide_eq_true hmax]; rfl), ← hlen, flashBytes_onCrystal src s (by omega), List.drop_zero,
    List.take_length]

/-- An image judged good that turns the crystal off takes the security state to that of reset. -/
theorem judgeImage_lost {b : List (BitVec 8)} {z : State} (hz : CrystalAlone z) (h : imageFault z 0 b = none)
    (hk : ¬ KeepsCrystal b) : (judgeImage 0 b z).2.sec.objects = 1 ∧ (judgeImage 0 b z).2.sec.mbRejected = false := by
  obtain ⟨e, he, ht, hx⟩ : ∃ e ∈ imgEntries b, sectType e = 1 ∧ xtalEnOf (sectBytes b e) = false := by
    simpa [KeepsCrystal] using hk
  obtain ⟨hobjects, hrejected, -⟩ := putSections_lose (b := b) (imgEntries b) z (.inl ⟨hz, e, he, ht, hx⟩)
  obtain ⟨-, hsilent⟩ := judgeImage_accepted h
  exact ⟨(congrArg Sec.objects hsilent).trans (congrArg (· + 1) hobjects), (congrArg Sec.mbRejected hsilent).trans hrejected⟩

theorem onCrystal_alone (src : BitVec 6) (b : List (BitVec 8)) (s : State) : CrystalAlone (onCrystal src b s) :=
  ⟨rfl, rfl, (by decide : (2 : BitVec 2) ≠ 0), (by decide : (0 : BitVec 2) ≠ 2)⟩

theorem signedKeepCrystal_of_larvaItems (h : Obligations.LarvaItemsComplete) : SignedKeepCrystal := by
  obtain ⟨-, -, -, himage, -⟩ := h
  intro s b hf
  by_contra hk
  have hflash : mailboxBoot (onCrystal 0 b s) = false := show bit (0 : BitVec 6) 0 = false by decide
  have hfault := (imageFault_onCrystal 0 b s).trans hf
  obtain ⟨-, hclaim⟩ := himage (onCrystal 0 b s) 0 rfl hflash rfl Nat.zero_lt_one
  have hnext := execImageVerify_next (s := onCrystal 0 b s) (i := 0) rfl hflash rfl Nat.zero_lt_one true
  rw [flashImage_onCrystal 0 hf] at hnext hclaim
  rw [hfault] at hclaim
  obtain ⟨t, hrun, -, hclaimed, -⟩ := hclaim
  rw [Host.Outcome.next.inj (hrun.symm.trans hnext)] at hclaimed
  obtain ⟨hobjects, -⟩ := judgeImage_lost (onCrystal_alone 0 b s) hfault hk
  exact absurd (hobjects.symm.trans hclaimed) (by decide)

/-- The first command's result shown, before the END_OBJECT that came with it begins. -/
def lateTaken (s : State) : State :=
  { mbResultShown 0 [] s with
    sec := { (mbResultShown 0 [] s).sec with
      mbRejected := true
      mbLate := none
      now := { s.sec.now with set := setBit s.sec.now.set 16 false } } }

theorem signedKeepCrystal_of_mailbox (h : Obligations.MailboxComplete) : SignedKeepCrystal := by
  obtain ⟨-, -, hlate, -⟩ := h
  intro s b hf
  by_contra hk
  obtain ⟨t, hrun, -, -, hrejected, -⟩ := hlate 0 [] 0x02 true true (onCrystal 1 b s) rfl rfl
  have hmail : mailboxBoot (lateTaken (onCrystal 1 b s)) = true := show bit (1 : BitVec 6) 0 = true by decide
  have hload : mbLoading (lateTaken (onCrystal 1 b s)) = true := by
    rw [mbLoading, hmail]
    rfl
  have hend : mbCommand 0x02 true (lateTaken (onCrystal 1 b s)) = _ := mbEndObject_came (who := .quoin) hload rfl rfl
  have hafter : mbAfter (mbResultShown 0 [] (onCrystal 1 b s)) = mbStart 0x02 true (lateTaken (onCrystal 1 b s)) := rfl
  have hidle : (lateTaken (onCrystal 1 b s)).sec.mbState ≠ 1 := show (2 : BitVec 2) ≠ 1 by decide
  rw [execMailboxComplete_next rfl, hafter, mbStart_begins hidle, hend] at hrun
  rw [← Host.Outcome.next.inj hrun] at hrejected
  have hfault : imageFault (objectTaken .quoin (lateTaken (onCrystal 1 b s))) 0 b = none := hf
  obtain ⟨-, hlost⟩ := judgeImage_lost (z := objectTaken .quoin (lateTaken (onCrystal 1 b s))) (onCrystal_alone 1 b s) hfault hk
  exact absurd (hlost.symm.trans hrejected) (by decide)

/-! ### The condition hangs on the signature check alone -/

/-- Where no signature verifies, no image is accepted. -/
theorem signedKeepCrystal_of_noSignature (h : ∀ key digest sig, Config.sigOk key digest sig = false) : SignedKeepCrystal := by
  intro s b hf
  have hsig : imageSig s b = false := h ..
  unfold imageFault at hf
  rw [imageForm_of_noFault hf, hsig] at hf
  cases hf

/-- Image 0 of an owner 0 up to its signature: a header, and one DEVCFG section of a record in range whose XTAL_EN is 0 (R495, R499). -/
def crystalOffBody : List (BitVec 8) :=
  unpackBytes 4 0x5A564932 ++ unpackBytes 1 0 ++ unpackBytes 1 1 ++ List.replicate 10 0 ++ unpackBytes 8 896 ++ List.replicate 8 0
    ++ unpackBytes 8 1 ++ unpackBytes 4 640 ++ unpackBytes 4 256 ++ List.replicate 16 0 ++ List.replicate 576 0
    ++ unpackBytes 4 0 ++ (List.replicate 4 (unpackBytes 4 700)).flatten ++ List.replicate 12 0 ++ unpackBytes 4 16 ++ List.replicate 220 0

/-- Its section's entry. -/
def crystalOffEntry : BitVec 256 := BitVec.ofNat 256 (objNat crystalOffBody 0x20 32)

/-- The image with a signature of zeros. -/
def crystalOffImage : List (BitVec 8) := crystalOffBody ++ List.replicate 2420 0

/-- A device whose owner's key is `key`. -/
def ownedBy (key : BitVec 10496) : State := { State.reset with sec := { State.reset.sec with ownerKey := key } }

theorem imageForm_crystalOff (key : BitVec 10496) : imageForm (ownedBy key) 0 crystalOffImage = true := by
  change imageForm State.reset 0 crystalOffImage = true
  decide +kernel

theorem imageFault_crystalOff {key : BitVec 10496}
    (h : Config.sigOk key (Config.sha3 crystalOffBody) (List.replicate 2420 0) = true) :
    imageFault (ownedBy key) 0 crystalOffImage = none := by
  have hbody : crystalOffImage.take (imgLen crystalOffImage) = crystalOffBody := by decide +kernel
  have htail : (crystalOffImage.drop (imgLen crystalOffImage)).take 2420 = List.replicate 2420 0 := by decide +kernel
  have hsig : imageSig (ownedBy key) crystalOffImage = true := by
    rw [imageSig, hbody, htail]
    exact h
  have hversion : ¬ objNat crystalOffImage 8 4 < (ownedBy key).sec.minVersion.toNat := Nat.not_lt_zero _
  have htables : ¬ (sectsOf crystalOffImage 3).length + b2n (ownedBy key).sec.decodeSect.isSome > 1 := by
    change ¬ (sectsOf crystalOffImage 3).length + b2n State.reset.sec.decodeSect.isSome > 1
    decide +kernel
  have hsection : sectsOf crystalOffImage 1 = [crystalOffEntry] := by decide +kernel
  have hrecord : devcfgForm ((crystalOffImage.drop (sectOff crystalOffEntry)).take 256) = true := by decide +kernel
  unfold imageFault
  rw [imageForm_crystalOff, hsig, if_neg (by decide), if_neg (by decide), if_neg hversion, if_neg htables, if_pos rfl, hsection]
  exact if_pos hrecord

/-- A signature of zeros that verifies over that image lets the crystal be turned off. -/
theorem not_signedKeepCrystal_of_signature {key : BitVec 10496}
    (h : Config.sigOk key (Config.sha3 crystalOffBody) (List.replicate 2420 0) = true) : ¬ SignedKeepCrystal := by
  intro hk
  have hentry : crystalOffEntry ∈ imgEntries crystalOffImage := by decide +kernel
  have hoff : xtalEnOf (sectBytes crystalOffImage crystalOffEntry) = false := by decide +kernel
  have hon := hk (ownedBy key) crystalOffImage (imageFault_crystalOff h) crystalOffEntry hentry (by decide +kernel)
  exact absurd (hoff.symm.trans hon) Bool.false_ne_true

/-! ### What the statements of the start-up and of the mailbox come to -/

/-- O47 comes to one condition: that no image which passes every check, its owner's signature among them, turns the crystal off. Where one
does, a device on the crystal alone loses its clock as the image takes effect, and with it the count of objects. Which signatures verify is a
free value of the model (`Config.sigOk`), so that the condition, and the statement with it, is neither provable nor refutable. -/
theorem larvaItemsComplete_iff : Obligations.LarvaItemsComplete ↔ SignedKeepCrystal := by
  refine ⟨signedKeepCrystal_of_larvaItems, fun h => ?_⟩
  unfold Obligations.LarvaItemsComplete
  refine ⟨larvaStart_completes, pllLock_completes, certVerify_completes, fun s i hr hm hi hd => ⟨imageVerify_unread hr hm hi hd, ?_⟩,
    fun x s => ⟨rfl, conLine_uart x s⟩, training_completes, chrysalisEnter_completes⟩
  rcases hf : imageFault s i (flashImage s i) with _ | ⟨code, sig⟩
  · exact imageVerify_accepted hr hm hi hd hf (h.image hf)
  · exact imageVerify_failed hr hm hi hd hf

/-- O48 comes to the same condition: an END_OBJECT that waits for a completion may accept such an image, and the loss of the clock then
empties SEC_MB_BUF and clears REJECTED. -/
theorem mailboxComplete_iff : Obligations.MailboxComplete ↔ SignedKeepCrystal := by
  refine ⟨signedKeepCrystal_of_mailbox, fun h => ?_⟩
  unfold Obligations.MailboxComplete
  refine ⟨fun who s hw hb => ⟨load_completes who s hw hb, endObject_certificate who s hw hb, fun i hl hr hi => ?_,
    endLoad_completes who s hw hb, decodeStatus_completes who s hw hb, getPubkey_completes who s hw hb, attest_completes who s hw hb,
    enrol_completes who s hw hb, run_completes who s hw hb⟩, fun who i op w s hi hw hb => ?_, mailboxComplete_late h,
    mailboxComplete_alone⟩
  · rcases hf : imageFault s i s.sec.loadBuf with _ | ⟨code, sig⟩
    · exact endObject_accepted hw hb hl hr hi hf (h.image hf)
    · exact endObject_failed hw hb hl hr hi hf
  · exact (exec_mailboxCommand s hi).trans (mbWrite_rejected hw hb op w)

end Sys2Proof.Machine
end
